-- ==== Sys2Proof/Word.lean ====
section
/-! DEFINITION. The word types of the BT1-W model and the sparse map that holds cloves, registers,
memory bytes and tables. Nothing here decides a meaning; the helpers that meanings use stand in
Machine/Bits.lean. -/
namespace Sys2Proof

/-- A byte (R7). -/
abbrev Byte := BitVec 8
/-- A set-up register (R8). -/
abbrev W32 := BitVec 32
/-- A scratchpad word's data, or a W44 container (R109, R157). -/
abbrev W64 := BitVec 64
/-- A 16-byte clove instruction (R82). -/
abbrev W128 := BitVec 128

/-- A sparse map from numbers: entries with strictly rising keys; a key that is not listed holds the
default the map's accessor names. -/
abbrev SMap (α : Type) := List (Nat × α)

end Sys2Proof
end

