-- ==== Sys2Proof/Syntax.lean ====
section
/-! DEFINITION. The commands of the BT1-W block: one constructor per row of spec/opcode_table.json, in
the table's order. The table gives no operand fields; the operands are the ones the rule of the row
needs (DESIGN CHOICE, log entry 1). Times, sensor readings, received frames and completions are
operands: they come from outside the block. -/
namespace Sys2Proof

/-- An upset of a scratchpad word, which its next read meets (R185): the clove's logical coordinates, the word, and
whether its check bits can no longer correct it. -/
structure Flip where
  x : Nat
  y : Nat
  word : Nat
  hard : Bool
  deriving DecidableEq, Repr

/-- A clove instruction as its sequencer delivers it: the issuing clove's logical coordinates (R13),
the 16-byte word (R82), whether that word carries the pepper mark (R239), and the scratchpad words that have been
upset by then (R185). -/
structure Issue where
  x : Nat
  y : Nat
  word : W128
  mark : Bool
  ups : List Flip
  deriving DecidableEq, Repr

/-- What a command's reads of HBM find: code words (device address div 64) that the code cannot correct, code words that
it corrected, and channels (stack × 32 + channel) of which the stack's on-die ECC reports an error (R241, R248). -/
structure HbmFinds where
  bad : List Nat
  fixed : List Nat
  onDie : List Nat
  deriving DecidableEq, Repr

/-- The clove that a message reaches, and the scratchpad words that have been upset by then (R185). -/
structure Landing where
  clove : Nat
  ups : List Flip
  deriving DecidableEq, Repr

/-- A barrier of a partition, and the cloves whose arrivals or waits reach its hub in one step (R236, R240). -/
structure Arrivals where
  bid : Nat
  srcs : List Nat
  deriving DecidableEq, Repr

/-- The step at which a queue's request arrives at its controller (R229), and the scratchpad words that have been upset by
then (R185). -/
structure ReqStep where
  arrival : Nat
  ups : List Flip
  deriving DecidableEq, Repr

/-- What an access to HBM finds besides uncorrectable code words: those that the code corrected, and channels of which the
stack's on-die ECC reports an error (R241, R248). -/
structure HbmMinor where
  fixed : List Nat
  onDie : List Nat
  deriving DecidableEq, Repr

/-- What reads HBM, by its number (a stream, an append, a call, a partition or a group), and what its reads find (R248). -/
structure HbmReader where
  id : Nat
  found : HbmFinds
  deriving DecidableEq, Repr

/-- What the training of a stack finds (R253, R254): channels that fail, and failed bridge wires by channel. -/
structure Trained where
  fail : W32
  wires : List (Nat × Nat)
  deriving DecidableEq, Repr

/-- A domain that comes up (R373), and what training finds where it is a stack (R254). -/
structure DomainUp where
  dom : Nat
  trained : Trained
  deriving DecidableEq, Repr

/-- The outcome of a channel's retraining, and how many bridge wires it has found failed (R252, R253). -/
structure Retrained where
  ok : Bool
  wires : Nat
  deriving DecidableEq, Repr

/-- Words of a fetched page that came marked, and the tier reads that failed, each with its cause (R261, R287). -/
structure FetchMarks where
  words : List Nat
  fails : List (Nat × Nat)
  deriving DecidableEq, Repr

/-- Where the word that fails on a link is (R218): in the n-th message in flight, oldest first; in a queue's memory
request; or on its way into a clove's scratchpad. -/
inductive LinkPlace where
  | mesh (n : Nat)
  | request (id : Nat)
  | landed (dst : Nat)
  deriving DecidableEq, Repr

/-- What self-test and training find (R251, R402, R407): physical rows by field; wires of links by field, seam and link;
failed bridge wires by stack and channel; channels by stack that fail their test; cumin pairs that fail theirs; and
whether firmware image A passes its check. -/
structure Findings where
  rows : List (Nat × Nat)
  wires : List (Nat × Nat × Nat)
  hbmWires : List (Nat × Nat)
  chans : List (Nat × Nat)
  pairs : List Nat
  imageA : Bool
  deriving DecidableEq, Repr

/-- A stage of start-up that reaches its limit (R402): the domains that have not come up, what was found, and the revision of
the firmware image that is loaded. -/
structure StageLimit where
  domains : List Nat
  found : Findings
  fwRev : W32
  deriving DecidableEq, Repr

/-- How a model's cache is split over modules, which is chosen per model (R289, R290): 0 not at all, 1 the head layout, 2
the position layout; the modules of the split, and this one's place among them. The spec gives the choice no register and
no packet field, so it comes with the load of the model's program set (DESIGN CHOICE, log entry 119). -/
structure Split where
  layout : Nat
  modules : Nat
  member : Nat
  deriving DecidableEq, Repr

/-- The ring of a PROGRAM_LOAD, and the layout of the model whose set it loads (R289, R290, R341). -/
structure SetLoad where
  ring : Nat
  split : Split
  deriving DecidableEq, Repr

/-- An array named by its gang's origin clove: arr false is A, true is B (R57). -/
structure ArrAt where
  x : Nat
  y : Nat
  arr : Bool
  deriving DecidableEq, Repr

/-- A hardware upset met by one vector or one drain (R74): in the clove at (dx, dy) of the gang the
partial sum of column col is changed by xor as it leaves the clove (kind false), or the broadcast
element of row col fails parity at its last tap (kind true). -/
structure Upset where
  dx : Nat
  dy : Nat
  col : Nat
  xor : W64
  parity : Bool
  deriving DecidableEq, Repr

/-- What strikes the block at a command of an array (R74, R185): upsets inside the gang, and scratchpad words. -/
structure Upsets where
  cells : List Upset
  words : List Flip
  deriving DecidableEq, Repr

/-- A master that gives orders (R325). -/
inductive Master where
  | safety | mgmt | attachA | attachB | monitor
  deriving DecidableEq, Repr

/-- How a PCIe read ended (R335). -/
inductive RdStatus where
  | good | poisoned | unsupported | aborted | timeout
  deriving DecidableEq, Repr

/-- Header fields of a received Vyngo frame that commands act on (R348). -/
structure Frame where
  port : Nat
  snode : Nat
  spart : Nat
  dpart : Nat
  gen : Nat
  psn : Nat
  apsn : Nat
  credit : Nat
  syn : Bool
  acknow : Bool
  marks : List Bool
  body : List Byte
  deriving DecidableEq, Repr

/-- A set-up order as it reaches the arbiter (R326): its master, a BAR0 offset (or a BAR2 offset for a
doorbell) and the value written. -/
structure Order where
  master : Master
  bar2 : Bool
  off : Nat
  value : W32
  deriving DecidableEq, Repr

/-- What a field's agent knows at a step (R377, R378): the modelled leakage, the dynamic power that the activity counters
estimate before calibration, and the measured power, in W. -/
structure FieldPower where
  field : Nat
  leak : Nat
  dyn : Nat
  meas : Nat
  deriving DecidableEq, Repr

/-- The commands of the block, one per row of the table. -/
inductive Instr where
  -- module inputs, power input and environment
  | modResetNLow
  | modResetNHigh
  | busbarGood
  | busbarBrownoutWarn (mv : Nat)
  | busbarWarnClear (mv : Nat)
  | powerLoss
  | clampLimit (mv : Nat) (i1 : Nat) (i2 : Nat)
  | openClamp (i1 : Nat) (i2 : Nat)
  | coolantSensorUpdate (inlet : Int) (outlet : Int) (flow : Nat)
  | coolantFlowReturn
  | flowSafetyTimeout
  | airSensorUpdate (temp : Int) (rh : Nat) (margin : Int)
  | stripTempUpdate (field : Nat) (strip : Nat) (temp : Int)
  | hbmTempUpdate (stack : Nat) (temp : Int)
  | fieldBrownoutWarn (field : Nat) (mv : Nat)
  | fieldBrownoutEnd (field : Nat) (mv : Nat) (us : Nat)
  | fieldOvercurrent (field : Nat) (mv : Nat)
  | phaseFail (field : Nat)
  | phaseSpareIn (field : Nat)
  -- array instructions and their progress
  | gangCfg (i : Issue)
  | load (i : Issue)
  | swap (i : Issue)
  | stream (i : Issue)
  | vectorResult (a : ArrAt) (upsets : Upsets)
  | drainDone (a : ArrAt) (upsets : Upsets)
  | passStallResume (a : ArrAt)
  -- special-function unit
  | sfuElem (i : Issue)
  | sfuBin (i : Issue)
  | sfuMoments (i : Issue)
  | sfuMerge (i : Issue)
  | sfuNorm (i : Issue)
  | sfuSmaxfin (i : Issue)
  | epiWrite (i : Issue)
  -- scratchpad regions and remote access
  | rgnSet (i : Issue)
  | pop (i : Issue)
  | drop (i : Issue)
  | remoteRead (i : Issue)
  | remoteWrite (i : Issue)
  | remoteSlot (i : Issue)
  | remoteUnbind (i : Issue)
  | remoteAccessArrival (src : Nat) (dst : Landing)
  | remoteAck (src : Nat) (dst : Nat)
  | grantArrival (src : Nat) (dst : Nat)
  | creditReturnArrival (src : Nat) (dst : Nat)
  | unbindArrival (src : Nat) (dst : Nat)
  | scrubRead (x : Nat) (y : Nat) (found : Nat)
  | scrubWriteback (x : Nat) (y : Nat)
  | scrubForcedSlot (x : Nat) (y : Nat) (bank : Nat) (found : Nat)
  | fldScrCtrlClrCnt (m : Master) (field : Nat) (value : W32)
  -- loop engine and dispatch
  | loop (i : Issue)
  | loopL0Iteration (x : Nat) (y : Nat)
  | loopL4Iteration (x : Nat) (y : Nat)
  | dispatchFetch (x : Nat) (y : Nat)
  | hotHoldExpiry (x : Nat) (y : Nat)
  -- fabric: queues, fences, barriers
  | sqSet (i : Issue)
  | sqPost (i : Issue)
  | fenceRemote (i : Issue)
  | fenceStore (i : Issue)
  | fenceAll (i : Issue)
  | fenceRelease (x : Nat) (y : Nat)
  | barrier (i : Issue)
  | barrierArrival (part : Nat) (bid : Arrivals)
  | sqRequestIssue (part : Nat) (queue : Nat) (arrival : ReqStep)
  | memRequestServe (stack : Nat) (now : Nat) (badWords : List Nat) (minor : HbmMinor)
  | sqLoadDelivery (part : Nat) (queue : Nat) (req : Nat)
  | sqTransferComplete (part : Nat) (queue : Nat)
  | linkWordFail (field : Nat) (seam : Nat) (link : Nat) (fails : Nat) (place : LinkPlace) (word : Nat)
  -- HBM and slower tier
  | hbmCorrectedWriteback (stack : Nat)
  | patrolRead (stack : Nat) (outcome : Nat)
  | channelRetrain (stack : Nat) (chan : Nat)
  | memEpochCtrlGo (m : Master) (value : W32)
  | hbmEpoch (stack : Nat) (trained : Trained)
  | prtHbmWindowWrite (m : Master) (off : Nat) (value : W32)
  | windowChangeEffect (part : Nat) (win : Nat)
  | memSpillEntryWrite (m : Master) (off : Nat) (value : W32)
  | tierCompletion (tag : Nat) (status : RdStatus) (data : List Byte)
  | tierTimeout (tag : Nat)
  -- KV cache
  | pageTranslation (part : Nat) (stream : HbmReader)
  | pin (part : Nat) (frame : Nat)
  | unpin (part : Nat) (frame : Nat)
  | frameSpill (part : HbmReader)
  | frameSpillDone (part : Nat) (frame : Nat) (ok : Bool)
  | frameFetch (part : Nat) (frame : Nat)
  | frameFetchDone (part : Nat) (frame : Nat) (data : List Byte) (marked : FetchMarks)
  | readStreamVisit (part : Nat) (stream : HbmReader)
  | kvScatter (part : Nat) (ring : Nat)
  | appendColumnAccepted (part : Nat) (append : HbmReader)
  | prtKvCtrlEn (m : Master) (part : Nat) (value : W32)
  | fldKvwCtrlClr (m : Master) (field : Nat) (value : W32)
  -- serving engine
  | prefillSubmit (part : Nat) (ring : Nat)
  | prefixRegister (part : Nat) (ring : Nat)
  | prefixRelease (part : Nat) (ring : Nat)
  | adapterLoad (part : Nat) (ring : Nat)
  | pause (part : Nat) (ring : Nat)
  | resume (part : Nat) (ring : Nat)
  | cancel (part : Nat) (ring : Nat)
  | exportRoute (part : Nat) (ring : Nat)
  | layerChunkLaunch (group : HbmReader)
  | layerChunkDone (group : Nat) (us : Nat)
  | firstTokenSample (group : Nat) (member : Nat) (logits : List W32)
  | prtSrvCtrlEn (m : Master) (part : Nat) (value : W32)
  | prtSrvQuotaWrite (m : Master) (part : Nat) (value : W32)
  -- host interface
  | sqTail (m : Master) (part : Nat) (ring : Nat) (value : W32)
  | cqHead (m : Master) (part : Nat) (ring : Nat) (value : W32)
  | descriptorFetch (part : Nat)
  | completionRecordWrite (part : Nat) (ring : Nat)
  | msiXHoldoffExpiry (part : Nat) (ring : Nat)
  | statusPageWrite (page : Nat) (measW : Nat) (energyMj : Nat)
  | weightLoad (part : Nat) (ring : Nat)
  | programLoad (part : Nat) (ring : SetLoad)
  | hintHeavy (part : Nat) (ring : Nat)
  | fence (part : Nat) (ring : Nat)
  | collectiveBind (part : Nat) (ring : Nat)
  | messageTimeEnd (orders : List Order)
  | hifOwnWrite (m : Master) (value : W32)
  | prtGroupWrite (m : Master) (part : Nat) (value : W32)
  | prtLockSet (m : Master) (part : Nat) (value : W32)
  | prtSqCfgEn (m : Master) (part : Nat) (ring : Nat) (value : W32)
  | prtCqCfgEn (m : Master) (part : Nat) (ring : Nat) (value : W32)
  | attachLinkChange (b : Bool) (rate : Nat) (width : Nat) (flit : Bool)
  | attachPowerState (b : Bool) (d3 : Bool)
  -- Vyngo network
  | claim (id : Nat) (uid : BitVec 128) (port : Nat)
  | defend (id : Nat) (uid : BitVec 128) (port : Nat)
  | ack (f : Frame)
  | credit (f : Frame)
  | coll (f : Frame)
  | tierRdata (f : Frame)
  | tierWack (f : Frame)
  | mirrorCheck (f : Frame)
  | reservedFrame (port : Nat)
  | vngNodeClaim (m : Master) (value : W32)
  | claimResend
  | claimListenEnd
  | claimBackoffEnd
  | defendPeriodic
  | portLinkChange (port : Nat) (up : Bool)
  | laneFailing (port : Nat) (lane : Nat)
  | retrainWindow (port : Nat) (lane : Nat) (ok : Bool)
  | ackTimer (flow : Nat)
  | resendTimer (flow : Nat) (psn : Nat)
  | flowLost (flow : Nat)
  | flowClose (flow : Nat)
  | exportSend (group : HbmReader)
  | prtVngCallen (m : Master) (part : Nat) (value : W32)
  | collPieceSend (part : Nat) (call : HbmReader)
  | collFail (part : Nat) (call : Nat) (rank : Nat)
  | mirrorTimeout
  | vngMirrorBind (m : Master) (value : W32)
  | prtVngFlowqWrite (m : Master) (part : Nat) (value : W32)
  | prtVngGrploEn (m : Master) (part : Nat) (value : W32)
  -- power manager
  | budgetUpdate (mv : Nat) (est : Nat) (meas : Nat)
  | powerAgentTick (p : FieldPower) (asked : Nat)
  | calibration (field : Nat) (meas : Nat) (leak : Nat) (dyn : Nat)
  | prtPwrStripReq (m : Master) (part : Nat) (c : Nat) (value : W32)
  | stripDownStart (field : Nat) (strip : Nat)
  | domainUpDone (dom : DomainUp)
  | domainDownDone (dom : Nat)
  | railTargetReached (field : Nat)
  | ageingSweep (field : Nat) (trim : Nat)
  | setAllot (allot : Nat) (lease : Nat)
  | leaseExpiry
  | hintCheck (group : Nat) (hint : Nat)
  | hintBallastTimeout (group : Nat)
  | hintDeferExpiry (group : Nat)
  | throttleEventClose (reason : Nat) (scope : Nat) (depth : Nat)
  | pwrCtrlClr (m : Master) (value : W32)
  -- start-up, reset and repair
  | startupStageDone (found : Findings) (fwRev : W32)
  | startupStageLimit (limit : StageLimit)
  | prtResetGo (m : Master) (part : Nat)
  | partitionResetDone (part : Nat)
  | prtResetZero (m : Master) (part : Nat)
  | zeroisingClearDone (part : Nat)
  | glbReset (m : Master) (value : W32)
  | glbMapCtrlGo (m : Master) (value : W32)
  | mapEpoch
  | repairMapWrite (settings : Bool)
  | lockstepDivergence (pair : Nat)
  | watchdogExpiry (pair : Nat)
  | pairRestartDone (pair : Nat) (ok : Bool)
  | heartbeatLoss
  -- errors, gates and logs
  | requestAbort (group : Nat)
  | abortTimeout (group : Nat)
  | stall (group : Nat)
  | gateTrailerSend (part : Nat)
  | gateReopen (part : Nat)
  | plogWrite
  | errAlertClear (m : Master) (value : W32)
  -- management bus
  | getId
  | getStatus (off : Nat) (len : Nat)
  | getEnv
  | setGrade (grade : Nat)
  | setNode (want : Nat)
  | setMonkey (key : BitVec 256)
  | getLast
  | regRead (off : Nat) (count : Nat)
  | regWrite (off : Nat) (value : W32)
  | domain (kind : Nat) (index : Nat) (on : Nat)
  | pairReset (pair : Nat)
  | takeover
  | moduleReset (key : Nat)
  | logRead (src : Nat) (index : Nat) (count : Nat)
  | assignAddress (udid : BitVec 128) (addr : Nat)
  | prepareToArp
  | resetDevice (directed : Option Nat)
  | getUdid (directed : Option Nat)
  | alertResponseAddress (wins : Bool)
  | notifyArpMaster (lost : Bool)
  | smbusClockTimeout
  -- Giquemet monitor
  | monHelp
  | monId
  | monStep
  | monRd (off : Nat) (n : Nat)
  | monPage (page : Nat) (off : Nat) (len : Nat)
  | monEnv
  | monLog (src : Nat) (index : Nat) (n : Nat)
  | monBaud (rate : Nat)
  | monUnlock (resp : Option W32)
  | monLock
  | monWr (off : Nat) (value : W32)
  | monResetModule
  | monResetPair (pair : Nat)
  | monTakeover
  | baudRevert
  | monitorIdleLock
  | challengeExpiry
  | unlockLockoutEnd
  -- rows added after the table's families
  | fldIntCtrlClr (m : Master) (field : Nat) (value : W32)
  | registerWrite (m : Master) (off : Nat) (value : W32)
  | hostReadCompletion (tag : Nat) (status : RdStatus) (data : List Byte)
  | hostReadTimeout (tag : Nat)
  | channelRetrainingDone (stack : Nat) (chan : Nat) (result : Retrained)
  | plogSectorEraseDone
  | lossOfBothServiceBlocks
  | unknownOpc (opc : Nat)
  | bar0AccessError (m : Master) (off : Nat) (size : Nat) (write : Bool)
  | busFree (lost : Bool)
  deriving DecidableEq, Repr

end Sys2Proof
end

