-- ==== Sys2Proof/Decode.lean ====
section
/-! DEFINITION. The command that a word of the table's bits spells: spec/opcode_table.json gives no row
any bits, so no word spells a command. -/
namespace Sys2Proof

/-- The command spelled by the nbits low bits of w: none, as the table gives bits to no row. -/
def decodeTableWord (_nbits _w : Nat) : Option Instr := none

end Sys2Proof
end

