-- ==== Sys2Proof/Machine/Bits.lean ====
section
/-! DEFINITION. Bit fields, byte order and checksums (R7), and the sparse maps that hold the machine's
tables: strictly rising keys, one entry per key. -/
namespace Sys2Proof

/-! ### Bit fields and byte order (R7) -/

/-- The field of n bits from bit lo up. -/
def bitField (w lo n : Nat) : Nat := (w >>> lo) % 2 ^ n

/-- w with the field of n bits from bit lo up replaced by the low bits of v. -/
def setBitField (w lo n v : Nat) : Nat :=
  w - bitField w lo n * 2 ^ lo + v % 2 ^ n * 2 ^ lo

/-- Bits [hi:lo] of a clove instruction (R7). -/
def fieldOf (w : W128) (hi lo : Nat) : Nat := bitField w.toNat lo (hi + 1 - lo)

/-- Bit n of a clove instruction. -/
def bitOf (w : W128) (n : Nat) : Bool := w.getLsbD n

/-- Bits [hi:lo] of a 32-bit register (R7). -/
def regField (w : W32) (hi lo : Nat) : Nat := bitField w.toNat lo (hi + 1 - lo)

/-- A register with bits [hi:lo] replaced. -/
def regWith (w : W32) (hi lo v : Nat) : W32 := BitVec.ofNat 32 (setBitField w.toNat lo (hi + 1 - lo) v)

/-- A number of n bits read as two's complement. -/
def signedOf (n v : Nat) : Int := if v < 2 ^ (n - 1) then v else (v : Int) - 2 ^ n

/-- The low n bits of a two's complement number. -/
def ofSigned (n : Nat) (v : Int) : Nat := (v % (2 ^ n : Nat)).toNat

/-- Bytes, least significant first, as a number (R7). -/
def leNat : List Byte → Nat
  | [] => 0
  | b :: bs => b.toNat + 256 * leNat bs

/-- The n low bytes of a number, least significant first (R7). -/
def leBytes : Nat → Nat → List Byte
  | 0, _ => []
  | n + 1, v => BitVec.ofNat 8 v :: leBytes n (v / 256)

/-- n bytes from offset off of a structure, as a number; bytes past its end read 0. -/
def leAt (bs : List Byte) (off n : Nat) : Nat := leNat ((bs.drop off).take n)

/-- A list of bytes extended with zeros, or cut, to n bytes. -/
def padTo (n : Nat) (bs : List Byte) : List Byte :=
  bs.take n ++ List.replicate (n - bs.length) 0

/-- Bytes with the piece p put at offset off. -/
def putAt (bs : List Byte) (off : Nat) (p : List Byte) : List Byte :=
  bs.take off ++ p ++ bs.drop (off + p.length)

/-- A Bool as a number. -/
def b2n (b : Bool) : Nat := if b then 1 else 0

/-- An entry put into a sorted list before the first that does not come before it. -/
def insertBy {α : Type} (le : α → α → Bool) (a : α) : List α → List α
  | [] => [a]
  | b :: l => if le a b then a :: b :: l else b :: insertBy le a l

/-- A list sorted by an order, entries of equal rank in the order they stood. -/
def sortBy {α : Type} (le : α → α → Bool) : List α → List α
  | [] => []
  | a :: l => insertBy le a (sortBy le l)

/-- ⌈a / b⌉. -/
def ceilDiv (a b : Nat) : Nat := (a + b - 1) / b

/-- a + 1, held at most at m. -/
def satInc (m a : Nat) : Nat := if a < m then a + 1 else m

/-- One bit of the CRC-64/ECMA-182 register (R267): polynomial 0x42F0E1EBA9EA3693, bits not
reflected. -/
def crcShift (c : Nat) : Nat :=
  if c < 2 ^ 63 then (c * 2) % 2 ^ 64 else ((c * 2) % 2 ^ 64) ^^^ 0x42F0E1EBA9EA3693

/-- One byte taken into the CRC-64 register (R267). -/
def crcByte (c : Nat) (b : Byte) : Nat :=
  crcShift (crcShift (crcShift (crcShift (crcShift (crcShift (crcShift (crcShift
    (c ^^^ (b.toNat <<< 56)))))))))

/-- CRC-64/ECMA-182 over bytes in order, from 0 and with no final change (R267, R307). -/
def crc64 (bs : List Byte) : Nat := bs.foldl crcByte 0

/-! ### Sparse maps -/

/-- The entry of a key, if it is listed. -/
def SMap.at? {α : Type} : SMap α → Nat → Option α
  | [], _ => none
  | (k, v) :: m, i => if k = i then some v else SMap.at? m i

/-- The entry of a key, or the default where it is not listed. -/
def SMap.atD {α : Type} (m : SMap α) (i : Nat) (d : α) : α := (m.at? i).getD d

/-- The map without any entry for a key. -/
def SMap.del {α : Type} : SMap α → Nat → SMap α
  | [], _ => []
  | (k, v) :: m, i => if k = i then SMap.del m i else (k, v) :: SMap.del m i

/-- The map with the entry of a key set; keys stay strictly rising. -/
def SMap.put {α : Type} : SMap α → Nat → α → SMap α
  | [], i, a => [(i, a)]
  | (k, v) :: m, i, a =>
    if i < k then (i, a) :: (k, v) :: m else if i = k then (i, a) :: m else (k, v) :: SMap.put m i a

/-- The map with a key's value set, an entry equal to the default being left out. -/
def SMap.set {α : Type} [DecidableEq α] (m : SMap α) (i : Nat) (d a : α) : SMap α :=
  if a = d then m.del i else m.put i a

/-- The map with the values of consecutive keys set from i on. -/
def SMap.setAll {α : Type} [DecidableEq α] (m : SMap α) (d : α) : Nat → List α → SMap α
  | _, [] => m
  | i, a :: as => SMap.setAll (m.set i d a) d (i + 1) as

/-- Keys strictly rise from at least b on. -/
def SMap.rising {α : Type} : Nat → SMap α → Bool
  | _, [] => true
  | b, (k, _) :: m => decide (b ≤ k) && SMap.rising (k + 1) m

/-- The canonical form: strictly rising keys, no entry equal to the default. -/
def SMap.canon {α : Type} [DecidableEq α] (d : α) (m : SMap α) : Bool :=
  SMap.rising 0 m && m.all (fun e => decide (e.2 ≠ d))

end Sys2Proof
end

