-- ==== Sys2Proof/Config.lean ====
section
/-! DEFINITION. What an implementation or a unit fixes, and the free values: constants with no body, so
that no proof can see a value. Each is named in a log entry of notes/assumptions. -/
namespace Sys2Proof

/-- The 128-bit unique device identifier of the unit (R41); log entry 3. -/
opaque Config.uid : BitVec 128
/-- The 12 serial-number characters of the unit (R41); log entry 3. -/
opaque Config.serial : BitVec 96
/-- Horuek's PCI vendor ID, which the spec names but does not give (R322, R440); log entry 3. -/
opaque Config.vendorId : BitVec 16
/-- A free value drawn by number: the n-th draw of the machine (R352, R449); log entry 4. -/
opaque Config.freeValue : Nat → BitVec 64
/-- The W44 result of the function of a slot at an input inside its domain, for the functions whose A1 programs the spec
does not list: it counts only within the 1 ulp bound of R135; log entry 5. -/
opaque Config.fnValue : Nat → BitVec 64 → BitVec 64
/-- The positional part of a model's cache, in units of 32 elements, which no table of the spec carries
(R265, Table 12.9); log entry 7. -/
opaque Config.posUnits : Nat → Nat
/-- The share of the granted power, in W, that the module power manager gives a field as its budget (R377, R387):
field, power granted, and the module's count of free values; log entry 8. -/
opaque Config.fieldBudget : Nat → Nat → Nat → Nat
/-- The setpoint, in 10^6 steps per s, that a field with an ageing trim reaches at a rail voltage in mV (R384, R385):
field, trim, voltage; log entry 8. -/
opaque Config.rateAt : Nat → Nat → Nat → Nat
/-- The lowest rail voltage, in mV, at which a field with an ageing trim reaches a setpoint (R384, R385): field, trim,
setpoint; log entry 8. -/
opaque Config.railFor : Nat → Nat → Nat → Nat
/-- The interface word of the agent's UDID: SMBus version 3 and no other protocol bit, whose coding the SMBus
specification gives (R440); log entry 3. -/
opaque Config.smbusInterface : BitVec 16
/-- What a byte of an erased persistent log entry reads as (R435); log entry 41. -/
opaque Config.erasedByte : BitVec 8
/-- The repair map's factory image: retired physical rows of each field (R406); log entry 3. -/
opaque Config.factoryRetired : Nat → List Nat

end Sys2Proof
end

