-- ==== Sys2Proof/Machine/State.lean ====
section
/-! DEFINITION. The state of the BT1-W as plain data: registers by BAR0 offset, cloves, field hubs,
partitions, HBM, the host interface, the serving engine, the Vyngo network, power, errors and
management. Each field's docstring names the rule that gives it, its width and its reset value; where
the spec gives no reset value the value stands under log entry 2 (DESIGN CHOICE). -/
namespace Sys2Proof.Machine

/-- Why a machine stops with a fault. No meaning of this model answers one: every fault the spec names
is a log record, a halted engine and the containment of its class, all effects on State (R420). -/
inductive Fault where
  /-- Raised by no command: kept so that the type has a name for a broken table; safe. -/
  | noEffect (why : String)
  deriving DecidableEq, Repr

/-- Why a command is refused. -/
inductive Refusal where
  /-- A command whose arm has no meaning yet, by its mnemonic; safe. -/
  | notModelled (mnemonic : String)
  deriving DecidableEq, Repr

/-! ### Clove state -/

/-- A scratchpad word. -/
structure SWord where
  /-- R157: 64 data bits; reset 0 (R407, R190). -/
  data : W64
  /-- R157: the pepper bit; reset 0 (R407, R190). -/
  mark : Bool
  /-- R157, R185: what the 8 check bits say of the word at its next read: 0 valid, 1 correctable,
  2 uncorrectable; reset 0 (R190: valid check bits). -/
  ecc : Nat
  deriving DecidableEq, Repr

/-- A circular region (R168 to R176). Reset: unset (R168). -/
structure Region where
  /-- R168: 1 bit, the region is set; reset 0 (unset). -/
  set : Bool
  /-- R169: BASE, 12 bits; reset 0 (DESIGN CHOICE, 2). -/
  base : Nat
  /-- R169: SLOTW, 13 bits; reset 0 (DESIGN CHOICE, 2). -/
  slotw : Nat
  /-- R169: SLOTS, 8 bits; reset 0 (DESIGN CHOICE, 2). -/
  slots : Nat
  /-- R169: RDMODE, 2 bits; reset 0 (DESIGN CHOICE, 2). -/
  rdmode : Nat
  /-- R169: STRIDE, 8 bits; reset 0 (DESIGN CHOICE, 2). -/
  stride : Nat
  /-- R169: MANUAL, 1 bit; reset 0 (DESIGN CHOICE, 2). -/
  manual : Bool
  /-- R169: CRED, 1 bit; reset 0 (DESIGN CHOICE, 2). -/
  cred : Bool
  /-- R169: PKIND, 1 bit; reset 0 (DESIGN CHOICE, 2). -/
  pkind : Bool
  /-- R169: the producer clove's module index, or the stream queue number; reset 0 (DESIGN CHOICE, 2). -/
  prod : Nat
  /-- R169: PCH, 3 bits; reset 0 (DESIGN CHOICE, 2). -/
  pch : Nat
  /-- R168: HEAD, slot number; reset 0 (R170). -/
  head : Nat
  /-- R168: TAIL, slot number; reset 0 (R170). -/
  tail : Nat
  /-- R168: FILL, 0 to SLOTS; reset 0 (R170). -/
  fill : Nat
  /-- R173: vectors or words already written into slot HEAD; reset 0 (DESIGN CHOICE, 2). -/
  wpos : Nat
  /-- R174: vectors or words already read from slot TAIL (or from TAIL on, when MANUAL); reset 0
  (DESIGN CHOICE, 2). -/
  rpos : Nat
  /-- R183: 1 bit, a refused grant stops slot writes until the region is SET again; reset 0. -/
  stopped : Bool
  /-- R85, R171: words of slot HEAD that the present writer gathers and has not written, by offset: the lanes so far
  and their mark; reset none. -/
  held : SMap (W64 × Bool)
  deriving DecidableEq, Repr

/-- An outbound credit channel (R183). Reset: unbound (R189). -/
structure Channel where
  /-- R183: bound target clove (module index); reset none. -/
  target : Option Nat
  /-- R183: bound target region; reset 0. -/
  rgn : Nat
  /-- R183: SLOTW of the bound region; reset 0. -/
  slotw : Nat
  /-- R183: credits, 0 to 255; reset 0. -/
  credits : Nat
  deriving DecidableEq, Repr

/-- One register set of one array in one clove (R44, R51, R84). -/
structure RegSet where
  /-- R44: the 256 data cells, raw elements or W44 containers, 64 bits each; reset 0 (R53). -/
  cells : SMap W64
  /-- R44: the second accumulators of an output-stationary set in MXFP4, 64 bits each; reset 0 (R53). -/
  cells2 : SMap W64
  /-- R44, R69, R70: the corner cell's W44 register, the difference of its latest comparison; reset 0 (R53). -/
  corner : W64
  /-- R44: block scales by cell column, 8 bits each; reset 0 (R53). -/
  scales : SMap Byte
  /-- R98: cells whose element or scale carries the pepper mark; reset none. -/
  marks : SMap Bool
  /-- R69, R70: checksum column registers, 16 of 64 bits; reset 0 (R53). -/
  ckCol : SMap W64
  /-- R70: checksum row registers, 16 of 64 bits; reset 0 (R53). -/
  ckRow : SMap W64
  /-- R72: copied data column in the checksum column, 16 of 64 bits; reset 0. -/
  shadow : SMap W64
  /-- R72: which data column is shadowed, 4 bits; reset 0. -/
  shadowCol : Nat
  /-- R85: live bits of the clove's 16 logical rows; reset all live (R84). -/
  rows : BitVec 16
  /-- R85: live bits of the clove's 16 logical columns; reset all live (R84). -/
  cols : BitVec 16
  /-- R74, R232: the mask bitmap was marked, or a broadcast of an accumulation failed parity, so every
  result of the set is marked; reset 0. -/
  maskMark : Bool
  /-- R84: recorded mode, none while the set counts as loaded in every mode; reset none. -/
  mode : Option Nat
  /-- R84: recorded format, none while it counts as every format; reset none. -/
  fmt : Option Nat
  /-- R71: every product accumulated so far had INT8 operands; reset 1. -/
  exact : Bool
  /-- R72: an operation that is checked by shadowing has been accumulated; reset 0. -/
  shadowed : Bool
  deriving DecidableEq, Repr

/-- A pass or a drain that an array has started and not finished (R80, R88, R55). -/
structure Work where
  /-- R55: true for an output-stationary drain. -/
  drain : Bool
  /-- R82: the STREAM or SWAP word. -/
  word : W128
  /-- R52: the register set the work uses (false S0, true S1). -/
  setIdx : Bool
  /-- R86: vectors (or drained rows) already retired. -/
  next : Nat
  /-- R123: pass sequence number, 28 bits. -/
  seq : BitVec 28
  /-- R122: PRT_SROUND_SEED sampled at start (R459). -/
  seed : W32
  /-- R122: generators of the exit cloves by member number, 32 bits each. -/
  rng : SMap W32
  /-- R74: a check failed, so this and every later vector is marked. -/
  failed : Bool
  /-- R97: the pass is stalled. -/
  stalled : Bool
  /-- R177: the issue number of its instruction. -/
  owner : Nat
  deriving DecidableEq, Repr

/-- One of the two arrays of a clove (R42). -/
structure ArrayUnit where
  /-- R83: SHAPE, 2 bits; reset 0 (solo, R57). -/
  shape : Nat
  /-- R83: FORM, 2 bits; reset 0 (R57). -/
  form : Nat
  /-- R83: logical x of the gang origin; reset the clove itself (R57). -/
  ox : Nat
  /-- R83: logical y of the gang origin; reset the clove itself (R57). -/
  oy : Nat
  /-- R44: register set S0; reset zero (R53). -/
  s0 : RegSet
  /-- R44: register set S1; reset zero (R53). -/
  s1 : RegSet
  /-- R51: the foreground set (false S0, true S1); reset S0 (DESIGN CHOICE, 2). -/
  fg : Bool
  /-- R72: number of LOADs since the last partition reset or configuration change; reset 0. -/
  loads : Nat
  /-- R123: pass sequence number, 28 bits; reset 0. -/
  seq : BitVec 28
  /-- R80: started and unfinished passes and drains, oldest first, held at the gang's origin; reset
  none (R53). -/
  work : List Work
  /-- R81: issue halted by a fault; reset 0. -/
  halted : Bool
  deriving DecidableEq, Repr

/-- A scoreboard entry (R177): a range with a write pending. -/
structure SbEntry where
  /-- R157: the engine (0 array A, 1 array B, 2 SFU, 3 remote unit). -/
  engine : Nat
  /-- R177: the range as one or two runs of words, start and length (two where it wraps in a region). -/
  runs : List (Nat × Nat)
  /-- R177: the instruction that holds it (its issue number). -/
  owner : Nat
  /-- R177: for slots of a region, its number and the slot after the last that this writer will fill. -/
  next : Option (Nat × Nat)
  deriving DecidableEq, Repr

/-- An SFU instruction that has started and not finished (R128, R143). -/
structure SfuWork where
  /-- R142: the instruction. -/
  op : Issue
  /-- R177: its issue number. -/
  owner : Nat
  /-- R124: the instruction's generator, 32 bits. -/
  rng : W32
  /-- R143: rows or entry pairs finished. -/
  row : Nat
  /-- R143: words, or elements of a 16-element row, of SRC read for the present row. -/
  a : List (W64 × Bool)
  /-- R143: the same for SRC2; a single BCAST row is kept here. -/
  b : List (W64 × Bool)
  /-- R143: words of finished rows that wait for space in DST; none marks a word left unwritten. -/
  out : List (Option (W64 × Bool))
  deriving DecidableEq, Repr

/-- An instruction that waits at issue (R53, R55, R173, R178, R183, R234): its engine and its word. -/
structure Waiting where
  /-- R157: the engine (0 array A, 1 array B, 2 SFU, 3 remote unit, 4 loop engine, 5 region control). -/
  engine : Nat
  /-- The delivered instruction. -/
  op : Issue
  /-- R177: its issue number. -/
  no : Nat
  /-- R209, R215: the clove whose loop engine generated it, with its L3 index. -/
  gen : Option (Nat × Nat)
  deriving DecidableEq, Repr

/-- One iteration of a level as the loop engine visits it (R200, R201, R205). -/
structure Visit where
  /-- R195: iteration index in M. -/
  m : Nat
  /-- R195: iteration index in N. -/
  n : Nat
  /-- R195: iteration index in K. -/
  k : Nat
  /-- R205: first and last of the K iterations at this level that run. -/
  kf : Bool
  kl : Bool
  /-- R205: first and last of the N iterations at this level that run. -/
  nf : Bool
  nl : Bool
  deriving DecidableEq, Repr

/-- Work that a loop has still to do, with the visits of the levels above, lowest first. Phases: 0
product 1, 1 row function, 2 product 2, 3 all entries (R214). -/
inductive LItem where
  /-- R200: the iterations of a level; level 0 is one pass. -/
  | level (l : Nat) (ctx : List Visit) (ph : Nat)
  /-- R214: the phase-1 entries of a unit, once. -/
  | once (ctx : List Visit)
  /-- R204: the start of an L4 iteration, which posts its transfers. -/
  | chunk (ctx : List Visit)
  /-- R211: a fetch from the dispatch counter. -/
  | fetch (ctx : List Visit) (ph : Nat)
  deriving DecidableEq, Repr

/-- A loop program in the engine's own store (R197). -/
structure LoopRun where
  /-- R196: the LOOP word. -/
  word : W128
  /-- R197: the copied header, level entries and body, as bytes. -/
  prog : List Byte
  /-- R197: the copied order tables, by level. -/
  otabs : SMap (List Nat)
  /-- R204: how often each body entry has issued since the LOOP. -/
  issued : SMap Nat
  /-- R201, R214: what is still to be done, in order. -/
  todo : List LItem
  /-- R211, R215: the present L3 iteration's index. -/
  l3 : Nat
  /-- R213: a fetch is held hot. -/
  held : Bool
  /-- R214: of a unit at L3 whose iterations are dispatched, those that this gang has been granted so far; and with SKEW
  the granted unit whose phases 1 and 2 are still to come. -/
  unit : List Visit
  prev : List Visit
  /-- R215: L3 iterations granted and not complete when the loop stopped or its gang was quarantined. -/
  incomplete : List Nat
  /-- R197: the loop has issued its last instruction or has stopped. -/
  done : Bool
  deriving DecidableEq, Repr

/-- A clove (R42 to R44, R157 to R193, R127 to R130). -/
structure Clove where
  /-- R157: the 4,096 scratchpad words; reset zero (R407). -/
  scratch : SMap SWord
  /-- R168: the 8 regions; reset unset (R168). -/
  regions : SMap Region
  /-- R183: the 8 outbound channels; reset unbound (R189). -/
  channels : SMap Channel
  /-- R42: array A; reset as R57 and R53 state. -/
  arrA : ArrayUnit
  /-- R42: array B; reset as R57 and R53 state. -/
  arrB : ArrayUnit
  /-- R130: the 63 epilogue descriptors of 256 bits; reset 0 (R130). -/
  epi : SMap (BitVec 256)
  /-- R124: SFU sequence number, 28 bits; reset 0 (R124). -/
  sfuSeq : BitVec 28
  /-- R128: SFU issue halted; reset 0. -/
  sfuHalted : Bool
  /-- R192: remote-access unit halted; reset 0. -/
  remHalted : Bool
  /-- R209: loop engine halted; reset 0. -/
  loopHalted : Bool
  /-- R192: issue of region instructions (RGN) halted; reset 0. -/
  seqHalted : Bool
  /-- R177: scoreboard entries in use, at most 8 per engine; reset none (R189). -/
  sb : List SbEntry
  /-- R128: SFU instructions started and unfinished, oldest first; reset none (R189). -/
  sfu : List SfuWork
  /-- R53, R97: instructions that wait at issue, oldest first; reset none. -/
  waiting : List Waiting
  /-- R175: started instructions that use a region, oldest first: issue number, region, and whether it
  writes it; reset none (R189). -/
  tickets : List (Nat × Nat × Bool)
  /-- R234: a pending FENCE or BARRIER: bit 0 REMOTE, bit 1 STORE, bit 2 ALL; reset 0. -/
  fences : BitVec 3
  /-- R234: its issue number: earlier instructions are not held by it, and it waits for their writes; reset 0. -/
  fenceNo : Nat
  /-- R234: transfers numbered below were posted before it; reset 0. -/
  fenceXfer : Nat
  /-- R236: the barrier and phase number that the clove waits for; reset none. -/
  bwait : Option (Nat × Nat)
  /-- R236: a BARRIER arrival waiting for its FENCE.ALL: barrier, BCOUNT, wait; reset none. -/
  barr : Option (Nat × Nat × Bool)
  /-- R234: remote writes and SLOTs sent and not acknowledged; reset 0. -/
  unacked : Nat
  /-- R234: REMOTE READs issued and not completed; reset 0. -/
  reads : Nat
  /-- R187: next word of the scrub sweep, 12 bits; reset 0 (DESIGN CHOICE, 2). -/
  scrubAt : Nat
  /-- R188: when the present sweep began, in ns; reset 0 (DESIGN CHOICE, 2). -/
  sweepFrom : Nat
  /-- R185, R187: write-backs queued (at most 4) and the scrub's own, by word address; reset none. -/
  scrubQ : List Nat
  /-- R74: mismatches of array A, 8 bits, saturating; reset 0. -/
  mismA : Nat
  /-- R74: mismatches of array B, 8 bits, saturating; reset 0. -/
  mismB : Nat
  /-- R185: uncorrectable words found, 8 bits, saturating; reset 0. -/
  scrUe : Nat
  /-- R414: times of array mismatches in the last 24 h, in ns; reset none. -/
  misTimes : List Nat
  /-- R414: times of uncorrectable words in the last 24 h, in ns; reset none. -/
  ueTimes : List Nat
  /-- R75: quarantined; reset 0. -/
  quar : Bool
  /-- R197: the running loop; reset none. -/
  loop : Option LoopRun
  /-- R211: indices, or DONE, that the neighbourhood's leader has passed on through the hub; reset none. -/
  grants : List (Option Nat)
  deriving DecidableEq, Repr

/-! ### Fabric messages, queues and barriers -/

/-- A message in flight on the mesh (R220, R233, R234, R183). Cloves are module indices. -/
inductive Msg where
  /-- R180 WRITE: target word and the words with their marks. -/
  | write (src dst : Nat) (raddr : Nat) (words : List (W64 × Bool)) (lens : Nat)
  /-- R180 READ: target word, count, and the issuer's local word. -/
  | readReq (src dst : Nat) (raddr laddr len : Nat)
  /-- R180 READ: data on the way back. -/
  | readData (src dst : Nat) (laddr : Nat) (words : List (W64 × Bool))
  /-- R183 SLOT: region and the slot's words. -/
  | slot (src dst : Nat) (rgn ch : Nat) (words : List (W64 × Bool))
  /-- R234: acknowledgement of a WRITE or SLOT; bad says REMOTE_REGION (R182). -/
  | ackMsg (src dst : Nat) (bad : Bool)
  /-- R183: a grant of credits to a clove's channel. -/
  | grant (src dst : Nat) (ch rgn slotw credits : Nat)
  /-- R225: a grant of credits to a stream queue, by partition and queue. -/
  | grantQ (src : Nat) (part queue rgn slotw credits : Nat)
  /-- R183: one credit returned. -/
  | creditRet (src dst : Nat) (ch : Nat)
  /-- R225: one credit returned to a stream queue. -/
  | creditRetQ (src : Nat) (part queue : Nat)
  /-- R170: an unbind to the old producer. -/
  | unbind (src dst : Nat) (ch rgn : Nat)
  /-- R170, R225: an unbind to the stream queue that fed a region. -/
  | unbindQ (src : Nat) (part queue : Nat)
  /-- R236: an arrival on its way to the barrier hub: barrier, BCOUNT, and whether it waits. -/
  | arrive (src : Nat) (part bid bcount : Nat) (wait : Bool)
  deriving DecidableEq, Repr

/-- A posted transfer (R226, Table 8.5). -/
structure Transfer where
  /-- Its number, which requests carry. -/
  no : Nat
  /-- R226: HADDR, 48 bits. -/
  haddr : Nat
  /-- R226: ROWBYTES. -/
  rowBytes : Nat
  /-- R226: ROWS. -/
  rows : Nat
  /-- R226: HSTRIDE, signed. -/
  hstride : Int
  /-- R234: the clove that posted it, none for the walker (R278) or the loop engine's clove. -/
  poster : Option Nat
  /-- R228: bytes for which requests have been issued. -/
  issued : Nat
  /-- R228: bytes completed. -/
  done : Nat
  /-- R227: pieces begun: slots of the block's cloves, in order. -/
  piece : Nat
  /-- R227: words of the open slot for which requests have been issued. -/
  inSlot : Nat
  /-- R259: by slower-tier entry that its rows use, KIND, NODE and address as they stood when it was posted. -/
  tset : SMap (Nat × Nat × Nat)
  /-- R278, R272: the append (even) or the visited frame (odd) the transfer ends, halved; none otherwise. -/
  tag : Option Nat
  /-- R280: position columns of its slices that a merge keeps from the page. -/
  keep : Nat
  deriving DecidableEq, Repr

/-- A request of a queue at a memory controller (R228, R229). -/
structure Req where
  /-- The request's number. -/
  id : Nat
  /-- R228: number of its transfer. -/
  xfer : Nat
  /-- R229: partition of the queue. -/
  part : Nat
  /-- R229: queue number. -/
  queue : Nat
  /-- R222: true for a store. -/
  store : Bool
  /-- R228: device physical address. -/
  addr : Nat
  /-- R228: bytes. -/
  len : Nat
  /-- R227: byte offset in the transfer's stream. -/
  off : Nat
  /-- R227: destination or source clove (module index); for MCAST the first of the block. -/
  clove : Nat
  /-- R225: region in that clove. -/
  rgn : Nat
  /-- R227, R228: by clove that the words go to or come from, the slot they belong to. -/
  slots : SMap Nat
  /-- R228: first word within the slot. -/
  word : Nat
  /-- R229: deadline. -/
  deadline : Nat
  /-- R229: the controller's step count at arrival. -/
  arrived : Nat
  /-- R228: data served by memory with marks, waiting for delivery. -/
  data : List (W64 × Bool)
  /-- R229: served by its controller, or accepted for a store. -/
  served : Bool
  /-- R260: request to the slower tier with its tag, none for HBM. -/
  tier : Option Nat
  deriving DecidableEq, Repr

/-- A bound clove of a queue (R225). -/
structure QBind where
  /-- R225: the region. -/
  rgn : Nat
  /-- R225: SLOTW of the grant. -/
  slotw : Nat
  /-- R225: credits. -/
  credits : Nat
  /-- R228: slots begun at this clove under this binding, which numbers them. -/
  slots : Nat
  /-- R228: of these, the slots that are full, in order. -/
  landed : Nat
  /-- R229: words delivered, by slot, of the slots that are not released. -/
  got : SMap Nat
  deriving DecidableEq, Repr

/-- A stream queue (R222 to R228). Reset: no context (R238). -/
structure Queue where
  /-- R224: the 32-byte context, none while the queue has none; reset none. -/
  ctx : Option (BitVec 256)
  /-- R225: SLOTW fixed by the first grant; reset none. -/
  slotw : Option Nat
  /-- R225: bound cloves, by module index; reset none. -/
  binds : SMap QBind
  /-- R226: posted transfers, oldest first, at most 16; reset none. -/
  posted : List Transfer
  /-- R225: the clove whose unset source region has been reported; reset none. -/
  stuck : Option Nat
  deriving DecidableEq, Repr

/-- A barrier (R236). Reset: count 0 (R238). -/
structure Barrier where
  /-- R236: arrivals of the current phase; reset 0. -/
  count : Nat
  /-- R236: BCOUNT set for the current phase; reset none. -/
  bcount : Option Nat
  /-- R236: number of the current phase; reset 0 (DESIGN CHOICE, 2). -/
  phase : Nat
  deriving DecidableEq, Repr

/-- A dispatch counter beyond its register (R211, R212). -/
structure Counter where
  /-- R211: LIMIT; reset 0. -/
  limit : Nat
  /-- R211: counter epoch number; reset 0. -/
  epoch : Nat
  /-- R212: admitted strips, by field * 12 + strip; reset none. -/
  admitted : List Nat
  /-- R209: it has been armed for the command that is under way; reset 0. -/
  cur : Bool
  deriving DecidableEq, Repr

/-! ### Field hubs and HBM -/

/-- A look-aside buffer entry (R273), kept most recently used first. -/
structure TlbEntry where
  /-- R273: CID, 12 bits. -/
  cid : Nat
  /-- R273: LAYER, 8 bits. -/
  layer : Nat
  /-- R273: PIDX. -/
  pidx : Nat
  /-- R273: FRAME, 24 bits. -/
  frame : Nat
  /-- R273: FILL, 9 bits. -/
  fill : Nat
  /-- R273: RG, 8 bits. -/
  rg : Nat
  deriving DecidableEq, Repr

/-- A field hub and its field (R21), beyond its FLD_ registers. -/
structure Field where
  /-- R405: retired physical rows; reset none (the repair map gives them at step 4). -/
  retired : List Nat
  /-- R405: physical rows pending retirement; reset none. -/
  pending : List Nat
  /-- R22: physical row of each logical row, 88 entries; reset none (built at step 5, R407). -/
  map : List Nat
  /-- R218, R405: failed wires by link (seam * 65,536 + link) as the last map epoch found them: up to 4 of a link are
  replaced by spares, more leave it degraded; reset none (the repair map gives them at step 4). -/
  wires : SMap Nat
  /-- R218: wires that have failed since the last map epoch, by link; reset none. -/
  pendWires : SMap Nat
  /-- R273: the walker's look-aside buffer, at most 32 entries; reset none. -/
  tlb : List TlbEntry
  /-- R390: target from which the rail is slewing, in mV; reset 0 (DESIGN CHOICE, 2). -/
  slewFrom : Nat
  /-- R376: phases failed and not yet replaced; reset 0. -/
  phasesOut : Nat
  /-- R377: strip junction temperatures, in 1/16 degree C, by strip; reset 0 (DESIGN CHOICE, 2). -/
  temps : SMap Int
  /-- R388: strips that have been at or above 95 degrees C and not yet at or below 92 degrees C again, which hold the
  setpoint down; reset none. -/
  hot : List Nat
  /-- R387: the field's power budget, in W; reset 0 (DESIGN CHOICE, 2). -/
  budget : Nat
  /-- R378: averaged samples of the dynamic coefficient, at most 64, in 1/65,536; reset none. -/
  coeff : List Nat
  /-- R387: strips withheld from dispatch; reset none. -/
  withheld : List Nat
  /-- R383: ballast running in the field, in W; reset 0. -/
  ballast : Nat
  /-- R390: a field-scope BROWNOUT_WARN event is open; reset 0. -/
  brown : Bool
  /-- R382: the last step of the power agent paced a rise; reset 0. -/
  paced : Bool
  /-- R385: ageing holds the setpoint below what is asked; reset 0. -/
  aged : Bool
  deriving DecidableEq, Repr

/-- A memory stack beyond its MEM_ registers (R241 to R254). -/
structure Stack where
  /-- R252: channel in retraining, none otherwise; reset none. -/
  retraining : Option Nat
  /-- R252: retraining failures in a row, by channel; reset none. -/
  fails : SMap Nat
  /-- R253: times of uncorrectable code words, by channel, in ns; reset none. -/
  ueTimes : SMap (List Nat)
  /-- R251, R254: failed bridge wires by channel as the last map epoch or training found them: up to 2 are replaced by
  the channel's spares (Table 9.1); reset none. -/
  wires : SMap Nat
  /-- R253, R254: bridge wires that have failed since, by channel, whose spares are pending; reset none. -/
  pendWires : SMap Nat
  /-- R254, R262: the channels that were failing when the present epoch was accepted, which leave at its end; reset 0. -/
  leaving : W32
  /-- R241: reports of the stack's on-die ECC, by channel; reset none. -/
  onDie : SMap Nat
  /-- R248: corrected reads; reset 0. -/
  corrected : Nat
  /-- R253: uncorrectable code words by channel; reset none. -/
  uncorrected : SMap Nat
  /-- R248: code words waiting for write-back; reset none. -/
  writeback : List Nat
  /-- R250: next code word of the patrol, as an offset in 64-byte units; reset 0 (DESIGN CHOICE, 2). -/
  patrol : Nat
  /-- R241: stack temperature, in 1/16 degree C; reset 0 (DESIGN CHOICE, 2). -/
  temp : Int
  /-- R388: serving at most 50 % of peak; reset 0. -/
  throttled : Bool
  /-- R229: the controller's pending requests, oldest first; reset none. -/
  reqs : List Req
  deriving DecidableEq, Repr

/-- HBM contents (R243, R248, R249). -/
structure Hbm where
  /-- R243: bytes by device physical address; an unlisted byte reads zero (R254, step 4). -/
  bytes : List Host.Cell
  /-- R249: code words (address div 64) stored in the poison encoding; reset none. -/
  poison : SMap Bool
  deriving DecidableEq, Repr

/-- A power domain (R373, R374). -/
inductive DomState where
  | off | up | on | down
  deriving DecidableEq, Repr

/-- A domain's state and its held request. -/
structure Domain where
  /-- R373: OFF, UP, ON or DOWN; reset OFF, the always-on domains ON (R39, R409). -/
  st : DomState
  /-- R374: the last held request, none when there is none; reset none. -/
  held : Option Bool
  /-- R375: an off request waits for its conditions; reset 0. -/
  wait : Bool
  deriving DecidableEq, Repr

/-! ### KV cache -/

/-- A page that a read stream translates ahead of its visits (R272, R287). -/
structure Ahead where
  /-- R272: the page. -/
  page : Nat
  /-- R272: its frame. -/
  frame : Nat
  /-- R272: its pin has been made at the frame's home hub. -/
  pinned : Bool
  /-- R272: the frame is pinned and in HBM: the translation is complete. -/
  ready : Bool
  deriving DecidableEq, Repr

/-- A read stream (R274 to R277). -/
structure ReadStream where
  /-- R274: the 48-byte read plan. -/
  plan : List Byte
  /-- R274: CID. -/
  cid : Nat
  /-- R274: LAYER. -/
  layer : Nat
  /-- R274: SEQLEN. -/
  seqlen : Nat
  /-- R274: chunk being visited. -/
  chunk : Nat
  /-- R274: last chunk of the stream. -/
  lastChunk : Nat
  /-- R275: visits of the current chunk delivered. -/
  visit : Nat
  /-- R276: next offset in VRING. -/
  vring : Nat
  /-- R272, R287: pages being translated or translated, in the order of their visits; reset none. -/
  ahead : List Ahead
  /-- R266: tiles of the current visit already posted. -/
  tile : Nat
  /-- R276: the record of the current visit has been posted. -/
  recorded : Bool
  /-- R294: the fault that stopped the stream, none while it runs. -/
  stopped : Option Nat
  /-- R301: the group whose layer chunk armed it. -/
  group : Nat
  deriving DecidableEq, Repr

/-- An append in progress (R278 to R281). -/
structure Append where
  /-- R278: CID. -/
  cid : Nat
  /-- R278: LAYER. -/
  layer : Nat
  /-- R278: store queue. -/
  sq : Nat
  /-- R278: start position T. -/
  t : Nat
  /-- R278: number of positions. -/
  n : Nat
  /-- R281: next slice column (position div 16) to be accepted. -/
  col : Nat
  /-- R278: next slice column to be posted. -/
  next : Nat
  /-- R281: columns whose store transfers have completed. -/
  landed : Nat
  /-- R279: frames prepared, by page. -/
  frames : SMap Nat
  /-- R295: page and frame that it has pinned and that is not yet ready for it. -/
  held : Option (Nat × Nat)
  /-- R332: ring and command that asked for it, none when the serving engine issued it. -/
  cmd : Option (Nat × Nat × Nat)
  /-- R301: the group it belongs to. -/
  group : Nat
  /-- R294, R424: code and SEQ of the fault that stopped it, none while it runs. -/
  failed : Option (Nat × Nat)
  deriving DecidableEq, Repr

/-! ### Host interface -/

/-- A completion or request-end record (Table 12.4). -/
structure Rec where
  /-- R333: TAG, 32 bits. -/
  tag : W32
  /-- R334: STATUS, 16 bits. -/
  status : Nat
  /-- R332: KIND: 0 command completion, 1 request end. -/
  kind : Nat
  /-- R337: MEMBER. -/
  member : Nat
  /-- R332: REQID, 32 bits. -/
  reqid : Nat
  /-- R332: RESULT, 64 bits. -/
  result : Nat
  /-- R423: DETAIL, 64 bits. -/
  detail : Nat
  /-- R333: the record asks for the ring's MSI-X vector. -/
  irq : Bool
  /-- R297: it is the record of a fetched command, which counts until it is written. -/
  counted : Bool
  /-- R432: order of the record's making over the module. -/
  no : Nat
  deriving DecidableEq, Repr

/-- A fetched command (R331, R337). -/
structure Cmd where
  /-- Its number over the module, in order of fetching. -/
  no : Nat
  /-- Order of the descriptor's doorbell over the module, for FENCE (R340). -/
  door : Nat
  /-- R331: TAG. -/
  tag : W32
  /-- R333: IRQ. -/
  irq : Bool
  /-- R337: packet bytes, header first. -/
  packet : List Byte
  /-- R333: PAY_LEN. -/
  payLen : Nat
  /-- R337: PAY_SEGS. -/
  paySegs : Nat
  /-- R331: PAY_ADDR. -/
  payAddr : Nat
  /-- R337: payload bytes received so far, in stream order. -/
  payload : List Byte
  /-- R339: payload words (offset div 8) that arrived poisoned. -/
  poisoned : List Nat
  /-- R335: how the payload's reads stand: none in flight, or how they ended. -/
  payStat : Option RdStatus
  /-- R337: scatter segments still to be read: address and length. -/
  segs : List (Nat × Nat)
  /-- R338: its descriptor, header or scatter list breaks Table 12.3 or R337. -/
  bad : Bool
  /-- R337: the scatter list has been read, or there is none. -/
  listed : Bool
  /-- R332: the command's own record once it has ended, none before. -/
  answer : Option Rec
  /-- R278, R304, R321: the command waits for an event (append, pause point, request end). -/
  wait : Bool
  deriving DecidableEq, Repr

/-- A ring pair (R329 to R336) beyond its registers. -/
structure Ring where
  /-- R330: the posted tail, 16 bits; reset 0 (DESIGN CHOICE, 2). -/
  tail : Nat
  /-- R330: CQ_HEAD, 16 bits; reset 0 (DESIGN CHOICE, 2). -/
  cqHead : Nat
  /-- R340: descriptors posted and not fetched, by doorbell: how many, and its order number; reset none. -/
  doors : List (Nat × Nat)
  /-- R331: fetched commands that have no record written, oldest first; reset none. -/
  cmds : List Cmd
  /-- R333: request-end and completion records that wait for a slot, oldest first; reset none. -/
  recs : List Rec
  /-- R333: a vector is delayed by the holdoff; reset 0. -/
  irqDue : Bool
  /-- R333: the holdoff since the last interrupt runs; reset 0. -/
  holdoff : Bool
  deriving DecidableEq, Repr

/-- What the module reads from host memory (R335). -/
inductive ReadKind where
  | descriptor | packet | list | payload
  deriving DecidableEq, Repr

/-- A host read in flight (R322, R335). -/
structure HostRead where
  part : Nat
  ring : Nat
  kind : ReadKind
  addr : Nat
  len : Nat
  /-- The command's number in 8 bytes, or the bytes of the descriptor and the header while a packet is read. -/
  desc : List Byte
  deriving DecidableEq, Repr

/-- A write that the module makes, or would make, through an attach (R323). -/
inductive HostWrite where
  /-- R333: a record of a ring of a partition: attach, host address, and its 32 bytes (Table 12.4). -/
  | record (attach : Bool) (addr : Nat) (ring part : Nat) (bytes : List Byte)
  /-- R333: an MSI-X vector. -/
  | msix (attach : Bool) (vector : Nat)
  /-- R304: a resume record. -/
  | resumeRec (attach : Bool) (addr : Nat) (bytes : List Byte)
  /-- R342: one of the three writes of a status page, to its SEQ, to its other bytes, and to its SEQ again: attach, host
  address and bytes. -/
  | page (attach : Bool) (addr : Nat) (bytes : List Byte)
  /-- R260: a slower-tier read or write request on an attach, by tag, with its place in the arbitration. -/
  | tier (attach : Bool) (addr : Nat) (len tag rank : Nat) (store : Bool) (data : List (W64 × Bool))
  deriving DecidableEq, Repr

/-- The host interface (R322 to R344). -/
structure HostIf where
  /-- R330: the rings by partition * 8 + ring. -/
  rings : SMap Ring
  /-- R331: next ring of each partition's rotation; reset 0 (DESIGN CHOICE, 2). -/
  turn : SMap Nat
  /-- R322: host reads in flight, by tag; reset none. -/
  reads : SMap HostRead
  /-- Tag of the next host or tier read; reset 0 (DESIGN CHOICE, 2). -/
  nextTag : Nat
  /-- R340: next number of doorbells, fetched commands and records over the module; reset 0 (DESIGN CHOICE, 2). -/
  doorNo : Nat
  /-- R323: writes made, newest last (what left the module); reset none. -/
  out : List HostWrite
  /-- R322, R429: writes held by a closed gate, D3hot or a lost link, with their partition; reset none. -/
  held : List (Nat × HostWrite)
  /-- R322: reads requested of the host, newest last (what left the module); reset none. -/
  asked : List (Nat × HostRead)
  /-- R342: SEQ of each status page (0 to 31 partitions, 32 and 33 global A and B); reset 0. -/
  pageSeq : SMap Nat
  /-- R444: the global page as last composed; reset none. -/
  gpage : List Byte
  /-- R447: partition pages as last composed; reset none. -/
  ppages : SMap (List Byte)
  /-- R322: attach in D3hot: bit 0 A, bit 1 B; reset 0. -/
  d3 : BitVec 2
  /-- R327: when each attach's link went down, in ns; reset 0 (down since reset). -/
  downSince : SMap Nat
  /-- R342: CONFLICT_LOST counts of attach A and B; reset 0. -/
  lost : SMap Nat
  /-- R327: orders of a new owner that wait for the clear of its partition, oldest first; reset none. -/
  heldOrders : List Order
  deriving DecidableEq, Repr

/-! ### Serving engine -/

/-- A loaded program set (R341, Table 12.9). -/
structure ProgSet where
  group : Nat
  model : Nat
  vocab : Nat
  layers : Nat
  latent : Nat
  width : Nat
  /-- R210: class lengths. -/
  classes : List Nat
  /-- R274: read plans of 48 bytes, in order. -/
  plans : List (List Byte)
  /-- R341: launch entries of 24 bytes. -/
  launches : List (List Byte)
  /-- R341: service-area bytes taken by its sections. -/
  bytes : Nat
  /-- R341: every section has been written. -/
  loaded : Bool
  /-- R289, R290: the model's layout over modules. -/
  split : Split
  deriving DecidableEq, Repr

/-- One export stream of a request member (R358, R360). -/
structure ExpStream where
  /-- R318: destination node. -/
  node : Nat
  /-- R318: stream tag. -/
  stream : Nat
  /-- R349: messages of the request sent on the stream before its trailer. -/
  sent : Nat
  /-- R349: trailer status sent, none before. -/
  trailer : Option Nat
  deriving DecidableEq, Repr

/-- An object waiting for export (R317, R359). -/
structure ExpObj where
  /-- R317: 0 page, 1 count table, 2 first token. -/
  kind : Nat
  member : Nat
  /-- R265: partition that holds the page. -/
  part : Nat
  draft : Bool
  layer : Nat
  pidx : Nat
  fill : Nat
  frame : Nat
  /-- R358: bytes already sent. -/
  off : Nat
  /-- R369: the partner's check has agreed (true where no mirror is bound). -/
  agreed : Bool
  /-- R267, R281: the page's trailer has still to be written, once the page is in HBM. -/
  unsealed : Bool
  deriving DecidableEq, Repr

/-- A member of a request (R302). -/
structure ReqMember where
  /-- R338: tokens after the prefix. -/
  tokens : List Nat
  /-- R318: the route as fixed at admission: TNODE, TSTREAM, DNODE, DSTREAM, KNODE, KSTREAM. -/
  route : List Nat
  /-- R313: the 32-byte sampling block. -/
  sample : List Byte
  /-- R299: CID. -/
  cid : Nat
  /-- R316: draft CID, none without a draft. -/
  dcid : Option Nat
  /-- R312: count table of the tokens, ascending. -/
  counts : SMap Nat
  /-- R314: the first token once chosen. -/
  token : Option Nat
  /-- R358: target, draft and token streams. -/
  streams : List ExpStream
  deriving DecidableEq, Repr

/-- States of a request (R298). -/
inductive ReqState where
  | queued | running | pausing | paused | exporting
  deriving DecidableEq, Repr

/-- A request (R298 to R306). -/
structure Request where
  /-- R299: request ID. -/
  id : Nat
  /-- R296: leader of the partition group. -/
  group : Nat
  /-- R332: partition and ring of its PREFILL_SUBMIT. -/
  part : Nat
  ring : Nat
  /-- R332: TAG of its PREFILL_SUBMIT. -/
  tag : W32
  st : ReqState
  /-- R303: 0 bulk, 1 standard, 2 saffron. -/
  cls : Nat
  model : Nat
  draft : Option Nat
  adapter : Option Nat
  prefixHandle : Nat
  /-- R309: prefix length k. -/
  k : Nat
  /-- R307, R309: the prefix's tokens, none without one. -/
  pre : List Nat
  members : List ReqMember
  /-- R303: admission time, in ns. -/
  admitted : Nat
  /-- R300: chunk and layer of the next layer chunk. -/
  chunk : Nat
  layer : Nat
  /-- R316: the layer chunk belongs to the draft model. -/
  inDraft : Bool
  /-- R301: a layer chunk has been launched and is not done. -/
  inFlight : Bool
  /-- R301: shape class index, selected at the first launch. -/
  classIdx : Option Nat
  /-- R305: chunk and layer up to which a replay appends nothing. -/
  replay : Option (Nat × Nat)
  /-- R304: mode of a pending pause (false LAYER, true CHUNK). -/
  pauseMode : Option Bool
  /-- R321: commands (by number) that wait for the pause point, with their RADDR. -/
  pausers : List (Nat × Nat)
  /-- R321: RESUME commands (by number) that wait until the request is PAUSED. -/
  resumers : List Nat
  /-- R298: a CANCEL waits for the layer chunk's end. -/
  cancelDue : Bool
  /-- R423, R438: the first event that voids it: code, class, part, SEQ. -/
  void : Option (Nat × Nat × Nat × Nat)
  /-- R303: durations of completed layer chunks, newest first, in us. -/
  times : List Nat
  /-- R359: objects waiting for export, in the order of R317. -/
  objs : List ExpObj
  /-- R359: objects sent and not yet acknowledged: flow, last PSN, and the page's partition and frame. -/
  unacked : List (Nat × Nat × Option (Nat × Nat))
  /-- R369: admission count since the mirror was bound. -/
  mirrorNo : Nat
  /-- R300, R303: place among the QUEUED requests: 0 by admission, 1 resumed, 2 runs next. -/
  prio : Nat
  /-- R210, R300: last chunk of the prompt, and of the draft, once the request has started. -/
  lastChunk : Nat
  /-- R301, R302: stages of the present layer chunk that wait to be launched, with their members. -/
  stages : List (Nat × Nat)
  deriving DecidableEq, Repr

/-- A prefix handle entry (R308). -/
structure Handle where
  group : Nat
  handle : Nat
  fp : Nat
  k : Nat
  model : Nat
  adapter : Option Nat
  cid : Nat
  counts : SMap Nat
  draft : Option (Nat × Nat)
  tokens : List Nat
  deriving DecidableEq, Repr

/-- An adapter set (R310), kept in the service area. -/
structure Adapter where
  group : Nat
  set : Nat
  model : Nat
  image : List Byte
  deriving DecidableEq, Repr

/-- A cache context of a partition group (R269). -/
structure Ctx where
  /-- R269: the CID. -/
  cid : Nat
  /-- R269: base of its L2 table. -/
  l2base : Nat
  /-- R269: bytes of its L2 table. -/
  l2bytes : Nat
  /-- R289, R290: the layout of its model over modules. -/
  split : Split
  /-- R278, R290: lengths of its layers in the position layout, where the pages of other modules stay invalid. -/
  lens : SMap Nat
  deriving DecidableEq, Repr

/-- The serving engine (R296 to R321). -/
structure Serving where
  /-- R299: next request ID; reset 1 (DESIGN CHOICE, 2). -/
  nextId : Nat
  /-- R297: the request table; reset none. -/
  reqs : List Request
  /-- R341: program sets; reset none. -/
  sets : List ProgSet
  /-- R308: prefix handles; reset none. -/
  handles : List Handle
  /-- R310: adapter sets; reset none. -/
  adapters : List Adapter
  /-- R318: routes by group * 256 + route; reset none. -/
  routes : SMap (List Nat)
  /-- R362: collective groups by group leader * 256 + GID: capacity and members; reset none. -/
  groups : SMap (Nat × List W32)
  deriving DecidableEq, Repr

/-! ### Vyngo network -/

/-- A frame sent (R347, R348, Table 13.2). -/
structure TxFrame where
  port : Nat
  /-- R347: destination and source MAC addresses, 48 bits, the first byte sent highest. -/
  dmac : Nat
  smac : Nat
  /-- R345: the 802.1Q tag control word, none without a tag. -/
  vlan : Option Nat
  /-- R348: the EtherType. -/
  etype : Nat
  type : Nat
  flags : Nat
  spart : Nat
  snode : Nat
  dnode : Nat
  dpart : Nat
  gen : Nat
  psn : Nat
  apsn : Nat
  credit : Nat
  marks : List Bool
  body : List Byte
  deriving DecidableEq, Repr

/-- A message of an outbound flow (R355). -/
structure OutMsg where
  psn : Nat
  type : Nat
  body : List Byte
  marks : List Bool
  port : Nat
  /-- R355: resends made, which double the timer. -/
  tries : Nat
  /-- R355: later PSNs known to have arrived since the last resend. -/
  later : Nat
  deriving DecidableEq, Repr

/-- An outbound flow (R354 to R357). -/
structure OutFlow where
  part : Nat
  dnode : Nat
  dpart : Nat
  gen : Nat
  nextPsn : Nat
  credits : Nat
  /-- R356: the SYN has been answered. -/
  opened : Bool
  unacked : List OutMsg
  /-- R356: messages that wait for credit: type, body, marks. -/
  queue : List (Nat × List Byte × List Bool)
  deriving DecidableEq, Repr

/-- A message that waits until a flow of its partition closes (R354). -/
structure WaitMsg where
  part : Nat
  dnode : Nat
  dpart : Nat
  type : Nat
  body : List Byte
  marks : List Bool
  deriving DecidableEq, Repr

/-- An inbound flow (R354 to R357). -/
structure InFlow where
  snode : Nat
  spart : Nat
  dpart : Nat
  gen : Nat
  /-- R355: every PSN below has arrived in order. -/
  expect : Nat
  /-- R357: PSNs at or above that have arrived, with their frames. -/
  window : List (Nat × Nat × Frame)
  /-- R356: credits granted and not used. -/
  granted : Nat
  /-- R355: an acknowledgement is due. -/
  ackDue : Bool
  deriving DecidableEq, Repr

/-- A collective message that has arrived and waits for the operation it names (R365). -/
structure CollMsg where
  /-- R364: the partition it is for. -/
  part : Nat
  gid : Nat
  /-- R365: source rank. -/
  rank : Nat
  op : Nat
  step : Nat
  /-- R365: byte offset within the buffer. -/
  off : Nat
  trunc : Bool
  bytes : List Byte
  /-- R350: marks of its 8-byte words, none where no word is marked. -/
  marks : List Bool
  /-- R356: the inbound flow's node and partition, which gets its credit back later. -/
  src : Nat × Nat
  deriving DecidableEq, Repr

/-- An armed collective call (R363 to R368). -/
structure Call where
  /-- R363: the copied 64-byte descriptor. -/
  desc : List Byte
  /-- R365: operation number since arming. -/
  op : Nat
  /-- R364: next piece or ring step to send. -/
  piece : Nat
  /-- R364: pieces or segments landed. -/
  landed : Nat
  /-- R364: the start barrier phase waited for, none when it may send. -/
  waitPhase : Option Nat
  /-- R363: disarm once the current operation ends. -/
  disarm : Bool
  /-- R363: the descriptor that arms the call again once it is disarmed. -/
  rearm : Option (List Byte)
  /-- R364: bytes of the present piece or segment received. -/
  got : Nat
  /-- R367: ring step of the next segment to arrive. -/
  step : Nat
  /-- R366: end of the data delivered, and TRUNC. -/
  len : Nat
  trunc : Bool
  deriving DecidableEq, Repr

/-- A tier request in flight (R260, R361). -/
structure TierReq where
  part : Nat
  queue : Nat
  req : Nat
  entry : Nat
  /-- R259: KIND and NODE under which it was sent. -/
  kind : Nat
  node : Nat
  /-- R260: its place in the arbitration: the lowest goes first. -/
  rank : Nat
  offset : Nat
  len : Nat
  store : Bool
  deriving DecidableEq, Repr

/-- The Vyngo network (R345 to R372) beyond its registers. -/
structure Net where
  /-- R352: sends made in the current claim; reset 0. -/
  claimSends : Nat
  /-- R351: the ID of the current claim; reset 0 (DESIGN CHOICE, 2). -/
  claimId : Nat
  /-- R352: UIDs met in collisions of the current claim; reset none. -/
  collided : List (BitVec 128)
  /-- R354: outbound flows by number; reset none. -/
  outs : SMap OutFlow
  /-- R354: inbound flows by number; reset none. -/
  ins : SMap InFlow
  /-- R354: messages beyond a partition's flow quota, oldest first; reset none. -/
  waiting : List WaitMsg
  /-- R354: next GEN, 16 bits; reset 0 (DESIGN CHOICE, 2). -/
  nextGen : Nat
  /-- R357: next port of the round robin; reset 0 (DESIGN CHOICE, 2). -/
  nextPort : Nat
  /-- R346: lanes pending by port; reset none. -/
  pendLanes : SMap Nat
  /-- R346: lane replaced by the spare, by port; reset none. -/
  spareLane : SMap Nat
  /-- R363: calls by partition * 32 + call; reset none. -/
  calls : SMap Call
  /-- R365: collective messages that wait for their operation, oldest first; reset none. -/
  collIn : List CollMsg
  /-- R361: tier requests by tag; reset none. -/
  tiers : SMap TierReq
  /-- R369: requests admitted since the mirror was bound; reset 0. -/
  mirrorCount : Nat
  /-- R372: partner checks held until this module's own: count, kind, key, value; reset none. -/
  checksIn : List (Nat × Nat × Nat × Nat)
  /-- R369: this module's checks that wait for the partner's; reset none. -/
  checksOut : List (Nat × Nat × Nat × Nat)
  /-- R348: frames sent, newest last (what left the module); reset none. -/
  tx : List TxFrame
  deriving DecidableEq, Repr

/-! ### Power manager -/

/-- A throttle event record (R399). -/
structure ThrottleRec where
  /-- R399: the record number. -/
  no : Nat
  start : Nat
  /-- R399: DUR_US, none while the event is open. -/
  dur : Option Nat
  reason : Nat
  /-- R399: field index, 255 for module scope. -/
  field : Nat
  depth : Nat
  deriving DecidableEq, Repr

/-- A heavy-phase hint (R392). -/
structure Hint where
  group : Nat
  /-- R393: START, in ns of State's time. -/
  start : Nat
  durUs : Nat
  energyJ : Nat
  deriving DecidableEq, Repr

/-- The power manager and the environment readings (R373 to R401). -/
structure Power where
  /-- R373: domains by number; reset OFF, always-on ON. -/
  domains : SMap Domain
  /-- R377: busbar voltage, in mV; reset 0 (DESIGN CHOICE, 2). -/
  mv : Nat
  /-- R377: clamp currents, in 0.1 A; reset 0 (DESIGN CHOICE, 2). -/
  i1 : Nat
  i2 : Nat
  /-- R402: busbar good; reset 0. -/
  good : Bool
  /-- R33: one clamp open; reset 0. -/
  oneClamp : Bool
  /-- R32: the clamp limit binds; reset 0. -/
  clampLimit : Bool
  /-- R391: busbar warning; reset 0. -/
  warn : Bool
  /-- R377: coolant inlet and outlet, in 1/16 degree C; reset 0 (DESIGN CHOICE, 2). -/
  inlet : Int
  outlet : Int
  /-- R377: coolant flow, in 0.1 L/min; reset 0 (DESIGN CHOICE, 2). -/
  flow : Nat
  /-- R34: the flow has been at least 40 L/min for 10 s; reset 0. -/
  flow40 : Bool
  /-- R377: air temperature (1/16 degree C), humidity (0.1 %), dew-point margin (1/16 K); reset 0
  (DESIGN CHOICE, 2). -/
  air : Int
  rh : Nat
  margin : Int
  /-- R35: the dew-point margin is below 2 K; reset 0. -/
  dew : Bool
  /-- R35: the environmental warning of the present fall below 2 K has been raised; reset 0. -/
  dewTold : Bool
  /-- R380: a lease runs; reset 0. -/
  leased : Bool
  /-- R380: the lease has run out and FLOOR limits; reset 0. -/
  floorOn : Bool
  /-- R379: effective cap, in W; reset 0 (DESIGN CHOICE, 2). -/
  cap : Nat
  /-- R382: power the manager now grants, in W; reset 0 (DESIGN CHOICE, 2). -/
  now : Nat
  /-- R382: a rise of the module is paced; reset 0. -/
  ramp : Bool
  /-- R380: when the lease runs out, in ns; reset 0. -/
  leaseEnd : Nat
  /-- R399: throttle records, newest last; reset none. -/
  records : List ThrottleRec
  /-- R399: EVT_COUNT; reset 0. -/
  evtCount : Nat
  /-- R392: pending hints; reset none. -/
  hints : List Hint
  /-- R394: groups whose launches are held; reset none. -/
  heldGroups : List Nat
  /-- R393: groups whose ballast pre-ramps, with its W; reset none. -/
  ballast : SMap Nat
  /-- R389: domains under a safety off, with the time, in ns, at which its condition cleared, none while it
  holds; reset none. -/
  safety : SMap (Option Nat)
  deriving DecidableEq, Repr

/-! ### Errors, logs, repair and management -/

/-- A log record (R422). -/
structure LogRec where
  seq : Nat
  time : Nat
  code : Nat
  cls : Nat
  /-- R422: partition, 255 for none. -/
  part : Nat
  /-- R422: bytes 20-21, 22-23, 24-27 and 28-31 (Table 16.4). -/
  h0 : Nat
  h1 : Nat
  w2 : Nat
  w3 : Nat
  deriving DecidableEq, Repr

/-- A request abort under way (R424). -/
structure Abort where
  group : Nat
  code : Nat
  cls : Nat
  seq : Nat
  /-- R426: it waits for the layer-chunk boundary. -/
  atBoundary : Bool
  deriving DecidableEq, Repr

/-- Errors, gates and logs (R420 to R438). -/
structure Err where
  /-- R422: SEQ of the next record, from manufacture; reset 0 (DESIGN CHOICE, 2). -/
  nextSeq : Nat
  /-- R434: the volatile log by slot; reset none. -/
  log : SMap LogRec
  /-- R435: persistent log entries by index: record and start-up count; reset none (DESIGN CHOICE, 2). -/
  plog : SMap (LogRec × Nat)
  /-- R435: next entry of the persistent log; reset 0 (DESIGN CHOICE, 2). -/
  plogAt : Nat
  /-- R435: records that wait to be written to the persistent log; reset none. -/
  plogWait : List LogRec
  /-- R435: entries written in the current second, and that second; reset 0. -/
  plogSec : Nat
  plogNow : Nat
  /-- R438: a sector is being erased; reset 0. -/
  erasing : Bool
  /-- R430: causes that gate each partition (0 pair, 1 takeover, 2 partition reset, 3 module reset);
  reset none. -/
  gates : SMap (List Nat)
  /-- R436: events of classes DATA, REQUEST, PARTITION, MODULE since Ready, by partition (255 module);
  reset 0. -/
  counts : SMap (List Nat)
  /-- R436: requests ended VOIDED since Ready, by group leader; reset none. -/
  voided : SMap Nat
  /-- R436: records counted since Ready, newest first (at most 5 kept by partition group); reset none. -/
  recent : List LogRec
  /-- R424: aborts under way; reset none. -/
  aborts : List Abort
  /-- R428: progress made since the last stall check, by group leader; reset none. -/
  progress : SMap Bool
  /-- R74, R151, R208, R218: what an event names beyond the arguments of its record, by SEQ; reset none. -/
  named : SMap (List Nat)
  deriving DecidableEq, Repr

/-- One copy of a repair map or of the settings (R406). -/
structure FlashCopy where
  valid : Bool
  seq : Nat
  /-- R404: settings: grade and WANT. -/
  grade : Nat
  want : Nat
  /-- R405: retired rows and pending rows by field. -/
  rows : SMap (List Nat)
  pend : SMap (List Nat)
  /-- R405: spare wires in use, as failed wires by field and link. -/
  wires : SMap (SMap Nat)
  /-- R405: HBM channels mapped out or failing by stack; lanes by port; phases by field. -/
  chans : SMap Nat
  lanes : SMap Nat
  phases : SMap Nat
  /-- R405: retired pairs. -/
  pairs : Nat
  /-- R405: service block A retired. -/
  blockA : Bool
  deriving DecidableEq, Repr

/-- Boot flash and identity store (R404 to R406, R413), kept over power loss (R408). -/
structure Flash where
  /-- R404: the two copies of the settings; reset as the factory leaves them (DESIGN CHOICE, 2). -/
  set0 : FlashCopy
  set1 : FlashCopy
  /-- R404: the two copies of the repair map; reset as the factory leaves them (DESIGN CHOICE, 2). -/
  map0 : FlashCopy
  map1 : FlashCopy
  /-- R435: start-up count; reset 0 (DESIGN CHOICE, 2). -/
  startups : Nat
  /-- R418: map epochs that changed each field's map since manufacture (FLD_MAP_STAT.EPOCHS); reset none
  (DESIGN CHOICE, 2). -/
  epochs : SMap Nat
  /-- R413: the identity store records block A as retired; reset 0 (DESIGN CHOICE, 2). -/
  blockARetired : Bool
  /-- R413: block B is retired or failed; reset 0 (DESIGN CHOICE, 2). -/
  blockBRetired : Bool
  /-- R444: the monitor key, 256 bits; reset 0 (DESIGN CHOICE, 2). -/
  monkey : BitVec 256
  /-- R402: firmware image A checks; reset 1 (DESIGN CHOICE, 2). -/
  imageA : Bool
  deriving DecidableEq, Repr

/-- Start-up, reset and repair (R402 to R419) beyond its registers. -/
structure Startup where
  /-- R326: the arbiter's timebase, in ns; reset 0. -/
  time : Nat
  /-- R422: time at Ready, in ns; reset 0. -/
  readyAt : Nat
  /-- R39: MOD_RESET_N is high; reset 1 (DESIGN CHOICE, 2). -/
  resetHigh : Bool
  /-- R422: cause of the next MODULE_RESET record, none when not recorded; reset none. -/
  cause : Option Nat
  /-- R422: a MODULE_RESET record has been written since the last Ready (the persistent log shows it); reset 0. -/
  recorded : Bool
  /-- R418: when step 1 was done, in ns; reset 0. -/
  began : Nat
  /-- R402: domains that failed in start-up, and stay OFF; reset none. -/
  failed : List Nat
  /-- R403: partitions out of service; reset none. -/
  outParts : List Nat
  /-- R410, R423: groups (leaders) with a partition reset under way, with its cause: code (0 where it was
  ordered), class and SEQ; reset none. -/
  resets : SMap (Nat × Nat × Nat)
  /-- R411: partitions with a zeroising clear under way; reset none. -/
  clears : List Nat
  /-- R419: partitions whose ZERO waits for a reset; reset none. -/
  zeroWait : List Nat
  /-- R327: partitions whose owner has changed and whose clear is not done, with the new owner; reset none. -/
  newOwner : SMap Bool
  /-- R254: the stack whose map epoch is in progress; reset none. -/
  hbmEpoch : Option Nat
  /-- R416: partition whose map epoch is under way, and whether it waits for a reset; reset none. -/
  epoch : Option (Nat × Bool)
  /-- R412: pairs restarting; reset none. -/
  restarting : List Nat
  /-- R412: times of divergence by pair, in ns; reset none. -/
  diverged : SMap (List Nat)
  /-- R406: the repair map in State differs from the flash; reset 0. -/
  mapDirty : Bool
  /-- R404: firmware revision loaded; reset 0. -/
  fwRev : W32
  deriving DecidableEq, Repr

/-- Management bus agent and Giquemet monitor (R439 to R451) beyond MGT_ registers. -/
structure Mgmt where
  /-- R443: the last accepted command's reply: status and data; reset none. -/
  last : Option (Nat × List Byte)
  /-- R443: replies sent, newest last (what left the module); reset none. -/
  out : List (Nat × List Byte)
  /-- R445: released after an Alert Response Address read, until another bit sets; reset 0. -/
  released : Bool
  /-- R442: a notify lost arbitration and waits: tries left; reset 0. -/
  notifyDue : Nat
  /-- R442: Notify ARP Master messages sent (what left the module); reset 0. -/
  notified : Nat
  /-- R449: the valid challenge; reset none. -/
  challenge : Option W32
  /-- R449: length of the lockout under way, in s; reset 0. -/
  lockout : Nat
  /-- R446: the rate has changed and no line has come since; reset 0. -/
  baudNew : Bool
  /-- R446: reply lines printed, newest last (what left the module); reset none. -/
  uart : List (String × List Byte)
  /-- R439: transactions discarded by a clock timeout; reset 0. -/
  discarded : Nat
  /-- R441: Notify ARP Master messages of the present start-up; reset 0. -/
  notifies : Nat
  /-- R441, R445: answers to ARP commands and Alert Response reads, newest last (what left the module); reset none. -/
  arp : List (List Byte)
  deriving DecidableEq, Repr

/-! ### Partition state -/

/-- A partition (R15) beyond its PRT_ registers. -/
structure Part where
  /-- R222: the 128 queues; reset no context (R238). -/
  queues : SMap Queue
  /-- R236: the 64 barriers; reset count 0 (R238). -/
  barriers : SMap Barrier
  /-- R211: the 48 dispatch counters; reset not armed (R215). -/
  counters : SMap Counter
  /-- R138: partition function slots 24 to 63, 136 bytes each; reset empty (R138). -/
  uslots : SMap (List Byte)
  /-- R138: partition table entries 512 to 1,023, 64 bits each; reset 0 (DESIGN CHOICE, 2). -/
  utab : SMap W64
  /-- R247: by window, the old extents that are still in use, newest first: base and size in 2 MiB; reset none. -/
  oldWin : SMap (List (Nat × Nat))
  /-- R274: read streams by number; reset none. -/
  streams : SMap ReadStream
  /-- R278: appends by number; reset none. -/
  appends : SMap Append
  /-- R270: HBM slots in use; reset none. -/
  slots : SMap Nat
  /-- R268, R270, R286: tier slots by entry * 2^28 + slot: 0 in use, 1 withheld, 2 in use for a re-encoded page; reset
  none. -/
  tslots : SMap Nat
  /-- R269: cache contexts in use; reset none. -/
  ctxs : List Ctx
  /-- R285: the use counter, 16 bits; reset 0 (DESIGN CHOICE, 2). -/
  uses : Nat
  /-- R286: frames whose spill write is under way: frame and tier place; reset none. -/
  spilling : SMap Nat
  /-- R286: frames whose spill was cancelled while its write runs; reset none. -/
  cancelled : SMap Nat
  /-- R272: frames whose visit has ended and whose pin is not yet lowered; reset none. -/
  unpins : List Nat
  /-- R285: spilling goes on until the free slots reach HIGH; reset 0. -/
  spillOn : Bool
  /-- R279, R284: frames that are loaded as copies of a page in the slower tier: the frame copied and the slice columns;
  reset none. -/
  copies : SMap (Nat × Nat)
  /-- R284, R287: shares whose copy waits for a slot: the shared frame, the new context, layer, page and FILL; reset none. -/
  shares : List (Nat × Nat × Nat × Nat × Nat)
  deriving DecidableEq, Repr

/-- The BT1-W block. -/
structure State where
  /-- The commands that wait, first in, first out (the pipeline's queue); reset empty. -/
  pending : List Instr
  /-- The MODEL's own: the number of free values drawn so far; reset 0 (DESIGN CHOICE, 4). -/
  draws : Nat
  /-- R452: set-up registers by BAR0 offset; an unlisted register holds its reset value. -/
  regs : SMap W32
  /-- R13: cloves by y * 1,536 + x; an unlisted clove is as reset leaves it. -/
  cloves : SMap Clove
  /-- R14: fields by index. -/
  fields : SMap Field
  /-- R15: partitions by number. -/
  parts : SMap Part
  /-- R243: HBM contents. -/
  hbm : Hbm
  /-- R241: stacks by number. -/
  memStacks : SMap Stack
  /-- R216: messages in flight on the mesh, oldest first; reset none. -/
  msgs : List Msg
  /-- Number of the next memory request; reset 0 (DESIGN CHOICE, 2). -/
  nextReq : Nat
  /-- Number of the next clove instruction issued, which names scoreboard owners (R177); reset 0
  (DESIGN CHOICE, 2). -/
  issueNo : Nat
  /-- Queue requests served or waiting for the tier, by number; reset none (R228). -/
  inflight : List Req
  /-- R322: host interface. -/
  host : HostIf
  /-- R296: serving engine. -/
  srv : Serving
  /-- R345: Vyngo network. -/
  net : Net
  /-- R373: power manager. -/
  pwr : Power
  /-- R420: errors and logs. -/
  err : Err
  /-- R404: boot flash and identity store. -/
  flash : Flash
  /-- R402: start-up and reset. -/
  up : Startup
  /-- R439: management. -/
  mgmt : Mgmt
  deriving DecidableEq, Repr

/-! ### Defaults and reset -/

/-- A word that nothing has written (R190). -/
def SWord.zero : SWord := ⟨0, false, 0⟩

/-- An unset region (R168). -/
def Region.unset : Region :=
  ⟨false, 0, 0, 0, 0, 0, false, false, false, 0, 0, 0, 0, 0, 0, 0, false, []⟩

/-- An unbound channel (R189). -/
def Channel.unbound : Channel := ⟨none, 0, 0, 0⟩

/-- A zeroed register set, which counts as loaded in every mode and format (R53, R84). -/
def RegSet.zero : RegSet := ⟨[], [], 0, [], [], [], [], [], 0, -1, -1, false, none, none, true, false⟩

/-- An array as a partition reset leaves it, before its origin is its own clove (R53, R57). -/
def ArrayUnit.solo (x y : Nat) : ArrayUnit :=
  ⟨0, 0, x, y, RegSet.zero, RegSet.zero, false, 0, 0, [], false⟩

/-- The clove at (x, y) as reset leaves it. -/
def Clove.fresh (x y : Nat) : Clove :=
  { scratch := [], regions := [], channels := [], arrA := ArrayUnit.solo x y
    arrB := ArrayUnit.solo x y, epi := [], sfuSeq := 0, sfuHalted := false, remHalted := false
    loopHalted := false, sb := [], sfu := [], waiting := [], tickets := [], seqHalted := false, fences := 0
    fenceNo := 0, fenceXfer := 0, bwait := none
    barr := none, unacked := 0, reads := 0, scrubAt := 0, sweepFrom := 0, scrubQ := [], mismA := 0, mismB := 0
    scrUe := 0, misTimes := [], ueTimes := [], quar := false, loop := none, grants := [] }

/-- A queue with no context (R238). -/
def Queue.none : Queue := ⟨Option.none, Option.none, [], [], Option.none⟩

/-- A barrier at count 0 (R238). -/
def Barrier.zero : Barrier := ⟨0, none, 0⟩

/-- A counter that is not armed (R215). -/
def Counter.zero : Counter := ⟨0, 0, [], false⟩

/-- A field as reset leaves it. -/
def Field.fresh : Field :=
  ⟨[], [], [], [], [], [], 0, 0, [], [], 0, [], [], 0, false, false, false⟩

/-- A stack as reset leaves it. -/
def Stack.fresh : Stack := ⟨none, [], [], [], [], 0, [], 0, [], [], 0, 0, false, []⟩

/-- A partition as reset leaves it. -/
def Part.fresh : Part := ⟨[], [], [], [], [], [], [], [], [], [], [], 0, [], [], [], false, [], []⟩

/-- A ring as reset leaves it. -/
def Ring.fresh : Ring := ⟨0, 0, [], [], [], false, false⟩

/-- A domain that is OFF (R373). -/
def Domain.off : Domain := ⟨.off, none, false⟩

/-- A flash copy as the factory leaves it: valid, standard grade, no ID wanted, nothing retired. -/
def FlashCopy.factory (seq : Nat) : FlashCopy :=
  ⟨true, seq, 0, 0xFFFFFF, [], [], [], [], [], [], 0, false⟩

/-- The host interface as reset leaves it. -/
def HostIf.fresh : HostIf := ⟨[], [], [], 0, 0, [], [], [], [], [], [], 0, [], [], []⟩

/-- The serving engine as reset leaves it. -/
def Serving.fresh : Serving := ⟨1, [], [], [], [], [], []⟩

/-- The network as reset leaves it. -/
def Net.fresh : Net := ⟨0, 0, [], [], [], [], 0, 0, [], [], [], [], [], 0, [], [], []⟩

/-- The power manager as reset leaves it: every domain OFF but the two always-on ones (R39, R409). -/
def Power.fresh : Power :=
  { domains := [(1290, ⟨.on, none, false⟩), (1291, ⟨.on, none, false⟩)], mv := 0, i1 := 0, i2 := 0
    good := false, oneClamp := false, clampLimit := false, warn := false, inlet := 0, outlet := 0
    flow := 0, flow40 := false, air := 0, rh := 0, margin := 0, dew := false, dewTold := false, leased := false
    floorOn := false, cap := 0, now := 0, ramp := false, leaseEnd := 0, records := [], evtCount := 0, hints := []
    heldGroups := [], ballast := [], safety := [] }

/-- Errors and logs as reset leaves them. -/
def Err.fresh : Err := ⟨0, [], [], 0, [], 0, 0, false, [], [], [], [], [], [], []⟩

/-- Boot flash and identity store as the factory leaves them. -/
def Flash.factory : Flash :=
  ⟨FlashCopy.factory 1, FlashCopy.factory 0, FlashCopy.factory 1, FlashCopy.factory 0, 0, [], false,
   false, 0, true⟩

/-- Start-up as reset leaves it. -/
def Startup.fresh : Startup := ⟨0, 0, true, none, false, 0, [], [], [], [], [], [], none, none, [], [], false, 0⟩

/-- Management as reset leaves it. -/
def Mgmt.fresh : Mgmt := ⟨none, [], false, 0, 0, none, 0, false, [], 0, 0, []⟩

/-- The machine right after a power loss has ended: start-up step 1, no domain but the always-on ones
powered, every register at its reset value (R402, R408). -/
def State.reset : State :=
  { pending := [], draws := 0, regs := [], cloves := [], fields := [], parts := []
    hbm := ⟨[], []⟩, memStacks := [], msgs := [], nextReq := 0, issueNo := 0, inflight := [], host := HostIf.fresh
    srv := Serving.fresh, net := Net.fresh, pwr := Power.fresh, err := Err.fresh
    flash := Flash.factory, up := Startup.fresh, mgmt := Mgmt.fresh }

end Sys2Proof.Machine
end

