-- ==== Sys2Proof/Machine/RegTable.lean ====
section
/-! DEFINITION. The set-up registers of Table 18.2: one name per register, where it lies in BAR0
(R452), its reset value and the access type of its bits (R10, Table 0.3), transcribed from the register
tables the docstrings name. -/
namespace Sys2Proof.Machine

/-- The set-up registers of Table 18.2, families under one name. -/
inductive Reg where
  /-- FLD_SCR_ECC, R188, Table 6.8: CE_COUNT [15:0] RO, UE_COUNT [31:16] RO. -/
  | fldScrEcc
  /-- FLD_SCR_CTRL, R188, Table 6.9: CLR_CNT [0] WO, FORCE_EXP [3:1] RW, SWEEP_MAX [31:16] RO. -/
  | fldScrCtrl
  /-- FLD_DSP_CTRL, R213, Table 7.9: HOT_DELTA [7:0] RW, HOLD_STEPS [23:8] RW. -/
  | fldDspCtrl
  /-- FLD_DSP_STAT, R213, Table 7.10: HOT_HOLDS [15:0] W1C, ARMED [31:16] RO. -/
  | fldDspStat
  /-- FLD_DSP_CNTk, R213, Table 7.11: NEXT [23:0] RO, EPOCH [31:24] RO. -/
  | fldDspCnt
  /-- FLD_FAB_STAT, R219, Table 8.2: SPARES_USED [7:0] RO, DEGRADED [15:8] RO, LINK_UE [31:16] RO. -/
  | fldFabStat
  /-- PRT_HBM_BASEw, R245, Table 9.3: BASE [18:0] RWL, EN [31] RWL. -/
  | prtHbmBase
  /-- PRT_HBM_SIZEw, R245, Table 9.4: SIZE [14:0] RWL. -/
  | prtHbmSize
  /-- MEM_CAP, R255, Table 9.5: STACKS [4:0] RO, CHANNELS [10:5] RO, SPILL_ENTRIES [20:16] RO, INTLV_LOG2 [27:24] RO, WINDOWS [31:28] RO. -/
  | memCap
  /-- MEM_STK_STATk, R255, Table 9.6: HEALTHY [5:0] RO, PEND [6] RO, HOT [7] RO, TRAINED [8] RO, LIMIT [31:16] RO. -/
  | memStkStat
  /-- MEM_STK_CHMAPk, R255, Table 9.7: MAP (CHMAP); CHANGE (PEND) [31:0] RO. -/
  | memStkChmap
  /-- MEM_STK_PENDk, R255, Table 9.7: MAP (CHMAP); CHANGE (PEND) [31:0] RO. -/
  | memStkPend
  /-- MEM_EPOCH_CTRL, R255, Table 9.8: STACK [4:0] RW, GO [8] WO, BUSY [9] RO, REFUSED [10] W1C, DONE [11] W1C. -/
  | memEpochCtrl
  /-- MEM_SPILL_CTLn, R258, Table 9.11: KIND [1:0] RW, NODE [31:8] RW. -/
  | memSpillCtl
  /-- MEM_SPILL_PMASKn, R258, Table 9.11: PMASK [31:0] RW. -/
  | memSpillPmask
  /-- MEM_SPILL_BASELn, R258, Table 9.11: ADDR_LO [31:12] RW. -/
  | memSpillBasel
  /-- MEM_SPILL_BASEHn, R258, Table 9.11: ADDR_HI [31:0] RW. -/
  | memSpillBaseh
  /-- MEM_SPILL_SIZEn, R258, Table 9.11: SIZE [19:0] RW. -/
  | memSpillSize
  /-- PRT_KV_CTRL, R291, Table 10.8: EN [0] RWL, PFDIST [13:8] RWL. -/
  | prtKvCtrl
  /-- PRT_KV_TABLO, R291, Table 10.8: ADDR_LO [31:12] RWL. -/
  | prtKvTablo
  /-- PRT_KV_TABHI, R291, Table 10.8: ADDR_HI [15:0] RWL, TABSIZE [31:16] RWL. -/
  | prtKvTabhi
  /-- PRT_KV_FTLO, R291, Table 10.8: ADDR_LO [31:12] RWL. -/
  | prtKvFtlo
  /-- PRT_KV_FTHI, R291, Table 10.8: ADDR_HI [15:0] RWL. -/
  | prtKvFthi
  /-- PRT_KV_FRAMES, R291, Table 10.8: FRAMES [23:0] RWL. -/
  | prtKvFrames
  /-- PRT_KV_PSIZE, R291, Table 10.8: PSIZE [8:0] RWL. -/
  | prtKvPsize
  /-- PRT_KV_SPILL, R291, Table 10.8: LOW [7:0] RW, HIGH [15:8] RW, TIERMASK [31:16] RW. -/
  | prtKvSpill
  /-- PRT_KV_SEGw, R291, Table 10.8: BASE [18:0] RWL, EN [31] RWL. -/
  | prtKvSeg
  /-- PRT_KV_SEGCw, R291, Table 10.8: SLOTS [23:0] RWL. -/
  | prtKvSegc
  /-- FLD_KVW_STAT, R293, Table 10.9: WALKS [15:0] RO, TIER_WAITS [31:16] RO. -/
  | fldKvwStat
  /-- FLD_KVW_CTRL, R293, Table 10.9: CLR [0] WO. -/
  | fldKvwCtrl
  /-- PRT_SRV_QUOTA, R319, Table 11.8: CONTEXTS [12:0] RWL, COMMANDS [30:16] RWL. -/
  | prtSrvQuota
  /-- PRT_SRV_CTRL, R319, Table 11.8: EN [0] RWL, AUTOPAUSE [1] RW, LOSSY_ALLOW [2] RWL. -/
  | prtSrvCtrl
  /-- PRT_SRV_AREALO, R319, Table 11.8: ADDR_LO [31:12] RWL. -/
  | prtSrvArealo
  /-- PRT_SRV_AREAHI, R319, Table 11.8: ADDR_HI [15:0] RWL, SIZE [31:16] RWL. -/
  | prtSrvAreahi
  /-- PRT_SRV_STAT, R319, Table 11.8: CONTEXTS_USED [12:0] RO, COMMANDS_USED [30:16] RO. -/
  | prtSrvStat
  /-- PRT_SRV_EVT, R319, Table 11.8: PAUSES [15:0] W1C, PREFIX_MISS [31:16] W1C. -/
  | prtSrvEvt
  /-- HIF_OWN, R328, Table 12.2: OWNER [31:0] RW. -/
  | hifOwn
  /-- HIF_CONFLICTa, R328, Table 12.2: OFFSET [23:0] RO, COUNT [30:24] RO, LOST [31] W1C. -/
  | hifConflict
  /-- HIF_LINKa, R328, Table 12.2: RATE [2:0] RO, WIDTH [7:3] RO, FLIT [8] RO, DOWN_MS [31:9] RO. -/
  | hifLink
  /-- PRT_LOCK, R328, Table 12.2: LOCK [0] W1S. -/
  | prtLock
  /-- PRT_GROUP, R328, Table 12.2: LEAD [4:0] RWL. -/
  | prtGroup
  /-- PRT_SQ_BASELr, R336, Table 12.6: ADDR_LO [31:12] RWL. -/
  | prtSqBasel
  /-- PRT_SQ_BASEHr, R336, Table 12.6: ADDR_HI [31:0] RWL. -/
  | prtSqBaseh
  /-- PRT_SQ_CFGr, R336, Table 12.6: LOG2N [4:0] RWL, EN [8] RW, ERR [9] W1C, HEAD [31:16] RO. -/
  | prtSqCfg
  /-- PRT_CQ_BASELr, R336, Table 12.6: ADDR_LO [31:12] RWL. -/
  | prtCqBasel
  /-- PRT_CQ_BASEHr, R336, Table 12.6: ADDR_HI [31:0] RWL. -/
  | prtCqBaseh
  /-- PRT_CQ_CFGr, R336, Table 12.6: LOG2N [4:0] RWL, EN [8] RW, VECTOR [23:16] RWL, HOLDOFF [31:24] RW. -/
  | prtCqCfg
  /-- PRT_CQ_TAILr, R336, Table 12.6: TAIL [15:0] RO, PHASE [16] RO. -/
  | prtCqTail
  /-- PRT_STPG_LO, R336, Table 12.6: ADDR_LO [31:10] RWL. -/
  | prtStpgLo
  /-- PRT_STPG_HI, R336, Table 12.6: ADDR_HI [31:0] RWL. -/
  | prtStpgHi
  /-- VNG_CAP, R371, Table 13.7: PORTS [4:0] RO, FLOWS [20:8] RO. -/
  | vngCap
  /-- VNG_NODE, R371, Table 13.7: WANT [23:0] RW, CLAIM [24] WO. -/
  | vngNode
  /-- VNG_NODESTAT, R371, Table 13.7: NODE [23:0] RO, STATE [26:24] RO. -/
  | vngNodestat
  /-- VNG_ETYPE, R371, Table 13.7: ETYPE [15:0] RW, VID [27:16] RW, VLAN_EN [28] RW, PCP [31:29] RW. -/
  | vngEtype
  /-- VNG_MIRROR, R371, Table 13.7: PARTNER [23:0] RW, EN [24] RW, PRIMARY [25] RO, LOST [26] W1C. -/
  | vngMirror
  /-- VNG_COLL_STAT, R371, Table 13.7: OVF [15:0] W1C. -/
  | vngCollStat
  /-- VNG_PORTn, R371, Table 13.7: STATE [2:0] RO, PEND [3] RO, DISCARD [15:4] RO, RESENT [31:16] RO. -/
  | vngPort
  /-- PRT_VNG_CALLLO, R371, Table 13.8: ADDR_LO [31:12] RWL. -/
  | prtVngCalllo
  /-- PRT_VNG_CALLHI, R371, Table 13.8: ADDR_HI [15:0] RWL. -/
  | prtVngCallhi
  /-- PRT_VNG_CALLEN, R371, Table 13.8: EN [31:0] RW. -/
  | prtVngCallen
  /-- PRT_VNG_FLOWQ, R371, Table 13.8: FLOWS [12:0] RWL, EXPQ [23:16] RW. -/
  | prtVngFlowq
  /-- PRT_VNG_GRPLO, R371, Table 13.8: EN [0] RWL, ADDR_LO [31:27] RWL. -/
  | prtVngGrplo
  /-- PRT_VNG_GRPHI, R371, Table 13.8: ADDR_HI [15:0] RWL. -/
  | prtVngGrphi
  /-- PWR_CAP, R400, Table 14.9: CAP [15:0] RW. -/
  | pwrCap
  /-- PWR_FLOOR, R400, Table 14.9: FLOOR [15:0] RW. -/
  | pwrFloor
  /-- PWR_ALLOT, R400, Table 14.9: ALLOT [15:0] RO, LEASE [31:16] RO. -/
  | pwrAllot
  /-- PWR_STAT, R400, Table 14.9: LIMITER [3:0] RO, ACTIVE [10:4] RO, BWARN [11] RO, GRADE [12] RO. -/
  | pwrStat
  /-- PWR_MEAS, R400, Table 14.9: INPUT [15:0] RO, EST [31:16] RO. -/
  | pwrMeas
  /-- PWR_HINT, R400, Table 14.9: DEFER_MAX [15:0] RW, HINT_EN [16] RW. -/
  | pwrHint
  /-- PWR_CAPS, R400, Table 14.9: FIELD_SLOPE [7:0] RO, MODULE_SLOPE [23:8] RO. -/
  | pwrCaps
  /-- PWR_BWARN, R400, Table 14.9: COUNT [15:0] RO, LONGEST [31:16] RO. -/
  | pwrBwarn
  /-- PWR_CTRL, R400, Table 14.9: CLR [0] WO. -/
  | pwrCtrl
  /-- FLD_PWR_RAIL, R400, Table 14.10: RAIL_MV [9:0] RO, TARGET_MV [19:10] RO, PHASES [23:20] RO, SPARES [25:24] RO. -/
  | fldPwrRail
  /-- FLD_PWR_AGE, R400, Table 14.10: TRIM [7:0] RO, RATE [19:8] RO. -/
  | fldPwrAge
  /-- FLD_PWR_TEMP, R400, Table 14.10: HOT [7:0] RO, COOL [15:8] RO, STRIP_ON [27:16] RO. -/
  | fldPwrTemp
  /-- FLD_PWR_EST, R400, Table 14.10: EST [15:0] RO, MEAS [31:16] RO. -/
  | fldPwrEst
  /-- PRT_PWR_STRIPc, R400, Table 14.11: REQ [11:0] RW. -/
  | prtPwrStrip
  /-- PRT_PWR_STATc, R400, Table 14.11: ON [11:0] RO, BUSY [23:12] RO. -/
  | prtPwrStat
  /-- PRT_RESET, R410, Table 15.4: GO [0] WO, ZERO [1] WO, BUSY [2] RO, DONE [3] W1C. -/
  | prtReset
  /-- GLB_START, R418, Table 15.7: STEP [3:0] RO, READY [4] RO, DEGRADED [5] RO, FW_B [6] RO, BLOCK_B [7] RO, ELAPSED_MS [31:8] RO. -/
  | glbStart
  /-- GLB_RESET, R418, Table 15.7: KEY [15:0] WO. -/
  | glbReset
  /-- GLB_MAP_CTRL, R418, Table 15.7: PART [4:0] RW, GO [8] WO, BUSY [9] RO, REFUSED [10] W1C, DONE [11] W1C. -/
  | glbMapCtrl
  /-- GLB_RETIRE, R418, Table 15.7: ARRAY [7:0] RW, SCR [15:8] RW. -/
  | glbRetire
  /-- GLB_CUMIN, R418, Table 15.7: IN_SERVICE [3:0] RO, RETIRED [7:4] RO, REPLACES [9:8] RO. -/
  | glbCumin
  /-- FLD_MAP_STAT, R418, Table 15.8: SPARES [3:0] RO, PEND [7:4] RO, QUAR [8] RO, EPOCHS [31:16] RO. -/
  | fldMapStat
  /-- FLD_MAP_MOVED0, R418, Table 15.8: ROWS [31:0] RO. -/
  | fldMapMoved0
  /-- FLD_MAP_MOVED1, R418, Table 15.8: ROWS [31:0] RO. -/
  | fldMapMoved1
  /-- FLD_MAP_MOVED2, R418, Table 15.8: ROWS [23:0] RO. -/
  | fldMapMoved2
  /-- ERR_LOG_HEAD, R437, Table 16.8: SEQ [31:0] RO. -/
  | errLogHead
  /-- ERR_LOG_SEL, R437, Table 16.8: SLOT [11:0] RW. -/
  | errLogSel
  /-- ERR_LOG_DATAw, R437, Table 16.8: DATA [31:0] RO. -/
  | errLogData
  /-- ERR_GATE, R437, Table 16.8: GATED [31:0] RO. -/
  | errGate
  /-- ERR_ALERT, R437, Table 16.8: PARTITION [0] W1C, MODULE [1] W1C, CHAN_FAILING [2] W1C, NODE_CONFLICT [3] W1C, SPARES_LOW [4] W1C, ENV_WARN [5] W1C. -/
  | errAlert
  /-- ERR_ALERT_MASK, R437, Table 16.8: MASK [5:0] RW. -/
  | errAlertMask
  /-- ERR_PLOG, R437, Table 16.8: DROPPED [15:0] RO, WRAPS [31:16] RO. -/
  | errPlog
  /-- PRT_ERR_POLICY, R437, Table 16.8: RANGE_VOID [0] RW, STALL_MS [31:16] RW. -/
  | prtErrPolicy
  /-- MGT_SMB, R450, Table 17.6: ADDR [6:0] RO, AV [7] RO, AR [8] RO, NOTIFIES [23:16] RO. -/
  | mgtSmb
  /-- MGT_MON, R450, Table 17.6: BAUD [3:0] RO, UNLOCKED [4] RO, LOCKOUT [5] RO, FAILS [9:6] RO. -/
  | mgtMon
  /-- GLB_ID, R456, Table 18.3: DEVICE [15:0] RO, STEPPING [23:16] RO, UARUN [31:24] RO. -/
  | glbId
  /-- GLB_UIDw, R456, Table 18.3: UID [31:0] RO. -/
  | glbUid
  /-- GLB_SERIALw, R456, Table 18.3: CHARS [31:0] RO. -/
  | glbSerial
  /-- GLB_FW, R456, Table 18.3: REV [31:0] RO. -/
  | glbFw
  /-- GLB_CAP_ARRAY, R457, Table 18.4: SIDE [4:0] RO, GANGS [7:5] RO, FORMS [11:8] RO, FILL [19:12] RO, TREE [27:20] RO. -/
  | glbCapArray
  /-- GLB_CAP_RATE, R457, Table 18.4: FP4 [3:0] RO, FP8 [7:4] RO, INT [11:8] RO, F16 [15:12] RO, SFU_HW [23:16] RO, SFU_MP [31:24] RO. -/
  | glbCapRate
  /-- GLB_CAP_LAT, R457, Table 18.4: NEAR [3:0] RO, FAR [7:4] RO, LOAD8 [15:8] RO, RELEASE [23:16] RO, MESH [31:24] RO. -/
  | glbCapLat
  /-- GLB_CAP_NUM, R457, Table 18.4: ACC_BITS [5:0] RO, EXACT [11:6] RO, BOUND [16:12] RO. -/
  | glbCapNum
  /-- GLB_CAP_FN, R457, Table 18.4: SLOTS [23:0] RO. -/
  | glbCapFn
  /-- GLB_CAP_SIZE, R457, Table 18.4: SCR_WORDS [12:0] RO, REGIONS [16:13] RO, SB [20:17] RO, CREDIT_CH [24:21] RO. -/
  | glbCapSize
  /-- GLB_CAP_CLOVES, R457, Table 18.4: CLOVES [20:0] RO, PARTS [26:21] RO. -/
  | glbCapCloves
  /-- GLB_CAP_PARTS, R457, Table 18.4: IN_SERVICE [31:0] RO. -/
  | glbCapParts
  /-- GLB_CAP_SRV, R457, Table 18.4: CONTEXTS [12:0] RO, COMMANDS [27:13] RO, SETS [31:28] RO. -/
  | glbCapSrv
  /-- GLB_CAP_SRV2, R457, Table 18.4: VOCAB [4:0] RO, TOPK [18:8] RO, CLASSES [23:19] RO, BATCH [30:24] RO. -/
  | glbCapSrv2
  /-- GLB_CAP_SEQ, R457, Table 18.4: MAX_SEQ [31:0] RO. -/
  | glbCapSeq
  /-- GLB_CAP_STEP, R457, Table 18.4: REF [15:0] RO, TOP [31:16] RO. -/
  | glbCapStep
  /-- GLB_CAP_RAIL, R457, Table 18.4: REF_MV [9:0] RO, MIN_MV [19:10] RO, MAX_MV [29:20] RO. -/
  | glbCapRail
  /-- HIF_CAP, R458, Table 18.5: RINGS [3:0] RO, LOG2N_MIN [12:8] RO, LOG2N_MAX [20:16] RO, VECTORS [31:23] RO. -/
  | hifCap
  /-- PRT_SROUND_SEED, R459, Table 18.6: SEED [31:0] RW. -/
  | prtSroundSeed
  /-- FLD_ID, R460, Table 18.7: INDEX [6:0] RO, PART [11:7] RO, STRIPS [15:12] RO, COUNTERS [20:16] RO. -/
  | fldId
  /-- FLD_INT_CNT0, R460, Table 18.7: MISMATCH [15:0] RO, UNCHECKED [31:16] RO. -/
  | fldIntCnt0
  /-- FLD_INT_CNT1, R460, Table 18.7: CONV_SAT [15:0] RO, FN_DOMAIN [31:16] RO. -/
  | fldIntCnt1
  /-- FLD_INT_CNT2, R460, Table 18.7: RANGE [15:0] RO. -/
  | fldIntCnt2
  /-- FLD_INT_CTRL, R460, Table 18.7: CLR [0] WO. -/
  | fldIntCtrl
  /-- FLD_CLV_SEL, R460, Table 18.7: X [6:0] RW, Y [13:7] RW. -/
  | fldClvSel
  /-- FLD_CLV_CNT, R460, Table 18.7: MISM_A [7:0] RO, MISM_B [15:8] RO, SCR_UE [23:16] RO. -/
  | fldClvCnt
  /-- HIF_GSTPG_LOa, R336, Table 12.6: ADDR_LO [31:10] RW. -/
  | hifGstpgLo
  /-- HIF_GSTPG_HIa, R336, Table 12.6: ADDR_HI [31:0] RW. -/
  | hifGstpgHi
  deriving DecidableEq, Repr

/-- A register's place and behaviour: block base, number of 4 KiB blocks, offset in the block, stride
and number of family members, reset value, and the bits of each access type of Table 0.3; whole lists
the W1C fields that a 1 in any bit clears whole (R10). -/
structure RegInfo where
  base : Nat
  blocks : Nat
  off : Nat
  stride : Nat
  count : Nat
  reset : Nat
  rw : Nat
  rwl : Nat
  w1c : Nat
  w1s : Nat
  wo : Nat
  whole : List Nat
  deriving DecidableEq, Repr

/-- The register tables. -/
def Reg.info : Reg → RegInfo
  | .fldScrEcc => ⟨0x80000, 96, 0x200, 4, 1, 0x0, 0x0, 0x0, 0x0, 0x0, 0x0, []⟩
  | .fldScrCtrl => ⟨0x80000, 96, 0x204, 4, 1, 0x8, 0xE, 0x0, 0x0, 0x0, 0x1, []⟩
  | .fldDspCtrl => ⟨0x80000, 96, 0x300, 4, 1, 0x1005, 0xFFFFFF, 0x0, 0x0, 0x0, 0x0, []⟩
  | .fldDspStat => ⟨0x80000, 96, 0x304, 4, 1, 0x0, 0x0, 0x0, 0xFFFF, 0x0, 0x0, [0xFFFF]⟩
  | .fldDspCnt => ⟨0x80000, 96, 0x380, 4, 16, 0x0, 0x0, 0x0, 0x0, 0x0, 0x0, []⟩
  | .fldFabStat => ⟨0x80000, 96, 0x400, 4, 1, 0x0, 0x0, 0x0, 0x0, 0x0, 0x0, []⟩
  | .prtHbmBase => ⟨0x20000, 32, 0x100, 8, 8, 0x0, 0x0, 0x8007FFFF, 0x0, 0x0, 0x0, []⟩
  | .prtHbmSize => ⟨0x20000, 32, 0x104, 8, 8, 0x0, 0x0, 0x7FFF, 0x0, 0x0, 0x0, []⟩
  | .memCap => ⟨0x50000, 1, 0x0, 4, 1, 0x8C100418, 0x0, 0x0, 0x0, 0x0, 0x0, []⟩
  | .memStkStat => ⟨0x50000, 1, 0x100, 4, 24, 0x0, 0x0, 0x0, 0x0, 0x0, 0x0, []⟩
  | .memStkChmap => ⟨0x50000, 1, 0x180, 4, 24, 0x0, 0x0, 0x0, 0x0, 0x0, 0x0, []⟩
  | .memStkPend => ⟨0x50000, 1, 0x200, 4, 24, 0x0, 0x0, 0x0, 0x0, 0x0, 0x0, []⟩
  | .memEpochCtrl => ⟨0x50000, 1, 0x280, 4, 1, 0x0, 0x1F, 0x0, 0xC00, 0x0, 0x100, []⟩
  | .memSpillCtl => ⟨0x50000, 1, 0x400, 32, 16, 0x0, 0xFFFFFF03, 0x0, 0x0, 0x0, 0x0, []⟩
  | .memSpillPmask => ⟨0x50000, 1, 0x404, 32, 16, 0x0, 0xFFFFFFFF, 0x0, 0x0, 0x0, 0x0, []⟩
  | .memSpillBasel => ⟨0x50000, 1, 0x408, 32, 16, 0x0, 0xFFFFF000, 0x0, 0x0, 0x0, 0x0, []⟩
  | .memSpillBaseh => ⟨0x50000, 1, 0x40C, 32, 16, 0x0, 0xFFFFFFFF, 0x0, 0x0, 0x0, 0x0, []⟩
  | .memSpillSize => ⟨0x50000, 1, 0x410, 32, 16, 0x0, 0xFFFFF, 0x0, 0x0, 0x0, 0x0, []⟩
  | .prtKvCtrl => ⟨0x20000, 32, 0x200, 4, 1, 0x800, 0x0, 0x3F01, 0x0, 0x0, 0x0, []⟩
  | .prtKvTablo => ⟨0x20000, 32, 0x204, 4, 1, 0x0, 0x0, 0xFFFFF000, 0x0, 0x0, 0x0, []⟩
  | .prtKvTabhi => ⟨0x20000, 32, 0x208, 4, 1, 0x0, 0x0, 0xFFFFFFFF, 0x0, 0x0, 0x0, []⟩
  | .prtKvFtlo => ⟨0x20000, 32, 0x20C, 4, 1, 0x0, 0x0, 0xFFFFF000, 0x0, 0x0, 0x0, []⟩
  | .prtKvFthi => ⟨0x20000, 32, 0x210, 4, 1, 0x0, 0x0, 0xFFFF, 0x0, 0x0, 0x0, []⟩
  | .prtKvFrames => ⟨0x20000, 32, 0x214, 4, 1, 0x0, 0x0, 0xFFFFFF, 0x0, 0x0, 0x0, []⟩
  | .prtKvPsize => ⟨0x20000, 32, 0x218, 4, 1, 0x0, 0x0, 0x1FF, 0x0, 0x0, 0x0, []⟩
  | .prtKvSpill => ⟨0x20000, 32, 0x21C, 4, 1, 0x2010, 0xFFFFFFFF, 0x0, 0x0, 0x0, 0x0, []⟩
  | .prtKvSeg => ⟨0x20000, 32, 0x220, 8, 8, 0x0, 0x0, 0x8007FFFF, 0x0, 0x0, 0x0, []⟩
  | .prtKvSegc => ⟨0x20000, 32, 0x224, 8, 8, 0x0, 0x0, 0xFFFFFF, 0x0, 0x0, 0x0, []⟩
  | .fldKvwStat => ⟨0x80000, 96, 0x500, 4, 1, 0x0, 0x0, 0x0, 0x0, 0x0, 0x0, []⟩
  | .fldKvwCtrl => ⟨0x80000, 96, 0x504, 4, 1, 0x0, 0x0, 0x0, 0x0, 0x0, 0x1, []⟩
  | .prtSrvQuota => ⟨0x20000, 32, 0x300, 4, 1, 0x2000080, 0x0, 0x7FFF1FFF, 0x0, 0x0, 0x0, []⟩
  | .prtSrvCtrl => ⟨0x20000, 32, 0x304, 4, 1, 0x0, 0x2, 0x5, 0x0, 0x0, 0x0, []⟩
  | .prtSrvArealo => ⟨0x20000, 32, 0x308, 4, 1, 0x0, 0x0, 0xFFFFF000, 0x0, 0x0, 0x0, []⟩
  | .prtSrvAreahi => ⟨0x20000, 32, 0x30C, 4, 1, 0x0, 0x0, 0xFFFFFFFF, 0x0, 0x0, 0x0, []⟩
  | .prtSrvStat => ⟨0x20000, 32, 0x310, 4, 1, 0x0, 0x0, 0x0, 0x0, 0x0, 0x0, []⟩
  | .prtSrvEvt => ⟨0x20000, 32, 0x314, 4, 1, 0x0, 0x0, 0x0, 0xFFFFFFFF, 0x0, 0x0, [0xFFFF, 0xFFFF0000]⟩
  | .hifOwn => ⟨0x10000, 1, 0x0, 4, 1, 0x0, 0xFFFFFFFF, 0x0, 0x0, 0x0, 0x0, []⟩
  | .hifConflict => ⟨0x10000, 1, 0x10, 4, 2, 0x0, 0x0, 0x0, 0x80000000, 0x0, 0x0, []⟩
  | .hifLink => ⟨0x10000, 1, 0x40, 4, 2, 0x0, 0x0, 0x0, 0x0, 0x0, 0x0, []⟩
  | .prtLock => ⟨0x20000, 32, 0x0, 4, 1, 0x0, 0x0, 0x0, 0x0, 0x1, 0x0, []⟩
  | .prtGroup => ⟨0x20000, 32, 0x8, 4, 1, 0x0, 0x0, 0x1F, 0x0, 0x0, 0x0, []⟩
  | .prtSqBasel => ⟨0x20000, 32, 0x400, 32, 8, 0x0, 0x0, 0xFFFFF000, 0x0, 0x0, 0x0, []⟩
  | .prtSqBaseh => ⟨0x20000, 32, 0x404, 32, 8, 0x0, 0x0, 0xFFFFFFFF, 0x0, 0x0, 0x0, []⟩
  | .prtSqCfg => ⟨0x20000, 32, 0x408, 32, 8, 0x0, 0x100, 0x1F, 0x200, 0x0, 0x0, []⟩
  | .prtCqBasel => ⟨0x20000, 32, 0x40C, 32, 8, 0x0, 0x0, 0xFFFFF000, 0x0, 0x0, 0x0, []⟩
  | .prtCqBaseh => ⟨0x20000, 32, 0x410, 32, 8, 0x0, 0x0, 0xFFFFFFFF, 0x0, 0x0, 0x0, []⟩
  | .prtCqCfg => ⟨0x20000, 32, 0x414, 32, 8, 0x0, 0xFF000100, 0xFF001F, 0x0, 0x0, 0x0, []⟩
  | .prtCqTail => ⟨0x20000, 32, 0x418, 32, 8, 0x10000, 0x0, 0x0, 0x0, 0x0, 0x0, []⟩
  | .prtStpgLo => ⟨0x20000, 32, 0x500, 4, 1, 0x0, 0x0, 0xFFFFFC00, 0x0, 0x0, 0x0, []⟩
  | .prtStpgHi => ⟨0x20000, 32, 0x504, 4, 1, 0x0, 0x0, 0xFFFFFFFF, 0x0, 0x0, 0x0, []⟩
  | .vngCap => ⟨0x60000, 1, 0x0, 4, 1, 0x10000E, 0x0, 0x0, 0x0, 0x0, 0x0, []⟩
  | .vngNode => ⟨0x60000, 1, 0x10, 4, 1, 0xFFFFFF, 0xFFFFFF, 0x0, 0x0, 0x0, 0x1000000, []⟩
  | .vngNodestat => ⟨0x60000, 1, 0x14, 4, 1, 0xFFFFFF, 0x0, 0x0, 0x0, 0x0, 0x0, []⟩
  | .vngEtype => ⟨0x60000, 1, 0x18, 4, 1, 0x88B5, 0xFFFFFFFF, 0x0, 0x0, 0x0, 0x0, []⟩
  | .vngMirror => ⟨0x60000, 1, 0x40, 4, 1, 0xFFFFFF, 0x1FFFFFF, 0x0, 0x4000000, 0x0, 0x0, []⟩
  | .vngCollStat => ⟨0x60000, 1, 0x50, 4, 1, 0x0, 0x0, 0x0, 0xFFFF, 0x0, 0x0, [0xFFFF]⟩
  | .vngPort => ⟨0x60000, 1, 0x100, 4, 14, 0x0, 0x0, 0x0, 0x0, 0x0, 0x0, []⟩
  | .prtVngCalllo => ⟨0x20000, 32, 0x600, 4, 1, 0x0, 0x0, 0xFFFFF000, 0x0, 0x0, 0x0, []⟩
  | .prtVngCallhi => ⟨0x20000, 32, 0x604, 4, 1, 0x0, 0x0, 0xFFFF, 0x0, 0x0, 0x0, []⟩
  | .prtVngCallen => ⟨0x20000, 32, 0x608, 4, 1, 0x0, 0xFFFFFFFF, 0x0, 0x0, 0x0, 0x0, []⟩
  | .prtVngFlowq => ⟨0x20000, 32, 0x60C, 4, 1, 0x100080, 0xFF0000, 0x1FFF, 0x0, 0x0, 0x0, []⟩
  | .prtVngGrplo => ⟨0x20000, 32, 0x610, 4, 1, 0x0, 0x0, 0xF8000001, 0x0, 0x0, 0x0, []⟩
  | .prtVngGrphi => ⟨0x20000, 32, 0x614, 4, 1, 0x0, 0x0, 0xFFFF, 0x0, 0x0, 0x0, []⟩
  | .pwrCap => ⟨0x40000, 1, 0x0, 4, 1, 0x7D00, 0xFFFF, 0x0, 0x0, 0x0, 0x0, []⟩
  | .pwrFloor => ⟨0x40000, 1, 0x4, 4, 1, 0x3E80, 0xFFFF, 0x0, 0x0, 0x0, 0x0, []⟩
  | .pwrAllot => ⟨0x40000, 1, 0x8, 4, 1, 0x0, 0x0, 0x0, 0x0, 0x0, 0x0, []⟩
  | .pwrStat => ⟨0x40000, 1, 0xC, 4, 1, 0x0, 0x0, 0x0, 0x0, 0x0, 0x0, []⟩
  | .pwrMeas => ⟨0x40000, 1, 0x10, 4, 1, 0x0, 0x0, 0x0, 0x0, 0x0, 0x0, []⟩
  | .pwrHint => ⟨0x40000, 1, 0x14, 4, 1, 0x10032, 0x1FFFF, 0x0, 0x0, 0x0, 0x0, []⟩
  | .pwrCaps => ⟨0x40000, 1, 0x18, 4, 1, 0xFA078, 0x0, 0x0, 0x0, 0x0, 0x0, []⟩
  | .pwrBwarn => ⟨0x40000, 1, 0x20, 4, 1, 0x0, 0x0, 0x0, 0x0, 0x0, 0x0, []⟩
  | .pwrCtrl => ⟨0x40000, 1, 0x24, 4, 1, 0x0, 0x0, 0x0, 0x0, 0x0, 0x1, []⟩
  | .fldPwrRail => ⟨0x80000, 96, 0x600, 4, 1, 0x0, 0x0, 0x0, 0x0, 0x0, 0x0, []⟩
  | .fldPwrAge => ⟨0x80000, 96, 0x604, 4, 1, 0x0, 0x0, 0x0, 0x0, 0x0, 0x0, []⟩
  | .fldPwrTemp => ⟨0x80000, 96, 0x608, 4, 1, 0x0, 0x0, 0x0, 0x0, 0x0, 0x0, []⟩
  | .fldPwrEst => ⟨0x80000, 96, 0x60C, 4, 1, 0x0, 0x0, 0x0, 0x0, 0x0, 0x0, []⟩
  | .prtPwrStrip => ⟨0x20000, 32, 0x700, 4, 3, 0xFFF, 0xFFF, 0x0, 0x0, 0x0, 0x0, []⟩
  | .prtPwrStat => ⟨0x20000, 32, 0x710, 4, 3, 0x0, 0x0, 0x0, 0x0, 0x0, 0x0, []⟩
  | .prtReset => ⟨0x20000, 32, 0x10, 4, 1, 0x0, 0x0, 0x0, 0x8, 0x0, 0x3, []⟩
  | .glbStart => ⟨0x0, 1, 0x100, 4, 1, 0x1, 0x0, 0x0, 0x0, 0x0, 0x0, []⟩
  | .glbReset => ⟨0x0, 1, 0x104, 4, 1, 0x0, 0x0, 0x0, 0x0, 0x0, 0xFFFF, []⟩
  | .glbMapCtrl => ⟨0x0, 1, 0x108, 4, 1, 0x0, 0x1F, 0x0, 0xC00, 0x0, 0x100, []⟩
  | .glbRetire => ⟨0x0, 1, 0x10C, 4, 1, 0x204, 0xFFFF, 0x0, 0x0, 0x0, 0x0, []⟩
  | .glbCumin => ⟨0x0, 1, 0x110, 4, 1, 0x7, 0x0, 0x0, 0x0, 0x0, 0x0, []⟩
  | .fldMapStat => ⟨0x80000, 96, 0x700, 4, 1, 0x0, 0x0, 0x0, 0x0, 0x0, 0x0, []⟩
  | .fldMapMoved0 => ⟨0x80000, 96, 0x704, 4, 1, 0x0, 0x0, 0x0, 0x0, 0x0, 0x0, []⟩
  | .fldMapMoved1 => ⟨0x80000, 96, 0x708, 4, 1, 0x0, 0x0, 0x0, 0x0, 0x0, 0x0, []⟩
  | .fldMapMoved2 => ⟨0x80000, 96, 0x70C, 4, 1, 0x0, 0x0, 0x0, 0x0, 0x0, 0x0, []⟩
  | .errLogHead => ⟨0x70000, 1, 0x0, 4, 1, 0x0, 0x0, 0x0, 0x0, 0x0, 0x0, []⟩
  | .errLogSel => ⟨0x70000, 1, 0x4, 4, 1, 0x0, 0xFFF, 0x0, 0x0, 0x0, 0x0, []⟩
  | .errLogData => ⟨0x70000, 1, 0x10, 4, 8, 0x0, 0x0, 0x0, 0x0, 0x0, 0x0, []⟩
  | .errGate => ⟨0x70000, 1, 0x40, 4, 1, 0x0, 0x0, 0x0, 0x0, 0x0, 0x0, []⟩
  | .errAlert => ⟨0x70000, 1, 0x44, 4, 1, 0x0, 0x0, 0x0, 0x3F, 0x0, 0x0, []⟩
  | .errAlertMask => ⟨0x70000, 1, 0x48, 4, 1, 0x0, 0x3F, 0x0, 0x0, 0x0, 0x0, []⟩
  | .errPlog => ⟨0x70000, 1, 0x4C, 4, 1, 0x0, 0x0, 0x0, 0x0, 0x0, 0x0, []⟩
  | .prtErrPolicy => ⟨0x20000, 32, 0x800, 4, 1, 0x1F40000, 0xFFFF0001, 0x0, 0x0, 0x0, 0x0, []⟩
  | .mgtSmb => ⟨0x0, 1, 0x200, 4, 1, 0x0, 0x0, 0x0, 0x0, 0x0, 0x0, []⟩
  | .mgtMon => ⟨0x0, 1, 0x204, 4, 1, 0x0, 0x0, 0x0, 0x0, 0x0, 0x0, []⟩
  | .glbId => ⟨0x0, 1, 0x0, 4, 1, 0x1A10B71, 0x0, 0x0, 0x0, 0x0, 0x0, []⟩
  | .glbUid => ⟨0x0, 1, 0x4, 4, 4, 0x0, 0x0, 0x0, 0x0, 0x0, 0x0, []⟩
  | .glbSerial => ⟨0x0, 1, 0x14, 4, 3, 0x0, 0x0, 0x0, 0x0, 0x0, 0x0, []⟩
  | .glbFw => ⟨0x0, 1, 0x20, 4, 1, 0x0, 0x0, 0x0, 0x0, 0x0, 0x0, []⟩
  | .glbCapArray => ⟨0x0, 1, 0x40, 4, 1, 0x80CFF0, 0x0, 0x0, 0x0, 0x0, 0x0, []⟩
  | .glbCapRate => ⟨0x0, 1, 0x44, 4, 1, 0x410899A, 0x0, 0x0, 0x0, 0x0, 0x0, []⟩
  | .glbCapLat => ⟨0x0, 1, 0x48, 4, 1, 0x4104032, 0x0, 0x0, 0x0, 0x0, 0x0, []⟩
  | .glbCapNum => ⟨0x0, 1, 0x4C, 4, 1, 0x14820, 0x0, 0x0, 0x0, 0x0, 0x0, []⟩
  | .glbCapFn => ⟨0x0, 1, 0x50, 4, 1, 0xFFFF, 0x0, 0x0, 0x0, 0x0, 0x0, []⟩
  | .glbCapSize => ⟨0x0, 1, 0x54, 4, 1, 0x1111000, 0x0, 0x0, 0x0, 0x0, 0x0, []⟩
  | .glbCapCloves => ⟨0x0, 1, 0x58, 4, 1, 0x4108000, 0x0, 0x0, 0x0, 0x0, 0x0, []⟩
  | .glbCapParts => ⟨0x0, 1, 0x5C, 4, 1, 0xFFFFFFFF, 0x0, 0x0, 0x0, 0x0, 0x0, []⟩
  | .glbCapSrv => ⟨0x0, 1, 0x60, 4, 1, 0x68001000, 0x0, 0x0, 0x0, 0x0, 0x0, []⟩
  | .glbCapSrv2 => ⟨0x0, 1, 0x64, 4, 1, 0x40840012, 0x0, 0x0, 0x0, 0x0, 0x0, []⟩
  | .glbCapSeq => ⟨0x0, 1, 0x68, 4, 1, 0x100000, 0x0, 0x0, 0x0, 0x0, 0x0, []⟩
  | .glbCapStep => ⟨0x0, 1, 0x6C, 4, 1, 0x3B60258, 0x0, 0x0, 0x0, 0x0, 0x0, []⟩
  | .glbCapRail => ⟨0x0, 1, 0x70, 4, 1, 0x30C8C258, 0x0, 0x0, 0x0, 0x0, 0x0, []⟩
  | .hifCap => ⟨0x10000, 1, 0x80, 4, 1, 0x80100608, 0x0, 0x0, 0x0, 0x0, 0x0, []⟩
  | .prtSroundSeed => ⟨0x20000, 32, 0x20, 4, 1, 0x0, 0xFFFFFFFF, 0x0, 0x0, 0x0, 0x0, []⟩
  | .fldId => ⟨0x80000, 96, 0x0, 4, 1, 0x10C000, 0x0, 0x0, 0x0, 0x0, 0x0, []⟩
  | .fldIntCnt0 => ⟨0x80000, 96, 0x100, 4, 1, 0x0, 0x0, 0x0, 0x0, 0x0, 0x0, []⟩
  | .fldIntCnt1 => ⟨0x80000, 96, 0x104, 4, 1, 0x0, 0x0, 0x0, 0x0, 0x0, 0x0, []⟩
  | .fldIntCnt2 => ⟨0x80000, 96, 0x108, 4, 1, 0x0, 0x0, 0x0, 0x0, 0x0, 0x0, []⟩
  | .fldIntCtrl => ⟨0x80000, 96, 0x10C, 4, 1, 0x0, 0x0, 0x0, 0x0, 0x0, 0x1, []⟩
  | .fldClvSel => ⟨0x80000, 96, 0x110, 4, 1, 0x0, 0x3FFF, 0x0, 0x0, 0x0, 0x0, []⟩
  | .fldClvCnt => ⟨0x80000, 96, 0x114, 4, 1, 0x0, 0x0, 0x0, 0x0, 0x0, 0x0, []⟩
  | .hifGstpgLo => ⟨0x10000, 1, 0x20, 8, 2, 0x0, 0xFFFFFC00, 0x0, 0x0, 0x0, 0x0, []⟩
  | .hifGstpgHi => ⟨0x10000, 1, 0x24, 8, 2, 0x0, 0xFFFFFFFF, 0x0, 0x0, 0x0, 0x0, []⟩

/-- Every register name, in the order of the tables. -/
def Reg.all : List Reg :=
  ([.fldScrEcc, .fldScrCtrl, .fldDspCtrl, .fldDspStat, .fldDspCnt, .fldFabStat, .prtHbmBase, .prtHbmSize, .memCap, .memStkStat, .memStkChmap, .memStkPend, .memEpochCtrl, .memSpillCtl, .memSpillPmask, .memSpillBasel, .memSpillBaseh, .memSpillSize, .prtKvCtrl, .prtKvTablo] : List Reg) ++
  ([.prtKvTabhi, .prtKvFtlo, .prtKvFthi, .prtKvFrames, .prtKvPsize, .prtKvSpill, .prtKvSeg, .prtKvSegc, .fldKvwStat, .fldKvwCtrl, .prtSrvQuota, .prtSrvCtrl, .prtSrvArealo, .prtSrvAreahi, .prtSrvStat, .prtSrvEvt, .hifOwn, .hifConflict, .hifLink, .prtLock] : List Reg) ++
  ([.prtGroup, .prtSqBasel, .prtSqBaseh, .prtSqCfg, .prtCqBasel, .prtCqBaseh, .prtCqCfg, .prtCqTail, .prtStpgLo, .prtStpgHi, .vngCap, .vngNode, .vngNodestat, .vngEtype, .vngMirror, .vngCollStat, .vngPort, .prtVngCalllo, .prtVngCallhi, .prtVngCallen] : List Reg) ++
  ([.prtVngFlowq, .prtVngGrplo, .prtVngGrphi, .pwrCap, .pwrFloor, .pwrAllot, .pwrStat, .pwrMeas, .pwrHint, .pwrCaps, .pwrBwarn, .pwrCtrl, .fldPwrRail, .fldPwrAge, .fldPwrTemp, .fldPwrEst, .prtPwrStrip, .prtPwrStat, .prtReset, .glbStart] : List Reg) ++
  ([.glbReset, .glbMapCtrl, .glbRetire, .glbCumin, .fldMapStat, .fldMapMoved0, .fldMapMoved1, .fldMapMoved2, .errLogHead, .errLogSel, .errLogData, .errGate, .errAlert, .errAlertMask, .errPlog, .prtErrPolicy, .mgtSmb, .mgtMon, .glbId, .glbUid] : List Reg) ++
  ([.glbSerial, .glbFw, .glbCapArray, .glbCapRate, .glbCapLat, .glbCapNum, .glbCapFn, .glbCapSize, .glbCapCloves, .glbCapParts, .glbCapSrv, .glbCapSrv2, .glbCapSeq, .glbCapStep, .glbCapRail, .hifCap, .prtSroundSeed, .fldId, .fldIntCnt0, .fldIntCnt1] : List Reg) ++
  ([.fldIntCnt2, .fldIntCtrl, .fldClvSel, .fldClvCnt, .hifGstpgLo, .hifGstpgHi] : List Reg)

/-- BAR0 offset of member idx of a register in block blk (R452). -/
def Reg.addr (r : Reg) (blk idx : Nat) : Nat :=
  r.info.base + blk * 0x1000 + r.info.off + idx * r.info.stride

/-- The register, block and member that an offset holds, if any (R453). -/
def Reg.at? (off : Nat) : Option (Reg × Nat × Nat) :=
  Reg.all.findSome? fun r =>
    let i := r.info
    if off < i.base then none else
    let d := off - i.base
    let blk := if i.blocks = 1 then 0 else d / 0x1000
    let w := if i.blocks = 1 then d else d % 0x1000
    if blk < i.blocks ∧ i.off ≤ w ∧ (w - i.off) % i.stride = 0 ∧ (w - i.off) / i.stride < i.count then
      some (r, blk, (w - i.off) / i.stride)
    else none

/-- The reset value of a register; LEAD resets to the partition itself, FLD_ID to the field and its
partition, and the identification registers hold the unit's identifiers (R328, R456, R460). -/
def Reg.resetVal (r : Reg) (blk idx : Nat) : W32 :=
  if r = .prtGroup then BitVec.ofNat 32 blk else
  if r = .fldId then BitVec.ofNat 32 (r.info.reset + blk + (blk / 3) * 128) else
  if r = .glbUid then (Config.uid >>> (32 * idx)).setWidth 32 else
  if r = .glbSerial then (Config.serial >>> (32 * idx)).setWidth 32 else
  BitVec.ofNat 32 r.info.reset

end Sys2Proof.Machine
end

