-- ==== Sys2Proof/Machine/Flags.lean ====
section
/-! DEFINITION. Register access by name, the status and error flags, log records and the class of every
event (R420 to R427, R434 to R437). -/
namespace Sys2Proof.Machine

/-- What a command answers. -/
abbrev Outcome := Host.Outcome State Fault Refusal

/-! ### Registers by name (R452) -/

/-- The register r, member idx, of block blk. -/
def State.reg (s : State) (r : Reg) (blk idx : Nat) : W32 := s.regs.atD (r.addr blk idx) (r.resetVal blk idx)

/-- The state with that register set. -/
def State.setReg (s : State) (r : Reg) (blk idx : Nat) (v : W32) : State :=
  { s with regs := s.regs.put (r.addr blk idx) v }

/-- Bits [hi:lo] of a register. -/
def State.fld (s : State) (r : Reg) (blk idx hi lo : Nat) : Nat := regField (s.reg r blk idx) hi lo

/-- The state with bits [hi:lo] of a register set. -/
def State.setFld (s : State) (r : Reg) (blk idx hi lo v : Nat) : State :=
  s.setReg r blk idx (regWith (s.reg r blk idx) hi lo v)

/-- The state with a saturating count in bits [hi:lo] increased by n. -/
def State.addFld (s : State) (r : Reg) (blk idx hi lo n : Nat) : State :=
  s.setFld r blk idx hi lo (Min.min (s.fld r blk idx hi lo + n) (2 ^ (hi + 1 - lo) - 1))

/-- One bit of a register. -/
def State.flag (s : State) (r : Reg) (blk idx n : Nat) : Bool := (s.reg r blk idx).getLsbD n

/-! ### Event codes (Table 16.2) -/

/-- The event codes. -/
inductive Code where
  /-- ARRAY_INTEGRITY, 0x0301, class DATA. -/
  | arrayIntegrity
  /-- BCAST_PARITY, 0x0302, class DATA. -/
  | bcastParity
  /-- GANG_ALIGN, 0x0310, class REQUEST. -/
  | gangAlign
  /-- GANG_MISMATCH, 0x0311, class REQUEST. -/
  | gangMismatch
  /-- GANG_POWER, 0x0312, class REQUEST. -/
  | gangPower
  /-- GANG_QUARANTINED, 0x0313, class REQUEST. -/
  | gangQuarantined
  /-- SET_MODE, 0x0314, class REQUEST. -/
  | setMode
  /-- ARRAY_ENCODING, 0x0315, class REQUEST. -/
  | arrayEncoding
  /-- FORMAT_PAIR, 0x0316, class REQUEST. -/
  | formatPair
  /-- FORM_MISMATCH, 0x0317, class REQUEST. -/
  | formMismatch
  /-- REGION_CONFLICT, 0x0318, class REQUEST. -/
  | regionConflict
  /-- SFU_ENCODING, 0x0319, class REQUEST. -/
  | sfuEncoding
  /-- SFU_SLOT_EMPTY, 0x031A, class REQUEST. -/
  | sfuSlotEmpty
  /-- SCR_UE, 0x0401, class DATA. -/
  | scrUe
  /-- SCR_ENCODING, 0x0410, class REQUEST. -/
  | scrEncoding
  /-- REGION_UNSET, 0x0411, class REQUEST. -/
  | regionUnset
  /-- REGION_ROLE, 0x0412, class REQUEST. -/
  | regionRole
  /-- REGION_SHAPE, 0x0413, class REQUEST. -/
  | regionShape
  /-- REGION_OVERLAP, 0x0414, class REQUEST. -/
  | regionOverlap
  /-- REMOTE_BOUNDS, 0x0415, class REQUEST. -/
  | remoteBounds
  /-- REMOTE_POWER, 0x0416, class REQUEST. -/
  | remotePower
  /-- CREDIT_BIND, 0x0417, class REQUEST. -/
  | creditBind
  /-- REMOTE_REGION, 0x0418, class REQUEST. -/
  | remoteRegion
  /-- CLASS_RANGE, 0x0207, class REQUEST. -/
  | classRange
  /-- LOOP_ENCODING, 0x0510, class REQUEST. -/
  | loopEncoding
  /-- ORDER_TABLE, 0x0511, class REQUEST. -/
  | orderTable
  /-- TILE_OVERFLOW, 0x0512, class REQUEST. -/
  | tileOverflow
  /-- DISPATCH_UNARMED, 0x0513, class REQUEST. -/
  | dispatchUnarmed
  /-- SQ_MARK, 0x0601, class DATA. -/
  | sqMark
  /-- LINK_UE, 0x0602, class DATA. -/
  | linkUe
  /-- MARKED_CONTROL, 0x0610, class REQUEST. -/
  | markedControl
  /-- FAB_ENCODING, 0x0611, class REQUEST. -/
  | fabEncoding
  /-- SQ_UNSET, 0x0612, class REQUEST. -/
  | sqUnset
  /-- SQ_RANGE, 0x0613, class REQUEST. -/
  | sqRange
  /-- BARRIER_COUNT, 0x0614, class REQUEST. -/
  | barrierCount
  /-- SPILL_FAIL, 0x0701, class DATA. -/
  | spillFail
  /-- CHAN_FAILING, 0x0702, class NOTICE. -/
  | chanFailing
  /-- HBM_EPOCH, 0x0703, class NOTICE. -/
  | hbmEpoch
  /-- HBM_WIN_RANGE, 0x0710, class SETUP. -/
  | hbmWinRange
  /-- HBM_WIN_OVERLAP, 0x0711, class SETUP. -/
  | hbmWinOverlap
  /-- KV_OFF, 0x0810, class REQUEST. -/
  | kvOff
  /-- KV_PLAN, 0x0811, class REQUEST. -/
  | kvPlan
  /-- KV_UNMAPPED, 0x0812, class REQUEST. -/
  | kvUnmapped
  /-- KV_APPEND_GAP, 0x0813, class REQUEST. -/
  | kvAppendGap
  /-- KV_GLIST, 0x0814, class REQUEST. -/
  | kvGlist
  /-- KV_VISITS, 0x0815, class REQUEST. -/
  | kvVisits
  /-- KV_TABLE, 0x0816, class REQUEST. -/
  | kvTable
  /-- KV_POOL_EXHAUSTED, 0x0817, class REQUEST. -/
  | kvPoolExhausted
  /-- RANGE_SAT, 0x0901, class DATA. -/
  | rangeSat
  /-- STALL, 0x0902, class REQUEST. -/
  | stall
  /-- FLOW_LOST, 0x0903, class REQUEST. -/
  | flowLost
  /-- MIRROR_MISMATCH, 0x0904, class REQUEST. -/
  | mirrorMismatch
  /-- COLL_FAIL, 0x0905, class DATA. -/
  | collFail
  /-- ABORT_TIMEOUT, 0x0A01, class PARTITION. -/
  | abortTimeout
  /-- SAFETY_OFF, 0x0A02, class PARTITION. -/
  | safetyOff
  /-- PAIR_RESET, 0x0B01, class MODULE. -/
  | pairReset
  /-- BLOCK_TAKEOVER, 0x0B02, class MODULE. -/
  | blockTakeover
  /-- MODULE_RESET, 0x0B03, class MODULE. -/
  | moduleReset
  /-- MAP_EPOCH, 0x0C01, class NOTICE. -/
  | mapEpoch
  /-- MAP_FALLBACK, 0x0C02, class NOTICE. -/
  | mapFallback
  /-- SPARES_LOW, 0x0C03, class NOTICE. -/
  | sparesLow
  /-- AGEING_LIMIT, 0x0C04, class NOTICE. -/
  | ageingLimit
  /-- REG_PHASE, 0x0C05, class NOTICE. -/
  | regPhase
  /-- REG_FAIL, 0x0C06, class NOTICE. -/
  | regFail
  /-- NODE_CONFLICT, 0x0C07, class NOTICE. -/
  | nodeConflict
  /-- OPEN_CLAMP, 0x0C08, class NOTICE. -/
  | openClamp
  /-- ENV_WARN, 0x0C09, class NOTICE. -/
  | envWarn
  /-- HOST_ACCESS, 0x0D01, class SETUP. -/
  | hostAccess
  /-- LOCK_VIOLATION, 0x0D02, class SETUP. -/
  | lockViolation
  /-- KV_SETUP_RANGE, 0x0D03, class SETUP. -/
  | kvSetupRange
  /-- SRV_SETUP_RANGE, 0x0D04, class SETUP. -/
  | srvSetupRange
  /-- COLL_SETUP_RANGE, 0x0D05, class SETUP. -/
  | collSetupRange
  deriving DecidableEq, Repr

/-- The value of a code (R421). -/
def Code.val : Code → Nat
  | .arrayIntegrity => 0x0301
  | .bcastParity => 0x0302
  | .gangAlign => 0x0310
  | .gangMismatch => 0x0311
  | .gangPower => 0x0312
  | .gangQuarantined => 0x0313
  | .setMode => 0x0314
  | .arrayEncoding => 0x0315
  | .formatPair => 0x0316
  | .formMismatch => 0x0317
  | .regionConflict => 0x0318
  | .sfuEncoding => 0x0319
  | .sfuSlotEmpty => 0x031A
  | .scrUe => 0x0401
  | .scrEncoding => 0x0410
  | .regionUnset => 0x0411
  | .regionRole => 0x0412
  | .regionShape => 0x0413
  | .regionOverlap => 0x0414
  | .remoteBounds => 0x0415
  | .remotePower => 0x0416
  | .creditBind => 0x0417
  | .remoteRegion => 0x0418
  | .classRange => 0x0207
  | .loopEncoding => 0x0510
  | .orderTable => 0x0511
  | .tileOverflow => 0x0512
  | .dispatchUnarmed => 0x0513
  | .sqMark => 0x0601
  | .linkUe => 0x0602
  | .markedControl => 0x0610
  | .fabEncoding => 0x0611
  | .sqUnset => 0x0612
  | .sqRange => 0x0613
  | .barrierCount => 0x0614
  | .spillFail => 0x0701
  | .chanFailing => 0x0702
  | .hbmEpoch => 0x0703
  | .hbmWinRange => 0x0710
  | .hbmWinOverlap => 0x0711
  | .kvOff => 0x0810
  | .kvPlan => 0x0811
  | .kvUnmapped => 0x0812
  | .kvAppendGap => 0x0813
  | .kvGlist => 0x0814
  | .kvVisits => 0x0815
  | .kvTable => 0x0816
  | .kvPoolExhausted => 0x0817
  | .rangeSat => 0x0901
  | .stall => 0x0902
  | .flowLost => 0x0903
  | .mirrorMismatch => 0x0904
  | .collFail => 0x0905
  | .abortTimeout => 0x0A01
  | .safetyOff => 0x0A02
  | .pairReset => 0x0B01
  | .blockTakeover => 0x0B02
  | .moduleReset => 0x0B03
  | .mapEpoch => 0x0C01
  | .mapFallback => 0x0C02
  | .sparesLow => 0x0C03
  | .ageingLimit => 0x0C04
  | .regPhase => 0x0C05
  | .regFail => 0x0C06
  | .nodeConflict => 0x0C07
  | .openClamp => 0x0C08
  | .envWarn => 0x0C09
  | .hostAccess => 0x0D01
  | .lockViolation => 0x0D02
  | .kvSetupRange => 0x0D03
  | .srvSetupRange => 0x0D04
  | .collSetupRange => 0x0D05

/-- The class of a code: 0 NOTICE, 1 DATA, 2 REQUEST, 3 PARTITION, 4 MODULE, 5 SETUP (R420, R421). -/
def Code.cls : Code → Nat
  | .arrayIntegrity => 1
  | .bcastParity => 1
  | .gangAlign => 2
  | .gangMismatch => 2
  | .gangPower => 2
  | .gangQuarantined => 2
  | .setMode => 2
  | .arrayEncoding => 2
  | .formatPair => 2
  | .formMismatch => 2
  | .regionConflict => 2
  | .sfuEncoding => 2
  | .sfuSlotEmpty => 2
  | .scrUe => 1
  | .scrEncoding => 2
  | .regionUnset => 2
  | .regionRole => 2
  | .regionShape => 2
  | .regionOverlap => 2
  | .remoteBounds => 2
  | .remotePower => 2
  | .creditBind => 2
  | .remoteRegion => 2
  | .classRange => 2
  | .loopEncoding => 2
  | .orderTable => 2
  | .tileOverflow => 2
  | .dispatchUnarmed => 2
  | .sqMark => 1
  | .linkUe => 1
  | .markedControl => 2
  | .fabEncoding => 2
  | .sqUnset => 2
  | .sqRange => 2
  | .barrierCount => 2
  | .spillFail => 1
  | .chanFailing => 0
  | .hbmEpoch => 0
  | .hbmWinRange => 5
  | .hbmWinOverlap => 5
  | .kvOff => 2
  | .kvPlan => 2
  | .kvUnmapped => 2
  | .kvAppendGap => 2
  | .kvGlist => 2
  | .kvVisits => 2
  | .kvTable => 2
  | .kvPoolExhausted => 2
  | .rangeSat => 1
  | .stall => 2
  | .flowLost => 2
  | .mirrorMismatch => 2
  | .collFail => 1
  | .abortTimeout => 3
  | .safetyOff => 3
  | .pairReset => 4
  | .blockTakeover => 4
  | .moduleReset => 4
  | .mapEpoch => 0
  | .mapFallback => 0
  | .sparesLow => 0
  | .ageingLimit => 0
  | .regPhase => 0
  | .regFail => 0
  | .nodeConflict => 0
  | .openClamp => 0
  | .envWarn => 0
  | .hostAccess => 5
  | .lockViolation => 5
  | .kvSetupRange => 5
  | .srvSetupRange => 5
  | .collSetupRange => 5

/-! ### Partition groups (R328) -/

/-- The leader of a partition's group. -/
def State.lead (s : State) (p : Nat) : Nat := s.fld .prtGroup p 0 4 0

/-- The partitions of the group led by l. -/
def State.group (s : State) (l : Nat) : List Nat := (List.range 32).filter (fun p => s.lead p == l)

/-- The module has reached Ready (Table 15.7). -/
def State.ready (s : State) : Bool := s.flag .glbStart 0 0 4

/-- The request of a group that is RUNNING, PAUSING or EXPORTING (R298, R426). -/
def State.active (s : State) (l : Nat) : Option Request :=
  s.srv.reqs.find? (fun r => r.group == l && (r.st == .running || r.st == .pausing || r.st == .exporting))

/-- A request by its ID. -/
def State.req (s : State) (id : Nat) : Option Request := s.srv.reqs.find? (fun r => r.id == id)

/-- The state with the request of an ID changed. -/
def State.modReq (s : State) (id : Nat) (f : Request → Request) : State :=
  { s with srv := { s.srv with reqs := s.srv.reqs.map (fun r => if r.id = id then f r else r) } }

/-- A group has made progress: an instruction issues or completes, a transfer completes, or an export message is
acknowledged (R428). -/
def State.progressed (s : State) (part : Nat) : State :=
  { s with err := { s.err with progress := s.err.progress.put (s.lead part) true } }

/-! ### Log records (R422, R434, R435, R436) -/

/-- The ns since Ready, 0 before Ready (Table 16.3). -/
def State.sinceReady (s : State) : Nat := if s.ready then s.up.time - s.up.readyAt else 0

/-- Classes and codes that the persistent log keeps (R435). -/
def Code.persists (c : Code) : Bool :=
  c.cls = 0 || c.cls = 3 || c.cls = 4 || c = .arrayIntegrity || c = .bcastParity || c = .scrUe || c = .linkUe

/-- The bit of ERR_ALERT that an event sets, if any (Table 16.8). -/
def Code.alert (c : Code) : Option Nat :=
  if c.cls = 3 then some 0 else if c.cls = 4 then some 1 else
  match c with
  | .chanFailing => some 2
  | .nodeConflict => some 3
  | .sparesLow => some 4
  | .envWarn => some 5
  | _ => none

/-- A bit of ERR_ALERT set; SMB_ALERT_N is asserted again when the bit was clear and is unmasked (R437, R445). -/
def State.setAlert (s : State) (n : Nat) : State :=
  if s.flag .errAlert 0 0 n then s else
  let masked := s.flag .errAlertMask 0 0 n
  { s.setFld .errAlert 0 0 n n 1 with mgmt := { s.mgmt with released := s.mgmt.released && masked } }

/-- SMB_ALERT_N is asserted (R437, R445): an unmasked alert bit is set, the bus agent has an address,
and no Alert Response has released the line since. -/
def State.alertLine (s : State) : Bool :=
  decide ((s.reg .errAlert 0 0 &&& ~~~(s.reg .errAlertMask 0 0) &&& 0x3F) ≠ 0) &&
    s.flag .mgtSmb 0 0 7 && !s.mgmt.released

/-- The counts of COUNTS (Table 16.7) with one more event of a class. -/
def bumpCounts (cs : List Nat) (cls : Nat) : List Nat :=
  (List.range 4).map (fun i => (cs.getD i 0 + if cls = i + 1 then 1 else 0) % 65536)

/-- RECENT, newest first: at most 5 records kept for each partition (Table 16.7). -/
def keepRecent (r : LogRec) (rs : List LogRec) : List LogRec :=
  let same := (rs.filter (fun q => q.part == r.part)).take 4
  r :: rs.filter (fun q => q.part != r.part || same.contains q)

/-- One log record written: SEQ, TIME, the volatile log, ERR_LOG_HEAD, the error summary and, for the
codes R435 names, the queue of the persistent log (R422, R434 to R437). -/
def State.logRaw (s : State) (code cls : Nat) (persist : Bool) (part h0 h1 w2 w3 : Nat) : State :=
  let r : LogRec := ⟨s.err.nextSeq, s.sinceReady, code, cls, part, h0 % 2 ^ 16, h1 % 2 ^ 16, w2 % 2 ^ 32, w3 % 2 ^ 32⟩
  let e := s.err
  let e := { e with
    nextSeq := e.nextSeq + 1
    log := e.log.put (e.nextSeq % 4096) r
    plogWait := if persist then e.plogWait ++ [r] else e.plogWait
    counts := if s.ready then e.counts.put part (bumpCounts (e.counts.atD part []) cls) else e.counts
    recent := if s.ready then keepRecent r e.recent else e.recent }
  { s with err := e }.setReg .errLogHead 0 0 (BitVec.ofNat 32 s.err.nextSeq)

/-- A record of a code, with the alert bit it sets (R422, R437). -/
def State.log (s : State) (c : Code) (part h0 h1 w2 w3 : Nat) : State :=
  let s := s.logRaw c.val c.cls c.persists part h0 h1 w2 w3
  match c.alert with
  | some n => s.setAlert n
  | none => s

/-! ### Containment of the classes DATA and REQUEST (R420, R424, R426) -/

/-- The event that first voids the active request of a group (R423, R438). -/
def State.voidReq (s : State) (l code cls part seq : Nat) : State :=
  match s.active l with
  | none => s
  | some r => s.modReq r.id (fun r => if r.void.isSome then r else { r with void := some (code, cls, part, seq) })

/-- A request abort of a group is queued, at once or at the next layer-chunk boundary; an abort under
way takes in a second event (R424, R426, R438). -/
def State.queueAbort (s : State) (l code cls seq : Nat) (atBoundary : Bool) : State :=
  match s.err.aborts.find? (fun a => a.group == l) with
  | some a =>
    if a.atBoundary && !atBoundary then
      { s with err := { s.err with aborts := s.err.aborts.map (fun b =>
        if b.group = l then { b with atBoundary := false } else b) } }
    else s
  | none => { s with err := { s.err with aborts := s.err.aborts ++ [⟨l, code, cls, seq, atBoundary⟩] } }

/-- What the class of an event does to the group of partition part: DATA voids the active request at
its next boundary, REQUEST aborts at once (R420, R424, R426, R427). -/
def State.contain (s : State) (c : Code) (part seq : Nat) : State :=
  if part ≥ 32 then s else
  let l := s.lead part
  if c.cls = 2 then (s.voidReq l c.val 2 part seq).queueAbort l c.val 2 seq false
  else if c.cls = 1 then
    if (s.active l).isSome then
      (s.voidReq l c.val 1 part seq).queueAbort l c.val 1 seq true
    else s
  else s

/-- An event: its record, then its containment (R420); RANGE_SAT is of class DATA only under RANGE_VOID,
and else a record only, of class NOTICE (R427; entry 94, DEDUCED). -/
def State.event (s : State) (c : Code) (part h0 h1 w2 w3 : Nat) : State :=
  if c = .rangeSat && decide (part < 32) && !s.flag .prtErrPolicy (s.lead part) 0 0 then
    s.logRaw c.val 0 false part h0 h1 w2 w3 else
  (s.log c part h0 h1 w2 w3).contain c part s.err.nextSeq

/-- REQID of the active request of a partition's group, 0 for none (Table 16.4). -/
def State.reqidOf (s : State) (part : Nat) : Nat :=
  match s.active (s.lead part) with
  | some r => r.id
  | none => 0

/-- An event of a clove: x, y, REQID, a value of 28 bits and the engine (Table 16.4). -/
def State.cloveEvent (s : State) (c : Code) (x y engine value : Nat) : State :=
  let part := y / 88 * 4 + x / 384
  s.event c part x y (s.reqidOf part) (value % 2 ^ 28 + engine * 2 ^ 28)

/-- An event of a clove that names more than its record's arguments hold: the further names are kept under its SEQ (R74,
R151, R209; DESIGN CHOICE, entry 126). -/
def State.cloveEventOn (s : State) (c : Code) (x y engine value : Nat) (names : List Nat) : State :=
  ({ s with err := { s.err with named := s.err.named.put s.err.nextSeq names } } : State).cloveEvent c x y engine value

/-- HOST_ACCESS: a host access error at a BAR0 or BAR2 offset (R421). -/
def State.hostAccess (s : State) (part off : Nat) : State := s.log .hostAccess part 0 0 0 off

end Sys2Proof.Machine
end

