-- ==== Sys2Proof/Machine/W44.lean ====
section
/-! DEFINITION. Exact dyadic values, the W44 accumulator (R109 to R114) and the IEEE 754-2019 special
values of its arithmetic. A value is held exactly; rounding happens only where a rule names it. -/
namespace Sys2Proof

/-- A value of the module's arithmetic: NaN, a signed infinity, or ±m × 2^e (m = 0 is a signed zero). -/
inductive Val where
  | nan
  | inf (neg : Bool)
  | fin (neg : Bool) (m : Nat) (e : Int)
  deriving DecidableEq, Repr

/-- +0. -/
def Val.zero : Val := .fin false 0 0
/-- A natural number as a value. -/
def Val.ofNat (n : Nat) : Val := .fin false n 0
/-- An integer as a value. -/
def Val.ofInt (n : Int) : Val := .fin (decide (n < 0)) n.natAbs 0

def Val.isNan : Val → Bool
  | .nan => true
  | _ => false

/-- Finite values are the numbers and both zeros. -/
def Val.isFinite : Val → Bool
  | .fin _ _ _ => true
  | _ => false

def Val.isZero : Val → Bool
  | .fin _ 0 _ => true
  | _ => false

/-- The sign of a value; NaN counts as positive (R110). -/
def Val.sign : Val → Bool
  | .nan => false
  | .inf n => n
  | .fin n _ _ => n

def Val.neg : Val → Val
  | .nan => .nan
  | .inf n => .inf !n
  | .fin n m e => .fin (!n) m e

def Val.abs : Val → Val
  | .nan => .nan
  | .inf _ => .inf false
  | .fin _ m e => .fin false m e

/-- ⌊log₂ |v|⌋ of a non-zero finite value; 0 otherwise. -/
def Val.ilog2 : Val → Int
  | .fin _ (m + 1) e => (m + 1).log2 + e
  | _ => 0

/-- ±m × 2^e as an integer in units of 2^u, for u ≤ e. -/
def Val.units (u : Int) : Val → Int
  | .fin n m e =>
    let k : Int := (m <<< (e - u).toNat : Nat)
    if n then -k else k
  | _ => 0

/-- The exponent of a finite value; 0 otherwise. -/
def Val.expo : Val → Int
  | .fin _ _ e => e
  | _ => 0

/-- A finite value scaled by 2^k, exactly. -/
def Val.scale (k : Int) : Val → Val
  | .fin n m e => .fin n m (e + k)
  | v => v

/-- Sum of two values, exact, with the special values of R113; an exact cancellation is +0 and a sum
of zeros is −0 only when both are. -/
def Val.add (a b : Val) : Val :=
  match a, b with
  | .nan, _ => .nan
  | _, .nan => .nan
  | .inf n, .inf k => if n = k then .inf n else .nan
  | .inf n, _ => .inf n
  | _, .inf k => .inf k
  | .fin n m e, .fin k l f =>
    if m = 0 ∧ l = 0 then .fin (n && k) 0 0 else
    let u := min e f
    let t := Val.units u (.fin n m e) + Val.units u (.fin k l f)
    .fin (decide (t < 0)) t.natAbs u

/-- Product of two values, exact, with the special values of R113. -/
def Val.mul (a b : Val) : Val :=
  match a, b with
  | .nan, _ => .nan
  | _, .nan => .nan
  | .inf n, v => if v.isZero then .nan else .inf (n != v.sign)
  | v, .inf k => if v.isZero then .nan else .inf (v.sign != k)
  | .fin n m e, .fin k l f => .fin (n != k) (m * l) (e + f)

/-- Order of two values that are not NaN: −1, 0 or 1; −0 equals +0 (R94). -/
def Val.order (a b : Val) : Int :=
  match a, b with
  | .inf n, .inf k => (b2n k : Int) - b2n n
  | .inf n, _ => if n then -1 else 1
  | _, .inf k => if k then 1 else -1
  | a, b =>
    let u := min a.expo b.expo
    (Val.units u a - Val.units u b).sign

/-- The comparison predicates GT, GE, LT, LE, EQ, NE of Table 3.5; any comparison with a NaN is false
but NE (R94). -/
def Val.cmp (p : Nat) (a b : Val) : Bool :=
  if a.isNan || b.isNan then p == 5 else
  let o := Val.order a b
  match p with
  | 0 => decide (o > 0)
  | 1 => decide (o ≥ 0)
  | 2 => decide (o < 0)
  | 3 => decide (o ≤ 0)
  | 4 => decide (o = 0)
  | _ => decide (o ≠ 0)

/-- The greater of two values, propagating NaN (R113); +0 is taken before −0. -/
def Val.max (a b : Val) : Val :=
  if a.isNan || b.isNan then .nan else
  if Val.order a b > 0 then a else if Val.order a b < 0 then b else if a.sign then b else a

/-- The smaller of two values, propagating NaN (R113); −0 is taken before +0. -/
def Val.min (a b : Val) : Val :=
  if a.isNan || b.isNan then .nan else
  if Val.order a b < 0 then a else if Val.order a b > 0 then b else if a.sign then a else b

/-! ### Rounding -/

/-- m / 2^k rounded to nearest, ties to even. -/
def rne (m k : Nat) : Nat :=
  let q := m >>> k
  let r := m % 2 ^ k
  if 2 * r > 2 ^ k ∨ (2 * r = 2 ^ k ∧ k ≠ 0 ∧ q % 2 = 1) then q + 1 else q

/-- A value rounded to p bits of precision, ties to even, its exponent unbounded. -/
def Val.roundPrec (p : Nat) : Val → Val
  | .fin n m e =>
    if m.log2 + 1 ≤ p then .fin n m e
    else .fin n (rne m (m.log2 + 1 - p)) (e + (m.log2 + 1 - p : Nat))
  | v => v

/-- One rounding to W44, with underflow to a signed zero and overflow to an infinity judged after it
(R110). -/
def Val.round (v : Val) : Val :=
  match v.roundPrec 32 with
  | .fin n m e =>
    if m = 0 then .fin n 0 0 else
    let r := Val.fin n m e
    if r.ilog2 < -1022 then .fin n 0 0 else if r.ilog2 > 1023 then .inf n else r
  | r => r

/-- The rounded sum (R111). -/
def Val.addR (a b : Val) : Val := (Val.add a b).round
/-- The rounded difference. -/
def Val.subR (a b : Val) : Val := (Val.add a b.neg).round
/-- The rounded product. -/
def Val.mulR (a b : Val) : Val := (Val.mul a b).round

/-- The quotient, rounded once to W44 (R150, R153), with the special values of IEEE 754-2019. -/
def Val.divR (a b : Val) : Val :=
  match a, b with
  | .nan, _ => .nan
  | _, .nan => .nan
  | .inf _, .inf _ => .nan
  | .inf n, v => .inf (n != v.sign)
  | v, .inf k => .fin (v.sign != k) 0 0
  | .fin n m e, .fin k l f =>
    if l = 0 then (if m = 0 then .nan else .inf (n != k)) else
    if m = 0 then .fin (n != k) 0 0 else
    let sh := 40 + (l.log2 + 1 - m.log2)
    let q := (m <<< sh) / l
    let r := (m <<< sh) % l
    (Val.fin (n != k) (2 * q + (if r = 0 then 0 else 1)) (e - f - sh - 1)).round

/-! ### The W44 container (R109, R110) -/

/-- The value of a W44 container (R110). -/
def w44Val (w : W64) : Val :=
  let sig := bitField w.toNat 0 32
  let exp := bitField w.toNat 32 11
  let neg := w.getLsbD 43
  if exp = 0 then .fin neg 0 0 else
  if exp = 2047 then (if sig = 0 then .inf neg else .nan) else .fin neg sig ((exp : Int) - 1054)

/-- The NaN container that the module writes: SIGN 0, EXP 2,047, SIG 0xC000_0000 (R110). -/
def w44Nan : W64 := BitVec.ofNat 64 (2047 * 2 ^ 32 + 0xC0000000)

/-- The container of a value already rounded to W44: normalised, NaN in the pattern of R110. -/
def w44Of (v : Val) : W64 :=
  match v with
  | .nan => w44Nan
  | .inf n => BitVec.ofNat 64 (b2n n * 2 ^ 43 + 2047 * 2 ^ 32)
  | .fin n m e =>
    if m = 0 then BitVec.ofNat 64 (b2n n * 2 ^ 43) else
    let sig := if m.log2 ≤ 31 then m <<< (31 - m.log2) else m >>> (m.log2 - 31)
    let exp := e + (m.log2 : Int) - 31 + 1054
    BitVec.ofNat 64 (b2n n * 2 ^ 43 + exp.toNat * 2 ^ 32 + sig)

/-- A value rounded to W44 and put in its container. -/
def w44Put (v : Val) : W64 := w44Of v.round

/-! ### Binary32 (R131, R146) -/

/-- The value of a binary32 word. -/
def b32Val (w : Nat) : Val :=
  let man := bitField w 0 23
  let exp := bitField w 23 8
  let neg := bitField w 31 1 == 1
  if exp = 255 then (if man = 0 then .inf neg else .nan) else
  if exp = 0 then .fin neg man (-149) else .fin neg (man + 2 ^ 23) ((exp : Int) - 150)

/-- ⌈m / 2^k⌉. -/
def ceilShift (m k : Nat) : Nat := (m + 2 ^ k - 1) >>> k

/-- A value written as binary32 rounded toward +∞ (Table 5.10); NaN is not kept (R117). -/
def b32Up (v : Val) : Nat :=
  match v with
  | .nan => 0x7FFFFFFF
  | .inf n => b2n n * 2 ^ 31 + 0x7F800000
  | .fin n m e =>
    if m = 0 then b2n n * 2 ^ 31 else
    let q : Int := Max.max (e + (m.log2 : Int) - 23) (-149)
    let r := if q ≤ e then m <<< (e - q).toNat
      else if n then m >>> (q - e).toNat else ceilShift m (q - e).toNat
    if r = 0 then b2n n * 2 ^ 31 else
    let r' := if r < 2 ^ 24 then r else r / 2
    let q' := if r < 2 ^ 24 then q else q + 1
    if r' < 2 ^ 23 then b2n n * 2 ^ 31 + r' else
    let ex := q' + 150
    if ex ≥ 255 then (if n then 0xFF7FFFFF else 0x7F800000)
    else b2n n * 2 ^ 31 + ex.toNat * 2 ^ 23 + (r' - 2 ^ 23)

end Sys2Proof
end

