-- ==== Sys2Proof/Machine/Formats.lean ====
section
/-! DEFINITION. Storage formats, shared scales, conversion out and stochastic rounding (R103 to R108,
R117 to R124), with the layouts of Tables 4.1, 4.2 and 4.5. -/
namespace Sys2Proof

/-! ### Formats (Table 3.6, Table 4.1) -/

/-- The layout of a binary floating-point format: exponent bits, significand bits stored, bias,
whether it has infinities and NaN, and its largest finite value as m × 2^e with m of the full precision. -/
structure FloatFmt where
  eb : Nat
  mb : Nat
  bias : Nat
  hasInf : Bool
  hasNan : Bool
  maxM : Nat
  maxE : Int
  deriving DecidableEq, Repr

/-- The float formats of Table 4.1, and binary32 (code 0x9). -/
def floatFmt (code : Nat) : Option FloatFmt :=
  match code with
  | 0 => some ⟨4, 3, 7, false, true, 14, 5⟩
  | 1 => some ⟨5, 2, 15, true, true, 7, 13⟩
  | 2 => some ⟨3, 2, 3, false, false, 7, 2⟩
  | 3 => some ⟨2, 3, 1, false, false, 15, -1⟩
  | 4 => some ⟨2, 1, 1, false, false, 3, 1⟩
  | 7 => some ⟨8, 7, 127, true, true, 255, 120⟩
  | 8 => some ⟨5, 10, 15, true, true, 2047, 5⟩
  | 9 => some ⟨8, 23, 127, true, true, 16777215, 104⟩
  | _ => none

/-- MX formats share a scale over a block (R104). -/
def isMx (code : Nat) : Bool := code ≤ 5

/-- Container width of an element in bits (R160, Table 4.1). -/
def elemBits (code : Nat) : Nat :=
  match code with
  | 4 => 4
  | 7 => 16
  | 8 => 16
  | 9 => 32
  | 15 => 64
  | _ => 8

/-- A code of Table 3.6 that an operand may carry: 0x0 to 0x8. -/
def isOperandFmt (code : Nat) : Bool := code ≤ 8
/-- A code that OFMT may carry (Table 4.5): 0x0 to 0x9 and 0xF. -/
def isOutFmt (code : Nat) : Bool := code ≤ 9 || code == 15

/-- Pair classes of R92: 0 the 8-bit and 4-bit floats, 1 the integers, 2 the 16-bit floats. -/
def pairClass (code : Nat) : Nat := if code ≤ 4 then 0 else if code ≤ 6 then 1 else 2

/-- emax of Table 4.6. -/
def mxEmax (code : Nat) : Int :=
  match code with
  | 0 => 8
  | 1 => 15
  | 2 => 4
  | 3 => 2
  | 4 => 2
  | _ => 0

/-- A float element of a format, decoded exactly; subnormals keep their value (R107). -/
def floatVal (f : FloatFmt) (bits : Nat) : Val :=
  let man := bitField bits 0 f.mb
  let exp := bitField bits f.mb f.eb
  let neg := bitField bits (f.mb + f.eb) 1 == 1
  let top := 2 ^ f.eb - 1
  if f.hasInf && exp == top then (if man = 0 then .inf neg else .nan) else
  if f.hasNan && !f.hasInf && exp == top && man == 2 ^ f.mb - 1 then .nan else
  if exp = 0 then .fin neg man (1 - (f.bias : Int) - f.mb)
  else .fin neg (man + 2 ^ f.mb) ((exp : Int) - f.bias - f.mb)

/-- An element without its shared scale (R103, R107). -/
def elemVal (code bits : Nat) : Val :=
  match floatFmt code with
  | some f => floatVal f bits
  | none =>
    if code = 5 then (Val.ofInt (signedOf 8 (bits % 256))).scale (-6)
    else if code = 6 then Val.ofInt (signedOf 8 (bits % 256))
    else w44Val (BitVec.ofNat 64 bits)

/-- An element with its shared scale: scale byte 0xFF makes every element NaN (R104). -/
def decodeElem (code : Nat) (bits : Nat) (scale : Byte) : Val :=
  if isMx code then
    if scale = 255 then .nan else (elemVal code bits).scale ((scale.toNat : Int) - 127)
  else elemVal code bits

/-- The smallest normal's exponent of a float format. -/
def FloatFmt.emin (f : FloatFmt) : Int := 1 - (f.bias : Int)

/-! ### Conversion out (R117, R118, R121) -/

/-- An element written by a conversion: its bits, and whether R118 counts it. -/
structure Conv where
  bits : Nat
  sat : Bool
  deriving DecidableEq, Repr

/-- The place of the last bit kept for a value in a format: subnormals share the lowest place. -/
def FloatFmt.place (f : FloatFmt) (v : Val) : Int := Max.max (v.ilog2 - f.mb) (f.emin - f.mb)

/-- Encodes r × 2^q, r within the format's precision, at or below its largest finite value. -/
def FloatFmt.encode (f : FloatFmt) (neg : Bool) (r : Nat) (q : Int) : Nat :=
  let s := b2n neg * 2 ^ (f.eb + f.mb)
  let r' := if r < 2 ^ (f.mb + 1) then r else r / 2
  let q' := if r < 2 ^ (f.mb + 1) then q else q + 1
  if r' < 2 ^ f.mb then s + r' else s + (q' + f.bias + f.mb).toNat * 2 ^ f.mb + (r' - 2 ^ f.mb)

/-- The NaN pattern of R117: exponent and significand all ones. -/
def FloatFmt.nanBits (f : FloatFmt) : Nat := 2 ^ (f.eb + f.mb) - 1

/-- The element for a rounded magnitude r × 2^q of a sign: an ordinary value, or the overflow of
Table 4.5 (infinity where the non-MX format has one, otherwise saturation). -/
def FloatFmt.finish (f : FloatFmt) (mx neg : Bool) (r : Nat) (q : Int) : Conv :=
  let big := Val.order (.fin false r q) (.fin false f.maxM f.maxE) > 0
  if big then
    if f.hasInf && !mx then ⟨b2n neg * 2 ^ (f.eb + f.mb) + (2 ^ f.eb - 1) * 2 ^ f.mb, true⟩
    else ⟨f.encode neg f.maxM f.maxE, true⟩
  else ⟨f.encode neg r q, false⟩

/-- A finite value in units of the place q, truncated. -/
def Val.truncAt (v : Val) (q : Int) : Nat :=
  match v with
  | .fin _ m e => if q ≤ e then m <<< (e - q).toNat else m >>> (q - e).toNat
  | _ => 0

/-- A finite value in units of the place q, rounded to nearest even. -/
def Val.rneAt (v : Val) (q : Int) : Nat :=
  match v with
  | .fin _ m e => if q ≤ e then m <<< (e - q).toNat else rne m (q - e).toNat
  | _ => 0

/-- A value, already divided by its block scale, as an element of an output format. draw is the
16-bit value of R121 where stochastic rounding applies. -/
def convElem (code : Nat) (v : Val) (draw : Option Nat) : Conv :=
  match floatFmt code with
  | some f =>
    match v with
    | .nan => ⟨f.nanBits, false⟩
    | .inf n =>
      if f.hasInf then ⟨b2n n * 2 ^ (f.eb + f.mb) + (2 ^ f.eb - 1) * 2 ^ f.mb, false⟩ else ⟨0, false⟩
    | .fin n m _ =>
      if m = 0 then ⟨b2n n * 2 ^ (f.eb + f.mb), false⟩ else
      let q := f.place v
      match draw with
      | none => f.finish (isMx code) n (v.rneAt q) q
      | some r =>
        let fr := v.truncAt (q - 16) % 2 ^ 16
        f.finish (isMx code) n (v.truncAt q + (if r < fr then 1 else 0)) q
  | none =>
    if code = 5 then
      match v with
      | .fin n _ _ =>
        let r := v.rneAt (-6)
        let k := Min.min r 127
        ⟨ofSigned 8 (if n then -(k : Int) else k), decide (r > 127)⟩
      | _ => ⟨0, false⟩
    else if code = 6 then
      match v with
      | .nan => ⟨0, true⟩
      | .inf n => ⟨if n then 0x80 else 0x7F, true⟩
      | .fin n _ _ =>
        let r := v.rneAt 0
        let lim := if n then 128 else 127
        let k := Min.min r lim
        ⟨ofSigned 8 (if n then -(k : Int) else k), decide (r > lim)⟩
    else ⟨(w44Of v).toNat, false⟩

/-- The shared scale of a result block from its live values (R119). -/
def mxScale (code : Nat) (live : List Val) : Byte :=
  let badNan := live.any Val.isNan && code ≠ 0 && code ≠ 1
  let badInf := live.any (fun v => match v with
    | .inf _ => true
    | _ => false) && code ≠ 1
  if badNan || badInf then 255 else
  let logs := live.filterMap (fun v => match v with
    | .fin _ (m + 1) e => some (Val.ilog2 (.fin false (m + 1) e))
    | _ => none)
  match logs with
  | [] => 0
  | l :: ls =>
    let x := ls.foldl Max.max l - mxEmax code
    BitVec.ofNat 8 ((Max.max (-127) (Min.min x 127)) + 127).toNat

/-- The flush of R135 for a micro-programmed function's result: below the smallest normal of the
output format it becomes a zero of its sign; integer formats do not flush. -/
def flushOut (code : Nat) (scale : Byte) (v : Val) : Val :=
  match floatFmt code, v with
  | some f, .fin n (m + 1) e =>
    let lim : Int := f.emin + (if isMx code then (scale.toNat : Int) - 127 else 0)
    if Val.ilog2 (.fin n (m + 1) e) < lim then .fin n 0 0 else v
  | _, _ => v

/-- One result converted out with the scale of its block (R117, R119): a whole-block NaN writes 0. -/
def convScaled (code : Nat) (scale : Byte) (v : Val) (draw : Option Nat) : Conv :=
  if isMx code then
    if scale = 255 then ⟨0, false⟩ else convElem code (v.scale (127 - (scale.toNat : Int))) draw
  else convElem code v draw

/-! ### Stochastic rounding (R122, R124) -/

/-- The start of a generator from its seed, sequence number and identity term (R122, R124). -/
def srStart (seed : W32) (seq : Nat) (ident : Nat) : W32 :=
  let s := seed ^^^ (BitVec.ofNat 32 seq * 0x9E3779B9) ^^^ BitVec.ofNat 32 ident
  if s = 0 then 0x9E3779B9 else s

/-- One step of the generator (R122). -/
def srStep (s : W32) : W32 :=
  let s1 := s ^^^ (s <<< 13)
  let s2 := s1 ^^^ (s1 >>> 17)
  s2 ^^^ (s2 <<< 5)

/-- The 16-bit draw of a generator state (R122). -/
def srDraw (s : W32) : Nat := (s >>> 16).toNat

/-! ### Vector and tile layouts (Table 4.2, R160, R172) -/

/-- Words of one 16-element vector's data (R106). -/
def vecWords (code : Nat) : Nat := elemBits code * 16 / 64

/-- Vectors of a group of Table 4.2; a non-MX vector is its own group. -/
def groupVecs (os : Bool) (code : Nat) : Nat := if isMx code then (if os then 32 else 8) else 1

/-- Words of a group of Table 4.2 with its scale words, the unit of R172. -/
def groupWords (os : Bool) (code : Nat) : Nat :=
  groupVecs os code * vecWords code + (if isMx code then (if os then 2 else 1) else 0)

/-- Lanes of a word (R160). -/
def lanes (code : Nat) : Nat := 64 / elemBits code

/-- Words of a tile's data (R160). -/
def tileData (code : Nat) : Nat := 16 * (16 / lanes code)

/-- The footprint of a tile (R160). -/
def tileWords (code : Nat) : Nat := tileData code + (if isMx code then 2 else 0)

/-- Word offset and lane of tile element (i, j) (R160). -/
def tileAt (code i j : Nat) : Nat × Nat := (16 * (i / lanes code) + (i + j) % 16, i % lanes code)

end Sys2Proof
end

