-- ==== Sys2Proof/Machine/Ops.lean ====
section
/-! DEFINITION. The shared operations of the block: coordinates, cloves and fields, scratchpad words
with their error states, circular regions, scoreboards, and HBM bytes (R13 to R22, R157 to R193,
R243, R248, R249). -/
namespace Sys2Proof.Machine

/-! ### Coordinates (R13 to R15, R22) -/

/-- Module index of the clove at logical (x, y) (R13). -/
def cloveNo (x y : Nat) : Nat := y * 1536 + x
/-- Logical x of a module index. -/
def cloveX (c : Nat) : Nat := c % 1536
/-- Logical y of a module index. -/
def cloveY (c : Nat) : Nat := c / 1536
/-- The partition of a clove (R15). -/
def partOf (x y : Nat) : Nat := y / 88 * 4 + x / 384
/-- The field of a clove (R14). -/
def fieldOfClove (x y : Nat) : Nat := y / 88 * 12 + x / 128
/-- Logical x of a partition's column 0 (R57). -/
def partX (p : Nat) : Nat := p % 4 * 384
/-- Logical y of a partition's row 0 (R57). -/
def partY (p : Nat) : Nat := p / 4 * 88
/-- Module index of the clove at partition-relative (rx, ry). -/
def partClove (p rx ry : Nat) : Nat := cloveNo (partX p + rx) (partY p + ry)

/-! ### Cloves, fields, partitions and stacks -/

/-- The clove of a module index. -/
def State.clove (s : State) (c : Nat) : Clove := s.cloves.atD c (Clove.fresh (cloveX c) (cloveY c))
/-- The state with that clove set. -/
def State.setClove (s : State) (c : Nat) (v : Clove) : State := { s with cloves := s.cloves.put c v }
/-- The state with that clove changed. -/
def State.modClove (s : State) (c : Nat) (f : Clove → Clove) : State := s.setClove c (f (s.clove c))
/-- The field of an index. -/
def State.field (s : State) (f : Nat) : Field := s.fields.atD f Field.fresh
/-- The state with that field changed. -/
def State.modField (s : State) (f : Nat) (g : Field → Field) : State :=
  { s with fields := s.fields.put f (g (s.field f)) }
/-- The partition of a number. -/
def State.part (s : State) (p : Nat) : Part := s.parts.atD p Part.fresh
/-- The state with that partition changed. -/
def State.modPart (s : State) (p : Nat) (g : Part → Part) : State :=
  { s with parts := s.parts.put p (g (s.part p)) }
/-- The stack of a number. -/
def State.stack (s : State) (k : Nat) : Stack := s.memStacks.atD k Stack.fresh
/-- The state with that stack changed. -/
def State.modStack (s : State) (k : Nat) (g : Stack → Stack) : State :=
  { s with memStacks := s.memStacks.put k (g (s.stack k)) }
/-- A queue of a partition. -/
def State.queue (s : State) (p j : Nat) : Queue := (s.part p).queues.atD j Queue.none
/-- The state with that queue changed. -/
def State.modQueue (s : State) (p j : Nat) (g : Queue → Queue) : State :=
  s.modPart p (fun q => { q with queues := q.queues.put j (g (q.queues.atD j Queue.none)) })

/-! ### Physical rows, strips and power (R21, R22, R373) -/

/-- The physical row of a field's logical row; the rows lie in order before a map is built (R22). -/
def State.physRow (s : State) (f row : Nat) : Nat := (s.field f).map.getD row row

/-- The compute strip, field × 12 + strip, that holds a clove: eight physical rows each (R21). -/
def State.stripOf (s : State) (x y : Nat) : Nat :=
  let f := fieldOfClove x y
  f * 12 + s.physRow f (y % 88) / 8

/-- A power domain: strips 0 to 1,151, hubs 1,152 on, stacks 1,248 on, ports 1,272 on, attaches 1,286
on, service blocks 1,288 on, always-on 1,290 and 1,291. -/
def State.domain (s : State) (d : Nat) : Domain := s.pwr.domains.atD d Domain.off

/-- The state with a domain set. -/
def State.setDomain (s : State) (d : Nat) (v : Domain) : State :=
  { s with pwr := { s.pwr with domains := s.pwr.domains.put d v } }

/-- A domain is ON (R373). -/
def State.domOn (s : State) (d : Nat) : Bool := (s.domain d).st == .on

/-- The strip of a clove is ON (R60, R190). -/
def State.powered (s : State) (x y : Nat) : Bool := s.domOn (s.stripOf x y)

/-! ### Field counters (R460, R188) -/

/-- A count of FLD_INT_CNTn in the field of a clove increased: n 0 MISMATCH, 1 UNCHECKED, 2 CONV_SAT,
3 FN_DOMAIN, 4 RANGE (Table 18.7). -/
def State.countField (s : State) (x y n k : Nat) : State :=
  if k = 0 then s else
  let f := fieldOfClove x y
  match n with
  | 0 => s.addFld .fldIntCnt0 f 0 15 0 k
  | 1 => s.addFld .fldIntCnt0 f 0 31 16 k
  | 2 => s.addFld .fldIntCnt1 f 0 15 0 k
  | 3 => s.addFld .fldIntCnt1 f 0 31 16 k
  | _ => s.addFld .fldIntCnt2 f 0 15 0 k

/-- Wire spares of a field's links take effect at a map epoch or in self-test: each link has 4, and a seam link (seams 0 to
3) with more failed wires runs degraded from then on; LINK_UE counts anew (R218, R219, Table 8.2). -/
def State.fitWires (s : State) (f : Nat) : State :=
  let v := s.field f
  let all := v.pendWires.foldl (fun m e => m.put e.1 (m.atD e.1 0 + e.2)) v.wires
  let used := (all.map (fun e => Min.min 4 e.2)).sum
  let slow := (all.filter (fun e => decide (e.1 / 65536 < 4) && decide (4 < e.2))).length
  let s := s.modField f (fun v => { v with wires := all, pendWires := [] })
  ((s.setFld .fldFabStat f 0 7 0 (Min.min 255 used)).setFld .fldFabStat f 0 15 8 (Min.min 255 slow)).setFld .fldFabStat f 0 31 16 0

/-- ns in 24 h (R414). -/
def dayNs : Nat := 86400000000000

/-- The rows of a field that are healthy, unused and not pending (Table 15.8): of 96 physical rows, 88
are in use. -/
def Field.spares (f : Field) : Nat :=
  96 - 88 - (f.retired.length + f.pending.length)

/-- A clove is quarantined and its physical row becomes pending; SPARES_LOW is logged when the field's
spare rows fall to 1 (R75, R414, R415). -/
def State.quarantine (s : State) (x y : Nat) : State :=
  let c := cloveNo x y
  if (s.clove c).quar then s else
  let f := fieldOfClove x y
  let row := s.physRow f (y % 88)
  let s := s.modClove c (fun v => { v with quar := true })
  let s := s.setFld .fldMapStat f 0 8 8 1
  if (s.field f).pending.contains row then s else
  let was := (s.field f).spares
  let s := s.modField f (fun v => { v with pending := v.pending ++ [row] })
  let now := (s.field f).spares
  let s := (s.setFld .fldMapStat f 0 3 0 now).setFld .fldMapStat f 0 7 4 (s.field f).pending.length
  let s := { s with up := { s.up with mapDirty := true } }
  if now ≤ 1 ∧ 1 < was then s.log .sparesLow (f / 3) f now 0 0 else s

/-- A threshold register field, where 0 acts as 1 (Table 15.7). -/
def atLeastOne (n : Nat) : Nat := if n = 0 then 1 else n

/-! ### Scratchpad words (R157 to R160, R185, R186) -/

/-- Word address a, wrapped (R158). -/
def wrapWord (a : Nat) : Nat := a % 4096

/-- A word as it stands. -/
def Clove.word (c : Clove) (a : Nat) : SWord := c.scratch.atD (wrapWord a) SWord.zero

/-- A whole-word write with fresh check bits and the mark its data carries (R159, R186). -/
def Clove.putWord (c : Clove) (a : Nat) (d : W64) (mark : Bool) : Clove :=
  { c with scratch := c.scratch.set (wrapWord a) SWord.zero ⟨d, mark, 0⟩
           scrubQ := c.scrubQ.filter (fun q => q != wrapWord a) }

/-- The words from a on written in order (R159). -/
def Clove.putWords (c : Clove) (a : Nat) : List (W64 × Bool) → Clove
  | [] => c
  | (d, m) :: ws => (c.putWord a d m).putWords (a + 1) ws

/-- A word and its mark. -/
def Clove.get (c : Clove) (a : Nat) : W64 × Bool := ((c.word a).data, (c.word a).mark)

/-- n words and their marks from a on. -/
def Clove.getWords (c : Clove) (a n : Nat) : List (W64 × Bool) := (List.range n).map (fun i => c.get (a + i))

/-- One read of word a of clove k meets its error state: a correctable word is counted and queued for
write-back, an uncorrectable one is rewritten marked, counted and logged once (R185). -/
def State.touch (s : State) (k a : Nat) : State :=
  let c := s.clove k
  let w := c.word a
  let x := cloveX k
  let y := cloveY k
  if w.ecc = 1 then
    let s := s.addFld .fldScrEcc (fieldOfClove x y) 0 15 0 1
    if c.scrubQ.length < 4 ∧ !c.scrubQ.contains (wrapWord a) then
      s.setClove k { c with scrubQ := c.scrubQ ++ [wrapWord a] }
    else s
  else if w.ecc = 2 then
    let t := s.up.time
    let c := { c.putWord a w.data true with
      scrUe := satInc 255 c.scrUe
      ueTimes := t :: c.ueTimes.filter (fun u => u + dayNs > t) }
    let s := (s.setClove k c).addFld .fldScrEcc (fieldOfClove x y) 0 31 16 1
    let s := s.cloveEvent .scrUe x y 15 (wrapWord a)
    if c.ueTimes.length ≥ atLeastOne (s.fld .glbRetire 0 0 15 8) then s.quarantine x y else s
  else s

/-- A word as an upset leaves it: its next read meets a correctable or an uncorrectable error (R185). -/
def Clove.strike (c : Clove) (a : Nat) (hard : Bool) : Clove :=
  let w := c.word a
  { c with scratch := c.scratch.set (wrapWord a) SWord.zero { w with ecc := if hard then 2 else Max.max w.ecc 1 } }

/-- Upsets strike the words that they name (R185). -/
def State.upset (s : State) (ups : List Flip) : State :=
  ups.foldl (fun s u => s.modClove (cloveNo u.x u.y) (fun c => c.strike u.word u.hard)) s

/-- Reads of n words from a on, each under R185. -/
def State.touchN (s : State) (k a : Nat) : Nat → State
  | 0 => s
  | n + 1 => (s.touch k a).touchN k (a + 1) n

/-- Reads of listed words, each under R185. -/
def State.touchAll (s : State) (k : Nat) (as : List Nat) : State := as.foldl (fun s a => s.touch k a) s

/-! ### Circular regions (R168 to R176) -/

/-- A region of a clove. -/
def Clove.region (c : Clove) (r : Nat) : Region := c.regions.atD r Region.unset
/-- The clove with that region set. -/
def Clove.setRegion (c : Clove) (r : Nat) (v : Region) : Clove := { c with regions := c.regions.put r v }
/-- A channel of a clove. -/
def Clove.channel (c : Clove) (h : Nat) : Channel := c.channels.atD h Channel.unbound
/-- The clove with that channel set. -/
def Clove.setChannel (c : Clove) (h : Nat) (v : Channel) : Clove := { c with channels := c.channels.put h v }

/-- First word of the slot k places after TAIL (R168). -/
def Region.tailBase (r : Region) (k : Nat) : Nat := r.base + (r.tail + k) % r.slots * r.slotw
/-- First word of slot HEAD. -/
def Region.headBase (r : Region) : Nat := r.base + r.head * r.slotw
/-- Words of the region. -/
def Region.size (r : Region) : Nat := r.slotw * r.slots

/-- Vectors in a slot, for a format and its group kind (R171, R172). -/
def Region.perSlot (r : Region) (os : Bool) (code : Nat) : Nat :=
  if r.rdmode ≥ 2 then 16 else r.slotw / groupWords os code * groupVecs os code

/-- The region faults of one use by an instruction, in the order of R192: unset, a credited region
written locally, or a slot size that breaks R172. vec says that vectors of 16 elements move. -/
def Region.fault (r : Region) (write vec os : Bool) (code : Nat) : Option Code :=
  if !r.set then some .regionUnset else
  if write && r.cred then some .regionRole else
  let ok :=
    if r.rdmode ≥ 2 then
      vec && r.slotw == tileWords code && !(write && r.rdmode == 3 && isMx code)
    else if vec then
      r.slotw % groupWords os code == 0 &&
        (r.rdmode == 0 || (!isMx code && r.perSlot os code % Max.max r.stride 1 == 0))
    else r.rdmode == 0
  if ok then none else some .regionShape

/-- A word's lane of e bits. -/
def laneOf (w : W64) (e n : Nat) : Nat := bitField w.toNat (e * n) e

/-- The words that hold element k and the scale of vector v of a slot at base, as (word of the
element, lane, word of the scale, byte) (R106, R160, R171). -/
def vecPlace (r : Region) (os : Bool) (code base v k : Nat) : Nat × Nat × Nat × Nat :=
  let g := lanes code
  if r.rdmode ≥ 2 then
    let p := if r.rdmode = 2 then tileAt code v k else tileAt code k v
    (base + p.1, p.2, base + tileData code + v / 8, v % 8)
  else
    let n := r.perSlot os code
    let i := if r.rdmode = 1 then v % (n / r.stride) * r.stride + v / (n / r.stride) else v
    let gv := groupVecs os code
    let gb := base + i / gv * groupWords os code
    let sc := gb + gv * vecWords code
    (gb + i % gv * vecWords code + k / g, k % g,
      if os then sc + k / 8 else sc, if os then k % 8 else i % gv)

/-- Element k of vector v of a slot, decoded with its scale, and its mark. -/
def Clove.vecElem (c : Clove) (r : Region) (os : Bool) (code base v k : Nat) : Val × Bool :=
  let p := vecPlace r os code base v k
  let w := c.get p.1
  let sw := c.get p.2.2.1
  let bits := laneOf w.1 (elemBits code) p.2.1
  if isMx code then
    (decodeElem code bits (BitVec.ofNat 8 (laneOf sw.1 8 p.2.2.2)), w.2 || sw.2)
  else (decodeElem code bits 0, w.2)

/-- The words that a read of vector v of a slot touches: those of its live elements and of their scales; a dead
position is not read (R108, R126). -/
def vecTouches (r : Region) (os : Bool) (code base v : Nat) (live : BitVec 16) : List Nat :=
  ((List.range 16).flatMap (fun k =>
    let p := vecPlace r os code base v k
    if !live.getLsbD k then [] else if isMx code then [p.1, p.2.2.1] else [p.1])).dedup

/-- A reader may take its next vector: the slot it lies in is full (R174). -/
def Region.hasVec (r : Region) (os : Bool) (code : Nat) : Bool :=
  decide (r.rpos / Max.max (r.perSlot os code) 1 < r.fill)

/-- TAIL moves past n full slots, which are released (R174). -/
def Region.release (r : Region) (n : Nat) : Region :=
  let n := Min.min n r.fill
  { r with tail := (r.tail + n) % Max.max r.slots 1, fill := r.fill - n }

/-- The reader's position after one more vector: a slot is released with its last vector unless the
region is MANUAL (R174). -/
def Region.nextVec (r : Region) (os : Bool) (code : Nat) : Region :=
  if r.manual then { r with rpos := r.rpos + 1 }
  else if r.rpos + 1 ≥ r.perSlot os code then { r.release 1 with rpos := 0 }
  else { r with rpos := r.rpos + 1 }

/-- The end of a reading instruction: a partly read slot is released, MANUAL apart (R174). -/
def Region.endRead (r : Region) : Region :=
  if r.manual then { r with rpos := 0 }
  else if r.rpos > 0 then { r.release 1 with rpos := 0 } else r

/-- A reader of words may take its next word. -/
def Region.hasWord (r : Region) : Bool := decide (r.rpos / Max.max r.slotw 1 < r.fill)

/-- The address of the reader's next word. -/
def Region.wordAt (r : Region) : Nat := r.tailBase (r.rpos / Max.max r.slotw 1) + r.rpos % Max.max r.slotw 1

/-- The reader's position after one more word. -/
def Region.nextWord (r : Region) : Region :=
  if r.manual then { r with rpos := r.rpos + 1 }
  else if r.rpos + 1 ≥ r.slotw then { r.release 1 with rpos := 0 } else { r with rpos := r.rpos + 1 }

/-- A writer finds space: FILL is below SLOTS (R173). -/
def Region.hasSpace (r : Region) : Bool := decide (r.fill < r.slots)

/-- Slot HEAD becomes full (R173). -/
def Region.fillSlot (r : Region) : Region :=
  { r with head := (r.head + 1) % Max.max r.slots 1, fill := r.fill + 1, wpos := 0, held := [] }

/-- A lane of e bits put into a gathered word: the lanes that nothing has been put into are zero, and its mark is that
of any lane (R85, R159). -/
def putLane (e : Nat) (w : W64 × Bool) (lane bits : Nat) (mark : Bool) : W64 × Bool :=
  (BitVec.ofNat 64 (setBitField w.1.toNat (e * lane) e bits), w.2 || mark)

/-- A lane gathered for the word at an offset of slot HEAD (R171). -/
def Region.gather (r : Region) (off e lane bits : Nat) (mark : Bool) : Region :=
  { r with held := r.held.put off (putLane e (r.held.atD off (0, false)) lane bits mark) }

/-- The gathered words that a test accepts are written whole, and no longer gathered (R159, R171). -/
def Clove.flushHeld (c : Clove) (rn : Nat) (f : Nat → Bool) : Clove :=
  let r := c.region rn
  let c := (r.held.filter (fun h => f h.1)).foldl (fun c h => c.putWord (r.headBase + h.1) h.2.1 h.2.2) c
  c.setRegion rn { c.region rn with held := r.held.filter (fun h => !f h.1) }

/-- Vectors whose words a writer gathers before it writes them: a line of a tile, and else a vector, whose group's scale
word waits for the group's last vector (R106, R171). -/
def Region.gathers (r : Region) (code : Nat) : Nat :=
  if r.rdmode ≥ 2 then lanes code else groupVecs false code

/-- One vector written into slot HEAD: 16 results, none where the result is dead, as bits and mark, and
the scale byte of the vector in an MX format (R85, R106, R159, R171, R173). A scale byte carries the mark of this clove's
own live results: the spec does not say whether a marked result in the partner clove of R105 marks it (DESIGN CHOICE,
entry 98). -/
def Clove.putVec (c : Clove) (rn code : Nat) (es : List (Option (Nat × Bool))) (scale : Nat) : Clove :=
  let r := c.region rn
  let v := r.wpos
  let rw : Region := { r with rdmode := if r.rdmode ≥ 2 then 2 else 0 }
  let r := (List.range 16).foldl (fun (r : Region) k =>
    match es.getD k none with
    | some (b, m) => let p := vecPlace rw false code 0 v k; r.gather p.1 (elemBits code) p.2.1 b m
    | none => r) r
  let live := es.filterMap (fun e => e)
  let sc := (vecPlace rw false code 0 v 0).2.2
  let r := if isMx code && !live.isEmpty then r.gather sc.1 8 sc.2 scale (live.any (·.2)) else r
  let c := c.setRegion rn r
  let c := if (v + 1) % r.gathers code = 0 ∨ v + 1 ≥ r.perSlot false code then c.flushHeld rn (fun _ => true)
    else if r.rdmode ≥ 2 then c else c.flushHeld rn (fun off => !isMx code || off != sc.1)
  let r := c.region rn
  c.setRegion rn (if v + 1 ≥ r.perSlot false code then r.fillSlot else { r with wpos := v + 1 })

/-- The end of a vector-writing instruction: an open MX group is padded with zero vectors, the lanes missing from an
open line of a tile are zero, and the slot is closed (R106, R173). -/
def Clove.endVecs (c : Clove) (rn code : Nat) : Clove :=
  let r := c.region rn
  if r.wpos = 0 then c else
  let n := r.gathers code
  let o := r.wpos % n
  let vw := vecWords code
  let gb := r.wpos / n * groupWords false code
  let open_ : List Nat :=
    if o = 0 then []
    else if r.rdmode ≥ 2 then (List.range 16).map (fun i => 16 * (r.wpos / n) + i) ++
      (if isMx code then (List.range n).map (fun i => tileData code + (r.wpos / n * n + i) / 8) else [])
    else if isMx code then (List.range ((n - o) * vw)).map (fun i => gb + o * vw + i) ++ [gb + n * vw]
    else []
  let r := open_.foldl (fun (r : Region) off => { r with held := r.held.put off (r.held.atD off (0, false)) }) r
  let c := (c.setRegion rn r).flushHeld rn (fun _ => true)
  c.setRegion rn (c.region rn).fillSlot

/-- One word of a row or an entry written at the writer's position; none leaves the word as it is but
takes its place (R155, R173). -/
def Clove.putRowWord (c : Clove) (rn : Nat) (w : Option (W64 × Bool)) : Clove :=
  let r := c.region rn
  let a := r.headBase + r.wpos
  let c := match w with
    | some (d, m) => c.putWord a d m
    | none => c
  c.setRegion rn (if r.wpos + 1 ≥ r.slotw then r.fillSlot else { r with wpos := r.wpos + 1 })

/-- The end of a word-writing instruction: a partly written slot is closed (R173). -/
def Clove.endWords (c : Clove) (rn : Nat) : Clove :=
  let r := c.region rn
  if r.wpos = 0 then c else c.setRegion rn r.fillSlot

/-! ### Scoreboards (R177 to R179) -/

/-- Two runs of words share a word, addresses wrapping (R158). -/
def runsMeet (a n b m : Nat) : Bool :=
  n > 0 && m > 0 && (decide ((b + 4096 - a % 4096) % 4096 < n) || decide ((a + 4096 - b % 4096) % 4096 < m))

/-- Some entry of the clove overlaps a plain range (R178). -/
def Clove.busyRange (c : Clove) (a n : Nat) : Bool :=
  c.sb.any (fun e => e.runs.any (fun r => runsMeet r.1 r.2 (wrapWord a) n))

/-- Free entries of an engine's scoreboard (R157, R177). -/
def Clove.freeSb (c : Clove) (engine : Nat) : Nat := 8 - (c.sb.filter (fun e => e.engine == engine)).length

/-- Entries taken by an instruction at issue (R177). -/
def Clove.takeSb (c : Clove) (engine owner : Nat) (ranges : List (List (Nat × Nat))) : Clove :=
  { c with sb := c.sb ++ ranges.map (fun r => ⟨engine, r, owner, none⟩) }

/-- The entries of an instruction freed when its last word is written (R177). -/
def Clove.freeOwner (c : Clove) (engine owner : Nat) : Clove :=
  { c with sb := c.sb.filter (fun e => !(e.engine == engine && e.owner == owner)) }

/-- The words of k slots from slot h on, the whole region when they exceed it (R177). -/
def Region.slotRuns (r : Region) (h k : Nat) : List (Nat × Nat) :=
  if k ≥ r.slots then [(r.base, r.size)]
  else if h + k ≤ r.slots then [(r.base + h * r.slotw, k * r.slotw)]
  else [(r.base + h * r.slotw, (r.slots - h) * r.slotw), (r.base, (h + k - r.slots) * r.slotw)]

/-- The slot at which the next writer of a region will find HEAD: behind the slots that the writers issued before it
will fill (R177; DEDUCED, entry 26). -/
def Clove.headAhead (c : Clove) (rn : Nat) : Nat :=
  match (c.sb.reverse.filterMap (fun e => e.next)).find? (fun q => q.1 == rn) with
  | some q => q.2
  | none => (c.region rn).head

/-- The entry that a writer of k slots of a region takes at issue (R177). -/
def Clove.slotEntry (c : Clove) (engine owner rn k : Nat) : SbEntry :=
  ⟨engine, (c.region rn).slotRuns (c.headAhead rn) k, owner, some (rn, (c.headAhead rn + k) % Max.max (c.region rn).slots 1)⟩

/-- The entries of a writer of k slots of a region and of plain ranges taken at issue (R177). -/
def Clove.takeSlots (c : Clove) (engine owner rn k : Nat) (ranges : List (List (Nat × Nat))) : Clove :=
  ({ c with sb := c.sb ++ [c.slotEntry engine owner rn k] } : Clove).takeSb engine owner ranges

/-- The slots that n words fill (R173). -/
def Region.slotsOf (r : Region) (n : Nat) : Nat := ceilDiv n (Max.max r.slotw 1)

/-! ### HBM bytes and the poison encoding (R243, R248, R249) -/

/-- A byte of HBM; a byte that nothing has written reads zero (R254). -/
def State.hbmByte (s : State) (a : Nat) : Byte := SMap.atD s.hbm.bytes a 0

/-- n bytes of HBM from a on. -/
def State.hbmBytes (s : State) (a n : Nat) : List Byte := (List.range n).map (fun i => s.hbmByte (a + i))

/-- A little-endian number of n bytes in HBM. -/
def State.hbmNat (s : State) (a n : Nat) : Nat := leNat (s.hbmBytes a n)

/-- The 64-byte code word of an address is stored in the poison encoding (R249). -/
def State.poisoned (s : State) (a : Nat) : Bool := s.hbm.poison.atD (a / 64) false

/-- Words of 8 bytes from a on, with the mark of their code words (R231, R249). -/
def State.hbmWords (s : State) (a n : Nat) : List (W64 × Bool) :=
  (List.range n).map (fun i => (BitVec.ofNat 64 (s.hbmNat (a + 8 * i) 8), s.poisoned (a + 8 * i)))

/-- Bytes written to HBM from a on. -/
def State.putHbm (s : State) (a : Nat) (bs : List Byte) : State :=
  { s with hbm := { s.hbm with bytes := SMap.setAll s.hbm.bytes 0 a bs } }

/-- The poison state of code words set or cleared. -/
def State.setPoison (s : State) (cws : List Nat) (v : Bool) : State :=
  { s with hbm := { s.hbm with poison := cws.foldl (fun m c => m.set c false v) s.hbm.poison } }

/-- A store of words to HBM: a code word is marked while any word written into it is marked, cleared
when unmarked data overwrites all of its 64 bytes, and keeps its mark otherwise (R232, R249). -/
def State.storeWords (s : State) (a : Nat) (ws : List (W64 × Bool)) : State :=
  let s := s.putHbm a (ws.flatMap (fun w => leBytes 8 w.1.toNat))
  let idx := List.range ws.length
  let cws := (idx.map (fun i => (a + 8 * i) / 64)).dedup
  let bad := cws.filter (fun c => idx.any (fun i => (a + 8 * i) / 64 == c && (ws.getD i (0, false)).2))
  let full := cws.filter (fun c => !bad.contains c && a ≤ 64 * c && 64 * c + 64 ≤ a + 8 * ws.length)
  (s.setPoison full false).setPoison bad true

/-- A store of bytes by the module's own engines, unmarked data (R249). -/
def State.storeBytes (s : State) (a : Nat) (bs : List Byte) : State :=
  let s := s.putHbm a bs
  let full := (List.range (bs.length / 64 + 2)).map (fun i => a / 64 + i)
  s.setPoison (full.filter (fun c => a ≤ 64 * c && 64 * c + 64 ≤ a + bs.length)) false

/-! ### Writes to host memory (R322, R323, R429) -/

/-- Outputs of a partition are held back by its gate (R429). -/
def State.gated (s : State) (p : Nat) : Bool := s.flag .errGate 0 0 p

/-- A partition is out of service (R23, R412, R415): it fetches no command, and a group that holds it launches nothing
(DESIGN CHOICE, entry 118). -/
def State.partOut (s : State) (p : Nat) : Bool := s.up.outParts.contains p

/-- The owning attach of a partition: false A, true B (R327). -/
def State.ownerOf (s : State) (p : Nat) : Bool := s.flag .hifOwn 0 0 p

/-- An attach may issue requests: its link is up and it is not in D3hot (R322). -/
def State.attachOpen (s : State) (b : Bool) : Bool :=
  s.fld .hifLink 0 (b2n b) 2 0 ≠ 0 && !s.host.d3.getLsbD (b2n b)

/-- The attach that a write uses. -/
def HostWrite.attach : HostWrite → Bool
  | .record a _ _ _ _ => a
  | .msix a _ => a
  | .resumeRec a _ _ => a
  | .page a _ _ => a
  | .tier a _ _ _ _ _ _ => a

/-- A write of partition p (32 for the module) may leave now. -/
def State.mayWrite (s : State) (p : Nat) (w : HostWrite) : Bool := s.attachOpen w.attach && !s.gated p

/-- The place of a held write in the arbitration of an attach: tier requests only (R260). -/
def heldRank (b : Bool) (e : Nat × HostWrite) : Option Nat :=
  match e.2 with
  | .tier a _ _ _ r _ _ => if a = b then some r else none
  | _ => none

/-- A list whose ranked entries are put in order of their rank, in the places that they hold together; the others keep
their places (R260). -/
def reslot {α : Type} (rank : α → Option Nat) (l : List α) : List α :=
  let rs := sortBy (fun a b => decide (((rank a).getD 0) ≤ ((rank b).getD 0))) (l.filter (fun a => (rank a).isSome))
  (l.foldl (fun (p : List α × List α) a =>
    if (rank a).isSome then (match p.2 with
      | r :: rest => (p.1 ++ [r], rest)
      | [] => (p.1 ++ [a], []))
    else (p.1 ++ [a], p.2)) ([], rs)).1

/-- A write to host memory: made, or held while the gate of its partition is closed or its attach issues
nothing; writes of one partition keep their order (R322, R323, R429), but for tier requests, which go by their deadlines
among themselves (R260). -/
def State.hostWrite (s : State) (p : Nat) (w : HostWrite) : State :=
  let h := s.host
  if s.mayWrite p w && !h.held.any (fun e => e.1 == p) then { s with host := { h with out := h.out ++ [w] } }
  else
    let held := h.held ++ [(p, w)]
    { s with host := { h with held := match w with
      | .tier a _ _ _ _ _ _ => reslot (heldRank a) held
      | _ => held } }

/-- Held writes that may leave are made, in order. -/
def State.flushHeld (s : State) : State :=
  let go := s.host.held.filter (fun e => s.mayWrite e.1 e.2)
  let stay := s.host.held.filter (fun e => !s.mayWrite e.1 e.2)
  { s with host := { s.host with out := s.host.out ++ go.map (·.2), held := stay } }

/-- A free value drawn: the state counts the draw (log entry 4). -/
def State.draw (s : State) : W64 × State := (Config.freeValue s.draws, { s with draws := s.draws + 1 })

end Sys2Proof.Machine
end

