-- ==== Sys2Proof/Machine/Flows.lean ====
section
/-! DEFINITION. Vyngo flows and frames (R345 to R358): what a module sends, the flow table, credits,
acknowledgements and resends, and the order in which received messages are delivered. -/
namespace Sys2Proof.Machine

/-! ### Ports and identity (R345, R347, R351) -/

/-- The ports that are up (Table 13.7). -/
def State.portsUp (s : State) : List Nat := (List.range 14).filter (fun n => s.fld .vngPort 0 n 2 0 ≥ 2)

/-- The module owns a node ID (R351). -/
def State.owns (s : State) : Bool := s.fld .vngNodestat 0 0 26 24 == 3
/-- The node ID owned. -/
def State.nodeId (s : State) : Nat := s.fld .vngNodestat 0 0 23 0

/-- A frame is discarded and counted at its port (R345, R349, R354). -/
def State.discard (s : State) (port : Nat) : State :=
  if port < 14 then s.addFld .vngPort 0 port 15 4 1 else s

/-! ### Frames (R345, R347, R348) -/

/-- The MAC address 02-5A-nn-N₂-N₁-N₀ of port n of the node with ID id, the first byte sent highest (R347). -/
def nodeMac (n id : Nat) : Nat := 0x025A * 2 ^ 32 + n % 2 ^ 8 * 2 ^ 24 + id % 2 ^ 24

/-- The broadcast address (R347). -/
def broadcastMac : Nat := 0xFFFFFFFFFFFF

/-- The 802.1Q tag control word of every frame, where VNG_ETYPE enables one: PCP, then VID (R345, Table 13.7). -/
def State.vlanTag (s : State) : Option Nat :=
  if s.flag .vngEtype 0 0 28 then some (s.fld .vngEtype 0 0 31 29 * 2 ^ 13 + s.fld .vngEtype 0 0 27 16) else none

/-- A frame of this node on a port: to the same port of its destination, CLAIM and DEFEND to every node (R347, R348). A
node without an ID sends as 0xFF_FFFF, which means none (R351). -/
def State.frame (s : State) (port type flags spart dnode dpart gen psn apsn credit : Nat) (marks : List Bool)
    (body : List Byte) : TxFrame :=
  { port := port, dmac := if type < 0x10 then broadcastMac else nodeMac port dnode, smac := nodeMac port s.nodeId
    vlan := s.vlanTag, etype := s.fld .vngEtype 0 0 15 0, type := type, flags := flags, spart := spart
    snode := s.nodeId, dnode := dnode, dpart := dpart, gen := gen, psn := psn, apsn := apsn, credit := credit
    marks := marks, body := body }

/-- The n low bytes of a number, most significant first, as Ethernet sends its own fields. -/
def beBytes (n v : Nat) : List Byte := (leBytes n v).reverse

/-- The mark map of a body: one bit for each 8-byte word, padded to a multiple of 8 bytes (R350). -/
def markMap (marks : List Bool) : List Byte :=
  let n := ceilDiv (ceilDiv marks.length 8) 8 * 8
  (List.range n).map (fun i => BitVec.ofNat 8 ((List.range 8).foldl (fun a b =>
    a + b2n (marks.getD (8 * i + b) false) * 2 ^ b) 0))

/-- The bytes of a frame as they leave the port, before the FCS that the MAC adds (R345, R348, Table 13.2). -/
def TxFrame.bytes (f : TxFrame) : List Byte :=
  beBytes 6 f.dmac ++ beBytes 6 f.smac ++
  (match f.vlan with
   | some t => beBytes 2 0x8100 ++ beBytes 2 t
   | none => []) ++
  beBytes 2 f.etype ++
  [1, BitVec.ofNat 8 f.type, BitVec.ofNat 8 f.flags, BitVec.ofNat 8 f.spart] ++ leBytes 3 f.snode ++
  [BitVec.ofNat 8 f.dpart] ++ leBytes 3 f.dnode ++ [0] ++ leBytes 2 f.gen ++ leBytes 2 f.body.length ++
  leBytes 4 f.psn ++ leBytes 4 f.apsn ++ leBytes 2 f.credit ++ leBytes 6 0 ++
  markMap f.marks ++ f.body

/-- A frame put on a port. -/
def State.transmit (s : State) (f : TxFrame) : State := { s with net := { s.net with tx := s.net.tx ++ [f] } }

/-- A CLAIM or DEFEND for an ID, on one port (R347, R349, R351). -/
def State.claimFrame (s : State) (type id port : Nat) : TxFrame :=
  s.frame port type 0 0 0xFFFFFF 0 0 0 0 0 [] (leBytes 4 id ++ leBytes 16 Config.uid.toNat)

/-- A CLAIM or DEFEND on every port that is up. -/
def State.broadcast (s : State) (type id : Nat) : State :=
  s.portsUp.foldl (fun t n => t.transmit (s.claimFrame type id n)) s

/-! ### The outbound flow table (R354) -/

/-- The key of an outbound flow: (SPART, DNODE, DPART). -/
def State.outKey? (s : State) (p dnode dpart : Nat) : Option Nat :=
  (s.net.outs.find? (fun e => e.2.part == p && e.2.dnode == dnode && e.2.dpart == dpart)).map (·.1)

/-- An outbound flow. -/
def State.outFlow (s : State) (k : Nat) : Option OutFlow := s.net.outs.at? k
/-- The state with an outbound flow set. -/
def State.setOut (s : State) (k : Nat) (f : OutFlow) : State := { s with net := { s.net with outs := s.net.outs.put k f } }

/-- The least number that no entry of a map has. -/
def freeKey {α : Type} (m : SMap α) : Nat :=
  ((List.range (m.length + 1)).find? (fun k => (m.at? k).isNone)).getD m.length

/-- Mirror checks use two flow entries apart from every quota; they are the flows of partition 32. -/
def mirrorPart : Nat := 32

/-- A partition may open one more outbound flow (R354). -/
def State.mayOpen (s : State) (p : Nat) : Bool :=
  p = mirrorPart || (decide ((s.net.outs.filter (fun e => e.2.part == p)).length < s.fld .prtVngFlowq p 0 12 0) &&
    decide ((s.net.outs.filter (fun e => e.2.part ≠ mirrorPart)).length < 4096))

/-- A new flow with a new GEN (R354). -/
def State.openFlow (s : State) (p dnode dpart : Nat) : Nat × State :=
  let k := freeKey s.net.outs
  let f : OutFlow := ⟨p, dnode, dpart, s.net.nextGen, 0, 0, false, [], []⟩
  (k, ({ s with net := { s.net with nextGen := (s.net.nextGen + 1) % 65536 } } : State).setOut k f)

/-! ### Sending (R350, R355 to R357, R429) -/

/-- The SPART of a flow in a frame. -/
def OutFlow.spart (f : OutFlow) : Nat := if f.part = mirrorPart then 0 else f.part

/-- The next port of the round robin over the ports that are up (R357). -/
def State.nextPort (s : State) : Option Nat :=
  let up := s.portsUp
  match up.find? (fun n => s.net.nextPort ≤ n) with
  | some n => some n
  | none => up.head?

/-- What APSN a frame of a flow carries: every PSN of the reverse flow below it has arrived (R355). -/
def State.apsnFor (s : State) (f : OutFlow) : Nat :=
  let sp := if f.part = mirrorPart then mirrorPart else f.dpart
  match s.net.ins.find? (fun e => e.2.snode == f.dnode && e.2.spart == sp && e.2.dpart == f.spart) with
  | some e => e.2.expect
  | none => 0

/-- A trailer that ends its stream VOIDED: the one data message that a gate lets pass (R429, R430). -/
def voidTrailer (type : Nat) (body : List Byte) : Bool := type == 0x23 && leAt body 32 2 == 0x0202

/-- The gate of a partition holds a new message back (R429). -/
def State.gateHolds (s : State) (p type : Nat) (body : List Byte) : Bool := s.gated p && !voidTrailer type body

/-- One message put on a port. -/
def State.sendFrame (s : State) (f : OutFlow) (m : OutMsg) (port : Nat) : State :=
  let flags := (if m.psn = 0 then 1 else 0) + (if m.marks.any (· == true) then 2 else 0)
  let t := s.frame port m.type flags f.spart f.dnode f.dpart f.gen m.psn (s.apsnFor f) 0
    (if m.marks.any (· == true) then m.marks else []) m.body
  ({ s with net := { s.net with nextPort := port + 1 } } : State).transmit t

/-- A flow sends what its credits allow: the SYN takes none (R355, R356). -/
def State.pump (s : State) (k : Nat) : Nat → State
  | 0 => s
  | n + 1 =>
    match s.outFlow k, s.nextPort with
    | some f, some port =>
      match f.queue with
      | [] => s
      | (type, body, marks) :: rest =>
        let syn := f.nextPsn = 0
        if !s.owns || s.gateHolds f.part type body || (!syn && (!f.opened || f.credits = 0)) then s else
        let m : OutMsg := ⟨f.nextPsn, type, body, marks, port, 0, 0⟩
        let s := s.sendFrame f m port
        (s.setOut k { f with
          queue := rest, nextPsn := f.nextPsn + 1, unacked := f.unacked ++ [m]
          credits := if syn then f.credits else f.credits - 1 }).pump k n
    | _, _ => s

/-- Messages that one call may send. -/
def pumpFuel : Nat := 65536

/-- The place of a waiting message in the arbitration: tier requests only (R260). -/
def State.tierRank (s : State) (m : Nat × List Byte × List Bool) : Option Nat :=
  if m.1 = 0x40 ∨ m.1 = 0x42 then some (((s.net.tiers.at? (leAt m.2.1 12 4)).map (·.rank)).getD 0) else none

/-- A message joins its flow, which is opened for it, or waits for the partition's quota (R354); tier requests that wait
in one flow go by their deadlines (R260). The PSN it takes is none while it waits for a flow. -/
def State.sendMsg (s : State) (p dnode dpart type : Nat) (body : List Byte) (marks : List Bool) : Option (Nat × Nat) × State :=
  let put (s : State) (k : Nat) : Option (Nat × Nat) × State :=
    match s.outFlow k with
    | some f =>
      let psn := f.nextPsn + f.queue.length
      (some (k, psn), (s.setOut k { f with
        queue := if type = 0x40 ∨ type = 0x42 then reslot s.tierRank (f.queue ++ [(type, body, marks)])
          else f.queue ++ [(type, body, marks)] }).pump k pumpFuel)
    | none => (none, s)
  match s.outKey? p dnode dpart with
  | some k => put s k
  | none =>
    if s.mayOpen p && !s.net.waiting.any (fun w => w.part == p) then
      let (k, s) := s.openFlow p dnode dpart
      put s k
    else (none, { s with net := { s.net with waiting := s.net.waiting ++ [⟨p, dnode, dpart, type, body, marks⟩] } })

/-- Messages that waited for a flow join one, in order, as the quota allows (R354). -/
def State.drainWaiting (s : State) : Nat → State
  | 0 => s
  | n + 1 =>
    match s.net.waiting.find? (fun w => (s.outKey? w.part w.dnode w.dpart).isSome || s.mayOpen w.part) with
    | none => s
    | some w =>
      let s : State := { s with net := { s.net with waiting := s.net.waiting.erase w } }
      let held := s.net.waiting
      let r := ({ s with net := { s.net with waiting := [] } } : State).sendMsg w.part w.dnode w.dpart w.type w.body w.marks
      ({ r.2 with net := { r.2.net with waiting := held } } : State).drainWaiting n

/-- Every flow sends what it may. -/
def State.pumpAll (s : State) : State :=
  let s := s.net.outs.foldl (fun s e => s.pump e.1 pumpFuel) s
  s.drainWaiting (s.net.waiting.length)

/-- A message of a flow is sent again (R355). -/
def State.resend (s : State) (k : Nat) (psn : Nat) : State :=
  match s.outFlow k, s.nextPort with
  | some f, some port =>
    match f.unacked.find? (fun m => m.psn == psn) with
    | none => s
    | some m =>
      if !s.owns then s else
      let m' : OutMsg := { m with tries := m.tries + 1, port := port }
      let s := s.sendFrame f m' port
      let s := s.setOut k { f with unacked := f.unacked.map (fun u => if u.psn = psn then m' else u) }
      s.addFld .vngPort 0 port 31 16 1
  | _, _ => s

/-! ### Acknowledgement (R355, R356) -/

/-- The outbound flow that an ACK or CREDIT frame answers, which carries that flow's GEN (R355). -/
def State.reverseKey (s : State) (f : Frame) : Option Nat :=
  (s.net.outs.find? (fun e => e.2.spart == f.dpart && e.2.dnode == f.snode && e.2.dpart == f.spart && e.2.gen == f.gen)).map (·.1)

/-- The bitmap shows that a PSN has arrived. -/
def bitmapHas (bm : List Byte) (apsn psn : Nat) : Bool :=
  decide (psn > apsn) && (bm.getD ((psn - apsn - 1) / 8) 0).getLsbD ((psn - apsn - 1) % 8)

/-- A flow takes an acknowledgement and a grant: what has arrived leaves, and a message that 8 more later
PSNs have overtaken is sent again (R355, R356). -/
def State.ackFlow (s : State) (k apsn credit : Nat) (bm : List Byte) : State :=
  match s.outFlow k with
  | none => s
  | some f =>
    let arrived (psn : Nat) := decide (psn < apsn) || bitmapHas bm apsn psn
    let later (psn : Nat) := (f.unacked.filter (fun m => decide (psn < m.psn) && arrived m.psn)).length +
      ((List.range (8 * bm.length)).filter (fun i => decide (apsn + 1 + i > psn) && bitmapHas bm apsn (apsn + 1 + i) &&
        !f.unacked.any (fun m => m.psn == apsn + 1 + i))).length
    let left := f.unacked.filter (fun m => !arrived m.psn)
    let due := (left.filter (fun m => decide (later m.psn ≥ m.later + 8))).map (·.psn)
    let f := { f with
      unacked := left.map (fun m => if due.contains m.psn then { m with later := later m.psn } else m)
      opened := f.opened || decide (apsn > 0), credits := Min.min (f.credits + credit) 2048 }
    let s := s.setOut k f
    (due.foldl (fun s p => s.resend k p) s).pump k pumpFuel

/-- Every message of a flow up to a PSN has been acknowledged. -/
def State.ackedUpTo (s : State) (k psn : Nat) : Bool :=
  match s.outFlow k with
  | none => true
  | some f => decide (psn < f.nextPsn) && !f.unacked.any (fun m => decide (m.psn ≤ psn))

/-! ### Receiving (R354 to R357) -/

/-- The source partition of a frame's inbound flow: mirror checks have a flow of their own, as of partition 32. -/
def flowPart (type : Nat) (f : Frame) : Nat := if type = 0x50 then mirrorPart else f.spart

/-- The inbound flow of a frame. -/
def State.inKey? (s : State) (type : Nat) (f : Frame) : Option Nat :=
  (s.net.ins.find? (fun e => e.2.snode == f.snode && e.2.spart == flowPart type f && e.2.dpart == f.dpart)).map (·.1)

/-- The state with an inbound flow set. -/
def State.setIn (s : State) (k : Nat) (f : InFlow) : State := { s with net := { s.net with ins := s.net.ins.put k f } }

/-- Frames delivered in PSN order from an inbound flow's window. -/
def InFlow.deliver (f : InFlow) : Nat → List (Nat × Frame) × InFlow
  | 0 => ([], f)
  | n + 1 =>
    match f.window.find? (fun e => e.1 == f.expect) with
    | none => ([], f)
    | some e =>
      let w := f.window.filter (fun u => u.1 ≠ f.expect)
      let g : InFlow := { f with expect := f.expect + 1, granted := f.granted - 1, window := w }
      let r := g.deliver n
      ((e.2.1, e.2.2) :: r.1, r.2)

/-- A data frame reaches its inbound flow: a SYN opens it, duplicates and PSNs beyond the window of 2,048 are
not taken, and what is now in order is delivered (R354 to R357). -/
def State.receive (s : State) (type : Nat) (f : Frame) : List (Nat × Frame) × State :=
  let opened : Option (Nat × InFlow) :=
    match s.inKey? type f with
    | some k =>
      match s.net.ins.at? k with
      | some g => if g.gen = f.gen then some (k, g) else if f.syn then some (k, ⟨f.snode, flowPart type f, f.dpart, f.gen, 0, [], 0, false⟩) else none
      | none => none
    | none =>
      if f.syn && (flowPart type f == mirrorPart || decide ((s.net.ins.filter (fun e => e.2.spart ≠ mirrorPart)).length < 4096)) then
        some (freeKey s.net.ins, ⟨f.snode, flowPart type f, f.dpart, f.gen, 0, [], 0, false⟩) else none
  match opened with
  | none => ([], if f.syn then s else s.discard f.port)
  | some (k, g) =>
    if f.psn ≥ g.expect + 2048 then ([], s) else
    let g := { g with ackDue := true }
    if f.psn < g.expect || g.window.any (fun e => e.1 == f.psn) then ([], s.setIn k g) else
    let g := { g with window := g.window ++ [(f.psn, type, f)] }
    let r := g.deliver 2048
    (r.1, s.setIn k r.2)

/-- The ACK of an inbound flow: APSN, the bitmap, and credits up to the flow's limit (R355, R356). -/
def State.sendAck (s : State) (k limit : Nat) : State :=
  match s.net.ins.at? k with
  | none => s
  | some g =>
    let bm := (List.range 32).map (fun i => BitVec.ofNat 8 ((List.range 8).foldl (fun a b =>
      if g.window.any (fun e => e.1 == g.expect + 1 + 8 * i + b) then a + 2 ^ b else a) 0))
    let grant := limit - g.granted
    match s.nextPort with
    | none => s
    | some port =>
      if !s.owns then s else
      let t := s.frame port 0x10 0 g.dpart g.snode (if g.spart = mirrorPart then 0 else g.spart) g.gen 0 g.expect grant [] bm
      (({ s with net := { s.net with nextPort := port + 1 } } : State).transmit t).setIn k
        { g with ackDue := false, granted := g.granted + grant }

/-! ### Export bodies (R358) -/

/-- The export sub-header (Table 13.4). -/
def exportHeader (stream reqid member layer draft pidx fill off total : Nat) : List Byte :=
  leBytes 4 stream ++ leBytes 4 reqid ++ leBytes 1 member ++ leBytes 1 layer ++ leBytes 1 draft ++ leBytes 1 0 ++
    leBytes 4 pidx ++ leBytes 2 fill ++ leBytes 2 0 ++ leBytes 4 off ++ leBytes 4 total ++ leBytes 4 0

end Sys2Proof.Machine
end

