-- ==== Sys2Proof/Machine/Horuek.lean ====
section
/-! DEFINITION. The 1-ulp bound of the Horuek functions (R135 to R137, Table 5.4): each f(x) to far more places than the
bound needs, and the range of binary32 neighbours in which the module's value then lies. The steps of the A1 programs
other than EXP are not in the spec, so the value itself is free within that range (log entry 5). -/
namespace Sys2Proof

/-! ### Reals to 192 bits -/

/-- The first p significant bits of a finite value. -/
def Val.cut (p : Nat) : Val → Val
  | .fin n m e => let k := m.log2 + 1 - p; .fin n (m >>> k) (e + k)
  | v => v

/-- A product to 192 bits. -/
def Val.mulX (a b : Val) : Val := (Val.mul a b).cut 192
/-- A sum to 192 bits. -/
def Val.addX (a b : Val) : Val := (Val.add a b).cut 192
/-- A difference to 192 bits. -/
def Val.subX (a b : Val) : Val := a.addX b.neg
/-- A quotient to 192 bits; zero over a zero divisor. -/
def Val.divX (a b : Val) : Val :=
  match a, b with
  | .fin n m e, .fin k l f =>
    let sh := 193 + l.log2 - m.log2
    .fin (n != k) ((m <<< sh) / l) (e - f - sh)
  | _, _ => Val.zero

/-- The integer nearest a finite value. -/
def Val.nearX (v : Val) : Int := if v.sign then -(v.rneAt 0 : Int) else v.rneAt 0

/-- One as a value. -/
def Val.one : Val := Val.ofNat 1
/-- ln 2, π and √π to 256 binary places. -/
def ln2X : Val := .fin false 80260960185991308862233904206310070533990667611589946606122867505419956976172 (-256)
def piX : Val := .fin false 363771576891766324280234942777729862653393377328392429958772151117938894466185 (-256)
def sqrtPiX : Val := .fin false 205236134473076246884590230388352619334473926157980061140234285137700865733743 (-256)

/-- Σ of a power series by Horner's rule, its factors from the last term to the first: 1 + z c₁ (1 + z c₂ (…)). -/
def hornerX (z : Val) (cs : List (Int × Nat)) : Val :=
  cs.foldr (fun c a => Val.one.addX ((z.mulX a).mulX ((Val.ofInt c.1).divX (Val.ofNat c.2)))) Val.one

/-- 1 to n. -/
def upTo (n : Nat) : List Nat := (List.range n).map (· + 1)

/-- eˣ; an argument beyond ±4,096 gives a number beyond any W44 value. -/
def expX (x : Val) : Val :=
  if Val.cmp 0 x.abs (Val.ofNat 4096) then .fin false 1 (if x.sign then -6000 else 6000) else
  let n := (x.divX ln2X).nearX
  let r := x.subX ((Val.ofInt n).mul ln2X)
  (hornerX r ((upTo 48).map (fun k => (1, k)))).scale n

/-- artanh z ÷ z for |z| ≤ 1/3. -/
def artanhX (z : Val) : Val :=
  hornerX (z.mulX z) ((upTo 64).map (fun k => (((2 * k - 1 : Nat) : Int), 2 * k + 1)))

/-- ln(1 + y) for 0 ≤ y ≤ 1 and for y near 0. -/
def ln1pX (y : Val) : Val :=
  let z := y.divX (y.addX (Val.ofNat 2))
  (z.mulX (artanhX z)).scale 1

/-- ln x for x > 0: x = 2ⁿ (1 + y) with 1 + y in [2/3, 4/3). -/
def lnX (x : Val) : Val :=
  let n := x.ilog2
  let n := if Val.cmp 1 ((x.scale (-n)).mul (Val.ofNat 3)) (Val.ofNat 4) then n + 1 else n
  (ln1pX ((x.scale (-n)).subX Val.one)).addX ((Val.ofInt n).mul ln2X)

/-- ⌊√n⌋ by Newton's steps from above. -/
def sqrtNewton (n : Nat) : Nat → Nat → Nat
  | 0, r => r
  | f + 1, r => let q := (r + n / r) / 2; if q < r then sqrtNewton n f q else r

/-- √x for x > 0. -/
def sqrtX (x : Val) : Val :=
  match x with
  | .fin _ m e =>
    let sh := 400 - m.log2 + (if (e - (400 - m.log2 : Nat)) % 2 = 0 then 0 else 1)
    let k := m <<< sh
    .fin false (sqrtNewton k 24 (2 ^ (k.log2 / 2 + 1))) ((e - sh) / 2)
  | v => v

/-- 1 ÷ (1 + e⁻ˣ). -/
def sigmoidX (x : Val) : Val :=
  let t := expX x.abs.neg
  (if x.sign then t else Val.one).divX (Val.one.addX t)

/-- tanh x, by sinh and cosh where it is near x. -/
def tanhX (x : Val) : Val :=
  if Val.cmp 2 x.abs Val.one then
    let q := x.mulX x
    (x.mulX (hornerX q ((upTo 24).map (fun k => (1, 2 * k * (2 * k + 1)))))).divX
      (hornerX q ((upTo 24).map (fun k => (1, 2 * k * (2 * k - 1)))))
  else
    let t := expX (x.abs.scale 1).neg
    let r := (Val.one.subX t).divX (Val.one.addX t)
    if x.sign then r.neg else r

/-- erf x for |x| ≤ 3. -/
def erfX (x : Val) : Val :=
  let q := x.mulX x
  (((x.scale 1).divX sqrtPiX).mulX (expX q.neg)).mulX (hornerX q ((upTo 160).map (fun k => (2, 2 * k + 1))))

/-- erfc x for x ≥ 0: by its continued fraction beyond 3. -/
def erfcX (x : Val) : Val :=
  if Val.cmp 3 x (Val.ofNat 3) then Val.one.subX (erfX x) else
  let d := (upTo 128).foldr (fun k a => x.addX ((Val.fin false k (-1)).divX a)) x
  ((expX (x.mul x).neg).divX sqrtPiX).divX d

/-- Φ x, the normal distribution function. -/
def phiX (x : Val) : Val :=
  let z := x.abs.divX (sqrtX (Val.ofNat 2))
  let t := (erfcX z).scale (-1)
  if x.sign then t else Val.one.subX t

/-- sin and cos of x, by quarter turns. -/
def sinCosX (x : Val) (quarter : Int) : Val :=
  let n := (x.divX (piX.scale (-1))).nearX
  let r := x.subX ((Val.ofInt n).mul (piX.scale (-1)))
  let q := r.mulX r
  let s := r.mulX (hornerX q ((upTo 28).map (fun k => (-1, 2 * k * (2 * k + 1)))))
  let c := hornerX q ((upTo 28).map (fun k => (-1, 2 * k * (2 * k - 1))))
  match (n + quarter) % 4 with
  | 0 => s
  | 1 => c
  | 2 => s.neg
  | _ => c.neg

/-- f(x) of Table 5.4 for the function of a slot, at a finite x in its domain. -/
def horuekReal (slot : Nat) (x : Val) : Val :=
  let far := Val.cmp 0 x.abs (Val.ofNat 100)
  let tail := if x.sign then Val.fin true 1 (-6000) else x
  match slot with
  | 0 => expX x
  | 1 => let n := x.nearX; (expX ((x.subX (Val.ofInt n)).mul ln2X)).scale n
  | 2 => lnX x
  | 3 => (lnX x).divX ln2X
  | 4 => Val.one.divX x
  | 5 => Val.one.divX (sqrtX x)
  | 6 => sqrtX x
  | 7 => sigmoidX x
  | 8 => tanhX x
  | 9 => x.mulX (sigmoidX x)
  | 10 => if far then tail else x.mulX (phiX x)
  | 11 => if far then tail else
    let u := (x.addX ((x.mulX (x.mulX x)).mulX ((Val.ofNat 44715).divX (Val.ofNat 1000000)))).mulX
      (sqrtX ((Val.ofNat 2).divX piX))
    x.mulX (sigmoidX (u.scale 1))
  | 12 => if far then (if x.sign then expX x else x)
    else if x.sign then ln1pX (expX x) else x.addX (ln1pX (expX x.neg))
  | 13 => if Val.cmp 3 x.abs (Val.ofNat 3) then erfX x else
    let r := Val.one.subX (erfcX x.abs)
    if x.sign then r.neg else r
  | 14 => sinCosX x 0
  | _ => sinCosX x 1

/-! ### The bound (R135) -/

/-- The magnitudes between which a result lies for an f(x) of magnitude r: the neighbours of r among the values of 24
bits, so that the result as written lies within 1 ulp, whatever the output format and its rounding (R135). -/
def ulpRange (r : Val) : Val × Val :=
  let eps : Val := .fin false 1 (-60)
  let up := (r.mulX (Val.one.addX eps)).cut 24
  (((r.mulX (Val.one.subX eps)).cut 24), up.add (.fin false 1 up.expo))

/-- The free value v brought into the range that the bound leaves around r; it takes the sign of r, and keeps its own
only where r is zero. -/
def nearTo (r v : Val) : Val :=
  if r.isZero then .fin v.sign 0 0 else
  let b := ulpRange r.abs
  let m := if !v.isFinite || Val.cmp 2 v.abs b.1 then b.1 else if Val.cmp 0 v.abs b.2 then b.2 else v.abs
  (if r.sign then m.neg else m).round

end Sys2Proof
end

