-- ==== Sys2Proof/Machine/Functions.lean ====
section
/-! DEFINITION. Epilogue descriptors, the function set, micro-programs and row statistics (R130 to R149):
steps 2 to 5 of the epilogue (R95) and the soft-maximum entry. -/
namespace Sys2Proof.Machine

/-! ### Epilogue descriptors (R131) -/

/-- An epilogue descriptor (Table 5.2). -/
structure Epi where
  fn : Nat
  sr : Bool
  skind : Nat
  bkind : Nat
  rowsum : Bool
  statAcc : Bool
  statAddr : Nat
  svec : Nat
  bvec : Nat
  scale : Val
  bias : Val
  pa : Val
  pb : Val
  deriving DecidableEq, Repr

/-- The descriptor that 32 bytes hold (Table 5.2). -/
def Epi.ofBits (d : BitVec 256) : Epi :=
  let n := d.toNat
  ⟨bitField n 0 8, d.getLsbD 8, bitField n 9 2, bitField n 11 2, d.getLsbD 13, d.getLsbD 14,
   bitField n 16 12, bitField n 32 12, bitField n 44 12, b32Val (bitField n 64 32),
   b32Val (bitField n 96 32), b32Val (bitField n 128 32), b32Val (bitField n 160 32)⟩

/-- Codes of FN that no table gives a function (R133). -/
def fnReserved (fn : Nat) : Bool := (fn ≥ 6 && fn ≤ 0x3F) || fn ≥ 0x80

/-- Descriptor bits that are reserved (Table 5.2). -/
def epiReserved (d : BitVec 256) : Bool :=
  let n := d.toNat
  d.getLsbD 15 || bitField n 28 4 ≠ 0 || bitField n 56 8 ≠ 0 || bitField n 192 64 ≠ 0

/-- The descriptor of number e in a clove; number 0 names none (R95, R130). -/
def Clove.epiOf (c : Clove) (e : Nat) : Option Epi :=
  if e = 0 then none else some (Epi.ofBits (c.epi.atD e 0))

/-! ### Micro-programs (R138 to R141) -/

/-- The registers of one evaluation (R140). -/
structure Micro where
  x : Val
  r : Val
  a : Val
  t : List Val
  n : Int
  f : List Bool
  deriving DecidableEq, Repr

/-- The start of an evaluation (R140). -/
def Micro.start (x : Val) : Micro :=
  ⟨x, Val.zero, Val.zero, List.replicate 8 Val.zero, 0, [false, false, false, false]⟩

/-- N is held within ±2,047 (R140). -/
def clampN (n : Int) : Int := Max.max (-2047) (Min.min n 2047)

/-- The integer nearest a finite value, ties to even. -/
def Val.nearestInt (v : Val) : Int :=
  match v with
  | .fin n _ _ => if n then -(v.rneAt 0 : Int) else v.rneAt 0
  | .inf n => if n then -2047 else 2047
  | .nan => 0

/-- RANGE_RED (Table 5.6). -/
def Micro.rangeRed (m : Micro) (mode : Nat) (ca cb cc : Val) : Micro :=
  match mode with
  | 0 =>
    let n := clampN (Val.nearestInt (Val.mul m.x ca))
    let p (c : Val) := Val.mul (Val.ofInt n) c
    { m with n := n, r := (m.x.subR (p cb)).subR (p cc) }
  | 1 =>
    match m.x with
    | .nan => { m with n := 0, r := .nan }
    | .inf k => { m with n := 2047, r := .inf k }
    | .fin k l e =>
      if l = 0 then { m with n := -2047, r := Val.ofInt (-1) } else
      let n := clampN (Val.ilog2 (.fin k l e))
      { m with n := n, r := Val.subR (.fin k l (e - n)) (Val.ofNat 1) }
  | _ => { m with r := m.x.abs, f := m.f.take 3 ++ [m.x.sign] }

/-- TABLE_FETCH with 2^n table rows (Table 5.6). -/
def Micro.fetch (m : Micro) (n base : Nat) (table : Nat → Val) : Micro :=
  match m.r with
  | .nan => { m with t := List.replicate 8 .nan }
  | r =>
    let i := match r with
      | .fin _ _ _ => Min.min ((r.abs.scale n).truncAt 0) (2 ^ n - 1)
      | _ => 2 ^ n - 1
    { m with t := (List.range 8).map (fun j => table (base + 8 * i + j)) }

/-- One step word (Table 5.6); consts are C0 to C7. -/
def Micro.step (m : Micro) (consts : List Val) (table : Nat → Val) (w : Nat) : Micro :=
  let mode := bitField w 4 4
  let fa := bitField w 8 3
  let fb := bitField w 11 3
  let fc := bitField w 14 3
  let c (i : Nat) := consts.getD i Val.zero
  match bitField w 0 4 with
  | 1 => { m with f := m.f.set fb (Val.cmp mode m.x (c fa)) }
  | 2 => m.rangeRed mode (c fa) (c fb) (c fc)
  | 3 => m.fetch mode (bitField w 17 10) table
  | 4 =>
    match mode with
    | 0 => { m with a := (Val.add (Val.mul m.a m.r) (m.t.getD fa Val.zero)).round }
    | 1 => { m with a := m.t.getD fa Val.zero }
    | _ => { m with a := (Val.add (Val.mul m.a m.r) (c fa)).round }
  | 5 =>
    match mode with
    | 0 => { m with a := (m.a.scale m.n).round }
    | 1 => { m with a := (Val.add m.a (Val.mul (Val.ofInt m.n) (c fa))).round }
    | 2 => { m with a := m.a.mulR m.x }
    | 3 => { m with a := m.a.mulR m.r }
    | _ => if m.f.getD 3 false then { m with a := (c fa).subR m.a } else m
  | 6 =>
    if m.f.getD fb false then
      match mode with
      | 0 => { m with a := c fa }
      | 1 => { m with a := m.x }
      | _ => { m with a := m.a.neg }
    else m
  | _ => m

/-- The result of a program on an input (R140). -/
def runMicro (steps : List Nat) (consts : List Val) (table : Nat → Val) (x : Val) : Val :=
  (steps.foldl (fun m w => m.step consts table w) (Micro.start x)).a.round

/-- The program of a 136-byte slot image: its step words in use and its constants (Table 5.5). -/
def slotProgram (im : List Byte) : List Nat × List Val :=
  ((List.range (leAt im 0 1)).map (fun i => leAt im (8 + 4 * i) 4),
   (List.range 8).map (fun i => w44Val (BitVec.ofNat 64 (leAt im (72 + 8 * i) 8))))

/-- A rational rounded to W44 (R136). -/
def ratVal (a : Int) (b : Nat) : Val := (Val.ofInt a).divR (Val.ofNat b)

/-- ln 2 as a fraction of 2^120, exact to that place. -/
def ln2Num : Nat := 921350637599661305226344307672478454

/-- C3 of the EXP program: SIG 0xB172_17F8 with EXP 1,022 (R136). -/
def expC3 : Val := .fin false 0xB17217F8 (-32)

/-- The constants of the A1 program for EXP (R136, R141). -/
def expConsts : List Val :=
  [ratVal 70978 100, ratVal (-70840) 100, (Val.ofNat (2 ^ 120)).divR (Val.ofNat ln2Num), expC3,
   Val.subR (.fin false ln2Num (-120)) expC3, .inf false, Val.zero, Val.zero]

/-- Table entries 0 to 7 of the Horuek function set (R141). -/
def expTable (i : Nat) : Val :=
  [ratVal 1 5040, ratVal 1 720, ratVal 1 120, ratVal 1 24, ratVal 1 6, ratVal 1 2, ratVal 1 1,
   ratVal 1 1].getD i Val.zero

/-- The step words of the A1 program for EXP (R141). -/
def expSteps : List Nat :=
  let st (op mode a b c : Nat) : Nat := op + mode * 2 ^ 4 + a * 2 ^ 8 + b * 2 ^ 11 + c * 2 ^ 14
  [st 1 0 0 0 0, st 1 2 1 1 0, st 2 0 2 3 4, st 3 0 0 0 0, st 4 1 0 0 0, st 4 0 1 0 0, st 4 0 2 0 0,
   st 4 0 3 0 0, st 4 0 4 0 0, st 4 0 5 0 0, st 4 0 6 0 0, st 4 0 7 0 0, st 5 0 0 0 0, st 6 0 5 0 0,
   st 6 0 6 1 0, st 0 0 0 0 0]

/-- EXP by its A1 program (R141). -/
def expFn (x : Val) : Val := runMicro expSteps expConsts expTable x

/-- The results that Table 5.4 states outside the domain and at special inputs; none where the bound
of R135 decides (slots 1 to 15). -/
def specialFn (slot : Nat) (x : Val) : Option Val :=
  match x with
  | .nan => some .nan
  | _ =>
  let one := Val.ofNat 1
  let lt (k : Int) := Val.cmp 2 x (Val.ofInt k)
  let gt (k : Int) := Val.cmp 0 x (Val.ofInt k)
  let pinf := x == Val.inf false
  let ninf := x == Val.inf true
  match slot with
  | 1 => if gt 1024 then some (.inf false) else if lt (-1022) then some Val.zero else none
  | 2 | 3 => if x.isZero then some (.inf true) else if x.sign then some .nan
      else if pinf then some (.inf false) else none
  | 4 => match x with
    | .fin n 0 _ => some (.inf n)
    | .inf n => some (.fin n 0 0)
    | _ => none
  | 5 => match x with
    | .fin n 0 _ => some (.inf n)
    | _ => if x.sign then some .nan else if pinf then some Val.zero else none
  | 6 => match x with
    | .fin n 0 _ => some (.fin n 0 0)
    | _ => if x.sign then some .nan else if pinf then some (.inf false) else none
  | 7 => if pinf then some one else if ninf then some Val.zero else none
  | 8 | 13 => if pinf then some one else if ninf then some (Val.ofInt (-1)) else none
  | 9 | 10 | 11 => if pinf then some (.inf false) else if ninf then some (.fin true 0 0) else none
  | 12 => if pinf then some (.inf false) else if ninf then some Val.zero else none
  | _ => if Val.cmp 0 x.abs (Val.ofNat (2 ^ 21)) then some .nan else none

/-- An input outside the domain of a Horuek function, which the field counts (R135, Table 5.4). A NaN, whose result R135
states apart, is not counted (DESIGN CHOICE, entry 106). -/
def outsideDomain (slot : Nat) (x : Val) : Bool :=
  if x.isNan then false else
  match slot with
  | 0 => Val.cmp 0 x (ratVal 70978 100)
  | 1 => Val.cmp 0 x (Val.ofNat 1024)
  | 2 | 3 | 5 => !Val.cmp 0 x Val.zero
  | 4 => x.isZero
  | 6 => Val.cmp 2 x Val.zero
  | 14 | 15 => Val.cmp 0 x.abs (Val.ofNat (2 ^ 21))
  | _ => false

/-- A Horuek function of Table 5.4: EXP by its program, the others by the stated results and else a free
value that the 1-ulp bound allows (R135 to R137; log entry 5). -/
def horuekFn (slot : Nat) (x : Val) : Val :=
  if slot = 0 then expFn x else
  match specialFn slot x with
  | some v => v
  | none => nearTo (horuekReal slot x) (w44Val (Config.fnValue slot (w44Put x)))

/-- A slot of the partition's store holds a function (R136, R138). -/
def Part.slotFull (p : Part) (slot : Nat) : Bool := slot < 16 || (slot ≥ 24 && (p.uslots.at? slot).isSome)

/-- The function of a slot: Horuek's, or the partition's own program over table entries 512 to 1,023
(R138, R140). -/
def Part.slotFn (p : Part) (slot : Nat) (x : Val) : Val :=
  if slot < 24 then horuekFn slot x else
  let pr := slotProgram (p.uslots.atD slot [])
  runMicro pr.1 pr.2 (fun i => w44Val (p.utab.atD i 0)) x

/-- The function step for FN, hard-wired or a slot (R133, Table 5.3). -/
def applyFn (p : Part) (d : Epi) (v : Val) : Val :=
  match d.fn with
  | 0 => v
  | 1 => if v.isNan then v else if Val.cmp 0 v Val.zero then v else Val.zero
  | 2 => if v.isNan then v else if Val.cmp 1 v Val.zero then v else Val.mulR d.pa v
  | 3 => if v.isNan then v else Val.min (Val.max v d.pa) d.pb
  | 4 => v.abs
  | 5 => v.mulR v
  | fn => p.slotFn (fn - 0x40) v

/-! ### Epilogue steps 2 to 5 (R95, R132, R147) -/

/-- Value j of a scale or bias vector at a word address, and its mark (R132). -/
def Clove.vecValue (c : Clove) (base j : Nat) : Val × Bool :=
  let w := c.get (base + j / 2)
  (b32Val (bitField w.1.toNat (32 * (j % 2)) 32), w.2)

/-- A scale or bias by its kind: none, scalar, per column, per vector (R132). -/
def Clove.factor (c : Clove) (kind : Nat) (scalar : Val) (base j m : Nat) : Option (Val × Bool) :=
  match kind with
  | 0 => none
  | 1 => some (scalar, false)
  | 2 => some (c.vecValue base j)
  | _ => some (c.vecValue base m)

/-- A result on its way through the epilogue: its value, mark, the soft-maximum argument, whether the
argument passed the limit L_hi, and whether its input left the function's domain. -/
structure Piece where
  val : Val
  mark : Bool
  arg : Val
  high : Bool
  dom : Bool
  deriving DecidableEq, Repr

/-- L_hi of R147: 708 for EXP, 1,021 for EXP2. -/
def limitHi (fn : Nat) : Val := if fn = 0x41 then Val.ofNat 1021 else Val.ofNat 708

/-- Steps 2 to 5 of the epilogue for result j of vector or row m; fill is the element mask's value
where R86 replaces the result (R95). -/
def Clove.pieceOf (c : Clove) (p : Part) (d : Option Epi) (j m : Nat) (fill : Option Val) (v : Val) (mark : Bool) : Piece :=
  match d with
  | none => let v := fill.getD v; ⟨v, mark, v, false, false⟩
  | some d =>
    let r1 := match c.factor d.skind d.scale d.svec j m with
      | none => (v, mark)
      | some f => (v.mulR f.1, mark || f.2)
    let r2 := match c.factor d.bkind d.bias d.bvec j m with
      | none => r1
      | some f => (r1.1.addR f.1, r1.2 || f.2)
    let a := fill.getD r2.1
    let hi := d.rowsum && Val.cmp 0 a (limitHi d.fn)
    let x := if hi then limitHi d.fn else a
    ⟨applyFn p d x, r2.2, a, hi, d.fn ≥ 0x40 && d.fn < 0x58 && outsideDomain (d.fn - 0x40) x⟩

/-- A result converted to OFMT: a micro-programmed function's result flushes first (R135, R117). -/
def convPiece (micro : Bool) (code : Nat) (scale : Byte) (v : Val) (draw : Option Nat) : Conv :=
  convScaled code scale (if micro then flushOut code scale v else v) draw

/-! ### Row statistics (R146, R147) -/

/-- A soft-maximum statistic entry (Table 5.10). -/
structure Stat where
  sum : Val
  max : Val
  count : Nat
  high : Bool
  nan : Bool
  mark : Bool
  deriving DecidableEq, Repr

/-- The entry of a row before its first write (R146). -/
def Stat.fresh : Stat := ⟨Val.zero, .inf true, 0, false, false, false⟩

/-- The entry that two words hold (Table 5.10). -/
def Stat.ofWords (w0 w1 : W64 × Bool) : Stat :=
  ⟨w44Val w0.1, b32Val (bitField w1.1.toNat 0 32), bitField w1.1.toNat 32 24, w1.1.getLsbD 56,
   w1.1.getLsbD 57, w0.2 || w1.2⟩

/-- The two words of an entry; MAX is rounded toward +∞ (Table 5.10). -/
def Stat.toWords (e : Stat) : List (W64 × Bool) :=
  [(w44Put e.sum, e.mark),
   (BitVec.ofNat 64 (b32Up e.max + Min.min e.count (2 ^ 24 - 1) * 2 ^ 32 + b2n e.high * 2 ^ 56 +
     b2n e.nan * 2 ^ 57), e.mark)]

/-- One term of a row: the argument, the weight as written and decoded, and what its conversion met
(R147). -/
def Stat.add (e : Stat) (q : Piece) (w : Val) (sat mark : Bool) : Stat :=
  let sum := e.sum.addR w
  let ovf := e.sum.isFinite && w.isFinite && !sum.isFinite
  let winf := match w with
    | .inf _ => true
    | _ => false
  { sum := sum
    max := if q.arg.isNan then e.max else Val.max e.max q.arg
    count := if q.arg == .inf true then e.count else Min.min (e.count + 1) (2 ^ 24 - 1)
    high := e.high || q.high || sat || winf || ovf
    nan := e.nan || q.arg.isNan
    mark := e.mark || mark }

/-- Two entries merged (R149). -/
def Stat.merge (a b : Stat) : Stat :=
  let sum := a.sum.addR b.sum
  { sum := sum, max := Val.max a.max b.max, count := Min.min (a.count + b.count) (2 ^ 24 - 1)
    high := a.high || b.high || (a.sum.isFinite && b.sum.isFinite && !sum.isFinite)
    nan := a.nan || b.nan, mark := a.mark || b.mark }

/-- The statistic entry of row m updated by a row's terms: the piece, its written weight decoded, whether
its conversion saturated, and its mark (R146, R147). -/
def Clove.statRow (c : Clove) (d : Epi) (m : Nat) (terms : List (Piece × Val × Bool × Bool)) : Clove :=
  if terms.isEmpty then c else
  let a := d.statAddr + 2 * m
  let e := if d.statAcc then Stat.ofWords (c.get a) (c.get (a + 1)) else Stat.fresh
  c.putWords a (terms.foldl (fun e t => e.add t.1 t.2.1 t.2.2.1 t.2.2.2) e).toWords

end Sys2Proof.Machine
end

