-- ==== Sys2Proof/Machine/Operands.lean ====
section
/-! DEFINITION. The operands of clove instructions: one record per 16-byte layout of the spec (R82,
R142, R169, R180, R196, R223), read from and written to the instruction's word, with the check of its
reserved bits. -/
namespace Sys2Proof.Machine

/-- The operands of GANG_CFG, Table 3.2 (R83). -/
structure GangOp where
  arr : BitVec 1
  shape : BitVec 2
  form : BitVec 2
  x0 : BitVec 11
  y0 : BitVec 10
  deriving DecidableEq, Repr

/-- The operands that a word carries. -/
def GangOp.ofWord (w : W128) : GangOp :=
  ⟨w.extractLsb' 4 1, w.extractLsb' 8 2, w.extractLsb' 10 2, w.extractLsb' 12 11,
   w.extractLsb' 23 10⟩

/-- The word that carries the operands, reserved bits zero. -/
def GangOp.toWord (i : GangOp) : W128 :=
  (0 : BitVec 95) ++ i.y0 ++ i.x0 ++ i.form ++ i.shape ++ (0 : BitVec 3) ++ i.arr ++ (1 : BitVec 4)

/-- The reserved bits of the layout, as a mask. -/
def GangOp.reserved : W128 := 0xFFFFFFFFFFFFFFFFFFFFFFFE000000E0

/-- The operands of LOAD, Table 3.3 (R84). -/
structure LoadOp where
  arr : BitVec 1
  mode : BitVec 2
  fmt : BitVec 4
  init : BitVec 2
  msrc : BitVec 1
  src : BitVec 12
  mask : BitVec 12
  klen : BitVec 9
  nlen : BitVec 11
  deriving DecidableEq, Repr

/-- The operands that a word carries. -/
def LoadOp.ofWord (w : W128) : LoadOp :=
  ⟨w.extractLsb' 4 1, w.extractLsb' 5 2, w.extractLsb' 7 4, w.extractLsb' 11 2,
   w.extractLsb' 13 1, w.extractLsb' 14 12, w.extractLsb' 26 12, w.extractLsb' 38 9,
   w.extractLsb' 47 11⟩

/-- The word that carries the operands, reserved bits zero. -/
def LoadOp.toWord (i : LoadOp) : W128 :=
  (0 : BitVec 70) ++ i.nlen ++ i.klen ++ i.mask ++ i.src ++ i.msrc ++ i.init ++ i.fmt ++
  i.mode ++ i.arr ++ (2 : BitVec 4)

/-- The reserved bits of the layout, as a mask. -/
def LoadOp.reserved : W128 := 0xFFFFFFFFFFFFFFFFFC00000000000000

/-- The operands of SWAP, Table 3.4 (R87). -/
structure SwapOp where
  arr : BitVec 1
  dst : BitVec 3
  ofmt : BitVec 4
  acc : BitVec 1
  accRgn : BitVec 3
  epi : BitVec 6
  deriving DecidableEq, Repr

/-- The operands that a word carries. -/
def SwapOp.ofWord (w : W128) : SwapOp :=
  ⟨w.extractLsb' 4 1, w.extractLsb' 27 3, w.extractLsb' 30 4, w.extractLsb' 34 1,
   w.extractLsb' 35 3, w.extractLsb' 38 6⟩

/-- The word that carries the operands, reserved bits zero. -/
def SwapOp.toWord (i : SwapOp) : W128 :=
  (0 : BitVec 84) ++ i.epi ++ i.accRgn ++ i.acc ++ i.ofmt ++ i.dst ++ (0 : BitVec 22) ++ i.arr ++
  (3 : BitVec 4)

/-- The reserved bits of the layout, as a mask. -/
def SwapOp.reserved : W128 := 0xFFFFFFFFFFFFFFFFFFFFF00007FFFFE0

/-- The operands of STREAM, Table 3.5 (R88). -/
structure StreamOp where
  arr : BitVec 1
  mode : BitVec 2
  axis : BitVec 1
  tree : BitVec 1
  form : BitVec 2
  fmt : BitVec 4
  cellop : BitVec 3
  cmp : BitVec 3
  src : BitVec 3
  src2 : BitVec 3
  dst : BitVec 3
  ofmt : BitVec 4
  acc : BitVec 1
  accRgn : BitVec 3
  epi : BitVec 6
  emask : BitVec 1
  efill : BitVec 1
  fmt2 : BitVec 4
  count : BitVec 32
  eoff : BitVec 32
  deriving DecidableEq, Repr

/-- The operands that a word carries. -/
def StreamOp.ofWord (w : W128) : StreamOp :=
  ⟨w.extractLsb' 4 1, w.extractLsb' 5 2, w.extractLsb' 7 1, w.extractLsb' 8 1,
   w.extractLsb' 9 2, w.extractLsb' 11 4, w.extractLsb' 15 3, w.extractLsb' 18 3,
   w.extractLsb' 21 3, w.extractLsb' 24 3, w.extractLsb' 27 3, w.extractLsb' 30 4,
   w.extractLsb' 34 1, w.extractLsb' 35 3, w.extractLsb' 38 6, w.extractLsb' 44 1,
   w.extractLsb' 45 1, w.extractLsb' 46 4, w.extractLsb' 64 32, w.extractLsb' 96 32⟩

/-- The word that carries the operands, reserved bits zero. -/
def StreamOp.toWord (i : StreamOp) : W128 :=
  i.eoff ++ i.count ++ (0 : BitVec 14) ++ i.fmt2 ++ i.efill ++ i.emask ++ i.epi ++ i.accRgn ++
  i.acc ++ i.ofmt ++ i.dst ++ i.src2 ++ i.src ++ i.cmp ++ i.cellop ++ i.fmt ++
  i.form ++ i.tree ++ i.axis ++ i.mode ++ i.arr ++ (4 : BitVec 4)

/-- The reserved bits of the layout, as a mask. -/
def StreamOp.reserved : W128 := 0xFFFC000000000000

/-- The operands of RGN, Table 6.5 (R169); px holds bits [65:57], which name a stream queue when PKIND is 1. -/
structure RgnOp where
  sub : BitVec 3
  rgn : BitVec 3
  base : BitVec 12
  slotw : BitVec 13
  slots : BitVec 8
  rdmode : BitVec 2
  stride : BitVec 8
  manual : BitVec 1
  cred : BitVec 1
  pkind : BitVec 1
  px : BitVec 9
  py : BitVec 7
  pch : BitVec 3
  n : BitVec 8
  deriving DecidableEq, Repr

/-- The operands that a word carries. -/
def RgnOp.ofWord (w : W128) : RgnOp :=
  ⟨w.extractLsb' 5 3, w.extractLsb' 8 3, w.extractLsb' 11 12, w.extractLsb' 23 13,
   w.extractLsb' 36 8, w.extractLsb' 44 2, w.extractLsb' 46 8, w.extractLsb' 54 1,
   w.extractLsb' 55 1, w.extractLsb' 56 1, w.extractLsb' 57 9, w.extractLsb' 66 7,
   w.extractLsb' 73 3, w.extractLsb' 96 8⟩

/-- The word that carries the operands, reserved bits zero. -/
def RgnOp.toWord (i : RgnOp) : W128 :=
  (0 : BitVec 24) ++ i.n ++ (0 : BitVec 20) ++ i.pch ++ i.py ++ i.px ++ i.pkind ++ i.cred ++
  i.manual ++ i.stride ++ i.rdmode ++ i.slots ++ i.slotw ++ i.base ++ i.rgn ++ i.sub ++
  (0 : BitVec 1) ++ (5 : BitVec 4)

/-- The reserved bits of the layout, as a mask. -/
def RgnOp.reserved : W128 := 0xFFFFFF00FFFFF0000000000000000010

/-- The operands of REMOTE, Table 6.7 (R180). -/
structure RemoteOp where
  sub : BitVec 3
  ch : BitVec 3
  laddr : BitVec 12
  raddr : BitVec 12
  rx : BitVec 9
  ry : BitVec 7
  len : BitVec 13
  deriving DecidableEq, Repr

/-- The operands that a word carries. -/
def RemoteOp.ofWord (w : W128) : RemoteOp :=
  ⟨w.extractLsb' 5 3, w.extractLsb' 8 3, w.extractLsb' 11 12, w.extractLsb' 23 12,
   w.extractLsb' 35 9, w.extractLsb' 44 7, w.extractLsb' 51 13⟩

/-- The word that carries the operands, reserved bits zero. -/
def RemoteOp.toWord (i : RemoteOp) : W128 :=
  (0 : BitVec 64) ++ i.len ++ i.ry ++ i.rx ++ i.raddr ++ i.laddr ++ i.ch ++ i.sub ++
  (0 : BitVec 1) ++ (6 : BitVec 4)

/-- The reserved bits of the layout, as a mask. -/
def RemoteOp.reserved : W128 := 0xFFFFFFFFFFFFFFFF0000000000000010

/-- The operands of LOOP, Table 7.1 (R196). -/
structure LoopOp where
  daddr : BitVec 12
  nbidx : BitVec 8
  seqlen : BitVec 32
  pos0 : BitVec 32
  nbnum : BitVec 16
  deriving DecidableEq, Repr

/-- The operands that a word carries. -/
def LoopOp.ofWord (w : W128) : LoopOp :=
  ⟨w.extractLsb' 8 12, w.extractLsb' 20 8, w.extractLsb' 32 32, w.extractLsb' 64 32,
   w.extractLsb' 96 16⟩

/-- The word that carries the operands, reserved bits zero. -/
def LoopOp.toWord (i : LoopOp) : W128 :=
  (0 : BitVec 16) ++ i.nbnum ++ i.pos0 ++ i.seqlen ++ (0 : BitVec 4) ++ i.nbidx ++ i.daddr ++ (0 : BitVec 4) ++
  (7 : BitVec 4)

/-- The reserved bits of the layout, as a mask. -/
def LoopOp.reserved : W128 := 0xFFFF00000000000000000000F00000F0

/-- The operands of an SFU instruction, Table 5.7 (R142). -/
structure SfuOp where
  op : BitVec 4
  sub : BitVec 3
  src : BitVec 3
  src2 : BitVec 3
  dst : BitVec 3
  ifmt : BitVec 4
  ofmt : BitVec 4
  epi : BitVec 6
  bcast : BitVec 1
  addr : BitVec 12
  count : BitVec 32
  rowlen : BitVec 16
  deriving DecidableEq, Repr

/-- The operands that a word carries. -/
def SfuOp.ofWord (w : W128) : SfuOp :=
  ⟨w.extractLsb' 0 4, w.extractLsb' 5 3, w.extractLsb' 8 3, w.extractLsb' 11 3,
   w.extractLsb' 14 3, w.extractLsb' 17 4, w.extractLsb' 21 4, w.extractLsb' 25 6,
   w.extractLsb' 31 1, w.extractLsb' 32 12, w.extractLsb' 64 32, w.extractLsb' 96 16⟩

/-- The word that carries the operands, reserved bits zero. -/
def SfuOp.toWord (i : SfuOp) : W128 :=
  (0 : BitVec 16) ++ i.rowlen ++ i.count ++ (0 : BitVec 20) ++ i.addr ++ i.bcast ++ i.epi ++ i.ofmt ++
  i.ifmt ++ i.dst ++ i.src2 ++ i.src ++ i.sub ++ (0 : BitVec 1) ++ i.op

/-- The reserved bits of the layout, as a mask. -/
def SfuOp.reserved : W128 := 0xFFFF000000000000FFFFF00000000010

/-- The operands of FABRIC, Table 8.3 (R223). -/
structure FabricOp where
  sub : BitVec 3
  sq : BitVec 7
  addr : BitVec 12
  scope : BitVec 2
  bid : BitVec 6
  arrive : BitVec 1
  wait : BitVec 1
  bcount : BitVec 16
  deriving DecidableEq, Repr

/-- The operands that a word carries. -/
def FabricOp.ofWord (w : W128) : FabricOp :=
  ⟨w.extractLsb' 5 3, w.extractLsb' 8 7, w.extractLsb' 16 12, w.extractLsb' 28 2,
   w.extractLsb' 30 6, w.extractLsb' 36 1, w.extractLsb' 37 1, w.extractLsb' 38 16⟩

/-- The word that carries the operands, reserved bits zero. -/
def FabricOp.toWord (i : FabricOp) : W128 :=
  (0 : BitVec 74) ++ i.bcount ++ i.wait ++ i.arrive ++ i.bid ++ i.scope ++ i.addr ++ (0 : BitVec 1) ++
  i.sq ++ i.sub ++ (0 : BitVec 1) ++ (15 : BitVec 4)

/-- The reserved bits of the layout, as a mask. -/
def FabricOp.reserved : W128 := 0xFFFFFFFFFFFFFFFFFFC0000000008010

end Sys2Proof.Machine
end

