-- ==== Sys2Proof/Machine/Gangs.lean ====
section
/-! DEFINITION. Gangs and their geometry (R56 to R63), engines and their halts (R81, R128, R192), region
use by started instructions (R175), and the credits that released slots return (R174, R183). -/
namespace Sys2Proof.Machine

/-! ### Gangs (R56 to R63) -/

/-- Array A or B of a clove. -/
def Clove.arr (c : Clove) (b : Bool) : ArrayUnit := if b then c.arrB else c.arrA
/-- The clove with array A or B set. -/
def Clove.setArr (c : Clove) (b : Bool) (a : ArrayUnit) : Clove :=
  if b then { c with arrB := a } else { c with arrA := a }
/-- Array A or B of a clove of the state. -/
def State.arr (s : State) (k : Nat) (b : Bool) : ArrayUnit := (s.clove k).arr b
/-- The state with an array changed. -/
def State.modArr (s : State) (k : Nat) (b : Bool) (f : ArrayUnit → ArrayUnit) : State :=
  s.modClove k (fun c => c.setArr b (f (c.arr b)))

/-- The register set S0 (false) or S1 (true). -/
def ArrayUnit.setOf (a : ArrayUnit) (i : Bool) : RegSet := if i then a.s1 else a.s0
/-- The array with one register set replaced. -/
def ArrayUnit.putSet (a : ArrayUnit) (i : Bool) (r : RegSet) : ArrayUnit :=
  if i then { a with s1 := r } else { a with s0 := r }

/-- A gang: its array, shape, form and origin (R57). -/
structure Gang where
  arr : Bool
  shape : Nat
  form : Nat
  ox : Nat
  oy : Nat
  deriving DecidableEq, Repr

/-- The gang that an array of a clove belongs to. -/
def State.gangOf (s : State) (k : Nat) (b : Bool) : Gang :=
  let a := s.arr k b
  ⟨b, a.shape, a.form, a.ox, a.oy⟩

/-- Cloves on a side: 1, 8 or 16 (Table 2.5). -/
def Gang.side (g : Gang) : Nat := if g.shape = 0 then 1 else if g.shape = 1 then 8 else 16
/-- Segments of a form (Table 2.6). -/
def Gang.segs (g : Gang) : Nat := if g.shape = 1 then 2 ^ g.form else 1
/-- Clove rows of a segment. -/
def Gang.segRows (g : Gang) : Nat := g.side / g.segs
/-- Logical rows D. -/
def Gang.rows (g : Gang) : Nat := 16 * g.segRows
/-- Logical columns W. -/
def Gang.cols (g : Gang) : Nat := 16 * g.side * g.segs
/-- Module index of the member at clove column dx and clove row dy. -/
def Gang.at (g : Gang) (dx dy : Nat) : Nat := cloveNo (g.ox + dx) (g.oy + dy)
/-- The origin clove. -/
def Gang.origin (g : Gang) : Nat := cloveNo g.ox g.oy
/-- Every member, row by row. -/
def Gang.members (g : Gang) : List Nat :=
  (List.range g.side).flatMap (fun dy => (List.range g.side).map (fun dx => g.at dx dy))
/-- First logical row of a member in clove row dy (R62). -/
def Gang.row0 (g : Gang) (dy : Nat) : Nat := dy % g.segRows * 16
/-- First logical column of a member (R62). -/
def Gang.col0 (g : Gang) (dx dy : Nat) : Nat := dy / g.segRows * (16 * g.side) + dx * 16
/-- Clove column of a member. -/
def Gang.dx (g : Gang) (k : Nat) : Nat := cloveX k - g.ox
/-- Clove row of a member. -/
def Gang.dy (g : Gang) (k : Nat) : Nat := cloveY k - g.oy

/-- Entry cloves in order of logical row: clove column 0 on the normal axis, clove row 0 on the
transposed axis (R50, R62, R64). -/
def Gang.entry (g : Gang) (transposed : Bool) : List Nat :=
  if transposed then (List.range g.side).map (fun dx => g.at dx 0)
  else (List.range g.segRows).map (fun dy => g.at 0 dy)
/-- Top-edge cloves in order of logical column, one row of them for each segment (R50, R62). -/
def Gang.top (g : Gang) : List Nat :=
  (List.range g.segs).flatMap (fun sg => (List.range g.side).map (fun dx => g.at dx (sg * g.segRows)))
/-- Exit cloves in order of result position (R50, R62, R64). -/
def Gang.exit (g : Gang) (transposed : Bool) : List Nat :=
  if transposed then (List.range g.side).map (fun dy => g.at (g.side - 1) dy)
  else (List.range g.segs).flatMap (fun sg =>
    (List.range g.side).map (fun dx => g.at dx (sg * g.segRows + g.segRows - 1)))

/-- Every member carries the gang's setting (R58). -/
def State.gangAgrees (s : State) (g : Gang) : Bool := g.members.all (fun k => s.gangOf k g.arr == g)

/-- The first fault of addressing a gang from clove k, in the order of R102: the issuer is not the
origin or members disagree, a member is unpowered, a member is quarantined (R58, R60, R75, R79). -/
def State.gangFault (s : State) (k : Nat) (g : Gang) : Option Code :=
  if k ≠ g.origin || !s.gangAgrees g then some .gangMismatch
  else if g.members.any (fun m => !s.powered (cloveX m) (cloveY m)) then some .gangPower
  else if g.members.any (fun m => (s.clove m).quar) then some .gangQuarantined
  else none

/-! ### Engines (R81, R128, R157, R192) -/

/-- Engine number of array A (0) or B (1). -/
def arrEngine (b : Bool) : Nat := if b then 1 else 0

/-- Issue on an engine of a clove is halted. -/
def Clove.halted (c : Clove) (engine : Nat) : Bool :=
  match engine with
  | 0 => c.arrA.halted
  | 1 => c.arrB.halted
  | 2 => c.sfuHalted
  | 3 => c.remHalted
  | 4 => c.loopHalted
  | _ => c.seqHalted

/-- Issue on an engine halts (R81). -/
def Clove.halt (c : Clove) (engine : Nat) : Clove :=
  match engine with
  | 0 => { c with arrA := { c.arrA with halted := true } }
  | 1 => { c with arrB := { c.arrB with halted := true } }
  | 2 => { c with sfuHalted := true }
  | 3 => { c with remHalted := true }
  | 4 => { c with loopHalted := true }
  | _ => { c with seqHalted := true }

/-- The engine number that a record carries: region control has none (Table 16.4). -/
def recEngine (engine : Nat) : Nat := if engine ≤ 4 then engine else 15

/-- An instruction that does not start: its code is raised and issue on its engine halts (R81, R101,
R144, R192, R239). -/
def State.refuse (s : State) (k engine : Nat) (c : Code) (value : Nat) : State :=
  (s.cloveEvent c (cloveX k) (cloveY k) (recEngine engine) value).modClove k (fun v => v.halt engine)

/-! ### Region use (R174, R175) -/

/-- An earlier started instruction still writes (w) or reads region rn of the clove (R175). -/
def Clove.before (c : Clove) (owner rn : Nat) (w : Bool) : Bool :=
  (c.tickets.takeWhile (fun t => t.1 ≠ owner)).any (fun t => t.2.1 == rn && t.2.2 == w)

/-- A started instruction, issued before number no, uses region rn of the clove. -/
def Clove.using (c : Clove) (no rn : Nat) : Bool := c.tickets.any (fun t => decide (t.1 < no) && t.2.1 == rn)

/-- The state with an instruction's use of regions recorded: clove, region, writes. -/
def State.takeTickets (s : State) (owner : Nat) (us : List (Nat × Nat × Bool)) : State :=
  us.foldl (fun s u => s.modClove u.1 (fun c => { c with tickets := c.tickets ++ [(owner, u.2.1, u.2.2)] })) s

/-- The state with an instruction's uses and scoreboard entries dropped in the listed cloves. -/
def State.dropOwner (s : State) (engine owner : Nat) (ks : List Nat) : State :=
  ks.foldl (fun s k => (s.modClove k (fun c =>
    { c.freeOwner engine owner with tickets := c.tickets.filter (fun t => t.1 != owner) })).progressed (partOf (cloveX k) (cloveY k))) s

/-- n credits returned to the producer of a credited region of clove k (R174, R183, R225). -/
def State.credit (s : State) (k : Nat) (r : Region) : Nat → State
  | 0 => s
  | n + 1 =>
    if !r.cred then s else
    let m := if r.pkind then Msg.creditRetQ k (partOf (cloveX k) (cloveY k)) r.prod
      else Msg.creditRet k r.prod r.pch
    ({ s with msgs := s.msgs ++ [m] } : State).credit k r n

/-- A region of clove k replaced, with a credit returned for each slot it has released (R174). -/
def State.putRegion (s : State) (k rn : Nat) (r : Region) (released : Nat) : State :=
  (s.modClove k (fun c => c.setRegion rn r)).credit k r released

/-- One vector read from region rn of clove k, the words of its live elements only (R108, R171, R174, R185). -/
def State.takeVec (s : State) (k rn : Nat) (os : Bool) (code : Nat) (live : BitVec 16) : List (Val × Bool) × State :=
  let r := (s.clove k).region rn
  let n := Max.max (r.perSlot os code) 1
  let base := r.tailBase (r.rpos / n)
  let v := r.rpos % n
  let s := s.touchAll k (vecTouches r os code base v live)
  let es := (List.range 16).map (fun i => (s.clove k).vecElem r os code base v i)
  let r' := r.nextVec os code
  (es, s.putRegion k rn r' (r.fill - r'.fill))

/-- One word read from region rn of clove k (R174, R185). -/
def State.takeWord (s : State) (k rn : Nat) : (W64 × Bool) × State :=
  let r := (s.clove k).region rn
  let a := r.wordAt
  let s := s.touch k a
  let w := (s.clove k).get a
  let r' := r.nextWord
  (w, s.putRegion k rn r' (r.fill - r'.fill))

/-- The end of a reading instruction on region rn of clove k (R174). -/
def State.endRead (s : State) (k rn : Nat) : State :=
  let r := (s.clove k).region rn
  let r' := r.endRead
  s.putRegion k rn r' (r.fill - r'.fill)

/-- A clove of a queue context's block (Table 8.4). -/
def ctxHas (c : BitVec 256) (p k : Nat) : Bool :=
  let n := c.toNat
  let x := cloveX k
  let y := cloveY k
  let bx := partX p + bitField n 32 16
  let by_ := partY p + bitField n 48 16
  decide (bx ≤ x) && decide (x < bx + bitField n 64 8) && decide (by_ ≤ y) && decide (y < by_ + bitField n 72 8)

/-- The cloves of a context's block in order, x first (R222). -/
def ctxBlock (c : BitVec 256) (p : Nat) : List Nat :=
  let n := c.toNat
  (List.range (bitField n 72 8)).flatMap (fun dy => (List.range (bitField n 64 8)).map (fun dx =>
    partClove p (bitField n 32 16 + dx) (bitField n 48 16 + dy)))

/-- The cloves that a request's words go to or come from: every clove of the block for MCAST (R222, R227). -/
def State.reqCloves (s : State) (r : Req) : List Nat :=
  match (s.queue r.part r.queue).ctx with
  | some c => if c.getLsbD 1 then ctxBlock c r.part else [r.clove]
  | none => [r.clove]

/-- Memory requests issued and not completed (R228). -/
def State.allReqs (s : State) : List Req := s.inflight ++ s.memStacks.flatMap (fun e => e.2.reqs)

/-- Region rn of clove k is bound as the source of a store queue (R225). -/
def State.storeBound (s : State) (k rn : Nat) : Bool :=
  let p := partOf (cloveX k) (cloveY k)
  (s.part p).queues.any (fun e => match e.2.ctx with
    | none => false
    | some c => c.getLsbD 0 && bitField c.toNat 80 3 == rn && ctxHas c p k)

/-- A use of a region by an instruction: clove, region, write, vectors of 16, output-stationary groups,
format. -/
structure Use where
  k : Nat
  rn : Nat
  write : Bool
  vec : Bool
  os : Bool
  code : Nat
  deriving DecidableEq, Repr

/-- Rank of the region codes in R192. -/
def regionRank (c : Code) : Nat :=
  match c with
  | .regionUnset => 0
  | .regionRole => 1
  | _ => 2

/-- The region fault that an instruction reports over its uses, the first code in the order of R192. -/
def State.useFault (s : State) (us : List Use) : Option Code :=
  let fs := us.filterMap (fun u =>
    let r := (s.clove u.k).region u.rn
    match r.fault u.write u.vec u.os u.code with
    | some .regionUnset => some .regionUnset
    | f => if !u.write && s.storeBound u.k u.rn then some .regionRole else f)
  fs.foldl (fun b c => match b with
    | none => some c
    | some d => if regionRank c < regionRank d then some c else some d) none



/-! ### Epilogue entries at issue (R95, R120, R130, R138, Table 5.9) -/

/-- ARRAY_ENCODING of a pass or drain: stochastic rounding with an OFMT outside 0x2 to 0x4 (R120). -/
def srFault (d : Option Epi) (ofmt : Nat) : Bool :=
  match d with
  | some d => d.sr && !(ofmt ≥ 2 && ofmt ≤ 4)
  | none => false

/-- SFU_ENCODING of a descriptor: ROWSUM with an FN other than EXP and EXP2, or with OFMT INT8 (Table
5.9). -/
def rowsumFault (d : Option Epi) (ofmt : Nat) : Bool :=
  match d with
  | some d => d.rowsum && (!(d.fn == 0x40 || d.fn == 0x41) || ofmt == 6)
  | none => false

/-- The descriptor's function names an empty slot (R138). -/
def State.slotEmpty (s : State) (k : Nat) (d : Option Epi) : Bool :=
  match d with
  | some d => d.fn ≥ 0x40 && d.fn < 0x80 && !(s.part (partOf (cloveX k) (cloveY k))).slotFull (d.fn - 0x40)
  | none => false

/-- The plain ranges that a descriptor names in its clove for n vectors of 16 or rows of len elements:
scale and bias vectors, and statistic entries read under STAT_ACC (R132, R178). -/
def epiRanges (d : Option Epi) (len n : Nat) : List (Nat × Nat) :=
  match d with
  | none => []
  | some d =>
    let ext (kind : Nat) := if kind = 2 then ceilDiv len 2 else if kind = 3 then ceilDiv n 2 else 0
    [(d.svec, ext d.skind), (d.bvec, ext d.bkind),
     (d.statAddr, if d.rowsum && d.statAcc then Min.min (2 * n) 4096 else 0)]

/-- An entry for the statistic rows that ROWSUM writes (R177). -/
def statRange (d : Option Epi) (n : Nat) : List (List (Nat × Nat)) :=
  match d with
  | some d => if d.rowsum && n > 0 then [[(d.statAddr, Min.min (2 * n) 4096)]] else []
  | none => []

end Sys2Proof.Machine
end

