-- ==== Sys2Proof/Machine/Array.lean ====
section
/-! DEFINITION. The matrix arrays: LOAD, SWAP, STREAM and GANG_CFG at issue (R78 to R92), the cell
operations along the partial-sum chains and trees (R47, R66, R93 to R114), the integrity checks (R68 to
R76), the exit epilogue (R95 to R99) and the drain of accumulators (R55, R70, R85). -/
namespace Sys2Proof.Machine

/-! ### Cell operations (Table 3.8, R93, R94, R111, R112) -/

/-- One term of a cell operation on the streamed x and the other operand y: a MAC product exact, a
difference or sum with its rounding, a count of one. -/
def cellTerm (op cmp : Nat) (x y : Val) : Val :=
  match op with
  | 0 => Val.mul x y
  | 1 => (x.subR y).mulR (x.subR y)
  | 2 => (x.subR y).abs
  | 3 => x.addR y
  | 4 => x.addR y
  | _ => Val.ofNat (b2n (Val.cmp cmp x y))

/-- A term joined to a partial sum; the first live term stands for itself, so a sum of zeros is −0 only
when every term is (R111, R113). -/
def cellJoin (op : Nat) (p : Option Val) (t : Val) : Val :=
  match p with
  | none => t.round
  | some v =>
    match op with
    | 3 => Val.max v t
    | 4 => Val.min v t
    | _ => v.addR t

/-- The result with no live rows (Table 3.8). -/
def cellIdentity (op : Nat) : Val :=
  match op with
  | 3 => .inf true
  | 4 => .inf false
  | _ => Val.zero

/-- Two halves of an adder tree joined; a half with no live row contributes nothing. -/
def treeJoin (op : Nat) : Option Val → Option Val → Option Val
  | a, none => a
  | none, b => b
  | a, some v => some (cellJoin op a v)

/-- One level of the balanced tree. -/
def treeLevel (op : Nat) : List (Option Val) → List (Option Val)
  | a :: b :: r => treeJoin op a b :: treeLevel op r
  | r => r

/-- The balanced tree of 2^n leaves (R66, R111). -/
def treeSum (op : Nat) : Nat → List (Option Val) → Option Val
  | 0, l => (l.head?).getD none
  | n + 1, l => treeSum op n (treeLevel op l)

/-! ### Register sets -/

/-- The element of cell (i, j) with its block scale. -/
def RegSet.elem (r : RegSet) (i j : Nat) : Val :=
  decodeElem (r.fmt.getD 0) (r.cells.atD (16 * i + j) 0).toNat (r.scales.atD j 0)
/-- The accumulator of cell (i, j). -/
def RegSet.accum (r : RegSet) (i j : Nat) : Val := w44Val (r.cells.atD (16 * i + j) 0)
/-- The pepper mark of cell (i, j). -/
def RegSet.markAt (r : RegSet) (i j : Nat) : Bool := r.marks.atD (16 * i + j) false
/-- Position i of the reduction is live: a row on the normal axis, a column on the transposed one. -/
def RegSet.redLive (r : RegSet) (t : Bool) (i : Nat) : Bool := if t then r.cols.getLsbD i else r.rows.getLsbD i
/-- Result position j is live. -/
def RegSet.resLive (r : RegSet) (t : Bool) (j : Nat) : Bool := if t then r.rows.getLsbD j else r.cols.getLsbD j
/-- The element that reduction position i gives to result j. -/
def RegSet.cellAt (r : RegSet) (t : Bool) (i j : Nat) : Val := if t then r.elem j i else r.elem i j
/-- Its mark. -/
def RegSet.cellMark (r : RegSet) (t : Bool) (i j : Nat) : Bool := if t then r.markAt j i else r.markAt i j

/-- The register set that a work uses in a member clove. -/
def State.setAt (s : State) (k : Nat) (b i : Bool) : RegSet := (s.arr k b).setOf i
/-- That set changed. -/
def State.modSet (s : State) (k : Nat) (b i : Bool) (f : RegSet → RegSet) : State :=
  s.modArr k b (fun a => a.putSet i (f (a.setOf i)))

/-! ### Chains (R47, R59, R62, R64, R66) -/

/-- A partial-sum chain of cloves in hop order, and the result position of its first column. -/
structure Chain where
  cloves : List Nat
  base : Nat
  deriving DecidableEq, Repr

/-- The chains of a gang on an axis. -/
def Gang.chains (g : Gang) (t : Bool) : List Chain :=
  if t then (List.range g.side).map (fun dy => ⟨(List.range g.side).map (fun dx => g.at dx dy), 16 * dy⟩)
  else (List.range g.segs).flatMap (fun sg => (List.range g.side).map (fun dx =>
    ⟨(List.range g.segRows).map (fun r => g.at dx (sg * g.segRows + r)), sg * (16 * g.side) + 16 * dx⟩))

/-- The exit clove of a chain. -/
def Chain.exit (c : Chain) : Nat := c.cloves.getLastD 0

/-- What the checks of one clove and one vector find. -/
inductive Check where
  | good | unchecked | mismatch | parity
  deriving DecidableEq, Repr

/-- |v| below 2³² (R71). -/
def valSmall (v : Val) : Bool := v.isFinite && (v.isZero || decide (v.ilog2 < 32))

/-- A prediction compared with an observation under the band of R71, and what the corner cell then holds, |O − P| (R44,
R69); vs are all values of the check and sum the magnitudes that S adds to |prediction|. -/
def bandCheck (exact : Bool) (pred obs : Val) (vs : List Val) (sum : Val) : Check × W64 :=
  let d := (Val.add obs pred.neg).abs
  if !(pred.isFinite && obs.isFinite && vs.all Val.isFinite && sum.isFinite) then (.unchecked, w44Put d) else
  let t := if exact && valSmall pred && valSmall obs && vs.all valSmall then Val.zero
    else (pred.abs.addR sum).scale (-24)
  (if Val.cmp 0 d t then .mismatch else .good, w44Put d)

/-- The sum check of one clove for one vector (R69): ins and outs by result position. -/
def RegSet.sumCheck (r : RegSet) (t exact : Bool) (xs : List (Val × Bool)) (ins outs : List (Option Val)) : Check × W64 :=
  let pred := (List.range 16).foldl (fun a i =>
    if r.redLive t i then
      let c := w44Val (if t then r.ckRow.atD i 0 else r.ckCol.atD i 0)
      (Val.add a (Val.mul (xs.getD i (Val.zero, false)).1 c)).round
    else a) Val.zero
  let js := (List.range 16).filter (r.resLive t)
  let v (l : List (Option Val)) (j : Nat) := (l.getD j none).getD Val.zero
  let obs := js.foldl (fun a j => a.addR ((v outs j).subR (v ins j))) Val.zero
  let mag := js.foldl (fun a j => (a.addR (v ins j).abs).addR (v outs j).abs) Val.zero
  bandCheck exact pred obs (js.flatMap (fun j => [v ins j, v outs j])) mag

/-- The partial sum that leaves a clove at result position j (R93, R111): from the sum that enters on
the hop chain, or the clove's own subtree in tree mode. -/
def lineOut (op cmp : Nat) (tree : Bool) (start : Option Val) (pairs : List (Option (Val × Val))) : Option Val :=
  if tree then treeSum op 4 (pairs.map (fun q => q.map (fun q => (cellTerm op cmp q.1 q.2).round)))
  else pairs.foldl (fun p q => match q with
    | some q => some (cellJoin op p (cellTerm op cmp q.1 q.2))
    | none => p) start

/-- The shadow check of one clove for one vector (R72). On the transposed axis the line shadowed is result position
(row) c, and its elements are those of the data cells (DEDUCED, entry 99). -/
def RegSet.shadowCheck (r : RegSet) (t tree : Bool) (op cmp : Nat) (xs : List (Val × Bool)) (ins outs : List (Option Val)) : Check :=
  let c := r.shadowCol
  match outs.getD c none with
  | none => .good
  | some out =>
    if !r.resLive t c then .good else
    let el (i : Nat) := if t then r.elem c i
      else decodeElem (r.fmt.getD 0) (r.shadow.atD i 0).toNat (r.scales.atD c 0)
    let pred := lineOut op cmp tree (ins.getD c none) ((List.range 16).map (fun i =>
      if r.redLive t i then some ((xs.getD i (Val.zero, false)).1, el i) else none))
    match pred with
    | none => .good
    | some p =>
      if !(p.isFinite && out.isFinite) then .unchecked
      else if w44Put p = w44Put out then .good else .mismatch

/-- The partial sums, marks and check of one clove, with the word of its corner cell (R69, R72, R74): ins are what
enters, ups the upsets of this clove. A parity failure is reported in place of a mismatch of the same vector (DESIGN
CHOICE, entry 102). -/
def RegSet.passClove (r : RegSet) (t tree exact : Bool) (op cmp : Nat) (xs : List (Val × Bool))
    (ins : List (Option Val × Bool)) (ups : List Upset) : List (Option Val × Bool) × Check × W64 :=
  let start : List (Option Val) := if tree then List.replicate 16 none else ins.map (·.1)
  let outs := (List.range 16).map (fun j =>
    if !r.resLive t j then start.getD j none else
    let o := lineOut op cmp tree (start.getD j none) ((List.range 16).map (fun i =>
      if r.redLive t i then some ((xs.getD i (Val.zero, false)).1, r.cellAt t i j) else none))
    ups.foldl (fun o u => if u.parity || u.col ≠ j then o
      else some (w44Val (w44Put (o.getD Val.zero) ^^^ u.xor))) o)
  let marks := (List.range 16).map (fun j =>
    (ins.getD j (none, false)).2 || r.maskMark ||
    (List.range 16).any (fun i => r.redLive t i && r.resLive t j &&
      ((xs.getD i (Val.zero, false)).2 || r.cellMark t i j)))
  let chk := if op = 0 then r.sumCheck t exact xs start outs
    else (r.shadowCheck t tree op cmp xs start outs, r.corner)
  (outs.zip marks, if ups.any (·.parity) then .parity else chk.1, chk.2)

/-! ### Mismatches (R74, R75, R414) -/

/-- A check of clove k of a gang that failed in pass seq: the event, which names the gang's origin too, the counters and
quarantine at the retirement threshold. -/
def State.mismatch (s : State) (g : Gang) (k : Nat) (c : Code) (seq : Nat) : State :=
  let b := g.arr
  let x := cloveX k
  let y := cloveY k
  let s := (s.cloveEventOn c x y (arrEngine b) seq [g.ox, g.oy]).countField x y 0 1
  let t := s.up.time
  let s := s.modClove k (fun v =>
    { v with mismA := if b then v.mismA else satInc 255 v.mismA
             mismB := if b then satInc 255 v.mismB else v.mismB
             misTimes := t :: v.misTimes.filter (fun u => u + dayNs > t) })
  if (s.clove k).misTimes.length ≥ atLeastOne (s.fld .glbRetire 0 0 7 0) then s.quarantine x y else s

/-- The checks of the cloves of a gang reported, in order (R73, R74). -/
def State.report (s : State) (g : Gang) (seq : Nat) (cs : List (Nat × Check)) : State :=
  cs.foldl (fun s c => match c.2 with
    | .good => s
    | .unchecked => s.countField (cloveX c.1) (cloveY c.1) 1 1
    | .mismatch => s.mismatch g c.1 .arrayIntegrity seq
    | .parity => s.mismatch g c.1 .bcastParity seq) s

/-- Some check failed. -/
def anyFailed (cs : List (Nat × Check)) : Bool := cs.any (fun c => c.2 == .mismatch || c.2 == .parity)

/-! ### The exit epilogue (R95 to R98, R119 to R122) -/

/-- The fields of a work that its epilogue uses: from the STREAM or from the SWAP. -/
structure Exit where
  dst : Nat
  ofmt : Nat
  acc : Bool
  accRgn : Nat
  epi : Nat
  deriving DecidableEq, Repr

/-- The drain fields of a SWAP (Table 3.4). -/
def SwapOp.exit (o : SwapOp) : Exit := ⟨o.dst.toNat, o.ofmt.toNat, o.acc == 1, o.accRgn.toNat, o.epi.toNat⟩
/-- The result fields of a STREAM (Table 3.5). -/
def StreamOp.exit (o : StreamOp) : Exit := ⟨o.dst.toNat, o.ofmt.toNat, o.acc == 1, o.accRgn.toNat, o.epi.toNat⟩
/-- The result fields of a work. -/
def Work.exit (u : Work) : Exit :=
  if u.drain then (SwapOp.ofWord u.word).exit else (StreamOp.ofWord u.word).exit

/-- Results of one exit clove on their way through the epilogue: clove, member number, pieces by column
(none where dead). -/
structure ExitRow where
  k : Nat
  pieces : List (Option Piece)
  deriving DecidableEq, Repr

/-- Steps 1 to 5 for one exit clove: the partial result from ACC_RGN, then scale, bias, mask and
function (R95). res lists the results and marks, none where dead; n0 is the first result position and m
the vector or row. -/
def State.exitRow (s : State) (e : Exit) (k n0 m : Nat) (fill : Nat → Option Val) (res : List (Option (Val × Bool))) : ExitRow × State :=
  let live := (List.range 16).foldl (fun (v : BitVec 16) j => if (res.getD j none).isSome then v ||| BitVec.twoPow 16 j else v) 0
  let (acc, s) := if e.acc then s.takeVec k e.accRgn false 15 live else ([], s)
  let c := s.clove k
  let p := s.part (partOf (cloveX k) (cloveY k))
  let d := c.epiOf e.epi
  let ps := (List.range 16).map (fun j => (res.getD j none).map (fun v =>
    let a := acc.getD j (Val.zero, false)
    let r := if e.acc then (v.1.addR a.1, v.2 || a.2) else v
    c.pieceOf p d j m (fill (n0 + j)) r.1 r.2))
  (⟨k, ps⟩, s)

/-- The values of the live pieces. -/
def ExitRow.live (r : ExitRow) : List Val := r.pieces.filterMap (fun p => p.map (·.val))

/-- Draws for the live results of a row, in column order (R122): each live result's draw and the
generator after it. -/
def drawRow (sr : Bool) (rng : W32) : List (Option Piece) → List (Option Nat) × W32
  | [] => ([], rng)
  | none :: ps => let r := drawRow sr rng ps; (none :: r.1, r.2)
  | some _ :: ps =>
    if sr then
      let rng := srStep rng
      let r := drawRow sr rng ps
      (some (srDraw rng) :: r.1, r.2)
    else let r := drawRow sr rng ps; (none :: r.1, r.2)

/-- Step 6 for one exit clove: conversion with the block's scale, the counters, the statistic row and the
write into the destination (R95, R118, R119, R135, R147). A partition function's result does not flush (DESIGN CHOICE,
entry 105). The last component is the generator. -/
def State.exitWrite (s : State) (e : Exit) (m : Nat) (scale : Byte) (rng : W32) (r : ExitRow) : State × W32 :=
  let c := s.clove r.k
  let d := c.epiOf e.epi
  let micro := match d with
    | some d => d.fn ≥ 0x40 && d.fn < 0x58
    | none => false
  let sr := match d with
    | some d => d.sr
    | none => false
  let (ds, rng) := drawRow sr rng r.pieces
  let cs := (List.range 16).map (fun j => (r.pieces.getD j none).map (fun p =>
    (p, convPiece micro e.ofmt scale p.val (ds.getD j none))))
  let live := cs.filterMap (fun t => t)
  let x := cloveX r.k
  let y := cloveY r.k
  let s := s.countField x y 2 (live.filter (fun t => t.2.sat)).length
  let s := s.countField x y 3 (live.filter (fun t => t.1.dom)).length
  let c := (s.clove r.k).putVec e.dst e.ofmt (cs.map (fun t => t.map (fun t => (t.2.bits, t.1.mark)))) scale.toNat
  let c := match d with
    | some d => if d.rowsum then c.statRow d m (live.map (fun t => (t.1, decodeElem e.ofmt t.2.bits scale, t.2.sat, t.1.mark))) else c
    | none => c
  (s.setClove r.k c, rng)

/-- The epilogue of one vector or drained row over the exit cloves, given in order; two neighbouring exit
cloves share the scale of an MX block (R105, R119). rows lists clove, first position and results. -/
def State.epilogue (s : State) (e : Exit) (pair : Bool) (m : Nat) (fill : Nat → Option Val) (rng : SMap W32)
    (rows : List (Nat × Nat × Nat × List (Option (Val × Bool)))) : State × SMap W32 :=
  let st := rows.foldl (fun (a : List (Nat × ExitRow) × State) q =>
    let r := a.2.exitRow e q.2.1 q.2.2.1 m fill q.2.2.2
    (a.1 ++ [(q.1, r.1)], r.2)) ([], s)
  st.1.foldl (fun (a : State × SMap W32) q =>
    let mates := if pair then st.1.filter (fun t => t.1 / 2 == q.1 / 2) else [q]
    let scale := mxScale e.ofmt (mates.flatMap (fun t => t.2.live))
    let r := a.1.exitWrite e m scale (a.2.atD q.1 0) q.2
    (r.1, a.2.put q.1 r.2)) (st.2, rng)

/-! ### Uses of regions by a pass or drain -/

/-- Some member has a live row. -/
def State.anyRow (s : State) (g : Gang) (i : Bool) : Bool := g.members.any (fun k => (s.setAt k g.arr i).rows ≠ 0)

/-- The positions of its vector that an entry clove supplies: those of the reduction that are live in some member of its
line (R50, R108). On the transposed axis rows and columns change places (R64; DEDUCED, entry 103). -/
def State.entryLive (s : State) (g : Gang) (i t : Bool) (e : Nat) : BitVec 16 :=
  g.members.foldl (fun v k =>
    let r := s.setAt k g.arr i
    if t then (if g.dx k = g.dx e then v ||| r.cols else v)
    else if g.dy k % g.segRows = g.dy e then v ||| r.rows else v) 0

/-- The cloves that a pass reads its streamed operand from, with the positions that are live: none where no position of
the reduction is live (R50, R99, R108; on the transposed axis DEDUCED, entry 103). -/
def State.readers (s : State) (g : Gang) (i t : Bool) : List (Nat × BitVec 16) :=
  ((g.entry t).map (fun e => (e, s.entryLive g i t e))).filter (fun q => q.2 ≠ 0)

/-- The positions of the second operand that a top-edge clove supplies: the live columns of its clove column and segment
(R50, R62, R108). -/
def State.topLive (s : State) (g : Gang) (i : Bool) (e : Nat) : BitVec 16 :=
  g.members.foldl (fun v k =>
    if g.dx k = g.dx e ∧ g.dy k / g.segRows = g.dy e / g.segRows then v ||| (s.setAt k g.arr i).cols else v) 0

/-- The top-edge cloves that supply the second operand, with the positions that are live (R50, R62). -/
def State.topReaders (s : State) (g : Gang) (i : Bool) : List (Nat × BitVec 16) :=
  if !s.anyRow g i then [] else
  ((g.top).map (fun e => (e, s.topLive g i e))).filter (fun q => q.2 ≠ 0)

/-- The exit cloves with a live result position, with their place on the exit edge and first result
position. -/
def State.exits (s : State) (g : Gang) (i t : Bool) : List (Nat × Nat × Nat) :=
  ((List.range (g.chains t).length).zip (g.chains t)).filterMap (fun q =>
    let k := q.2.exit
    let r := s.setAt k g.arr i
    if (if t then r.rows ≠ 0 else r.cols ≠ 0) then some (q.1, k, q.2.base) else none)

/-- The regions that a STREAM uses, by the set it runs on. -/
def State.streamUses (s : State) (g : Gang) (i : Bool) (o : StreamOp) : List Use :=
  let t := o.axis == 1
  if o.mode = 2 then
    (s.readers g i false).map (fun q => ⟨q.1, o.src.toNat, false, true, true, o.fmt.toNat⟩) ++
    (s.topReaders g i).map (fun q => ⟨q.1, o.src2.toNat, false, true, true, o.fmt2.toNat⟩)
  else
    (s.readers g i t).map (fun q => ⟨q.1, o.src.toNat, false, true, false, o.fmt.toNat⟩) ++
    (s.exits g i t).flatMap (fun q =>
      (⟨q.2.1, o.dst.toNat, true, true, false, o.ofmt.toNat⟩ : Use) ::
      if o.acc = 1 then [⟨q.2.1, o.accRgn.toNat, false, true, false, 15⟩] else [])

/-- The regions that a drain uses. -/
def State.drainUses (s : State) (g : Gang) (i : Bool) (e : Exit) : List Use :=
  (s.exits g i false).flatMap (fun q =>
    (⟨q.2.1, e.dst, true, true, false, e.ofmt⟩ : Use) ::
    if e.acc then [⟨q.2.1, e.accRgn, false, true, false, 15⟩] else [])

/-- A use can move its next vector: an earlier instruction on the region has finished, and the region
holds a vector or has space (R97, R173 to R175). -/
def State.useReady (s : State) (owner : Nat) (u : Use) : Bool :=
  let c := s.clove u.k
  let r := c.region u.rn
  !c.before owner u.rn u.write && (if u.write then r.hasSpace else r.hasVec u.os u.code)

/-! ### Issue: scoreboards and plain ranges (R177 to R179) -/

/-- Plain ranges that started instructions of a clove still read, by issue number: the epilogue ranges of
passes and drains that leave through it and of SFU instructions (R178, R179). -/
def State.plainReads (s : State) (k : Nat) : List (Nat × Nat × Nat) :=
  let c := s.clove k
  ([false, true].flatMap (fun b =>
    let g := s.gangOf k b
    (s.arr g.origin b).work.flatMap (fun u =>
      let n := if u.drain then g.rows else (StreamOp.ofWord u.word).count.toNat
      (epiRanges (c.epiOf u.exit.epi) 16 n).map (fun r => (u.owner, r.1, r.2))))) ++
  c.sfu.flatMap (fun u =>
    let o := SfuOp.ofWord u.op.word
    (epiRanges (c.epiOf o.epi.toNat) o.rowlen.toNat o.count.toNat).map (fun r => (u.owner, r.1, r.2)))

/-- The slots that a writer of n vectors of a format will fill in a region (R177). -/
def Region.vecSlots (r : Region) (code n : Nat) : Nat := ceilDiv n (Max.max (r.perSlot false code) 1)

/-- No started instruction of clove k, issued before number no, still reads a plain range that overlaps one of these
(R179). -/
def State.notRead (s : State) (no k : Nat) (rs : List (List (Nat × Nat))) : Bool :=
  rs.all (fun r => r.all (fun r => (s.plainReads k).all (fun q => decide (no ≤ q.1) || !runsMeet r.1 r.2 q.2.1 q.2.2)))

/-- The exits of pass or drain number no may issue: scoreboard entries are free, no entry overlaps a plain range
that the epilogue reads, and no earlier instruction still reads a statistic range that it writes. -/
def State.exitsFree (s : State) (no engine : Nat) (e : Exit) (n : Nat) (ks : List Nat) : Bool :=
  ks.all (fun k =>
    let c := s.clove k
    let d := c.epiOf e.epi
    decide (c.freeSb engine ≥ 1 + (statRange d n).length) &&
    (epiRanges d 16 n).all (fun r => !c.busyRange r.1 r.2) && s.notRead no k (statRange d n))

/-- Scoreboard entries taken in the exit cloves (R177). -/
def State.takeExits (s : State) (engine owner : Nat) (e : Exit) (n : Nat) (ks : List Nat) : State :=
  ks.foldl (fun s k => s.modClove k (fun c =>
    c.takeSlots engine owner e.dst ((c.region e.dst).vecSlots e.ofmt n) (statRange (c.epiOf e.epi) n))) s

/-- Faults of an epilogue at issue over the exit cloves: SFU_ENCODING, then SFU_SLOT_EMPTY (R138, Table
5.9). -/
def State.exitFault (s : State) (e : Exit) (ks : List Nat) : Option Code :=
  if ks.any (fun k => rowsumFault ((s.clove k).epiOf e.epi) e.ofmt) then some .sfuEncoding
  else if ks.any (fun k => s.slotEmpty k ((s.clove k).epiOf e.epi)) then some .sfuSlotEmpty else none

/-- Stochastic rounding with another OFMT in some exit clove (R120). -/
def State.exitSr (s : State) (e : Exit) (ks : List Nat) : Bool :=
  ks.any (fun k => srFault ((s.clove k).epiOf e.epi) e.ofmt)

/-- The generators of the exit cloves at the start of a pass or drain (R122). -/
def State.exitRng (s : State) (b : Bool) (seed : W32) (seq : Nat) (es : List (Nat × Nat × Nat)) : SMap W32 :=
  es.foldl (fun m q => m.put q.1
    (srStart seed seq (cloveX q.2.1 * 2 ^ 11 + cloveY q.2.1 * 2 + b2n b))) []

/-- The next pass sequence number taken at the origin (R123). -/
def State.takeSeq (s : State) (g : Gang) : BitVec 28 × State :=
  ((s.arr g.origin g.arr).seq, s.modArr g.origin g.arr (fun a => { a with seq := a.seq + 1 }))

/-! ### GANG_CFG (R57, R58, R83) -/

/-- The cloves of the block that a GANG_CFG names. -/
def GangOp.block (o : GangOp) : Gang :=
  ⟨o.arr == 1, o.shape.toNat, o.form.toNat, o.x0.toNat, o.y0.toNat⟩

/-- The origin breaks R57, or lies outside partition p (R83). -/
def GangOp.misaligned (o : GangOp) (p : Nat) : Bool :=
  let g := o.block
  let x := g.ox
  let y := g.oy
  !(decide (partX p ≤ x) && decide (x < partX p + 384) && decide (partY p ≤ y) && decide (y < partY p + 88)) ||
    (x - partX p) % g.side ≠ 0 || (y - partY p) % g.side ≠ 0 || decide (y - partY p + g.side > 88)

/-- Reserved codes and bits of GANG_CFG (R82, Table 3.2). -/
def GangOp.badWord (w : W128) : Bool :=
  let o := GangOp.ofWord w
  decide (w &&& GangOp.reserved ≠ 0) || o.shape == 3 || (o.form ≠ 0 && o.shape ≠ 1)

/-- GANG_CFG at issue; none while started work on an array it names is unfinished (R58). Both sets are zeroed, and S0
is the foreground of every member (R58, R84; which of two zeroed sets it is, nothing shows: DEDUCED, entry 19). -/
def State.tryGang (s : State) (k v : Nat) (i : Issue) : Option State :=
  let o := GangOp.ofWord i.word
  let g := o.block
  let en := arrEngine g.arr
  if i.mark then some (s.refuse k en .markedControl v) else
  if GangOp.badWord i.word then some (s.refuse k en .arrayEncoding v) else
  if o.misaligned (partOf (cloveX k) (cloveY k)) then some (s.refuse k en .gangAlign v) else
  if g.members.any (fun m => !(s.arr (s.gangOf m g.arr).origin g.arr).work.isEmpty) then none else
  some (g.members.foldl (fun s m => s.modArr m g.arr (fun a =>
    { ArrayUnit.solo g.ox g.oy with shape := g.shape, form := g.form, halted := a.halted })) s)

/-! ### LOAD (R51, R53, R84, R85) -/

/-- The live mask of 16 positions from lo on under a prefix of n. -/
def prefixMask (lo n : Nat) : BitVec 16 := BitVec.ofNat 16 (2 ^ (Min.min (n - lo) 16) - 1)

/-- 16 mask bits from bit n of the bitmap at word a. -/
def Clove.maskBits (c : Clove) (a n : Nat) : BitVec 16 :=
  BitVec.ofNat 16 (bitField (c.get (a + n / 64)).1.toNat (n % 64) 16)

/-- The words of SRC that a LOAD of a clove reads, given which of its rows and columns are live. -/
def LoadOp.srcWords (o : LoadOp) (rows cols : BitVec 16) : List Nat :=
  let a := o.src.toNat
  let f := o.fmt.toNat
  let idx := List.range 16
  if o.init = 2 ∨ o.init = 3 then
    let lv := if o.init = 2 then cols else rows
    let ws := (idx.filter (fun n => lv.getLsbD n)).map (fun n => a + n / lanes f)
    (ws ++ (if isMx f && !ws.isEmpty then [a + 8 * vecWords f] else [])).dedup
  else if o.mode = 2 ∧ o.init = 0 then []
  else
    let ws := idx.flatMap (fun i => idx.filterMap (fun j =>
      if rows.getLsbD i && cols.getLsbD j then some (a + (tileAt f i j).1) else none))
    let sc := if isMx f && rows ≠ 0 then
      idx.filterMap (fun j => if cols.getLsbD j then some (a + tileData f + j / 8) else none) else []
    (ws ++ sc).dedup

/-- Element (i, j) that a LOAD puts into a live cell: its bits, its scale byte and its mark (R84, Table
4.2, R160). -/
def LoadOp.source (o : LoadOp) (c : Clove) (i j : Nat) : Nat × Byte × Bool :=
  let a := o.src.toNat
  let f := o.fmt.toNat
  if o.mode = 2 ∧ o.init = 0 then (0, 0, false) else
  let q := if o.init ≥ 2 then
      let n := if o.init = 2 then j else i
      (n / lanes f, n % lanes f, 8 * vecWords f, 0)
    else ((tileAt f i j).1, (tileAt f i j).2, tileData f + j / 8, j % 8)
  let w := c.get (a + q.1)
  let sc := c.get (a + q.2.2.1)
  (laneOf w.1 (elemBits f) q.2.1,
   if isMx f then BitVec.ofNat 8 (laneOf sc.1 8 q.2.2.2) else 0,
   w.2 || (isMx f && sc.2))

/-- The register set that a LOAD writes in a clove with the given live rows and columns (R53, R69, R70,
R72, R84). An initial W44 container is kept as it is, normalised or not, and is taken at its value (R110). -/
def LoadOp.setOf (o : LoadOp) (c : Clove) (rows cols : BitVec 16) (maskMark : Bool) (loads : Nat) : RegSet :=
  let f := o.fmt.toNat
  let os := decide (o.mode = 2)
  let idx := List.range 16
  let cells := idx.flatMap (fun i => idx.filterMap (fun j =>
    if rows.getLsbD i && cols.getLsbD j then
      let e := o.source c i j
      let v := decodeElem f e.1 e.2.1
      let fromW := os && o.init = 0
      some (16 * i + j, if fromW then (0 : W64) else if os && f ≠ 15 then w44Put v else BitVec.ofNat 64 e.1, e.2.1,
        !fromW && e.2.2, if fromW then Val.zero else v.round)
    else none))
  let sumOf (sel : Nat → Bool) : W64 :=
    w44Put ((cells.filter (fun e => sel e.1)).foldl (fun a e => a.addR e.2.2.2.2) Val.zero)
  let put (m : SMap W64) (n : Nat) (v : W64) := SMap.set m n 0 v
  let sc := loads % 16
  { cells := cells.foldl (fun m e => put m e.1 e.2.1) []
    cells2 := [], corner := 0
    scales := if os then [] else cells.foldl (fun m e => SMap.set m (e.1 % 16) 0 e.2.2.1) []
    marks := cells.foldl (fun m e => SMap.set m e.1 false e.2.2.2.1) []
    ckCol := idx.foldl (fun m i => put m i (sumOf (fun n => n / 16 == i))) []
    ckRow := idx.foldl (fun m j => put m j (sumOf (fun n => n % 16 == j))) []
    shadow := cells.foldl (fun m e =>
      if os then (if e.1 / 16 = sc then put m (e.1 % 16) e.2.1 else m)
      else if e.1 % 16 = sc then put m (e.1 / 16) e.2.1 else m) []
    shadowCol := sc, rows := rows, cols := cols, maskMark := maskMark
    mode := some o.mode.toNat, fmt := some f, exact := true, shadowed := false }

/-- Reserved codes, bits and lengths of LOAD (R82, Table 3.3). -/
def LoadOp.badWord (w : W128) (g : Gang) : Bool :=
  let o := LoadOp.ofWord w
  decide (w &&& LoadOp.reserved ≠ 0) || o.mode == 3 ||
    !(isOperandFmt o.fmt.toNat || (o.mode == 2 && o.fmt == 15)) || (o.init ≠ 0 && o.mode ≠ 2) ||
    decide (o.klen.toNat > g.rows) || decide (o.nlen.toNat > g.cols)

/-- The live rows and columns that a LOAD gives member k (R85). -/
def LoadOp.live (o : LoadOp) (s : State) (g : Gang) (k : Nat) : BitVec 16 × BitVec 16 :=
  let r0 := g.row0 (g.dy k)
  let c0 := g.col0 (g.dx k) (g.dy k)
  if o.msrc = 0 then (prefixMask r0 o.klen.toNat, prefixMask c0 o.nlen.toNat)
  else ((s.clove k).maskBits o.mask.toNat r0, (s.clove k).maskBits o.mask.toNat (g.rows + c0))

/-- The bitmap words that member k reads. -/
def LoadOp.maskWords (o : LoadOp) (g : Gang) (k : Nat) : List Nat :=
  if o.msrc = 0 then [] else
  [o.mask.toNat + g.row0 (g.dy k) / 64, o.mask.toNat + (g.rows + g.col0 (g.dx k) (g.dy k)) / 64].dedup

/-- The plain ranges that a LOAD reads in every member (R178). -/
def LoadOp.plain (o : LoadOp) (g : Gang) : List (Nat × Nat) :=
  let f := o.fmt.toNat
  (if o.mode = 2 ∧ o.init = 0 then []
   else if o.init ≥ 2 then
     (o.src.toNat, vecWords f) :: (if isMx f then [(o.src.toNat + 8 * vecWords f, 1)] else [])
   else [(o.src.toNat, tileWords f)]) ++
  (if o.msrc = 1 then [(o.mask.toNat, ceilDiv (g.rows + g.cols) 64)] else [])

/-- The error states of the words that a LOAD reads in member k, met in turn (R185). -/
def State.loadTouch (s : State) (o : LoadOp) (g : Gang) (k : Nat) (some_ : Bool) : State :=
  let s := s.touchAll k (o.maskWords g k)
  let lv := o.live s g k
  if some_ then s.touchAll k (o.srcWords lv.1 lv.2) else s

/-- The background set of member k written by a LOAD. -/
def State.loadMember (s : State) (o : LoadOp) (g : Gang) (any : Bool) (k : Nat) : State :=
  let s := s.loadTouch o g k any
  let lv := o.live s g k
  let c := s.clove k
  let mm := (o.maskWords g k).any (fun a => (c.get a).2)
  s.modArr k g.arr (fun a =>
    { a.putSet (!a.fg) (o.setOf c lv.1 lv.2 mm a.loads) with loads := a.loads + 1 })

/-- LOAD at issue; none while the background set is in use or a plain range has a write pending. -/
def State.tryLoad (s : State) (k v : Nat) (i : Issue) : Option State :=
  let o := LoadOp.ofWord i.word
  let b := o.arr == 1
  let en := arrEngine b
  if i.mark then some (s.refuse k en .markedControl v) else
  let g := s.gangOf k b
  match s.gangFault k g with
  | some c => some (s.refuse k en c v)
  | none =>
    if LoadOp.badWord i.word g then some (s.refuse k en .arrayEncoding v) else
    let bg := !(s.arr k b).fg
    if (s.arr k b).work.any (fun u => u.setIdx == bg) then none else
    if g.members.any (fun m => (o.plain g).any (fun r => (s.clove m).busyRange r.1 r.2)) then none else
    let any := g.members.any (fun m => (o.live s g m).1 ≠ 0)
    some (g.members.foldl (fun s m => s.loadMember o g any m) s)

/-! ### SWAP (R52, R53, R55, R87) -/

/-- SWAP at issue; none while the background set drains or its drain cannot issue. -/
def State.trySwap (s : State) (no k v : Nat) (i : Issue) : Option State :=
  let o := SwapOp.ofWord i.word
  let b := o.arr == 1
  let en := arrEngine b
  if i.mark then some (s.refuse k en .markedControl v) else
  let g := s.gangOf k b
  match s.gangFault k g with
  | some c => some (s.refuse k en c v)
  | none =>
    let fg := (s.arr k b).fg
    let md := (s.setAt k b fg).mode
    let e := o.exit
    let es := s.exits g fg false
    let ks := es.map (·.2.1)
    let fields := decide (i.word >>> 27 ≠ 0)
    if decide (i.word &&& SwapOp.reserved ≠ 0) || (md.isSome && md ≠ some 2 && fields) ||
        (md = some 2 && (!isOutFmt e.ofmt || s.exitSr e ks)) then
      some (s.refuse k en .arrayEncoding v) else
    let flip (q : State) : State := g.members.foldl (fun q m => q.modArr m b (fun a => { a with fg := !a.fg })) q
    let drainsBg := (s.arr k b).work.any (fun u => u.drain && u.setIdx == !fg)
    if md ≠ some 2 then (if drainsBg then none else some (flip s)) else
    if e.acc && e.dst == e.accRgn then some (s.refuse k en .regionConflict v) else
    match s.exitFault e ks with
    | some c => some (s.refuse k en c v)
    | none =>
      let us := s.drainUses g fg e
      match s.useFault us with
      | some c => some (s.refuse k en c v)
      | none =>
        if drainsBg || !s.exitsFree no en e g.rows ks then none else
        let s := s.takeExits en no e g.rows ks
        let s := s.takeTickets no (us.map (fun u => (u.k, u.rn, u.write)))
        let (seq, s) := s.takeSeq g
        let seed := s.reg .prtSroundSeed (partOf (cloveX k) (cloveY k)) 0
        let u : Work := ⟨true, i.word, fg, 0, seq, seed, s.exitRng b seed seq.toNat es, false, false, no⟩
        some (flip (s.modArr k b (fun a => { a with work := a.work ++ [u] })))

/-! ### STREAM (R88 to R92, R99) -/

/-- Reserved codes and bits of STREAM, and combinations outside Table 3.7: by its own word, a wide-shallow FORM on a gang
that has none (R63), and a transposed pass on a wide-shallow gang (R64) (R82, R90). -/
def StreamOp.badWord (w : W128) (g : Gang) : Bool :=
  let o := StreamOp.ofWord w
  decide (w &&& StreamOp.reserved ≠ 0) || o.mode == 3 || decide (o.cellop.toNat ≥ 6) ||
    decide (o.cmp.toNat ≥ 6) || (o.cmp ≠ 0 && o.cellop ≠ 5) || !isOperandFmt o.fmt.toNat ||
    !isOutFmt o.ofmt.toNat || (o.mode == 2 && !isOperandFmt o.fmt2.toNat) ||
    (o.axis == 1 && (o.mode == 2 || o.tree == 1 || o.form ≠ 0 || decide (g.form ≠ 0))) || (o.tree == 1 && o.mode == 2) ||
    (o.form ≠ 0 && decide (g.shape ≠ 1))

/-- The mode of a work: a drain is output-stationary work. -/
def Work.modeTree (u : Work) : Nat × Bool :=
  if u.drain then (2, false) else
  let o := StreamOp.ofWord u.word
  (o.mode.toNat, o.tree == 1)

/-- STREAM at issue; none while it waits (R49, R66, R175 to R179). -/
def State.tryStream (s : State) (no k v : Nat) (i : Issue) : Option State :=
  let o := StreamOp.ofWord i.word
  let b := o.arr == 1
  let en := arrEngine b
  if i.mark then some (s.refuse k en .markedControl v) else
  let g := s.gangOf k b
  match s.gangFault k g with
  | some c => some (s.refuse k en c v)
  | none =>
    let fg := (s.arr k b).fg
    let st := s.setAt k b fg
    let os := o.mode == 2
    let e := o.exit
    let es := s.exits g fg (o.axis == 1)
    let ks := if os then [] else es.map (·.2.1)
    if StreamOp.badWord i.word g || s.exitSr e ks then some (s.refuse k en .arrayEncoding v) else
    if o.form.toNat ≠ g.form then some (s.refuse k en .formMismatch v) else
    if st.mode.isSome && st.mode ≠ some o.mode.toNat then some (s.refuse k en .setMode v) else
    let other := if os then o.fmt2.toNat else st.fmt.getD o.fmt.toNat
    if pairClass o.fmt.toNat ≠ pairClass other then some (s.refuse k en .formatPair v) else
    if !os && (e.dst == o.src.toNat || (e.acc && e.dst == e.accRgn)) then
      some (s.refuse k en .regionConflict v) else
    match s.exitFault e ks with
    | some c => some (s.refuse k en c v)
    | none =>
      let us := s.streamUses g fg o
      match s.useFault us with
      | some c => some (s.refuse k en c v)
      | none =>
        let n := o.count.toNat
        if (s.arr k b).work.any (fun u => u.modeTree ≠ (o.mode.toNat, o.tree == 1)) then none else
        if n ≠ 0 && !os && !s.exitsFree no en e n ks then none else
        let s := g.members.foldl (fun s m => s.modSet m b fg (fun r =>
          if r.mode.isNone then { r with mode := some o.mode.toNat, fmt := some o.fmt.toNat } else r)) s
        let (seq, s) := s.takeSeq g
        if n = 0 then some s else
        let s := if os then s else s.takeExits en no e n ks
        let s := s.takeTickets no (us.map (fun u => (u.k, u.rn, u.write)))
        let seed := s.reg .prtSroundSeed (partOf (cloveX k) (cloveY k)) 0
        let u : Work := ⟨false, i.word, fg, 0, seq, seed, s.exitRng b seed seq.toNat es, false, false, no⟩
        some (s.modArr k b (fun a => { a with work := a.work ++ [u] }))

/-! ### The vectors of a pass (R47, R66, R74, R86, R95 to R99) -/

/-- The state with a work of an array replaced, found by its owner. -/
def State.putWork (s : State) (k : Nat) (b : Bool) (u : Work) : State :=
  s.modArr k b (fun a => { a with work := a.work.map (fun v => if v.owner = u.owner then u else v) })

/-- A finished work leaves: read positions end, writers close their slots, entries and uses are freed. -/
def State.endWork (s : State) (k : Nat) (b : Bool) (u : Work) (us : List Use) : State :=
  let s := us.foldl (fun s q =>
    if q.write then s.modClove q.k (fun c => c.endVecs q.rn q.code) else s.endRead q.k q.rn) s
  let s := s.dropOwner (arrEngine b) u.owner ((us.map (·.k)).dedup)
  s.modArr k b (fun a => { a with work := a.work.filter (fun v => v.owner ≠ u.owner) })

/-- Reads one vector from each listed clove's region, its live positions only: vectors by clove. -/
def State.takeVecs (s : State) (rn : Nat) (os : Bool) (code : Nat) (ks : List (Nat × BitVec 16)) :
    List (Nat × List (Val × Bool)) × State :=
  ks.foldl (fun a k =>
    let r := a.2.takeVec k.1 rn os code k.2
    (a.1 ++ [(k.1, r.1)], r.2)) ([], s)

/-- The vector of a clove, zeros where none was read. -/
def vecFor (vs : List (Nat × List (Val × Bool))) (k : Nat) : List (Val × Bool) :=
  ((vs.find? (fun v => v.1 == k)).map (·.2)).getD []

/-- The upsets of one clove of a gang. -/
def Gang.upsets (g : Gang) (ups : List Upset) (k : Nat) : List Upset :=
  ups.filter (fun u => u.dx == g.dx k && u.dy == g.dy k)

/-- One vector along one chain: what each clove adds and what its check finds. On the hop chain the sums
pass from clove to clove; in tree mode the cloves' own sums join in a balanced tree (R59, R66). -/
def State.runChain (s : State) (g : Gang) (i : Bool) (o : StreamOp) (exact : Bool) (xs : Nat → List (Val × Bool))
    (ups : List Upset) (ch : Chain) : List (Option Val × Bool) × List (Nat × Check × W64) :=
  let t := o.axis == 1
  let tree := o.tree == 1
  let op := o.cellop.toNat
  let one (n k : Nat) (ins : List (Option Val × Bool)) :=
    (s.setAt k g.arr i).passClove t tree exact op o.cmp.toNat (xs n) ins (g.upsets ups k)
  let idx := (List.range ch.cloves.length).zip ch.cloves
  let start : List (Option Val × Bool) := List.replicate 16 (none, false)
  if tree then
    let rs := idx.map (fun q => (q.2, one q.1 q.2 start))
    let n := (Nat.log2 ch.cloves.length)
    ((List.range 16).map (fun j =>
      (treeSum op n (rs.map (fun r => (r.2.1.getD j (none, false)).1)),
       rs.any (fun r => (r.2.1.getD j (none, false)).2))),
     rs.map (fun r => (r.1, r.2.2)))
  else
    idx.foldl (fun a q =>
      let r := one q.1 q.2 a.1
      (r.1, a.2 ++ [(q.2, r.2)])) (start, [])

/-- The fill of R86 at result position n of vector m. -/
def StreamOp.fill (o : StreamOp) (m n : Nat) : Option Val :=
  if o.emask = 1 && decide ((n : Int) > (m : Int) + signedOf 32 o.eoff.toNat) then
    some (if o.efill = 1 then Val.zero else .inf true)
  else none

/-- One vector of a weights-stationary or input-stationary pass, its sources and destinations ready. -/
def State.runVector (s : State) (g : Gang) (u : Work) (ups : List Upset) : State :=
  let o := StreamOp.ofWord u.word
  let t := o.axis == 1
  let b := g.arr
  let us := s.streamUses g u.setIdx o
  let (vs, s) := s.takeVecs o.src.toNat false o.fmt.toNat (s.readers g u.setIdx t)
  let entry := g.entry t
  let exact := o.fmt == 6 && (s.setAt g.origin b u.setIdx).fmt == some 6
  let runs := (g.chains t).map (fun ch =>
    (ch, s.runChain g u.setIdx o exact (fun n => vecFor vs (entry.getD n 0)) ups ch))
  let found := runs.flatMap (fun r => r.2.2)
  let chk := found.map (fun c => (c.1, c.2.1))
  let bad := u.failed || anyFailed chk
  let s := found.foldl (fun s c => s.modSet c.1 b u.setIdx (fun r => { r with corner := c.2.2 })) s
  let s := s.report g u.seq.toNat chk
  let es := s.exits g u.setIdx t
  let rows := es.map (fun q =>
    let res := ((runs.getD q.1 (⟨[], 0⟩, [], [])).2).1
    let r := s.setAt q.2.1 b u.setIdx
    (q.1, q.2.1, q.2.2, (List.range 16).map (fun j =>
      if r.resLive t j then
        let v := res.getD j (none, false)
        some (v.1.getD (cellIdentity o.cellop.toNat), v.2 || bad)
      else none)))
  let (s, rng) := s.epilogue o.exit (decide (g.side > 1)) u.next (o.fill u.next) u.rng rows
  let u' := { u with next := u.next + 1, rng := rng, failed := bad, stalled := false }
  if u'.next ≥ o.count.toNat then s.endWork g.origin b u us else s.putWork g.origin b u'

/-- One reduction step in one member of an output-stationary pass (R48, R70, R72, R98, R111). In MXFP4 the second
accumulators hold the sums of the step before (R44; DESIGN CHOICE, entry 108). -/
def RegSet.accumulate (r : RegSet) (o : StreamOp) (xs ys : List (Val × Bool)) : RegSet :=
  let op := o.cellop.toNat
  let cmp := o.cmp.toNat
  let idx := List.range 16
  let x (i : Nat) := xs.getD i (Val.zero, false)
  let y (j : Nat) := ys.getD j (Val.zero, false)
  let rows := idx.filter (fun i => r.rows.getLsbD i)
  let cols := idx.filter (fun j => r.cols.getLsbD j)
  let join (old : W64) (i j : Nat) : W64 :=
    w44Of (cellJoin op (some (w44Val old)) (cellTerm op cmp (x i).1 (y j).1))
  let bsum := cols.foldl (fun a j => a.addR (y j).1) Val.zero
  let asum := rows.foldl (fun a i => a.addR (x i).1) Val.zero
  let ck (old : W64) (p q : Val) : W64 := w44Put (Val.add (w44Val old) (Val.mul p q))
  { r with
    cells := rows.foldl (fun m i => cols.foldl (fun m j =>
      SMap.set m (16 * i + j) 0 (join (m.atD (16 * i + j) 0) i j)) m) r.cells
    cells2 := if o.fmt = 4 ∧ o.fmt2 = 4 then r.cells else r.cells2
    marks := rows.foldl (fun m i => cols.foldl (fun m j =>
      SMap.set m (16 * i + j) false (m.atD (16 * i + j) false || (x i).2 || (y j).2)) m) r.marks
    ckCol := if op = 0 then rows.foldl (fun m i => SMap.set m i 0 (ck (m.atD i 0) (x i).1 bsum)) r.ckCol else r.ckCol
    ckRow := if op = 0 then cols.foldl (fun m j => SMap.set m j 0 (ck (m.atD j 0) asum (y j).1)) r.ckRow else r.ckRow
    shadow := if rows.contains r.shadowCol then
        cols.foldl (fun m j => SMap.set m j 0 (join (m.atD j 0) r.shadowCol j)) r.shadow
      else r.shadow
    exact := r.exact && o.fmt == 6 && o.fmt2 == 6
    shadowed := r.shadowed || decide (op ≠ 0) }

/-- One reduction step of an output-stationary pass, its sources ready. -/
def State.runReduction (s : State) (g : Gang) (u : Work) (ups : List Upset) : State :=
  let o := StreamOp.ofWord u.word
  let b := g.arr
  let us := s.streamUses g u.setIdx o
  let rd := s.readers g u.setIdx false
  let tp := s.topReaders g u.setIdx
  let (vs, s) := s.takeVecs o.src.toNat true o.fmt.toNat rd
  let (ws, s) := s.takeVecs o.src2.toNat true o.fmt2.toNat tp
  let s := g.members.foldl (fun s k =>
    let xs := vecFor vs (g.at 0 (g.dy k % g.segRows))
    let ys := vecFor ws (g.at (g.dx k) (g.dy k / g.segRows * g.segRows))
    s.modSet k b u.setIdx (fun r => r.accumulate o xs ys)) s
  let par := g.members.filter (fun k => (g.upsets ups k).any (·.parity))
  let s := if par.isEmpty then s else
    let s := s.report g u.seq.toNat (par.map (fun k => (k, Check.parity)))
    g.members.foldl (fun s k => s.modSet k b u.setIdx (fun r => { r with maskMark := true })) s
  let u' := { u with next := u.next + 1, stalled := false }
  if u'.next ≥ o.count.toNat then s.endWork g.origin b u us else s.putWork g.origin b u'

/-- The next vector of the running pass of an array: it stalls while a source holds no vector, ACC_RGN
holds no partial result or the destination has no space (R97). -/
def State.retire (s : State) (k : Nat) (b : Bool) (ups : List Upset) : State :=
  match (s.arr k b).work.find? (fun u => !u.drain) with
  | none => s
  | some u =>
    let g := s.gangOf k b
    let o := StreamOp.ofWord u.word
    if (s.streamUses g u.setIdx o).all (s.useReady u.owner) then
      (if o.mode = 2 then s.runReduction g u ups else s.runVector g u ups)
    else s.putWork k b { u with stalled := true }

/-! ### The drain (R55, R70, R74, R85, R87) -/

/-- The upset of a drain changes the clove's first live accumulator of a column as it leaves. -/
def RegSet.upset (r : RegSet) (ups : List Upset) : RegSet :=
  ups.foldl (fun r u =>
    match (List.range 16).find? (fun i => r.rows.getLsbD i && r.cols.getLsbD u.col) with
    | some i => if u.parity then r else
      { r with cells := SMap.set r.cells (16 * i + u.col) 0 (r.cells.atD (16 * i + u.col) 0 ^^^ u.xor) }
    | none => r) r

/-- The checks of one clove at drain, each compared on its own, and the word of the corner cell (R44, R70 to R73): every
row and column sum against its checksum cell and the two totals, or each cell of the shadowed row. A set that took both
MAC and other operations is checked by shadowing alone (DESIGN CHOICE, entry 100). -/
def RegSet.drainChecks (r : RegSet) : List Check × W64 :=
  let idx := List.range 16
  let rows := idx.filter (fun i => r.rows.getLsbD i)
  let cols := idx.filter (fun j => r.cols.getLsbD j)
  if rows.isEmpty || cols.isEmpty then ([], r.corner) else
  if r.shadowed then
    if !rows.contains r.shadowCol then ([], r.corner) else
    (cols.map (fun j =>
      let c := (r.accum r.shadowCol j, w44Val (r.shadow.atD j 0))
      if !(c.1.isFinite && c.2.isFinite) then .unchecked
      else if w44Put c.1 ≠ w44Put c.2 then .mismatch else .good), r.corner)
  else
    let one (ck : Val) (vs : List Val) : Check × W64 :=
      bandCheck r.exact ck (vs.foldl Val.addR Val.zero) vs (vs.foldl (fun a v => a.addR v.abs) Val.zero)
    let col (i : Nat) := w44Val (r.ckCol.atD i 0)
    let row (j : Nat) := w44Val (r.ckRow.atD j 0)
    let total := one ((rows.map col).foldl Val.addR Val.zero) (cols.map row)
    (rows.map (fun i => (one (col i) (cols.map (fun j => r.accum i j))).1) ++
      cols.map (fun j => (one (row j) (rows.map (fun i => r.accum i j))).1) ++ [total.1], total.2)

/-- What a clove reports of its checks at drain: a mismatch where any failed, and that some were not compared (R73,
R74). Several of a kind count once (DESIGN CHOICE, entry 101). -/
def RegSet.drainCheck (r : RegSet) : List Check :=
  (if r.drainChecks.1.contains .mismatch then [.mismatch] else []) ++
    (if r.drainChecks.1.contains .unchecked then [.unchecked] else [])

/-- Drained row n of a gang written through the epilogue (R55, R85). It takes one vector of ACC_RGN, whether or not any
of its accumulators is live (DESIGN CHOICE, entry 104). -/
def State.drainRow (s : State) (g : Gang) (u : Work) : State × Work :=
  let n := u.next
  let b := g.arr
  let es := s.exits g u.setIdx false
  let rows := es.map (fun q =>
    let dx := g.dx q.2.1
    let dy := g.dy q.2.1 / g.segRows * g.segRows + n / 16
    let r := s.setAt (g.at dx dy) b u.setIdx
    (q.1, q.2.1, q.2.2, (List.range 16).map (fun j =>
      if r.rows.getLsbD (n % 16) && r.cols.getLsbD j then
        some (r.accum (n % 16) j, r.markAt (n % 16) j || r.maskMark || u.failed)
      else none)))
  let (s, rng) := s.epilogue u.exit (decide (g.side > 1)) n (fun _ => none) u.rng rows
  (s, { u with next := n + 1, rng := rng, stalled := false })

/-- Drained rows written while the destination has space and ACC_RGN holds partial results. -/
def State.drainRows (s : State) (g : Gang) (u : Work) : Nat → State
  | 0 => s.putWork g.origin g.arr u
  | n + 1 =>
    if u.next ≥ g.rows then
      let s := s.endWork g.origin g.arr u (s.drainUses g u.setIdx u.exit)
      g.members.foldl (fun s k => s.modSet k g.arr u.setIdx (fun _ => RegSet.zero)) s
    else if (s.drainUses g u.setIdx u.exit).all (s.useReady u.owner) then
      let r := s.drainRow g u
      r.1.drainRows g r.2 n
    else s.putWork g.origin g.arr { u with stalled := true }

/-- The oldest drain of an array whose passes have finished: its checks, before its first result, then
its rows; a drain without space stalls and goes on later (R55, R74, R97). -/
def State.drain (s : State) (k : Nat) (b : Bool) (ups : List Upset) : State :=
  match (s.arr k b).work with
  | u :: _ =>
    if !u.drain then s else
    let g := s.gangOf k b
    if !(s.drainUses g u.setIdx u.exit).all (s.useReady u.owner) then s.putWork k b { u with stalled := true } else
    if u.next > 0 then s.drainRows g u (g.rows + 1) else
    let s := g.members.foldl (fun s m => s.modSet m b u.setIdx (fun r => r.upset (g.upsets ups m))) s
    let chk := g.members.flatMap (fun m =>
      (if (g.upsets ups m).any (·.parity) then [Check.parity] else (s.setAt m b u.setIdx).drainCheck).map (fun c => (m, c)))
    let s := g.members.foldl (fun s m => s.modSet m b u.setIdx (fun r => { r with corner := r.drainChecks.2 })) s
    let s := s.report g u.seq.toNat chk
    s.drainRows g { u with failed := u.failed || anyFailed chk } (g.rows + 1)
  | [] => s

/-- A work whose condition has cleared is no longer stalled (R97). -/
def State.unstall (s : State) (k : Nat) (b : Bool) : State :=
  let g := s.gangOf k b
  s.modArr k b (fun a => { a with work := a.work.map (fun u =>
    let us := if u.drain then s.drainUses g u.setIdx u.exit else s.streamUses g u.setIdx (StreamOp.ofWord u.word)
    if u.stalled && us.all (s.useReady u.owner) then { u with stalled := false } else u) })

end Sys2Proof.Machine
end

