-- ==== Sys2Proof/Machine/Sfu.lean ====
section
/-! DEFINITION. The special-function unit's instructions (R128, R142 to R155): issue with its faults and
waits, the rows as they are read, computed and written, and EPI_WRITE (R130). -/
namespace Sys2Proof.Machine

/-! ### Row layout (R143) -/

/-- Words of a row of n elements: MX rows of 32-element blocks carry a scale word each. -/
def rowWords (code n : Nat) : Nat :=
  if isMx code then n / 32 * (elemBits code / 2 + 1) else ceilDiv n (lanes code)

/-- Element j of a row's words, decoded, and its mark. -/
def rowElem (ws : List (W64 × Bool)) (code j : Nat) : Val × Bool :=
  let g := lanes code
  let z : W64 × Bool := (0, false)
  if isMx code then
    let bw := elemBits code / 2
    let b := j / 32 * (bw + 1)
    let w := ws.getD (b + j % 32 / g) z
    let sc := ws.getD (b + bw) z
    (decodeElem code (laneOf w.1 (elemBits code) (j % g)) (BitVec.ofNat 8 (laneOf sc.1 8 0)), w.2 || sc.2)
  else
    let w := ws.getD (j / g) z
    (decodeElem code (laneOf w.1 (elemBits code) (j % g)) 0, w.2)

/-- One word packed from lanes of e bits. -/
def packWord (e : Nat) (ls : List (Nat × Bool)) : W64 × Bool :=
  (BitVec.ofNat 64 ((((List.range ls.length).zip ls).foldl (fun d l => setBitField d (e * l.1) e l.2.1) 0)),
   ls.any (·.2))

/-- Elements packed into words of g lanes, n words. -/
def packWords (e g : Nat) : Nat → List (Nat × Bool) → List (W64 × Bool)
  | 0, _ => []
  | n + 1, ls => packWord e (ls.take g) :: packWords e g n (ls.drop g)

/-! ### What an operation reads and writes (Table 5.8, R142, R143) -/

/-- The operation reads SRC2. -/
def SfuOp.binary (o : SfuOp) : Bool :=
  (o.op == 9 && o.sub ≠ 5) || o.op == 11 || o.op == 12 || o.op == 13
/-- The descriptor applies to the elements that the operation writes. -/
def SfuOp.described (o : SfuOp) : Bool := o.op == 8 || o.op == 9 || o.op == 12 || o.op == 13
/-- SRC rows are vectors of 16 elements, for which a slot of the region must be shaped (R172). -/
def SfuOp.srcUnit (o : SfuOp) : Bool := o.op ≠ 11 && o.rowlen == 16
/-- SRC rows are read as vectors: not where one reader takes rows and entries in turn, word by word (R143). -/
def SfuOp.srcVec (o : SfuOp) : Bool := o.srcUnit && !((o.op == 12 || o.op == 13) && o.src == o.src2)
/-- SRC2 rows are vectors. -/
def SfuOp.src2Vec (o : SfuOp) : Bool := o.op == 9 && o.rowlen == 16
/-- DST rows are vectors. -/
def SfuOp.dstVec (o : SfuOp) : Bool := o.described && o.rowlen == 16
/-- Words of one SRC object; a vector counts its 16 elements. A 16-element MX row that alternates with entries has a
scale word of its own, whose byte 0 is its scale (DEDUCED, entry 107). -/
def SfuOp.srcLen (o : SfuOp) : Nat :=
  if o.op = 11 then (if o.sub = 0 then 3 else 2)
  else if o.srcVec then 16
  else if o.rowlen = 16 && isMx o.ifmt.toNat then vecWords o.ifmt.toNat + 1
  else rowWords o.ifmt.toNat o.rowlen.toNat
/-- Words of one SRC2 object. -/
def SfuOp.src2Len (o : SfuOp) : Nat :=
  match o.op.toNat with
  | 9 => if o.src2Vec then 16 else rowWords o.ifmt.toNat o.rowlen.toNat
  | 11 => if o.sub = 0 then 3 else 2
  | 12 => 3
  | _ => 2
/-- Words of one DST row or entry. -/
def SfuOp.dstLen (o : SfuOp) : Nat :=
  match o.op.toNat with
  | 10 => 3
  | 11 => if o.sub = 0 then 3 else 2
  | _ => if o.dstVec then 1 else rowWords o.ofmt.toNat o.rowlen.toNat

/-- The descriptor that applies, if any. -/
def SfuOp.desc (o : SfuOp) (c : Clove) : Option Epi := if o.described then c.epiOf o.epi.toNat else none

/-- Reserved codes, bits and combinations of an SFU instruction (Table 5.9, R142). -/
def SfuOp.badWord (w : W128) (d : Option Epi) : Bool :=
  let o := SfuOp.ofWord w
  let op := o.op.toNat
  let rl := o.rowlen.toNat
  let badLen (f : Nat) := isMx f && rl ≠ 16 && rl % 32 ≠ 0
  let subMax := match op with
    | 9 => 5
    | 10 => 1
    | 11 => 1
    | 12 => 1
    | _ => 0
  decide (w &&& SfuOp.reserved ≠ 0) || decide (o.sub.toNat > subMax) || (o.bcast == 1 && op ≠ 9) ||
    (o.addr ≠ 0 && op ≠ 14) || ((op == 8 || op == 14) && o.epi == 0) ||
    (op ≠ 11 && op ≠ 14 && !(isOperandFmt o.ifmt.toNat || o.ifmt == 15)) ||
    (o.described && !isOutFmt o.ofmt.toNat) ||
    (op ≠ 11 && op ≠ 14 && badLen o.ifmt.toNat) || (o.described && badLen o.ofmt.toNat) ||
    srFault d o.ofmt.toNat || rowsumFault d o.ofmt.toNat ||
    (op ≠ 8 && (match d with
      | some d => d.rowsum
      | none => false))

/-- The regions that an SFU instruction uses. -/
def SfuOp.uses (o : SfuOp) (k : Nat) : List Use :=
  (⟨k, o.src.toNat, false, o.srcUnit, false, o.ifmt.toNat⟩ : Use) ::
  ((if o.binary then [⟨k, o.src2.toNat, false, o.src2Vec, false, o.ifmt.toNat⟩] else []) ++
   [⟨k, o.dst.toNat, true, o.dstVec, false, o.ofmt.toNat⟩])

/-! ### EPI_WRITE (R130) -/

/-- The 32 bytes at a word address, as a descriptor. -/
def Clove.descAt (c : Clove) (a : Nat) : BitVec 256 :=
  (c.get (a + 3)).1 ++ (c.get (a + 2)).1 ++ (c.get (a + 1)).1 ++ (c.get a).1

/-- Some pass, drain or SFU instruction that has not finished names entry e of clove k. -/
def State.epiInUse (s : State) (k e : Nat) : Bool :=
  [false, true].any (fun b =>
    let g := s.gangOf k b
    (s.arr g.origin b).work.any (fun u =>
      (u.drain || (StreamOp.ofWord u.word).mode ≠ 2) && u.exit.epi == e)) ||
  (s.clove k).sfu.any (fun u =>
    let o := SfuOp.ofWord u.op.word
    o.described && o.epi.toNat == e)

/-- EPI_WRITE; none while it waits: its write follows those of the SFU instructions before it, and of all started work
that names its entry (R128, R130). A mark among the words that it reads is reported before its encoding (R144, R239). -/
def State.tryEpi (s : State) (k v : Nat) (w : W128) : Option State :=
  let o := SfuOp.ofWord w
  let e := o.epi.toNat
  let a := o.addr.toNat
  if !(s.clove k).sfu.isEmpty || s.epiInUse k e || (s.clove k).busyRange a 4 then none else
  let s := s.touchN k a 4
  let c := s.clove k
  let d := c.descAt a
  if (c.getWords a 4).any (·.2) then some (s.refuse k 2 .markedControl v) else
  if SfuOp.badWord w none || epiReserved d || fnReserved (bitField d.toNat 0 8) then some (s.refuse k 2 .sfuEncoding v) else
  some (s.setClove k { c with epi := c.epi.put e d, sfuSeq := c.sfuSeq + 1 })

/-! ### Issue (R128, R144) -/

/-- The sequence number and the start of the generator of an SFU instruction (R124). -/
def State.sfuStart (s : State) (no k : Nat) (i : Issue) : State :=
  let c := s.clove k
  let seed := s.reg .prtSroundSeed (partOf (cloveX k) (cloveY k)) 0
  let rng := srStart seed c.sfuSeq.toNat (cloveX k * 2 ^ 11 + cloveY k * 2 + 2 ^ 31)
  s.setClove k { c with sfuSeq := c.sfuSeq + 1, sfu := c.sfu ++ [⟨i, no, rng, 0, [], [], []⟩] }

/-- Slots that an SFU instruction will fill in its destination (R177). -/
def SfuOp.outSlots (o : SfuOp) (r : Region) : Nat :=
  if o.dstVec then r.vecSlots o.ofmt.toNat o.count.toNat else r.slotsOf (o.count.toNat * o.dstLen)

/-- An SFU instruction at issue; none while it waits. -/
def State.trySfu (s : State) (no k v : Nat) (i : Issue) : Option State :=
  let o := SfuOp.ofWord i.word
  let c := s.clove k
  let d := o.desc c
  if i.mark then some (s.refuse k 2 .markedControl v) else
  if o.op = 14 then s.tryEpi k v i.word else
  if SfuOp.badWord i.word d then some (s.refuse k 2 .sfuEncoding v) else
  if s.slotEmpty k d then some (s.refuse k 2 .sfuSlotEmpty v) else
  if o.dst == o.src || (o.binary && o.dst == o.src2) then some (s.refuse k 2 .regionConflict v) else
  let us := o.uses k
  match s.useFault us with
  | some f => some (s.refuse k 2 f v)
  | none =>
    let n := o.count.toNat
    let st := statRange d n
    if !(decide (c.freeSb 2 ≥ 1 + st.length) && (epiRanges d o.rowlen.toNat n).all (fun r => !c.busyRange r.1 r.2) &&
        s.notRead no k st) then none else
    let s := s.modClove k (fun c => c.takeSlots 2 no o.dst.toNat (o.outSlots (c.region o.dst.toNat)) st)
    let s := s.takeTickets no (us.map (fun u => (u.k, u.rn, u.write)))
    some (s.sfuStart no k i)

/-! ### Moment entries (R152, R153) -/

/-- A moment entry. -/
structure Moment where
  n : Nat
  mean : Val
  m2 : Val
  mark : Bool
  deriving DecidableEq, Repr

/-- The merge of R153, each arithmetic step rounded once. -/
def Moment.merge (a b : Moment) : Moment :=
  let mark := a.mark || b.mark
  if a.n = 0 then { b with mark := mark } else
  if b.n = 0 then { a with mark := mark } else
  let n := a.n + b.n
  let d := b.mean.subR a.mean
  let q (p : Val) := p.divR (Val.ofNat n)
  ⟨n, a.mean.addR (d.mulR (q (Val.ofNat b.n))),
   (a.m2.addR b.m2).addR ((d.mulR d).mulR (q ((Val.ofNat a.n).mulR (Val.ofNat b.n)))), mark⟩

/-- The entry that three words hold. -/
def Moment.ofWords (ws : List (W64 × Bool)) : Moment :=
  let w (i : Nat) := (ws.getD i (0, false)).1
  ⟨(w 0).toNat, w44Val (w 1), w44Val (w 2), ws.any (·.2)⟩

/-- The words of an entry. -/
def Moment.toWords (m : Moment) : List (W64 × Bool) :=
  [(BitVec.ofNat 64 m.n, m.mark), (w44Put m.mean, m.mark), (w44Put m.m2, m.mark)]

/-- A new entry joined to the binary counter, newest first: entries of equal length merge, the older
first. -/
def Moment.push (m : Moment) : List Moment → List Moment
  | [] => [m]
  | p :: ps => if p.n = m.n then (p.merge m).push ps else m :: p :: ps

/-- The moment entry of a row (R152, R153). -/
def Moment.ofRow (squares : Bool) (xs : List (Val × Bool)) : Moment :=
  let st := xs.foldl (fun st x =>
    Moment.push (if squares then ⟨1, Val.zero, x.1.mulR x.1, x.2⟩ else ⟨1, x.1, Val.zero, x.2⟩) st) []
  match st with
  | [] => ⟨0, Val.zero, Val.zero, false⟩
  | m :: ms => ms.foldl (fun a p => p.merge a) m

/-! ### One row -/

/-- What a row's computation gives: results before the descriptor (none where nothing is written), inputs
outside the domain of RSQRT, and for a row that saturates its kind, HIGH (true) or LOW, with MAX (R151; HIGH where both occur: DESIGN
CHOICE, entry 110). -/
structure RowOut where
  vals : List (Option (Val × Bool))
  dom : Nat
  range : Option (Bool × Nat)
  deriving DecidableEq, Repr

/-- The element rows of SFU_ELEM, SFU_BIN, SFU_NORM and SFU_SMAXFIN (Table 5.8, R150, R155). -/
def SfuOp.row (o : SfuOp) (d : Option Epi) (xs ys : List (Val × Bool)) (entry : List (W64 × Bool)) : RowOut :=
  let n := o.rowlen.toNat
  let z : Val × Bool := (Val.zero, false)
  let em := entry.any (·.2)
  match o.op.toNat with
  | 9 =>
    let f : Val → Val → Val := match o.sub.toNat with
      | 0 => Val.addR
      | 1 => Val.subR
      | 2 => Val.mulR
      | 3 => Val.max
      | 4 => Val.min
      | _ => fun a _ => a
    ⟨(List.range n).map (fun j =>
      let x := xs.getD j z
      let y := ys.getD j z
      some (f x.1 y.1, x.2 || (o.sub ≠ 5 && y.2))), 0, none⟩
  | 12 =>
    let m := Moment.ofWords entry
    if m.n = 0 then ⟨List.replicate n none, 0, none⟩ else
    let eps := match d with
      | some d => d.pa
      | none => Val.zero
    let q := m.m2.divR (Val.ofNat m.n)
    let a := (if o.sub = 0 then Val.max q Val.zero else q).addR eps
    let r := horuekFn 5 a
    ⟨(List.range n).map (fun j =>
      let x := xs.getD j z
      let f := if o.sub = 0 then x.1.subR m.mean else x.1
      some (if f.isZero then Val.zero else f.mulR r, x.2 || em)), b2n (outsideDomain 5 a), none⟩
  | 13 =>
    let e := Stat.ofWords (entry.getD 0 (0, false)) (entry.getD 1 (0, false))
    ⟨(List.range n).map (fun j =>
      let x := xs.getD j z
      some (if e.count = 0 || e.sum.isZero then Val.zero else x.1.divR e.sum, x.2 || em)), 0,
     if e.count ≠ 0 ∧ (e.high ∨ e.sum.isZero) then some (e.high, b32Up e.max) else none⟩
  | _ => ⟨(List.range n).map (fun j => some (xs.getD j z)), 0, none⟩

/-- Elements of a row converted block by block: each block's scale byte and its conversions. -/
def convBlocks (micro sr : Bool) (code : Nat) : List (List (Option Piece)) → W32 →
    List (Byte × List (Option (Piece × Conv))) × W32
  | [], rng => ([], rng)
  | b :: bs, rng =>
    let scale := mxScale code (b.filterMap (fun p => p.map (·.val)))
    let d := drawRow sr rng b
    let cs := (b.zip d.1).map (fun q => q.1.map (fun p => (p, convPiece micro code scale p.val q.2)))
    let r := convBlocks micro sr code bs d.2
    ((scale, cs) :: r.1, r.2)

/-- A list cut into pieces of n, at most fuel of them. -/
def chunksOf {α : Type} (n : Nat) : Nat → List α → List (List α)
  | 0, _ => []
  | f + 1, l => if l.isEmpty then [] else l.take n :: chunksOf n f (l.drop n)

/-- The words of an element row in a format; none for words of an empty row (R143, R155). -/
def rowOut (code n : Nat) (empty : Bool) (bs : List (Byte × List (Option (Piece × Conv)))) : List (Option (W64 × Bool)) :=
  if empty then List.replicate (rowWords code n) none else
  let e := elemBits code
  let lns (cs : List (Option (Piece × Conv))) := cs.map (fun c => match c with
    | some c => (c.2.bits, c.1.mark)
    | none => (0, false))
  if isMx code then
    bs.flatMap (fun b =>
      let ls := lns b.2
      (packWords e (lanes code) (e / 2) ls ++ [(BitVec.ofNat 64 b.1.toNat, ls.any (·.2))]).map some)
  else (packWords e (lanes code) (rowWords code n) (lns (bs.flatMap (·.2)))).map some

/-- The state with the front SFU work of a clove replaced. -/
def State.putSfu (s : State) (k : Nat) (u : SfuWork) : State :=
  s.modClove k (fun c => { c with sfu := u :: c.sfu.drop 1 })

/-- A row computed and written: vectors at once, words through the work's queue (R124, R135, R143, R147,
R151). A partition function's result does not flush (DESIGN CHOICE, entry 105). -/
def State.sfuRow (s : State) (k : Nat) (u : SfuWork) : State :=
  let o := SfuOp.ofWord u.op.word
  let c := s.clove k
  let p := s.part (partOf (cloveX k) (cloveY k))
  let x := cloveX k
  let y := cloveY k
  let next (u : SfuWork) (out : List (Option (W64 × Bool))) : SfuWork :=
    { u with row := u.row + 1, a := [], b := if o.bcast = 1 then u.b else [], out := out }
  let elems (vec : Bool) (ws : List (W64 × Bool)) : List (Val × Bool) :=
    (List.range o.rowlen.toNat).map (fun j =>
      if vec then (w44Val (ws.getD j (0, false)).1, (ws.getD j (0, false)).2)
      else if o.rowlen = 16 && isMx o.ifmt.toNat then
        let f := o.ifmt.toNat
        let w := ws.getD (j / lanes f) (0, false)
        let sc := ws.getD (vecWords f) (0, false)
        (decodeElem f (laneOf w.1 (elemBits f) (j % lanes f)) (BitVec.ofNat 8 (laneOf sc.1 8 0)), w.2 || sc.2)
      else rowElem ws o.ifmt.toNat j)
  match o.op.toNat with
  | 10 => s.putSfu k (next u ((Moment.ofRow (o.sub == 1) (elems o.srcVec u.a)).toWords.map some))
  | 11 =>
    let out := if o.sub = 0 then ((Moment.ofWords u.a).merge (Moment.ofWords u.b)).toWords
      else ((Stat.ofWords (u.a.getD 0 (0, false)) (u.a.getD 1 (0, false))).merge
        (Stat.ofWords (u.b.getD 0 (0, false)) (u.b.getD 1 (0, false)))).toWords
    s.putSfu k (next u (out.map some))
  | _ =>
    let d := o.desc c
    let same := o.src == o.src2 && o.bcast == 0
    let ro := o.row d (elems o.srcVec u.a)
      (if o.op = 9 then (if same then elems o.srcVec u.a else elems o.src2Vec u.b) else []) u.b
    let ps := ((List.range ro.vals.length).zip ro.vals).map (fun q =>
      q.2.map (fun v => c.pieceOf p d q.1 u.row none v.1 v.2))
    let micro := match d with
      | some d => d.fn ≥ 0x40 && d.fn < 0x58
      | none => false
    let sr := match d with
      | some d => d.sr
      | none => false
    let code := o.ofmt.toNat
    let (bs, rng) := convBlocks micro sr code
      (chunksOf (if isMx code then 32 else Max.max ps.length 1) (ps.length + 1) ps) u.rng
    let live := bs.flatMap (fun b => b.2.filterMap (fun t => t.map (fun t => (t, b.1))))
    let r := c.region o.dst.toNat
    let at_ := if o.dstVec then (vecPlace { r with rdmode := if r.rdmode ≥ 2 then 2 else 0 } false code r.headBase r.wpos 0).1
      else r.headBase + r.wpos
    let s := s.countField x y 2 (live.filter (fun t => t.1.2.sat)).length
    let s := s.countField x y 3 ((live.filter (fun t => t.1.1.dom)).length + ro.dom)
    let c := match d with
      | some d => if d.rowsum then (s.clove k).statRow d u.row (live.map (fun t =>
          (t.1.1, decodeElem code t.1.2.bits t.2, t.1.2.sat, t.1.1.mark))) else s.clove k
      | none => s.clove k
    let u := { u with rng := rng }
    let s := if o.dstVec then
        let b := bs.headD (0, [])
        (s.setClove k (c.putVec o.dst.toNat code (b.2.map (fun t => t.map (fun t => (t.2.bits, t.1.mark)))) b.1.toNat)).putSfu k (next u [])
      else
        (s.setClove k c).putSfu k (next u (rowOut code o.rowlen.toNat (ro.vals.any Option.isNone) bs))
    match ro.range with
    | some q => (s.countField x y 4 1).cloveEventOn .rangeSat x y 2 at_ [b2n q.1, q.2]
    | none => s

/-- One object's next piece read from a region for a row: a whole vector, or one word; none while the
region holds none. -/
def State.sfuRead (s : State) (k owner rn : Nat) (vec : Bool) (code : Nat) : Option (List (W64 × Bool) × State) :=
  let c := s.clove k
  let r := c.region rn
  if c.before owner rn false then none else
  if vec then
    if r.hasVec false code then
      let v := s.takeVec k rn false code (-1)
      some (v.1.map (fun e => (w44Put e.1, e.2)), v.2)
    else none
  else if r.hasWord then
    let v := s.takeWord k rn
    some ([v.1], v.2)
  else none

/-- One step of the oldest SFU instruction of a clove: a word of a finished row written, the end, a piece
read, or a row computed; none while it waits or there is none. -/
def State.sfuStep (s : State) (k : Nat) : Option State :=
  match (s.clove k).sfu with
  | [] => none
  | u :: _ =>
    let o := SfuOp.ofWord u.op.word
    let c := s.clove k
    let dst := c.region o.dst.toNat
    let canWrite := dst.hasSpace && !c.before u.owner o.dst.toNat true
    match u.out with
    | w :: ws =>
      if canWrite then some ((s.setClove k (c.putRowWord o.dst.toNat w)).putSfu k { u with out := ws }) else none
    | [] =>
      if u.row ≥ o.count.toNat then
        let s := s.endRead k o.src.toNat
        let s := if o.binary && o.src ≠ o.src2 then s.endRead k o.src2.toNat else s
        let s := s.modClove k (fun c =>
          let c := if o.dstVec then c.endVecs o.dst.toNat o.ofmt.toNat else c.endWords o.dst.toNat
          { c with sfu := c.sfu.drop 1 })
        some (s.dropOwner 2 u.owner [k])
      else
        let needB := o.binary && !(o.op == 9 && o.bcast == 0 && o.src == o.src2) && decide (u.b.length < o.src2Len)
        let needA := decide (u.a.length < o.srcLen)
        let readB := (s.sfuRead k u.owner o.src2.toNat o.src2Vec o.ifmt.toNat).map
          (fun r => r.2.putSfu k { u with b := u.b ++ r.1 })
        let readA := (s.sfuRead k u.owner o.src.toNat o.srcVec o.ifmt.toNat).map
          (fun r => r.2.putSfu k { u with a := u.a ++ r.1 })
        if needB && o.bcast == 1 then readB
        else if needA then readA
        else if needB then readB
        else if o.dstVec && !canWrite then none
        else some (s.sfuRow k u)

/-- The SFU of a clove runs until it waits. -/
def State.sfuRun (s : State) (k : Nat) : Nat → State
  | 0 => s
  | n + 1 =>
    match s.sfuStep k with
    | some s => s.sfuRun k n
    | none => s

end Sys2Proof.Machine
end

