-- ==== Sys2Proof/Machine/Claims.lean ====
section
/-! DEFINITION. What an instruction that waits at issue will use, and which later instructions it holds back for that
(R58, R130, R170, R174 to R176, R179, R234). -/
namespace Sys2Proof.Machine

/-- The engine of an instruction's opcode: arrays 0 and 1 by bit 4, SFU 2, remote unit 3, loop engine 4,
region control 5. The reserved opcode 0 is an array instruction (R82). -/
def engineOf (w : W128) : Nat :=
  match fieldOf w 3 0 with
  | 5 => 5
  | 6 => 3
  | 7 => 4
  | 15 => 3
  | n => if n ≤ 4 then fieldOf w 4 4 else 2

/-! ### Arrays (R58, R83) -/

/-- The block of arrays that an array instruction of clove k names: of GANG_CFG its new block, of the others the gang as
it stands. -/
def State.blockOf (s : State) (k : Nat) (w : W128) : Option Gang :=
  match fieldOf w 3 0 with
  | 1 => some (GangOp.ofWord w).block
  | 2 => some (s.gangOf k (bitOf w 4))
  | 3 => some (s.gangOf k (bitOf w 4))
  | 4 => some (s.gangOf k (bitOf w 4))
  | _ => none

/-- Two blocks share an array of a clove. -/
def Gang.meets (g h : Gang) : Bool :=
  g.arr == h.arr && decide (g.ox < h.ox + h.side) && decide (h.ox < g.ox + g.side) &&
    decide (g.oy < h.oy + h.side) && decide (h.oy < g.oy + g.side)

/-- A GANG_CFG and another array instruction name one array (R58). GANG_CFGs of one step come in the order of the cloves'
y, then x (R83; DEDUCED, entry 109). -/
def State.gangClash (s : State) (k : Nat) (w : W128) (j : Nat) (v : W128) : Bool :=
  (fieldOf w 3 0 == 1 || fieldOf v 3 0 == 1) &&
    (match s.blockOf k w, s.blockOf j v with
     | some g, some h => g.meets h
     | _, _ => false)

/-! ### Regions (R170, R174 to R176) -/

/-- The cloves in which an instruction of clove k may leave results through its epilogue, with its entry there. -/
def State.epiUses (s : State) (k : Nat) (w : W128) : List (Nat × Nat) :=
  let g := s.gangOf k (bitOf w 4)
  match fieldOf w 3 0 with
  | 3 => if w >>> 27 = 0 then [] else (g.exit false).map (fun e => (e, (SwapOp.ofWord w).epi.toNat))
  | 4 => let o := StreamOp.ofWord w
    if o.mode = 2 then [] else (g.exit (o.axis == 1)).map (fun e => (e, o.epi.toNat))
  | n => if n ≥ 8 ∧ (SfuOp.ofWord w).described then [(k, (SfuOp.ofWord w).epi.toNat)] else []

/-- The regions that an instruction of clove k names, as clove, region and whether it writes there. SET and DROP stand on
both sides of a region, POP on its readers' side: it releases what they have read (R174). -/
def State.rgnUses (s : State) (k : Nat) (w : W128) : List (Nat × Nat × Bool) :=
  let g := s.gangOf k (bitOf w 4)
  match fieldOf w 3 0 with
  | 3 =>
    let o := SwapOp.ofWord w
    if w >>> 27 = 0 then [] else
    (g.exit false).flatMap (fun e => (e, o.dst.toNat, true) :: if o.acc = 1 then [(e, o.accRgn.toNat, false)] else [])
  | 4 =>
    let o := StreamOp.ofWord w
    let t := o.axis == 1
    (g.entry t).map (fun e => (e, o.src.toNat, false)) ++
    if o.mode = 2 then g.top.map (fun e => (e, o.src2.toNat, false)) else
    (g.exit t).flatMap (fun e => (e, o.dst.toNat, true) :: if o.acc = 1 then [(e, o.accRgn.toNat, false)] else [])
  | 5 =>
    let o := RgnOp.ofWord w
    (k, o.rgn.toNat, false) :: if o.sub = 1 then [] else [(k, o.rgn.toNat, true)]
  | n => if n ≥ 8 ∧ n ≤ 13 then ((SfuOp.ofWord w).uses k).map (fun u => (u.k, u.rn, u.write)) else []

/-- Two instructions read, or write, one region (R175), or one of them sets or drops it (R170, R176). -/
def State.rgnClash (s : State) (k : Nat) (w : W128) (j : Nat) (v : W128) : Bool :=
  (s.rgnUses k w).any (fun u => (s.rgnUses j v).contains u)

/-! ### Epilogue entries (R130) -/

/-- One of two instructions writes an epilogue entry that the other names or writes (R130). -/
def State.epiClash (s : State) (k : Nat) (w : W128) (j : Nat) (v : W128) : Bool :=
  let wr (c : Nat) (x : W128) : List (Nat × Nat) := if fieldOf x 3 0 = 14 then [(c, (SfuOp.ofWord x).epi.toNat)] else []
  let use (c : Nat) (x : W128) := wr c x ++ s.epiUses c x
  (wr k w).any (fun e => (use j v).contains e) || (use k w).any (fun e => (wr j v).contains e)

/-! ### Plain ranges (R174, R178, R179) -/

/-- Rows or vectors of an instruction that leaves results through an epilogue, and the elements of a row. -/
def State.epiShape (s : State) (k : Nat) (w : W128) : Nat × Nat :=
  match fieldOf w 3 0 with
  | 3 => ((s.gangOf k (bitOf w 4)).rows, 16)
  | 4 => ((StreamOp.ofWord w).count.toNat, 16)
  | _ => ((SfuOp.ofWord w).count.toNat, (SfuOp.ofWord w).rowlen.toNat)

/-- The plain ranges that a waiting instruction of clove k will read, by clove (R178). -/
def State.plainIn (s : State) (k : Nat) (w : W128) : List (Nat × Nat × Nat) :=
  let sh := s.epiShape k w
  let epi := (s.epiUses k w).flatMap (fun e =>
    (epiRanges ((s.clove e.1).epiOf e.2) sh.2 sh.1).map (fun r => (e.1, r.1, r.2)))
  match fieldOf w 3 0 with
  | 2 =>
    let o := LoadOp.ofWord w
    let g := s.gangOf k (bitOf w 4)
    g.members.flatMap (fun m => (o.plain g).map (fun r => (m, r.1, r.2)))
  | 6 =>
    let o := RemoteOp.ofWord w
    if o.sub = 1 then [(k, o.laddr.toNat, o.len.toNat)]
    else if o.sub = 2 then [(k, o.laddr.toNat, ((s.clove k).channel o.ch.toNat).slotw)] else []
  | 14 => [(k, (SfuOp.ofWord w).addr.toNat, 4)]
  | 15 => if (FabricOp.ofWord w).sub.toNat < 2 then [(k, (FabricOp.ofWord w).addr.toNat, 4)] else []
  | _ => epi

/-- The words of n slots from TAIL on, as runs. -/
def Region.tailRuns (r : Region) (n : Nat) : List (Nat × Nat) :=
  (List.range n).map (fun i => (r.tailBase i, r.slotw))

/-- The plain ranges that a waiting instruction of clove k will write, by clove: statistic rows and the words of a REMOTE
READ (R179); and the slots that a POP will release, whose words it waits for as they do (R174). -/
def State.plainOut (s : State) (k : Nat) (w : W128) : List (Nat × Nat × Nat) :=
  let sh := s.epiShape k w
  let stats := (s.epiUses k w).flatMap (fun e =>
    (statRange ((s.clove e.1).epiOf e.2) sh.1).flatMap (fun rs => rs.map (fun r => (e.1, r.1, r.2))))
  match fieldOf w 3 0 with
  | 5 =>
    let o := RgnOp.ofWord w
    let r := (s.clove k).region o.rgn.toNat
    if o.sub = 1 then (r.tailRuns (Min.min o.n.toNat r.fill)).map (fun q => (k, q.1, q.2)) else []
  | 6 =>
    let o := RemoteOp.ofWord w
    if o.sub = 0 then [(k, o.laddr.toNat, o.len.toNat)] else []
  | _ => stats

/-- An earlier instruction w has plain reads to make that a write of the later v would overtake (R174, R179). -/
def State.plainClash (s : State) (k : Nat) (w : W128) (j : Nat) (v : W128) : Bool :=
  (s.plainIn k w).any (fun r => (s.plainOut j v).any (fun q => r.1 == q.1 && runsMeet r.2.1 r.2.2 q.2.1 q.2.2))

/-! ### The order of waiting instructions -/

/-- An earlier instruction w of clove k, while it waits, holds the later instruction v of clove j (R58, R130, R170, R174
to R176, R179). -/
def State.holds (s : State) (k : Nat) (w : W128) (j : Nat) (v : W128) : Bool :=
  s.gangClash k w j v || s.rgnClash k w j v || s.epiClash k w j v || s.plainClash k w j v

/-- An instruction of clove k that waits at issue will issue: it carries no mark, and its engine is not halted (R81,
R128, R239). One that will not holds no instruction back (DEDUCED, entry 117). -/
def Clove.willIssue (c : Clove) (w : Waiting) : Bool := !w.op.mark && !c.halted w.engine

/-- An instruction issued before number no waits and holds instruction v of clove j. -/
def State.heldBack (s : State) (no j : Nat) (v : W128) : Bool :=
  s.cloves.any (fun e => e.2.waiting.any (fun w =>
    decide (w.no < no) && e.2.willIssue w && s.holds e.1 w.op.word j v))

/-- An instruction of clove k issued before number no waits that will write words of the clove (R234). -/
def State.writesAhead (s : State) (no k : Nat) : Bool :=
  s.cloves.any (fun e => e.2.waiting.any (fun w =>
    decide (w.no < no) && e.2.willIssue w && fieldOf w.op.word 3 0 ≠ 5 &&
      ((s.rgnUses e.1 w.op.word).any (fun u => u.1 == k && u.2.2) || (s.plainOut e.1 w.op.word).any (fun q => q.1 == k))))

end Sys2Proof.Machine
end

