-- ==== Sys2Proof/Machine/Scratch.lean ====
section
/-! DEFINITION. Region control (R169 to R176), remote access and credit channels (R180 to R183, R233,
R234), and scrubbing (R185 to R188). -/
namespace Sys2Proof.Machine

/-! ### Messages (R216, R220) -/

/-- A message put on the mesh. -/
def State.send (s : State) (m : Msg) : State := { s with msgs := s.msgs ++ [m] }

/-- The oldest message that a test accepts, and the state without it. -/
def State.takeMsg (s : State) (f : Msg → Bool) : Option (Msg × State) :=
  match s.msgs.find? f with
  | some m => some (m, { s with msgs := s.msgs.erase m })
  | none => none

/-- Endpoint number of queue j of partition p, after the cloves' module indices. -/
def queueNo (p j : Nat) : Nat := 1536 * 704 + 128 * p + j

/-! ### Who uses a region (R170, R174, R176) -/



/-- A slot write into region rn of clove k is in progress: a SLOT on the mesh or a request of a queue. -/
def State.slotComing (s : State) (k rn : Nat) : Bool :=
  s.msgs.any (fun m => match m with
    | .slot _ d r _ _ => d == k && r == rn
    | .unbind q _ _ r => q == k && r == rn
    | .unbindQ q _ _ => q == k
    | _ => false) ||
  s.allReqs.any (fun r => !r.store && ((s.queue r.part r.queue).binds.at? k).any (fun b => b.rgn == rn) && (s.reqCloves r).contains k)

/-! ### RGN (R169, R170, R174, R176) -/

/-- Reserved codes, bits and fields of RGN (R169). -/
def RgnOp.badWord (w : W128) : Bool :=
  let o := RgnOp.ofWord w
  let setOnly := o.base ≠ 0 || o.slotw ≠ 0 || o.slots ≠ 0 || o.rdmode ≠ 0 || o.stride ≠ 0 || o.manual ≠ 0 ||
    o.cred ≠ 0 || o.pkind ≠ 0 || o.px ≠ 0 || o.py ≠ 0 || o.pch ≠ 0
  decide (w &&& RgnOp.reserved ≠ 0) || decide (o.sub.toNat ≥ 3) ||
  (match o.sub.toNat with
   | 0 => o.n ≠ 0 || (if o.rdmode = 1 then o.stride == 0 else o.stride ≠ 0) ||
      (o.cred == 0 && (o.pkind ≠ 0 || o.px ≠ 0 || o.py ≠ 0 || o.pch ≠ 0)) ||
      (o.pkind == 1 && (decide (o.px.toNat ≥ 128) || o.py ≠ 0 || o.pch ≠ 0))
   | 1 => setOnly || o.n == 0
   | _ => setOnly || o.n ≠ 0)

/-- A SET breaks R170. -/
def RgnOp.overlaps (o : RgnOp) (c : Clove) : Bool :=
  let b := o.base.toNat
  let n := o.slotw.toNat * o.slots.toNat
  b % 16 ≠ 0 || o.slotw == 0 || decide (o.slots.toNat < 3) || decide (b + n > 4096) ||
    c.regions.any (fun e => e.1 ≠ o.rgn.toNat && e.2.set && decide (b < e.2.base + e.2.size) && decide (e.2.base < b + n))

/-- The producer's clove of a SET with PKIND = 0. -/
def RgnOp.producer (o : RgnOp) (k : Nat) : Nat :=
  partClove (partOf (cloveX k) (cloveY k)) o.px.toNat o.py.toNat

/-- An unbind sent to the old producer of a credited region, which is then no longer credited (R170). -/
def State.sendUnbind (s : State) (k rn : Nat) : State :=
  let r := (s.clove k).region rn
  if !(r.set && r.cred) then s else
  let m := if r.pkind then Msg.unbindQ k (partOf (cloveX k) (cloveY k)) r.prod else .unbind k r.prod r.pch rn
  (s.send m).modClove k (fun c => c.setRegion rn { r with cred := false })

/-- The region that an accepted SET leaves, and the grant it sends (R170). -/
def State.setRgn (s : State) (k : Nat) (o : RgnOp) : State :=
  let rn := o.rgn.toNat
  let p := partOf (cloveX k) (cloveY k)
  let prod := if o.pkind = 1 then o.px.toNat else o.producer k
  let r : Region := { Region.unset with
    set := true, base := o.base.toNat, slotw := o.slotw.toNat, slots := o.slots.toNat
    rdmode := o.rdmode.toNat, stride := o.stride.toNat, manual := o.manual == 1, cred := o.cred == 1
    pkind := o.pkind == 1, prod := if o.cred = 1 then prod else 0, pch := o.pch.toNat }
  let s := s.modClove k (fun c => c.setRegion rn r)
  if o.cred = 0 then s else
  if o.pkind = 1 then s.send (.grantQ k p prod rn r.slotw r.slots)
  else s.send (.grant k prod o.pch.toNat rn r.slotw r.slots)



/-- RGN at issue: the state, and whether the instruction has issued (true) or waits. -/
def State.tryRgn (s : State) (no k v : Nat) (i : Issue) : State × Bool :=
  let o := RgnOp.ofWord i.word
  let rn := o.rgn.toNat
  let c := s.clove k
  let r := c.region rn
  if i.mark then (s.refuse k 5 .markedControl v, true) else
  if RgnOp.badWord i.word then (s.refuse k 5 .scrEncoding v, true) else
  let busy := c.using no rn
  match o.sub.toNat with
  | 0 =>
    if o.overlaps c then (s.refuse k 5 .regionOverlap v, true) else
    if o.cred == 1 && o.pkind == 0 && (decide (o.px.toNat > 383) || decide (o.py.toNat > 87)) then
      (s.refuse k 5 .remoteBounds v, true) else
    if busy then (s, false) else
    let s := s.sendUnbind k rn
    if s.slotComing k rn then (s, false) else (s.setRgn k o, true)
  | 1 =>
    if !r.set then (s.refuse k 5 .regionUnset v, true) else
    let n := Min.min o.n.toNat r.fill
    if c.tickets.any (fun t => decide (t.1 < no) && t.2.1 == rn && !t.2.2) || !s.notRead no k [r.tailRuns n] then (s, false)
    else (s.putRegion k rn { r.release n with rpos := 0 } n, true)
  | _ =>
    if !r.set then (s.refuse k 5 .regionUnset v, true) else
    if busy || s.slotComing k rn then (s, false)
    else (s.putRegion k rn { r with tail := r.head, fill := 0, rpos := 0 } r.fill, true)

/-! ### REMOTE (R180 to R183, R234) -/

/-- Reserved codes and bits of REMOTE (Table 6.7). -/
def RemoteOp.badWord (w : W128) : Bool :=
  let o := RemoteOp.ofWord w
  decide (w &&& RemoteOp.reserved ≠ 0) || decide (o.sub.toNat ≥ 4) ||
    (decide (o.sub.toNat < 2) && (o.ch ≠ 0 || o.len == 0 || decide (o.len.toNat > 4096)))

/-- A SLOT of clove k on channel h is on the mesh. -/
def State.slotSent (s : State) (k h : Nat) : Bool :=
  s.msgs.any (fun m => match m with
    | .slot q _ _ c _ => q == k && c == h
    | _ => false)

/-- REMOTE at issue; none while it waits. -/
def State.tryRemote (s : State) (no k v : Nat) (i : Issue) : Option State :=
  let o := RemoteOp.ofWord i.word
  let c := s.clove k
  let p := partOf (cloveX k) (cloveY k)
  let t := partClove p o.rx.toNat o.ry.toNat
  let h := o.ch.toNat
  let ch := c.channel h
  let la := o.laddr.toNat
  let n := o.len.toNat
  if i.mark then some (s.refuse k 3 .markedControl v) else
  if RemoteOp.badWord i.word then some (s.refuse k 3 .scrEncoding v) else
  if decide (o.sub.toNat < 2) && (decide (o.rx.toNat > 383) || decide (o.ry.toNat > 87)) then
    some (s.refuse k 3 .remoteBounds v) else
  if decide (o.sub.toNat < 2) && !s.powered (cloveX t) (cloveY t) then some (s.refuse k 3 .remotePower v) else
  match o.sub.toNat with
  | 0 =>
    if c.freeSb 3 = 0 || !s.notRead no k [[(la, n)]] then none else
    some ((s.modClove k (fun c => { c.takeSb 3 no [[(la, n)]] with reads := c.reads + 1 })).send
      (.readReq k t o.raddr.toNat la n))
  | 1 =>
    let s := s.touchN k la n
    some ((s.modClove k (fun c => { c with unacked := c.unacked + 1 })).send
      (.write k t o.raddr.toNat ((s.clove k).getWords la n) n))
  | 2 =>
    match ch.target with
    | none => some (s.refuse k 3 .creditBind v)
    | some d =>
      if !s.powered (cloveX d) (cloveY d) then some (s.refuse k 3 .remotePower v) else
      if ch.credits = 0 then none else
      let s := s.touchN k la ch.slotw
      let ws := (s.clove k).getWords la ch.slotw
      some ((s.modClove k (fun c =>
        { c.setChannel h { ch with credits := ch.credits - 1 } with unacked := c.unacked + 1 })).send
        (.slot k d ch.rgn h ws))
  | _ => if s.slotSent k h then none else some (s.modClove k (fun c => c.setChannel h Channel.unbound))

/-! ### Arrivals (R170, R182, R183, R224, R225, R233, R234) -/

/-- A WRITE reaches its target: discarded whole where it meets a set region, waiting behind scoreboard
entries it overlaps (R182, R233). -/
def State.arriveWrite (s : State) (src dst a : Nat) (ws : List (W64 × Bool)) : Option State :=
  let c := s.clove dst
  if c.regions.any (fun e => e.2.set && runsMeet a ws.length e.2.base e.2.size) then
    some (s.send (.ackMsg dst src true)) else
  if c.busyRange a ws.length then none else
  some ((s.setClove dst (c.putWords a ws)).send (.ackMsg dst src false))

/-- A slot reaches its region: its words fill slot HEAD; where the region does not take slots from that channel it is
discarded and CREDIT_BIND is raised at the producer (R183, R193). -/
def State.arriveSlot (s : State) (src dst rn ch : Nat) (ws : List (W64 × Bool)) : State :=
  let c := s.clove dst
  let r := c.region rn
  if !r.set || r.stopped || !r.hasSpace || r.pkind || r.prod ≠ src || r.pch ≠ ch then
    (s.cloveEvent .creditBind (cloveX src) (cloveY src) 3 0).send (.ackMsg dst src false) else
  let c := c.putWords r.headBase (ws.take r.slotw)
  (s.setClove dst (c.setRegion rn ((c.region rn).fillSlot))).send (.ackMsg dst src false)

/-- The first scoreboard entry of the remote unit that covers a range leaves. -/
def Clove.freeRange (c : Clove) (la n : Nat) : Clove :=
  match c.sb.find? (fun e => e.engine == 3 && e.runs == [(la, n)]) with
  | some e => { c with sb := c.sb.erase e }
  | none => c

/-- A remote access that reaches a gated strip fails: REMOTE_POWER at its issuer, which waits for it no longer (R190,
R193; DEDUCED, entry 111). -/
def State.failAccess (s : State) (src : Nat) (m : Msg) : State :=
  (s.cloveEvent .remotePower (cloveX src) (cloveY src) 3 0).modClove src (fun c => match m with
    | .readReq _ _ _ la n => { c.freeRange la n with reads := c.reads - 1 }
    | _ => { c with unacked := c.unacked - 1 })

/-- The oldest remote access from one clove to another takes effect at its target (R233), or fails there (R193). -/
def State.arriveAccess (s : State) (src dst : Nat) : State :=
  match s.takeMsg (fun m => match m with
    | .write a b _ _ _ => a == src && b == dst
    | .readReq a b _ _ _ => a == src && b == dst
    | .slot a b _ _ _ => a == src && b == dst
    | _ => false) with
  | some (m, t) =>
    if !s.powered (cloveX dst) (cloveY dst) then t.failAccess src m else
    match m with
    | .write _ _ a ws _ => (t.arriveWrite src dst a ws).getD s
    | .readReq _ _ a la n =>
      if (s.clove dst).busyRange a n then s else
      let t := t.touchN dst a n
      t.send (.readData dst src la ((t.clove dst).getWords a n))
    | .slot _ _ rn ch ws => t.arriveSlot src dst rn ch ws
    | _ => s
  | none => s

/-- The oldest acknowledgement or read data from one clove reaches the issuer (R182, R234). -/
def State.arriveAck (s : State) (src dst : Nat) : State :=
  match s.takeMsg (fun m => match m with
    | .ackMsg a b _ => a == src && b == dst
    | .readData a b _ _ => a == src && b == dst
    | _ => false) with
  | some (.ackMsg _ _ bad, t) =>
    let t := t.modClove dst (fun c => { c with unacked := c.unacked - 1 })
    if bad then t.cloveEvent .remoteRegion (cloveX dst) (cloveY dst) 3 0 else t
  | some (.readData _ _ la ws, t) =>
    t.modClove dst (fun c => { (c.putWords la ws).freeRange la ws.length with reads := c.reads - 1 })
  | _ => s

/-- CREDIT_BIND at a region's clove: the grant is discarded and the region takes no slot writes until it
is SET again (R183). -/
def State.bindFault (s : State) (k rn : Nat) : State :=
  (s.cloveEvent .creditBind (cloveX k) (cloveY k) 15 0).modClove k (fun c =>
    c.setRegion rn { c.region rn with stopped := true })

/-- An SQ_SET to queue j of partition p waits (R224). -/
def State.sqSetWaits (s : State) (p j : Nat) : Bool :=
  s.cloves.any (fun e => partOf (cloveX e.1) (cloveY e.1) == p && e.2.waiting.any (fun w =>
    fieldOf w.op.word 3 0 == 15 && (FabricOp.ofWord w.op.word).sub == 0 &&
    (FabricOp.ofWord w.op.word).sq.toNat == j))

/-- A grant reaches a queue, which binds a clove's region by it (R224, R225). A grant that names a clove whose other
region is bound is one to a producer bound elsewhere (R183). -/
def State.grantQueue (s : State) (k p j rn slotw n : Nat) : State :=
  let q := s.queue p j
  match q.ctx with
  | none => s.bindFault k rn
  | some c =>
    if s.sqSetWaits p j || bitField c.toNat 0 1 = 1 || !ctxHas c p k || (q.slotw.isSome && q.slotw ≠ some slotw) ||
        (q.binds.at? k).isSome then
      s.bindFault k rn
    else
      s.modQueue p j (fun q => { q with slotw := some slotw, binds := q.binds.put k ⟨rn, slotw, Min.min n 255, 0, 0, []⟩ })

/-- The oldest grant from a clove reaches a channel of a clove or a queue (R183, R225). -/
def State.arriveGrant (s : State) (src dst : Nat) : State :=
  match s.takeMsg (fun m => match m with
    | .grant a b _ _ _ _ => a == src && b == dst
    | .grantQ a p j _ _ _ => a == src && dst == queueNo p j
    | _ => false) with
  | some (.grant _ _ h rn slotw n, t) =>
    let ch := (t.clove dst).channel h
    if ch.target.isNone || (ch.target == some src && ch.rgn == rn) then
      t.modClove dst (fun c => c.setChannel h ⟨some src, rn, slotw, Min.min (ch.credits + n) 255⟩)
    else t.bindFault src rn
  | some (.grantQ _ p j rn slotw n, t) => t.grantQueue src p j rn slotw n
  | _ => s

/-- The oldest returned credit from a clove reaches its channel or queue; one for a channel that is no
longer bound to that clove is discarded (R183, R225). -/
def State.arriveCredit (s : State) (src dst : Nat) : State :=
  match s.takeMsg (fun m => match m with
    | .creditRet a b _ => a == src && b == dst
    | .creditRetQ a p j => a == src && dst == queueNo p j
    | _ => false) with
  | some (.creditRet _ _ h, t) =>
    let ch := (t.clove dst).channel h
    if ch.target == some src then
      t.modClove dst (fun c => c.setChannel h { ch with credits := satInc 255 ch.credits })
    else t
  | some (.creditRetQ _ p j, t) =>
    match (t.queue p j).binds.at? src with
    | some b => t.modQueue p j (fun q => { q with binds := q.binds.put src { b with credits := satInc 255 b.credits } })
    | none => t
  | _ => s

/-- The oldest unbind from a clove reaches the old producer: the channel clears once its earlier SLOTs
have been delivered (R170, R183). -/
def State.arriveUnbind (s : State) (src dst : Nat) : State :=
  match s.takeMsg (fun m => match m with
    | .unbind a b _ _ => a == src && b == dst
    | .unbindQ a p j => a == src && dst == queueNo p j
    | _ => false) with
  | some (.unbind _ _ h rn, t) =>
    let ch := (t.clove dst).channel h
    if t.slotSent dst h then s
    else if ch.target == some src && ch.rgn == rn then t.modClove dst (fun c => c.setChannel h Channel.unbound)
    else t
  | some (.unbindQ _ p j, t) =>
    if s.allReqs.any (fun r => r.part == p && r.queue == j && !r.store && (s.reqCloves r).contains src) then s
    else t.modQueue p j (fun q => { q with binds := q.binds.del src })
  | _ => s

/-! ### Scrubbing (R185, R187, R188) -/

/-- The sweep's next word; a finished sweep may be the longest since the last clear (R187, Table 6.9). -/
def State.sweepNext (s : State) (k : Nat) : State :=
  let c := s.clove k
  if c.scrubAt + 1 < 4096 then s.setClove k { c with scrubAt := c.scrubAt + 1 } else
  let f := fieldOfClove (cloveX k) (cloveY k)
  let ms := Min.min ((s.up.time - c.sweepFrom) / 1000000) 65535
  let s := s.setClove k { c with scrubAt := 0, sweepFrom := s.up.time }
  s.setFld .fldScrCtrl f 0 31 16 (Max.max ms (s.fld .fldScrCtrl f 0 31 16))

/-- The scrub controller of a powered clove reads its next word, found valid (0), correctable (1) or
uncorrectable (2): a correctable word is counted and queued for the scrub's own write-back (R185, R187). -/
def State.scrub (s : State) (k found : Nat) : State :=
  if !s.powered (cloveX k) (cloveY k) then s else
  let c := s.clove k
  let a := c.scrubAt
  let c := if a = 0 then { c with sweepFrom := s.up.time } else c
  let w := c.word a
  let w : SWord := if found = 0 then w else { w with ecc := found }
  let c := { c with scratch := c.scratch.set a SWord.zero w }
  let s := (s.setClove k c).touch k a
  let s := if w.ecc = 1 then s.modClove k (fun c =>
    if c.scrubQ.contains a then c else { c with scrubQ := c.scrubQ ++ [a] }) else s
  s.sweepNext k

/-- The oldest queued write-back of a clove: the word is stored with fresh check bits (R187). -/
def State.writeback (s : State) (k : Nat) : State :=
  s.modClove k (fun c => match c.scrubQ with
    | [] => c
    | a :: as => { c with scratch := c.scratch.set a SWord.zero { c.word a with ecc := 0 }, scrubQ := as })

end Sys2Proof.Machine
end

