-- ==== Sys2Proof/Machine/Fabric.lean ====
section
/-! DEFINITION. Stream queues, fences and barriers (R222 to R239), with the HBM ranges that transfers are
checked against (R243, R245, R257) and the requests of a queue (R227, R228). -/
namespace Sys2Proof.Machine

/-! ### HBM ranges of a partition (R243, R245, R257) -/

/-- 2 MiB. -/
def mib2 : Nat := 2097152
/-- Bytes from one stack's base to the next (Table 9.2). -/
def stackSpan : Nat := 0x900000000
/-- Base of slower-tier entry n (Table 9.2). -/
def tierBase (n : Nat) : Nat := 0x800000000000 + n * 0x10000000000

/-- An enabled HBM window as base and length in bytes. -/
def State.window (s : State) (p w : Nat) : Option (Nat × Nat) :=
  if s.flag .prtHbmBase p w 31 then
    some (s.fld .prtHbmBase p w 18 0 * mib2, s.fld .prtHbmSize p w 14 0 * mib2)
  else none

/-- The enabled windows of a partition. -/
def State.windows (s : State) (p : Nat) : List (Nat × Nat) := (List.range 8).filterMap (s.window p)

/-- The slower-tier entries whose mask names a partition, as ranges, each within its own window of 1 TiB (R245, R257). -/
def State.tierRanges (s : State) (p : Nat) : List (Nat × Nat) :=
  (List.range 16).filterMap (fun n =>
    if s.fld .memSpillCtl 0 n 1 0 ≠ 0 && s.flag .memSpillPmask 0 n p then
      some (tierBase n, Min.min (s.fld .memSpillSize 0 n 19 0) 524288 * mib2)
    else none)

/-- The HBM ranges of a partition. -/
def State.ranges (s : State) (p : Nat) : List (Nat × Nat) := s.windows p ++ s.tierRanges p

/-- [a, b) is covered by ranges, stepping over at most fuel of them. -/
def covered (rs : List (Nat × Nat)) (b : Nat) : Nat → Nat → Bool
  | 0, a => decide (b ≤ a)
  | f + 1, a =>
    if b ≤ a then true else
    let e := (rs.filter (fun r => decide (r.1 ≤ a) && decide (a < r.1 + r.2))).foldl (fun m r => Max.max m (r.1 + r.2)) 0
    if e ≤ a then false else covered rs b f e

/-- The bytes [a, a + n) lie inside the partition's HBM ranges. -/
def State.inRanges (s : State) (p a n : Nat) : Bool := let rs := s.ranges p; covered rs (a + n) (rs.length + 1) a

/-- The slower-tier entry of a device physical address. -/
def tierOf (a : Nat) : Option Nat :=
  if a ≥ 0x800000000000 ∧ a < 0x900000000000 then some ((a - 0x800000000000) / 0x10000000000) else none

/-! ### Transfers (R226, R227) -/

/-- A transfer from the 32 bytes of a descriptor (Table 8.5). -/
def Transfer.ofBits (no : Nat) (d : BitVec 256) (poster : Option Nat) : Transfer :=
  let n := d.toNat
  ⟨no, bitField n 0 64, bitField n 64 32, bitField n 96 32, signedOf 64 (bitField n 128 64), poster, 0, 0, 0, 0, [], none, 0⟩

/-- Values outside Table 8.5. -/
def Transfer.bad (t : Transfer) : Bool :=
  t.haddr % 8 ≠ 0 || t.rowBytes % 8 ≠ 0 || decide (t.rowBytes < 8) || decide (t.rowBytes > 2 ^ 24) ||
    decide (t.rows > 65535)

/-- A descriptor with values outside Table 8.5, or a reserved byte set. -/
def badTransfer (d : BitVec 256) : Bool := (Transfer.ofBits 0 d none).bad || bitField d.toNat 192 64 ≠ 0

/-- Bytes of a transfer. -/
def Transfer.total (t : Transfer) : Nat := t.rowBytes * t.rows
/-- The address of a row, none where it is negative. -/
def Transfer.rowAt (t : Transfer) (r : Nat) : Int := (t.haddr : Int) + r * t.hstride
/-- Every row lies inside the partition's ranges (R226). -/
def State.transferFits (s : State) (p : Nat) (t : Transfer) : Bool :=
  (List.range t.rows).all (fun r =>
    let a := t.rowAt r
    decide (0 ≤ a) && s.inRanges p a.toNat t.rowBytes)

/-- The setting of a slower-tier entry as it stands now: KIND, NODE and address (R259). -/
def State.tierSetting (s : State) (n : Nat) : Nat × Nat × Nat :=
  (s.fld .memSpillCtl 0 n 1 0, s.fld .memSpillCtl 0 n 31 8,
   (s.reg .memSpillBaseh 0 n).toNat * 2 ^ 32 + s.fld .memSpillBasel 0 n 31 12 * 4096)

/-- The slower-tier entries that a transfer's rows use (R257). -/
def Transfer.tiers (t : Transfer) : List Nat :=
  ((List.range t.rows).flatMap (fun r =>
    let a := (t.rowAt r).toNat
    [a, a + t.rowBytes - 1].filterMap tierOf)).dedup

/-- A transfer added to a queue's posted list, which keeps the settings of the slower-tier entries that it uses (R226,
R259). -/
def State.post (s : State) (p j : Nat) (t : Transfer) : State :=
  let t := { t with no := s.nextReq, tset := t.tiers.foldl (fun m n => m.put n (s.tierSetting n)) [] }
  { s with nextReq := s.nextReq + 1 }.modQueue p j (fun q => { q with posted := q.posted ++ [t] })

/-- Values outside Table 8.4, and blocks that leave the partition. -/
def badContext (c : BitVec 256) : Bool :=
  let n := c.toNat
  let fl := bitField n 0 8
  let bw := bitField n 64 8
  let bh := bitField n 72 8
  fl ≥ 4 || fl == 3 || bitField n 16 16 == 0 || decide (bw = 0) || decide (bw > 16) || decide (bh = 0) ||
    decide (bh > 16) || decide (bitField n 32 16 + bw > 384) || decide (bitField n 48 16 + bh > 88) ||
    decide (bitField n 80 8 > 7) || bitField n 88 168 ≠ 0



/-! ### FABRIC (R223 to R226, R234, R236) -/

/-- Reserved codes and bits of FABRIC (Table 8.3). -/
def FabricOp.badWord (w : W128) : Bool :=
  let o := FabricOp.ofWord w
  decide (w &&& FabricOp.reserved ≠ 0) || decide (o.sub.toNat ≥ 4) || (o.sub == 2 && o.scope == 3) ||
    (o.sub == 3 && o.arrive == 1 && (o.bcount == 0 || decide (o.bcount.toNat > 33792)))

/-- A transfer that the clove posted on a store queue before its fence is not complete (R234). -/
def State.storesPosted (s : State) (k : Nat) : Bool :=
  (s.part (partOf (cloveX k) (cloveY k))).queues.any (fun e =>
    (match e.2.ctx with
     | some c => c.getLsbD 0
     | none => false) && e.2.posted.any (fun t => t.poster == some k && decide (t.no < (s.clove k).fenceXfer)))

/-- FABRIC at issue; none while it waits. A fence notes its own number and that of the next transfer: what comes before
it is not held by it, and what comes after it is not waited for (R234). -/
def State.tryFabric (s : State) (no k v : Nat) (i : Issue) : Option State :=
  let o := FabricOp.ofWord i.word
  let p := partOf (cloveX k) (cloveY k)
  let j := o.sq.toNat
  let q := s.queue p j
  let a := o.addr.toNat
  if i.mark then some (s.refuse k 3 .markedControl v) else
  match o.sub.toNat with
  | 0 =>
    let s := s.touchN k a 4
    let c := s.clove k
    if (c.getWords a 4).any (·.2) then some (s.refuse k 3 .markedControl v) else
    if FabricOp.badWord i.word || badContext (c.descAt a) then some (s.refuse k 3 .fabEncoding v) else
    if !q.posted.isEmpty then none else
    some (s.modQueue p j (fun _ => { Queue.none with ctx := some (c.descAt a) }))
  | 1 =>
    let s := s.touchN k a 4
    let c := s.clove k
    if (c.getWords a 4).any (·.2) then some (s.refuse k 3 .markedControl v) else
    if FabricOp.badWord i.word || badTransfer (c.descAt a) then some (s.refuse k 3 .fabEncoding v) else
    if q.ctx.isNone then some (s.refuse k 3 .sqUnset v) else
    let t := Transfer.ofBits 0 (c.descAt a) (some k)
    if !s.transferFits p t then some (s.refuse k 3 .sqRange v) else
    if q.posted.length ≥ 16 then none else some (s.post p j t)
  | 2 =>
    if FabricOp.badWord i.word then some (s.refuse k 3 .fabEncoding v) else
    some (s.modClove k (fun c =>
      { c with fences := c.fences ||| BitVec.ofNat 3 (2 ^ o.scope.toNat), fenceNo := no, fenceXfer := s.nextReq }))
  | _ =>
    if FabricOp.badWord i.word then some (s.refuse k 3 .fabEncoding v) else
    let b := o.bid.toNat
    let s := s.modClove k (fun c => { c with fenceNo := no, fenceXfer := s.nextReq })
    if o.arrive = 1 then
      some (s.modClove k (fun c => { c with fences := c.fences ||| 4, barr := some (b, o.bcount.toNat, o.wait == 1) }))
    else if o.wait = 1 then some (s.send (.arrive k p b 0 true))
    else some s

/-! ### Fences and barriers (R234, R236, R240) -/

/-- The condition of the clove's pending fences holds: for FENCE.ALL, every local write of an earlier instruction, one
that still waits at issue among them, has been released to its scoreboard (R234). -/
def State.fenceMet (s : State) (k : Nat) : Bool :=
  let c := s.clove k
  let rem := c.unacked == 0 && c.reads == 0
  let sto := !s.storesPosted k
  (!c.fences.getLsbD 0 || rem) && (!c.fences.getLsbD 1 || sto) &&
    (!c.fences.getLsbD 2 || (rem && sto && !c.sb.any (fun e => decide (e.owner < c.fenceNo)) && !s.writesAhead c.fenceNo k))

/-- Pending fences whose condition holds are released; a barrier's arrival is then sent (R234, R236). -/
def State.releaseFence (s : State) (k : Nat) : State :=
  let c := s.clove k
  if c.fences = 0 || !s.fenceMet k then s else
  let s := s.setClove k { c with fences := 0, barr := none }
  match c.barr with
  | some (b, n, w) => s.send (.arrive k (partOf (cloveX k) (cloveY k)) b n w)
  | none => s

/-- A barrier of a partition. -/
def State.barrier (s : State) (p b : Nat) : Barrier := (s.part p).barriers.atD b Barrier.zero
/-- The state with a barrier set. -/
def State.setBarrier (s : State) (p b : Nat) (v : Barrier) : State :=
  s.modPart p (fun q => { q with barriers := q.barriers.put b v })

/-- The waiters of a phase are released. -/
def State.releaseWaiters (s : State) (p b phase : Nat) : State :=
  { s with cloves := s.cloves.map (fun e =>
    if partOf (cloveX e.1) (cloveY e.1) == p && e.2.bwait == some (b, phase) then
      (e.1, { e.2 with bwait := none }) else e) }

/-- An arrival with its BCOUNT, or with BCOUNT 0 a wait alone, of clove k at its hub (R236). -/
def State.countArrival (s : State) (p b k n : Nat) (w : Bool) : State :=
  let v := s.barrier p b
  let hold (u : State) : State := if w then u.modClove k (fun c => { c with bwait := some (b, v.phase) }) else u
  if n = 0 then hold s else
  if v.bcount.isSome && v.bcount ≠ some n then
    hold (s.cloveEvent .barrierCount (cloveX k) (cloveY k) 3 0)
  else if v.count + 1 ≥ n then
    (s.setBarrier p b ⟨0, none, v.phase + 1⟩).releaseWaiters p b v.phase
  else hold (s.setBarrier p b ⟨v.count + 1, some n, v.phase⟩)

/-- The messages to a barrier that are the oldest of the listed cloves, as clove, BCOUNT and wait, and the state without
them. -/
def State.takeArrivals (s : State) (p b : Nat) (srcs : List Nat) : List (Nat × Nat × Bool) × State :=
  srcs.foldl (fun a k =>
    match a.2.takeMsg (fun m => match m with
      | .arrive q r c _ _ => q == k && r == p && c == b
      | _ => false) with
    | some (.arrive _ _ _ n w, t) => (a.1 ++ [(k, n, w)], t)
    | _ => a) ([], s)

/-- The arrivals and waits of the listed cloves reach a barrier's hub in one step: a wait is for the phase that is current
then, even where it ends in that step, and arrivals count by logical y, then x (R236, R240). -/
def State.arriveBarrier (s : State) (p b : Nat) (srcs : List Nat) : State :=
  let r := s.takeArrivals p b (sortBy (fun m n => decide (m ≤ n)) srcs.dedup)
  let s := (r.1.filter (fun q => q.2.1 == 0)).foldl (fun s q => s.countArrival p b q.1 0 q.2.2) r.2
  (r.1.filter (fun q => q.2.1 != 0)).foldl (fun s q => s.countArrival p b q.1 q.2.1 q.2.2) s

/-- The clove waits at a barrier, or its wait is on the way to the hub (R236). -/
def State.atBarrier (s : State) (k : Nat) : Bool :=
  (s.clove k).bwait.isSome || s.msgs.any (fun m => match m with
    | .arrive q _ _ _ w => q == k && w
    | _ => false)

/-! ### Requests (R227 to R229) -/

/-- Requests of a queue issued and not completed. -/
def State.outstanding (s : State) (p j : Nat) : List Req := s.allReqs.filter (fun r => r.part == p && r.queue == j)

/-- SLOTW of the slots that a queue's transfers use at one clove. -/
def State.slotwAt (s : State) (q : Queue) (store : Bool) (rgn k : Nat) : Nat :=
  if store then ((s.clove k).region rgn).slotw else q.slotw.getD 0

/-- Bytes of the next request of a transfer: within one row, one 4 KiB unit and one slot (R228). -/
def Transfer.nextLen (t : Transfer) (slotw : Nat) : Nat :=
  let o := t.issued % Max.max t.rowBytes 1
  let a := (t.rowAt (t.issued / Max.max t.rowBytes 1) + o).toNat
  Min.min (Min.min (t.rowBytes - o) (4096 - a % 4096)) (8 * (slotw - t.inSlot))

/-- The address of the next request. -/
def Transfer.nextAddr (t : Transfer) : Nat :=
  (t.rowAt (t.issued / Max.max t.rowBytes 1) + (t.issued % Max.max t.rowBytes 1 : Nat)).toNat

/-- The transfer after n bytes more have been requested in slots of slotw words. -/
def Transfer.advance (t : Transfer) (slotw n : Nat) : Transfer :=
  let w := t.inSlot + n / 8
  let full := decide (w ≥ slotw) || decide (t.issued + n ≥ t.total)
  { t with issued := t.issued + n, inSlot := if full then 0 else w, piece := if full then t.piece + 1 else t.piece }

/-- The oldest slot of a binding that its clove has not released. -/
def State.oldest (s : State) (k : Nat) (b : QBind) : Nat := b.landed - ((s.clove k).region b.rgn).fill

/-- Words delivered in slots ahead of slot n of a clove and not released, the A of R229. -/
def State.ahead (s : State) (k : Nat) (b : QBind) (n : Nat) : Nat :=
  ((b.got.filter (fun e => decide (s.oldest k b ≤ e.1) && decide (e.1 < n))).map (·.2)).sum

/-- A request handed to its stack's controller, or to the slower tier (R257, R260). -/
def State.enqueue (s : State) (r : Req) : State :=
  match r.tier with
  | some _ => { s with inflight := s.inflight ++ [r] }
  | none => s.modStack (r.addr / stackSpan) (fun k => { k with reqs := k.reqs ++ [r] })

/-- The body of TIER_RD or TIER_WR: appliance address, length, tag, and the data of a store (Table 13.3). -/
def tierBody (a n tag : Nat) (ws : List (W64 × Bool)) : List Byte :=
  leBytes 8 a ++ leBytes 4 n ++ leBytes 4 tag ++ ws.flatMap (fun w => leBytes 8 w.1.toNat)

/-- The marks of a tier body: its two header words carry none (R350, R361). -/
def tierMarks (ws : List (W64 × Bool)) : List Bool := false :: false :: ws.map (·.2)

/-- A tier access by partition p sent on its attach, or as a message to its appliance, at its place in the arbitration
(R260, R361). -/
def State.tierSend (s : State) (p kind node addr len tag rank : Nat) (store : Bool) (data : List (W64 × Bool)) : State :=
  if kind = 3 then
    (s.sendMsg p node 0 (if store then 0x42 else 0x40) (tierBody addr len tag data) (if store then tierMarks data else [])).2
  else s.hostWrite p (.tier (kind == 2) addr len tag rank store data)

/-- The setting under which a transfer accesses an address of the slower tier, with its entry; none for HBM (R257,
R259). -/
def Transfer.tierAt (t : Transfer) (a : Nat) : Option (Nat × Nat × Nat × Nat) :=
  (tierOf a).bind (fun n => (t.tset.at? n).map (fun q => (n, q)))

/-- A request's place in the arbitration of its attach or port: its deadline, then its queue's number (R229, R260). -/
def Req.rank (r : Req) : Nat := r.deadline * 4096 + (128 * r.part + r.queue)

/-- The tier access of a queue's request, if its address is one of the slower tier. -/
def State.tierIssue (s : State) (r : Req) (t : Transfer) (data : List (W64 × Bool)) : Req × State :=
  match t.tierAt r.addr with
  | some (n, kind, node, base) =>
    let off := r.addr - tierBase n
    let tag := s.host.nextTag
    let posted := r.store && kind ≠ 3
    let s := { s with
      host := { s.host with nextTag := tag + 1 }
      net := { s.net with tiers :=
        if posted then s.net.tiers
        else s.net.tiers.put tag ⟨r.part, r.queue, r.id, n, kind, node, r.rank, off, r.len, r.store⟩ } }
    ({ r with tier := some tag, data := data }, s.tierSend r.part kind node (base + off) r.len tag r.rank r.store data)
  | none => (r, s)

/-- A transfer of a queue replaced, found by its number. -/
def State.putTransfer (s : State) (p j : Nat) (t : Transfer) : State :=
  s.modQueue p j (fun q => { q with posted := q.posted.map (fun u => if u.no = t.no then t else u) })

/-- A binding at the next request of a transfer: the first into a slot opens it against a credit (R228). -/
def QBind.opens (b : QBind) (t : Transfer) : Bool := decide (t.inSlot = 0) || decide (b.slots = 0)

/-- The next load request of a transfer, if its slots hold their credits (R227, R228). -/
def State.issueLoad (s : State) (p j arrival : Nat) (ctx : BitVec 256) (t : Transfer) : State :=
  let q := s.queue p j
  let block := ctxBlock ctx p
  let mcast := ctx.getLsbD 1
  let k := block.getD (if mcast then 0 else t.piece % Max.max block.length 1) 0
  let dests := if mcast then block else [k]
  let bound := dests.all (fun d => match q.binds.at? d with
    | some b => decide (b.credits > 0) || !b.opens t
    | none => false)
  let sw := q.slotw.getD 0
  if !bound || sw = 0 then s else
  let n := t.nextLen sw
  let binds := dests.foldl (fun m d =>
    match m.at? d with
    | some b => if b.opens t then m.put d { b with credits := b.credits - 1, slots := b.slots + 1 } else m
    | none => m) q.binds
  let b := binds.atD k ⟨0, sw, 0, 0, 0, []⟩
  let slots : SMap Nat := dests.foldl (fun m d => match binds.at? d with
    | some b => m.put d (b.slots - 1)
    | none => m) []
  let rate := Max.max (bitField ctx.toNat 16 16) 1
  let slack := ceilDiv (s.ahead k b (b.slots - 1) * 65536) rate
  let a := t.nextAddr
  let r : Req := ⟨s.nextReq, t.no, p, j, false, a, n, t.issued, k, b.rgn, slots, t.inSlot, arrival + slack, arrival, [],
    false, none⟩
  let s := { s with nextReq := s.nextReq + 1 }.modQueue p j (fun q => { q with binds := binds })
  let s := s.putTransfer p j (t.advance sw n)
  let (r, s) := s.tierIssue r t []
  s.enqueue r

/-- Words taken from full slots of a store region, the slot released with its last word or at the end of
the transfer (R227). -/
def State.takeStore (s : State) (k rn n : Nat) (last : Bool) : List (W64 × Bool) × State :=
  let r := (s.clove k).region rn
  let a := r.tailBase 0 + r.rpos
  let s := s.touchN k a n
  let ws := (s.clove k).getWords a n
  if last || r.rpos + n ≥ r.slotw then (ws, s.putRegion k rn { r.release 1 with rpos := 0 } 1)
  else (ws, s.putRegion k rn { r with rpos := r.rpos + n } 0)

/-- The next store request of a transfer, if its source slot is full (R225, R227, R228). -/
def State.issueStore (s : State) (p j arrival : Nat) (ctx : BitVec 256) (t : Transfer) : State :=
  let block := ctxBlock ctx p
  let k := block.getD (t.piece % Max.max block.length 1) 0
  let rn := bitField ctx.toNat 80 3
  let r := (s.clove k).region rn
  if !r.set then
    if (s.queue p j).stuck == some k then s else
    (s.cloveEvent .regionUnset (cloveX k) (cloveY k) 15 0).modQueue p j (fun q => { q with stuck := some k })
  else if r.fill = 0 then s else
  let n := t.nextLen r.slotw
  let last := decide (t.issued + n ≥ t.total)
  let free := (r.slots - r.fill) * r.slotw - r.wpos
  let rate := Max.max (bitField ctx.toNat 16 16) 1
  let (ws, s) := s.takeStore k rn (n / 8) last
  let rq : Req := ⟨s.nextReq, t.no, p, j, true, t.nextAddr, n, t.issued, k, rn, [(k, t.piece)], t.inSlot,
    arrival + ceilDiv (free * 65536) rate, arrival, ws, false, none⟩
  let s := { s with nextReq := s.nextReq + 1 }.modQueue p j (fun q => { q with stuck := none })
  let s := s.putTransfer p j (t.advance r.slotw n)
  let set := t.tierAt rq.addr
  let (rq, s) := s.tierIssue rq t ws
  match set with
  | some (_, kind, _, _) =>
    if kind = 3 then s.enqueue rq
    else (s.modQueue p j (fun q => { q with posted := q.posted.map (fun u =>
      if u.no = t.no then { u with done := u.done + n } else u) }))
  | none => s.enqueue rq

/-- A queue issues its next request within MAXOUT, or waits (R228); arrival is the controller's step count
at its arrival (R229). -/
def State.issueReq (s : State) (p j arrival : Nat) : State :=
  let q := s.queue p j
  match q.ctx, q.posted.find? (fun t => decide (t.issued < t.total)) with
  | some ctx, some t =>
    if (s.outstanding p j).length ≥ bitField ctx.toNat 8 8 + 1 then s
    else if ctx.getLsbD 0 then s.issueStore p j arrival ctx t
    else s.issueLoad p j arrival ctx t
  | _, _ => s

/-- Bytes of a request counted as completed in its transfer. -/
def State.reqDone (s : State) (r : Req) : State :=
  s.modQueue r.part r.queue (fun q => { q with posted := q.posted.map (fun t =>
    if t.no = r.xfer then { t with done := t.done + r.len } else t) })

/-! ### Delivery (R227, R228) -/

/-- Slots of a queue at a clove become full in order, once all their words have landed and no more will be
requested into them (R228). -/
def State.fillLanded (s : State) (p j k : Nat) : Nat → State
  | 0 => s
  | f + 1 =>
    let q := s.queue p j
    match q.binds.at? k, q.ctx with
    | some b, some c =>
      let n := b.landed
      let block := ctxBlock c p
      let opened := n + 1 = b.slots && q.posted.any (fun t => decide (t.inSlot > 0) &&
        (c.getLsbD 1 || block.getD (t.piece % Max.max block.length 1) 0 == k))
      if n ≥ b.slots || opened || (s.outstanding p j).any (fun r => !r.store && r.slots.at? k == some n) then s else
      ((s.modClove k (fun v => v.setRegion b.rgn (v.region b.rgn).fillSlot)).modQueue p j
        (fun q => { q with binds := q.binds.put k { b with landed := n + 1 } })).fillLanded p j k f
    | _, _ => s

/-- The words of a request land in their slot at clove k, and slots fill in order; words for a clove whose binding has
gone are lost with its strip (R190, R227, R228). -/
def State.land (s : State) (p j : Nat) (r : Req) (k : Nat) : State :=
  match (s.queue p j).binds.at? k, r.slots.at? k with
  | some b, some n =>
    let rg := (s.clove k).region b.rgn
    let slot := (rg.head + (n - b.landed)) % Max.max rg.slots 1
    let got := SMap.put (b.got.filter (fun e => decide (s.oldest k b ≤ e.1))) n (b.got.atD n 0 + r.len / 8)
    let s := s.modClove k (fun c => c.putWords (rg.base + slot * rg.slotw + r.word) r.data)
    (s.modQueue p j (fun q => { q with binds := q.binds.put k { b with got := got } })).fillLanded p j k 256
  | _, _ => s

/-- The words of a served load request land in their slot, in every clove of the block for MCAST (R227, R228). -/
def State.deliver (s : State) (p j id : Nat) : State :=
  match s.inflight.find? (fun r => r.part == p && r.queue == j && r.id == id && r.served && !r.store) with
  | none => s
  | some r =>
    let ks := s.reqCloves r
    let s := { s with inflight := s.inflight.filter (fun u => u.id ≠ id) }
    ks.foldl (fun s k => s.land p j r k) (s.reqDone r)

end Sys2Proof.Machine
end

