-- ==== Sys2Proof/Machine/LoopProg.lean ====
section
/-! DEFINITION. Loop programs (R194 to R210): their layout, encoding and resource checks, the geometry of
tiles and visits, and LOOP at issue. -/
namespace Sys2Proof.Machine

/-! ### Layout (R198, R199) -/

/-- n bytes of a program from an offset, as a number. -/
abbrev progAt (p : List Byte) (off n : Nat) : Nat := leAt p off n

/-- NLEV. -/
def nlev (p : List Byte) : Nat := progAt p 0 1
/-- NOPS. -/
def nops (p : List Byte) : Nat := progAt p 1 1
/-- NBODY. -/
def nbody (p : List Byte) : Nat := progAt p 2 1
/-- FUSED. -/
def fused (p : List Byte) : Bool := progAt p 3 1 % 2 == 1
/-- FLEVEL. -/
def flevel (p : List Byte) : Nat := progAt p 4 1
/-- NBX. -/
def nbx (p : List Byte) : Nat := progAt p 5 1
/-- NBY. -/
def nby (p : List Byte) : Nat := progAt p 6 1
/-- NNB. -/
def nnb (p : List Byte) : Nat := progAt p 8 2
/-- Bytes of a program with the given level and body counts. -/
def progBytes (nl nb : Nat) : Nat := 224 + 88 * nl + 24 * nb

/-- Offset of operand entry o (Table 7.4). -/
def opOff (o : Nat) : Nat := 32 + 24 * o
/-- Offset of level entry l (R199). -/
def levOff (l : Nat) : Nat := 224 + 88 * l
/-- Offset of body entry b. -/
def bodyOff (p : List Byte) (b : Nat) : Nat := 224 + 88 * nlev p + 24 * b

/-- ROLE of an operand. -/
def opRole (p : List Byte) (o : Nat) : Nat := progAt p (opOff o) 1
/-- FMT of an operand. -/
def opFmt (p : List Byte) (o : Nat) : Nat := progAt p (opOff o + 1) 1
/-- SQ of an operand. -/
def opSq (p : List Byte) (o : Nat) : Nat := progAt p (opOff o + 3) 1

/-- BOUND of a level in dimension d: 0 M, 1 N, 2 K. -/
def bound (p : List Byte) (l d : Nat) : Nat := progAt p (levOff l + 4 * d) 4
/-- MASKRULE of a level in a dimension. -/
def maskRule (p : List Byte) (l d : Nat) : Nat := bitField (progAt p (levOff l + 14) 1) (2 * d) 2
/-- LFLAGS of a level. -/
def lflags (p : List Byte) (l : Nat) : Nat := progAt p (levOff l + 15) 1
/-- DISPATCH at L3. -/
def dispatched (p : List Byte) : Bool := nlev p > 3 && lflags p 3 % 2 == 1
/-- CAUSAL of a level. -/
def causal (p : List Byte) (l : Nat) : Bool := bitField (lflags p l) 1 1 == 1
/-- SKEW of the fusion level. -/
def skewed (p : List Byte) : Bool := bitField (lflags p (flevel p)) 2 1 == 1
/-- DCTR. -/
def dctr (p : List Byte) : Nat := progAt p (levOff 3 + 18) 1

/-- The stride of operand o at level l for its first (0) or second (1) role dimension. -/
def stride (p : List Byte) (l o h : Nat) : Int := signedOf 32 (progAt p (levOff l + 20 + 8 * o + 4 * h) 4)

/-! ### Geometry (R200 to R203) -/

/-- Iterations of level l in dimension d (R200); a reduction of 0 runs one pass. -/
def iters (p : List Byte) (l d : Nat) : Nat :=
  if d = 2 && bound p l 2 == 0 then 1 else ceilDiv (bound p l d) (Max.max (bound p (l - 1) d) 1)

/-- The index of a visit in a dimension. -/
def Visit.idx (v : Visit) (d : Nat) : Nat := match d with
  | 0 => v.m
  | 1 => v.n
  | _ => v.k

/-- The start of the tile at level l in a dimension, from the visits above it, lowest first. -/
def tileStart (p : List Byte) : Nat → List Visit → Nat → Nat
  | _, [], _ => 0
  | l, v :: vs, d => tileStart p (l + 1) vs d + v.idx d * bound p l d

/-- The extent of the tile at level l in a dimension: cut down where an iteration above is ragged or
passes SEQLEN at L5 (R202). -/
def tileExtent (p : List Byte) (seqlen : Nat) : Nat → List Visit → Nat → Nat
  | l, [], d => if l = 5 ∧ d = 0 then Min.min (bound p 5 0) seqlen else bound p l d
  | l, v :: vs, d => Min.min (bound p l d) (tileExtent p seqlen (l + 1) vs d - v.idx d * bound p l d)

/-- The dimensions of ORDER, outermost first (Table 7.5). -/
def orderDims (o : Nat) : List Nat :=
  match o with
  | 0 => [0, 1, 2]
  | 1 => [0, 2, 1]
  | 2 => [1, 0, 2]
  | 3 => [1, 2, 0]
  | 4 => [2, 0, 1]
  | _ => [2, 1, 0]

/-- Every index tuple of nested loops, outermost first; serpentine loops count down when the sum of the
indices outside is odd (R201). -/
def nestLoops (serp : Bool) : Nat → List Nat → List (List Nat)
  | _, [] => [[]]
  | sum, n :: ns =>
    let up := List.range n
    (if serp && sum % 2 == 1 then up.reverse else up).flatMap (fun i =>
      (nestLoops serp (sum + i) ns).map (fun t => i :: t))

/-- The iterations of a level in visiting order as (m, n, k), before any is left out (R201). -/
def visitOrder (p : List Byte) (otabs : SMap (List Nat)) (l : Nat) : List (Nat × Nat × Nat) :=
  let ds := orderDims (progAt p (levOff l + 12) 1)
  let at_ (t : List Nat) (d : Nat) : Nat := t.getD (ds.idxOf d) 0
  let lin := (nestLoops (progAt p (levOff l + 13) 1 == 1) 0 (ds.map (iters p l))).map (fun t =>
    (at_ t 0, at_ t 1, at_ t 2))
  if progAt p (levOff l + 13) 1 = 2 then (otabs.atD l []).filterMap (fun i => lin[i]?) else lin

/-- A LOOP word's SEQLEN, POS0, NBIDX and NBNUM. -/
def LoopRun.op (r : LoopRun) : LoopOp := LoopOp.ofWord r.word

/-- An iteration of level l runs: it is not a SKIPped ragged one, its tile is not empty, and it does not
lie wholly after its queries (R202, R203). -/
def LoopRun.runs (r : LoopRun) (l : Nat) (ctx : List Visit) (t : Nat × Nat × Nat) : Bool :=
  let p := r.prog
  let v : Visit := ⟨t.1, t.2.1, t.2.2, false, false, false, false⟩
  let sl := r.op.seqlen.toNat
  let skip (d : Nat) := maskRule p l d == 2 && decide ((v.idx d + 1) * bound p (l - 1) d > bound p l d)
  let ext (d : Nat) := tileExtent p sl (l - 1) (v :: ctx) d
  let start (d : Nat) := tileStart p (l - 1) (v :: ctx) d
  !(skip 0 || skip 1 || skip 2) && ext 0 ≠ 0 && ext 1 ≠ 0 && (ext 2 ≠ 0 || bound p l 2 == 0) &&
    !(causal p l && decide (start 1 > r.op.pos0.toNat + start 0 + ext 0 - 1))

/-- The iterations of a level that this gang runs, in order, with their classes (R194, R205, R211). -/
def LoopRun.visits (r : LoopRun) (l : Nat) (ctx : List Visit) : List Visit :=
  let p := r.prog
  let nb := nbx p * nby p
  let all := visitOrder p r.otabs l
  let mine := ((List.range all.length).zip all).filter (fun q =>
    (if l = 2 then q.1 % nb == r.op.nbidx.toNat
     else if l = 3 && !dispatched p then q.1 % nnb p == r.op.nbnum.toNat else true) && r.runs l ctx q.2)
  let ts := mine.map (·.2)
  ts.map (fun t =>
    let ks := (ts.filter (fun u => u.1 == t.1 && u.2.1 == t.2.1)).map (·.2.2)
    let ns := ((ts.filter (fun u => u.1 == t.1)).map (·.2.1)).dedup
    ⟨t.1, t.2.1, t.2.2, ks.head? == some t.2.2, ks.getLast? == some t.2.2,
     ns.head? == some t.2.1, ns.getLast? == some t.2.1⟩)

/-! ### Checks at issue (R201, R207 to R209) -/

/-- A format code that an operand entry may carry. -/
def opFmtOk (f : Nat) : Bool := isOperandFmt f || f == 15

/-- The bytes from off, n of them, are zero. -/
def zeroAt (p : List Byte) (off n : Nat) : Bool := ((p.drop off).take n).all (· == 0)

/-- The header is legal (Table 7.3); GANG is checked against the arrays that the program names. -/
def headerOk (p : List Byte) : Bool :=
  decide (1 ≤ nops p) && decide (nops p ≤ 8) && decide (1 ≤ nbody p) && decide (nbody p ≤ 16) &&
    decide (progAt p 3 1 ≤ 1) &&
    (if fused p then decide (1 ≤ flevel p) && decide (flevel p ≤ 5) && decide (flevel p < nlev p) else flevel p == 0) &&
    decide (1 ≤ nbx p) && decide (nbx p ≤ 16) && decide (1 ≤ nby p) && decide (nby p ≤ 16) &&
    decide (1 ≤ nnb p) && decide (nnb p ≤ 33792) &&
    [10, 12, 14].all (fun o => decide (1 ≤ progAt p o 2) && decide (progAt p o 2 ≤ 4096)) && zeroAt p 16 16

/-- Operand entry o is legal (Table 7.4). -/
def operandOk (p : List Byte) (o : Nat) : Bool :=
  let b := opOff o
  decide (opRole p o ≤ 4) && opFmtOk (opFmt p o) && decide (progAt p (b + 2) 1 ≤ 5) &&
    (decide (opSq p o ≤ 127) || opSq p o == 255) && decide (progAt p (b + 4) 2 < 4096) &&
    decide (progAt p (b + 6) 2 ≤ 4096) && zeroAt p (b + 9) 3

/-- Level entry l is legal and fits the level below it (Table 7.5, R200, R202). -/
def levelOk (p : List Byte) (l : Nat) : Bool :=
  let b := levOff l
  let lf := lflags p l
  let mr := progAt p (b + 14) 1
  decide (progAt p (b + 12) 1 ≤ 5) && decide (progAt p (b + 13) 1 ≤ 2) && decide (mr < 64) &&
    [0, 1, 2].all (fun d => maskRule p l d ≠ 3) && decide (lf < 8) && (lf % 2 == 0 || l == 3) &&
    (bitField lf 2 1 == 0 || (fused p && l == flevel p)) &&
    (progAt p (b + 13) 1 ≠ 2 || decide (progAt p (b + 16) 2 < 4096)) &&
    (lf % 2 == 0 || decide (progAt p (b + 18) 1 ≤ 47)) && zeroAt p (b + 19) 1 && zeroAt p (b + 84) 4 &&
    (l == 0 || [0, 1, 2].all (fun d =>
      decide (bound p (l - 1) d ≤ bound p l d) && (bound p (l - 1) d ≠ 0 || bound p l d == 0) &&
      (maskRule p l d ≠ 0 || bound p l d % Max.max (bound p (l - 1) d) 1 == 0)))

/-- The L1 tile is on the menu of Table 7.7, scaled by the gang side (R207). -/
def menuOk (p : List Byte) (side : Nat) : Bool :=
  nlev p < 2 || [(128, 128), (64, 256), (256, 64), (32, 512), (512, 32), (16, 1024)].any (fun t =>
    bound p 1 2 == t.1 * side / 8 && bound p 1 1 == t.2 * side / 8)

/-- The template of body entry b. -/
def template (p : List Byte) (b : Nat) : W128 := BitVec.ofNat 128 (progAt p (bodyOff p b) 16)
/-- The binding word of body entry b. -/
def binding (p : List Byte) (b : Nat) : Nat := progAt p (bodyOff p b + 16) 4

/-- The templates of a program's body, with their phases. -/
def bodies (p : List Byte) : List (W128 × Nat) :=
  (List.range (nbody p)).map (fun b => (template p b, bitField (binding p b) 5 2))

/-- The arrays that a program's array instructions name. -/
def progArrays (p : List Byte) : List Bool :=
  [false, true].filter (fun b => (bodies p).any (fun t =>
    decide (1 ≤ fieldOf t.1 3 0) && decide (fieldOf t.1 3 0 ≤ 4) && bitOf t.1 4 == b))

/-- Some STREAM of the program runs output-stationary (true), or in another mode (false). -/
def streamsOs (p : List Byte) (os : Bool) : Bool :=
  (bodies p).any (fun t => fieldOf t.1 3 0 == 4 && ((StreamOp.ofWord t.1).mode == 2) == os)

/-- The passes of an array in a phase run on the transposed axis. -/
def transposedIn (p : List Byte) (arr : Bool) (ph : Nat) : Bool :=
  (bodies p).any (fun t => fieldOf t.1 3 0 == 4 && bitOf t.1 4 == arr && t.2 == ph && (StreamOp.ofWord t.1).axis == 1)

/-- A phase-1 template is an SFU, RGN or REMOTE instruction that names cloves of the gang only (Table
7.8). -/
def phase1Ok (w : W128) (g : Gang) (k : Nat) : Bool :=
  let p := partOf (cloveX k) (cloveY k)
  let op := fieldOf w 3 0
  if op = 5 then
    let o := RgnOp.ofWord w
    !(o.sub == 0 && o.cred == 1 && o.pkind == 0) || g.members.contains (o.producer k)
  else if op = 6 then
    let o := RemoteOp.ofWord w
    decide (o.sub.toNat ≥ 2) || g.members.contains (partClove p o.rx.toNat o.ry.toNat)
  else op ≥ 8 && op ≤ 14

/-- Body entry b is legal (Table 7.6). -/
def bodyOk (p : List Byte) (g : Gang) (k b : Nat) : Bool :=
  let w := template p b
  let d := binding p b
  let op := fieldOf w 3 0
  let ph := bitField d 5 2
  ((op ≥ 1 && op ≤ 6) || (op ≥ 8 && op ≤ 14)) && ph ≠ 3 &&
    (bitField d 20 1 == 0 || decide (bitField d 10 4 ≤ 4)) &&
    (bitField d 21 1 == 0 || decide (bitField d 16 4 ≤ 4)) &&
    (bitField d 22 1 == 0 || decide (bitField d 23 3 ≥ 1)) &&
    decide (bitField d 29 3 ≤ 5) && zeroAt p (bodyOff p b + 20) 4 &&
    (!(fused p && ph == 1) || phase1Ok w g k)

/-- The order table of a level, from scratchpad words: 16-bit entries (R201). -/
def orderTable (c : Clove) (a n : Nat) : List Nat :=
  (List.range n).map (fun i => bitField (c.get (a + i / 4)).1.toNat (16 * (i % 4)) 16)

/-- A table lists every number below n exactly once. -/
def isOrder (n : Nat) (t : List Nat) : Bool := (List.range n).all (fun i => t.count i == 1) && t.length == n

/-- Words of n vectors of 16 elements in their groups (R106). -/
def vecsWords (os : Bool) (f n : Nat) : Nat := ceilDiv n (groupVecs os f) * groupWords os f

/-- The share of an operand in one member clove for one pass (R208). Both operands of an output-stationary pass are
streamed along K (Table 4.2); a program that runs passes of both kinds is charged for the larger share. -/
def share (p : List Byte) (o : Nat) : Nat :=
  let f := opFmt p o
  let os := if streamsOs p true then vecsWords true f (bound p 0 2) else 0
  let ws (n : Nat) := if streamsOs p true && !streamsOs p false then 0 else n
  match opRole p o with
  | 0 => Max.max os (ws (vecsWords false f (bound p 0 0)))
  | 1 => Max.max os (ws (tileWords f))
  | _ => vecsWords false f (bound p 0 0)

/-- F(l) of R208 over the first n operands. -/
def footprintOf (p : List Byte) (l n : Nat) : Nat :=
  (List.range n).foldl (fun a o =>
    let hold := Min.min (progAt p (opOff o + 2) 1) 3
    if hold ≤ l then a + share p o * progAt p (opOff o + 8) 1 else a) 0

/-- F(l) of R208. -/
def footprint (p : List Byte) (l : Nat) : Nat := footprintOf p l (nops p)

/-- CAP(l). -/
def cap (p : List Byte) (l : Nat) : Nat := progAt p (8 + 2 * l) 2

/-- The L0 tile exceeds the gang's logical array: K × N, or M × N of an output-stationary pass, whose reduction is
streamed (R206). -/
def tooLarge (p : List Byte) (g : Gang) : Bool :=
  decide (bound p 0 1 > g.cols) ||
    ((!streamsOs p true || streamsOs p false) && decide (bound p 0 2 > g.rows)) ||
    (streamsOs p true && decide (bound p 0 0 > g.rows))

/-- What a TILE_OVERFLOW names: the level, the operand (15: none), the footprint and the capacity (R209). -/
structure Overflow where
  level : Nat
  operand : Nat
  size : Nat
  cap : Nat
  deriving DecidableEq, Repr

/-- The first level from L0 to L3 that overflows (R208). The operand is the first, in the program's order, whose share
takes the sum past CAP (DEDUCED, entry 112). -/
def overflow (p : List Byte) (g : Gang) : Option Overflow :=
  if tooLarge p g then some ⟨0, 15, bound p 0 2 * bound p 0 1, g.rows * g.cols⟩ else
  ([1, 2, 3].find? (fun l => decide (l < nlev p) && decide (footprint p l > cap p l))).map (fun l =>
    ⟨l, ((List.range (nops p)).find? (fun o => decide (footprintOf p l (o + 1) > cap p l))).getD 15, footprint p l, cap p l⟩)

/-- The value of a TILE_OVERFLOW record: footprint in [19:0], operand (15: none) in [23:20], level in
[27:24] (R209). -/
def Overflow.value (v : Overflow) : Nat := Min.min v.size 0xFFFFF + v.operand % 16 * 2 ^ 20 + v.level * 2 ^ 24

/-- TILE_OVERFLOW in clove k: the loop engine halts, and the event names level, operand, footprint and capacity (R209). -/
def State.refuseTile (s : State) (k : Nat) (v : Overflow) : State :=
  (s.cloveEventOn .tileOverflow (cloveX k) (cloveY k) 4 v.value [v.level, v.operand, v.size, v.cap]).modClove k
    (fun c => c.halt 4)

/-! ### Dispatch counters (R211, Table 7.11) -/

/-- The field of a partition whose hub holds counter n. -/
def ctrField (part n : Nat) : Nat := part / 4 * 12 + part % 4 * 3 + n / 16
/-- The counter is armed. -/
def State.armed (s : State) (part n : Nat) : Bool := s.flag .fldDspStat (ctrField part n) 0 (16 + n % 16)

/-- A dispatch counter of a partition beyond its register. -/
def State.counter (s : State) (p n : Nat) : Counter := (s.part p).counters.atD n Counter.zero
/-- The counter is armed for the command under way (R209). -/
def State.armedNow (s : State) (part n : Nat) : Bool := s.armed part n && (s.counter part n).cur

/-! ### LOOP at issue (R196, R197, R209) -/

/-- A program read from n words at word address a. -/
def Clove.bytesAt (c : Clove) (a n : Nat) : List Byte := ((c.getWords a n)).flatMap (fun w => leBytes 8 w.1.toNat)

/-- A loop that still generates. -/
def Clove.looping (c : Clove) : Bool := match c.loop with
  | some r => !r.done
  | none => false

/-- The loop of clove k has not issued its last instruction: it generates, or an instruction of its waits at issue
(R197). -/
def State.looping (s : State) (k : Nat) : Bool :=
  (s.clove k).looping || s.cloves.any (fun e => e.2.waiting.any (fun w =>
    (match w.gen with
     | some g => g.1 == k
     | none => false) && e.2.willIssue w))

/-- The setting of an array of clove k is the one that a program's GANG names, with its origin there (R198). -/
def State.gangIs (s : State) (k : Nat) (p : List Byte) (b : Bool) : Bool :=
  let g := s.gangOf k b
  g.origin == k && progAt p 7 1 == g.shape + 4 * g.form

/-- The arrays of clove k on which a program runs: those that it names; where it names none, one that is set as its GANG
says. -/
def State.loopArrays (s : State) (k : Nat) (p : List Byte) : List Bool :=
  if (progArrays p).isEmpty then (if s.gangIs k p false then [false] else [true]) else progArrays p

/-- The gang that a program runs on at clove k. -/
def State.loopGang (s : State) (k : Nat) (p : List Byte) : Gang := s.gangOf k ((s.loopArrays k p).headD false)

/-- The first items of a loop (R200). -/
def LoopRun.begin (p : List Byte) : List LItem :=
  let t := nlev p - 1
  if bound p t 0 = 0 ∨ bound p t 1 = 0 then [] else [.level t [] 3]

/-- LOOP at issue; none while it waits. -/
def State.tryLoop (s : State) (k : Nat) (i : Issue) : Option State :=
  let o := LoopOp.ofWord i.word
  let a := o.daddr.toNat
  if i.mark then some (s.refuse k 4 .markedControl 0) else
  let c := s.clove k
  if s.looping k then none else
  let head := c.bytesAt a 1
  let n := ceilDiv (progBytes (Min.min (nlev head) 6) (Min.min (nbody head) 16)) 8
  if c.busyRange a n then none else
  let s := s.touchN k a n
  let c := s.clove k
  let p := c.bytesAt a n
  let g := s.loopGang k p
  let tabs := (List.range (nlev p)).filter (fun l => decide (l ≥ 1) && progAt p (levOff l + 13) 1 == 2)
  let size (l : Nat) := iters p l 0 * iters p l 1 * iters p l 2
  let tabAt (l : Nat) := progAt p (levOff l + 16) 2
  let tabLen (l : Nat) := ceilDiv (Min.min (size l) 256) 4
  if tabs.any (fun l => c.busyRange (tabAt l) (tabLen l)) then none else
  let s := tabs.foldl (fun s l => s.touchN k (tabAt l) (tabLen l)) s
  let c := s.clove k
  if (c.getWords a n).any (·.2) || tabs.any (fun l => (c.getWords (tabAt l) (tabLen l)).any (·.2)) then
    some (s.refuse k 4 .markedControl 0) else
  let bad := decide (i.word &&& LoopOp.reserved ≠ 0) || a % 16 ≠ 0 || nlev p == 0 || decide (nlev p > 6) ||
    !headerOk p || !(s.loopArrays k p).all (s.gangIs k p) ||
    !(List.range (nops p)).all (operandOk p) || !(List.range (nlev p)).all (levelOk p) ||
    !menuOk p g.side || !(List.range (nbody p)).all (bodyOk p g k) ||
    decide (o.nbidx.toNat ≥ nbx p * nby p) || decide (o.nbnum.toNat ≥ nnb p)
  if bad then some (s.refuse k 4 .loopEncoding 0) else
  let otabs : SMap (List Nat) := tabs.map (fun l => (l, orderTable c (tabAt l) (size l)))
  if tabs.any (fun l => decide (size l > 256) || !isOrder (size l) (otabs.atD l [])) then
    some (s.refuse k 4 .orderTable 0) else
  if nlev p = 6 && decide (o.seqlen.toNat > bound p 5 0) then some (s.refuse k 4 .classRange 0) else
  match overflow p g with
  | some v => some (s.refuseTile k v)
  | none =>
    if dispatched p && !s.armedNow (partOf (cloveX k) (cloveY k)) (dctr p) then
      some (s.refuse k 4 .dispatchUnarmed 0) else
    let s := g.members.foldl (fun s m => s.modClove m (fun c =>
      { c with arrA := { c.arrA with seq := 0 }, arrB := { c.arrB with seq := 0 }, sfuSeq := 0 })) s
    some (s.modClove k (fun c => { c with
      loop := some ⟨i.word, p, otabs, [], LoopRun.begin p, 0, false, [], [], [], (LoopRun.begin p).isEmpty⟩ }))

end Sys2Proof.Machine
end

