-- ==== Sys2Proof/Machine/Issue.lean ====
section
/-! DEFINITION. The issue of clove instructions: engines, halts, fences and barriers that hold an
instruction, and the retry of what waits (R53, R79 to R81, R128, R181, R192, R223, R234, R236). -/
namespace Sys2Proof.Machine

/-- A fence or barrier of clove k holds instruction number no of an engine, which comes after it (R234, R236). -/
def State.fenced (s : State) (no k engine : Nat) : Bool :=
  let c := s.clove k
  decide (c.fenceNo < no) && (s.atBarrier k || c.fences.getLsbD 2 || (engine == 3 && c.fences ≠ 0))

/-- An instruction tried at issue: the state, and whether it has left the issue stage (true) or waits. -/
def State.try (s : State) (no k v : Nat) (i : Issue) : State × Bool :=
  let r : Option State :=
    match fieldOf i.word 3 0 with
    | 0 => some (s.refuse k (engineOf i.word) (if i.mark then .markedControl else .arrayEncoding) v)
    | 1 => s.tryGang k v i
    | 2 => s.tryLoad k v i
    | 3 => s.trySwap no k v i
    | 4 => s.tryStream no k v i
    | 6 => s.tryRemote no k v i
    | 7 => s.tryLoop k i
    | 15 => s.tryFabric no k v i
    | _ => s.trySfu no k v i
  if fieldOf i.word 3 0 = 5 then s.tryRgn no k v i else
  match r with
  | some t => (t, true)
  | none => (s, false)

/-- The loop whose generated instruction has just faulted stops generating (R209, R215). -/
def State.stopLoop (s : State) (k : Nat) : State :=
  s.modClove k (fun c => { c with loop := c.loop.map (fun r =>
    { r with done := true, todo := [], incomplete := if dispatched r.prog then r.incomplete ++ [r.l3] else r.incomplete }) })

/-- A waiting instruction of clove k may be tried: its engine is not halted, nothing earlier of its engine
waits, no fence holds it, and no earlier instruction anywhere that still waits holds it back (R58, R130, R175, R179). -/
def State.mayTry (s : State) (k : Nat) (w : Waiting) : Bool :=
  let c := s.clove k
  !c.halted w.engine && !s.fenced w.no k w.engine &&
    !c.waiting.any (fun u => u.engine == w.engine && decide (u.no < w.no)) && !s.heldBack w.no k w.op.word

/-- One try of a waiting instruction: it leaves the list when it has issued. -/
def State.retry (s : State) (k : Nat) (w : Waiting) : State × Bool :=
  if !s.mayTry k w then (s, false) else
  let v := (w.gen.map (·.2)).getD 0
  let t := s.modClove k (fun c => { c with waiting := c.waiting.filter (fun u => u.no ≠ w.no) })
  let r := t.try w.no k v w.op
  if !r.2 then (r.1.modClove k (fun c => { c with waiting := s.clove k |>.waiting }), false) else
  let t := r.1.progressed (partOf (cloveX k) (cloveY k))
  match w.gen with
  | some g => if (t.clove k).halted w.engine then (t.stopLoop g.1, true) else (t, true)
  | none => (t, true)

/-- Every waiting instruction, by clove, in order of issue number. -/
def State.allWaiting (s : State) : List (Nat × Waiting) :=
  sortBy (fun a b => decide (a.2.no ≤ b.2.no)) (s.cloves.flatMap (fun e => e.2.waiting.map (fun w => (e.1, w))))

/-- SFU steps that one call may take. -/
def sfuFuel : Nat := 1048576

/-- What waits is tried again, and SFU instructions go on, until nothing more can move. -/
def State.settleN (s : State) : Nat → State
  | 0 => s
  | f + 1 =>
    let s := s.cloves.foldl (fun s e => if e.2.sfu.isEmpty then s else s.sfuRun e.1 sfuFuel) s
    let r := s.allWaiting.foldl (fun a q =>
      let t := a.1.retry q.1 q.2
      (t.1, a.2 || t.2)) (s, false)
    if r.2 then r.1.settleN f else r.1

/-- The machine after what waits has been tried again. -/
def State.settle (s : State) : State := s.settleN (s.allWaiting.length + 1)

/-- An instruction reaches its issue stage and waits there, its upsets behind it; the caller settles. -/
def State.enter (s : State) (gen : Option (Nat × Nat)) (i : Issue) : State :=
  let k := cloveNo i.x i.y
  ({ s with issueNo := s.issueNo + 1 } : State).modClove k (fun c =>
    { c with waiting := c.waiting ++ [(⟨engineOf i.word, { i with ups := [] }, s.issueNo, gen⟩ : Waiting)] })

/-- A clove instruction from the clove's own sequencer (R79), after the upsets of scratchpad words (R185). -/
def State.issue (s : State) (i : Issue) : State := ((s.upset i.ups).enter none i).settle

end Sys2Proof.Machine
end

