-- ==== Sys2Proof/Machine/Loop.lean ====
section
/-! DEFINITION. The loop engine as it runs (R200 to R205, R208, R209, R211 to R215): the generation of
instructions, the posts of an L4 iteration, and dispatch. -/
namespace Sys2Proof.Machine

/-! ### What an item stands for (R200, R201, R211, R214) -/

/-- One K iteration of a unit, or every iteration, as items below a level; an L4 iteration first posts its
transfers, once (R204, R214). -/
def LoopRun.below (_r : LoopRun) (l : Nat) (ctx : List Visit) (ph : Nat) (v : Visit) : List LItem :=
  (if l = 4 ∧ ph ≠ 2 then [.chunk (v :: ctx)] else []) ++ [.level (l - 1) (v :: ctx) ph]

/-- The units of the fusion level: the visits that share one M and N iteration (R214). -/
def unitsOf (vs : List Visit) : List (List Visit) :=
  ((vs.map (fun v => (v.m, v.n))).dedup).map (fun u => vs.filter (fun v => v.m == u.1 && v.n == u.2))

/-- The visits of the levels below a level, as the row function of a unit sees them: it runs over the unit's first L0
tile and has no K iteration of its own (DEDUCED, entry 113). -/
def firstTile (l : Nat) : List Visit := List.replicate (l - 1) ⟨0, 0, 0, true, true, true, true⟩

/-- Phase ph of a unit. -/
def LoopRun.phase (r : LoopRun) (l : Nat) (ctx : List Visit) (ph : Nat) (u : List Visit) : List LItem :=
  if ph = 1 then (match u with
    | v :: _ => [.once (firstTile l ++ { v with k := 0 } :: ctx)]
    | [] => [])
  else u.flatMap (r.below l ctx ph)

/-- The units in issue order; with SKEW, phase 0 of unit u + 1 precedes phases 1 and 2 of unit u (R214). -/
def LoopRun.skewUnits (r : LoopRun) (l : Nat) (ctx : List Visit) : List (List Visit) → List LItem
  | [] => []
  | u :: us =>
    (match us with
     | n :: _ => r.phase l ctx 0 n
     | [] => []) ++ r.phase l ctx 1 u ++ r.phase l ctx 2 u ++ r.skewUnits l ctx us

/-- The items that a level's item stands for, none for an item that is worked on as it is. -/
def LoopRun.expandItem (r : LoopRun) (it : LItem) : Option (List LItem) :=
  match it with
  | .level 0 _ _ => none
  | .level l ctx ph =>
    if l = 3 ∧ dispatched r.prog then some [.fetch ctx ph] else
    let vs := r.visits l ctx
    if fused r.prog ∧ l = flevel r.prog ∧ ph = 3 then
      let us := unitsOf vs
      some (if skewed r.prog then
          (match us with
           | u :: _ => r.phase l ctx 0 u
           | [] => []) ++ r.skewUnits l ctx us
        else us.flatMap (fun u => r.phase l ctx 0 u ++ r.phase l ctx 1 u ++ r.phase l ctx 2 u))
    else some (vs.flatMap (r.below l ctx ph))
  | _ => none

/-- The loop with the items at its front expanded until one can be worked on. -/
def LoopRun.expand (r : LoopRun) : Nat → LoopRun
  | 0 => r
  | f + 1 =>
    match r.todo with
    | [] => { r with done := true }
    | it :: rest =>
      match r.expandItem it with
      | some is => ({ r with todo := is ++ rest } : LoopRun).expand f
      | none => r

/-- Expansions that one call may make. -/
def expandFuel : Nat := 65536

/-! ### The instructions of a body entry (R204, R205, Table 7.6) -/

/-- The two dimensions of a role (Table 7.4). -/
def roleDims (r : Nat) : Nat × Nat := if r = 0 then (0, 2) else if r = 1 then (2, 1) else (0, 1)

/-- off of R204 over the levels from lo to hi; the visits start with level 1 (firstTile fills them up for a unit). -/
def LoopRun.offset (r : LoopRun) (o lo hi : Nat) (ctx : List Visit) : Int :=
  let d := roleDims (opRole r.prog o)
  ((List.range ctx.length).zip ctx).foldl (fun a q =>
    let l := q.1 + 1
    if lo ≤ l ∧ l ≤ hi then
      a + q.2.idx d.1 * stride r.prog l o 0 + q.2.idx d.2 * stride r.prog l o 1 else a) 0

/-- A template field with an operand's offset added; a ring wraps at LLEN, and addresses wrap (R158, R204). -/
def LoopRun.bind (r : LoopRun) (o : Nat) (ctx : List Visit) (v : Nat) : Nat :=
  let lb : Int := progAt r.prog (opOff o + 4) 2
  let ll : Int := progAt r.prog (opOff o + 6) 2
  let off := r.offset o 1 3 ctx
  let x : Int := if ll = 0 then v + off else lb + ((v : Int) - lb + off) % ll
  (x % 4096).toNat

/-- A word with its field FLD bound to operand o (Table 7.6). -/
def LoopRun.bindField (r : LoopRun) (ctx : List Visit) (w : W128) (o fld : Nat) : W128 :=
  let at_ (lo : Nat) : W128 :=
    BitVec.ofNat 128 (setBitField w.toNat lo 12 (r.bind o ctx (bitField w.toNat lo 12)))
  let op := fieldOf w 3 0
  match fld with
  | 0 => if op = 2 then at_ 14 else w
  | 1 => if op = 2 then at_ 26 else w
  | 2 => if op = 6 then at_ 11 else w
  | 3 => if op = 6 then at_ 23 else w
  | 4 => if op = 14 then at_ 32 else w
  | _ => w

/-- The region fields of an opcode, by their low bit. -/
def regionFields (op : Nat) : List Nat :=
  if op = 3 then [27, 35] else if op = 4 then [21, 24, 27, 35] else if op = 5 then [8]
  else if op ≥ 8 ∧ op ≤ 13 then [8, 11, 14] else []

/-- The regions of a rotation turned by t; a field that names no region of the rotation stays (R204). -/
def rotate (w : W128) (base n t : Nat) : W128 :=
  (regionFields (fieldOf w 3 0)).foldl (fun w lo =>
    let r := bitField w.toNat lo 3
    if base ≤ r ∧ r ≤ base + n then
      BitVec.ofNat 128 (setBitField w.toNat lo 3 (base + (r - base + t) % (n + 1)))
    else w) w

/-- An iteration above the present tile straddles the diagonal (R203). -/
def LoopRun.straddles (r : LoopRun) (ctx : List Visit) : Bool :=
  let p := r.prog
  (List.range ctx.length).any (fun j =>
    let l := j + 1
    let c := ctx.drop j
    let m0 := tileStart p j c 0
    let n0 := tileStart p j c 1
    causal p l && decide (n0 + tileExtent p r.op.seqlen.toNat j c 1 - 1 > r.op.pos0.toNat + m0))

/-- The counts that LEN fills from the current L0 tile (R202, R203, Table 7.6). The rows of a LOAD are the K extent and
its columns the N extent; on the transposed axis they change roles (R206), and an output-stationary set has M rows
(DEDUCED, entry 114). -/
def LoopRun.fillLen (r : LoopRun) (ctx : List Visit) (ph : Nat) (w : W128) : W128 :=
  let p := r.prog
  let ext (d : Nat) := tileExtent p r.op.seqlen.toNat 0 ctx d
  let op := fieldOf w 3 0
  if op = 2 then
    let o := LoadOp.ofWord w
    let t := transposedIn p (bitOf w 4) ph
    let rows := if o.mode = 2 then ext 0 else if t then ext 1 else ext 2
    let cols := if t && o.mode ≠ 2 then ext 2 else ext 1
    LoadOp.toWord { o with klen := BitVec.ofNat 9 rows, nlen := BitVec.ofNat 11 cols } ||| (w &&& LoadOp.reserved)
  else if op = 4 then
    let o := StreamOp.ofWord w
    let n := if o.mode = 2 then ext 2 else ext 0
    let q : Int := r.op.pos0.toNat + tileStart p 0 ctx 0 - tileStart p 0 ctx 1
    let o := { o with count := BitVec.ofNat 32 n, eoff := BitVec.ofInt 32 q }
    let o := if r.straddles ctx then { o with emask := 1 } else o
    StreamOp.toWord o ||| (w &&& StreamOp.reserved)
  else if op ≥ 8 ∧ op ≤ 13 then
    BitVec.ofNat 128 (setBitField w.toNat 64 32 (ext 0))
  else w

/-- The instruction that body entry b gives at a tile. -/
def LoopRun.instr (r : LoopRun) (ctx : List Visit) (b : Nat) : W128 :=
  let w := template r.prog b
  let d := binding r.prog b
  let w := if bitField d 7 1 = 1 then r.fillLen ctx (bitField d 5 2) w else w
  let w := if bitField d 20 1 = 1 then r.bindField ctx w (bitField d 8 2) (bitField d 10 4) else w
  let w := if bitField d 21 1 = 1 then r.bindField ctx w (bitField d 14 2) (bitField d 16 4) else w
  if bitField d 22 1 = 1 then rotate w (bitField d 26 3) (bitField d 23 3) (r.issued.atD b 0) else w

/-- The class of an iteration as a bit of WHEN: 0 ONLY, 1 FIRST, 2 MID, 3 LAST (R205). -/
def classOf (first last : Bool) : Nat := if first && last then 0 else if first then 1 else if last then 3 else 2

/-- The class of a tile over WDIM; a phase-1 unit is its only K iteration (R205, R214). -/
def LoopRun.cls (r : LoopRun) (once : Bool) (ctx : List Visit) (wdim : Nat) : Nat :=
  let top := if fused r.prog then flevel r.prog else nlev r.prog - 1
  if wdim = 0 then
    if once then 0 else
    let vs := ctx.take top
    classOf (vs.all (·.kf)) (vs.all (·.kl))
  else
    match (if top = 0 then none else ctx[top - 1]?) with
    | some v => classOf v.nf v.nl
    | none => 0

/-- The member cloves that TARGET names (Table 7.6). -/
def Gang.target (g : Gang) (t : Nat) : List Nat :=
  let n := g.side
  match t with
  | 0 => [g.origin]
  | 1 => g.members
  | 2 => (List.range n).map (fun i => g.at i (n - 1))
  | 3 => (List.range n).map (fun i => g.at (n - 1) i)
  | 4 => (List.range n).map (fun i => g.at i 0)
  | _ => (List.range n).map (fun i => g.at 0 i)

/-- The index of the L3 iteration to which a tile belongs, 0 where the program has no such level (R215). -/
def LoopRun.l3Of (r : LoopRun) (ctx : List Visit) : Nat :=
  match ctx[2]? with
  | some v => (visitOrder r.prog r.otabs 3).idxOf (v.m, v.n, v.k)
  | none => 0

/-- Body entry b at a tile, sent to its target cloves when its phase and class match (R205). -/
def State.loopEntry (s : State) (k : Nat) (once : Bool) (ctx : List Visit) (ph b : Nat) : State :=
  match (s.clove k).loop with
  | none => s
  | some r =>
    let d := binding r.prog b
    if (ph ≠ 3 && bitField d 5 2 ≠ ph) || !(d.testBit (r.cls once ctx (bitField d 4 1))) then s else
    let w := r.instr ctx b
    let s := ((s.loopGang k r.prog).target (bitField d 29 3)).foldl (fun s t =>
      s.enter (some (k, r.l3)) ⟨cloveX t, cloveY t, w, false, []⟩) s
    s.modClove k (fun c => { c with loop := c.loop.map (fun r => { r with issued := r.issued.put b (r.issued.atD b 0 + 1) }) })

/-- The loop of a clove replaced. -/
def State.setLoop (s : State) (k : Nat) (r : LoopRun) : State := s.modClove k (fun c => { c with loop := some r })

/-- The loop of a clove with its first item done. -/
def State.nextItem (s : State) (k : Nat) : State :=
  match (s.clove k).loop with
  | none => s
  | some r => s.setLoop k (({ r with todo := r.todo.tail } : LoopRun).expand expandFuel)

/-- Every body entry at a tile, in body order (R205). -/
def State.loopTile (s : State) (k : Nat) (once : Bool) (ctx : List Visit) (ph n : Nat) : State :=
  let s := s.modClove k (fun c => { c with loop := c.loop.map (fun r => { r with l3 := r.l3Of ctx }) })
  ((List.range n).foldl (fun s b => s.loopEntry k once ctx ph b) s).nextItem k

/-! ### Dispatch (R211 to R213, R215) -/

/-- Origins of the neighbourhood's gangs, gang 0 first (Table 7.3). -/
def LoopRun.gangs (r : LoopRun) (g : Gang) : List Nat :=
  let n := nbx r.prog
  let i := r.op.nbidx.toNat
  let x0 := g.ox - i % Max.max n 1 * g.side
  let y0 := g.oy - i / Max.max n 1 * g.side
  (List.range (n * nby r.prog)).map (fun j => cloveNo (x0 + j % n * g.side) (y0 + j / n * g.side))

/-- Every member clove of the neighbourhood. -/
def LoopRun.near (r : LoopRun) (g : Gang) : List Nat :=
  (r.gangs g).flatMap (fun o => ({ g with ox := cloveX o, oy := cloveY o } : Gang).members)

/-- The items of the unit that closes, its last granted iteration behind it: phases 1 and 2, of the unit before it where
SKEW holds (R214). -/
def LoopRun.closeUnit (r : LoopRun) (ctx : List Visit) : List LItem × LoopRun :=
  if r.unit.isEmpty then ([], r) else
  let ends (u : List Visit) := r.phase 3 ctx 1 u ++ r.phase 3 ctx 2 u
  if skewed r.prog then (ends r.prev, { r with prev := r.unit, unit := [] }) else (ends r.unit, { r with unit := [] })

/-- A granted L3 iteration of a program that is fused at L3: a unit is the granted K iterations of one M and N iteration,
and ends with the last of them or where a grant of another follows (R214; DEDUCED, entry 115). -/
def LoopRun.grantUnit (r : LoopRun) (ctx : List Visit) (v : Visit) : List LItem × LoopRun :=
  let other := match r.unit with
    | u :: _ => u.m ≠ v.m || u.n ≠ v.n
    | [] => false
  let (a, r) := if other then r.closeUnit ctx else ([], r)
  let r := { r with unit := r.unit ++ [v] }
  let (b, r) := if v.kl then r.closeUnit ctx else ([], r)
  (a ++ r.phase 3 ctx 0 [v] ++ b, r)

/-- A fetch is answered: an index starts its L3 iteration, DONE ends the fetching, and what is left of units at L3 then
follows (R211, R214). -/
def LoopRun.answer (r : LoopRun) (a : Option Nat) : LoopRun :=
  match r.todo with
  | .fetch ctx ph :: rest =>
    match a with
    | none =>
      let (is, r) := r.closeUnit ctx
      { r with todo := is ++ r.phase 3 ctx 1 r.prev ++ r.phase 3 ctx 2 r.prev ++ rest, prev := [], held := false }
    | some n =>
      let t := (visitOrder r.prog r.otabs 3)[n]?
      let (is, r) := match (r.visits 3 ctx).find? (fun v => t == some (v.m, v.n, v.k)) with
        | none => (([] : List LItem), r)
        | some v =>
          if fused r.prog ∧ flevel r.prog = 3 ∧ ph = 3 then r.grantUnit ctx v else (r.below 3 ctx ph v, r)
      { r with todo := is ++ .fetch ctx ph :: rest, l3 := n, held := false }
  | _ => r

/-- The answer to the leader's fetch, passed to the other origin cloves of its neighbourhood (R211). -/
def State.answerFetch (s : State) (k : Nat) (r : LoopRun) (a : Option Nat) : State :=
  let others := (r.gangs (s.loopGang k r.prog)).filter (· ≠ k)
  let s := others.foldl (fun s o => s.modClove o (fun c => { c with grants := c.grants ++ [a] })) s
  s.setLoop k ((r.answer a).expand expandFuel)

/-- Another origin clove takes the oldest answer that its leader has passed on (R211). -/
def State.takeGrant (s : State) (k : Nat) : State :=
  match (s.clove k).loop, (s.clove k).grants with
  | some r, a :: as =>
    match r.todo with
    | .fetch _ _ :: _ =>
      if r.op.nbidx = 0 || r.done then s else
      s.modClove k (fun c => { c with loop := some ((r.answer a).expand expandFuel), grants := as })
    | _ => s
  | _, _ => s

/-- A strip's junction temperature, in 1/16 °C. -/
def State.stripTemp (s : State) (st : Nat) : Int := (s.field (st / 12)).temps.atD (st % 12) 0



/-- The index that a fetch of counter n is granted now, none for DONE (R211, R212). -/
def State.fetchIndex (s : State) (p n : Nat) (members : List Nat) : Option Nat :=
  let c := s.counter p n
  let next := s.fld .fldDspCnt (ctrField p n) (n % 16) 23 0
  if !s.armed p n || members.any (fun m => (s.clove m).quar || !c.admitted.contains (s.stripOf (cloveX m) (cloveY m))) ||
      next ≥ c.limit then none
  else some next

/-- A fetch is served: NEXT counts up, or DONE. -/
def State.serveFetch (s : State) (k : Nat) (r : LoopRun) : State :=
  let p := partOf (cloveX k) (cloveY k)
  let n := dctr r.prog
  match s.fetchIndex p n (r.near (s.loopGang k r.prog)) with
  | none => s.answerFetch k r none
  | some i => (s.setFld .fldDspCnt (ctrField p n) (n % 16) 23 0 (i + 1)).answerFetch k r (some i)

/-- A fetch is hot: its hottest strip is more than HOT_DELTA above the coolest admitted strip of the
partition (R213). -/
def State.hotFetch (s : State) (p n : Nat) (members : List Nat) : Bool :=
  let delta := s.fld .fldDspCtrl (ctrField p n) 0 7 0
  let mine := (members.map (fun m => s.stripOf (cloveX m) (cloveY m))).dedup.map s.stripTemp
  let adm := (s.counter p n).admitted.map s.stripTemp
  match mine.max?, adm.min? with
  | some h, some c => delta ≠ 0 && decide (h - c > 16 * (delta : Int))
  | _, _ => false

/-- Dispatch to a strip that holds a member of the neighbourhood is withheld (R387). -/
def State.withheldFetch (s : State) (members : List Nat) : Bool :=
  members.any (fun m =>
    let d := s.stripOf (cloveX m) (cloveY m)
    (s.field (d / 12)).withheld.contains (d % 12))

/-- The leader's fetch reaches the hub: served, held while hot or withheld, or DONE (R211, R213, R387). -/
def State.fetch (s : State) (k : Nat) : State :=
  match (s.clove k).loop with
  | none => s
  | some r =>
    let p := partOf (cloveX k) (cloveY k)
    let n := dctr r.prog
    let ms := r.near (s.loopGang k r.prog)
    match r.todo with
    | .fetch _ _ :: _ =>
      if r.done || r.op.nbidx ≠ 0 then s else
      if (s.fetchIndex p n ms).isNone then s.answerFetch k r none else
      if r.held then s else
      if s.withheldFetch ms then s.setLoop k { r with held := true } else
      if s.hotFetch p n ms then
        (s.addFld .fldDspStat (ctrField p n) 0 15 0 1).setLoop k { r with held := true }
      else s.serveFetch k r
    | _ => s

/-- The hold of a fetch ends: it is granted, or DONE; while its strips are withheld it goes on (R213, R215, R387). -/
def State.holdEnds (s : State) (k : Nat) : State :=
  match (s.clove k).loop with
  | none => s
  | some r =>
    match r.todo with
    | .fetch _ _ :: _ =>
      if r.held && !r.done && !s.withheldFetch (r.near (s.loopGang k r.prog)) then s.serveFetch k r else s
    | _ => s

/-! ### L4 iterations (R204, R208, R209) -/

/-- Bytes of an operand's tile with the given extents, as row bytes and rows, in the layouts of R106 and R160. Where every
pass is output-stationary, the vectors of both operands run along K (Table 4.2). -/
def LoopRun.tileRows (r : LoopRun) (o : Nat) (e1 e2 : Nat) : Nat × Nat :=
  let f := opFmt r.prog o
  let os := streamsOs r.prog true && !streamsOs r.prog false
  let groups (os : Bool) (vecs elems : Nat) : Nat × Nat :=
    (ceilDiv elems 16 * groupWords os f * 8, ceilDiv vecs (groupVecs os f))
  match opRole r.prog o with
  | 0 => if os then groups true e2 e1 else groups false e1 e2
  | 1 => if os then groups true e1 e2 else (ceilDiv e2 16 * tileWords f * 8, ceilDiv e1 16)
  | _ => groups false e1 e2

/-- The bytes of an operand's tile at a level for an iteration, as offset from HBASE, row bytes and rows. -/
def LoopRun.hbmTile (r : LoopRun) (o l : Nat) (ctx : List Visit) : Int × Nat × Nat :=
  let d := roleDims (opRole r.prog o)
  let ext (q : Nat) := tileExtent r.prog r.op.seqlen.toNat l ctx q
  let t := r.tileRows o (ext d.1) (ext d.2)
  let pad := List.replicate l (⟨0, 0, 0, true, true, true, true⟩ : Visit)
  (r.offset o 4 5 (pad ++ ctx), t.1, t.2)

/-- An operand's tile of level l + 1 overflows [HBASE, HBASE + HLEN) (R208, R209). -/
def LoopRun.hbmOver (r : LoopRun) (l : Nat) (ctx : List Visit) (o : Nat) : Option Overflow :=
  let t := r.hbmTile o l ctx
  let n := t.2.1 * t.2.2
  let len := progAt r.prog (opOff o + 20) 4
  if t.1 < 0 ∨ t.1 + n > len then some ⟨l + 1, o, n, len⟩ else none

/-- The first tile of an L4 iteration that overflows its HBM range, the L5 tile before the L4 tile (R208). -/
def LoopRun.chunkOver (r : LoopRun) (ctx : List Visit) : Option Overflow :=
  let ops := (List.range (nops r.prog)).filter (fun o => opSq r.prog o ≠ 255)
  let five := if nlev r.prog = 6 then ops.filterMap (r.hbmOver 4 (ctx.drop 1)) else []
  (five ++ ops.filterMap (r.hbmOver 3 ctx)).head?

/-- The transfer that an L4 iteration posts for an operand. -/
def LoopRun.chunkTransfer (r : LoopRun) (k o : Nat) (ctx : List Visit) : Transfer :=
  let t := r.hbmTile o 3 ctx
  let hb : Int := progAt r.prog (opOff o + 12) 8
  ⟨0, (hb + t.1).toNat, t.2.1, t.2.2, t.2.1, some k, 0, 0, 0, 0, [], none, 0⟩

/-- The loop stops on a fault of its engine: nothing more is generated (R209). -/
def State.loopFault (s : State) (k : Nat) (c : Code) (v : Nat) : State := (s.refuse k 4 c v).stopLoop k

/-- An L4 iteration starts: its tiles are checked and one transfer per operand with a queue is posted, checked as SQ_POST
checks it; it waits while a posted list is full, and behind a FENCE.ALL or a barrier (R204, R208, R226, R234, R236). -/
def State.chunkStart (s : State) (k : Nat) : State :=
  match (s.clove k).loop with
  | none => s
  | some r =>
    match r.todo with
    | .chunk ctx :: _ =>
      if r.done || (s.clove k).loopHalted || s.atBarrier k || (s.clove k).fences.getLsbD 2 then s else
      let p := partOf (cloveX k) (cloveY k)
      match r.chunkOver ctx with
      | some v => (s.refuseTile k v).stopLoop k
      | none =>
        let ps := ((List.range (nops r.prog)).filter (fun o => opSq r.prog o ≠ 255)).map (fun o =>
          (opSq r.prog o, r.chunkTransfer k o ctx))
        if ps.any (fun q => q.2.bad) then s.loopFault k .fabEncoding r.l3 else
        if ps.any (fun q => (s.queue p q.1).ctx.isNone) then s.loopFault k .sqUnset r.l3 else
        if ps.any (fun q => !s.transferFits p q.2) then s.loopFault k .sqRange r.l3 else
        if ps.any (fun q => (s.queue p q.1).posted.length + (ps.filter (fun u => u.1 == q.1)).length > 16) then s else
        (ps.foldl (fun s q => s.post p q.1 q.2) s).nextItem k
    | _ => s

/-! ### L0 iterations (R205, R215) -/

/-- A member of the gang is quarantined after a grant: what is not yet generated for the L3 iteration is not
issued, and the iteration is incomplete (R215). -/
def State.dropQuarantined (s : State) (k : Nat) : State :=
  match (s.clove k).loop with
  | none => s
  | some r =>
    let fetching := match r.todo with
      | .fetch _ _ :: _ => true
      | _ => false
    if r.done || !dispatched r.prog || fetching || !(s.loopGang k r.prog).members.any (fun m => (s.clove m).quar) then s else
    let rest := r.todo.dropWhile (fun it => match it with
      | .fetch _ _ => false
      | _ => true)
    s.setLoop k (({ r with todo := rest, incomplete := r.incomplete ++ [r.l3], unit := [], prev := [] } : LoopRun).expand
      expandFuel)

/-- The next L0 iteration of a clove's loop: its body entries issue in body order (R205). -/
def State.loopStep (s : State) (k : Nat) : State :=
  let s := match (s.clove k).loop with
    | some r => if r.done then s else s.setLoop k (r.expand expandFuel)
    | none => s
  let s := (s.takeGrant k).dropQuarantined k
  if (s.clove k).loopHalted then s else
  match (s.clove k).loop with
  | none => s
  | some r =>
    if r.done then s else
    match r.todo with
    | .level 0 ctx ph :: _ => s.loopTile k false ctx ph (nbody r.prog)
    | .once ctx :: _ => s.loopTile k true ctx 1 (nbody r.prog)
    | _ => s

end Sys2Proof.Machine
end

