-- ==== Sys2Proof/Machine/Clove.lean ====
section
/-! DEFINITION. The commands of the cloves and of their mesh, one meaning each: array, SFU, region, remote,
loop and fabric instructions as their sequencers deliver them, and the progress of what has started. -/
namespace Sys2Proof.Machine

/-! ### Array instructions and their progress -/

/-- GANG_CFG (R83). -/
def execGangCfg (i : Issue) (s : State) : Outcome := .next (s.issue i)

/-- LOAD (R84). -/
def execLoad (i : Issue) (s : State) : Outcome := .next (s.issue i)

/-- SWAP (R87). -/
def execSwap (i : Issue) (s : State) : Outcome := .next (s.issue i)

/-- STREAM (R88). -/
def execStream (i : Issue) (s : State) : Outcome := .next (s.issue i)

/-- VECTOR_RESULT: the oldest pass of an array retires its next vector (R74, R95 to R98), after the upsets (R185). -/
def execVectorResult (a : ArrAt) (upsets : Upsets) (s : State) : Outcome :=
  .next ((s.upset upsets.words).retire (cloveNo a.x a.y) a.arr upsets.cells).settle

/-- DRAIN_DONE: the results of an output-stationary drain leave the array (R55), after the upsets (R185). -/
def execDrainDone (a : ArrAt) (upsets : Upsets) (s : State) : Outcome :=
  .next ((s.upset upsets.words).drain (cloveNo a.x a.y) a.arr upsets.cells).settle

/-- PASS_STALL_RESUME: a stalled pass goes on once its regions allow it (R97). -/
def execPassStallResume (a : ArrAt) (s : State) : Outcome :=
  .next (s.unstall (cloveNo a.x a.y) a.arr).settle

/-! ### Special-function unit -/

/-- SFU_ELEM (R142, R143). -/
def execSfuElem (i : Issue) (s : State) : Outcome := .next (s.issue i)

/-- SFU_BIN (R142, R143). -/
def execSfuBin (i : Issue) (s : State) : Outcome := .next (s.issue i)

/-- SFU_MOMENTS (R152). -/
def execSfuMoments (i : Issue) (s : State) : Outcome := .next (s.issue i)

/-- SFU_MERGE (R149, R153). -/
def execSfuMerge (i : Issue) (s : State) : Outcome := .next (s.issue i)

/-- SFU_NORM (R155). -/
def execSfuNorm (i : Issue) (s : State) : Outcome := .next (s.issue i)

/-- SFU_SMAXFIN (R150). -/
def execSfuSmaxfin (i : Issue) (s : State) : Outcome := .next (s.issue i)

/-- EPI_WRITE (R130). -/
def execEpiWrite (i : Issue) (s : State) : Outcome := .next (s.issue i)

/-! ### Regions, remote access and scrubbing -/

/-- RGN SET (R170). -/
def execRgnSet (i : Issue) (s : State) : Outcome := .next (s.issue i)

/-- RGN POP (R174). -/
def execPop (i : Issue) (s : State) : Outcome := .next (s.issue i)

/-- RGN DROP (R176). -/
def execDrop (i : Issue) (s : State) : Outcome := .next (s.issue i)

/-- REMOTE READ (R180). -/
def execRemoteRead (i : Issue) (s : State) : Outcome := .next (s.issue i)

/-- REMOTE WRITE (R182). -/
def execRemoteWrite (i : Issue) (s : State) : Outcome := .next (s.issue i)

/-- REMOTE SLOT (R183). -/
def execRemoteSlot (i : Issue) (s : State) : Outcome := .next (s.issue i)

/-- REMOTE UNBIND (R183). -/
def execRemoteUnbind (i : Issue) (s : State) : Outcome := .next (s.issue i)

/-- REMOTE_ACCESS_ARRIVAL (R182, R183, R233), after the upsets (R185). -/
def execRemoteAccessArrival (src : Nat) (dst : Landing) (s : State) : Outcome :=
  .next ((s.upset dst.ups).arriveAccess src dst.clove).settle

/-- REMOTE_ACK (R182, R234). -/
def execRemoteAck (src dst : Nat) (s : State) : Outcome := .next (s.arriveAck src dst).settle

/-- GRANT_ARRIVAL (R183, R225). -/
def execGrantArrival (src dst : Nat) (s : State) : Outcome := .next (s.arriveGrant src dst).settle

/-- CREDIT_RETURN_ARRIVAL (R183, R225). -/
def execCreditReturnArrival (src dst : Nat) (s : State) : Outcome := .next (s.arriveCredit src dst).settle

/-- UNBIND_ARRIVAL (R170, R183). -/
def execUnbindArrival (src dst : Nat) (s : State) : Outcome := .next (s.arriveUnbind src dst).settle

/-- SCRUB_READ: the scrub controller reads its next word in an idle slot (R187). -/
def execScrubRead (x y found : Nat) (s : State) : Outcome := .next (s.scrub (cloveNo x y) found)

/-- SCRUB_WRITEBACK (R187). -/
def execScrubWriteback (x y : Nat) (s : State) : Outcome := .next (s.writeback (cloveNo x y))

/-- SCRUB_FORCED_SLOT: the scrub controller takes a fabric slot of a bank for its next word, which lies in
that bank (R158, R187). -/
def execScrubForcedSlot (x y bank found : Nat) (s : State) : Outcome :=
  .next (if (s.clove (cloveNo x y)).scrubAt % 16 = bank then s.scrub (cloveNo x y) found else s)

/-! ### Loops and dispatch -/

/-- LOOP (R196, R197, R209). -/
def execLoop (i : Issue) (s : State) : Outcome := .next (s.issue i)

/-- LOOP_L0_ITERATION (R205). -/
def execLoopL0Iteration (x y : Nat) (s : State) : Outcome := .next (s.loopStep (cloveNo x y)).settle

/-- LOOP_L4_ITERATION (R204, R208). -/
def execLoopL4Iteration (x y : Nat) (s : State) : Outcome := .next (s.chunkStart (cloveNo x y)).settle

/-- DISPATCH_FETCH (R211, R213). -/
def execDispatchFetch (x y : Nat) (s : State) : Outcome := .next (s.fetch (cloveNo x y)).settle

/-- HOT_HOLD_EXPIRY (R213). -/
def execHotHoldExpiry (x y : Nat) (s : State) : Outcome := .next (s.holdEnds (cloveNo x y)).settle

/-! ### Queues, fences and barriers -/

/-- SQ_SET (R224). -/
def execSqSet (i : Issue) (s : State) : Outcome := .next (s.issue i)

/-- SQ_POST (R226). -/
def execSqPost (i : Issue) (s : State) : Outcome := .next (s.issue i)

/-- FENCE.REMOTE (R234). -/
def execFenceRemote (i : Issue) (s : State) : Outcome := .next (s.issue i)

/-- FENCE.STORE (R234). -/
def execFenceStore (i : Issue) (s : State) : Outcome := .next (s.issue i)

/-- FENCE.ALL (R234). -/
def execFenceAll (i : Issue) (s : State) : Outcome := .next (s.issue i)

/-- FENCE_RELEASE: a pending fence whose conditions hold lets the held instructions issue (R234). -/
def execFenceRelease (x y : Nat) (s : State) : Outcome := .next (s.releaseFence (cloveNo x y)).settle

/-- BARRIER (R236). -/
def execBarrier (i : Issue) (s : State) : Outcome := .next (s.issue i)

/-- BARRIER_ARRIVAL: the arrivals or waits of the listed cloves reach the barrier's hub in one step (R236, R240). -/
def execBarrierArrival (part : Nat) (bid : Arrivals) (s : State) : Outcome :=
  .next (s.arriveBarrier part bid.bid bid.srcs).settle

/-- SQ_REQUEST_ISSUE (R227 to R229), after the upsets (R185). -/
def execSqRequestIssue (part queue : Nat) (arrival : ReqStep) (s : State) : Outcome :=
  .next ((s.upset arrival.ups).issueReq part queue arrival.arrival).settle

/-- SQ_LOAD_DELIVERY (R228). -/
def execSqLoadDelivery (part queue req : Nat) (s : State) : Outcome := .next (s.deliver part queue req).settle

/-! ### Links (R218) -/

/-- Word w of some words, with its mark set. -/
def markWordAt (ws : List (W64 × Bool)) (w : Nat) : List (W64 × Bool) := ws.set w ((ws.getD w (0, false)).1, true)

/-- A message whose word w carries the mark; a message of control alone carries no word that a mark stays with. -/
def Msg.markWord (m : Msg) (w : Nat) : Msg :=
  match m with
  | .write a b r ws n => .write a b r (markWordAt ws w) n
  | .readData a b l ws => .readData a b l (markWordAt ws w)
  | .slot a b r h ws => .slot a b r h (markWordAt ws w)
  | m => m

/-- A word on a link is delivered with its mark set: it is marked where it is, on the mesh, in a queue's request on its
way to or from memory, or in the scratchpad word that it lands in (R218, R232). -/
def State.markOnLink (s : State) (w : LinkPlace) (i : Nat) : State :=
  match w with
  | .mesh n =>
    { s with msgs := match s.msgs[n]? with
      | some m => s.msgs.set n (m.markWord i)
      | none => s.msgs }
  | .request id =>
    let mark (r : Req) : Req := if r.id = id then { r with data := markWordAt r.data i } else r
    { s with inflight := s.inflight.map mark
             memStacks := s.memStacks.map (fun e => (e.1, { e.2 with reqs := e.2.reqs.map mark })) }
  | .landed dst =>
    s.modClove dst (fun c => { c with scratch := c.scratch.set (wrapWord i) SWord.zero { c.word i with mark := true } })

/-- The address in a LINK_UE record: of a request's word its address in memory, of a landed word the scratchpad word, and
0 of a word on the mesh (Table 16.4). -/
def State.linkAddr (s : State) (w : LinkPlace) (i : Nat) : Nat :=
  match w with
  | .mesh _ => 0
  | .request id => match s.allReqs.find? (fun r => r.id == id) with
    | some r => r.addr + 8 * i
    | none => 0
  | .landed _ => wrapWord i

/-- A word fails its parity check on a link: resends are only latency; at the fifth failure it is delivered
marked, counted and logged, and one more wire of the link counts as failed until a map epoch finds it a spare (R218). -/
def State.linkFail (s : State) (field seam link fails : Nat) (place : LinkPlace) (word : Nat) : State :=
  if fails < 5 then s else
  let addr := s.linkAddr place word
  let key := seam * 65536 + link % 65536
  let s := (s.markOnLink place word).modField field (fun f => { f with pendWires := f.pendWires.put key (f.pendWires.atD key 0 + 1) })
  let s := ({ s with up := { s.up with mapDirty := true } } : State).addFld .fldFabStat field 0 31 16 1
  s.event .linkUe (field / 3) field seam (addr % 2 ^ 32) (addr / 2 ^ 32 % 2 ^ 16 + link % 2 ^ 16 * 2 ^ 16)

/-- LINK_WORD_FAIL (R218). -/
def execLinkWordFail (field seam link fails : Nat) (place : LinkPlace) (word : Nat) (s : State) : Outcome :=
  .next (s.linkFail field seam link fails place word)

end Sys2Proof.Machine
end

