-- ==== Sys2Proof/Machine/Memory.lean ====
section
/-! DEFINITION. The memory system (R241 to R262): channels, the controllers' arbitration, code words,
patrol and retraining, map epochs, windows, and the slower tier's answers. -/
namespace Sys2Proof.Machine

/-! ### Channels (R244) -/

/-- The channels in a stack's map, in increasing order. -/
def State.healthy (s : State) (k : Nat) : List Nat := (List.range 32).filter (fun c => s.flag .memStkChmap 0 k c)

/-- The channel and channel address of an offset in stack k (R244). -/
def State.channelOf (s : State) (k o : Nat) : Nat × Nat :=
  let h := s.healthy k
  let u := o / 4096
  let n := Max.max h.length 1
  (h.getD (u % n) 0, u / n * 4096 + o % 4096)

/-- The channel of a device physical address. -/
def State.chanAt (s : State) (a : Nat) : Nat := (s.channelOf (a / stackSpan) (a % stackSpan)).1

/-- Bytes below LIMIT_k (R243). -/
def State.limitOf (s : State) (k : Nat) : Nat := s.fld .memStkStat 0 k 31 16 * mib2

/-- A channel becomes failing: it stays in the map until the next epoch of its stack (R253). -/
def State.chanFail (s : State) (k c : Nat) : State :=
  if s.flag .memStkPend 0 k c then s else
  let s := s.setFld .memStkPend 0 k c c 1
  let s := s.setFld .memStkStat 0 k 6 6 1
  ({ s with up := { s.up with mapDirty := true } } : State).log .chanFailing 255 k c 0 0

/-- A code word of a channel has been found bad: 8 within 24 h make the channel failing (R253). -/
def State.badOnChan (s : State) (k c : Nat) : State :=
  let t := s.up.time
  let s := s.modStack k (fun v => { v with
    ueTimes := v.ueTimes.put c (t :: (v.ueTimes.atD c []).filter (fun u => u + dayNs > t)) })
  if ((s.stack k).ueTimes.atD c []).length ≥ 8 then s.chanFail k c else s

/-- One uncorrectable code word found on the channel of an address (R248, R253). -/
def State.countUe (s : State) (a : Nat) : State :=
  let k := a / stackSpan
  let c := s.chanAt a
  (s.modStack k (fun v => { v with uncorrected := v.uncorrected.put c (v.uncorrected.atD c 0 + 1) })).badOnChan k c

/-- The stack's on-die ECC reports an error on a channel: counted, and taken as one of the bad code words that bring the
channel to its map-out (R241, R253, R254; DEDUCED, entry 96). -/
def State.onDieReport (s : State) (k c : Nat) : State :=
  (s.modStack k (fun v => { v with onDie := v.onDie.put c (v.onDie.atD c 0 + 1) })).badOnChan k c

/-- More bridge wires of a channel have failed: spares take their places at the next epoch, and more than 2 make the
channel failing (R253 to R255). -/
def State.wiresFail (s : State) (k c n : Nat) : State :=
  if n = 0 then s else
  let s := (s.modStack k (fun v => { v with pendWires := v.pendWires.put c (v.pendWires.atD c 0 + n) })).setFld .memStkStat 0 k 6 6 1
  let s : State := { s with up := { s.up with mapDirty := true } }
  if 2 < (s.stack k).wires.atD c 0 + (s.stack k).pendWires.atD c 0 then s.chanFail k c else s

/-- A code word is found uncorrectable: it is rewritten in the poison encoding and counted once; a word
already in that encoding counts nothing (R248, R249). -/
def State.ueWord (s : State) (cw : Nat) : State :=
  if s.poisoned (64 * cw) then s else (s.setPoison [cw] true).countUe (64 * cw)

/-- A code word read with one symbol in error is delivered corrected, counted, and waits for its write-back; one that is
in the poison encoding counts nothing (R248, R249). -/
def State.fixWord (s : State) (cw : Nat) : State :=
  if s.poisoned (64 * cw) then s else
  s.modStack (64 * cw / stackSpan) (fun v => { v with
    corrected := v.corrected + 1, writeback := if v.writeback.contains cw then v.writeback else v.writeback ++ [cw] })

/-- What the reads of HBM that a command makes find, by whichever agent makes them (R242, R248, R249). -/
def State.hbmFind (s : State) (f : HbmFinds) : State :=
  let s := f.bad.dedup.foldl (fun s cw => s.ueWord cw) s
  let s := (f.fixed.dedup.filter (fun cw => !f.bad.contains cw)).foldl (fun s cw => s.fixWord cw) s
  f.onDie.foldl (fun s d => s.onDieReport (d / 32) (d % 32)) s

/-! ### Requests at a controller (R228 to R231) -/

/-- Rank of a pending request at step now: overdue requests first, oldest first; then the lowest deadline;
ties by the module-wide queue number (R229). -/
def Req.before (now : Nat) (a b : Req) : Bool :=
  let late (r : Req) := decide (now - r.arrived > 65536)
  let q (r : Req) := 128 * r.part + r.queue
  if late a ≠ late b then late a
  else
    let x := if late a then a.arrived else a.deadline
    let y := if late b then b.arrived else b.deadline
    if x ≠ y then decide (x < y) else if q a ≠ q b then decide (q a < q b) else decide (a.id < b.id)

/-- The request that a controller serves next, of those whose channel is not being retrained (R229, R252). -/
def State.pickReq (s : State) (k now : Nat) : Option Req :=
  let st := s.stack k
  (st.reqs.filter (fun r => st.retraining ≠ some (s.chanAt r.addr))).foldl (fun b r =>
    match b with
    | none => some r
    | some p => if r.before now p then some r else b) none

/-- A set of requests that merges with one more: short, of one partition and direction, covering one contiguous range of
at most 256 bytes within one 4 KiB unit, at most 8 (R230). -/
def mergeOne (ms : List Req) (r : Req) : List Req :=
  match ms with
  | [] => ms
  | m :: _ =>
    let lo := (ms.map (·.addr)).foldl Min.min m.addr
    let hi := (ms.map (fun q => q.addr + q.len)).foldl Max.max 0
    let touch := lo ≤ r.addr + r.len ∧ r.addr ≤ hi
    let l := Min.min lo r.addr
    let h := Max.max hi (r.addr + r.len)
    if ms.length < 8 ∧ r.part = m.part ∧ r.store = m.store ∧ r.len < 256 ∧ m.len < 256 ∧ touch ∧ h - l ≤ 256 ∧
        l / 4096 = (h - 1) / 4096 ∧ !ms.any (fun q => q.id == r.id) then ms ++ [r] else ms

/-- Every pending request that merges with the one picked, in the order in which they would be served alone (R229,
R230). -/
def State.merged (s : State) (k now : Nat) (r : Req) : List Req :=
  let round (ms : List Req) := (s.stack k).reqs.foldl mergeOne ms
  sortBy (fun a b => !b.before now a) ((List.range 8).foldl (fun ms _ => round ms) [r])

/-- SQ_MARK of a request: partition, queue, address and words (R231, Table 16.4). -/
def State.sqMark (s : State) (r : Req) (words : Nat) : State :=
  s.event .sqMark r.part r.queue words (r.addr % 2 ^ 32) (r.addr / 2 ^ 32 % 2 ^ 16)

/-- The bytes of a slice that belong to position columns below n: data words by word and byte, and scale
bytes (R160, R265). -/
def keptBytes (n : Nat) : List (Nat × Nat) :=
  (List.range n).flatMap (fun j => (32 + j / 8, j % 8) :: (List.range 16).map (fun i => tileAt 0 i j))

/-- The words that a store request puts into HBM: in an append's first slice column, the position columns
before its start keep what the page holds (R280). -/
def State.storeData (s : State) (r : Req) : List (W64 × Bool) :=
  match (s.queue r.part r.queue).posted.find? (fun t => t.no == r.xfer) with
  | none => r.data
  | some t =>
    if t.keep = 0 then r.data else
    let kept := keptBytes t.keep
    ((List.range r.data.length).zip r.data).map (fun q =>
      let a := r.addr + 8 * q.1
      let w := (a - t.haddr) % 4352 / 8
      let bs := (kept.filter (fun b => b.1 == w)).map (·.2)
      let old := s.hbmNat a 8
      (BitVec.ofNat 64 (bs.foldl (fun v b => setBitField v (8 * b) 8 (bitField old (8 * b) 8)) q.2.1.toNat),
       q.2.2 || (!bs.isEmpty && s.poisoned a)))

/-- One request served: a store is written, a load takes its words; code words of bad that the code could
not correct deliver their words marked, and SQ_MARK is logged (R230, R231, R248). -/
def State.serveOne (s : State) (bad : List Nat) (r : Req) : State :=
  let s := s.modStack (r.addr / stackSpan) (fun k => { k with reqs := k.reqs.filter (fun q => q.id ≠ r.id) })
  if r.store then (s.storeWords r.addr (s.storeData r)).reqDone r else
  let words := List.range (r.len / 8)
  let n := (words.filter (fun i => bad.contains ((r.addr + 8 * i) / 64))).length
  let data := s.hbmWords r.addr (r.len / 8)
  let s : State := { s with inflight := s.inflight ++ [{ r with data := data, served := true }] }
  if n > 0 then s.sqMark r n else s

/-- A controller serves its next request, merged with those that R230 allows; found names what this access finds in the
code words that it reads (R248). -/
def State.serve (s : State) (k now : Nat) (found : HbmFinds) : State :=
  match s.pickReq k now with
  | none => s
  | some r =>
    let ms := s.merged k now r
    let inAccess (cw : Nat) := ms.any (fun q => !q.store && decide (q.addr / 64 ≤ cw) && decide (cw ≤ (q.addr + q.len - 1) / 64))
    let bad := (found.bad.filter (fun cw => inAccess cw && !s.poisoned (64 * cw))).dedup
    let s := s.hbmFind ⟨bad, found.fixed.filter inAccess, found.onDie.filter (fun d => d / 32 = k)⟩
    ms.foldl (fun s q => s.serveOne bad q) s

/-- MEM_REQUEST_SERVE (R229, R230, R231). -/
def execMemRequestServe (stack now : Nat) (badWords : List Nat) (minor : HbmMinor) (s : State) : Outcome :=
  .next (s.serve stack now ⟨badWords, minor.fixed, minor.onDie⟩).settle

/-! ### Idle work of a controller (R248, R250, R252) -/

/-- HBM_CORRECTED_WRITEBACK: the oldest corrected code word is written back (R248). -/
def execHbmCorrectedWriteback (stack : Nat) (s : State) : Outcome :=
  .next (s.modStack stack (fun v => { v with writeback := v.writeback.tail }))

/-- The patrol reads its next code word: 0 sound, 1 corrected, 2 uncorrectable, 3 reported by the on-die ECC (R241, R248,
R250). -/
def State.patrolStep (s : State) (k outcome : Nat) : State :=
  let n := s.limitOf k / 64
  if n = 0 then s else
  let cw := (k * stackSpan) / 64 + (s.stack k).patrol % n
  let s := s.modStack k (fun v => { v with patrol := (v.patrol + 1) % n })
  match outcome with
  | 0 => s
  | 1 => s.fixWord cw
  | 2 => s.ueWord cw
  | _ => s.onDieReport k (s.chanAt (64 * cw))

/-- PATROL_READ (R250). -/
def execPatrolRead (stack outcome : Nat) (s : State) : Outcome := .next (s.patrolStep stack outcome)

/-- CHANNEL_RETRAIN: one channel of a stack leaves service to be retrained (R252). -/
def execChannelRetrain (stack chan : Nat) (s : State) : Outcome :=
  .next (if (s.stack stack).retraining.isNone && (s.healthy stack).contains chan
    then s.modStack stack (fun v => { v with retraining := some chan }) else s)

/-- A channel's retraining ends; the third failure in a row makes it failing, and so do more than 2 failed bridge wires,
of which it finds some more (R252, R253). -/
def State.retrained (s : State) (k c : Nat) (ok : Bool) (wires : Nat) : State :=
  if (s.stack k).retraining ≠ some c then s else
  let n := if ok then 0 else (s.stack k).fails.atD c 0 + 1
  let s := s.modStack k (fun v => { v with retraining := none, fails := v.fails.put c n })
  let s := s.wiresFail k c wires
  if n ≥ 3 then s.chanFail k c else s

/-- CHANNEL_RETRAINING_DONE (R252). -/
def execChannelRetrainingDone (stack chan : Nat) (result : Retrained) (s : State) : Outcome :=
  .next (s.retrained stack chan result.ok result.wires)

/-! ### Windows and map epochs (R246, R247, R254) -/

/-- Two ranges of a base and a length share a byte. -/
def rangesMeet (a b : Nat × Nat) : Bool :=
  decide (a.2 > 0) && decide (b.2 > 0) && decide (a.1 < b.1 + b.2) && decide (b.1 < a.1 + a.2)

/-- The extents of a partition's windows that are in use: the enabled ones and those whose change waits for
earlier transfers (R246, R247). -/
def State.winExtents (s : State) (p : Nat) : List (Nat × Nat) :=
  s.windows p ++ (s.part p).oldWin.flatMap (fun e => e.2.map (fun x => (x.1 * mib2, x.2 * mib2)))

/-- GO of MEM_EPOCH_CTRL: refused while an epoch runs, for a stack beyond 23, or while a window overlaps the
stack; else the epoch starts, and the channels that are failing now leave at its end (R254, R255). A channel that becomes
failing while BUSY does so after the retraining step (R262; DEDUCED, entry 97). -/
def State.epochGo (s : State) : State :=
  let k := s.fld .memEpochCtrl 0 0 4 0
  let stackRange := (k * stackSpan, stackSpan)
  if s.up.hbmEpoch.isSome || k ≥ 24 ||
      (List.range 32).any (fun p => (s.winExtents p).any (rangesMeet stackRange)) then
    s.setFld .memEpochCtrl 0 0 10 10 1
  else
    let s := s.modStack k (fun v => { v with leaving := s.reg .memStkPend 0 k &&& s.reg .memStkChmap 0 k })
    ({ s with up := { s.up with hbmEpoch := some k } } : State).setFld .memEpochCtrl 0 0 9 9 1

/-- Contents and poison of a stack's range become zero data with valid code words (R254, step 4). -/
def State.zeroStack (s : State) (k : Nat) : State :=
  let inStack (a : Nat) := decide (k * stackSpan ≤ a) && decide (a < (k + 1) * stackSpan)
  { s with hbm := ⟨s.hbm.bytes.filter (fun e => !inStack e.1), s.hbm.poison.filter (fun e => !inStack (64 * e.1))⟩ }

/-- A stack's new map, with HEALTHY and LIMIT (R243, R254). -/
def State.publishMap (s : State) (k : Nat) (m : W32) : State :=
  let n := ((List.range 32).filter (fun c => m.getLsbD c)).length
  let s := s.setReg .memStkChmap 0 k m
  let s := s.setFld .memStkStat 0 k 5 0 n
  s.setFld .memStkStat 0 k 31 16 (n * 576)

/-- Bits of the channels that satisfy a test. -/
def chanMask (f : Nat → Bool) : W32 := BitVec.ofNat 32 (((List.range 32).filter f).map (fun c => 2 ^ c)).sum

/-- Steps 3 to 5 of a map epoch (R254). Every channel of stack k is retrained: trainFail has a bit for each that fails,
wires lists by channel the failed bridge wires found. Failing channels leave: those that were failing when the epoch was
accepted, and those that this retraining makes so (R253). Mapped-out channels that pass with at most 2 failed wires
return. Wire spares take effect, the range is zeroed, and the new map is published. A channel that has become failing
since the retraining step stays, and keeps its bit (R262). -/
def State.renewMap (s : State) (k : Nat) (trainFail : W32) (wires : List (Nat × Nat)) : State :=
  let v := s.stack k
  let old := s.reg .memStkChmap 0 k
  let out (c : Nat) : Nat := v.wires.atD c 0 + v.pendWires.atD c 0 + ((wires.filter (fun w => w.1 == c)).map (·.2)).sum
  let fails (c : Nat) : Nat := if trainFail.getLsbD c then v.fails.atD c 0 + 1 else 0
  let leaves := v.leaving ||| chanMask (fun c => decide (2 < out c) || decide (3 ≤ fails c))
  let back := chanMask (fun c => !trainFail.getLsbD c && decide (out c ≤ 2))
  let new := (old &&& ~~~leaves) ||| (~~~old &&& back)
  let late := s.reg .memStkPend 0 k &&& ~~~v.leaving &&& old &&& new
  let s := (s.zeroStack k).publishMap k new
  let s := (s.setReg .memStkPend 0 k late).setFld .memStkStat 0 k 6 6 (b2n (late ≠ 0))
  let s := s.modStack k (fun v => { v with
    wires := ((List.range 32).filter (fun c => out c ≠ 0)).map (fun c => (c, out c)), pendWires := [], leaving := 0
    fails := ((List.range 32).filter (fun c => fails c ≠ 0)).map (fun c => (c, fails c))
    ueTimes := v.ueTimes.filter (fun e => old.getLsbD e.1 && new.getLsbD e.1), writeback := [], retraining := none, patrol := 0 })
  { s with up := { s.up with mapDirty := true } }

/-- The epoch of stack k ends (R254, steps 3 to 6). -/
def State.epochDone (s : State) (k : Nat) (trainFail : W32) (wires : List (Nat × Nat)) : State :=
  if s.up.hbmEpoch ≠ some k then s else
  let old := s.reg .memStkChmap 0 k
  let s := ({ s with up := { s.up with hbmEpoch := none } } : State).renewMap k trainFail wires
  let new := s.reg .memStkChmap 0 k
  let s := (s.setFld .memEpochCtrl 0 0 9 9 0).setFld .memEpochCtrl 0 0 11 11 1
  s.log .hbmEpoch 255 k 0 (old &&& ~~~new).toNat (new &&& ~~~old).toNat

/-- HBM_EPOCH (R254). -/
def execHbmEpoch (stack : Nat) (trained : Trained) (s : State) : Outcome :=
  .next (s.epochDone stack trained.fail trained.wires)

/-- Transfers of a partition that use an extent and lie outside its ranges of now: those posted before the
change (R247). -/
def State.usesExtent (s : State) (p : Nat) (e : Nat × Nat) : Bool :=
  (s.part p).queues.any (fun q => q.2.posted.any (fun t => (List.range t.rows).any (fun r =>
    let a := (t.rowAt r).toNat
    rangesMeet (a, t.rowBytes) e && !s.inRanges p a t.rowBytes)))

/-- WINDOW_CHANGE_EFFECT: a window's old extents are given up once no earlier transfer uses them (R247). -/
def execWindowChangeEffect (part win : Nat) (s : State) : Outcome :=
  .next (
    let used := ((s.part part).oldWin.atD win []).filter (fun e => s.usesExtent part (e.1 * mib2, e.2 * mib2))
    s.modPart part (fun q => { q with oldWin := q.oldWin.set win [] used }))

/-- A write of a window register (R246, R247): checked when the window is or becomes enabled; a window that is
disabled, moved or shrunk keeps each old extent until the transfers checked against it have completed. -/
def State.writeWindow (s : State) (p w : Nat) (base size : W32) : State :=
  let en := base.getLsbD 31
  let b := regField base 18 0
  let n := regField size 14 0
  let k := b * mib2 / stackSpan
  let ext := (b * mib2, n * mib2)
  let was := s.window p w
  let bad := n = 0 || k ≥ 24 || decide (b * mib2 + n * mib2 > k * stackSpan + s.limitOf k) ||
    s.up.hbmEpoch == some k
  let clash := (List.range 32).any (fun q => q ≠ p && (s.winExtents q).any (rangesMeet ext))
  let a := b * mib2
  if en && was == some ext then s
  else if en && bad then s.log .hbmWinRange p k 0 (a % 2 ^ 32) (a / 2 ^ 32)
  else if en && clash then s.log .hbmWinOverlap p k 0 (a % 2 ^ 32) (a / 2 ^ 32)
  else
    let t := (s.setReg .prtHbmBase p w base).setReg .prtHbmSize p w size
    match was with
    | none => t
    | some o =>
      if en && ext.1 ≤ o.1 && o.1 + o.2 ≤ ext.1 + ext.2 then t
      else if t.usesExtent p o then
        t.modPart p (fun q => { q with oldWin := q.oldWin.put w ((o.1 / mib2, o.2 / mib2) :: q.oldWin.atD w []) })
      else t

/-! ### Answers of the slower tier (R260, R261) -/

/-- Cause numbers in SPILL_FAIL records: 0 another, 1 poisoned, 2 unsupported, 3 aborted, 4 timeout, 5 flow
lost. -/
def spillCause (st : RdStatus) : Nat :=
  match st with
  | .good => 0
  | .poisoned => 1
  | .unsupported => 2
  | .aborted => 3
  | .timeout => 4

/-- SPILL_FAIL: entry and offset by the device address, with the cause (R261, Table 16.4). -/
def State.spillFail (s : State) (t : TierReq) (cause : Nat) : State :=
  let a := tierBase t.entry + t.offset
  s.event .spillFail t.part t.queue (t.len / 8) (a % 2 ^ 32) (a / 2 ^ 32 % 2 ^ 16 + cause * 2 ^ 16)

/-- n words of which nothing is known but their mark. -/
def State.drawMarked (s : State) : Nat → List (W64 × Bool) × State
  | 0 => ([], s)
  | n + 1 =>
    let (v, s) := s.draw
    let (vs, s) := s.drawMarked n
    ((v, true) :: vs, s)

/-- A tier read is answered with words, or fails: the words of a failed read are delivered marked. The data of a failed
write is not reported as stored: its bytes do not count as done, and its transfer does not complete (R261; DEDUCED, entry
30). -/
def State.tierAnswer (s : State) (tag : Nat) (ws : Option (List (W64 × Bool))) (cause : Nat) : State :=
  match s.net.tiers.at? tag with
  | none => s
  | some t =>
    let s : State := { s with net := { s.net with tiers := s.net.tiers.del tag } }
    if t.store then
      match s.inflight.find? (fun r => r.id == t.req) with
      | some r =>
        let s : State := { s with inflight := s.inflight.filter (fun u => u.id ≠ r.id) }
        match ws with
        | some _ => s.reqDone r
        | none => s.spillFail t cause
      | none => if ws.isSome then s else s.spillFail t cause
    else
      let (data, s) := match ws with
        | some d => (d, s)
        | none => (s.spillFail t cause).drawMarked (t.len / 8)
      { s with inflight := s.inflight.map (fun r => if r.id = t.req then { r with data := data, served := true } else r) }

/-- Bytes as words of 8 bytes. -/
def wordsOf (bs : List Byte) (n : Nat) : List W64 := (List.range n).map (fun i => BitVec.ofNat 64 (leAt bs (8 * i) 8))

/-- TIER_COMPLETION: a completion of a host-memory tier read (R261). -/
def execTierCompletion (tag : Nat) (status : RdStatus) (data : List Byte) (s : State) : Outcome :=
  .next (match s.net.tiers.at? tag with
    | none => s
    | some t =>
      match status with
      | .good => s.tierAnswer tag (some ((wordsOf data (t.len / 8)).map (fun w => (w, false)))) 0
      | .poisoned =>
        (s.spillFail t 1).tierAnswer tag (some ((wordsOf data (t.len / 8)).map (fun w => (w, true)))) 1
      | st => s.tierAnswer tag none (spillCause st)).settle

/-- TIER_TIMEOUT: a tier request has had no answer for 10 ms (R261). -/
def execTierTimeout (tag : Nat) (s : State) : Outcome := .next (s.tierAnswer tag none 4).settle

end Sys2Proof.Machine
end

