-- ==== Sys2Proof/Machine/Kv.lean ====
section
/-! DEFINITION. The cache machinery (R265 to R295): tables, frames, slots, pins, spill and fetch, appends and
read streams. Each partition holds its own tables; a cache context has one number in every partition of its
group (log entry 20). -/
namespace Sys2Proof

/-! ### Caches split over modules (R289, R290) -/

/-- This module holds page g of a cache: every page, or in the position layout those of its own number (R290). -/
def Split.has (v : Split) (g : Nat) : Bool := v.layout ≠ 2 || g % Max.max v.modules 1 == v.member

/-- A cache that is not split. -/
def Split.whole : Split := ⟨0, 1, 0⟩

/-- The first slice column from lo on, below hi, of a page that this module holds; hi where there is none (R290). -/
def Split.nextCol (v : Split) (lo hi : Nat) : Nat :=
  (((List.range (hi - lo)).find? (fun i => v.has ((lo + i) / 16))).map (lo + ·)).getD hi

/-- Slice columns from lo to hi - 1 of pages that this module holds (R290). -/
def Split.cols (v : Split) (lo hi : Nat) : Nat := ((List.range (hi - lo)).filter (fun i => v.has ((lo + i) / 16))).length

/-- The page that a null visit delivers: page g, or, where this module does not hold it, the page below it that it holds;
and its first page where there is none below (R275; DESIGN CHOICE, entry 120). -/
def Split.nullPage (v : Split) (g : Nat) : Nat :=
  if v.has g then g else
  let m := Max.max v.modules 1
  if g < v.member then v.member else (g - v.member) / m * m + v.member

end Sys2Proof

namespace Sys2Proof.Machine

/-! ### Tables (R269 to R271, Tables 10.4 to 10.6) -/

/-- The cache of a partition is in use. -/
def State.kvOn (s : State) (p : Nat) : Bool := s.flag .prtKvCtrl p 0 0
/-- Table area base. -/
def State.kvBase (s : State) (p : Nat) : Nat := s.fld .prtKvTablo p 0 31 12 * 4096 + s.fld .prtKvTabhi p 0 15 0 * 2 ^ 32
/-- Table area bytes. -/
def State.kvBytes (s : State) (p : Nat) : Nat := s.fld .prtKvTabhi p 0 31 16 * mib2
/-- Frame table base. -/
def State.ftBase (s : State) (p : Nat) : Nat := s.fld .prtKvFtlo p 0 31 12 * 4096 + s.fld .prtKvFthi p 0 15 0 * 2 ^ 32
/-- Slot bytes. -/
def State.slotBytes (s : State) (p : Nat) : Nat := s.fld .prtKvPsize p 0 8 0 * 4096

/-- An L1 entry (Table 10.4). -/
structure L1Entry where
  valid : Bool
  layers : Nat
  l2pages : Nat
  rg : Nat
  l2base : Nat
  deriving DecidableEq, Repr

/-- Address of an L1 entry. -/
def State.l1Addr (s : State) (p cid : Nat) : Nat := s.kvBase p + 16 * cid
/-- An L1 entry as it stands. -/
def State.l1 (s : State) (p cid : Nat) : L1Entry :=
  let b := s.hbmBytes (s.l1Addr p cid) 16
  ⟨leAt b 0 1 % 2 == 1, leAt b 1 1, leAt b 2 2, leAt b 4 1, leAt b 8 8⟩
/-- An L1 entry written. -/
def State.putL1 (s : State) (p cid : Nat) (e : L1Entry) : State :=
  s.storeBytes (s.l1Addr p cid) (leBytes 1 (b2n e.valid) ++ leBytes 1 e.layers ++ leBytes 2 e.l2pages ++ leBytes 1 e.rg ++
    leBytes 3 0 ++ leBytes 8 e.l2base)

/-- A page-table entry (Table 10.5). -/
structure Pte where
  valid : Bool
  frame : Nat
  fill : Nat
  deriving DecidableEq, Repr

/-- Address of a page-table entry. -/
def L1Entry.pteAddr (e : L1Entry) (layer pidx : Nat) : Nat := e.l2base + 8 * (layer * e.l2pages + pidx)
/-- A page-table entry as it stands. -/
def State.pteAt (s : State) (a : Nat) : Pte :=
  let n := s.hbmNat a 8
  ⟨n % 2 == 1, bitField n 8 24, bitField n 32 9⟩
/-- The entry of a page of a cache. -/
def State.pte (s : State) (p cid layer pidx : Nat) : Pte := s.pteAt ((s.l1 p cid).pteAddr layer pidx)

/-- A frame entry (Table 10.6). -/
structure Frm where
  st : Nat
  clean : Bool
  lossy : Bool
  sealed_ : Bool
  refcnt : Nat
  pin : Nat
  cls : Nat
  last : Nat
  hslot : Nat
  tslot : Nat
  tent : Nat
  deriving DecidableEq, Repr

/-- Address of a frame entry. -/
def State.frmAddr (s : State) (p f : Nat) : Nat := s.ftBase p + 16 * f
/-- A frame entry as it stands. -/
def State.frm (s : State) (p f : Nat) : Frm :=
  let b := s.hbmBytes (s.frmAddr p f) 16
  let fl := leAt b 1 1
  let t := leAt b 12 4
  ⟨leAt b 0 1, fl % 2 == 1, bitField fl 1 1 == 1, bitField fl 2 1 == 1, leAt b 2 2, leAt b 4 1, leAt b 5 1, leAt b 6 2,
    leAt b 8 3, t % 2 ^ 28, t / 2 ^ 28⟩
/-- The bytes of a frame entry. -/
def Frm.bytes (f : Frm) : List Byte :=
  leBytes 1 f.st ++ leBytes 1 (b2n f.clean + 2 * b2n f.lossy + 4 * b2n f.sealed_) ++ leBytes 2 f.refcnt ++ leBytes 1 f.pin ++
    leBytes 1 f.cls ++ leBytes 2 f.last ++ leBytes 3 f.hslot ++ leBytes 1 0 ++ leBytes 4 (f.tslot + f.tent * 2 ^ 28)

/-- Matching look-aside entries leave the partition's three walkers (R273). -/
def State.tlbDrop (s : State) (p : Nat) (f : TlbEntry → Bool) : State :=
  [0, 1, 2].foldl (fun s c => s.modField (ctrField p (16 * c)) (fun v => { v with tlb := v.tlb.filter (fun e => !f e) })) s

/-- A frame entry changed by its home hub; a change of STATE or HSLOT first empties the look-aside entries
(R271, R273). -/
def State.putFrm (s : State) (p f : Nat) (v : Frm) : State :=
  let o := s.frm p f
  let s := if o.st ≠ v.st ∨ o.hslot ≠ v.hslot then s.tlbDrop p (fun e => e.frame == f) else s
  s.storeBytes (s.frmAddr p f) v.bytes

/-- A page-table entry changed by the frame's home hub (R271, R273). -/
def State.putPte (s : State) (p cid layer pidx : Nat) (v : Pte) : State :=
  let a := (s.l1 p cid).pteAddr layer pidx
  (s.tlbDrop p (fun e => e.cid == cid && e.layer == layer && e.pidx == pidx)).storeBytes a
    (leBytes 8 (b2n v.valid + v.frame * 2 ^ 8 + v.fill * 2 ^ 32))

/-- A table or frame entry lies inside the partition's ranges and carries no mark (KV_TABLE). -/
def State.entryOk (s : State) (p a n : Nat) : Bool := s.inRanges p a n && !s.poisoned a && !s.poisoned (a + n - 1)

/-- A cache fault of a partition (Tables 10.11, 16.4). -/
def State.kvEvent (s : State) (c : Code) (p cid layer pidx : Nat) : State :=
  s.event c p cid layer (s.reqidOf p) pidx

/-! ### Slots (R270, R285) -/

/-- The enabled pool segments as base address and slots, in order. -/
def State.segments (s : State) (p : Nat) : List (Nat × Nat) :=
  (List.range 8).filterMap (fun w =>
    if s.flag .prtKvSeg p w 31 then some (s.fld .prtKvSeg p w 18 0 * mib2, s.fld .prtKvSegc p w 23 0) else none)

/-- All HBM slots of a partition. -/
def State.slotTotal (s : State) (p : Nat) : Nat := ((s.segments p).map (·.2)).sum

/-- The address of a slot, walking the segments (R270). -/
def slotIn (bytes : Nat) : List (Nat × Nat) → Nat → Nat
  | [], _ => 0
  | (b, n) :: gs, i => if i < n then b + i * bytes else slotIn bytes gs (i - n)

/-- The address of HBM slot i (R270). -/
def State.slotAddr (s : State) (p i : Nat) : Nat := slotIn (s.slotBytes p) (s.segments p) i

/-- A slot is free and lies in an enabled window (R295). -/
def State.slotFree (s : State) (p i : Nat) : Bool :=
  ((s.part p).slots.at? i).isNone && (s.windows p).any (fun w =>
    decide (w.1 ≤ s.slotAddr p i) && decide (s.slotAddr p i + s.slotBytes p ≤ w.1 + w.2))

/-- First slot numbers of the enabled segments, with their counts. -/
def State.segStarts (s : State) (p : Nat) : List (Nat × Nat) :=
  ((s.segments p).foldl (fun (a : Nat × List (Nat × Nat)) g => (a.1 + g.2, a.2 ++ [(a.1, g.2)])) (0, [])).2

/-- A free slot for a page: consecutive pages take their slots from successive segments in turn (R270). -/
def State.findSlot (s : State) (p pidx : Nat) : Option Nat :=
  let gs := s.segStarts p
  let n := gs.length
  let order := (List.range n).map (fun i => gs.getD ((pidx + i) % n) (0, 0))
  order.findSome? (fun g =>
    (List.range (Min.min g.2 ((s.part p).slots.length + 1))).findSome? (fun i =>
      if s.slotFree p (g.1 + i) then some (g.1 + i) else none))

/-- The state with a slot taken by a frame. -/
def State.takeSlot (s : State) (p i f : Nat) : State := s.modPart p (fun q => { q with slots := q.slots.put i f })
/-- The state with a slot free. -/
def State.dropSlot (s : State) (p i : Nat) : State := s.modPart p (fun q => { q with slots := q.slots.del i })

/-- Tier slots that an entry has for pages of a partition. -/
def State.tierSlots (s : State) (p n : Nat) : Nat := s.fld .memSpillSize 0 n 19 0 * mib2 / Max.max (s.slotBytes p) 1

/-- A free slot in a tier entry, none of any partition that shares it being taken or withheld. -/
def State.findTier (s : State) (p n : Nat) : Option Nat :=
  let used := s.parts.flatMap (fun e => e.2.tslots.map (·.1))
  (List.range (Min.min (s.tierSlots p n) (used.length + 1))).find? (fun t => !used.contains (n * 2 ^ 28 + t))

/-- The target of a spill: entries of TIERMASK whose PMASK names the partition, lowest first, with a free slot
(R285). -/
def State.spillTarget (s : State) (p : Nat) : Option (Nat × Nat) :=
  (List.range 16).findSome? (fun n =>
    if s.flag .prtKvSpill p 0 (16 + n) && s.fld .memSpillCtl 0 n 1 0 ≠ 0 && s.flag .memSpillPmask 0 n p then
      (s.findTier p n).map (fun t => (n, t)) else none)

/-- The frame that is spilled first: in HBM, unpinned, lowest CLASS, then the smallest LAST, then the lowest
number (R285). -/
def State.spillCand (s : State) (p : Nat) (cleanOnly : Bool) : Option Nat :=
  let fs := ((s.part p).slots.map (·.2)).filter (fun f =>
    let v := s.frm p f
    v.st == 1 && v.pin == 0 && (!cleanOnly || v.clean))
  let key (f : Nat) : Nat := ((s.frm p f).cls * 65536 + (s.frm p f).last) * 2 ^ 24 + f
  fs.foldl (fun b f => match b with
    | none => some f
    | some g => if key f < key g then some f else b) none

/-- A CLEAN frame leaves HBM at once (R286). -/
def State.spillClean (s : State) (p f : Nat) : State :=
  let v := s.frm p f
  (s.putFrm p f { v with st := 2 }).dropSlot p v.hslot

/-- The frame that is spilled next: any candidate while a target has room, and else a CLEAN one (R285). -/
def State.nextSpill (s : State) (p : Nat) : Option Nat := s.spillCand p (s.spillTarget p).isNone

/-- How an allocation ends: a slot, a wait for a spill under way or due, KV_POOL_EXHAUSTED (R287), or a fault of a
translation (R294). -/
inductive Got where
  | slot (i : Nat)
  | wait
  | exhausted
  | fault (c : Code)
  deriving DecidableEq, Repr

/-- An HBM slot for a page. Where none is free, the frame that R285 spills first gives its slot at once where it is CLEAN;
else the allocation waits for its spill (R285 to R287). -/
def State.allocSlot (s : State) (p pidx : Nat) : Got × State :=
  match s.findSlot p pidx with
  | some i => (.slot i, s)
  | none =>
    match s.nextSpill p with
    | some f =>
      if (s.frm p f).clean then
        let s := s.spillClean p f
        (match s.findSlot p pidx with
          | some i => .slot i
          | none => .wait, s)
      else (.wait, s)
    | none => if (s.part p).spilling.isEmpty then (.exhausted, s) else (.wait, s)

/-- The lowest frame number that is FREE. -/
def State.findFrame (s : State) (p : Nat) : Nat → Nat → Option Nat
  | 0, _ => none
  | n + 1, f => if (s.frm p f).st = 0 ∧ ((s.part p).copies.at? f).isNone then some f else s.findFrame p n (f + 1)

/-- A free frame number of a partition. -/
def State.freeFrame (s : State) (p : Nat) : Option Nat := s.findFrame p (s.fld .prtKvFrames p 0 23 0) 0

/-- A tier slot returned. -/
def State.dropTier (s : State) (p : Nat) (v : Frm) : State :=
  s.modPart p (fun q => { q with tslots := q.tslots.del (v.tent * 2 ^ 28 + v.tslot) })

/-- A frame that nothing names or uses is freed with its slots (R282). -/
def State.freeIfUnused (s : State) (p f : Nat) : State :=
  let v := s.frm p f
  if v.st = 0 ∨ v.refcnt ≠ 0 ∨ v.pin ≠ 0 then s else
  let s := if v.st = 2 then s else s.dropSlot p v.hslot
  let s := if v.st = 2 ∨ v.clean ∨ v.st = 3 then s.dropTier p v else s
  let s := s.modPart p (fun q => { q with spilling := q.spilling.del f })
  s.putFrm p f ⟨0, false, false, false, 0, 0, 0, 0, 0, 0, 0⟩

/-! ### Pins (R272, R282, R286) -/

/-- A spill under way is cancelled: the frame is in HBM again, and its tier slot is released once the write has finished
(R286). -/
def State.cancelSpill (s : State) (p f : Nat) : State :=
  let v := s.frm p f
  if v.st ≠ 3 then s else
  (s.modPart p (fun q => { q with
    cancelled := q.cancelled.put f (v.tent * 2 ^ 28 + v.tslot), spilling := q.spilling.del f })).putFrm p f { v with st := 1 }

/-- A pin at the frame's home hub: PIN rises, LAST is stamped, a spill under way is cancelled; false where PIN
stands at 255 and the pin waits (R272, R285, R286). -/
def State.pinFrame (s : State) (p f : Nat) : Bool × State :=
  if (s.frm p f).pin ≥ 255 then (false, s) else
  let s := s.cancelSpill p f
  let v := s.frm p f
  (true, s.putFrm p f { v with pin := v.pin + 1, last := (s.part p).uses % 65536 })

/-- An unpin: PIN falls, and a frame that nothing names any more is freed (R272, R282). -/
def State.unpinFrame (s : State) (p f : Nat) : State :=
  let v := s.frm p f
  (s.putFrm p f { v with pin := v.pin - 1 }).freeIfUnused p f

/-! ### Page images (R265 to R268, R288) -/

/-- Bytes of the element area of a page. -/
def areaBytes (rg : Nat) : Nat := rg * 4352
/-- Bytes of the element area of a re-encoded page. -/
def lossyBytes (rg : Nat) : Nat := rg * 2304

/-- A trailer (Table 10.3). -/
def trailer (fill layer flags pidx check : Nat) : List Byte :=
  leBytes 2 fill ++ leBytes 1 layer ++ leBytes 1 flags ++ leBytes 4 pidx ++ leBytes 8 check ++ List.replicate 48 0

/-- The code words of an area that are stored marked. -/
def State.markedIn (s : State) (a n : Nat) : Bool := (List.range (n / 64 + 2)).any (fun i =>
  let c := a / 64 + i
  decide (64 * c < a + n) && decide (a < 64 * c + 64) && s.poisoned (64 * c))

/-- A byte of a page image with the mark of its code word. -/
def nibble (b : Nat) (hi : Bool) : Nat := if hi then b / 16 else b % 16

/-- One E2M1 element of a re-encoded block (R119, R288). -/
def lossyElem (v : Val) (scale : Byte) : Nat := (convScaled 4 scale v none).bits

/-- A slice of 272 bytes re-encoded as 144 bytes: the partner slice of its block shares the scale, so the values
of both give it (R105, R119, R288). -/
def lossySlice (slice partner : List Byte) : List Byte :=
  let elem (sl : List Byte) (i j : Nat) : Val :=
    let w := tileAt 0 i j
    decodeElem 0 (sl.getD (8 * w.1 + w.2) 0).toNat (sl.getD (256 + j) 0)
  let scaleOf (j : Nat) : Byte := mxScale 4 ((List.range 16).map (fun i => elem slice i j) ++ (List.range 16).map (fun i => elem partner i j))
  let put (bs : List Byte) (i j : Nat) : List Byte :=
    let w := tileAt 4 i j
    let at_ := 8 * w.1 + w.2 / 2
    let old := (bs.getD at_ 0).toNat
    bs.set at_ (BitVec.ofNat 8 (setBitField old (4 * (w.2 % 2)) 4 (lossyElem (elem slice i j) (scaleOf j))))
  let data := (List.range 16).foldl (fun bs i => (List.range 16).foldl (fun bs j => put bs i j) bs) (List.replicate 128 0)
  data ++ (List.range 16).map scaleOf

/-- A re-encoded slice widened to E4M3 with its scales kept: every E2M1 value is an E4M3 value (R288). -/
def widenSlice (sl : List Byte) : List Byte :=
  let put (bs : List Byte) (i j : Nat) : List Byte :=
    let w := tileAt 4 i j
    let e := nibble (sl.getD (8 * w.1 + w.2 / 2) 0).toNat (w.2 % 2 == 1)
    let d := tileAt 0 i j
    bs.set (8 * d.1 + d.2) (BitVec.ofNat 8 (convElem 0 (elemVal 4 e) none).bits)
  (List.range 16).foldl (fun bs i => (List.range 16).foldl (fun bs j => put bs i j) bs) (List.replicate 256 0) ++
    (sl.drop 128).take 16

/-- Slice (r, c) of an element area of slices of n bytes. -/
def sliceOf (area : List Byte) (n r c : Nat) : List Byte := (area.drop ((r * 16 + c) * n)).take n

/-- The element area of a page re-encoded (R288). -/
def lossyArea (area : List Byte) (rg : Nat) : List Byte :=
  (List.range rg).flatMap (fun r => (List.range 16).flatMap (fun c =>
    lossySlice (sliceOf area 272 r c) (sliceOf area 272 (if r % 2 = 0 then r + 1 else r - 1) c)))

/-- A re-encoded area widened (R288). -/
def widenArea (area : List Byte) (rg : Nat) : List Byte :=
  (List.range rg).flatMap (fun r => (List.range 16).flatMap (fun c => widenSlice (sliceOf area 144 r c)))

/-! ### Holders (R282 to R284) -/

/-- The request and member that hold a cache context of a group, and whether it is the draft's. -/
def State.holder (s : State) (l cid : Nat) : Option (Request × Nat × Bool) :=
  (s.srv.reqs.filter (fun r => r.group == l)).findSome? (fun r =>
    (List.range r.members.length).findSome? (fun i =>
      match r.members[i]? with
      | some m => if m.cid = cid then some (r, i, false) else if m.dcid = some cid then some (r, i, true) else none
      | none => none))

/-- The service class of a context's holder. -/
def State.holderCls (s : State) (p cid : Nat) : Nat :=
  match s.holder (s.lead p) cid with
  | some (r, _, _) => r.cls
  | none => 0

/-- The holder of a context has asked for lossy spill and the group allows it (R288, R305). -/
def State.mayLose (s : State) (p cid : Nat) : Bool :=
  match s.holder (s.lead p) cid with
  | some (r, i, _) => (match r.members[i]? with
    | some m => (m.sample.getD 10 0).getLsbD 0 && s.flag .prtSrvCtrl (s.lead p) 0 2
    | none => false)
  | none => false

/-- The highest class among the holders of a page of a frame (Table 10.6): contexts whose entry names it. -/
def State.frameCls (s : State) (p f layer g : Nat) : Nat :=
  (((s.part p).ctxs.filter (fun c =>
    let e := s.l1 p c.cid
    let t := s.pte p c.cid layer g
    decide (layer < e.layers) && decide (g < e.l2pages) && t.valid && t.frame == f)).map (fun c => s.holderCls p c.cid)).foldl Max.max 0

/-- A new frame in a new slot with one reference (R279, R284). -/
def State.newFrame (s : State) (p pidx cls : Nat) : Got × Nat × State :=
  match s.freeFrame p with
  | none => (.exhausted, 0, s)
  | some f =>
    let (g, s) := s.allocSlot p pidx
    match g with
    | .slot i => (g, f, (s.putFrm p f ⟨1, false, false, false, 1, 0, cls, (s.part p).uses % 65536, i, 0, 0⟩).takeSlot p i f)
    | _ => (g, f, s)

/-- Slice columns 0 to n - 1 of every row group copied from one slot to another, marks included (R284). -/
def State.copyColumns (s : State) (p from_ to_ rg n : Nat) : State :=
  (List.range rg).foldl (fun s r => (List.range n).foldl (fun s c =>
    let o := r * 4352 + c * 272
    s.storeWords (s.slotAddr p to_ + o) (s.hbmWords (s.slotAddr p from_ + o) 34)) s) s

/-- A frame loses the reference of an entry that names it no more, of one page; CLASS falls to that of the holders left
(R282, Table 10.6). -/
def State.unref (s : State) (p f layer g : Nat) : State :=
  let v := s.frm p f
  (s.putFrm p f { v with refcnt := v.refcnt - 1, cls := s.frameCls p f layer g }).freeIfUnused p f

/-- The accesses of at most 4 KiB that carry a page image between a tier place and the module (R260, R361). They have
rank 0 at the attach: the spec gives deadlines to clove requests (DESIGN CHOICE, entry 116). -/
def State.tierImage (s : State) (p n off : Nat) (store : Bool) (ws : List (W64 × Bool)) : State :=
  let kind := s.fld .memSpillCtl 0 n 1 0
  let base := (s.reg .memSpillBaseh 0 n).toNat * 2 ^ 32 + s.fld .memSpillBasel 0 n 31 12 * 4096
  (List.range (ceilDiv ws.length 512)).foldl (fun s i =>
    let d := (ws.drop (512 * i)).take 512
    let tag := s.host.nextTag
    let s : State := { s with host := { s.host with nextTag := tag + 1 } }
    s.tierSend p kind (s.fld .memSpillCtl 0 n 31 8) (base + off + 4096 * i) (8 * d.length) tag 0 store (if store then d else [])) s

/-- A tier slot holds a page in the form of R268. -/
def State.reEncoded (s : State) (p n t : Nat) : Bool := (s.part p).tslots.atD (n * 2 ^ 28 + t) 0 == 2

/-- Words of a page image in a tier slot (R265, R268). -/
def imageLen (rg : Nat) (lossy : Bool) : Nat := ((if lossy then lossyBytes rg else areaBytes rg) + 64) / 8

/-- The image in a tier slot is asked for (R287). -/
def State.askImage (s : State) (p n t rg : Nat) : State :=
  s.tierImage p n (t * s.slotBytes p) false (List.replicate (imageLen rg (s.reEncoded p n t)) (0, false))

/-- n slice columns of a page's frame copied into a new frame, with what LOSSY says of them; of a frame in the slower tier
the copy is loaded from there, and the frame stays pinned until then. A frame that is being fetched is waited for (R279,
R284, R305). -/
def State.copyPage (s : State) (p old g rg n cls : Nat) : Got × Nat × State :=
  if (s.frm p old).st = 4 || ((s.frm p old).st = 2 && (s.frm p old).pin ≥ 255) then (.wait, 0, s) else
  match s.newFrame p g cls with
  | (.slot i, f, s) =>
    let v := s.frm p old
    let w := { s.frm p f with lossy := v.lossy }
    if v.st = 2 then
      let s := (s.putFrm p old { v with pin := v.pin + 1 }).putFrm p f { w with st := 4 }
      (.slot i, f, (s.modPart p (fun q => { q with copies := q.copies.put f (old, n) })).askImage p v.tent v.tslot rg)
    else (.slot i, f, (s.copyColumns p v.hslot i rg n).putFrm p f w)
  | r => r

/-- A context comes to share a page's frame: a new reference, or, where REFCNT stands at 65,535, a copy, which may have to
wait for a slot, while the old frame stays pinned; a lossy spill under way is cancelled (R283, R284, R287, R288; DEDUCED,
entry 122). -/
def State.shareFrame (s : State) (p old dst layer g fill : Nat) : State :=
  let v := s.frm p old
  if v.refcnt ≥ 65535 then
    match s.copyPage p old g (s.l1 p dst).rg (ceilDiv fill 16) (s.holderCls p dst) with
    | (.slot _, f, s) => s.putPte p dst layer g ⟨true, f, fill⟩
    | (.wait, _, s) =>
      let (ok, s) := s.pinFrame p old
      if ok then s.modPart p (fun q => { q with shares := q.shares ++ [(old, dst, layer, g, fill)] })
      else s.kvEvent .kvPoolExhausted p dst layer g
    | (_, _, s) => s.kvEvent .kvPoolExhausted p dst layer g
  else
    let s := if v.st = 3 ∧ s.reEncoded p v.tent v.tslot then s.cancelSpill p old else s
    let v := s.frm p old
    (s.putFrm p old { v with refcnt := v.refcnt + 1, cls := Max.max v.cls (s.holderCls p dst) }).putPte p dst layer g ⟨true, old, fill⟩

/-- A context of one partition shares positions 0 to k - 1 of another's page (R283). -/
def State.sharePage (s : State) (p src dst k layer g : Nat) : State :=
  let e := s.pte p src layer g
  if e.valid then s.shareFrame p e.frame dst layer g (Min.min (k - 256 * g) 256) else s

/-- Shares whose copy waits for a slot are tried again (R284, R287). -/
def State.wakeShares (s : State) (p : Nat) : State :=
  let ws := (s.part p).shares
  let s := s.modPart p (fun q => { q with shares := [] })
  ws.foldl (fun s w =>
    let s := s.unpinFrame p w.1
    if (s.part p).ctxs.any (fun c => c.cid == w.2.1) then s.shareFrame p w.1 w.2.1 w.2.2.1 w.2.2.2.1 w.2.2.2.2 else s) s

/-- A context shares the first k positions of another in every layer (R283). -/
def State.shareCtx (s : State) (p src dst k : Nat) : State :=
  let e := s.l1 p src
  let s := s.modPart p (fun q => { q with ctxs := q.ctxs.map (fun c =>
    if c.cid = dst then { c with lens := (List.range e.layers).map (fun y => (y, k)) } else c) })
  (List.range e.layers).foldl (fun s layer => (List.range (ceilDiv k 256)).foldl (fun s g =>
    s.sharePage p src dst k layer g) s) s

/-! ### Contexts (R269, R282) -/

/-- A place for an L2 table behind the L1 table: the first gap that holds it. -/
def State.findL2 (s : State) (p n : Nat) : Option Nat :=
  let cs := (s.part p).ctxs
  let starts := (s.kvBase p + 65536) :: cs.map (fun c => c.l2base + c.l2bytes)
  starts.find? (fun a => decide (a + n ≤ s.kvBase p + s.kvBytes p) &&
    !cs.any (fun c => decide (a < c.l2base + c.l2bytes) && decide (c.l2base < a + n)))

/-- The layout of a context's model over modules (R289, R290). -/
def State.splitOf (s : State) (p cid : Nat) : Split :=
  (((s.part p).ctxs.find? (fun c => c.cid == cid)).map (·.split)).getD Split.whole

/-- A cache context made in a partition: its L1 entry, and an L2 table of invalid entries. -/
def State.makeCtx (s : State) (p cid layers l2pages rg : Nat) (split : Split) : State :=
  if !s.kvOn p then s else
  let n := ceilDiv (8 * layers * l2pages) 4096 * 4096
  match s.findL2 p n with
  | none => s
  | some a =>
    let s := s.modPart p (fun q => { q with ctxs := q.ctxs ++ [⟨cid, a, n, split, []⟩] })
    let s : State := { s with hbm := ⟨s.hbm.bytes.filter (fun e => !(decide (a ≤ e.1) && decide (e.1 < a + n))), s.hbm.poison⟩ }
    s.putL1 p cid ⟨true, layers, l2pages, rg, a⟩

/-- A cache context released in a partition: its entries are cleared and every frame loses a reference (R282). -/
def State.releaseCtx (s : State) (p cid : Nat) : State :=
  if !(s.part p).ctxs.any (fun c => c.cid == cid) then s else
  let e := s.l1 p cid
  let s := (List.range e.layers).foldl (fun s layer => (List.range e.l2pages).foldl (fun s g =>
    let t := s.pte p cid layer g
    if t.valid then (s.putPte p cid layer g ⟨false, 0, 0⟩).unref p t.frame layer g else s) s) s
  let s := s.putL1 p cid ⟨false, 0, 0, 0, 0⟩
  s.modPart p (fun q => { q with ctxs := q.ctxs.filter (fun c => c.cid ≠ cid) })

/-- A cache context released in every partition of its group. -/
def State.releaseCid (s : State) (l cid : Nat) : State := (s.group l).foldl (fun s p => s.releaseCtx p cid) s

/-- The lowest CID that no partition of a group uses. -/
def State.freeCid (s : State) (l : Nat) (taken : List Nat) : Option Nat :=
  let used := taken ++ (s.group l).flatMap (fun p => (s.part p).ctxs.map (·.cid)) ++
    (s.srv.reqs.filter (fun r => r.group == l)).flatMap (fun r => r.members.flatMap (fun m => m.cid :: m.dcid.toList)) ++
    (s.srv.handles.filter (fun h => h.group == l)).flatMap (fun h => h.cid :: (h.draft.map (·.2)).toList)
  (List.range (Min.min 4096 (used.length + 1))).find? (fun c => !used.contains c)

/-! ### Spill and fetch (R285 to R288) -/

/-- The slice, as row group and column, that words of a re-encoded area or of its trailer belong to, with its partner in
the block; none for the trailer (R105, R268). -/
def lossyFrom (rg i : Nat) : Option (Nat × Nat × Nat) :=
  let r := i / 288
  if r < rg then some (r, if r % 2 = 0 then r + 1 else r - 1, i % 288 / 18) else none

/-- The words of a page image in a slot, re-encoded where the spill is lossy: a word made from a slice or a partner that
holds a mark carries it (R232, R265, R268, R288). -/
def State.imageWords (s : State) (p f rg : Nat) (lossy : Bool) : List (W64 × Bool) :=
  let a := s.slotAddr p (s.frm p f).hslot
  if lossy then
    let area := lossyArea (s.hbmBytes a (areaBytes rg)) rg
    let t := s.hbmBytes (a + areaBytes rg) 64
    let t := t.set 3 (t.getD 3 0 ||| 4)
    let ws := wordsOf (area ++ t) (imageLen rg true)
    let bad (r c : Nat) : Bool := s.markedIn (a + r * 4352 + c * 272) 272
    ((List.range ws.length).zip ws).map (fun q => (q.2, match lossyFrom rg q.1 with
      | some (r, u, c) => bad r c || bad u c
      | none => s.markedIn (a + areaBytes rg) 64))
  else s.hbmWords a (imageLen rg false)

/-- The page that names a frame: context, layer, page and the cache's row groups; the first context's, where several
share it. -/
def State.framePage (s : State) (p f : Nat) : Option (Nat × Nat × Nat × Nat) :=
  (s.part p).ctxs.findSome? (fun c =>
    let e := s.l1 p c.cid
    (List.range e.layers).findSome? (fun l => (List.range e.l2pages).findSome? (fun g =>
      let t := s.pte p c.cid l g
      if t.valid && t.frame == f then some (c.cid, l, g, e.rg) else none)))

/-- The row groups of the cache that holds a frame. -/
def State.frameRg (s : State) (p f : Nat) : Nat := ((s.framePage p f).map (·.2.2.2)).getD 0

/-- Free slots of a partition. -/
def State.freeSlots (s : State) (p : Nat) : Nat := s.slotTotal p - (s.part p).slots.length

/-- One frame is spilled while the free slots are below LOW, or until they reach HIGH, or an allocation waits:
a CLEAN frame at once, another by storing its image into a tier slot (R285, R286, R288). -/
def State.spillOne (s : State) (p : Nat) (waiting : Bool) : State :=
  let free := s.freeSlots p * 256
  let tot := s.slotTotal p
  let on := (decide (free < s.fld .prtKvSpill p 0 7 0 * tot) || (s.part p).spillOn) && decide (free < s.fld .prtKvSpill p 0 15 8 * tot)
  let s := s.modPart p (fun q => { q with spillOn := on })
  if !on && !waiting then s else
  match s.nextSpill p, s.spillTarget p with
  | none, _ => s
  | some f, t =>
    let v := s.frm p f
    if v.clean then s.spillClean p f else
    match t with
    | none => s
    | some (n, t) =>
      let (cid, _, _, rg) := (s.framePage p f).getD (0, 0, 0, 0)
      let lossy := v.refcnt = 1 && s.mayLose p cid
      let ws := s.imageWords p f rg lossy
      let s := s.putFrm p f { v with st := 3, tslot := t, tent := n }
      let s := s.modPart p (fun q => { q with
        tslots := q.tslots.put (n * 2 ^ 28 + t) (if lossy then 2 else 0), spilling := q.spilling.put f (n * 2 ^ 28 + t) })
      s.tierImage p n (t * s.slotBytes p) true ws

/-- The TierReq of an access of a page image, for its SPILL_FAIL record. -/
def State.pageReq (s : State) (p n off len : Nat) (store : Bool) : TierReq :=
  ⟨p, 0, 0, n, s.fld .memSpillCtl 0 n 1 0, s.fld .memSpillCtl 0 n 31 8, 0, off, len, store⟩

/-- A spill's write ends: the frame goes to TIER with CLEAN set, and LOSSY where it was re-encoded, or back to HBM with
its tier slot withheld; a cancelled spill only gives its tier slot back. LOSSY once set stays (R286, R288, R305). -/
def State.spillDone (s : State) (p f : Nat) (ok : Bool) : State :=
  let v := s.frm p f
  match (s.part p).cancelled.at? f, (s.part p).spilling.at? f with
  | some key, _ => s.modPart p (fun q => { q with
      cancelled := q.cancelled.del f, tslots := if ok then q.tslots.del key else q.tslots.put key 1 })
  | none, some key =>
    let re := s.reEncoded p v.tent v.tslot
    let s := s.modPart p (fun q => { q with spilling := q.spilling.del f })
    if ok then (s.putFrm p f { v with st := 2, clean := true, lossy := v.lossy || re }).dropSlot p v.hslot
    else
      let s := s.spillFail (s.pageReq p v.tent (v.tslot * s.slotBytes p) (s.slotBytes p) true) 0
      (s.putFrm p f { v with st := 1 }).modPart p (fun q => { q with tslots := q.tslots.put key 1 })
  | none, none => s

/-- A fetch of a frame in TIER begins: a slot is found, for its page in turn, and its image is asked for; a frame that is
not in TIER needs none (R270, R287). -/
def State.fetchFrame (s : State) (p f : Nat) : Got × State :=
  let v := s.frm p f
  if v.st ≠ 2 then (.wait, s) else
  let (_, _, g, rg) := (s.framePage p f).getD (0, 0, 0, 0)
  match s.allocSlot p g with
  | (.slot i, s) => (.slot i, ((s.putFrm p f { v with st := 4, hslot := i }).takeSlot p i f).askImage p v.tent v.tslot rg)
  | r => r

/-- Translations that wait for a frame now in HBM are complete (R272, R287). -/
def State.wakeStreams (s : State) (p f : Nat) : State :=
  s.modPart p (fun q => { q with streams := q.streams.map (fun e => (e.1, { e.2 with
    ahead := e.2.ahead.map (fun a => if a.frame = f ∧ a.pinned then { a with ready := true } else a) })) })

/-- The word of a re-encoded image that word i of the widened image comes from: of a data word any of two, as its
elements lie; a scale word's own; and the trailer's (R160, R268, R288). -/
def widenedFrom (rg i : Nat) : List Nat :=
  let sl := i / 34
  let w := i % 34
  if sl < 16 * rg then
    if 32 ≤ w then [sl * 18 + 16 + (w - 32)]
    else ((List.range 256).filterMap (fun e =>
      if (tileAt 0 (e / 16) (e % 16)).1 = w then some (sl * 18 + (tileAt 4 (e / 16) (e % 16)).1) else none)).dedup
  else [rg * 288 + (i - 16 * rg * 34)]

/-- The words of a page, by what the slower tier gave: as they are, or widened with CHECK recomputed; a word carries the
mark of each word that it is made from (R232, R287, R288). -/
def pageWords (rg : Nat) (lossy : Bool) (data : List Byte) (marked : Nat → Bool) : List (W64 × Bool) :=
  if lossy then
    let area := widenArea (data.take (lossyBytes rg)) rg
    let t := (data.drop (lossyBytes rg)).take 64
    let t := t.take 8 ++ leBytes 8 (crc64 area) ++ t.drop 16
    let ws := wordsOf (area ++ t) (imageLen rg false)
    ((List.range ws.length).zip ws).map (fun q => (q.2, (widenedFrom rg q.1).any marked))
  else
    let ws := wordsOf data (imageLen rg false)
    ((List.range ws.length).zip ws).map (fun q => (q.2, marked q.1))

/-- Words of a page put into a slot: the whole image, or the first n slice columns of every row group (R284, R287). -/
def State.putPage (s : State) (a rg : Nat) (cols : Option Nat) (ws : List (W64 × Bool)) : State :=
  match cols with
  | none => s.storeWords a ws
  | some n => (List.range rg).foldl (fun s r => s.storeWords (a + r * 4352) ((ws.drop (r * 544)).take (34 * n))) s

/-- A fetch, or the load of a copy, ends: the image stands in its slot, words of failed tier reads marked, each failed
access with its cause logged, and the frame is in HBM, CLEAN where it was fetched (R261, R284, R287, R288). -/
def State.fetchDone (s : State) (p f : Nat) (data : List Byte) (marked : List Nat) (fails : List (Nat × Nat)) : State :=
  let v := s.frm p f
  if v.st ≠ 4 then s else
  let rg := s.frameRg p f
  let src := (s.part p).copies.at? f
  let from_ := match src with
    | some (old, _) => s.frm p old
    | none => v
  let re := s.reEncoded p from_.tent from_.tslot
  let bad (i : Nat) : Bool := marked.contains i || fails.any (fun e => e.1 == i / 512)
  let s := fails.foldl (fun s e => s.spillFail (s.pageReq p from_.tent (from_.tslot * s.slotBytes p + 4096 * e.1)
    (Min.min 4096 (8 * imageLen rg re - 4096 * e.1)) false) e.2) s
  let s := s.putPage (s.slotAddr p v.hslot) rg (src.map (·.2)) (pageWords rg re data bad)
  let s := s.putFrm p f { v with st := 1, clean := src.isNone }
  let s := match src with
    | some (old, _) => (s.modPart p (fun q => { q with copies := q.copies.del f })).unpinFrame p old
    | none => s
  s.wakeStreams p f

/-! ### Sealing and mirror checks (R281, R317, R369) -/

/-- A mirrored pair is bound (R369). -/
def State.mirrored (s : State) : Bool := s.flag .vngMirror 0 0 24

/-- The key of a checked object: kind (0 page, 1 admission, 2 count table, 3 first token), member, layer, draft
and page. -/
def checkKey (kind member layer draft pidx : Nat) : Nat := (((kind * 64 + member) * 256 + layer) * 2 + draft) * 2 ^ 32 + pidx

/-- The body of MIRROR_CHECK (R369); bytes 6 and 7 carry the kind and the member (log entry 23). -/
def checkBody (count kind member layer draft pidx value : Nat) : List Byte :=
  leBytes 4 count ++ leBytes 1 layer ++ leBytes 1 draft ++ leBytes 1 kind ++ leBytes 1 member ++ leBytes 4 pidx ++
    leBytes 4 0 ++ leBytes 8 value

/-- Two checks of one object are compared: they agree, or the request is voided (R369). -/
def State.compareCheck (s : State) (count key mine theirs : Nat) : State :=
  match s.srv.reqs.find? (fun r => r.mirrorNo == count) with
  | none => s
  | some r =>
    if mine = theirs then
      s.modReq r.id (fun r => { r with objs := r.objs.map (fun o =>
        if checkKey (if o.kind = 0 then 0 else o.kind + 1) o.member o.layer (b2n o.draft) o.pidx = key then { o with agreed := true } else o) })
    else
      let seq := s.err.nextSeq
      let s := s.log .mirrorMismatch r.group ((r.members.map (·.cid)).headD 0) 0 r.id (s.fld .vngMirror 0 0 23 0)
      let s := s.modReq r.id (fun r => if r.void.isSome then r else { r with void := some (Code.mirrorMismatch.val, 2, r.group, seq) })
      s.queueAbort r.group Code.mirrorMismatch.val 2 seq false

/-- This module's check of an object is sent to the partner, and compared when the partner's is held (R369, R372). -/
def State.ownCheck (s : State) (count kind member layer draft pidx value : Nat) : State :=
  if !s.mirrored then s else
  let key := checkKey kind member layer draft pidx
  let s := (s.sendMsg mirrorPart (s.fld .vngMirror 0 0 23 0) 0 0x50 (checkBody count kind member layer draft pidx value) []).2
  match s.net.checksIn.find? (fun c => c.1 == count && c.2.1 == key) with
  | some c =>
    ({ s with net := { s.net with checksIn := s.net.checksIn.erase c } } : State).compareCheck count key value c.2.2.1
  | none => { s with net := { s.net with checksOut := s.net.checksOut ++ [(count, key, value, s.up.time)] } }

/-- A page joins its request's objects for export. The check of a sealed page, or of one whose trailer stands, is sent to a
mirror partner now; of one whose trailer waits for a fetch, when it is written (R281, R317, R369). -/
def State.exportPage (s : State) (p cid layer pidx fill frame : Nat) (check : Option Nat) : State :=
  match s.holder (s.lead p) cid with
  | none => s
  | some (r, m, draft) =>
    let o : ExpObj := ⟨0, m, p, draft, layer, pidx, fill, frame, 0, !s.mirrored, check.isNone⟩
    let s := s.modReq r.id (fun r => { r with objs := r.objs ++ [o] })
    match check with
    | some c => s.ownCheck r.mirrorNo 0 m layer (b2n draft) pidx c
    | none => s

/-- A frame is written to: CLEAN is cleared and its tier slot released (R279). -/
def State.ownFrame (s : State) (p f : Nat) : State :=
  let v := s.frm p f
  if v.clean then (s.dropTier p v).putFrm p f { v with clean := false, tslot := 0, tent := 0 } else s

/-- The trailer of a page in HBM is written, sealed when its FILL is 256, with its CHECK; a spill under way is cancelled and
the frame is no longer CLEAN (R267, R281). -/
def State.writeTrailer (s : State) (p frame layer pidx fill rg : Nat) : Nat × State :=
  let s := (s.cancelSpill p frame).ownFrame p frame
  let v := s.frm p frame
  let a := s.slotAddr p v.hslot
  let full := fill = 256
  let check := if full then crc64 (s.hbmBytes a (areaBytes rg)) else 0
  let flags := b2n full + 2 * b2n (s.markedIn a (areaBytes rg)) + 4 * b2n v.lossy
  let s := s.storeBytes (a + areaBytes rg) (trailer fill layer flags pidx check)
  (check, if full then s.putFrm p frame { v with sealed_ := true } else s)

/-- A page of a cache gets its trailer and joins its request's objects; the trailer of one that is not in HBM is written
once it has been fetched for its export (R267, R281, R317). -/
def State.sealPage (s : State) (p cid layer pidx : Nat) : State :=
  let e := s.pte p cid layer pidx
  let v := s.frm p e.frame
  if v.st = 2 ∨ v.st = 4 then s.exportPage p cid layer pidx e.fill e.frame none
  else
    let (check, s) := s.writeTrailer p e.frame layer pidx e.fill (s.l1 p cid).rg
    s.exportPage p cid layer pidx e.fill e.frame (some check)

/-! ### The walker (R272, R273) -/

/-- The field whose hub runs a queue (R222). -/
def queueField (p j : Nat) : Nat := ctrField p (16 * (j % 3))

/-- Translations in flight in the walker of a field's hub (R272). -/
def State.inWalk (s : State) (p f : Nat) : Nat :=
  ((s.part p).streams.map (fun e => if queueField p (leAt e.2.plan 2 1) = f ∧ e.2.stopped.isNone then
    (e.2.ahead.filter (fun a => !a.ready)).length else 0)).sum +
  ((s.part p).appends.filter (fun e => queueField p e.2.sq == f && e.2.held.isSome && e.2.failed.isNone)).length

/-- Translations that a walker holds in flight (R272). -/
def walkDepth : Nat := 16

/-- What the table reads of a translation find wrong; an invalid page-table entry is no fault here (R272, R294). -/
def State.tableFault (s : State) (p cid layer g : Nat) : Option Code :=
  let e := s.l1 p cid
  if !s.entryOk p (s.l1Addr p cid) 16 then some .kvTable
  else if !e.valid || layer ≥ e.layers || g ≥ e.l2pages then some .kvUnmapped
  else if !s.entryOk p (e.pteAddr layer g) 8 then some .kvTable
  else
    let t := s.pte p cid layer g
    if t.valid && !s.entryOk p (s.frmAddr p t.frame) 16 then some .kvTable else none

/-- The walker keeps the translation that the entries of a page give, of at most 32 a hub; wrong says what its reads found
wrong (R272, R273, R294). -/
def State.readEntry (s : State) (p f cid layer g : Nat) (wrong : Option Code) : Except Code TlbEntry × State :=
  match wrong with
  | some c => (.error c, s)
  | none =>
    let t := s.pte p cid layer g
    if !t.valid then (.error .kvUnmapped, s) else
    let e : TlbEntry := ⟨cid, layer, g, t.frame, t.fill, (s.l1 p cid).rg⟩
    (.ok e, s.modField f (fun v => { v with tlb := (e :: v.tlb).take 32 }))

/-- One translation by the walker of a field's hub: the look-aside entry, or the three table reads (R272, R273, R293,
R294). -/
def State.walk (s : State) (p f cid layer g : Nat) : Except Code TlbEntry × State :=
  match (s.field f).tlb.find? (fun e => e.cid == cid && e.layer == layer && e.pidx == g) with
  | some e => (.ok e, s.modField f (fun v => { v with tlb := e :: v.tlb.erase e }))
  | none =>
    let s := s.addFld .fldKvwStat f 0 15 0 1
    s.readEntry p f cid layer g (s.tableFault p cid layer g)

/-! ### Appends (R278 to R281) -/

/-- The lengths of a context's layers, set for one layer (R278, R290). -/
def State.setLen (s : State) (p cid layer n : Nat) : State :=
  s.modPart p (fun q => { q with ctxs := q.ctxs.map (fun c => if c.cid = cid then { c with lens := c.lens.put layer n } else c) })

/-- The length of a layer as the position layout counts it. -/
def State.lenOf (s : State) (p cid layer : Nat) : Nat :=
  (((s.part p).ctxs.find? (fun c => c.cid == cid)).map (fun c => c.lens.atD layer 0)).getD 0

/-- A cache holds what an append at T needs: pages below that of T full, and that one filled up to T. Pages of other
modules count as full (R278, R290). -/
def State.appendFits (s : State) (p cid layer t n : Nat) : Bool :=
  let e := s.l1 p cid
  let v := s.splitOf p cid
  e.valid && decide (layer < e.layers) && decide (n ≥ 1) && decide (t + n ≤ e.l2pages * 256) &&
    (v.layout ≠ 2 || s.lenOf p cid layer == t) &&
    (List.range (t / 256)).all (fun g => let q := s.pte p cid layer g; !v.has g || (q.valid && q.fill == 256)) &&
    (let q := s.pte p cid layer (t / 256)
     !v.has (t / 256) || (if t % 256 = 0 then !q.valid || q.fill == 0 else q.valid && q.fill == t % 256))

/-- The state with an append changed. -/
def State.putAppend (s : State) (p no : Nat) (a : Append) : State := s.modPart p (fun q => { q with appends := q.appends.put no a })

/-- An append stops with a fault (R294): the event is raised, and a host's KV_SCATTER ends when the request
abort that the event causes is done (R424). -/
def State.failAppend (s : State) (p no : Nat) (c : Code) : State :=
  match (s.part p).appends.at? no with
  | none => s
  | some a =>
    let seq := s.err.nextSeq
    (s.kvEvent c p a.cid a.layer (a.next / 16)).putAppend p no { a with failed := some (c.val, seq) }

/-- A page that an append has pinned is made ready for it: copied where its frame is shared, then fetched, then its own
(R279, R284, R295). -/
def State.readyPage (s : State) (p no : Nat) (a : Append) (g f : Nat) : Got × State :=
  let e := s.pte p a.cid a.layer g
  let s := s.putAppend p no { a with held := some (g, f) }
  let v := s.frm p f
  if v.st = 4 then (.wait, s)
  else if v.refcnt > 1 then
    match s.copyPage p f g (s.l1 p a.cid).rg (ceilDiv e.fill 16) (s.holderCls p a.cid) with
    | (.slot _, new, s) =>
      let s := ((s.putPte p a.cid a.layer g { e with frame := new }).unref p f a.layer g).unpinFrame p f
      let s := ((s.pinFrame p new).2).putAppend p no { a with held := some (g, new) }
      (if (s.frm p new).st = 1 then .slot new else .wait, s)
    | (r, _, s) => (r, s)
  else if v.st = 2 then
    match s.fetchFrame p f with
    | (.slot _, s) => (.wait, s)
    | r => r
  else (.slot f, s.ownFrame p f)

/-- A page made ready for an append: its frame, a wait, KV_POOL_EXHAUSTED, or a fault of its translation. An invalid entry
gets a frame, a slot and FILL 0; any other page is translated and pinned first (R272, R279, R294, R295). -/
def State.preparePage (s : State) (p no : Nat) (a : Append) (g : Nat) : Got × State :=
  let h := queueField p a.sq
  match a.held with
  | some (k, f) => if k = g then s.readyPage p no a g f else (.wait, s)
  | none =>
    if s.inWalk p h ≥ walkDepth then (.wait, s) else
    match s.tableFault p a.cid a.layer g with
    | some c => (.fault c, s.addFld .fldKvwStat h 0 15 0 1)
    | none =>
      if !(s.pte p a.cid a.layer g).valid then
        match s.newFrame p g (s.holderCls p a.cid) with
        | (.slot _, f, s) =>
          (.slot f, (((s.addFld .fldKvwStat h 0 15 0 1).putPte p a.cid a.layer g ⟨true, f, 0⟩).pinFrame p f).2)
        | (r, _, s) => (r, s)
      else
        match s.walk p h a.cid a.layer g with
        | (.error c, s) => (.fault c, s)
        | (.ok e, s) =>
          let (ok, s) := s.pinFrame p e.frame
          if ok then s.readyPage p no a g e.frame else (.wait, s)

/-- The last slice column of an append. -/
def Append.lastCol (a : Append) : Nat := (a.t + a.n - 1) / 16

/-- The store transfer of a slice column (R278, R280). -/
def State.columnTransfer (s : State) (p no : Nat) (a : Append) (f : Nat) : Transfer :=
  let rg := (s.l1 p a.cid).rg
  let addr := s.slotAddr p (s.frm p f).hslot + a.next % 16 * 272
  ⟨0, addr, 272, rg, 4352, none, 0, 0, 0, 0, [], some (2 * no), if a.next = a.t / 16 then a.t % 16 else 0⟩

/-- An append ends: its frames are unpinned and it leaves. -/
def State.endAppend (s : State) (p no : Nat) : State :=
  match (s.part p).appends.at? no with
  | none => s
  | some a =>
    let s := (a.frames.map (·.2) ++ (a.held.map (·.2)).toList).foldl (fun s f => s.unpinFrame p f) s
    s.modPart p (fun q => { q with appends := q.appends.del no })

/-- The state of an append's command once it can make no more progress by itself: none while it goes on. -/
inductive AppEnd where
  | going
  | failed (c : Code)
  deriving DecidableEq, Repr

/-- An append posts its next slice columns, of the pages that this module holds: pages are prepared, and transfers join its
store queue while it has room (R226, R278, R279, R290). -/
def State.runAppend (s : State) (p no : Nat) : Nat → AppEnd × State
  | 0 => (.going, s)
  | n + 1 =>
    match (s.part p).appends.at? no with
    | none => (.going, s)
    | some a =>
      let a := { a with next := (s.splitOf p a.cid).nextCol a.next (a.lastCol + 1) }
      if a.next > a.lastCol then (.going, s.putAppend p no a) else
      let g := a.next / 16
      let (got, s) : Got × State := match a.frames.at? g with
        | some f => (.slot f, s)
        | none => s.preparePage p no a g
      match got with
      | .wait => (.going, s)
      | .exhausted => (.failed .kvPoolExhausted, s)
      | .fault c => (.failed c, s)
      | .slot f =>
        let a := { a with frames := a.frames.put g f, held := none }
        let s := s.putAppend p no a
        let q := s.queue p a.sq
        let t := s.columnTransfer p no a f
        if q.ctx.isNone then (.failed .sqUnset, s)
        else if !s.transferFits p t then (.failed .sqRange, s)
        else if q.posted.length ≥ 16 then (.going, s)
        else ((s.post p a.sq t).putAppend p no { a with next := a.next + 1 }).runAppend p no n

/-- Columns that one call may post. -/
def appendFuel : Nat := 4096

/-- The positions of an append that its accepted columns, and pages of other modules between them, cover (R281, R290). -/
def State.advanceLen (s : State) (p : Nat) (a : Append) (col : Nat) : State :=
  s.setLen p a.cid a.layer (Min.min (16 * col) (a.t + a.n))

/-- FILL of the page of an append's next column advances over that column; a full page is sealed (R281). -/
def State.acceptColumn (s : State) (p : Nat) (a : Append) : State :=
  let g := a.col / 16
  let e := s.pte p a.cid a.layer g
  let fill := Min.min ((a.col + 1) * 16) (a.t + a.n) - 256 * g
  let s := s.putPte p a.cid a.layer g { e with fill := fill }
  if fill = 256 then s.sealPage p a.cid a.layer g else s

/-! ### Read streams (R274 to R277) -/

/-- Fields of a read plan (Table 10.7). -/
def planPattern (b : List Byte) : Nat := leAt b 0 1
def planTile (b : List Byte) : Nat := leAt b 1 1
def planSq (b : List Byte) : Nat := leAt b 2 1
def planRsq (b : List Byte) : Nat := leAt b 3 1
def planNvis (b : List Byte) : Nat := leAt b 4 2
def planNglob (b : List Byte) : Nat := leAt b 6 2
def planQchunk (b : List Byte) : Nat := leAt b 8 4
def planWindow (b : List Byte) : Nat := leAt b 12 4
def planGlist (b : List Byte) : Nat := leAt b 16 8
def planGstride (b : List Byte) : Nat := leAt b 24 4
def planVring (b : List Byte) : Nat := leAt b 32 8

/-- LIST and PAGES plans. -/
def sparse (b : List Byte) : Bool := planPattern b == 1 || planPattern b == 2

/-- A read plan obeys Table 10.7 and R274 for a cache of rg row groups. -/
def planOk (b : List Byte) (rg : Nat) : Bool :=
  let q := planQchunk b
  b.length == 48 && decide (planPattern b ≤ 3) && [1, 8, 16].contains (planTile b) && decide (planTile b ≤ rg) &&
    decide (planSq b ≤ 127) && (decide (planRsq b ≤ 127) || (planRsq b == 255 && !sparse b)) &&
    q % 256 == 0 && decide (256 ≤ q) && decide (q ≤ 1048576) &&
    (!sparse b || (decide (planNvis b ≥ 1) && decide (planNglob b ≤ 8192) && planWindow b % 256 == 0 && decide (planWindow b ≤ 65536))) &&
    planVring b % 4096 == 0 && leAt b 28 4 == 0 && leAt b 40 8 == 0

/-- One visit of a page: every column live, listed positions, or none (R275, R276). -/
inductive Live where
  | all
  | listed (ps : List Nat)
  | dead
  deriving DecidableEq, Repr

/-- The entries of a chunk's list (R275). -/
def State.glist (s : State) (a : Nat) : Nat → List Nat
  | 0 => []
  | n + 1 =>
    let v := s.hbmNat a 4
    if v = 0xFFFFFFFF then [] else v :: s.glist (a + 4) n

/-- A list ascends strictly. -/
def ascending : List Nat → Bool
  | a :: b :: t => decide (a < b) && ascending (b :: t)
  | _ => true

/-- The visits of a chunk in order, of pages that this module holds, or the fault that stops the stream there (R275, R290,
R294). -/
def State.chunkVisits (s : State) (p : Nat) (st : ReadStream) (c : Nat) : Except Code (List (Nat × Live)) :=
  let b := st.plan
  let v := s.splitOf p st.cid
  let q0 := c * planQchunk b
  let q1 := Min.min (q0 + planQchunk b) st.seqlen
  let pages (lo hi : Nat) : List (Nat × Live) :=
    ((List.range (hi - lo)).filter (fun i => v.has (lo + i))).map (fun i => (lo + i, Live.all))
  match planPattern b with
  | 0 => .ok (pages 0 (ceilDiv q1 256))
  | 3 => .ok (pages (q0 / 256) (ceilDiv q1 256))
  | k =>
    let es := s.glist (planGlist b + c * planGstride b) (planNglob b)
    if !ascending es then .error .kvGlist else
    let lo := q0 - planWindow b
    let far : List (Nat × Live) :=
      if k = 1 then
        let ps := es.filter (fun e => decide (e < lo))
        ((ps.map (· / 256)).dedup).map (fun g => (g, Live.listed ((ps.filter (fun e => e / 256 == g)).map (· % 256))))
      else (es.filter (fun e => decide (256 * e < lo))).map (fun e => (e, Live.all))
    let vs := far.filter (fun e => v.has e.1) ++ pages (lo / 256) (q0 / 256)
    if vs.length > planNvis b then .error .kvVisits
    else .ok (vs ++ List.replicate (planNvis b - vs.length) (v.nullPage (q0 / 256), Live.dead))

/-- The n-th visit from chunk c on, over the stream's chunks: its chunk, its place in the chunk, page and live columns. -/
def State.visitAhead (s : State) (p : Nat) (st : ReadStream) : Nat → Nat → Nat → Except Code (Option (Nat × Nat × Nat × Live))
  | 0, _, _ => .ok none
  | f + 1, c, n =>
    if c > st.lastChunk then .ok none else
    match s.chunkVisits p st c with
    | .error e => .error e
    | .ok vs => match vs[n]? with
      | some v => .ok (some (c, n, v.1, v.2))
      | none => s.visitAhead p st f (c + 1) (n - vs.length)

/-- The n-th visit of a stream from its present one on; a stream has at most 4,096 chunks. -/
def State.visitOf (s : State) (p : Nat) (st : ReadStream) (n : Nat) : Except Code (Option (Nat × Nat × Nat × Live)) :=
  s.visitAhead p st 4096 st.chunk (st.visit + n)

/-- FILL that a visit needs before its page may be translated (R277). -/
def fillNeeded (st : ReadStream) (c g : Nat) : Nat :=
  if sparse st.plan then 256
  else Min.min 256 (Min.min ((c + 1) * planQchunk st.plan) st.seqlen - 256 * g)

/-- A stream of a partition. -/
def State.putStream (s : State) (p no : Nat) (st : ReadStream) : State := s.modPart p (fun q => { q with streams := q.streams.put no st })

/-- A stream stops with a fault; what it has posted completes (R294). -/
def State.stopStream (s : State) (p no : Nat) (st : ReadStream) (c : Code) (pidx : Nat) : State :=
  (s.kvEvent c p st.cid st.layer pidx).putStream p no { st with stopped := some c.val }

/-- The stream waits before it translates page g for chunk c: its FILL is too low. A page that has no entry yet, nor any
above it, has FILL 0; an invalid entry below a valid one is no page that an append will bring (R277; DEDUCED, entry
121). -/
def State.fillWaits (s : State) (p : Nat) (st : ReadStream) (c g : Nat) : Bool :=
  let e := s.l1 p st.cid
  let t := s.pte p st.cid st.layer g
  (s.tableFault p st.cid st.layer g).isNone &&
    (if t.valid then decide (t.fill < fillNeeded st c g)
     else !(List.range (e.l2pages - g)).any (fun i => (s.pte p st.cid st.layer (g + i)).valid))

/-- The walker translates the stream's next page, up to PFDIST ahead of the visit being delivered, and sends its pin. A
fault of a chunk's list stops the stream at that chunk (R272, R277, R287, R294). -/
def State.translate (s : State) (p no : Nat) : State :=
  match (s.part p).streams.at? no with
  | none => s
  | some st =>
    let h := queueField p (planSq st.plan)
    if st.stopped.isSome || st.ahead.length > Max.max (s.fld .prtKvCtrl p 0 13 8) 1 || s.inWalk p h ≥ walkDepth then s else
    match s.visitOf p st st.ahead.length with
    | .error c => if st.ahead.isEmpty then s.stopStream p no st c 0 else s
    | .ok none => s
    | .ok (some (c, _, g, _)) =>
      if s.fillWaits p st c g then s else
      match s.walk p h st.cid st.layer g with
      | (.error e, s) => s.stopStream p no st e g
      | (.ok e, s) => s.putStream p no { st with ahead := st.ahead ++ [⟨g, e.frame, false, false⟩] }

/-- The first translation that has not pinned a frame has done so; it is ready where the frame is in HBM. -/
def pinFirst (f : Nat) (here : Bool) : List Ahead → List Ahead
  | [] => []
  | a :: as => if a.frame = f ∧ !a.pinned then { a with pinned := true, ready := here } :: as else a :: pinFirst f here as

/-- A pin reaches the frame's home hub; the reply lets the first translation that waits for it go on, or wait
for its fetch (R272, R293). A frame freed meanwhile is not pinned: its page is translated anew. -/
def State.pinArrives (s : State) (p f : Nat) : State :=
  let unpinned (a : Ahead) : Bool := a.frame == f && !a.pinned
  match (s.part p).streams.find? (fun e => e.2.stopped.isNone && e.2.ahead.any unpinned) with
  | none => s
  | some (no, st) =>
    if (s.frm p f).st = 0 then s.putStream p no { st with ahead := st.ahead.takeWhile (fun a => !unpinned a) } else
    let (ok, s) := s.pinFrame p f
    if !ok then s else
    let here := (s.frm p f).st = 1
    let s := s.putStream p no { st with ahead := pinFirst f here st.ahead }
    if here then s else s.addFld .fldKvwStat (queueField p (planSq st.plan)) 0 31 16 1

/-- The streams and appends that wait for a frame stop: no HBM slot can be freed for its fetch (R287, R294). -/
def State.poolStops (s : State) (p f : Nat) : State :=
  let s := (s.part p).streams.foldl (fun s e =>
    match e.2.ahead.find? (fun a => a.frame == f && a.pinned && !a.ready) with
    | some a => if e.2.stopped.isNone then s.stopStream p e.1 e.2 .kvPoolExhausted a.page else s
    | none => s) s
  (s.part p).appends.foldl (fun s e =>
    match e.2.held with
    | some (_, h) => if h = f ∧ e.2.failed.isNone then s.failAppend p e.1 .kvPoolExhausted else s
    | none => s) s

/-- The fetch of a frame in TIER that something waits for: it begins, a spill makes room for it first, or what waits
for it stops (R287). -/
def State.fetchFor (s : State) (p f : Nat) : Bool × State :=
  if (s.frm p f).st ≠ 2 then (true, s) else
  match s.fetchFrame p f with
  | (.exhausted, s) => (false, s.poolStops p f)
  | (.wait, s) => (true, s.spillOne p true)
  | (_, s) => (true, s)

/-- Row bands of a page read in tiles of t row groups: first row group and rows that are dead (R266). -/
def rowBands (rg t : Nat) : List (Nat × Nat) :=
  (List.range (ceilDiv rg t)).map (fun i => if (i + 1) * t ≤ rg then (i * t, 0) else (rg - t, (i * t - (rg - t)) * 16))

/-- The tiles of a page in order: row group, dead rows, first slice column (R266). -/
def pageTiles (rg t : Nat) : List (Nat × Nat × Nat) :=
  (List.range (16 / Max.max t 1)).flatMap (fun c => (rowBands rg t).map (fun b => (b.1, b.2, c * t)))

/-- A live column of a visit. -/
def Live.has : Live → Nat → Bool
  | .all, _ => true
  | .listed ps, j => ps.contains j
  | .dead, _ => false

/-- The bitmap of one tile in a visit record (R85, R276). -/
def tileBits (t dead c0 : Nat) (l : Live) : List Byte :=
  let n := 16 * t
  let rows := (List.range n).map (fun i => decide (i ≥ dead))
  let cols := (List.range n).map (fun i => l.has (c0 * 16 + i))
  let bits := rows ++ cols
  let words := if t = 1 then 1 else if t = 8 then 4 else 8
  (List.range (8 * words)).map (fun i => BitVec.ofNat 8 ((List.range 8).foldl (fun a b =>
    if bits.getD (8 * i + b) false then a + 2 ^ b else a) 0))

/-- The transfer of one tile of a page (R266). -/
def State.tileTransfer (s : State) (p f t : Nat) (tile : Nat × Nat × Nat) (last : Bool) : Transfer :=
  let a := s.slotAddr p (s.frm p f).hslot + tile.1 * 4352 + tile.2.2 * 272
  ⟨0, a, t * 272, t, 4352, none, 0, 0, 0, 0, [], if last then some (2 * f + 1) else none, 0⟩

/-- The visit record of a stream, written into VRING and posted on RSQ (R276); none while it must wait. -/
def State.postRecord (s : State) (p : Nat) (st : ReadStream) (rg : Nat) (l : Live) : Option (State × Nat) :=
  let b := st.plan
  let bytes := (pageTiles rg (planTile b)).flatMap (fun t => tileBits (planTile b) t.2.1 t.2.2 l)
  let off := if st.vring + bytes.length > 65536 then 0 else st.vring
  let a := planVring b + off
  let q := s.queue p (planRsq b)
  let t : Transfer := ⟨0, a, bytes.length, 1, 0, none, 0, 0, 0, 0, [], none, 0⟩
  if q.posted.length ≥ 16 || q.posted.any (fun u => rangesMeet (u.haddr, u.total) (a, bytes.length)) then none
  else some ((s.storeBytes a bytes).post p (planRsq b) t, off + bytes.length)

/-- A queue that a stream posts on cannot take its transfers: no context, or no MCAST where records need it. -/
def State.streamQueuesOk (s : State) (p : Nat) (st : ReadStream) : Bool :=
  (s.queue p (planSq st.plan)).ctx.isSome && (!sparse st.plan || (match (s.queue p (planRsq st.plan)).ctx with
    | some c => c.getLsbD 1
    | none => false))

/-- The tiles of the present visit are posted while the queue has room. -/
def State.postTiles (s : State) (p no : Nat) (st : ReadStream) (f : Nat) (tiles : List (Nat × Nat × Nat)) : Nat → State × ReadStream
  | 0 => (s, st)
  | n + 1 =>
    match tiles[st.tile]? with
    | none => (s, st)
    | some t =>
      if (s.queue p (planSq st.plan)).posted.length ≥ 16 then (s, st) else
      let tr := s.tileTransfer p f (planTile st.plan) t (st.tile + 1 = tiles.length)
      (s.post p (planSq st.plan) tr).postTiles p no { st with tile := st.tile + 1 } f tiles n

/-- A stream goes on, or leaves when it has made its last visit. -/
def State.putOrEnd (s : State) (p no : Nat) (st : ReadStream) : State :=
  match s.visitOf p st 0 with
  | .ok none => s.modPart p (fun q => { q with streams := q.streams.del no })
  | _ => s.putStream p no st

/-- The stream delivers its next visit, once its page is translated: a record for a sparse stream, then the page's tiles
(R266, R275, R276). -/
def State.visitPage (s : State) (p no : Nat) : State :=
  match (s.part p).streams.at? no with
  | none => s
  | some st =>
    if st.stopped.isSome then s else
    match st.ahead with
    | [] => s
    | a :: rest =>
      if !a.ready then s else
      match s.visitOf p st 0 with
      | .error c => s.stopStream p no st c a.page
      | .ok none => s
      | .ok (some (c, n, _, live)) =>
        if !s.streamQueuesOk p st then s.stopStream p no st .sqUnset a.page else
        let rg := (s.l1 p st.cid).rg
        let tiles := pageTiles rg (planTile st.plan)
        if tiles.any (fun t => !s.transferFits p (s.tileTransfer p a.frame (planTile st.plan) t false)) then
          s.stopStream p no st .sqRange a.page else
        let start : Option (State × ReadStream) :=
          if !st.recorded && sparse st.plan then
            (s.postRecord p st rg live).map (fun r => (r.1, { st with vring := r.2, recorded := true }))
          else some (s, st)
        match start with
        | none => s
        | some (s, st) =>
          let (s, st) := s.postTiles p no st a.frame tiles tiles.length
          if st.tile < tiles.length then s.putStream p no st else
          s.putOrEnd p no { st with chunk := c, visit := n + 1, tile := 0, recorded := false, ahead := rest }

/-- A read stream is armed from a plan (R274); the use counter advances (R285). -/
def State.armStream (s : State) (p : Nat) (plan : List Byte) (cid layer seqlen first last group : Nat) : State :=
  if !s.kvOn p then s.kvEvent .kvOff p cid layer 0 else
  if !planOk plan (s.l1 p cid).rg then s.kvEvent .kvPlan p cid layer 0 else
  let s := s.modPart p (fun q => { q with uses := (q.uses + 1) % 65536 })
  s.putOrEnd p (freeKey (s.part p).streams) ⟨plan, cid, layer, seqlen, first, last, 0, 0, [], 0, false, none, group⟩

/-- An append of positions T to T + n - 1 starts: its number, or the fault that refuses it (R278, R292). -/
def State.startAppend (s : State) (p cid layer sq t n group : Nat) (cmd : Option (Nat × Nat × Nat)) : Except Code Nat × State :=
  if !s.kvOn p then (.error .kvOff, s) else
  if cid < 4096 ∧ !s.entryOk p (s.l1Addr p cid) 16 then (.error .kvTable, s) else
  if cid ≥ 4096 || !s.appendFits p cid layer t n then (.error .kvAppendGap, s) else
  let no := freeKey (s.part p).appends
  let col := (s.splitOf p cid).nextCol (t / 16) ((t + n - 1) / 16 + 1)
  let a : Append := ⟨cid, layer, sq, t, n, col, col, 0, [], none, cmd, group, none⟩
  (.ok no, (s.advanceLen p a col).putAppend p no a)

/-! ### Commands of the cache without a ring -/

/-- PAGE_TRANSLATION (R272, R277); its table reads may meet an HBM error (R248). -/
def execPageTranslation (part : Nat) (stream : HbmReader) (s : State) : Outcome :=
  .next ((s.hbmFind stream.found).translate part stream.id)

/-- PIN: a translation's pin reaches the frame's home hub (R272). -/
def execPin (part frame : Nat) (s : State) : Outcome := .next (s.pinArrives part frame)

/-- An allocation of the partition waits for a spill: a translation, an append or a share meets no free slot. -/
def State.allocWaits (s : State) (p : Nat) : Bool :=
  (s.findSlot p 0).isNone && ((s.part p).streams.any (fun e => e.2.stopped.isNone && e.2.ahead.any (fun a => a.pinned && !a.ready)) ||
    (s.part p).appends.any (fun e => decide (e.2.next ≤ e.2.lastCol) && (e.2.frames.at? (e.2.next / 16)).isNone) ||
    !(s.part p).shares.isEmpty)

/-- FRAME_FETCH (R287). -/
def execFrameFetch (part frame : Nat) (s : State) : Outcome := .next (s.fetchFor part frame).2

/-- READ_STREAM_VISIT (R275, R276); its read of the chunk's list may meet an HBM error (R248). -/
def execReadStreamVisit (part : Nat) (stream : HbmReader) (s : State) : Outcome :=
  .next ((s.hbmFind stream.found).visitPage part stream.id).settle

end Sys2Proof.Machine
end

