-- ==== Sys2Proof/Machine/Rings.lean ====
section
/-! DEFINITION. The host's rings (R329 to R340, R343, R344): fetching descriptors, packets and payloads,
the form of every command packet, completion and request-end records, MSI-X vectors, and FENCE. -/
namespace Sys2Proof.Machine

/-! ### Statuses and detail (Table 12.5, R423) -/

/-- The statuses of Table 12.5. -/
inductive Status where
  | ok | pktFormat | payloadFetch | conflictLost | resetAbort | weightRange | programImage | programBusy
  | fenceScope | srvOff | programSpace | cancelled | voided | quotaFull | programAbsent | tokenRange
  | sampleParam | classRange | routeUnset | draftMismatch | prefixUnknown | prefixMismatch | prefixExists
  | prefixRange | adapterImage | adapterBusy | adapterUnknown | pauseLate | resumeStale | reqUnknown | sfuImage
  deriving DecidableEq, Repr

/-- The value of a status (Table 12.5). -/
def Status.val : Status → Nat
  | .ok => 0x0000
  | .pktFormat => 0x0101
  | .payloadFetch => 0x0102
  | .conflictLost => 0x0103
  | .resetAbort => 0x0104
  | .weightRange => 0x0105
  | .programImage => 0x0106
  | .programBusy => 0x0107
  | .fenceScope => 0x0108
  | .srvOff => 0x0109
  | .programSpace => 0x010A
  | .cancelled => 0x0201
  | .voided => 0x0202
  | .quotaFull => 0x0203
  | .programAbsent => 0x0204
  | .tokenRange => 0x0205
  | .sampleParam => 0x0206
  | .classRange => 0x0207
  | .routeUnset => 0x0208
  | .draftMismatch => 0x0209
  | .prefixUnknown => 0x020A
  | .prefixMismatch => 0x020B
  | .prefixExists => 0x020C
  | .prefixRange => 0x020D
  | .adapterImage => 0x020E
  | .adapterBusy => 0x020F
  | .adapterUnknown => 0x0210
  | .pauseLate => 0x0211
  | .resumeStale => 0x0212
  | .reqUnknown => 0x0213
  | .sfuImage => 0x0214

/-- The DETAIL field: code, class, partition and the low 32 bits of SEQ (R423). -/
def detailOf (code cls part seq : Nat) : Nat :=
  code % 2 ^ 16 + cls % 2 ^ 8 * 2 ^ 16 + part % 2 ^ 8 * 2 ^ 24 + seq % 2 ^ 32 * 2 ^ 32

/-- DETAIL of a refusal that writes no log record (R423). -/
def refusalDetail (st p : Nat) : Nat := if st = 0 then 0 else detailOf st 0 p 0

/-! ### Ring registers (R329, R330, Table 12.6) -/

/-- A ring's state beyond its registers. -/
def State.ring (s : State) (p r : Nat) : Ring := s.host.rings.atD (p * 8 + r) Ring.fresh
/-- The state with a ring changed. -/
def State.modRing (s : State) (p r : Nat) (f : Ring → Ring) : State :=
  { s with host := { s.host with rings := s.host.rings.put (p * 8 + r) (f (s.ring p r)) } }
/-- Entries of a submission ring. -/
def State.sqN (s : State) (p r : Nat) : Nat := 2 ^ s.fld .prtSqCfg p r 4 0
/-- Entries of a completion ring. -/
def State.cqN (s : State) (p r : Nat) : Nat := 2 ^ s.fld .prtCqCfg p r 4 0
/-- A submission ring is enabled. -/
def State.sqOn (s : State) (p r : Nat) : Bool := s.flag .prtSqCfg p r 8
/-- A completion ring is enabled. -/
def State.cqOn (s : State) (p r : Nat) : Bool := s.flag .prtCqCfg p r 8
/-- Head of a submission ring (R329). -/
def State.sqHead (s : State) (p r : Nat) : Nat := s.fld .prtSqCfg p r 31 16
/-- Base of a submission ring. -/
def State.sqBase (s : State) (p r : Nat) : Nat := s.fld .prtSqBasel p r 31 12 * 4096 + (s.reg .prtSqBaseh p r).toNat * 2 ^ 32
/-- Base of a completion ring. -/
def State.cqBase (s : State) (p r : Nat) : Nat := s.fld .prtCqBasel p r 31 12 * 4096 + (s.reg .prtCqBaseh p r).toNat * 2 ^ 32
/-- Descriptors pending on a ring (R329). -/
def State.pendingDesc (s : State) (p r : Nat) : Nat :=
  ((s.ring p r).tail + s.sqN p r - s.sqHead p r % s.sqN p r) % s.sqN p r
/-- The completion ring has no slot for a record: its tail stands at CQ_HEAD − 1 (R333). -/
def State.cqFull (s : State) (p r : Nat) : Bool :=
  (s.fld .prtCqTail p r 15 0 + 1) % s.cqN p r == (s.ring p r).cqHead % s.cqN p r
/-- Commands of a partition in flight (R297). -/
def State.cmdsUsed (s : State) (p : Nat) : Nat := s.fld .prtSrvStat p 0 30 16

/-- CONTEXTS_USED of a group's leader, from its requests (R297, Table 11.8). -/
def State.syncContexts (s : State) (l : Nat) : State :=
  s.setFld .prtSrvStat l 0 12 0 (s.srv.reqs.filter (fun r => r.group == l)).length

/-! ### Doorbells (R330) -/

/-- Doorbell entries cut to at most n descriptors. -/
def keepDoors : Nat → List (Nat × Nat) → List (Nat × Nat)
  | _, [] => []
  | n, (c, d) :: ds => if n = 0 then [] else (Min.min c n, d) :: keepDoors (n - c) ds

/-- The posted tail set: the latest value stands, and new descriptors take this doorbell's number (R330, R340). -/
def State.postTail (s : State) (p r v : Nat) : State :=
  let old := s.pendingDesc p r
  let s := s.modRing p r (fun g => { g with tail := v })
  let new := s.pendingDesc p r
  let d := s.host.doorNo
  let s : State := { s with host := { s.host with doorNo := d + 1 } }
  s.modRing p r (fun g => { g with doors := if new ≤ old then keepDoors new g.doors else g.doors ++ [(new - old, d)] })

/-- A doorbell: SQ_TAIL (cq false) or CQ_HEAD, from an attach; ignored and logged when it is not the owner's,
when its index is N or more, and when its ring is disabled (R330). -/
def State.doorbell (s : State) (b : Bool) (p r : Nat) (cq : Bool) (v : W32) : State :=
  let idx := v.toNat % 65536
  let n := if cq then s.cqN p r else s.sqN p r
  let on := if cq then s.cqOn p r else s.sqOn p r
  if s.ownerOf p ≠ b || !on || n ≤ idx then s.hostAccess p (p * 0x8000 + r * 0x1000 + (if cq then 4 else 0))
  else if cq then s.modRing p r (fun g => { g with cqHead := idx })
  else s.postTail p r idx

/-! ### The form of packets (R337, R338, Tables 12.3, 12.7, 12.8) -/

/-- Every byte of a field is zero. -/
def zeros (b : List Byte) (off n : Nat) : Bool := ((b.drop off).take n).all (· == 0)

/-- The OPC of a command. -/
def Cmd.opc (c : Cmd) : Nat := leAt c.packet 1 1
/-- The parameters of a command. -/
def Cmd.params (c : Cmd) : List Byte := c.packet.drop 16

/-- A descriptor obeys Table 12.3. -/
def descOk (d : List Byte) : Bool :=
  decide (leAt d 0 1 < 2) && zeros d 1 3 && leAt d 8 8 % 64 == 0 && decide (leAt d 28 4 ≤ 65535) && zeros d 32 32

/-- A packet header names a parameter length of R337. -/
def headerLen (h : List Byte) : Option Nat :=
  let n := leAt h 2 2
  if n % 8 = 0 ∧ n ≤ 4080 then some n else none

/-- MEMBERS of PREFILL_SUBMIT. -/
def submitMembers (b : List Byte) : Nat := leAt b 6 1
/-- NTOK of a member. -/
def submitNtok (b : List Byte) (i : Nat) : Nat := leAt b (64 + 48 * i) 4

/-- The parameter length that each command has (R337). -/
def opcLen (opc : Nat) (b : List Byte) : Option Nat :=
  match opc with
  | 0x01 => some (64 + 48 * submitMembers b)
  | 0x02 => some 24
  | 0x03 => some 8
  | 0x04 => some 8
  | 0x05 => some 8
  | 0x06 => some 8
  | 0x07 => some 16
  | 0x08 => some 16
  | 0x09 => some 8
  | 0x0A => some 8
  | 0x0B => some 16
  | 0x0C => some 8
  | 0x0D => some 16
  | 0x0E => some 32
  | _ => none

/-- A node of EXPORT_ROUTE: a node ID of R351, or none where that is allowed (Table 12.7). -/
def routeNode (v : Nat) (mayNone : Bool) : Bool := decide (0 < v) && (decide (v < 0xFFFFFF) || (mayNone && v == 0xFFFFFF))

/-- The parameters of a command obey Tables 12.7 and 12.8. -/
def paramsOk (opc : Nat) (b : List Byte) : Bool :=
  match opc with
  | 0x01 =>
    let m := submitMembers b
    decide (leAt b 4 1 ≤ 2) && decide (leAt b 5 1 < 8) && decide (1 ≤ m) && decide (m ≤ 64) &&
      (bitField (leAt b 5 1) 1 1 == 0 || m == 1) && zeros b 7 1 && zeros b 10 6 && zeros b 36 28 &&
      (List.range m).all (fun i => decide (1 ≤ submitNtok b i) && zeros b (69 + 48 * i) 11)
  | 0x02 =>
    decide (leAt b 20 1 ≤ 1) && (if leAt b 20 1 = 0 then zeros b 12 4 && decide (leAt b 21 1 ≤ 63) else zeros b 21 1) && zeros b 22 2
  | 0x04 => zeros b 2 6
  | 0x05 => leAt b 0 8 % 64 == 0
  | 0x06 => decide (leAt b 0 1 ≤ 2) && zeros b 1 1 && zeros b 4 4
  | 0x07 => zeros b 12 4
  | 0x08 => decide (leAt b 4 1 ≤ 1) && zeros b 5 3 && leAt b 8 8 % 64 == 0
  | 0x09 => decide (leAt b 4 1 ≤ 1) && zeros b 5 3
  | 0x0A => zeros b 4 4
  | 0x0B => decide (leAt b 4 4 ≠ 0) && decide (leAt b 8 4 ≠ 0) && zeros b 12 4
  | 0x0C => zeros b 5 3
  | 0x0D => decide (1 ≤ leAt b 4 4) && decide (leAt b 4 4 ≤ 131072) && leAt b 8 4 % 64 == 0 && zeros b 12 4
  | 0x0E =>
    zeros b 1 3 && routeNode (leAt b 4 4) false && routeNode (leAt b 12 4) true && routeNode (leAt b 20 4) false && zeros b 28 4
  | _ => true

/-- PAY_LEN is the length that the parameters require (R338, Table 12.7). -/
def payLenOk (opc : Nat) (b : List Byte) (n : Nat) : Bool :=
  match opc with
  | 0x01 => n == 4 * ((List.range (submitMembers b)).map (submitNtok b)).sum
  | 0x04 => true
  | 0x05 => decide (64 ≤ n) && n % 64 == 0
  | 0x06 => leAt b 0 1 != 2 || n == 0
  | 0x09 => n == (if leAt b 4 1 = 1 then 256 else 0)
  | 0x0D => n == 4 * leAt b 4 4
  | _ => n == 0

/-- A packet obeys R337 and Table 12.7, with a payload of n bytes. -/
def packetOk (pkt : List Byte) (n : Nat) : Bool :=
  let opc := leAt pkt 1 1
  let b := pkt.drop 16
  decide (16 ≤ pkt.length) && leAt pkt 0 1 == 1 && zeros pkt 4 12 && (headerLen pkt).isSome && leAt pkt 2 2 == b.length &&
    opcLen opc b == some b.length && paramsOk opc b && payLenOk opc b n

/-- Entries of a scatter list: address, length, and whether the entry is well formed (R337). -/
def scatterList (bs : List Byte) : Nat → List (Nat × Nat × Bool)
  | 0 => []
  | n + 1 =>
    let k := leAt bs 8 4
    (leAt bs 0 8, k, decide (1 ≤ k) && zeros bs 12 4) :: scatterList (bs.drop 16) n

/-! ### Records (R332, R333, Table 12.4) -/

/-- A record made now. -/
def State.makeRec (s : State) (tag : W32) (status kind member reqid result detail : Nat) (irq counted : Bool) : Rec × State :=
  let n := s.host.doorNo
  (⟨tag, status, kind, member, reqid % 2 ^ 32, result % 2 ^ 64, detail, irq, counted, n⟩,
   { s with host := { s.host with doorNo := n + 1 } })

/-- The records of a ring's oldest ended commands leave for the completion ring, in ring order (R332). -/
def Ring.advance (g : Ring) : Ring :=
  let done := g.cmds.takeWhile (fun c => c.answer.isSome)
  { g with cmds := g.cmds.dropWhile (fun c => c.answer.isSome), recs := g.recs ++ done.filterMap (·.answer) }

/-- A command of a ring ends with a status and its record (R332, R334). -/
def State.endCmd (s : State) (p r no status reqid result detail : Nat) : State :=
  match (s.ring p r).cmds.find? (fun c => c.no == no && c.answer.isNone) with
  | none => s
  | some c =>
    let (q, s) := s.makeRec c.tag status 0 0 reqid result detail c.irq true
    s.modRing p r (fun g => Ring.advance { g with cmds := g.cmds.map (fun d => if d.no = no then { d with answer := some q } else d) })

/-- A command ends with a status of Table 12.5 and no log record. -/
def State.answer (s : State) (p r : Nat) (c : Cmd) (st : Status) (reqid result : Nat) : State :=
  s.endCmd p r c.no st.val reqid result (refusalDetail st.val p)

/-- The ring that holds a command, by its number. -/
def State.cmdRing (s : State) (no : Nat) : Option (Nat × Nat) :=
  (s.host.rings.find? (fun e => e.2.cmds.any (fun c => c.no == no && c.answer.isNone))).map (fun e => (e.1 / 8, e.1 % 8))

/-- A command that waits on an event ends, wherever its ring. -/
def State.endWaiting (s : State) (no status reqid result detail : Nat) : State :=
  match s.cmdRing no with
  | some (p, r) => s.endCmd p r no status reqid result detail
  | none => s

/-- A command of a ring waits for an event; those behind it may take effect (R332). -/
def State.waitCmd (s : State) (p r no : Nat) : State :=
  s.modRing p r (fun g => { g with cmds := g.cmds.map (fun c => if c.no = no then { c with wait := true } else c) })

/-- A request-end record of a member of a request, for the ring of its PREFILL_SUBMIT (R298, R332). -/
def State.pushEnd (s : State) (q : Request) (member status result detail : Nat) : State :=
  let (r, s) := s.makeRec q.tag status 1 member q.id result detail false false
  s.modRing q.part q.ring (fun g => { g with recs := g.recs ++ [r] })

/-- Every command of a partition that has been fetched and has not ended receives RESET_ABORT, in ring order
(R343). -/
def State.abortCmds (s : State) (p detail : Nat) : State :=
  (List.range 8).foldl (fun s r =>
    (s.ring p r).cmds.foldl (fun s c => s.endCmd p r c.no Status.resetAbort.val 0 0 detail) s) s

/-! ### Front commands (R332, R337) -/

/-- The command of a ring whose turn it is: the oldest that has neither ended nor begun to wait. -/
def State.front (s : State) (p r : Nat) : Option Cmd :=
  (s.ring p r).cmds.find? (fun c => c.answer.isNone && !c.wait)

/-- The front command of a ring where it has this OPC and its payload's reads have ended. -/
def State.frontOf (s : State) (p r opc : Nat) : Option Cmd :=
  match s.front p r with
  | some c => if c.opc = opc ∧ c.payStat.isSome then some c else none
  | none => none

/-- The payload of a command came whole and unpoisoned. -/
def Cmd.paid (c : Cmd) : Bool := c.payStat == some .good

/-- The front command of a ring as a serving command: SRV_OFF ends it while the leader's serving is off (R338). -/
def State.serving (s : State) (p r opc : Nat) (f : Cmd → State) : State :=
  match s.frontOf p r opc with
  | none => s
  | some c => if s.flag .prtSrvCtrl (s.lead p) 0 0 then f c else s.answer p r c .srvOff 0 0

/-! ### Reads of host memory (R322, R331, R335, R337) -/

/-- A read asked of the host through the owning attach. -/
def State.askHost (s : State) (q : HostRead) : State :=
  let t := s.host.nextTag
  { s with host := { s.host with nextTag := t + 1, reads := s.host.reads.put t q, asked := s.host.asked ++ [(t, q)] } }

/-- A read of a kind is in flight for a ring. -/
def State.reading (s : State) (p r : Nat) (f : ReadKind → Bool) : Bool :=
  s.host.reads.any (fun e => e.2.part == p && e.2.ring == r && f e.2.kind)

/-- Reads of a descriptor or its packet. -/
def ReadKind.fetch : ReadKind → Bool
  | .descriptor => true
  | .packet => true
  | _ => false

/-- The state with one command of a ring changed. -/
def State.modCmd (s : State) (p r no : Nat) (f : Cmd → Cmd) : State :=
  s.modRing p r (fun g => { g with cmds := g.cmds.map (fun c => if c.no = no then f c else c) })

/-- The next payload read of a ring: its oldest command that still needs one, at most 4 KiB, not across a
4 KiB boundary; one such read of a ring is in flight at a time (R322, R337). -/
def State.nextPayRead (s : State) (p r : Nat) : State :=
  if !s.attachOpen (s.ownerOf p) || s.reading p r (fun k => !k.fetch) then s else
  match (s.ring p r).cmds.find? (fun c => c.answer.isNone && c.payStat.isNone) with
  | none => s
  | some c =>
    let ask (k : ReadKind) (a n : Nat) : State := s.askHost ⟨p, r, k, a, Min.min n (4096 - a % 4096), leBytes 8 c.no⟩
    if !c.listed then ask .list (c.payAddr + c.payload.length) (16 * c.paySegs - c.payload.length)
    else match c.segs with
      | (a, n) :: _ => ask .payload a n
      | [] => s

/-- A command's payload has all come (R335, R339). -/
def Cmd.settlePay (c : Cmd) : Cmd :=
  if c.listed && c.segs.isEmpty && c.payStat.isNone then
    { c with payStat := some (if c.poisoned.isEmpty then .good else .poisoned) } else c

/-- n bytes taken from the front of a list of segments. -/
def takeSegs (n : Nat) : List (Nat × Nat) → List (Nat × Nat)
  | [] => []
  | (a, k) :: t => if n < k then (a + n, k - n) :: t else t

/-- The doors of a ring once one descriptor has been fetched. -/
def popDoor : List (Nat × Nat) → List (Nat × Nat)
  | [] => []
  | (c, d) :: ds => if c ≤ 1 then ds else (c - 1, d) :: ds

/-- A descriptor and its packet have been read: head moves on, and the command joins its ring; one that breaks
Table 12.3, R337 or Table 12.7 ends with PKT_FORMAT (R331, R338). -/
def State.fetched (s : State) (p r : Nat) (desc pkt : List Byte) : State :=
  let n := leAt desc 24 4
  let k := leAt desc 28 4
  let ok := descOk desc && packetOk pkt n
  let no := s.host.doorNo
  let s : State := { s with host := { s.host with doorNo := no + 1 } }
  let c : Cmd := ⟨no, ((s.ring p r).doors.headD (0, 0)).2, BitVec.ofNat 32 (leAt desc 4 4), (desc.getD 0 0).getLsbD 0, pkt, n, k,
    leAt desc 16 8, [], [], none, if k = 0 ∧ 0 < n then [(leAt desc 16 8, n)] else [], !ok, decide (k = 0), none, false⟩
  let s := s.setFld .prtSqCfg p r 31 16 ((s.sqHead p r + 1) % s.sqN p r)
  let s := s.addFld .prtSrvStat p 0 30 16 1
  let s := s.modRing p r (fun g => { g with doors := popDoor g.doors, cmds := g.cmds ++ [c.settlePay] })
  if ok then s.nextPayRead p r else s.answer p r c .pktFormat 0 0

/-- A read of a descriptor or a packet fails: a PAYLOAD_FETCH record, ERR set, EN cleared, head kept (R335). -/
def State.fetchFailed (s : State) (p r : Nat) (desc : List Byte) : State :=
  let tag := BitVec.ofNat 32 (leAt desc 4 4)
  let irq := (desc.getD 0 0).getLsbD 0
  let (q, s) := s.makeRec tag Status.payloadFetch.val 0 0 0 0 (refusalDetail Status.payloadFetch.val p) irq false
  let no := s.host.doorNo
  let s : State := { s with host := { s.host with doorNo := no + 1 } }
  let c : Cmd := ⟨no, 0, tag, irq, [], 0, 0, 0, [], [], some .good, [], true, true, some q, false⟩
  let s := s.modRing p r (fun g => Ring.advance { g with cmds := g.cmds ++ [c] })
  (s.setFld .prtSqCfg p r 9 9 1).setFld .prtSqCfg p r 8 8 0

/-- A scatter list has been read (R337). -/
def State.listRead (s : State) (p r : Nat) (c : Cmd) : State :=
  let es := scatterList c.payload c.paySegs
  if es.any (fun e => !e.2.2) || (es.map (fun e => e.2.1)).sum ≠ c.payLen then s.answer p r c .pktFormat 0 0
  else s.modCmd p r c.no (fun c => Cmd.settlePay { c with listed := true, payload := [], segs := es.map (fun e => (e.1, e.2.1)) })

/-- A payload or list read has been answered. WEIGHT_LOAD stores poisoned data marked and goes on; every other
failure ends the command's reading (R335, R339). -/
def State.payRead (s : State) (q : HostRead) (no : Nat) (st : RdStatus) (data : List Byte) : State :=
  let s : State := match (s.ring q.part q.ring).cmds.find? (fun c => c.no == no) with
    | none => s
    | some c =>
      if c.answer.isSome then s else
      let d := padTo q.len data
      let weights := c.opc == 0x05 && q.kind == .payload
      if st = .good ∨ (st = .poisoned ∧ weights) then
        let from_ := c.payload.length
        let bad := if st = .poisoned then (List.range (ceilDiv (from_ + q.len) 8 - from_ / 8)).map (from_ / 8 + ·) else []
        let c' : Cmd := { c with payload := c.payload ++ d, poisoned := c.poisoned ++ bad }
        if q.kind = .list then
          let s := s.modCmd q.part q.ring no (fun _ => c')
          if c'.payload.length ≥ 16 * c.paySegs then s.listRead q.part q.ring c' else s
        else s.modCmd q.part q.ring no (fun _ => Cmd.settlePay { c' with segs := takeSegs q.len c.segs })
      else s.modCmd q.part q.ring no (fun c =>
        { c with payStat := some st, listed := true, segs := [], payload := if q.kind = .list then [] else c.payload })
  s.nextPayRead q.part q.ring

/-- A host read ends with a status and, where it succeeds, its data (R335). -/
def State.hostAnswer (s : State) (tag : Nat) (st : RdStatus) (data : List Byte) : State :=
  match s.host.reads.at? tag with
  | none => s
  | some q =>
    let s : State := { s with host := { s.host with reads := s.host.reads.del tag } }
    let d := padTo q.len data
    match q.kind with
    | .descriptor =>
      if st ≠ .good then s.fetchFailed q.part q.ring []
      else s.askHost ⟨q.part, q.ring, .packet, leAt d 8 8, 16, d⟩
    | .packet =>
      let desc := q.desc.take 64
      if st ≠ .good then s.fetchFailed q.part q.ring desc
      else if q.desc.length = 64 then
        match headerLen d with
        | some n => if n = 0 then s.fetched q.part q.ring desc d
          else s.askHost ⟨q.part, q.ring, .packet, leAt desc 8 8 + 16, n, desc ++ d⟩
        | none => s.fetched q.part q.ring desc d
      else s.fetched q.part q.ring desc (q.desc.drop 64 ++ d)
    | _ => s.payRead q (leNat q.desc) st data

/-- Reads of descriptors and packets of a ring are given up: its fetching stops (R336). -/
def State.dropFetch (s : State) (p r : Nat) : State :=
  { s with host := { s.host with reads := s.host.reads.filter (fun e => !(e.2.part == p && e.2.ring == r && e.2.kind.fetch)) } }

/-- A ring's next descriptor may be fetched (R331, R333, R429). -/
def State.mayFetch (s : State) (p r : Nat) : Bool :=
  s.sqOn p r && decide (0 < s.pendingDesc p r) && !s.cqFull p r && !s.reading p r ReadKind.fetch

/-- The partition is below its quota of commands, those being fetched included (R297). -/
def State.cmdRoom (s : State) (p : Nat) : Bool :=
  decide (s.cmdsUsed p + (s.host.reads.filter (fun e => e.2.part == p && e.2.kind.fetch)).length < s.fld .prtSrvQuota p 0 30 16)

/-- A map epoch holds the fetching of a partition's group (R416). -/
def State.epochHolds (s : State) (p : Nat) : Bool :=
  match s.up.epoch with
  | some (q, _) => s.lead q == s.lead p
  | none => false

/-- The partition's next descriptor fetch, its rings taken in rotation (R331); none while it is out of service (R23). -/
def State.fetchNext (s : State) (p : Nat) : State :=
  if s.partOut p || s.gated p || !s.attachOpen (s.ownerOf p) || !s.cmdRoom p || s.epochHolds p then s else
  let from_ := s.host.turn.atD p 0
  match ((List.range 8).map (fun i => (from_ + i) % 8)).find? (s.mayFetch p) with
  | none => s
  | some r =>
    let s : State := { s with host := { s.host with turn := s.host.turn.put p ((r + 1) % 8) } }
    s.askHost ⟨p, r, .descriptor, s.sqBase p r + 64 * s.sqHead p r, 64, []⟩

/-- DESCRIPTOR_FETCH (R331). -/
def execDescriptorFetch (part : Nat) (s : State) : Outcome := .next (s.fetchNext part)

/-- HOST_READ_COMPLETION (R335). -/
def execHostReadCompletion (tag : Nat) (status : RdStatus) (data : List Byte) (s : State) : Outcome :=
  .next (s.hostAnswer tag status data)

/-- HOST_READ_TIMEOUT: a host read has had no completion for 10 ms (R322, R335). -/
def execHostReadTimeout (tag : Nat) (s : State) : Outcome := .next (s.hostAnswer tag .timeout [])

/-! ### Writing records and interrupts (R333, R432) -/

/-- An interrupt of a ring is due: sent now, or covered by the vector that follows the holdoff (R333). -/
def State.interrupt (s : State) (p r : Nat) : State :=
  if (s.ring p r).holdoff then s.modRing p r (fun g => { g with irqDue := true })
  else
    let s := s.hostWrite p (.msix (s.ownerOf p) (s.fld .prtCqCfg p r 23 16))
    s.modRing p r (fun g => { g with holdoff := decide (s.fld .prtCqCfg p r 31 24 ≠ 0) })

/-- A ring may write a record now (R322, R333, R429). -/
def State.mayRecord (s : State) (p r : Nat) : Bool :=
  s.cqOn p r && !s.cqFull p r && s.attachOpen (s.ownerOf p) && !s.gated p && !s.host.held.any (fun e => e.1 == p)

/-- The 32 bytes of a record of a ring, written with the ring's head and PHASE (R7, Table 12.4). -/
def Rec.bytes (q : Rec) (ring sqHead : Nat) (phase : Bool) : List Byte :=
  leBytes 4 q.tag.toNat ++ leBytes 2 q.status ++ leBytes 1 q.kind ++ leBytes 1 (b2n phase) ++ leBytes 2 sqHead ++
    leBytes 1 ring ++ leBytes 1 q.member ++ leBytes 4 q.reqid ++ leBytes 8 q.result ++ leBytes 8 q.detail

/-- One record written at a completion ring's tail, with PHASE and SQHEAD; the vector follows where the record
asks for it (R332, R333). -/
def State.putRecord (s : State) (p r : Nat) (q : Rec) : State :=
  let t := s.fld .prtCqTail p r 15 0
  let ph := s.flag .prtCqTail p r 16
  let n := s.cqN p r
  let s := s.modRing p r (fun g => { g with recs := g.recs.erase q })
  let s := s.hostWrite p (.record (s.ownerOf p) (s.cqBase p r + 32 * t) r p (q.bytes r (s.sqHead p r) ph))
  let s := s.setFld .prtCqTail p r 15 0 ((t + 1) % n)
  let s := if (t + 1) % n = 0 then s.setFld .prtCqTail p r 16 16 (b2n (!ph)) else s
  let s := if q.counted then s.setFld .prtSrvStat p 0 30 16 (s.cmdsUsed p - 1) else s
  if q.kind = 1 ∨ q.irq then s.interrupt p r else s

/-- The oldest record of a ring is written, if it may be (R333). -/
def State.writeRecord (s : State) (p r : Nat) : State :=
  match (s.ring p r).recs with
  | q :: _ => if s.mayRecord p r then s.putRecord p r q else s
  | [] => s

/-- COMPLETION_RECORD_WRITE (R333). -/
def execCompletionRecordWrite (part ring : Nat) (s : State) : Outcome := .next (s.writeRecord part ring)

/-- Held records of a partition are written: command records in ring order, then request ends in order of end
(R432). -/
def State.flushRecords (s : State) (p : Nat) : State :=
  let s := (List.range 8).foldl (fun s r => s.modRing p r (fun g =>
    { g with recs := g.recs.filter (fun q => q.kind == 0) ++ g.recs.filter (fun q => q.kind != 0) })) s
  let pass (s : State) (kind : Nat) : State :=
    let all := (List.range 8).flatMap (fun r => ((s.ring p r).recs.filter (fun q => q.kind == kind)).map (fun q => (r, q)))
    let all := if kind = 0 then all else sortBy (fun a b => decide (a.2.no ≤ b.2.no)) all
    all.foldl (fun s e => if s.mayRecord p e.1 && (s.ring p e.1).recs.head? == some e.2 then s.putRecord p e.1 e.2 else s) s
  pass (pass s 0) 1

/-- MSI_X_HOLDOFF_EXPIRY: the holdoff since a ring's last interrupt ends (R333). -/
def execMsiXHoldoffExpiry (part ring : Nat) (s : State) : Outcome :=
  .next (let g := s.ring part ring
    if !g.holdoff then s else
    let s := s.modRing part ring (fun g => { g with holdoff := false, irqDue := false })
    if g.irqDue then s.interrupt part ring else s)

/-! ### FENCE (R340, R344) -/

/-- Every command on a ring whose doorbell came before number d has ended; descriptors of a disabled ring are
fetched no more and are not waited for (R340, R344). -/
def State.ringClear (s : State) (p r d : Nat) : Bool :=
  (s.ring p r).cmds.all (fun c => c.answer.isSome || decide (d ≤ c.door)) &&
    (!s.sqOn p r || (s.ring p r).doors.all (fun e => decide (d ≤ e.2)))

/-- What a FENCE waits for has ended (R340). -/
def State.fenceDone (s : State) (c : Cmd) : Bool :=
  let b := c.params
  (List.range 32).all (fun p => bitField (leAt b 0 4) p 1 == 0 ||
    (List.range 8).all (fun r => bitField (leAt b 4 1) r 1 == 0 || s.ringClear p r c.door))

/-- FENCE: a partition outside the group ends it with FENCE_SCOPE; else it ends once what it names has ended,
and holds its ring until then (R340). -/
def execFence (part ring : Nat) (s : State) : Outcome :=
  .next (match s.frontOf part ring 0x0C with
    | none => s
    | some c =>
      if (List.range 32).any (fun p => bitField (leAt c.params 0 4) p 1 == 1 && s.lead p != s.lead part) then
        s.answer part ring c .fenceScope 0 0
      else if s.fenceDone c then s.answer part ring c .ok 0 0 else s)

end Sys2Proof.Machine
end

