-- ==== Sys2Proof/Machine/Append.lean ====
section
/-! DEFINITION. Appends as commands (R278 to R281, R294, R295): KV_SCATTER from a ring, the columns that
memory has accepted, finished transfers, and the ends of spills and fetches. -/
namespace Sys2Proof.Machine

/-- An append whose last column memory has accepted ends, and its command with it (R278, R281). -/
def State.settleAppend (s : State) (p no : Nat) : State :=
  match (s.part p).appends.at? no with
  | none => s
  | some a =>
    if a.failed.isSome || a.col ≤ a.lastCol then s else
    let s := s.endAppend p no
    match a.cmd with
    | some (q, r, c) => s.endCmd q r c Status.ok.val 0 0 0
    | none => s

/-- An append goes on as far as it can. -/
def State.pushAppend (s : State) (p no : Nat) : State :=
  match s.runAppend p no appendFuel with
  | (.failed c, s) => s.failAppend p no c
  | (.going, s) => s.settleAppend p no

/-- Shares that waited are tried again, and every running append of a partition goes on as far as it can, the lower CID
first (R271, R295). -/
def State.pushAppends (s : State) (p : Nat) : State :=
  let s := s.wakeShares p
  (sortBy (fun a b => decide (a.2.cid ≤ b.2.cid)) ((s.part p).appends.filter (fun e => e.2.failed.isNone))).foldl
    (fun s e => s.pushAppend p e.1) s

/-- A fault at the start of work on the cache starts nothing; it is kept for the command, which ends with its code once the
abort that it causes is done (R292, R294, R424). -/
def State.failWork (s : State) (p cid layer sq t n group : Nat) (cmd : Option (Nat × Nat × Nat)) (c : Code) : State :=
  let seq := s.err.nextSeq
  let s := s.kvEvent c p cid layer (t / 256)
  s.putAppend p (freeKey (s.part p).appends) ⟨cid, layer, sq, t, n, t / 16, t / 16, 0, [], none, cmd, group, some (c.val, seq)⟩

/-- An append of a group's layer or of a host's KV_SCATTER begins (R278). -/
def State.beginAppend (s : State) (p cid layer sq t n group : Nat) (cmd : Option (Nat × Nat × Nat)) : State :=
  match s.startAppend p cid layer sq t n group cmd with
  | (.ok _, s) => s.pushAppends p
  | (.error c, s) => s.failWork p cid layer sq t n group cmd c

/-- KV_SCATTER (R278): it ends when memory has accepted its last column. -/
def execKvScatter (part ring : Nat) (s : State) : Outcome :=
  .next (match s.frontOf part ring 0x07 with
    | none => s
    | some c =>
      let b := c.params
      ((s.waitCmd part ring c.no).beginAppend part (leAt b 0 2) (leAt b 2 1) (leAt b 3 1) (leAt b 4 4) (leAt b 8 4) (s.lead part)
        (some (part, ring, c.no))).settle)

/-- Memory has accepted every store of an append's next column: FILL advances, and after the last column the
append and its command end (R281). Columns of pages that another module holds are passed over (R290). -/
def State.columnAccepted (s : State) (p no : Nat) : State :=
  match (s.part p).appends.at? no with
  | none => s
  | some a =>
    let v := s.splitOf p a.cid
    if a.failed.isSome || a.col > a.lastCol || a.landed ≤ v.cols (a.t / 16) a.col then s else
    let col := v.nextCol (a.col + 1) (a.lastCol + 1)
    (((s.acceptColumn p a).advanceLen p a col).putAppend p no { a with col := col }).settleAppend p no

/-- APPEND_COLUMN_ACCEPTED (R281); reading a page for its CHECK may meet an HBM error (R248). -/
def execAppendColumnAccepted (part : Nat) (append : HbmReader) (s : State) : Outcome :=
  .next ((s.hbmFind append.found).columnAccepted part append.id)

/-- The first posted transfer of a queue has completed and leaves: a column of an append has landed, or the
last tile of a visited page has, whose frame is to be unpinned (R226, R272, R281). -/
def State.transferDone (s : State) (p j : Nat) : State :=
  match (s.queue p j).posted with
  | [] => s
  | t :: ts =>
    if t.done < t.total then s else
    let s := (s.modQueue p j (fun q => { q with posted := ts })).progressed p
    let s := match t.tag with
      | none => s
      | some k =>
        if k % 2 = 1 then s.modPart p (fun q => { q with unpins := q.unpins ++ [k / 2] })
        else match (s.part p).appends.at? (k / 2) with
          | some a => s.putAppend p (k / 2) { a with landed := a.landed + 1 }
          | none => s
    (s.pushAppends p).settle

/-- SQ_TRANSFER_COMPLETE (R226, R228). -/
def execSqTransferComplete (part queue : Nat) (s : State) : Outcome := .next (s.transferDone part queue)

/-- UNPIN: the last transfer of a visit has completed and its frame is unpinned; what waited for a frame or a slot is tried
again (R272, R282). -/
def execUnpin (part frame : Nat) (s : State) : Outcome :=
  .next (if (s.part part).unpins.contains frame then
    (((s.modPart part (fun q => { q with unpins := q.unpins.erase frame })).unpinFrame part frame).pushAppends part).settle else s)

/-- FRAME_SPILL (R285, R286); its reads of the page may meet an HBM error (R248). What waited for a slot is tried
again. -/
def execFrameSpill (part : HbmReader) (s : State) : Outcome :=
  let s := s.hbmFind part.found
  .next ((s.spillOne part.id (s.allocWaits part.id)).pushAppends part.id).settle

/-- FRAME_SPILL_DONE (R286). -/
def execFrameSpillDone (part frame : Nat) (ok : Bool) (s : State) : Outcome :=
  .next ((s.spillDone part frame ok).pushAppends part).settle

/-- FRAME_FETCH_DONE (R287, R288). -/
def execFrameFetchDone (part frame : Nat) (data : List Byte) (marked : FetchMarks) (s : State) : Outcome :=
  .next ((s.fetchDone part frame data marked.words marked.fails).pushAppends part).settle

end Sys2Proof.Machine
end

