-- ==== Sys2Proof/Machine/Cap.lean ====
section
/-! DEFINITION. The busbar and the effective cap (R29, R31 to R34, R379, R380, R388, R400): what the readings of the
supply and of the coolant allow the module to draw. -/
namespace Sys2Proof.Machine

/-! ### The busbar (R29, R31) -/

/-- A reading of the busbar, in mV; above the reset threshold of 42.0 V the always-on domains have power (R29, R31). -/
def State.setBusbar (s : State) (mv : Nat) : State :=
  let t : State := { s with pwr := { s.pwr with mv := mv } }
  if 42000 < mv ∧ (s.domain 1290).st ≠ .on then
    (t.setDomain 1290 ⟨.on, none, false⟩).setDomain 1291 ⟨.on, none, false⟩
  else t

/-! ### The effective cap (R32 to R34, R379, R380, R388, R400) -/

/-- The lower of two limits, none being no limit. -/
def lower : Option Nat → Option Nat → Option Nat
  | none, b => b
  | a, none => a
  | some a, some b => some (Min.min a b)

/-- The extended grade is recorded (R34). -/
def State.extended (s : State) : Bool := s.flag .pwrStat 0 0 12

/-- The coolant and thermal limits (R34, R388). -/
def State.thermalLimit (s : State) : Option Nat :=
  let hot : Option Nat := if s.pwr.inlet > 720 then some (32000 - 100 * (s.pwr.inlet - 720).toNat) else none
  let slow : Option Nat := if s.pwr.flow < 300 then some (32000 * s.pwr.flow / 300) else none
  let fall : Option Nat := if s.extended && !s.pwr.flow40 then some 32000 else none
  lower hot (lower slow fall)

/-- The clamp current limit; none before the first reading of the busbar (R32, R33). -/
def State.clampLimit (s : State) : Option Nat :=
  if s.pwr.mv = 0 then none else some (s.pwr.mv * (if s.pwr.oneClamp then 350 else 700) / 1000)

/-- The grade cap (R34). -/
def State.gradeCap (s : State) : Nat := if s.extended then 36000 else 32000

/-- The configured cap, at least 8,000 W and at most the grade cap (R400). -/
def State.configCap (s : State) : Nat := Min.min (Max.max (s.fld .pwrCap 0 0 15 0) 8000) s.gradeCap

/-- The rack's limit: FLOOR once the lease has run out, else the allotment where there is one (R380). -/
def State.rackLimit (s : State) : Option Nat :=
  if s.pwr.floorOn then some (s.fld .pwrFloor 0 0 15 0)
  else if s.fld .pwrAllot 0 0 15 0 = 0 then none else some (s.fld .pwrAllot 0 0 15 0)

/-- The limits of Table 14.3 with their reasons, in its order. -/
def State.limits (s : State) : List (Option Nat × Nat) :=
  [(s.thermalLimit, 2), (s.clampLimit, 1), (some s.gradeCap, 1), (some s.configCap, 1), (s.rackLimit, 5)]

/-- The lowest limit, with the reason of the highest row that has it (R379). -/
def lowest : List (Option Nat × Nat) → Option (Nat × Nat)
  | [] => none
  | (none, _) :: ls => lowest ls
  | (some w, r) :: ls =>
    match lowest ls with
    | none => some (w, r)
    | some (v, q) => if w ≤ v then some (w, r) else some (v, q)

/-- The effective cap and the reason of its limit (R379). -/
def State.effective (s : State) : Nat × Nat := (lowest s.limits).getD (s.gradeCap, 1)

/-- The effective cap taken from the present limits; the clamp limit holds at once (R379). -/
def State.recap (s : State) : State :=
  let cap := s.effective.1
  let hold (w : Nat) : Nat := match s.clampLimit with
    | some c => if c = cap then Min.min w c else w
    | none => w
  { s with pwr := { s.pwr with cap := cap, now := hold s.pwr.now } }

end Sys2Proof.Machine
end

