-- ==== Sys2Proof/Machine/Export.lean ====
section
/-! DEFINITION. Export and the end of requests (R317, R358 to R360, R423, R426, R431): the objects of a
request, the messages and trailers that carry them, acknowledgements, and request-end records. -/
namespace Sys2Proof.Machine

/-! ### Lengths and objects (R312, R317, Table 11.4) -/

/-- SEQLEN of a member: the prefix and its own tokens. -/
def Request.seqlen (q : Request) (m : Nat) : Nat :=
  q.k + (match q.members[m]? with
    | some v => v.tokens.length
    | none => 0)

/-- A program set of a group. -/
def State.progSet (s : State) (l model : Nat) : Option ProgSet :=
  s.srv.sets.find? (fun v => v.group == l && v.model == model && v.loaded)

/-- Bytes of token IDs in position order (R307). -/
def tokenBytes (ts : List Nat) : List Byte := ts.flatMap (fun t => leBytes 4 t)

/-- Every token of a member, prefix included. -/
def Request.allTokens (q : Request) (m : Nat) : List Nat :=
  q.pre ++ (match q.members[m]? with
    | some v => v.tokens
    | none => [])

/-- The fingerprint of a member's tokens, prefix included (R307). -/
def Request.tokfp (q : Request) (m : Nat) : Nat := crc64 (tokenBytes (q.allTokens m))

/-- The count table of a member (Table 11.4). -/
def State.countTable (s : State) (q : Request) (m : Nat) : List Byte :=
  let cs := match q.members[m]? with
    | some v => v.counts
    | none => []
  let vocab := match s.progSet q.group q.model with
    | some v => v.vocab
    | none => 0
  leBytes 4 cs.length ++ leBytes 4 (q.seqlen m) ++ leBytes 4 vocab ++ leBytes 4 0 ++ leBytes 8 (q.tokfp m) ++ leBytes 8 0 ++
    cs.flatMap (fun e => leBytes 4 e.1 ++ leBytes 4 e.2)

/-- The bytes of an object: a page's element area and trailer, the count table, or the token with SEQLEN (R358,
Table 13.3). -/
def State.objBytes (s : State) (q : Request) (o : ExpObj) : List Byte :=
  match o.kind with
  | 0 => s.hbmBytes (s.slotAddr o.part (s.frm o.part o.frame).hslot) (areaBytes (s.frameRg o.part o.frame) + 64)
  | 1 => s.countTable q o.member
  | _ => leBytes 4 (match q.members[o.member]? with
      | some v => v.token.getD 0
      | none => 0) ++ leBytes 4 (q.seqlen o.member)

/-- A page that may not be sent: a marked word, or MARKED in its trailer (R426). -/
def State.objMarked (s : State) (o : ExpObj) : Bool :=
  if o.kind ≠ 0 then false else
  let rg := s.frameRg o.part o.frame
  let a := s.slotAddr o.part (s.frm o.part o.frame).hslot
  s.markedIn a (areaBytes rg + 64) || (s.hbmByte (a + areaBytes rg + 3)).getLsbD 1

/-- The stream of an object: 0 target, 1 draft, 2 token (R358). -/
def ExpObj.stream (o : ExpObj) : Nat := if o.kind ≠ 0 then 2 else if o.draft then 1 else 0

/-- The state with a member of a request changed. -/
def State.modMember (s : State) (id m : Nat) (f : ReqMember → ReqMember) : State :=
  s.modReq id (fun q => { q with members := q.members.modify m f })

/-- The state with a stream of a member changed. -/
def State.modStream (s : State) (id m i : Nat) (f : ExpStream → ExpStream) : State :=
  s.modMember id m (fun v => { v with streams := v.streams.modify i f })

/-- A stream of a member. -/
def Request.stream? (q : Request) (m i : Nat) : Option ExpStream := (q.members[m]?).bind (fun v => v.streams[i]?)

/-- A stream goes nowhere: the route names no destination for it, or the request has no draft (R318). -/
def ExpStream.absent (e : ExpStream) : Bool := e.node == 0xFFFFFF

/-- The streams of a member, from its route: target, draft and token. -/
def routeStreams (route : List Nat) (draft : Bool) : List ExpStream :=
  [⟨route.getD 0 0, route.getD 1 0, 0, none⟩,
   ⟨if draft then route.getD 2 0 else 0xFFFFFF, route.getD 3 0, 0, none⟩,
   ⟨route.getD 4 0, route.getD 5 0, 0, none⟩]

/-! ### Sending (R358, R359, R426) -/

/-- This module sends exports: it is not the secondary of a mirrored pair (R369). -/
def State.exports (s : State) : Bool := !s.mirrored || s.flag .vngMirror 0 0 25

/-- A message of a group's exports may leave for a node now (R354, R356, R429). -/
def State.canSend (s : State) (l node : Nat) : Bool :=
  s.owns && !s.portsUp.isEmpty && !s.gated l &&
    (match s.outKey? l node 0 with
     | some k => (match s.outFlow k with
       | some f => f.queue.isEmpty && (f.nextPsn == 0 || (f.opened && decide (0 < f.credits)))
       | none => false)
     | none => s.mayOpen l && !s.net.waiting.any (fun w => w.part == l))

/-- A message of a request sent on one of its streams, counted there. -/
def State.sendOn (s : State) (q : Request) (m i type : Nat) (body : List Byte) : Option (Nat × Nat) × State :=
  match q.stream? m i with
  | none => (none, s)
  | some e =>
    let r := s.sendMsg q.group e.node 0 type body []
    (r.1, r.2.modStream q.id m i (fun e => { e with sent := e.sent + 1 }))

/-- An object leaves the list of a request's waiting objects. -/
def State.dropObj (s : State) (id : Nat) (o : ExpObj) : State :=
  s.modReq id (fun q => { q with objs := q.objs.erase o })

/-- Message type of an object (Table 13.3). -/
def ExpObj.type (o : ExpObj) : Nat := if o.kind = 0 then 0x20 else if o.kind = 1 then 0x21 else 0x22

/-- A request is voided without a record of its own: its DETAIL is VOIDED, class NOTICE, SEQ 0 (R423, R426). -/
def State.voidQuiet (s : State) (q : Request) : State :=
  let s := s.modReq q.id (fun r => if r.void.isSome then r else { r with void := some (Status.voided.val, 0, r.group, 0) })
  s.queueAbort q.group Status.voided.val 2 0 false

/-- The CID of a member of a request that an object's page belongs to. -/
def Request.objCid (q : Request) (o : ExpObj) : Nat :=
  match q.members[o.member]? with
  | some m => if o.draft then m.dcid.getD m.cid else m.cid
  | none => 0

/-- In the head layout the pages of a split cache leave on member 0 of the group alone (R289). -/
def State.sendsPage (s : State) (q : Request) (o : ExpObj) : Bool :=
  let v := s.splitOf o.part (q.objCid o)
  o.kind ≠ 0 || v.layout ≠ 1 || v.member == 0

/-- A page of a waiting object comes to HBM: its fetch begins, or KV_POOL_EXHAUSTED is raised (R287). -/
def State.fetchObj (s : State) (q : Request) (o : ExpObj) : State :=
  let (ok, s) := s.fetchFor o.part o.frame
  if ok then s else s.kvEvent .kvPoolExhausted o.part (q.objCid o) o.layer o.pidx

/-- The trailer of a page that was not in HBM when its request completed is written now, and its check is sent to a mirror
partner (R267, R281, R369). -/
def State.sealObj (s : State) (q : Request) (o : ExpObj) : State :=
  let (check, s) := s.writeTrailer o.part o.frame o.layer o.pidx o.fill (s.frameRg o.part o.frame)
  let s := s.modReq q.id (fun r => { r with objs := r.objs.map (fun p => if p = o then { p with unsealed := false } else p) })
  s.ownCheck q.mirrorNo 0 o.member o.layer (b2n o.draft) o.pidx check

/-- The next message of a request's oldest waiting object: a page in the tier is fetched first and gets its trailer where it
waits for it, a marked one voids the request, and a page is pinned from its first message on; one whose frame can take no
pin waits (R272, R281, R358, R359, R426). -/
def State.sendObj (s : State) (q : Request) (o : ExpObj) : State :=
  let page := o.kind == 0
  let agreed := o.agreed || !s.mirrored
  let goes := agreed && s.exports && s.sendsPage q o && (match q.stream? o.member o.stream with
    | some e => !e.absent
    | none => false)
  if page && (o.unsealed || goes) && (s.frm o.part o.frame).st == 2 then s.fetchObj q o else
  if page && (s.frm o.part o.frame).st == 4 then s else
  if page && o.unsealed then s.sealObj q o else
  if !agreed then s else
  if !s.exports || !s.sendsPage q o then s.dropObj q.id o else
  match q.stream? o.member o.stream with
  | none => s.dropObj q.id o
  | some e =>
    if e.absent then s.dropObj q.id o else
    if o.off = 0 && s.objMarked o then s.voidQuiet q else
    if !s.canSend q.group e.node then s else
    let pin := if page && o.off == 0 then s.pinFrame o.part o.frame else (true, s)
    if !pin.1 then s else
    let bytes := s.objBytes q o
    let data := (bytes.drop o.off).take 8160
    let s := pin.2
    let head := exportHeader e.stream q.id o.member o.layer (b2n o.draft) o.pidx o.fill o.off bytes.length
    let (at_, s) := s.sendOn q o.member o.stream o.type (head ++ data)
    if o.off + data.length < bytes.length then
      s.modReq q.id (fun r => { r with objs := r.objs.map (fun p => if p = o then { p with off := p.off + data.length } else p) })
    else
      let pin := if o.kind = 0 then some (o.part, o.frame) else none
      (s.dropObj q.id o).modReq q.id (fun r => { r with unacked := r.unacked ++ (match at_ with
        | some (k, psn) => [(k, psn, pin)]
        | none => []) })

/-- A TRAILER on a stream of a request (R358, R360, Table 13.3). -/
def State.sendTrailer (s : State) (q : Request) (m i status : Nat) : State :=
  match (s.req q.id).bind (fun r => r.stream? m i) with
  | none => s
  | some e =>
    if e.trailer.isSome then s else
    if e.absent || !s.exports then s.modStream q.id m i (fun e => { e with trailer := some status }) else
    let head := exportHeader e.stream q.id m 0 0 0 0 0 6
    let r := s.sendMsg q.group e.node 0 0x23 (head ++ leBytes 2 status ++ leBytes 4 e.sent) []
    let s := r.2.modStream q.id m i (fun e => { e with trailer := some status })
    s.modReq q.id (fun r' => { r' with unacked := r'.unacked ++ (match r.1 with
      | some (k, psn) => [(k, psn, none)]
      | none => []) })

/-- Streams of an EXPORTING request that have no trailer yet and nothing left to send, once no object waits. -/
def Request.endedStreams (q : Request) : List (Nat × Nat) :=
  (List.range q.members.length).flatMap (fun m =>
    match q.members[m]? with
    | none => []
    | some v => ((List.range v.streams.length).filter (fun i =>
        (match v.streams[i]? with
         | some e => e.trailer.isNone
         | none => false) && (i ≠ 2 || v.token.isSome))).map (fun i => (m, i)))

/-- The next export step of a request: its oldest object, or the trailer of a stream that has ended. -/
def State.exportReq (s : State) (q : Request) : State :=
  match q.objs with
  | o :: _ => s.sendObj q o
  | [] =>
    if q.st ≠ .exporting then s else
    match q.endedStreams with
    | (m, i) :: _ =>
      (match q.stream? m i with
       | some e => if e.absent || !s.exports || s.canSend q.group e.node then s.sendTrailer q m i Status.ok.val else s
       | none => s)
    | [] => s

/-! ### The end of a request (R298, R317, R360, R423) -/

/-- Every stream of a request that has no trailer ends with one (R360). -/
def State.endStreams (s : State) (q : Request) (status : Nat) : State :=
  (List.range q.members.length).foldl (fun s m => (List.range 3).foldl (fun s i => s.sendTrailer q m i status) s) s

/-- Pins that a request's exports hold: pages sent in part, and pages not yet acknowledged. -/
def Request.pins (q : Request) : List (Nat × Nat) :=
  (q.objs.filter (fun o => o.kind == 0 && decide (0 < o.off))).map (fun o => (o.part, o.frame)) ++
    q.unacked.filterMap (fun u => u.2.2)

/-- DETAIL of a request-end record (R423). -/
def Request.detail (q : Request) (status : Nat) : Nat :=
  if status = 0 then 0
  else if status = Status.voided.val then
    match q.void with
    | some (c, k, p, n) => detailOf c k p n
    | none => detailOf status 0 q.group 0
  else detailOf status 0 q.group 0

/-- A request ends: trailers where it began and did not end OK, its pins and contexts released, one record for
each member, and the commands that waited on it (R298, R302, R317, R360, R423). -/
def State.endRequest (s : State) (id : Nat) (st : Status) : State :=
  match s.req id with
  | none => s
  | some q =>
    let s := if st ≠ .ok ∧ q.classIdx.isSome then s.endStreams q st.val else s
    let s := q.pins.foldl (fun s e => s.unpinFrame e.1 e.2) s
    let s := q.members.foldl (fun s m => (m.cid :: m.dcid.toList).foldl (fun s c => s.releaseCid q.group c) s) s
    let s := (List.range q.members.length).foldl (fun s m =>
      let tok := match q.members[m]? with
        | some v => v.token.getD 0
        | none => 0
      s.pushEnd q m st.val (if st = .ok then tok + q.seqlen m * 2 ^ 32 else 0) (q.detail st.val)) s
    let s : State := { s with srv := { s.srv with reqs := s.srv.reqs.filter (fun r => r.id ≠ id) } }
    let s := if st = .voided && s.ready then
      { s with err := { s.err with voided := s.err.voided.put q.group (s.err.voided.atD q.group 0 + 1) } } else s
    let s := (q.pausers.map (·.1) ++ q.resumers).foldl (fun s c => s.endWaiting c st.val id 0 (q.detail st.val)) s
    s.syncContexts q.group

/-- An EXPORTING request whose objects and trailers have all been acknowledged ends OK (R317). -/
def State.finishExports (s : State) : State :=
  let done := s.srv.reqs.filter (fun q => q.st == .exporting && q.objs.isEmpty && q.unacked.isEmpty && q.void.isNone &&
    q.members.all (fun v => v.token.isSome && v.streams.all (fun e => e.trailer == some Status.ok.val)))
  done.foldl (fun s q => s.endRequest q.id .ok) s

/-- Objects whose last message has been acknowledged are done: their pages are unpinned (R359). -/
def State.settleAcks (s : State) : State :=
  let s := s.srv.reqs.foldl (fun s q =>
    let done := q.unacked.filter (fun u => s.ackedUpTo u.1 u.2.1)
    if done.isEmpty then s else
    let s := s.modReq q.id (fun r => { r with unacked := r.unacked.filter (fun u => !done.contains u) })
    (done.foldl (fun s u => match u.2.2 with
      | some (p, f) => s.unpinFrame p f
      | none => s) s).progressed q.group) s
  s.finishExports

/-- EXPORT_SEND: the next message of a group's exports, the requests in order; its reads of a page may meet an HBM error
(R248, R358, R359). -/
def execExportSend (group : HbmReader) (s : State) : Outcome :=
  let s := s.hbmFind group.found
  let group := group.id
  .next (match s.srv.reqs.find? (fun q => q.group == group && (!q.objs.isEmpty || (q.st == .exporting && !q.endedStreams.isEmpty))) with
    | some q => (s.exportReq q).settleAcks
    | none => s)

/-! ### Gates (R430) -/

/-- GATE_TRAILER_SEND: TRAILER VOIDED on every stream, not yet ended, of the gated partition's running request
(R430, R431). -/
def execGateTrailerSend (part : Nat) (s : State) : Outcome :=
  .next (if !s.gated part then s else
    match s.active (s.lead part) with
    | some q => if q.classIdx.isSome then s.endStreams q Status.voided.val else s
    | none => s)

end Sys2Proof.Machine
end

