-- ==== Sys2Proof/Machine/Sample.lean ====
section
/-! DEFINITION. First-token sampling (R313 to R315): the sampling block, binary32 steps, and the choice of the
token. -/
namespace Sys2Proof.Machine

/-- A value rounded to binary32 (R314). -/
def b32 (v : Val) : Val := b32Val (convElem 9 v none).bits

/-- The quotient of two values, rounded once to binary32. -/
def b32Div (a b : Val) : Val :=
  match a, b with
  | .fin n m e, .fin k l f =>
    if l = 0 ∨ m = 0 then b32 (Val.divR a b) else
    let sh := 40 + (l.log2 + 1 - m.log2)
    let q := (m <<< sh) / l
    let r := (m <<< sh) % l
    b32 (.fin (n != k) (2 * q + (if r = 0 then 0 else 1)) (e - f - sh - 1))
  | _, _ => b32 (Val.divR a b)

/-- The rounded binary32 product, sum and difference. -/
def b32Mul (a b : Val) : Val := b32 (Val.mul a b)
def b32Sub (a b : Val) : Val := b32 (Val.add a b.neg)

/-- Fields of a sampling block (Table 11.6). -/
def sampTemp (b : List Byte) : Val := b32Val (leAt b 0 4)
def sampTopp (b : List Byte) : Val := b32Val (leAt b 4 4)
def sampTopk (b : List Byte) : Nat := leAt b 8 2
def sampRep (b : List Byte) : Val := b32Val (leAt b 12 4)
def sampFreq (b : List Byte) : Val := b32Val (leAt b 16 4)
def sampPres (b : List Byte) : Val := b32Val (leAt b 20 4)
def sampSeed (b : List Byte) : W32 := BitVec.ofNat 32 (leAt b 24 4)
def sampGoal (b : List Byte) : Nat := leAt b 28 4
/-- LOSSY_SPILL. -/
def sampLossy (b : List Byte) : Bool := (b.getD 10 0).getLsbD 0

/-- A value lies from lo to hi. -/
def within (v : Val) (lo hi : Nat) : Bool := Val.cmp 1 v (Val.ofNat lo) && Val.cmp 3 v (Val.ofNat hi)

/-- A sampling block obeys Table 11.6 and the capability limit of TOPK (R315). -/
def sampleOk (b : List Byte) (topk : Nat) : Bool :=
  within (sampTemp b) 0 100 && Val.cmp 0 (sampTopp b) Val.zero && Val.cmp 3 (sampTopp b) (Val.ofNat 1) &&
    decide (sampTopk b ≤ Min.min 1024 topk) && decide (leAt b 10 1 < 2) && zeros b 11 1 &&
    within (sampRep b) 1 10 && within (sampFreq b) 0 10 && within (sampPres b) 0 10

/-- A logit after the penalties of a token with count c (R314). -/
def penalised (b : List Byte) (l : Val) (c : Nat) : Val :=
  if c = 0 then l else
  let l := if Val.cmp 0 l Val.zero then b32Div l (sampRep b) else b32Mul l (sampRep b)
  b32Sub (b32Sub l (b32Mul (sampFreq b) (Val.ofNat c))) (sampPres b)

/-- Token a comes before token b: a larger logit, the lower ID on ties (R314). -/
def tokenBefore (a b : Nat × Val) : Bool :=
  let o := Val.order a.2 b.2
  decide (o > 0) || (o == 0 && decide (a.1 ≤ b.1))

/-- Running W44 sums of a list of weights. -/
def runningSums : Val → List Val → List Val
  | _, [] => []
  | s, w :: ws => let t := Val.addR s w; t :: runningSums t ws

/-- The draw u of R314, exact. -/
def sampleDraw (seed : W32) : Val :=
  let s : W32 := if seed = 0 then 0x9e3779b9 else seed
  let s := s ^^^ (s <<< 13)
  let s := s ^^^ (s >>> 17)
  let s := s ^^^ (s <<< 5)
  .fin false (s >>> 8).toNat (-24)

/-- The kept tokens with their weights, in order, after the top-k and top-p steps (R314). -/
def keptTokens (b : List Byte) (ts : List (Nat × Val)) : List (Nat × Val) :=
  let ts := ts.map (fun t => (t.1, b32Div t.2 (sampTemp b)))
  let ts := sortBy tokenBefore ts
  let ts := if sampTopk b = 0 then ts else ts.take (sampTopk b)
  match ts with
  | [] => []
  | (_, top) :: _ =>
    let ws := ts.map (fun t => (t.1, if Val.order t.2 top = 0 then Val.ofNat 1 else b32 (expFn (b32Sub t.2 top))))
    let sums := runningSums Val.zero (ws.map (·.2))
    let lim := b32Mul (sampTopp b) (sums.getLastD Val.zero)
    match sums.findIdx? (fun v => Val.cmp 1 v lim) with
    | some i => ws.take (i + 1)
    | none => ws

/-- The first token of a member (R314). -/
def sampleToken (b : List Byte) (logits : List Val) (counts : SMap Nat) : Nat :=
  let ts := ((List.range logits.length).zip logits).map (fun t => (t.1, penalised b t.2 (counts.atD t.1 0)))
  let ts := ts.filter (fun t => !t.2.isNan)
  match ts with
  | [] => 0
  | t :: rest =>
    if (sampTemp b).isZero then (rest.foldl (fun a c => if tokenBefore a c then a else c) t).1 else
    let ws := keptTokens b ts
    let sums := runningSums Val.zero (ws.map (·.2))
    let lim := b32Mul (sampleDraw (sampSeed b)) (sums.getLastD Val.zero)
    match sums.findIdx? (fun v => Val.cmp 0 v lim) with
    | some i => (ws.getD i (0, .zero)).1
    | none => (ws.getLastD (0, .zero)).1

end Sys2Proof.Machine
end

