-- ==== Sys2Proof/Machine/Serving.lean ====
section
/-! DEFINITION. The serving engine's commands (R296 to R321): submission, prefixes, adapters, pausing,
resuming, cancelling and export routes, and the layer chunks of a running request. -/
namespace Sys2Proof.Machine

/-! ### Models and chunks (R210, R274, R300) -/

/-- The smallest class of a set that holds a length, by index (R210). -/
def ProgSet.classFor (v : ProgSet) (n : Nat) : Option Nat :=
  (List.range v.classes.length).find? (fun i => decide (n ≤ v.classes.getD i 0))

/-- The largest class length of a set. -/
def ProgSet.maxClass (v : ProgSet) : Nat := v.classes.foldl Max.max 0

/-- Tokens of a chunk: QCHUNK of the set's first read plan, or the largest class where it has none. -/
def ProgSet.qchunk (v : ProgSet) : Nat :=
  match v.plans with
  | b :: _ => Max.max (planQchunk b) 1
  | [] => Max.max v.maxClass 1

/-- Row groups of a model's cache pages (R265); the positional width is the unit's (log entry 7). -/
def ProgSet.rg (v : ProgSet) : Nat := (v.latent + 32 * Config.posUnits v.model) / 16

/-- The longest member of a request, prefix included. -/
def Request.longest (q : Request) : Nat := ((List.range q.members.length).map q.seqlen).foldl Max.max 0

/-- First position and number of positions of a member in a chunk of n tokens (R275, R300). -/
def Request.span (q : Request) (n m : Nat) : Nat × Nat :=
  let lo := Max.max q.k (q.chunk * n)
  let hi := Min.min ((q.chunk + 1) * n) (q.seqlen m)
  (lo, hi - lo)

/-- Layers of the target model of a request. -/
def State.layersOf (s : State) (q : Request) : Nat :=
  match s.progSet q.group q.model with
  | some v => v.layers
  | none => 0

/-- The set that the present layer chunk runs: the target's or the draft's. -/
def State.runSet (s : State) (q : Request) : Option ProgSet :=
  if q.inDraft then q.draft.bind (s.progSet q.group) else s.progSet q.group q.model

/-- Place of the present layer chunk within its chunk, the draft's layers after the target's (R316). -/
def State.place (s : State) (q : Request) : Nat := q.layer + (if q.inDraft then s.layersOf q else 0)

/-- The present layer chunk replays one that has been appended already (R305). -/
def State.replays (s : State) (q : Request) : Bool :=
  match q.replay with
  | some (c, j) => q.chunk == c && decide (s.place q ≤ j)
  | none => false

/-! ### Admission (R297, R299, R302, R309, R316, R318) -/

/-- A prefix handle of a group. -/
def State.handle (s : State) (l h : Nat) : Option Handle := s.srv.handles.find? (fun e => e.group == l && e.handle == h)

/-- Words of tokens read from a payload. -/
def payTokens (b : List Byte) (off n : Nat) : List Nat := (List.range n).map (fun i => leAt b (4 * (off + i)) 4)

/-- Counts of tokens added to a count table (R312). -/
def addCounts (m : SMap Nat) (ts : List Nat) : SMap Nat := ts.foldl (fun m t => m.put t (m.atD t 0 + 1)) m

/-- Tokens, routes and sampling blocks of the members of a PREFILL_SUBMIT. -/
def submitted (b pay : List Byte) : List (List Nat × Nat × List Byte) :=
  ((List.range (submitMembers b)).foldl (fun (a : Nat × List (List Nat × Nat × List Byte)) i =>
    let n := submitNtok b i
    (a.1 + n, a.2 ++ [(payTokens pay a.1 n, leAt b (68 + 48 * i) 1, (b.drop (80 + 48 * i)).take 32)])) (0, [])).2

/-- CIDs for the members of a request, and for their drafts; none where the group has too few free (R269, R302, R316). -/
def State.takeCids (s : State) (l : Nat) (draft : Bool) : Nat → List Nat → Option (List (Nat × Option Nat))
  | 0, _ => some []
  | n + 1, taken =>
    match s.freeCid l taken with
    | none => none
    | some c =>
      match if draft then (s.freeCid l (c :: taken)).map some else some none with
      | none => none
      | some d => (s.takeCids l draft n (c :: d.toList ++ taken)).map (fun r => (c, d) :: r)

/-- GLB_CAP_SEQ.MAX_SEQ: the largest prompt (R2, R5). -/
def State.maxSeq (s : State) : Nat := s.fld .glbCapSeq 0 0 31 0

/-- Why a submission is refused, in the order of R299; none where it is admitted. A prompt beyond MAX_SEQ is beyond every
class (R2, R5), and contexts run out with the CIDs that the members and their drafts need (R302, R316). -/
def State.refusal (s : State) (l : Nat) (b pay : List Byte) : Option Status :=
  let fl := leAt b 5 1
  let ms := submitted b pay
  let adapter := if fl.testBit 0 then some (leAt b 2 2) else none
  if (s.srv.reqs.filter (fun q => q.group == l)).length ≥ s.fld .prtSrvQuota l 0 12 0 then some .quotaFull else
  match s.progSet l (leAt b 0 2) with
  | none => some .programAbsent
  | some v =>
    let dset := s.progSet l (leAt b 8 2)
    if fl.testBit 2 && dset.isNone then some .programAbsent else
    if fl.testBit 2 && (match dset with
      | some d => d.vocab != v.vocab
      | none => false) then some .draftMismatch else
    if ms.any (fun m => m.1.any (fun t => decide (v.vocab ≤ t))) then some .tokenRange else
    if ms.any (fun m => !sampleOk m.2.2 (s.fld .glbCapSrv2 0 0 18 8)) then some .sampleParam else
    if (match adapter with
      | some a => !s.srv.adapters.any (fun e => e.group == l && e.set == a && e.model == leAt b 0 2)
      | none => false) then some .adapterUnknown else
    let h : Option Handle := if fl.testBit 1 then s.handle l (leAt b 16 8) else none
    if fl.testBit 1 && h.isNone then some .prefixUnknown else
    if h.any (fun e => e.fp != leAt b 24 8 || e.k != leAt b 32 4 || e.model != leAt b 0 2 || e.adapter != adapter ||
      (fl.testBit 2 && e.draft.map (·.1) != some (leAt b 8 2))) then some .prefixMismatch else
    if ms.any (fun m => (s.srv.routes.at? (l * 256 + m.2.1)).isNone) then some .routeUnset else
    let k := match h with
      | some e => e.k
      | none => 0
    let n := k + (ms.map (fun (m : List Nat × Nat × List Byte) => m.1.length)).foldl Max.max 0
    let fits (w : ProgSet) : Bool := match w.classFor n with
      | some i => decide (w.classes.getD i 0 * ms.length ≤ w.maxClass)
      | none => false
    if n > s.maxSeq || !fits v || (fl.testBit 2 && (match dset with
      | some d => !fits d
      | none => false)) then some .classRange else
    if (s.takeCids l (fl.testBit 2) ms.length []).isNone then some .quotaFull else none

/-- Contexts for a request of a set, in every partition of its group; shared from a prefix's where there is one
(R269, R283, R299). -/
def State.newCtx (s : State) (l cid : Nat) (v : ProgSet) (src : Option (Nat × Nat)) : State :=
  (s.group l).foldl (fun s p =>
    let s := s.makeCtx p cid v.layers (ceilDiv v.maxClass 256) v.rg v.split
    match src with
    | some (c, k) => if s.kvOn p then s.shareCtx p c cid k else s
    | none => s) s

/-- The request that a PREFILL_SUBMIT asks for: its members, with their prompts behind a prefix's tokens, and the
contexts they take (R298, R299, R312). -/
def State.newRequest (s : State) (p r : Nat) (c : Cmd) (h : Option Handle) : Request :=
  let l := s.lead p
  let b := c.params
  let fl := leAt b 5 1
  let ms := submitted b c.payload
  let cids := (s.takeCids l (fl.testBit 2) ms.length []).getD []
  let pre := match h with
    | some e => e.tokens
    | none => []
  let k := match h with
    | some e => e.k
    | none => 0
  let cnt := match h with
    | some e => e.counts
    | none => []
  let members : List ReqMember := (ms.zip cids).map (fun e =>
    let route := s.srv.routes.atD (l * 256 + e.1.2.1) []
    ⟨e.1.1, route, e.1.2.2, e.2.1, e.2.2, addCounts cnt e.1.1, none, routeStreams route (fl.testBit 2)⟩)
  let no := if s.mirrored then s.net.mirrorCount + 1 else 0
  let n := match s.progSet l (leAt b 0 2) with
    | some v => v.qchunk
    | none => 1
  let q : Request :=
    { id := s.srv.nextId, group := l, part := p, ring := r, tag := c.tag, st := .queued, cls := leAt b 4 1
      model := leAt b 0 2
      draft := if fl.testBit 2 then some (leAt b 8 2) else none
      adapter := if fl.testBit 0 then some (leAt b 2 2) else none
      prefixHandle := if fl.testBit 1 then leAt b 16 8 else 0
      k := k, pre := pre, members := members, admitted := s.up.time, chunk := k / n, layer := 0, inDraft := false
      inFlight := false, classIdx := none, replay := none, pauseMode := none, pausers := [], resumers := []
      cancelDue := false, void := none, times := [], objs := [], unacked := [], mirrorNo := no, prio := 0
      lastChunk := 0, stages := [] }
  { q with lastChunk := (q.longest - 1) / n }

/-- The contexts of one member, and of its draft, set up (R299, R309). -/
def State.openMember (s : State) (q : Request) (h : Option Handle) (m : ReqMember) : State :=
  let s := match s.progSet q.group q.model with
    | some v => s.newCtx q.group m.cid v (h.map (fun x => (x.cid, x.k)))
    | none => s
  match q.draft.bind (s.progSet q.group), m.dcid with
  | some v, some d => s.newCtx q.group d v (h.bind (fun x => x.draft.map (fun y => (y.2, x.k))))
  | _, _ => s

/-- A request takes its place behind the QUEUED requests. -/
def State.queueRequest (s : State) (q : Request) : State :=
  { s with
    srv := { s.srv with nextId := q.id + 1, reqs := s.srv.reqs ++ [q] }
    net := { s.net with mirrorCount := if s.mirrored then q.mirrorNo else s.net.mirrorCount } }

/-- The checks of a request's tokens, member by member (R369). -/
def State.checkTokens (s : State) (q : Request) : State :=
  (List.range q.members.length).foldl (fun s m => s.ownCheck q.mirrorNo 1 m 0 0 0 (q.tokfp m)) s

/-- A request is admitted: its ID, its contexts and its place behind the QUEUED requests; a mirrored module sends
the check of its tokens (R299, R369). -/
def State.takeIn (s : State) (p r : Nat) (c : Cmd) : State :=
  let h := if (leAt c.params 5 1).testBit 1 then s.handle (s.lead p) (leAt c.params 16 8) else none
  let q := s.newRequest p r c h
  let s := q.members.foldl (fun s m => s.openMember q h m) (s.queueRequest q)
  let s := (((s.syncContexts q.group).answer p r c .ok q.id q.id).checkTokens q)
  if s.mirrored && s.flag .vngMirror 0 0 26 then s.endRequest q.id .voided else s

/-- PREFILL_SUBMIT (R298, R299). -/
def execPrefillSubmit (part ring : Nat) (s : State) : Outcome :=
  .next (s.serving part ring 0x01 (fun c =>
    if !c.paid then s.answer part ring c .payloadFetch 0 0 else
    match s.refusal (s.lead part) c.params c.payload with
    | some st =>
      let s := if st = .prefixMismatch then s.addFld .prtSrvEvt (s.lead part) 0 31 16 1 else s
      s.answer part ring c st 0 0
    | none => s.takeIn part ring c))

/-! ### Prefix handles (R307 to R309) -/

/-- Positions that the entries of a layer, from page g on, hold without a gap. -/
def State.pagesLen (s : State) (p cid layer : Nat) : Nat → Nat → Nat
  | 0, _ => 0
  | n + 1, g =>
    let e := s.pte p cid layer g
    if !e.valid then 0 else if e.fill = 256 then 256 + s.pagesLen p cid layer n (g + 1) else e.fill

/-- Positions that a layer of a cache has appended; in the position layout, where this module holds some pages only, as its
appends have counted them (R278, R290). -/
def State.layerLen (s : State) (p cid layer : Nat) : Nat :=
  if (s.splitOf p cid).layout = 2 then s.lenOf p cid layer else s.pagesLen p cid layer (s.l1 p cid).l2pages 0

/-- Positions that a context has appended in every layer, in every partition that holds it (R308). -/
def State.appended (s : State) (l cid : Nat) : Nat :=
  let ls := ((s.group l).filter (fun p => (s.part p).ctxs.any (fun c => c.cid == cid))).flatMap (fun p =>
    let e := s.l1 p cid
    (List.range e.layers).map (fun y => s.layerLen p cid y))
  ls.min?.getD 0

/-- What a prefix is made from: model, adapter, tokens, its context and its draft's, and the positions it has. -/
structure PrefixSource where
  model : Nat
  adapter : Option Nat
  tokens : List Nat
  cid : Nat
  draft : Option (Nat × Nat)
  len : Nat
  deriving DecidableEq, Repr

/-- The source that a PREFIX_REGISTER names (R308). -/
def State.prefixSource (s : State) (l : Nat) (b : List Byte) : Except Status PrefixSource :=
  if leAt b 20 1 = 0 then
    match s.srv.reqs.find? (fun q => q.group == l && q.id == leAt b 8 4) with
    | none => .error .reqUnknown
    | some q =>
      match q.members[leAt b 21 1]? with
      | none => .error .reqUnknown
      | some m =>
        let n := s.appended l m.cid
        let n := match m.dcid with
          | some d => Min.min n (s.appended l d)
          | none => n
        .ok ⟨q.model, q.adapter, q.allTokens (leAt b 21 1), m.cid,
          match q.draft, m.dcid with
          | some x, some d => some (x, d)
          | _, _ => none, n⟩
  else
    match s.handle l (leAt b 8 8) with
    | none => .error .prefixUnknown
    | some e => .ok ⟨e.model, e.adapter, e.tokens, e.cid, e.draft, e.k⟩

/-- A context made like another, whose first k positions it shares, in every partition that holds the other (R283,
R308). -/
def State.copyCtx (s : State) (l from_ to_ k : Nat) : State :=
  (s.group l).foldl (fun s p =>
    let e := s.l1 p from_
    if !(s.part p).ctxs.any (fun c => c.cid == from_) || !e.valid then s else
    (s.makeCtx p to_ e.layers e.l2pages e.rg (s.splitOf p from_)).shareCtx p from_ to_ k) s

/-- A handle entry made, with its contexts shared from its source (R283, R308). -/
def State.putHandle (s : State) (l h k cid : Nat) (d : Option Nat) (src : PrefixSource) : State :=
  let toks := src.tokens.take k
  let s := s.copyCtx l src.cid cid k
  let s := match src.draft, d with
    | some (_, c), some d => s.copyCtx l c d k
    | _, _ => s
  let e : Handle := ⟨l, h, crc64 (tokenBytes toks), k, src.model, src.adapter, cid, addCounts [] toks,
    (match src.draft, d with
     | some (m, _), some d => some (m, d)
     | _, _ => none), toks⟩
  { s with srv := { s.srv with handles := s.srv.handles ++ [e] } }

/-- PREFIX_REGISTER (R308); it fails with KV_OFF where no partition of the group has its cache on (R292, R294; DESIGN
CHOICE, entry 123). -/
def execPrefixRegister (part ring : Nat) (s : State) : Outcome :=
  .next (s.serving part ring 0x02 (fun c =>
    let l := s.lead part
    if !(s.group l).any s.kvOn then
      (s.waitCmd part ring c.no).failWork part 0 0 0 0 0 l (some (part, ring, c.no)) .kvOff
    else
    let b := c.params
    let h := leAt b 0 8
    let k := leAt b 16 4
    let id := if leAt b 20 1 = 0 then leAt b 8 4 else 0
    let no (st : Status) := s.answer part ring c st id 0
    if h = 0 || (s.handle l h).isSome then no .prefixExists else
    match s.prefixSource l b with
    | .error st => no st
    | .ok src =>
      if k = 0 || src.len < k then no .prefixRange else
      match s.freeCid l [] with
      | none => no .prefixRange
      | some cid =>
        let d := src.draft.bind (fun _ => s.freeCid l [cid])
        if src.draft.isSome && d.isNone then no .prefixRange else
        (s.putHandle l h k cid d src).answer part ring c .ok id (crc64 (tokenBytes (src.tokens.take k)))))

/-- PREFIX_RELEASE (R309). -/
def execPrefixRelease (part ring : Nat) (s : State) : Outcome :=
  .next (s.serving part ring 0x03 (fun c =>
    let l := s.lead part
    match s.handle l (leAt c.params 0 8) with
    | none => s.answer part ring c .prefixUnknown 0 0
    | some e =>
      let s : State := { s with srv := { s.srv with handles := s.srv.handles.erase e } }
      let s := s.releaseCid l e.cid
      let s := match e.draft with
        | some (_, d) => s.releaseCid l d
        | none => s
      s.answer part ring c .ok 0 0))

/-! ### Adapter sets (R310, R311) -/

/-- An adapter image obeys R311 for a loaded set. -/
def adapterOk (im : List Byte) (v : ProgSet) : Bool :=
  let e := 16 + v.width + v.width / 32 + 2 * v.latent
  decide (im.length ≤ 1048576) && leAt im 4 2 == v.layers && leAt im 6 2 == v.width && leAt im 8 2 == v.latent &&
    im.length == 64 + v.layers * e && zeros im 10 54 &&
    (List.range v.layers).all (fun i => leAt im (64 + i * e) 2 == i && zeros im (66 + i * e) 14)

/-- ADAPTER_LOAD (R310, R311): a busy set is reported first; a payload that fails leaves the set empty. -/
def execAdapterLoad (part ring : Nat) (s : State) : Outcome :=
  .next (s.serving part ring 0x04 (fun c =>
    let l := s.lead part
    let n := leAt c.params 0 2
    let drop (s : State) : State :=
      { s with srv := { s.srv with adapters := s.srv.adapters.filter (fun e => !(e.group == l && e.set == n)) } }
    if s.srv.reqs.any (fun q => q.group == l && q.adapter == some n) then s.answer part ring c .adapterBusy 0 0
    else if !c.paid then (drop s).answer part ring c .payloadFetch 0 0
    else
      match s.progSet l (leAt c.payload 0 4) with
      | none => s.answer part ring c .adapterImage 0 0
      | some v =>
        if !adapterOk c.payload v then s.answer part ring c .adapterImage 0 0 else
        let s := drop s
        ({ s with srv := { s.srv with adapters := s.srv.adapters ++ [⟨l, n, leAt c.payload 0 4, c.payload⟩] } } : State).answer
          part ring c .ok 0 0))

/-! ### Pausing (R303 to R306, R321, Table 11.2) -/

/-- CHUNK and LAYER of a resume record: the last layer that has been appended (Table 11.2). -/
def State.recordPos (s : State) (q : Request) : Nat × Nat :=
  let n := s.layersOf q
  let last (j : Nat) : Nat := Min.min j (n - 1)
  match q.replay with
  | some (c, j) => if c = q.chunk then (c, last (Max.max j (s.place q - 1))) else (q.chunk, last (s.place q - 1))
  | none =>
    if s.place q > 0 then (q.chunk, last (s.place q - 1))
    else if q.chunk > q.k / (match s.progSet q.group q.model with
        | some v => v.qchunk
        | none => 1) then (q.chunk - 1, n - 1)
    else (q.chunk, 0xFF)

/-- Pages exported in every layer: full pages beyond the prefix that no longer wait to be sent (Table 11.2). -/
def State.exportedPages (s : State) (q : Request) : Nat :=
  let cid := (q.members.map (·.cid)).headD 0
  let g0 := q.k / 256
  let sent (y g : Nat) : Bool := !q.objs.any (fun o => o.kind == 0 && !o.draft && o.member == 0 && o.layer == y && o.pidx == g)
  let ls := (List.range (s.layersOf q)).map (fun y =>
    ((List.range (s.appended q.group cid / 256 - g0)).takeWhile (fun i => sent y (g0 + i))).length)
  ls.min?.getD 0

/-- The class of a request's set. -/
def State.classIndex (s : State) (q : Request) (v : ProgSet) : Nat := (v.classFor q.longest).getD 0

/-- The resume record of a request; a batch's describes its member 0 (Table 11.2). -/
def State.resumeRecord (s : State) (q : Request) : List Byte :=
  let m := q.members.head?
  let cid := (m.map (·.cid)).getD 0
  let dcid := (m.bind (·.dcid)).getD 0xFFFF
  let samp := (m.map (·.sample)).getD []
  let pos := s.recordPos q
  let lossy := sampLossy samp && s.flag .prtSrvCtrl q.group 0 2
  let idx := match s.progSet q.group q.model with
    | some v => q.classIdx.getD (s.classIndex q v)
    | none => 0
  let body := leBytes 1 1 ++ leBytes 1 q.cls ++ leBytes 1 (b2n (q.pauseMode.getD false)) ++
    leBytes 1 (b2n lossy + 2 * b2n q.draft.isSome + 4 * b2n (decide (q.prefixHandle ≠ 0))) ++ leBytes 4 q.id ++
    leBytes 2 cid ++ leBytes 2 dcid ++ leBytes 2 (q.adapter.getD 0) ++ leBytes 2 q.model ++ leBytes 4 (q.seqlen 0) ++
    leBytes 4 pos.1 ++ leBytes 1 pos.2 ++ leBytes 1 idx ++ leBytes 2 0 ++ leBytes 4 (s.exportedPages q) ++
    leBytes 8 q.prefixHandle ++ leBytes 8 (q.tokfp 0) ++ padTo 32 samp ++ List.replicate 168 0
  body ++ leBytes 8 (crc64 body)

/-- A PAUSE of a request that has reached its pause point ends: its resume record is written, then its own record
(R304, R323). -/
def State.endPause (s : State) (q : Request) (no raddr : Nat) : State :=
  match s.cmdRing no with
  | none => s
  | some (p, r) =>
    let pos := s.recordPos q
    (s.hostWrite p (.resumeRec (s.ownerOf p) raddr (s.resumeRecord q))).endCmd p r no Status.ok.val q.id
      (pos.1 + pos.2 * 2 ^ 32) 0

/-- A request becomes QUEUED again, behind the other resumed ones (R300). -/
def State.requeue (s : State) (id : Nat) : State :=
  match s.req id with
  | none => s
  | some q =>
    let q := { q with st := .queued, prio := 1, pauseMode := none }
    { s with srv := { s.srv with reqs := s.srv.reqs.filter (fun r => r.id ≠ id) ++ [q] } }

/-- A request reaches its pause point, in the mode (true CHUNK) reached first: what it will replay is noted, the PAUSEs that
wait end, and a waiting RESUME applies (R304, R305, R321). -/
def State.toPaused (s : State) (id : Nat) (mode : Bool) : State :=
  match s.req id with
  | none => s
  | some q =>
    let j := s.place q
    let old := match q.replay with
      | some (c, i) => if c = q.chunk then i + 1 else 0
      | none => 0
    let upTo := Max.max j old
    let waits := q.pausers
    let resumes := q.resumers
    let s := s.modReq id (fun r => { r with
      st := .paused, pauseMode := some mode, pausers := [], resumers := [], prio := 0
      replay := if upTo = 0 then none else some (q.chunk, upTo - 1), layer := 0, inDraft := false })
    let s := s.addFld .prtSrvEvt q.group 0 15 0 1
    let s := waits.foldl (fun s w => match s.req id with
      | some r => s.endPause r w.1 w.2
      | none => s) s
    match resumes with
    | [] => s
    | _ => resumes.foldl (fun s no => s.endWaiting no Status.ok.val id 0 0) (s.requeue id)

/-- Remaining layer chunks of a request. -/
def State.remaining (s : State) (q : Request) : Nat :=
  let d := match q.draft.bind (s.progSet q.group) with
    | some v => v.layers
    | none => 0
  (q.lastChunk + 1 - q.chunk) * (s.layersOf q + d) - s.place q

/-- What is left of the hold of a group's launches for a hint (R394), in ns: a hold ends DEFER_MAX after its START at the
latest (R401). -/
def State.holdLeft (s : State) (l : Nat) : Nat :=
  if !s.pwr.heldGroups.contains l then 0 else
  match s.pwr.hints.find? (fun h => h.group == l && decide (h.start ≤ s.up.time)) with
  | some h => h.start + s.fld .pwrHint 0 0 15 0 * 100000 - s.up.time
  | none => 0

/-- The saffron request for which a running one pauses at this boundary; the estimate counts what is left of a hold
(R303, R401). -/
def State.autoPause (s : State) (q : Request) : Option Request :=
  if !s.flag .prtSrvCtrl q.group 0 1 || q.cls = 2 || q.times.isEmpty then none else
  let ts := q.times.take 16
  let left := ts.sum * 1000 * s.remaining q / ts.length + s.holdLeft q.group
  s.srv.reqs.find? (fun r => r.group == q.group && r.st == .queued && r.cls == 2 &&
    (let goal := match r.members.head? with
      | some m => sampGoal m.sample
      | none => 0
     goal != 0 && decide (r.admitted + goal * 1000 < s.up.time + left)))

/-! ### The end of prefill (R298, R317, R281) -/

/-- The last unsealed pages of a context get their trailers with their FILL, in every partition that holds it, of the pages
that this module holds (R281, R290, R317). -/
def State.sealLast (s : State) (l cid : Nat) : State :=
  (s.group l).foldl (fun s p =>
    if !(s.part p).ctxs.any (fun c => c.cid == cid) then s else
    let e := s.l1 p cid
    (List.range e.layers).foldl (fun s y =>
      let n := s.layerLen p cid y
      if n % 256 = 0 || !(s.splitOf p cid).has (n / 256) then s else s.sealPage p cid y (n / 256)) s) s

/-- The last layer chunk is done: the request is EXPORTING, its last pages and count tables join its objects
(R298, R312, R317). -/
def State.startExport (s : State) (id : Nat) : State :=
  match s.req id with
  | none => s
  | some q =>
    let s := s.modReq id (fun r => { r with st := .exporting })
    let s := q.members.foldl (fun s m => (m.cid :: m.dcid.toList).foldl (fun s c => s.sealLast q.group c) s) s
    let s := s.modReq id (fun r => { r with objs := r.objs ++ (List.range q.members.length).map (fun m =>
      (⟨1, m, q.group, false, 0, 0, 0, 0, 0, !s.mirrored, false⟩ : ExpObj)) })
    (List.range q.members.length).foldl (fun s m => s.ownCheck q.mirrorNo 2 m 0 0 0 (crc64 (s.countTable q m))) s

/-- What a running request does at a layer-chunk boundary: cancel, pause, pause for a saffron request, or go on to
export; an abort that is due waits for its own command (R298, R303, R304, R321, R426). -/
def State.boundary (s : State) (id : Nat) : State :=
  match s.req id with
  | none => s
  | some q =>
    if q.inFlight || q.void.isSome || (q.st ≠ .running && q.st ≠ .pausing) || q.classIdx.isNone then s else
    if q.cancelDue then s.endRequest id .cancelled else
    let due : Bool := match q.pauseMode with
      | some m => q.st == .pausing && (!m || s.place q == 0)
      | none => false
    if due then s.toPaused id (q.pauseMode.getD false) else
    if q.chunk > q.lastChunk then s.startExport id else
    match s.autoPause q with
    | some r => (s.modReq r.id (fun r => { r with prio := 2 })).toPaused id false
    | none => s

/-- A request of the group named by a PAUSE, RESUME or CANCEL. -/
def State.named (s : State) (l : Nat) (c : Cmd) : Option Request :=
  s.srv.reqs.find? (fun q => q.group == l && q.id == leAt c.params 0 4)

/-- PAUSE (R304, R321). -/
def execPause (part ring : Nat) (s : State) : Outcome :=
  .next (s.serving part ring 0x08 (fun c =>
    let id := leAt c.params 0 4
    let raddr := leAt c.params 8 8
    let mode := leAt c.params 4 1 == 1
    match s.named (s.lead part) c with
    | none => s.answer part ring c .reqUnknown id 0
    | some q =>
      match q.st with
      | .exporting => s.answer part ring c .pauseLate id 0
      | .paused => s.endPause q c.no raddr
      | .pausing =>
        (s.waitCmd part ring c.no).modReq id (fun r => { r with pausers := r.pausers ++ [(c.no, raddr)] })
      | .queued =>
        ((s.waitCmd part ring c.no).modReq id (fun r =>
          { r with pausers := r.pausers ++ [(c.no, raddr)], pauseMode := some mode })).toPaused id mode
      | .running =>
        ((s.waitCmd part ring c.no).modReq id (fun r =>
          { r with pausers := r.pausers ++ [(c.no, raddr)], pauseMode := some mode, st := .pausing })).boundary id))

/-- Every layer's length is what a record with this CHUNK and LAYER says: up to the chunk's end in the layers that have
appended it, and up to its start in the others (R306). -/
def State.fillsMatch (s : State) (q : Request) (cid chunk layer : Nat) : Bool :=
  let n := match s.progSet q.group q.model with
    | some v => v.qchunk
    | none => 1
  let end_ (c : Nat) : Nat := Max.max q.k (Min.min (c * n) (q.seqlen 0))
  (s.group q.group).all (fun p => !(s.part p).ctxs.any (fun c => c.cid == cid) ||
    (List.range (s.l1 p cid).layers).all (fun y =>
      s.layerLen p cid y == (if layer ≠ 0xFF ∧ y ≤ layer then end_ (chunk + 1) else end_ chunk)))

/-- The fields of a record lie within the ranges of Table 11.2 for the request that it describes (R306). -/
def State.recordFits (s : State) (q : Request) (b : List Byte) : Bool :=
  let m := q.members.head?
  let classes := match s.progSet q.group q.model with
    | some v => v.classes.length
    | none => 0
  leAt b 14 2 == q.model && leAt b 12 2 == q.adapter.getD 0 && leAt b 10 2 == (m.bind (·.dcid)).getD 0xFFFF &&
    leAt b 16 4 == q.seqlen 0 && decide (leAt b 25 1 < Max.max classes 1) && leAt b 32 8 == q.prefixHandle &&
    sampleOk ((b.drop 48).take 32) (s.fld .glbCapSrv2 0 0 18 8) && decide (leAt b 8 2 < 4096)

/-- A carried resume record is accepted: the PAUSED request of the group that it describes (R306). -/
def State.recordFor (s : State) (l : Nat) (b : List Byte) : Option Request :=
  if b.length ≠ 256 || crc64 (b.take 248) ≠ leAt b 248 8 || leAt b 0 1 ≠ 1 || leAt b 1 1 > 2 || leAt b 2 1 > 1 ||
      leAt b 3 1 > 7 || !zeros b 26 2 || !zeros b 80 168 then none else
  s.srv.reqs.find? (fun q => q.group == l && q.st == .paused && (q.members.map (·.cid)).head? == some (leAt b 8 2) &&
    q.tokfp 0 == leAt b 40 8 && s.recordFits q b && s.fillsMatch q (leAt b 8 2) (leAt b 20 4) (leAt b 24 1))

/-- RESUME (R300, R306, R321). -/
def execResume (part ring : Nat) (s : State) : Outcome :=
  .next (s.serving part ring 0x09 (fun c =>
    let l := s.lead part
    let id := leAt c.params 0 4
    let rec_ := leAt c.params 4 1 == 1
    let go (q : Request) : State :=
      match q.st with
      | .paused => (s.requeue q.id).answer part ring c .ok id 0
      | .pausing => (s.waitCmd part ring c.no).modReq q.id (fun r => { r with resumers := r.resumers ++ [c.no] })
      | _ => s.answer part ring c .ok id 0
    if rec_ && !c.paid then s.answer part ring c .payloadFetch id 0 else
    match s.named l c with
    | some q => go q
    | none =>
      if !rec_ then s.answer part ring c .reqUnknown id 0 else
      match s.recordFor l c.payload with
      | some q => go q
      | none => s.answer part ring c .resumeStale id 0))

/-- CANCEL (R298, R321): it completes on acceptance. -/
def execCancel (part ring : Nat) (s : State) : Outcome :=
  .next (s.serving part ring 0x0A (fun c =>
    let id := leAt c.params 0 4
    match s.named (s.lead part) c with
    | none => s.answer part ring c .reqUnknown id 0
    | some q =>
      let s := s.answer part ring c .ok id 0
      match q.st with
      | .running => (s.modReq id (fun r => { r with cancelDue := true })).boundary id
      | .pausing => (s.modReq id (fun r => { r with cancelDue := true })).boundary id
      | _ => s.endRequest id .cancelled))

/-- EXPORT_ROUTE (R318). -/
def execExportRoute (part ring : Nat) (s : State) : Outcome :=
  .next (s.serving part ring 0x0E (fun c =>
    let b := c.params
    let route := (List.range 6).map (fun i => leAt b (4 + 4 * i) 4)
    ({ s with srv := { s.srv with routes := s.srv.routes.put (s.lead part * 256 + leAt b 0 1) route } } : State).answer
      part ring c .ok 0 0))

/-! ### Layer chunks (R300, R301, R359) -/

/-- A launch entry (R341). -/
def lnClass (b : List Byte) : Nat := leAt b 0 1
def lnLayer (b : List Byte) : Nat := leAt b 1 1
def lnStage (b : List Byte) : Nat := leAt b 2 1
def lnRplan (b : List Byte) : Nat := leAt b 3 1
def lnAsq (b : List Byte) : Nat := leAt b 4 1
def lnPart (b : List Byte) : Nat := leAt b 5 1
def lnDaddr (b : List Byte) : Nat := leAt b 6 2
/-- Origin of neighbourhood n, partition-relative (R341). -/
def lnOrigin (b : List Byte) (n : Nat) : Nat × Nat :=
  let c := Max.max (leAt b 11 1) 1
  (leAt b 8 2 + n % c * leAt b 12 2, leAt b 10 1 + n / c * leAt b 14 1)
def lnNnb (b : List Byte) : Nat := leAt b 16 2

/-- The partition of a launch entry: a member of the group in order of partition number. -/
def State.lnPartition (s : State) (l : Nat) (b : List Byte) : Nat := (s.group l).getD (lnPart b) l

/-- The origin cloves of a neighbourhood's gangs, gang 0 first: the gangs of the origin's shape lie side by side
(R196, R301). -/
def State.gangOrigins (s : State) (p : Nat) (b : List Byte) (n : Nat) : List Nat :=
  let o := lnOrigin b n
  let k := partClove p o.1 o.2
  let pr := (s.clove k).bytesAt (lnDaddr b) 8
  let side := (s.loopGang k pr).side
  (List.range (nbx pr * nby pr)).map (fun i =>
    partClove p (o.1 + i % Max.max (nbx pr) 1 * side) (o.2 + i / Max.max (nbx pr) 1 * side))

/-- Strips of a partition that are admitted to dispatch: powered, no quarantined clove (R212). -/
def State.admitted (s : State) (p : Nat) : List Nat :=
  let fs := [0, 1, 2].map (fun c => ctrField p (16 * c))
  let quar := (s.cloves.filter (fun e => e.2.quar)).map (fun e => s.stripOf (cloveX e.1) (cloveY e.1))
  fs.flatMap (fun f => ((List.range 12).map (fun i => f * 12 + i)).filter (fun d =>
    s.domOn d && !quar.contains d))

/-- A dispatch counter is armed (R211, R212, Tables 7.10 and 7.11). -/
def State.armCounter (s : State) (p n limit : Nat) : State :=
  let f := ctrField p n
  let e := (s.counter p n).epoch + 1
  let s := (s.setFld .fldDspCnt f (n % 16) 23 0 0).setFld .fldDspCnt f (n % 16) 31 24 (e % 256)
  let s := s.setFld .fldDspStat f 0 (16 + n % 16) (16 + n % 16) 1
  s.modPart p (fun q => { q with counters := q.counters.put n ⟨limit, e, s.admitted p, true⟩ })

/-- What was armed for an earlier command counts no more for the next one, in every partition of a group (R209, R211). -/
def State.disownCounters (s : State) (l : Nat) : State :=
  (s.group l).foldl (fun s p =>
    s.modPart p (fun q => { q with counters := q.counters.map (fun e => (e.1, { e.2 with cur := false })) })) s

/-- The counter that a launch entry's program fetches from is armed with its L3 iterations (R211, R301). -/
def State.armEntry (s : State) (p : Nat) (b : List Byte) : State :=
  let o := lnOrigin b 0
  let c := s.clove (partClove p o.1 o.2)
  let pr := c.bytesAt (lnDaddr b) 94
  if !dispatched pr && nlev pr ≤ 3 then s else
  let pr := c.bytesAt (lnDaddr b) (ceilDiv (progBytes (Min.min (nlev pr) 6) (Min.min (nbody pr) 16)) 8)
  if !dispatched pr then s else
  let tab := orderTable c (progAt pr (levOff 3 + 16) 2) (iters pr 3 0 * iters pr 3 1 * iters pr 3 2)
  s.armCounter p (dctr pr) (visitOrder pr [(3, tab)] 3).length

/-- The read stream of a launch entry is armed over the chunk's range (R274, R301). -/
def State.armPlan (s : State) (q : Request) (v : ProgSet) (p cid : Nat) (b : List Byte) (m lo n : Nat) : State :=
  if lnRplan b = 0xFF then s else
  let plan := v.plans.getD (lnRplan b) []
  let k := Max.max (planQchunk plan) 1
  s.armStream p plan cid q.layer (q.seqlen m) (lo / k) ((lo + n - 1) / k) q.group

/-- LOOP in every origin clove of every neighbourhood of a launch entry (R301). -/
def State.issueLoops (s : State) (p : Nat) (b : List Byte) (lo n : Nat) : State :=
  (List.range (lnNnb b)).foldl (fun s nb =>
    let os := s.gangOrigins p b nb
    (List.range os.length).foldl (fun s i =>
      let k := os.getD i 0
      let w := LoopOp.toWord ⟨BitVec.ofNat 12 (lnDaddr b), BitVec.ofNat 8 i, BitVec.ofNat 32 n, BitVec.ofNat 32 lo, BitVec.ofNat 16 nb⟩
      s.enter none ⟨cloveX k, cloveY k, w, false, []⟩) s) s

/-- One stage of a layer chunk is launched for one member, in the order of R301. -/
def State.launchStage (s : State) (q : Request) (v : ProgSet) (stage m : Nat) : State :=
  match q.members[m]? with
  | none => s
  | some mem =>
    let (lo, n) := q.span v.qchunk m
    let (lo, n) := if q.inDraft then (match s.progSet q.group q.model with
      | some t => q.span t.qchunk m
      | none => (lo, n)) else (lo, n)
    let cid := if q.inDraft then mem.dcid.getD mem.cid else mem.cid
    let idx := s.classIndex q v
    let es := v.launches.filter (fun b => lnClass b == idx && lnLayer b == q.layer && lnStage b == stage)
    let part (b : List Byte) : Nat := s.lnPartition q.group b
    let s := es.foldl (fun s b => s.armEntry (part b) b) (s.disownCounters q.group)
    let s := es.foldl (fun s b => s.armPlan q v (part b) cid b m lo n) s
    let s := (es.foldl (fun s b => s.issueLoops (part b) b lo n) s).settle
    if s.replays q then s
    else (es.foldl (fun s b => if lnAsq b = 0xFF then s
      else s.beginAppend (part b) cid q.layer (lnAsq b) lo n q.group none) s).settle

/-- The stages of a request's next layer chunk with its members, in order (R301, R302, R341). -/
def State.stagesOf (s : State) (q : Request) (v : ProgSet) : List (Nat × Nat) :=
  let idx := s.classIndex q v
  let es := v.launches.filter (fun b => lnClass b == idx && lnLayer b == q.layer)
  let st := sortBy (fun a b => decide (a ≤ b)) (es.map lnStage).dedup
  let n := match s.progSet q.group q.model with
    | some t => t.qchunk
    | none => v.qchunk
  st.flatMap (fun g => ((List.range q.members.length).filter (fun m => decide (0 < (q.span n m).2))).map (fun m => (g, m)))

/-- Every clove of a group has come to rest: no loop generates, and nothing waits or runs. -/
def State.groupIdle (s : State) (l : Nat) : Bool :=
  s.cloves.all (fun e =>
    s.lead (partOf (cloveX e.1) (cloveY e.1)) ≠ l ||
      (!e.2.looping && e.2.waiting.isEmpty && e.2.sfu.isEmpty && e.2.arrA.work.isEmpty && e.2.arrB.work.isEmpty))

/-- Every append of a group's layer chunk has completed. -/
def State.appendsDone (s : State) (l : Nat) : Bool :=
  (s.group l).all (fun p => (s.part p).appends.all (fun e => e.2.group ≠ l || e.2.cmd.isSome))

/-- The pair that serves a partition group (R296): pair 3 where it replaces the group's own. -/
def State.pairOf (s : State) (l : Nat) : Nat :=
  if s.flag .glbCumin 0 0 3 && s.fld .glbCumin 0 0 9 8 == l % 3 then 3 else l % 3

/-- The pair that serves a group is in service and running (R296, R412). -/
def State.pairUp (s : State) (l : Nat) : Bool :=
  s.flag .glbCumin 0 0 (s.pairOf l) && !s.up.restarting.contains (s.pairOf l)

/-- Launches of a group are held: a partition of it is out of service, an abort or a restart is under way, or R359's or
R394's limit (R23, R424). -/
def State.launchHeld (s : State) (l : Nat) (q : Request) : Bool :=
  (s.group l).any s.partOut || q.void.isSome || s.err.aborts.any (fun a => a.group == l) || !s.pairUp l || (s.up.resets.at? l).isSome ||
    s.pwr.heldGroups.contains l ||
    decide ((q.objs.filter (fun o => o.kind == 0)).length > s.fld .prtVngFlowq l 0 23 16 * 64)

/-- The QUEUED request that a group starts next (R300, R303). -/
def State.nextQueued (s : State) (l : Nat) : Option Request :=
  let qs := s.srv.reqs.filter (fun q => q.group == l && q.st == .queued)
  match qs.find? (fun q => q.prio == 2) with
  | some q => some q
  | none => match qs.find? (fun q => q.prio == 1) with
    | some q => some q
    | none => qs.head?

/-- Fields of a group. -/
def State.groupFields (s : State) (l : Nat) : List Nat := (s.group l).flatMap (fun p => [3 * p, 3 * p + 1, 3 * p + 2])

/-- Ballast of a group, shared over its fields; 0 W ends it (R383, R393). -/
def State.setBallast (s : State) (l w : Nat) : State :=
  let fs := s.groupFields l
  let s : State := { s with pwr := { s.pwr with ballast := s.pwr.ballast.set l 0 w } }
  fs.foldl (fun s f => s.modField f (fun v => { v with ballast := w / Max.max fs.length 1 })) s

/-- A launch at or after a hint's START takes the place of its ballast (R393). -/
def State.takeBallast (s : State) (l : Nat) : State :=
  let due (h : Hint) : Bool := h.group == l && decide (h.start ≤ s.up.time)
  if s.pwr.hints.any due then
    { s.setBallast l 0 with pwr := { (s.setBallast l 0).pwr with hints := s.pwr.hints.filter (fun h => !due h) } }
  else s

/-- The first stage of a layer chunk is launched; a request's first one fixes its class (R300, R301). -/
def State.launchChunk (s : State) (q : Request) : State :=
  match s.runSet q with
  | none => s
  | some v =>
    let q := { q with
      st := if q.st = .queued then .running else q.st, prio := 0, inFlight := true
      classIdx := some (q.classIdx.getD (s.classIndex q v)), stages := (s.stagesOf q v).tail }
    let first := (s.stagesOf q v).head?
    let s := (s.modReq q.id (fun _ => q)).takeBallast q.group
    match first with
    | some (g, m) => s.launchStage q v g m
    | none => s

/-- LAYER_CHUNK_LAUNCH: the next stage of the running layer chunk once the one before has come to rest, else the
next layer chunk of the running request, else the first of the next QUEUED one; at a boundary held for a hint, an
automatic pause still acts (R300, R301, R401). -/
def execLayerChunkLaunch (group : HbmReader) (s : State) : Outcome :=
  let s := s.hbmFind group.found
  let group := group.id
  .next (match s.active group with
    | some q =>
      if q.st = .exporting || s.launchHeld group q then
        (if s.pwr.heldGroups.contains group then s.boundary q.id else s) else
      if q.inFlight then
        match q.stages, s.runSet q with
        | (g, m) :: rest, some v =>
          if s.groupIdle group then
            (s.modReq q.id (fun r => { r with stages := rest })).launchStage q v g m
          else s
        | _, _ => s
      else if q.chunk ≤ q.lastChunk then s.launchChunk q else s
    | none => match s.nextQueued group with
      | some q => if s.launchHeld group q then s else s.launchChunk q
      | none => s)

/-- The layer chunk that follows (R300, R316). -/
def State.advance (s : State) (q : Request) : Request :=
  let n := match s.runSet q with
    | some v => v.layers
    | none => 0
  if q.layer + 1 < n then { q with layer := q.layer + 1 }
  else if !q.inDraft && q.draft.isSome then { q with layer := 0, inDraft := true }
  else { q with chunk := q.chunk + 1, layer := 0, inDraft := false, replay := none }

/-- LAYER_CHUNK_DONE: every loop and append of the layer chunk has completed (R300, R301). -/
def execLayerChunkDone (group us : Nat) (s : State) : Outcome :=
  .next (match s.active group with
    | some q =>
      if !q.inFlight || !q.stages.isEmpty || !s.groupIdle group || !s.appendsDone group then s else
      let r := s.advance q
      (s.modReq q.id (fun _ => { r with inFlight := false, times := us :: q.times })).boundary q.id
    | none => s)

/-- FIRST_TOKEN_SAMPLE: a member's token is chosen from its logits and joins the request's objects; logits not
given read +0 (R313, R314, R317). -/
def execFirstTokenSample (group member : Nat) (logits : List W32) (s : State) : Outcome :=
  .next (match s.active group with
    | some q =>
      match q.members[member]?, s.progSet group q.model with
      | some m, some v =>
        if q.st ≠ .exporting || m.token.isSome then s else
        let ls := (List.range v.vocab).map (fun t => b32Val (logits.getD t 0).toNat)
        let t := sampleToken m.sample ls m.counts
        let s := s.modMember q.id member (fun m => { m with token := some t })
        let s := s.modReq q.id (fun r => { r with objs := r.objs ++
          [(⟨2, member, group, false, 0, 0, 0, 0, 0, !s.mirrored, false⟩ : ExpObj)] })
        s.ownCheck q.mirrorNo 3 member 0 0 0 t
      | _, _ => s
    | none => s)

end Sys2Proof.Machine
end

