-- ==== Sys2Proof/Machine/Reset.lean ====
section
/-! DEFINITION. Containment (R408 to R411, R424, R429 to R431): what a request abort and a partition reset do to
a group, gates, safety offs and power lost by domains, and the state that a module reset leaves. -/
namespace Sys2Proof.Machine

/-! ### Cloves and partitions stopped (R53, R81, R102, R189, R215, R238, R295) -/

/-- The clove that a message comes from; messages stay inside one partition. -/
def Msg.src : Msg → Nat
  | .write src _ _ _ _ => src
  | .readReq src _ _ _ _ => src
  | .readData src _ _ _ => src
  | .slot src _ _ _ _ => src
  | .ackMsg src _ _ => src
  | .grant src _ _ _ _ _ => src
  | .grantQ src _ _ _ _ _ => src
  | .creditRet src _ _ => src
  | .creditRetQ src _ _ => src
  | .unbind src _ _ _ => src
  | .unbindQ src _ _ => src
  | .arrive src _ _ _ _ => src

/-- An array stopped: its passes are discarded, both register sets are zero, and issue goes on (R53, R81). -/
def ArrayUnit.stopped (a : ArrayUnit) : ArrayUnit :=
  { a with s0 := RegSet.zero, s1 := RegSet.zero, work := [], halted := false }

/-- A clove stopped: regions unset, channels unbound, scoreboards free, nothing waiting or running; its
scratchpad and queued write-backs stay (R53, R81, R189, R215). -/
def Clove.stopped (c : Clove) : Clove :=
  { c with
    regions := [], channels := [], arrA := c.arrA.stopped, arrB := c.arrB.stopped, sfuHalted := false
    remHalted := false, loopHalted := false, seqHalted := false, sb := [], sfu := [], waiting := [], tickets := []
    fences := 0, fenceNo := 0, fenceXfer := 0, bwait := none, barr := none, unacked := 0, reads := 0, loop := none, grants := [] }

/-- A clove as a partition reset leaves it: besides, its arrays are solo, and its epilogue table and sequence
numbers are zero (R57, R123, R124, R130). -/
def Clove.partReset (c : Clove) (x y : Nat) : Clove :=
  { c.stopped with arrA := ArrayUnit.solo x y, arrB := ArrayUnit.solo x y, epi := [], sfuSeq := 0 }

/-- Frame numbers of a partition whose entry has its PIN byte listed. -/
def State.pinnedFrames (s : State) (p : Nat) : List Nat :=
  let b := s.ftBase p
  (s.hbm.bytes.filter (fun e => decide (b ≤ e.1) && decide (e.1 < b + 16 * s.fld .prtKvFrames p 0 23 0) && (e.1 - b) % 16 == 4)).map
    (fun e => (e.1 - b) / 16)

/-- Every PIN of a partition set to 0; frames that nothing names are freed (R282, R295). -/
def State.clearPins (s : State) (p : Nat) : State :=
  if !s.kvOn p then s else
  (s.pinnedFrames p).foldl (fun s f => (s.putFrm p f { s.frm p f with pin := 0 }).freeIfUnused p f) s

/-- A partition's queues, barriers, counters, streams, appends and look-aside buffers stopped; a reset also
empties its function store (R138, R215, R238, R273, R295). -/
def State.stopPart (s : State) (p : Nat) (full : Bool) : State :=
  let s := s.modPart p (fun q => { q with
    queues := [], barriers := [], counters := q.counters.map (fun e => (e.1, { e.2 with limit := 0, admitted := [], cur := false }))
    streams := [], appends := [], unpins := []
    uslots := if full then [] else q.uslots, utab := if full then [] else q.utab })
  let s := [0, 1, 2].foldl (fun s c =>
    let f := 3 * p + c
    (s.setFld .fldDspStat f 0 31 16 0).modField f (fun v => { v with tlb := [] })) s
  s.clearPins p

/-- Everything that runs for a group is stopped: a request abort (full false) or a partition reset (R410, R424). -/
def State.stopWork (s : State) (l : Nat) (full : Bool) : State :=
  let g := s.group l
  let mine (k : Nat) : Bool := g.contains (partOf (cloveX k) (cloveY k))
  let s : State := { s with
    cloves := s.cloves.map (fun e => if mine e.1 then
      (e.1, if full then e.2.partReset (cloveX e.1) (cloveY e.1) else e.2.stopped) else e)
    msgs := s.msgs.filter (fun m => !mine m.src)
    inflight := s.inflight.filter (fun r => !g.contains r.part)
    memStacks := s.memStacks.map (fun e => (e.1, { e.2 with reqs := e.2.reqs.filter (fun r => !g.contains r.part) }))
    net := { s.net with tiers := s.net.tiers.filter (fun e => !g.contains e.2.part) } }
  g.foldl (fun s p => s.stopPart p full) s

/-! ### Gates (R429 to R431, Table 16.6) -/

/-- The gates of some partitions close for a cause: 0 pair reset, 1 takeover, 2 partition reset, 3 module reset. -/
def State.closeGates (s : State) (ps : List Nat) (cause : Nat) : State :=
  ps.foldl (fun s p =>
    let cs := s.err.gates.atD p []
    let s : State := { s with err := { s.err with gates := s.err.gates.put p (if cs.contains cause then cs else cs ++ [cause]) } }
    s.setFld .errGate 0 0 p p 1) s

/-- A cause of the gates of some partitions has cleared. -/
def State.dropCause (s : State) (ps : List Nat) (cause : Nat) : State :=
  ps.foldl (fun s p => { s with err := { s.err with
    gates := s.err.gates.put p ((s.err.gates.atD p []).filter (· ≠ cause)) } }) s

/-- Every stream of a request has sent TRAILER OK, and nothing has voided it (R431). -/
def Request.allOk (q : Request) : Bool :=
  q.void.isNone && q.members.all (fun m => m.streams.all (fun e => e.trailer == some Status.ok.val))

/-- A request of a state that a reset ends: not QUEUED beside a pair reset, and never PAUSED (R321). -/
def Request.endsBy (q : Request) (queued : Bool) : Bool :=
  !q.allOk && (q.st == .running || q.st == .pausing || q.st == .exporting || (queued && q.st == .queued))

/-! ### Flows of a reset partition (R372) -/

/-- An outbound flow starts again with SYN and a new GEN; what was sent and not acknowledged, and trailers, are
sent again in order, and what waited for credit is dropped. -/
def State.restartFlow (s : State) (k : Nat) (f : OutFlow) : State :=
  let sent := f.unacked.map (fun m => (m.psn, m.type, m.body, m.marks))
  let tail := ((List.range f.queue.length).zip f.queue).filterMap (fun e =>
    if e.2.1 = 0x23 then some (f.nextPsn + e.1, e.2.1, e.2.2.1, e.2.2.2) else none)
  let keep := sent ++ tail
  let renum (u : Nat × Nat × Option (Nat × Nat)) : List (Nat × Nat × Option (Nat × Nat)) :=
    if u.1 ≠ k then [u] else
    match (List.range keep.length).find? (fun i => (keep.map (·.1)).getD i 0 == u.2.1) with
    | some i => [(k, i, u.2.2)]
    | none => []
  let s : State := { s with
    srv := { s.srv with reqs := s.srv.reqs.map (fun q => { q with unacked := q.unacked.flatMap renum }) }
    net := { s.net with nextGen := (s.net.nextGen + 1) % 65536 } }
  (s.setOut k ⟨f.part, f.dnode, f.dpart, s.net.nextGen, 0, 0, false, [], keep.map (·.2)⟩).pump k pumpFuel

/-- Every outbound flow of a partition starts again, and its calls are disarmed (R372). -/
def State.restartFlows (s : State) (p : Nat) : State :=
  let s : State := { s with net := { s.net with
    calls := s.net.calls.filter (fun e => e.1 / 32 ≠ p)
    collIn := s.net.collIn.filter (fun m => m.part ≠ p)
    waiting := s.net.waiting.filter (fun w => w.part ≠ p || w.type == 0x23) } }
  let s := s.setReg .prtVngCallen p 0 0
  (s.net.outs.filter (fun e => e.2.part == p)).foldl (fun s e => s.restartFlow e.1 e.2) s

/-! ### Partition reset (R343, R410) -/

/-- A request ends VOIDED at a reset; commands that wait on it are left to the reset (R321, R343). -/
def State.voidEnd (s : State) (q : Request) (cause : Option (Nat × Nat × Nat × Nat)) : State :=
  (s.modReq q.id (fun r => { r with
    pausers := [], resumers := [], void := if r.void.isSome then r.void else cause })).endRequest q.id .voided

/-- The host side of a partition at a reset: its submission rings are disabled and its lock is cleared; heads
and completion rings stay (R343). -/
def State.resetHost (s : State) (p : Nat) : State :=
  let s := (List.range 8).foldl (fun s r => (s.setFld .prtSqCfg p r 8 8 0).dropFetch p r) s
  s.setFld .prtLock p 0 0 0 0

/-- A partition reset of the group led by l, for an event or ordered (code 0); one that is under way goes on
(R410, R419). -/
def State.partitionReset (s : State) (l code cls part seq : Nat) : State :=
  if (s.up.resets.at? l).isSome then s else
  let g := s.group l
  let s : State := { s with
    up := { s.up with resets := s.up.resets.put l (code, cls, seq) }
    err := { s.err with aborts := s.err.aborts.filter (fun a => a.group ≠ l), progress := s.err.progress.del l }
    pwr := { s.pwr with
      hints := s.pwr.hints.filter (fun h => h.group ≠ l), ballast := s.pwr.ballast.del l
      heldGroups := s.pwr.heldGroups.filter (· ≠ l) } }
  let s := s.closeGates g 2
  let s := g.foldl (fun s p => [3 * p, 3 * p + 1, 3 * p + 2].foldl (fun s f => s.modField f (fun v => { v with ballast := 0 }))
    ((s.setFld .prtReset p 0 2 2 1).resetHost p)) s
  let s := s.stopWork l true
  let s := g.foldl (fun s p => s.restartFlows p) s
  let cause := if code = 0 then none else some (code, cls, part, seq)
  (s.srv.reqs.filter (fun q => q.group == l && q.endsBy true)).foldl (fun s q => s.voidEnd q cause) s

/-- DETAIL of the RESET_ABORT records of a reset (R423). -/
def resetDetail (cause : Nat × Nat × Nat) (p : Nat) : Nat :=
  if cause.1 = 0 then refusalDetail Status.resetAbort.val p else detailOf cause.1 cause.2.1 p cause.2.2

/-- An event of class PARTITION in a group: its record and the reset (R420). -/
def State.partitionEvent (s : State) (c : Code) (part h0 h1 w2 w3 : Nat) : State :=
  let seq := s.err.nextSeq
  (s.log c part h0 h1 w2 w3).partitionReset (s.lead part) c.val c.cls part seq

/-! ### Power lost by a domain (R190, R373, Table 14.1) -/

/-- What a compute strip loses: its cloves return zeroed, with regions unset and channels unbound; channels and
queue bindings of others to them end (R190, R237). -/
def State.loseStrip (s : State) (d : Nat) : State :=
  let lost (k : Nat) : Bool := s.stripOf (cloveX k) (cloveY k) == d
  let fresh (e : Nat × Clove) : Clove := { Clove.fresh (cloveX e.1) (cloveY e.1) with
    mismA := e.2.mismA, mismB := e.2.mismB, scrUe := e.2.scrUe, misTimes := e.2.misTimes, ueTimes := e.2.ueTimes, quar := e.2.quar }
  let unbind (c : Clove) : Clove := { c with channels := c.channels.filter (fun h => match h.2.target with
    | some t => !lost t
    | none => true) }
  { s with
    cloves := s.cloves.map (fun e => (e.1, if lost e.1 then fresh e else unbind e.2))
    parts := s.parts.map (fun e => (e.1, { e.2 with queues := e.2.queues.map (fun q =>
      (q.1, { q.2 with binds := q.2.binds.filter (fun b => !lost b.1) })) })) }

/-- What a field hub loses: its counters, its look-aside buffer and the barriers that it holds, those of its partition
in its second field (R236, Table 14.1). -/
def State.loseHub (s : State) (f : Nat) : State :=
  let s := ([.fldIntCnt0, .fldIntCnt1, .fldIntCnt2, .fldScrEcc, .fldDspStat, .fldKvwStat] : List Reg).foldl
    (fun s r => s.setReg r f 0 (r.resetVal f 0)) s
  let s := (List.range 16).foldl (fun s k => s.setReg .fldDspCnt f k 0) s
  let s := s.modField f (fun v => { v with tlb := [] })
  if f % 3 = 1 then s.modPart (f / 3) (fun q => { q with barriers := [] }) else s

/-- What a domain loses at power-off. -/
def State.loseDomain (s : State) (d : Nat) : State :=
  if d < 1152 then s.loseStrip d
  else if d < 1248 then s.loseHub (d - 1152)
  else if d < 1272 then (s.zeroStack (d - 1248)).setFld .memStkStat 0 (d - 1248) 8 8 0
  else if d < 1286 then s.setFld .vngPort 0 (d - 1272) 2 0 0
  else s

/-- STRIP_ON and the ON and BUSY bits of a strip as its domain stands (Tables 14.10, 14.11). -/
def State.showStrip (s : State) (d : Nat) : State :=
  let f := d / 12
  let i := d % 12
  let v := s.domain d
  let on := b2n (v.st == .on)
  let s := (s.setFld .fldPwrTemp f 0 (16 + i) (16 + i) on).setFld .prtPwrStat (f / 3) (f % 3) i i on
  s.setFld .prtPwrStat (f / 3) (f % 3) (12 + i) (12 + i) (b2n (v.st == .up || v.st == .down || v.wait))

/-- A domain set, with the registers that show it. -/
def State.putDomain (s : State) (d : Nat) (v : Domain) : State :=
  let s := s.setDomain d v
  if d < 1152 then s.showStrip d else s

/-- A domain goes OFF at once, and a held request is dropped (R374, R389). -/
def State.domainOff (s : State) (d : Nat) : State :=
  if (s.domain d).st = .off then s.putDomain d Domain.off else (s.putDomain d Domain.off).loseDomain d

/-- Safety-off conditions in records (log entry 24): 0 strip temperature, 1 stack temperature, 2 coolant flow,
3 rail at its reset level or over its current limit. During start-up steps 3 to 10 the domains stay OFF, and their
partitions out of service, until the next module reset (R419). -/
def State.safetyOff (s : State) (doms : List Nat) (cond : Nat) : State :=
  let s := doms.foldl (fun s d =>
    ({ s with pwr := { s.pwr with safety := s.pwr.safety.put d none } } : State).domainOff d) s
  let partOfDom (d : Nat) : Nat := if d < 1152 then d / 36 else if d < 1248 then (d - 1152) / 3 else 255
  let parts := (doms.map partOfDom).dedup
  let s := parts.foldl (fun s p =>
    let ds := doms.filter (fun d => partOfDom d == p)
    if p = 255 then s.log .safetyOff 255 (ds.headD 0) ds.length 0 cond
    else s.partitionEvent .safetyOff p (ds.headD 0) ds.length (s.reqidOf p) cond) s
  let step := s.fld .glbStart 0 0 3 0
  if 3 ≤ step ∧ step ≤ 10 then
    { s with up := { s.up with
      failed := (s.up.failed ++ doms).dedup, outParts := (s.up.outParts ++ parts.filter (· < 32)).dedup } }
  else s

/-- The condition of the safety off of some domains has cleared (R389). -/
def State.safetyClear (s : State) (doms : List Nat) : State :=
  { s with pwr := { s.pwr with safety := s.pwr.safety.map (fun e =>
    if doms.contains e.1 && e.2.isNone then (e.1, some s.up.time) else e) } }

/-- A domain may be requested on: it is under no safety off, or its condition cleared at least 1 s ago (R389). -/
def State.safetyAllows (s : State) (d : Nat) : Bool :=
  match s.pwr.safety.at? d with
  | none => true
  | some none => false
  | some (some t) => decide (t + 1000000000 ≤ s.up.time)

/-! ### Module reset and power loss (R408, R409, R421, R422) -/

/-- The times since which the attaches' links have been down once the attaches lose power: one that was up goes down now
(R327, R409, Table 12.2). -/
def State.linksDown (s : State) : SMap Nat :=
  [0, 1].map (fun a => (a, if s.fld .hifLink 0 a 2 0 = 0 then s.host.downSince.atD a 0 else s.up.time))

/-- Start-up begins at step 1; its one stage is done at once where the busbar is good and MOD_RESET_N is high
(R39, R402); the identity store names the service block that drives the rest (R413). Busbar good, once reached, counts
as present until power is lost, between 42.0 and 47.0 V too (DESIGN CHOICE, entry 95: Table 1.6 gives it a rising
threshold only). -/
def State.beginStartup (s : State) : State :=
  if s.pwr.good && s.up.resetHigh then
    let s : State := { s with
      up := { s.up with began := s.up.time }
      flash := { s.flash with startups := s.flash.startups + 1 } }
    (s.setFld .glbStart 0 0 3 0 2).setFld .glbStart 0 0 7 7 (b2n s.flash.blockARetired)
  else s

/-- A module reset: the gates close, the trailers go out, and every domain but the always-on ones is off. What the
flash, the always-on domains and the outside hold is kept (R408, R409, R430). -/
def State.moduleReset (s : State) (cause : Nat) : State :=
  let s := s.closeGates (List.range 32) 3
  let s := (s.srv.reqs.filter (fun q => q.classIdx.isSome && q.endsBy false)).foldl (fun s q => s.endStreams q Status.voided.val) s
  let smb := s.reg .mgtSmb 0 0
  let r := State.reset
  let t : State := { r with
    pending := s.pending, draws := s.draws, flash := s.flash
    host := { HostIf.fresh with out := s.host.out, asked := s.host.asked, nextTag := s.host.nextTag, downSince := s.linksDown }
    net := { Net.fresh with tx := s.net.tx }
    pwr := { Power.fresh with
      domains := s.pwr.domains.filter (fun e => decide (1290 ≤ e.1)), mv := s.pwr.mv, i1 := s.pwr.i1, i2 := s.pwr.i2, good := s.pwr.good, oneClamp := s.pwr.oneClamp, warn := s.pwr.warn
      inlet := s.pwr.inlet, outlet := s.pwr.outlet, flow := s.pwr.flow, flow40 := s.pwr.flow40, air := s.pwr.air
      rh := s.pwr.rh, margin := s.pwr.margin, dew := s.pwr.dew }
    err := { Err.fresh with
      nextSeq := s.err.nextSeq, plog := s.err.plog, plogAt := s.err.plogAt }
    up := { Startup.fresh with
      time := s.up.time, resetHigh := s.up.resetHigh, cause := some cause, recorded := s.up.recorded }
    mgmt := { Mgmt.fresh with
      out := s.mgmt.out, notified := s.mgmt.notified, uart := s.mgmt.uart, discarded := s.mgmt.discarded, arp := s.mgmt.arp } }
  let t := (t.setReg .mgtSmb 0 0 smb).setFld .pwrStat 0 0 11 11 (b2n s.pwr.warn)
  (t.closeGates (List.range 32) 3).recap.beginStartup

/-- A power loss: a module reset that also takes the always-on domains and the SMBus address (R408). -/
def State.powerLost (s : State) : State :=
  let r := State.reset
  let t : State := { r with
    pending := s.pending, draws := s.draws, flash := s.flash
    host := { HostIf.fresh with out := s.host.out, asked := s.host.asked, downSince := s.linksDown }
    net := { Net.fresh with tx := s.net.tx }
    pwr := { Power.fresh with domains := [] }
    err := { Err.fresh with nextSeq := s.err.nextSeq, plog := s.err.plog, plogAt := s.err.plogAt }
    up := { Startup.fresh with time := s.up.time, resetHigh := s.up.resetHigh, recorded := s.up.recorded }
    mgmt := { Mgmt.fresh with out := s.mgmt.out, notified := s.mgmt.notified, uart := s.mgmt.uart, arp := s.mgmt.arp } }
  t.closeGates (List.range 32) 3

end Sys2Proof.Machine
end

