-- ==== Sys2Proof/Machine/Host.lean ====
section
/-! DEFINITION. The host's other commands (R339, R341, R362, R392), doorbells, status pages (R342, R399, R436),
and changes of an attach (R322, R327). -/
namespace Sys2Proof.Machine

/-! ### WEIGHT_LOAD (R339) -/

/-- The words of a payload with the marks of those that arrived poisoned. -/
def Cmd.words (c : Cmd) (n : Nat) : List (W64 × Bool) :=
  ((List.range (n / 8)).zip (wordsOf c.payload (n / 8))).map (fun e => (e.2, c.poisoned.contains e.1))

/-- A range lies inside one enabled window of a partition. -/
def State.inWindow (s : State) (p a n : Nat) : Bool :=
  (s.windows p).any (fun w => decide (w.1 ≤ a) && decide (a + n ≤ w.1 + w.2))

/-- WEIGHT_LOAD (R339): whole code words of what came are stored, poisoned data marked. -/
def execWeightLoad (part ring : Nat) (s : State) : Outcome :=
  .next (match s.frontOf part ring 0x05 with
    | none => s
    | some c =>
      let a := leAt c.params 0 8
      if !s.inWindow part a c.payLen then s.answer part ring c .weightRange 0 0 else
      let n := Min.min c.payload.length c.payLen / 64 * 64
      let s := s.storeWords a (c.words n)
      s.answer part ring c (if c.paid then .ok else .payloadFetch) 0 n)

/-! ### PROGRAM_LOAD (R141, R341, Tables 12.9 to 12.11) -/

/-- A section entry (Table 12.10). -/
structure Section where
  kind : Nat
  part : Nat
  x0 : Nat
  y0 : Nat
  w : Nat
  h : Nat
  waddr : Nat
  len : Nat
  off : Nat
  deriving DecidableEq, Repr

/-- Entry i of a program set. -/
def sectionAt (b : List Byte) (i : Nat) : Section :=
  let e := b.drop (96 + 32 * i)
  ⟨leAt e 0 1, leAt e 1 1, leAt e 2 2, leAt e 4 2, leAt e 6 2, leAt e 8 2, leAt e 10 2, leAt e 12 4, leAt e 16 8⟩

/-- The sections of a program set. -/
def setSections (b : List Byte) : List Section := (List.range (leAt b 14 2)).map (sectionAt b)

/-- Bytes of a section's data. -/
def Section.bytes (e : Section) : Nat := if e.kind = 0 then 8 * e.len else e.len

/-- The data of a section. -/
def Section.data (e : Section) (b : List Byte) : List Byte := (b.drop e.off).take e.bytes

/-- The class lengths of a program set's header. -/
def setClasses (b : List Byte) : List Nat := (List.range (leAt b 9 1)).map (fun i => leAt b (32 + 4 * i) 4)

/-- The header of a program set obeys Table 12.9 and R210, with no class beyond MAX_SEQ (R2, R5). -/
def setHeaderOk (b : List Byte) (vocabLog maxSeq : Nat) : Bool :=
  let n := leAt b 9 1
  let cs := setClasses b
  leAt b 0 2 == 1 && decide (1 ≤ leAt b 4 4) && decide (leAt b 4 4 ≤ 2 ^ vocabLog) && decide (1 ≤ leAt b 8 1) &&
    decide (1 ≤ n) && decide (n ≤ 16) && decide (1 ≤ leAt b 14 2) && zeros b 16 16 && zeros b (32 + 4 * n) (64 - 4 * n) &&
    cs.all (fun c => decide (0 < c) && c % 256 == 0 && decide (c ≤ maxSeq)) && ascending cs

/-- A section obeys Table 12.10 and stays inside a group of m partitions and a payload of n bytes. -/
def Section.ok (e : Section) (b : List Byte) (i n m : Nat) : Bool :=
  decide (e.kind ≤ 2) && zeros b (96 + 32 * i + 24) 8 && decide (e.part < m) && decide (e.off + e.bytes ≤ n) &&
    (match e.kind with
     | 0 => decide (e.x0 + e.w ≤ 384) && decide (e.y0 + e.h ≤ 88) && decide (e.waddr < 4096) && decide (e.len ≤ 4096)
     | 1 => e.len % 48 == 0
     | _ => e.len % 24 == 0)

/-- A launch entry has no reserved bit set and stays inside a group of m partitions. -/
def launchOk (e : List Byte) (m : Nat) : Bool :=
  zeros e 15 1 && zeros e 18 6 && decide (lnPart e < m) &&
    (List.range (lnNnb e)).all (fun i => decide ((lnOrigin e i).1 < 384) && decide ((lnOrigin e i).2 < 88))

/-- A list cut into pieces of n bytes. -/
def pieces (n : Nat) (b : List Byte) : List (List Byte) := (List.range (b.length / Max.max n 1)).map (fun i => (b.drop (n * i)).take n)

/-- The data of the sections of a kind, in order. -/
def kindData (b : List Byte) (k n : Nat) : List (List Byte) :=
  ((setSections b).filter (fun e => e.kind == k)).flatMap (fun e => pieces n (e.data b))

/-- A model of a group is named by a request that has not ended. -/
def State.modelBusy (s : State) (l model : Nat) : Bool :=
  s.srv.reqs.any (fun q => q.group == l && (q.model == model || q.draft == some model))

/-- A model's set leaves a group. -/
def State.dropSet (s : State) (l model : Nat) : State :=
  { s with srv := { s.srv with sets := s.srv.sets.filter (fun v => !(v.group == l && v.model == model)) } }

/-- Service-area bytes that a set's sections take. -/
def setBytes (b : List Byte) : Nat := (((setSections b).filter (fun e => e.kind ≠ 0)).map (·.len)).sum

/-- A group has no room for one more set: its count of sets, or its service area (R341). -/
def State.noSpace (s : State) (l model bytes : Nat) : Bool :=
  let others := s.srv.sets.filter (fun v => v.group == l && v.model ≠ model)
  let area := s.fld .prtSrvAreahi l 0 31 16 * mib2
  let used := (others.map (·.bytes)).sum + (((s.srv.adapters.filter (fun a => a.group == l)).map (fun a => a.image.length)).sum)
  decide (2 ^ s.fld .glbCapSrv 0 0 31 28 ≤ others.length) || decide (area < used + bytes)

/-- A KIND 0 section written into the words of every clove of its rectangle (R341). -/
def State.writeSection (s : State) (l : Nat) (b : List Byte) (e : Section) : State :=
  let p := (s.group l).getD e.part l
  let ws := (wordsOf (e.data b) e.len).map (fun w => (w, false))
  (List.range e.h).foldl (fun s dy => (List.range e.w).foldl (fun s dx =>
    s.modClove (partClove p (e.x0 + dx) (e.y0 + dy)) (fun c => c.putWords e.waddr ws)) s) s

/-- The set that a whole payload loads, with the model's layout over modules (R289, R290; DESIGN CHOICE, entry 119). -/
def loadedSet (l : Nat) (b : List Byte) (split : Split) : ProgSet :=
  ⟨l, leAt b 2 2, leAt b 4 4, leAt b 8 1, leAt b 10 2, leAt b 12 2, setClasses b, kindData b 1 48, kindData b 2 24, setBytes b, true, split⟩

/-- PROGRAM_LOAD of a program set: PROGRAM_IMAGE, PROGRAM_BUSY, PROGRAM_SPACE, then the load, which unloads an old
set of its MODEL first (R341). -/
def State.loadSet (s : State) (p r : Nat) (c : Cmd) (split : Split) : State :=
  let l := s.lead p
  let m := (s.group l).length
  let b := c.payload
  let n := c.payLen
  let no (st : Status) : State := s.answer p r c st 0 0
  if b.length < Min.min n 96 then no .payloadFetch else
  if n < 96 then no .programImage else
  let k := leAt b 14 2
  if n < 96 + 32 * k then no .programImage else
  if b.length < 96 + 32 * k then no .payloadFetch else
  if !setHeaderOk b (s.fld .glbCapSrv2 0 0 4 0) s.maxSeq || !(List.range k).all (fun i => (sectionAt b i).ok b i n m) then no .programImage else
  if c.paid && !(kindData b 2 24).all (fun e => launchOk e m) then no .programImage else
  let model := leAt b 2 2
  if s.modelBusy l model then no .programBusy else
  if s.noSpace l model (setBytes b) then no .programSpace else
  let s := s.dropSet l model
  if !c.paid then s.answer p r c .payloadFetch 0 0 else
  let s := ((setSections b).filter (fun e => e.kind == 0)).foldl (fun s e => s.writeSection l b e) s
  ({ s with srv := { s.srv with sets := s.srv.sets ++ [loadedSet l b split] } } : State).answer p r c .ok 0 0

/-- How many MODE values a micro-program step has (Table 5.6). -/
def stepModes (op : Nat) : Nat :=
  match op with
  | 0 => 1
  | 1 => 6
  | 2 => 3
  | 3 => 7
  | 4 => 3
  | 5 => 5
  | 6 => 3
  | _ => 0

/-- A step word has no reserved bit or code, and fetches only entries 512 to 1,023 (R140, R141). -/
def stepOk (w : Nat) : Bool :=
  let op := bitField w 0 4
  let mode := bitField w 4 4
  let base := bitField w 17 10
  bitField w 27 5 == 0 && decide (mode < stepModes op) && ((op != 1 && op != 6) || decide (bitField w 11 3 < 4)) &&
    (op != 3 || (decide (512 ≤ base) && decide (base + 8 * 2 ^ mode ≤ 1024)))

/-- A function image that R141 does not refuse. -/
def imageOk (b : List Byte) : Bool :=
  let n := leAt b 8 1
  let step (i : Nat) : Nat := leAt b (16 + 4 * i) 4
  let tb := leAt b 2 2
  let tc := leAt b 4 2
  decide (144 ≤ b.length) && b.length == 144 + 8 * tc && decide (24 ≤ leAt b 0 1) && decide (leAt b 0 1 ≤ 63) && zeros b 1 1 &&
    zeros b 6 2 && zeros b 9 7 && decide (1 ≤ n) && decide (n ≤ 16) && decide (512 ≤ tb) && decide (tb ≤ 1023) &&
    decide (tb + tc ≤ 1024) && (List.range n).all (fun i => stepOk (step i) && ((bitField (step i) 0 4 == 0) == (i + 1 == n))) &&
    zeros b (16 + 4 * n) (64 - 4 * n)

/-- Some started pass, drain or SFU instruction of a partition names a function slot (R141). -/
def State.slotInUse (s : State) (p slot : Nat) : Bool :=
  s.cloves.any (fun e =>
    let fnOf (k epi : Nat) : Bool := match (s.clove k).epiOf epi with
      | some d => d.fn == 0x40 + slot
      | none => false
    partOf (cloveX e.1) (cloveY e.1) == p &&
      ([false, true].any (fun b => (e.2.arr b).work.any (fun u => (s.gangOf e.1 b).members.any (fun k => fnOf k u.exit.epi))) ||
       e.2.sfu.any (fun u => let o := SfuOp.ofWord u.op.word
         o.described && fnOf e.1 o.epi.toNat)))

/-- A function image put into a partition's store (R138, R139). -/
def State.putImage (s : State) (p : Nat) (b : List Byte) : State :=
  s.modPart p (fun q => { q with
    uslots := q.uslots.put (leAt b 0 1) ((b.drop 8).take 136)
    utab := SMap.setAll q.utab 0 (leAt b 2 2) (wordsOf (b.drop 144) (leAt b 4 2)) })

/-- PROGRAM_LOAD of a function image in every partition of the group, once earlier work that names the slot has
ended there (R141, R341). -/
def State.loadImage (s : State) (p r : Nat) (c : Cmd) : State :=
  let g := s.group (s.lead p)
  if !c.paid then s.answer p r c .payloadFetch 0 0 else
  if !imageOk c.payload then s.answer p r c .sfuImage 0 0 else
  if g.any (fun q => s.slotInUse q (leAt c.payload 0 1)) then s else
  (g.foldl (fun s q => s.putImage q c.payload) s).answer p r c .ok 0 0

/-- PROGRAM_LOAD (R341), with the layout that a program set's model has over modules (R289, R290). -/
def execProgramLoad (part : Nat) (ring : SetLoad) (s : State) : Outcome :=
  .next (match s.frontOf part ring.ring 0x06 with
    | none => s
    | some c =>
      match leAt c.params 0 1 with
      | 0 => s.loadSet part ring.ring c ring.split
      | 1 => s.loadImage part ring.ring c
      | _ =>
        let l := s.lead part
        let m := leAt c.params 2 2
        if s.modelBusy l m then s.answer part ring.ring c .programBusy 0 0
        else (s.dropSet l m).answer part ring.ring c .ok 0 0)

/-! ### HINT_HEAVY (R392) -/

/-- A hint joins its group's pending ones; a fifth replaces the one with the earliest start (R392). -/
def State.addHint (s : State) (h : Hint) : State :=
  let mine := s.pwr.hints.filter (fun x => x.group == h.group)
  let hs := if mine.length < 4 then s.pwr.hints else
    match mine.foldl (fun (b : Option Hint) x => match b with
      | none => some x
      | some y => if x.start < y.start then some x else b) none with
    | some y => s.pwr.hints.erase y
    | none => s.pwr.hints
  { s with pwr := { s.pwr with hints := hs ++ [h] } }

/-- HINT_HEAVY completes on acceptance (R392). -/
def execHintHeavy (part ring : Nat) (s : State) : Outcome :=
  .next (match s.frontOf part ring 0x0B with
    | none => s
    | some c =>
      let b := c.params
      (s.addHint ⟨s.lead part, s.up.time + 1000 * leAt b 0 4, leAt b 4 4, leAt b 8 4⟩).answer part ring c .ok 0 0)

/-! ### COLLECTIVE_BIND (R362) -/

/-- Node of a member entry. -/
def memberNode (w : W32) : Nat := regField w 23 0
/-- Partition of a member entry. -/
def memberPart (w : W32) : Nat := regField w 28 24

/-- The group area of a partition group: its base, where it is enabled (Table 13.8). -/
def State.groupArea (s : State) (l : Nat) : Option Nat :=
  if s.flag .prtVngGrplo l 0 0 then
    some (s.fld .prtVngGrplo l 0 31 27 * 2 ^ 27 + s.fld .prtVngGrphi l 0 15 0 * 2 ^ 32) else none

/-- The members that a COLLECTIVE_BIND payload lists, where R362 allows them. -/
def State.bindMembers (s : State) (l : Nat) (b pay : List Byte) : Option (List W32) :=
  let ms := (List.range (leAt b 4 4)).map (fun i => BitVec.ofNat 32 (leAt pay (4 * i) 4))
  let own := s.nodeId
  let ok := decide (leAt b 0 4 ≤ 255) && decide (leAt b 8 4 ≠ 0) && decide (ms.dedup.length = ms.length) &&
    ms.all (fun w => memberNode w ≠ 0 && memberNode w ≠ 0xFFFFFF && regField w 31 29 == 0 &&
      (!(s.owns && memberNode w == own) || s.lead (memberPart w) == l)) &&
    ms.any (fun w => s.owns && memberNode w == own)
  if ok then some ms else none

/-- Some armed call of a group has an operation on a collective group under way (R362, R364). -/
def State.gidInUse (s : State) (l gid : Nat) : Bool :=
  s.net.calls.any (fun e => s.lead (e.1 / 32) == l && leAt e.2.desc 4 4 == gid && (decide (0 < e.2.piece) || decide (0 < e.2.landed)))

/-- COLLECTIVE_BIND: the member list joins the group area; a GID that an operation uses holds it (R362). -/
def execCollectiveBind (part ring : Nat) (s : State) : Outcome :=
  .next (match s.frontOf part ring 0x0D with
    | none => s
    | some c =>
      if !c.paid then s.answer part ring c .payloadFetch 0 0 else
      let l := s.lead part
      match s.bindMembers l c.params c.payload with
      | none => s.answer part ring c .pktFormat 0 0
      | some ms =>
        let gid := leAt c.params 0 4
        if s.gidInUse l gid then s else
        let s : State := { s with srv := { s.srv with groups := s.srv.groups.put (l * 256 + gid) (leAt c.params 8 4, ms) } }
        let s := match s.groupArea l with
          | some a => s.storeBytes (a + gid * 524288) c.payload
          | none => s
        s.answer part ring c .ok 0 0)

/-! ### Doorbells (R330, R403) -/

/-- The attach that a master is. -/
def attachOf : Master → Option Bool
  | .attachA => some false
  | .attachB => some true
  | _ => none

/-- A doorbell write as it reaches the module: through an attach only, ignored and logged before Ready; an attach
whose link is down or that is in D3hot carries none (R322, R330, R403). -/
def State.doorbellWrite (s : State) (m : Master) (p r : Nat) (cq : Bool) (v : W32) : State :=
  match attachOf m with
  | none => s
  | some b =>
    if !s.attachOpen b || 32 ≤ p || 8 ≤ r then s
    else if !s.ready then s.hostAccess p (p * 0x8000 + r * 0x1000 + (if cq then 4 else 0))
    else if (s.up.newOwner.at? p).isSome && s.ownerOf p == b then
      { s with host := { s.host with heldOrders := s.host.heldOrders ++
        [⟨m, true, p * 0x8000 + r * 0x1000 + (if cq then 4 else 0), v⟩] } }
    else s.doorbell b p r cq v

/-- SQ_TAIL (R330). -/
def execSqTail (m : Master) (part ring : Nat) (value : W32) (s : State) : Outcome := .next (s.doorbellWrite m part ring false value)

/-- CQ_HEAD (R330). -/
def execCqHead (m : Master) (part ring : Nat) (value : W32) (s : State) : Outcome := .next (s.doorbellWrite m part ring true value)

/-! ### Status pages (R342, R399, R436, Tables 12.12, 14.8, 16.7) -/

/-- The bytes of a log record (Table 16.3). -/
def LogRec.bytes (r : LogRec) : List Byte :=
  leBytes 8 r.seq ++ leBytes 8 r.time ++ leBytes 2 r.code ++ leBytes 1 r.cls ++ leBytes 1 r.part ++ leBytes 2 r.h0 ++ leBytes 2 r.h1 ++
    leBytes 4 r.w2 ++ leBytes 4 r.w3

/-- The error summary over the records of some partitions, 255 among them for the module's own (Table 16.7). -/
def State.errorSummary (s : State) (ps : List Nat) (voided gate : Nat) : List Byte :=
  let count (i : Nat) : Nat := (ps.map (fun p => (s.err.counts.atD p []).getD i 0)).sum % 65536
  let rs := (s.err.recent.filter (fun r => ps.contains r.part)).take 5
  let head := match rs with
    | r :: _ => r.seq
    | [] => 0
  (List.range 4).flatMap (fun i => leBytes 2 (count i)) ++ leBytes 4 voided ++ leBytes 4 gate ++ leBytes 8 head ++ List.replicate 16 0 ++
    padTo 160 (rs.flatMap LogRec.bytes)

/-- The bytes of a throttle record (R399). -/
def ThrottleRec.bytes (r : ThrottleRec) : List Byte :=
  leBytes 8 r.start ++ leBytes 4 (r.dur.getD 0xFFFFFFFF) ++ leBytes 1 r.reason ++ leBytes 1 r.field ++ leBytes 1 r.depth ++
    leBytes 1 (b2n r.dur.isNone)

/-- The throttle records of a page, oldest first: module scope, and the page's fields (R398). -/
def State.pageThrottles (s : State) (fs : List Nat) : List ThrottleRec :=
  s.pwr.records.filter (fun r => r.field == 255 || fs.contains r.field)

/-- Record slots of a page: record n stands at slot n mod 32, the latest one in each (Table 14.8). -/
def recordSlots (rs : List ThrottleRec) : List Byte :=
  (List.range 32).flatMap (fun i =>
    match ((List.range rs.length).filter (fun n => n % 32 == i)).getLast? with
    | some n => (match rs[n]? with
      | some r => r.bytes
      | none => List.replicate 16 0)
    | none => List.replicate 16 0)

/-- The largest of some strip temperatures of some fields, in 1/16 degree C. -/
def State.hottest (s : State) (fs : List Nat) : Int :=
  ((fs.flatMap (fun f => (s.field f).temps.map (·.2))).max?).getD 0

/-- The power and throttle section (Table 14.8). -/
def State.powerSection (s : State) (fs : List Nat) (meas est energy : Nat) : List Byte :=
  let rs := s.pageThrottles fs
  let act := (List.range 7).foldl (fun a i => if rs.any (fun r => r.dur.isNone && r.reason == i + 1) then a + 2 ^ i else a) 0
  let rate := ((fs.map (fun f => s.fld .fldPwrAge f 0 19 8)).min?).getD 0
  leBytes 4 s.pwr.cap ++ leBytes 4 meas ++ leBytes 4 est ++ leBytes 1 (s.fld .pwrStat 0 0 3 0) ++ leBytes 1 act ++ leBytes 2 rate ++
    leBytes 2 (ofSigned 16 (s.hottest fs)) ++ leBytes 2 (ofSigned 16 s.pwr.inlet) ++ leBytes 4 rs.length ++ leBytes 8 energy ++
    List.replicate 224 0 ++ recordSlots rs

/-- A partition page, SEQ apart. -/
def State.partPage (s : State) (p meas energy : Nat) : List Byte :=
  let l := s.lead p
  let fs := [3 * p, 3 * p + 1, 3 * p + 2]
  let est := (fs.map (fun f => s.fld .fldPwrEst f 0 15 0)).sum
  let flags := b2n (s.flag .prtLock p 0 0) + 2 * b2n (s.flag .prtReset p 0 2) + 4 * b2n (s.flag .prtSrvCtrl p 0 0)
  leBytes 8 s.sinceReady ++ (List.range 8).flatMap (fun r => leBytes 2 (s.sqHead p r) ++ leBytes 2 (s.fld .prtCqTail p r 15 0)) ++
    leBytes 4 flags ++ leBytes 2 (s.fld .prtSrvStat p 0 12 0) ++ leBytes 2 (s.cmdsUsed p) ++
    s.errorSummary (s.group l) (s.err.voided.atD l 0) (b2n (s.gated p)) ++ s.powerSection fs meas est energy

/-- The global page, SEQ apart. -/
def State.globalPage (s : State) (meas energy : Nat) : List Byte :=
  leBytes 8 s.sinceReady ++ leBytes 1 (s.fld .glbStart 0 0 3 0) ++ leBytes 1 (s.fld .pwrStat 0 0 12 12) ++ leBytes 2 0 ++
    leBytes 4 (s.reg .glbCapParts 0 0).toNat ++ leBytes 4 (s.host.lost.atD 0 0) ++ leBytes 4 (s.host.lost.atD 1 0) ++ List.replicate 24 0 ++
    s.errorSummary (255 :: List.range 32) ((s.err.voided.map (·.2)).sum) (s.reg .errGate 0 0).toNat ++
    s.powerSection (List.range 96) meas (s.fld .pwrMeas 0 0 31 16) energy

/-- The address of a page: 0 to 31 partitions, 32 and 33 the global page of attach A and B; 0 means no page (R336,
Table 12.6). -/
def State.pageAddr (s : State) (page : Nat) : Nat :=
  if page < 32 then s.fld .prtStpgLo page 0 31 10 * 1024 + (s.reg .prtStpgHi page 0).toNat * 2 ^ 32
  else s.fld .hifGstpgLo 0 (page - 32) 31 10 * 1024 + (s.reg .hifGstpgHi 0 (page - 32)).toNat * 2 ^ 32

/-- The writes of a page of bytes at a host address whose SEQ was n: SEQ odd, the other bytes, SEQ even (R342). -/
def pageWrites (attach : Bool) (a n : Nat) (body : List Byte) : List HostWrite :=
  [.page attach a (leBytes 8 (n + 1)), .page attach (a + 8) body, .page attach a (leBytes 8 (n + 2))]

/-- A status page composed, which the management bus and the monitor read (R444, R447), and written where it has an
address (R342). A partition's page is held by its gate (R429). -/
def State.writePage (s : State) (page meas energy : Nat) : State :=
  let a := s.pageAddr page
  if 34 ≤ page || (page < 32 && s.gated page) then s else
  let was := s.host.pageSeq.atD page 0
  let n := was + (if a = 0 then 0 else 2)
  let body := if page < 32 then s.partPage page meas energy else s.globalPage meas energy
  let h := s.host
  let s : State := { s with host := { h with
    pageSeq := h.pageSeq.put page n
    gpage := if page < 32 then h.gpage else leBytes 8 n ++ body
    ppages := if page < 32 then h.ppages.put page (leBytes 8 n ++ body) else h.ppages } }
  if a = 0 then s else
  let attach := if page < 32 then s.ownerOf page else page == 33
  (pageWrites attach a was body).foldl (fun s w => s.hostWrite (Min.min page 32) w) s

/-- STATUS_PAGE_WRITE (R342). -/
def execStatusPageWrite (page measW energyMj : Nat) (s : State) : Outcome := .next (s.writePage page measW energyMj)

/-! ### Attaches (R322, R327, R344) -/

/-- What waited for an attach goes on: held writes, and reads of payloads (R322, R344). -/
def State.wakeAttach (s : State) (b : Bool) : State :=
  if !s.attachOpen b then s else
  let s := s.flushHeld
  (List.range 32).foldl (fun s p => if s.ownerOf p = b then (List.range 8).foldl (fun s r => s.nextPayRead p r) s else s) s

/-- ATTACH_LINK_CHANGE: a link trains, changes or goes down; HIF_LINK shows it (R322, R327, Table 12.2). -/
def execAttachLinkChange (b : Bool) (rate width : Nat) (flit : Bool) (s : State) : Outcome :=
  .next (
    let a := b2n b
    let was := s.fld .hifLink 0 a 2 0
    let s := (((s.setFld .hifLink 0 a 2 0 rate).setFld .hifLink 0 a 7 3 width).setFld .hifLink 0 a 8 8 (b2n flit)).setFld .hifLink 0 a 31 9 0
    let down := rate % 8 = 0
    let s : State := if down && was ≠ 0 then { s with host := { s.host with downSince := s.host.downSince.put a s.up.time } } else s
    if down then s else s.wakeAttach b)

/-- ATTACH_POWER_STATE: in D3hot an attach decodes no BAR and issues no request (R322). -/
def execAttachPowerState (b d3 : Bool) (s : State) : Outcome :=
  .next (({ s with host := { s.host with d3 :=
    if d3 then s.host.d3 ||| BitVec.twoPow 2 (b2n b) else s.host.d3 &&& ~~~(BitVec.twoPow 2 (b2n b)) } } : State).wakeAttach b)

end Sys2Proof.Machine
end

