-- ==== Sys2Proof/Machine/Collective.lean ====
section
/-! DEFINITION. Collectives (R362 to R368): the call table, the engine's arrivals at its barriers, pieces and ring
segments sent and placed, and pieces that are lost. -/
namespace Sys2Proof.Machine

/-! ### Call descriptors (Table 13.5) -/

/-- OP of a call: 0 SHIFT, 1 PERMUTE, 2 RING_SUM, 3 RING_GATHER. -/
def Call.kind (c : Call) : Nat := leAt c.desc 0 1
/-- FMT. -/
def Call.fmt (c : Call) : Nat := leAt c.desc 1 1
/-- PSTART. -/
def Call.pstart (c : Call) : Bool := leAt c.desc 2 1 % 2 == 1
/-- PDONE. -/
def Call.pdone (c : Call) : Bool := leAt c.desc 2 1 / 2 % 2 == 1
/-- GID. -/
def Call.gid (c : Call) : Nat := leAt c.desc 4 4
/-- D, signed. -/
def Call.dist (c : Call) : Int := signedOf 32 (leAt c.desc 8 4)
/-- NPIECE. -/
def Call.npiece (c : Call) : Nat := leAt c.desc 12 4
/-- SBUF. -/
def Call.sbuf (c : Call) : Nat := leAt c.desc 16 8
/-- RBUF. -/
def Call.rbuf (c : Call) : Nat := leAt c.desc 24 8
/-- PTAB. -/
def Call.ptab (c : Call) : Nat := leAt c.desc 32 8
/-- SBID. -/
def Call.sbid (c : Call) : Nat := leAt c.desc 40 1
/-- DBID. -/
def Call.dbid (c : Call) : Nat := leAt c.desc 41 1
/-- SCOUNT. -/
def Call.scount (c : Call) : Nat := leAt c.desc 42 2
/-- DCOUNT. -/
def Call.dcount (c : Call) : Nat := leAt c.desc 44 2

/-- A call as arming leaves it, before its engine arrives at the start barrier. -/
def Call.fresh (d : List Byte) : Call := ⟨d, 0, 0, 0, none, false, none, 0, 0, 0, false⟩

/-- A field of a descriptor breaks Table 13.5. -/
def badCall (d : List Byte) : Bool :=
  let c := Call.fresh d
  let ring := decide (2 ≤ c.kind)
  decide (4 ≤ c.kind) || (if c.kind = 2 then decide (3 ≤ c.fmt) else decide (c.fmt ≠ 0)) || decide (4 ≤ leAt d 2 1) ||
    !zeros d 3 1 || decide (256 ≤ c.gid) || (c.kind == 0 && c.dist == 0) || decide (c.npiece = 0) || decide (65535 < c.npiece) ||
    (ring && decide (c.npiece ≠ 1)) || decide (c.sbuf % 64 ≠ 0) || decide (c.rbuf % 64 ≠ 0) || decide (64 ≤ c.sbid) ||
    decide (64 ≤ c.dbid) || !zeros d 46 18

/-- The capacity and the members of a partition's collective group, if the GID is bound (R362). -/
def State.collGroup (s : State) (p gid : Nat) : Option (Nat × List W32) := s.srv.groups.at? (s.lead p * 256 + gid)

/-- Bytes of the send buffer that a call uses (R366, R367). -/
def Call.sendBytes (c : Call) (cap : Nat) : Nat := if c.kind < 2 then 8 + cap else cap
/-- Bytes of the receive buffer that a call uses. -/
def Call.recvBytes (c : Call) (cap n : Nat) : Nat := if c.kind < 2 then 64 + cap else if c.kind = 2 then cap else n * cap

/-- The bytes [a, a + n) lie inside a partition's enabled windows. -/
def State.inWindows (s : State) (p a n : Nat) : Bool := let ws := s.windows p; covered ws (a + n) (ws.length + 1) a

/-- Arming a call is refused (R363). The group area is the leader's, and lies in the leader's windows. -/
def State.refusesCall (s : State) (p a : Nat) (d : List Byte) : Bool :=
  let c := Call.fresh d
  !s.inWindows p a 64 || badCall d ||
    (match s.groupArea (s.lead p) with
     | some g => !s.inWindows (s.lead p) g (2 ^ 27)
     | none => true) ||
    (match s.collGroup p c.gid with
     | none => true
     | some (cap, ms) => !s.inWindows p c.sbuf (c.sendBytes cap) || !s.inWindows p c.rbuf (c.recvBytes cap ms.length) ||
         (c.kind == 1 && !s.inWindows p c.ptab (4 * ms.length)))

/-! ### The engine at its barriers (R236, R364) -/

/-- An engine arrives at a barrier of its partition as one clove, and learns the phase it waits for. -/
def State.engineArrive (s : State) (p b n : Nat) : Nat × State :=
  let v := s.barrier p b
  if v.bcount.isSome && v.bcount ≠ some n then
    (v.phase, s.event .barrierCount p 0xFFFF 0xFFFF (s.reqidOf p) (0xF * 2 ^ 28 + b))
  else if v.count + 1 ≥ n then (v.phase, (s.setBarrier p b ⟨0, none, v.phase + 1⟩).releaseWaiters p b v.phase)
  else (v.phase, s.setBarrier p b ⟨v.count + 1, some n, v.phase⟩)

/-- A call of a partition. -/
def State.call? (s : State) (k : Nat) : Option Call := s.net.calls.at? k
/-- The state with a call set. -/
def State.setCall (s : State) (k : Nat) (c : Call) : State := { s with net := { s.net with calls := s.net.calls.put k c } }

/-- The engine arrives at a call's start barrier, and waits for the phase (R364). -/
def State.arriveStart (s : State) (k : Nat) (c : Call) : State :=
  let r := s.engineArrive (k / 32) c.sbid c.scount
  r.2.setCall k { c with waitPhase := some r.1 }

/-- The engine arrives at a call's done barrier (R364). -/
def State.arriveDone (s : State) (k : Nat) (c : Call) : State := (s.engineArrive (k / 32) c.dbid c.dcount).2

/-- A call is armed with a descriptor (R363). -/
def State.armCall (s : State) (k : Nat) (d : List Byte) : State := s.arriveStart k (Call.fresh d)

/-- A call is disarmed: at once between operations, else once its current operation ends (R363). -/
def State.disarmCall (s : State) (k : Nat) : State :=
  match s.call? k with
  | none => s
  | some c =>
    if c.piece = 0 then { s with net := { s.net with calls := s.net.calls.del k } }
    else s.setCall k { c with disarm := true, rearm := none }

/-- The address of a partition's call table (Table 13.8). -/
def State.callTable (s : State) (p : Nat) : Nat := s.fld .prtVngCalllo p 0 31 12 * 4096 + s.fld .prtVngCallhi p 0 15 0 * 2 ^ 32

/-- Bit c of PRT_VNG_CALLEN is set: the call is armed, or the arming is refused (R363). -/
def State.setCallBit (s : State) (p c off : Nat) : State :=
  let a := s.callTable p + 64 * c
  let d := s.hbmBytes a 64
  if s.refusesCall p a d then s.log .collSetupRange p c 0 0 off else
  let s := s.setFld .prtVngCallen p 0 c c 1
  match s.call? (p * 32 + c) with
  | some v => s.setCall (p * 32 + c) { v with rearm := some d }
  | none => s.armCall (p * 32 + c) d

/-- A write of PRT_VNG_CALLEN: bits that change arm and disarm calls, in increasing order (R363). -/
def State.writeCallen (s : State) (p off : Nat) (v : W32) : State :=
  (List.range 32).foldl (fun s c =>
    let was := s.flag .prtVngCallen p 0 c
    if v.getLsbD c && !was then s.setCallBit p c off
    else if !v.getLsbD c && was then (s.setFld .prtVngCallen p 0 c c 0).disarmCall (p * 32 + c)
    else s) s

/-! ### Members and pieces (R364, R366, R367) -/

/-- The rank of this module's partition p in a group. -/
def State.rankOf (s : State) (p : Nat) (ms : List W32) : Option Nat :=
  if s.owns then (List.range ms.length).find? (fun i => memberNode (ms.getD i 0) == s.nodeId && memberPart (ms.getD i 0) == p)
  else none

/-- ⌈CAP / n⌉ rounded up to a multiple of 64: the size of a piece, or of a segment. -/
def shareBytes (cap n : Nat) : Nat := ceilDiv (ceilDiv cap (Max.max n 1)) 64 * 64

/-- Bytes of share k of cap bytes cut into n. -/
def shareLen (cap n k : Nat) : Nat := Min.min (shareBytes cap n) (cap - k * shareBytes cap n)

/-- The destination ranks of PERMUTE (R366). -/
def State.permTable (s : State) (c : Call) (n : Nat) : List Nat := (List.range n).map (fun i => s.hbmNat (c.ptab + 4 * i) 4)

/-- Every rank from 0 to n − 1 is in the table, which is then a permutation. -/
def isPerm (t : List Nat) : Bool := (List.range t.length).all (fun i => t.contains i)

/-- The rank that member r sends to; none where PTAB is no permutation (R366, R367). -/
def State.destRank (s : State) (c : Call) (n r : Nat) : Option Nat :=
  match c.kind with
  | 0 => some (((r : Int) + c.dist) % (n : Int)).toNat
  | 1 => let t := s.permTable c n
    if isPerm t then t[r]? else none
  | _ => some ((r + 1) % Max.max n 1)

/-- The rank that member r receives from. -/
def State.srcRank (s : State) (c : Call) (n r : Nat) : Option Nat :=
  match c.kind with
  | 0 => some (((r : Int) - c.dist) % (n : Int)).toNat
  | 1 => let t := s.permTable c n
    if isPerm t then (List.range n).find? (fun i => t.getD i 0 == r) else none
  | _ => some ((r + n - 1) % Max.max n 1)

/-- The messages that n bytes of a share of full bytes travel in: offset and length. The message that ends a
contribution is shorter than 8,160 bytes (log entry 33). -/
def collCuts (n full : Nat) : List (Nat × Nat) :=
  let k := n / 8160
  let r := n % 8160
  (List.range k).map (fun i => (8160 * i, 8160)) ++ (if r ≠ 0 || n < full || n = 0 then [(8160 * k, r)] else [])

/-- n bytes of HBM with the marks of their words; where one is marked, whole words are taken (R350). -/
def State.readPiece (s : State) (a n : Nat) : List Byte × List Bool :=
  let w := ceilDiv n 8
  let ms := (s.hbmWords a w).map (·.2)
  if ms.any (· == true) then (s.hbmBytes a (8 * w), ms) else (s.hbmBytes a n, [])

/-- Bytes put into HBM by the engine, with the marks of their words (R364, R368). -/
def State.putPiece (s : State) (a : Nat) (bs : List Byte) (ms : List Bool) : State :=
  let w := bs.length / 8
  let s := s.storeWords a (((List.range w).zip (wordsOf bs w)).map (fun e => (e.2, ms.getD e.1 false)))
  if bs.length % 8 = 0 then s else s.storeBytes (a + 8 * w) (bs.drop (8 * w))

/-- The 24-byte sub-header of a COLL body (R365). -/
def collHeader (gid rank op step off flags : Nat) : List Byte :=
  leBytes 4 gid ++ leBytes 4 rank ++ leBytes 4 op ++ leBytes 4 step ++ leBytes 4 off ++ leBytes 4 flags

/-- A message of partition p to a member: to a partition of this module over the express links, else as a COLL
frame (R365, R366). -/
def State.sendColl (s : State) (p : Nat) (dst : W32) (m : CollMsg) : State :=
  if memberNode dst = s.nodeId then
    { s with net := { s.net with collIn := s.net.collIn ++ [{ m with part := memberPart dst, src := (s.nodeId, p) }] } }
  else
    (s.sendMsg p (memberNode dst) (memberPart dst) 0x30 (collHeader m.gid m.rank m.op m.step m.off (b2n m.trunc) ++ m.bytes)
      (if m.marks.any (· == true) then [false, false, false] ++ m.marks else [])).2

/-! ### The end of an operation (R363, R364) -/

/-- An operation whose pieces have been sent and have landed ends: the engine arrives at the done barrier unless
it did so by piece, and the call goes on to its next operation, or is disarmed (R363, R364). -/
def State.endOp (s : State) (k total : Nat) : State :=
  match s.call? k with
  | none => s
  | some c =>
    if c.piece < c.npiece || c.landed < total then s else
    let s := if c.pdone then s else s.arriveDone k c
    if c.disarm || c.rearm.isSome then
      let t : State := { s with net := { s.net with calls := s.net.calls.del k } }
      match c.rearm with
      | some d => t.armCall k d
      | none => t
    else s.arriveStart k { Call.fresh c.desc with op := c.op + 1 }

/-- A piece or segment has landed (R364). -/
def State.landPiece (s : State) (k : Nat) : State :=
  match s.call? k with
  | none => s
  | some c =>
    let s := s.setCall k { c with landed := c.landed + 1, got := 0 }
    if c.pdone then s.arriveDone k c else s

/-! ### SHIFT and PERMUTE (R366) -/

/-- The receive header, and zeros from LEN to CAP (R366). -/
def State.endContribution (s : State) (k cap src : Nat) : State :=
  match s.call? k with
  | none => s
  | some c =>
    let s := s.storeBytes (c.rbuf + 64 + c.len) (List.replicate (cap - c.len) 0)
    s.storeBytes c.rbuf (leBytes 4 c.len ++ leBytes 4 src ++ leBytes 1 (b2n c.trunc) ++ List.replicate 55 0)

/-- A message of a piece is placed; the one that ends its piece makes it land (R364, R366). -/
def State.takePiece (s : State) (k cap : Nat) (c : Call) (m : CollMsg) : State :=
  let full := shareLen cap c.npiece c.landed
  let got := c.got + m.bytes.length
  let s := s.putPiece (c.rbuf + 64 + m.off) m.bytes m.marks
  let len := if m.bytes.isEmpty then c.len else Max.max c.len (m.off + m.bytes.length)
  let s := s.setCall k { c with got := got, len := len, trunc := c.trunc || m.trunc }
  if m.bytes.length = 8160 && got < full then s else
  let s := if c.landed + 1 = c.npiece then s.endContribution k cap m.rank else s
  let s := s.landPiece k
  s.endOp k c.npiece

/-- Piece k of this member's contribution is sent; a contribution over CAP is cut and counted in OVF (R366). -/
def State.sendPiece (s : State) (k cap r : Nat) (dst : W32) (c : Call) : State :=
  let len := s.hbmNat c.sbuf 4
  let trunc := decide (cap < len)
  let s := if trunc && c.piece = 0 then s.addFld .vngCollStat 0 0 15 0 1 else s
  let base := c.piece * shareBytes cap c.npiece
  let full := shareLen cap c.npiece c.piece
  let n := Min.min full (Min.min len cap - base)
  (collCuts n full).foldl (fun s e =>
    let d := s.readPiece (c.sbuf + 8 + base + e.1) e.2
    s.sendColl (k / 32) dst ⟨0, c.gid, r, c.op, c.piece, base + e.1, trunc, d.1, d.2, (0, 0)⟩) s

/-! ### RING_SUM and RING_GATHER (R367) -/

/-- One addition in a format, rounded once to nearest even (R367). -/
def collAdd (fmt a b : Nat) : Nat :=
  match fmt with
  | 0 => (convElem 9 (Val.add (b32Val a) (b32Val b)) none).bits
  | 1 => (convElem 7 (Val.add (b32Val (a * 65536)) (b32Val (b * 65536))) none).bits
  | _ => (w44Put (Val.add (w44Val (BitVec.ofNat 64 a)) (w44Val (BitVec.ofNat 64 b)))).toNat

/-- Bytes of an element of a format. -/
def collSize (fmt : Nat) : Nat := if fmt = 0 then 4 else if fmt = 1 then 2 else 8

/-- The sums of two runs of elements. -/
def collSum (fmt : Nat) (a b : List Byte) : List Byte :=
  let z := collSize fmt
  (List.range (a.length / z)).flatMap (fun i => leBytes z (collAdd fmt (leAt a (z * i) z) (leAt b (z * i) z))) ++
    a.drop (a.length / z * z)

/-- Marks of two runs of words joined: a sum with a marked term is marked (R367). -/
def joinMarks (a b : List Bool) : List Bool :=
  (List.range (Max.max a.length b.length)).map (fun i => a.getD i false || b.getD i false)

/-- Segment bytes that travel at a step: the segment of a vector, or a whole contribution. -/
def Call.segLen (c : Call) (cap n j : Nat) : Nat := if c.kind = 3 then cap else shareLen cap n j

/-- Where a ring message is placed once it is final: the segment's place, or the place of the member whose
contribution it is (R367). -/
def Call.ringPlace (c : Call) (cap n r step off : Nat) : Nat :=
  if c.kind = 3 then c.rbuf + (r + n - 1 - step % n) % n * cap + off else c.rbuf + off

/-- A message of a ring step arrives: in the first round of RING_SUM the member adds its own copy; what is final is
placed; every step but the last passes it on (R367). -/
def State.takeRing (s : State) (k cap n r : Nat) (dst : W32) (c : Call) (m : CollMsg) : State :=
  let sum := c.kind = 2 ∧ m.step + 1 < n
  let own := s.readPiece (c.sbuf + m.off) m.bytes.length
  let bytes := if sum then collSum c.fmt m.bytes own.1 else m.bytes
  let marks := if sum then joinMarks m.marks own.2 else m.marks
  let final := c.kind = 3 ∨ n ≤ m.step + 2
  let last := if c.kind = 3 then n - 2 else 2 * n - 3
  let s := if final then s.putPiece (c.ringPlace cap n r m.step m.off) bytes marks else s
  let s := if m.step < last then
    s.sendColl (k / 32) dst { m with rank := r, step := m.step + 1, bytes := bytes, marks := marks } else s
  let j := m.off / Max.max (shareBytes cap n) 1
  let got := c.got + m.bytes.length
  if !m.bytes.isEmpty && got < c.segLen cap n j then s.setCall k { c with got := got } else
  let s := s.setCall k { c with got := 0, step := m.step + 1 }
  let s := if final then s.landPiece k else s
  s.endOp k n

/-- The first step of a ring: a member's own copy of its first segment, or its whole contribution, which also
takes its place in its own receive buffer (R367). -/
def State.startRing (s : State) (k cap n r : Nat) (dst : W32) (c : Call) : State :=
  let whole := c.kind = 3
  let j := (r + n - 1) % Max.max n 1
  let base := if whole then 0 else j * shareBytes cap n
  let len := c.segLen cap n j
  let own := whole ∨ n = 1
  let d := s.readPiece (c.sbuf + base) len
  let s := if own then (s.putPiece (c.rbuf + (if whole then r * cap else base)) d.1 d.2).landPiece k else s
  if n = 1 then s else
  (collCuts len len).foldl (fun s e =>
    let d := s.readPiece (c.sbuf + base + e.1) e.2
    s.sendColl (k / 32) dst ⟨0, c.gid, r, c.op, 0, base + e.1, false, d.1, d.2, (0, 0)⟩) s

/-! ### Messages placed in order (R365) -/

/-- The call that messages of a group act on in a partition: the armed one with that GID, the least where there
are several (log entry 33). -/
def State.callFor (s : State) (p gid : Nat) : Option (Nat × Call) :=
  s.net.calls.find? (fun e => e.1 / 32 == p && e.2.gid == gid)

/-- A message waits: its call is not armed, or the operation it names has not begun here (R364, R365). -/
def State.collWaits (s : State) (m : CollMsg) : Bool :=
  (s.collGroup m.part m.gid).isSome &&
    (match s.callFor m.part m.gid with
     | none => true
     | some (_, c) => decide (c.op < m.op) || (c.op == m.op && c.piece == 0))

/-- A message of the piece or step that its operation waits for is placed; one of an operation that is over, or of a
piece given up, is dropped. -/
def State.takeColl (s : State) (m : CollMsg) : State :=
  match s.callFor m.part m.gid, s.collGroup m.part m.gid with
  | some (k, c), some (cap, ms) =>
    (match s.rankOf m.part ms with
     | none => s
     | some r =>
       if m.op ≠ c.op || m.step ≠ (if c.kind < 2 then c.landed else c.step) || s.srcRank c ms.length r ≠ some m.rank then s
       else if c.kind < 2 then s.takePiece k cap c m
       else s.takeRing k cap ms.length r (ms.getD ((r + 1) % Max.max ms.length 1) 0) c m)
  | _, _ => s

/-- Messages that need wait no longer are placed, oldest first. -/
def State.placeColl (s : State) : Nat → State
  | 0 => s
  | n + 1 =>
    match s.net.collIn.find? (fun m => !s.collWaits m) with
    | none => s
    | some m => (({ s with net := { s.net with collIn := s.net.collIn.erase m } } : State).takeColl m).placeColl n

/-- Messages that one command may place. -/
def placeFuel : Nat := 1048576

/-- A COLL message from its body (R365). -/
def collMsg (part : Nat) (f : Frame) : CollMsg :=
  let b := f.body
  ⟨part, leAt b 0 4, leAt b 4 4, leAt b 8 4, leAt b 12 4, leAt b 16 4, leAt b 20 4 % 2 == 1, b.drop 24, f.marks.drop 3, (f.snode, f.spart)⟩

/-- A COLL message is delivered: one that names a group its partition does not hold is discarded and counted
(R354, R365). -/
def State.deliverColl (s : State) (f : Frame) : State :=
  let m := collMsg f.dpart f
  if f.body.length < 24 || (s.collGroup m.part m.gid).isNone then s.discard f.port else
  ({ s with net := { s.net with collIn := s.net.collIn ++ [m] } } : State).placeColl placeFuel

/-! ### Commands (R364, R368) -/

/-- COLL_FAIL for a call: GID, operation, REQID and rank (R368, Table 16.4). -/
def State.logCollFail (s : State) (k rank : Nat) (c : Call) : State :=
  s.event .collFail (k / 32) c.gid c.op (s.reqidOf (k / 32)) rank

/-- An operation whose PTAB is no permutation fails here: the receive buffer is left marked, and the engine arrives
as if every piece had landed (R366, R368). -/
def State.failOp (s : State) (k cap r : Nat) (c : Call) : State :=
  let s := s.logCollFail k r c
  let d := s.drawMarked ((64 + cap) / 8)
  let s := d.2.storeWords c.rbuf d.1
  let s := (List.range c.npiece).foldl (fun s _ => s.landPiece k) (s.setCall k { c with piece := c.npiece })
  s.endOp k c.npiece

/-- The engine's next send, once the start barrier's phase has ended (R364). -/
def State.collSend (s : State) (k : Nat) : State :=
  match s.call? k with
  | none => s
  | some c =>
    let p := k / 32
    match s.collGroup p c.gid with
    | none => s
    | some (cap, ms) =>
      let n := ms.length
      match s.rankOf p ms with
      | none => s
      | some r =>
        if c.npiece ≤ c.piece || c.waitPhase == some (s.barrier p c.sbid).phase then s else
        match s.destRank c n r with
        | none => s.failOp k cap r c
        | some d =>
          let dst := ms.getD d 0
          let c' : Call := { c with piece := c.piece + 1, waitPhase := none }
          let s := if c.pstart && c.piece + 1 < c.npiece then s.arriveStart k c' else s.setCall k c'
          let s := if c.kind < 2 then s.sendPiece k cap r dst c else s.startRing k cap n r dst c
          s.endOp k (if c.kind < 2 then c.npiece else n)

/-- COLL_PIECE_SEND (R364); its reads of HBM may meet an error (R248). -/
def execCollPieceSend (part : Nat) (call : HbmReader) (s : State) : Outcome :=
  .next ((((s.hbmFind call.found).collSend (part * 32 + call.id)).placeColl placeFuel).settle)

/-- n marked words of no known value, as bytes. -/
def markedBytes (ws : List (W64 × Bool)) : List Byte := ws.flatMap (fun w => leBytes 8 w.1.toNat)

/-- The next piece or segment that a call waits for is lost: it is written marked, and counts as landed (R368). -/
def State.losePiece (s : State) (k rank : Nat) : State :=
  match s.call? k with
  | none => s
  | some c =>
    match s.collGroup (k / 32) c.gid with
    | none => s
    | some (cap, ms) =>
      let n := ms.length
      match s.rankOf (k / 32) ms with
      | none => s
      | some r =>
        let total := if c.kind < 2 then c.npiece else n
        if c.piece = 0 || total ≤ c.landed || s.srcRank c n r ≠ some rank then s else
        let s := s.logCollFail k rank c
        if c.kind < 2 then
          let base := c.landed * shareBytes cap c.npiece
          let full := shareLen cap c.npiece c.landed
          let d := s.drawMarked (ceilDiv full 8)
          let s := d.2.storeWords (c.rbuf + 64 + base) d.1
          let s := s.setCall k { c with len := Max.max c.len (base + full) }
          let s := if c.landed + 1 = c.npiece then s.endContribution k cap rank else s
          (s.landPiece k).endOp k c.npiece
        else
          let j := (r + 2 * n - 2 - c.step) % Max.max n 1
          let base := if c.kind = 3 then 0 else j * shareBytes cap n
          let dst := ms.getD ((r + 1) % Max.max n 1) 0
          (collCuts (c.segLen cap n j - c.got) (c.segLen cap n j - c.got)).foldl (fun s e =>
            match s.call? k with
            | none => s
            | some v =>
              let d := s.drawMarked (ceilDiv e.2 8)
              d.2.takeRing k cap n r dst v ⟨k / 32, c.gid, rank, c.op, c.step, base + c.got + e.1, false, (markedBytes d.1).take e.2,
                List.replicate (ceilDiv e.2 8) true, (0, 0)⟩) s

/-- COLL_FAIL (R368). -/
def execCollFail (part call rank : Nat) (s : State) : Outcome :=
  .next (((s.losePiece (part * 32 + call) rank).placeColl placeFuel).settle)

end Sys2Proof.Machine
end

