-- ==== Sys2Proof/Machine/Vyngo.lean ====
section
/-! DEFINITION. The Vyngo network (R345 to R372): node IDs, ports and lanes, received frames, timers of flows, lost
flows, and mirrored pairs. -/
namespace Sys2Proof.Machine

/-! ### Node IDs (R351 to R353) -/

/-- VNG_MIRROR.PRIMARY follows the pair's binding and the module's node ID: the lower ID is primary (R369). -/
def State.rankMirror (s : State) : State :=
  s.setFld .vngMirror 0 0 25 25 (b2n (s.mirrored && s.owns && decide (s.nodeId < s.fld .vngMirror 0 0 23 0)))

/-- VNG_NODESTAT set. -/
def State.setNode (s : State) (st id : Nat) : State :=
  ((s.setFld .vngNodestat 0 0 26 24 st).setFld .vngNodestat 0 0 23 0 id).rankMirror

/-- STATE of VNG_NODESTAT: 0 NONE, 1 CLAIMING, 2 BACKOFF, 3 OWNED, 4 LOST. -/
def State.claimState (s : State) : Nat := s.fld .vngNodestat 0 0 26 24

/-- An ID that a module may own (R351). -/
def nodeIdOk (id : Nat) : Bool := id ≠ 0 && decide (id < 0xFFFFFF)

/-- Step 1 of a claim: the first CLAIM goes out on every port that is up; with none up the claim waits (R352). -/
def State.claimStep (s : State) : State :=
  let s := s.setNode 1 0xFFFFFF
  if s.portsUp.isEmpty then { s with net := { s.net with claimSends := 0 } }
  else ({ s with net := { s.net with claimSends := 1 } } : State).broadcast 0x01 s.net.claimId

/-- A claim of VNG_NODE.WANT: any ID owned is given up first; with no ID wanted nothing is claimed (R351). -/
def State.startClaim (s : State) : State :=
  let want := s.fld .vngNode 0 0 23 0
  let s : State := { s with net := { s.net with claimId := want, claimSends := 0, collided := [] } }
  if nodeIdOk want then s.claimStep else s.setNode 0 0xFFFFFF

/-- A claim, or an ID, is LOST to another UID (R352, R353). The record holds the ID in bytes 20 to 22 and the low
64 bits of the winning UID in bytes 24 to 31 (log entry 34). -/
def State.nodeLost (s : State) (id : Nat) (uid : BitVec 128) : State :=
  (s.setNode 4 0xFFFFFF).log .nodeConflict 255 (id % 65536) (id / 65536) uid.toNat (uid.toNat / 2 ^ 32)

/-! ### Lost flows (R355, R360, R261) -/

/-- A request's stream was sent on a flow. -/
def Request.usesFlow (q : Request) (f : OutFlow) : Bool :=
  q.group == f.part && f.dpart == 0 && q.members.any (fun m => m.streams.any (fun e =>
    e.node == f.dnode && (decide (0 < e.sent) || e.trailer.isSome)))

/-- Tags of the tier requests on a flow, by the settings under which they were sent (R259, R361). -/
def State.tierTags (s : State) (f : OutFlow) : List Nat :=
  (s.net.tiers.filter (fun e => e.2.part == f.part && f.dpart == 0 && e.2.kind == 3 && e.2.node == f.dnode)).map (·.1)

/-- A request that is not RUNNING, PAUSING or EXPORTING and whose stream's flow is lost ends VOIDED at once (R360). -/
def State.voidIdle (s : State) (q : Request) (cause : Nat × Nat × Nat × Nat) : State :=
  if q.st == .queued || q.st == .paused then
    (s.modReq q.id (fun r => if r.void.isSome then r else { r with void := some cause })).endRequest q.id .voided
  else s.modReq q.id (fun r => if r.void.isSome then r else { r with void := some cause })

/-- An outbound flow is lost: FLOW_LOST names it (in the fields of entry 124, DESIGN CHOICE), its messages fail, and what
sent them ends as the spec states (R355, R360, R361). -/
def State.loseFlow (s : State) (k : Nat) : State :=
  match s.outFlow k with
  | none => s
  | some f =>
    let part := if f.part = mirrorPart then 255 else f.part
    let seq := s.err.nextSeq
    let s := s.event .flowLost part f.dpart f.gen (if f.part = mirrorPart then 0 else s.reqidOf f.part) f.dnode
    let tags := s.tierTags f
    let users := s.srv.reqs.filter (fun q => q.usesFlow f)
    let s : State := { s with net := { s.net with outs := s.net.outs.del k } }
    let s := tags.foldl (fun s t => s.tierAnswer t none 5) s
    let s := users.foldl (fun s q => s.voidIdle q (Code.flowLost.val, 2, part, seq)) s
    s.pumpAll

/-- An owner that meets a DEFEND for its ID from a lower UID loses the ID, and its flows end as lost (R352). -/
def State.loseId (s : State) (uid : BitVec 128) : State :=
  let id := s.nodeId
  let s := s.nodeLost id uid
  let s := (s.net.outs.map (·.1)).foldl (fun s k => s.loseFlow k) s
  { s with net := { s.net with ins := [] } }

/-- FLOW_LOST: a flow's oldest unacknowledged message has seen no progress for 1 s (R355). -/
def execFlowLost (flow : Nat) (s : State) : Outcome :=
  .next (match s.outFlow flow with
    | some f => if f.unacked.isEmpty then s else (s.loseFlow flow).settle
    | none => s)

/-! ### Claims and defends (R352) -/

/-- CLAIM: an owner answers with DEFEND; for a claim under way it is a collision, which backs off once for each UID
and then goes to the lower UID (R352, R372). -/
def execClaim (id : Nat) (uid : BitVec 128) (port : Nat) (s : State) : Outcome :=
  .next (
    let _ := port
    if s.owns && s.nodeId == id then s.broadcast 0x02 id
    else if s.claimState = 1 && s.net.claimId == id && uid ≠ Config.uid then
      if s.net.collided.contains uid then
        if Config.uid.toNat < uid.toNat then s else s.nodeLost id uid
      else ({ s with net := { s.net with collided := s.net.collided ++ [uid], claimSends := 0 } } : State).setNode 2 0xFFFFFF
    else s)

/-- DEFEND: it ends a claim of the ID as LOST; of two owners of one ID, the lower UID keeps it (R352). -/
def execDefend (id : Nat) (uid : BitVec 128) (port : Nat) (s : State) : Outcome :=
  .next (
    let _ := port
    if uid = Config.uid then s
    else if (s.claimState = 1 || s.claimState = 2) && s.net.claimId == id then s.nodeLost id uid
    else if s.owns && s.nodeId == id && decide (uid.toNat < Config.uid.toNat) then (s.loseId uid).settle
    else s)

/-- A write of VNG_NODE: WANT is set, and CLAIM starts a claim of it (R351). -/
def State.writeNode (s : State) (v : W32) : State :=
  let s := s.setFld .vngNode 0 0 23 0 (regField v 23 0)
  if v.getLsbD 24 then s.startClaim else s

/-- CLAIM_RESEND: the second and the third send, 10 ms apart (R352). -/
def execClaimResend (s : State) : Outcome :=
  .next (if s.claimState = 1 && decide (0 < s.net.claimSends) && decide (s.net.claimSends < 3) then
    ({ s with net := { s.net with claimSends := s.net.claimSends + 1 } } : State).broadcast 0x01 s.net.claimId
  else s)

/-- CLAIM_LISTEN_END: the module owns the ID, sends DEFEND on every port, and its flows may send (R352). -/
def execClaimListenEnd (s : State) : Outcome :=
  .next (if s.claimState = 1 && s.net.claimSends = 3 then
    (((s.setNode 3 s.net.claimId).broadcast 0x02 s.net.claimId).pumpAll).settleAcks
  else s)

/-- CLAIM_BACKOFF_END: the claim starts again (R352). -/
def execClaimBackoffEnd (s : State) : Outcome := .next (if s.claimState = 2 then s.claimStep else s)

/-- DEFEND_PERIODIC: every 10 s the owner defends on every port that is up (R352). -/
def execDefendPeriodic (s : State) : Outcome := .next (if s.owns then s.broadcast 0x02 s.nodeId else s)

/-! ### Ports and lanes (R346) -/

/-- A port is up in a state: a waiting claim starts, an owner defends on it, and flows send (R352, R357). -/
def State.portUp (s : State) (n st : Nat) : State :=
  let s := s.setFld .vngPort 0 n 2 0 st
  if s.claimState = 1 && s.net.claimSends = 0 then s.claimStep
  else if s.owns then ((s.transmit (s.claimFrame 0x02 s.nodeId n)).pumpAll).settleAcks
  else s

/-- PORT_LINK_CHANGE: a port whose domain is ON comes up, on its spare lane where one is in use, or a port goes down
(R346, R352, R373). -/
def execPortLinkChange (port : Nat) (up : Bool) (s : State) : Outcome :=
  .next (if !up then s.setFld .vngPort 0 port 2 0 0
    else if (s.domain (1272 + port)).st ≠ .on then s
    else if 2 ≤ s.fld .vngPort 0 port 2 0 then s
    else s.portUp port (if (s.net.spareLane.at? port).isSome then 3 else 2))

/-- Lanes of a port that are pending, a bit each. -/
def State.lanesPending (s : State) (n : Nat) : BitVec 16 := BitVec.ofNat 16 (s.net.pendLanes.atD n 0)

/-- The state with a port's pending lanes set; PEND shows whether there is one. -/
def State.setPending (s : State) (n : Nat) (v : BitVec 16) : State :=
  ({ s with net := { s.net with pendLanes := s.net.pendLanes.set n 0 v.toNat } } : State).setFld .vngPort 0 n 3 3 (b2n (v != 0))

/-- LANE_FAILING: the lane is marked pending (R346). -/
def execLaneFailing (port lane : Nat) (s : State) : Outcome :=
  .next (s.setPending port (s.lanesPending port ||| BitVec.twoPow 16 lane))

/-- RETRAIN_WINDOW: where training succeeds, the spare lane takes the place of a pending lane, or a lane that the
spare replaced and that has been repaired rejoins (R346). Lanes replaced stand in the repair map (R405). -/
def execRetrainWindow (port lane : Nat) (ok : Bool) (s : State) : Outcome :=
  .next (
    let pend := s.lanesPending port
    if pend = 0 || !ok || (s.domain (1272 + port)).st ≠ .on then s
    else if s.net.spareLane.at? port == some lane then
      ({ s with
        net := { s.net with spareLane := s.net.spareLane.del port }
        up := { s.up with mapDirty := true } } : State).portUp port 2
    else if pend.getLsbD lane && (s.net.spareLane.at? port).isNone then
      (({ s with
        net := { s.net with spareLane := s.net.spareLane.put port lane }
        up := { s.up with mapDirty := true } } : State).setPending port (pend &&& ~~~(BitVec.twoPow 16 lane))).portUp port 3
    else s)

/-- RESERVED_FRAME: discarded, and counted at its port (R345, R349). -/
def execReservedFrame (port : Nat) (s : State) : Outcome := .next (s.discard port)

/-! ### Flows: acknowledgements, credits and timers (R354 to R357) -/

/-- ACK: what has arrived is freed, missing messages are sent again, and credits are taken; a frame of no flow is
discarded (R355, R356). -/
def execAck (f : Frame) (s : State) : Outcome :=
  .next (match s.reverseKey f with
    | some k => ((s.ackFlow k f.apsn f.credit f.body).settleAcks).settle
    | none => s.discard f.port)

/-- CREDIT (R356). -/
def execCredit (f : Frame) (s : State) : Outcome :=
  .next (match s.reverseKey f with
    | some k => ((s.ackFlow k f.apsn f.credit []).settleAcks).settle
    | none => s.discard f.port)

/-- Credits that an inbound flow may have outstanding: 2,048 where it feeds a collective whose call has PDONE set,
else 256, less the messages that are not yet placed (R356). -/
def State.inLimit (s : State) (g : InFlow) : Nat :=
  let feeds (e : Nat × Call) : Bool := e.1 / 32 == g.dpart && e.2.pdone &&
    (match s.collGroup g.dpart e.2.gid with
     | some (_, ms) => ms.any (fun w => memberNode w == g.snode && memberPart w == g.spart)
     | none => false)
  let held := (s.net.collIn.filter (fun m => m.part == g.dpart && m.src == (g.snode, g.spart))).length
  (if s.net.calls.any feeds then 2048 else 256) - held

/-- An inbound flow is acknowledged, with its grant. -/
def State.ackIn (s : State) (k : Nat) : State :=
  match s.net.ins.at? k with
  | some g => s.sendAck k (s.inLimit g)
  | none => s

/-- ACK_TIMER (R355). -/
def execAckTimer (flow : Nat) (s : State) : Outcome :=
  .next (match s.net.ins.at? flow with
    | some g => if g.ackDue then s.ackIn flow else s
    | none => s)

/-- RESEND_TIMER: the message is sent again (R355). -/
def execResendTimer (flow psn : Nat) (s : State) : Outcome := .next (s.resend flow psn)

/-- FLOW_CLOSE: an idle flow closes, and messages that waited for the quota may open theirs; outbound flows are named
by their number, inbound ones by 8,192 and theirs (R354). -/
def execFlowClose (flow : Nat) (s : State) : Outcome :=
  .next (if flow < 8192 then
      match s.outFlow flow with
      | some f =>
        if f.unacked.isEmpty && f.queue.isEmpty then
          ({ s with net := { s.net with outs := s.net.outs.del flow } } : State).pumpAll else s
      | none => s
    else
      match s.net.ins.at? (flow - 8192) with
      | some g => if g.window.isEmpty && !g.ackDue then { s with net := { s.net with ins := s.net.ins.del (flow - 8192) } } else s
      | none => s)

/-! ### Data frames (R350, R354, R355) -/

/-- A data frame that this module may take: it owns an ID, the frame names a partition, and its body's length and
marks are allowed (R348, R350, R351). -/
def State.takesFrame (s : State) (f : Frame) : Bool :=
  s.owns && decide (f.dpart < 32) && decide (f.spart < 32) && decide (f.body.length ≤ 8192) &&
    (!f.marks.any (· == true) || f.body.length % 8 == 0)

/-- A data frame: its acknowledgement of the reverse flow, its place in its own flow, and what is now in order
delivered; ACKNOW asks for an acknowledgement at once (R354 to R357). -/
def State.dataFrame (s : State) (type : Nat) (f : Frame) (deliver : State → Frame → State) : State :=
  if !s.takesFrame f then s.discard f.port else
  let rev := s.outKey? (if type = 0x50 then mirrorPart else f.dpart) f.snode f.spart
  let s := match rev with
    | some k => s.ackFlow k f.apsn f.credit []
    | none => s
  let r := s.receive type f
  let s := r.1.foldl (fun s e => deliver s e.2) r.2
  let s := if f.acknow then
    (match s.inKey? type f with
     | some k => s.ackIn k
     | none => s) else s
  s.settleAcks.settle

/-- COLL (R365). -/
def execColl (f : Frame) (s : State) : Outcome := .next (s.dataFrame 0x30 f (fun s g => s.deliverColl g))

/-- The words that TIER_RDATA brings, from byte 8 on, with their marks (R350, R361). -/
def tierWords (f : Frame) (n : Nat) : List (W64 × Bool) :=
  ((List.range n).zip (wordsOf (f.body.drop 8) n)).map (fun e => (e.2, f.marks.getD (e.1 + 1) false))

/-- An appliance's answer, by TAG; one for a request that the partition does not hold is discarded (R354, R361). -/
def State.deliverTier (s : State) (store : Bool) (f : Frame) : State :=
  let tag := leAt f.body 0 4
  match s.net.tiers.at? tag with
  | none => s.discard f.port
  | some t =>
    if t.part ≠ f.dpart || t.store ≠ store || f.body.length < 6 then s.discard f.port else
    if leAt f.body 4 2 ≠ 0 || (!store && decide (f.body.length < 8 + t.len)) then s.tierAnswer tag none 0
    else s.tierAnswer tag (some (if store then [] else tierWords f (t.len / 8))) 0

/-- TIER_RDATA (R361). -/
def execTierRdata (f : Frame) (s : State) : Outcome := .next (s.dataFrame 0x41 f (fun s g => s.deliverTier false g))

/-- TIER_WACK (R361). -/
def execTierWack (f : Frame) (s : State) : Outcome := .next (s.dataFrame 0x43 f (fun s g => s.deliverTier true g))

/-! ### Mirrored pairs (R369, R372) -/

/-- A partner's check: compared with this module's own, or held until that is made (R369, R372). -/
def State.deliverCheck (s : State) (f : Frame) : State :=
  let b := f.body
  if !s.mirrored || f.snode ≠ s.fld .vngMirror 0 0 23 0 || b.length < 24 then s.discard f.port else
  let count := leAt b 0 4
  let key := checkKey (leAt b 6 1) (leAt b 7 1) (leAt b 4 1) (leAt b 5 1 % 2) (leAt b 8 4)
  let value := leAt b 16 8
  match s.net.checksOut.find? (fun c => c.1 == count && c.2.1 == key) with
  | some c => ({ s with net := { s.net with checksOut := s.net.checksOut.erase c } } : State).compareCheck count key c.2.2.1 value
  | none => { s with net := { s.net with checksIn := s.net.checksIn ++ [(count, key, value, s.up.time)] } }

/-- MIRROR_CHECK (R369). -/
def execMirrorCheck (f : Frame) (s : State) : Outcome := .next (s.dataFrame 0x50 f (fun s g => s.deliverCheck g))

/-- A mirrored request ends VOIDED: at once where it is QUEUED or PAUSED, else through an abort (R369). -/
def State.voidMirrored (s : State) (q : Request) : State :=
  let cause := (Status.voided.val, 0, q.group, 0)
  let t := s.voidIdle q cause
  if q.st == .queued || q.st == .paused then t else t.queueAbort q.group Status.voided.val 2 0 false

/-- MIRROR_TIMEOUT: the partner has sent no check for 100 ms: every mirrored request ends VOIDED, and LOST is set
(R369). -/
def execMirrorTimeout (s : State) : Outcome :=
  .next (if !s.mirrored || s.net.checksOut.isEmpty then s else
    let s := s.setFld .vngMirror 0 0 26 26 1
    let s : State := { s with net := { s.net with checksOut := [], checksIn := [] } }
    (s.srv.reqs.filter (fun q => decide (0 < q.mirrorNo))).foldl (fun s q => s.voidMirrored q) s)

/-- A write of VNG_MIRROR: PARTNER and EN are set, the lower node ID is primary, and a new binding counts
admissions from its start; writing 1 to LOST clears it (R369, Table 13.7). -/
def State.writeMirror (s : State) (v : W32) : State :=
  let was := s.mirrored
  let partner := s.fld .vngMirror 0 0 23 0
  let s := (s.setFld .vngMirror 0 0 23 0 (regField v 23 0)).setFld .vngMirror 0 0 24 24 (regField v 24 24)
  let s := if v.getLsbD 26 then s.setFld .vngMirror 0 0 26 26 0 else s
  let s := s.rankMirror
  if v.getLsbD 24 && (!was || partner ≠ regField v 23 0) then
    { s with
      net := { s.net with mirrorCount := 0, checksIn := [], checksOut := [] }
      srv := { s.srv with reqs := s.srv.reqs.map (fun q => { q with mirrorNo := 0 }) } }
  else s

/-! ### Setup registers (R371) -/

/-- A write of PRT_VNG_FLOWQ: refused where the flow quotas of the module would exceed 4,096 (R371). -/
def State.writeFlowq (s : State) (p off : Nat) (v : W32) : State :=
  let sum := ((List.range 32).map (fun q => if q = p then regField v 12 0 else s.fld .prtVngFlowq q 0 12 0)).sum
  if 4096 < sum then s.hostAccess p off else
  ((s.setFld .prtVngFlowq p 0 12 0 (regField v 12 0)).setFld .prtVngFlowq p 0 23 16 (regField v 23 16)).pumpAll

/-- A write of PRT_VNG_GRPLO: EN is refused where the 128 MiB group area lies outside one enabled window (R371). -/
def State.writeGrplo (s : State) (p off : Nat) (v : W32) : State :=
  let a := regField v 31 27 * 2 ^ 27 + s.fld .prtVngGrphi p 0 15 0 * 2 ^ 32
  if v.getLsbD 0 && !s.flag .prtVngGrplo p 0 0 && !s.inWindow p a (2 ^ 27) then s.log .collSetupRange p 0 0 0 off else
  (s.setFld .prtVngGrplo p 0 0 0 (regField v 0 0)).setFld .prtVngGrplo p 0 31 27 (regField v 31 27)

end Sys2Proof.Machine
end

