-- ==== Sys2Proof/Machine/Power.lean ====
section
/-! DEFINITION. The power manager (R373 to R401): the effective cap, budgets and ramps, field agents, domain
transitions, leases, hints, and throttle events. -/
namespace Sys2Proof.Machine

/-! ### Throttle events (R397 to R399) -/

/-- An open event of a reason and scope (255 module). -/
def State.openRec (s : State) (reason scope : Nat) : Option ThrottleRec :=
  s.pwr.records.find? (fun r => r.dur.isNone && r.reason == reason && r.field == scope)

/-- ACTIVE of PWR_STAT: reasons with an open module-scope event (Table 14.9). -/
def State.showActive (s : State) : State :=
  s.setFld .pwrStat 0 0 10 4 ((List.range 7).foldl (fun a i => if (s.openRec (i + 1) 255).isSome then a + 2 ^ i else a) 0)

/-- A reason starts to hold: its event opens, unless one is open (R398). BROWNOUT_WARN events are counted (Table
14.9). -/
def State.openEvent (s : State) (reason scope : Nat) : State :=
  if (s.openRec reason scope).isSome then s else
  let r : ThrottleRec := ⟨s.pwr.evtCount, s.sinceReady, none, reason, scope, 0⟩
  let s : State := { s with pwr := { s.pwr with records := s.pwr.records ++ [r], evtCount := (s.pwr.evtCount + 1) % 2 ^ 32 } }
  let s := if reason = 4 then s.addFld .pwrBwarn 0 0 15 0 1 else s
  s.showActive

/-- An event closes and rewrites its record (R398, R399). -/
def State.closeEvent (s : State) (reason scope depth : Nat) : State :=
  match s.openRec reason scope with
  | none => s
  | some r =>
    let us := (s.sinceReady - r.start) / 1000
    let s : State := { s with pwr := { s.pwr with records := s.pwr.records.map (fun q =>
      if q = r then { q with dur := some (us % 2 ^ 32), depth := depth % 256 } else q) } }
    let s := if reason = 4 then
      s.setFld .pwrBwarn 0 0 31 16 (Min.min 65535 (Max.max us (s.fld .pwrBwarn 0 0 31 16))) else s
    s.showActive

/-! ### Hints (R393, R394) -/

/-- The forecast F of a hint: what is drawn now, less the group, plus the phase (R393). -/
def State.forecast (s : State) (h : Hint) : Nat :=
  let mine := ((s.groupFields h.group).map (fun f => s.fld .fldPwrEst f 0 15 0)).sum
  s.fld .pwrMeas 0 0 31 16 - mine + h.energyJ * 1000000 / Max.max h.durUs 1

/-- The heavy phase of a hint fits, and the dew-point margin does not defer it (R388, R393, R394). -/
def State.hintFits (s : State) (h : Hint) : Bool := decide (s.forecast h ≤ s.pwr.cap) && !s.pwr.dew

/-- HINT_CHECK: a phase that fits pre-ramps with ballast; from START on, one that does not holds the group's launches
(R393, R394). -/
def execHintCheck (group hint : Nat) (s : State) : Outcome :=
  .next (match (s.pwr.hints.filter (fun h => h.group == group))[hint]? with
    | none => s
    | some h =>
      if !s.flag .pwrHint 0 0 16 then s
      else if s.hintFits h then s.setBallast group (s.forecast h - s.fld .pwrMeas 0 0 31 16)
      else if s.up.time < h.start || s.pwr.heldGroups.contains group then s
      else ({ s with pwr := { s.pwr with heldGroups := s.pwr.heldGroups ++ [group] } } : State).openEvent (if s.pwr.dew then 2 else 6) 255)

/-- Hints of a group whose START has come. -/
def State.dropDue (s : State) (l : Nat) : State :=
  { s with pwr := { s.pwr with hints := s.pwr.hints.filter (fun h => !(h.group == l && decide (h.start ≤ s.up.time))) } }

/-- HINT_BALLAST_TIMEOUT: no launch has come, and the ballast ramps down (R393). -/
def execHintBallastTimeout (group : Nat) (s : State) : Outcome :=
  .next (if (s.pwr.ballast.at? group).isSome then (s.setBallast group 0).dropDue group else s)

/-- HINT_DEFER_EXPIRY: held launches proceed (R394). -/
def execHintDeferExpiry (group : Nat) (s : State) : Outcome :=
  .next (if s.pwr.heldGroups.contains group then
    ({ s with pwr := { s.pwr with heldGroups := s.pwr.heldGroups.filter (· ≠ group) } } : State).dropDue group
  else s)

/-- Groups held until their forecast fits are let go (R394). -/
def State.releaseHints (s : State) : State :=
  let waits (l : Nat) : Bool := s.pwr.hints.any (fun h => h.group == l && decide (h.start ≤ s.up.time) && !s.hintFits h)
  { s with pwr := { s.pwr with heldGroups := s.pwr.heldGroups.filter waits } }

/-! ### The module power manager (R377, R382, R387, R391) -/

/-- The power granted after one 100 µs period: a falling limit and falling work at the module slope, the clamp limit
at once, a rise at the slope and not during a busbar warning (R379, R382, R391). -/
def State.grant (s : State) (asked : Nat) : Nat :=
  let slope := s.fld .pwrCaps 0 0 23 8
  let target := Min.min s.pwr.cap asked
  if target ≤ s.pwr.now then Max.max target (s.pwr.now - slope)
  else if s.pwr.warn then s.pwr.now else Min.min target (s.pwr.now + slope)

/-- The most that a field's rail carries: 50 A for each phase in service (R376). -/
def State.railWatts (s : State) (f : Nat) : Nat := 50 * s.fld .fldPwrRail f 0 23 20 * s.fld .fldPwrRail f 0 9 0 / 1000

/-- Every field's budget: its share of what is granted, held to its rail limit while phases are short (R376, R377). -/
def State.budgets (s : State) : State :=
  let n := s.draws
  (List.range 96).foldl (fun s f =>
    let w := Config.fieldBudget f s.pwr.now n
    let w := if s.fld .fldPwrRail f 0 23 20 < 14 then Min.min w (s.railWatts f) else w
    s.modField f (fun v => { v with budget := w })) { s with draws := n + 1 }

/-- BUDGET_UPDATE: busbar voltage, the power the work asks for and the measured input power; where the effective cap
binds, its reason opens an event (R377, R379, R382, R387, R397). -/
def execBudgetUpdate (mv est meas : Nat) (s : State) : Outcome :=
  .next (
    let s := (s.setBusbar mv).recap
    let asked := Max.max est meas
    let eff := s.effective
    let lim := if eff.1 < asked then eff.2 else 0
    let now := s.grant asked
    let paced := decide (now < Min.min s.pwr.cap asked)
    let s : State := { s with pwr := { s.pwr with
      now := now, ramp := paced, clampLimit := s.pwr.clampLimit && s.clampLimit == some eff.1 && decide (lim ≠ 0) } }
    let s := (s.setFld .pwrStat 0 0 3 0 lim).setReg .pwrMeas 0 0 (BitVec.ofNat 32 (Min.min meas 65535 + Min.min now 65535 * 65536))
    let s := if lim ≠ 0 then s.openEvent lim 255 else s
    let s := if paced && !s.pwr.warn then s.openEvent 3 255 else s
    s.budgets.releaseHints)

/-! ### Field power agents (R382, R384 to R387) -/

/-- The rail target for a setpoint, in steps of 5 mV within 0.56 to 0.78 V (R384). -/
def railTarget (f trim rate : Nat) : Nat := Min.min 780 (Max.max 560 (ceilDiv (Config.railFor f trim rate) 5 * 5))

/-- A field's setpoint, with the rail target that goes with it; the rail slews from the target before (R384, R386,
R390). -/
def State.setRate (s : State) (f rate : Nat) : State :=
  let old := s.fld .fldPwrRail f 0 19 10
  let new := railTarget f (s.fld .fldPwrAge f 0 7 0) rate
  let s := (s.setFld .fldPwrAge f 0 19 8 rate).setFld .fldPwrRail f 0 19 10 new
  if new = old then s else s.modField f (fun v => { v with slewFrom := old })

/-- The lowest setpoint: the rate of 0.56 V (R387). -/
def State.floorRate (s : State) (f : Nat) : Nat := Config.rateAt f (s.fld .fldPwrAge f 0 7 0) 560

/-- A free value below n (log entry 4). -/
def State.drawBelow (s : State) (n : Nat) : Nat × State := ((Config.freeValue s.draws).toNat % Max.max n 1, { s with draws := s.draws + 1 })

/-- The setpoint is lowered, by an amount the agent chooses, not below the rate of 0.56 V (R387). -/
def State.lowerRate (s : State) (f : Nat) : State :=
  let r := s.fld .fldPwrAge f 0 19 8
  let lo := s.floorRate f
  if r ≤ lo then s else
  let d := s.drawBelow (r - lo)
  d.2.setRate f (lo + d.1)

/-- Strips of a field that some armed counter admits. -/
def State.admittedIn (s : State) (f : Nat) : List Nat :=
  (List.range 12).filter (fun i => (s.part (f / 3)).counters.any (fun e => s.armed (f / 3) e.1 && e.2.admitted.contains (f * 12 + i)))

/-- The hottest of some strips of a field. -/
def State.hottestOf (s : State) (f : Nat) (is : List Nat) : Option Nat :=
  is.foldl (fun b i => match b with
    | none => some i
    | some j => if (s.field f).temps.atD j 0 < (s.field f).temps.atD i 0 then some i else some j) none

/-- Dispatch is withheld from the hottest admitted strip that has it (R387). -/
def State.withhold (s : State) (f : Nat) : State :=
  match s.hottestOf f ((s.admittedIn f).filter (fun i => !(s.field f).withheld.contains i)) with
  | some i => s.modField f (fun v => { v with withheld := v.withheld ++ [i] })
  | none => s

/-- The setpoint is raised toward what is asked, by an amount the agent chooses, as far as 0.78 V reaches; where that
holds it down, AGEING_MARGIN holds (R384, R385). -/
def State.raiseRate (s : State) (f asked : Nat) : State :=
  let r := s.fld .fldPwrAge f 0 19 8
  let hi := Config.rateAt f (s.fld .fldPwrAge f 0 7 0) 780
  let top := Min.min asked hi
  let s := s.modField f (fun v => { v with aged := decide (hi < asked) })
  let s := if hi < asked then s.openEvent 7 f else s
  if top ≤ r then s else
  let d := s.drawBelow (top - r)
  d.2.setRate f (r + 1 + d.1)

/-- The field's estimate after one step of its agent: it moves by at most a tenth of FIELD_SLOPE in 1 µs, and does not
rise during a brown-out (R382, R390, R391). -/
def State.rampEst (s : State) (f est : Nat) : Nat :=
  let was := s.fld .fldPwrEst f 0 15 0
  let d := s.fld .pwrCaps 0 0 7 0 / 10
  if est ≤ was then Max.max est (was - d)
  else if (s.field f).brown || s.pwr.warn then was else Min.min est (was + d)

/-- The scale of a field's dynamic coefficients, in 1/65,536: the mean of its samples, 1 before the first (R378). -/
def Field.scale (v : Field) : Nat := if v.coeff.isEmpty then 65536 else v.coeff.sum / v.coeff.length

/-- The estimate of a field: modelled leakage, and its dynamic power under the calibrated coefficients (R378). -/
def State.modelled (s : State) (p : FieldPower) : Nat := p.leak + p.dyn * (s.field p.field).scale / 65536

/-- POWER_AGENT_TICK: the field's estimate within its ramp limit, ballast carrying a fall; over its budget the setpoint
is lowered, then dispatch withheld; under it the reverse (R382, R387). -/
def execPowerAgentTick (p : FieldPower) (asked : Nat) (s : State) : Outcome :=
  .next (
    let f := p.field
    let want := s.modelled p
    let est := s.rampEst f want
    let paced := decide (est < want)
    let s := s.modField f (fun v => { v with paced := paced, ballast := est - want })
    let s := if paced && !(s.field f).brown && !s.pwr.warn then s.openEvent 3 f else s
    let s := s.setReg .fldPwrEst f 0 (BitVec.ofNat 32 (Min.min est 65535 + Min.min p.meas 65535 * 65536))
    let rate := s.fld .fldPwrAge f 0 19 8
    let v := s.field f
    if v.budget < Max.max est p.meas then
      if s.floorRate f < rate then s.lowerRate f else s.withhold f
    else if !v.withheld.isEmpty then s.modField f (fun v => { v with withheld := v.withheld.dropLast })
    else if asked < rate then (s.modField f (fun v => { v with aged := false })).setRate f asked
    else if v.brown || s.pwr.warn || !v.hot.isEmpty then s
    else if asked = rate then s.modField f (fun v => { v with aged := false })
    else s.raiseRate f asked)

/-- CALIBRATION: one more sample of the ratio of measured dynamic power to its estimate, of which 64 are kept (R378).
A step without estimated dynamic power gives no sample. -/
def execCalibration (field meas leak dyn : Nat) (s : State) : Outcome :=
  .next (if dyn = 0 then s else
    s.modField field (fun v => { v with coeff := ((meas - leak) * 65536 / dyn :: v.coeff).take 64 }))

/-- RAIL_TARGET_REACHED (R386). -/
def execRailTargetReached (field : Nat) (s : State) : Outcome :=
  .next (
    let t := s.fld .fldPwrRail field 0 19 10
    (s.setFld .fldPwrRail field 0 9 0 t).modField field (fun v => { v with slewFrom := t }))

/-- AGEING_SWEEP: the trim, up to 60 mV; a setpoint that would need more than 0.78 V is lowered to what 0.78 V reaches
(R385). -/
def execAgeingSweep (field trim : Nat) (s : State) : Outcome :=
  .next (
    let was := s.fld .fldPwrAge field 0 7 0
    let t := Min.min trim 60
    let s := s.setFld .fldPwrAge field 0 7 0 t
    let s := if t = 60 && was < 60 then s.log .ageingLimit 255 field t 0 0 else s
    let rate := s.fld .fldPwrAge field 0 19 8
    if 780 < Config.railFor field t rate then
      ((s.modField field (fun v => { v with aged := true })).openEvent 7 field).setRate field (Min.min rate (Config.rateAt field t 780))
    else s.setRate field rate)

/-! ### Domains (R373 to R375) -/

/-- A domain begins UP: start-up has not left it out of service, it is not under a safety off, and its field has no
brown-out (R389, R390, R402, R419). -/
def State.mayStart (s : State) (d : Nat) : Bool :=
  !s.up.failed.contains d && s.safetyAllows d && !(decide (d < 1152) && (s.field (d / 12)).brown)

/-- UP begins; a port's link trains (R373). -/
def State.beginUp (s : State) (d : Nat) : State :=
  let s : State := { s with pwr := { s.pwr with safety := s.pwr.safety.del d } }
  let s := s.putDomain d ⟨.up, none, false⟩
  if 1272 ≤ d ∧ d < 1286 then s.setFld .vngPort 0 (d - 1272) 2 0 1 else s

/-- A request to switch a domain on (R374, R389, R390). One that the safety off does not allow has no effect; a
brown-out holds it. -/
def State.requestOn (s : State) (d : Nat) : State :=
  let v := s.domain d
  match v.st with
  | .on => if v.wait then s.putDomain d { v with wait := false } else s
  | .off => if s.mayStart d then s.beginUp d
    else if s.safetyAllows d && !s.up.failed.contains d then s.putDomain d { v with held := some true } else s
  | _ => s.putDomain d { v with held := some true }

/-- A request to switch a domain off; a strip that is ON waits for its conditions (R374, R375). -/
def State.requestOff (s : State) (d : Nat) : State :=
  let v := s.domain d
  match v.st with
  | .on => if d < 1152 then s.putDomain d { v with wait := true } else s.putDomain d ⟨.down, none, false⟩
  | .off => s.putDomain d { v with held := none }
  | _ => s.putDomain d { v with held := some false }

/-- A write of PRT_PWR_STRIPc: bits of REQ that change request strips on or off; a bit written 1 while its strip is
off under a safety off requests it again (R375, R389). -/
def State.writeStripReq (s : State) (p c : Nat) (v : W32) : State :=
  let old := s.reg .prtPwrStrip p c
  let s := s.setFld .prtPwrStrip p c 11 0 (regField v 11 0)
  (List.range 12).foldl (fun s i =>
    let d := (3 * p + c) * 12 + i
    let again := v.getLsbD i && (s.pwr.safety.at? d).isSome
    if v.getLsbD i && (!old.getLsbD i || again) then s.requestOn d
    else if !v.getLsbD i && old.getLsbD i then s.requestOff d
    else s) s

/-- A clove of a strip has an array instruction in flight (R60): one of its own, or a pass or drain of a gang it
belongs to. -/
def State.arraysBusy (s : State) (d : Nat) : Bool :=
  s.cloves.any (fun e => [false, true].any (fun b => !(e.2.arr b).work.isEmpty &&
    (s.gangOf e.1 b).members.any (fun m => s.stripOf (cloveX m) (cloveY m) == d)))

/-- Remote accesses and queue deliveries into a strip have completed (R190, R237). -/
def State.stripQuiet (s : State) (d : Nat) : Bool :=
  let here (k : Nat) : Bool := s.stripOf (cloveX k) (cloveY k) == d
  !s.msgs.any (fun m => match m with
    | .write _ dst _ _ _ => here dst
    | .readReq _ dst _ _ _ => here dst
    | .readData _ dst _ _ => here dst
    | .slot _ dst _ _ _ => here dst
    | .ackMsg _ dst _ => here dst
    | .grant _ dst _ _ _ _ => here dst
    | .creditRet _ dst _ => here dst
    | .unbind _ dst _ _ => here dst
    | _ => false) &&
  !(s.inflight ++ s.memStacks.flatMap (fun e => e.2.reqs)).any (fun r => (s.reqCloves r).any here)

/-- STRIP_DOWN_START: an off request's conditions are met (R375). -/
def execStripDownStart (field strip : Nat) (s : State) : Outcome :=
  .next (
    let d := field * 12 + strip
    let v := s.domain d
    if v.st == .on && v.wait && !(s.admittedIn field).contains strip && !s.arraysBusy d && s.stripQuiet d then
      s.putDomain d ⟨.down, none, false⟩ else s)

/-- DOMAIN_UP_DONE: the domain is ON; a strip returns zeroed, a stack trained, a port with its link up; a held off
request then applies (R190, R373, R374). -/
def execDomainUpDone (dom : DomainUp) (s : State) : Outcome :=
  .next (
    let v := s.domain dom.dom
    if v.st ≠ .up then s else
    let s := s.putDomain dom.dom ⟨.on, none, false⟩
    let s := if dom.dom < 1152 then s.loseStrip dom.dom
      else if 1248 ≤ dom.dom ∧ dom.dom < 1272 then (s.renewMap (dom.dom - 1248) dom.trained.fail dom.trained.wires).setFld .memStkStat 0 (dom.dom - 1248) 8 8 1
      else if 1272 ≤ dom.dom ∧ dom.dom < 1286 then s.portUp (dom.dom - 1272) (if (s.net.spareLane.at? (dom.dom - 1272)).isSome then 3 else 2)
      else s
    if v.held == some false then s.requestOff dom.dom else s)

/-- DOMAIN_DOWN_DONE: the domain is OFF and loses its state; a held on request then applies (R373, R374). -/
def execDomainDownDone (dom : Nat) (s : State) : Outcome :=
  .next (
    let v := s.domain dom
    if v.st ≠ .down then s else
    let s := (s.putDomain dom Domain.off).loseDomain dom
    if v.held == some true then s.requestOn dom else s)

/-! ### Allotments (R380) -/

/-- An allotment in W with a lease in s replaces the previous one; 0 W means no rack limit (R380). -/
def State.setAllot (s : State) (allot lease : Nat) : State :=
  let s := s.setReg .pwrAllot 0 0 (BitVec.ofNat 32 (allot % 65536 + lease * 10 % 65536 * 65536))
  ({ s with pwr := { s.pwr with leased := true, floorOn := false, leaseEnd := s.up.time + lease * 1000000000 } } : State).recap

/-- LEASE_EXPIRY: the limit becomes FLOOR (R380). -/
def execLeaseExpiry (s : State) : Outcome :=
  .next (if !s.pwr.leased then s else
    (({ s with pwr := { s.pwr with leased := false, floorOn := true } } : State).setFld .pwrAllot 0 0 31 16 0).recap)

/-! ### The end of throttle events (R397, R398) -/

/-- A reason holds for a scope (Table 14.7). -/
def State.reasonHolds (s : State) (reason scope : Nat) : Bool :=
  let lim := s.fld .pwrStat 0 0 3 0
  if scope = 255 then
    match reason with
    | 1 => lim == 1 || s.pwr.clampLimit
    | 2 => lim == 2 || s.memStacks.any (fun e => e.2.throttled) || (s.pwr.dew && !s.pwr.heldGroups.isEmpty)
    | 3 => s.pwr.ramp
    | 4 => s.pwr.warn
    | 5 => lim == 5
    | 6 => !s.pwr.dew && !s.pwr.heldGroups.isEmpty
    | _ => false
  else
    match reason with
    | 1 => decide (s.fld .fldPwrRail scope 0 23 20 < 14)
    | 2 => !(s.field scope).hot.isEmpty
    | 3 => (s.field scope).paced
    | 4 => (s.field scope).brown
    | 7 => (s.field scope).aged
    | _ => false

/-- THROTTLE_EVENT_CLOSE (R398). -/
def execThrottleEventClose (reason scope depth : Nat) (s : State) : Outcome :=
  .next (if s.reasonHolds reason scope then s else s.closeEvent reason scope depth)

end Sys2Proof.Machine
end

