-- ==== Sys2Proof/Machine/Env.lean ====
section
/-! DEFINITION. Module inputs, the power input and the environment (R32 to R35, R39, R376, R388 to R391, R402,
R408): what pins, the busbar and the sensors do to the module. -/
namespace Sys2Proof.Machine

/-! ### MOD_RESET_N and the busbar (R39, R391, R402, R408) -/

/-- MOD_RESET_N_LOW: low for 10 ms, and a module reset starts (R39, R408). -/
def execModResetNLow (s : State) : Outcome :=
  .next (({ s with up := { s.up with resetHigh := false } } : State).moduleReset 0)

/-- MOD_RESET_N_HIGH: start-up begins at step 1, its one condition busbar good (R39, R402). -/
def execModResetNHigh (s : State) : Outcome :=
  .next (if s.up.resetHigh then s else ({ s with up := { s.up with resetHigh := true } } : State).beginStartup)

/-- BUSBAR_GOOD: 47.0 V or more for 100 ms, the end of start-up step 1 (R402). -/
def execBusbarGood (s : State) : Outcome :=
  .next (
    let was := s.pwr.good
    let t := (({ s with pwr := { s.pwr with good := true } } : State).setBusbar (Max.max s.pwr.mv 47000)).recap
    if !was && t.fld .glbStart 0 0 3 0 = 1 then t.beginStartup else t)

/-- BUSBAR_BROWNOUT_WARN: below 46.0 V a module-scope event opens and ramp-ups freeze (R391). -/
def execBusbarBrownoutWarn (mv : Nat) (s : State) : Outcome :=
  .next (
    let s := s.setBusbar mv
    if 46000 ≤ mv then s.recap else
    (((({ s with pwr := { s.pwr with warn := true } } : State).setFld .pwrStat 0 0 11 11 1).openEvent 4 255).recap))

/-- BUSBAR_WARN_CLEAR: the busbar rises through 47.0 V (R391). -/
def execBusbarWarnClear (mv : Nat) (s : State) : Outcome :=
  .next (
    let s := s.setBusbar mv
    if mv < 47000 || !s.pwr.warn then s.recap else
    (((({ s with pwr := { s.pwr with warn := false } } : State).setFld .pwrStat 0 0 11 11 0).closeEvent 4 255 0).recap))

/-- POWER_LOSS: at 42.0 V or below every domain is lost (R391, R408). -/
def execPowerLoss (s : State) : Outcome := .next s.powerLost

/-- New clamp currents, in 0.1 A; one clamp is open where it reads below 10 A beside more than 100 A, which is logged
when it is first seen (R33). -/
def State.setClamps (s : State) (i1 i2 : Nat) : State :=
  let opened := (decide (i1 < 100) && decide (1000 < i2)) || (decide (i2 < 100) && decide (1000 < i1))
  let t : State := { s with pwr := { s.pwr with i1 := i1, i2 := i2, oneClamp := opened } }
  if opened && !s.pwr.oneClamp then t.log .openClamp 255 (if i1 < i2 then 1 else 2) 0 0 0 else t

/-- CLAMP_LIMIT: a clamp reaches 350 A; the current holds at once, with reason POWER_CAP (R32, R379). -/
def execClampLimit (mv i1 i2 : Nat) (s : State) : Outcome :=
  .next (
    let s := ((s.setBusbar mv).setClamps i1 i2).recap
    if i1 < 3500 && i2 < 3500 then s else
    let w := mv * (i1 + i2) / 10000
    (({ s with pwr := { s.pwr with clampLimit := true, now := Min.min s.pwr.now w } } : State).setFld .pwrStat 0 0 3 0 1).openEvent 1 255)

/-- OPEN_CLAMP: logged, and the single-clamp limit applies (R33). -/
def execOpenClamp (i1 i2 : Nat) (s : State) : Outcome := .next (s.setClamps i1 i2).recap

/-! ### Coolant and air (R34, R35, R388) -/

/-- Strips whose safety-off condition still holds: the coolant flow, or a strip of their field at 105 °C (R388). -/
def State.stripUnsafe (s : State) (d : Nat) : Bool :=
  decide (s.pwr.flow < 100) || (s.field (d / 12)).temps.any (fun e => decide (1680 ≤ e.2))

/-- Strips of fields whose conditions have cleared may be requested again after 1 s (R389). -/
def State.clearStrips (s : State) (fs : List Nat) : State :=
  s.safetyClear ((fs.flatMap (fun f => (List.range 12).map (fun i => f * 12 + i))).filter (fun d => !s.stripUnsafe d))

/-- COOLANT_SENSOR_UPDATE: inlet and outlet in 1/16 °C, flow in 0.1 L/min; the thermal limits follow (R34, R388). -/
def execCoolantSensorUpdate (inlet outlet : Int) (flow : Nat) (s : State) : Outcome :=
  .next (({ s with pwr := { s.pwr with
    inlet := inlet, outlet := outlet, flow := flow, flow40 := s.pwr.flow40 && decide (400 ≤ flow) } } : State).recap.clearStrips (List.range 96))

/-- COOLANT_FLOW_RETURN: at least 40 L/min for 10 s (R34). -/
def execCoolantFlowReturn (s : State) : Outcome :=
  .next (if s.pwr.flow < 400 then s else ({ s with pwr := { s.pwr with flow40 := true } } : State).recap)

/-- FLOW_SAFETY_TIMEOUT: below 10 L/min for 1 s, every compute strip gets a safety off (R388, R389). -/
def execFlowSafetyTimeout (s : State) : Outcome :=
  .next (if s.pwr.flow < 100 then s.safetyOff (List.range 1152) 2 else s)

/-- AIR_SENSOR_UPDATE: a dew-point margin below 2 K raises the environmental warning and defers heavy phases (R35,
R388). -/
def execAirSensorUpdate (temp : Int) (rh : Nat) (margin : Int) (s : State) : Outcome :=
  .next (
    let told := s.pwr.dewTold
    let dew := decide (margin < 32)
    let s : State := { s with pwr := { s.pwr with air := temp, rh := rh, margin := margin, dew := dew, dewTold := dew } }
    if dew && !told then s.log .envWarn 255 0 0 0 (ofSigned 32 margin) else s)

/-! ### Temperatures (R388) -/

/-- A temperature in 1/16 °C as whole °C in 8 bits. -/
def degC (t : Int) : Nat := ofSigned 8 (t / 16)

/-- HOT and COOL of a field: its hottest strip, and its coolest admitted one (Table 14.10). -/
def State.showTemps (s : State) (f : Nat) : State :=
  let ts := (s.field f).temps
  let adm := (s.admittedIn f).map (fun i => ts.atD i 0)
  (s.setFld .fldPwrTemp f 0 7 0 (degC (((ts.map (·.2)).max?).getD 0))).setFld .fldPwrTemp f 0 15 8 (degC ((adm.min?).getD 0))

/-- STRIP_TEMP_UPDATE, in 1/16 °C: at 95 °C the field's setpoint is lowered until that strip is at 92 °C or below; at
105 °C the field's strips get a safety off (R388, R389). -/
def execStripTempUpdate (field strip : Nat) (temp : Int) (s : State) : Outcome :=
  .next (
    let s := (s.modField field (fun v => { v with temps := v.temps.put strip temp })).showTemps field
    let others := (s.field field).hot.filter (· ≠ strip)
    let s := if 1520 ≤ temp then (s.modField field (fun v => { v with hot := others ++ [strip] })).openEvent 2 field
      else if temp ≤ 1472 then s.modField field (fun v => { v with hot := others }) else s
    let s := if (s.field field).hot.isEmpty then s else s.lowerRate field
    if 1680 ≤ temp then s.safetyOff ((List.range 12).map (fun i => field * 12 + i)) 0 else s.clearStrips [field])

/-- HBM_TEMP_UPDATE, in 1/16 °C: refresh doubles above 85 °C, the stack serves at most half of its peak above 95 °C
until 90 °C, and gets a safety off at 105 °C (R241, R388). -/
def execHbmTempUpdate (stack : Nat) (temp : Int) (s : State) : Outcome :=
  .next (
    let s := (s.modStack stack (fun v => { v with
      temp := temp, throttled := decide (1520 < temp) || (v.throttled && decide (1440 < temp)) })).setFld .memStkStat 0 stack 7 7 (b2n (decide (1360 < temp)))
    let s := if (s.stack stack).throttled then s.openEvent 2 255 else s
    if 1680 ≤ temp then s.safetyOff [1248 + stack] 1 else s.safetyClear [1248 + stack])

/-! ### Field rails and regulator phases (R376, R389, R390) -/

/-- The domains of a field: its 12 strips and its hub (R29, R389). -/
def fieldDomains (f : Nat) : List Nat := (List.range 12).map (fun i => f * 12 + i) ++ [1152 + f]

/-- A safety off of a field for its rail; off, the rail meets neither condition any more (R389). -/
def State.railOff (s : State) (f : Nat) : State :=
  let s := s.safetyOff (fieldDomains f) 3
  (s.safetyClear [1152 + f]).clearStrips [f]

/-- FIELD_BROWNOUT_WARN: more than 80 mV below the lower of the rail's target and the one it slews from opens an event;
at 0.45 V or below the field gets a safety off (R390). -/
def execFieldBrownoutWarn (field mv : Nat) (s : State) : Outcome :=
  .next (
    let low := Min.min (s.fld .fldPwrRail field 0 19 10) (s.field field).slewFrom
    let s := s.setFld .fldPwrRail field 0 9 0 mv
    let s := if mv + 80 < low then (s.modField field (fun v => { v with brown := true })).openEvent 4 field else s
    if mv ≤ 450 then s.railOff field else s)

/-- FIELD_BROWNOUT_END: at least 40 mV below the target, or higher, for 10 µs; requests that waited begin UP (R390). -/
def execFieldBrownoutEnd (field mv us : Nat) (s : State) : Outcome :=
  .next (
    let s := s.setFld .fldPwrRail field 0 9 0 mv
    if !(s.field field).brown || us < 10 || mv + 40 < s.fld .fldPwrRail field 0 19 10 then s else
    let s := (s.modField field (fun v => { v with brown := false })).closeEvent 4 field 0
    (List.range 12).foldl (fun s i =>
      let d := field * 12 + i
      let v := s.domain d
      if v.st == .off && v.held == some true && s.mayStart d then s.beginUp d else s) s)

/-- FIELD_OVERCURRENT: a rail over its current limit, or at 0.45 V or below (R389, R390). -/
def execFieldOvercurrent (field mv : Nat) (s : State) : Outcome :=
  .next ((s.setFld .fldPwrRail field 0 9 0 mv).railOff field)

/-- PHASE_FAIL: a phase is shed, and the field is held to its rail limit; with no spare left REG_PHASE is logged
(R376, R405). -/
def execPhaseFail (field : Nat) (s : State) : Outcome :=
  .next (
    let n := s.fld .fldPwrRail field 0 23 20
    if n = 0 then s else
    let s := s.setFld .fldPwrRail field 0 23 20 (n - 1)
    let lost := decide (s.fld .fldPwrRail field 0 25 24 ≤ (s.field field).phasesOut)
    let s := s.modField field (fun v => { v with phasesOut := v.phasesOut + 1 })
    let s : State := { s with up := { s.up with mapDirty := true } }
    let s := if lost then s.log .regPhase 255 field (n - 1) 0 0 else s
    if n - 1 < 14 then s.openEvent 1 field else s)

/-- PHASE_SPARE_IN: a spare takes a failed phase's place, at once (R376, R417). -/
def execPhaseSpareIn (field : Nat) (s : State) : Outcome :=
  .next (
    let n := s.fld .fldPwrRail field 0 25 24
    if n = 0 || (s.field field).phasesOut = 0 then s else
    ((s.setFld .fldPwrRail field 0 25 24 (n - 1)).setFld .fldPwrRail field 0 23 20 (s.fld .fldPwrRail field 0 23 20 + 1)).modField field
      (fun v => { v with phasesOut := v.phasesOut - 1 }))

end Sys2Proof.Machine
end

