-- ==== Sys2Proof/Machine/Errors.lean ====
section
/-! DEFINITION. Request aborts, stalls, gates that reopen and the persistent log (R424, R425, R428, R430 to R432,
R435, R437, R438). -/
namespace Sys2Proof.Machine

/-! ### Request aborts (R424 to R426) -/

/-- Host commands whose appends an abort stops end with its code, or the code of their own fault (R424). -/
def State.abortAppends (s : State) (a : Abort) : State :=
  let cmds := (s.group a.group).flatMap (fun p => (s.part p).appends.filterMap (fun e =>
    e.2.cmd.map (fun c => (c, e.2.failed.getD (a.code, a.seq)))))
  cmds.foldl (fun s e => s.endCmd e.1.1 e.1.2.1 e.1.2.2 e.2.1 0 0 (detailOf e.2.1 a.cls e.1.1 e.2.2)) s

/-- Requests of a group that an abort ends: the active one, and any that an event has voided. -/
def State.abortTargets (s : State) (l : Nat) : List Request :=
  s.srv.reqs.filter (fun q => q.group == l && (q.void.isSome || q.st == .running || q.st == .pausing || q.st == .exporting))

/-- A request ends VOIDED, its first event giving DETAIL (R423, R424). -/
def State.abortReq (s : State) (q : Request) (cause : Nat × Nat × Nat × Nat) : State :=
  (s.modReq q.id (fun r => if r.void.isSome then r else { r with void := some cause })).endRequest q.id .voided

/-- A request abort's four steps (R424): the group's work stops, commands and requests end, and the next QUEUED request
may start. -/
def State.doAbort (s : State) (a : Abort) : State :=
  let s := s.abortAppends a
  let s := s.stopWork a.group false
  let s := (s.abortTargets a.group).foldl (fun s q => s.abortReq q (a.code, a.cls, a.group, a.seq)) s
  { s with err := { s.err with
    aborts := s.err.aborts.filter (fun b => b.group ≠ a.group), progress := s.err.progress.del a.group } }

/-- REQUEST_ABORT: at once, or once no layer chunk is running where it waits for the boundary; a restarting pair runs
no abort (R424, R426, R438). -/
def execRequestAbort (group : Nat) (s : State) : Outcome :=
  .next (match s.err.aborts.find? (fun a => a.group == group) with
    | none => s
    | some a =>
      if !s.pairUp group || (a.atBoundary && (s.active group).any (·.inFlight)) then s else s.doAbort a)

/-- ABORT_TIMEOUT: an abort not done within 10 ms is completed by a partition reset (R425). -/
def execAbortTimeout (group : Nat) (s : State) : Outcome :=
  .next (match s.err.aborts.find? (fun a => a.group == group && !a.atBoundary) with
    | none => s
    | some a => s.partitionEvent .abortTimeout group 0 0 (s.reqidOf group) a.code)

/-- STALL: STALL_MS without progress against the group's request; time in which its launches are held for the network
or for power is not counted (R428, R438). -/
def execStall (group : Nat) (s : State) : Outcome :=
  .next (match s.active group with
    | none => s
    | some q =>
      let held := s.pwr.heldGroups.contains group ||
        decide (s.fld .prtVngFlowq group 0 23 16 * 64 < (q.objs.filter (fun o => o.kind == 0)).length)
      if s.err.progress.atD group false || held then
        { s with err := { s.err with progress := s.err.progress.put group false } }
      else s.event .stall group ((q.members.map (·.cid)).headD 0) 0 q.id 0)

/-! ### Gates that reopen (R430, R432, R438) -/

/-- The causes that still gate a partition: a pair's or a takeover's until the pair serves again and no request of the
group has still to end (Table 16.6). -/
def State.gateCauses (s : State) (p : Nat) : List Nat :=
  let l := s.lead p
  let settled := !s.up.restarting.contains (s.pairOf l) && !s.err.aborts.any (fun a => a.group == l) &&
    !s.srv.reqs.any (fun q => q.group == l && q.void.isSome)
  (s.err.gates.atD p []).filter (fun c => !(decide (c < 2) && settled))

/-- A closed gate with no cause left reopens: held writes go out, then records, flows and the status page, with the
power figures MEAS and energy that the page last held (R432). -/
def State.reopen (s : State) (p : Nat) : State :=
  let cs := s.gateCauses p
  let s : State := { s with err := { s.err with gates := s.err.gates.put p cs } }
  if !cs.isEmpty || !s.gated p then s else
  let s := (s.setFld .errGate 0 0 p p 0).flushHeld
  let s := (s.flushRecords p).pumpAll
  let old := s.host.ppages.atD p []
  s.writePage p (leAt old 260 4) (leAt old 280 8)

/-- GATE_REOPEN (R430, R432). -/
def execGateReopen (part : Nat) (s : State) : Outcome := .next ((s.reopen part).settleAcks)

/-! ### The persistent log (R435, R438) -/

/-- Entries of the persistent log and of one of its sectors (R435). -/
def plogEntries : Nat := 507904
/-- Entries in a sector. -/
def sectorEntries : Nat := 1024

/-- The sector that begins at an entry holds records. -/
def State.sectorFull (s : State) (i : Nat) : Bool :=
  s.err.plog.any (fun e => decide (i ≤ e.1) && decide (e.1 < i + sectorEntries))

/-- PLOG_WRITE: the oldest waiting record is written, at most 64 in a second, an excess one is dropped and counted;
before a sector is written again it is erased, and the record waits (R435, R438). -/
def execPlogWrite (s : State) : Outcome :=
  .next (match s.err.plogWait with
    | [] => s
    | r :: rest =>
      let e := s.err
      let sec := s.up.time / 1000000000
      let n := if e.plogNow = sec then e.plogSec else 0
      let i := e.plogAt
      if e.erasing then s
      else if 64 ≤ n then
        ({ s with err := { e with plogWait := rest, plogNow := sec, plogSec := n } } : State).addFld .errPlog 0 0 15 0 1
      else if i % sectorEntries = 0 && s.sectorFull i then
        ({ s with err := { e with
          erasing := true
          plog := e.plog.filter (fun x => !(decide (i ≤ x.1) && decide (x.1 < i + sectorEntries))) } } : State).addFld .errPlog 0 0 31 16 1
      else
        { s with err := { e with
          plog := e.plog.put i (r, s.flash.startups), plogAt := (i + 1) % plogEntries
          plogWait := rest, plogNow := sec, plogSec := n + 1 } })

/-- PLOG_SECTOR_ERASE_DONE (R438). -/
def execPlogSectorEraseDone (s : State) : Outcome := .next { s with err := { s.err with erasing := false } }

end Sys2Proof.Machine
end

