-- ==== Sys2Proof/Machine/Startup.lean ====
section
/-! DEFINITION. Start-up, resets and repair (R402 to R419): the stages, boot-flash copies, zeroising clears, pairs and
service blocks, and map epochs of the clove rows. -/
namespace Sys2Proof.Machine

/-! ### Boot flash (R404 to R406) -/

/-- Of two copies, the valid one with the higher sequence number (R406). -/
def newer (a b : FlashCopy) : Option FlashCopy :=
  if a.valid && (!b.valid || decide (b.seq ≤ a.seq)) then some a else if b.valid then some b else none

/-- HBM channels of a stack that the repair map records: those failing or mapped out, and of a stack that is not trained
those that the map in use names (R251, R405). -/
def State.chansOut (s : State) (k : Nat) : Nat :=
  if s.flag .memStkStat 0 k 8 then (~~~(s.reg .memStkChmap 0 k) ||| s.reg .memStkPend 0 k).toNat
  else match newer s.flash.map0 s.flash.map1 with
    | some c => c.chans.atD k 0
    | none => 0

/-- What the repair map records of the present state (R405). -/
def State.mapCopy (s : State) (seq : Nat) : FlashCopy :=
  { valid := true, seq := seq, grade := 0, want := 0
    rows := s.fields.map (fun e => (e.1, e.2.retired)), pend := s.fields.map (fun e => (e.1, e.2.pending))
    wires := s.fields.map (fun e => (e.1, e.2.wires))
    chans := (List.range 24).map (fun k => (k, s.chansOut k))
    lanes := s.net.spareLane
    phases := (List.range 96).map (fun f => (f, 16 - s.fld .fldPwrRail f 0 23 20 - s.fld .fldPwrRail f 0 25 24))
    pairs := s.fld .glbCumin 0 0 7 4, blockA := s.flash.blockARetired }

/-- The copy of a pair that is not in use is written with the next sequence number (R406). -/
def writeCopy (a b : FlashCopy) (new : Nat → FlashCopy) : FlashCopy × FlashCopy :=
  match newer a b with
  | none => (new 1, b)
  | some c => if c = a then (a, new (c.seq + 1)) else (new (c.seq + 1), b)

/-- The repair map is written (R406). -/
def State.writeMap (s : State) : State :=
  let r := writeCopy s.flash.map0 s.flash.map1 s.mapCopy
  { s with flash := { s.flash with map0 := r.1, map1 := r.2 }, up := { s.up with mapDirty := false } }

/-- The settings are written: operating grade and node ID wanted (R404, R406). -/
def State.writeSettings (s : State) (grade want : Nat) : State :=
  let new (n : Nat) : FlashCopy := ⟨true, n, grade, want, [], [], [], [], [], [], 0, false⟩
  let r := writeCopy s.flash.set0 s.flash.set1 new
  { s with flash := { s.flash with set0 := r.1, set1 := r.2 } }

/-- The settings in use: grade and WANT (R404); none wanted where neither copy is valid. -/
def State.settings (s : State) : Nat × Nat :=
  match newer s.flash.set0 s.flash.set1 with
  | some c => (c.grade, c.want)
  | none => (0, 0xFFFFFF)

/-- REPAIR_MAP_WRITE: the settings, or the repair map once step 4 has applied one (R402, R406). -/
def execRepairMapWrite (settings : Bool) (s : State) : Outcome :=
  .next (if settings then s.writeSettings s.settings.1 s.settings.2
    else if s.fld .glbStart 0 0 3 0 < 5 then s else s.writeMap)

/-! ### Clove-row maps (R22, R23, R407, R416) -/

/-- The 88 healthy rows of a field in order, fewer where it cannot be mapped (R22, R23). -/
def rowMap (retired : List Nat) : List Nat := ((List.range 96).filter (fun r => !retired.contains r)).take 88

/-- Bits of the logical rows from lo on that lie on other physical rows in two maps (Table 15.8). -/
def movedBits (old new : List Nat) (lo n : Nat) : Nat :=
  (List.range n).foldl (fun v i => if old.getD (lo + i) (lo + i) ≠ new.getD (lo + i) (lo + i) then v + 2 ^ i else v) 0

/-- The counts that FLD_CLV_CNT shows start again for a field's cloves; the 24-hour windows of R414 go on (R460). -/
def State.restartCounts (s : State) (f : Nat) : State :=
  { s with cloves := s.cloves.map (fun e =>
    if fieldOfClove (cloveX e.1) (cloveY e.1) == f then (e.1, { e.2 with mismA := 0, mismB := 0, scrUe := 0 }) else e) }

/-- A field takes the map of its rows: pending rows and bad ones are retired, moved rows zeroed, quarantines lifted,
the cloves' counts start again, and the map registers follow; a field with fewer than 88 healthy rows keeps its old map
and takes its partition out of service (R22, R23, R191, R407, R415, R416, R460). -/
def State.remap (s : State) (f : Nat) (bad old : List Nat) : State :=
  let s := s.restartCounts f
  let v := s.field f
  let retired := (v.retired ++ v.pending ++ bad).dedup
  let new := rowMap retired
  let s := s.modField f (fun v => { v with retired := retired, pending := [] })
  if new.length < 88 then
    let s : State := { s with up := { s.up with outParts := (s.up.outParts ++ [f / 3]).dedup } }
    s.setReg .fldMapStat f 0 (s.reg .fldMapStat f 0 &&& 0xFFFF0100)
  else
    let moved (y : Nat) : Bool := old.getD y y ≠ new.getD y y
    let mine (k : Nat) : Bool := fieldOfClove (cloveX k) (cloveY k) == f
    let s := s.modField f (fun v => { v with map := new })
    let s : State := { s with cloves := s.cloves.map (fun e =>
      if mine e.1 then
        (e.1, if moved (cloveY e.1 % 88) then Clove.fresh (cloveX e.1) (cloveY e.1) else { e.2 with quar := false })
      else e) }
    let n := if old = new then s.flash.epochs.atD f 0 else Min.min 65535 (s.flash.epochs.atD f 0 + 1)
    let s : State := { s with flash := { s.flash with epochs := s.flash.epochs.put f n } }
    let s := s.setReg .fldMapStat f 0 (BitVec.ofNat 32 ((s.field f).spares + n * 65536))
    let s := s.setReg .fldMapMoved0 f 0 (BitVec.ofNat 32 (movedBits old new 0 32))
    let s := s.setReg .fldMapMoved1 f 0 (BitVec.ofNat 32 (movedBits old new 32 32))
    s.setReg .fldMapMoved2 f 0 (BitVec.ofNat 32 (movedBits old new 64 24))

/-- The capability registers and DEGRADED report the partitions in service (R23, R403, R455). -/
def State.showCaps (s : State) : State :=
  let live := (List.range 32).filter (fun p => !s.up.outParts.contains p)
  let mask := live.foldl (fun v p => v + 2 ^ p) 0
  let s := s.setReg .glbCapParts 0 0 (BitVec.ofNat 32 mask)
  let s := s.setReg .glbCapCloves 0 0 (BitVec.ofNat 32 (live.length * 33792 + live.length * 2 ^ 21))
  if s.up.outParts.isEmpty then s else s.setFld .glbStart 0 0 5 5 1

/-- SPARES_LOW where a field's healthy rows neither used nor pending have fallen to 1 or below (R415). -/
def State.checkSpares (s : State) (f was : Nat) : State :=
  if (s.field f).spares ≤ 1 ∧ 1 < was then s.log .sparesLow (f / 3) f (s.field f).spares 0 0 else s

/-! ### Partition resets and zeroising clears (R410, R411, R419) -/

/-- A zeroising clear begins with a partition reset of the group (R411). -/
def State.startClear (s : State) (p : Nat) : State :=
  let s : State := { s with up := { s.up with clears := (s.up.clears ++ [p]).dedup } }
  s.partitionReset (s.lead p) 0 0 0 0

/-- A zeroising clear is asked for; during a partition reset it waits (R411, R419). -/
def State.askClear (s : State) (p : Nat) : State :=
  if (s.up.resets.at? (s.lead p)).isSome then
    { s with up := { s.up with zeroWait := (s.up.zeroWait ++ [p]).dedup } }
  else s.startClear p

/-- A write of PRT_RESET: DONE, GO and ZERO (Table 15.4, R419). -/
def State.writeReset (s : State) (p : Nat) (v : W32) : State :=
  let s := if v.getLsbD 3 then s.setFld .prtReset p 0 3 3 0 else s
  let s := if v.getLsbD 0 then s.partitionReset (s.lead p) 0 0 0 0 else s
  if v.getLsbD 1 then s.askClear p else s

/-- Clears that waited for a reset of a group begin (R419). -/
def State.wakeClears (s : State) (g : List Nat) : State :=
  let due := s.up.zeroWait.filter (fun p => g.contains p)
  let s : State := { s with up := { s.up with zeroWait := s.up.zeroWait.filter (fun p => !due.contains p) } }
  due.foldl (fun s p => s.startClear p) s

/-- PARTITION_RESET_DONE: BUSY clears and DONE is set, but for a clear still under way; fetched commands receive
RESET_ABORT, and the gates reopen (R343, R410, R430). -/
def execPartitionResetDone (part : Nat) (s : State) : Outcome :=
  .next (
    let l := s.lead part
    match s.up.resets.at? l with
    | none => s
    | some cause =>
      let g := s.group l
      let s : State := { s with up := { s.up with resets := s.up.resets.del l } }
      let s := g.foldl (fun s p => if s.up.clears.contains p then s
        else (s.setFld .prtReset p 0 2 2 0).setFld .prtReset p 0 3 3 1) s
      let s := g.foldl (fun s p => s.abortCmds p (resetDetail cause p)) s
      let s := s.dropCause g 2
      let s := g.foldl (fun s p => s.reopen p) s
      s.wakeClears g)

/-- The windows of a partition are written with zero data and valid code words, and disabled (R411). -/
def State.clearWindows (s : State) (p : Nat) : State :=
  let ws := s.windows p
  let inside (a : Nat) : Bool := ws.any (fun w => decide (w.1 ≤ a) && decide (a < w.1 + w.2))
  { s with hbm := ⟨s.hbm.bytes.filter (fun e => !inside e.1), s.hbm.poison.filter (fun e => !inside (64 * e.1))⟩ }

/-- Every PRT_ register of a partition returns to its reset value, with what the module keeps behind them; the
partition leaves its group, and members that it led lead groups of their own (R411). -/
def State.clearPart (s : State) (p : Nat) : State :=
  let base := 0x20000 + p * 0x1000
  let led := (s.group p).filter (· ≠ p)
  let old := (List.range 3).map (fun c => s.reg .prtPwrStrip p c)
  let keep := s.srv.reqs.filter (fun q => q.group ≠ p && q.part ≠ p)
  let s : State := { s with
    regs := s.regs.filter (fun e => !(decide (base ≤ e.1) && decide (e.1 < base + 0x1000)))
    parts := s.parts.put p Part.fresh
    host := { s.host with
      rings := s.host.rings.filter (fun e => e.1 / 8 ≠ p), pageSeq := s.host.pageSeq.del p
      held := s.host.held.filter (fun e => e.1 ≠ p), ppages := s.host.ppages.del p, turn := s.host.turn.del p }
    srv := { s.srv with
      reqs := keep, sets := s.srv.sets.filter (fun v => v.group ≠ p), handles := s.srv.handles.filter (fun h => h.group ≠ p)
      adapters := s.srv.adapters.filter (fun a => a.group ≠ p), routes := s.srv.routes.filter (fun e => e.1 / 256 ≠ p)
      groups := s.srv.groups.filter (fun e => e.1 / 256 ≠ p) } }
  let s := led.foldl (fun s q => s.setFld .prtGroup q 0 4 0 q) s
  (List.range 3).foldl (fun s c =>
    let s := (List.range 12).foldl (fun s i => s.showStrip ((3 * p + c) * 12 + i)) s
    (s.setReg .prtPwrStrip p c (old.getD c 0)).writeStripReq p c 0xFFF) s

/-! ### Cumin pairs and service blocks (R296, R412, R413) -/

/-- Leaders of the groups that a pair serves now (R296). -/
def State.served (s : State) (pair : Nat) : List Nat := (List.range 32).filter (fun l => s.lead l == l && s.pairOf l == pair)

/-- Members of the groups that a pair serves. -/
def State.servedParts (s : State) (pair : Nat) : List Nat := (s.served pair).flatMap s.group

/-- What a pair's reset ends: requests RUNNING, PAUSING or EXPORTING, with the event that voids them (R321, R431). -/
def State.markPair (s : State) (pair code seq : Nat) : State :=
  let ls := s.served pair
  { s with srv := { s.srv with reqs := s.srv.reqs.map (fun q =>
    if ls.contains q.group && q.endsBy false && q.void.isNone then { q with void := some (code, 4, 255, seq) } else q) } }

/-- A pair stops and restarts: its gates close and its requests in progress are void (R412, R430). -/
def State.pairStops (s : State) (pair cause code seq : Nat) : State :=
  let s := (s.markPair pair code seq).closeGates (s.servedParts pair) cause
  { s with up := { s.up with restarting := (s.up.restarting ++ [pair]).dedup } }

/-- The partitions of a pair go out of service, and each of their requests ends VOIDED (R412). -/
def State.serviceEnds (s : State) (pair code seq : Nat) : State :=
  let ls := s.served pair
  let s : State := { s with up := { s.up with outParts := (s.up.outParts ++ s.servedParts pair).dedup } }
  let s := ls.foldl (fun s l =>
    let s := s.stopWork l false
    let s : State := { s with err := { s.err with aborts := s.err.aborts.filter (fun a => a.group ≠ l) } }
    (s.srv.reqs.filter (fun q => q.group == l)).foldl (fun s q => s.abortReq q (code, 4, 255, seq)) s) s
  s.showCaps

/-- Pair 3 is a spare: it serves nothing and is not retired (R296, R412). -/
def State.spare (s : State) : Bool := !s.flag .glbCumin 0 0 3 && !s.flag .glbCumin 0 0 7

/-- A pair is retired: recorded, and pair 3 takes over its partitions where it is still a spare; else they go out of
service (R412). -/
def State.retirePair (s : State) (pair cause code seq : Nat) : State :=
  let spare := s.spare && pair ≠ 3
  let s := if spare then s else s.serviceEnds pair code seq
  let s := (s.setFld .glbCumin 0 0 pair pair 0).setFld .glbCumin 0 0 (4 + pair) (4 + pair) 1
  let s : State := { s with up := { s.up with
    mapDirty := true, restarting := s.up.restarting.filter (· ≠ pair) } }
  if spare then
    ((s.setFld .glbCumin 0 0 3 3 1).setFld .glbCumin 0 0 9 8 pair).pairStops 3 cause code seq
  else s

/-- A pair runs: it serves, or it is the spare, and it is not restarting (R296, R412). -/
def State.pairRuns (s : State) (pair : Nat) : Bool :=
  (s.flag .glbCumin 0 0 pair || (pair == 3 && s.spare)) && !s.up.restarting.contains pair

/-- A pair that runs resets, with its PAIR_RESET record: 0 divergence, 1 watchdog, 2
management command (log entry 36); retire says that it does not come back (R412). -/
def State.resetPair (s : State) (pair cause : Nat) (retire : Bool) : State :=
  if !s.pairRuns pair then s else
  let seq := s.err.nextSeq
  let s := (s.log .pairReset 255 pair cause 0 0).pairStops pair 0 Code.pairReset.val seq
  if retire then s.retirePair pair 0 Code.pairReset.val seq else s

/-- One hour, in ns. -/
def hourNs : Nat := 3600000000000

/-- LOCKSTEP_DIVERGENCE: the second within 1 h retires the pair (R412). -/
def execLockstepDivergence (pair : Nat) (s : State) : Outcome :=
  .next (if !s.pairRuns pair then s else
    let again := (s.up.diverged.atD pair []).any (fun t => decide (s.up.time < t + hourNs))
    let s : State := { s with up := { s.up with diverged := s.up.diverged.put pair [s.up.time] } }
    s.resetPair pair 0 again)

/-- WATCHDOG_EXPIRY (R412). -/
def execWatchdogExpiry (pair : Nat) (s : State) : Outcome := .next (s.resetPair pair 1 false)

/-- PAIR_RESTART_DONE: the pair serves again, and the requests that its reset voids are aborted; one that fails its
self-test is retired (R321, R412). -/
def execPairRestartDone (pair : Nat) (ok : Bool) (s : State) : Outcome :=
  .next (if !s.up.restarting.contains pair then s else
    if !ok then s.retirePair pair 0 Code.pairReset.val (s.err.nextSeq - 1) else
    let s : State := { s with up := { s.up with restarting := s.up.restarting.filter (· ≠ pair) } }
    (s.srv.reqs.filter (fun q => (s.served pair).contains q.group)).foldl (fun s q =>
      match q.void with
      | some (c, k, _, n) => s.queueAbort q.group c k n false
      | none => s) s)

/-- Service block B takes over: block A and pairs 0 and 1 are retired, pair 3 takes pair 0's partitions, the monitor
locks (R413, R430). -/
def State.takeover (s : State) : State :=
  if s.flag .glbStart 0 0 7 || s.flash.blockBRetired then s else
  let seq := s.err.nextSeq
  let code := Code.blockTakeover.val
  let s := s.log .blockTakeover 255 0 0 0 0
  let s := (((s.setFld .glbStart 0 0 7 7 1).putDomain 1288 Domain.off).setFld .mgtMon 0 0 3 0 0).setFld .mgtMon 0 0 4 4 0
  let s : State := { s with
    flash := { s.flash with blockARetired := true }
    mgmt := { s.mgmt with challenge := none, last := none, baudNew := false }
    up := { s.up with mapDirty := true } }
  [0, 1].foldl (fun s p => if s.flag .glbCumin 0 0 p then (s.pairStops p 1 code seq).retirePair p 1 code seq else s) s

/-- HEARTBEAT_LOSS (R413). -/
def execHeartbeatLoss (s : State) : Outcome := .next s.takeover

/-- LOSS_OF_BOTH_SERVICE_BLOCKS: the module resets (R413, R422). -/
def execLossOfBothServiceBlocks (s : State) : Outcome := .next (s.moduleReset 3)

/-! ### Stages (R402, R403) -/

/-- ELAPSED_MS since step 1 was done (Table 15.7). -/
def State.showElapsed (s : State) : State :=
  s.setFld .glbStart 0 0 31 8 (Min.min ((s.up.time - s.up.began) / 1000000) (2 ^ 24 - 1))

/-- A domain may come up in start-up: it has not failed, and no safety off holds it (R389, R402, R419). -/
def State.mayPower (s : State) (d : Nat) : Bool := !s.up.failed.contains d && s.safetyAllows d

/-- A domain comes up in start-up. -/
def State.powerUp (s : State) (d : Nat) : State := if s.mayPower d then s.putDomain d ⟨.on, none, false⟩ else s

/-- Step 2 ends: attaches and service blocks have power, and the reset's record is written (R413, R422). -/
def State.stage2 (s : State) : State :=
  let blocks := if s.flash.blockARetired then [1289] else [1288, 1289]
  let s := ([1286, 1287] ++ blocks).foldl (fun s d => s.powerUp d) s
  let cause : Option Nat := match s.up.cause with
    | some c => some c
    | none => if s.up.recorded then none else some 4
  match cause with
  | some c => ({ s with up := { s.up with cause := none, recorded := true } } : State).log .moduleReset 255 0 c 0 0
  | none => s

/-- Step 3 ends: the hub and the strips of a field are ON, its regulator with its phases; a field that fails to come up
stays OFF whole until the next module reset, and its partition is out of service (R376, R402, R419). -/
def State.stage3 (s : State) : State :=
  let dead := (List.range 96).filter (fun f => (fieldDomains f).any (fun d => !s.mayPower d))
  let s : State := { s with up := { s.up with
    failed := (s.up.failed ++ dead.flatMap fieldDomains).dedup, outParts := (s.up.outParts ++ dead.map (· / 3)).dedup } }
  let s := (List.range 1248).foldl (fun s d => s.powerUp d) s
  (List.range 96).foldl (fun s f => (s.setFld .fldPwrRail f 0 23 20 14).setFld .fldPwrRail f 0 25 24 2) s

/-- The phases of a regulator after n of its 16 have been retired (R376, R405). -/
def State.setPhases (s : State) (f n : Nat) : State :=
  (s.setFld .fldPwrRail f 0 23 20 (Min.min 14 (16 - n))).setFld .fldPwrRail f 0 25 24 (Min.min 2 (16 - n - Min.min 14 (16 - n)))

/-- Step 4 ends: the valid copy with the higher sequence number is applied, else the factory map, with MAP_FALLBACK;
the grade comes with the settings (R34, R404 to R406). A block A that the identity store records as retired takes pairs 0
and 1 with it, whatever the map says (R26, R413). -/
def State.stage4 (s : State) (fallback : Bool) : State :=
  let s := s.setFld .pwrStat 0 0 12 12 s.settings.1
  match (if fallback then none else newer s.flash.map0 s.flash.map1) with
  | some c =>
    let s := (List.range 96).foldl (fun s f => (s.modField f (fun v => { v with
      retired := c.rows.atD f [], pending := c.pend.atD f [], wires := c.wires.atD f [] })).setPhases f (c.phases.atD f 0)) s
    let s := s.setFld .glbCumin 0 0 7 4 (if s.flash.blockARetired then c.pairs ||| 3 else c.pairs)
    { s with net := { s.net with spareLane := c.lanes } }
  | none =>
    let s := (List.range 96).foldl (fun s f => s.modField f (fun v => { v with retired := Config.factoryRetired f, pending := [] })) s
    let s := if s.flash.blockARetired then s.setFld .glbCumin 0 0 7 4 3 else s
    s.log .mapFallback 255 0 0 0 0

/-- Step 5 ends: rows that failed self-test and pending rows are retired, spares take the places of wires that failed it,
and every field takes its map (R218, R402, R407). -/
def State.stage5 (s : State) (found : Findings) : State :=
  let s := (List.range 96).foldl (fun s f =>
    let rows := (found.rows.filter (fun e => e.1 == f)).map (·.2)
    let links := (found.wires.filter (fun e => e.1 == f)).map (fun e => e.2.1 * 65536 + e.2.2 % 65536)
    let v := s.field f
    let changed := !v.pending.isEmpty || !links.isEmpty || rows.any (fun r => !v.retired.contains r)
    let s := s.modField f (fun v => { v with pendWires := links.foldl (fun m l => m.put l (m.atD l 0 + 1)) v.pendWires })
    let s := ((s.fitWires f).remap f rows (rowMap v.retired)).checkSpares f v.spares
    if changed then { s with up := { s.up with mapDirty := true } } else s) s
  s.showCaps

/-- A stack is trained: channels with more than 2 failed bridge wires, those that fail their test and those that the
repair map records are left out of the map that is published. A recorded channel that passes may return at the next
epoch, which PEND says (R251, R254, R255, R405, R406; DEDUCED, entry 125). -/
def State.trainStack (s : State) (k : Nat) (found : Findings) : State :=
  let out : W32 := BitVec.ofNat 32 (s.chansOut k)
  let wires (c : Nat) : Nat := (found.hbmWires.filter (fun w => w == (k, c))).length
  let bad := chanMask (fun c => decide (2 < wires c) || found.chans.contains (k, c))
  let back := out &&& ~~~bad
  let s := ((s.zeroStack k).publishMap k (~~~(out ||| bad))).setFld .memStkStat 0 k 8 8 1
  let s := (s.setReg .memStkPend 0 k back).setFld .memStkStat 0 k 6 6 (b2n (back ≠ 0))
  let s := s.modStack k (fun v => { v with wires := ((List.range 32).filter (fun c => wires c ≠ 0)).map (fun c => (c, wires c)) })
  if bad &&& ~~~out = 0 then s else { s with up := { s.up with mapDirty := true } }

/-- Step 6 ends: every stack that has power is trained, and its map is published (R251). -/
def State.stage6 (s : State) (found : Findings) : State :=
  (List.range 24).foldl (fun s k =>
    let s := s.powerUp (1248 + k)
    if s.domOn (1248 + k) then s.trainStack k found else s.publishMap k 0) s

/-- Step 7 ends: an image is loaded, image B where A fails its check, and the pairs serve; a retired pair's place is
pair 3's (R402, R412). -/
def State.stage7 (s : State) (found : Findings) (fwRev : W32) : State :=
  let s := (s.setReg .glbFw 0 0 fwRev).setFld .glbStart 0 0 6 6 (b2n (!found.imageA))
  let s : State := { s with flash := { s.flash with imageA := found.imageA }, up := { s.up with fwRev := fwRev } }
  let s := (found.pairs.filter (· < 4)).foldl (fun s p => if s.flag .glbCumin 0 0 (4 + p) then s
    else (({ s with up := { s.up with mapDirty := true } } : State).setFld .glbCumin 0 0 (4 + p) (4 + p) 1)) s
  let gone := [0, 1, 2].filter (fun p => s.flag .glbCumin 0 0 (4 + p))
  let s := if s.flag .glbCumin 0 0 7 then s.setFld .glbCumin 0 0 3 3 0 else s
  let s := gone.foldl (fun s p => s.setFld .glbCumin 0 0 p p 0) s
  let s := match gone with
    | p :: _ => if s.flag .glbCumin 0 0 7 then s else (s.setFld .glbCumin 0 0 3 3 1).setFld .glbCumin 0 0 9 8 p
    | [] => s
  let lost := (List.range 32).filter (fun p => !s.flag .glbCumin 0 0 (s.pairOf p))
  (({ s with up := { s.up with outParts := (s.up.outParts ++ lost).dedup } } : State)).showCaps

/-- Step 10 begins: the ports train, WANT comes from the boot flash, and the node ID is claimed (R351, R402). -/
def State.enter10 (s : State) : State :=
  let s := (List.range 14).foldl (fun s n =>
    if s.up.failed.contains (1272 + n) || (s.domain (1272 + n)).st ≠ .off then s else s.beginUp (1272 + n)) s
  (s.setFld .vngNode 0 0 23 0 s.settings.2).startClaim

/-- Step 11: READY; DEGRADED where a resource is out of service; the gates reopen (R402, R403, R430). WRAPS counts from
here on, and a busbar warning that has outlived the reset opens its event (R391, R437). -/
def State.becomeReady (s : State) : State :=
  let s := s.showElapsed
  let s := s.setFld .glbStart 0 0 4 4 1
  let s := s.setFld .errPlog 0 0 31 16 0
  let s := if s.pwr.warn then s.openEvent 4 255 else s
  let degraded := !s.up.outParts.isEmpty || !s.up.failed.isEmpty || s.fld .glbCumin 0 0 7 4 ≠ 0 ||
    s.flash.blockARetired || s.flash.blockBRetired || (List.range 24).any (fun k => s.fld .memStkStat 0 k 5 0 ≠ 32)
  let s := s.setFld .glbStart 0 0 5 5 (b2n degraded)
  let s : State := { s with
    up := { s.up with readyAt := s.up.time, recorded := false }
    err := { s.err with counts := [], recent := [], voided := [] } }
  let s := s.dropCause (List.range 32) 3
  (List.range 32).foldl (fun s p => s.reopen p) s

/-- MGT_SMB.AV: the agent has an address. -/
def State.addressed (s : State) : Bool := s.flag .mgtSmb 0 0 7

/-- A Notify ARP Master has been sent (R441). -/
def State.notifySent (s : State) : State :=
  let s := s.addFld .mgtSmb 0 0 23 16 1
  { s with mgmt := { s.mgmt with notified := s.mgmt.notified + 1, notifyDue := 0 } }

/-- Step 9 begins without an address: the agent sends Notify ARP Master (R441). -/
def State.enter9 (s : State) : State :=
  ({ s with mgmt := { s.mgmt with notifies := 0 } } : State).notifySent

/-- The next step begins, with the capability registers as the stage before it leaves them; step 9 is done at once where
the agent has an address (R402, R441, R455). -/
def State.nextStep (s : State) (n : Nat) : State :=
  let n := if n = 9 ∧ s.addressed then 10 else n
  let s := (s.setFld .glbStart 0 0 3 0 n).showElapsed.showCaps
  if n = 9 then s.enter9 else if n = 10 then s.enter10 else if n = 11 then s.becomeReady else s

/-- Service block B is active and has failed: start-up stops at step 7 (R413). -/
def State.noBlock (s : State) : Bool := s.flag .glbStart 0 0 7 && s.flash.blockBRetired

/-- STARTUP_STAGE_DONE: the present stage's condition holds, and the next begins; found is what self-test, training and
the boot of the control cores found (R402). -/
def execStartupStageDone (found : Findings) (fwRev : W32) (s : State) : Outcome :=
  .next (match s.fld .glbStart 0 0 3 0 with
    | 1 => s.beginStartup
    | 2 => s.stage2.nextStep 3
    | 3 => s.stage3.nextStep 4
    | 4 => (s.stage4 false).nextStep 5
    | 5 => (s.stage5 found).nextStep 6
    | 6 => (s.stage6 found).nextStep 7
    | 7 => if s.noBlock then s else (s.stage7 found fwRev).nextStep 8
    | 8 => s.nextStep 9
    | 9 => if s.addressed then s.nextStep 10 else s
    | 10 => if s.claimState = 1 ∨ s.claimState = 2 then s else s.nextStep 11
    | _ => s)

/-- The present stage ends with failed resources: domains stay OFF. -/
def State.failDomains (s : State) (ds : List Nat) : State :=
  { s with up := { s.up with failed := (s.up.failed ++ ds.filter (fun d => decide (d < 1292))).dedup } }

/-- Step 7 ends with service blocks that fail their self-test. Block B takes over from block A; when both have failed the
module resets; and start-up stops where block B, active, fails (R413). -/
def State.bootBlocks (s : State) (domains : List Nat) (found : Findings) (fwRev : W32) : State :=
  let s := if domains.contains 1289 then { s with flash := { s.flash with blockBRetired := true } } else s
  if s.noBlock then s
  else if domains.contains 1288 && !s.flag .glbStart 0 0 7 then
    if s.flash.blockBRetired then
      ({ s with flash := { s.flash with blockARetired := true }, up := { s.up with mapDirty := true } } : State).moduleReset 3
    else (s.takeover.stage7 found fwRev).nextStep 8
  else (s.stage7 found fwRev).nextStep 8

/-- STARTUP_STAGE_LIMIT: a stage reaches its limit, or fails for the listed domains and for what found names, and
start-up goes on as Table 15.1 states; step 1 has no limit (R402, R413). -/
def execStartupStageLimit (limit : StageLimit) (s : State) : Outcome :=
  .next (match s.fld .glbStart 0 0 3 0 with
    | 2 =>
      let s := s.failDomains limit.domains
      let s := s.stage2
      (limit.domains.foldl (fun s d => s.log .regFail 255 d 0 0 0) s).nextStep 3
    | 3 => ((s.failDomains limit.domains).stage3).nextStep 4
    | 4 => (s.stage4 true).nextStep 5
    | 5 => (s.stage5 limit.found).nextStep 6
    | 6 => ((s.failDomains limit.domains).stage6 limit.found).nextStep 7
    | 7 => s.bootBlocks limit.domains limit.found limit.fwRev
    | 8 => s.nextStep 9
    | 9 => s.nextStep 10
    | 10 => s.nextStep 11
    | _ => s)

/-! ### Map epochs at run time (R416) -/

/-- A write of GLB_MAP_CTRL: REFUSED and DONE clear; GO sets BUSY for an epoch of PART, which holds its group's fetching;
whether the epoch is refused is found once the commands already fetched have completed (R416, R419). GO during an epoch
asks for none, and is refused. -/
def State.writeMapCtrl (s : State) (v : W32) : State :=
  let busy := s.flag .glbMapCtrl 0 0 9
  let s := if v.getLsbD 10 then s.setFld .glbMapCtrl 0 0 10 10 0 else s
  let s := if v.getLsbD 11 then s.setFld .glbMapCtrl 0 0 11 11 0 else s
  let s := s.setFld .glbMapCtrl 0 0 4 0 (regField v 4 0)
  if !v.getLsbD 8 then s else
  if busy then s.setFld .glbMapCtrl 0 0 10 10 1 else
  let p := s.fld .glbMapCtrl 0 0 4 0
  let l := s.lead p
  let reset := (s.up.resets.at? l).isSome
  ({ s with up := { s.up with epoch := some (p, reset) } } : State).setFld .glbMapCtrl 0 0 9 9 1

/-- Commands of a group's rings that have been fetched and neither ended nor begun to wait for a request. -/
def State.groupBusy (s : State) (l : Nat) : Bool :=
  (s.group l).any (fun p => (List.range 8).any (fun r => (s.ring p r).cmds.any (fun c => c.answer.isNone && !c.wait)))

/-- The three fields of a partition take their new maps, wire spares take effect, and the epoch ends (R416, step 5 and 6). -/
def State.endEpoch (s : State) (p : Nat) : State :=
  let s := [3 * p, 3 * p + 1, 3 * p + 2].foldl (fun s f => (s.fitWires f).remap f [] (rowMap (s.field f).retired)) s
  let s : State := { s with up := { s.up with epoch := none, mapDirty := true } }
  let s := ((s.setFld .glbMapCtrl 0 0 9 9 0).setFld .glbMapCtrl 0 0 11 11 1).showCaps
  s.log .mapEpoch p (3 * p) 0 0 0

/-- MAP_EPOCH: the epoch goes on as far as it can: commands already fetched complete first, a running request refuses
it, and a partition reset comes before the new maps (R416). -/
def execMapEpoch (s : State) : Outcome :=
  .next (match s.up.epoch with
    | none => s
    | some (p, after) =>
      let l := s.lead p
      if (s.up.resets.at? l).isSome then { s with up := { s.up with epoch := some (p, true) } }
      else if after then s.endEpoch p
      else if s.groupBusy l then s
      else if (s.active l).isSome then
        ((({ s with up := { s.up with epoch := none } } : State).setFld .glbMapCtrl 0 0 9 9 0).setFld .glbMapCtrl 0 0 10 10 1)
      else ({ s with up := { s.up with epoch := some (p, true) } } : State).partitionReset l 0 0 0 0)

end Sys2Proof.Machine
end

