-- ==== Sys2Proof/Machine/Registers.lean ====
section
/-! DEFINITION. Writes of the set-up registers (R8 to R12, R325 to R328, R336, R452 to R454): the path every write takes,
what each register does with it, the register-write commands, and the set-up arbiter. -/
namespace Sys2Proof.Machine

/-! ### Replies of the management bus and the monitor (R443, R446) -/

/-- The agent's reply to a command: STATUS and data, kept for GET_LAST (R443). -/
def State.reply (s : State) (st : Nat) (data : List Byte) : State :=
  { s with mgmt := { s.mgmt with last := some (st, data), out := s.mgmt.out ++ [(st, data)] } }

/-- A line that the monitor prints, with its data (R446). -/
def State.print (s : State) (line : String) (data : List Byte) : State :=
  { s with mgmt := { s.mgmt with uart := s.mgmt.uart ++ [(line, data)] } }

/-- MGT_MON.UNLOCKED. -/
def State.unlocked (s : State) : Bool := s.flag .mgtMon 0 0 4

/-! ### Scope and access types (R10, R325, R454) -/

/-- The partition whose scope a BAR0 offset has, 255 for module scope (R452, R454). -/
def offPart (off : Nat) : Nat :=
  if 0x20000 ≤ off ∧ off < 0x40000 then (off - 0x20000) / 0x1000
  else if 0x80000 ≤ off ∧ off < 0xE0000 then (off - 0x80000) / 0x1000 / 3
  else 255

/-- The offset of HIF_OWN. -/
def ownOff : Nat := 0x10000

/-- An order of a master may not act on a partition: it comes from the attach that does not own it (R325). -/
def State.foreign (s : State) (m : Master) (p : Nat) : Bool :=
  match attachOf m with
  | some b => decide (p < 32) && s.ownerOf p != b
  | none => false

/-- The stored bits of a register after a write under its access types (Table 0.3). -/
def RegInfo.merge (i : RegInfo) (old v : W32) : W32 :=
  let keep := BitVec.ofNat 32 (i.rw ||| i.rwl)
  let a := (old &&& ~~~keep) ||| (v &&& keep)
  let a := a &&& ~~~(v &&& BitVec.ofNat 32 i.w1c)
  let a := i.whole.foldl (fun a n => if v &&& BitVec.ofNat 32 n = 0 then a else a &&& ~~~(BitVec.ofNat 32 n)) a
  a ||| (v &&& BitVec.ofNat 32 i.w1s)

/-- A register stored under its access types alone (R10). -/
def State.store (s : State) (r : Reg) (blk idx : Nat) (v : W32) : State :=
  s.setReg r blk idx (r.info.merge (s.reg r blk idx) v)

/-- What the set-up lock of partition p leaves of a write: RWL fields keep their value, and a change asked for is one
lock violation (R10, R12). -/
def State.underLock (s : State) (r : Reg) (blk idx p off : Nat) (v : W32) : W32 × State :=
  let held := if r.info.rwl ≠ 0 && s.flag .prtLock p 0 0 then BitVec.ofNat 32 r.info.rwl else 0
  let old := s.reg r blk idx
  ((v &&& ~~~held) ||| (old &&& held),
    if (v ^^^ old) &&& held = 0 then s else s.log .lockViolation p 0 0 0 off)

/-! ### What single registers do -/

/-- PRT_GROUP.LEAD may not be written so (R328). A partition may always name itself again (log entry 40). -/
def State.badLead (s : State) (p l : Nat) : Bool :=
  let holds (q : Nat) : Bool := s.srv.reqs.any (fun v => v.group == s.lead q)
  decide (p < l) || (l ≠ p && s.lead l ≠ l) || s.ownerOf l != s.ownerOf p ||
    (l ≠ p && (s.group p).any (· ≠ p)) || holds p || holds l

/-- The cache areas of a partition: table area, frame table and enabled segments (R292). -/
def State.kvAreas (s : State) (p : Nat) : List (Nat × Nat) :=
  [(s.kvBase p, s.kvBytes p), (s.ftBase p, 16 * s.fld .prtKvFrames p 0 23 0)] ++
    (s.segments p).map (fun e => (e.1, e.2 * s.slotBytes p))

/-- No two ranges of a list share a byte. -/
def apart : List (Nat × Nat) → Bool
  | [] => true
  | a :: rs => rs.all (fun b => !rangesMeet a b) && apart rs

/-- The cache registers of a partition may be enabled (R292). -/
def State.kvFits (s : State) (p : Nat) : Bool :=
  let as := s.kvAreas p
  decide (0 < s.slotBytes p) && decide (0 < s.fld .prtKvFrames p 0 23 0) && decide (0 < s.kvBytes p) &&
    !(s.segments p).isEmpty && as.all (fun a => s.inWindow p a.1 a.2) && apart as

/-- The service area of a partition as base and length. -/
def State.srvArea (s : State) (p : Nat) : Nat × Nat :=
  (s.fld .prtSrvArealo p 0 31 12 * 4096 + s.fld .prtSrvAreahi p 0 15 0 * 2 ^ 32, s.fld .prtSrvAreahi p 0 31 16 * mib2)

/-- The serving registers of a partition may be enabled (R319). -/
def State.srvFits (s : State) (p : Nat) : Bool :=
  let a := s.srvArea p
  decide (0 < a.2) && s.inWindow p a.1 a.2 && (s.kvAreas p).all (fun b => !rangesMeet a b)

/-- A quota of PRT_SRV_QUOTA summed over all partitions, with v written in partition p (R319). -/
def State.quotaSum (s : State) (p hi lo : Nat) (v : W32) : Nat :=
  ((List.range 32).map (fun q => if q = p then regField v hi lo else s.fld .prtSrvQuota q 0 hi lo)).sum

/-- A write of an enable bit that is refused, with the record it leaves; else the register is stored. -/
def State.enable (s : State) (r : Reg) (p off : Nat) (v : W32) (ok : Bool) (c : Code) : State :=
  if v.getLsbD 0 && !s.flag r p 0 0 && !ok then s.log c p 0 0 0 off else s.store r p 0 v

/-- LOG2N lies in 6 to 16 (R336). -/
def ringSize (v : W32) : Bool := decide (6 ≤ regField v 4 0) && decide (regField v 4 0 ≤ 16)

/-- A write of PRT_SQ_CFG (R336). -/
def State.writeSq (s : State) (p r off : Nat) (v : W32) : State :=
  let was := s.sqOn p r
  if v.getLsbD 8 && !was && !(ringSize v && s.cqOn p r) then s.hostAccess p off else
  let s := s.store .prtSqCfg p r v
  if was && !v.getLsbD 8 then s.dropFetch p r else s

/-- A write of PRT_CQ_CFG (R336). -/
def State.writeCq (s : State) (p r off : Nat) (v : W32) : State :=
  let was := s.cqOn p r
  if v.getLsbD 8 && !was && !ringSize v then s.hostAccess p off
  else if was && !v.getLsbD 8 && s.sqOn p r then s.hostAccess p off
  else s.store .prtCqCfg p r v

/-- A write of a slower-tier entry register: an attach must own every partition that the old or the new PMASK names; a
failed spill's slots are free again once the entry is set (R259, R286). -/
def State.writeSpill (s : State) (r : Reg) (n : Nat) (m : Master) (off : Nat) (v : W32) : State :=
  let old := s.reg .memSpillPmask 0 n
  let mask := if r = .memSpillPmask then old ||| v else old
  if (List.range 32).any (fun p => mask.getLsbD p && s.foreign m p) then s.hostAccess 255 off else
  let s := s.store r 0 n v
  { s with parts := s.parts.map (fun e => (e.1, { e.2 with
    tslots := e.2.tslots.filter (fun t => !(t.2 == 1 && t.1 / 2 ^ 28 == n)) })) }

/-- A register with a status page address written: the next page write starts SEQ again (R342). -/
def State.writePageAddr (s : State) (r : Reg) (blk idx page : Nat) (v : W32) : State :=
  let kept := page < 32 && s.flag .prtLock page 0 0
  let s := s.store r blk idx v
  if kept then s else { s with host := { s.host with pageSeq := s.host.pageSeq.del page } }

/-- Registers cleared to 0 by a WO bit. -/
def State.clearRegs (s : State) (rs : List Reg) (blk : Nat) : State := rs.foldl (fun s r => s.setReg r blk 0 0) s

/-- What a write does to its register, once it has passed scope and lock. -/
def State.act (s : State) (r : Reg) (blk idx : Nat) (m : Master) (off : Nat) (v : W32) : State :=
  match r with
  | .fldScrCtrl =>
    let s := s.store r blk idx v
    if v.getLsbD 0 then (s.clearRegs [.fldScrEcc] blk).setFld .fldScrCtrl blk 0 31 16 0 else s
  | .fldKvwCtrl => if v.getLsbD 0 then s.clearRegs [.fldKvwStat] blk else s
  | .fldIntCtrl => if v.getLsbD 0 then s.clearRegs [.fldIntCnt0, .fldIntCnt1, .fldIntCnt2] blk else s
  | .prtHbmBase => s.writeWindow blk idx (v &&& 0x8007FFFF) (s.reg .prtHbmSize blk idx)
  | .prtHbmSize => s.writeWindow blk idx (s.reg .prtHbmBase blk idx) (v &&& 0x7FFF)
  | .memEpochCtrl =>
    let s := s.store r blk idx v
    if v.getLsbD 8 then s.epochGo else s
  | .memSpillCtl => s.writeSpill r idx m off v
  | .memSpillPmask => s.writeSpill r idx m off v
  | .memSpillBasel => s.writeSpill r idx m off v
  | .memSpillBaseh => s.writeSpill r idx m off v
  | .memSpillSize => s.writeSpill r idx m off v
  | .prtKvCtrl => s.enable r blk off v (s.kvFits blk) .kvSetupRange
  | .prtSrvCtrl => s.enable r blk off v (s.srvFits blk) .srvSetupRange
  | .prtSrvQuota =>
    if 4096 < s.quotaSum blk 12 0 v || 16384 < s.quotaSum blk 30 16 v then s.log .srvSetupRange blk 0 0 0 off
    else s.store r blk idx v
  | .hifConflict => if v.getLsbD 31 then s.setReg r blk idx 0 else s
  | .prtGroup => if s.badLead blk (regField v 4 0) then s.hostAccess blk off else s.store r blk idx v
  | .prtSqCfg => s.writeSq blk idx off v
  | .prtCqCfg => s.writeCq blk idx off v
  | .prtStpgLo => s.writePageAddr r blk idx blk v
  | .prtStpgHi => s.writePageAddr r blk idx blk v
  | .hifGstpgLo => s.writePageAddr r blk idx (32 + idx) v
  | .hifGstpgHi => s.writePageAddr r blk idx (32 + idx) v
  | .vngNode => s.writeNode v
  | .vngEtype => if s.owns then s.hostAccess 255 off else s.store r blk idx v
  | .vngMirror => s.writeMirror v
  | .prtVngCallen => s.writeCallen blk off v
  | .prtVngFlowq => s.writeFlowq blk off v
  | .prtVngGrplo => s.writeGrplo blk off v
  | .pwrCap => (s.store r blk idx v).recap
  | .pwrFloor => (s.store r blk idx v).recap
  | .pwrCtrl => if v.getLsbD 0 then s.clearRegs [.pwrBwarn] 0 else s
  | .prtPwrStrip => s.writeStripReq blk idx v
  | .prtReset => s.writeReset blk v
  | .glbReset => if regField v 15 0 = 0x4D52 then s.moduleReset 1 else s.hostAccess 255 off
  | .glbMapCtrl => s.writeMapCtrl v
  | _ => s.store r blk idx v

/-! ### The owner of a partition (R327) -/

/-- A change of partition p's owner by a master is accepted (R327). -/
def State.mayOwn (s : State) (m : Master) (p : Nat) : Bool :=
  let free := !s.flag .prtLock p 0 0 && (List.range 8).all (fun r => !s.sqOn p r && !s.cqOn p r)
  let owner := s.ownerOf p
  let down := s.fld .hifLink 0 (b2n owner) 2 0 = 0 && decide (s.host.downSince.atD (b2n owner) 0 + 1000000000 ≤ s.up.time)
  free && (match attachOf m with
    | some b => b == owner || down
    | none => m == .mgmt)

/-- A write of HIF_OWN: each bit that differs is a change of its own, accepted with a zeroising clear or ignored and
logged; the monitor may not write it (R327, R448). -/
def State.writeOwn (s : State) (m : Master) (v : W32) : State :=
  if m = .monitor then s.hostAccess 255 ownOff else
  (List.range 32).foldl (fun s p =>
    if v.getLsbD p == s.ownerOf p then s
    else if !s.mayOwn m p then s.hostAccess p ownOff
    else
      let s := s.setFld .hifOwn 0 0 p p (b2n (v.getLsbD p))
      ({ s with up := { s.up with newOwner := s.up.newOwner.put p (v.getLsbD p) } } : State).askClear p) s

/-! ### The path of a write -/

/-- A BAR0 write of a master at Ready (R8, R10 to R12, R325, R453, R454). -/
def State.writeReg (s : State) (m : Master) (off : Nat) (v : W32) : State :=
  let p := offPart off
  if off % 4 ≠ 0 then s.hostAccess p off else
  match Reg.at? off with
  | none => s.hostAccess p off
  | some (r, blk, idx) =>
    if r = .hifOwn then s.writeOwn m v
    else if s.foreign m p then s.hostAccess p off
    else
      let (v, s) := s.underLock r blk idx p off v
      s.act r blk idx m off v

/-- A new owner's order waits for the clear of its partition (R327). -/
def State.waitsClear (s : State) (m : Master) (off : Nat) (v : W32) : Bool :=
  match attachOf m with
  | none => false
  | some b => s.up.newOwner.any (fun e =>
      if off = ownOff then v.getLsbD e.1 != s.ownerOf e.1 else e.1 == offPart off && s.ownerOf e.1 == b)

/-- A register write as it reaches the module: an attach must be able to carry it, the monitor must be unlocked, and
before Ready nothing is written (R322, R325, R403, R444, R447). -/
def State.busWrite (s : State) (m : Master) (off : Nat) (v : W32) : State :=
  match attachOf m with
  | some b =>
    if !s.attachOpen b then s
    else if !s.ready then s.hostAccess (offPart off) off
    else if s.waitsClear m off v then { s with host := { s.host with heldOrders := s.host.heldOrders ++ [⟨m, false, off, v⟩] } }
    else s.writeReg m off v
  | none =>
    if !s.ready then s
    else if m = .monitor && !s.unlocked then (if off = ownOff then s.hostAccess 255 off else s)
    else s.writeReg m off v

/-- The register write of a command that names a register by block and member. -/
def State.rowWrite (s : State) (m : Master) (r : Reg) (blk idx : Nat) (v : W32) : State :=
  if blk < r.info.blocks ∧ idx < r.info.count then s.busWrite m (r.addr blk idx) v else s

/-! ### The register-write commands -/

/-- FLD_SCR_CTRL_CLR_CNT (R188). -/
def execFldScrCtrlClrCnt (m : Master) (field : Nat) (value : W32) (s : State) : Outcome :=
  .next (s.rowWrite m .fldScrCtrl field 0 value)

/-- MEM_EPOCH_CTRL_GO (R254). -/
def execMemEpochCtrlGo (m : Master) (value : W32) (s : State) : Outcome := .next (s.rowWrite m .memEpochCtrl 0 0 value)

/-- PRT_HBM_WINDOW_WRITE (R246, R247). -/
def execPrtHbmWindowWrite (m : Master) (off : Nat) (value : W32) (s : State) : Outcome := .next (s.busWrite m off value)

/-- MEM_SPILL_ENTRY_WRITE (R259). -/
def execMemSpillEntryWrite (m : Master) (off : Nat) (value : W32) (s : State) : Outcome := .next (s.busWrite m off value)

/-- PRT_KV_CTRL_EN (R292). -/
def execPrtKvCtrlEn (m : Master) (part : Nat) (value : W32) (s : State) : Outcome := .next (s.rowWrite m .prtKvCtrl part 0 value)

/-- FLD_KVW_CTRL_CLR (R293). -/
def execFldKvwCtrlClr (m : Master) (field : Nat) (value : W32) (s : State) : Outcome :=
  .next (s.rowWrite m .fldKvwCtrl field 0 value)

/-- PRT_SRV_CTRL_EN (R319). -/
def execPrtSrvCtrlEn (m : Master) (part : Nat) (value : W32) (s : State) : Outcome := .next (s.rowWrite m .prtSrvCtrl part 0 value)

/-- PRT_SRV_QUOTA_WRITE (R319). -/
def execPrtSrvQuotaWrite (m : Master) (part : Nat) (value : W32) (s : State) : Outcome :=
  .next (s.rowWrite m .prtSrvQuota part 0 value)

/-- HIF_OWN_WRITE (R327). -/
def execHifOwnWrite (m : Master) (value : W32) (s : State) : Outcome := .next (s.rowWrite m .hifOwn 0 0 value)

/-- PRT_GROUP_WRITE (R328). -/
def execPrtGroupWrite (m : Master) (part : Nat) (value : W32) (s : State) : Outcome := .next (s.rowWrite m .prtGroup part 0 value)

/-- PRT_LOCK_SET (R12). -/
def execPrtLockSet (m : Master) (part : Nat) (value : W32) (s : State) : Outcome := .next (s.rowWrite m .prtLock part 0 value)

/-- PRT_SQ_CFG_EN (R336). -/
def execPrtSqCfgEn (m : Master) (part ring : Nat) (value : W32) (s : State) : Outcome :=
  .next (s.rowWrite m .prtSqCfg part ring value)

/-- PRT_CQ_CFG_EN (R336). -/
def execPrtCqCfgEn (m : Master) (part ring : Nat) (value : W32) (s : State) : Outcome :=
  .next (s.rowWrite m .prtCqCfg part ring value)

/-- VNG_NODE_CLAIM (R351). -/
def execVngNodeClaim (m : Master) (value : W32) (s : State) : Outcome := .next (s.rowWrite m .vngNode 0 0 value)

/-- PRT_VNG_CALLEN (R363). -/
def execPrtVngCallen (m : Master) (part : Nat) (value : W32) (s : State) : Outcome :=
  .next (s.rowWrite m .prtVngCallen part 0 value)

/-- VNG_MIRROR_BIND (R369). -/
def execVngMirrorBind (m : Master) (value : W32) (s : State) : Outcome := .next (s.rowWrite m .vngMirror 0 0 value)

/-- PRT_VNG_FLOWQ_WRITE (R371). -/
def execPrtVngFlowqWrite (m : Master) (part : Nat) (value : W32) (s : State) : Outcome :=
  .next (s.rowWrite m .prtVngFlowq part 0 value)

/-- PRT_VNG_GRPLO_EN (R371). -/
def execPrtVngGrploEn (m : Master) (part : Nat) (value : W32) (s : State) : Outcome :=
  .next (s.rowWrite m .prtVngGrplo part 0 value)

/-- PRT_PWR_STRIP_REQ (R375). -/
def execPrtPwrStripReq (m : Master) (part c : Nat) (value : W32) (s : State) : Outcome :=
  .next (s.rowWrite m .prtPwrStrip part c value)

/-- PWR_CTRL_CLR (R400). -/
def execPwrCtrlClr (m : Master) (value : W32) (s : State) : Outcome := .next (s.rowWrite m .pwrCtrl 0 0 value)

/-- PRT_RESET_GO (R410). -/
def execPrtResetGo (m : Master) (part : Nat) (s : State) : Outcome := .next (s.rowWrite m .prtReset part 0 1)

/-- PRT_RESET_ZERO (R411). -/
def execPrtResetZero (m : Master) (part : Nat) (s : State) : Outcome := .next (s.rowWrite m .prtReset part 0 2)

/-- GLB_RESET (R409, R418). -/
def execGlbReset (m : Master) (value : W32) (s : State) : Outcome := .next (s.rowWrite m .glbReset 0 0 value)

/-- GLB_MAP_CTRL_GO (R416). -/
def execGlbMapCtrlGo (m : Master) (value : W32) (s : State) : Outcome := .next (s.rowWrite m .glbMapCtrl 0 0 value)

/-- ERR_ALERT_CLEAR (R437, R445). -/
def execErrAlertClear (m : Master) (value : W32) (s : State) : Outcome := .next (s.rowWrite m .errAlert 0 0 value)

/-- FLD_INT_CTRL_CLR (R460). -/
def execFldIntCtrlClr (m : Master) (field : Nat) (value : W32) (s : State) : Outcome :=
  .next (s.rowWrite m .fldIntCtrl field 0 value)

/-- REGISTER_WRITE (R10). -/
def execRegisterWrite (m : Master) (off : Nat) (value : W32) (s : State) : Outcome := .next (s.busWrite m off value)

/-- BAR0_ACCESS_ERROR: an access of another size or alignment reads 0, writes nothing and is logged; one that is aligned
and of 32 bits is no error (R8). -/
def execBar0AccessError (m : Master) (off size : Nat) (_write : Bool) (s : State) : Outcome :=
  .next (
    let open_ : Bool := match attachOf m with
      | some b => s.attachOpen b
      | none => true
    if !open_ || (size = 4 && off % 4 = 0) then s else s.hostAccess (offPart off) off)

/-! ### Orders with replies (R444, R447, R448) -/

/-- REG_WRITE's write: from Ready (R444). -/
def State.mgmtWrite (s : State) (off : Nat) (v : W32) : State :=
  if !s.ready then s.reply 4 [] else (s.busWrite .mgmt off v).reply 0 []

/-- The monitor's wr: unlocked, from Ready, and never HIF_OWN (R447, R448). -/
def State.monWrite (s : State) (off : Nat) (v : W32) : State :=
  if !s.unlocked then (s.busWrite .monitor off v).print "err locked" []
  else if !s.ready then s.print "err not ready" []
  else (s.busWrite .monitor off v).print (if off = ownOff then "err refused" else "ok") []

/-! ### The set-up arbiter (R326) -/

/-- The partitions that an order acts on. -/
def State.orderParts (s : State) (o : Order) : List Nat :=
  if o.bar2 then [o.off / 0x8000]
  else if o.off = ownOff then (List.range 32).filter (fun p => o.value.getLsbD p != s.ownerOf p)
  else if offPart o.off < 32 then [offPart o.off] else []

/-- The place of an order in rank, attach A before attach B (R325, R326). -/
def State.orderRank (s : State) (o : Order) : Nat :=
  match o.master with
  | .safety => 0
  | .mgmt => 1
  | .attachA => if (s.orderParts o).any (s.foreign .attachA) then 4 else 2
  | .attachB => if (s.orderParts o).any (s.foreign .attachB) then 5 else 3
  | .monitor => 6

/-- The partitions that an order would take over. -/
def State.takes (s : State) (o : Order) : List Nat :=
  if o.bar2 || o.off ≠ ownOff then [] else (s.orderParts o).filter (s.foreign o.master)

/-- Two orders of different masters contradict each other: different values for one field, or a takeover of a
partition that the other acts on (R326). -/
def State.contradict (s : State) (a b : Order) : Bool :=
  let fields : W32 := match Reg.at? a.off with
    | some (r, _, _) => BitVec.ofNat 32 (r.info.rw ||| r.info.rwl ||| r.info.w1c ||| r.info.w1s ||| r.info.wo)
    | none => 0
  a.master ≠ b.master &&
    ((!a.bar2 && !b.bar2 && a.off == b.off && (a.value ^^^ b.value) &&& fields != 0) ||
      (s.takes a).any (fun p => (s.orderParts b).contains p) || (s.takes b).any (fun p => (s.orderParts a).contains p))

/-- An order loses: an attach's is recorded, the bus and the monitor hear of it (R326, R444, R448). -/
def State.loseOrder (s : State) (o : Order) : State :=
  match o.master with
  | .mgmt => s.reply 1 []
  | .monitor => s.print "err conflict" []
  | .safety => s
  | m =>
    let a := if m = .attachB then 1 else 0
    let s := ((s.addFld .hifConflict 0 a 30 24 1).setFld .hifConflict 0 a 23 0 o.off).setFld .hifConflict 0 a 31 31 1
    { s with host := { s.host with lost := s.host.lost.put a ((s.host.lost.atD a 0 + 1) % 2 ^ 32) } }

/-- An order takes effect. -/
def State.runOrder (s : State) (o : Order) : State :=
  if o.bar2 then
    let p := o.off / 0x8000
    let r := o.off % 0x8000 / 0x1000
    match attachOf o.master with
    | none => s
    | some b =>
      if 32 ≤ p || !s.attachOpen b then s
      else if o.off % 0x1000 = 0 then s.doorbellWrite o.master p r false o.value
      else if o.off % 0x1000 = 4 then s.doorbellWrite o.master p r true o.value
      else s.hostAccess p o.off
  else match o.master with
    | .mgmt => s.mgmtWrite o.off o.value
    | .monitor => s.monWrite o.off o.value
    | m => s.busWrite m o.off o.value

/-- An order reaches the arbiter: its attach carries it (R322), the monitor is unlocked (R325), and the module is at
Ready (R403). Others take their own way at once. -/
def State.reaches (s : State) (o : Order) : Bool :=
  s.ready && (match attachOf o.master with
    | some b => s.attachOpen b
    | none => o.master != .monitor || s.unlocked)

/-- Orders in rank order, and in order of arrival within one rank. -/
def State.ranked (s : State) (os : List Order) : List Order :=
  (List.range 7).flatMap (fun k => os.filter (fun o => s.orderRank o == k))

/-- The orders that stand, in rank order, and those that lose (R326). A doorbell never loses. -/
def State.resolve (s : State) : List Order → List Order → List Order → List Order × List Order
  | [], won, lost => (won, lost)
  | o :: os, won, lost =>
    if !o.bar2 && won.any (s.contradict o) then s.resolve os won (lost ++ [o]) else s.resolve os (won ++ [o]) lost

/-- Doorbells that stand next to each other are taken by partition, then ring (R326). -/
def sortDoors (os : List Order) : List Order :=
  (os.foldl (fun acc o =>
    if o.bar2 then
      let run := acc.takeWhile (fun w => w.bar2 && decide (o.off / 0x1000 < w.off / 0x1000))
      run ++ (o :: acc.drop run.length)
    else o :: acc) []).reverse

/-- An order asks for a clove-row map epoch, which waits for a partition reset ordered with it (R416, R419). -/
def orderMapEpoch (o : Order) : Bool := !o.bar2 && o.off == Reg.glbMapCtrl.addr 0 0

/-- MESSAGE_TIME_END: 1 µs has passed, and its orders are resolved and take effect (R326, R419). -/
def execMessageTimeEnd (orders : List Order) (s : State) : Outcome :=
  .next (
    let s : State := { s with up := { s.up with time := s.up.time + 1000 } }
    let here := orders.filter s.reaches
    let s := (orders.filter (fun o => !s.reaches o)).foldl (fun s o => s.runOrder o) s
    let (won, lost) := s.resolve (s.ranked here) [] []
    let s := lost.foldl (fun s o => s.loseOrder o) s
    let won := sortDoors won
    (won.filter (fun o => !orderMapEpoch o) ++ won.filter orderMapEpoch).foldl (fun s o => s.runOrder o) s)

/-! ### The end of a zeroising clear (R327, R411) -/

/-- Orders that waited for a clear take effect, in order of arrival (R327). -/
def State.releaseOrders (s : State) : State :=
  let os := s.host.heldOrders
  os.foldl (fun s o => s.runOrder o) { s with host := { s.host with heldOrders := [] } }

/-- ZEROISING_CLEAR_DONE: scratchpads and windows zero, no tier entry, the registers at reset, paused requests gone, and
a new owner's orders take effect (R327, R411). -/
def execZeroisingClearDone (part : Nat) (s : State) : Outcome :=
  .next (
    if !s.up.clears.contains part || (s.up.resets.at? (s.lead part)).isSome then s else
    let here (k : Nat) : Bool := partOf (cloveX k) (cloveY k) == part
    let s : State := { s with cloves := s.cloves.map (fun e => if here e.1 then (e.1, { e.2 with scratch := [] }) else e) }
    let s := s.clearWindows part
    let s := (List.range 16).foldl (fun s n => s.setFld .memSpillPmask 0 n part part 0) s
    let s := s.clearPart part
    let s : State := { s with up := { s.up with
      clears := s.up.clears.filter (· ≠ part), newOwner := s.up.newOwner.del part } }
    (s.setFld .prtReset part 0 3 3 1).releaseOrders)

/-! ### Reads (R10, R453, R455) -/

/-- The value that a register reads: stored bits, but for WO bits and for the fields that follow the state (R10). -/
def State.readAs (s : State) (r : Reg) (blk idx : Nat) : W32 :=
  let v := s.reg r blk idx &&& ~~~(BitVec.ofNat 32 r.info.wo)
  match r with
  | .hifLink =>
    if s.fld r blk idx 2 0 ≠ 0 then v
    else regWith v 31 9 (Min.min ((s.up.time - s.host.downSince.atD idx 0) / 1000000) (2 ^ 23 - 1))
  | .pwrAllot => if s.pwr.leased then regWith v 31 16 (ceilDiv (s.pwr.leaseEnd - s.up.time) 100000000) else v
  | .glbStart => if s.ready then v else regWith v 31 8 (Min.min ((s.up.time - s.up.began) / 1000000) (2 ^ 24 - 1))
  | .errLogData =>
    match s.err.log.at? (s.fld .errLogSel 0 0 11 0) with
    | some e => BitVec.ofNat 32 (leAt e.bytes (4 * idx) 4)
    | none => 0
  | .fldClvCnt =>
    let x := s.fld .fldClvSel blk 0 6 0
    let y := s.fld .fldClvSel blk 0 13 7
    if 87 < y then 0 else
    let c := s.clove (cloveNo (blk % 12 * 128 + x) (blk / 12 * 88 + y))
    BitVec.ofNat 32 (c.mismA + 256 * c.mismB + 65536 * c.scrUe)
  | _ => v

/-- The value that a BAR0 offset reads from step 8 on: 0 where it holds no register (R453). -/
def State.readBar (s : State) (off : Nat) : W32 :=
  match Reg.at? off with
  | some (r, blk, idx) => s.readAs r blk idx
  | none => 0

end Sys2Proof.Machine
end

