-- ==== Sys2Proof/Machine/Mgmt.lean ====
section
/-! DEFINITION. The management bus agent (R439 to R445): its commands and their replies, address resolution, and the
alert line. -/
namespace Sys2Proof.Machine

/-! ### Reply data (Tables 17.2, 17.4) -/

/-- The start-up step reached. -/
def State.stepNo (s : State) : Nat := s.fld .glbStart 0 0 3 0

/-- GET_ID's data (R41, R444). -/
def State.idData (s : State) : List Byte :=
  [0x42, 0x54, 0x31, 0x57, 0x2D, 0x41, 0x31, 0x00, 0xA1] ++ leBytes 12 Config.serial.toNat ++ leBytes 16 Config.uid.toNat ++
    leBytes 1 s.settings.1 ++ leBytes 4 (s.reg .glbFw 0 0).toNat ++ leBytes 1 (s.fld .glbStart 0 0 6 6)

/-- GET_ENV's data (R444). -/
def State.envData (s : State) : List Byte :=
  leBytes 4 s.pwr.mv ++ leBytes 2 s.pwr.i1 ++ leBytes 2 s.pwr.i2 ++ leBytes 2 (ofSigned 16 s.pwr.inlet) ++
    leBytes 2 (ofSigned 16 s.pwr.outlet) ++ leBytes 2 s.pwr.flow ++ leBytes 2 (ofSigned 16 s.pwr.air) ++ leBytes 2 s.pwr.rh ++
    leBytes 2 (ofSigned 16 s.pwr.margin)

/-- Bytes off to off + len − 1 of a status page as last composed; fields not yet known read 0 (R444). -/
def pageBytes (page : List Byte) (off len : Nat) : List Byte := ((padTo 1024 page).drop off).take len

/-- n registers from an offset on, with a record for each access that is not aligned (R8, R453). -/
def State.readRegs (s : State) (off : Nat) : Nat → List Byte × State
  | 0 => ([], s)
  | n + 1 =>
    let v : W32 := if off % 4 = 0 then s.readBar off else 0
    let s := if off % 4 = 0 then s else s.hostAccess (offPart off) off
    let (bs, s) := s.readRegs (off + 4) n
    (leBytes 4 v.toNat ++ bs, s)

/-- A record of the volatile log by slot; an empty slot reads 0 (R434). -/
def State.logSlot (s : State) (i : Nat) : List Byte :=
  match s.err.log.at? (i % 4096) with
  | some r => r.bytes
  | none => List.replicate 32 0

/-- An entry of the persistent log (R435); an erased one reads as the flash leaves it (log entry 41). -/
def State.plogSlot (s : State) (i : Nat) : List Byte :=
  match s.err.plog.at? (i % plogEntries) with
  | some (r, n) =>
    let b := r.bytes ++ leBytes 4 n ++ List.replicate 20 0
    b ++ leBytes 8 (crc64 b)
  | none => List.replicate 64 Config.erasedByte

/-- n records of a log from an index on: 0 volatile, 1 persistent. -/
def State.logData (s : State) (src index n : Nat) : List Byte :=
  (List.range n).flatMap (fun i => if src = 0 then s.logSlot (index + i) else s.plogSlot (index + i))

/-! ### Commands (R443, R444) -/

/-- A command that the agent serves: its domain has power and it has an address (R441). -/
def State.managed (s : State) (f : State → State) : State := if s.domOn 1290 && s.addressed then f s else s

/-- A reply of a status alone. -/
def State.status (s : State) (st : Nat) : State := s.reply st []

/-- GET_ID (R444). -/
def execGetId (s : State) : Outcome := .next (s.managed (fun s => s.reply 0 s.idData))

/-- GET_STATUS (R444). -/
def execGetStatus (off len : Nat) (s : State) : Outcome :=
  .next (s.managed (fun s =>
    if len = 0 || 240 < len || 1024 < off + len then s.status 2
    else if s.stepNo < 2 then s.status 4
    else s.reply 0 (pageBytes s.host.gpage off len)))

/-- GET_ENV (R444). -/
def execGetEnv (s : State) : Outcome := .next (s.managed (fun s => s.reply 0 s.envData))

/-- SET_ALLOT (R380, R444). -/
def execSetAllot (allot lease : Nat) (s : State) : Outcome :=
  .next (s.managed (fun s =>
    if lease = 0 || 600 < lease || 65536 ≤ allot then s.status 2
    else if s.stepNo < 2 then s.status 4
    else (s.setAllot allot lease).status 0))

/-- SET_GRADE: the extended grade only while the flow has been at least 40 L/min for 10 s (R34, R444). -/
def execSetGrade (grade : Nat) (s : State) : Outcome :=
  .next (s.managed (fun s =>
    if 1 < grade then s.status 2
    else if grade = 1 && !s.pwr.flow40 then s.status 3
    else ((s.writeSettings grade s.settings.2).setFld .pwrStat 0 0 12 12 grade).recap.status 0))

/-- SET_NODE (R444). -/
def execSetNode (want : Nat) (s : State) : Outcome :=
  .next (s.managed (fun s =>
    if 0xFFFFFF < want then s.status 2
    else ((s.writeSettings s.settings.1 want).setFld .vngNode 0 0 23 0 want).status 0))

/-- SET_MONKEY (R444, R449). -/
def execSetMonkey (key : BitVec 256) (s : State) : Outcome :=
  .next (s.managed (fun s =>
    (({ s with flash := { s.flash with monkey := key } } : State).setFld .mgtMon 0 0 4 4 0).status 0))

/-- GET_LAST repeats the last reply and leaves it the last (R443, R444). -/
def execGetLast (s : State) : Outcome :=
  .next (s.managed (fun s =>
    let r := s.mgmt.last.getD (3, [])
    { s with mgmt := { s.mgmt with out := s.mgmt.out ++ [r] } }))

/-- REG_READ (R444). -/
def execRegRead (off count : Nat) (s : State) : Outcome :=
  .next (s.managed (fun s =>
    if count = 0 || 60 < count then s.status 2
    else if s.stepNo < 8 then s.status 4
    else
      let (bs, s) := s.readRegs off count
      s.reply 0 bs))

/-- REG_WRITE (R444). -/
def execRegWrite (off : Nat) (value : W32) (s : State) : Outcome := .next (s.managed (fun s => s.mgmtWrite off value))

/-- The domain of a DOMAIN command: a stack or a port. -/
def domainOf (kind index : Nat) : Nat := if kind = 0 then 1248 + index else 1272 + index

/-- An enabled window overlaps a stack. -/
def State.stackInUse (s : State) (k : Nat) : Bool :=
  (List.range 32).any (fun p => (s.windows p).any (rangesMeet (k * stackSpan, stackSpan)))

/-- DOMAIN (R374, R444, Table 14.1); before start-up step 2 no domain may be asked for (log entry 42). -/
def execDomain (kind index on : Nat) (s : State) : Outcome :=
  .next (s.managed (fun s =>
    if 1 < kind || 1 < on || (if kind = 0 then 24 else 14) ≤ index then s.status 2
    else if s.stepNo < 2 then s.status 4
    else if kind = 0 && on = 0 && s.stackInUse index then s.status 3
    else (if on = 1 then s.requestOn (domainOf kind index) else s.requestOff (domainOf kind index)).status 0))

/-- PAIR_RESET; a pair that is not in service is refused (R412, R444). -/
def execPairReset (pair : Nat) (s : State) : Outcome :=
  .next (s.managed (fun s =>
    if 3 < pair then s.status 2
    else if !s.flag .glbCumin 0 0 pair then s.status 3
    else (s.resetPair pair 2 false).status 0))

/-- Service block B may not take over: it is retired or already active (R444). -/
def State.noTakeover (s : State) : Bool := s.flag .glbStart 0 0 7 || s.flash.blockBRetired

/-- TAKEOVER (R413, R444). -/
def execTakeover (s : State) : Outcome :=
  .next (s.managed (fun s => if s.noTakeover then s.status 3 else (s.status 0).takeover))

/-- MODULE_RESET (R409, R444). -/
def execModuleReset (key : Nat) (s : State) : Outcome :=
  .next (s.managed (fun s => if key = 0x4D52 then (s.status 0).moduleReset 2 else s.status 2))

/-- LOG_READ (R434, R435, R444). -/
def execLogRead (src index count : Nat) (s : State) : Outcome :=
  .next (s.managed (fun s =>
    if 1 < src || count = 0 || (if src = 0 then 7 else 3) < count || (if src = 0 then 4096 else plogEntries) ≤ index then s.status 2
    else s.reply 0 (s.logData src index count)))

/-- The OPCs of Table 17.4. -/
def knownOpcs : List Nat :=
  [0x01, 0x02, 0x03, 0x04, 0x05, 0x06, 0x07, 0x0F, 0x10, 0x11, 0x20, 0x21, 0x22, 0x23, 0x30]

/-- UNKNOWN_OPC (R443). -/
def execUnknownOpc (opc : Nat) (s : State) : Outcome :=
  .next (s.managed (fun s => if knownOpcs.contains opc then s else s.status 2))

/-! ### Address resolution (R440 to R442) -/

/-- The agent's unique device identifier (Table 17.2), its first field in the highest bits. -/
def agentUdid : BitVec 128 :=
  (0x81 : BitVec 8) ++ (0x09 : BitVec 8) ++ Config.vendorId ++ (0x0B71 : BitVec 16) ++ Config.smbusInterface ++ Config.vendorId ++
    Config.uid.extractLsb' 32 16 ++ Config.uid.extractLsb' 0 32

/-- An ARP command or an Alert Response read that the agent sees: its domain has power. -/
def State.onBus (s : State) (f : State → State) : State := if s.domOn 1290 then f s else s

/-- An answer on the bus. -/
def State.answerBus (s : State) (bs : List Byte) : State := { s with mgmt := { s.mgmt with arp := s.mgmt.arp ++ [bs] } }

/-- ASSIGN_ADDRESS: a matching identifier takes the address and sets AV and AR; step 9 is done (R441). -/
def execAssignAddress (udid : BitVec 128) (addr : Nat) (s : State) : Outcome :=
  .next (s.onBus (fun s =>
    if udid ≠ agentUdid then s else
    let s := ((s.setFld .mgtSmb 0 0 6 0 addr).setFld .mgtSmb 0 0 7 7 1).setFld .mgtSmb 0 0 8 8 1
    let s : State := { s with mgmt := { s.mgmt with notifyDue := 0 } }
    if s.stepNo = 9 then s.nextStep 10 else s))

/-- PREPARE_TO_ARP (R441). -/
def execPrepareToArp (s : State) : Outcome := .next (s.onBus (fun s => s.setFld .mgtSmb 0 0 8 8 0))

/-- A command is general, or directed at the agent's address. -/
def State.forAgent (s : State) (directed : Option Nat) : Bool :=
  match directed with
  | none => true
  | some a => s.addressed && s.fld .mgtSmb 0 0 6 0 == a

/-- RESET_DEVICE, general or directed at an address (R441). -/
def execResetDevice (directed : Option Nat) (s : State) : Outcome :=
  .next (s.onBus (fun s =>
    if s.forAgent directed then (s.setFld .mgtSmb 0 0 8 8 0).setFld .mgtSmb 0 0 7 7 0 else s))

/-- The agent's address as SMBus ARP answers it: 0xFF while it has none (R441, log entry 43). -/
def State.arpAddress (s : State) : Byte :=
  if s.addressed then BitVec.ofNat 8 (2 * s.fld .mgtSmb 0 0 6 0 + 1) else 0xFF

/-- GET_UDID: a general one only while AR is clear (R441). -/
def execGetUdid (directed : Option Nat) (s : State) : Outcome :=
  .next (s.onBus (fun s =>
    if s.forAgent directed && (directed.isSome || !s.flag .mgtSmb 0 0 8) then
      s.answerBus ((leBytes 16 agentUdid.toNat).reverse ++ [s.arpAddress])
    else s))

/-- ALERT_RESPONSE_ADDRESS: an agent that asserts the line answers with its address, and releases the line if it wins
(R445). -/
def execAlertResponseAddress (wins : Bool) (s : State) : Outcome :=
  .next (s.onBus (fun s =>
    if s.alertLine && wins then
      ({ s with mgmt := { s.mgmt with released := true } } : State).answerBus [BitVec.ofNat 8 (2 * s.fld .mgtSmb 0 0 6 0)]
    else s))

/-- NOTIFY_ARP_MASTER: 1 s has passed without an address and the notify is repeated, 30 times at most; one that loses
arbitration waits for the bus (R441, R442). -/
def execNotifyArpMaster (lost : Bool) (s : State) : Outcome :=
  .next (s.onBus (fun s =>
    if s.addressed || s.stepNo < 9 || 30 ≤ s.mgmt.notifies then s else
    let s : State := { s with mgmt := { s.mgmt with notifies := s.mgmt.notifies + 1 } }
    if lost then { s with mgmt := { s.mgmt with notifyDue := 3 } } else s.notifySent))

/-- BUS_FREE: a notify that lost arbitration is sent again, at most 3 times (R442). -/
def execBusFree (lost : Bool) (s : State) : Outcome :=
  .next (s.onBus (fun s =>
    if s.mgmt.notifyDue = 0 then s
    else if lost then { s with mgmt := { s.mgmt with notifyDue := s.mgmt.notifyDue - 1 } }
    else s.notifySent))

/-- SMBUS_CLOCK_TIMEOUT: the transaction is discarded (R439). -/
def execSmbusClockTimeout (s : State) : Outcome :=
  .next (s.onBus (fun s => { s with mgmt := { s.mgmt with discarded := s.mgmt.discarded + 1 } }))

end Sys2Proof.Machine
end

