-- ==== Sys2Proof/Machine/Sha.lean ====
section
/-! DEFINITION. HMAC-SHA-256 (FIPS 198-1, FIPS 180-4), which R449 names for the monitor's challenge and response (log
entry 84). -/
namespace Sys2Proof.Machine

/-! ### Constants: bits of the roots of the first primes -/

/-- The first primes, up to 311, the 64th. -/
def shaPrimes : List Nat := (List.range 312).filter (fun n => decide (2 ≤ n) && (List.range n).all (fun d => decide (d < 2) || n % d != 0))

/-- The largest r below 2^36 with r^k at most n, bit by bit from the highest. -/
def intRoot (k n : Nat) : Nat := (List.range 36).foldr (fun i r => if (r + 2 ^ i) ^ k ≤ n then r + 2 ^ i else r) 0

/-- The first 32 bits of the fraction of the k-th root of n. -/
def rootBits (k n : Nat) : W32 := BitVec.ofNat 32 (intRoot k (n * 2 ^ (32 * k)))

/-- The constants of the rounds: cube roots of 64 primes. -/
def shaConstants : List W32 := shaPrimes.map (rootBits 3)

/-- The chaining value before the first block: square roots of 8 primes. -/
def shaStart : List W32 := (shaPrimes.take 8).map (rootBits 2)

/-! ### The compression function, over the histories of its two registers -/

/-- A word turned right by three counts and joined; the third is a shift where the flag says so. -/
def stir (x : W32) (i j k : Nat) (shift : Bool) : W32 :=
  x.rotateRight i ^^^ x.rotateRight j ^^^ (if shift then x >>> k else x.rotateRight k)

/-- The next word of the message, from the 16 before it, oldest first. -/
def nextWord (w : List W32) : W32 :=
  w.getD 0 0 + stir (w.getD 1 0) 7 18 3 true + w.getD 9 0 + stir (w.getD 14 0) 17 19 10 true

/-- One round. The eight working words are the last four values of two registers A and E, newest first; beside them
go the next 16 words of the message. -/
def shaStep (v : List (W32 × W32) × List W32) (k : W32) : List (W32 × W32) × List W32 :=
  let a (i : Nat) : W32 := (v.1.getD i (0, 0)).1
  let e (i : Nat) : W32 := (v.1.getD i (0, 0)).2
  let choice := e 2 ^^^ (e 0 &&& (e 1 ^^^ e 2))
  let most := (a 0 &&& a 1) ||| (a 2 &&& (a 0 ||| a 1))
  let t := e 3 + stir (e 0) 6 11 25 false + choice + k + v.2.getD 0 0
  ((t + stir (a 0) 2 13 22 false + most, a 3 + t) :: v.1.take 3, v.2.drop 1 ++ [nextWord v.2])

/-- A block of 16 words taken into a chaining value of 8 words. -/
def shaTake (h : List W32) (block : List W32) : List W32 :=
  let v := (shaConstants.foldl shaStep ((h.take 4).zip (h.drop 4), block)).1
  List.zipWith (· + ·) h (v.map (·.1) ++ v.map (·.2))

/-! ### Messages -/

/-- The number that bytes spell, most significant first. -/
def beNat (bs : List Byte) : Nat := leNat bs.reverse

/-- A message closed by a one bit, zeros, and its length in bits, to whole blocks of 64 bytes. -/
def shaClosed (m : List Byte) : List Byte :=
  let n := (m.length + 9 + 63) / 64 * 64
  padTo (n - 8) (m ++ [0x80]) ++ beBytes 8 (8 * m.length)

/-- The words of block i of a closed message. -/
def shaWords (m : List Byte) (i : Nat) : List W32 :=
  (List.range 16).map (fun j => BitVec.ofNat 32 (beNat ((m.drop (64 * i + 4 * j)).take 4)))

/-- SHA-256 of a message, as 32 bytes. -/
def sha256 (m : List Byte) : List Byte :=
  let c := shaClosed m
  ((List.range (c.length / 64)).foldl (fun h i => shaTake h (shaWords c i)) shaStart).flatMap (fun w => beBytes 4 w.toNat)

/-- HMAC-SHA-256 with a key of at most 64 bytes. -/
def hmacSha256 (key m : List Byte) : List Byte :=
  let keyed (pad : Byte) (bs : List Byte) : List Byte := sha256 ((padTo 64 key).map (fun b => pad ^^^ b) ++ bs)
  keyed 0x5c (keyed 0x36 m)

end Sys2Proof.Machine
end

