-- ==== Sys2Proof/Machine/Monitor.lean ====
section
/-! DEFINITION. The Giquemet monitor (R446 to R449): its commands, their replies, its lock and its line rate. -/
namespace Sys2Proof.Machine

/-- A complete line that the monitor takes: it runs from the end of start-up step 2 (R446). A line keeps a new rate. -/
def State.line (s : State) (f : State → State) : State :=
  if s.stepNo < 3 then s else f { s with mgmt := { s.mgmt with baudNew := false } }

/-- A reply of data and the line ok. -/
def State.say (s : State) (data : List Byte) : State := s.print "ok" data

/-- A command that the monitor takes only unlocked (R447). -/
def State.unlockedLine (s : State) (f : State → State) : State :=
  s.line (fun s => if s.unlocked then f s else s.print "err locked" [])

/-- help (R447). -/
def execMonHelp (s : State) : Outcome :=
  .next (s.line (fun s =>
    (s.print "help id step rd page env log baud unlock lock wr reset takeover" []).say []))

/-- id (R447). -/
def execMonId (s : State) : Outcome := .next (s.line (fun s => s.say s.idData))

/-- step (R447). -/
def execMonStep (s : State) : Outcome := .next (s.line (fun s => s.say (leBytes 4 (s.readAs .glbStart 0 0).toNat)))

/-- rd (R447). -/
def execMonRd (off n : Nat) (s : State) : Outcome :=
  .next (s.line (fun s =>
    if n = 0 || 64 < n then s.print "err range" []
    else if s.stepNo < 8 then s.print "err not ready" []
    else
      let (bs, s) := s.readRegs off n
      s.say bs))

/-- page, 32 for the global page (R447). -/
def execMonPage (page off len : Nat) (s : State) : Outcome :=
  .next (s.line (fun s =>
    if 32 < page || 256 < len || 1024 < off + len then s.print "err range" []
    else s.say (pageBytes (if page = 32 then s.host.gpage else s.host.ppages.atD page []) off len)))

/-- env (R447). -/
def execMonEnv (s : State) : Outcome := .next (s.line (fun s => s.say s.envData))

/-- log (R447). -/
def execMonLog (src index n : Nat) (s : State) : Outcome :=
  .next (s.line (fun s =>
    if 1 < src || n = 0 || 16 < n || (if src = 0 then 4096 else plogEntries) ≤ index then s.print "err range" []
    else s.say (s.logData src index n)))

/-- The rates of R446, in order. -/
def baudRates : List Nat := [115200, 230400, 460800, 921600, 1000000, 2000000, 3000000]

/-- baud: the new rate applies after the reply (R446). -/
def execMonBaud (rate : Nat) (s : State) : Outcome :=
  .next (s.line (fun s =>
    match baudRates.findIdx? (· == rate) with
    | none => s.print "err range" []
    | some i =>
      let s := (s.say []).setFld .mgtMon 0 0 3 0 i
      { s with mgmt := { s.mgmt with baudNew := true } }))

/-- BAUD_REVERT: no complete line within 10 s of a change (R446). -/
def execBaudRevert (s : State) : Outcome :=
  .next (if s.mgmt.baudNew then ({ s with mgmt := { s.mgmt with baudNew := false } } : State).setFld .mgtMon 0 0 3 0 0 else s)

/-! ### The lock (R449) -/

/-- The right response to a challenge: the first 4 bytes of the HMAC of the challenge and the UID under the monitor
key (R449). -/
def responseTo (key : BitVec 256) (c : W32) : W32 :=
  BitVec.ofNat 32 (beNat ((hmacSha256 (leBytes 32 key.toNat) (beBytes 4 c.toNat ++ leBytes 16 Config.uid.toNat)).take 4))

/-- A failed unlock: from the third in a row on, a lockout that doubles up to 3,600 s (R449). -/
def State.unlockFailed (s : State) : State :=
  let s := s.addFld .mgtMon 0 0 9 6 1
  if s.fld .mgtMon 0 0 9 6 < 3 then s else
  let t := if s.mgmt.lockout = 0 then 60 else Min.min 3600 (2 * s.mgmt.lockout)
  ({ s with mgmt := { s.mgmt with lockout := t } } : State).setFld .mgtMon 0 0 5 5 1

/-- unlock, which prints a challenge or checks a response (R449). -/
def execMonUnlock (resp : Option W32) (s : State) : Outcome :=
  .next (s.line (fun s =>
    if s.flag .mgtMon 0 0 5 then s.print "err lockout" [] else
    match resp with
    | none =>
      let (v, s) := s.draw
      let c : W32 := v.setWidth 32
      (({ s with mgmt := { s.mgmt with challenge := some c } } : State).print "challenge" (beBytes 4 c.toNat)).say []
    | some r =>
      let good := s.mgmt.challenge.any (fun c => r == responseTo s.flash.monkey c)
      let s : State := { s with mgmt := { s.mgmt with challenge := none } }
      if good then
        let s := (s.setFld .mgtMon 0 0 4 4 1).setFld .mgtMon 0 0 9 6 0
        ({ s with mgmt := { s.mgmt with lockout := 0 } } : State).say []
      else s.unlockFailed.print "err denied" []))

/-- The monitor locks. -/
def State.lockMonitor (s : State) : State := s.setFld .mgtMon 0 0 4 4 0

/-- lock (R449). -/
def execMonLock (s : State) : Outcome := .next (s.line (fun s => s.lockMonitor.say []))

/-- MONITOR_IDLE_LOCK: 30 min without a line (R449). -/
def execMonitorIdleLock (s : State) : Outcome := .next s.lockMonitor

/-- CHALLENGE_EXPIRY: 60 s have passed (R449). -/
def execChallengeExpiry (s : State) : Outcome := .next { s with mgmt := { s.mgmt with challenge := none } }

/-- UNLOCK_LOCKOUT_END (R449). -/
def execUnlockLockoutEnd (s : State) : Outcome := .next (s.setFld .mgtMon 0 0 5 5 0)

/-! ### Orders (R447, R448) -/

/-- wr (R447, R448). -/
def execMonWr (off : Nat) (value : W32) (s : State) : Outcome := .next (s.line (fun s => s.monWrite off value))

/-- reset module (R447). -/
def execMonResetModule (s : State) : Outcome := .next (s.unlockedLine (fun s => (s.say []).moduleReset 1))

/-- reset pair; its PAIR_RESET record has cause 3 (R412, R447, log entry 36). -/
def execMonResetPair (pair : Nat) (s : State) : Outcome :=
  .next (s.unlockedLine (fun s =>
    if 3 < pair then s.print "err range" []
    else if !s.flag .glbCumin 0 0 pair then s.print "err refused" []
    else (s.resetPair pair 3 false).say []))

/-- takeover (R413, R447). -/
def execMonTakeover (s : State) : Outcome :=
  .next (s.unlockedLine (fun s => if s.noTakeover then s.print "err refused" [] else (s.say []).takeover))

end Sys2Proof.Machine
end

