-- ==== Sys2Proof/Machine/Dispatch.lean ====
section
/-! DEFINITION. The dispatch of commands to their meanings: one arm per constructor of Instr. -/
namespace Sys2Proof.Machine

def exec (i : Instr) (s : State) : Host.Outcome State Fault Refusal :=
  match i with
  | .modResetNLow => Sys2Proof.Machine.execModResetNLow s
  | .modResetNHigh => Sys2Proof.Machine.execModResetNHigh s
  | .busbarGood => Sys2Proof.Machine.execBusbarGood s
  | .busbarBrownoutWarn mv => Sys2Proof.Machine.execBusbarBrownoutWarn mv s
  | .busbarWarnClear mv => Sys2Proof.Machine.execBusbarWarnClear mv s
  | .powerLoss => Sys2Proof.Machine.execPowerLoss s
  | .clampLimit mv i1 i2 => Sys2Proof.Machine.execClampLimit mv i1 i2 s
  | .openClamp i1 i2 => Sys2Proof.Machine.execOpenClamp i1 i2 s
  | .coolantSensorUpdate inlet outlet flow => Sys2Proof.Machine.execCoolantSensorUpdate inlet outlet flow s
  | .coolantFlowReturn => Sys2Proof.Machine.execCoolantFlowReturn s
  | .flowSafetyTimeout => Sys2Proof.Machine.execFlowSafetyTimeout s
  | .airSensorUpdate temp rh margin => Sys2Proof.Machine.execAirSensorUpdate temp rh margin s
  | .stripTempUpdate field strip temp => Sys2Proof.Machine.execStripTempUpdate field strip temp s
  | .hbmTempUpdate stack temp => Sys2Proof.Machine.execHbmTempUpdate stack temp s
  | .fieldBrownoutWarn field mv => Sys2Proof.Machine.execFieldBrownoutWarn field mv s
  | .fieldBrownoutEnd field mv us => Sys2Proof.Machine.execFieldBrownoutEnd field mv us s
  | .fieldOvercurrent field mv => Sys2Proof.Machine.execFieldOvercurrent field mv s
  | .phaseFail field => Sys2Proof.Machine.execPhaseFail field s
  | .phaseSpareIn field => Sys2Proof.Machine.execPhaseSpareIn field s
  | .gangCfg w => Sys2Proof.Machine.execGangCfg w s
  | .load w => Sys2Proof.Machine.execLoad w s
  | .swap w => Sys2Proof.Machine.execSwap w s
  | .stream w => Sys2Proof.Machine.execStream w s
  | .vectorResult a upsets => Sys2Proof.Machine.execVectorResult a upsets s
  | .drainDone a upsets => Sys2Proof.Machine.execDrainDone a upsets s
  | .passStallResume a => Sys2Proof.Machine.execPassStallResume a s
  | .sfuElem w => Sys2Proof.Machine.execSfuElem w s
  | .sfuBin w => Sys2Proof.Machine.execSfuBin w s
  | .sfuMoments w => Sys2Proof.Machine.execSfuMoments w s
  | .sfuMerge w => Sys2Proof.Machine.execSfuMerge w s
  | .sfuNorm w => Sys2Proof.Machine.execSfuNorm w s
  | .sfuSmaxfin w => Sys2Proof.Machine.execSfuSmaxfin w s
  | .epiWrite w => Sys2Proof.Machine.execEpiWrite w s
  | .rgnSet w => Sys2Proof.Machine.execRgnSet w s
  | .pop w => Sys2Proof.Machine.execPop w s
  | .drop w => Sys2Proof.Machine.execDrop w s
  | .remoteRead w => Sys2Proof.Machine.execRemoteRead w s
  | .remoteWrite w => Sys2Proof.Machine.execRemoteWrite w s
  | .remoteSlot w => Sys2Proof.Machine.execRemoteSlot w s
  | .remoteUnbind w => Sys2Proof.Machine.execRemoteUnbind w s
  | .remoteAccessArrival src dst => Sys2Proof.Machine.execRemoteAccessArrival src dst s
  | .remoteAck src dst => Sys2Proof.Machine.execRemoteAck src dst s
  | .grantArrival src dst => Sys2Proof.Machine.execGrantArrival src dst s
  | .creditReturnArrival src dst => Sys2Proof.Machine.execCreditReturnArrival src dst s
  | .unbindArrival src dst => Sys2Proof.Machine.execUnbindArrival src dst s
  | .scrubRead x y found => Sys2Proof.Machine.execScrubRead x y found s
  | .scrubWriteback x y => Sys2Proof.Machine.execScrubWriteback x y s
  | .scrubForcedSlot x y bank found => Sys2Proof.Machine.execScrubForcedSlot x y bank found s
  | .fldScrCtrlClrCnt m field value => Sys2Proof.Machine.execFldScrCtrlClrCnt m field value s
  | .loop w => Sys2Proof.Machine.execLoop w s
  | .loopL0Iteration x y => Sys2Proof.Machine.execLoopL0Iteration x y s
  | .loopL4Iteration x y => Sys2Proof.Machine.execLoopL4Iteration x y s
  | .dispatchFetch x y => Sys2Proof.Machine.execDispatchFetch x y s
  | .hotHoldExpiry x y => Sys2Proof.Machine.execHotHoldExpiry x y s
  | .sqSet w => Sys2Proof.Machine.execSqSet w s
  | .sqPost w => Sys2Proof.Machine.execSqPost w s
  | .fenceRemote w => Sys2Proof.Machine.execFenceRemote w s
  | .fenceStore w => Sys2Proof.Machine.execFenceStore w s
  | .fenceAll w => Sys2Proof.Machine.execFenceAll w s
  | .fenceRelease x y => Sys2Proof.Machine.execFenceRelease x y s
  | .barrier w => Sys2Proof.Machine.execBarrier w s
  | .barrierArrival part bid => Sys2Proof.Machine.execBarrierArrival part bid s
  | .sqRequestIssue part queue arrival => Sys2Proof.Machine.execSqRequestIssue part queue arrival s
  | .memRequestServe stack now badWords minor => Sys2Proof.Machine.execMemRequestServe stack now badWords minor s
  | .sqLoadDelivery part queue req => Sys2Proof.Machine.execSqLoadDelivery part queue req s
  | .sqTransferComplete part queue => Sys2Proof.Machine.execSqTransferComplete part queue s
  | .linkWordFail field seam link fails place word => Sys2Proof.Machine.execLinkWordFail field seam link fails place word s
  | .hbmCorrectedWriteback stack => Sys2Proof.Machine.execHbmCorrectedWriteback stack s
  | .patrolRead stack outcome => Sys2Proof.Machine.execPatrolRead stack outcome s
  | .channelRetrain stack chan => Sys2Proof.Machine.execChannelRetrain stack chan s
  | .memEpochCtrlGo m value => Sys2Proof.Machine.execMemEpochCtrlGo m value s
  | .hbmEpoch stack trained => Sys2Proof.Machine.execHbmEpoch stack trained s
  | .prtHbmWindowWrite m off value => Sys2Proof.Machine.execPrtHbmWindowWrite m off value s
  | .windowChangeEffect part win => Sys2Proof.Machine.execWindowChangeEffect part win s
  | .memSpillEntryWrite m off value => Sys2Proof.Machine.execMemSpillEntryWrite m off value s
  | .tierCompletion tag status data => Sys2Proof.Machine.execTierCompletion tag status data s
  | .tierTimeout tag => Sys2Proof.Machine.execTierTimeout tag s
  | .pageTranslation part stream => Sys2Proof.Machine.execPageTranslation part stream s
  | .pin part frame => Sys2Proof.Machine.execPin part frame s
  | .unpin part frame => Sys2Proof.Machine.execUnpin part frame s
  | .frameSpill part => Sys2Proof.Machine.execFrameSpill part s
  | .frameSpillDone part frame ok => Sys2Proof.Machine.execFrameSpillDone part frame ok s
  | .frameFetch part frame => Sys2Proof.Machine.execFrameFetch part frame s
  | .frameFetchDone part frame data marked => Sys2Proof.Machine.execFrameFetchDone part frame data marked s
  | .readStreamVisit part stream => Sys2Proof.Machine.execReadStreamVisit part stream s
  | .kvScatter part ring => Sys2Proof.Machine.execKvScatter part ring s
  | .appendColumnAccepted part append => Sys2Proof.Machine.execAppendColumnAccepted part append s
  | .prtKvCtrlEn m part value => Sys2Proof.Machine.execPrtKvCtrlEn m part value s
  | .fldKvwCtrlClr m field value => Sys2Proof.Machine.execFldKvwCtrlClr m field value s
  | .prefillSubmit part ring => Sys2Proof.Machine.execPrefillSubmit part ring s
  | .prefixRegister part ring => Sys2Proof.Machine.execPrefixRegister part ring s
  | .prefixRelease part ring => Sys2Proof.Machine.execPrefixRelease part ring s
  | .adapterLoad part ring => Sys2Proof.Machine.execAdapterLoad part ring s
  | .pause part ring => Sys2Proof.Machine.execPause part ring s
  | .resume part ring => Sys2Proof.Machine.execResume part ring s
  | .cancel part ring => Sys2Proof.Machine.execCancel part ring s
  | .exportRoute part ring => Sys2Proof.Machine.execExportRoute part ring s
  | .layerChunkLaunch group => Sys2Proof.Machine.execLayerChunkLaunch group s
  | .layerChunkDone group us => Sys2Proof.Machine.execLayerChunkDone group us s
  | .firstTokenSample group member logits => Sys2Proof.Machine.execFirstTokenSample group member logits s
  | .prtSrvCtrlEn m part value => Sys2Proof.Machine.execPrtSrvCtrlEn m part value s
  | .prtSrvQuotaWrite m part value => Sys2Proof.Machine.execPrtSrvQuotaWrite m part value s
  | .sqTail m part ring value => Sys2Proof.Machine.execSqTail m part ring value s
  | .cqHead m part ring value => Sys2Proof.Machine.execCqHead m part ring value s
  | .descriptorFetch part => Sys2Proof.Machine.execDescriptorFetch part s
  | .completionRecordWrite part ring => Sys2Proof.Machine.execCompletionRecordWrite part ring s
  | .msiXHoldoffExpiry part ring => Sys2Proof.Machine.execMsiXHoldoffExpiry part ring s
  | .statusPageWrite page measW energyMj => Sys2Proof.Machine.execStatusPageWrite page measW energyMj s
  | .weightLoad part ring => Sys2Proof.Machine.execWeightLoad part ring s
  | .programLoad part ring => Sys2Proof.Machine.execProgramLoad part ring s
  | .hintHeavy part ring => Sys2Proof.Machine.execHintHeavy part ring s
  | .fence part ring => Sys2Proof.Machine.execFence part ring s
  | .collectiveBind part ring => Sys2Proof.Machine.execCollectiveBind part ring s
  | .messageTimeEnd orders => Sys2Proof.Machine.execMessageTimeEnd orders s
  | .hifOwnWrite m value => Sys2Proof.Machine.execHifOwnWrite m value s
  | .prtGroupWrite m part value => Sys2Proof.Machine.execPrtGroupWrite m part value s
  | .prtLockSet m part value => Sys2Proof.Machine.execPrtLockSet m part value s
  | .prtSqCfgEn m part ring value => Sys2Proof.Machine.execPrtSqCfgEn m part ring value s
  | .prtCqCfgEn m part ring value => Sys2Proof.Machine.execPrtCqCfgEn m part ring value s
  | .attachLinkChange b rate width flit => Sys2Proof.Machine.execAttachLinkChange b rate width flit s
  | .attachPowerState b d3 => Sys2Proof.Machine.execAttachPowerState b d3 s
  | .claim id uid port => Sys2Proof.Machine.execClaim id uid port s
  | .defend id uid port => Sys2Proof.Machine.execDefend id uid port s
  | .ack f => Sys2Proof.Machine.execAck f s
  | .credit f => Sys2Proof.Machine.execCredit f s
  | .coll f => Sys2Proof.Machine.execColl f s
  | .tierRdata f => Sys2Proof.Machine.execTierRdata f s
  | .tierWack f => Sys2Proof.Machine.execTierWack f s
  | .mirrorCheck f => Sys2Proof.Machine.execMirrorCheck f s
  | .reservedFrame port => Sys2Proof.Machine.execReservedFrame port s
  | .vngNodeClaim m value => Sys2Proof.Machine.execVngNodeClaim m value s
  | .claimResend => Sys2Proof.Machine.execClaimResend s
  | .claimListenEnd => Sys2Proof.Machine.execClaimListenEnd s
  | .claimBackoffEnd => Sys2Proof.Machine.execClaimBackoffEnd s
  | .defendPeriodic => Sys2Proof.Machine.execDefendPeriodic s
  | .portLinkChange port up => Sys2Proof.Machine.execPortLinkChange port up s
  | .laneFailing port lane => Sys2Proof.Machine.execLaneFailing port lane s
  | .retrainWindow port lane ok => Sys2Proof.Machine.execRetrainWindow port lane ok s
  | .ackTimer flow => Sys2Proof.Machine.execAckTimer flow s
  | .resendTimer flow psn => Sys2Proof.Machine.execResendTimer flow psn s
  | .flowLost flow => Sys2Proof.Machine.execFlowLost flow s
  | .flowClose flow => Sys2Proof.Machine.execFlowClose flow s
  | .exportSend group => Sys2Proof.Machine.execExportSend group s
  | .prtVngCallen m part value => Sys2Proof.Machine.execPrtVngCallen m part value s
  | .collPieceSend part call => Sys2Proof.Machine.execCollPieceSend part call s
  | .collFail part call rank => Sys2Proof.Machine.execCollFail part call rank s
  | .mirrorTimeout => Sys2Proof.Machine.execMirrorTimeout s
  | .vngMirrorBind m value => Sys2Proof.Machine.execVngMirrorBind m value s
  | .prtVngFlowqWrite m part value => Sys2Proof.Machine.execPrtVngFlowqWrite m part value s
  | .prtVngGrploEn m part value => Sys2Proof.Machine.execPrtVngGrploEn m part value s
  | .budgetUpdate mv est meas => Sys2Proof.Machine.execBudgetUpdate mv est meas s
  | .powerAgentTick p asked => Sys2Proof.Machine.execPowerAgentTick p asked s
  | .calibration field meas leak dyn => Sys2Proof.Machine.execCalibration field meas leak dyn s
  | .prtPwrStripReq m part c value => Sys2Proof.Machine.execPrtPwrStripReq m part c value s
  | .stripDownStart field strip => Sys2Proof.Machine.execStripDownStart field strip s
  | .domainUpDone dom => Sys2Proof.Machine.execDomainUpDone dom s
  | .domainDownDone dom => Sys2Proof.Machine.execDomainDownDone dom s
  | .railTargetReached field => Sys2Proof.Machine.execRailTargetReached field s
  | .ageingSweep field trim => Sys2Proof.Machine.execAgeingSweep field trim s
  | .setAllot allot lease => Sys2Proof.Machine.execSetAllot allot lease s
  | .leaseExpiry => Sys2Proof.Machine.execLeaseExpiry s
  | .hintCheck group hint => Sys2Proof.Machine.execHintCheck group hint s
  | .hintBallastTimeout group => Sys2Proof.Machine.execHintBallastTimeout group s
  | .hintDeferExpiry group => Sys2Proof.Machine.execHintDeferExpiry group s
  | .throttleEventClose reason scope depth => Sys2Proof.Machine.execThrottleEventClose reason scope depth s
  | .pwrCtrlClr m value => Sys2Proof.Machine.execPwrCtrlClr m value s
  | .startupStageDone found fwRev => Sys2Proof.Machine.execStartupStageDone found fwRev s
  | .startupStageLimit limit => Sys2Proof.Machine.execStartupStageLimit limit s
  | .prtResetGo m part => Sys2Proof.Machine.execPrtResetGo m part s
  | .partitionResetDone part => Sys2Proof.Machine.execPartitionResetDone part s
  | .prtResetZero m part => Sys2Proof.Machine.execPrtResetZero m part s
  | .zeroisingClearDone part => Sys2Proof.Machine.execZeroisingClearDone part s
  | .glbReset m value => Sys2Proof.Machine.execGlbReset m value s
  | .glbMapCtrlGo m value => Sys2Proof.Machine.execGlbMapCtrlGo m value s
  | .mapEpoch => Sys2Proof.Machine.execMapEpoch s
  | .repairMapWrite settings => Sys2Proof.Machine.execRepairMapWrite settings s
  | .lockstepDivergence pair => Sys2Proof.Machine.execLockstepDivergence pair s
  | .watchdogExpiry pair => Sys2Proof.Machine.execWatchdogExpiry pair s
  | .pairRestartDone pair ok => Sys2Proof.Machine.execPairRestartDone pair ok s
  | .heartbeatLoss => Sys2Proof.Machine.execHeartbeatLoss s
  | .requestAbort group => Sys2Proof.Machine.execRequestAbort group s
  | .abortTimeout group => Sys2Proof.Machine.execAbortTimeout group s
  | .stall group => Sys2Proof.Machine.execStall group s
  | .gateTrailerSend part => Sys2Proof.Machine.execGateTrailerSend part s
  | .gateReopen part => Sys2Proof.Machine.execGateReopen part s
  | .plogWrite => Sys2Proof.Machine.execPlogWrite s
  | .errAlertClear m value => Sys2Proof.Machine.execErrAlertClear m value s
  | .getId => Sys2Proof.Machine.execGetId s
  | .getStatus off len => Sys2Proof.Machine.execGetStatus off len s
  | .getEnv => Sys2Proof.Machine.execGetEnv s
  | .setGrade grade => Sys2Proof.Machine.execSetGrade grade s
  | .setNode want => Sys2Proof.Machine.execSetNode want s
  | .setMonkey key => Sys2Proof.Machine.execSetMonkey key s
  | .getLast => Sys2Proof.Machine.execGetLast s
  | .regRead off count => Sys2Proof.Machine.execRegRead off count s
  | .regWrite off value => Sys2Proof.Machine.execRegWrite off value s
  | .domain kind index on => Sys2Proof.Machine.execDomain kind index on s
  | .pairReset pair => Sys2Proof.Machine.execPairReset pair s
  | .takeover => Sys2Proof.Machine.execTakeover s
  | .moduleReset key => Sys2Proof.Machine.execModuleReset key s
  | .logRead src index count => Sys2Proof.Machine.execLogRead src index count s
  | .assignAddress udid addr => Sys2Proof.Machine.execAssignAddress udid addr s
  | .prepareToArp => Sys2Proof.Machine.execPrepareToArp s
  | .resetDevice directed => Sys2Proof.Machine.execResetDevice directed s
  | .getUdid directed => Sys2Proof.Machine.execGetUdid directed s
  | .alertResponseAddress wins => Sys2Proof.Machine.execAlertResponseAddress wins s
  | .notifyArpMaster lost => Sys2Proof.Machine.execNotifyArpMaster lost s
  | .smbusClockTimeout => Sys2Proof.Machine.execSmbusClockTimeout s
  | .monHelp => Sys2Proof.Machine.execMonHelp s
  | .monId => Sys2Proof.Machine.execMonId s
  | .monStep => Sys2Proof.Machine.execMonStep s
  | .monRd off n => Sys2Proof.Machine.execMonRd off n s
  | .monPage page off len => Sys2Proof.Machine.execMonPage page off len s
  | .monEnv => Sys2Proof.Machine.execMonEnv s
  | .monLog src index n => Sys2Proof.Machine.execMonLog src index n s
  | .monBaud rate => Sys2Proof.Machine.execMonBaud rate s
  | .monUnlock resp => Sys2Proof.Machine.execMonUnlock resp s
  | .monLock => Sys2Proof.Machine.execMonLock s
  | .monWr off value => Sys2Proof.Machine.execMonWr off value s
  | .monResetModule => Sys2Proof.Machine.execMonResetModule s
  | .monResetPair pair => Sys2Proof.Machine.execMonResetPair pair s
  | .monTakeover => Sys2Proof.Machine.execMonTakeover s
  | .baudRevert => Sys2Proof.Machine.execBaudRevert s
  | .monitorIdleLock => Sys2Proof.Machine.execMonitorIdleLock s
  | .challengeExpiry => Sys2Proof.Machine.execChallengeExpiry s
  | .unlockLockoutEnd => Sys2Proof.Machine.execUnlockLockoutEnd s
  | .fldIntCtrlClr m field value => Sys2Proof.Machine.execFldIntCtrlClr m field value s
  | .registerWrite m off value => Sys2Proof.Machine.execRegisterWrite m off value s
  | .hostReadCompletion tag status data => Sys2Proof.Machine.execHostReadCompletion tag status data s
  | .hostReadTimeout tag => Sys2Proof.Machine.execHostReadTimeout tag s
  | .channelRetrainingDone stack chan result => Sys2Proof.Machine.execChannelRetrainingDone stack chan result s
  | .plogSectorEraseDone => Sys2Proof.Machine.execPlogSectorEraseDone s
  | .lossOfBothServiceBlocks => Sys2Proof.Machine.execLossOfBothServiceBlocks s
  | .unknownOpc opc => Sys2Proof.Machine.execUnknownOpc opc s
  | .bar0AccessError m off size write => Sys2Proof.Machine.execBar0AccessError m off size write s
  | .busFree lost => Sys2Proof.Machine.execBusFree lost s

end Sys2Proof.Machine
end

