-- ==== Sys2Proof/Safety.lean ====
section
/-! DEFINITION. What counts as a safe run: a step that answers a next state, from states whose memory
keeps its canonical form. -/
namespace Sys2Proof.Machine

/-- HBM is in its canonical form: addresses strictly rising, no byte equal to what an unlisted address
reads as, and the same of the poisoned code words (R243, R249, R254). -/
def Hbm.wf (h : Hbm) : Bool := SMap.canon 0 h.bytes && SMap.canon false h.poison

/-- No clove has an instruction that waits at issue, or an SFU instruction under way. -/
def Quiet (s : State) : Prop := ∀ e ∈ s.cloves, e.2.waiting = [] ∧ e.2.sfu = []

/-- The state in which an instruction is tried: an issue number has been taken, and its clove is listed. -/
def State.issuing (s : State) (i : Issue) : State :=
  ({ s with issueNo := s.issueNo + 1 } : State).setClove (cloveNo i.x i.y) (s.clove (cloveNo i.x i.y))

/-- Nothing waits anywhere, the instruction's engine is not halted in its clove, no fence or barrier holds it (R81, R177,
R234, R236), and it brings no upset with it, which would come first (R185). -/
structure Open (s : State) (i : Issue) : Prop where
  clean : i.ups = []
  quiet : Quiet s
  runs : (s.clove (cloveNo i.x i.y)).halted (engineOf i.word) = false
  free : s.fenced s.issueNo (cloveNo i.x i.y) (engineOf i.word) = false

/-- A command completes: it answers a next state. -/
def Completes (c : Instr) (s : State) : Prop := ∃ t, exec c s = .next t

end Sys2Proof.Machine

namespace Sys2Proof
open Sys2Proof.Machine

/-- The clove that an instruction reaches. -/
def Issue.home (i : Issue) : Nat := cloveNo i.x i.y

/-- The partition of that clove. -/
def Issue.part (i : Issue) : Nat := partOf (cloveX i.home) (cloveY i.home)

end Sys2Proof

namespace Sys2Proof.Machine

/-- An instruction changes cloves alone; its issue number is taken and progress is noted. -/
def CloveFrame (i : Issue) (s t : State) : Prop :=
  t = { s with issueNo := s.issueNo + 1, cloves := t.cloves, err := (s.progressed i.part).err }

/-- Of every clove, its two arrays alone may differ. -/
def ArraysOnly (s t : State) : Prop :=
  ∀ k, t.clove k = { s.clove k with arrA := (t.clove k).arrA, arrB := (t.clove k).arrB }

/-- Of the cloves, one alone may differ. -/
def OneClove (k : Nat) (s t : State) : Prop := ∀ m, m ≠ k → t.clove m = s.clove m

/-- The gang that an array instruction addresses, whose array bit 4 names. -/
def State.gangAt (s : State) (i : Issue) : Gang := s.gangOf i.home (i.word.extractLsb' 4 1 == 1)

end Sys2Proof.Machine
end

