-- ==== Sys2Proof/Certificates/Slice0/Obligations.lean ====
section
/-! DEFINITION. The obligations of this model: statements taken from the spec's numbered rules, for the provers. -/
open Sys2Proof Sys2Proof.Machine

/-! ### The block as a whole -/

/-- The queue is first in, first out: a step takes the command at its front and runs it on the state with the queue's
rest. With nothing pending the block idles (log entry 9, the model's choice). -/
def Obligations.StepRunsFront : Prop :=
  (∀ (s : State) (c : Instr) (cs : List Instr), s.pending = c :: cs → step s = exec c { s with pending := cs }) ∧
  (∀ s : State, s.pending = [] → step s = .next s)

/-- No command stops the block, and none changes the queue of waiting commands (log entry 10, the model's choice). -/
def Obligations.CommandsKeepQueue : Prop :=
  ∀ (c : Instr) (s : State), ∃ t, exec c s = .next t ∧ t.pending = s.pending

/-- Every step keeps HBM's canonical form: addresses strictly rising, and no byte or code word listed that reads as an
unlisted one does. -/
def Obligations.StepKeepsHbmForm : Prop :=
  ∀ s t : State, step s = .next t → s.hbm.wf = true → t.hbm.wf = true

/-- HBM has its canonical form at reset, where every byte reads 0 (the model's choice for a byte that nothing has written,
log entry 11). -/
def Obligations.ResetHbm : Prop :=
  State.reset.hbm.wf = true ∧ ∀ a, State.reset.hbmByte a = 0

/-- A log record takes the next SEQ, stands in its slot of the volatile log, and no earlier record of the log has its SEQ
(R422, R434). -/
def Obligations.RecordTakesSeq : Prop :=
  ∀ (s : State) (c : Code) (part h0 h1 w2 w3 : Nat),
    (∃ r, (s.log c part h0 h1 w2 w3).err.log.at? (s.err.nextSeq % 4096) = some r ∧ r.seq = s.err.nextSeq ∧
      r.code = c.val ∧ r.cls = c.cls ∧ r.part = part) ∧
    (s.log c part h0 h1 w2 w3).err.nextSeq = s.err.nextSeq + 1 ∧
    (s.log c part h0 h1 w2 w3).reg .errLogHead 0 0 = BitVec.ofNat 32 s.err.nextSeq ∧
    ∀ n, n ≠ s.err.nextSeq % 4096 → (s.log c part h0 h1 w2 w3).err.log.at? n = s.err.log.at? n

/-- Time moves only at MESSAGE_TIME_END, by one message time of 1 µs (R326; that no other command moves it is the model's
choice, log entry 12). -/
def Obligations.TimeMoves : Prop :=
  (∀ (c : Instr) (s t : State), (∀ os, c ≠ .messageTimeEnd os) → exec c s = .next t → t.up.time = s.up.time) ∧
  (∀ (os : List Order) (s : State), ∃ t, exec (.messageTimeEnd os) s = .next t ∧ t.up.time = s.up.time + 1000)

/-- R422: SEQ counts records from manufacture and never repeats: no command lowers the number of the next record. The
start-up count only rises (R435). Only SET_MONKEY writes the monitor key (R444, R449). What has left the module is
never taken back: writes to host memory, reads asked of the host, frames sent, replies of the management bus and lines
of the monitor are only added to. -/
def Obligations.HistoryIsKept : Prop :=
  (∀ (c : Instr) (s t : State), exec c s = .next t → s.err.nextSeq ≤ t.err.nextSeq) ∧
  (∀ (c : Instr) (s t : State), exec c s = .next t → s.flash.startups ≤ t.flash.startups) ∧
  (∀ (c : Instr) (s t : State), (∀ k, c ≠ .setMonkey k) → exec c s = .next t → t.flash.monkey = s.flash.monkey) ∧
  (∀ (c : Instr) (s t : State), exec c s = .next t →
     s.host.out <+: t.host.out ∧ s.host.asked <+: t.host.asked ∧ s.net.tx <+: t.net.tx ∧ s.mgmt.out <+: t.mgmt.out ∧
     s.mgmt.uart <+: t.mgmt.uart ∧ s.mgmt.arp <+: t.mgmt.arp)

/-! ### Encodings of clove instructions -/

/-- Every operand layout of a clove instruction drops no bit: the operands read from the word that carries them are those
operands, that word has its reserved bits zero, and a word whose opcode is the layout's and whose reserved bits are
zero is the word of its own operands (R82, R83, R84, R87, R88, R142, R169, R180, R196, R223). -/
def Obligations.OperandWordsRoundTrip : Prop :=
  (∀ o : GangOp, GangOp.ofWord o.toWord = o ∧ o.toWord &&& GangOp.reserved = 0) ∧
  (∀ w : W128, w &&& GangOp.reserved = 0 → w.extractLsb' 0 4 = 1 → (GangOp.ofWord w).toWord = w) ∧
  (∀ o : LoadOp, LoadOp.ofWord o.toWord = o ∧ o.toWord &&& LoadOp.reserved = 0) ∧
  (∀ w : W128, w &&& LoadOp.reserved = 0 → w.extractLsb' 0 4 = 2 → (LoadOp.ofWord w).toWord = w) ∧
  (∀ o : SwapOp, SwapOp.ofWord o.toWord = o ∧ o.toWord &&& SwapOp.reserved = 0) ∧
  (∀ w : W128, w &&& SwapOp.reserved = 0 → w.extractLsb' 0 4 = 3 → (SwapOp.ofWord w).toWord = w) ∧
  (∀ o : StreamOp, StreamOp.ofWord o.toWord = o ∧ o.toWord &&& StreamOp.reserved = 0) ∧
  (∀ w : W128, w &&& StreamOp.reserved = 0 → w.extractLsb' 0 4 = 4 → (StreamOp.ofWord w).toWord = w) ∧
  (∀ o : RgnOp, RgnOp.ofWord o.toWord = o ∧ o.toWord &&& RgnOp.reserved = 0) ∧
  (∀ w : W128, w &&& RgnOp.reserved = 0 → w.extractLsb' 0 4 = 5 → (RgnOp.ofWord w).toWord = w) ∧
  (∀ o : RemoteOp, RemoteOp.ofWord o.toWord = o ∧ o.toWord &&& RemoteOp.reserved = 0) ∧
  (∀ w : W128, w &&& RemoteOp.reserved = 0 → w.extractLsb' 0 4 = 6 → (RemoteOp.ofWord w).toWord = w) ∧
  (∀ o : LoopOp, LoopOp.ofWord o.toWord = o ∧ o.toWord &&& LoopOp.reserved = 0) ∧
  (∀ w : W128, w &&& LoopOp.reserved = 0 → w.extractLsb' 0 4 = 7 → (LoopOp.ofWord w).toWord = w) ∧
  (∀ o : SfuOp, SfuOp.ofWord o.toWord = o ∧ o.toWord &&& SfuOp.reserved = 0) ∧
  (∀ w : W128, w &&& SfuOp.reserved = 0 → (SfuOp.ofWord w).toWord = w) ∧
  (∀ o : FabricOp, FabricOp.ofWord o.toWord = o ∧ o.toWord &&& FabricOp.reserved = 0) ∧
  (∀ w : W128, w &&& FabricOp.reserved = 0 → w.extractLsb' 0 4 = 15 → (FabricOp.ofWord w).toWord = w)

/-! ### Array instructions -/

/-- R185: an upset that a command brings with it strikes its scratchpad word before anything else: the word can no longer
be read without a correction, or not at all where the upset is a hard one, and nothing else changes. The command then
acts on the words so struck. -/
def Obligations.UpsetsComeFirst : Prop :=
  (∀ (s : State) (i : Issue), ∀ c ∈ [Instr.gangCfg, .load, .swap, .stream, .sfuElem, .sfuBin, .sfuMoments, .sfuMerge, .sfuNorm,
     .sfuSmaxfin, .epiWrite, .rgnSet, .pop, .drop, .remoteRead, .remoteWrite, .remoteSlot, .remoteUnbind, .loop, .sqSet, .sqPost,
     .fenceRemote, .fenceStore, .fenceAll, .barrier],
     exec (c i) s = exec (c { i with ups := [] }) (s.upset i.ups)) ∧
  (∀ (s : State) (a : ArrAt) (us : List Upset) (p j m n : Nat) (ups : List Flip),
     exec (.vectorResult a ⟨us, ups⟩) s = exec (.vectorResult a ⟨us, []⟩) (s.upset ups) ∧
     exec (.drainDone a ⟨us, ups⟩) s = exec (.drainDone a ⟨us, []⟩) (s.upset ups) ∧
     exec (.remoteAccessArrival m ⟨n, ups⟩) s = exec (.remoteAccessArrival m ⟨n, []⟩) (s.upset ups) ∧
     exec (.sqRequestIssue p j ⟨m, ups⟩) s = exec (.sqRequestIssue p j ⟨m, []⟩) (s.upset ups)) ∧
  (∀ (s : State) (u : Flip), s.upset [u] = { s with cloves := (s.upset [u]).cloves } ∧ OneClove (cloveNo u.x u.y) s (s.upset [u]) ∧
     (s.upset [u]).clove (cloveNo u.x u.y) =
       { s.clove (cloveNo u.x u.y) with scratch := ((s.upset [u]).clove (cloveNo u.x u.y)).scratch } ∧
     ∀ a, a < 4096 → ((s.upset [u]).clove (cloveNo u.x u.y)).word a =
       if a = u.word % 4096 then { (s.clove (cloveNo u.x u.y)).word a with
         ecc := if u.hard then 2 else max ((s.clove (cloveNo u.x u.y)).word a).ecc 1 }
       else (s.clove (cloveNo u.x u.y)).word a)

/-- R58, R83: GANG_CFG that names an aligned block with no unfinished work sets every member of the block to the shape, form
and origin it gives, with both register sets zero, S0 in the foreground and its counts at 0, and no other array. -/
def Obligations.GangCfgSetsBlock : Prop :=
  ∀ (s : State) (i : Issue), fieldOf i.word 3 0 = 1 → i.mark = false → Open s i → GangOp.badWord i.word = false →
    (GangOp.ofWord i.word).misaligned i.part = false →
    (∀ m ∈ (GangOp.ofWord i.word).block.members,
      (s.arr (s.gangOf m (GangOp.ofWord i.word).block.arr).origin (GangOp.ofWord i.word).block.arr).work = []) →
    ∃ t, exec (.gangCfg i) s = .next t ∧ CloveFrame i s t ∧ ArraysOnly s t ∧
      ∀ k b, t.arr k b =
        if b = (GangOp.ofWord i.word).block.arr ∧ k ∈ (GangOp.ofWord i.word).block.members then
          { ArrayUnit.solo (GangOp.ofWord i.word).x0.toNat (GangOp.ofWord i.word).y0.toNat with
            shape := (GangOp.ofWord i.word).shape.toNat, form := (GangOp.ofWord i.word).form.toNat
            halted := (s.arr k b).halted }
        else s.arr k b

/-- R84, R85: LOAD writes the background set of every member of its gang with the data, masks and checksums that its words
give, and leaves the foreground set, the other array and the scratchpads as they were. -/
def Obligations.LoadWritesBackground : Prop :=
  ∀ (s : State) (i : Issue), fieldOf i.word 3 0 = 2 → i.mark = false → Open s i →
    s.gangFault i.home (s.gangAt i) = none → LoadOp.badWord i.word (s.gangAt i) = false →
    (s.arr i.home (s.gangAt i).arr).work.any (fun u => u.setIdx == !(s.arr i.home (s.gangAt i).arr).fg) = false →
    (∀ m ∈ (s.gangAt i).members, ∀ r ∈ (LoadOp.ofWord i.word).plain (s.gangAt i), (s.clove m).busyRange r.1 r.2 = false) →
    (∀ m ∈ (s.gangAt i).members, ∀ a, ((s.clove m).word a).ecc = 0) →
    ∃ t, exec (.load i) s = .next t ∧ CloveFrame i s t ∧ ArraysOnly s t ∧
      ∀ k b, t.arr k b =
        if b = (s.gangAt i).arr ∧ k ∈ (s.gangAt i).members then
          { (s.arr k b).putSet (!(s.arr k b).fg) ((LoadOp.ofWord i.word).setOf (s.clove k)
              ((LoadOp.ofWord i.word).live s (s.gangAt i) k).1 ((LoadOp.ofWord i.word).live s (s.gangAt i) k).2
              (((LoadOp.ofWord i.word).maskWords (s.gangAt i) k).any (fun a => ((s.clove k).get a).2)) (s.arr k b).loads)
            with loads := (s.arr k b).loads + 1 }
        else s.arr k b

/-- R52, R87: SWAP of a set that is not output-stationary exchanges the roles of the two sets in every member of its gang
and moves nothing else. R55, R87: SWAP of an output-stationary set starts its drain: the work joins the origin's, with
the next pass sequence number and the set that was the foreground, and the roles of the two sets are exchanged in
every member; no word of a scratchpad moves yet. -/
def Obligations.SwapExchangesOrDrains : Prop :=
  (∀ (s : State) (i : Issue), fieldOf i.word 3 0 = 3 → i.mark = false → Open s i →
     s.gangFault i.home (s.gangAt i) = none → i.word &&& SwapOp.reserved = 0 → i.word >>> 27 = 0 →
     (s.setAt i.home (s.gangAt i).arr (s.arr i.home (s.gangAt i).arr).fg).mode ≠ some 2 →
     (s.arr i.home (s.gangAt i).arr).work.any
       (fun u => u.drain && u.setIdx == !(s.arr i.home (s.gangAt i).arr).fg) = false →
     ∃ t, exec (.swap i) s = .next t ∧ CloveFrame i s t ∧ ArraysOnly s t ∧
       ∀ k b, t.arr k b =
         if b = (s.gangAt i).arr ∧ k ∈ (s.gangAt i).members then { s.arr k b with fg := !(s.arr k b).fg } else s.arr k b) ∧
  (∀ (s : State) (i : Issue), fieldOf i.word 3 0 = 3 → i.mark = false → Open s i →
     s.gangFault i.home (s.gangAt i) = none → i.word &&& SwapOp.reserved = 0 →
     (s.setAt i.home (s.gangAt i).arr (s.arr i.home (s.gangAt i).arr).fg).mode = some 2 →
     isOutFmt (SwapOp.ofWord i.word).exit.ofmt = true →
     s.exitSr (SwapOp.ofWord i.word).exit ((s.exits (s.gangAt i) (s.arr i.home (s.gangAt i).arr).fg false).map (·.2.1)) = false →
     ((SwapOp.ofWord i.word).exit.acc && (SwapOp.ofWord i.word).exit.dst == (SwapOp.ofWord i.word).exit.accRgn) = false →
     s.exitFault (SwapOp.ofWord i.word).exit
       ((s.exits (s.gangAt i) (s.arr i.home (s.gangAt i).arr).fg false).map (·.2.1)) = none →
     s.useFault (s.drainUses (s.gangAt i) (s.arr i.home (s.gangAt i).arr).fg (SwapOp.ofWord i.word).exit) = none →
     (s.arr i.home (s.gangAt i).arr).work.any
       (fun u => u.drain && u.setIdx == !(s.arr i.home (s.gangAt i).arr).fg) = false →
     s.exitsFree s.issueNo (arrEngine (s.gangAt i).arr) (SwapOp.ofWord i.word).exit (s.gangAt i).rows
       ((s.exits (s.gangAt i) (s.arr i.home (s.gangAt i).arr).fg false).map (·.2.1)) = true →
     ∃ t u, exec (.swap i) s = .next t ∧ CloveFrame i s t ∧ (∀ k, (t.clove k).scratch = (s.clove k).scratch) ∧
       (u.drain = true ∧ u.word = i.word ∧ u.setIdx = (s.arr i.home (s.gangAt i).arr).fg ∧ u.next = 0 ∧
         u.seq = (s.arr i.home (s.gangAt i).arr).seq ∧ u.failed = false ∧ u.stalled = false ∧ u.owner = s.issueNo) ∧
       ∀ k b, t.arr k b =
         if k = i.home ∧ b = (s.gangAt i).arr then
           { s.arr k b with fg := !(s.arr k b).fg, seq := (s.arr k b).seq + 1, work := (s.arr k b).work ++ [u] }
         else if b = (s.gangAt i).arr ∧ k ∈ (s.gangAt i).members then { s.arr k b with fg := !(s.arr k b).fg }
         else s.arr k b)

/-- The register set through which a STREAM goes: one of no mode takes the mode and format of the pass (R88). -/
def Sys2Proof.Machine.RegSet.taking (r : RegSet) (o : StreamOp) : RegSet :=
  if r.mode.isNone then { r with mode := some o.mode.toNat, fmt := some o.fmt.toNat } else r

/-- R47, R88, R123: STREAM of a COUNT above 0 starts a pass: its work joins the origin's with the next pass sequence
number, the foreground set of a member that has no mode takes the mode and format of the pass, and no other part of a set
and no scratchpad word moves yet. A COUNT of 0 takes a sequence number and starts no pass. -/
def Obligations.StreamStartsPass : Prop :=
  ∀ (s : State) (i : Issue), fieldOf i.word 3 0 = 4 → i.mark = false → Open s i →
    s.gangFault i.home (s.gangAt i) = none → StreamOp.badWord i.word (s.gangAt i) = false →
    s.exitSr (StreamOp.ofWord i.word).exit (if (StreamOp.ofWord i.word).mode == 2 then [] else
      (s.exits (s.gangAt i) (s.arr i.home (s.gangAt i).arr).fg ((StreamOp.ofWord i.word).axis == 1)).map (·.2.1)) = false →
    (StreamOp.ofWord i.word).form.toNat = (s.gangAt i).form →
    (∀ m, (s.setAt i.home (s.gangAt i).arr (s.arr i.home (s.gangAt i).arr).fg).mode = some m →
      m = (StreamOp.ofWord i.word).mode.toNat) →
    pairClass (StreamOp.ofWord i.word).fmt.toNat = pairClass
      (if (StreamOp.ofWord i.word).mode == 2 then (StreamOp.ofWord i.word).fmt2.toNat else
        (s.setAt i.home (s.gangAt i).arr (s.arr i.home (s.gangAt i).arr).fg).fmt.getD (StreamOp.ofWord i.word).fmt.toNat) →
    (!((StreamOp.ofWord i.word).mode == 2) && ((StreamOp.ofWord i.word).exit.dst == (StreamOp.ofWord i.word).src.toNat ||
      ((StreamOp.ofWord i.word).exit.acc && (StreamOp.ofWord i.word).exit.dst == (StreamOp.ofWord i.word).exit.accRgn))) = false →
    s.exitFault (StreamOp.ofWord i.word).exit (if (StreamOp.ofWord i.word).mode == 2 then [] else
      (s.exits (s.gangAt i) (s.arr i.home (s.gangAt i).arr).fg ((StreamOp.ofWord i.word).axis == 1)).map (·.2.1)) = none →
    s.useFault (s.streamUses (s.gangAt i) (s.arr i.home (s.gangAt i).arr).fg (StreamOp.ofWord i.word)) = none →
    (∀ u ∈ (s.arr i.home (s.gangAt i).arr).work,
      u.modeTree = ((StreamOp.ofWord i.word).mode.toNat, (StreamOp.ofWord i.word).tree == 1)) →
    ((StreamOp.ofWord i.word).count ≠ 0 → s.exitsFree s.issueNo (arrEngine (s.gangAt i).arr) (StreamOp.ofWord i.word).exit
      (StreamOp.ofWord i.word).count.toNat (if (StreamOp.ofWord i.word).mode == 2 then [] else
      (s.exits (s.gangAt i) (s.arr i.home (s.gangAt i).arr).fg ((StreamOp.ofWord i.word).axis == 1)).map (·.2.1)) = true) →
    ∃ t u, exec (.stream i) s = .next t ∧ CloveFrame i s t ∧ (∀ k, (t.clove k).scratch = (s.clove k).scratch) ∧
      (u.drain = false ∧ u.word = i.word ∧ u.setIdx = (s.arr i.home (s.gangAt i).arr).fg ∧ u.next = 0 ∧
        u.seq = (s.arr i.home (s.gangAt i).arr).seq ∧ u.failed = false ∧ u.stalled = false ∧ u.owner = s.issueNo) ∧
      ∀ k b, ∀ a, a = (if b = (s.gangAt i).arr ∧ k ∈ (s.gangAt i).members then
          (s.arr k b).putSet (s.arr i.home (s.gangAt i).arr).fg
            ((s.setAt k b (s.arr i.home (s.gangAt i).arr).fg).taking (StreamOp.ofWord i.word)) else s.arr k b) →
        t.arr k b =
          if k = i.home ∧ b = (s.gangAt i).arr then
            { a with
              seq := a.seq + 1
              work := if (StreamOp.ofWord i.word).count = 0 then a.work else a.work ++ [u] }
          else a

/-- R74, R97: VECTOR_RESULT retires one vector of the oldest pass of an array where its sources and destinations are ready,
and the pass leaves the array with its last one; one that is not ready stalls. R55, R97: DRAIN_DONE of the oldest work, a
drain, stalls it where its destination is not ready; else it leaves no drain half done: the drain has left its array,
and its set is zero in every member, or it stands stalled until its destination has space. R97: PASS_STALL_RESUME lets a
stalled pass or drain whose regions allow it go on, and changes nothing else. -/
def Obligations.PassesRetireAndStall : Prop :=
  (∀ (s : State) (a : ArrAt) (ups : List Upset) (u : Work),
     (s.arr (cloveNo a.x a.y) a.arr).work.find? (fun v => !v.drain) = some u →
     (s.gangOf (cloveNo a.x a.y) a.arr).origin = cloveNo a.x a.y →
     ∃ t : State, exec (.vectorResult a ⟨ups, []⟩) s = .next t.settle ∧
       if (s.streamUses (s.gangOf (cloveNo a.x a.y) a.arr) u.setIdx (StreamOp.ofWord u.word)).all (s.useReady u.owner) = true then
         (∀ v ∈ (t.arr (cloveNo a.x a.y) a.arr).work, v.owner = u.owner →
           v.next = u.next + 1 ∧ v.next < (StreamOp.ofWord u.word).count.toNat ∧ v.word = u.word ∧ v.seq = u.seq ∧
             v.setIdx = u.setIdx ∧ v.stalled = false) ∧
         (u.next + 1 < (StreamOp.ofWord u.word).count.toNat →
           ∃ v ∈ (t.arr (cloveNo a.x a.y) a.arr).work, v.owner = u.owner)
       else t = s.putWork (cloveNo a.x a.y) a.arr { u with stalled := true }) ∧
  (∀ (s : State) (a : ArrAt) (ups : List Upset) (u : Work) (us : List Work),
     (s.arr (cloveNo a.x a.y) a.arr).work = u :: us → u.drain = true →
     (s.gangOf (cloveNo a.x a.y) a.arr).origin = cloveNo a.x a.y →
     ∃ t : State, exec (.drainDone a ⟨ups, []⟩) s = .next t.settle ∧
       if (s.drainUses (s.gangOf (cloveNo a.x a.y) a.arr) u.setIdx u.exit).all (s.useReady u.owner) = true then
         (∀ v ∈ (t.arr (cloveNo a.x a.y) a.arr).work, v.owner = u.owner → v.stalled = true) ∧
         ((∀ v ∈ (t.arr (cloveNo a.x a.y) a.arr).work, v.owner ≠ u.owner) →
           ∀ m ∈ (s.gangOf (cloveNo a.x a.y) a.arr).members, t.setAt m a.arr u.setIdx = RegSet.zero)
       else t = s.putWork (cloveNo a.x a.y) a.arr { u with stalled := true }) ∧
  (∀ (s : State) (a : ArrAt), Quiet s →
     ∃ t, exec (.passStallResume a) s = .next t ∧ t = { s with cloves := t.cloves } ∧ ArraysOnly s t ∧
       ∀ k b, t.arr k b =
         if k = cloveNo a.x a.y ∧ b = a.arr then
           { s.arr k b with work := (s.arr k b).work.map (fun u =>
             if u.stalled && (if u.drain then s.drainUses (s.gangOf k b) u.setIdx u.exit
               else s.streamUses (s.gangOf k b) u.setIdx (StreamOp.ofWord u.word)).all (s.useReady u.owner)
             then { u with stalled := false } else u) }
         else s.arr k b)

/-! ### SFU instructions -/

/-- An SFU instruction that no rule of R144 refuses and that need not wait: the scoreboard has entries for what it writes,
and no range its descriptor reads or writes is in use (R128, R130, R144, R177 to R179). -/
structure Sys2Proof.Machine.SfuReady (s : State) (i : Issue) : Prop where
  opened : Open s i
  plain : i.mark = false
  word : SfuOp.badWord i.word ((SfuOp.ofWord i.word).desc (s.clove i.home)) = false
  slot : s.slotEmpty i.home ((SfuOp.ofWord i.word).desc (s.clove i.home)) = false
  apart : ((SfuOp.ofWord i.word).dst == (SfuOp.ofWord i.word).src ||
    ((SfuOp.ofWord i.word).binary && (SfuOp.ofWord i.word).dst == (SfuOp.ofWord i.word).src2)) = false
  uses : s.useFault ((SfuOp.ofWord i.word).uses i.home) = none
  room : 1 + (statRange ((SfuOp.ofWord i.word).desc (s.clove i.home)) (SfuOp.ofWord i.word).count.toNat).length ≤
    (s.clove i.home).freeSb 2
  reads : (epiRanges ((SfuOp.ofWord i.word).desc (s.clove i.home)) (SfuOp.ofWord i.word).rowlen.toNat
    (SfuOp.ofWord i.word).count.toNat).all (fun r => !(s.clove i.home).busyRange r.1 r.2) = true
  stats : s.notRead s.issueNo i.home (statRange ((SfuOp.ofWord i.word).desc (s.clove i.home)) (SfuOp.ofWord i.word).count.toNat) = true

/-- R124, R128, R177: an SFU instruction that may start takes the clove's next SFU sequence number, seeds its generator
from it, takes its scoreboard entries and its uses of regions, and then goes on, with whatever else may move, until it
waits. -/
def Obligations.SfuInstructionStarts : Prop :=
  ∀ (s : State) (i : Issue) (c : Instr), c ∈ [Instr.sfuElem i, .sfuBin i, .sfuMoments i, .sfuMerge i, .sfuNorm i, .sfuSmaxfin i] →
    8 ≤ fieldOf i.word 3 0 → fieldOf i.word 3 0 ≤ 13 → SfuReady s i →
    ∃ u : State, exec c s = .next u.settle ∧ CloveFrame i s u ∧ OneClove i.home s u ∧
      u.clove i.home = { s.clove i.home with
        sb := (s.clove i.home).sb ++
          (s.clove i.home).slotEntry 2 s.issueNo (SfuOp.ofWord i.word).dst.toNat
            ((SfuOp.ofWord i.word).outSlots ((s.clove i.home).region (SfuOp.ofWord i.word).dst.toNat)) ::
          (statRange ((SfuOp.ofWord i.word).desc (s.clove i.home)) (SfuOp.ofWord i.word).count.toNat).map
            (fun r => ⟨2, r, s.issueNo, none⟩)
        tickets := (s.clove i.home).tickets ++
          ((SfuOp.ofWord i.word).uses i.home).map (fun q => (s.issueNo, q.rn, q.write))
        sfuSeq := (s.clove i.home).sfuSeq + 1
        sfu := [⟨i, s.issueNo, srStart (s.reg .prtSroundSeed i.part 0) (s.clove i.home).sfuSeq.toNat
          (cloveX i.home * 2 ^ 11 + cloveY i.home * 2 + 2 ^ 31), 0, [], [], []⟩] }

/-- R143, R149, R152, R153: a row of SFU_MOMENTS whose words have been read gives the moment entry of its elements, and a
pair of SFU_MERGE the merge of its two entries; the row is counted, and its words wait for space in DST. Nothing else
of the machine changes. R153: merging with an entry of no elements leaves the other entry's count, mean and sum as
they were, and marks what either marks. -/
def Obligations.SfuRowsMakeMoments : Prop :=
  (∀ (s : State) (k : Nat) (u : SfuWork) (us : List SfuWork), (s.clove k).sfu = u :: us → u.out = [] →
     u.row < (SfuOp.ofWord u.op.word).count.toNat → (SfuOp.ofWord u.op.word).srcLen ≤ u.a.length →
     ((SfuOp.ofWord u.op.word).op = 10 → (SfuOp.ofWord u.op.word).srcVec = true → s.sfuStep k = some (s.modClove k (fun c =>
       { c with sfu := { u with
         row := u.row + 1, a := [], b := if (SfuOp.ofWord u.op.word).bcast = 1 then u.b else []
         out := (Moment.ofRow ((SfuOp.ofWord u.op.word).sub == 1) ((List.range (SfuOp.ofWord u.op.word).rowlen.toNat).map
           (fun j => (w44Val (u.a.getD j (0, false)).1, (u.a.getD j (0, false)).2)))).toWords.map some } :: us }))) ∧
     ((SfuOp.ofWord u.op.word).op = 11 → (SfuOp.ofWord u.op.word).sub = 0 → (SfuOp.ofWord u.op.word).src2Len ≤ u.b.length →
       (SfuOp.ofWord u.op.word).bcast = 0 → s.sfuStep k = some (s.modClove k (fun c =>
       { c with sfu := { u with
         row := u.row + 1, a := [], b := []
         out := ((Moment.ofWords u.a).merge (Moment.ofWords u.b)).toWords.map some } :: us })))) ∧
  (∀ a b : Moment, (a.n = 0 → a.merge b = { b with mark := a.mark || b.mark }) ∧
     (a.n ≠ 0 → b.n = 0 → a.merge b = { a with mark := a.mark || b.mark }) ∧
     (a.merge b).n = a.n + b.n ∧ (a.merge b).mark = (a.mark || b.mark))

/-- R130, R144, R239: EPI_WRITE of four unmarked words that form a descriptor without reserved fields sets that epilogue
entry and takes an SFU sequence number, and moves nothing else. -/
def Obligations.EpiWriteSetsEntry : Prop :=
  ∀ (s : State) (i : Issue), fieldOf i.word 3 0 = 14 → Open s i → i.mark = false →
    SfuOp.badWord i.word none = false →
    s.epiInUse i.home (SfuOp.ofWord i.word).epi.toNat = false →
    (s.clove i.home).busyRange (SfuOp.ofWord i.word).addr.toNat 4 = false →
    (∀ a, ((s.clove i.home).word a).ecc = 0) →
    ((s.clove i.home).getWords (SfuOp.ofWord i.word).addr.toNat 4).any (·.2) = false →
    (epiReserved ((s.clove i.home).descAt (SfuOp.ofWord i.word).addr.toNat) ||
      fnReserved (bitField ((s.clove i.home).descAt (SfuOp.ofWord i.word).addr.toNat).toNat 0 8)) = false →
    ∃ t, exec (.epiWrite i) s = .next t ∧ CloveFrame i s t ∧ OneClove i.home s t ∧
      t.clove i.home = { s.clove i.home with
        epi := (s.clove i.home).epi.put (SfuOp.ofWord i.word).epi.toNat ((s.clove i.home).descAt (SfuOp.ofWord i.word).addr.toNat)
        sfuSeq := (s.clove i.home).sfuSeq + 1 }

/-! ### Regions and remote access -/

/-- An instruction sends messages and changes cloves; its issue number is taken and progress is noted. -/
def Sys2Proof.Machine.SendFrame (i : Issue) (ms : List Msg) (s t : State) : Prop :=
  t = { s with issueNo := s.issueNo + 1, cloves := t.cloves, msgs := s.msgs ++ ms, err := (s.progressed i.part).err }

/-- The message that returns a credit of a region to its producer (R174, R225). -/
def Sys2Proof.Machine.Region.creditMsg (r : Region) (k : Nat) : Msg :=
  if r.pkind then .creditRetQ k (partOf (cloveX k) (cloveY k)) r.prod else .creditRet k r.prod r.pch

/-- R170: SET of a region that no instruction uses, that is not credited and into which no slot is on its way, makes it
the region the word describes, empty; a credited one sends its producer a grant of as many credits as it has slots.
R174, R176: POP releases N slots of a set region, or all that are full where they are fewer, and DROP every one; a
credited region returns one credit for each slot released. No word of the scratchpad moves. -/
def Obligations.RegionsAreSetAndReleased : Prop :=
  (∀ (s : State) (i : Issue), fieldOf i.word 3 0 = 5 → (RgnOp.ofWord i.word).sub = 0 → Open s i → i.mark = false →
     RgnOp.badWord i.word = false → (RgnOp.ofWord i.word).overlaps (s.clove i.home) = false →
     ((RgnOp.ofWord i.word).cred == 1 && (RgnOp.ofWord i.word).pkind == 0 &&
       (decide ((RgnOp.ofWord i.word).px.toNat > 383) || decide ((RgnOp.ofWord i.word).py.toNat > 87))) = false →
     (s.clove i.home).using s.issueNo (RgnOp.ofWord i.word).rgn.toNat = false →
     ((s.clove i.home).region (RgnOp.ofWord i.word).rgn.toNat).cred = false →
     s.slotComing i.home (RgnOp.ofWord i.word).rgn.toNat = false →
     ∃ t, exec (.rgnSet i) s = .next t ∧ OneClove i.home s t ∧
       SendFrame i (if (RgnOp.ofWord i.word).cred = 0 then []
         else if (RgnOp.ofWord i.word).pkind = 1 then [.grantQ i.home i.part (RgnOp.ofWord i.word).px.toNat
           (RgnOp.ofWord i.word).rgn.toNat (RgnOp.ofWord i.word).slotw.toNat (RgnOp.ofWord i.word).slots.toNat]
         else [.grant i.home ((RgnOp.ofWord i.word).producer i.home) (RgnOp.ofWord i.word).pch.toNat
           (RgnOp.ofWord i.word).rgn.toNat (RgnOp.ofWord i.word).slotw.toNat (RgnOp.ofWord i.word).slots.toNat]) s t ∧
       (∃ r : Region, t.clove i.home = (s.clove i.home).setRegion (RgnOp.ofWord i.word).rgn.toNat r ∧
         r.set = true ∧ r.base = (RgnOp.ofWord i.word).base.toNat ∧ r.slotw = (RgnOp.ofWord i.word).slotw.toNat ∧
         r.slots = (RgnOp.ofWord i.word).slots.toNat ∧ r.head = 0 ∧ r.tail = 0 ∧ r.fill = 0 ∧
         r.manual = ((RgnOp.ofWord i.word).manual == 1) ∧ r.cred = ((RgnOp.ofWord i.word).cred == 1))) ∧
  (∀ (s : State) (i : Issue), fieldOf i.word 3 0 = 5 → Open s i → i.mark = false → RgnOp.badWord i.word = false →
     ((s.clove i.home).region (RgnOp.ofWord i.word).rgn.toNat).set = true →
     ∀ (r : Region) (n : Nat), r = (s.clove i.home).region (RgnOp.ofWord i.word).rgn.toNat →
       (((RgnOp.ofWord i.word).sub = 1 ∧ n = min (RgnOp.ofWord i.word).n.toNat r.fill ∧
           (s.clove i.home).tickets.any (fun t => decide (t.1 < s.issueNo) && t.2.1 == (RgnOp.ofWord i.word).rgn.toNat && !t.2.2) = false ∧
           s.notRead s.issueNo i.home [r.tailRuns n] = true) ∨
         ((RgnOp.ofWord i.word).sub = 2 ∧ n = r.fill ∧
           (s.clove i.home).using s.issueNo (RgnOp.ofWord i.word).rgn.toNat = false ∧
           s.slotComing i.home (RgnOp.ofWord i.word).rgn.toNat = false)) →
       ∀ c ∈ (if (RgnOp.ofWord i.word).sub = 1 then [Instr.pop i] else [.drop i]),
       ∃ t r', exec c s = .next t ∧ OneClove i.home s t ∧
         SendFrame i (if r.cred then List.replicate n (r.creditMsg i.home) else []) s t ∧
         t.clove i.home = (s.clove i.home).setRegion (RgnOp.ofWord i.word).rgn.toNat r' ∧
         r'.fill = r.fill - n ∧ r'.rpos = 0 ∧ r'.head = r.head ∧
         r'.tail = (if (RgnOp.ofWord i.word).sub = 1 then (r.tail + n) % max r.slots 1 else r.head))

/-- R180 to R183, R234: what each form of REMOTE does in its clove and puts on the mesh, where its target is in its partition
and has power: READ reserves its local range and sends the read, WRITE and SLOT send their words and count one access
more, a SLOT against a credit of its channel, and UNBIND clears its channel. -/
def Obligations.RemoteSends : Prop :=
  ∀ (s : State) (i : Issue), fieldOf i.word 3 0 = 6 → Open s i → i.mark = false → RemoteOp.badWord i.word = false →
    ((RemoteOp.ofWord i.word).sub.toNat < 2 → (RemoteOp.ofWord i.word).rx.toNat ≤ 383 ∧ (RemoteOp.ofWord i.word).ry.toNat ≤ 87 ∧
      s.powered (cloveX (partClove i.part (RemoteOp.ofWord i.word).rx.toNat (RemoteOp.ofWord i.word).ry.toNat))
        (cloveY (partClove i.part (RemoteOp.ofWord i.word).rx.toNat (RemoteOp.ofWord i.word).ry.toNat)) = true) →
    ((RemoteOp.ofWord i.word).sub ≠ 0 → ∀ a, ((s.clove i.home).word a).ecc = 0) →
    ((RemoteOp.ofWord i.word).sub = 0 → 0 < (s.clove i.home).freeSb 3 →
      s.notRead s.issueNo i.home [[((RemoteOp.ofWord i.word).laddr.toNat, (RemoteOp.ofWord i.word).len.toNat)]] = true →
      ∃ t, exec (.remoteRead i) s = .next t ∧ OneClove i.home s t ∧
        SendFrame i [.readReq i.home (partClove i.part (RemoteOp.ofWord i.word).rx.toNat (RemoteOp.ofWord i.word).ry.toNat)
          (RemoteOp.ofWord i.word).raddr.toNat (RemoteOp.ofWord i.word).laddr.toNat (RemoteOp.ofWord i.word).len.toNat] s t ∧
        t.clove i.home = { s.clove i.home with
          sb := (s.clove i.home).sb ++
            [⟨3, [((RemoteOp.ofWord i.word).laddr.toNat, (RemoteOp.ofWord i.word).len.toNat)], s.issueNo, none⟩]
          reads := (s.clove i.home).reads + 1 }) ∧
    ((RemoteOp.ofWord i.word).sub = 1 →
      ∃ t, exec (.remoteWrite i) s = .next t ∧ OneClove i.home s t ∧
        SendFrame i [.write i.home (partClove i.part (RemoteOp.ofWord i.word).rx.toNat (RemoteOp.ofWord i.word).ry.toNat)
          (RemoteOp.ofWord i.word).raddr.toNat
          ((s.clove i.home).getWords (RemoteOp.ofWord i.word).laddr.toNat (RemoteOp.ofWord i.word).len.toNat)
          (RemoteOp.ofWord i.word).len.toNat] s t ∧
        t.clove i.home = { s.clove i.home with unacked := (s.clove i.home).unacked + 1 }) ∧
    ((RemoteOp.ofWord i.word).sub = 2 → ∀ d, ((s.clove i.home).channel (RemoteOp.ofWord i.word).ch.toNat).target = some d →
      s.powered (cloveX d) (cloveY d) = true → 0 < ((s.clove i.home).channel (RemoteOp.ofWord i.word).ch.toNat).credits →
      ∃ t, exec (.remoteSlot i) s = .next t ∧ OneClove i.home s t ∧
        SendFrame i [.slot i.home d ((s.clove i.home).channel (RemoteOp.ofWord i.word).ch.toNat).rgn
          (RemoteOp.ofWord i.word).ch.toNat ((s.clove i.home).getWords (RemoteOp.ofWord i.word).laddr.toNat
            ((s.clove i.home).channel (RemoteOp.ofWord i.word).ch.toNat).slotw)] s t ∧
        t.clove i.home = { (s.clove i.home).setChannel (RemoteOp.ofWord i.word).ch.toNat
            { (s.clove i.home).channel (RemoteOp.ofWord i.word).ch.toNat with
              credits := ((s.clove i.home).channel (RemoteOp.ofWord i.word).ch.toNat).credits - 1 }
          with unacked := (s.clove i.home).unacked + 1 }) ∧
    ((RemoteOp.ofWord i.word).sub = 3 → s.slotSent i.home (RemoteOp.ofWord i.word).ch.toNat = false →
      ∃ t, exec (.remoteUnbind i) s = .next t ∧ OneClove i.home s t ∧ CloveFrame i s t ∧
        t.clove i.home = (s.clove i.home).setChannel (RemoteOp.ofWord i.word).ch.toNat Channel.unbound)

/-- R182, R183, R233, where the target has power: a WRITE that meets no region and no range being written stores its words
at its target and is acknowledged; a READ of words that no instruction is still to write answers them; a SLOT for a set
region with space, from the channel that produces it, fills slot HEAD and is acknowledged. R182, R183, R234: an
acknowledgement counts one access down, and read data is stored, its range free again; a grant binds a free channel, or
adds to the credits of the one it names, at most 255; a returned credit adds one; an unbind clears the channel that names
its region. -/
def Obligations.MessagesLand : Prop :=
  (∀ (s : State) (src dst : Nat), Quiet s → s.powered (cloveX dst) (cloveY dst) = true →
     (∀ (a l : Nat) (ws : List (W64 × Bool)) (ms : List Msg), s.msgs = .write src dst a ws l :: ms →
       (s.clove dst).regions.any (fun e => e.2.set && runsMeet a ws.length e.2.base e.2.size) = false →
       (s.clove dst).busyRange a ws.length = false →
       exec (.remoteAccessArrival src ⟨dst, []⟩) s = .next { s with
         msgs := ms ++ [.ackMsg dst src false], cloves := s.cloves.put dst ((s.clove dst).putWords a ws) }) ∧
     (∀ (a la n : Nat) (ms : List Msg), s.msgs = .readReq src dst a la n :: ms → (s.clove dst).busyRange a n = false →
       (∀ a, ((s.clove dst).word a).ecc = 0) →
       exec (.remoteAccessArrival src ⟨dst, []⟩) s = .next { s with
         msgs := ms ++ [.readData dst src la ((s.clove dst).getWords a n)] }) ∧
     (∀ (rn ch : Nat) (ws : List (W64 × Bool)) (ms : List Msg), s.msgs = .slot src dst rn ch ws :: ms →
       ((s.clove dst).region rn).set = true → ((s.clove dst).region rn).stopped = false →
       ((s.clove dst).region rn).hasSpace = true → ((s.clove dst).region rn).pkind = false →
       ((s.clove dst).region rn).prod = src → ((s.clove dst).region rn).pch = ch →
       ∃ t, exec (.remoteAccessArrival src ⟨dst, []⟩) s = .next t ∧ OneClove dst s t ∧
         t = { s with cloves := t.cloves, msgs := ms ++ [.ackMsg dst src false] } ∧
         ((t.clove dst).region rn).fill = ((s.clove dst).region rn).fill + 1 ∧
         (t.clove dst).scratch = ((s.clove dst).putWords ((s.clove dst).region rn).headBase
           (ws.take ((s.clove dst).region rn).slotw)).scratch)) ∧
  (∀ (s : State) (src dst : Nat) (ms : List Msg), Quiet s →
     (s.msgs = .ackMsg src dst false :: ms →
       exec (.remoteAck src dst) s = .next { s with
         msgs := ms, cloves := s.cloves.put dst { s.clove dst with unacked := (s.clove dst).unacked - 1 } }) ∧
     (∀ la ws, s.msgs = .readData src dst la ws :: ms →
       exec (.remoteAck src dst) s = .next { s with
         msgs := ms, cloves := s.cloves.put dst { ((s.clove dst).putWords la ws).freeRange la ws.length with
           reads := (s.clove dst).reads - 1 } }) ∧
     (∀ h rn w n, s.msgs = .grant src dst h rn w n :: ms →
       (((s.clove dst).channel h).target = none ∨
         (((s.clove dst).channel h).target = some src ∧ ((s.clove dst).channel h).rgn = rn)) →
       exec (.grantArrival src dst) s = .next { s with
         msgs := ms, cloves := s.cloves.put dst ((s.clove dst).setChannel h
           ⟨some src, rn, w, min (((s.clove dst).channel h).credits + n) 255⟩) }) ∧
     (∀ h, s.msgs = .creditRet src dst h :: ms → ((s.clove dst).channel h).target = some src →
       exec (.creditReturnArrival src dst) s = .next { s with
         msgs := ms, cloves := s.cloves.put dst ((s.clove dst).setChannel h
           { (s.clove dst).channel h with credits := min (((s.clove dst).channel h).credits + 1) 255 }) }) ∧
     (∀ h rn, s.msgs = .unbind src dst h rn :: ms →
       ((s.clove dst).channel h).target = some src → ((s.clove dst).channel h).rgn = rn →
       (∀ m ∈ ms, ∀ d r ws, m ≠ .slot dst d r h ws) →
       exec (.unbindArrival src dst) s = .next { s with
         msgs := ms, cloves := s.cloves.put dst ((s.clove dst).setChannel h Channel.unbound) }))

/-! ### Stream queues, fences and barriers -/

/-- An instruction changes a queue of its partition: its issue number is taken and progress is noted. -/
def Sys2Proof.Machine.QueueFrame (i : Issue) (n : Nat) (s t : State) : Prop :=
  t = { s with
    issueNo := s.issueNo + 1, cloves := t.cloves, parts := t.parts, nextReq := s.nextReq + n
    err := (s.progressed i.part).err } ∧ ∀ k, t.clove k = s.clove k

/-- R234, R236: a FENCE makes the clove's fence of its scope pending, and a BARRIER that arrives its FENCE.ALL with the
barrier's arrival; a BARRIER that only waits sends its wait. Each notes its own issue number and that of the next
transfer, which divide what it waits for from what it holds. Pending fences whose conditions hold are released together,
and an arrival is then sent. R236: an arrival with the barrier's count adds one to it; the last one, BCOUNT of them, opens
the next phase at count 0, and releases every clove that waits for the phase that ends; one that waits as it arrives
waits for that phase, and so does a wait alone; an arrival with another count is not counted, and a record says so. -/
def Obligations.FencesAndBarriers : Prop :=
  ((∀ (s : State) (i : Issue), fieldOf i.word 3 0 = 15 → Open s i → i.mark = false → FabricOp.badWord i.word = false →
     ((FabricOp.ofWord i.word).sub = 2 → ∀ c ∈ [Instr.fenceRemote i, .fenceStore i, .fenceAll i],
       ∃ t, exec c s = .next t ∧ CloveFrame i s t ∧ OneClove i.home s t ∧
         t.clove i.home = { s.clove i.home with
           fences := (s.clove i.home).fences ||| BitVec.ofNat 3 (2 ^ (FabricOp.ofWord i.word).scope.toNat)
           fenceNo := s.issueNo, fenceXfer := s.nextReq }) ∧
     ((FabricOp.ofWord i.word).sub = 3 → (FabricOp.ofWord i.word).arrive = 1 →
       ∃ t, exec (.barrier i) s = .next t ∧ CloveFrame i s t ∧ OneClove i.home s t ∧
         t.clove i.home = { s.clove i.home with
           fences := (s.clove i.home).fences ||| 4
           barr := some ((FabricOp.ofWord i.word).bid.toNat, (FabricOp.ofWord i.word).bcount.toNat,
             (FabricOp.ofWord i.word).wait == 1)
           fenceNo := s.issueNo, fenceXfer := s.nextReq }) ∧
     ((FabricOp.ofWord i.word).sub = 3 → (FabricOp.ofWord i.word).arrive = 0 →
       ∃ t, exec (.barrier i) s = .next t ∧ OneClove i.home s t ∧
         t.clove i.home = { s.clove i.home with fenceNo := s.issueNo, fenceXfer := s.nextReq } ∧
         SendFrame i (if (FabricOp.ofWord i.word).wait = 1
           then [.arrive i.home i.part (FabricOp.ofWord i.word).bid.toNat 0 true] else []) s t)) ∧
   (∀ (s : State) (x y : Nat), Quiet s → (s.clove (cloveNo x y)).fences ≠ 0 → s.fenceMet (cloveNo x y) = true →
     exec (.fenceRelease x y) s = .next { s with
       cloves := s.cloves.put (cloveNo x y) { s.clove (cloveNo x y) with fences := 0, barr := none }
       msgs := s.msgs ++ (match (s.clove (cloveNo x y)).barr with
         | some (b, n, w) => [.arrive (cloveNo x y) (partOf (cloveX (cloveNo x y)) (cloveY (cloveNo x y))) b n w]
         | none => []) })) ∧
  (∀ (s : State) (p b k : Nat) (ms : List Msg), Quiet s → s.msgs = .arrive k p b 0 true :: ms →
     exec (.barrierArrival p ⟨b, [k]⟩) s = .next { s with
       msgs := ms, cloves := s.cloves.put k { s.clove k with bwait := some (b, (s.barrier p b).phase) } }) ∧
  (∀ (s : State) (p b k n m : Nat) (w : Bool) (ms : List Msg), Quiet s → s.msgs = .arrive k p b n w :: ms → 0 < n →
     (s.barrier p b).bcount = some m → m ≠ n →
     ∃ t, exec (.barrierArrival p ⟨b, [k]⟩) s = .next t ∧ t.parts = s.parts ∧ t.err.nextSeq = s.err.nextSeq + 1 ∧ OneClove k s t ∧
       t.clove k = { s.clove k with bwait := if w then some (b, (s.barrier p b).phase) else (s.clove k).bwait }) ∧
  (∀ (s : State) (p b k n : Nat) (w : Bool) (ms : List Msg), Quiet s → s.msgs = .arrive k p b n w :: ms → 0 < n →
     ((s.barrier p b).bcount = none ∨ (s.barrier p b).bcount = some n) →
     ∃ t, exec (.barrierArrival p ⟨b, [k]⟩) s = .next t ∧ t = { s with cloves := t.cloves, parts := t.parts, msgs := ms } ∧
       (∀ q c, (q ≠ p ∨ c ≠ b) → t.barrier q c = s.barrier q c) ∧
       ((s.barrier p b).count + 1 < n →
         t.barrier p b = { count := (s.barrier p b).count + 1, bcount := some n, phase := (s.barrier p b).phase } ∧
         OneClove k s t ∧
         t.clove k = { s.clove k with bwait := if w then some (b, (s.barrier p b).phase) else (s.clove k).bwait }) ∧
       (n ≤ (s.barrier p b).count + 1 →
         t.barrier p b = { count := 0, bcount := none, phase := (s.barrier p b).phase + 1 } ∧
         ∀ m c, t.cloves.at? m = some c → partOf (cloveX m) (cloveY m) = p →
           c.bwait ≠ some (b, (s.barrier p b).phase)))

/-- R224, R226: SQ_SET of four unmarked words that form a context gives an idle queue that context, with no transfer,
binding or slot; SQ_POST of a good descriptor inside the partition's ranges adds one transfer to the end of the posted
list, with nothing requested of it yet. R226, R227, R228: a queue below MAXOUT asks for the next bytes of its first
transfer that has any left: a load for bound cloves takes one credit of each for a slot that it opens; a store takes the
words of its source clove's oldest full slot. Delivery of a served load request writes its words into its slot, in every
clove of the block for MCAST, and counts its bytes. A transfer all of whose bytes are done leaves the front of the posted
list. -/
def Obligations.QueuesTakeAndMove : Prop :=
  (∀ (s : State) (i : Issue) (d : BitVec 256), fieldOf i.word 3 0 = 15 → Open s i → i.mark = false →
     FabricOp.badWord i.word = false → (∀ a, ((s.clove i.home).word a).ecc = 0) →
     ((s.clove i.home).getWords (FabricOp.ofWord i.word).addr.toNat 4).any (·.2) = false →
     d = (s.clove i.home).descAt (FabricOp.ofWord i.word).addr.toNat →
     ((FabricOp.ofWord i.word).sub = 0 → badContext d = false → (s.queue i.part (FabricOp.ofWord i.word).sq.toNat).posted = [] →
       ∃ t, exec (.sqSet i) s = .next t ∧ QueueFrame i 0 s t ∧
         t.queue i.part (FabricOp.ofWord i.word).sq.toNat = { Queue.none with ctx := some d } ∧
         ∀ p j, (p ≠ i.part ∨ j ≠ (FabricOp.ofWord i.word).sq.toNat) → t.queue p j = s.queue p j) ∧
     ((FabricOp.ofWord i.word).sub = 1 → badTransfer d = false →
       (s.queue i.part (FabricOp.ofWord i.word).sq.toNat).ctx.isSome = true →
       s.transferFits i.part (Transfer.ofBits 0 d (some i.home)) = true →
       (s.queue i.part (FabricOp.ofWord i.word).sq.toNat).posted.length < 16 →
       ∃ t x, exec (.sqPost i) s = .next t ∧ QueueFrame i 1 s t ∧
         (x.no = s.nextReq ∧ x.haddr = bitField d.toNat 0 64 ∧ x.rowBytes = bitField d.toNat 64 32 ∧
           x.rows = bitField d.toNat 96 32 ∧ x.hstride = signedOf 64 (bitField d.toNat 128 64) ∧ x.issued = 0 ∧ x.done = 0) ∧
         t.queue i.part (FabricOp.ofWord i.word).sq.toNat =
           { s.queue i.part (FabricOp.ofWord i.word).sq.toNat with
             posted := (s.queue i.part (FabricOp.ofWord i.word).sq.toNat).posted ++ [x] } ∧
         ∀ p j, (p ≠ i.part ∨ j ≠ (FabricOp.ofWord i.word).sq.toNat) → t.queue p j = s.queue p j)) ∧
  ((∀ (s : State) (p j arrival : Nat) (ctx : BitVec 256) (x : Transfer) (ds : List Nat) (w : Nat), Quiet s →
     (s.queue p j).ctx = some ctx → (s.queue p j).posted.find? (fun t => decide (t.issued < t.total)) = some x →
     (s.outstanding p j).length < bitField ctx.toNat 8 8 + 1 → ctx.getLsbD 0 = false →
     ds = (if ctx.getLsbD 1 then ctxBlock ctx p else [(ctxBlock ctx p).getD (x.piece % max (ctxBlock ctx p).length 1) 0]) →
     ds.Nodup → (∀ d ∈ ds, ∃ b, (s.queue p j).binds.at? d = some b ∧ (0 < b.credits ∨ b.opens x = false)) →
     (s.queue p j).slotw = some w → w ≠ 0 → tierOf x.nextAddr = none →
     ∃ t r, exec (.sqRequestIssue p j ⟨arrival, []⟩) s = .next t ∧
       t = { s with parts := t.parts, memStacks := t.memStacks, nextReq := s.nextReq + 1 } ∧
       (r.id = s.nextReq ∧ r.xfer = x.no ∧ r.part = p ∧ r.queue = j ∧ r.store = false ∧ r.addr = x.nextAddr ∧
         r.len = x.nextLen w ∧ r.clove = ds.getD 0 0) ∧
       (t.stack (x.nextAddr / stackSpan)).reqs = (s.stack (x.nextAddr / stackSpan)).reqs ++ [r] ∧
       (t.queue p j).posted = (s.queue p j).posted.map (fun u => if u.no = x.no then x.advance w (x.nextLen w) else u) ∧
       ∀ d ∈ ds, ∀ b, (s.queue p j).binds.at? d = some b → (t.queue p j).binds.at? d = some
         (if b.opens x then { b with credits := b.credits - 1, slots := b.slots + 1 } else b)) ∧
   (∀ (s : State) (p j arrival : Nat) (ctx : BitVec 256) (x : Transfer) (k : Nat) (g : Region), Quiet s →
     (s.queue p j).ctx = some ctx → (s.queue p j).posted.find? (fun t => decide (t.issued < t.total)) = some x →
     (s.outstanding p j).length < bitField ctx.toNat 8 8 + 1 → ctx.getLsbD 0 = true →
     k = (ctxBlock ctx p).getD (x.piece % max (ctxBlock ctx p).length 1) 0 → g = (s.clove k).region (bitField ctx.toNat 80 3) →
     g.set = true → g.fill ≠ 0 → (∀ a, ((s.clove k).word a).ecc = 0) → tierOf x.nextAddr = none →
     ∃ t r, exec (.sqRequestIssue p j ⟨arrival, []⟩) s = .next t ∧ OneClove k s t ∧ (t.clove k).scratch = (s.clove k).scratch ∧
       t = { s with cloves := t.cloves, parts := t.parts, msgs := t.msgs, memStacks := t.memStacks, nextReq := s.nextReq + 1 } ∧
       (r.id = s.nextReq ∧ r.xfer = x.no ∧ r.part = p ∧ r.queue = j ∧ r.store = true ∧ r.addr = x.nextAddr ∧
         r.len = x.nextLen g.slotw ∧ r.clove = k ∧ r.data = (s.clove k).getWords (g.tailBase 0 + g.rpos) (r.len / 8)) ∧
       (t.stack (x.nextAddr / stackSpan)).reqs = (s.stack (x.nextAddr / stackSpan)).reqs ++ [r] ∧
       (t.queue p j).posted = (s.queue p j).posted.map (fun u =>
         if u.no = x.no then x.advance g.slotw (x.nextLen g.slotw) else u)) ∧
   (∀ (s : State) (p j id : Nat) (r : Req), Quiet s →
     s.inflight.find? (fun r => r.part == p && r.queue == j && r.id == id && r.served && !r.store) = some r →
     (s.reqCloves r).Nodup →
     ∃ t, exec (.sqLoadDelivery p j id) s = .next t ∧
       t = { s with cloves := t.cloves, parts := t.parts, inflight := s.inflight.filter (fun u => u.id ≠ id) } ∧
       (t.queue p j).posted = (s.queue p j).posted.map (fun u => if u.no = r.xfer then { u with done := u.done + r.len } else u) ∧
       (∀ k, k ∉ s.reqCloves r → t.clove k = s.clove k) ∧
       ∀ k ∈ s.reqCloves r, ∀ b n g, (s.queue p j).binds.at? k = some b → r.slots.at? k = some n →
         g = (s.clove k).region b.rgn →
         (t.clove k).scratch = ((s.clove k).putWords
           (g.base + (g.head + (n - b.landed)) % max g.slots 1 * g.slotw + r.word) r.data).scratch) ∧
   (∀ (s : State) (p j : Nat) (x : Transfer) (xs : List Transfer), Quiet s → (s.queue p j).posted = x :: xs →
     x.total ≤ x.done → x.tag = none → (s.part p).appends = [] → (s.part p).shares = [] →
     ∃ t, exec (.sqTransferComplete p j) s = .next t ∧
       t = { s with parts := t.parts, err := (s.progressed p).err } ∧
       t.queue p j = { s.queue p j with posted := xs } ∧ ∀ q m, (q ≠ p ∨ m ≠ j) → t.queue q m = s.queue q m))

/-- R185, R187: a scrub read of a word without error in a powered clove leaves every word as it is and moves to the next
word; one found correctable is queued for write-back, its data untouched; a forced slot of the bank that holds the
next word does the same, and one of another bank nothing. A write-back stores the oldest queued word without its
error. R218: a word that has failed four times or fewer on its link is late and no more; the fifth failure delivers it
marked, where it is on the mesh, in a request of a queue or in the scratchpad word that it lands in, counts it in
FLD_FAB_STAT.LINK_UE and logs LINK_UE. -/
def Obligations.WordsFailAndAreScrubbed : Prop :=
  (∀ (s : State) (x y : Nat), s.powered (cloveX (cloveNo x y)) (cloveY (cloveNo x y)) = true →
     (∀ (found bank : Nat), found ≤ 1 → ((s.clove (cloveNo x y)).word (s.clove (cloveNo x y)).scrubAt).ecc = 0 →
       (s.clove (cloveNo x y)).scrubAt < 4095 → (s.clove (cloveNo x y)).scrubQ = [] →
       ∃ t, exec (.scrubRead x y found) s = .next t ∧ OneClove (cloveNo x y) s t ∧
         exec (.scrubForcedSlot x y bank found) s =
           .next (if (s.clove (cloveNo x y)).scrubAt % 16 = bank then t else s) ∧
         (t.clove (cloveNo x y)).scrubAt = (s.clove (cloveNo x y)).scrubAt + 1 ∧
         (t.clove (cloveNo x y)).scrubQ = (if found = 1 then [(s.clove (cloveNo x y)).scrubAt] else []) ∧
         ∀ a, ((t.clove (cloveNo x y)).word a).data = ((s.clove (cloveNo x y)).word a).data ∧
           ((t.clove (cloveNo x y)).word a).mark = ((s.clove (cloveNo x y)).word a).mark) ∧
     (∀ a as, (s.clove (cloveNo x y)).scrubQ = a :: as → a < 4096 →
       ∃ t, exec (.scrubWriteback x y) s = .next t ∧ t = { s with cloves := t.cloves } ∧ OneClove (cloveNo x y) s t ∧
         (t.clove (cloveNo x y)).scrubQ = as ∧
         ∀ b, b < 4096 → (t.clove (cloveNo x y)).word b =
           if b = a then { (s.clove (cloveNo x y)).word a with ecc := 0 } else (s.clove (cloveNo x y)).word b)) ∧
  (∀ (s : State) (field seam link fails : Nat) (w : LinkPlace) (i : Nat), field < 96 →
     (fails < 5 → exec (.linkWordFail field seam link fails w i) s = .next s) ∧
     (5 ≤ fails → ∃ t r, exec (.linkWordFail field seam link fails w i) s = .next t ∧
       t.fld .fldFabStat field 0 31 16 = min (s.fld .fldFabStat field 0 31 16 + 1) 65535 ∧
       t.err.nextSeq = s.err.nextSeq + 1 ∧ t.err.log.at? (s.err.nextSeq % 4096) = some r ∧ r.code = Code.linkUe.val ∧
       (∀ dst, w = .landed dst → OneClove dst s t ∧ ∀ a, a < 4096 → (t.clove dst).word a =
         if a = i % 4096 then { (s.clove dst).word a with mark := true } else (s.clove dst).word a) ∧
       (∀ n m, w = .mesh n → s.msgs[n]? = some m → t.cloves = s.cloves ∧ t.msgs = s.msgs.set n (m.markWord i)) ∧
       (∀ id, w = .request id → t.cloves = s.cloves ∧ t.msgs = s.msgs ∧
         t.inflight = s.inflight.map (fun q => if q.id = id then { q with data := markWordAt q.data i } else q))))

/-! ### Loops and dispatch -/

/-- A loop program that no rule of R197 and R209 refuses, at the words that the LOOP names. -/
structure Sys2Proof.Machine.LoopReady (s : State) (i : Issue) (p : List Byte) : Prop where
  opened : Open s i
  plain : i.mark = false
  idle : (s.clove i.home).looping = false
  clean : ∀ a, ((s.clove i.home).word a).ecc = 0 ∧ ((s.clove i.home).word a).mark = false
  free : (s.clove i.home).sb = []
  copied : p = (s.clove i.home).bytesAt (LoopOp.ofWord i.word).daddr.toNat
    (ceilDiv (progBytes (min (nlev ((s.clove i.home).bytesAt (LoopOp.ofWord i.word).daddr.toNat 1)) 6)
      (min (nbody ((s.clove i.home).bytesAt (LoopOp.ofWord i.word).daddr.toNat 1)) 16)) 8)
  word : i.word &&& LoopOp.reserved = 0
  aligned : (LoopOp.ofWord i.word).daddr.toNat % 16 = 0
  levels : 1 ≤ nlev p ∧ nlev p ≤ 6
  header : headerOk p = true
  gang : (s.loopArrays i.home p).all (s.gangIs i.home p) = true
  operands : (List.range (nops p)).all (operandOk p) = true
  level : (List.range (nlev p)).all (levelOk p) = true
  menu : menuOk p (s.loopGang i.home p).side = true
  body : (List.range (nbody p)).all (bodyOk p (s.loopGang i.home p) i.home) = true
  place : (LoopOp.ofWord i.word).nbidx.toNat < nbx p * nby p ∧ (LoopOp.ofWord i.word).nbnum.toNat < nnb p
  tables : ∀ l ∈ List.range (nlev p), 1 ≤ l → progAt p (levOff l + 13) 1 = 2 →
    iters p l 0 * iters p l 1 * iters p l 2 ≤ 256 ∧ isOrder (iters p l 0 * iters p l 1 * iters p l 2)
      (orderTable (s.clove i.home) (progAt p (levOff l + 16) 2) (iters p l 0 * iters p l 1 * iters p l 2)) = true
  length : nlev p = 6 → (LoopOp.ofWord i.word).seqlen.toNat ≤ bound p 5 0
  fits : overflow p (s.loopGang i.home p) = none
  armed : dispatched p = true → s.armedNow i.part (dctr p) = true

/-- R123, R124, R197: a good LOOP copies its program into the loop engine, which starts at the outermost level, and every
member of its gang begins its pass and SFU sequence numbers at 0. -/
def Obligations.LoopStarts : Prop :=
  ∀ (s : State) (i : Issue) (p : List Byte), fieldOf i.word 3 0 = 7 → LoopReady s i p →
    ∃ t r, exec (.loop i) s = .next t ∧ CloveFrame i s t ∧ (t.clove i.home).loop = some r ∧
      (r.word = i.word ∧ r.prog = p ∧ r.issued = [] ∧ r.todo = LoopRun.begin p ∧ r.held = false ∧
        r.done = (LoopRun.begin p).isEmpty) ∧
      ∀ k, (t.clove k).scratch = (s.clove k).scratch ∧
        (k ∈ (s.loopGang i.home p).members → (t.clove k).arrA.seq = 0 ∧ (t.clove k).arrB.seq = 0 ∧ (t.clove k).sfuSeq = 0) ∧
        (k ∉ (s.loopGang i.home p).members → t.clove k = s.clove k)

/-- R204, R205, R208, R214: an L0 iteration of a gang without a quarantined member issues its body entries in body order,
each to its target cloves, and a unit's phase 1 its own; an L4 iteration that no FENCE.ALL or barrier holds posts one
transfer for each operand that has a queue. Each then goes on to what the program does next. -/
def Obligations.LoopIterations : Prop :=
  ∀ (s : State) (x y : Nat) (r : LoopRun), (s.clove (cloveNo x y)).loop = some r → r.done = false →
    (s.clove (cloveNo x y)).loopHalted = false →
    (∀ ctx ph rest once, (r.todo = .level 0 ctx ph :: rest ∧ once = false ∨ r.todo = .once ctx :: rest ∧ once = true ∧ ph = 1) →
      (dispatched r.prog = true → (s.loopGang (cloveNo x y) r.prog).members.any (fun m => (s.clove m).quar) = false) →
      exec (.loopL0Iteration x y) s = .next (((List.range (nbody r.prog)).foldl
        (fun s b => s.loopEntry (cloveNo x y) once ctx ph b)
        (s.setLoop (cloveNo x y) { r with l3 := r.l3Of ctx })).nextItem (cloveNo x y)).settle) ∧
    (∀ ctx rest ps p, r.todo = .chunk ctx :: rest → r.chunkOver ctx = none →
      s.atBarrier (cloveNo x y) = false → (s.clove (cloveNo x y)).fences.getLsbD 2 = false →
      ps = ((List.range (nops r.prog)).filter (fun o => opSq r.prog o ≠ 255)).map (fun o =>
        (opSq r.prog o, r.chunkTransfer (cloveNo x y) o ctx)) →
      p = partOf (cloveX (cloveNo x y)) (cloveY (cloveNo x y)) →
      (∀ q ∈ ps, q.2.bad = false ∧ (s.queue p q.1).ctx.isSome = true ∧ s.transferFits p q.2 = true ∧
        (s.queue p q.1).posted.length + (ps.filter (fun u => u.1 == q.1)).length ≤ 16) →
      ∃ t : State, exec (.loopL4Iteration x y) s = .next t.settle ∧
        t.nextReq = s.nextReq + ps.length ∧
        t = (ps.foldl (fun s q => s.post p q.1 q.2) s).nextItem (cloveNo x y))

/-- R211, R213, R387: a leader's fetch of an armed counter that is neither hot nor withheld takes the index NEXT, which
counts up by one, and starts its iteration; one that no index can be given is answered DONE. A hot fetch is held and
counted, and a withheld one held; when its hold ends it takes the index that NEXT then names. -/
def Obligations.FetchTakesNext : Prop :=
  ∀ (s : State) (x y : Nat) (r : LoopRun) (ctx : List Visit) (ph : Nat) (rest : List LItem), Quiet s →
    (s.clove (cloveNo x y)).loop = some r → r.todo = .fetch ctx ph :: rest → r.done = false → r.op.nbidx = 0 →
    ∀ (k p n : Nat) (ms : List Nat), k = cloveNo x y → p = partOf (cloveX k) (cloveY k) → n = dctr r.prog →
      ms = r.near (s.loopGang k r.prog) →
      (∀ i, s.fetchIndex p n ms = some i → r.held = false → s.withheldFetch ms = false → s.hotFetch p n ms = false →
        ∃ t, exec (.dispatchFetch x y) s = .next t ∧
          t = { s with cloves := t.cloves, regs := (s.setFld .fldDspCnt (ctrField p n) (n % 16) 23 0 (i + 1)).regs } ∧
          (t.clove k).loop = some ((r.answer (some i)).expand expandFuel)) ∧
      (s.fetchIndex p n ms = none →
        ∃ t, exec (.dispatchFetch x y) s = .next t ∧ t = { s with cloves := t.cloves } ∧
          (t.clove k).loop = some ((r.answer none).expand expandFuel)) ∧
      (∀ i, s.fetchIndex p n ms = some i → r.held = false → s.withheldFetch ms = false → s.hotFetch p n ms = true →
        exec (.dispatchFetch x y) s = .next ((s.addFld .fldDspStat (ctrField p n) 0 15 0 1).setLoop k { r with held := true })) ∧
      (∀ i, s.fetchIndex p n ms = some i → r.held = false → s.withheldFetch ms = true →
        exec (.dispatchFetch x y) s = .next (s.setLoop k { r with held := true })) ∧
      (∀ i, s.fetchIndex p n ms = some i → r.held = true → s.withheldFetch ms = false →
        ∃ t, exec (.hotHoldExpiry x y) s = .next t ∧
          t = { s with cloves := t.cloves, regs := (s.setFld .fldDspCnt (ctrField p n) (n % 16) 23 0 (i + 1)).regs } ∧
          (t.clove k).loop = some ((r.answer (some i)).expand expandFuel))

/-! ### HBM, its controllers and the slower tier -/

/-- R229, R230, R231, R248, R249: a controller that serves one unmerged request takes it from its list; a load carries away
the words that HBM holds, marked where the code word that holds them is found uncorrectable, and where none is it leaves
HBM as it is; a store writes its words at its address and no other byte. R241, R248, R250, R252, R253: the oldest
corrected code word is written back; the patrol moves to its next code word, counts and queues one that it corrects,
poisons and counts one that it cannot correct, and counts a report of the on-die ECC; a channel of the map leaves service
to be retrained, where none of its stack is in retraining, and comes back, its failures in a row and its failed wires
counted: three failures, or more than 2 failed wires, make it failing. -/
def Obligations.StacksServeAndMaintain : Prop :=
  (∀ (s : State) (k now : Nat) (r : Req), Quiet s → s.pickReq k now = some r → s.merged k now r = [r] → r.addr / stackSpan = k →
     (r.store = false → exec (.memRequestServe k now [] ⟨[], []⟩) s = .next { s with
       memStacks := s.memStacks.put k { s.stack k with reqs := (s.stack k).reqs.filter (fun q => q.id ≠ r.id) }
       inflight := s.inflight ++ [{ r with data := s.hbmWords r.addr (r.len / 8), served := true }] }) ∧
     (r.store = false → ∀ f : HbmFinds, ∃ t q, exec (.memRequestServe k now f.bad ⟨f.fixed, f.onDie⟩) s = .next t ∧ t.inflight = s.inflight ++ [q] ∧
       q.id = r.id ∧ q.served = true ∧ q.data.length = r.len / 8 ∧ (t.stack k).reqs = (s.stack k).reqs.filter (fun q => q.id ≠ r.id) ∧
       ∀ i, i < r.len / 8 → (r.addr + 8 * i) / 64 ∈ f.bad → (q.data.getD i (0, false)).2 = true) ∧
     (r.store = true → (s.queue r.part r.queue).posted.find? (fun t => t.no == r.xfer) = none →
       ∃ t, exec (.memRequestServe k now [] ⟨[], []⟩) s = .next t ∧
         t = { s with memStacks := t.memStacks, hbm := t.hbm, parts := t.parts } ∧
         (t.stack k).reqs = (s.stack k).reqs.filter (fun q => q.id ≠ r.id) ∧
         (∀ i, i < r.data.length → t.hbmNat (r.addr + 8 * i) 8 = (r.data.getD i (0, false)).1.toNat) ∧
         ∀ a, (a < r.addr ∨ r.addr + 8 * r.data.length ≤ a) → t.hbmByte a = s.hbmByte a)) ∧
  (∀ (s : State) (k : Nat), k < 24 →
     exec (.hbmCorrectedWriteback k) s = .next { s with
       memStacks := s.memStacks.put k { s.stack k with writeback := (s.stack k).writeback.drop 1 } } ∧
     (∀ n cw, n = s.limitOf k / 64 → n ≠ 0 → s.limitOf k ≤ stackSpan → cw = k * stackSpan / 64 + (s.stack k).patrol % n →
       exec (.patrolRead k 0) s = .next { s with
         memStacks := s.memStacks.put k { s.stack k with patrol := ((s.stack k).patrol + 1) % n } } ∧
       (s.poisoned (64 * cw) = false →
         (∃ t, exec (.patrolRead k 1) s = .next t ∧ t = { s with memStacks := t.memStacks } ∧
           t.stack k = { s.stack k with
             patrol := ((s.stack k).patrol + 1) % n, corrected := (s.stack k).corrected + 1
             writeback := if cw ∈ (s.stack k).writeback then (s.stack k).writeback else (s.stack k).writeback ++ [cw] }) ∧
         ∃ t, exec (.patrolRead k 2) s = .next t ∧ t.poisoned (64 * cw) = true ∧ (t.stack k).patrol = ((s.stack k).patrol + 1) % n ∧
           (t.stack k).uncorrected.atD (s.chanAt (64 * cw)) 0 = (s.stack k).uncorrected.atD (s.chanAt (64 * cw)) 0 + 1) ∧
       ∃ t, exec (.patrolRead k 3) s = .next t ∧ t.hbm = s.hbm ∧ (t.stack k).patrol = ((s.stack k).patrol + 1) % n ∧
         (t.stack k).onDie.atD (s.chanAt (64 * cw)) 0 = (s.stack k).onDie.atD (s.chanAt (64 * cw)) 0 + 1) ∧
     (∀ c, (s.stack k).retraining = none → c ∈ s.healthy k →
       exec (.channelRetrain k c) s = .next { s with memStacks := s.memStacks.put k { s.stack k with retraining := some c } }) ∧
     (∀ c ok wires, c < 32 → (s.stack k).retraining = some c →
       ∃ t, exec (.channelRetrainingDone k c ⟨ok, wires⟩) s = .next t ∧ (t.stack k).retraining = none ∧
         (t.stack k).fails.atD c 0 = (if ok then 0 else (s.stack k).fails.atD c 0 + 1) ∧
         (t.stack k).pendWires.atD c 0 = (s.stack k).pendWires.atD c 0 + wires ∧ t.cloves = s.cloves ∧ t.hbm = s.hbm ∧
         (wires = 0 → ok = true ∨ (s.stack k).fails.atD c 0 < 2 → t = { s with memStacks := t.memStacks }) ∧
         (ok = false ∧ 2 ≤ (s.stack k).fails.atD c 0 ∨
             wires ≠ 0 ∧ 2 < (s.stack k).wires.atD c 0 + (s.stack k).pendWires.atD c 0 + wires →
           t.flag .memStkPend 0 k c = true)))

/-- Failed bridge wires of a channel once its stack's epoch has found some more (R253, R254). -/
def Sys2Proof.Machine.Stack.wiresOut (v : Stack) (wires : List (Nat × Nat)) (c : Nat) : Nat :=
  v.wires.atD c 0 + v.pendWires.atD c 0 + ((wires.filter (fun w => w.1 == c)).map (·.2)).sum

/-- R243, R253, R254: the end of a stack's map epoch zeroes the stack's range and no other byte, clears BUSY, sets DONE,
gives the map that the failing channels have left and the mapped-out ones that train have joined, with the HEALTHY and
LIMIT of that map, and logs HBM_EPOCH. R262: a channel that became failing since the epoch was accepted stays in the map,
and pending. R247, R260, R261: a changed window gives up each old extent that no earlier transfer uses; a good completion
of a tier read gives its request the words that came, unmarked; one that fails or does not come in time gives it as many
marked words, of whatever value, and logs SPILL_FAIL, and a failed write is logged so and not counted as done. -/
def Obligations.EpochsWindowsAndTier : Prop :=
  (∀ (s : State) (k : Nat) (f : W32) (wires : List (Nat × Nat)), k < 24 → s.up.hbmEpoch = some k →
     ∃ t, exec (.hbmEpoch k ⟨f, wires⟩) s = .next t ∧ t.up.hbmEpoch = none ∧
       (∀ c, c < 32 →
         t.flag .memStkChmap 0 k c = (if s.flag .memStkChmap 0 k c
           then !((s.stack k).leaving.getLsbD c || decide (2 < (s.stack k).wiresOut wires c) ||
             (f.getLsbD c && decide (2 ≤ (s.stack k).fails.atD c 0)))
           else !f.getLsbD c && decide ((s.stack k).wiresOut wires c ≤ 2)) ∧
         t.flag .memStkPend 0 k c = (s.flag .memStkPend 0 k c && !(s.stack k).leaving.getLsbD c && s.flag .memStkChmap 0 k c &&
           t.flag .memStkChmap 0 k c)) ∧
       t.fld .memStkStat 0 k 5 0 = (t.healthy k).length ∧ t.limitOf k = 576 * mib2 * (t.healthy k).length ∧
       t.flag .memEpochCtrl 0 0 9 = false ∧ t.flag .memEpochCtrl 0 0 11 = true ∧
       (∀ a, t.hbmByte a = if k * stackSpan ≤ a ∧ a < (k + 1) * stackSpan then 0 else s.hbmByte a) ∧
       t.err.nextSeq = s.err.nextSeq + 1 ∧ t.cloves = s.cloves ∧ t.parts = s.parts) ∧
  ((∀ (s : State) (p w : Nat), ∃ t, exec (.windowChangeEffect p w) s = .next t ∧ t = { s with parts := t.parts } ∧
     (∀ q, q ≠ p → t.part q = s.part q) ∧ t.part p = { s.part p with oldWin := (t.part p).oldWin } ∧
     ∀ v, (t.part p).oldWin.atD v [] = if v = w
       then ((s.part p).oldWin.atD w []).filter (fun e => s.usesExtent p (e.1 * mib2, e.2 * mib2)) else (s.part p).oldWin.atD v []) ∧
   (∀ (s : State) (tag : Nat) (x : TierReq) (st : RdStatus) (data : List Byte) (c : Instr), Quiet s →
     s.net.tiers.at? tag = some x →
     (x.store = false → exec (.tierCompletion tag .good data) s = .next { s with
       net := { s.net with tiers := s.net.tiers.del tag }
       inflight := s.inflight.map (fun r => if r.id = x.req then
         { r with data := (wordsOf data (x.len / 8)).map (fun w => (w, false)), served := true } else r) }) ∧
     (c = .tierTimeout tag ∨ st ≠ .good ∧ c = .tierCompletion tag st data →
       (x.store = false → ∃ t ws, exec c s = .next t ∧ t.net.tiers = s.net.tiers.del tag ∧ ws.length = x.len / 8 ∧
         (∀ w ∈ ws, w.2 = true) ∧ s.err.nextSeq < t.err.nextSeq ∧ t.hbm = s.hbm ∧ t.cloves = s.cloves ∧
         t.inflight = s.inflight.map (fun r => if r.id = x.req then { r with data := ws, served := true } else r)) ∧
       (c = .tierTimeout tag → x.store = true → ∃ t, exec c s = .next t ∧ t.net.tiers = s.net.tiers.del tag ∧
         s.err.nextSeq < t.err.nextSeq ∧ t.hbm = s.hbm ∧ t.cloves = s.cloves ∧ t.parts = s.parts))))

/-! ### The KV cache -/

/-- R272, R275, R276: a read stream with room ahead, in a walker with a translation free, translates its next page once the
page is full enough, and waits for that page's frame; a pin that the frame takes pins the translation, which is ready
where the frame is in HBM and waits for its fetch otherwise, counted in TIER_WAITS; an unpin takes one pin from its
frame and lets the appends that waited go on. A visit of a sparse stream first writes and posts its record, once; then
it posts the page's tiles while the queue has room, and when all are posted the stream goes on to its next visit, or
leaves after its last. R278, R281: KV_SCATTER at the front of its ring begins the append that its parameters name, and
its command waits for the append's last column. A column that memory has accepted counts in its page's FILL; the last
one ends the append, and its command with OK. -/
def Obligations.StreamsAndAppendsAdvance : Prop :=
  ((∀ (s t u : State) (p no c n g : Nat) (lv : Live) (st : ReadStream) (e : TlbEntry) (found : HbmFinds),
     s.hbmFind found = t → (t.part p).streams.at? no = some st → st.stopped = none →
     st.ahead.length ≤ max (t.fld .prtKvCtrl p 0 13 8) 1 → t.inWalk p (queueField p (planSq st.plan)) < walkDepth →
     t.visitOf p st st.ahead.length = .ok (some (c, n, g, lv)) → t.fillWaits p st c g = false →
     t.walk p (queueField p (planSq st.plan)) st.cid st.layer g = (.ok e, u) →
     exec (.pageTranslation p ⟨no, found⟩) s = .next (u.putStream p no { st with ahead := st.ahead ++ [⟨g, e.frame, false, false⟩] })) ∧
   (∀ (s u : State) (p f no : Nat) (st : ReadStream),
     (s.part p).streams.find? (fun e => e.2.stopped.isNone && e.2.ahead.any (fun a => a.frame == f && !a.pinned)) = some (no, st) →
     (s.frm p f).st ≠ 0 → s.pinFrame p f = (true, u) →
     ((u.frm p f).st = 1 → exec (.pin p f) s = .next (u.putStream p no { st with ahead := pinFirst f true st.ahead })) ∧
     ((u.frm p f).st ≠ 1 → exec (.pin p f) s = .next ((u.putStream p no { st with ahead := pinFirst f false st.ahead }).addFld
       .fldKvwStat (queueField p (planSq st.plan)) 0 31 16 1))) ∧
   (∀ (s : State) (p f : Nat), f ∈ (s.part p).unpins → exec (.unpin p f) s =
     .next (((s.modPart p (fun q => { q with unpins := q.unpins.erase f })).unpinFrame p f).pushAppends p).settle) ∧
   (∀ (s t t₁ : State) (p no c n g : Nat) (lv : Live) (st st₁ : ReadStream) (a : Ahead) (rest : List Ahead)
     (tiles : List (Nat × Nat × Nat)) (found : HbmFinds), s.hbmFind found = t →
     (t.part p).streams.at? no = some st → st.stopped = none → st.ahead = a :: rest → a.ready = true →
     t.visitOf p st 0 = .ok (some (c, n, g, lv)) → t.streamQueuesOk p st = true →
     tiles = pageTiles (t.l1 p st.cid).rg (planTile st.plan) →
     (∀ k ∈ tiles, t.transferFits p (t.tileTransfer p a.frame (planTile st.plan) k false) = true) →
     ((st.recorded = true ∨ sparse st.plan = false) ∧ t₁ = t ∧ st₁ = st ∨
       st.recorded = false ∧ sparse st.plan = true ∧ ∃ v, t.postRecord p st (t.l1 p st.cid).rg lv = some (t₁, v) ∧
         st₁ = { st with vring := v, recorded := true }) →
     ∀ u w, t₁.postTiles p no st₁ a.frame tiles tiles.length = (u, w) →
     (w.tile < tiles.length → exec (.readStreamVisit p ⟨no, found⟩) s = .next (u.putStream p no w).settle) ∧
     (tiles.length ≤ w.tile → exec (.readStreamVisit p ⟨no, found⟩) s = .next (u.putOrEnd p no
       { w with chunk := c, visit := n + 1, tile := 0, recorded := false, ahead := rest }).settle))) ∧
  ((∀ (s : State) (p ring : Nat) (c : Cmd), s.frontOf p ring 0x07 = some c →
     exec (.kvScatter p ring) s = .next ((s.waitCmd p ring c.no).beginAppend p (leAt c.params 0 2) (leAt c.params 2 1)
       (leAt c.params 3 1) (leAt c.params 4 4) (leAt c.params 8 4) (s.lead p) (some (p, ring, c.no))).settle) ∧
   (∀ (s t : State) (p no col : Nat) (a : Append) (found : HbmFinds), s.hbmFind found = t →
     (t.part p).appends.at? no = some a → a.failed = none → a.col ≤ a.lastCol →
     (t.splitOf p a.cid).cols (a.t / 16) a.col < a.landed → col = (t.splitOf p a.cid).nextCol (a.col + 1) (a.lastCol + 1) →
     ∀ u, u = ((t.acceptColumn p a).advanceLen p a col).putAppend p no { a with col := col } →
     (col ≤ a.lastCol → exec (.appendColumnAccepted p ⟨no, found⟩) s = .next u) ∧
     (a.lastCol < col → a.cmd = none → exec (.appendColumnAccepted p ⟨no, found⟩) s = .next (u.endAppend p no)) ∧
     (a.lastCol < col → ∀ q r c, a.cmd = some (q, r, c) → exec (.appendColumnAccepted p ⟨no, found⟩) s =
       .next ((u.endAppend p no).endCmd q r c Status.ok.val 0 0 0))))

/-- R285 to R288: while frames are to be spilled, the next one leaves at once where it is clean, and otherwise is stored to a
free slot of the slower tier, which the image that the spill forms is sent to, and is being spilled; a spill that ends
well leaves the frame spilled and clean, and gives up its slot, and one that fails leaves the frame where it was. A
spilled frame that is fetched takes a slot of its page's turn, and its image is asked for; when it has landed, the
frame holds it, clean, and the streams and appends that waited for it go on. -/
def Obligations.FramesSpillAndReturn : Prop :=
  (∀ (s t u : State) (p f : Nat) (on : Bool) (found : HbmFinds), s.hbmFind found = t →
    on = ((decide (t.freeSlots p * 256 < t.fld .prtKvSpill p 0 7 0 * t.slotTotal p) || (t.part p).spillOn) &&
      decide (t.freeSlots p * 256 < t.fld .prtKvSpill p 0 15 8 * t.slotTotal p)) →
    u = t.modPart p (fun q => { q with spillOn := on }) →
    (on = true ∨ t.allocWaits p = true) → u.nextSpill p = some f →
    ((u.frm p f).clean = true → exec (.frameSpill ⟨p, found⟩) s = .next ((u.spillClean p f).pushAppends p).settle) ∧
    ((u.frm p f).clean = false → ∀ n x cid l g rg re, u.spillTarget p = some (n, x) →
      u.framePage p f = some (cid, l, g, rg) → re = ((u.frm p f).refcnt == 1 && u.mayLose p cid) →
      exec (.frameSpill ⟨p, found⟩) s = .next (((((u.putFrm p f { u.frm p f with st := 3, tslot := x, tent := n }).modPart p
        (fun q => { q with tslots := q.tslots.put (n * 2 ^ 28 + x) (if re then 2 else 0), spilling := q.spilling.put f (n * 2 ^ 28 + x) })).tierImage
        p n (x * u.slotBytes p) true (u.imageWords p f rg re)).pushAppends p).settle))) ∧
  (∀ (s u : State) (p f key : Nat), (s.part p).cancelled.at? f = none → (s.part p).spilling.at? f = some key →
    u = s.modPart p (fun q => { q with spilling := q.spilling.del f }) →
    exec (.frameSpillDone p f true) s = .next ((((u.putFrm p f { s.frm p f with
      st := 2, clean := true, lossy := (s.frm p f).lossy || s.reEncoded p (s.frm p f).tent (s.frm p f).tslot }).dropSlot
      p (s.frm p f).hslot).pushAppends p).settle) ∧
    exec (.frameSpillDone p f false) s = .next ((((((u.spillFail (u.pageReq p (s.frm p f).tent
      ((s.frm p f).tslot * u.slotBytes p) (u.slotBytes p) true) 0).putFrm p f { s.frm p f with st := 1 }).modPart p
      (fun q => { q with tslots := q.tslots.put key 1 }))).pushAppends p).settle)) ∧
  (∀ (s u : State) (p f i cid l g rg : Nat), (s.frm p f).st = 2 → s.framePage p f = some (cid, l, g, rg) →
    s.allocSlot p g = (.slot i, u) → exec (.frameFetch p f) s = .next
      (((u.putFrm p f { s.frm p f with st := 4, hslot := i }).takeSlot p i f).askImage p (s.frm p f).tent (s.frm p f).tslot rg)) ∧
  (∀ (s : State) (p f : Nat) (data : List Byte) (ms : List Nat), (s.frm p f).st = 4 → (s.part p).copies.at? f = none →
    exec (.frameFetchDone p f data ⟨ms, []⟩) s = .next (((((s.storeWords (s.slotAddr p (s.frm p f).hslot)
      (pageWords (s.frameRg p f) (s.reEncoded p (s.frm p f).tent (s.frm p f).tslot) data ms.contains)).putFrm p f
      { s.frm p f with st := 1, clean := true }).wakeStreams p f).pushAppends p).settle))

/-! ### The host's rings -/

/-- R331, R335, R337: a partition that may fetch asks the host for the descriptor at the head of its next ring; a good
descriptor asks for its packet's header; a whole good packet without payload joins its ring and moves the head on by
one. A descriptor or packet that does not come keeps the head, clears the ring's EN and sets its ERR. -/
def Obligations.DescriptorsAreFetched : Prop :=
  (∀ (s : State) (p r : Nat), s.partOut p = false → s.gated p = false → s.attachOpen (s.ownerOf p) = true →
    s.cmdRoom p = true → s.epochHolds p = false →
    ((List.range 8).map (fun i => (s.host.turn.atD p 0 + i) % 8)).find? (s.mayFetch p) = some r →
    exec (.descriptorFetch p) s = .next { s with host := { s.host with
      turn := s.host.turn.put p ((r + 1) % 8), nextTag := s.host.nextTag + 1
      reads := s.host.reads.put s.host.nextTag ⟨p, r, .descriptor, s.sqBase p r + 64 * s.sqHead p r, 64, []⟩
      asked := s.host.asked ++ [(s.host.nextTag, ⟨p, r, .descriptor, s.sqBase p r + 64 * s.sqHead p r, 64, []⟩)] } }) ∧
  (∀ (s : State) (tag : Nat) (q : HostRead) (data : List Byte), s.host.reads.at? tag = some q →
    (q.kind = .descriptor → ∃ t, exec (.hostReadCompletion tag .good data) s = .next t ∧
      t.host.asked = s.host.asked ++
        [(s.host.nextTag, ⟨q.part, q.ring, .packet, leAt (padTo q.len data) 8 8, 16, padTo q.len data⟩)]) ∧
    (q.kind = .packet → q.desc.length ≠ 64 → descOk (q.desc.take 64) = true →
      packetOk (q.desc.drop 64 ++ padTo q.len data) 0 = true → leAt (q.desc.take 64) 24 4 = 0 → leAt (q.desc.take 64) 28 4 = 0 →
      s.sqN q.part q.ring ≤ 65536 →
      ∃ t c, exec (.hostReadCompletion tag .good data) s = .next t ∧
        (t.ring q.part q.ring).cmds = (s.ring q.part q.ring).cmds ++ [c] ∧
        c.packet = q.desc.drop 64 ++ padTo q.len data ∧ c.tag = BitVec.ofNat 32 (leAt (q.desc.take 64) 4 4) ∧
        c.answer = none ∧ c.wait = false ∧ c.paid = true ∧
        t.sqHead q.part q.ring = (s.sqHead q.part q.ring + 1) % s.sqN q.part q.ring) ∧
    (q.kind.fetch = true → ∃ t, exec (.hostReadTimeout tag) s = .next t ∧
      t.flag .prtSqCfg q.part q.ring 8 = false ∧ t.flag .prtSqCfg q.part q.ring 9 = true ∧
      t.sqHead q.part q.ring = s.sqHead q.part q.ring ∧ t.host.asked = s.host.asked ∧ t.host.out = s.host.out))

/-- R330, R333, R334: a doorbell of the owning attach within the ring's size sets SQ_TAIL or CQ_HEAD, and nothing else of a
ring's registers. A ring that may write its oldest record writes its 32 bytes at the completion tail, as Table 12.4 lays
them out with the head of its submission ring and PHASE, and the tail moves on by one; a request-end record, or one
whose command asked for it, raises the ring's vector, or has it wait for the holdoff. A holdoff that ends raises the
vector that waited. -/
def Obligations.DoorbellsAndRecords : Prop :=
  (∀ (s : State) (m : Master) (b : Bool) (p r : Nat) (v : W32), attachOf m = some b → s.attachOpen b = true → p < 32 → r < 8 →
    s.ready = true → s.up.newOwner.at? p = none → s.ownerOf p = b →
    (s.sqOn p r = true → v.toNat % 65536 < s.sqN p r →
      ∃ t, exec (.sqTail m p r v) s = .next t ∧ (t.ring p r).tail = v.toNat % 65536 ∧ t = { s with host := t.host } ∧
        (t.ring p r).cmds = (s.ring p r).cmds ∧ (t.ring p r).recs = (s.ring p r).recs) ∧
    (s.cqOn p r = true → v.toNat % 65536 < s.cqN p r →
      exec (.cqHead m p r v) s = .next (s.modRing p r (fun g => { g with cqHead := v.toNat % 65536 })))) ∧
  (∀ (s : State) (p r : Nat) (q : Rec) (qs : List Rec), (s.ring p r).recs = q :: qs → s.mayRecord p r = true →
    s.cqN p r ≤ 65536 →
    ∃ t, exec (.completionRecordWrite p r) s = .next t ∧ (t.ring p r).recs = qs ∧ (t.ring p r).cmds = (s.ring p r).cmds ∧
      t.host.out = s.host.out ++
        (.record (s.ownerOf p) (s.cqBase p r + 32 * s.fld .prtCqTail p r 15 0) r p
            (leBytes 4 q.tag.toNat ++ leBytes 2 q.status ++ leBytes 1 q.kind ++ leBytes 1 (b2n (s.flag .prtCqTail p r 16)) ++
              leBytes 2 (s.sqHead p r) ++ leBytes 1 r ++ leBytes 1 q.member ++ leBytes 4 q.reqid ++ leBytes 8 q.result ++
              leBytes 8 q.detail) ::
          (if (q.kind = 1 ∨ q.irq = true) ∧ (s.ring p r).holdoff = false
            then [.msix (s.ownerOf p) (s.fld .prtCqCfg p r 23 16)] else [])) ∧
      t.fld .prtCqTail p r 15 0 = (s.fld .prtCqTail p r 15 0 + 1) % s.cqN p r ∧
      t.flag .prtCqTail p r 16 = (s.flag .prtCqTail p r 16 != decide ((s.fld .prtCqTail p r 15 0 + 1) % s.cqN p r = 0))) ∧
  (∀ (s : State) (p r : Nat), (s.ring p r).holdoff = true → s.attachOpen (s.ownerOf p) = true → s.gated p = false →
    s.host.held.any (fun e => e.1 == p) = false →
    ∃ t, exec (.msiXHoldoffExpiry p r) s = .next t ∧ (t.ring p r).irqDue = false ∧
      t.host.out = s.host.out ++
        (if (s.ring p r).irqDue then [.msix (s.ownerOf p) (s.fld .prtCqCfg p r 23 16)] else []) ∧
      (t.ring p r).holdoff = ((s.ring p r).irqDue && decide (s.fld .prtCqCfg p r 31 24 ≠ 0)))

/-- R332, R334: an answer ends its command: no command of its number is left unanswered on its ring, and where it is the
ring's oldest and the next is not yet answered, it leaves, and one record with its tag and status joins those that the
ring is to write. -/
def Obligations.AnswerEndsCommand : Prop :=
  ∀ (s : State) (p r : Nat) (c : Cmd) (st : Status) (id res : Nat),
    (∀ d ∈ ((s.answer p r c st id res).ring p r).cmds, d.no = c.no → d.answer ≠ none) ∧
    ∀ cs, (s.ring p r).cmds = c :: cs → c.answer = none → (∀ d ∈ cs, d.no ≠ c.no) → (∀ d ∈ cs.head?, d.answer = none) →
      ∃ q, ((s.answer p r c st id res).ring p r).cmds = cs ∧
        ((s.answer p r c st id res).ring p r).recs = (s.ring p r).recs ++ [q] ∧
        q.tag = c.tag ∧ q.status = st.val ∧ q.kind = 0 ∧ q.reqid = id % 2 ^ 32 ∧ q.result = res % 2 ^ 64

/-- R339 to R341, R362, R392: what the commands at the front of a ring that need no serving do before they end with OK:
WEIGHT_LOAD stores the code words that came, PROGRAM_LOAD loads a program set, loads a function image or drops a set,
HINT_HEAVY notes its phase, FENCE waits for what it names and nothing else, COLLECTIVE_BIND gives its group a member
list. The layout that PROGRAM_LOAD keeps with a set is the model's operand (log entry 119). -/
def Obligations.RingCommandsAct : Prop :=
  ∀ (s : State) (p r : Nat) (c : Cmd) (w : Split),
    (s.frontOf p r 0x05 = some c → s.inWindow p (leAt c.params 0 8) c.payLen = true → c.paid = true →
      exec (.weightLoad p r) s = .next ((s.storeWords (leAt c.params 0 8)
        (c.words (min c.payload.length c.payLen / 64 * 64))).answer p r c .ok 0 (min c.payload.length c.payLen / 64 * 64))) ∧
    (s.frontOf p r 0x06 = some c → leAt c.params 0 1 = 2 → s.modelBusy (s.lead p) (leAt c.params 2 2) = false →
      exec (.programLoad p ⟨r, w⟩) s = .next (({ s with srv := { s.srv with
        sets := s.srv.sets.filter (fun v => !(v.group == s.lead p && v.model == leAt c.params 2 2)) } } : State).answer
          p r c .ok 0 0)) ∧
    (s.frontOf p r 0x06 = some c → leAt c.params 0 1 = 1 → c.paid = true → imageOk c.payload = true →
      (∀ q ∈ s.group (s.lead p), s.slotInUse q (leAt c.payload 0 1) = false) →
      exec (.programLoad p ⟨r, w⟩) s =
        .next (((s.group (s.lead p)).foldl (fun s q => s.putImage q c.payload) s).answer p r c .ok 0 0)) ∧
    (s.frontOf p r 0x06 = some c → leAt c.params 0 1 = 0 → c.paid = true → 96 + 32 * leAt c.payload 14 2 ≤ c.payload.length →
      96 + 32 * leAt c.payload 14 2 ≤ c.payLen → setHeaderOk c.payload (s.fld .glbCapSrv2 0 0 4 0) (s.fld .glbCapSeq 0 0 31 0) = true →
      (∀ i < leAt c.payload 14 2, (sectionAt c.payload i).ok c.payload i c.payLen (s.group (s.lead p)).length = true) →
      (kindData c.payload 2 24).all (fun e => launchOk e (s.group (s.lead p)).length) = true →
      s.modelBusy (s.lead p) (leAt c.payload 2 2) = false → s.noSpace (s.lead p) (leAt c.payload 2 2) (setBytes c.payload) = false →
      ∃ u : State, exec (.programLoad p ⟨r, w⟩) s = .next (u.answer p r c .ok 0 0) ∧
        u.srv.sets = s.srv.sets.filter (fun v => !(v.group == s.lead p && v.model == leAt c.payload 2 2)) ++
          [loadedSet (s.lead p) c.payload w] ∧ u = { s with srv := u.srv, cloves := u.cloves }) ∧
    (s.frontOf p r 0x0B = some c →
      exec (.hintHeavy p r) s = .next ((s.addHint ⟨s.lead p, s.up.time + 1000 * leAt c.params 0 4, leAt c.params 4 4,
        leAt c.params 8 4⟩).answer p r c .ok 0 0)) ∧
    (s.frontOf p r 0x0C = some c →
      (∀ q, q < 32 → bitField (leAt c.params 0 4) q 1 = 1 → s.lead q = s.lead p) →
      exec (.fence p r) s = .next (if s.fenceDone c then s.answer p r c .ok 0 0 else s)) ∧
    (s.frontOf p r 0x0D = some c → c.paid = true → s.gidInUse (s.lead p) (leAt c.params 0 4) = false → ∀ ms,
      s.bindMembers (s.lead p) c.params c.payload = some ms →
      ∃ u : State, exec (.collectiveBind p r) s = .next (u.answer p r c .ok 0 0) ∧ u = { s with srv := u.srv, hbm := u.hbm } ∧
        u.srv = { s.srv with groups := s.srv.groups.put (s.lead p * 256 + leAt c.params 0 4) (leAt c.params 8 4, ms) })

/-! ### Serving -/

/-- R338: while the leader's serving is off, every serving command at the front of a ring ends with SRV_OFF and has no
other effect. R298, R299, R308 to R311, R318: what the serving commands that name no running request do before they end
with OK: PREFILL_SUBMIT admits a QUEUED request under the next request ID; PREFIX_REGISTER makes a handle, with a draft's
context where its source has one, and PREFIX_RELEASE drops one with its contexts; ADAPTER_LOAD replaces the adapter of
its set; EXPORT_ROUTE sets a route. A submission that R299 refuses ends with the refusal's status, and a prefix mismatch
is counted. -/
def Obligations.ServingCommandsAct : Prop :=
  (∀ (s : State) (p r opc : Nat) (c : Cmd) (i : Instr),
     (opc, i) ∈ [(0x01, Instr.prefillSubmit p r), (0x02, .prefixRegister p r), (0x03, .prefixRelease p r), (0x04, .adapterLoad p r),
       (0x08, .pause p r), (0x09, .resume p r), (0x0A, .cancel p r), (0x0E, .exportRoute p r)] →
     s.frontOf p r opc = some c → s.flag .prtSrvCtrl (s.lead p) 0 0 = false →
     exec i s = .next (s.answer p r c .srvOff 0 0)) ∧
  (∀ (s : State) (p r : Nat) (c : Cmd), s.flag .prtSrvCtrl (s.lead p) 0 0 = true →
     (s.frontOf p r 0x01 = some c → c.paid = true → s.refusal (s.lead p) c.params c.payload = none →
       exec (.prefillSubmit p r) s = .next (s.takeIn p r c) ∧
       (s.mirrored = false → ∃ q ∈ (s.takeIn p r c).srv.reqs, q.id = s.srv.nextId ∧ q.st = .queued ∧
         q.group = s.lead p ∧ q.tag = c.tag ∧ q.cls = leAt c.params 4 1 ∧ (s.takeIn p r c).srv.nextId = s.srv.nextId + 1)) ∧
     (s.frontOf p r 0x01 = some c → c.paid = true → ∀ st, s.refusal (s.lead p) c.params c.payload = some st →
       exec (.prefillSubmit p r) s = .next ((if st = .prefixMismatch then s.addFld .prtSrvEvt (s.lead p) 0 31 16 1 else s).answer
         p r c st 0 0)) ∧
     (s.frontOf p r 0x02 = some c → (s.group (s.lead p)).any s.kvOn = true → leAt c.params 0 8 ≠ 0 →
       s.handle (s.lead p) (leAt c.params 0 8) = none →
       ∀ src cid d, s.prefixSource (s.lead p) c.params = .ok src → 0 < leAt c.params 16 4 → leAt c.params 16 4 ≤ src.len →
       s.freeCid (s.lead p) [] = some cid →
       (src.draft = none ∧ d = none ∨ src.draft ≠ none ∧ d ≠ none ∧ d = s.freeCid (s.lead p) [cid]) →
       exec (.prefixRegister p r) s = .next ((s.putHandle (s.lead p) (leAt c.params 0 8) (leAt c.params 16 4) cid d src).answer
         p r c .ok (if leAt c.params 20 1 = 0 then leAt c.params 8 4 else 0)
         (crc64 (tokenBytes (src.tokens.take (leAt c.params 16 4)))))) ∧
     (s.frontOf p r 0x03 = some c → ∀ e, s.handle (s.lead p) (leAt c.params 0 8) = some e →
       ∀ u, u = ({ s with srv := { s.srv with handles := s.srv.handles.erase e } } : State).releaseCid (s.lead p) e.cid →
       (e.draft = none → exec (.prefixRelease p r) s = .next (u.answer p r c .ok 0 0)) ∧
       (∀ m d, e.draft = some (m, d) →
         exec (.prefixRelease p r) s = .next ((u.releaseCid (s.lead p) d).answer p r c .ok 0 0))) ∧
     (s.frontOf p r 0x04 = some c → c.paid = true →
       s.srv.reqs.any (fun q => q.group == s.lead p && q.adapter == some (leAt c.params 0 2)) = false →
       ∀ v, s.progSet (s.lead p) (leAt c.payload 0 4) = some v → adapterOk c.payload v = true →
       exec (.adapterLoad p r) s = .next (({ s with srv := { s.srv with
         adapters := s.srv.adapters.filter (fun e => !(e.group == s.lead p && e.set == leAt c.params 0 2)) ++
           [⟨s.lead p, leAt c.params 0 2, leAt c.payload 0 4, c.payload⟩] } } : State).answer p r c .ok 0 0)) ∧
     (s.frontOf p r 0x0E = some c →
       exec (.exportRoute p r) s = .next (({ s with srv := { s.srv with
         routes := s.srv.routes.put (s.lead p * 256 + leAt c.params 0 1)
           ((List.range 6).map (fun i => leAt c.params (4 + 4 * i) 4)) } } : State).answer p r c .ok 0 0)))

/-- R298, R300, R304, R306, R321: PAUSE of a RUNNING request marks it PAUSING until its next boundary, of a QUEUED one takes
it from the queue, of a PAUSING one waits with the first, of a PAUSED one ends at once with its resume record, and of an
EXPORTING one ends with PAUSE_LATE; RESUME puts a PAUSED request back into the queue, and waits for one that is PAUSING;
CANCEL ends one that does not run, and one that runs at its next boundary. -/
def Obligations.PauseResumeCancel : Prop :=
  ∀ (s : State) (p r : Nat) (c : Cmd) (q : Request), s.flag .prtSrvCtrl (s.lead p) 0 0 = true →
    s.named (s.lead p) c = some q →
    (s.frontOf p r 0x08 = some c →
      (q.st = .running → exec (.pause p r) s = .next (((s.waitCmd p r c.no).modReq (leAt c.params 0 4) (fun x => { x with
        pausers := x.pausers ++ [(c.no, leAt c.params 8 8)], pauseMode := some (leAt c.params 4 1 == 1)
        st := .pausing })).boundary (leAt c.params 0 4))) ∧
      (q.st = .queued → exec (.pause p r) s = .next (((s.waitCmd p r c.no).modReq (leAt c.params 0 4) (fun x => { x with
        pausers := x.pausers ++ [(c.no, leAt c.params 8 8)], pauseMode := some (leAt c.params 4 1 == 1) })).toPaused
        (leAt c.params 0 4) (leAt c.params 4 1 == 1))) ∧
      (q.st = .pausing → exec (.pause p r) s = .next ((s.waitCmd p r c.no).modReq (leAt c.params 0 4) (fun x => { x with
        pausers := x.pausers ++ [(c.no, leAt c.params 8 8)] }))) ∧
      (q.st = .paused → exec (.pause p r) s = .next (s.endPause q c.no (leAt c.params 8 8))) ∧
      (q.st = .exporting → exec (.pause p r) s = .next (s.answer p r c .pauseLate (leAt c.params 0 4) 0))) ∧
    (s.frontOf p r 0x09 = some c → (leAt c.params 4 1 = 1 → c.paid = true) →
      (q.st = .paused → exec (.resume p r) s = .next ((s.requeue q.id).answer p r c .ok (leAt c.params 0 4) 0) ∧
        ∃ x, (s.requeue q.id).srv.reqs = s.srv.reqs.filter (fun y => y.id ≠ q.id) ++ [x] ∧ x.id = q.id ∧ x.st = .queued ∧
          x.prio = 1) ∧
      (q.st = .pausing → exec (.resume p r) s = .next ((s.waitCmd p r c.no).modReq q.id (fun x => { x with
        resumers := x.resumers ++ [c.no] })))) ∧
    (s.frontOf p r 0x0A = some c →
      ((q.st = .queued ∨ q.st = .paused ∨ q.st = .exporting) → exec (.cancel p r) s =
        .next ((s.answer p r c .ok (leAt c.params 0 4) 0).endRequest (leAt c.params 0 4) .cancelled)) ∧
      ((q.st = .running ∨ q.st = .pausing) → exec (.cancel p r) s =
        .next (((s.answer p r c .ok (leAt c.params 0 4) 0).modReq (leAt c.params 0 4)
          (fun x => { x with cancelDue := true })).boundary (leAt c.params 0 4))))

/-- R300, R301, R313, R314: a group that runs no request starts the first layer chunk of the next QUEUED one; a running
request between layer chunks starts its next one, and within one its next stage once the one before has come to rest; a
layer chunk whose loops and appends have completed ends, and its request moves to the next layer or chunk and meets its
boundary; the first token that a member's logits give joins the request's objects to export, and a mirrored module
sends its check. -/
def Obligations.LayerChunksRun : Prop :=
  (∀ (s t : State) (l : Nat) (q : Request) (found : HbmFinds), s.hbmFind found = t → t.launchHeld l q = false →
    (t.active l = none → t.nextQueued l = some q → exec (.layerChunkLaunch ⟨l, found⟩) s = .next (t.launchChunk q)) ∧
    (t.active l = some q → q.st ≠ .exporting → q.inFlight = false → q.chunk ≤ q.lastChunk →
      exec (.layerChunkLaunch ⟨l, found⟩) s = .next (t.launchChunk q)) ∧
    (t.active l = some q → q.st ≠ .exporting → q.inFlight = true → t.groupIdle l = true → ∀ g m rest v,
      q.stages = (g, m) :: rest → t.runSet q = some v → exec (.layerChunkLaunch ⟨l, found⟩) s =
        .next ((t.modReq q.id (fun x => { x with stages := rest })).launchStage q v g m))) ∧
  (∀ (s : State) (l us : Nat) (q : Request), s.active l = some q → q.inFlight = true → q.stages = [] → s.groupIdle l = true →
    s.appendsDone l = true →
    exec (.layerChunkDone l us) s = .next ((s.modReq q.id (fun _ =>
      { s.advance q with inFlight := false, times := us :: q.times })).boundary q.id)) ∧
  (∀ (s : State) (l m : Nat) (ls : List W32) (q : Request) (x : ReqMember) (v : ProgSet), s.active l = some q →
    q.members[m]? = some x → s.progSet l q.model = some v → q.st = .exporting → x.token = none →
    ∃ k o, exec (.firstTokenSample l m ls) s = .next (((s.modMember q.id m (fun y => { y with token := some k })).modReq q.id
        (fun y => { y with objs := y.objs ++ [o] })).ownCheck q.mirrorNo 3 m 0 0 0 k) ∧
      k = sampleToken x.sample ((List.range v.vocab).map (fun t => b32Val (ls.getD t 0).toNat)) x.counts ∧
      o.kind = 2 ∧ o.member = m)

/-- A message of an export: the header of the object's stream, then the object's bytes from its offset on, 8,160 of them at
most (R358, Table 13.4). -/
def Sys2Proof.Machine.State.exportBody (s : State) (q : Request) (o : ExpObj) (e : ExpStream) : List Byte :=
  exportHeader e.stream q.id o.member o.layer (b2n o.draft) o.pidx o.fill o.off (s.objBytes q o).length ++
    ((s.objBytes q o).drop o.off).take 8160

/-- R358, R359, R364, R368, R430, R431: the next message of a group's oldest waiting object is sent where its stream may
send, a page pinned from its first message on; the last one takes the object from those that wait, and the
acknowledgement of it is awaited. Once none waits, the trailer of the next ended stream is sent. The trailers of a gated
partition's running request are sent VOIDED. The next piece, or the first segment, of an armed call is sent; a call
whose permutation fails fails here; and a piece that will not come is logged, written marked, and counts as landed.
What then may go on goes on. -/
def Obligations.ExportsAndPiecesSend : Prop :=
  (∀ (s t : State) (l : Nat) (q : Request) (found : HbmFinds), s.hbmFind found = t →
    t.srv.reqs.find? (fun q => q.group == l && (!q.objs.isEmpty || (q.st == .exporting && !q.endedStreams.isEmpty))) = some q →
    (∀ o os, q.objs = o :: os → exec (.exportSend ⟨l, found⟩) s = .next (t.sendObj q o).settleAcks) ∧
    (∀ m i rest e, q.objs = [] → q.st = .exporting → q.endedStreams = (m, i) :: rest → q.stream? m i = some e →
      (e.absent = true ∨ t.exports = false ∨ t.canSend q.group e.node = true) →
      exec (.exportSend ⟨l, found⟩) s = .next (t.sendTrailer q m i Status.ok.val).settleAcks)) ∧
  (∀ (s t u : State) (q : Request) (o : ExpObj) (e : ExpStream) (at_ : Option (Nat × Nat)),
    (o.kind = 0 → o.unsealed = false ∧ (s.frm o.part o.frame).st ≠ 2 ∧ (s.frm o.part o.frame).st ≠ 4) →
    o.agreed = true → s.exports = true → s.sendsPage q o = true → q.stream? o.member o.stream = some e → e.absent = false →
    (o.off = 0 → s.objMarked o = false) → s.canSend q.group e.node = true →
    (if o.kind = 0 ∧ o.off = 0 then s.pinFrame o.part o.frame = (true, t) else t = s) →
    t.sendOn q o.member o.stream o.type (s.exportBody q o e) = (at_, u) →
    (o.off + 8160 < (s.objBytes q o).length → s.sendObj q o =
      u.modReq q.id (fun r => { r with objs := r.objs.map (fun p => if p = o then { p with off := p.off + 8160 } else p) })) ∧
    ((s.objBytes q o).length ≤ o.off + 8160 → s.sendObj q o = (u.dropObj q.id o).modReq q.id (fun r => { r with
      unacked := r.unacked ++ (match at_ with
        | some (k, psn) => [(k, psn, if o.kind = 0 then some (o.part, o.frame) else none)]
        | none => []) }))) ∧
  (∀ (s : State) (p : Nat) (q : Request), s.gated p = true → s.active (s.lead p) = some q → q.classIdx.isSome = true →
    exec (.gateTrailerSend p) s = .next (s.endStreams q Status.voided.val)) ∧
  (∀ (s t : State) (p n cap r : Nat) (c : Call) (ms : List W32) (found : HbmFinds), s.hbmFind found = t →
    t.call? (p * 32 + n) = some c → t.collGroup ((p * 32 + n) / 32) c.gid = some (cap, ms) →
    t.rankOf ((p * 32 + n) / 32) ms = some r → c.piece < c.npiece →
    c.waitPhase ≠ some (t.barrier ((p * 32 + n) / 32) c.sbid).phase →
    (t.destRank c ms.length r = none →
      exec (.collPieceSend p ⟨n, found⟩) s = .next ((t.failOp (p * 32 + n) cap r c).placeColl placeFuel).settle) ∧
    (∀ d u, t.destRank c ms.length r = some d →
      u = (if c.pstart = true ∧ c.piece + 1 < c.npiece
        then t.arriveStart (p * 32 + n) { c with piece := c.piece + 1, waitPhase := none }
        else t.setCall (p * 32 + n) { c with piece := c.piece + 1, waitPhase := none }) →
      (c.kind < 2 → exec (.collPieceSend p ⟨n, found⟩) s =
        .next ((((u.sendPiece (p * 32 + n) cap r (ms.getD d 0) c).endOp (p * 32 + n) c.npiece).placeColl placeFuel).settle)) ∧
      (2 ≤ c.kind → exec (.collPieceSend p ⟨n, found⟩) s = .next ((((u.startRing (p * 32 + n) cap ms.length r (ms.getD d 0) c).endOp
        (p * 32 + n) ms.length).placeColl placeFuel).settle)))) ∧
  (∀ (s : State) (p n cap r rank : Nat) (c : Call) (ms : List W32), s.call? (p * 32 + n) = some c →
    s.collGroup ((p * 32 + n) / 32) c.gid = some (cap, ms) → s.rankOf ((p * 32 + n) / 32) ms = some r → 0 < c.piece →
    c.landed < (if c.kind < 2 then c.npiece else ms.length) → s.srcRank c ms.length r = some rank →
    exec (.collFail p n rank) s = .next ((s.losePiece (p * 32 + n) rank).placeColl placeFuel).settle ∧
    s.err.nextSeq < (s.logCollFail (p * 32 + n) rank c).err.nextSeq ∧
    (c.kind < 2 → ∀ u v, u = (s.logCollFail (p * 32 + n) rank c).drawMarked (ceilDiv (shareLen cap c.npiece c.landed) 8) →
      v = (u.2.storeWords (c.rbuf + 64 + c.landed * shareBytes cap c.npiece) u.1).setCall (p * 32 + n)
        { c with len := max c.len (c.landed * shareBytes cap c.npiece + shareLen cap c.npiece c.landed) } →
      (∀ w ∈ u.1, w.2 = true) ∧
      s.losePiece (p * 32 + n) rank = ((if c.landed + 1 = c.npiece then v.endContribution (p * 32 + n) cap rank else v).landPiece
        (p * 32 + n)).endOp (p * 32 + n) c.npiece))

/-! ### The Vyngo network -/

/-- A CLAIM (type 1) or DEFEND (type 2) of an ID that a node sends on port n: from its own MAC address there to the broadcast
address, with this module's UID (R345, R347, R349). -/
def Sys2Proof.Machine.State.announcement (s : State) (me type id n : Nat) : TxFrame :=
  { port := n, dmac := 0xFFFFFFFFFFFF, smac := 0x025A * 2 ^ 32 + n % 2 ^ 8 * 2 ^ 24 + me % 2 ^ 24, vlan := s.vlanTag
    etype := s.fld .vngEtype 0 0 15 0, type := type, flags := 0, spart := 0, snode := me, dnode := 0xFFFFFF, dpart := 0
    gen := 0, psn := 0, apsn := 0, credit := 0, marks := [], body := leBytes 4 id ++ leBytes 16 Config.uid.toNat }

/-- The frames of an announcement on every port that is up, behind those sent before (R352). -/
def Sys2Proof.Machine.State.announced (s : State) (me type id : Nat) : List TxFrame :=
  s.net.tx ++ s.portsUp.map (s.announcement me type id)

/-- R347, R352: an owner answers a CLAIM of its ID with DEFEND on every port that is up, and defends it every 10 s; a CLAIM
of the ID being claimed is a collision that backs off once for each UID and then goes to the lower UID; a DEFEND ends a
claim of the ID as LOST, and takes the ID from an owner of higher UID; the second and third CLAIM go out on every port
that is up; after the third the module owns the ID and defends it; after a back-off the claim starts again. Every such
frame goes from the node's MAC address at its port to the broadcast address; a node that owns no ID sends as node
0xFF_FFFF. -/
def Obligations.NodeIdsAreClaimed : Prop :=
  ∀ (s : State) (id port : Nat) (uid : BitVec 128),
    (s.owns = true → s.nodeId = id →
      exec (.claim id uid port) s = .next { s with net := { s.net with tx := s.announced id 2 id } } ∧
      exec .defendPeriodic s = .next { s with net := { s.net with tx := s.announced id 2 id } }) ∧
    (s.claimState = 1 → s.net.claimId = id → uid ≠ Config.uid →
      ∃ t, exec (.claim id uid port) s = .next t ∧
        (uid ∉ s.net.collided → t.claimState = 2 ∧
          t = { s with regs := t.regs, net := { s.net with collided := s.net.collided ++ [uid], claimSends := 0 } }) ∧
        (uid ∈ s.net.collided → Config.uid.toNat < uid.toNat → t = s) ∧
        (uid ∈ s.net.collided → uid.toNat < Config.uid.toNat → t.claimState = 4 ∧ t.err.nextSeq = s.err.nextSeq + 1)) ∧
    ((s.claimState = 1 ∨ s.claimState = 2) → s.net.claimId = id → uid ≠ Config.uid →
      ∃ t, exec (.defend id uid port) s = .next t ∧ t.claimState = 4 ∧ t.net = s.net ∧ t.err.nextSeq = s.err.nextSeq + 1) ∧
    (s.owns = true → s.nodeId = id → uid.toNat < Config.uid.toNat → s.net.outs = [] → Quiet s →
      ∃ t, exec (.defend id uid port) s = .next t ∧ t.claimState = 4 ∧ t.owns = false ∧ t.net.ins = []) ∧
    (s.claimState = 1 → 0 < s.net.claimSends → s.net.claimSends < 3 →
      exec .claimResend s = .next { s with net := { s.net with
        claimSends := s.net.claimSends + 1, tx := s.announced s.nodeId 1 s.net.claimId } }) ∧
    (s.claimState = 1 → s.net.claimSends = 3 → nodeIdOk s.net.claimId = true →
      ∃ u : State, exec .claimListenEnd s = .next u.pumpAll.settleAcks ∧ u.owns = true ∧ u.nodeId = s.net.claimId ∧
        u = { s with regs := u.regs, net := { s.net with tx := s.announced s.net.claimId 2 s.net.claimId } }) ∧
    (s.claimState = 2 →
      ∃ t, exec .claimBackoffEnd s = .next t ∧ t.claimState = 1 ∧
        t = { s with regs := t.regs, net := { s.net with
          claimSends := if s.portsUp.isEmpty then 0 else 1, tx := s.announced 0xFFFFFF 1 s.net.claimId } })

/-- R346, R349, R373: a port whose link comes up shows it, on its spare lane where one is in use, and the owner of a node
ID defends on it; a port whose link goes down is not up. A failing lane is pending; in a retrain window that succeeds
the spare takes the place of a pending lane, and a repaired lane frees the spare. A reserved frame is counted at its
port. -/
def Obligations.PortsAndLanesChange : Prop :=
  ∀ (s : State) (n lane : Nat), n < 14 → lane < 16 →
    (∃ t, exec (.portLinkChange n false) s = .next t ∧ t = { s with regs := t.regs } ∧ t.fld .vngPort 0 n 2 0 = 0) ∧
    ((s.domain (1272 + n)).st = .on → s.fld .vngPort 0 n 2 0 < 2 → ∀ st : Nat,
      st = (if (s.net.spareLane.at? n).isSome then 3 else 2) → ∃ u : State, u = { s with regs := u.regs } ∧ u.fld .vngPort 0 n 2 0 = st ∧
        (s.claimState ≠ 1 → s.owns = false → exec (.portLinkChange n true) s = .next u) ∧
        (s.claimState ≠ 1 → s.owns = true →
          exec (.portLinkChange n true) s = .next (((u.transmit (u.announcement u.nodeId 2 u.nodeId n)).pumpAll).settleAcks)) ∧
        (s.claimState = 1 → s.net.claimSends = 0 → exec (.portLinkChange n true) s = .next u.claimStep)) ∧
    (∃ t, exec (.laneFailing n lane) s = .next t ∧ t.lanesPending n = s.lanesPending n ||| BitVec.twoPow 16 lane ∧
      t.flag .vngPort 0 n 3 = true ∧ t = { s with regs := t.regs, net := { s.net with pendLanes := t.net.pendLanes } }) ∧
    ((s.domain (1272 + n)).st = .on → (s.lanesPending n).getLsbD lane = true → s.net.spareLane.at? n = none →
      ∃ u : State, exec (.retrainWindow n lane true) s = .next (u.portUp n 3) ∧ u.net.spareLane.at? n = some lane ∧
        u.lanesPending n = s.lanesPending n &&& ~~~(BitVec.twoPow 16 lane) ∧ u.up.mapDirty = true) ∧
    ((s.domain (1272 + n)).st = .on → s.lanesPending n ≠ 0 → s.net.spareLane.at? n = some lane →
      ∃ u : State, exec (.retrainWindow n lane true) s = .next (u.portUp n 2) ∧ u.net.spareLane = s.net.spareLane.del n ∧
        u.up.mapDirty = true) ∧
    (∃ t, exec (.reservedFrame n) s = .next t ∧ t = { s with regs := t.regs } ∧
      t.fld .vngPort 0 n 15 4 = min (s.fld .vngPort 0 n 15 4 + 1) 4095)

/-- R354 to R356: an acknowledgement frees the messages that it shows have arrived and adds the credits it grants; a due
acknowledgement is sent with the next PSN that its flow expects; a message whose timer runs out is sent again, the
same message; an idle flow closes; a flow that makes no progress is lost: FLOW_LOST names it, its messages and tier
requests fail, and the requests that sent on it end as R360 says. R354, R355, R361, R365, R369: a data frame that may
be taken acknowledges the reverse flow and takes its place in its own, and what is then in order is delivered: the next
of its flow at once, with the one after it expected, and one ahead of it once those between have come; any other is
discarded and counted at its port. An answer of the appliance ends the tier request of its tag, in failure where its
status says so; a check of the partner is compared with this module's own, or held until that is made; without a check
for 100 ms the mirrored requests are void and LOST is set. -/
def Obligations.FlowsCarryFrames : Prop :=
  ((∀ (s : State) (f : Frame) (k : Nat) (g : OutFlow), s.reverseKey f = some k → s.outFlow k = some g →
     exec (.credit f) s = .next ((((s.setOut k { g with
       unacked := g.unacked.filter (fun m => decide (f.apsn ≤ m.psn)), opened := g.opened || decide (0 < f.apsn)
       credits := min (g.credits + f.credit) 2048 }).pump k pumpFuel).settleAcks).settle) ∧
     exec (.ack f) s = .next (((s.ackFlow k f.apsn f.credit f.body).settleAcks).settle) ∧
     (g.queue = [] → ∃ h : OutFlow, (s.ackFlow k f.apsn f.credit f.body).outFlow k = some h ∧
       h.opened = (g.opened || decide (0 < f.apsn)) ∧ h.credits = min (g.credits + f.credit) 2048 ∧
       ∀ m ∈ h.unacked, f.apsn ≤ m.psn ∧ bitmapHas f.body f.apsn m.psn = false)) ∧
   (∀ (s : State) (k port : Nat) (g : InFlow), s.net.ins.at? k = some g → g.ackDue = true → s.nextPort = some port →
     s.owns = true →
     ∃ t fr, exec (.ackTimer k) s = .next t ∧ t.net.tx = s.net.tx ++ [fr] ∧ fr.port = port ∧ fr.type = 0x10 ∧
       fr.dnode = g.snode ∧ fr.dmac = nodeMac port g.snode ∧ fr.smac = nodeMac port s.nodeId ∧ fr.gen = g.gen ∧ fr.apsn = g.expect ∧
       t.net.ins.at? k = some { g with ackDue := false, granted := g.granted + fr.credit }) ∧
   (∀ (s : State) (k psn port : Nat) (g : OutFlow) (m : OutMsg), s.outFlow k = some g → s.nextPort = some port →
     g.unacked.find? (fun m => m.psn == psn) = some m → s.owns = true →
     ∃ t fr, exec (.resendTimer k psn) s = .next t ∧ t.net.tx = s.net.tx ++ [fr] ∧ fr.port = port ∧ fr.type = m.type ∧
       fr.psn = m.psn ∧ fr.gen = g.gen ∧ fr.body = m.body ∧
       t.outFlow k = some { g with unacked := g.unacked.map (fun u =>
         if u.psn = psn then ({ m with tries := m.tries + 1, port := port } : OutMsg) else u) }) ∧
   (∀ (s : State) (k : Nat),
     (∀ g, k < 8192 → s.outFlow k = some g → g.unacked = [] → g.queue = [] →
       exec (.flowClose k) s = .next (({ s with net := { s.net with outs := s.net.outs.del k } } : State).pumpAll)) ∧
     (∀ g, s.net.ins.at? k = some g → g.window = [] → g.ackDue = false →
       exec (.flowClose (8192 + k)) s = .next { s with net := { s.net with ins := s.net.ins.del k } })) ∧
   (∀ (s e u : State) (k : Nat) (g : OutFlow), s.outFlow k = some g → g.unacked ≠ [] →
     e = s.event .flowLost (if g.part = mirrorPart then 255 else g.part) g.dpart g.gen
       (if g.part = mirrorPart then 0 else s.reqidOf g.part) g.dnode →
     u = { e with net := { e.net with outs := e.net.outs.del k } } →
     s.err.nextSeq < e.err.nextSeq ∧ u.outFlow k = none ∧
     exec (.flowLost k) s = .next (((e.srv.reqs.filter (fun q => q.usesFlow g)).foldl (fun t q =>
         t.voidIdle q (Code.flowLost.val, 2, if g.part = mirrorPart then 255 else g.part, s.err.nextSeq))
       ((e.tierTags g).foldl (fun t x => t.tierAnswer x none 5) u)).pumpAll).settle)) ∧
  ((∀ (s : State) (f : Frame) (c : Instr) (type : Nat) (deliver : State → Frame → State),
     (c = .coll f ∧ type = 0x30 ∧ deliver = State.deliverColl) ∨ (c = .tierRdata f ∧ type = 0x41 ∧ deliver = fun s g => s.deliverTier false g) ∨
       (c = .tierWack f ∧ type = 0x43 ∧ deliver = fun s g => s.deliverTier true g) ∨
       (c = .mirrorCheck f ∧ type = 0x50 ∧ deliver = State.deliverCheck) →
     (s.takesFrame f = false → exec c s = .next (s.discard f.port)) ∧
     (s.takesFrame f = true → ∀ u ds v w,
       u = (match s.outKey? (if type = 0x50 then mirrorPart else f.dpart) f.snode f.spart with
         | some k => s.ackFlow k f.apsn f.credit []
         | none => s) →
       u.receive type f = (ds, v) → w = ds.foldl (fun t d => deliver t d.2) v →
       exec c s = .next ((if f.acknow then (match w.inKey? type f with
         | some k => w.ackIn k
         | none => w) else w).settleAcks).settle)) ∧
   (∀ (s : State) (f : Frame) (k type : Nat) (g : InFlow), s.inKey? type f = some k → s.net.ins.at? k = some g → g.gen = f.gen →
     (g.window = [] → f.psn = g.expect → ∃ h, s.receive type f = ([(type, f)], s.setIn k h) ∧
       h = { g with expect := g.expect + 1, granted := g.granted - 1, ackDue := true }) ∧
     (g.expect < f.psn → f.psn < g.expect + 2048 → (∀ e ∈ g.window, e.1 ≠ f.psn ∧ e.1 ≠ g.expect) →
       s.receive type f = ([], s.setIn k { g with ackDue := true, window := g.window ++ [(f.psn, type, f)] }))) ∧
   (∀ (s : State) (f : Frame) (x : TierReq), s.net.tiers.at? (leAt f.body 0 4) = some x → x.part = f.dpart →
     6 ≤ f.body.length →
     (leAt f.body 4 2 ≠ 0 → s.deliverTier x.store f = s.tierAnswer (leAt f.body 0 4) none 0) ∧
     (leAt f.body 4 2 = 0 → x.store = false → 8 + x.len ≤ f.body.length →
       s.deliverTier false f = s.tierAnswer (leAt f.body 0 4) (some (tierWords f (x.len / 8))) 0) ∧
     (leAt f.body 4 2 = 0 → x.store = true → s.deliverTier true f = s.tierAnswer (leAt f.body 0 4) (some []) 0)) ∧
   (∀ (s : State) (f : Frame) (key : Nat), s.mirrored = true → f.snode = s.fld .vngMirror 0 0 23 0 → 24 ≤ f.body.length →
     key = checkKey (leAt f.body 6 1) (leAt f.body 7 1) (leAt f.body 4 1) (leAt f.body 5 1 % 2) (leAt f.body 8 4) →
     (s.net.checksOut.find? (fun c => c.1 == leAt f.body 0 4 && c.2.1 == key) = none →
       s.deliverCheck f = { s with net := { s.net with
         checksIn := s.net.checksIn ++ [(leAt f.body 0 4, key, leAt f.body 16 8, s.up.time)] } }) ∧
     (∀ c, s.net.checksOut.find? (fun c => c.1 == leAt f.body 0 4 && c.2.1 == key) = some c →
       s.deliverCheck f = ({ s with net := { s.net with checksOut := s.net.checksOut.erase c } } : State).compareCheck
         (leAt f.body 0 4) key c.2.2.1 (leAt f.body 16 8))) ∧
   (∀ (s : State), s.mirrored = true → s.net.checksOut ≠ [] →
     ∃ u : State, exec .mirrorTimeout s = .next ((s.srv.reqs.filter (fun q => decide (0 < q.mirrorNo))).foldl (fun s q => s.voidMirrored q) u) ∧
       u.flag .vngMirror 0 0 26 = true ∧ u = { s with regs := u.regs, net := { s.net with checksOut := [], checksIn := [] } }))

/-! ### Attaches and status pages -/

/-- R322, R327, R342: a link that comes up shows its rate and width and lets the attach send what waited; one that goes
down is recorded with the time, and is no longer open; in D3hot an attach issues nothing. A status page with an
address is written where its gate and its attach allow it: SEQ odd, the other bytes, then SEQ two higher than before. -/
def Obligations.AttachesAndPages : Prop :=
  (∀ (s : State) (b flit : Bool) (rate width : Nat), rate < 8 → width < 32 →
    ∃ u : State, (u = { s with regs := u.regs, host := { s.host with downSince := u.host.downSince } } ∧
        u.fld .hifLink 0 (b2n b) 2 0 = rate ∧ u.fld .hifLink 0 (b2n b) 7 3 = width ∧ u.flag .hifLink 0 (b2n b) 8 = flit) ∧
      exec (.attachLinkChange b rate width flit) s = .next (if rate = 0 then u else u.wakeAttach b) ∧
      (rate = 0 → u.attachOpen b = false ∧ (s.fld .hifLink 0 (b2n b) 2 0 ≠ 0 → u.host.downSince.at? (b2n b) = some s.up.time))) ∧
  (∀ (s : State) (b : Bool),
    (∃ t, exec (.attachPowerState b true) s = .next t ∧ t.attachOpen b = false ∧
      t = { s with host := { s.host with d3 := s.host.d3 ||| BitVec.twoPow 2 (b2n b) } }) ∧
    ∃ u : State, exec (.attachPowerState b false) s = .next (u.wakeAttach b) ∧
      u = { s with host := { s.host with d3 := s.host.d3 &&& ~~~(BitVec.twoPow 2 (b2n b)) } }) ∧
  (∀ (s : State) (page meas energy : Nat), page < 34 → (page < 32 → s.gated page = false) → s.pageAddr page ≠ 0 →
    s.attachOpen (if page < 32 then s.ownerOf page else page == 33) = true →
    s.host.held.any (fun e => e.1 == (if page < 32 then page else 32)) = false →
    ∃ t bs, exec (.statusPageWrite page meas energy) s = .next t ∧
      t.host.pageSeq.at? page = some (s.host.pageSeq.atD page 0 + 2) ∧
      t.host.out = s.host.out ++ pageWrites (if page < 32 then s.ownerOf page else page == 33) (s.pageAddr page)
        (s.host.pageSeq.atD page 0) bs ∧
      bs.take 8 = leBytes 8 s.sinceReady ∧ t.cloves = s.cloves ∧ t.regs = s.regs ∧ t.hbm = s.hbm)

/-! ### Supply, sensors and power -/

/-- What a module reset or a power loss leaves of the state that power keeps: no clove, field, partition or stack state, HBM
reading 0, no request, not Ready, and every gate closed (R408, R430). -/
def Sys2Proof.Machine.Blank (t : State) : Prop :=
  t.cloves = [] ∧ t.fields = [] ∧ t.parts = [] ∧ t.hbm = ⟨[], []⟩ ∧ t.memStacks = [] ∧ t.msgs = [] ∧ t.inflight = [] ∧
    t.srv = Serving.fresh ∧ t.ready = false ∧ ∀ p, p < 32 → t.gated p = true

/-- R29, R39, R402, R408: MOD_RESET_N low is a module reset that holds start-up at step 1; high, or a good busbar, begins
start-up where the other condition holds, and counts it; a busbar above 42.0 V powers the always-on domains; at 42.0 V
or below every domain is lost too. -/
def Obligations.SupplyBeginsAndEnds : Prop :=
  ∀ s : State,
    (∃ t, exec .modResetNLow s = .next t ∧ Blank t ∧ t.up.resetHigh = false ∧ t.fld .glbStart 0 0 3 0 = 1 ∧
      t.pwr.domains = s.pwr.domains.filter (fun e => decide (1290 ≤ e.1)) ∧ t.pwr.mv = s.pwr.mv ∧ t.pwr.good = s.pwr.good) ∧
    (s.up.resetHigh = true → exec .modResetNHigh s = .next s) ∧
    (s.up.resetHigh = false → ∃ t, exec .modResetNHigh s = .next t ∧ t.up.resetHigh = true ∧ t.cloves = s.cloves ∧ t.hbm = s.hbm ∧
      (s.pwr.good = true → t.fld .glbStart 0 0 3 0 = 2 ∧ t.up.began = s.up.time ∧ t.flash.startups = s.flash.startups + 1) ∧
      (s.pwr.good = false → t.regs = s.regs ∧ t.flash = s.flash)) ∧
    (∃ t, exec .busbarGood s = .next t ∧ t.pwr.good = true ∧ t.pwr.mv = max s.pwr.mv 47000 ∧ t.cloves = s.cloves ∧
      t.domOn 1290 = true ∧ (s.domOn 1290 = false → t.domOn 1291 = true) ∧
      (s.pwr.good = false → s.fld .glbStart 0 0 3 0 = 1 → s.up.resetHigh = true →
        t.fld .glbStart 0 0 3 0 = 2 ∧ t.flash.startups = s.flash.startups + 1)) ∧
    (∃ t, exec .powerLoss s = .next t ∧ Blank t ∧ t.pwr.domains = [] ∧ t.pwr.good = false)

/-- R32 to R34, R379, R380, R389, R391: the effective cap is the lowest of the limits that apply, with that limit's reason;
every reading of the busbar, the clamps, the coolant and the rack's lease takes it anew. A busbar below 46.0 V opens the
brown-out event, which 47.0 V closes; a clamp at 350 A holds what is granted; an open clamp is logged when it is first
seen; coolant that flows again lets strips come back that nothing else keeps off. -/
def Obligations.CapIsLowestLimit : Prop :=
  (∀ s : State, (∀ l ∈ s.limits, ∀ w, l.1 = some w → s.effective.1 ≤ w) ∧
    (some s.effective.1, s.effective.2) ∈ s.limits) ∧
  ∀ (s : State),
    (∀ mv, (46000 ≤ mv → exec (.busbarBrownoutWarn mv) s = .next (s.setBusbar mv).recap) ∧
      (mv < 46000 → ∃ t, exec (.busbarBrownoutWarn mv) s = .next t ∧ t.pwr.cap = t.effective.1 ∧ t.pwr.mv = mv ∧
        t.pwr.warn = true ∧ t.flag .pwrStat 0 0 11 = true ∧ (t.openRec 4 255).isSome = true)) ∧
    (∀ mv, (mv < 47000 ∨ s.pwr.warn = false → exec (.busbarWarnClear mv) s = .next (s.setBusbar mv).recap) ∧
      (47000 ≤ mv → s.pwr.warn = true → ∃ t, exec (.busbarWarnClear mv) s = .next t ∧ t.pwr.cap = t.effective.1 ∧
        t.pwr.mv = mv ∧ t.pwr.warn = false ∧ t.flag .pwrStat 0 0 11 = false ∧ ∀ r, s.openRec 4 255 = some r →
          { r with dur := some ((s.sinceReady - r.start) / 1000 % 2 ^ 32), depth := 0 } ∈ t.pwr.records)) ∧
    (∀ mv i1 i2, ∃ t, exec (.clampLimit mv i1 i2) s = .next t ∧ t.pwr.cap = t.effective.1 ∧ t.pwr.mv = mv ∧ t.pwr.i1 = i1 ∧
      t.pwr.i2 = i2 ∧ (t.pwr.oneClamp = true ↔ i1 < 100 ∧ 1000 < i2 ∨ i2 < 100 ∧ 1000 < i1) ∧
      t.err.nextSeq = s.err.nextSeq + (if t.pwr.oneClamp = true ∧ s.pwr.oneClamp = false then 1 else 0) ∧
      (3500 ≤ i1 ∨ 3500 ≤ i2 → t.pwr.clampLimit = true ∧ t.pwr.now ≤ mv * (i1 + i2) / 10000 ∧ t.fld .pwrStat 0 0 3 0 = 1 ∧
        (t.openRec 1 255).isSome = true)) ∧
    (∀ i1 i2, ∃ t, exec (.openClamp i1 i2) s = .next t ∧ t.pwr.cap = t.effective.1 ∧ t.pwr.i1 = i1 ∧ t.pwr.i2 = i2 ∧
      (t.pwr.oneClamp = true ↔ i1 < 100 ∧ 1000 < i2 ∨ i2 < 100 ∧ 1000 < i1) ∧
      t.err.nextSeq = s.err.nextSeq + (if t.pwr.oneClamp = true ∧ s.pwr.oneClamp = false then 1 else 0)) ∧
    (∀ inlet outlet flow, ∃ t, exec (.coolantSensorUpdate inlet outlet flow) s = .next t ∧ t.pwr.cap = t.effective.1 ∧
      t.pwr.inlet = inlet ∧ t.pwr.outlet = outlet ∧ t.pwr.flow = flow ∧ t.pwr.flow40 = (s.pwr.flow40 && decide (400 ≤ flow)) ∧
      t = { s with pwr := t.pwr } ∧
      ∀ d, d < 1152 → s.pwr.safety.at? d = some none → 100 ≤ flow → (∀ e ∈ (s.field (d / 12)).temps, e.2 < 1680) →
        t.pwr.safety.at? d = some (some s.up.time)) ∧
    (400 ≤ s.pwr.flow → ∃ t, exec .coolantFlowReturn s = .next t ∧ t.pwr.cap = t.effective.1 ∧ t.pwr.flow40 = true ∧
      t = { s with pwr := t.pwr }) ∧
    (s.pwr.flow < 400 → exec .coolantFlowReturn s = .next s) ∧
    (s.pwr.leased = true → ∃ t, exec .leaseExpiry s = .next t ∧ t.pwr.cap = t.effective.1 ∧ t.pwr.leased = false ∧
      t.pwr.floorOn = true ∧ t.fld .pwrAllot 0 0 31 16 = 0 ∧ t.rackLimit = some (s.fld .pwrFloor 0 0 15 0))

/-- R35, R241, R388, R389: a reading of a sensor is kept. A dew-point margin below 2 K is logged when it is first told. A
strip at 95 °C or above opens its field's event and holds the field until that strip is at 92 °C or below, and every reading
meanwhile lowers the field's setpoint unless it is at its lowest; a stack above 85 °C refreshes twice as often and above
95 °C is throttled until it is at 90 °C or below. A strip or a stack at 105 °C or above, or 1 s of coolant below
10 L/min, is a safety off: every domain that it names is OFF and stays so until its condition has cleared, a record
names it, and a partition that loses a strip or a hub is reset. -/
def Obligations.SensorsAct : Prop :=
  (∀ (s t : State) (doms : List Nat) (cond : Nat), t = s.safetyOff doms cond →
    (∀ d ∈ doms, (t.domain d).st = .off ∧ t.pwr.safety.at? d = some none ∧
      (d < 1248 → (t.up.resets.at? (s.lead (if d < 1152 then d / 36 else (d - 1152) / 3))).isSome = true)) ∧
    (doms ≠ [] → s.err.nextSeq < t.err.nextSeq)) ∧
  ∀ s : State,
    (s.pwr.flow < 100 → exec .flowSafetyTimeout s = .next (s.safetyOff (List.range 1152) 2)) ∧
    (100 ≤ s.pwr.flow → exec .flowSafetyTimeout s = .next s) ∧
    (∀ temp rh margin, ∃ t, exec (.airSensorUpdate temp rh margin) s = .next t ∧
      t.pwr = { s.pwr with
        air := temp, rh := rh, margin := margin, dew := decide (margin < 32), dewTold := decide (margin < 32) } ∧
      (32 ≤ margin ∨ s.pwr.dewTold = true → t = { s with pwr := t.pwr }) ∧
      (margin < 32 → s.pwr.dewTold = false →
        t = ({ s with pwr := t.pwr } : State).log .envWarn 255 0 0 0 (ofSigned 32 margin))) ∧
    (∀ f strip temp, f < 96 → ∃ u : State, u.cloves = s.cloves ∧ u.err = s.err ∧ (u.field f).temps.at? strip = some temp ∧
      (∀ i, i ∈ (u.field f).hot ↔ if i = strip ∧ (1520 ≤ temp ∨ temp ≤ 1472) then 1520 ≤ temp else i ∈ (s.field f).hot) ∧
      (1520 ≤ temp → (u.openRec 2 f).isSome = true) ∧
      ((u.field f).hot ≠ [] →
        (s.floorRate f < s.fld .fldPwrAge f 0 19 8 →
          s.floorRate f ≤ u.fld .fldPwrAge f 0 19 8 ∧ u.fld .fldPwrAge f 0 19 8 < s.fld .fldPwrAge f 0 19 8) ∧
        (s.fld .fldPwrAge f 0 19 8 ≤ s.floorRate f → u.fld .fldPwrAge f 0 19 8 = s.fld .fldPwrAge f 0 19 8)) ∧
      ((u.field f).hot = [] → u.fld .fldPwrAge f 0 19 8 = s.fld .fldPwrAge f 0 19 8) ∧
      (temp < 1680 → exec (.stripTempUpdate f strip temp) s = .next (u.clearStrips [f])) ∧
      (1680 ≤ temp → exec (.stripTempUpdate f strip temp) s =
        .next (u.safetyOff ((List.range 12).map (fun i => f * 12 + i)) 0))) ∧
    (∀ k temp, k < 24 → ∃ t, exec (.hbmTempUpdate k temp) s = .next t ∧ (t.stack k).temp = temp ∧
      t.flag .memStkStat 0 k 7 = decide (1360 < temp) ∧
      (t.stack k).throttled = (decide (1520 < temp) || ((s.stack k).throttled && decide (1440 < temp))) ∧
      ((t.stack k).throttled = true → (t.openRec 2 255).isSome = true) ∧ t.cloves = s.cloves ∧
      (temp < 1680 → t.hbm = s.hbm ∧ t.err = s.err ∧
        (s.pwr.safety.at? (1248 + k) = some none → t.pwr.safety.at? (1248 + k) = some (some s.up.time))) ∧
      (1680 ≤ temp → (t.domain (1248 + k)).st = .off ∧ t.pwr.safety.at? (1248 + k) = some none ∧
        t.err.nextSeq = s.err.nextSeq + 1))

/-- R376, R378, R382, R384 to R387, R389, R390: a field's rail, regulator phases, trim and calibration follow their events.
A rail at 0.45 V or below, or over its current limit, is a safety off of the field: its 12 strips and its hub are OFF, a
record names it, and its partition is reset; a brown-out that ends lets its held strips come up. The agent moves the
estimate by no more than its slope allows; over its budget it lowers the setpoint, then withholds dispatch, and under it
the reverse. -/
def Obligations.FieldsFollowTheirRails : Prop :=
  ∀ (s : State) (f : Nat), f < 96 →
    (∀ mv, mv < 1024 → 450 < mv →
      (mv + 80 < min (s.fld .fldPwrRail f 0 19 10) (s.field f).slewFrom →
        ∃ t, exec (.fieldBrownoutWarn f mv) s = .next t ∧ t.fld .fldPwrRail f 0 9 0 = mv ∧ (t.field f).brown = true ∧
          (t.openRec 4 f).isSome = true ∧ t.err = s.err) ∧
      (min (s.fld .fldPwrRail f 0 19 10) (s.field f).slewFrom ≤ mv + 80 →
        exec (.fieldBrownoutWarn f mv) s = .next (s.setFld .fldPwrRail f 0 9 0 mv))) ∧
    (∀ mv c, (c = .fieldBrownoutWarn f mv ∧ mv ≤ 450 ∨ c = .fieldOvercurrent f mv ∧ mv < 1024) →
      ∃ t, exec c s = .next t ∧ t.fld .fldPwrRail f 0 9 0 = mv ∧ (∀ d ∈ fieldDomains f, (t.domain d).st = .off) ∧
        (t.up.resets.at? (s.lead (f / 3))).isSome = true ∧ s.err.nextSeq < t.err.nextSeq) ∧
    (∀ mv us, mv < 1024 →
      ((s.field f).brown = true → 10 ≤ us → s.fld .fldPwrRail f 0 19 10 ≤ mv + 40 →
        ∃ t, exec (.fieldBrownoutEnd f mv us) s = .next t ∧ t.fld .fldPwrRail f 0 9 0 = mv ∧ (t.field f).brown = false ∧
          t.cloves = s.cloves ∧
          (∀ r, s.openRec 4 f = some r →
            { r with dur := some ((s.sinceReady - r.start) / 1000 % 2 ^ 32), depth := 0 } ∈ t.pwr.records) ∧
          ∀ i, i < 12 → (s.domain (f * 12 + i)).st = .off → (s.domain (f * 12 + i)).held = some true →
            f * 12 + i ∉ s.up.failed → s.safetyAllows (f * 12 + i) = true → t.domain (f * 12 + i) = ⟨.up, none, false⟩) ∧
      ((s.field f).brown = false ∨ us < 10 ∨ mv + 40 < s.fld .fldPwrRail f 0 19 10 →
        exec (.fieldBrownoutEnd f mv us) s = .next (s.setFld .fldPwrRail f 0 9 0 mv))) ∧
    (∀ n, n = s.fld .fldPwrRail f 0 23 20 → n ≠ 0 → ∃ t, exec (.phaseFail f) s = .next t ∧
      t.fld .fldPwrRail f 0 23 20 = n - 1 ∧ (t.field f).phasesOut = (s.field f).phasesOut + 1 ∧ t.up.mapDirty = true ∧
      (n - 1 < 14 → (t.openRec 1 f).isSome = true) ∧
      t.err.nextSeq = s.err.nextSeq + (if s.fld .fldPwrRail f 0 25 24 ≤ (s.field f).phasesOut then 1 else 0)) ∧
    (s.fld .fldPwrRail f 0 25 24 ≠ 0 → (s.field f).phasesOut ≠ 0 → s.fld .fldPwrRail f 0 23 20 < 15 →
      ∃ t, exec (.phaseSpareIn f) s = .next t ∧ t.fld .fldPwrRail f 0 25 24 = s.fld .fldPwrRail f 0 25 24 - 1 ∧
        t.fld .fldPwrRail f 0 23 20 = s.fld .fldPwrRail f 0 23 20 + 1 ∧
        (t.field f).phasesOut = (s.field f).phasesOut - 1) ∧
    (∀ meas leak dyn, dyn ≠ 0 → ∃ t, exec (.calibration f meas leak dyn) s = .next t ∧
      t = { s with fields := t.fields } ∧
      t.field f = { s.field f with coeff := ((meas - leak) * 65536 / dyn :: (s.field f).coeff).take 64 }) ∧
    (∃ t, exec (.railTargetReached f) s = .next t ∧ t.fld .fldPwrRail f 0 9 0 = s.fld .fldPwrRail f 0 19 10 ∧
      (t.field f).slewFrom = s.fld .fldPwrRail f 0 19 10) ∧
    (∀ trim, ∃ t, exec (.ageingSweep f trim) s = .next t ∧ t.fld .fldPwrAge f 0 7 0 = min trim 60 ∧
      t.err.nextSeq = s.err.nextSeq + (if 60 ≤ trim ∧ s.fld .fldPwrAge f 0 7 0 < 60 then 1 else 0) ∧
      (Config.railFor f (min trim 60) (s.fld .fldPwrAge f 0 19 8) ≤ 780 →
        t.fld .fldPwrAge f 0 19 8 = s.fld .fldPwrAge f 0 19 8 ∧
        t.fld .fldPwrRail f 0 19 10 = railTarget f (min trim 60) (s.fld .fldPwrAge f 0 19 8)) ∧
      (780 < Config.railFor f (min trim 60) (s.fld .fldPwrAge f 0 19 8) → (t.field f).aged = true ∧ (t.openRec 7 f).isSome = true ∧
        t.fld .fldPwrAge f 0 19 8 = min (s.fld .fldPwrAge f 0 19 8) (Config.rateAt f (min trim 60) 780))) ∧
    (∀ p asked est rate, p.field = f → est = s.rampEst f (s.modelled p) → rate = s.fld .fldPwrAge f 0 19 8 →
      ∃ t, exec (.powerAgentTick p asked) s = .next t ∧
      t.fld .fldPwrEst f 0 15 0 = min est 65535 ∧ t.fld .fldPwrEst f 0 31 16 = min p.meas 65535 ∧
      est ≤ s.fld .fldPwrEst f 0 15 0 + s.fld .pwrCaps 0 0 7 0 / 10 ∧
      s.fld .fldPwrEst f 0 15 0 ≤ est + s.fld .pwrCaps 0 0 7 0 / 10 ∧
      ((s.field f).budget < max est p.meas →
        (s.floorRate f < rate → s.floorRate f ≤ t.fld .fldPwrAge f 0 19 8 ∧ t.fld .fldPwrAge f 0 19 8 < rate) ∧
        (rate ≤ s.floorRate f → t.fld .fldPwrAge f 0 19 8 = rate ∧ (t.field f).withheld = (s.field f).withheld ++
          (s.hottestOf f ((s.admittedIn f).filter (fun i => !(s.field f).withheld.contains i))).toList)) ∧
      (max est p.meas ≤ (s.field f).budget →
        ((s.field f).withheld ≠ [] → (t.field f).withheld = (s.field f).withheld.dropLast ∧ t.fld .fldPwrAge f 0 19 8 = rate) ∧
        ((s.field f).withheld = [] → asked < rate → t.fld .fldPwrAge f 0 19 8 = asked) ∧
        ((s.field f).withheld = [] → rate < asked → asked < 4096 → (s.field f).brown = false → s.pwr.warn = false →
          (s.field f).hot = [] → rate < Config.rateAt f (s.fld .fldPwrAge f 0 7 0) 780 →
          rate < t.fld .fldPwrAge f 0 19 8 ∧ t.fld .fldPwrAge f 0 19 8 ≤ asked)))

/-- R376, R377, R379, R382, R393, R394, R397, R398: what is granted moves by no more than the module's slope in a period,
where the effective cap binds its reason is shown and its event opens, and every field has its budget of what is granted;
a hint that fits brings ballast and one that does not holds its group's launches from its START on, until either runs
out; a throttle event whose reason has ended closes. -/
def Obligations.BudgetsAndHints : Prop :=
  ∀ s : State,
    (∀ (mv est meas : Nat) (u : State), u = (s.setBusbar mv).recap →
      ∃ t, exec (.budgetUpdate mv est meas) s = .next t ∧ t.pwr.mv = mv ∧ t.pwr.cap = u.effective.1 ∧
        t.pwr.now ≤ u.pwr.now + s.fld .pwrCaps 0 0 23 8 ∧ u.pwr.now ≤ t.pwr.now + s.fld .pwrCaps 0 0 23 8 ∧
          (s.pwr.warn = true → t.pwr.now ≤ u.pwr.now) ∧ t.fld .pwrMeas 0 0 15 0 = min meas 65535 ∧
          t.fld .pwrMeas 0 0 31 16 = min t.pwr.now 65535 ∧
          (u.effective.1 < max est meas →
            t.fld .pwrStat 0 0 3 0 = u.effective.2 ∧ (t.openRec u.effective.2 255).isSome = true) ∧
          (max est meas ≤ u.effective.1 → t.fld .pwrStat 0 0 3 0 = 0) ∧
          ∀ f, f < 96 → (t.field f).budget = (if s.fld .fldPwrRail f 0 23 20 < 14
            then min (Config.fieldBudget f t.pwr.now s.draws) (s.railWatts f) else Config.fieldBudget f t.pwr.now s.draws)) ∧
    (∀ l n h, (s.pwr.hints.filter (fun h => h.group == l))[n]? = some h →
      (s.flag .pwrHint 0 0 16 = false → exec (.hintCheck l n) s = .next s) ∧
      (s.flag .pwrHint 0 0 16 = true →
        (s.hintFits h = true → exec (.hintCheck l n) s = .next (s.setBallast l (s.forecast h - s.fld .pwrMeas 0 0 31 16))) ∧
        (s.hintFits h = false → s.up.time < h.start ∨ l ∈ s.pwr.heldGroups → exec (.hintCheck l n) s = .next s) ∧
        (s.hintFits h = false → h.start ≤ s.up.time → l ∉ s.pwr.heldGroups →
          ∃ t, exec (.hintCheck l n) s = .next t ∧ t.pwr.heldGroups = s.pwr.heldGroups ++ [l] ∧
            (t.openRec (if s.pwr.dew then 2 else 6) 255).isSome = true))) ∧
    (∀ l, (s.pwr.ballast.at? l).isSome = true → ∃ t, exec (.hintBallastTimeout l) s = .next t ∧ t.pwr.ballast.at? l = none ∧
      t.pwr.hints = s.pwr.hints.filter (fun h => !(h.group == l && decide (h.start ≤ s.up.time))) ∧
      ∀ f ∈ s.groupFields l, (t.field f).ballast = 0) ∧
    (∀ l, l ∈ s.pwr.heldGroups → exec (.hintDeferExpiry l) s = .next { s with pwr := { s.pwr with
      heldGroups := s.pwr.heldGroups.filter (fun g => g ≠ l)
      hints := s.pwr.hints.filter (fun h => !(h.group == l && decide (h.start ≤ s.up.time))) } }) ∧
    (∀ reason scope depth, (s.reasonHolds reason scope = true → exec (.throttleEventClose reason scope depth) s = .next s) ∧
      ∀ r, s.reasonHolds reason scope = false → s.openRec reason scope = some r →
      ∃ t, exec (.throttleEventClose reason scope depth) s = .next t ∧
        t.pwr.records = s.pwr.records.map (fun q => if q = r then
          ({ q with dur := some ((s.sinceReady - r.start) / 1000 % 2 ^ 32), depth := depth % 256 } : ThrottleRec) else q))

/-- R190, R373 to R375: a strip asked off begins to go down once nothing uses it; a domain that is up is ON: a strip's
cloves come back zeroed, a stack trained and zeroed, and a port with its link up; a domain that is down is OFF and has
lost its state; a request held meanwhile then applies. -/
def Obligations.DomainsSwitch : Prop :=
  ∀ s : State,
    (∀ f i, (s.domain (f * 12 + i)).st = .on → (s.domain (f * 12 + i)).wait = true → i ∉ s.admittedIn f →
      s.arraysBusy (f * 12 + i) = false → s.stripQuiet (f * 12 + i) = true →
      ∃ t, exec (.stripDownStart f i) s = .next t ∧ t.domain (f * 12 + i) = ⟨.down, none, false⟩ ∧
        t = { s with regs := t.regs, pwr := { s.pwr with domains := t.pwr.domains } }) ∧
    (∀ d trainFail wires, (s.domain d).st = .up →
      ∃ u : State, u.domain d = ⟨.on, none, false⟩ ∧
        (d < 1272 ∨ 1286 ≤ d →
          exec (.domainUpDone ⟨d, trainFail, wires⟩) s = .next (if (s.domain d).held = some false then u.requestOff d else u)) ∧
        (1272 ≤ d → d < 1286 → ∀ v, v = u.portUp (d - 1272) (if (s.net.spareLane.at? (d - 1272)).isSome then 3 else 2) →
          exec (.domainUpDone ⟨d, trainFail, wires⟩) s = .next (if (s.domain d).held = some false then v.requestOff d else v)) ∧
        (1248 ≤ d → d < 1272 → u.flag .memStkStat 0 (d - 1248) 8 = true ∧
          ∀ a, (d - 1248) * stackSpan ≤ a → a < (d - 1247) * stackSpan → u.hbmByte a = 0) ∧
        (d < 1152 → ∀ k, s.stripOf (cloveX k) (cloveY k) = d →
          (u.clove k).scratch = [] ∧ (u.clove k).regions = [] ∧ (u.clove k).channels = [])) ∧
    (∀ d, (s.domain d).st = .down →
      ∃ u : State, exec (.domainDownDone d) s = .next (if (s.domain d).held = some true then u.requestOn d else u) ∧
        u.domain d = Domain.off ∧
        (d < 1152 → ∀ k, s.stripOf (cloveX k) (cloveY k) = d →
          (u.clove k).scratch = [] ∧ (u.clove k).regions = [] ∧ (u.clove k).channels = []) ∧
        (1152 ≤ d → d < 1248 → u.reg .fldIntCnt0 (d - 1152) 0 = 0 ∧ u.reg .fldScrEcc (d - 1152) 0 = 0 ∧
          (u.field (d - 1152)).tlb = []) ∧
        (1248 ≤ d → d < 1272 → ∀ a, (d - 1248) * stackSpan ≤ a → a < (d - 1247) * stackSpan → u.hbmByte a = 0) ∧
        (1272 ≤ d → d < 1286 → u.fld .vngPort 0 (d - 1272) 2 0 = 0))

/-! ### Errors, gates and the persistent log -/

/-- R424, R425, R428, R430, R432, R435: a request abort that may run stops its group's work and is done; one that is not
done in time is completed by a partition reset; a group that makes no progress is aborted; a gate with no cause left
reopens, and what it held goes out; the persistent log takes its oldest waiting record, at most 64 in a second, and
erases a sector before it writes it again. -/
def Obligations.AbortsGatesAndLog : Prop :=
  ∀ s : State,
    (∀ l a, s.err.aborts.find? (fun a => a.group == l) = some a →
      (s.pairUp l = false ∨ a.atBoundary = true ∧ (∃ q, s.active l = some q ∧ q.inFlight = true) →
        exec (.requestAbort l) s = .next s) ∧
      (s.pairUp l = true → (a.atBoundary = true → ∀ q, s.active l = some q → q.inFlight = false) →
        exec (.requestAbort l) s = .next (s.doAbort a) ∧ ∀ b ∈ (s.doAbort a).err.aborts, b.group ≠ l)) ∧
    (∀ l a, s.err.aborts.find? (fun a => a.group == l && !a.atBoundary) = some a →
      exec (.abortTimeout l) s = .next (s.partitionEvent .abortTimeout l 0 0 (s.reqidOf l) a.code) ∧
      s.err.nextSeq < (s.partitionEvent .abortTimeout l 0 0 (s.reqidOf l) a.code).err.nextSeq ∧
      ((s.partitionEvent .abortTimeout l 0 0 (s.reqidOf l) a.code).up.resets.at? (s.lead l)).isSome = true) ∧
    (∀ l q, s.active l = some q →
      (s.err.progress.atD l false = true ∨ l ∈ s.pwr.heldGroups ∨
          s.fld .prtVngFlowq l 0 23 16 * 64 < (q.objs.filter (fun o => o.kind == 0)).length →
        exec (.stall l) s = .next { s with err := { s.err with progress := s.err.progress.put l false } }) ∧
      (s.err.progress.atD l false = false → l ∉ s.pwr.heldGroups →
        (q.objs.filter (fun o => o.kind == 0)).length ≤ s.fld .prtVngFlowq l 0 23 16 * 64 →
        ∀ t, t = s.event .stall l ((q.members.map (·.cid)).headD 0) 0 q.id 0 →
          exec (.stall l) s = .next t ∧ t.err.nextSeq = s.err.nextSeq + 1 ∧
          (l < 32 → ∃ b ∈ t.err.aborts, b.group = s.lead l))) ∧
    (∀ p, p < 32 → s.gated p = true →
      (s.gateCauses p ≠ [] → exec (.gateReopen p) s = .next (({ s with err := { s.err with
        gates := s.err.gates.put p (s.gateCauses p) } } : State).settleAcks)) ∧
      (s.gateCauses p = [] → ∃ u v : State, u.gated p = false ∧ u.host.held = s.host.held.filter (fun e => !u.mayWrite e.1 e.2) ∧
        u.host.out = s.host.out ++ (s.host.held.filter (fun e => u.mayWrite e.1 e.2)).map (·.2) ∧ v = (u.flushRecords p).pumpAll ∧
        exec (.gateReopen p) s = .next ((v.writePage p (leAt (v.host.ppages.atD p []) 260 4)
          (leAt (v.host.ppages.atD p []) 280 8)).settleAcks))) ∧
    (∀ r rest, s.err.plogWait = r :: rest → s.err.erasing = false →
      (s.err.plogNow = s.up.time / 1000000000 → 64 ≤ s.err.plogSec → ∃ t, exec .plogWrite s = .next t ∧
        t.err.plogWait = rest ∧ t.err.plog = s.err.plog ∧
        t.fld .errPlog 0 0 15 0 = min (s.fld .errPlog 0 0 15 0 + 1) 65535) ∧
      ((s.err.plogNow ≠ s.up.time / 1000000000 ∨ s.err.plogSec < 64) →
        (s.err.plogAt % sectorEntries ≠ 0 ∨ s.sectorFull s.err.plogAt = false →
          ∃ t, exec .plogWrite s = .next t ∧ t.err.plogWait = rest ∧ t.err.plog.at? s.err.plogAt = some (r, s.flash.startups) ∧
            t.err.plogAt = (s.err.plogAt + 1) % plogEntries ∧ t = { s with err := t.err } ∧
            ∀ i, i ≠ s.err.plogAt → t.err.plog.at? i = s.err.plog.at? i) ∧
        (s.err.plogAt % sectorEntries = 0 → s.sectorFull s.err.plogAt = true →
          ∃ t, exec .plogWrite s = .next t ∧ t.err.plogWait = r :: rest ∧ t.err.erasing = true ∧
            t.sectorFull s.err.plogAt = false ∧
            t.fld .errPlog 0 0 31 16 = min (s.fld .errPlog 0 0 31 16 + 1) 65535))) ∧
    exec .plogSectorEraseDone s = .next { s with err := { s.err with erasing := false } }

/-! ### Start-up, resets and repair -/

/-- R402, R403, R413, R419, R441: each stage of start-up ends in the next one, at its condition or at its limit. In step 3 the
domains of every field that may come up whole are ON, and in step 6 every stack that may come up is trained; a domain
that has failed stays OFF. In step 7 the pairs run the image that passed its check; a service block A that fails there
is taken over by block B, and the failure of both resets the module. Step 9 waits for an address, which one that the
agent already has fulfils at once; after step 10 the module is Ready and the gates reopen. -/
def Obligations.StartupStages : Prop :=
  ∀ (s : State) (n : Nat), n = s.fld .glbStart 0 0 3 0 →
    (∀ found fw, n = 1 → s.pwr.good = true → s.up.resetHigh = true →
      ∃ t, exec (.startupStageDone found fw) s = .next t ∧ t.fld .glbStart 0 0 3 0 = 2 ∧ t.up.began = s.up.time ∧
        t.flash.startups = s.flash.startups + 1) ∧
    (∀ found fw, 2 ≤ n → n ≤ 7 → (n = 7 → s.noBlock = false) →
      ∃ t, exec (.startupStageDone found fw) s = .next t ∧ t.fld .glbStart 0 0 3 0 = n + 1 ∧
        (n = 3 → ∀ f, f < 96 → (∀ d ∈ fieldDomains f, s.mayPower d = true) → ∀ d ∈ fieldDomains f, t.domOn d = true) ∧
        (n = 6 → ∀ k, k < 24 → s.mayPower (1248 + k) = true → t.flag .memStkStat 0 k 8 = true) ∧
        (n = 7 → t.reg .glbFw 0 0 = fw ∧ t.flash.imageA = found.imageA ∧ t.flag .glbStart 0 0 6 = !found.imageA)) ∧
    (∀ found fw, n = 8 → ∃ t, exec (.startupStageDone found fw) s = .next t ∧
      t.fld .glbStart 0 0 3 0 = (if s.addressed then 10 else 9)) ∧
    (∀ found fw, n = 9 → (s.addressed = false → exec (.startupStageDone found fw) s = .next s) ∧
      (s.addressed = true → ∃ t, exec (.startupStageDone found fw) s = .next t ∧ t.fld .glbStart 0 0 3 0 = 10)) ∧
    (∀ c, (∃ found fw, c = Instr.startupStageDone found fw ∧ s.claimState ≠ 1 ∧ s.claimState ≠ 2) ∨
        (∃ ds found fw, c = .startupStageLimit ⟨ds, found, fw⟩) →
      n = 10 → ∃ u : State, exec c s = .next ((List.range 32).foldl (fun s p => s.reopen p) u) ∧ u.ready = true ∧
        u.fld .glbStart 0 0 3 0 = 11 ∧ u.up.readyAt = s.up.time ∧ u.err.recent = [] ∧ u.cloves = s.cloves ∧ u.hbm = s.hbm) ∧
    (∀ ds found fw, 2 ≤ n → n ≤ 7 → (n = 7 → s.noBlock = false ∧ 1288 ∉ ds ∧ 1289 ∉ ds) →
      ∃ t, exec (.startupStageLimit ⟨ds, found, fw⟩) s = .next t ∧ t.fld .glbStart 0 0 3 0 = n + 1 ∧
        (n = 3 → ∀ d ∈ ds, d < 1248 → (s.domain d).st = .off → t.domOn d = false)) ∧
    (∀ ds found fw, n = 7 → s.flag .glbStart 0 0 7 = false → 1288 ∈ ds →
      (1289 ∉ ds → s.flash.blockBRetired = false → ∃ t, exec (.startupStageLimit ⟨ds, found, fw⟩) s = .next t ∧
        t.fld .glbStart 0 0 3 0 = 8 ∧ t.flag .glbStart 0 0 7 = true ∧ t.flash.blockARetired = true) ∧
      (1289 ∈ ds → ∃ t, exec (.startupStageLimit ⟨ds, found, fw⟩) s = .next t ∧ Blank t ∧ t.up.cause = some 3 ∧
        t.flash.blockARetired = true ∧ t.flash.blockBRetired = true)) ∧
    (∀ ds found fw, n = 8 ∨ n = 9 → ∃ t, exec (.startupStageLimit ⟨ds, found, fw⟩) s = .next t ∧
      t.fld .glbStart 0 0 3 0 = (if n = 8 ∧ s.addressed = false then 9 else 10))

/-- R406, R410, R412, R413, R416, R430: a copy of the repair map or the settings is written with the next sequence number
and is then the one in use; a partition reset ends with BUSY clear and DONE set; a pair that diverges or whose
watchdog expires stops, its gates close and a record names it, and one that diverges twice in an hour or fails its
self-test is retired; block B takes over from a silent block A, and the loss of both resets the module; a map epoch
waits for the commands already fetched, is refused by a running request, and after its partition reset maps the
partition's fields anew, with pending rows and wires retired; a field without 88 healthy rows keeps its map and takes
its partition out of service. -/
def Obligations.ResetsAndRepair : Prop :=
  ∀ s : State,
    ((5 ≤ s.fld .glbStart 0 0 3 0 → ∃ t c, exec (.repairMapWrite false) s = .next t ∧ t = { s with flash := t.flash, up := { s.up with mapDirty := false } } ∧
        newer t.flash.map0 t.flash.map1 = some c ∧ c = s.mapCopy (match newer s.flash.map0 s.flash.map1 with
          | some d => d.seq + 1
          | none => 1)) ∧
      ∃ t c, exec (.repairMapWrite true) s = .next t ∧ t = { s with flash := t.flash } ∧
        newer t.flash.set0 t.flash.set1 = some c ∧ t.settings = s.settings ∧
        c.seq = (match newer s.flash.set0 s.flash.set1 with
          | some d => d.seq + 1
          | none => 1)) ∧
    (∀ p cause, p < 32 → s.up.resets.at? (s.lead p) = some cause →
      ∃ u : State, exec (.partitionResetDone p) s = .next (((s.group (s.lead p)).foldl (fun s q => s.reopen q)
          (((s.group (s.lead p)).foldl (fun s q => s.abortCmds q (resetDetail cause q)) u).dropCause (s.group (s.lead p)) 2)).wakeClears
            (s.group (s.lead p))) ∧
        u = { s with regs := u.regs, up := { s.up with resets := s.up.resets.del (s.lead p) } } ∧
        ∀ q ∈ s.group (s.lead p), q ∉ s.up.clears → u.flag .prtReset q 0 2 = false ∧ u.flag .prtReset q 0 3 = true) ∧
    (∀ pair c, pair < 4 → s.pairRuns pair = true →
      (c = Instr.watchdogExpiry pair ∨ c = .lockstepDivergence pair ∧
          (∀ x ∈ s.up.diverged.atD pair [], x + hourNs ≤ s.up.time) →
        ∃ t, exec c s = .next t ∧ pair ∈ t.up.restarting ∧ t.err.nextSeq = s.err.nextSeq + 1 ∧
          ∀ p ∈ s.servedParts pair, t.gated p = true) ∧
      (c = .lockstepDivergence pair → (∃ x ∈ s.up.diverged.atD pair [], s.up.time < x + hourNs) →
        ∃ t, exec c s = .next t ∧ t.flag .glbCumin 0 0 (4 + pair) = true ∧ t.flag .glbCumin 0 0 pair = false ∧
          pair ∉ t.up.restarting ∧ s.err.nextSeq < t.err.nextSeq)) ∧
    (∀ pair, pair < 4 → pair ∈ s.up.restarting →
      (∃ t, exec (.pairRestartDone pair true) s = .next t ∧ t.up.restarting = s.up.restarting.filter (fun x => x ≠ pair) ∧
        t.cloves = s.cloves ∧ t.regs = s.regs) ∧
      ∃ t, exec (.pairRestartDone pair false) s = .next t ∧ t.flag .glbCumin 0 0 (4 + pair) = true ∧
        t.flag .glbCumin 0 0 pair = false ∧ pair ∉ t.up.restarting) ∧
    (s.flag .glbStart 0 0 7 = false → s.flash.blockBRetired = false →
      ∃ u : State, exec .heartbeatLoss s = .next ([0, 1].foldl (fun v p => if v.flag .glbCumin 0 0 p
          then (v.pairStops p 1 Code.blockTakeover.val s.err.nextSeq).retirePair p 1 Code.blockTakeover.val s.err.nextSeq else v) u) ∧
        u.flag .glbStart 0 0 7 = true ∧ u.domain 1288 = Domain.off ∧ u.flash.blockARetired = true ∧ u.unlocked = false ∧
        u.err.nextSeq = s.err.nextSeq + 1) ∧
    (∃ t, exec .lossOfBothServiceBlocks s = .next t ∧ Blank t ∧ t.up.cause = some 3) ∧
    (∀ p after, s.up.epoch = some (p, after) → p < 32 → s.up.resets.at? (s.lead p) = none →
      (after = true → ∃ t, exec .mapEpoch s = .next t ∧ t.up.epoch = none ∧ t.flag .glbMapCtrl 0 0 9 = false ∧
        t.flag .glbMapCtrl 0 0 11 = true ∧ t.err.nextSeq = s.err.nextSeq + 1 ∧
        ∀ f, 3 * p ≤ f → f < 3 * p + 3 → (t.field f).pending = [] ∧ (t.field f).pendWires = [] ∧
          (88 ≤ (rowMap ((s.field f).retired ++ (s.field f).pending)).length →
            (t.field f).map = rowMap ((s.field f).retired ++ (s.field f).pending)) ∧
          ((rowMap ((s.field f).retired ++ (s.field f).pending)).length < 88 →
            (t.field f).map = (s.field f).map ∧ t.partOut p = true)) ∧
      (after = false → s.groupBusy (s.lead p) = true → exec .mapEpoch s = .next s) ∧
      (after = false → s.groupBusy (s.lead p) = false →
        (∀ q, s.active (s.lead p) = some q → ∃ t, exec .mapEpoch s = .next t ∧ t.up.epoch = none ∧
          t.flag .glbMapCtrl 0 0 9 = false ∧ t.flag .glbMapCtrl 0 0 10 = true) ∧
        (s.active (s.lead p) = none → exec .mapEpoch s =
          .next (({ s with up := { s.up with epoch := some (p, true) } } : State).partitionReset (s.lead p) 0 0 0 0))))

/-! ### Writes of the set-up registers -/

/-- A write of a value to a register of a block, by a master, that reaches it at Ready: an attach is open and owns the
register's partition, which waits for no clear; the monitor is unlocked; the partition is not locked where the register has
locked fields (R8, R12, R322, R325, R327, R403). -/
structure Sys2Proof.Machine.WriteReady (s : State) (m : Master) (r : Reg) (blk idx : Nat) (v : W32) : Prop where
  ready : s.ready = true
  carried : ∀ b, attachOf m = some b → s.attachOpen b = true ∧ s.waitsClear m (r.addr blk idx) v = false
  monitor : m = .monitor → s.unlocked = true
  place : blk < r.info.blocks ∧ idx < r.info.count
  word : r.addr blk idx % 4 = 0
  holds : Reg.at? (r.addr blk idx) = some (r, blk, idx)
  owned : s.foreign m (offPart (r.addr blk idx)) = false
  free : r.info.rwl = 0 ∨ s.flag .prtLock (offPart (r.addr blk idx)) 0 0 = false

/-- Of the set-up registers, those whose write does more than store its fields. -/
def Sys2Proof.Machine.Reg.acts (r : Reg) : Bool :=
  [Reg.fldScrCtrl, .fldKvwCtrl, .fldIntCtrl, .prtHbmBase, .prtHbmSize, .memEpochCtrl, .memSpillCtl, .memSpillPmask, .memSpillBasel,
    .memSpillBaseh, .memSpillSize, .prtKvCtrl, .prtSrvCtrl, .prtSrvQuota, .hifConflict, .hifOwn, .prtGroup, .prtSqCfg, .prtCqCfg,
    .prtStpgLo, .prtStpgHi, .hifGstpgLo, .hifGstpgHi, .vngNode, .vngEtype, .vngMirror, .prtVngCallen, .prtVngFlowq,
    .prtVngGrplo, .pwrCap, .pwrFloor, .pwrCtrl, .prtPwrStrip, .prtReset, .glbReset, .glbMapCtrl].contains r

/-- R10, R12, R188, R293, R400, R437, R460: a write stores the fields of its register that may be written and no others; a
1 in a CLR bit clears the counts it is for; a 1 in ERR_ALERT clears that alert; PRT_LOCK is only ever set. -/
def Obligations.WritesStoreAndClear : Prop :=
  ∀ (s : State) (m : Master) (v : W32),
    (∀ r blk idx, WriteReady s m r blk idx v → r.acts = false →
      ∃ t, exec (.registerWrite m (r.addr blk idx) v) s = .next t ∧ t = { s with regs := t.regs } ∧
        t.reg r blk idx = r.info.merge (s.reg r blk idx) v ∧
        ∀ q b i, q.addr b i ≠ r.addr blk idx → t.reg q b i = s.reg q b i) ∧
    (∀ f, WriteReady s m .fldScrCtrl f 0 v → v.getLsbD 0 = true → ∃ t, exec (.fldScrCtrlClrCnt m f v) s = .next t ∧
      t = { s with regs := t.regs } ∧ t.reg .fldScrEcc f 0 = 0 ∧ t.fld .fldScrCtrl f 0 31 16 = 0) ∧
    (∀ f, WriteReady s m .fldKvwCtrl f 0 v → v.getLsbD 0 = true → ∃ t, exec (.fldKvwCtrlClr m f v) s = .next t ∧
      t = { s with regs := t.regs } ∧ t.reg .fldKvwStat f 0 = 0) ∧
    (∀ f, WriteReady s m .fldIntCtrl f 0 v → v.getLsbD 0 = true → ∃ t, exec (.fldIntCtrlClr m f v) s = .next t ∧
      t = { s with regs := t.regs } ∧ t.reg .fldIntCnt0 f 0 = 0 ∧ t.reg .fldIntCnt1 f 0 = 0 ∧ t.reg .fldIntCnt2 f 0 = 0) ∧
    (WriteReady s m .pwrCtrl 0 0 v → v.getLsbD 0 = true → ∃ t, exec (.pwrCtrlClr m v) s = .next t ∧
      t = { s with regs := t.regs } ∧ t.reg .pwrBwarn 0 0 = 0) ∧
    (WriteReady s m .errAlert 0 0 v → ∃ t, exec (.errAlertClear m v) s = .next t ∧ t = { s with regs := t.regs } ∧
      t.reg .errAlert 0 0 = s.reg .errAlert 0 0 &&& ~~~(v &&& 0x3F)) ∧
    (∀ p, WriteReady s m .prtLock p 0 v → ∃ t, exec (.prtLockSet m p v) s = .next t ∧ t = { s with regs := t.regs } ∧
      t.reg .prtLock p 0 = s.reg .prtLock p 0 ||| (v &&& 1))

/-- R246, R247, R259, R292, R319, R328, R336, R371: a window, a tier entry, the cache, serving, a group, a ring, a flow quota
and a group area are set up where the rules of their registers allow it; where they do not, the register keeps its
value and a record says so. A window that is moved, shrunk or disabled keeps its old extent while an earlier transfer
uses it. -/
def Obligations.SetupsAreChecked : Prop :=
  ∀ (s : State) (m : Master) (v : W32),
    (∀ p w r base size b n k, p < 32 → w < 8 →
      (r = Reg.prtHbmBase ∧ base = v &&& 0x8007FFFF ∧ size = s.reg .prtHbmSize p w ∨
        r = .prtHbmSize ∧ base = s.reg .prtHbmBase p w ∧ size = v &&& 0x7FFF) → WriteReady s m r p w v →
      b = regField base 18 0 → n = regField size 14 0 → k = b * mib2 / stackSpan →
      (base.getLsbD 31 = true → s.window p w ≠ some (b * mib2, n * mib2) →
        (n = 0 ∨ 24 ≤ k ∨ s.up.hbmEpoch = some k ∨ k * stackSpan + s.limitOf k < b * mib2 + n * mib2 ∨
            ∃ q, q < 32 ∧ q ≠ p ∧ ∃ x ∈ s.winExtents q, rangesMeet (b * mib2, n * mib2) x = true) →
          ∃ t, exec (.prtHbmWindowWrite m (r.addr p w) v) s = .next t ∧ t.err.nextSeq = s.err.nextSeq + 1 ∧
            t.reg .prtHbmBase p w = s.reg .prtHbmBase p w ∧ t.reg .prtHbmSize p w = s.reg .prtHbmSize p w) ∧
      (base.getLsbD 31 = true → s.window p w = some (b * mib2, n * mib2) →
        exec (.prtHbmWindowWrite m (r.addr p w) v) s = .next s) ∧
      ((base.getLsbD 31 = false ∨ s.window p w ≠ some (b * mib2, n * mib2) ∧ n ≠ 0 ∧ k < 24 ∧ s.up.hbmEpoch ≠ some k ∧
          b * mib2 + n * mib2 ≤ k * stackSpan + s.limitOf k ∧
          ∀ q, q < 32 → q ≠ p → ∀ x ∈ s.winExtents q, rangesMeet (b * mib2, n * mib2) x = false) →
        ∃ u : State, u = { s with regs := u.regs } ∧
          u.window p w = (if base.getLsbD 31 then some (b * mib2, n * mib2) else none) ∧
          exec (.prtHbmWindowWrite m (r.addr p w) v) s = .next (match s.window p w with
            | none => u
            | some o => if base.getLsbD 31 = true ∧ b * mib2 ≤ o.1 ∧ o.1 + o.2 ≤ b * mib2 + n * mib2 ∨ u.usesExtent p o = false
              then u else u.modPart p (fun q => { q with
                oldWin := q.oldWin.put w ((o.1 / mib2, o.2 / mib2) :: q.oldWin.atD w []) })))) ∧
    (∀ r n mask, r ∈ [Reg.memSpillCtl, .memSpillPmask, .memSpillBasel, .memSpillBaseh, .memSpillSize] → WriteReady s m r 0 n v →
      mask = (if r = .memSpillPmask then s.reg .memSpillPmask 0 n ||| v else s.reg .memSpillPmask 0 n) →
      ((∀ p, p < 32 → mask.getLsbD p = true → s.foreign m p = false) →
        ∃ t, exec (.memSpillEntryWrite m (r.addr 0 n) v) s = .next t ∧
          t.reg r 0 n = r.info.merge (s.reg r 0 n) v ∧ t = { s with regs := t.regs, parts := t.parts } ∧
          ∀ p, p ∈ t.parts → ∀ x ∈ p.2.tslots, x.1 / 2 ^ 28 = n → x.2 ≠ 1) ∧
      (∀ p, p < 32 → mask.getLsbD p = true → s.foreign m p = true →
        ∃ t, exec (.memSpillEntryWrite m (r.addr 0 n) v) s = .next t ∧ t.reg r 0 n = s.reg r 0 n ∧ t.parts = s.parts ∧
          t.err.nextSeq = s.err.nextSeq + 1)) ∧
    (∀ (p : Nat) (c : Instr) (r : Reg) (ok : Bool), (c, r, ok) ∈ [(Instr.prtKvCtrlEn m p v, Reg.prtKvCtrl, s.kvFits p),
        (.prtSrvCtrlEn m p v, .prtSrvCtrl, s.srvFits p),
        (.prtSrvQuotaWrite m p v, .prtSrvQuota, decide (s.quotaSum p 12 0 v ≤ 4096) && decide (s.quotaSum p 30 16 v ≤ 16384)),
        (.prtGroupWrite m p v, .prtGroup, !s.badLead p (regField v 4 0))] → WriteReady s m r p 0 v →
      (ok = true → ∃ t, exec c s = .next t ∧ t = { s with regs := t.regs } ∧ t.reg r p 0 = r.info.merge (s.reg r p 0) v) ∧
      (ok = false → ((r = .prtKvCtrl ∨ r = .prtSrvCtrl) → v.getLsbD 0 = true ∧ s.flag r p 0 0 = false) →
        ∃ t, exec c s = .next t ∧ t.reg r p 0 = s.reg r p 0 ∧ t.err.nextSeq = s.err.nextSeq + 1)) ∧
    (∀ p q, v.getLsbD 8 = true →
      (WriteReady s m .prtSqCfg p q v → s.sqOn p q = false →
        (ringSize v = true → s.cqOn p q = true → ∃ t, exec (.prtSqCfgEn m p q v) s = .next t ∧
          t = { s with regs := t.regs } ∧ t.sqOn p q = true) ∧
        ((ringSize v = false ∨ s.cqOn p q = false) → ∃ t, exec (.prtSqCfgEn m p q v) s = .next t ∧
          t.sqOn p q = false ∧ t.err.nextSeq = s.err.nextSeq + 1)) ∧
      (WriteReady s m .prtCqCfg p q v → s.cqOn p q = false →
        (ringSize v = true → ∃ t, exec (.prtCqCfgEn m p q v) s = .next t ∧ t = { s with regs := t.regs } ∧ t.cqOn p q = true) ∧
        (ringSize v = false → ∃ t, exec (.prtCqCfgEn m p q v) s = .next t ∧
          t.cqOn p q = false ∧ t.err.nextSeq = s.err.nextSeq + 1))) ∧
    (∀ p, p < 32 → WriteReady s m .prtVngFlowq p 0 v →
      (((List.range 32).map (fun q => if q = p then regField v 12 0 else s.fld .prtVngFlowq q 0 12 0)).sum ≤ 4096 →
        ∃ u : State, exec (.prtVngFlowqWrite m p v) s = .next u.pumpAll ∧ u = { s with regs := u.regs } ∧
          u.fld .prtVngFlowq p 0 12 0 = regField v 12 0 ∧ u.fld .prtVngFlowq p 0 23 16 = regField v 23 16) ∧
      (4096 < ((List.range 32).map (fun q => if q = p then regField v 12 0 else s.fld .prtVngFlowq q 0 12 0)).sum →
        ∃ t, exec (.prtVngFlowqWrite m p v) s = .next t ∧ t.reg .prtVngFlowq p 0 = s.reg .prtVngFlowq p 0 ∧
          t.err.nextSeq = s.err.nextSeq + 1)) ∧
    (∀ p a, WriteReady s m .prtVngGrplo p 0 v → v.getLsbD 0 = true → s.flag .prtVngGrplo p 0 0 = false →
      a = regField v 31 27 * 2 ^ 27 + s.fld .prtVngGrphi p 0 15 0 * 2 ^ 32 →
      (s.inWindow p a (2 ^ 27) = true → ∃ t, exec (.prtVngGrploEn m p v) s = .next t ∧ t = { s with regs := t.regs } ∧
        t.flag .prtVngGrplo p 0 0 = true ∧ t.fld .prtVngGrplo p 0 31 27 = regField v 31 27) ∧
      (s.inWindow p a (2 ^ 27) = false → ∃ t, exec (.prtVngGrploEn m p v) s = .next t ∧
        t.flag .prtVngGrplo p 0 0 = false ∧ t.err.nextSeq = s.err.nextSeq + 1))

/-- R254, R326, R327, R351, R363, R369, R375, R409 to R411, R416: the writes that order something: a change of owner with
its clear, calls armed and disarmed, a node ID claimed, a mirror bound, strips requested, a module or partition reset,
a zeroising clear, the epochs of the clove rows and of a stack. Of two orders of one message time that contradict each
other the one of lower rank is recorded and has no effect; when a clear is done its windows and scratchpads are zero. -/
def Obligations.OrdersAct : Prop :=
  ∀ (s : State) (m : Master) (v : W32),
    (WriteReady s m .hifOwn 0 0 v → m ≠ .monitor → exec (.hifOwnWrite m v) s = .next ((List.range 32).foldl (fun u p =>
      if v.getLsbD p = u.ownerOf p then u else if u.mayOwn m p = false then u.log .hostAccess p 0 0 0 0x10000 else
        ({ u.setFld .hifOwn 0 0 p p (b2n (v.getLsbD p)) with
          up := { u.up with newOwner := u.up.newOwner.put p (v.getLsbD p) } } : State).askClear p) s)) ∧
    (∀ p, WriteReady s m .prtVngCallen p 0 v → exec (.prtVngCallen m p v) s = .next ((List.range 32).foldl (fun u c =>
      if v.getLsbD c = u.flag .prtVngCallen p 0 c then u else if v.getLsbD c = true then u.setCallBit p c (Reg.prtVngCallen.addr p 0)
        else (u.setFld .prtVngCallen p 0 c c 0).disarmCall (p * 32 + c)) s)) ∧
    (WriteReady s m .vngNode 0 0 v → v.getLsbD 24 = true → nodeIdOk (regField v 23 0) = true →
      ∃ t, exec (.vngNodeClaim m v) s = .next t ∧ t.claimState = 1 ∧ t.net.claimId = regField v 23 0 ∧ t.net.collided = [] ∧
        t.fld .vngNode 0 0 23 0 = regField v 23 0 ∧ t.net.tx = s.announced 0xFFFFFF 1 (regField v 23 0)) ∧
    (WriteReady s m .vngMirror 0 0 v → v.getLsbD 24 = true → s.mirrored = false →
      ∃ t, exec (.vngMirrorBind m v) s = .next t ∧ t.mirrored = true ∧ t.fld .vngMirror 0 0 23 0 = regField v 23 0 ∧
        t.flag .vngMirror 0 0 25 = (s.owns && decide (s.nodeId < regField v 23 0)) ∧ t.net.mirrorCount = 0 ∧
        t.net.checksIn = [] ∧ t.net.checksOut = []) ∧
    (∀ p c, p < 32 → c < 3 → WriteReady s m .prtPwrStrip p c v → ∃ t, exec (.prtPwrStripReq m p c v) s = .next t ∧
      t.fld .prtPwrStrip p c 11 0 = regField v 11 0 ∧ t.cloves = s.cloves ∧
      ∀ i d, i < 12 → d = (3 * p + c) * 12 + i →
        (v.getLsbD i = true → s.flag .prtPwrStrip p c i = false → (s.domain d).st = .off → s.mayStart d = true →
          (t.domain d).st = .up) ∧
        (v.getLsbD i = false → s.flag .prtPwrStrip p c i = true → (s.domain d).st = .on → (t.domain d).wait = true)) ∧
    (∀ p, p < 32 → WriteReady s m .prtReset p 0 1 → s.up.resets.at? (s.lead p) = none →
      exec (.prtResetGo m p) s = .next (s.partitionReset (s.lead p) 0 0 0 0) ∧
      (s.srv.reqs = [] → s.net.outs = [] → (∀ q ∈ s.group (s.lead p), s.kvOn q = false) →
        ∀ t, t = s.partitionReset (s.lead p) 0 0 0 0 → t.up.resets.at? (s.lead p) = some (0, 0, 0) ∧
          (∀ q ∈ s.group (s.lead p), t.gated q = true ∧ t.flag .prtReset q 0 2 = true ∧ t.flag .prtLock q 0 0 = false ∧
            ∀ r, r < 8 → t.sqOn q r = false) ∧
          ∀ k, if partOf (cloveX k) (cloveY k) ∈ s.group (s.lead p)
            then (t.clove k).scratch = (s.clove k).scratch ∧ (t.clove k).regions = [] ∧ (t.clove k).channels = [] ∧
              (t.clove k).arrA.work = [] ∧ (t.clove k).arrB.work = [] ∧ (t.clove k).sb = [] ∧ (t.clove k).sfu = [] ∧
              (t.clove k).loop = none ∧ (t.clove k).fences = 0
            else t.clove k = s.clove k)) ∧
    (∀ p, p < 32 → WriteReady s m .prtReset p 0 2 →
      exec (.prtResetZero m p) s = .next (if (s.up.resets.at? (s.lead p)).isSome
        then { s with up := { s.up with zeroWait := (s.up.zeroWait ++ [p]).dedup } } else s.startClear p)) ∧
    (WriteReady s m .glbReset 0 0 v →
      (regField v 15 0 = 0x4D52 → ∃ t, exec (.glbReset m v) s = .next t ∧ Blank t ∧ t.up.cause = some 1) ∧
      (regField v 15 0 ≠ 0x4D52 → ∃ t, exec (.glbReset m v) s = .next t ∧ t.cloves = s.cloves ∧
        t.err.nextSeq = s.err.nextSeq + 1)) ∧
    (WriteReady s m .glbMapCtrl 0 0 v → v.getLsbD 8 = true → ∀ p, p = regField v 4 0 →
      (s.flag .glbMapCtrl 0 0 9 = false → ∃ t, exec (.glbMapCtrlGo m v) s = .next t ∧
        t = { s with regs := t.regs, up := { s.up with epoch := some (p, (s.up.resets.at? (s.lead p)).isSome) } } ∧
        t.flag .glbMapCtrl 0 0 9 = true) ∧
      (s.flag .glbMapCtrl 0 0 9 = true → ∃ t, exec (.glbMapCtrlGo m v) s = .next t ∧ t = { s with regs := t.regs } ∧
        t.flag .glbMapCtrl 0 0 10 = true)) ∧
    (WriteReady s m .memEpochCtrl 0 0 v → v.getLsbD 8 = true → ∀ k, k = regField v 4 0 →
      (s.up.hbmEpoch = none → k < 24 → (∀ q, q < 32 → ∀ x ∈ s.winExtents q, rangesMeet (k * stackSpan, stackSpan) x = false) →
        ∃ t, exec (.memEpochCtrlGo m v) s = .next t ∧
          t = { s with regs := t.regs, memStacks := t.memStacks, up := { s.up with hbmEpoch := some k } } ∧
          t.stack k = { s.stack k with leaving := s.reg .memStkPend 0 k &&& s.reg .memStkChmap 0 k } ∧
          t.flag .memEpochCtrl 0 0 9 = true) ∧
      ((s.up.hbmEpoch ≠ none ∨ 24 ≤ k ∨ ∃ q, q < 32 ∧ ∃ x ∈ s.winExtents q, rangesMeet (k * stackSpan, stackSpan) x = true) →
        ∃ t, exec (.memEpochCtrlGo m v) s = .next t ∧ t = { s with regs := t.regs } ∧ t.flag .memEpochCtrl 0 0 10 = true)) ∧
    (∀ a b : Order, ∀ u : State, u = { s with up := { s.up with time := s.up.time + 1000 } } → a.bar2 = false → b.bar2 = false →
      s.reaches a = true → s.reaches b = true → s.orderRank a < s.orderRank b → u.contradict b a = true →
      exec (.messageTimeEnd [a, b]) s = .next ((u.loseOrder b).runOrder a)) ∧
    (∀ p, p < 32 → p ∈ s.up.clears → s.up.resets.at? (s.lead p) = none →
      ∃ u : State, exec (.zeroisingClearDone p) s = .next u.releaseOrders ∧ u.up.clears = s.up.clears.filter (fun q => q ≠ p) ∧
        u.flag .prtReset p 0 3 = true ∧ (∀ k, partOf (cloveX k) (cloveY k) = p → (u.clove k).scratch = []) ∧
        (∀ w ∈ s.windows p, ∀ a, w.1 ≤ a → a < w.1 + w.2 → u.hbmByte a = 0) ∧
        ∀ n, n < 16 → u.flag .memSpillPmask 0 n p = false)

/-! ### The management bus -/

/-- The agent serves commands: its domain has power and it has an address (R441). -/
def Sys2Proof.Machine.Managed (s : State) : Prop := s.domOn 1290 = true ∧ s.addressed = true

/-- The agent has replied: a status and data, which are kept for GET_LAST (R443). -/
def Sys2Proof.Machine.Replied (s t : State) (st : Nat) (data : List Byte) : Prop :=
  t.mgmt.out = s.mgmt.out ++ [(st, data)] ∧ t.mgmt.last = some (st, data)

/-- R443, R444: what each command of the management bus does and replies; a bad format and an unknown command are answered
so, and a command before its step with NOT_READY. -/
def Obligations.ManagementReplies : Prop :=
  ∀ s : State, Managed s →
    (∃ t, exec .getId s = .next t ∧ t = { s with mgmt := t.mgmt } ∧ Replied s t 0 s.idData) ∧
    (∀ off len, ∃ t, exec (.getStatus off len) s = .next t ∧ t = { s with mgmt := t.mgmt } ∧
      (0 < len → len ≤ 240 → off + len ≤ 1024 → 2 ≤ s.stepNo → Replied s t 0 (pageBytes s.host.gpage off len)) ∧
      (0 < len → len ≤ 240 → off + len ≤ 1024 → s.stepNo < 2 → Replied s t 4 []) ∧
      ((len = 0 ∨ 240 < len ∨ 1024 < off + len) → Replied s t 2 [])) ∧
    (∃ t, exec .getEnv s = .next t ∧ t = { s with mgmt := t.mgmt } ∧ Replied s t 0 s.envData) ∧
    (∀ allot lease, 0 < lease → lease ≤ 600 → allot < 65536 → 2 ≤ s.stepNo →
      ∃ t, exec (.setAllot allot lease) s = .next t ∧ Replied s t 0 [] ∧ t.fld .pwrAllot 0 0 15 0 = allot ∧ t.pwr.leased = true ∧
        t.pwr.floorOn = false ∧ t.pwr.leaseEnd = s.up.time + lease * 1000000000 ∧ t.pwr.cap = t.effective.1) ∧
    (∀ grade, (grade = 0 ∨ grade = 1 ∧ s.pwr.flow40 = true) → ∃ t, exec (.setGrade grade) s = .next t ∧ Replied s t 0 [] ∧
      t.flag .pwrStat 0 0 12 = decide (grade = 1) ∧ t.settings = (grade, s.settings.2) ∧ t.pwr.cap = t.effective.1) ∧
    (s.pwr.flow40 = false → ∃ t, exec (.setGrade 1) s = .next t ∧ t = { s with mgmt := t.mgmt } ∧ Replied s t 3 []) ∧
    (∀ want, want < 2 ^ 24 → ∃ t, exec (.setNode want) s = .next t ∧ Replied s t 0 [] ∧ t.fld .vngNode 0 0 23 0 = want ∧
      t.settings = (s.settings.1, want)) ∧
    (∀ key, ∃ t, exec (.setMonkey key) s = .next t ∧ Replied s t 0 [] ∧ t.flash.monkey = key ∧ t.unlocked = false) ∧
    (exec .getLast s = .next { s with mgmt := { s.mgmt with out := s.mgmt.out ++ [s.mgmt.last.getD (3, [])] } }) ∧
    (∀ off, off % 4 = 0 → 8 ≤ s.stepNo → ∃ t, exec (.regRead off 1) s = .next t ∧ t = { s with mgmt := t.mgmt } ∧
      Replied s t 0 (leBytes 4 (s.readBar off).toNat)) ∧
    (∀ off count, 0 < count → count ≤ 60 → 8 ≤ s.stepNo →
      ∃ u : State, exec (.regRead off count) s = .next (u.reply 0 (s.readRegs off count).1) ∧ u = (s.readRegs off count).2) ∧
    (∀ off v, ∃ t u : State, exec (.regWrite off v) s = .next t ∧ (s.ready = true → u = s.busWrite .mgmt off v ∧ Replied u t 0 []) ∧
      (s.ready = false → t = { s with mgmt := t.mgmt } ∧ Replied s t 4 [])) ∧
    (∀ kind index on, kind ≤ 1 → on ≤ 1 → index < (if kind = 0 then 24 else 14) → 2 ≤ s.stepNo →
      (kind = 0 → on = 0 → s.stackInUse index = false) →
      ∃ t u : State, exec (.domain kind index on) s = .next t ∧ t = { u with mgmt := t.mgmt } ∧ Replied s t 0 [] ∧
        u = if on = 1 then s.requestOn (domainOf kind index) else s.requestOff (domainOf kind index)) ∧
    (∀ index, index < 24 → 2 ≤ s.stepNo → s.stackInUse index = true →
      ∃ t, exec (.domain 0 index 0) s = .next t ∧ t = { s with mgmt := t.mgmt } ∧ Replied s t 3 []) ∧
    (∀ pair, pair ≤ 3 → s.flag .glbCumin 0 0 pair = true → pair ∉ s.up.restarting →
      ∃ t, exec (.pairReset pair) s = .next t ∧ Replied s t 0 [] ∧ pair ∈ t.up.restarting ∧ t.err.nextSeq = s.err.nextSeq + 1) ∧
    (s.noTakeover = false → ∃ u : State, exec .takeover s = .next u.takeover ∧ Replied s u 0 [] ∧ u = { s with mgmt := u.mgmt }) ∧
    (s.noTakeover = true → ∃ t, exec .takeover s = .next t ∧ t = { s with mgmt := t.mgmt } ∧ Replied s t 3 []) ∧
    (∃ t, exec (.moduleReset 0x4D52) s = .next t ∧ Blank t ∧ t.up.cause = some 2 ∧ s.mgmt.out ++ [(0, [])] <+: t.mgmt.out) ∧
    (∀ src index count, src ≤ 1 → 0 < count → count ≤ (if src = 0 then 7 else 3) → index < (if src = 0 then 4096 else plogEntries) →
      ∃ t, exec (.logRead src index count) s = .next t ∧ t = { s with mgmt := t.mgmt } ∧ Replied s t 0 (s.logData src index count)) ∧
    (∀ opc, opc ∉ knownOpcs → ∃ t, exec (.unknownOpc opc) s = .next t ∧ t = { s with mgmt := t.mgmt } ∧ Replied s t 2 [])

/-- R439, R441, R442, R445: an address assigned to this agent's identifier is taken and start-up goes on; the commands
that prepare and reset address resolution clear AR and AV; an identifier is asked for and answered; an Alert Response
that this agent wins releases the line; a notify is sent again after a second, and after arbitration is lost; a
transaction that stretches the clock too long is discarded. -/
def Obligations.AddressIsResolved : Prop :=
  ∀ s : State, s.domOn 1290 = true →
    (∀ addr, addr < 128 → ∃ u : State, exec (.assignAddress agentUdid addr) s = .next (if s.stepNo = 9 then u.nextStep 10 else u) ∧
      u.addressed = true ∧ u.fld .mgtSmb 0 0 6 0 = addr ∧ u.flag .mgtSmb 0 0 8 = true ∧
      u = { s with regs := u.regs, mgmt := { s.mgmt with notifyDue := 0 } }) ∧
    (∃ t, exec .prepareToArp s = .next t ∧ t = { s with regs := t.regs } ∧ t.flag .mgtSmb 0 0 8 = false) ∧
    (∀ d : Option Nat, (∀ a, d = some a → s.addressed = true ∧ s.fld .mgtSmb 0 0 6 0 = a) →
      (∃ t, exec (.resetDevice d) s = .next t ∧ t = { s with regs := t.regs } ∧ t.addressed = false ∧
        t.flag .mgtSmb 0 0 8 = false) ∧
      ((d = none → s.flag .mgtSmb 0 0 8 = false) → ∃ b, exec (.getUdid d) s = .next { s with mgmt := { s.mgmt with
        arp := s.mgmt.arp ++ [(leBytes 16 agentUdid.toNat).reverse ++ [b]] } })) ∧
    (s.alertLine = true → ∃ t b, exec (.alertResponseAddress true) s = .next t ∧ t.alertLine = false ∧
      t = { s with mgmt := { s.mgmt with released := true, arp := s.mgmt.arp ++ [[b]] } } ∧
      b.toNat = 2 * s.fld .mgtSmb 0 0 6 0) ∧
    (s.addressed = false → 9 ≤ s.stepNo → s.mgmt.notifies < 30 →
      (∃ t, exec (.notifyArpMaster false) s = .next t ∧ t.mgmt.notified = s.mgmt.notified + 1 ∧
        t.mgmt.notifies = s.mgmt.notifies + 1 ∧ t.fld .mgtSmb 0 0 23 16 = min (s.fld .mgtSmb 0 0 23 16 + 1) 255) ∧
      exec (.notifyArpMaster true) s = .next { s with mgmt := { s.mgmt with notifies := s.mgmt.notifies + 1, notifyDue := 3 } }) ∧
    (s.mgmt.notifyDue ≠ 0 →
      (∃ t, exec (.busFree false) s = .next t ∧ t.mgmt.notified = s.mgmt.notified + 1 ∧ t.mgmt.notifyDue = 0) ∧
      exec (.busFree true) s = .next { s with mgmt := { s.mgmt with notifyDue := s.mgmt.notifyDue - 1 } }) ∧
    exec .smbusClockTimeout s = .next { s with mgmt := { s.mgmt with discarded := s.mgmt.discarded + 1 } }

/-! ### The monitor -/

/-- The monitor has printed a line with its data after what it had printed before. -/
def Sys2Proof.Machine.Printed (s t : State) (line : String) (data : List Byte) : Prop :=
  t.mgmt.uart = s.mgmt.uart ++ [(line, data)]

/-- R446 to R449: what each line of the monitor prints and does from the end of start-up step 2: its reads at any time,
its orders only unlocked; a right response to the challenge unlocks it and a wrong one counts; it locks again by
order, after 30 min, and a lockout and a challenge end. -/
def Obligations.MonitorAnswers : Prop :=
  ∀ s : State,
    (3 ≤ s.stepNo →
      (∃ t l, exec .monHelp s = .next t ∧ t = { s with mgmt := t.mgmt } ∧ t.mgmt.uart = s.mgmt.uart ++ [(l, []), ("ok", [])]) ∧
      (∃ t, exec .monId s = .next t ∧ t = { s with mgmt := t.mgmt } ∧ Printed s t "ok" s.idData) ∧
      (∃ t, exec .monStep s = .next t ∧ t = { s with mgmt := t.mgmt } ∧
        Printed s t "ok" (leBytes 4 (s.readAs .glbStart 0 0).toNat)) ∧
      (∀ off, off % 4 = 0 → 8 ≤ s.stepNo → ∃ t, exec (.monRd off 1) s = .next t ∧ t = { s with mgmt := t.mgmt } ∧
        Printed s t "ok" (leBytes 4 (s.readBar off).toNat)) ∧
      (∀ page off len, page ≤ 32 → len ≤ 256 → off + len ≤ 1024 → ∃ t, exec (.monPage page off len) s = .next t ∧
        t = { s with mgmt := t.mgmt } ∧
        Printed s t "ok" (pageBytes (if page = 32 then s.host.gpage else s.host.ppages.atD page []) off len)) ∧
      (∃ t, exec .monEnv s = .next t ∧ t = { s with mgmt := t.mgmt } ∧ Printed s t "ok" s.envData) ∧
      (∀ src index n, src ≤ 1 → 0 < n → n ≤ 16 → index < (if src = 0 then 4096 else plogEntries) →
        ∃ t, exec (.monLog src index n) s = .next t ∧ t = { s with mgmt := t.mgmt } ∧ Printed s t "ok" (s.logData src index n)) ∧
      (∀ i, i < 7 → ∃ t, exec (.monBaud (baudRates.getD i 0)) s = .next t ∧ Printed s t "ok" [] ∧ t.fld .mgtMon 0 0 3 0 = i ∧
        t.mgmt.baudNew = true) ∧
      (s.flag .mgtMon 0 0 5 = false →
        (∃ t c, exec (.monUnlock none) s = .next t ∧ t.mgmt.challenge = some c ∧ t.draws = s.draws + 1 ∧
          t.mgmt.uart = s.mgmt.uart ++ [("challenge", beBytes 4 c.toNat), ("ok", [])]) ∧
        (∀ c, s.mgmt.challenge = some c → ∃ t, exec (.monUnlock (some (responseTo s.flash.monkey c))) s = .next t ∧
          t.unlocked = true ∧ t.fld .mgtMon 0 0 9 6 = 0 ∧ t.mgmt.challenge = none ∧ Printed s t "ok" []) ∧
        (∀ r, (∀ c, s.mgmt.challenge = some c → r ≠ responseTo s.flash.monkey c) → ∃ t, exec (.monUnlock (some r)) s = .next t ∧
          t.unlocked = s.unlocked ∧ t.fld .mgtMon 0 0 9 6 = min (s.fld .mgtMon 0 0 9 6 + 1) 15 ∧ t.mgmt.challenge = none ∧
          Printed s t "err denied" [] ∧ (t.flag .mgtMon 0 0 5 = decide (3 ≤ t.fld .mgtMon 0 0 9 6)) ∧
          (3 ≤ t.fld .mgtMon 0 0 9 6 → t.mgmt.lockout = if s.mgmt.lockout = 0 then 60 else min 3600 (2 * s.mgmt.lockout)))) ∧
      (∃ t, exec .monLock s = .next t ∧ t.unlocked = false ∧ Printed s t "ok" []) ∧
      (s.unlocked = true →
        (∀ off v, s.ready = true → ∃ t u : State, exec (.monWr off v) s = .next t ∧ t = { u with mgmt := t.mgmt } ∧
          u = ({ s with mgmt := { s.mgmt with baudNew := false } } : State).busWrite .monitor off v ∧
          Printed u t (if off = ownOff then "err refused" else "ok") []) ∧
        (∃ t, exec .monResetModule s = .next t ∧ Blank t ∧ t.up.cause = some 1 ∧ s.mgmt.uart ++ [("ok", [])] <+: t.mgmt.uart) ∧
        (∀ pair, pair ≤ 3 → s.flag .glbCumin 0 0 pair = true → pair ∉ s.up.restarting → ∃ t, exec (.monResetPair pair) s = .next t ∧
          pair ∈ t.up.restarting ∧ t.err.nextSeq = s.err.nextSeq + 1 ∧ Printed s t "ok" []) ∧
        (s.noTakeover = false → ∃ u : State, exec .monTakeover s = .next u.takeover ∧ Printed s u "ok" [] ∧
          u = { s with mgmt := u.mgmt })) ∧
      (s.unlocked = false → ∀ c ∈ [Instr.monResetModule, .monResetPair 0, .monTakeover], ∃ t, exec c s = .next t ∧
        t = { s with mgmt := t.mgmt } ∧ Printed s t "err locked" [])) ∧
    (s.mgmt.baudNew = true → ∃ t, exec .baudRevert s = .next t ∧ t.fld .mgtMon 0 0 3 0 = 0 ∧ t.mgmt.baudNew = false) ∧
    (∃ t, exec .monitorIdleLock s = .next t ∧ t.unlocked = false ∧ t = { s with regs := t.regs }) ∧
    exec .challengeExpiry s = .next { s with mgmt := { s.mgmt with challenge := none } } ∧
    (∃ t, exec .unlockLockoutEnd s = .next t ∧ t.flag .mgtMon 0 0 5 = false ∧ t = { s with regs := t.regs })

/-! ### Rules of the spec stated whole -/

/-- R8: every set-up register lies at a 4-byte-aligned offset of BAR0; an access of any other size or alignment reads as
0, is ignored if it is a write, and is logged as a host access error. -/
def Obligations.AccessesAreAlignedWords : Prop :=
  (∀ (r : Reg) (blk idx : Nat), blk < r.info.blocks → idx < r.info.count →
    r.addr blk idx % 4 = 0 ∧ r.addr blk idx + 4 ≤ 0xE0000) ∧
  (∀ (s : State) (m : Master) (off size : Nat) (w : Bool), (∀ b, attachOf m = some b → s.attachOpen b = true) →
    (size ≠ 4 ∨ off % 4 ≠ 0) → exec (.bar0AccessError m off size w) s = .next (s.log .hostAccess (offPart off) 0 0 0 off)) ∧
  (∀ (s : State) (m : Master) (off : Nat) (v : W32), off % 4 ≠ 0 → s.ready = true →
    (∀ b, attachOf m = some b → s.attachOpen b = true ∧ s.waitsClear m off v = false) → (m = .monitor → s.unlocked = true) →
    exec (.registerWrite m off v) s = .next (s.log .hostAccess (offPart off) 0 0 0 off)) ∧
  (∀ (s : State) (off : Nat), off % 4 ≠ 0 → s.readRegs off 1 = ([0, 0, 0, 0], s.log .hostAccess (offPart off) 0 0 0 off))

/-- R409: a module reset, whatever orders it, closes the output gates and turns off every strip, hub, stack, port, attach
and service block at once; start-up begins at step 1, and leaves it where the busbar is good and MOD_RESET_N is high. -/
def Obligations.ModuleResetTurnsAllOff : Prop :=
  ∀ (s : State) (c : Instr),
    ((∃ m v, c = .glbReset m v ∧ WriteReady s m .glbReset 0 0 v ∧ regField v 15 0 = 0x4D52) ∨
      (c = .moduleReset 0x4D52 ∧ Managed s) ∨ (c = .monResetModule ∧ 3 ≤ s.stepNo ∧ s.unlocked = true) ∨
      c = .lossOfBothServiceBlocks ∨ c = .modResetNLow) →
    ∃ t, exec c s = .next t ∧ (∀ p, p < 32 → t.gated p = true) ∧ (∀ d, d < 1290 → (t.domain d).st = .off) ∧
      ((t.pwr.good && t.up.resetHigh) = true → t.fld .glbStart 0 0 3 0 = 2 ∧ t.up.began = s.up.time) ∧
      ((t.pwr.good && t.up.resetHigh) = false → t.fld .glbStart 0 0 3 0 = 1)

/-- R427: a RANGE_SAT event voids the active request and asks for its abort only when PRT_ERR_POLICY.RANGE_VOID of the
group leader is set; when the bit is clear it is logged and the request continues. -/
def Obligations.RangeSatFollowsPolicy : Prop :=
  ∀ (s t : State) (p h0 h1 w2 w3 : Nat), p < 32 → t = s.event .rangeSat p h0 h1 w2 w3 →
    t.err.nextSeq = s.err.nextSeq + 1 ∧
    (s.flag .prtErrPolicy (s.lead p) 0 0 = true → ∀ q, s.active (s.lead p) = some q →
      (∃ u ∈ t.srv.reqs, u.id = q.id ∧ u.void.isSome = true) ∧ ∃ b ∈ t.err.aborts, b.group = s.lead p) ∧
    (s.flag .prtErrPolicy (s.lead p) 0 0 = false → t.srv = s.srv ∧ t.err.aborts = s.err.aborts ∧
      ∃ r, t.err.log.at? (s.err.nextSeq % 4096) = some r ∧ r.code = Code.rangeSat.val)
end

