-- ==== Sys2Proof/Laws/SMap.lean ====
section
/-! SUPPORT. What the sparse-map operations do: reads after writes, and the canonical form they keep; and what sorting a
list does: the same entries, in order. -/
namespace Sys2Proof

variable {α : Type}

/-! ### Sorting -/

@[simp] theorem sortBy_nil (le : α → α → Bool) : sortBy le [] = [] := rfl
@[simp] theorem sortBy_singleton (le : α → α → Bool) (a : α) : sortBy le [a] = [a] := rfl

theorem insertBy_perm (le : α → α → Bool) (a : α) (l : List α) : (insertBy le a l).Perm (a :: l) := by
  induction l with
  | nil => exact .refl _
  | cons b l ih =>
    unfold insertBy
    split
    · exact .refl _
    · exact (ih.cons b).trans (.swap a b l)

/-- Sorting keeps the entries. -/
theorem sortBy_perm (le : α → α → Bool) (l : List α) : (sortBy le l).Perm l := by
  induction l with
  | nil => exact .refl _
  | cons a l ih => exact (insertBy_perm le a _).trans (ih.cons a)

@[simp] theorem mem_sortBy (le : α → α → Bool) (l : List α) (x : α) : x ∈ sortBy le l ↔ x ∈ l := (sortBy_perm le l).mem_iff

/-- Sorting by a total preorder puts each entry before those that do not come before it. -/
theorem sortBy_sorted {le : α → α → Bool} (total : ∀ a b, le a b = true ∨ le b a = true)
    (trans : ∀ a b c, le a b = true → le b c = true → le a c = true) (l : List α) :
    (sortBy le l).Pairwise (fun a b => le a b = true) := by
  have ins : ∀ (a : α) (l : List α), l.Pairwise (fun a b => le a b = true) →
      (insertBy le a l).Pairwise (fun a b => le a b = true) := by
    intro a l h
    induction l with
    | nil => simp [insertBy]
    | cons b l ih =>
      rw [List.pairwise_cons] at h
      unfold insertBy
      split
      · rename_i hab
        refine List.pairwise_cons.2 ⟨fun c hc => ?_, List.pairwise_cons.2 h⟩
        rcases List.mem_cons.1 hc with rfl | hc
        · exact hab
        · exact trans _ _ _ hab (h.1 c hc)
      · rename_i hab
        refine List.pairwise_cons.2 ⟨fun c hc => ?_, ih h.2⟩
        rcases List.mem_cons.1 ((insertBy_perm le a l).mem_iff.1 hc) with rfl | hc
        · exact (total _ _).resolve_right (by simpa using hab)
        · exact h.1 c hc
  induction l with
  | nil => simp
  | cons a l ih => exact ins a _ ih

/-! ### Sparse maps -/

@[simp] theorem SMap.at?_put_self (m : SMap α) (i : Nat) (a : α) : (m.put i a).at? i = some a := by
  induction m with
  | nil => simp [SMap.put, SMap.at?]
  | cons e m ih =>
    obtain ⟨k, v⟩ := e
    by_cases h : i < k
    · simp [SMap.put, SMap.at?, h]
    · by_cases g : i = k
      · simp [SMap.put, SMap.at?, g]
      · have : ¬ k = i := fun q => g q.symm
        simp [SMap.put, SMap.at?, h, g, this, ih]

theorem SMap.at?_put_ne (m : SMap α) {i j : Nat} (a : α) (n : i ≠ j) : (m.put i a).at? j = m.at? j := by
  induction m with
  | nil => simp [SMap.put, SMap.at?, n]
  | cons e m ih =>
    obtain ⟨k, v⟩ := e
    by_cases h : i < k
    · simp [SMap.put, SMap.at?, h, n]
    · by_cases g : i = k
      · subst g
        simp [SMap.put, SMap.at?, n]
      · simp [SMap.put, SMap.at?, h, g, ih]

theorem SMap.at?_del_ne (m : SMap α) {i j : Nat} (n : i ≠ j) : (m.del i).at? j = m.at? j := by
  induction m with
  | nil => rfl
  | cons e m ih =>
    obtain ⟨k, v⟩ := e
    by_cases g : k = i
    · subst g
      simp [SMap.del, SMap.at?, n, ih]
    · simp [SMap.del, SMap.at?, g, ih]

theorem SMap.at?_below (m : SMap α) : ∀ {b i : Nat}, SMap.rising b m = true → i < b → m.at? i = none := by
  induction m with
  | nil => intros; rfl
  | cons e m ih =>
    obtain ⟨k, v⟩ := e
    intro b i h l
    simp only [SMap.rising, Bool.and_eq_true, decide_eq_true_eq] at h
    have : ¬ k = i := by omega
    simp only [SMap.at?, this, if_false]
    exact ih h.2 (by omega)

/-- After a deletion the key is not listed. -/
@[simp] theorem SMap.at?_del_self (m : SMap α) (i : Nat) : (m.del i).at? i = none := by
  induction m with
  | nil => rfl
  | cons e m ih =>
    obtain ⟨k, v⟩ := e
    by_cases g : k = i
    · simp [SMap.del, g, ih]
    · simp [SMap.del, SMap.at?, g, ih]

@[simp] theorem SMap.atD_put_self (m : SMap α) (i : Nat) (a d : α) : (m.put i a).atD i d = a := by
  simp [SMap.atD]

theorem SMap.atD_put_ne (m : SMap α) {i j : Nat} (a d : α) (n : i ≠ j) : (m.put i a).atD j d = m.atD j d := by
  simp [SMap.atD, SMap.at?_put_ne m a n]

theorem SMap.rising_mono (m : SMap α) {b c : Nat} (h : SMap.rising b m = true) (l : c ≤ b) : SMap.rising c m = true := by
  cases m with
  | nil => rfl
  | cons e m =>
    obtain ⟨k, v⟩ := e
    simp only [SMap.rising, Bool.and_eq_true, decide_eq_true_eq] at h ⊢
    exact ⟨by omega, h.2⟩

theorem SMap.rising_put (m : SMap α) (a : α) : ∀ {b i : Nat}, SMap.rising b m = true → b ≤ i →
    SMap.rising b (m.put i a) = true := by
  induction m with
  | nil => intro b i _ l; simp [SMap.put, SMap.rising, l]
  | cons e m ih =>
    obtain ⟨k, v⟩ := e
    intro b i h l
    have h0 := h
    simp only [SMap.rising, Bool.and_eq_true, decide_eq_true_eq] at h
    by_cases g : i < k
    · simp only [SMap.put, g, if_true, SMap.rising, Bool.and_eq_true, decide_eq_true_eq]
      exact ⟨l, by omega, h.2⟩
    · by_cases q : i = k
      · subst q
        simp only [SMap.put, Nat.lt_irrefl, if_false, if_true, SMap.rising, Bool.and_eq_true, decide_eq_true_eq]
        exact ⟨l, h.2⟩
      · simp only [SMap.put, g, q, if_false, SMap.rising, Bool.and_eq_true, decide_eq_true_eq]
        exact ⟨h.1, ih h.2 (by omega)⟩

theorem SMap.rising_del (m : SMap α) (i : Nat) : ∀ {b : Nat}, SMap.rising b m = true → SMap.rising b (m.del i) = true := by
  induction m with
  | nil => intros; rfl
  | cons e m ih =>
    obtain ⟨k, v⟩ := e
    intro b h
    simp only [SMap.rising, Bool.and_eq_true, decide_eq_true_eq] at h
    by_cases g : k = i
    · simp only [SMap.del, g, if_true]
      exact SMap.rising_mono _ (ih h.2) (by omega)
    · simp only [SMap.del, g, if_false, SMap.rising, Bool.and_eq_true, decide_eq_true_eq]
      exact ⟨h.1, ih h.2⟩

theorem SMap.rising_filter (p : Nat × α → Bool) (m : SMap α) : ∀ {b : Nat}, SMap.rising b m = true →
    SMap.rising b (m.filter p) = true := by
  induction m with
  | nil => intros; rfl
  | cons e m ih =>
    obtain ⟨k, v⟩ := e
    intro b h
    simp only [SMap.rising, Bool.and_eq_true, decide_eq_true_eq] at h
    simp only [List.filter_cons]
    split
    · simp only [SMap.rising, Bool.and_eq_true, decide_eq_true_eq]
      exact ⟨h.1, ih h.2⟩
    · exact SMap.rising_mono _ (ih h.2) (by omega)

theorem SMap.mem_put (m : SMap α) (i : Nat) (a : α) {e : Nat × α} (h : e ∈ m.put i a) : e = (i, a) ∨ e ∈ m := by
  induction m with
  | nil => simpa [SMap.put] using h
  | cons x m ih =>
    obtain ⟨k, v⟩ := x
    simp only [SMap.put] at h
    split at h
    · simpa using h
    · split at h
      · rcases List.mem_cons.1 h with h | h
        · exact .inl h
        · exact .inr (List.mem_cons_of_mem _ h)
      · rcases List.mem_cons.1 h with h | h
        · exact .inr (by simp [h])
        · rcases ih h with h | h
          · exact .inl h
          · exact .inr (List.mem_cons_of_mem _ h)

theorem SMap.mem_del (m : SMap α) (i : Nat) {e : Nat × α} (h : e ∈ m.del i) : e ∈ m := by
  induction m with
  | nil => simp [SMap.del] at h
  | cons x m ih =>
    obtain ⟨k, v⟩ := x
    simp only [SMap.del] at h
    split at h
    · exact List.mem_cons_of_mem _ (ih h)
    · rcases List.mem_cons.1 h with h | h
      · simp [h]
      · exact List.mem_cons_of_mem _ (ih h)

variable [DecidableEq α]

theorem SMap.canon_iff (d : α) (m : SMap α) :
    SMap.canon d m = true ↔ SMap.rising 0 m = true ∧ ∀ e ∈ m, e.2 ≠ d := by
  simp [SMap.canon]

theorem SMap.canon_filter (d : α) (p : Nat × α → Bool) (m : SMap α) (h : SMap.canon d m = true) :
    SMap.canon d (m.filter p) = true := by
  rw [SMap.canon_iff] at h ⊢
  exact ⟨SMap.rising_filter p m h.1, fun e he => h.2 e (List.mem_filter.1 he).1⟩

/-- Setting a key keeps the canonical form. -/
theorem SMap.canon_set (d : α) (m : SMap α) (i : Nat) (a : α) (h : SMap.canon d m = true) :
    SMap.canon d (m.set i d a) = true := by
  rw [SMap.canon_iff] at h ⊢
  unfold SMap.set
  split
  · exact ⟨SMap.rising_del m i h.1, fun e he => h.2 e (SMap.mem_del m i he)⟩
  · rename_i n
    refine ⟨SMap.rising_put m a h.1 (Nat.zero_le _), fun e he => ?_⟩
    rcases SMap.mem_put m i a he with rfl | he
    · exact n
    · exact h.2 e he

/-- Setting consecutive keys keeps the canonical form. -/
theorem SMap.canon_setAll (d : α) (as : List α) : ∀ (m : SMap α) (i : Nat), SMap.canon d m = true →
    SMap.canon d (m.setAll d i as) = true := by
  induction as with
  | nil => intro m i h; exact h
  | cons a as ih => intro m i h; exact ih _ _ (SMap.canon_set d m i a h)

/-- A key reads as it was last set. -/
@[simp] theorem SMap.atD_set_self (d : α) (m : SMap α) (i : Nat) (a : α) : (m.set i d a).atD i d = a := by
  unfold SMap.set SMap.atD
  split
  · rename_i e
    rw [SMap.at?_del_self m i, e]; rfl
  · simp

theorem SMap.atD_set_ne (d : α) (m : SMap α) {i j : Nat} (a : α) (n : i ≠ j) : (m.set i d a).atD j d = m.atD j d := by
  unfold SMap.set SMap.atD
  split
  · rw [SMap.at?_del_ne m n]
  · rw [SMap.at?_put_ne m a n]

/-- Bytes outside the consecutive keys read as before. -/
theorem SMap.atD_setAll_out (d : α) (as : List α) : ∀ (m : SMap α) (i j : Nat), (j < i ∨ i + as.length ≤ j) →
    (m.setAll d i as).atD j d = m.atD j d := by
  induction as with
  | nil => intros; rfl
  | cons a as ih =>
    intro m i j h
    have l : (a :: as).length = as.length + 1 := rfl
    rw [SMap.setAll, ih _ _ _ (by omega), SMap.atD_set_ne d m a (by omega)]

/-- Each of the consecutive keys reads as its new value. -/
theorem SMap.atD_setAll_in (d : α) (as : List α) : ∀ (m : SMap α) (i j : Nat) (l : j < as.length),
    (m.setAll d i as).atD (i + j) d = as[j] := by
  induction as with
  | nil => intro m i j l; simp at l
  | cons a as ih =>
    intro m i j l
    cases j with
    | zero =>
      rw [SMap.setAll, SMap.atD_setAll_out d as _ _ _ (by omega)]
      exact SMap.atD_set_self d m i a
    | succ j =>
      have e : i + (j + 1) = i + 1 + j := by omega
      rw [SMap.setAll, e, ih _ _ _ (by simpa using l)]
      rfl

end Sys2Proof
end

