-- ==== Sys2Proof/Laws/State.lean ====
section
/-! SUPPORT. What each primitive update of State leaves unchanged, field by field, and what reads give after it. -/
namespace Sys2Proof.Machine

/-! setReg changes regs only. -/
@[simp] theorem State.setReg_pending (s : State) (r : Reg) (b i : Nat) (v : W32) : (s.setReg r b i v).pending = s.pending := rfl
@[simp] theorem State.setReg_draws (s : State) (r : Reg) (b i : Nat) (v : W32) : (s.setReg r b i v).draws = s.draws := rfl
@[simp] theorem State.setReg_cloves (s : State) (r : Reg) (b i : Nat) (v : W32) : (s.setReg r b i v).cloves = s.cloves := rfl
@[simp] theorem State.setReg_fields (s : State) (r : Reg) (b i : Nat) (v : W32) : (s.setReg r b i v).fields = s.fields := rfl
@[simp] theorem State.setReg_parts (s : State) (r : Reg) (b i : Nat) (v : W32) : (s.setReg r b i v).parts = s.parts := rfl
@[simp] theorem State.setReg_hbm (s : State) (r : Reg) (b i : Nat) (v : W32) : (s.setReg r b i v).hbm = s.hbm := rfl
@[simp] theorem State.setReg_memStacks (s : State) (r : Reg) (b i : Nat) (v : W32) : (s.setReg r b i v).memStacks = s.memStacks := rfl
@[simp] theorem State.setReg_msgs (s : State) (r : Reg) (b i : Nat) (v : W32) : (s.setReg r b i v).msgs = s.msgs := rfl
@[simp] theorem State.setReg_nextReq (s : State) (r : Reg) (b i : Nat) (v : W32) : (s.setReg r b i v).nextReq = s.nextReq := rfl
@[simp] theorem State.setReg_issueNo (s : State) (r : Reg) (b i : Nat) (v : W32) : (s.setReg r b i v).issueNo = s.issueNo := rfl
@[simp] theorem State.setReg_inflight (s : State) (r : Reg) (b i : Nat) (v : W32) : (s.setReg r b i v).inflight = s.inflight := rfl
@[simp] theorem State.setReg_host (s : State) (r : Reg) (b i : Nat) (v : W32) : (s.setReg r b i v).host = s.host := rfl
@[simp] theorem State.setReg_srv (s : State) (r : Reg) (b i : Nat) (v : W32) : (s.setReg r b i v).srv = s.srv := rfl
@[simp] theorem State.setReg_net (s : State) (r : Reg) (b i : Nat) (v : W32) : (s.setReg r b i v).net = s.net := rfl
@[simp] theorem State.setReg_pwr (s : State) (r : Reg) (b i : Nat) (v : W32) : (s.setReg r b i v).pwr = s.pwr := rfl
@[simp] theorem State.setReg_err (s : State) (r : Reg) (b i : Nat) (v : W32) : (s.setReg r b i v).err = s.err := rfl
@[simp] theorem State.setReg_flash (s : State) (r : Reg) (b i : Nat) (v : W32) : (s.setReg r b i v).flash = s.flash := rfl
@[simp] theorem State.setReg_up (s : State) (r : Reg) (b i : Nat) (v : W32) : (s.setReg r b i v).up = s.up := rfl
@[simp] theorem State.setReg_mgmt (s : State) (r : Reg) (b i : Nat) (v : W32) : (s.setReg r b i v).mgmt = s.mgmt := rfl

/-! setFld changes regs only. -/
@[simp] theorem State.setFld_pending (s : State) (r : Reg) (b i hi lo v : Nat) : (s.setFld r b i hi lo v).pending = s.pending := rfl
@[simp] theorem State.setFld_draws (s : State) (r : Reg) (b i hi lo v : Nat) : (s.setFld r b i hi lo v).draws = s.draws := rfl
@[simp] theorem State.setFld_cloves (s : State) (r : Reg) (b i hi lo v : Nat) : (s.setFld r b i hi lo v).cloves = s.cloves := rfl
@[simp] theorem State.setFld_fields (s : State) (r : Reg) (b i hi lo v : Nat) : (s.setFld r b i hi lo v).fields = s.fields := rfl
@[simp] theorem State.setFld_parts (s : State) (r : Reg) (b i hi lo v : Nat) : (s.setFld r b i hi lo v).parts = s.parts := rfl
@[simp] theorem State.setFld_hbm (s : State) (r : Reg) (b i hi lo v : Nat) : (s.setFld r b i hi lo v).hbm = s.hbm := rfl
@[simp] theorem State.setFld_memStacks (s : State) (r : Reg) (b i hi lo v : Nat) : (s.setFld r b i hi lo v).memStacks = s.memStacks := rfl
@[simp] theorem State.setFld_msgs (s : State) (r : Reg) (b i hi lo v : Nat) : (s.setFld r b i hi lo v).msgs = s.msgs := rfl
@[simp] theorem State.setFld_nextReq (s : State) (r : Reg) (b i hi lo v : Nat) : (s.setFld r b i hi lo v).nextReq = s.nextReq := rfl
@[simp] theorem State.setFld_issueNo (s : State) (r : Reg) (b i hi lo v : Nat) : (s.setFld r b i hi lo v).issueNo = s.issueNo := rfl
@[simp] theorem State.setFld_inflight (s : State) (r : Reg) (b i hi lo v : Nat) : (s.setFld r b i hi lo v).inflight = s.inflight := rfl
@[simp] theorem State.setFld_host (s : State) (r : Reg) (b i hi lo v : Nat) : (s.setFld r b i hi lo v).host = s.host := rfl
@[simp] theorem State.setFld_srv (s : State) (r : Reg) (b i hi lo v : Nat) : (s.setFld r b i hi lo v).srv = s.srv := rfl
@[simp] theorem State.setFld_net (s : State) (r : Reg) (b i hi lo v : Nat) : (s.setFld r b i hi lo v).net = s.net := rfl
@[simp] theorem State.setFld_pwr (s : State) (r : Reg) (b i hi lo v : Nat) : (s.setFld r b i hi lo v).pwr = s.pwr := rfl
@[simp] theorem State.setFld_err (s : State) (r : Reg) (b i hi lo v : Nat) : (s.setFld r b i hi lo v).err = s.err := rfl
@[simp] theorem State.setFld_flash (s : State) (r : Reg) (b i hi lo v : Nat) : (s.setFld r b i hi lo v).flash = s.flash := rfl
@[simp] theorem State.setFld_up (s : State) (r : Reg) (b i hi lo v : Nat) : (s.setFld r b i hi lo v).up = s.up := rfl
@[simp] theorem State.setFld_mgmt (s : State) (r : Reg) (b i hi lo v : Nat) : (s.setFld r b i hi lo v).mgmt = s.mgmt := rfl

/-! addFld changes regs only. -/
@[simp] theorem State.addFld_pending (s : State) (r : Reg) (b i hi lo n : Nat) : (s.addFld r b i hi lo n).pending = s.pending := rfl
@[simp] theorem State.addFld_draws (s : State) (r : Reg) (b i hi lo n : Nat) : (s.addFld r b i hi lo n).draws = s.draws := rfl
@[simp] theorem State.addFld_cloves (s : State) (r : Reg) (b i hi lo n : Nat) : (s.addFld r b i hi lo n).cloves = s.cloves := rfl
@[simp] theorem State.addFld_fields (s : State) (r : Reg) (b i hi lo n : Nat) : (s.addFld r b i hi lo n).fields = s.fields := rfl
@[simp] theorem State.addFld_parts (s : State) (r : Reg) (b i hi lo n : Nat) : (s.addFld r b i hi lo n).parts = s.parts := rfl
@[simp] theorem State.addFld_hbm (s : State) (r : Reg) (b i hi lo n : Nat) : (s.addFld r b i hi lo n).hbm = s.hbm := rfl
@[simp] theorem State.addFld_memStacks (s : State) (r : Reg) (b i hi lo n : Nat) : (s.addFld r b i hi lo n).memStacks = s.memStacks := rfl
@[simp] theorem State.addFld_msgs (s : State) (r : Reg) (b i hi lo n : Nat) : (s.addFld r b i hi lo n).msgs = s.msgs := rfl
@[simp] theorem State.addFld_nextReq (s : State) (r : Reg) (b i hi lo n : Nat) : (s.addFld r b i hi lo n).nextReq = s.nextReq := rfl
@[simp] theorem State.addFld_issueNo (s : State) (r : Reg) (b i hi lo n : Nat) : (s.addFld r b i hi lo n).issueNo = s.issueNo := rfl
@[simp] theorem State.addFld_inflight (s : State) (r : Reg) (b i hi lo n : Nat) : (s.addFld r b i hi lo n).inflight = s.inflight := rfl
@[simp] theorem State.addFld_host (s : State) (r : Reg) (b i hi lo n : Nat) : (s.addFld r b i hi lo n).host = s.host := rfl
@[simp] theorem State.addFld_srv (s : State) (r : Reg) (b i hi lo n : Nat) : (s.addFld r b i hi lo n).srv = s.srv := rfl
@[simp] theorem State.addFld_net (s : State) (r : Reg) (b i hi lo n : Nat) : (s.addFld r b i hi lo n).net = s.net := rfl
@[simp] theorem State.addFld_pwr (s : State) (r : Reg) (b i hi lo n : Nat) : (s.addFld r b i hi lo n).pwr = s.pwr := rfl
@[simp] theorem State.addFld_err (s : State) (r : Reg) (b i hi lo n : Nat) : (s.addFld r b i hi lo n).err = s.err := rfl
@[simp] theorem State.addFld_flash (s : State) (r : Reg) (b i hi lo n : Nat) : (s.addFld r b i hi lo n).flash = s.flash := rfl
@[simp] theorem State.addFld_up (s : State) (r : Reg) (b i hi lo n : Nat) : (s.addFld r b i hi lo n).up = s.up := rfl
@[simp] theorem State.addFld_mgmt (s : State) (r : Reg) (b i hi lo n : Nat) : (s.addFld r b i hi lo n).mgmt = s.mgmt := rfl

/-! setClove changes cloves only. -/
@[simp] theorem State.setClove_pending (s : State) (k : Nat) (v : Clove) : (s.setClove k v).pending = s.pending := rfl
@[simp] theorem State.setClove_draws (s : State) (k : Nat) (v : Clove) : (s.setClove k v).draws = s.draws := rfl
@[simp] theorem State.setClove_regs (s : State) (k : Nat) (v : Clove) : (s.setClove k v).regs = s.regs := rfl
@[simp] theorem State.setClove_fields (s : State) (k : Nat) (v : Clove) : (s.setClove k v).fields = s.fields := rfl
@[simp] theorem State.setClove_parts (s : State) (k : Nat) (v : Clove) : (s.setClove k v).parts = s.parts := rfl
@[simp] theorem State.setClove_hbm (s : State) (k : Nat) (v : Clove) : (s.setClove k v).hbm = s.hbm := rfl
@[simp] theorem State.setClove_memStacks (s : State) (k : Nat) (v : Clove) : (s.setClove k v).memStacks = s.memStacks := rfl
@[simp] theorem State.setClove_msgs (s : State) (k : Nat) (v : Clove) : (s.setClove k v).msgs = s.msgs := rfl
@[simp] theorem State.setClove_nextReq (s : State) (k : Nat) (v : Clove) : (s.setClove k v).nextReq = s.nextReq := rfl
@[simp] theorem State.setClove_issueNo (s : State) (k : Nat) (v : Clove) : (s.setClove k v).issueNo = s.issueNo := rfl
@[simp] theorem State.setClove_inflight (s : State) (k : Nat) (v : Clove) : (s.setClove k v).inflight = s.inflight := rfl
@[simp] theorem State.setClove_host (s : State) (k : Nat) (v : Clove) : (s.setClove k v).host = s.host := rfl
@[simp] theorem State.setClove_srv (s : State) (k : Nat) (v : Clove) : (s.setClove k v).srv = s.srv := rfl
@[simp] theorem State.setClove_net (s : State) (k : Nat) (v : Clove) : (s.setClove k v).net = s.net := rfl
@[simp] theorem State.setClove_pwr (s : State) (k : Nat) (v : Clove) : (s.setClove k v).pwr = s.pwr := rfl
@[simp] theorem State.setClove_err (s : State) (k : Nat) (v : Clove) : (s.setClove k v).err = s.err := rfl
@[simp] theorem State.setClove_flash (s : State) (k : Nat) (v : Clove) : (s.setClove k v).flash = s.flash := rfl
@[simp] theorem State.setClove_up (s : State) (k : Nat) (v : Clove) : (s.setClove k v).up = s.up := rfl
@[simp] theorem State.setClove_mgmt (s : State) (k : Nat) (v : Clove) : (s.setClove k v).mgmt = s.mgmt := rfl

/-! modClove changes cloves only. -/
@[simp] theorem State.modClove_pending (s : State) (k : Nat) (f : Clove → Clove) : (s.modClove k f).pending = s.pending := rfl
@[simp] theorem State.modClove_draws (s : State) (k : Nat) (f : Clove → Clove) : (s.modClove k f).draws = s.draws := rfl
@[simp] theorem State.modClove_regs (s : State) (k : Nat) (f : Clove → Clove) : (s.modClove k f).regs = s.regs := rfl
@[simp] theorem State.modClove_fields (s : State) (k : Nat) (f : Clove → Clove) : (s.modClove k f).fields = s.fields := rfl
@[simp] theorem State.modClove_parts (s : State) (k : Nat) (f : Clove → Clove) : (s.modClove k f).parts = s.parts := rfl
@[simp] theorem State.modClove_hbm (s : State) (k : Nat) (f : Clove → Clove) : (s.modClove k f).hbm = s.hbm := rfl
@[simp] theorem State.modClove_memStacks (s : State) (k : Nat) (f : Clove → Clove) : (s.modClove k f).memStacks = s.memStacks := rfl
@[simp] theorem State.modClove_msgs (s : State) (k : Nat) (f : Clove → Clove) : (s.modClove k f).msgs = s.msgs := rfl
@[simp] theorem State.modClove_nextReq (s : State) (k : Nat) (f : Clove → Clove) : (s.modClove k f).nextReq = s.nextReq := rfl
@[simp] theorem State.modClove_issueNo (s : State) (k : Nat) (f : Clove → Clove) : (s.modClove k f).issueNo = s.issueNo := rfl
@[simp] theorem State.modClove_inflight (s : State) (k : Nat) (f : Clove → Clove) : (s.modClove k f).inflight = s.inflight := rfl
@[simp] theorem State.modClove_host (s : State) (k : Nat) (f : Clove → Clove) : (s.modClove k f).host = s.host := rfl
@[simp] theorem State.modClove_srv (s : State) (k : Nat) (f : Clove → Clove) : (s.modClove k f).srv = s.srv := rfl
@[simp] theorem State.modClove_net (s : State) (k : Nat) (f : Clove → Clove) : (s.modClove k f).net = s.net := rfl
@[simp] theorem State.modClove_pwr (s : State) (k : Nat) (f : Clove → Clove) : (s.modClove k f).pwr = s.pwr := rfl
@[simp] theorem State.modClove_err (s : State) (k : Nat) (f : Clove → Clove) : (s.modClove k f).err = s.err := rfl
@[simp] theorem State.modClove_flash (s : State) (k : Nat) (f : Clove → Clove) : (s.modClove k f).flash = s.flash := rfl
@[simp] theorem State.modClove_up (s : State) (k : Nat) (f : Clove → Clove) : (s.modClove k f).up = s.up := rfl
@[simp] theorem State.modClove_mgmt (s : State) (k : Nat) (f : Clove → Clove) : (s.modClove k f).mgmt = s.mgmt := rfl

/-! modField changes fields only. -/
@[simp] theorem State.modField_pending (s : State) (f : Nat) (g : Field → Field) : (s.modField f g).pending = s.pending := rfl
@[simp] theorem State.modField_draws (s : State) (f : Nat) (g : Field → Field) : (s.modField f g).draws = s.draws := rfl
@[simp] theorem State.modField_regs (s : State) (f : Nat) (g : Field → Field) : (s.modField f g).regs = s.regs := rfl
@[simp] theorem State.modField_cloves (s : State) (f : Nat) (g : Field → Field) : (s.modField f g).cloves = s.cloves := rfl
@[simp] theorem State.modField_parts (s : State) (f : Nat) (g : Field → Field) : (s.modField f g).parts = s.parts := rfl
@[simp] theorem State.modField_hbm (s : State) (f : Nat) (g : Field → Field) : (s.modField f g).hbm = s.hbm := rfl
@[simp] theorem State.modField_memStacks (s : State) (f : Nat) (g : Field → Field) : (s.modField f g).memStacks = s.memStacks := rfl
@[simp] theorem State.modField_msgs (s : State) (f : Nat) (g : Field → Field) : (s.modField f g).msgs = s.msgs := rfl
@[simp] theorem State.modField_nextReq (s : State) (f : Nat) (g : Field → Field) : (s.modField f g).nextReq = s.nextReq := rfl
@[simp] theorem State.modField_issueNo (s : State) (f : Nat) (g : Field → Field) : (s.modField f g).issueNo = s.issueNo := rfl
@[simp] theorem State.modField_inflight (s : State) (f : Nat) (g : Field → Field) : (s.modField f g).inflight = s.inflight := rfl
@[simp] theorem State.modField_host (s : State) (f : Nat) (g : Field → Field) : (s.modField f g).host = s.host := rfl
@[simp] theorem State.modField_srv (s : State) (f : Nat) (g : Field → Field) : (s.modField f g).srv = s.srv := rfl
@[simp] theorem State.modField_net (s : State) (f : Nat) (g : Field → Field) : (s.modField f g).net = s.net := rfl
@[simp] theorem State.modField_pwr (s : State) (f : Nat) (g : Field → Field) : (s.modField f g).pwr = s.pwr := rfl
@[simp] theorem State.modField_err (s : State) (f : Nat) (g : Field → Field) : (s.modField f g).err = s.err := rfl
@[simp] theorem State.modField_flash (s : State) (f : Nat) (g : Field → Field) : (s.modField f g).flash = s.flash := rfl
@[simp] theorem State.modField_up (s : State) (f : Nat) (g : Field → Field) : (s.modField f g).up = s.up := rfl
@[simp] theorem State.modField_mgmt (s : State) (f : Nat) (g : Field → Field) : (s.modField f g).mgmt = s.mgmt := rfl

/-! modPart changes parts only. -/
@[simp] theorem State.modPart_pending (s : State) (p : Nat) (g : Part → Part) : (s.modPart p g).pending = s.pending := rfl
@[simp] theorem State.modPart_draws (s : State) (p : Nat) (g : Part → Part) : (s.modPart p g).draws = s.draws := rfl
@[simp] theorem State.modPart_regs (s : State) (p : Nat) (g : Part → Part) : (s.modPart p g).regs = s.regs := rfl
@[simp] theorem State.modPart_cloves (s : State) (p : Nat) (g : Part → Part) : (s.modPart p g).cloves = s.cloves := rfl
@[simp] theorem State.modPart_fields (s : State) (p : Nat) (g : Part → Part) : (s.modPart p g).fields = s.fields := rfl
@[simp] theorem State.modPart_hbm (s : State) (p : Nat) (g : Part → Part) : (s.modPart p g).hbm = s.hbm := rfl
@[simp] theorem State.modPart_memStacks (s : State) (p : Nat) (g : Part → Part) : (s.modPart p g).memStacks = s.memStacks := rfl
@[simp] theorem State.modPart_msgs (s : State) (p : Nat) (g : Part → Part) : (s.modPart p g).msgs = s.msgs := rfl
@[simp] theorem State.modPart_nextReq (s : State) (p : Nat) (g : Part → Part) : (s.modPart p g).nextReq = s.nextReq := rfl
@[simp] theorem State.modPart_issueNo (s : State) (p : Nat) (g : Part → Part) : (s.modPart p g).issueNo = s.issueNo := rfl
@[simp] theorem State.modPart_inflight (s : State) (p : Nat) (g : Part → Part) : (s.modPart p g).inflight = s.inflight := rfl
@[simp] theorem State.modPart_host (s : State) (p : Nat) (g : Part → Part) : (s.modPart p g).host = s.host := rfl
@[simp] theorem State.modPart_srv (s : State) (p : Nat) (g : Part → Part) : (s.modPart p g).srv = s.srv := rfl
@[simp] theorem State.modPart_net (s : State) (p : Nat) (g : Part → Part) : (s.modPart p g).net = s.net := rfl
@[simp] theorem State.modPart_pwr (s : State) (p : Nat) (g : Part → Part) : (s.modPart p g).pwr = s.pwr := rfl
@[simp] theorem State.modPart_err (s : State) (p : Nat) (g : Part → Part) : (s.modPart p g).err = s.err := rfl
@[simp] theorem State.modPart_flash (s : State) (p : Nat) (g : Part → Part) : (s.modPart p g).flash = s.flash := rfl
@[simp] theorem State.modPart_up (s : State) (p : Nat) (g : Part → Part) : (s.modPart p g).up = s.up := rfl
@[simp] theorem State.modPart_mgmt (s : State) (p : Nat) (g : Part → Part) : (s.modPart p g).mgmt = s.mgmt := rfl

/-! modQueue changes parts only. -/
@[simp] theorem State.modQueue_pending (s : State) (p j : Nat) (g : Queue → Queue) : (s.modQueue p j g).pending = s.pending := rfl
@[simp] theorem State.modQueue_draws (s : State) (p j : Nat) (g : Queue → Queue) : (s.modQueue p j g).draws = s.draws := rfl
@[simp] theorem State.modQueue_regs (s : State) (p j : Nat) (g : Queue → Queue) : (s.modQueue p j g).regs = s.regs := rfl
@[simp] theorem State.modQueue_cloves (s : State) (p j : Nat) (g : Queue → Queue) : (s.modQueue p j g).cloves = s.cloves := rfl
@[simp] theorem State.modQueue_fields (s : State) (p j : Nat) (g : Queue → Queue) : (s.modQueue p j g).fields = s.fields := rfl
@[simp] theorem State.modQueue_hbm (s : State) (p j : Nat) (g : Queue → Queue) : (s.modQueue p j g).hbm = s.hbm := rfl
@[simp] theorem State.modQueue_memStacks (s : State) (p j : Nat) (g : Queue → Queue) : (s.modQueue p j g).memStacks = s.memStacks := rfl
@[simp] theorem State.modQueue_msgs (s : State) (p j : Nat) (g : Queue → Queue) : (s.modQueue p j g).msgs = s.msgs := rfl
@[simp] theorem State.modQueue_nextReq (s : State) (p j : Nat) (g : Queue → Queue) : (s.modQueue p j g).nextReq = s.nextReq := rfl
@[simp] theorem State.modQueue_issueNo (s : State) (p j : Nat) (g : Queue → Queue) : (s.modQueue p j g).issueNo = s.issueNo := rfl
@[simp] theorem State.modQueue_inflight (s : State) (p j : Nat) (g : Queue → Queue) : (s.modQueue p j g).inflight = s.inflight := rfl
@[simp] theorem State.modQueue_host (s : State) (p j : Nat) (g : Queue → Queue) : (s.modQueue p j g).host = s.host := rfl
@[simp] theorem State.modQueue_srv (s : State) (p j : Nat) (g : Queue → Queue) : (s.modQueue p j g).srv = s.srv := rfl
@[simp] theorem State.modQueue_net (s : State) (p j : Nat) (g : Queue → Queue) : (s.modQueue p j g).net = s.net := rfl
@[simp] theorem State.modQueue_pwr (s : State) (p j : Nat) (g : Queue → Queue) : (s.modQueue p j g).pwr = s.pwr := rfl
@[simp] theorem State.modQueue_err (s : State) (p j : Nat) (g : Queue → Queue) : (s.modQueue p j g).err = s.err := rfl
@[simp] theorem State.modQueue_flash (s : State) (p j : Nat) (g : Queue → Queue) : (s.modQueue p j g).flash = s.flash := rfl
@[simp] theorem State.modQueue_up (s : State) (p j : Nat) (g : Queue → Queue) : (s.modQueue p j g).up = s.up := rfl
@[simp] theorem State.modQueue_mgmt (s : State) (p j : Nat) (g : Queue → Queue) : (s.modQueue p j g).mgmt = s.mgmt := rfl

/-! modStack changes memStacks only. -/
@[simp] theorem State.modStack_pending (s : State) (k : Nat) (g : Stack → Stack) : (s.modStack k g).pending = s.pending := rfl
@[simp] theorem State.modStack_draws (s : State) (k : Nat) (g : Stack → Stack) : (s.modStack k g).draws = s.draws := rfl
@[simp] theorem State.modStack_regs (s : State) (k : Nat) (g : Stack → Stack) : (s.modStack k g).regs = s.regs := rfl
@[simp] theorem State.modStack_cloves (s : State) (k : Nat) (g : Stack → Stack) : (s.modStack k g).cloves = s.cloves := rfl
@[simp] theorem State.modStack_fields (s : State) (k : Nat) (g : Stack → Stack) : (s.modStack k g).fields = s.fields := rfl
@[simp] theorem State.modStack_parts (s : State) (k : Nat) (g : Stack → Stack) : (s.modStack k g).parts = s.parts := rfl
@[simp] theorem State.modStack_hbm (s : State) (k : Nat) (g : Stack → Stack) : (s.modStack k g).hbm = s.hbm := rfl
@[simp] theorem State.modStack_msgs (s : State) (k : Nat) (g : Stack → Stack) : (s.modStack k g).msgs = s.msgs := rfl
@[simp] theorem State.modStack_nextReq (s : State) (k : Nat) (g : Stack → Stack) : (s.modStack k g).nextReq = s.nextReq := rfl
@[simp] theorem State.modStack_issueNo (s : State) (k : Nat) (g : Stack → Stack) : (s.modStack k g).issueNo = s.issueNo := rfl
@[simp] theorem State.modStack_inflight (s : State) (k : Nat) (g : Stack → Stack) : (s.modStack k g).inflight = s.inflight := rfl
@[simp] theorem State.modStack_host (s : State) (k : Nat) (g : Stack → Stack) : (s.modStack k g).host = s.host := rfl
@[simp] theorem State.modStack_srv (s : State) (k : Nat) (g : Stack → Stack) : (s.modStack k g).srv = s.srv := rfl
@[simp] theorem State.modStack_net (s : State) (k : Nat) (g : Stack → Stack) : (s.modStack k g).net = s.net := rfl
@[simp] theorem State.modStack_pwr (s : State) (k : Nat) (g : Stack → Stack) : (s.modStack k g).pwr = s.pwr := rfl
@[simp] theorem State.modStack_err (s : State) (k : Nat) (g : Stack → Stack) : (s.modStack k g).err = s.err := rfl
@[simp] theorem State.modStack_flash (s : State) (k : Nat) (g : Stack → Stack) : (s.modStack k g).flash = s.flash := rfl
@[simp] theorem State.modStack_up (s : State) (k : Nat) (g : Stack → Stack) : (s.modStack k g).up = s.up := rfl
@[simp] theorem State.modStack_mgmt (s : State) (k : Nat) (g : Stack → Stack) : (s.modStack k g).mgmt = s.mgmt := rfl

/-! setDomain changes pwr only. -/
@[simp] theorem State.setDomain_pending (s : State) (d : Nat) (v : Domain) : (s.setDomain d v).pending = s.pending := rfl
@[simp] theorem State.setDomain_draws (s : State) (d : Nat) (v : Domain) : (s.setDomain d v).draws = s.draws := rfl
@[simp] theorem State.setDomain_regs (s : State) (d : Nat) (v : Domain) : (s.setDomain d v).regs = s.regs := rfl
@[simp] theorem State.setDomain_cloves (s : State) (d : Nat) (v : Domain) : (s.setDomain d v).cloves = s.cloves := rfl
@[simp] theorem State.setDomain_fields (s : State) (d : Nat) (v : Domain) : (s.setDomain d v).fields = s.fields := rfl
@[simp] theorem State.setDomain_parts (s : State) (d : Nat) (v : Domain) : (s.setDomain d v).parts = s.parts := rfl
@[simp] theorem State.setDomain_hbm (s : State) (d : Nat) (v : Domain) : (s.setDomain d v).hbm = s.hbm := rfl
@[simp] theorem State.setDomain_memStacks (s : State) (d : Nat) (v : Domain) : (s.setDomain d v).memStacks = s.memStacks := rfl
@[simp] theorem State.setDomain_msgs (s : State) (d : Nat) (v : Domain) : (s.setDomain d v).msgs = s.msgs := rfl
@[simp] theorem State.setDomain_nextReq (s : State) (d : Nat) (v : Domain) : (s.setDomain d v).nextReq = s.nextReq := rfl
@[simp] theorem State.setDomain_issueNo (s : State) (d : Nat) (v : Domain) : (s.setDomain d v).issueNo = s.issueNo := rfl
@[simp] theorem State.setDomain_inflight (s : State) (d : Nat) (v : Domain) : (s.setDomain d v).inflight = s.inflight := rfl
@[simp] theorem State.setDomain_host (s : State) (d : Nat) (v : Domain) : (s.setDomain d v).host = s.host := rfl
@[simp] theorem State.setDomain_srv (s : State) (d : Nat) (v : Domain) : (s.setDomain d v).srv = s.srv := rfl
@[simp] theorem State.setDomain_net (s : State) (d : Nat) (v : Domain) : (s.setDomain d v).net = s.net := rfl
@[simp] theorem State.setDomain_err (s : State) (d : Nat) (v : Domain) : (s.setDomain d v).err = s.err := rfl
@[simp] theorem State.setDomain_flash (s : State) (d : Nat) (v : Domain) : (s.setDomain d v).flash = s.flash := rfl
@[simp] theorem State.setDomain_up (s : State) (d : Nat) (v : Domain) : (s.setDomain d v).up = s.up := rfl
@[simp] theorem State.setDomain_mgmt (s : State) (d : Nat) (v : Domain) : (s.setDomain d v).mgmt = s.mgmt := rfl

/-! putHbm changes hbm only. -/
@[simp] theorem State.putHbm_pending (s : State) (a : Nat) (bs : List Byte) : (s.putHbm a bs).pending = s.pending := rfl
@[simp] theorem State.putHbm_draws (s : State) (a : Nat) (bs : List Byte) : (s.putHbm a bs).draws = s.draws := rfl
@[simp] theorem State.putHbm_regs (s : State) (a : Nat) (bs : List Byte) : (s.putHbm a bs).regs = s.regs := rfl
@[simp] theorem State.putHbm_cloves (s : State) (a : Nat) (bs : List Byte) : (s.putHbm a bs).cloves = s.cloves := rfl
@[simp] theorem State.putHbm_fields (s : State) (a : Nat) (bs : List Byte) : (s.putHbm a bs).fields = s.fields := rfl
@[simp] theorem State.putHbm_parts (s : State) (a : Nat) (bs : List Byte) : (s.putHbm a bs).parts = s.parts := rfl
@[simp] theorem State.putHbm_memStacks (s : State) (a : Nat) (bs : List Byte) : (s.putHbm a bs).memStacks = s.memStacks := rfl
@[simp] theorem State.putHbm_msgs (s : State) (a : Nat) (bs : List Byte) : (s.putHbm a bs).msgs = s.msgs := rfl
@[simp] theorem State.putHbm_nextReq (s : State) (a : Nat) (bs : List Byte) : (s.putHbm a bs).nextReq = s.nextReq := rfl
@[simp] theorem State.putHbm_issueNo (s : State) (a : Nat) (bs : List Byte) : (s.putHbm a bs).issueNo = s.issueNo := rfl
@[simp] theorem State.putHbm_inflight (s : State) (a : Nat) (bs : List Byte) : (s.putHbm a bs).inflight = s.inflight := rfl
@[simp] theorem State.putHbm_host (s : State) (a : Nat) (bs : List Byte) : (s.putHbm a bs).host = s.host := rfl
@[simp] theorem State.putHbm_srv (s : State) (a : Nat) (bs : List Byte) : (s.putHbm a bs).srv = s.srv := rfl
@[simp] theorem State.putHbm_net (s : State) (a : Nat) (bs : List Byte) : (s.putHbm a bs).net = s.net := rfl
@[simp] theorem State.putHbm_pwr (s : State) (a : Nat) (bs : List Byte) : (s.putHbm a bs).pwr = s.pwr := rfl
@[simp] theorem State.putHbm_err (s : State) (a : Nat) (bs : List Byte) : (s.putHbm a bs).err = s.err := rfl
@[simp] theorem State.putHbm_flash (s : State) (a : Nat) (bs : List Byte) : (s.putHbm a bs).flash = s.flash := rfl
@[simp] theorem State.putHbm_up (s : State) (a : Nat) (bs : List Byte) : (s.putHbm a bs).up = s.up := rfl
@[simp] theorem State.putHbm_mgmt (s : State) (a : Nat) (bs : List Byte) : (s.putHbm a bs).mgmt = s.mgmt := rfl

/-! setPoison changes hbm only. -/
@[simp] theorem State.setPoison_pending (s : State) (cs : List Nat) (v : Bool) : (s.setPoison cs v).pending = s.pending := rfl
@[simp] theorem State.setPoison_draws (s : State) (cs : List Nat) (v : Bool) : (s.setPoison cs v).draws = s.draws := rfl
@[simp] theorem State.setPoison_regs (s : State) (cs : List Nat) (v : Bool) : (s.setPoison cs v).regs = s.regs := rfl
@[simp] theorem State.setPoison_cloves (s : State) (cs : List Nat) (v : Bool) : (s.setPoison cs v).cloves = s.cloves := rfl
@[simp] theorem State.setPoison_fields (s : State) (cs : List Nat) (v : Bool) : (s.setPoison cs v).fields = s.fields := rfl
@[simp] theorem State.setPoison_parts (s : State) (cs : List Nat) (v : Bool) : (s.setPoison cs v).parts = s.parts := rfl
@[simp] theorem State.setPoison_memStacks (s : State) (cs : List Nat) (v : Bool) : (s.setPoison cs v).memStacks = s.memStacks := rfl
@[simp] theorem State.setPoison_msgs (s : State) (cs : List Nat) (v : Bool) : (s.setPoison cs v).msgs = s.msgs := rfl
@[simp] theorem State.setPoison_nextReq (s : State) (cs : List Nat) (v : Bool) : (s.setPoison cs v).nextReq = s.nextReq := rfl
@[simp] theorem State.setPoison_issueNo (s : State) (cs : List Nat) (v : Bool) : (s.setPoison cs v).issueNo = s.issueNo := rfl
@[simp] theorem State.setPoison_inflight (s : State) (cs : List Nat) (v : Bool) : (s.setPoison cs v).inflight = s.inflight := rfl
@[simp] theorem State.setPoison_host (s : State) (cs : List Nat) (v : Bool) : (s.setPoison cs v).host = s.host := rfl
@[simp] theorem State.setPoison_srv (s : State) (cs : List Nat) (v : Bool) : (s.setPoison cs v).srv = s.srv := rfl
@[simp] theorem State.setPoison_net (s : State) (cs : List Nat) (v : Bool) : (s.setPoison cs v).net = s.net := rfl
@[simp] theorem State.setPoison_pwr (s : State) (cs : List Nat) (v : Bool) : (s.setPoison cs v).pwr = s.pwr := rfl
@[simp] theorem State.setPoison_err (s : State) (cs : List Nat) (v : Bool) : (s.setPoison cs v).err = s.err := rfl
@[simp] theorem State.setPoison_flash (s : State) (cs : List Nat) (v : Bool) : (s.setPoison cs v).flash = s.flash := rfl
@[simp] theorem State.setPoison_up (s : State) (cs : List Nat) (v : Bool) : (s.setPoison cs v).up = s.up := rfl
@[simp] theorem State.setPoison_mgmt (s : State) (cs : List Nat) (v : Bool) : (s.setPoison cs v).mgmt = s.mgmt := rfl

/-! modReq changes srv only. -/
@[simp] theorem State.modReq_pending (s : State) (id : Nat) (f : Request → Request) : (s.modReq id f).pending = s.pending := rfl
@[simp] theorem State.modReq_draws (s : State) (id : Nat) (f : Request → Request) : (s.modReq id f).draws = s.draws := rfl
@[simp] theorem State.modReq_regs (s : State) (id : Nat) (f : Request → Request) : (s.modReq id f).regs = s.regs := rfl
@[simp] theorem State.modReq_cloves (s : State) (id : Nat) (f : Request → Request) : (s.modReq id f).cloves = s.cloves := rfl
@[simp] theorem State.modReq_fields (s : State) (id : Nat) (f : Request → Request) : (s.modReq id f).fields = s.fields := rfl
@[simp] theorem State.modReq_parts (s : State) (id : Nat) (f : Request → Request) : (s.modReq id f).parts = s.parts := rfl
@[simp] theorem State.modReq_hbm (s : State) (id : Nat) (f : Request → Request) : (s.modReq id f).hbm = s.hbm := rfl
@[simp] theorem State.modReq_memStacks (s : State) (id : Nat) (f : Request → Request) : (s.modReq id f).memStacks = s.memStacks := rfl
@[simp] theorem State.modReq_msgs (s : State) (id : Nat) (f : Request → Request) : (s.modReq id f).msgs = s.msgs := rfl
@[simp] theorem State.modReq_nextReq (s : State) (id : Nat) (f : Request → Request) : (s.modReq id f).nextReq = s.nextReq := rfl
@[simp] theorem State.modReq_issueNo (s : State) (id : Nat) (f : Request → Request) : (s.modReq id f).issueNo = s.issueNo := rfl
@[simp] theorem State.modReq_inflight (s : State) (id : Nat) (f : Request → Request) : (s.modReq id f).inflight = s.inflight := rfl
@[simp] theorem State.modReq_host (s : State) (id : Nat) (f : Request → Request) : (s.modReq id f).host = s.host := rfl
@[simp] theorem State.modReq_net (s : State) (id : Nat) (f : Request → Request) : (s.modReq id f).net = s.net := rfl
@[simp] theorem State.modReq_pwr (s : State) (id : Nat) (f : Request → Request) : (s.modReq id f).pwr = s.pwr := rfl
@[simp] theorem State.modReq_err (s : State) (id : Nat) (f : Request → Request) : (s.modReq id f).err = s.err := rfl
@[simp] theorem State.modReq_flash (s : State) (id : Nat) (f : Request → Request) : (s.modReq id f).flash = s.flash := rfl
@[simp] theorem State.modReq_up (s : State) (id : Nat) (f : Request → Request) : (s.modReq id f).up = s.up := rfl
@[simp] theorem State.modReq_mgmt (s : State) (id : Nat) (f : Request → Request) : (s.modReq id f).mgmt = s.mgmt := rfl

/-! progressed changes err only. -/
@[simp] theorem State.progressed_pending (s : State) (p : Nat) : (s.progressed p).pending = s.pending := rfl
@[simp] theorem State.progressed_draws (s : State) (p : Nat) : (s.progressed p).draws = s.draws := rfl
@[simp] theorem State.progressed_regs (s : State) (p : Nat) : (s.progressed p).regs = s.regs := rfl
@[simp] theorem State.progressed_cloves (s : State) (p : Nat) : (s.progressed p).cloves = s.cloves := rfl
@[simp] theorem State.progressed_fields (s : State) (p : Nat) : (s.progressed p).fields = s.fields := rfl
@[simp] theorem State.progressed_parts (s : State) (p : Nat) : (s.progressed p).parts = s.parts := rfl
@[simp] theorem State.progressed_hbm (s : State) (p : Nat) : (s.progressed p).hbm = s.hbm := rfl
@[simp] theorem State.progressed_memStacks (s : State) (p : Nat) : (s.progressed p).memStacks = s.memStacks := rfl
@[simp] theorem State.progressed_msgs (s : State) (p : Nat) : (s.progressed p).msgs = s.msgs := rfl
@[simp] theorem State.progressed_nextReq (s : State) (p : Nat) : (s.progressed p).nextReq = s.nextReq := rfl
@[simp] theorem State.progressed_issueNo (s : State) (p : Nat) : (s.progressed p).issueNo = s.issueNo := rfl
@[simp] theorem State.progressed_inflight (s : State) (p : Nat) : (s.progressed p).inflight = s.inflight := rfl
@[simp] theorem State.progressed_host (s : State) (p : Nat) : (s.progressed p).host = s.host := rfl
@[simp] theorem State.progressed_srv (s : State) (p : Nat) : (s.progressed p).srv = s.srv := rfl
@[simp] theorem State.progressed_net (s : State) (p : Nat) : (s.progressed p).net = s.net := rfl
@[simp] theorem State.progressed_pwr (s : State) (p : Nat) : (s.progressed p).pwr = s.pwr := rfl
@[simp] theorem State.progressed_flash (s : State) (p : Nat) : (s.progressed p).flash = s.flash := rfl
@[simp] theorem State.progressed_up (s : State) (p : Nat) : (s.progressed p).up = s.up := rfl
@[simp] theorem State.progressed_mgmt (s : State) (p : Nat) : (s.progressed p).mgmt = s.mgmt := rfl

/-! Reads after writes. -/

@[simp] theorem State.reg_setReg_self (s : State) (r : Reg) (b i : Nat) (v : W32) : (s.setReg r b i v).reg r b i = v := by
  simp [State.reg, State.setReg]

theorem State.reg_setReg_ne (s : State) {r q : Reg} {b i c j : Nat} (v : W32) (n : r.addr b i ≠ q.addr c j) :
    (s.setReg r b i v).reg q c j = s.reg q c j := by
  simp [State.reg, State.setReg, SMap.atD_put_ne _ _ _ n]

@[simp] theorem State.clove_setClove_self (s : State) (k : Nat) (v : Clove) : (s.setClove k v).clove k = v := by
  simp [State.clove, State.setClove]

theorem State.clove_setClove_ne (s : State) {k j : Nat} (v : Clove) (n : k ≠ j) : (s.setClove k v).clove j = s.clove j := by
  simp [State.clove, State.setClove, SMap.atD_put_ne _ _ _ n]

@[simp] theorem State.clove_modClove_self (s : State) (k : Nat) (f : Clove → Clove) :
    (s.modClove k f).clove k = f (s.clove k) := by
  simp [State.modClove]

theorem State.clove_modClove_ne (s : State) {k j : Nat} (f : Clove → Clove) (n : k ≠ j) :
    (s.modClove k f).clove j = s.clove j := by
  simp [State.modClove, State.clove_setClove_ne s _ n]

@[simp] theorem State.field_modField_self (s : State) (f : Nat) (g : Field → Field) :
    (s.modField f g).field f = g (s.field f) := by
  simp [State.field, State.modField]

theorem State.field_modField_ne (s : State) {f h : Nat} (g : Field → Field) (n : f ≠ h) :
    (s.modField f g).field h = s.field h := by
  simp [State.field, State.modField, SMap.atD_put_ne _ _ _ n]

@[simp] theorem State.part_modPart_self (s : State) (p : Nat) (g : Part → Part) : (s.modPart p g).part p = g (s.part p) := by
  simp [State.part, State.modPart]

theorem State.part_modPart_ne (s : State) {p q : Nat} (g : Part → Part) (n : p ≠ q) : (s.modPart p g).part q = s.part q := by
  simp [State.part, State.modPart, SMap.atD_put_ne _ _ _ n]

@[simp] theorem State.stack_modStack_self (s : State) (k : Nat) (g : Stack → Stack) :
    (s.modStack k g).stack k = g (s.stack k) := by
  simp [State.stack, State.modStack]

theorem State.stack_modStack_ne (s : State) {k j : Nat} (g : Stack → Stack) (n : k ≠ j) :
    (s.modStack k g).stack j = s.stack j := by
  simp [State.stack, State.modStack, SMap.atD_put_ne _ _ _ n]

@[simp] theorem State.domain_setDomain_self (s : State) (d : Nat) (v : Domain) : (s.setDomain d v).domain d = v := by
  simp [State.domain, State.setDomain]

theorem State.domain_setDomain_ne (s : State) {d e : Nat} (v : Domain) (n : d ≠ e) :
    (s.setDomain d v).domain e = s.domain e := by
  simp [State.domain, State.setDomain, SMap.atD_put_ne _ _ _ n]

/-! Bit fields of registers. -/

theorem bitField_lt (w lo n : Nat) : bitField w lo n < 2 ^ n := Nat.mod_lt _ (Nat.two_pow_pos n)

/-- A number written into a field reads back cut to the field's width. -/
theorem bitField_setBitField_self (w lo n v : Nat) : bitField (setBitField w lo n v) lo n = v % 2 ^ n := by
  unfold setBitField bitField
  rw [Nat.shiftRight_eq_div_pow, Nat.shiftRight_eq_div_pow]
  generalize hq : w / 2 ^ lo = q
  have hp : 0 < 2 ^ lo := Nat.two_pow_pos lo
  have hn : 0 < 2 ^ n := Nat.two_pow_pos n
  have e1 : w = 2 ^ lo * q + w % 2 ^ lo := by rw [← hq]; exact (Nat.div_add_mod w _).symm
  have e2 : q = 2 ^ n * (q / 2 ^ n) + q % 2 ^ n := (Nat.div_add_mod q _).symm
  have hw : w - q % 2 ^ n * 2 ^ lo + v % 2 ^ n * 2 ^ lo = 2 ^ lo * (2 ^ n * (q / 2 ^ n) + v % 2 ^ n) + w % 2 ^ lo := by
    have : w = 2 ^ lo * (2 ^ n * (q / 2 ^ n)) + q % 2 ^ n * 2 ^ lo + w % 2 ^ lo := by
      conv => lhs; rw [e1, e2]
      ring
    have h2 : w - q % 2 ^ n * 2 ^ lo = 2 ^ lo * (2 ^ n * (q / 2 ^ n)) + w % 2 ^ lo := by omega
    rw [h2]; ring
  rw [hw, Nat.mul_add_div hp, Nat.div_eq_of_lt (Nat.mod_lt _ hp), Nat.add_zero, Nat.mul_add_mod, Nat.mod_mod]

/-- A field write keeps a register's number below 2^32. -/
theorem setBitField_lt (w lo n v m : Nat) (hw : w < 2 ^ m) (h : lo + n ≤ m) : setBitField w lo n v < 2 ^ m := by
  unfold setBitField bitField
  rw [Nat.shiftRight_eq_div_pow]
  generalize hq : w / 2 ^ lo = q
  have hp : 0 < 2 ^ lo := Nat.two_pow_pos lo
  have hn : 0 < 2 ^ n := Nat.two_pow_pos n
  have e1 : w = 2 ^ lo * q + w % 2 ^ lo := by rw [← hq]; exact (Nat.div_add_mod w _).symm
  have e2 : q = 2 ^ n * (q / 2 ^ n) + q % 2 ^ n := (Nat.div_add_mod q _).symm
  have e3 : w = 2 ^ lo * (2 ^ n * (q / 2 ^ n)) + q % 2 ^ n * 2 ^ lo + w % 2 ^ lo := by
    conv => lhs; rw [e1, e2]
    ring
  have h2 : w - q % 2 ^ n * 2 ^ lo = 2 ^ lo * (2 ^ n * (q / 2 ^ n)) + w % 2 ^ lo := by omega
  have h3 : q / 2 ^ n < 2 ^ (m - lo - n) := by
    rw [← hq, Nat.div_div_eq_div_mul, ← pow_add]
    apply Nat.div_lt_of_lt_mul
    rw [← pow_add]
    convert hw using 2
    omega
  have h4 : v % 2 ^ n < 2 ^ n := Nat.mod_lt _ hn
  have h5 : w % 2 ^ lo < 2 ^ lo := Nat.mod_lt _ hp
  have h6 : 2 ^ m = 2 ^ lo * (2 ^ n * 2 ^ (m - lo - n)) := by
    rw [← pow_add, ← pow_add]; congr 1; omega
  rw [h2, h6]
  have h7 : 2 ^ n * (q / 2 ^ n) + v % 2 ^ n + 1 ≤ 2 ^ n * 2 ^ (m - lo - n) := by
    have : 2 ^ n * (q / 2 ^ n + 1) ≤ 2 ^ n * 2 ^ (m - lo - n) := Nat.mul_le_mul_left _ h3
    have e : 2 ^ n * (q / 2 ^ n + 1) = 2 ^ n * (q / 2 ^ n) + 2 ^ n := by ring
    omega
  have h8 : 2 ^ lo * (2 ^ n * (q / 2 ^ n) + v % 2 ^ n + 1) ≤ 2 ^ lo * (2 ^ n * 2 ^ (m - lo - n)) := Nat.mul_le_mul_left _ h7
  have h9 : 2 ^ lo * (2 ^ n * (q / 2 ^ n) + v % 2 ^ n + 1) =
      2 ^ lo * (2 ^ n * (q / 2 ^ n)) + v % 2 ^ n * 2 ^ lo + 2 ^ lo := by ring
  omega


/-- A field write as a sum of its three parts. -/
theorem setBitField_eq (w lo n v : Nat) :
    setBitField w lo n v = 2 ^ lo * (2 ^ n * (w / 2 ^ lo / 2 ^ n) + v % 2 ^ n) + w % 2 ^ lo := by
  unfold setBitField bitField
  rw [Nat.shiftRight_eq_div_pow]
  generalize hq : w / 2 ^ lo = q
  have e1 : w = 2 ^ lo * q + w % 2 ^ lo := by rw [← hq]; exact (Nat.div_add_mod w _).symm
  have e2 : q = 2 ^ n * (q / 2 ^ n) + q % 2 ^ n := (Nat.div_add_mod q _).symm
  have e3 : w = 2 ^ lo * (2 ^ n * (q / 2 ^ n)) + q % 2 ^ n * 2 ^ lo + w % 2 ^ lo := by
    conv => lhs; rw [e1, e2]
    ring
  have h2 : w - q % 2 ^ n * 2 ^ lo = 2 ^ lo * (2 ^ n * (q / 2 ^ n)) + w % 2 ^ lo := by omega
  rw [h2]; ring

/-- Each bit of a number after a field write. -/
theorem testBit_setBitField (w lo n v i : Nat) :
    (setBitField w lo n v).testBit i = if lo ≤ i ∧ i < lo + n then v.testBit (i - lo) else w.testBit i := by
  rw [setBitField_eq, Nat.testBit_two_pow_mul_add _ (Nat.mod_lt _ (Nat.two_pow_pos lo))]
  by_cases h : i < lo
  · simp [h, Nat.testBit_mod_two_pow]
  · have hl : lo ≤ i := by omega
    rw [if_neg h, Nat.testBit_two_pow_mul_add _ (Nat.mod_lt _ (Nat.two_pow_pos n))]
    by_cases g : i - lo < n
    · rw [if_pos g, if_pos (by omega), Nat.testBit_mod_two_pow]
      simp [g]
    · rw [if_neg g, if_neg (by omega), Nat.testBit_div_two_pow, Nat.testBit_div_two_pow]
      congr 1; omega

theorem testBit_bitField (w lo n i : Nat) : (bitField w lo n).testBit i = (decide (i < n) && w.testBit (lo + i)) := by
  simp [bitField, Nat.testBit_mod_two_pow, Nat.testBit_shiftRight]

theorem bitField_setBitField_ne (w lo n v lo' n' : Nat) (h : lo' + n' ≤ lo ∨ lo + n ≤ lo') :
    bitField (setBitField w lo n v) lo' n' = bitField w lo' n' := by
  apply Nat.eq_of_testBit_eq
  intro i
  rw [testBit_bitField, testBit_bitField, testBit_setBitField]
  by_cases g : i < n'
  · simp only [g, decide_true, Bool.true_and]
    rw [if_neg (by omega)]
  · simp [g]

/-- A field of a register reads back as written, cut to its width. -/
theorem regField_regWith_self (w : W32) {hi lo : Nat} (v : Nat) (h : hi < 32) (l : lo ≤ hi) :
    regField (regWith w hi lo v) hi lo = v % 2 ^ (hi + 1 - lo) := by
  unfold regField regWith
  rw [BitVec.toNat_ofNat, Nat.mod_eq_of_lt (setBitField_lt _ _ _ _ 32 w.isLt (by omega)), bitField_setBitField_self]

/-- A field write leaves the register's other fields. -/
theorem regField_regWith_ne (w : W32) {hi lo hi' lo' : Nat} (v : Nat) (h : hi < 32) (l : lo ≤ hi) (l' : lo' ≤ hi')
    (d : hi' < lo ∨ hi < lo') : regField (regWith w hi lo v) hi' lo' = regField w hi' lo' := by
  unfold regField regWith
  rw [BitVec.toNat_ofNat, Nat.mod_eq_of_lt (setBitField_lt _ _ _ _ 32 w.isLt (by omega)),
    bitField_setBitField_ne _ _ _ _ _ _ (by omega)]

theorem getLsbD_regWith (w : W32) {hi lo : Nat} (v i : Nat) (h : hi < 32) (l : lo ≤ hi) :
    (regWith w hi lo v).getLsbD i = if lo ≤ i ∧ i ≤ hi then v.testBit (i - lo) else w.getLsbD i := by
  unfold regWith
  rw [BitVec.getLsbD_ofNat, testBit_setBitField]
  by_cases g : i < 32
  · simp only [g, decide_true, Bool.true_and, BitVec.getLsbD]
    have : (lo ≤ i ∧ i < lo + (hi + 1 - lo)) ↔ (lo ≤ i ∧ i ≤ hi) := by omega
    simp only [this]
  · have : ¬ (lo ≤ i ∧ i ≤ hi) := by omega
    simp only [g, decide_false, Bool.false_and, this, if_false]
    symm; apply BitVec.getLsbD_of_ge; omega

theorem State.fld_setFld_self (s : State) (r : Reg) (b i : Nat) {hi lo : Nat} (v : Nat) (h : hi < 32) (l : lo ≤ hi) :
    (s.setFld r b i hi lo v).fld r b i hi lo = v % 2 ^ (hi + 1 - lo) := by
  simp [State.fld, State.setFld, regField_regWith_self _ v h l]

theorem State.fld_setFld_ne (s : State) {r q : Reg} {b i c j : Nat} (hi lo v h l : Nat) (n : r.addr b i ≠ q.addr c j) :
    (s.setFld r b i hi lo v).fld q c j h l = s.fld q c j h l := by
  simp [State.fld, State.setFld, State.reg_setReg_ne s _ n]

theorem State.fld_setFld_apart (s : State) (r : Reg) (b i : Nat) {hi lo hi' lo' : Nat} (v : Nat) (h : hi < 32) (l : lo ≤ hi)
    (l' : lo' ≤ hi') (d : hi' < lo ∨ hi < lo') : (s.setFld r b i hi lo v).fld r b i hi' lo' = s.fld r b i hi' lo' := by
  simp [State.fld, State.setFld, regField_regWith_ne _ v h l l' d]

theorem State.flag_setFld (s : State) (r : Reg) (b i : Nat) {hi lo : Nat} (v n : Nat) (h : hi < 32) (l : lo ≤ hi) :
    (s.setFld r b i hi lo v).flag r b i n = if lo ≤ n ∧ n ≤ hi then v.testBit (n - lo) else s.flag r b i n := by
  simp [State.flag, State.setFld, getLsbD_regWith _ v n h l]

theorem State.flag_setFld_ne (s : State) {r q : Reg} {b i c j : Nat} (hi lo v n : Nat) (d : r.addr b i ≠ q.addr c j) :
    (s.setFld r b i hi lo v).flag q c j n = s.flag q c j n := by
  simp [State.flag, State.setFld, State.reg_setReg_ne s _ d]

end Sys2Proof.Machine
end

