-- ==== Sys2Proof/Laws/Issue.lean ====
section
/-! SUPPORT. Issue where nothing else waits: what is tried again, and what one instruction does. -/
namespace Sys2Proof.Machine

theorem Quiet.allWaiting {s : State} (h : Quiet s) : s.allWaiting = [] := by
  have e : s.cloves.flatMap (fun e => e.2.waiting.map (fun w => (e.1, w))) = [] := by
    apply List.flatMap_eq_nil_iff.2
    intro x hx
    simp [(h x hx).1]
  simp [State.allWaiting, e]

theorem foldl_id {α β : Type} (f : β → α → β) (l : List α) (b : β) (h : ∀ x ∈ l, f b x = b) : l.foldl f b = b := by
  induction l with
  | nil => rfl
  | cons x l ih =>
    rw [List.foldl_cons, h x (by simp)]
    exact ih fun y hy => h y (by simp [hy])

theorem Quiet.sfuRuns {s : State} (h : Quiet s) :
    s.cloves.foldl (fun s e => if e.2.sfu.isEmpty then s else s.sfuRun e.1 sfuFuel) s = s :=
  foldl_id _ _ _ fun x hx => by simp [(h x hx).2]

theorem Quiet.settleN {s : State} (h : Quiet s) : ∀ n, s.settleN n = s
  | 0 => rfl
  | n + 1 => by
    unfold State.settleN
    rw [h.sfuRuns]
    simp [h.allWaiting]

/-- Where nothing waits, nothing moves. -/
theorem Quiet.settle {s : State} (h : Quiet s) : s.settle = s := h.settleN _

theorem SMap.at?_mem {α : Type} {m : SMap α} {i : Nat} {a : α} (h : m.at? i = some a) : (i, a) ∈ m := by
  induction m with
  | nil => cases h
  | cons e m ih =>
    obtain ⟨k, v⟩ := e
    simp only [SMap.at?] at h
    split at h
    · rename_i g
      cases h
      simp [g]
    · exact List.mem_cons_of_mem _ (ih h)

theorem SMap.put_put {α : Type} (m : SMap α) (i : Nat) (a b : α) : (m.put i a).put i b = m.put i b := by
  induction m with
  | nil => simp [SMap.put]
  | cons e m ih =>
    obtain ⟨k, v⟩ := e
    by_cases h : i < k
    · simp [SMap.put, h]
    · by_cases g : i = k
      · subst g
        simp [SMap.put]
      · simp [SMap.put, h, g, ih]

theorem SMap.flatMap_put {α β : Type} (m : SMap α) (i : Nat) (a : α) (f : Nat × α → List β) (h : ∀ e ∈ m, f e = []) :
    (m.put i a).flatMap f = f (i, a) := by
  induction m with
  | nil => simp [SMap.put]
  | cons e m ih =>
    have hm : ∀ x ∈ m, f x = [] := fun x hx => h x (by simp [hx])
    have he : f e = [] := h e (by simp)
    have h0 : m.flatMap f = [] := List.flatMap_eq_nil_iff.2 hm
    obtain ⟨k, v⟩ := e
    by_cases c : i < k
    · simp [SMap.put, c, he, h0]
    · by_cases g : i = k
      · simp [SMap.put, g, h0]
      · simp [SMap.put, c, g, he, ih hm]

/-- A clove of a quiet machine has nothing that waits and no SFU work. -/
theorem Quiet.clove {s : State} (h : Quiet s) (k : Nat) : (s.clove k).waiting = [] ∧ (s.clove k).sfu = [] := by
  unfold State.clove SMap.atD
  cases e : s.cloves.at? k with
  | none => exact ⟨rfl, rfl⟩
  | some c => exact h _ (SMap.at?_mem e)

theorem Quiet.of_cloves {s t : State} (h : Quiet s) (e : t.cloves = s.cloves) : Quiet t := by
  intro x hx
  rw [e] at hx
  exact h x hx

theorem Quiet.setClove {s : State} (h : Quiet s) (k : Nat) (c : Clove) (w : c.waiting = []) (u : c.sfu = []) :
    Quiet (s.setClove k c) := by
  intro x hx
  rcases SMap.mem_put _ _ _ hx with rfl | hx
  · exact ⟨w, u⟩
  · exact h x hx

theorem Quiet.modClove {s : State} (h : Quiet s) (k : Nat) (f : Clove → Clove) (w : ∀ c, (f c).waiting = c.waiting)
    (u : ∀ c, (f c).sfu = c.sfu) : Quiet (s.modClove k f) :=
  h.setClove k _ ((w _).trans (h.clove k).1) ((u _).trans (h.clove k).2)

theorem Quiet.issuing {s : State} (h : Quiet s) (i : Issue) : Quiet (s.issuing i) :=
  Quiet.setClove (s := { s with issueNo := s.issueNo + 1 }) h _ _ (h.clove _).1 (h.clove _).2

/-- The one instruction that reaches its issue stage is tried once. What it leaves is quiet, and nothing else moves. -/
theorem State.issue_of_try {s t : State} {i : Issue} (c : Open s i)
    (e : (s.issuing i).try s.issueNo (cloveNo i.x i.y) 0 i = (t, true)) (q : Quiet t) :
    s.issue i = t.progressed (partOf (cloveX (cloveNo i.x i.y)) (cloveY (cloveNo i.x i.y))) := by
  obtain ⟨hu, h, hr, hf⟩ := c
  generalize hk : cloveNo i.x i.y = k at *
  have hc := h.clove k
  have hu' : ({ i with ups := [] } : Issue) = i := by
    cases i; simp_all
  have hz : s.upset i.ups = s := by rw [hu]; rfl
  have hi : s.issuing i = ({ s with issueNo := s.issueNo + 1 } : State).setClove k (s.clove k) := by
    simp [State.issuing, hk]
  rw [hi] at e
  have he : s.enter none i = ({ s with issueNo := s.issueNo + 1 } : State).setClove k
      { s.clove k with waiting := [⟨engineOf i.word, i, s.issueNo, none⟩] } := by
    simp only [State.enter, State.modClove, hk, hu']
    have : (({ s with issueNo := s.issueNo + 1 } : State).clove k).waiting = [] := hc.1
    rw [this]
    rfl
  have ha : (s.enter none i).allWaiting = [(k, ⟨engineOf i.word, i, s.issueNo, none⟩)] := by
    have : (s.enter none i).cloves.flatMap (fun e => e.2.waiting.map (fun w => (e.1, w))) =
        [(k, (⟨engineOf i.word, i, s.issueNo, none⟩ : Waiting))] := by
      rw [he]
      show (s.cloves.put k _).flatMap _ = _
      rw [SMap.flatMap_put]
      · rfl
      · intro x hx
        simp [(h x hx).1]
    simp [State.allWaiting, this]
  have hs : (s.enter none i).cloves.foldl (fun s e => if e.2.sfu.isEmpty then s else s.sfuRun e.1 sfuFuel) (s.enter none i) =
      s.enter none i := by
    apply foldl_id
    intro x hx
    rw [he] at hx
    rcases SMap.mem_put _ _ _ hx with rfl | hx
    · simp [hc.2]
    · simp [(h x hx).2]
  have hb : (s.enter none i).heldBack s.issueNo k i.word = false := by
    simp only [State.heldBack, List.any_eq_false]
    intro x hx
    rw [he] at hx
    rcases SMap.mem_put _ _ _ hx with rfl | hx
    · simp
    · simp [(h x hx).1]
  have hm : (s.enter none i).mayTry k ⟨engineOf i.word, i, s.issueNo, none⟩ = true := by
    have c1 : (s.enter none i).clove k = { s.clove k with waiting := [⟨engineOf i.word, i, s.issueNo, none⟩] } := by
      rw [he]; simp
    have f1 : (s.enter none i).fenced s.issueNo k (engineOf i.word) = s.fenced s.issueNo k (engineOf i.word) := by
      simp only [State.fenced, State.atBarrier, c1]
      rw [he]
      rfl
    have r1 : ((s.enter none i).clove k).halted (engineOf i.word) = (s.clove k).halted (engineOf i.word) := by
      rw [c1]; rfl
    simp only [State.mayTry, r1, f1, hr, hf, hb]
    rw [c1]
    simp
  have hw : (s.enter none i).modClove k (fun c => { c with waiting := c.waiting.filter (fun u => u.no ≠ s.issueNo) }) =
      ({ s with issueNo := s.issueNo + 1 } : State).setClove k (s.clove k) := by
    rw [he]
    simp only [State.modClove, State.clove_setClove_self]
    simp only [State.setClove, SMap.put_put]
    have : ({ s.clove k with waiting := [] } : Clove) = s.clove k := by
      rw [← hc.1]
    simp [this]
  have ht : (s.enter none i).retry k ⟨engineOf i.word, i, s.issueNo, none⟩ = (t.progressed (partOf (cloveX k) (cloveY k)), true) := by
    simp only [State.retry, hm, hw]
    simp [e]
  unfold State.issue State.settle
  rw [hz, ha]
  show State.settleN _ 2 = _
  unfold State.settleN
  simp only [hs, ha, List.foldl_cons, List.foldl_nil, ht]
  simp only [Bool.false_or, if_true]
  exact (q.of_cloves rfl : Quiet (t.progressed _)).settleN 1

/-- The upsets of an instruction come before it, and leave no trace in what waits (R185). -/
theorem State.issue_upset (s : State) (i : Issue) : s.issue i = (s.upset i.ups).issue { i with ups := [] } := rfl

end Sys2Proof.Machine
end

