-- ==== Sys2Proof/Laws/Gangs.lean ====
section
/-! SUPPORT. What taking an issue number leaves as it was, array by array; updates over the members of a gang; and what the
bookkeeping of an instruction (scoreboard entries, uses of regions) touches. -/
namespace Sys2Proof.Machine

@[simp] theorem State.issuing_clove (s : State) (i : Issue) (k : Nat) : (s.issuing i).clove k = s.clove k := by
  unfold State.issuing
  by_cases h : cloveNo i.x i.y = k
  · subst h; simp
  · rw [State.clove_setClove_ne _ _ h]; rfl

@[simp] theorem State.issuing_arr (s : State) (i : Issue) (k : Nat) (b) : (s.issuing i).arr k b = s.arr k b := by simp [State.arr]

@[simp] theorem State.issuing_gangOf (s : State) (i : Issue) (k : Nat) (b) : (s.issuing i).gangOf k b = s.gangOf k b := by simp [State.gangOf]

@[simp] theorem State.issuing_setAt (s : State) (i : Issue) (k : Nat) (b c) : (s.issuing i).setAt k b c = s.setAt k b c := by simp [State.setAt]

@[simp] theorem State.issuing_pwr (s : State) (i : Issue) : (s.issuing i).pwr = s.pwr := rfl

@[simp] theorem State.issuing_fields (s : State) (i : Issue) : (s.issuing i).fields = s.fields := rfl

@[simp] theorem State.issuing_gangFault (s : State) (i : Issue) (k g) : (s.issuing i).gangFault k g = s.gangFault k g := by
  unfold State.gangFault State.gangAgrees; simp; rfl

theorem Clove.arr_setArr (c : Clove) (b b' : Bool) (a) : (c.setArr b a).arr b' = if b = b' then a else c.arr b' := by
  cases b <;> cases b' <;> rfl

theorem State.arr_modArr (s : State) (k k' : Nat) (b b' : Bool) (f) :
    (s.modArr k b f).arr k' b' = if k = k' ∧ b = b' then f (s.arr k b) else s.arr k' b' := by
  unfold State.arr State.modArr
  by_cases h : k = k'
  · subst h; simp [Clove.arr_setArr]
  · simp [State.clove_modClove_ne _ _ h, h]

theorem State.modArr_only (s : State) (k : Nat) (b : Bool) (f) : ArraysOnly s (s.modArr k b f) := by
  intro m
  unfold State.modArr
  by_cases h : k = m
  · subst h; cases b <;> simp [Clove.setArr]
  · simp [State.clove_modClove_ne _ _ h]

theorem ArraysOnly.refl (s : State) : ArraysOnly s s := fun _ => rfl

theorem ArraysOnly.trans {a b c : State} (h : ArraysOnly a b) (g : ArraysOnly b c) : ArraysOnly a c := by
  intro k; rw [g k, h k]

theorem Quiet.of_clove {s t : State} (h : Quiet s) (hl : ∀ e ∈ t.cloves, ∃ k, e.2 = t.clove k)
   (e : ∀ k, (t.clove k).waiting = (s.clove k).waiting ∧ (t.clove k).sfu = (s.clove k).sfu) : Quiet t := by
  intro x hx
  obtain ⟨k, hk⟩ := hl x hx
  rw [hk, (e k).1, (e k).2]; exact h.clove k

theorem Quiet.modArr {s : State} (h : Quiet s) (k b f) : Quiet (s.modArr k b f) :=
  h.modClove _ _ (fun c => by cases b <;> rfl) (fun c => by cases b <;> rfl)
/-- One update of the same array of every clove of a list without repeats. -/
theorem foldl_modArr (b : Bool) (f : Nat → ArrayUnit → ArrayUnit) (l : List Nat) (nd : l.Nodup) (s : State) :
    (∀ k b', (l.foldl (fun s m => s.modArr m b (f m)) s).arr k b' = if b' = b ∧ k ∈ l then f k (s.arr k b') else s.arr k b') ∧
    ArraysOnly s (l.foldl (fun s m => s.modArr m b (f m)) s) ∧
    (l.foldl (fun s m => s.modArr m b (f m)) s) = { s with cloves := (l.foldl (fun s m => s.modArr m b (f m)) s).cloves } ∧
    (Quiet s → Quiet (l.foldl (fun s m => s.modArr m b (f m)) s)) := by
  induction l generalizing s with
  | nil => exact ⟨by simp, .refl _, rfl, id⟩
  | cons x l ih =>
    obtain ⟨h1, h2, h3, h4⟩ := ih (List.nodup_cons.1 nd).2 (s.modArr x b (f x))
    refine ⟨fun k b' => ?_, (s.modArr_only _ _ _).trans h2, ?_, fun q => h4 (q.modArr _ _ _)⟩
    · rw [List.foldl_cons, h1, State.arr_modArr]
      have := (List.nodup_cons.1 nd).1
      by_cases hb : b' = b
      · subst hb
        by_cases e : k = x
        · subst e; simp [this]
        · have e' : ¬x = k := fun h => e h.symm
          simp [e, e']
      · have hb' : ¬b = b' := fun h => hb h.symm
        simp [hb, hb']
    · rw [List.foldl_cons]; conv_lhs => rw [h3]
      rfl

/-- Where nothing waits at issue, nothing is held back by what does (R58, R130, R175, R179). -/
theorem State.heldBack_quiet {s : State} (h : Quiet s) (no k w) : s.heldBack no k w = false := by
  simp only [State.heldBack, List.any_eq_false]
  intro e he; simp [(h e he).1]

theorem Gang.side_le (g : Gang) : g.side ≤ 16 := by unfold Gang.side; split <;> [omega; split <;> omega]

theorem Gang.members_nodup (g : Gang) : g.members.Nodup := by
  unfold Gang.members
  rw [List.nodup_flatMap]
  have := g.side_le
  refine ⟨fun x hx => ?_, ?_⟩
  · refine List.Nodup.map_on ?_ List.nodup_range
    intro a _ b _ h; simp only [Gang.at, cloveNo] at h; omega
  · refine (List.nodup_range (n := g.side)).imp_of_mem ?_
    intro a b ha hb n
    simp only [Function.onFun, List.disjoint_left, List.mem_map, List.mem_range]
    rintro _ ⟨u, hu, rfl⟩ ⟨v, hv, h⟩
    simp only [Gang.at, cloveNo] at h; omega

theorem CloveFrame.of_issuing {s u : State} {i : Issue} (h : u = { s.issuing i with cloves := u.cloves }) :
   CloveFrame i s (u.progressed i.part) := by
  unfold CloveFrame; conv_lhs => rw [h]
  rfl

theorem ArraysOnly.of_issuing {s u : State} {i : Issue} (h : ArraysOnly (s.issuing i) u) (p) : ArraysOnly s (u.progressed p) := by
  intro k; have := h k; rw [State.issuing_clove] at this; exact this

theorem State.touch_id (s : State) (k a) (h : ((s.clove k).word a).ecc = 0) : s.touch k a = s := by
  unfold State.touch; simp [h]

theorem State.touchAll_id (s : State) (k) (l : List Nat) (h : ∀ a, ((s.clove k).word a).ecc = 0) : s.touchAll k l = s := by
  unfold State.touchAll
  exact foldl_id _ _ _ fun a _ => State.touch_id s k a (h a)

theorem ArraysOnly.word {s t : State} (h : ArraysOnly s t) (k a) : (t.clove k).word a = (s.clove k).word a := by
  rw [h k]; rfl

theorem ArraysOnly.get {s t : State} (h : ArraysOnly s t) (k a) : (t.clove k).get a = (s.clove k).get a := by
  rw [h k]; rfl
/-- Only the books of the cloves differ: scoreboards, uses and the like, no array, no word of a scratchpad. -/
structure Books (s t : State) : Prop where
  rest : t = { s with cloves := t.cloves }
  arrs : ∀ k b, t.arr k b = s.arr k b
  scr : ∀ k, (t.clove k).scratch = (s.clove k).scratch
  quiet : Quiet s → Quiet t

theorem Books.refl (s : State) : Books s s := ⟨rfl, fun _ _ => rfl, fun _ => rfl, id⟩

theorem Books.trans {a b c : State} (h : Books a b) (g : Books b c) : Books a c :=
  ⟨by conv_lhs => rw [g.rest, h.rest]
    , fun k x => (g.arrs k x).trans (h.arrs k x), fun k => (g.scr k).trans (h.scr k), fun q => g.quiet (h.quiet q)⟩

theorem Books.mod {s : State} (k) (f : Clove → Clove) (ha : ∀ c, (f c).arrA = c.arrA) (hb : ∀ c, (f c).arrB = c.arrB)
   (hs : ∀ c, (f c).scratch = c.scratch) (hw : ∀ c, (f c).waiting = c.waiting) (hu : ∀ c, (f c).sfu = c.sfu) : Books s (s.modClove k f) := by
  refine ⟨rfl, fun m b => ?_, fun m => ?_, fun q => q.modClove _ _ hw hu⟩
  · unfold State.arr
    by_cases h : k = m
    · subst h; cases b <;> simp [Clove.arr, ha, hb]
    · rw [State.clove_modClove_ne _ _ h]
  · by_cases h : k = m
    · subst h; simp [hs]
    · rw [State.clove_modClove_ne _ _ h]

theorem Books.fold {α : Type} (l : List α) (s : State) (g : State → α → State) (h : ∀ s x, Books s (g s x)) : Books s (l.foldl g s) := by
  induction l generalizing s with
  | nil => exact .refl _
  | cons x l ih => exact (h _ _).trans (ih _)

theorem Books.takeExits (s : State) (e o x n ks) : Books s (s.takeExits e o x n ks) :=
  Books.fold _ _ _ fun _ _ => Books.mod _ _ (fun _ => rfl) (fun _ => rfl) (fun _ => rfl) (fun _ => rfl) (fun _ => rfl)

theorem Books.takeTickets (s : State) (o us) : Books s (s.takeTickets o us) :=
  Books.fold _ _ _ fun _ _ => Books.mod _ _ (fun _ => rfl) (fun _ => rfl) (fun _ => rfl) (fun _ => rfl) (fun _ => rfl)

@[simp] theorem State.issuing_exits (s : State) (i : Issue) (g a b) : (s.issuing i).exits g a b = s.exits g a b := by
  unfold State.exits; simp

@[simp] theorem State.issuing_exitSr (s : State) (i : Issue) (e a) : (s.issuing i).exitSr e a = s.exitSr e a := by
  unfold State.exitSr; simp

@[simp] theorem State.issuing_part (s : State) (i : Issue) (p) : (s.issuing i).part p = s.part p := rfl

@[simp] theorem State.issuing_slotEmpty (s : State) (i : Issue) (e a) : (s.issuing i).slotEmpty e a = s.slotEmpty e a := by
  unfold State.slotEmpty; simp

@[simp] theorem State.issuing_exitFault (s : State) (i : Issue) (e a) : (s.issuing i).exitFault e a = s.exitFault e a := by
  unfold State.exitFault; simp

@[simp] theorem State.issuing_drainUses (s : State) (i : Issue) (e a b) : (s.issuing i).drainUses e a b = s.drainUses e a b := by
  unfold State.drainUses; simp

@[simp] theorem State.issuing_readers (s : State) (i : Issue) (g a b) : (s.issuing i).readers g a b = s.readers g a b := by
  unfold State.readers; simp [State.entryLive]

@[simp] theorem State.issuing_topReaders (s : State) (i : Issue) (g a) : (s.issuing i).topReaders g a = s.topReaders g a := by
  unfold State.topReaders State.anyRow; simp [State.topLive]

@[simp] theorem State.issuing_streamUses (s : State) (i : Issue) (e a b) : (s.issuing i).streamUses e a b = s.streamUses e a b := by
  unfold State.streamUses; simp

@[simp] theorem State.issuing_storeBound (s : State) (i : Issue) (a b) : (s.issuing i).storeBound a b = s.storeBound a b := by
  unfold State.storeBound; simp

@[simp] theorem State.issuing_useFault (s : State) (i : Issue) (us) : (s.issuing i).useFault us = s.useFault us := by
  unfold State.useFault; simp

@[simp] theorem State.issuing_plainReads (s : State) (i : Issue) (us) : (s.issuing i).plainReads us = s.plainReads us := by
  unfold State.plainReads; simp

@[simp] theorem State.issuing_notRead (s : State) (i : Issue) (n k rs) : (s.issuing i).notRead n k rs = s.notRead n k rs := by
  unfold State.notRead; simp

@[simp] theorem State.issuing_exitsFree (s : State) (i : Issue) (n a b c d) :
    (s.issuing i).exitsFree n a b c d = s.exitsFree n a b c d := by
  unfold State.exitsFree; simp

theorem State.gangFault_none {s : State} {k g} (h : s.gangFault k g = none) : k = g.origin := by
  unfold State.gangFault at h
  by_contra hc
  simp [hc] at h

theorem Gang.origin_mem (g : Gang) : g.origin ∈ g.members := by
  unfold Gang.members Gang.origin
  have : 0 < g.side := by unfold Gang.side; split <;> [omega; split <;> omega]
  simp only [List.mem_flatMap, List.mem_map, List.mem_range]
  exact ⟨0, this, 0, this, rfl⟩

end Sys2Proof.Machine
end

