-- ==== Sys2Proof/Laws/Keeps.lean ====
section
/-! SUPPORT. What every operation of the block keeps, said once: the queue of commands, the time, the identity
store's monitor key, the canonical form of HBM, and a log sequence number that never falls. -/
namespace Sys2Proof.Machine

/-- From s to t: the queue, the time and the monitor key stand; HBM stays canonical; SEQ and the start-up count do not
fall; what has left the module stays sent. -/
structure Keeps (s t : State) : Prop where
  pending : t.pending = s.pending
  time : t.up.time = s.up.time
  monkey : t.flash.monkey = s.flash.monkey
  hbm : s.hbm.wf = true → t.hbm.wf = true
  seq : s.err.nextSeq ≤ t.err.nextSeq
  starts : s.flash.startups ≤ t.flash.startups
  out : s.host.out <+: t.host.out
  asked : s.host.asked <+: t.host.asked
  tx : s.net.tx <+: t.net.tx
  rep : s.mgmt.out <+: t.mgmt.out
  uart : s.mgmt.uart <+: t.mgmt.uart
  arp : s.mgmt.arp <+: t.mgmt.arp

theorem Keeps.refl (s : State) : Keeps s s :=
  ⟨rfl, rfl, rfl, id, Nat.le_refl _, Nat.le_refl _, List.prefix_rfl, List.prefix_rfl, List.prefix_rfl, List.prefix_rfl,
    List.prefix_rfl, List.prefix_rfl⟩

theorem Keeps.trans {a b c : State} (h : Keeps a b) (g : Keeps b c) : Keeps a c :=
  ⟨g.pending.trans h.pending, g.time.trans h.time, g.monkey.trans h.monkey, fun w => g.hbm (h.hbm w), h.seq.trans g.seq,
    h.starts.trans g.starts, h.out.trans g.out, h.asked.trans g.asked, h.tx.trans g.tx, h.rep.trans g.rep,
    h.uart.trans g.uart, h.arp.trans g.arp⟩

/-- A state written out, each of whose kept parts is that of a state that is kept, or adds to it. -/
theorem Keeps.lit {a t : State} {p : List Instr} {d : Nat} {r : SMap W32} {c : SMap Clove} {f : SMap Field}
    {pa : SMap Part} {hb : Hbm} {ms : SMap Stack} {m : List Msg} {nr ni : Nat} {inf : List Req} {ho : HostIf}
    {sv : Serving} {ne : Net} {pw : Power} {er : Err} {fl : Flash} {up : Startup} {mg : Mgmt}
    (h : Keeps a t) (e1 : p = t.pending) (e2 : up.time = t.up.time) (e3 : fl.monkey = t.flash.monkey) (e4 : hb = t.hbm)
    (e5 : t.err.nextSeq ≤ er.nextSeq) (e6 : t.flash.startups ≤ fl.startups) (e7 : t.host.out <+: ho.out)
    (e8 : t.host.asked <+: ho.asked) (e9 : t.net.tx <+: ne.tx) (e10 : t.mgmt.out <+: mg.out)
    (e11 : t.mgmt.uart <+: mg.uart) (e12 : t.mgmt.arp <+: mg.arp) :
    Keeps a ⟨p, d, r, c, f, pa, hb, ms, m, nr, ni, inf, ho, sv, ne, pw, er, fl, up, mg⟩ :=
  h.trans ⟨e1, e2, e3, fun w => by rw [e4]; exact w, e5, e6, e7, e8, e9, e10, e11, e12⟩

theorem Keeps.fold {α : Type} {a : State} (f : State → α → State) (l : List α) (s : State) (h : Keeps a s)
    (hf : ∀ s x, Keeps a s → Keeps a (f s x)) : Keeps a (l.foldl f s) := by
  induction l generalizing s with
  | nil => exact h
  | cons x l ih => exact ih _ (hf _ _ h)

theorem Keeps.fold1 {α β : Type} {a : State} (f : State × β → α → State × β) (l : List α) (s : State × β) (h : Keeps a s.1)
    (hf : ∀ s x, Keeps a s.1 → Keeps a (f s x).1) : Keeps a (l.foldl f s).1 := by
  induction l generalizing s with
  | nil => exact h
  | cons x l ih => exact ih _ (hf _ _ h)

theorem Keeps.fold2 {α β : Type} {a : State} (f : β × State → α → β × State) (l : List α) (s : β × State) (h : Keeps a s.2)
    (hf : ∀ s x, Keeps a s.2 → Keeps a (f s x).2) : Keeps a (l.foldl f s).2 := by
  induction l generalizing s with
  | nil => exact h
  | cons x l ih => exact ih _ (hf _ _ h)

theorem Keeps.fst {α : Type} {a b : State} {x : α} {p : State × α} (e : p = (b, x)) (h : Keeps a p.1) : Keeps a b := by
  rw [e] at h; exact h

theorem Keeps.snd {α : Type} {a b : State} {x : α} {p : α × State} (e : p = (x, b)) (h : Keeps a p.2) : Keeps a b := by
  rw [e] at h; exact h

theorem Keeps.thd {α β : Type} {a b : State} {x : α} {y : β} {p : α × β × State} (e : p = (x, y, b)) (h : Keeps a p.2.2) :
    Keeps a b := by
  rw [e] at h; exact h

theorem Keeps.mk2 {α : Type} {a b : State} {x : α} {p : α × State} (e : p = (x, b)) (h : Keeps a b) : Keeps a p.2 := by
  rw [e]; exact h

/-- HBM replaced by one that is canonical if it was. -/
theorem Keeps.newHbm {a s : State} {hb : Hbm} (h : Keeps a s) (w : s.hbm.wf = true → hb.wf = true) :
    Keeps a { s with hbm := hb } :=
  h.trans ⟨rfl, rfl, rfl, w, Nat.le_refl _, Nat.le_refl _, List.prefix_rfl, List.prefix_rfl, List.prefix_rfl, List.prefix_rfl,
    List.prefix_rfl, List.prefix_rfl⟩

/-- What the power agent holds is free to change. -/
theorem Keeps.newPwr {a s : State} {v : Power} (h : Keeps a s) : Keeps a { s with pwr := v } :=
  h.trans ⟨rfl, rfl, rfl, id, Nat.le_refl _, Nat.le_refl _, List.prefix_rfl, List.prefix_rfl, List.prefix_rfl, List.prefix_rfl,
    List.prefix_rfl, List.prefix_rfl⟩

theorem Hbm.wf_filter {b : List Host.Cell} {m : SMap Bool} {p : Nat × Byte → Bool} {q : Nat × Bool → Bool}
    (w : Hbm.wf ⟨b, m⟩ = true) : Hbm.wf ⟨b.filter p, m.filter q⟩ = true := by
  simp only [Hbm.wf, Bool.and_eq_true] at w ⊢
  exact ⟨SMap.canon_filter 0 p b w.1, SMap.canon_filter false q m w.2⟩

theorem Hbm.wf_filterBytes {b : List Host.Cell} {m : SMap Bool} {p : Nat × Byte → Bool}
    (w : Hbm.wf ⟨b, m⟩ = true) : Hbm.wf ⟨b.filter p, m⟩ = true := by
  simp only [Hbm.wf, Bool.and_eq_true] at w ⊢
  exact ⟨SMap.canon_filter 0 p b w.1, w.2⟩

theorem Keeps.iteD {a b c : State} {p : Prop} [Decidable p] (h : p → Keeps a b) (g : ¬p → Keeps a c) :
    Keeps a (if p then b else c) := by
  split
  · exact h ‹_›
  · exact g ‹_›

/-- The same of an answer with a state. -/
theorem Keeps.iteP {α : Type} {a : State} {b c : α × State} {p : Prop} [Decidable p] (h : p → Keeps a b.2) (g : ¬p → Keeps a c.2) :
    Keeps a (if p then b else c).2 := by
  split
  · exact h ‹_›
  · exact g ‹_›

/-- A state that an operation may answer is kept. -/
structure OKeeps (a : State) (o : Option State) : Prop where
  of : ∀ q, o = some q → Keeps a q

theorem OKeeps.none {a : State} : OKeeps a Option.none := ⟨fun _ e => nomatch e⟩
theorem OKeeps.some {a b : State} (h : Keeps a b) : OKeeps a (Option.some b) := ⟨fun _ e => by cases e; exact h⟩
theorem OKeeps.get {a b : State} {o : Option State} (e : o = Option.some b) (h : OKeeps a o) : Keeps a b := h.of _ e
theorem OKeeps.iteD {a : State} {b c : Option State} {p : Prop} [Decidable p] (h : p → OKeeps a b) (g : ¬p → OKeeps a c) :
    OKeeps a (if p then b else c) := by
  split
  · exact h ‹_›
  · exact g ‹_›

theorem OKeeps.getD {a d : State} {o : Option State} (h : OKeeps a o) (g : Keeps a d) : Keeps a (o.getD d) := by
  cases o with
  | none => exact g
  | some x => exact h.of x rfl

/-- The same of an operation that answers a state first. -/
structure OKeeps1 {α : Type} (a : State) (o : Option (State × α)) : Prop where
  of : ∀ q, o = some q → Keeps a q.1

theorem OKeeps1.none {α : Type} {a : State} : OKeeps1 a (Option.none : Option (State × α)) := ⟨fun _ e => nomatch e⟩
theorem OKeeps1.some {α : Type} {a b : State} {x : α} (h : Keeps a b) : OKeeps1 a (Option.some (b, x)) := ⟨fun _ e => by
  cases e; exact h⟩
theorem OKeeps1.get {α : Type} {a b : State} {x : α} {o : Option (State × α)} (e : o = Option.some (b, x)) (h : OKeeps1 a o) :
    Keeps a b := h.of _ e
theorem OKeeps1.getP {α : Type} {a : State} {p : State × α} {o : Option (State × α)} (e : o = Option.some p) (h : OKeeps1 a o) :
    Keeps a p.1 := h.of _ e

theorem OKeeps1.iteD {α : Type} {a : State} {b c : Option (State × α)} {p : Prop} [Decidable p] (h : p → OKeeps1 a b)
    (g : ¬p → OKeeps1 a c) : OKeeps1 a (if p then b else c) := by
  split
  · exact h ‹_›
  · exact g ‹_›

theorem OKeeps1.map {α β : Type} {a : State} {o : Option (State × α)} (f : State × α → β) (h : OKeeps1 a o) :
    OKeeps1 a (o.map (fun r => (r.1, f r))) := by
  refine ⟨fun q e => ?_⟩
  cases o with
  | none => cases e
  | some x => cases e; exact h.of x rfl

/-- The same of an operation that answers a state second. -/
structure OKeeps2 {α : Type} (a : State) (o : Option (α × State)) : Prop where
  of : ∀ q, o = some q → Keeps a q.2

theorem OKeeps2.none {α : Type} {a : State} : OKeeps2 a (Option.none : Option (α × State)) := ⟨fun _ e => nomatch e⟩
theorem OKeeps2.some {α : Type} {a b : State} {x : α} (h : Keeps a b) : OKeeps2 a (Option.some (x, b)) := ⟨fun _ e => by
  cases e; exact h⟩
theorem OKeeps2.get {α : Type} {a b : State} {x : α} {o : Option (α × State)} (e : o = Option.some (x, b)) (h : OKeeps2 a o) :
    Keeps a b := h.of _ e
theorem OKeeps2.getP {α : Type} {a : State} {p : α × State} {o : Option (α × State)} (e : o = Option.some p) (h : OKeeps2 a o) :
    Keeps a p.2 := h.of _ e

/-- A map over what an operation may answer. -/
theorem OKeeps.map {α : Type} {a : State} {o : Option α} {f : α → State} (h : ∀ x, o = Option.some x → Keeps a (f x)) :
    OKeeps a (o.map f) := by
  refine ⟨fun q e => ?_⟩
  cases o with
  | none => cases e
  | some x => cases e; exact h x rfl

end Sys2Proof.Machine
end

