-- ==== Sys2Proof/Laws/KeepsFlags.lean ====
section
/-! SUPPORT. What the operations of Machine/Flags.lean keep (Keeps). -/
namespace Sys2Proof.Machine

theorem State.setReg_keeps {s0 : State} {s : State} {r : Reg} {blk idx : Nat} {v : W32} (h : Keeps s0 s) : Keeps s0 (State.setReg s r blk idx v) := by
  unfold State.setReg
  repeat' first
    | with_reducible first | exact h | assumption
    | intro _
    | split
    | (dsimp only)
    | with_reducible refine Keeps.lit ?_ rfl rfl rfl rfl ?_ ?_ ?_ ?_ ?_ ?_ ?_ ?_
    | exact Nat.le_refl _
    | exact Nat.le_succ _
    | exact List.prefix_rfl
    | exact List.prefix_append _ _

theorem State.setFld_keeps {s0 : State} {s : State} {r : Reg} {blk idx hi lo v : Nat} (h : Keeps s0 s) : Keeps s0 (State.setFld s r blk idx hi lo v) := by
  unfold State.setFld
  repeat' first
    | with_reducible first | exact h | assumption | apply State.setReg_keeps
    | intro _
    | split
    | (dsimp only)

theorem State.addFld_keeps {s0 : State} {s : State} {r : Reg} {blk idx hi lo n : Nat} (h : Keeps s0 s) : Keeps s0 (State.addFld s r blk idx hi lo n) := by
  unfold State.addFld
  repeat' first
    | with_reducible first | exact h | assumption | apply State.setFld_keeps
    | intro _
    | split
    | (dsimp only)

theorem State.modReq_keeps {s0 : State} {s : State} {id : Nat} {f : Request → Request} (h : Keeps s0 s) : Keeps s0 (State.modReq s id f) := by
  unfold State.modReq
  repeat' first
    | with_reducible first | exact h | assumption
    | intro _
    | split
    | (dsimp only)
    | with_reducible refine Keeps.lit ?_ rfl rfl rfl rfl ?_ ?_ ?_ ?_ ?_ ?_ ?_ ?_
    | exact Nat.le_refl _
    | exact Nat.le_succ _
    | exact List.prefix_rfl
    | exact List.prefix_append _ _

theorem State.progressed_keeps {s0 : State} {s : State} {part : Nat} (h : Keeps s0 s) : Keeps s0 (State.progressed s part) := by
  unfold State.progressed
  repeat' first
    | with_reducible first | exact h | assumption
    | intro _
    | split
    | (dsimp only)
    | with_reducible refine Keeps.lit ?_ rfl rfl rfl rfl ?_ ?_ ?_ ?_ ?_ ?_ ?_ ?_
    | exact Nat.le_refl _
    | exact Nat.le_succ _
    | exact List.prefix_rfl
    | exact List.prefix_append _ _

theorem State.setAlert_keeps {s0 : State} {s : State} {n : Nat} (h : Keeps s0 s) : Keeps s0 (State.setAlert s n) := by
  unfold State.setAlert
  split
  · exact h
  · exact (State.setFld_keeps (r := .errAlert) (blk := 0) (idx := 0) (hi := n) (lo := n) (v := 1) h).trans
      ⟨rfl, rfl, rfl, id, Nat.le_refl _, Nat.le_refl _, List.prefix_rfl, List.prefix_rfl, List.prefix_rfl, List.prefix_rfl,
        List.prefix_rfl, List.prefix_rfl⟩

theorem State.logRaw_keeps {s0 : State} {s : State} {code cls : Nat} {persist : Bool} {part h0 h1 w2 w3 : Nat} (h : Keeps s0 s) : Keeps s0 (State.logRaw s code cls persist part h0 h1 w2 w3) := by
  unfold State.logRaw
  repeat' first
    | with_reducible first | exact h | assumption | apply State.setReg_keeps
    | intro _
    | split
    | (dsimp only)
    | with_reducible refine Keeps.lit ?_ rfl rfl rfl rfl ?_ ?_ ?_ ?_ ?_ ?_ ?_ ?_
    | exact Nat.le_refl _
    | exact Nat.le_succ _
    | exact List.prefix_rfl
    | exact List.prefix_append _ _

theorem State.log_keeps {s0 : State} {s : State} {c : Code} {part h0 h1 w2 w3 : Nat} (h : Keeps s0 s) : Keeps s0 (State.log s c part h0 h1 w2 w3) := by
  unfold State.log
  repeat' first
    | with_reducible first | exact h | assumption | apply State.setAlert_keeps | apply State.logRaw_keeps
          | refine Keeps.thd (by assumption) ?_ | refine Keeps.snd (by assumption) ?_
          | refine Keeps.fst (by assumption) ?_
    | intro _
    | split
    | (dsimp only)
    | with_reducible refine Keeps.lit ?_ rfl rfl rfl rfl ?_ ?_ ?_ ?_ ?_ ?_ ?_ ?_
    | exact Nat.le_refl _
    | exact Nat.le_succ _
    | exact List.prefix_rfl
    | exact List.prefix_append _ _

theorem State.voidReq_keeps {s0 : State} {s : State} {l code cls part seq : Nat} (h : Keeps s0 s) : Keeps s0 (State.voidReq s l code cls part seq) := by
  unfold State.voidReq
  repeat' first
    | with_reducible first | exact h | assumption | apply State.modReq_keeps | refine Keeps.thd (by assumption) ?_
          | refine Keeps.snd (by assumption) ?_ | refine Keeps.fst (by assumption) ?_
    | intro _
    | split
    | (dsimp only)
    | with_reducible refine Keeps.lit ?_ rfl rfl rfl rfl ?_ ?_ ?_ ?_ ?_ ?_ ?_ ?_
    | exact Nat.le_refl _
    | exact Nat.le_succ _
    | exact List.prefix_rfl
    | exact List.prefix_append _ _

theorem State.queueAbort_keeps {s0 : State} {s : State} {l code cls seq : Nat} {atBoundary : Bool} (h : Keeps s0 s) : Keeps s0 (State.queueAbort s l code cls seq atBoundary) := by
  unfold State.queueAbort
  repeat' first
    | with_reducible first | exact h | assumption | refine Keeps.thd (by assumption) ?_
          | refine Keeps.snd (by assumption) ?_ | refine Keeps.fst (by assumption) ?_
    | intro _
    | split
    | (dsimp only)
    | with_reducible refine Keeps.lit ?_ rfl rfl rfl rfl ?_ ?_ ?_ ?_ ?_ ?_ ?_ ?_
    | exact Nat.le_refl _
    | exact Nat.le_succ _
    | exact List.prefix_rfl
    | exact List.prefix_append _ _

theorem State.contain_keeps {s0 : State} {s : State} {c : Code} {part seq : Nat} (h : Keeps s0 s) : Keeps s0 (State.contain s c part seq) := by
  unfold State.contain
  repeat' first
    | with_reducible first | exact h | assumption | apply State.voidReq_keeps | apply State.queueAbort_keeps
    | intro _
    | split
    | (dsimp only)

theorem State.event_keeps {s0 : State} {s : State} {c : Code} {part h0 h1 w2 w3 : Nat} (h : Keeps s0 s) : Keeps s0 (State.event s c part h0 h1 w2 w3) := by
  unfold State.event
  repeat' first
    | with_reducible first | exact h | assumption | apply State.logRaw_keeps | apply State.log_keeps
          | apply State.contain_keeps
    | intro _
    | split
    | (dsimp only)

theorem State.cloveEvent_keeps {s0 : State} {s : State} {c : Code} {x y engine value : Nat} (h : Keeps s0 s) : Keeps s0 (State.cloveEvent s c x y engine value) := by
  unfold State.cloveEvent
  repeat' first
    | with_reducible first | exact h | assumption | apply State.event_keeps
    | intro _
    | split
    | (dsimp only)

theorem State.cloveEventOn_keeps {s0 : State} {s : State} {c : Code} {x y engine value : Nat} {names : List Nat} (h : Keeps s0 s) : Keeps s0 (State.cloveEventOn s c x y engine value names) := by
  unfold State.cloveEventOn
  repeat' first
    | with_reducible first | exact h | assumption | apply State.cloveEvent_keeps
    | intro _
    | split
    | (dsimp only)
    | with_reducible refine Keeps.lit ?_ rfl rfl rfl rfl ?_ ?_ ?_ ?_ ?_ ?_ ?_ ?_
    | exact Nat.le_refl _
    | exact Nat.le_succ _
    | exact List.prefix_rfl
    | exact List.prefix_append _ _

theorem State.hostAccess_keeps {s0 : State} {s : State} {part off : Nat} (h : Keeps s0 s) : Keeps s0 (State.hostAccess s part off) := by
  unfold State.hostAccess
  repeat' first
    | with_reducible first | exact h | assumption | apply State.log_keeps
    | intro _
    | split
    | (dsimp only)

end Sys2Proof.Machine
end

