-- ==== Sys2Proof/Laws/KeepsOps.lean ====
section
/-! SUPPORT. What the operations of Machine/Ops.lean keep (Keeps). -/
namespace Sys2Proof.Machine

theorem State.setClove_keeps {s0 : State} {s : State} {c : Nat} {v : Clove} (h : Keeps s0 s) : Keeps s0 (State.setClove s c v) := by
  unfold State.setClove
  repeat' first
    | with_reducible first | exact h | assumption
    | intro _
    | split
    | (dsimp only)
    | with_reducible refine Keeps.lit ?_ rfl rfl rfl rfl ?_ ?_ ?_ ?_ ?_ ?_ ?_ ?_
    | exact Nat.le_refl _
    | exact Nat.le_succ _
    | exact List.prefix_rfl
    | exact List.prefix_append _ _

theorem State.modClove_keeps {s0 : State} {s : State} {c : Nat} {f : Clove → Clove} (h : Keeps s0 s) : Keeps s0 (State.modClove s c f) := by
  unfold State.modClove
  repeat' first
    | with_reducible first | exact h | assumption | apply State.setClove_keeps
    | intro _
    | split
    | (dsimp only)

theorem State.modField_keeps {s0 : State} {s : State} {f : Nat} {g : Field → Field} (h : Keeps s0 s) : Keeps s0 (State.modField s f g) := by
  unfold State.modField
  repeat' first
    | with_reducible first | exact h | assumption
    | intro _
    | split
    | (dsimp only)
    | with_reducible refine Keeps.lit ?_ rfl rfl rfl rfl ?_ ?_ ?_ ?_ ?_ ?_ ?_ ?_
    | exact Nat.le_refl _
    | exact Nat.le_succ _
    | exact List.prefix_rfl
    | exact List.prefix_append _ _

theorem State.modPart_keeps {s0 : State} {s : State} {p : Nat} {g : Part → Part} (h : Keeps s0 s) : Keeps s0 (State.modPart s p g) := by
  unfold State.modPart
  repeat' first
    | with_reducible first | exact h | assumption
    | intro _
    | split
    | (dsimp only)
    | with_reducible refine Keeps.lit ?_ rfl rfl rfl rfl ?_ ?_ ?_ ?_ ?_ ?_ ?_ ?_
    | exact Nat.le_refl _
    | exact Nat.le_succ _
    | exact List.prefix_rfl
    | exact List.prefix_append _ _

theorem State.modStack_keeps {s0 : State} {s : State} {k : Nat} {g : Stack → Stack} (h : Keeps s0 s) : Keeps s0 (State.modStack s k g) := by
  unfold State.modStack
  repeat' first
    | with_reducible first | exact h | assumption
    | intro _
    | split
    | (dsimp only)
    | with_reducible refine Keeps.lit ?_ rfl rfl rfl rfl ?_ ?_ ?_ ?_ ?_ ?_ ?_ ?_
    | exact Nat.le_refl _
    | exact Nat.le_succ _
    | exact List.prefix_rfl
    | exact List.prefix_append _ _

theorem State.modQueue_keeps {s0 : State} {s : State} {p j : Nat} {g : Queue → Queue} (h : Keeps s0 s) : Keeps s0 (State.modQueue s p j g) := by
  unfold State.modQueue
  repeat' first
    | with_reducible first | exact h | assumption | apply State.modPart_keeps
    | intro _
    | split
    | (dsimp only)
    | with_reducible refine Keeps.lit ?_ rfl rfl rfl rfl ?_ ?_ ?_ ?_ ?_ ?_ ?_ ?_
    | exact Nat.le_refl _
    | exact Nat.le_succ _
    | exact List.prefix_rfl
    | exact List.prefix_append _ _

theorem State.setDomain_keeps {s0 : State} {s : State} {d : Nat} {v : Domain} (h : Keeps s0 s) : Keeps s0 (State.setDomain s d v) := by
  unfold State.setDomain
  repeat' first
    | with_reducible first | exact h | assumption
    | intro _
    | split
    | (dsimp only)
    | with_reducible refine Keeps.lit ?_ rfl rfl rfl rfl ?_ ?_ ?_ ?_ ?_ ?_ ?_ ?_
    | exact Nat.le_refl _
    | exact Nat.le_succ _
    | exact List.prefix_rfl
    | exact List.prefix_append _ _

theorem State.countField_keeps {s0 : State} {s : State} {x y n k : Nat} (h : Keeps s0 s) : Keeps s0 (State.countField s x y n k) := by
  unfold State.countField
  repeat' first
    | with_reducible first | exact h | assumption | apply State.addFld_keeps | refine Keeps.thd (by assumption) ?_
          | refine Keeps.snd (by assumption) ?_ | refine Keeps.fst (by assumption) ?_
    | intro _
    | split
    | (dsimp only)
    | with_reducible refine Keeps.lit ?_ rfl rfl rfl rfl ?_ ?_ ?_ ?_ ?_ ?_ ?_ ?_
    | exact Nat.le_refl _
    | exact Nat.le_succ _
    | exact List.prefix_rfl
    | exact List.prefix_append _ _

theorem State.fitWires_keeps {s0 : State} {s : State} {f : Nat} (h : Keeps s0 s) : Keeps s0 (State.fitWires s f) := by
  unfold State.fitWires
  repeat' first
    | with_reducible first | exact h | assumption | apply State.modField_keeps | apply State.setFld_keeps
          | apply Keeps.fold | apply Keeps.fold1 | apply Keeps.fold2
    | intro _
    | split
    | (dsimp only)
    | with_reducible refine Keeps.lit ?_ rfl rfl rfl rfl ?_ ?_ ?_ ?_ ?_ ?_ ?_ ?_
    | exact Nat.le_refl _
    | exact Nat.le_succ _
    | exact List.prefix_rfl
    | exact List.prefix_append _ _

theorem State.quarantine_keeps {s0 : State} {s : State} {x y : Nat} (h : Keeps s0 s) : Keeps s0 (State.quarantine s x y) := by
  unfold State.quarantine
  repeat' first
    | with_reducible first | exact h | assumption | apply State.modClove_keeps | apply State.setFld_keeps
          | apply State.modField_keeps | apply State.log_keeps
    | intro _
    | split
    | (dsimp only)
    | with_reducible refine Keeps.lit ?_ rfl rfl rfl rfl ?_ ?_ ?_ ?_ ?_ ?_ ?_ ?_
    | exact Nat.le_refl _
    | exact Nat.le_succ _
    | exact List.prefix_rfl
    | exact List.prefix_append _ _

theorem State.touch_keeps {s0 : State} {s : State} {k a : Nat} (h : Keeps s0 s) : Keeps s0 (State.touch s k a) := by
  unfold State.touch
  repeat' first
    | with_reducible first | exact h | assumption | apply State.addFld_keeps | apply State.cloveEvent_keeps
          | apply State.setClove_keeps | apply State.quarantine_keeps
    | intro _
    | split
    | (dsimp only)
    | with_reducible refine Keeps.lit ?_ rfl rfl rfl rfl ?_ ?_ ?_ ?_ ?_ ?_ ?_ ?_
    | exact Nat.le_refl _
    | exact Nat.le_succ _
    | exact List.prefix_rfl
    | exact List.prefix_append _ _

theorem State.upset_keeps {s0 : State} {s : State} {ups : List Flip} (h : Keeps s0 s) : Keeps s0 (State.upset s ups) := by
  unfold State.upset
  repeat' first
    | with_reducible first | exact h | assumption | apply State.modClove_keeps | apply Keeps.fold | apply Keeps.fold1
          | apply Keeps.fold2
    | intro _
    | split
    | (dsimp only)
    | with_reducible refine Keeps.lit ?_ rfl rfl rfl rfl ?_ ?_ ?_ ?_ ?_ ?_ ?_ ?_
    | exact Nat.le_refl _
    | exact Nat.le_succ _
    | exact List.prefix_rfl
    | exact List.prefix_append _ _

theorem State.touchN_keeps {s0 : State} (n : Nat) : ∀ {s : State} {k a : Nat}, Keeps s0 s → Keeps s0 (State.touchN s k a n) := by
  induction n with
  | zero =>
    intro s k a h
    unfold State.touchN
    repeat' first
      | with_reducible first | exact h | apply State.touch_keeps
      | intro _
      | split
      | (dsimp only)
  | succ n ih =>
    intro s k a h
    unfold State.touchN
    repeat' first
      | with_reducible first | exact h | apply ih | apply State.touch_keeps
      | intro _
      | split
      | (dsimp only)

theorem State.touchAll_keeps {s0 : State} {s : State} {k : Nat} {as : List Nat} (h : Keeps s0 s) : Keeps s0 (State.touchAll s k as) := by
  unfold State.touchAll
  repeat' first
    | with_reducible first | exact h | assumption | apply State.touch_keeps | apply Keeps.fold | apply Keeps.fold1
          | apply Keeps.fold2
    | intro _
    | split
    | (dsimp only)

theorem State.putHbm_keeps {s0 : State} {s : State} {a : Nat} {bs : List Byte} (h : Keeps s0 s) : Keeps s0 (State.putHbm s a bs) :=
  h.trans ⟨rfl, rfl, rfl, fun w => by
    simp only [Hbm.wf, Bool.and_eq_true] at w ⊢
    exact ⟨SMap.canon_setAll 0 bs _ _ w.1, w.2⟩, Nat.le_refl _, Nat.le_refl _, List.prefix_rfl, List.prefix_rfl, List.prefix_rfl, List.prefix_rfl, List.prefix_rfl, List.prefix_rfl⟩

theorem canon_foldSet (v : Bool) (cs : List Nat) : ∀ (m : SMap Bool), SMap.canon false m = true →
    SMap.canon false (cs.foldl (fun m c => m.set c false v) m) = true := by
  induction cs with
  | nil => exact fun _ w => w
  | cons c cs ih => exact fun m w => ih _ (SMap.canon_set _ _ _ _ w)

theorem State.setPoison_keeps {s0 : State} {s : State} {cws : List Nat} {v : Bool} (h : Keeps s0 s) : Keeps s0 (State.setPoison s cws v) :=
  h.trans ⟨rfl, rfl, rfl, fun w => by
    simp only [Hbm.wf, Bool.and_eq_true] at w ⊢
    exact ⟨w.1, canon_foldSet v cws _ w.2⟩, Nat.le_refl _, Nat.le_refl _, List.prefix_rfl, List.prefix_rfl, List.prefix_rfl, List.prefix_rfl, List.prefix_rfl, List.prefix_rfl⟩

theorem State.storeWords_keeps {s0 : State} {s : State} {a : Nat} {ws : List (W64 × Bool)} (h : Keeps s0 s) : Keeps s0 (State.storeWords s a ws) := by
  unfold State.storeWords
  repeat' first
    | with_reducible first | exact h | assumption | apply State.putHbm_keeps | apply State.setPoison_keeps
          | apply OKeeps.getD
    | intro _
    | split
    | (dsimp only)

theorem State.storeBytes_keeps {s0 : State} {s : State} {a : Nat} {bs : List Byte} (h : Keeps s0 s) : Keeps s0 (State.storeBytes s a bs) := by
  unfold State.storeBytes
  repeat' first
    | with_reducible first | exact h | assumption | apply State.putHbm_keeps | apply State.setPoison_keeps
    | intro _
    | split
    | (dsimp only)

theorem State.hostWrite_keeps {s0 : State} {s : State} {p : Nat} {w : HostWrite} (h : Keeps s0 s) : Keeps s0 (State.hostWrite s p w) := by
  unfold State.hostWrite
  repeat' first
    | with_reducible first | exact h | assumption | refine Keeps.thd (by assumption) ?_
          | refine Keeps.snd (by assumption) ?_ | refine Keeps.fst (by assumption) ?_
    | intro _
    | split
    | (dsimp only)
    | with_reducible refine Keeps.lit ?_ rfl rfl rfl rfl ?_ ?_ ?_ ?_ ?_ ?_ ?_ ?_
    | exact Nat.le_refl _
    | exact Nat.le_succ _
    | exact List.prefix_rfl
    | exact List.prefix_append _ _

theorem State.flushHeld_keeps {s0 : State} {s : State} (h : Keeps s0 s) : Keeps s0 (State.flushHeld s) := by
  unfold State.flushHeld
  repeat' first
    | with_reducible first | exact h | assumption
    | intro _
    | split
    | (dsimp only)
    | with_reducible refine Keeps.lit ?_ rfl rfl rfl rfl ?_ ?_ ?_ ?_ ?_ ?_ ?_ ?_
    | exact Nat.le_refl _
    | exact Nat.le_succ _
    | exact List.prefix_rfl
    | exact List.prefix_append _ _

theorem State.draw_keeps {s0 : State} {s : State} (h : Keeps s0 s) : Keeps s0 (State.draw s).2 := by
  unfold State.draw
  repeat' first
    | with_reducible first | exact h | assumption
    | intro _
    | split
    | (dsimp only)
    | with_reducible refine Keeps.lit ?_ rfl rfl rfl rfl ?_ ?_ ?_ ?_ ?_ ?_ ?_ ?_
    | exact Nat.le_refl _
    | exact Nat.le_succ _
    | exact List.prefix_rfl
    | exact List.prefix_append _ _

end Sys2Proof.Machine
end

