-- ==== Sys2Proof/Laws/KeepsGangs.lean ====
section
/-! SUPPORT. What the operations of Machine/Gangs.lean keep (Keeps). -/
namespace Sys2Proof.Machine

theorem State.modArr_keeps {s0 : State} {s : State} {k : Nat} {b : Bool} {f : ArrayUnit → ArrayUnit} (h : Keeps s0 s) : Keeps s0 (State.modArr s k b f) := by
  unfold State.modArr
  repeat' first
    | with_reducible first | exact h | assumption | apply State.modClove_keeps
    | intro _
    | split
    | (dsimp only)

theorem State.refuse_keeps {s0 : State} {s : State} {k engine : Nat} {c : Code} {value : Nat} (h : Keeps s0 s) : Keeps s0 (State.refuse s k engine c value) := by
  unfold State.refuse
  repeat' first
    | with_reducible first | exact h | assumption | apply State.cloveEvent_keeps | apply State.modClove_keeps
    | intro _
    | split
    | (dsimp only)

theorem State.takeTickets_keeps {s0 : State} {s : State} {owner : Nat} {us : List (Nat × Nat × Bool)} (h : Keeps s0 s) : Keeps s0 (State.takeTickets s owner us) := by
  unfold State.takeTickets
  repeat' first
    | with_reducible first | exact h | assumption | apply State.modClove_keeps | apply Keeps.fold
          | apply Keeps.fold1 | apply Keeps.fold2
    | intro _
    | split
    | (dsimp only)
    | with_reducible refine Keeps.lit ?_ rfl rfl rfl rfl ?_ ?_ ?_ ?_ ?_ ?_ ?_ ?_
    | exact Nat.le_refl _
    | exact Nat.le_succ _
    | exact List.prefix_rfl
    | exact List.prefix_append _ _

theorem State.dropOwner_keeps {s0 : State} {s : State} {engine owner : Nat} {ks : List Nat} (h : Keeps s0 s) : Keeps s0 (State.dropOwner s engine owner ks) := by
  unfold State.dropOwner
  repeat' first
    | with_reducible first | exact h | assumption | apply State.progressed_keeps | apply State.modClove_keeps
          | apply Keeps.fold | apply Keeps.fold1 | apply Keeps.fold2
    | intro _
    | split
    | (dsimp only)
    | with_reducible refine Keeps.lit ?_ rfl rfl rfl rfl ?_ ?_ ?_ ?_ ?_ ?_ ?_ ?_
    | exact Nat.le_refl _
    | exact Nat.le_succ _
    | exact List.prefix_rfl
    | exact List.prefix_append _ _

theorem State.credit_keeps {s0 : State} (n : Nat) : ∀ {s : State} {k : Nat} {r : Region}, Keeps s0 s → Keeps s0 (State.credit s k r n) := by
  induction n with
  | zero =>
    intro s k r h
    unfold State.credit
    repeat' first
      | with_reducible first | exact h
      | intro _
      | split
      | (dsimp only)
      | with_reducible refine Keeps.lit ?_ rfl rfl rfl rfl ?_ ?_ ?_ ?_ ?_ ?_ ?_ ?_
      | exact Nat.le_refl _
      | exact Nat.le_succ _
      | exact List.prefix_rfl
      | exact List.prefix_append _ _
  | succ n ih =>
    intro s k r h
    unfold State.credit
    repeat' first
      | with_reducible first | exact h | apply ih
      | intro _
      | split
      | (dsimp only)
      | with_reducible refine Keeps.lit ?_ rfl rfl rfl rfl ?_ ?_ ?_ ?_ ?_ ?_ ?_ ?_
      | exact Nat.le_refl _
      | exact Nat.le_succ _
      | exact List.prefix_rfl
      | exact List.prefix_append _ _

theorem State.putRegion_keeps {s0 : State} {s : State} {k rn : Nat} {r : Region} {released : Nat} (h : Keeps s0 s) : Keeps s0 (State.putRegion s k rn r released) := by
  unfold State.putRegion
  repeat' first
    | with_reducible first | exact h | assumption | apply State.modClove_keeps | apply State.credit_keeps
    | intro _
    | split
    | (dsimp only)

theorem State.takeVec_keeps {s0 : State} {s : State} {k rn : Nat} {os : Bool} {code : Nat} {live : BitVec 16} (h : Keeps s0 s) : Keeps s0 (State.takeVec s k rn os code live).2 := by
  unfold State.takeVec
  repeat' first
    | with_reducible first | exact h | assumption | apply State.touchAll_keeps | apply State.putRegion_keeps
    | intro _
    | split
    | (dsimp only)
    | with_reducible refine Keeps.lit ?_ rfl rfl rfl rfl ?_ ?_ ?_ ?_ ?_ ?_ ?_ ?_
    | exact Nat.le_refl _
    | exact Nat.le_succ _
    | exact List.prefix_rfl
    | exact List.prefix_append _ _

theorem State.takeWord_keeps {s0 : State} {s : State} {k rn : Nat} (h : Keeps s0 s) : Keeps s0 (State.takeWord s k rn).2 := by
  unfold State.takeWord
  repeat' first
    | with_reducible first | exact h | assumption | apply State.touch_keeps | apply State.putRegion_keeps
    | intro _
    | split
    | (dsimp only)

theorem State.endRead_keeps {s0 : State} {s : State} {k rn : Nat} (h : Keeps s0 s) : Keeps s0 (State.endRead s k rn) := by
  unfold State.endRead
  repeat' first
    | with_reducible first | exact h | assumption | apply State.putRegion_keeps
    | intro _
    | split
    | (dsimp only)

end Sys2Proof.Machine
end

