-- ==== Sys2Proof/Laws/KeepsArray.lean ====
section
/-! SUPPORT. What the operations of Machine/Array.lean keep (Keeps). -/
namespace Sys2Proof.Machine

theorem State.modSet_keeps {s0 : State} {s : State} {k : Nat} {b i : Bool} {f : RegSet → RegSet} (h : Keeps s0 s) : Keeps s0 (State.modSet s k b i f) := by
  unfold State.modSet
  repeat' first
    | with_reducible first | exact h | assumption | apply State.modArr_keeps
    | intro _
    | split
    | (dsimp only)

theorem State.mismatch_keeps {s0 : State} {s : State} {g : Gang} {k : Nat} {c : Code} {seq : Nat} (h : Keeps s0 s) : Keeps s0 (State.mismatch s g k c seq) := by
  unfold State.mismatch
  repeat' first
    | with_reducible first | exact h | assumption | apply State.cloveEventOn_keeps | apply State.countField_keeps
          | apply State.modClove_keeps | apply State.quarantine_keeps | apply State.cloveEvent_keeps
    | intro _
    | split
    | (dsimp only)
    | with_reducible refine Keeps.lit ?_ rfl rfl rfl rfl ?_ ?_ ?_ ?_ ?_ ?_ ?_ ?_
    | exact Nat.le_refl _
    | exact Nat.le_succ _
    | exact List.prefix_rfl
    | exact List.prefix_append _ _

theorem State.report_keeps {s0 : State} {s : State} {g : Gang} {seq : Nat} {cs : List (Nat × Check)} (h : Keeps s0 s) : Keeps s0 (State.report s g seq cs) := by
  unfold State.report
  repeat' first
    | with_reducible first | exact h | assumption | apply State.countField_keeps | apply State.mismatch_keeps
          | apply Keeps.fold | apply Keeps.fold1 | apply Keeps.fold2 | refine Keeps.thd (by assumption) ?_
          | refine Keeps.snd (by assumption) ?_ | refine Keeps.fst (by assumption) ?_
    | intro _
    | split
    | (dsimp only)
    | with_reducible refine Keeps.lit ?_ rfl rfl rfl rfl ?_ ?_ ?_ ?_ ?_ ?_ ?_ ?_
    | exact Nat.le_refl _
    | exact Nat.le_succ _
    | exact List.prefix_rfl
    | exact List.prefix_append _ _

theorem State.exitRow_keeps {s0 : State} {s : State} {e : Exit} {k n0 m : Nat} {fill : Nat → Option Val} {res : List (Option (Val × Bool))} (h : Keeps s0 s) : Keeps s0 (State.exitRow s e k n0 m fill res).2 := by
  unfold State.exitRow
  repeat' first
    | with_reducible first | exact h | assumption | apply State.takeVec_keeps | apply Keeps.fold | apply Keeps.fold1
          | apply Keeps.fold2 | apply OKeeps.getD | refine Keeps.thd (by assumption) ?_
          | refine Keeps.snd (by assumption) ?_ | refine Keeps.fst (by assumption) ?_
    | intro _
    | split
    | (dsimp only)
    | with_reducible refine Keeps.lit ?_ rfl rfl rfl rfl ?_ ?_ ?_ ?_ ?_ ?_ ?_ ?_
    | exact Nat.le_refl _
    | exact Nat.le_succ _
    | exact List.prefix_rfl
    | exact List.prefix_append _ _

theorem State.exitWrite_keeps {s0 : State} {s : State} {e : Exit} {m : Nat} {scale : Byte} {rng : W32} {r : ExitRow} (h : Keeps s0 s) : Keeps s0 (State.exitWrite s e m scale rng r).1 := by
  unfold State.exitWrite
  repeat' first
    | with_reducible first | exact h | assumption | apply State.setClove_keeps | apply State.countField_keeps
          | apply OKeeps.getD | refine Keeps.thd (by assumption) ?_ | refine Keeps.snd (by assumption) ?_
          | refine Keeps.fst (by assumption) ?_
    | intro _
    | split
    | (dsimp only)
    | with_reducible refine Keeps.lit ?_ rfl rfl rfl rfl ?_ ?_ ?_ ?_ ?_ ?_ ?_ ?_
    | exact Nat.le_refl _
    | exact Nat.le_succ _
    | exact List.prefix_rfl
    | exact List.prefix_append _ _

theorem State.epilogue_keeps {s0 : State} {s : State} {e : Exit} {pair : Bool} {m : Nat} {fill : Nat → Option Val} {rng : SMap W32} {rows : List (Nat × Nat × Nat × List (Option (Val × Bool)))} (h : Keeps s0 s) : Keeps s0 (State.epilogue s e pair m fill rng rows).1 := by
  unfold State.epilogue
  repeat' first
    | with_reducible first | exact h | assumption | apply State.exitRow_keeps | apply State.exitWrite_keeps
          | apply Keeps.fold | apply Keeps.fold1 | apply Keeps.fold2
    | intro _
    | split
    | (dsimp only)

theorem State.takeExits_keeps {s0 : State} {s : State} {engine owner : Nat} {e : Exit} {n : Nat} {ks : List Nat} (h : Keeps s0 s) : Keeps s0 (State.takeExits s engine owner e n ks) := by
  unfold State.takeExits
  repeat' first
    | with_reducible first | exact h | assumption | apply State.modClove_keeps | apply Keeps.fold
          | apply Keeps.fold1 | apply Keeps.fold2
    | intro _
    | split
    | (dsimp only)

theorem State.takeSeq_keeps {s0 : State} {s : State} {g : Gang} (h : Keeps s0 s) : Keeps s0 (State.takeSeq s g).2 := by
  unfold State.takeSeq
  repeat' first
    | with_reducible first | exact h | assumption | apply State.modArr_keeps
    | intro _
    | split
    | (dsimp only)
    | with_reducible refine Keeps.lit ?_ rfl rfl rfl rfl ?_ ?_ ?_ ?_ ?_ ?_ ?_ ?_
    | exact Nat.le_refl _
    | exact Nat.le_succ _
    | exact List.prefix_rfl
    | exact List.prefix_append _ _

theorem State.tryGang_keeps {s0 : State} {s : State} {k v : Nat} {i : Issue} (h : Keeps s0 s) : OKeeps s0 (State.tryGang s k v i) := by
  unfold State.tryGang
  repeat' first
    | with_reducible first | exact h | assumption | apply State.refuse_keeps | apply State.modArr_keeps
          | apply OKeeps.none | apply OKeeps.some | apply Keeps.fold | apply Keeps.fold1 | apply Keeps.fold2
    | intro _
    | split
    | (dsimp only)
    | with_reducible refine Keeps.lit ?_ rfl rfl rfl rfl ?_ ?_ ?_ ?_ ?_ ?_ ?_ ?_
    | exact Nat.le_refl _
    | exact Nat.le_succ _
    | exact List.prefix_rfl
    | exact List.prefix_append _ _

theorem State.loadTouch_keeps {s0 : State} {s : State} {o : LoadOp} {g : Gang} {k : Nat} {some_ : Bool} (h : Keeps s0 s) : Keeps s0 (State.loadTouch s o g k some_) := by
  unfold State.loadTouch
  repeat' first
    | with_reducible first | exact h | assumption | apply State.touchAll_keeps
    | intro _
    | split
    | (dsimp only)

theorem State.loadMember_keeps {s0 : State} {s : State} {o : LoadOp} {g : Gang} {any : Bool} {k : Nat} (h : Keeps s0 s) : Keeps s0 (State.loadMember s o g any k) := by
  unfold State.loadMember
  repeat' first
    | with_reducible first | exact h | assumption | apply State.modArr_keeps | apply State.loadTouch_keeps
    | intro _
    | split
    | (dsimp only)
    | with_reducible refine Keeps.lit ?_ rfl rfl rfl rfl ?_ ?_ ?_ ?_ ?_ ?_ ?_ ?_
    | exact Nat.le_refl _
    | exact Nat.le_succ _
    | exact List.prefix_rfl
    | exact List.prefix_append _ _

theorem State.tryLoad_keeps {s0 : State} {s : State} {k v : Nat} {i : Issue} (h : Keeps s0 s) : OKeeps s0 (State.tryLoad s k v i) := by
  unfold State.tryLoad
  repeat' first
    | with_reducible first | exact h | assumption | apply State.refuse_keeps | apply State.loadMember_keeps
          | apply OKeeps.none | apply OKeeps.some | apply Keeps.fold | apply Keeps.fold1 | apply Keeps.fold2
          | refine Keeps.thd (by assumption) ?_ | refine Keeps.snd (by assumption) ?_
          | refine Keeps.fst (by assumption) ?_
    | intro _
    | split
    | (dsimp only)
    | with_reducible refine Keeps.lit ?_ rfl rfl rfl rfl ?_ ?_ ?_ ?_ ?_ ?_ ?_ ?_
    | exact Nat.le_refl _
    | exact Nat.le_succ _
    | exact List.prefix_rfl
    | exact List.prefix_append _ _

theorem State.trySwap_keeps {s0 : State} {s : State} {no k v : Nat} {i : Issue} (h : Keeps s0 s) : OKeeps s0 (State.trySwap s no k v i) := by
  unfold State.trySwap
  extract_lets o b en g fg md e es ks fields flip drainsBg us s1 s2
  have R : ∀ c, OKeeps s0 (some (s.refuse k en c v)) := fun c => .some (State.refuse_keeps h)
  have F : ∀ q, Keeps s0 q → Keeps s0 (flip q) := fun q hq => Keeps.fold _ _ _ hq fun _ _ h => State.modArr_keeps h
  have h2 : Keeps s0 s2 := State.takeTickets_keeps (State.takeExits_keeps h)
  clear_value flip s2
  refine OKeeps.iteD (fun _ => R _) fun _ => ?_
  split
  · exact R _
  refine OKeeps.iteD (fun _ => R _) fun _ => ?_
  refine OKeeps.iteD (fun _ => .iteD (fun _ => .none) fun _ => .some (F _ h)) fun _ => ?_
  refine OKeeps.iteD (fun _ => R _) fun _ => ?_
  split
  · exact R _
  split
  · exact R _
  refine OKeeps.iteD (fun _ => .none) fun _ => ?_
  exact .some (F _ (State.modArr_keeps (State.takeSeq_keeps h2)))

theorem State.tryStream_keeps {s0 : State} {s : State} {no k v : Nat} {i : Issue} (h : Keeps s0 s) : OKeeps s0 (State.tryStream s no k v i) := by
  unfold State.tryStream
  repeat' first
    | with_reducible first | exact h | assumption | apply State.refuse_keeps | apply State.modSet_keeps
          | apply State.takeSeq_keeps | apply State.takeExits_keeps | apply State.takeTickets_keeps
          | apply State.modArr_keeps | apply OKeeps.none | apply OKeeps.some | apply Keeps.fold | apply Keeps.fold1
          | apply Keeps.fold2 | apply OKeeps.getD | apply OKeeps.map | refine Keeps.thd (by assumption) ?_
          | refine Keeps.snd (by assumption) ?_ | refine Keeps.fst (by assumption) ?_ | apply OKeeps.iteD
          | apply Keeps.iteD
    | intro _
    | split
    | (dsimp only)
    | with_reducible refine Keeps.lit ?_ rfl rfl rfl rfl ?_ ?_ ?_ ?_ ?_ ?_ ?_ ?_
    | exact Nat.le_refl _
    | exact Nat.le_succ _
    | exact List.prefix_rfl
    | exact List.prefix_append _ _

theorem State.putWork_keeps {s0 : State} {s : State} {k : Nat} {b : Bool} {u : Work} (h : Keeps s0 s) : Keeps s0 (State.putWork s k b u) := by
  unfold State.putWork
  repeat' first
    | with_reducible first | exact h | assumption | apply State.modArr_keeps
    | intro _
    | split
    | (dsimp only)
    | with_reducible refine Keeps.lit ?_ rfl rfl rfl rfl ?_ ?_ ?_ ?_ ?_ ?_ ?_ ?_
    | exact Nat.le_refl _
    | exact Nat.le_succ _
    | exact List.prefix_rfl
    | exact List.prefix_append _ _

theorem State.endWork_keeps {s0 : State} {s : State} {k : Nat} {b : Bool} {u : Work} {us : List Use} (h : Keeps s0 s) : Keeps s0 (State.endWork s k b u us) := by
  unfold State.endWork
  repeat' first
    | with_reducible first | exact h | assumption | apply State.modClove_keeps | apply State.modArr_keeps
          | apply State.dropOwner_keeps | apply State.endRead_keeps | apply Keeps.fold | apply Keeps.fold1
          | apply Keeps.fold2
    | intro _
    | split
    | (dsimp only)
    | with_reducible refine Keeps.lit ?_ rfl rfl rfl rfl ?_ ?_ ?_ ?_ ?_ ?_ ?_ ?_
    | exact Nat.le_refl _
    | exact Nat.le_succ _
    | exact List.prefix_rfl
    | exact List.prefix_append _ _

theorem State.takeVecs_keeps {s0 : State} {s : State} {rn : Nat} {os : Bool} {code : Nat} {ks : List (Nat × BitVec 16)} (h : Keeps s0 s) : Keeps s0 (State.takeVecs s rn os code ks).2 := by
  unfold State.takeVecs
  repeat' first
    | with_reducible first | exact h | assumption | apply State.takeVec_keeps | apply Keeps.fold | apply Keeps.fold1
          | apply Keeps.fold2
    | intro _
    | split
    | (dsimp only)
    | with_reducible refine Keeps.lit ?_ rfl rfl rfl rfl ?_ ?_ ?_ ?_ ?_ ?_ ?_ ?_
    | exact Nat.le_refl _
    | exact Nat.le_succ _
    | exact List.prefix_rfl
    | exact List.prefix_append _ _

theorem State.runVector_keeps {s0 : State} {s : State} {g : Gang} {u : Work} {ups : List Upset} (h : Keeps s0 s) : Keeps s0 (State.runVector s g u ups) := by
  unfold State.runVector
  repeat' first
    | with_reducible first | exact h | assumption | apply State.takeVecs_keeps | apply State.modSet_keeps
          | apply State.report_keeps | apply State.epilogue_keeps | apply State.endWork_keeps
          | apply State.putWork_keeps | apply Keeps.fold | apply Keeps.fold1 | apply Keeps.fold2 | apply OKeeps.getD
          | refine Keeps.thd (by assumption) ?_ | refine Keeps.snd (by assumption) ?_
          | refine Keeps.fst (by assumption) ?_
    | intro _
    | split
    | (dsimp only)
    | with_reducible refine Keeps.lit ?_ rfl rfl rfl rfl ?_ ?_ ?_ ?_ ?_ ?_ ?_ ?_
    | exact Nat.le_refl _
    | exact Nat.le_succ _
    | exact List.prefix_rfl
    | exact List.prefix_append _ _

theorem State.runReduction_keeps {s0 : State} {s : State} {g : Gang} {u : Work} {ups : List Upset} (h : Keeps s0 s) : Keeps s0 (State.runReduction s g u ups) := by
  unfold State.runReduction
  repeat' first
    | with_reducible first | exact h | assumption | apply State.takeVecs_keeps | apply State.modSet_keeps
          | apply State.report_keeps | apply State.endWork_keeps | apply State.putWork_keeps | apply Keeps.fold
          | apply Keeps.fold1 | apply Keeps.fold2 | refine Keeps.thd (by assumption) ?_
          | refine Keeps.snd (by assumption) ?_ | refine Keeps.fst (by assumption) ?_
    | intro _
    | split
    | (dsimp only)
    | with_reducible refine Keeps.lit ?_ rfl rfl rfl rfl ?_ ?_ ?_ ?_ ?_ ?_ ?_ ?_
    | exact Nat.le_refl _
    | exact Nat.le_succ _
    | exact List.prefix_rfl
    | exact List.prefix_append _ _

theorem State.retire_keeps {s0 : State} {s : State} {k : Nat} {b : Bool} {ups : List Upset} (h : Keeps s0 s) : Keeps s0 (State.retire s k b ups) := by
  unfold State.retire
  repeat' first
    | with_reducible first | exact h | assumption | apply State.putWork_keeps | apply State.runVector_keeps
          | apply State.runReduction_keeps | refine Keeps.thd (by assumption) ?_
          | refine Keeps.snd (by assumption) ?_ | refine Keeps.fst (by assumption) ?_
    | intro _
    | split
    | (dsimp only)
    | with_reducible refine Keeps.lit ?_ rfl rfl rfl rfl ?_ ?_ ?_ ?_ ?_ ?_ ?_ ?_
    | exact Nat.le_refl _
    | exact Nat.le_succ _
    | exact List.prefix_rfl
    | exact List.prefix_append _ _

theorem State.drainRow_keeps {s0 : State} {s : State} {g : Gang} {u : Work} (h : Keeps s0 s) : Keeps s0 (State.drainRow s g u).1 := by
  unfold State.drainRow
  repeat' first
    | with_reducible first | exact h | assumption | apply State.epilogue_keeps | refine Keeps.thd (by assumption) ?_
          | refine Keeps.snd (by assumption) ?_ | refine Keeps.fst (by assumption) ?_
    | intro _
    | split
    | (dsimp only)
    | with_reducible refine Keeps.lit ?_ rfl rfl rfl rfl ?_ ?_ ?_ ?_ ?_ ?_ ?_ ?_
    | exact Nat.le_refl _
    | exact Nat.le_succ _
    | exact List.prefix_rfl
    | exact List.prefix_append _ _

theorem State.drainRows_keeps {s0 : State} (n : Nat) : ∀ {s : State} {g : Gang} {u : Work}, Keeps s0 s → Keeps s0 (State.drainRows s g u n) := by
  induction n with
  | zero => intro s g u h; exact State.putWork_keeps h
  | succ n ih =>
    intro s g u h
    unfold State.drainRows
    split
    · dsimp only
      apply Keeps.fold
      · exact State.endWork_keeps h
      · intro s x h
        exact State.modSet_keeps h
    · split
      · exact ih (State.drainRow_keeps h)
      · exact State.putWork_keeps h

theorem State.drain_keeps {s0 : State} {s : State} {k : Nat} {b : Bool} {ups : List Upset} (h : Keeps s0 s) : Keeps s0 (State.drain s k b ups) := by
  unfold State.drain
  repeat' first
    | with_reducible first | exact h | assumption | apply State.putWork_keeps | apply State.drainRows_keeps
          | apply State.modSet_keeps | apply State.upset_keeps | apply State.report_keeps | apply Keeps.fold
          | apply Keeps.fold1 | apply Keeps.fold2 | refine Keeps.thd (by assumption) ?_
          | refine Keeps.snd (by assumption) ?_ | refine Keeps.fst (by assumption) ?_ | apply Keeps.iteD
    | intro _
    | split
    | (dsimp only)
    | with_reducible refine Keeps.lit ?_ rfl rfl rfl rfl ?_ ?_ ?_ ?_ ?_ ?_ ?_ ?_
    | exact Nat.le_refl _
    | exact Nat.le_succ _
    | exact List.prefix_rfl
    | exact List.prefix_append _ _

theorem State.unstall_keeps {s0 : State} {s : State} {k : Nat} {b : Bool} (h : Keeps s0 s) : Keeps s0 (State.unstall s k b) := by
  unfold State.unstall
  repeat' first
    | with_reducible first | exact h | assumption | apply State.modArr_keeps | apply State.drain_keeps
    | intro _
    | split
    | (dsimp only)
    | with_reducible refine Keeps.lit ?_ rfl rfl rfl rfl ?_ ?_ ?_ ?_ ?_ ?_ ?_ ?_
    | exact Nat.le_refl _
    | exact Nat.le_succ _
    | exact List.prefix_rfl
    | exact List.prefix_append _ _

end Sys2Proof.Machine
end

