-- ==== Sys2Proof/Laws/KeepsSfu.lean ====
section
/-! SUPPORT. What the operations of Machine/Sfu.lean keep (Keeps). -/
namespace Sys2Proof.Machine

theorem State.tryEpi_keeps {s0 : State} {s : State} {k v : Nat} {w : W128} (h : Keeps s0 s) : OKeeps s0 (State.tryEpi s k v w) := by
  unfold State.tryEpi
  extract_lets o e a t c d
  have h1 : Keeps s0 t := State.touchN_keeps 4 h
  clear_value t d
  refine OKeeps.iteD (fun _ => .none) fun _ => ?_
  refine OKeeps.iteD (fun _ => .some (State.refuse_keeps h1)) fun _ => ?_
  refine OKeeps.iteD (fun _ => .some (State.refuse_keeps h1)) fun _ => ?_
  exact .some (State.setClove_keeps h1)

theorem State.sfuStart_keeps {s0 : State} {s : State} {no k : Nat} {i : Issue} (h : Keeps s0 s) : Keeps s0 (State.sfuStart s no k i) := by
  unfold State.sfuStart
  repeat' first
    | with_reducible first | exact h | assumption | apply State.setClove_keeps
    | intro _
    | split
    | (dsimp only)
    | with_reducible refine Keeps.lit ?_ rfl rfl rfl rfl ?_ ?_ ?_ ?_ ?_ ?_ ?_ ?_
    | exact Nat.le_refl _
    | exact Nat.le_succ _
    | exact List.prefix_rfl
    | exact List.prefix_append _ _

theorem State.trySfu_keeps {s0 : State} {s : State} {no k v : Nat} {i : Issue} (h : Keeps s0 s) : OKeeps s0 (State.trySfu s no k v i) := by
  unfold State.trySfu
  repeat' first
    | with_reducible first | exact h | assumption | apply State.refuse_keeps | apply State.tryEpi_keeps
          | apply State.modClove_keeps | apply State.takeTickets_keeps | apply State.sfuStart_keeps | apply OKeeps.none
          | apply OKeeps.some | apply OKeeps.map | refine OKeeps.get (by assumption) ?_
          | refine Keeps.thd (by assumption) ?_ | refine Keeps.snd (by assumption) ?_
          | refine Keeps.fst (by assumption) ?_
    | intro _
    | split
    | (dsimp only)
    | with_reducible refine Keeps.lit ?_ rfl rfl rfl rfl ?_ ?_ ?_ ?_ ?_ ?_ ?_ ?_
    | exact Nat.le_refl _
    | exact Nat.le_succ _
    | exact List.prefix_rfl
    | exact List.prefix_append _ _

theorem State.putSfu_keeps {s0 : State} {s : State} {k : Nat} {u : SfuWork} (h : Keeps s0 s) : Keeps s0 (State.putSfu s k u) := by
  unfold State.putSfu
  repeat' first
    | with_reducible first | exact h | assumption | apply State.modClove_keeps
    | intro _
    | split
    | (dsimp only)
    | with_reducible refine Keeps.lit ?_ rfl rfl rfl rfl ?_ ?_ ?_ ?_ ?_ ?_ ?_ ?_
    | exact Nat.le_refl _
    | exact Nat.le_succ _
    | exact List.prefix_rfl
    | exact List.prefix_append _ _

theorem State.sfuRow_keeps {s0 : State} {s : State} {k : Nat} {u : SfuWork} (h : Keeps s0 s) : Keeps s0 (State.sfuRow s k u) := by
  unfold State.sfuRow
  repeat' first
    | with_reducible first | exact h | assumption | apply State.putSfu_keeps | apply State.countField_keeps
          | apply State.setClove_keeps | apply State.cloveEventOn_keeps | apply State.cloveEvent_keeps
          | apply OKeeps.getD | refine Keeps.thd (by assumption) ?_ | refine Keeps.snd (by assumption) ?_
          | refine Keeps.fst (by assumption) ?_ | apply Keeps.iteD
    | intro _
    | split
    | (dsimp only)
    | with_reducible refine Keeps.lit ?_ rfl rfl rfl rfl ?_ ?_ ?_ ?_ ?_ ?_ ?_ ?_
    | exact Nat.le_refl _
    | exact Nat.le_succ _
    | exact List.prefix_rfl
    | exact List.prefix_append _ _

theorem State.sfuRead_keeps {s0 : State} {s : State} {k owner rn : Nat} {vec : Bool} {code : Nat} (h : Keeps s0 s) : OKeeps2 s0 (State.sfuRead s k owner rn vec code) := by
  unfold State.sfuRead
  repeat' first
    | with_reducible first | exact h | assumption | apply State.takeVec_keeps | apply State.takeWord_keeps
          | apply OKeeps2.none | apply OKeeps2.some
    | intro _
    | split
    | (dsimp only)
    | with_reducible refine Keeps.lit ?_ rfl rfl rfl rfl ?_ ?_ ?_ ?_ ?_ ?_ ?_ ?_
    | exact Nat.le_refl _
    | exact Nat.le_succ _
    | exact List.prefix_rfl
    | exact List.prefix_append _ _

theorem State.sfuStep_keeps {s0 : State} {s : State} {k : Nat} (h : Keeps s0 s) : OKeeps s0 (State.sfuStep s k) := by
  unfold State.sfuStep
  repeat' first
    | with_reducible exact h
    | with_reducible assumption
    | intro _
    | with_reducible apply State.setClove_keeps
    | with_reducible apply State.modClove_keeps
    | with_reducible apply State.dropOwner_keeps
    | with_reducible apply State.endRead_keeps
    | with_reducible apply State.putSfu_keeps
    | with_reducible apply State.sfuRow_keeps
    | with_reducible apply State.sfuRead_keeps
    | with_reducible apply OKeeps.none
    | with_reducible apply OKeeps.some
    | with_reducible apply OKeeps.map
    | with_reducible refine OKeeps2.get (by assumption) ?_
    | with_reducible refine OKeeps2.getP (by assumption) ?_
    | with_reducible refine Keeps.thd (by assumption) ?_
    | with_reducible refine Keeps.snd (by assumption) ?_
    | with_reducible refine Keeps.fst (by assumption) ?_
    | with_reducible apply OKeeps.iteD
    | with_reducible apply Keeps.iteD
    | split
    | extract_lets
    | (dsimp +zetaDelta only)
    | with_reducible refine Keeps.lit ?_ rfl rfl rfl rfl (by first | exact Nat.le_refl _ | exact Nat.le_succ _) (by first | exact Nat.le_refl _ | exact Nat.le_succ _) (by first | exact List.prefix_rfl | exact List.prefix_append _ _) (by first | exact List.prefix_rfl | exact List.prefix_append _ _) (by first | exact List.prefix_rfl | exact List.prefix_append _ _) (by first | exact List.prefix_rfl | exact List.prefix_append _ _) (by first | exact List.prefix_rfl | exact List.prefix_append _ _) (by first | exact List.prefix_rfl | exact List.prefix_append _ _)

theorem State.sfuRun_keeps {s0 : State} (n : Nat) : ∀ {s : State} {k : Nat}, Keeps s0 s → Keeps s0 (State.sfuRun s k n) := by
  induction n with
  | zero =>
    intro s k h
    unfold State.sfuRun
    repeat' first
      | with_reducible first | exact h | apply State.sfuStep_keeps | refine OKeeps.get (by assumption) ?_
          | refine Keeps.thd (by assumption) ?_ | refine Keeps.snd (by assumption) ?_
          | refine Keeps.fst (by assumption) ?_
      | intro _
      | split
      | (dsimp only)
      | with_reducible refine Keeps.lit ?_ rfl rfl rfl rfl ?_ ?_ ?_ ?_ ?_ ?_ ?_ ?_
      | exact Nat.le_refl _
      | exact Nat.le_succ _
      | exact List.prefix_rfl
      | exact List.prefix_append _ _
  | succ n ih =>
    intro s k h
    unfold State.sfuRun
    repeat' first
      | with_reducible first | exact h | apply ih | apply State.sfuStep_keeps | refine OKeeps.get (by assumption) ?_
          | refine Keeps.thd (by assumption) ?_ | refine Keeps.snd (by assumption) ?_
          | refine Keeps.fst (by assumption) ?_
      | intro _
      | split
      | (dsimp only)
      | with_reducible refine Keeps.lit ?_ rfl rfl rfl rfl ?_ ?_ ?_ ?_ ?_ ?_ ?_ ?_
      | exact Nat.le_refl _
      | exact Nat.le_succ _
      | exact List.prefix_rfl
      | exact List.prefix_append _ _

end Sys2Proof.Machine
end

