-- ==== Sys2Proof/Laws/KeepsScratch.lean ====
section
/-! SUPPORT. What the operations of Machine/Scratch.lean keep (Keeps). -/
namespace Sys2Proof.Machine

theorem State.send_keeps {s0 : State} {s : State} {m : Msg} (h : Keeps s0 s) : Keeps s0 (State.send s m) := by
  unfold State.send
  repeat' first
    | with_reducible first | exact h | assumption
    | intro _
    | split
    | (dsimp only)
    | with_reducible refine Keeps.lit ?_ rfl rfl rfl rfl ?_ ?_ ?_ ?_ ?_ ?_ ?_ ?_
    | exact Nat.le_refl _
    | exact Nat.le_succ _
    | exact List.prefix_rfl
    | exact List.prefix_append _ _

theorem State.takeMsg_keeps {s0 : State} {s : State} {f : Msg → Bool} (h : Keeps s0 s) : OKeeps2 s0 (State.takeMsg s f) := by
  unfold State.takeMsg
  repeat' first
    | with_reducible first | exact h | assumption | apply OKeeps2.none | apply OKeeps2.some
          | refine Keeps.thd (by assumption) ?_ | refine Keeps.snd (by assumption) ?_
          | refine Keeps.fst (by assumption) ?_
    | intro _
    | split
    | (dsimp only)
    | with_reducible refine Keeps.lit ?_ rfl rfl rfl rfl ?_ ?_ ?_ ?_ ?_ ?_ ?_ ?_
    | exact Nat.le_refl _
    | exact Nat.le_succ _
    | exact List.prefix_rfl
    | exact List.prefix_append _ _

theorem State.sendUnbind_keeps {s0 : State} {s : State} {k rn : Nat} (h : Keeps s0 s) : Keeps s0 (State.sendUnbind s k rn) := by
  unfold State.sendUnbind
  repeat' first
    | with_reducible first | exact h | assumption | apply State.modClove_keeps | apply State.send_keeps
    | intro _
    | split
    | (dsimp only)
    | with_reducible refine Keeps.lit ?_ rfl rfl rfl rfl ?_ ?_ ?_ ?_ ?_ ?_ ?_ ?_
    | exact Nat.le_refl _
    | exact Nat.le_succ _
    | exact List.prefix_rfl
    | exact List.prefix_append _ _

theorem State.setRgn_keeps {s0 : State} {s : State} {k : Nat} {o : RgnOp} (h : Keeps s0 s) : Keeps s0 (State.setRgn s k o) := by
  unfold State.setRgn
  repeat' first
    | with_reducible first | exact h | assumption | apply State.modClove_keeps | apply State.send_keeps
    | intro _
    | split
    | (dsimp only)
    | with_reducible refine Keeps.lit ?_ rfl rfl rfl rfl ?_ ?_ ?_ ?_ ?_ ?_ ?_ ?_
    | exact Nat.le_refl _
    | exact Nat.le_succ _
    | exact List.prefix_rfl
    | exact List.prefix_append _ _

theorem State.tryRgn_keeps {s0 : State} {s : State} {no k v : Nat} {i : Issue} (h : Keeps s0 s) : Keeps s0 (State.tryRgn s no k v i).1 := by
  unfold State.tryRgn
  repeat' first
    | with_reducible first | exact h | assumption | apply State.refuse_keeps | apply State.sendUnbind_keeps
          | apply State.setRgn_keeps | apply State.putRegion_keeps | refine Keeps.thd (by assumption) ?_
          | refine Keeps.snd (by assumption) ?_ | refine Keeps.fst (by assumption) ?_
    | intro _
    | split
    | (dsimp only)
    | with_reducible refine Keeps.lit ?_ rfl rfl rfl rfl ?_ ?_ ?_ ?_ ?_ ?_ ?_ ?_
    | exact Nat.le_refl _
    | exact Nat.le_succ _
    | exact List.prefix_rfl
    | exact List.prefix_append _ _

theorem State.tryRemote_keeps {s0 : State} {s : State} {no k v : Nat} {i : Issue} (h : Keeps s0 s) : OKeeps s0 (State.tryRemote s no k v i) := by
  unfold State.tryRemote
  repeat' first
    | with_reducible first | exact h | assumption | apply State.refuse_keeps | apply State.modClove_keeps
          | apply State.send_keeps | apply State.touchN_keeps | apply OKeeps.none | apply OKeeps.some
          | refine Keeps.thd (by assumption) ?_ | refine Keeps.snd (by assumption) ?_
          | refine Keeps.fst (by assumption) ?_
    | intro _
    | split
    | (dsimp only)
    | with_reducible refine Keeps.lit ?_ rfl rfl rfl rfl ?_ ?_ ?_ ?_ ?_ ?_ ?_ ?_
    | exact Nat.le_refl _
    | exact Nat.le_succ _
    | exact List.prefix_rfl
    | exact List.prefix_append _ _

theorem State.arriveWrite_keeps {s0 : State} {s : State} {src dst a : Nat} {ws : List (W64 × Bool)} (h : Keeps s0 s) : OKeeps s0 (State.arriveWrite s src dst a ws) := by
  unfold State.arriveWrite
  repeat' first
    | with_reducible first | exact h | assumption | apply State.setClove_keeps | apply State.send_keeps
          | apply OKeeps.none | apply OKeeps.some
    | intro _
    | split
    | (dsimp only)

theorem State.arriveSlot_keeps {s0 : State} {s : State} {src dst rn ch : Nat} {ws : List (W64 × Bool)} (h : Keeps s0 s) : Keeps s0 (State.arriveSlot s src dst rn ch ws) := by
  unfold State.arriveSlot
  repeat' first
    | with_reducible first | exact h | assumption | apply State.cloveEvent_keeps | apply State.send_keeps
          | apply State.setClove_keeps
    | intro _
    | split
    | (dsimp only)
    | with_reducible refine Keeps.lit ?_ rfl rfl rfl rfl ?_ ?_ ?_ ?_ ?_ ?_ ?_ ?_
    | exact Nat.le_refl _
    | exact Nat.le_succ _
    | exact List.prefix_rfl
    | exact List.prefix_append _ _

theorem State.failAccess_keeps {s0 : State} {s : State} {src : Nat} {m : Msg} (h : Keeps s0 s) : Keeps s0 (State.failAccess s src m) := by
  unfold State.failAccess
  repeat' first
    | with_reducible first | exact h | assumption | apply State.cloveEvent_keeps | apply State.modClove_keeps
          | refine Keeps.thd (by assumption) ?_ | refine Keeps.snd (by assumption) ?_
          | refine Keeps.fst (by assumption) ?_
    | intro _
    | split
    | (dsimp only)
    | with_reducible refine Keeps.lit ?_ rfl rfl rfl rfl ?_ ?_ ?_ ?_ ?_ ?_ ?_ ?_
    | exact Nat.le_refl _
    | exact Nat.le_succ _
    | exact List.prefix_rfl
    | exact List.prefix_append _ _

theorem State.arriveAccess_keeps {s0 : State} {s : State} {src dst : Nat} (h : Keeps s0 s) : Keeps s0 (State.arriveAccess s src dst) := by
  unfold State.arriveAccess
  repeat' first
    | with_reducible first | exact h | assumption | apply State.takeMsg_keeps | apply State.failAccess_keeps
          | apply State.arriveWrite_keeps | apply State.touchN_keeps | apply State.send_keeps
          | apply State.arriveSlot_keeps | apply OKeeps.getD | refine OKeeps.get (by assumption) ?_
          | refine OKeeps2.get (by assumption) ?_ | refine OKeeps2.getP (by assumption) ?_
          | refine Keeps.thd (by assumption) ?_ | refine Keeps.snd (by assumption) ?_
          | refine Keeps.fst (by assumption) ?_
    | intro _
    | split
    | (dsimp only)
    | with_reducible refine Keeps.lit ?_ rfl rfl rfl rfl ?_ ?_ ?_ ?_ ?_ ?_ ?_ ?_
    | exact Nat.le_refl _
    | exact Nat.le_succ _
    | exact List.prefix_rfl
    | exact List.prefix_append _ _

theorem State.arriveAck_keeps {s0 : State} {s : State} {src dst : Nat} (h : Keeps s0 s) : Keeps s0 (State.arriveAck s src dst) := by
  unfold State.arriveAck
  repeat' first
    | with_reducible first | exact h | assumption | apply State.cloveEvent_keeps | apply State.modClove_keeps
          | apply State.takeMsg_keeps | refine OKeeps2.get (by assumption) ?_
          | refine OKeeps2.getP (by assumption) ?_ | refine Keeps.thd (by assumption) ?_
          | refine Keeps.snd (by assumption) ?_ | refine Keeps.fst (by assumption) ?_
    | intro _
    | split
    | (dsimp only)
    | with_reducible refine Keeps.lit ?_ rfl rfl rfl rfl ?_ ?_ ?_ ?_ ?_ ?_ ?_ ?_
    | exact Nat.le_refl _
    | exact Nat.le_succ _
    | exact List.prefix_rfl
    | exact List.prefix_append _ _

theorem State.bindFault_keeps {s0 : State} {s : State} {k rn : Nat} (h : Keeps s0 s) : Keeps s0 (State.bindFault s k rn) := by
  unfold State.bindFault
  repeat' first
    | with_reducible first | exact h | assumption | apply State.cloveEvent_keeps | apply State.modClove_keeps
    | intro _
    | split
    | (dsimp only)
    | with_reducible refine Keeps.lit ?_ rfl rfl rfl rfl ?_ ?_ ?_ ?_ ?_ ?_ ?_ ?_
    | exact Nat.le_refl _
    | exact Nat.le_succ _
    | exact List.prefix_rfl
    | exact List.prefix_append _ _

theorem State.grantQueue_keeps {s0 : State} {s : State} {k p j rn slotw n : Nat} (h : Keeps s0 s) : Keeps s0 (State.grantQueue s k p j rn slotw n) := by
  unfold State.grantQueue
  repeat' first
    | with_reducible first | exact h | assumption | apply State.bindFault_keeps | apply State.modQueue_keeps
          | refine Keeps.thd (by assumption) ?_ | refine Keeps.snd (by assumption) ?_
          | refine Keeps.fst (by assumption) ?_
    | intro _
    | split
    | (dsimp only)
    | with_reducible refine Keeps.lit ?_ rfl rfl rfl rfl ?_ ?_ ?_ ?_ ?_ ?_ ?_ ?_
    | exact Nat.le_refl _
    | exact Nat.le_succ _
    | exact List.prefix_rfl
    | exact List.prefix_append _ _

theorem State.arriveGrant_keeps {s0 : State} {s : State} {src dst : Nat} (h : Keeps s0 s) : Keeps s0 (State.arriveGrant s src dst) := by
  unfold State.arriveGrant
  repeat' first
    | with_reducible first | exact h | assumption | apply State.modClove_keeps | apply State.takeMsg_keeps
          | apply State.bindFault_keeps | apply State.grantQueue_keeps | refine OKeeps2.get (by assumption) ?_
          | refine OKeeps2.getP (by assumption) ?_ | refine Keeps.thd (by assumption) ?_
          | refine Keeps.snd (by assumption) ?_ | refine Keeps.fst (by assumption) ?_
    | intro _
    | split
    | (dsimp only)
    | with_reducible refine Keeps.lit ?_ rfl rfl rfl rfl ?_ ?_ ?_ ?_ ?_ ?_ ?_ ?_
    | exact Nat.le_refl _
    | exact Nat.le_succ _
    | exact List.prefix_rfl
    | exact List.prefix_append _ _

theorem State.arriveCredit_keeps {s0 : State} {s : State} {src dst : Nat} (h : Keeps s0 s) : Keeps s0 (State.arriveCredit s src dst) := by
  unfold State.arriveCredit
  repeat' first
    | with_reducible first | exact h | assumption | apply State.modClove_keeps | apply State.modQueue_keeps
          | apply State.takeMsg_keeps | refine OKeeps2.get (by assumption) ?_
          | refine OKeeps2.getP (by assumption) ?_ | refine Keeps.thd (by assumption) ?_
          | refine Keeps.snd (by assumption) ?_ | refine Keeps.fst (by assumption) ?_
    | intro _
    | split
    | (dsimp only)
    | with_reducible refine Keeps.lit ?_ rfl rfl rfl rfl ?_ ?_ ?_ ?_ ?_ ?_ ?_ ?_
    | exact Nat.le_refl _
    | exact Nat.le_succ _
    | exact List.prefix_rfl
    | exact List.prefix_append _ _

theorem State.arriveUnbind_keeps {s0 : State} {s : State} {src dst : Nat} (h : Keeps s0 s) : Keeps s0 (State.arriveUnbind s src dst) := by
  unfold State.arriveUnbind
  repeat' first
    | with_reducible first | exact h | assumption | apply State.takeMsg_keeps | apply State.modClove_keeps
          | apply State.store_keeps | apply State.modQueue_keeps | refine OKeeps2.get (by assumption) ?_
          | refine OKeeps2.getP (by assumption) ?_ | refine Keeps.thd (by assumption) ?_
          | refine Keeps.snd (by assumption) ?_ | refine Keeps.fst (by assumption) ?_
    | intro _
    | split
    | (dsimp only)
    | with_reducible refine Keeps.lit ?_ rfl rfl rfl rfl ?_ ?_ ?_ ?_ ?_ ?_ ?_ ?_
    | exact Nat.le_refl _
    | exact Nat.le_succ _
    | exact List.prefix_rfl
    | exact List.prefix_append _ _

theorem State.sweepNext_keeps {s0 : State} {s : State} {k : Nat} (h : Keeps s0 s) : Keeps s0 (State.sweepNext s k) := by
  unfold State.sweepNext
  repeat' first
    | with_reducible first | exact h | assumption | apply State.setFld_keeps | apply State.setClove_keeps
    | intro _
    | split
    | (dsimp only)
    | with_reducible refine Keeps.lit ?_ rfl rfl rfl rfl ?_ ?_ ?_ ?_ ?_ ?_ ?_ ?_
    | exact Nat.le_refl _
    | exact Nat.le_succ _
    | exact List.prefix_rfl
    | exact List.prefix_append _ _

theorem State.scrub_keeps {s0 : State} {s : State} {k found : Nat} (h : Keeps s0 s) : Keeps s0 (State.scrub s k found) := by
  unfold State.scrub
  repeat' first
    | with_reducible first | exact h | assumption | apply State.setClove_keeps | apply State.touch_keeps
          | apply State.modClove_keeps | apply State.sweepNext_keeps
    | intro _
    | split
    | (dsimp only)
    | with_reducible refine Keeps.lit ?_ rfl rfl rfl rfl ?_ ?_ ?_ ?_ ?_ ?_ ?_ ?_
    | exact Nat.le_refl _
    | exact Nat.le_succ _
    | exact List.prefix_rfl
    | exact List.prefix_append _ _

theorem State.writeback_keeps {s0 : State} {s : State} {k : Nat} (h : Keeps s0 s) : Keeps s0 (State.writeback s k) := by
  unfold State.writeback
  repeat' first
    | with_reducible first | exact h | assumption | apply State.modClove_keeps | refine Keeps.thd (by assumption) ?_
          | refine Keeps.snd (by assumption) ?_ | refine Keeps.fst (by assumption) ?_
    | intro _
    | split
    | (dsimp only)
    | with_reducible refine Keeps.lit ?_ rfl rfl rfl rfl ?_ ?_ ?_ ?_ ?_ ?_ ?_ ?_
    | exact Nat.le_refl _
    | exact Nat.le_succ _
    | exact List.prefix_rfl
    | exact List.prefix_append _ _

end Sys2Proof.Machine
end

