-- ==== Sys2Proof/Laws/KeepsFlows.lean ====
section
/-! SUPPORT. What the operations of Machine/Flows.lean keep (Keeps). -/
namespace Sys2Proof.Machine

theorem State.discard_keeps {s0 : State} {s : State} {port : Nat} (h : Keeps s0 s) : Keeps s0 (State.discard s port) := by
  unfold State.discard
  repeat' first
    | with_reducible first | exact h | assumption | apply State.addFld_keeps
    | intro _
    | split
    | (dsimp only)

theorem State.transmit_keeps {s0 : State} {s : State} {f : TxFrame} (h : Keeps s0 s) : Keeps s0 (State.transmit s f) := by
  unfold State.transmit
  repeat' first
    | with_reducible first | exact h | assumption
    | intro _
    | split
    | (dsimp only)
    | with_reducible refine Keeps.lit ?_ rfl rfl rfl rfl ?_ ?_ ?_ ?_ ?_ ?_ ?_ ?_
    | exact Nat.le_refl _
    | exact Nat.le_succ _
    | exact List.prefix_rfl
    | exact List.prefix_append _ _

theorem State.broadcast_keeps {s0 : State} {s : State} {type id : Nat} (h : Keeps s0 s) : Keeps s0 (State.broadcast s type id) := by
  unfold State.broadcast
  repeat' first
    | with_reducible first | exact h | assumption | apply State.transmit_keeps | apply Keeps.fold | apply Keeps.fold1
          | apply Keeps.fold2
    | intro _
    | split
    | (dsimp only)
    | with_reducible refine Keeps.lit ?_ rfl rfl rfl rfl ?_ ?_ ?_ ?_ ?_ ?_ ?_ ?_
    | exact Nat.le_refl _
    | exact Nat.le_succ _
    | exact List.prefix_rfl
    | exact List.prefix_append _ _

theorem State.setOut_keeps {s0 : State} {s : State} {k : Nat} {f : OutFlow} (h : Keeps s0 s) : Keeps s0 (State.setOut s k f) := by
  unfold State.setOut
  repeat' first
    | with_reducible first | exact h | assumption
    | intro _
    | split
    | (dsimp only)
    | with_reducible refine Keeps.lit ?_ rfl rfl rfl rfl ?_ ?_ ?_ ?_ ?_ ?_ ?_ ?_
    | exact Nat.le_refl _
    | exact Nat.le_succ _
    | exact List.prefix_rfl
    | exact List.prefix_append _ _

theorem State.openFlow_keeps {s0 : State} {s : State} {p dnode dpart : Nat} (h : Keeps s0 s) : Keeps s0 (State.openFlow s p dnode dpart).2 := by
  unfold State.openFlow
  repeat' first
    | with_reducible first | exact h | assumption | apply State.setOut_keeps
    | intro _
    | split
    | (dsimp only)
    | with_reducible refine Keeps.lit ?_ rfl rfl rfl rfl ?_ ?_ ?_ ?_ ?_ ?_ ?_ ?_
    | exact Nat.le_refl _
    | exact Nat.le_succ _
    | exact List.prefix_rfl
    | exact List.prefix_append _ _

theorem State.sendFrame_keeps {s0 : State} {s : State} {f : OutFlow} {m : OutMsg} {port : Nat} (h : Keeps s0 s) : Keeps s0 (State.sendFrame s f m port) := by
  unfold State.sendFrame
  repeat' first
    | with_reducible first | exact h | assumption | apply State.transmit_keeps
    | intro _
    | split
    | (dsimp only)
    | with_reducible refine Keeps.lit ?_ rfl rfl rfl rfl ?_ ?_ ?_ ?_ ?_ ?_ ?_ ?_
    | exact Nat.le_refl _
    | exact Nat.le_succ _
    | exact List.prefix_rfl
    | exact List.prefix_append _ _

theorem State.pump_keeps {s0 : State} (n : Nat) : ∀ {s : State} {k : Nat}, Keeps s0 s → Keeps s0 (State.pump s k n) := by
  induction n with
  | zero =>
    intro s k h
    unfold State.pump
    repeat' first
      | with_reducible first | exact h | apply State.setOut_keeps | apply State.sendFrame_keeps
          | refine Keeps.thd (by assumption) ?_ | refine Keeps.snd (by assumption) ?_
          | refine Keeps.fst (by assumption) ?_
      | intro _
      | split
      | (dsimp only)
      | with_reducible refine Keeps.lit ?_ rfl rfl rfl rfl ?_ ?_ ?_ ?_ ?_ ?_ ?_ ?_
      | exact Nat.le_refl _
      | exact Nat.le_succ _
      | exact List.prefix_rfl
      | exact List.prefix_append _ _
  | succ n ih =>
    intro s k h
    unfold State.pump
    repeat' first
      | with_reducible first | exact h | apply ih | apply State.setOut_keeps | apply State.sendFrame_keeps
          | refine Keeps.thd (by assumption) ?_ | refine Keeps.snd (by assumption) ?_
          | refine Keeps.fst (by assumption) ?_
      | intro _
      | split
      | (dsimp only)
      | with_reducible refine Keeps.lit ?_ rfl rfl rfl rfl ?_ ?_ ?_ ?_ ?_ ?_ ?_ ?_
      | exact Nat.le_refl _
      | exact Nat.le_succ _
      | exact List.prefix_rfl
      | exact List.prefix_append _ _

theorem State.sendMsg_keeps {s0 : State} {s : State} {p dnode dpart type : Nat} {body : List Byte} {marks : List Bool} (h : Keeps s0 s) : Keeps s0 (State.sendMsg s p dnode dpart type body marks).2 := by
  unfold State.sendMsg
  repeat' first
    | with_reducible first | exact h | assumption | apply State.setOut_keeps | apply State.pump_keeps
          | apply State.openFlow_keeps | apply OKeeps2.none | apply OKeeps2.some | refine Keeps.thd (by assumption) ?_
          | refine Keeps.snd (by assumption) ?_ | refine Keeps.fst (by assumption) ?_
    | intro _
    | split
    | (dsimp only)
    | with_reducible refine Keeps.lit ?_ rfl rfl rfl rfl ?_ ?_ ?_ ?_ ?_ ?_ ?_ ?_
    | exact Nat.le_refl _
    | exact Nat.le_succ _
    | exact List.prefix_rfl
    | exact List.prefix_append _ _

theorem State.drainWaiting_keeps {s0 : State} (n : Nat) : ∀ {s : State}, Keeps s0 s → Keeps s0 (State.drainWaiting s n) := by
  induction n with
  | zero =>
    intro s h
    unfold State.drainWaiting
    repeat' first
      | with_reducible first | exact h | apply State.sendMsg_keeps | refine Keeps.thd (by assumption) ?_
          | refine Keeps.snd (by assumption) ?_ | refine Keeps.fst (by assumption) ?_
      | intro _
      | split
      | (dsimp only)
      | with_reducible refine Keeps.lit ?_ rfl rfl rfl rfl ?_ ?_ ?_ ?_ ?_ ?_ ?_ ?_
      | exact Nat.le_refl _
      | exact Nat.le_succ _
      | exact List.prefix_rfl
      | exact List.prefix_append _ _
  | succ n ih =>
    intro s h
    unfold State.drainWaiting
    repeat' first
      | with_reducible first | exact h | apply ih | apply State.sendMsg_keeps | refine Keeps.thd (by assumption) ?_
          | refine Keeps.snd (by assumption) ?_ | refine Keeps.fst (by assumption) ?_
      | intro _
      | split
      | (dsimp only)
      | with_reducible refine Keeps.lit ?_ rfl rfl rfl rfl ?_ ?_ ?_ ?_ ?_ ?_ ?_ ?_
      | exact Nat.le_refl _
      | exact Nat.le_succ _
      | exact List.prefix_rfl
      | exact List.prefix_append _ _

theorem State.pumpAll_keeps {s0 : State} {s : State} (h : Keeps s0 s) : Keeps s0 (State.pumpAll s) := by
  unfold State.pumpAll
  repeat' first
    | with_reducible first | exact h | assumption | apply State.pump_keeps | apply State.drainWaiting_keeps
          | apply Keeps.fold | apply Keeps.fold1 | apply Keeps.fold2
    | intro _
    | split
    | (dsimp only)

theorem State.resend_keeps {s0 : State} {s : State} {k : Nat} {psn : Nat} (h : Keeps s0 s) : Keeps s0 (State.resend s k psn) := by
  unfold State.resend
  repeat' first
    | with_reducible first | exact h | assumption | apply State.addFld_keeps | apply State.setOut_keeps
          | apply State.sendFrame_keeps | refine Keeps.thd (by assumption) ?_
          | refine Keeps.snd (by assumption) ?_ | refine Keeps.fst (by assumption) ?_
    | intro _
    | split
    | (dsimp only)
    | with_reducible refine Keeps.lit ?_ rfl rfl rfl rfl ?_ ?_ ?_ ?_ ?_ ?_ ?_ ?_
    | exact Nat.le_refl _
    | exact Nat.le_succ _
    | exact List.prefix_rfl
    | exact List.prefix_append _ _

theorem State.ackFlow_keeps {s0 : State} {s : State} {k apsn credit : Nat} {bm : List Byte} (h : Keeps s0 s) : Keeps s0 (State.ackFlow s k apsn credit bm) := by
  unfold State.ackFlow
  repeat' first
    | with_reducible first | exact h | assumption | apply State.credit_keeps | apply State.setOut_keeps
          | apply State.pump_keeps | apply State.resend_keeps | apply Keeps.fold | apply Keeps.fold1
          | apply Keeps.fold2 | refine Keeps.thd (by assumption) ?_ | refine Keeps.snd (by assumption) ?_
          | refine Keeps.fst (by assumption) ?_
    | intro _
    | split
    | (dsimp only)
    | with_reducible refine Keeps.lit ?_ rfl rfl rfl rfl ?_ ?_ ?_ ?_ ?_ ?_ ?_ ?_
    | exact Nat.le_refl _
    | exact Nat.le_succ _
    | exact List.prefix_rfl
    | exact List.prefix_append _ _

theorem State.setIn_keeps {s0 : State} {s : State} {k : Nat} {f : InFlow} (h : Keeps s0 s) : Keeps s0 (State.setIn s k f) := by
  unfold State.setIn
  repeat' first
    | with_reducible first | exact h | assumption
    | intro _
    | split
    | (dsimp only)
    | with_reducible refine Keeps.lit ?_ rfl rfl rfl rfl ?_ ?_ ?_ ?_ ?_ ?_ ?_ ?_
    | exact Nat.le_refl _
    | exact Nat.le_succ _
    | exact List.prefix_rfl
    | exact List.prefix_append _ _

theorem State.receive_keeps {s0 : State} {s : State} {type : Nat} {f : Frame} (h : Keeps s0 s) : Keeps s0 (State.receive s type f).2 := by
  unfold State.receive
  repeat' first
    | with_reducible first | exact h | assumption | apply State.discard_keeps | apply State.setIn_keeps
          | refine Keeps.thd (by assumption) ?_ | refine Keeps.snd (by assumption) ?_
          | refine Keeps.fst (by assumption) ?_
    | intro _
    | split
    | (dsimp only)
    | with_reducible refine Keeps.lit ?_ rfl rfl rfl rfl ?_ ?_ ?_ ?_ ?_ ?_ ?_ ?_
    | exact Nat.le_refl _
    | exact Nat.le_succ _
    | exact List.prefix_rfl
    | exact List.prefix_append _ _

theorem State.sendAck_keeps {s0 : State} {s : State} {k limit : Nat} (h : Keeps s0 s) : Keeps s0 (State.sendAck s k limit) := by
  unfold State.sendAck
  repeat' first
    | with_reducible first | exact h | assumption | apply State.transmit_keeps | apply State.setIn_keeps
          | apply Keeps.fold | apply Keeps.fold1 | apply Keeps.fold2 | refine Keeps.thd (by assumption) ?_
          | refine Keeps.snd (by assumption) ?_ | refine Keeps.fst (by assumption) ?_
    | intro _
    | split
    | (dsimp only)
    | with_reducible refine Keeps.lit ?_ rfl rfl rfl rfl ?_ ?_ ?_ ?_ ?_ ?_ ?_ ?_
    | exact Nat.le_refl _
    | exact Nat.le_succ _
    | exact List.prefix_rfl
    | exact List.prefix_append _ _

end Sys2Proof.Machine
end

