-- ==== Sys2Proof/Laws/KeepsFabric.lean ====
section
/-! SUPPORT. What the operations of Machine/Fabric.lean keep (Keeps). -/
namespace Sys2Proof.Machine

theorem State.post_keeps {s0 : State} {s : State} {p j : Nat} {t : Transfer} (h : Keeps s0 s) : Keeps s0 (State.post s p j t) := by
  unfold State.post
  repeat' first
    | with_reducible first | exact h | assumption | apply State.modQueue_keeps | apply Keeps.fold | apply Keeps.fold1
          | apply Keeps.fold2
    | intro _
    | split
    | (dsimp only)
    | with_reducible refine Keeps.lit ?_ rfl rfl rfl rfl ?_ ?_ ?_ ?_ ?_ ?_ ?_ ?_
    | exact Nat.le_refl _
    | exact Nat.le_succ _
    | exact List.prefix_rfl
    | exact List.prefix_append _ _

theorem State.tryFabric_keeps {s0 : State} {s : State} {no k v : Nat} {i : Issue} (h : Keeps s0 s) : OKeeps s0 (State.tryFabric s no k v i) := by
  unfold State.tryFabric
  extract_lets o p j q a t c q0 x b u
  have T : Keeps s0 t := State.touchN_keeps 4 h
  have U : Keeps s0 u := State.modClove_keeps h
  clear_value u b x q0 c t q
  refine OKeeps.iteD (fun _ => .some (State.refuse_keeps h)) fun _ => ?_
  split
  · refine OKeeps.iteD (fun _ => .some (State.refuse_keeps T)) fun _ => ?_
    refine OKeeps.iteD (fun _ => .some (State.refuse_keeps T)) fun _ => ?_
    exact OKeeps.iteD (fun _ => .none) fun _ => .some (State.modQueue_keeps T)
  · refine OKeeps.iteD (fun _ => .some (State.refuse_keeps T)) fun _ => ?_
    refine OKeeps.iteD (fun _ => .some (State.refuse_keeps T)) fun _ => ?_
    refine OKeeps.iteD (fun _ => .some (State.refuse_keeps T)) fun _ => ?_
    refine OKeeps.iteD (fun _ => .some (State.refuse_keeps T)) fun _ => ?_
    exact OKeeps.iteD (fun _ => .none) fun _ => .some (State.post_keeps T)
  · exact OKeeps.iteD (fun _ => .some (State.refuse_keeps h)) fun _ => .some (State.modClove_keeps h)
  · refine OKeeps.iteD (fun _ => .some (State.refuse_keeps h)) fun _ => ?_
    refine OKeeps.iteD (fun _ => .some (State.modClove_keeps U)) fun _ => ?_
    exact OKeeps.iteD (fun _ => .some (State.send_keeps U)) fun _ => .some U

theorem State.releaseFence_keeps {s0 : State} {s : State} {k : Nat} (h : Keeps s0 s) : Keeps s0 (State.releaseFence s k) := by
  unfold State.releaseFence
  repeat' first
    | with_reducible first | exact h | assumption | apply State.setClove_keeps | apply State.send_keeps
          | refine Keeps.thd (by assumption) ?_ | refine Keeps.snd (by assumption) ?_
          | refine Keeps.fst (by assumption) ?_
    | intro _
    | split
    | (dsimp only)
    | with_reducible refine Keeps.lit ?_ rfl rfl rfl rfl ?_ ?_ ?_ ?_ ?_ ?_ ?_ ?_
    | exact Nat.le_refl _
    | exact Nat.le_succ _
    | exact List.prefix_rfl
    | exact List.prefix_append _ _

theorem State.setBarrier_keeps {s0 : State} {s : State} {p b : Nat} {v : Barrier} (h : Keeps s0 s) : Keeps s0 (State.setBarrier s p b v) := by
  unfold State.setBarrier
  repeat' first
    | with_reducible first | exact h | assumption | apply State.modPart_keeps
    | intro _
    | split
    | (dsimp only)
    | with_reducible refine Keeps.lit ?_ rfl rfl rfl rfl ?_ ?_ ?_ ?_ ?_ ?_ ?_ ?_
    | exact Nat.le_refl _
    | exact Nat.le_succ _
    | exact List.prefix_rfl
    | exact List.prefix_append _ _

theorem State.releaseWaiters_keeps {s0 : State} {s : State} {p b phase : Nat} (h : Keeps s0 s) : Keeps s0 (State.releaseWaiters s p b phase) := by
  unfold State.releaseWaiters
  repeat' first
    | with_reducible first | exact h | assumption
    | intro _
    | split
    | (dsimp only)
    | with_reducible refine Keeps.lit ?_ rfl rfl rfl rfl ?_ ?_ ?_ ?_ ?_ ?_ ?_ ?_
    | exact Nat.le_refl _
    | exact Nat.le_succ _
    | exact List.prefix_rfl
    | exact List.prefix_append _ _

theorem State.countArrival_keeps {s0 : State} {s : State} {p b k n : Nat} {w : Bool} (h : Keeps s0 s) : Keeps s0 (State.countArrival s p b k n w) := by
  unfold State.countArrival
  extract_lets v hold
  have H : ∀ u, Keeps s0 u → Keeps s0 (hold u) := fun u g => Keeps.iteD (fun _ => State.modClove_keeps g) fun _ => g
  clear_value hold v
  refine Keeps.iteD (fun _ => H _ h) fun _ => ?_
  refine Keeps.iteD (fun _ => H _ (State.cloveEvent_keeps h)) fun _ => ?_
  exact Keeps.iteD (fun _ => State.releaseWaiters_keeps (State.setBarrier_keeps h)) fun _ => H _ (State.setBarrier_keeps h)

theorem State.takeArrivals_keeps {s0 : State} {s : State} {p b : Nat} {srcs : List Nat} (h : Keeps s0 s) : Keeps s0 (State.takeArrivals s p b srcs).2 := by
  unfold State.takeArrivals
  refine Keeps.fold2 _ _ _ h fun a k g => ?_
  split
  · exact OKeeps2.get (by assumption) (State.takeMsg_keeps g)
  · exact g

theorem State.arriveBarrier_keeps {s0 : State} {s : State} {p b : Nat} {srcs : List Nat} (h : Keeps s0 s) : Keeps s0 (State.arriveBarrier s p b srcs) := by
  unfold State.arriveBarrier
  exact Keeps.fold _ _ _ (Keeps.fold _ _ _ (State.takeArrivals_keeps h) fun _ _ g => State.countArrival_keeps g)
    fun _ _ g => State.countArrival_keeps g

theorem State.enqueue_keeps {s0 : State} {s : State} {r : Req} (h : Keeps s0 s) : Keeps s0 (State.enqueue s r) := by
  unfold State.enqueue
  repeat' first
    | with_reducible first | exact h | assumption | apply State.modStack_keeps | refine Keeps.thd (by assumption) ?_
          | refine Keeps.snd (by assumption) ?_ | refine Keeps.fst (by assumption) ?_
    | intro _
    | split
    | (dsimp only)
    | with_reducible refine Keeps.lit ?_ rfl rfl rfl rfl ?_ ?_ ?_ ?_ ?_ ?_ ?_ ?_
    | exact Nat.le_refl _
    | exact Nat.le_succ _
    | exact List.prefix_rfl
    | exact List.prefix_append _ _

theorem State.tierSend_keeps {s0 : State} {s : State} {p kind node addr len tag rank : Nat} {store : Bool} {data : List (W64 × Bool)} (h : Keeps s0 s) : Keeps s0 (State.tierSend s p kind node addr len tag rank store data) := by
  unfold State.tierSend
  repeat' first
    | with_reducible first | exact h | assumption | apply State.store_keeps | apply State.sendMsg_keeps
          | apply State.hostWrite_keeps
    | intro _
    | split
    | (dsimp only)
    | with_reducible refine Keeps.lit ?_ rfl rfl rfl rfl ?_ ?_ ?_ ?_ ?_ ?_ ?_ ?_
    | exact Nat.le_refl _
    | exact Nat.le_succ _
    | exact List.prefix_rfl
    | exact List.prefix_append _ _

theorem State.tierIssue_keeps {s0 : State} {s : State} {r : Req} {t : Transfer} {data : List (W64 × Bool)} (h : Keeps s0 s) : Keeps s0 (State.tierIssue s r t data).2 := by
  unfold State.tierIssue
  repeat' first
    | with_reducible first | exact h | assumption | apply State.store_keeps | apply State.tierSend_keeps
          | refine Keeps.thd (by assumption) ?_ | refine Keeps.snd (by assumption) ?_
          | refine Keeps.fst (by assumption) ?_
    | intro _
    | split
    | (dsimp only)
    | with_reducible refine Keeps.lit ?_ rfl rfl rfl rfl ?_ ?_ ?_ ?_ ?_ ?_ ?_ ?_
    | exact Nat.le_refl _
    | exact Nat.le_succ _
    | exact List.prefix_rfl
    | exact List.prefix_append _ _

theorem State.putTransfer_keeps {s0 : State} {s : State} {p j : Nat} {t : Transfer} (h : Keeps s0 s) : Keeps s0 (State.putTransfer s p j t) := by
  unfold State.putTransfer
  repeat' first
    | with_reducible first | exact h | assumption | apply State.modQueue_keeps
    | intro _
    | split
    | (dsimp only)
    | with_reducible refine Keeps.lit ?_ rfl rfl rfl rfl ?_ ?_ ?_ ?_ ?_ ?_ ?_ ?_
    | exact Nat.le_refl _
    | exact Nat.le_succ _
    | exact List.prefix_rfl
    | exact List.prefix_append _ _

theorem State.issueLoad_keeps {s0 : State} {s : State} {p j arrival : Nat} {ctx : BitVec 256} {t : Transfer} (h : Keeps s0 s) : Keeps s0 (State.issueLoad s p j arrival ctx t) := by
  unfold State.issueLoad
  repeat' first
    | with_reducible first | exact h | assumption | apply State.modQueue_keeps | apply State.putTransfer_keeps
          | apply State.tierIssue_keeps | apply State.enqueue_keeps | apply Keeps.fold | apply Keeps.fold1
          | apply Keeps.fold2 | apply OKeeps.getD | refine Keeps.thd (by assumption) ?_
          | refine Keeps.snd (by assumption) ?_ | refine Keeps.fst (by assumption) ?_
    | intro _
    | split
    | (dsimp only)
    | with_reducible refine Keeps.lit ?_ rfl rfl rfl rfl ?_ ?_ ?_ ?_ ?_ ?_ ?_ ?_
    | exact Nat.le_refl _
    | exact Nat.le_succ _
    | exact List.prefix_rfl
    | exact List.prefix_append _ _

theorem State.takeStore_keeps {s0 : State} {s : State} {k rn n : Nat} {last : Bool} (h : Keeps s0 s) : Keeps s0 (State.takeStore s k rn n last).2 := by
  unfold State.takeStore
  repeat' first
    | with_reducible first | exact h | assumption | apply State.touchN_keeps | apply State.putRegion_keeps
    | intro _
    | split
    | (dsimp only)
    | with_reducible refine Keeps.lit ?_ rfl rfl rfl rfl ?_ ?_ ?_ ?_ ?_ ?_ ?_ ?_
    | exact Nat.le_refl _
    | exact Nat.le_succ _
    | exact List.prefix_rfl
    | exact List.prefix_append _ _

theorem State.issueStore_keeps {s0 : State} {s : State} {p j arrival : Nat} {ctx : BitVec 256} {t : Transfer} (h : Keeps s0 s) : Keeps s0 (State.issueStore s p j arrival ctx t) := by
  unfold State.issueStore
  repeat' first
    | with_reducible first | exact h | assumption | apply State.cloveEvent_keeps | apply State.modQueue_keeps
          | apply State.takeStore_keeps | apply State.putTransfer_keeps | apply State.tierIssue_keeps
          | apply State.enqueue_keeps | apply OKeeps.getD | refine Keeps.thd (by assumption) ?_
          | refine Keeps.snd (by assumption) ?_ | refine Keeps.fst (by assumption) ?_
    | intro _
    | split
    | (dsimp only)
    | with_reducible refine Keeps.lit ?_ rfl rfl rfl rfl ?_ ?_ ?_ ?_ ?_ ?_ ?_ ?_
    | exact Nat.le_refl _
    | exact Nat.le_succ _
    | exact List.prefix_rfl
    | exact List.prefix_append _ _

theorem State.issueReq_keeps {s0 : State} {s : State} {p j arrival : Nat} (h : Keeps s0 s) : Keeps s0 (State.issueReq s p j arrival) := by
  unfold State.issueReq
  repeat' first
    | with_reducible first | exact h | assumption | apply State.issueLoad_keeps | apply State.issueStore_keeps
          | refine Keeps.thd (by assumption) ?_ | refine Keeps.snd (by assumption) ?_
          | refine Keeps.fst (by assumption) ?_
    | intro _
    | split
    | (dsimp only)
    | with_reducible refine Keeps.lit ?_ rfl rfl rfl rfl ?_ ?_ ?_ ?_ ?_ ?_ ?_ ?_
    | exact Nat.le_refl _
    | exact Nat.le_succ _
    | exact List.prefix_rfl
    | exact List.prefix_append _ _

theorem State.reqDone_keeps {s0 : State} {s : State} {r : Req} (h : Keeps s0 s) : Keeps s0 (State.reqDone s r) := by
  unfold State.reqDone
  repeat' first
    | with_reducible first | exact h | assumption | apply State.modQueue_keeps
    | intro _
    | split
    | (dsimp only)
    | with_reducible refine Keeps.lit ?_ rfl rfl rfl rfl ?_ ?_ ?_ ?_ ?_ ?_ ?_ ?_
    | exact Nat.le_refl _
    | exact Nat.le_succ _
    | exact List.prefix_rfl
    | exact List.prefix_append _ _

theorem State.fillLanded_keeps {s0 : State} (n : Nat) : ∀ {s : State} {p j k : Nat}, Keeps s0 s → Keeps s0 (State.fillLanded s p j k n) := by
  induction n with
  | zero =>
    intro s p j k h
    unfold State.fillLanded
    repeat' first
      | with_reducible first | exact h | apply State.modClove_keeps | apply State.modQueue_keeps | apply OKeeps.getD
          | refine Keeps.thd (by assumption) ?_ | refine Keeps.snd (by assumption) ?_
          | refine Keeps.fst (by assumption) ?_
      | intro _
      | split
      | (dsimp only)
      | with_reducible refine Keeps.lit ?_ rfl rfl rfl rfl ?_ ?_ ?_ ?_ ?_ ?_ ?_ ?_
      | exact Nat.le_refl _
      | exact Nat.le_succ _
      | exact List.prefix_rfl
      | exact List.prefix_append _ _
  | succ n ih =>
    intro s p j k h
    unfold State.fillLanded
    repeat' first
      | with_reducible first | exact h | apply ih | apply State.modClove_keeps | apply State.modQueue_keeps
          | apply OKeeps.getD | refine Keeps.thd (by assumption) ?_ | refine Keeps.snd (by assumption) ?_
          | refine Keeps.fst (by assumption) ?_
      | intro _
      | split
      | (dsimp only)
      | with_reducible refine Keeps.lit ?_ rfl rfl rfl rfl ?_ ?_ ?_ ?_ ?_ ?_ ?_ ?_
      | exact Nat.le_refl _
      | exact Nat.le_succ _
      | exact List.prefix_rfl
      | exact List.prefix_append _ _

theorem State.land_keeps {s0 : State} {s : State} {p j : Nat} {r : Req} {k : Nat} (h : Keeps s0 s) : Keeps s0 (State.land s p j r k) := by
  unfold State.land
  split
  · exact State.fillLanded_keeps 256 (State.modQueue_keeps (State.modClove_keeps h))
  · exact h

theorem State.deliver_keeps {s0 : State} {s : State} {p j id : Nat} (h : Keeps s0 s) : Keeps s0 (State.deliver s p j id) := by
  unfold State.deliver
  repeat' first
    | with_reducible first | exact h | assumption | apply State.store_keeps | apply State.land_keeps
          | apply State.reqDone_keeps | apply State.modClove_keeps | apply State.fillLanded_keeps | apply Keeps.fold
          | apply Keeps.fold1 | apply Keeps.fold2 | refine Keeps.thd (by assumption) ?_
          | refine Keeps.snd (by assumption) ?_ | refine Keeps.fst (by assumption) ?_
    | intro _
    | split
    | (dsimp only)
    | with_reducible refine Keeps.lit ?_ rfl rfl rfl rfl ?_ ?_ ?_ ?_ ?_ ?_ ?_ ?_
    | exact Nat.le_refl _
    | exact Nat.le_succ _
    | exact List.prefix_rfl
    | exact List.prefix_append _ _

end Sys2Proof.Machine
end

