-- ==== Sys2Proof/Laws/KeepsLoopProg.lean ====
section
/-! SUPPORT. What the operations of Machine/LoopProg.lean keep (Keeps). -/
namespace Sys2Proof.Machine

theorem State.refuseTile_keeps {s0 : State} {s : State} {k : Nat} {v : Overflow} (h : Keeps s0 s) : Keeps s0 (State.refuseTile s k v) := by
  unfold State.refuseTile
  repeat' first
    | with_reducible first | exact h | assumption | apply State.cloveEventOn_keeps | apply State.modClove_keeps
    | intro _
    | split
    | (dsimp only)
    | with_reducible refine Keeps.lit ?_ rfl rfl rfl rfl ?_ ?_ ?_ ?_ ?_ ?_ ?_ ?_
    | exact Nat.le_refl _
    | exact Nat.le_succ _
    | exact List.prefix_rfl
    | exact List.prefix_append _ _

theorem State.tryLoop_keeps {s0 : State} {s : State} {k : Nat} {i : Issue} (h : Keeps s0 s) : OKeeps s0 (State.tryLoop s k i) := by
  unfold State.tryLoop
  extract_lets o a c0 head n t c1 p g tabs size tabAt tabLen u c2 bad otabs w
  have T : Keeps s0 t := State.touchN_keeps n h
  have U : Keeps s0 u := Keeps.fold _ _ _ T fun _ _ g => State.touchN_keeps _ g
  have W : Keeps s0 w := Keeps.fold _ _ _ U fun _ _ g => State.modClove_keeps g
  clear_value w otabs bad c2 u tabLen tabAt size tabs g p c1 t n head c0
  refine OKeeps.iteD (fun _ => .some (State.refuse_keeps h)) fun _ => ?_
  refine OKeeps.iteD (fun _ => .none) fun _ => ?_
  refine OKeeps.iteD (fun _ => .none) fun _ => ?_
  refine OKeeps.iteD (fun _ => .none) fun _ => ?_
  refine OKeeps.iteD (fun _ => .some (State.refuse_keeps U)) fun _ => ?_
  refine OKeeps.iteD (fun _ => .some (State.refuse_keeps U)) fun _ => ?_
  refine OKeeps.iteD (fun _ => .some (State.refuse_keeps U)) fun _ => ?_
  refine OKeeps.iteD (fun _ => .some (State.refuse_keeps U)) fun _ => ?_
  split
  · exact .some (State.refuseTile_keeps U)
  · exact OKeeps.iteD (fun _ => .some (State.refuse_keeps U)) fun _ => .some (State.modClove_keeps W)

end Sys2Proof.Machine
end

