-- ==== Sys2Proof/Laws/KeepsIssue.lean ====
section
/-! SUPPORT. What the operations of Machine/Issue.lean keep (Keeps). -/
namespace Sys2Proof.Machine

theorem State.try_keeps {s0 : State} {s : State} {no k v : Nat} {i : Issue} (h : Keeps s0 s) : Keeps s0 (State.try s no k v i).1 := by
  unfold State.try
  extract_lets r
  have R : OKeeps s0 r := by
    unfold r
    split
    · exact .some (State.refuse_keeps h)
    · exact State.tryGang_keeps h
    · exact State.tryLoad_keeps h
    · exact State.trySwap_keeps h
    · exact State.tryStream_keeps h
    · exact State.tryRemote_keeps h
    · exact State.tryLoop_keeps h
    · exact State.tryFabric_keeps h
    · exact State.trySfu_keeps h
  clear_value r
  split
  · exact State.tryRgn_keeps h
  split
  · exact R.of _ rfl
  · exact h

theorem State.stopLoop_keeps {s0 : State} {s : State} {k : Nat} (h : Keeps s0 s) : Keeps s0 (State.stopLoop s k) := by
  unfold State.stopLoop
  repeat' first
    | with_reducible first | exact h | assumption | apply State.modClove_keeps
    | intro _
    | split
    | (dsimp only)
    | with_reducible refine Keeps.lit ?_ rfl rfl rfl rfl ?_ ?_ ?_ ?_ ?_ ?_ ?_ ?_
    | exact Nat.le_refl _
    | exact Nat.le_succ _
    | exact List.prefix_rfl
    | exact List.prefix_append _ _

theorem State.retry_keeps {s0 : State} {s : State} {k : Nat} {w : Waiting} (h : Keeps s0 s) : Keeps s0 (State.retry s k w).1 := by
  unfold State.retry
  repeat' first
    | with_reducible first | exact h | assumption | apply State.progressed_keeps | apply State.modClove_keeps
          | apply State.try_keeps | apply State.stopLoop_keeps | apply OKeeps.getD
          | refine Keeps.thd (by assumption) ?_ | refine Keeps.snd (by assumption) ?_
          | refine Keeps.fst (by assumption) ?_
    | intro _
    | split
    | (dsimp only)
    | with_reducible refine Keeps.lit ?_ rfl rfl rfl rfl ?_ ?_ ?_ ?_ ?_ ?_ ?_ ?_
    | exact Nat.le_refl _
    | exact Nat.le_succ _
    | exact List.prefix_rfl
    | exact List.prefix_append _ _

theorem State.settleN_keeps {s0 : State} (n : Nat) : ∀ {s : State}, Keeps s0 s → Keeps s0 (State.settleN s n) := by
  induction n with
  | zero => intro s h; exact h
  | succ n ih =>
    intro s h
    unfold State.settleN
    have h1 : Keeps s0 (s.cloves.foldl (fun s e => if e.2.sfu.isEmpty then s else s.sfuRun e.1 sfuFuel) s) := by
      apply Keeps.fold
      · exact h
      · intro s x h
        apply Keeps.iteD
        · intro _; exact h
        · intro _; exact State.sfuRun_keeps _ h
    dsimp only
    generalize s.cloves.foldl (fun s e => if e.2.sfu.isEmpty then s else s.sfuRun e.1 sfuFuel) s = s1 at h1 ⊢
    have h2 : Keeps s0 (s1.allWaiting.foldl (fun a q => ((a.1.retry q.1 q.2).1, a.2 || (a.1.retry q.1 q.2).2)) (s1, false)).1 := by
      apply Keeps.fold1
      · exact h1
      · intro s x h
        exact State.retry_keeps h
    apply Keeps.iteD
    · intro _; exact ih h2
    · intro _; exact h2

theorem State.settle_keeps {s0 : State} {s : State} (h : Keeps s0 s) : Keeps s0 (State.settle s) := by
  unfold State.settle
  repeat' first
    | with_reducible first | exact h | assumption | apply State.settleN_keeps
    | intro _
    | split
    | (dsimp only)

theorem State.enter_keeps {s0 : State} {s : State} {gen : Option (Nat × Nat)} {i : Issue} (h : Keeps s0 s) : Keeps s0 (State.enter s gen i) := by
  unfold State.enter
  repeat' first
    | with_reducible first | exact h | assumption | apply State.modClove_keeps
    | intro _
    | split
    | (dsimp only)
    | with_reducible refine Keeps.lit ?_ rfl rfl rfl rfl ?_ ?_ ?_ ?_ ?_ ?_ ?_ ?_
    | exact Nat.le_refl _
    | exact Nat.le_succ _
    | exact List.prefix_rfl
    | exact List.prefix_append _ _

theorem State.issue_keeps {s0 : State} {s : State} {i : Issue} (h : Keeps s0 s) : Keeps s0 (State.issue s i) := by
  unfold State.issue
  repeat' first
    | with_reducible first | exact h | assumption | apply State.upset_keeps | apply State.enter_keeps
          | apply State.settle_keeps
    | intro _
    | split
    | (dsimp only)
    | with_reducible refine Keeps.lit ?_ rfl rfl rfl rfl ?_ ?_ ?_ ?_ ?_ ?_ ?_ ?_
    | exact Nat.le_refl _
    | exact Nat.le_succ _
    | exact List.prefix_rfl
    | exact List.prefix_append _ _

end Sys2Proof.Machine
end

