-- ==== Sys2Proof/Laws/KeepsLoop.lean ====
section
/-! SUPPORT. What the operations of Machine/Loop.lean keep (Keeps). -/
namespace Sys2Proof.Machine

theorem State.loopEntry_keeps {s0 : State} {s : State} {k : Nat} {once : Bool} {ctx : List Visit} {ph b : Nat} (h : Keeps s0 s) : Keeps s0 (State.loopEntry s k once ctx ph b) := by
  unfold State.loopEntry
  repeat' first
    | with_reducible first | exact h | assumption | apply State.enter_keeps | apply State.modClove_keeps
          | apply Keeps.fold | apply Keeps.fold1 | apply Keeps.fold2 | refine Keeps.thd (by assumption) ?_
          | refine Keeps.snd (by assumption) ?_ | refine Keeps.fst (by assumption) ?_
    | intro _
    | split
    | (dsimp only)
    | with_reducible refine Keeps.lit ?_ rfl rfl rfl rfl ?_ ?_ ?_ ?_ ?_ ?_ ?_ ?_
    | exact Nat.le_refl _
    | exact Nat.le_succ _
    | exact List.prefix_rfl
    | exact List.prefix_append _ _

theorem State.setLoop_keeps {s0 : State} {s : State} {k : Nat} {r : LoopRun} (h : Keeps s0 s) : Keeps s0 (State.setLoop s k r) := by
  unfold State.setLoop
  repeat' first
    | with_reducible first | exact h | assumption | apply State.modClove_keeps
    | intro _
    | split
    | (dsimp only)
    | with_reducible refine Keeps.lit ?_ rfl rfl rfl rfl ?_ ?_ ?_ ?_ ?_ ?_ ?_ ?_
    | exact Nat.le_refl _
    | exact Nat.le_succ _
    | exact List.prefix_rfl
    | exact List.prefix_append _ _

theorem State.nextItem_keeps {s0 : State} {s : State} {k : Nat} (h : Keeps s0 s) : Keeps s0 (State.nextItem s k) := by
  unfold State.nextItem
  repeat' first
    | with_reducible first | exact h | assumption | apply State.setLoop_keeps | refine Keeps.thd (by assumption) ?_
          | refine Keeps.snd (by assumption) ?_ | refine Keeps.fst (by assumption) ?_
    | intro _
    | split
    | (dsimp only)
    | with_reducible refine Keeps.lit ?_ rfl rfl rfl rfl ?_ ?_ ?_ ?_ ?_ ?_ ?_ ?_
    | exact Nat.le_refl _
    | exact Nat.le_succ _
    | exact List.prefix_rfl
    | exact List.prefix_append _ _

theorem State.loopTile_keeps {s0 : State} {s : State} {k : Nat} {once : Bool} {ctx : List Visit} {ph n : Nat} (h : Keeps s0 s) : Keeps s0 (State.loopTile s k once ctx ph n) := by
  unfold State.loopTile
  repeat' first
    | with_reducible first | exact h | assumption | apply State.modClove_keeps | apply State.loopEntry_keeps
          | apply State.nextItem_keeps | apply Keeps.fold | apply Keeps.fold1 | apply Keeps.fold2
    | intro _
    | split
    | (dsimp only)
    | with_reducible refine Keeps.lit ?_ rfl rfl rfl rfl ?_ ?_ ?_ ?_ ?_ ?_ ?_ ?_
    | exact Nat.le_refl _
    | exact Nat.le_succ _
    | exact List.prefix_rfl
    | exact List.prefix_append _ _

theorem State.answerFetch_keeps {s0 : State} {s : State} {k : Nat} {r : LoopRun} {a : Option Nat} (h : Keeps s0 s) : Keeps s0 (State.answerFetch s k r a) := by
  unfold State.answerFetch
  repeat' first
    | with_reducible first | exact h | assumption | apply State.modClove_keeps | apply State.setLoop_keeps
          | apply State.answer_keeps | apply Keeps.fold | apply Keeps.fold1 | apply Keeps.fold2
    | intro _
    | split
    | (dsimp only)
    | with_reducible refine Keeps.lit ?_ rfl rfl rfl rfl ?_ ?_ ?_ ?_ ?_ ?_ ?_ ?_
    | exact Nat.le_refl _
    | exact Nat.le_succ _
    | exact List.prefix_rfl
    | exact List.prefix_append _ _

theorem State.takeGrant_keeps {s0 : State} {s : State} {k : Nat} (h : Keeps s0 s) : Keeps s0 (State.takeGrant s k) := by
  unfold State.takeGrant
  repeat' first
    | with_reducible first | exact h | assumption | apply State.modClove_keeps | refine Keeps.thd (by assumption) ?_
          | refine Keeps.snd (by assumption) ?_ | refine Keeps.fst (by assumption) ?_
    | intro _
    | split
    | (dsimp only)
    | with_reducible refine Keeps.lit ?_ rfl rfl rfl rfl ?_ ?_ ?_ ?_ ?_ ?_ ?_ ?_
    | exact Nat.le_refl _
    | exact Nat.le_succ _
    | exact List.prefix_rfl
    | exact List.prefix_append _ _

theorem State.serveFetch_keeps {s0 : State} {s : State} {k : Nat} {r : LoopRun} (h : Keeps s0 s) : Keeps s0 (State.serveFetch s k r) := by
  unfold State.serveFetch
  repeat' first
    | with_reducible first | exact h | assumption | apply State.answerFetch_keeps | apply State.setFld_keeps
          | refine Keeps.thd (by assumption) ?_ | refine Keeps.snd (by assumption) ?_
          | refine Keeps.fst (by assumption) ?_
    | intro _
    | split
    | (dsimp only)
    | with_reducible refine Keeps.lit ?_ rfl rfl rfl rfl ?_ ?_ ?_ ?_ ?_ ?_ ?_ ?_
    | exact Nat.le_refl _
    | exact Nat.le_succ _
    | exact List.prefix_rfl
    | exact List.prefix_append _ _

theorem State.fetch_keeps {s0 : State} {s : State} {k : Nat} (h : Keeps s0 s) : Keeps s0 (State.fetch s k) := by
  unfold State.fetch
  repeat' first
    | with_reducible first | exact h | assumption | apply State.answerFetch_keeps | apply State.setLoop_keeps
          | apply State.addFld_keeps | apply State.serveFetch_keeps | refine Keeps.thd (by assumption) ?_
          | refine Keeps.snd (by assumption) ?_ | refine Keeps.fst (by assumption) ?_
    | intro _
    | split
    | (dsimp only)
    | with_reducible refine Keeps.lit ?_ rfl rfl rfl rfl ?_ ?_ ?_ ?_ ?_ ?_ ?_ ?_
    | exact Nat.le_refl _
    | exact Nat.le_succ _
    | exact List.prefix_rfl
    | exact List.prefix_append _ _

theorem State.holdEnds_keeps {s0 : State} {s : State} {k : Nat} (h : Keeps s0 s) : Keeps s0 (State.holdEnds s k) := by
  unfold State.holdEnds
  repeat' first
    | with_reducible first | exact h | assumption | apply State.fetch_keeps | apply State.serveFetch_keeps
          | refine Keeps.thd (by assumption) ?_ | refine Keeps.snd (by assumption) ?_
          | refine Keeps.fst (by assumption) ?_
    | intro _
    | split
    | (dsimp only)
    | with_reducible refine Keeps.lit ?_ rfl rfl rfl rfl ?_ ?_ ?_ ?_ ?_ ?_ ?_ ?_
    | exact Nat.le_refl _
    | exact Nat.le_succ _
    | exact List.prefix_rfl
    | exact List.prefix_append _ _

theorem State.loopFault_keeps {s0 : State} {s : State} {k : Nat} {c : Code} {v : Nat} (h : Keeps s0 s) : Keeps s0 (State.loopFault s k c v) := by
  unfold State.loopFault
  repeat' first
    | with_reducible first | exact h | assumption | apply State.refuse_keeps | apply State.stopLoop_keeps
    | intro _
    | split
    | (dsimp only)

theorem State.chunkStart_keeps {s0 : State} {s : State} {k : Nat} (h : Keeps s0 s) : Keeps s0 (State.chunkStart s k) := by
  unfold State.chunkStart
  repeat' first
    | with_reducible first | exact h | assumption | apply State.refuseTile_keeps | apply State.stopLoop_keeps
          | apply State.loopFault_keeps | apply State.post_keeps | apply State.nextItem_keeps | apply Keeps.fold
          | apply Keeps.fold1 | apply Keeps.fold2 | refine Keeps.thd (by assumption) ?_
          | refine Keeps.snd (by assumption) ?_ | refine Keeps.fst (by assumption) ?_
    | intro _
    | split
    | (dsimp only)
    | with_reducible refine Keeps.lit ?_ rfl rfl rfl rfl ?_ ?_ ?_ ?_ ?_ ?_ ?_ ?_
    | exact Nat.le_refl _
    | exact Nat.le_succ _
    | exact List.prefix_rfl
    | exact List.prefix_append _ _

theorem State.dropQuarantined_keeps {s0 : State} {s : State} {k : Nat} (h : Keeps s0 s) : Keeps s0 (State.dropQuarantined s k) := by
  unfold State.dropQuarantined
  repeat' first
    | with_reducible first | exact h | assumption | apply State.fetch_keeps | apply State.setLoop_keeps
          | refine Keeps.thd (by assumption) ?_ | refine Keeps.snd (by assumption) ?_
          | refine Keeps.fst (by assumption) ?_
    | intro _
    | split
    | (dsimp only)
    | with_reducible refine Keeps.lit ?_ rfl rfl rfl rfl ?_ ?_ ?_ ?_ ?_ ?_ ?_ ?_
    | exact Nat.le_refl _
    | exact Nat.le_succ _
    | exact List.prefix_rfl
    | exact List.prefix_append _ _

theorem State.loopStep_keeps {s0 : State} {s : State} {k : Nat} (h : Keeps s0 s) : Keeps s0 (State.loopStep s k) := by
  unfold State.loopStep
  repeat' first
    | with_reducible first | exact h | assumption | apply State.setLoop_keeps | apply State.loopTile_keeps
          | apply State.takeGrant_keeps | apply State.dropQuarantined_keeps | refine Keeps.thd (by assumption) ?_
          | refine Keeps.snd (by assumption) ?_ | refine Keeps.fst (by assumption) ?_
    | intro _
    | split
    | (dsimp only)
    | with_reducible refine Keeps.lit ?_ rfl rfl rfl rfl ?_ ?_ ?_ ?_ ?_ ?_ ?_ ?_
    | exact Nat.le_refl _
    | exact Nat.le_succ _
    | exact List.prefix_rfl
    | exact List.prefix_append _ _

end Sys2Proof.Machine
end

