-- ==== Sys2Proof/Laws/KeepsClove.lean ====
section
/-! SUPPORT. What the operations of Machine/Clove.lean keep (Keeps). -/
namespace Sys2Proof.Machine

theorem execGangCfg_keeps (i : Issue) (s : State) (t : State) (g : execGangCfg i s = .next t) : Keeps s t := by
  have h := Keeps.refl s
  unfold execGangCfg at g
  injection g with g
  subst g
  repeat' first
    | with_reducible first | exact h | assumption | apply State.issue_keeps
    | intro _
    | split
    | (dsimp only)

theorem execLoad_keeps (i : Issue) (s : State) (t : State) (g : execLoad i s = .next t) : Keeps s t := by
  have h := Keeps.refl s
  unfold execLoad at g
  injection g with g
  subst g
  repeat' first
    | with_reducible first | exact h | assumption | apply State.issue_keeps
    | intro _
    | split
    | (dsimp only)

theorem execSwap_keeps (i : Issue) (s : State) (t : State) (g : execSwap i s = .next t) : Keeps s t := by
  have h := Keeps.refl s
  unfold execSwap at g
  injection g with g
  subst g
  repeat' first
    | with_reducible first | exact h | assumption | apply State.issue_keeps
    | intro _
    | split
    | (dsimp only)

theorem execStream_keeps (i : Issue) (s : State) (t : State) (g : execStream i s = .next t) : Keeps s t := by
  have h := Keeps.refl s
  unfold execStream at g
  injection g with g
  subst g
  repeat' first
    | with_reducible first | exact h | assumption | apply State.issue_keeps
    | intro _
    | split
    | (dsimp only)

theorem execVectorResult_keeps (a : ArrAt) (upsets : Upsets) (s : State) (t : State) (g : execVectorResult a upsets s = .next t) : Keeps s t := by
  have h := Keeps.refl s
  unfold execVectorResult at g
  injection g with g
  subst g
  repeat' first
    | with_reducible first | exact h | assumption | apply State.upset_keeps | apply State.retire_keeps
          | apply State.settle_keeps
    | intro _
    | split
    | (dsimp only)
    | with_reducible refine Keeps.lit ?_ rfl rfl rfl rfl ?_ ?_ ?_ ?_ ?_ ?_ ?_ ?_
    | exact Nat.le_refl _
    | exact Nat.le_succ _
    | exact List.prefix_rfl
    | exact List.prefix_append _ _

theorem execDrainDone_keeps (a : ArrAt) (upsets : Upsets) (s : State) (t : State) (g : execDrainDone a upsets s = .next t) : Keeps s t := by
  have h := Keeps.refl s
  unfold execDrainDone at g
  injection g with g
  subst g
  repeat' first
    | with_reducible first | exact h | assumption | apply State.upset_keeps | apply State.drain_keeps
          | apply State.settle_keeps
    | intro _
    | split
    | (dsimp only)
    | with_reducible refine Keeps.lit ?_ rfl rfl rfl rfl ?_ ?_ ?_ ?_ ?_ ?_ ?_ ?_
    | exact Nat.le_refl _
    | exact Nat.le_succ _
    | exact List.prefix_rfl
    | exact List.prefix_append _ _

theorem execPassStallResume_keeps (a : ArrAt) (s : State) (t : State) (g : execPassStallResume a s = .next t) : Keeps s t := by
  have h := Keeps.refl s
  unfold execPassStallResume at g
  injection g with g
  subst g
  repeat' first
    | with_reducible first | exact h | assumption | apply State.unstall_keeps | apply State.settle_keeps
    | intro _
    | split
    | (dsimp only)

theorem execSfuElem_keeps (i : Issue) (s : State) (t : State) (g : execSfuElem i s = .next t) : Keeps s t := by
  have h := Keeps.refl s
  unfold execSfuElem at g
  injection g with g
  subst g
  repeat' first
    | with_reducible first | exact h | assumption | apply State.issue_keeps
    | intro _
    | split
    | (dsimp only)

theorem execSfuBin_keeps (i : Issue) (s : State) (t : State) (g : execSfuBin i s = .next t) : Keeps s t := by
  have h := Keeps.refl s
  unfold execSfuBin at g
  injection g with g
  subst g
  repeat' first
    | with_reducible first | exact h | assumption | apply State.issue_keeps
    | intro _
    | split
    | (dsimp only)

theorem execSfuMoments_keeps (i : Issue) (s : State) (t : State) (g : execSfuMoments i s = .next t) : Keeps s t := by
  have h := Keeps.refl s
  unfold execSfuMoments at g
  injection g with g
  subst g
  repeat' first
    | with_reducible first | exact h | assumption | apply State.issue_keeps
    | intro _
    | split
    | (dsimp only)

theorem execSfuMerge_keeps (i : Issue) (s : State) (t : State) (g : execSfuMerge i s = .next t) : Keeps s t := by
  have h := Keeps.refl s
  unfold execSfuMerge at g
  injection g with g
  subst g
  repeat' first
    | with_reducible first | exact h | assumption | apply State.issue_keeps
    | intro _
    | split
    | (dsimp only)

theorem execSfuNorm_keeps (i : Issue) (s : State) (t : State) (g : execSfuNorm i s = .next t) : Keeps s t := by
  have h := Keeps.refl s
  unfold execSfuNorm at g
  injection g with g
  subst g
  repeat' first
    | with_reducible first | exact h | assumption | apply State.issue_keeps
    | intro _
    | split
    | (dsimp only)

theorem execSfuSmaxfin_keeps (i : Issue) (s : State) (t : State) (g : execSfuSmaxfin i s = .next t) : Keeps s t := by
  have h := Keeps.refl s
  unfold execSfuSmaxfin at g
  injection g with g
  subst g
  repeat' first
    | with_reducible first | exact h | assumption | apply State.issue_keeps
    | intro _
    | split
    | (dsimp only)

theorem execEpiWrite_keeps (i : Issue) (s : State) (t : State) (g : execEpiWrite i s = .next t) : Keeps s t := by
  have h := Keeps.refl s
  unfold execEpiWrite at g
  injection g with g
  subst g
  repeat' first
    | with_reducible first | exact h | assumption | apply State.issue_keeps
    | intro _
    | split
    | (dsimp only)

theorem execRgnSet_keeps (i : Issue) (s : State) (t : State) (g : execRgnSet i s = .next t) : Keeps s t := by
  have h := Keeps.refl s
  unfold execRgnSet at g
  injection g with g
  subst g
  repeat' first
    | with_reducible first | exact h | assumption | apply State.issue_keeps
    | intro _
    | split
    | (dsimp only)

theorem execPop_keeps (i : Issue) (s : State) (t : State) (g : execPop i s = .next t) : Keeps s t := by
  have h := Keeps.refl s
  unfold execPop at g
  injection g with g
  subst g
  repeat' first
    | with_reducible first | exact h | assumption | apply State.issue_keeps
    | intro _
    | split
    | (dsimp only)

theorem execDrop_keeps (i : Issue) (s : State) (t : State) (g : execDrop i s = .next t) : Keeps s t := by
  have h := Keeps.refl s
  unfold execDrop at g
  injection g with g
  subst g
  repeat' first
    | with_reducible first | exact h | assumption | apply State.issue_keeps
    | intro _
    | split
    | (dsimp only)

theorem execRemoteRead_keeps (i : Issue) (s : State) (t : State) (g : execRemoteRead i s = .next t) : Keeps s t := by
  have h := Keeps.refl s
  unfold execRemoteRead at g
  injection g with g
  subst g
  repeat' first
    | with_reducible first | exact h | assumption | apply State.issue_keeps
    | intro _
    | split
    | (dsimp only)

theorem execRemoteWrite_keeps (i : Issue) (s : State) (t : State) (g : execRemoteWrite i s = .next t) : Keeps s t := by
  have h := Keeps.refl s
  unfold execRemoteWrite at g
  injection g with g
  subst g
  repeat' first
    | with_reducible first | exact h | assumption | apply State.issue_keeps
    | intro _
    | split
    | (dsimp only)

theorem execRemoteSlot_keeps (i : Issue) (s : State) (t : State) (g : execRemoteSlot i s = .next t) : Keeps s t := by
  have h := Keeps.refl s
  unfold execRemoteSlot at g
  injection g with g
  subst g
  repeat' first
    | with_reducible first | exact h | assumption | apply State.issue_keeps
    | intro _
    | split
    | (dsimp only)

theorem execRemoteUnbind_keeps (i : Issue) (s : State) (t : State) (g : execRemoteUnbind i s = .next t) : Keeps s t := by
  have h := Keeps.refl s
  unfold execRemoteUnbind at g
  injection g with g
  subst g
  repeat' first
    | with_reducible first | exact h | assumption | apply State.issue_keeps
    | intro _
    | split
    | (dsimp only)

theorem execRemoteAccessArrival_keeps (src : Nat) (dst : Landing) (s : State) (t : State) (g : execRemoteAccessArrival src dst s = .next t) : Keeps s t := by
  have h := Keeps.refl s
  unfold execRemoteAccessArrival at g
  injection g with g
  subst g
  repeat' first
    | with_reducible first | exact h | assumption | apply State.upset_keeps | apply State.arriveAccess_keeps
          | apply State.settle_keeps
    | intro _
    | split
    | (dsimp only)
    | with_reducible refine Keeps.lit ?_ rfl rfl rfl rfl ?_ ?_ ?_ ?_ ?_ ?_ ?_ ?_
    | exact Nat.le_refl _
    | exact Nat.le_succ _
    | exact List.prefix_rfl
    | exact List.prefix_append _ _

theorem execRemoteAck_keeps (src dst : Nat) (s : State) (t : State) (g : execRemoteAck src dst s = .next t) : Keeps s t := by
  have h := Keeps.refl s
  unfold execRemoteAck at g
  injection g with g
  subst g
  repeat' first
    | with_reducible first | exact h | assumption | apply State.arriveAck_keeps | apply State.settle_keeps
    | intro _
    | split
    | (dsimp only)

theorem execGrantArrival_keeps (src dst : Nat) (s : State) (t : State) (g : execGrantArrival src dst s = .next t) : Keeps s t := by
  have h := Keeps.refl s
  unfold execGrantArrival at g
  injection g with g
  subst g
  repeat' first
    | with_reducible first | exact h | assumption | apply State.arriveGrant_keeps | apply State.settle_keeps
    | intro _
    | split
    | (dsimp only)

theorem execCreditReturnArrival_keeps (src dst : Nat) (s : State) (t : State) (g : execCreditReturnArrival src dst s = .next t) : Keeps s t := by
  have h := Keeps.refl s
  unfold execCreditReturnArrival at g
  injection g with g
  subst g
  repeat' first
    | with_reducible first | exact h | assumption | apply State.arriveCredit_keeps | apply State.settle_keeps
    | intro _
    | split
    | (dsimp only)

theorem execUnbindArrival_keeps (src dst : Nat) (s : State) (t : State) (g : execUnbindArrival src dst s = .next t) : Keeps s t := by
  have h := Keeps.refl s
  unfold execUnbindArrival at g
  injection g with g
  subst g
  repeat' first
    | with_reducible first | exact h | assumption | apply State.arriveUnbind_keeps | apply State.settle_keeps
    | intro _
    | split
    | (dsimp only)

theorem execScrubRead_keeps (x y found : Nat) (s : State) (t : State) (g : execScrubRead x y found s = .next t) : Keeps s t := by
  have h := Keeps.refl s
  unfold execScrubRead at g
  injection g with g
  subst g
  repeat' first
    | with_reducible first | exact h | assumption | apply State.scrub_keeps
    | intro _
    | split
    | (dsimp only)

theorem execScrubWriteback_keeps (x y : Nat) (s : State) (t : State) (g : execScrubWriteback x y s = .next t) : Keeps s t := by
  have h := Keeps.refl s
  unfold execScrubWriteback at g
  injection g with g
  subst g
  repeat' first
    | with_reducible first | exact h | assumption | apply State.writeback_keeps
    | intro _
    | split
    | (dsimp only)

theorem execScrubForcedSlot_keeps (x y bank found : Nat) (s : State) (t : State) (g : execScrubForcedSlot x y bank found s = .next t) : Keeps s t := by
  have h := Keeps.refl s
  unfold execScrubForcedSlot at g
  injection g with g
  subst g
  repeat' first
    | with_reducible first | exact h | assumption | apply State.scrub_keeps
    | intro _
    | split
    | (dsimp only)

theorem execLoop_keeps (i : Issue) (s : State) (t : State) (g : execLoop i s = .next t) : Keeps s t := by
  have h := Keeps.refl s
  unfold execLoop at g
  injection g with g
  subst g
  repeat' first
    | with_reducible first | exact h | assumption | apply State.issue_keeps
    | intro _
    | split
    | (dsimp only)

theorem execLoopL0Iteration_keeps (x y : Nat) (s : State) (t : State) (g : execLoopL0Iteration x y s = .next t) : Keeps s t := by
  have h := Keeps.refl s
  unfold execLoopL0Iteration at g
  injection g with g
  subst g
  repeat' first
    | with_reducible first | exact h | assumption | apply State.settle_keeps | apply State.loopStep_keeps
    | intro _
    | split
    | (dsimp only)

theorem execLoopL4Iteration_keeps (x y : Nat) (s : State) (t : State) (g : execLoopL4Iteration x y s = .next t) : Keeps s t := by
  have h := Keeps.refl s
  unfold execLoopL4Iteration at g
  injection g with g
  subst g
  repeat' first
    | with_reducible first | exact h | assumption | apply State.settle_keeps | apply State.chunkStart_keeps
    | intro _
    | split
    | (dsimp only)

theorem execDispatchFetch_keeps (x y : Nat) (s : State) (t : State) (g : execDispatchFetch x y s = .next t) : Keeps s t := by
  have h := Keeps.refl s
  unfold execDispatchFetch at g
  injection g with g
  subst g
  repeat' first
    | with_reducible first | exact h | assumption | apply State.settle_keeps | apply State.fetch_keeps
    | intro _
    | split
    | (dsimp only)

theorem execHotHoldExpiry_keeps (x y : Nat) (s : State) (t : State) (g : execHotHoldExpiry x y s = .next t) : Keeps s t := by
  have h := Keeps.refl s
  unfold execHotHoldExpiry at g
  injection g with g
  subst g
  repeat' first
    | with_reducible first | exact h | assumption | apply State.settle_keeps | apply State.holdEnds_keeps
    | intro _
    | split
    | (dsimp only)

theorem execSqSet_keeps (i : Issue) (s : State) (t : State) (g : execSqSet i s = .next t) : Keeps s t := by
  have h := Keeps.refl s
  unfold execSqSet at g
  injection g with g
  subst g
  repeat' first
    | with_reducible first | exact h | assumption | apply State.issue_keeps
    | intro _
    | split
    | (dsimp only)

theorem execSqPost_keeps (i : Issue) (s : State) (t : State) (g : execSqPost i s = .next t) : Keeps s t := by
  have h := Keeps.refl s
  unfold execSqPost at g
  injection g with g
  subst g
  repeat' first
    | with_reducible first | exact h | assumption | apply State.issue_keeps
    | intro _
    | split
    | (dsimp only)

theorem execFenceRemote_keeps (i : Issue) (s : State) (t : State) (g : execFenceRemote i s = .next t) : Keeps s t := by
  have h := Keeps.refl s
  unfold execFenceRemote at g
  injection g with g
  subst g
  repeat' first
    | with_reducible first | exact h | assumption | apply State.issue_keeps
    | intro _
    | split
    | (dsimp only)

theorem execFenceStore_keeps (i : Issue) (s : State) (t : State) (g : execFenceStore i s = .next t) : Keeps s t := by
  have h := Keeps.refl s
  unfold execFenceStore at g
  injection g with g
  subst g
  repeat' first
    | with_reducible first | exact h | assumption | apply State.issue_keeps
    | intro _
    | split
    | (dsimp only)

theorem execFenceAll_keeps (i : Issue) (s : State) (t : State) (g : execFenceAll i s = .next t) : Keeps s t := by
  have h := Keeps.refl s
  unfold execFenceAll at g
  injection g with g
  subst g
  repeat' first
    | with_reducible first | exact h | assumption | apply State.issue_keeps
    | intro _
    | split
    | (dsimp only)

theorem execFenceRelease_keeps (x y : Nat) (s : State) (t : State) (g : execFenceRelease x y s = .next t) : Keeps s t := by
  have h := Keeps.refl s
  unfold execFenceRelease at g
  injection g with g
  subst g
  repeat' first
    | with_reducible first | exact h | assumption | apply State.releaseFence_keeps | apply State.settle_keeps
    | intro _
    | split
    | (dsimp only)

theorem execBarrier_keeps (i : Issue) (s : State) (t : State) (g : execBarrier i s = .next t) : Keeps s t := by
  have h := Keeps.refl s
  unfold execBarrier at g
  injection g with g
  subst g
  repeat' first
    | with_reducible first | exact h | assumption | apply State.issue_keeps
    | intro _
    | split
    | (dsimp only)

theorem execBarrierArrival_keeps (part : Nat) (bid : Arrivals) (s : State) (t : State) (g : execBarrierArrival part bid s = .next t) : Keeps s t := by
  have h := Keeps.refl s
  unfold execBarrierArrival at g
  injection g with g
  subst g
  repeat' first
    | with_reducible first | exact h | assumption | apply State.arriveBarrier_keeps | apply State.settle_keeps
    | intro _
    | split
    | (dsimp only)
    | with_reducible refine Keeps.lit ?_ rfl rfl rfl rfl ?_ ?_ ?_ ?_ ?_ ?_ ?_ ?_
    | exact Nat.le_refl _
    | exact Nat.le_succ _
    | exact List.prefix_rfl
    | exact List.prefix_append _ _

theorem execSqRequestIssue_keeps (part queue : Nat) (arrival : ReqStep) (s : State) (t : State) (g : execSqRequestIssue part queue arrival s = .next t) : Keeps s t := by
  have h := Keeps.refl s
  unfold execSqRequestIssue at g
  injection g with g
  subst g
  repeat' first
    | with_reducible first | exact h | assumption | apply State.upset_keeps | apply State.issueReq_keeps
          | apply State.settle_keeps
    | intro _
    | split
    | (dsimp only)
    | with_reducible refine Keeps.lit ?_ rfl rfl rfl rfl ?_ ?_ ?_ ?_ ?_ ?_ ?_ ?_
    | exact Nat.le_refl _
    | exact Nat.le_succ _
    | exact List.prefix_rfl
    | exact List.prefix_append _ _

theorem execSqLoadDelivery_keeps (part queue req : Nat) (s : State) (t : State) (g : execSqLoadDelivery part queue req s = .next t) : Keeps s t := by
  have h := Keeps.refl s
  unfold execSqLoadDelivery at g
  injection g with g
  subst g
  repeat' first
    | with_reducible first | exact h | assumption | apply State.deliver_keeps | apply State.settle_keeps
    | intro _
    | split
    | (dsimp only)

theorem State.markOnLink_keeps {s0 : State} {s : State} {w : LinkPlace} {i : Nat} (h : Keeps s0 s) : Keeps s0 (State.markOnLink s w i) := by
  unfold State.markOnLink
  repeat' first
    | with_reducible first | exact h | assumption | apply State.modClove_keeps | refine Keeps.thd (by assumption) ?_
          | refine Keeps.snd (by assumption) ?_ | refine Keeps.fst (by assumption) ?_
    | intro _
    | split
    | (dsimp only)
    | with_reducible refine Keeps.lit ?_ rfl rfl rfl rfl ?_ ?_ ?_ ?_ ?_ ?_ ?_ ?_
    | exact Nat.le_refl _
    | exact Nat.le_succ _
    | exact List.prefix_rfl
    | exact List.prefix_append _ _

theorem State.linkFail_keeps {s0 : State} {s : State} {field seam link fails : Nat} {place : LinkPlace} {word : Nat} (h : Keeps s0 s) : Keeps s0 (State.linkFail s field seam link fails place word) := by
  unfold State.linkFail
  repeat' first
    | with_reducible first | exact h | assumption | apply State.markOnLink_keeps | apply State.modField_keeps
          | apply State.addFld_keeps | apply State.event_keeps | apply State.modClove_keeps
    | intro _
    | split
    | (dsimp only)
    | with_reducible refine Keeps.lit ?_ rfl rfl rfl rfl ?_ ?_ ?_ ?_ ?_ ?_ ?_ ?_
    | exact Nat.le_refl _
    | exact Nat.le_succ _
    | exact List.prefix_rfl
    | exact List.prefix_append _ _

theorem execLinkWordFail_keeps (field seam link fails : Nat) (place : LinkPlace) (word : Nat) (s : State) (t : State) (g : execLinkWordFail field seam link fails place word s = .next t) : Keeps s t := by
  have h := Keeps.refl s
  unfold execLinkWordFail at g
  injection g with g
  subst g
  repeat' first
    | with_reducible first | exact h | assumption | apply State.linkFail_keeps
    | intro _
    | split
    | (dsimp only)
    | with_reducible refine Keeps.lit ?_ rfl rfl rfl rfl ?_ ?_ ?_ ?_ ?_ ?_ ?_ ?_
    | exact Nat.le_refl _
    | exact Nat.le_succ _
    | exact List.prefix_rfl
    | exact List.prefix_append _ _

end Sys2Proof.Machine
end

