-- ==== Sys2Proof/Laws/KeepsMemory.lean ====
section
/-! SUPPORT. What the operations of Machine/Memory.lean keep (Keeps). -/
namespace Sys2Proof.Machine

theorem State.chanFail_keeps {s0 : State} {s : State} {k c : Nat} (h : Keeps s0 s) : Keeps s0 (State.chanFail s k c) := by
  unfold State.chanFail
  repeat' first
    | with_reducible first | exact h | assumption | apply State.setFld_keeps | apply State.log_keeps
    | intro _
    | split
    | (dsimp only)
    | with_reducible refine Keeps.lit ?_ rfl rfl rfl rfl ?_ ?_ ?_ ?_ ?_ ?_ ?_ ?_
    | exact Nat.le_refl _
    | exact Nat.le_succ _
    | exact List.prefix_rfl
    | exact List.prefix_append _ _

theorem State.badOnChan_keeps {s0 : State} {s : State} {k c : Nat} (h : Keeps s0 s) : Keeps s0 (State.badOnChan s k c) := by
  unfold State.badOnChan
  repeat' first
    | with_reducible first | exact h | assumption | apply State.modStack_keeps | apply State.chanFail_keeps
    | intro _
    | split
    | (dsimp only)
    | with_reducible refine Keeps.lit ?_ rfl rfl rfl rfl ?_ ?_ ?_ ?_ ?_ ?_ ?_ ?_
    | exact Nat.le_refl _
    | exact Nat.le_succ _
    | exact List.prefix_rfl
    | exact List.prefix_append _ _

theorem State.countUe_keeps {s0 : State} {s : State} {a : Nat} (h : Keeps s0 s) : Keeps s0 (State.countUe s a) := by
  unfold State.countUe
  repeat' first
    | with_reducible first | exact h | assumption | apply State.modStack_keeps | apply State.badOnChan_keeps
          | apply State.chanFail_keeps
    | intro _
    | split
    | (dsimp only)
    | with_reducible refine Keeps.lit ?_ rfl rfl rfl rfl ?_ ?_ ?_ ?_ ?_ ?_ ?_ ?_
    | exact Nat.le_refl _
    | exact Nat.le_succ _
    | exact List.prefix_rfl
    | exact List.prefix_append _ _

theorem State.onDieReport_keeps {s0 : State} {s : State} {k c : Nat} (h : Keeps s0 s) : Keeps s0 (State.onDieReport s k c) := by
  unfold State.onDieReport
  repeat' first
    | with_reducible first | exact h | assumption | apply State.modStack_keeps | apply State.badOnChan_keeps
    | intro _
    | split
    | (dsimp only)
    | with_reducible refine Keeps.lit ?_ rfl rfl rfl rfl ?_ ?_ ?_ ?_ ?_ ?_ ?_ ?_
    | exact Nat.le_refl _
    | exact Nat.le_succ _
    | exact List.prefix_rfl
    | exact List.prefix_append _ _

theorem State.wiresFail_keeps {s0 : State} {s : State} {k c n : Nat} (h : Keeps s0 s) : Keeps s0 (State.wiresFail s k c n) := by
  unfold State.wiresFail
  repeat' first
    | with_reducible first | exact h | assumption | apply State.modStack_keeps | apply State.setFld_keeps
          | apply State.chanFail_keeps
    | intro _
    | split
    | (dsimp only)
    | with_reducible refine Keeps.lit ?_ rfl rfl rfl rfl ?_ ?_ ?_ ?_ ?_ ?_ ?_ ?_
    | exact Nat.le_refl _
    | exact Nat.le_succ _
    | exact List.prefix_rfl
    | exact List.prefix_append _ _

theorem State.ueWord_keeps {s0 : State} {s : State} {cw : Nat} (h : Keeps s0 s) : Keeps s0 (State.ueWord s cw) := by
  unfold State.ueWord
  repeat' first
    | with_reducible first | exact h | assumption | apply State.setPoison_keeps | apply State.countUe_keeps
    | intro _
    | split
    | (dsimp only)

theorem State.fixWord_keeps {s0 : State} {s : State} {cw : Nat} (h : Keeps s0 s) : Keeps s0 (State.fixWord s cw) := by
  unfold State.fixWord
  repeat' first
    | with_reducible first | exact h | assumption | apply State.modStack_keeps | apply State.writeback_keeps
    | intro _
    | split
    | (dsimp only)
    | with_reducible refine Keeps.lit ?_ rfl rfl rfl rfl ?_ ?_ ?_ ?_ ?_ ?_ ?_ ?_
    | exact Nat.le_refl _
    | exact Nat.le_succ _
    | exact List.prefix_rfl
    | exact List.prefix_append _ _

theorem State.hbmFind_keeps {s0 : State} {s : State} {f : HbmFinds} (h : Keeps s0 s) : Keeps s0 (State.hbmFind s f) := by
  unfold State.hbmFind
  repeat' first
    | with_reducible first | exact h | assumption | apply State.ueWord_keeps | apply State.fixWord_keeps
          | apply State.onDieReport_keeps | apply Keeps.fold | apply Keeps.fold1 | apply Keeps.fold2
    | intro _
    | split
    | (dsimp only)
    | with_reducible refine Keeps.lit ?_ rfl rfl rfl rfl ?_ ?_ ?_ ?_ ?_ ?_ ?_ ?_
    | exact Nat.le_refl _
    | exact Nat.le_succ _
    | exact List.prefix_rfl
    | exact List.prefix_append _ _

theorem State.sqMark_keeps {s0 : State} {s : State} {r : Req} {words : Nat} (h : Keeps s0 s) : Keeps s0 (State.sqMark s r words) := by
  unfold State.sqMark
  repeat' first
    | with_reducible first | exact h | assumption | apply State.event_keeps
    | intro _
    | split
    | (dsimp only)

theorem State.serveOne_keeps {s0 : State} {s : State} {bad : List Nat} {r : Req} (h : Keeps s0 s) : Keeps s0 (State.serveOne s bad r) := by
  unfold State.serveOne
  repeat' first
    | with_reducible first | exact h | assumption | apply State.modStack_keeps | apply State.storeWords_keeps
          | apply State.reqDone_keeps | apply State.sqMark_keeps
    | intro _
    | split
    | (dsimp only)
    | with_reducible refine Keeps.lit ?_ rfl rfl rfl rfl ?_ ?_ ?_ ?_ ?_ ?_ ?_ ?_
    | exact Nat.le_refl _
    | exact Nat.le_succ _
    | exact List.prefix_rfl
    | exact List.prefix_append _ _

theorem State.serve_keeps {s0 : State} {s : State} {k now : Nat} {found : HbmFinds} (h : Keeps s0 s) : Keeps s0 (State.serve s k now found) := by
  unfold State.serve
  repeat' first
    | with_reducible first | exact h | assumption | apply State.store_keeps | apply State.hbmFind_keeps
          | apply State.serveOne_keeps | apply State.modStack_keeps | apply State.writeback_keeps
          | apply State.ueWord_keeps | apply Keeps.fold | apply Keeps.fold1 | apply Keeps.fold2
          | refine Keeps.thd (by assumption) ?_ | refine Keeps.snd (by assumption) ?_
          | refine Keeps.fst (by assumption) ?_
    | intro _
    | split
    | (dsimp only)
    | with_reducible refine Keeps.lit ?_ rfl rfl rfl rfl ?_ ?_ ?_ ?_ ?_ ?_ ?_ ?_
    | exact Nat.le_refl _
    | exact Nat.le_succ _
    | exact List.prefix_rfl
    | exact List.prefix_append _ _

theorem execMemRequestServe_keeps (stack now : Nat) (badWords : List Nat) (minor : HbmMinor) (s : State) (t : State) (g : execMemRequestServe stack now badWords minor s = .next t) : Keeps s t := by
  have h := Keeps.refl s
  unfold execMemRequestServe at g
  injection g with g
  subst g
  repeat' first
    | with_reducible first | exact h | assumption | apply State.serve_keeps | apply State.settle_keeps
    | intro _
    | split
    | (dsimp only)
    | with_reducible refine Keeps.lit ?_ rfl rfl rfl rfl ?_ ?_ ?_ ?_ ?_ ?_ ?_ ?_
    | exact Nat.le_refl _
    | exact Nat.le_succ _
    | exact List.prefix_rfl
    | exact List.prefix_append _ _

theorem execHbmCorrectedWriteback_keeps (stack : Nat) (s : State) (t : State) (g : execHbmCorrectedWriteback stack s = .next t) : Keeps s t := by
  have h := Keeps.refl s
  unfold execHbmCorrectedWriteback at g
  injection g with g
  subst g
  repeat' first
    | with_reducible first | exact h | assumption | apply State.modStack_keeps | apply State.writeback_keeps
    | intro _
    | split
    | (dsimp only)
    | with_reducible refine Keeps.lit ?_ rfl rfl rfl rfl ?_ ?_ ?_ ?_ ?_ ?_ ?_ ?_
    | exact Nat.le_refl _
    | exact Nat.le_succ _
    | exact List.prefix_rfl
    | exact List.prefix_append _ _

theorem State.patrolStep_keeps {s0 : State} {s : State} {k outcome : Nat} (h : Keeps s0 s) : Keeps s0 (State.patrolStep s k outcome) := by
  unfold State.patrolStep
  repeat' first
    | with_reducible first | exact h | assumption | apply State.modStack_keeps | apply State.fixWord_keeps
          | apply State.ueWord_keeps | apply State.onDieReport_keeps | apply State.writeback_keeps
          | refine Keeps.thd (by assumption) ?_ | refine Keeps.snd (by assumption) ?_
          | refine Keeps.fst (by assumption) ?_
    | intro _
    | split
    | (dsimp only)
    | with_reducible refine Keeps.lit ?_ rfl rfl rfl rfl ?_ ?_ ?_ ?_ ?_ ?_ ?_ ?_
    | exact Nat.le_refl _
    | exact Nat.le_succ _
    | exact List.prefix_rfl
    | exact List.prefix_append _ _

theorem execPatrolRead_keeps (stack outcome : Nat) (s : State) (t : State) (g : execPatrolRead stack outcome s = .next t) : Keeps s t := by
  have h := Keeps.refl s
  unfold execPatrolRead at g
  injection g with g
  subst g
  repeat' first
    | with_reducible first | exact h | assumption | apply State.patrolStep_keeps
    | intro _
    | split
    | (dsimp only)

theorem execChannelRetrain_keeps (stack chan : Nat) (s : State) (t : State) (g : execChannelRetrain stack chan s = .next t) : Keeps s t := by
  have h := Keeps.refl s
  unfold execChannelRetrain at g
  injection g with g
  subst g
  repeat' first
    | with_reducible first | exact h | assumption | apply State.modStack_keeps
    | intro _
    | split
    | (dsimp only)
    | with_reducible refine Keeps.lit ?_ rfl rfl rfl rfl ?_ ?_ ?_ ?_ ?_ ?_ ?_ ?_
    | exact Nat.le_refl _
    | exact Nat.le_succ _
    | exact List.prefix_rfl
    | exact List.prefix_append _ _

theorem State.retrained_keeps {s0 : State} {s : State} {k c : Nat} {ok : Bool} {wires : Nat} (h : Keeps s0 s) : Keeps s0 (State.retrained s k c ok wires) := by
  unfold State.retrained
  repeat' first
    | with_reducible first | exact h | assumption | apply State.modStack_keeps | apply State.wiresFail_keeps
          | apply State.chanFail_keeps
    | intro _
    | split
    | (dsimp only)
    | with_reducible refine Keeps.lit ?_ rfl rfl rfl rfl ?_ ?_ ?_ ?_ ?_ ?_ ?_ ?_
    | exact Nat.le_refl _
    | exact Nat.le_succ _
    | exact List.prefix_rfl
    | exact List.prefix_append _ _

theorem execChannelRetrainingDone_keeps (stack chan : Nat) (result : Retrained) (s : State) (t : State) (g : execChannelRetrainingDone stack chan result s = .next t) : Keeps s t := by
  have h := Keeps.refl s
  unfold execChannelRetrainingDone at g
  injection g with g
  subst g
  repeat' first
    | with_reducible first | exact h | assumption | apply State.retrained_keeps
    | intro _
    | split
    | (dsimp only)
    | with_reducible refine Keeps.lit ?_ rfl rfl rfl rfl ?_ ?_ ?_ ?_ ?_ ?_ ?_ ?_
    | exact Nat.le_refl _
    | exact Nat.le_succ _
    | exact List.prefix_rfl
    | exact List.prefix_append _ _

theorem State.epochGo_keeps {s0 : State} {s : State} (h : Keeps s0 s) : Keeps s0 (State.epochGo s) := by
  unfold State.epochGo
  repeat' first
    | with_reducible first | exact h | assumption | apply State.setFld_keeps | apply State.modStack_keeps
    | intro _
    | split
    | (dsimp only)
    | with_reducible refine Keeps.lit ?_ rfl rfl rfl rfl ?_ ?_ ?_ ?_ ?_ ?_ ?_ ?_
    | exact Nat.le_refl _
    | exact Nat.le_succ _
    | exact List.prefix_rfl
    | exact List.prefix_append _ _

theorem State.zeroStack_keeps {s0 : State} {s : State} {k : Nat} (h : Keeps s0 s) : Keeps s0 (State.zeroStack s k) :=
  h.newHbm fun w => Hbm.wf_filter w

theorem State.publishMap_keeps {s0 : State} {s : State} {k : Nat} {m : W32} (h : Keeps s0 s) : Keeps s0 (State.publishMap s k m) := by
  unfold State.publishMap
  repeat' first
    | with_reducible first | exact h | assumption | apply State.setReg_keeps | apply State.setFld_keeps
    | intro _
    | split
    | (dsimp only)

theorem State.renewMap_keeps {s0 : State} {s : State} {k : Nat} {trainFail : W32} {wires : List (Nat × Nat)} (h : Keeps s0 s) : Keeps s0 (State.renewMap s k trainFail wires) := by
  unfold State.renewMap
  repeat' first
    | with_reducible first | exact h | assumption | apply State.zeroStack_keeps | apply State.publishMap_keeps
          | apply State.setReg_keeps | apply State.setFld_keeps | apply State.modStack_keeps
          | apply State.writeback_keeps
    | intro _
    | split
    | (dsimp only)
    | with_reducible refine Keeps.lit ?_ rfl rfl rfl rfl ?_ ?_ ?_ ?_ ?_ ?_ ?_ ?_
    | exact Nat.le_refl _
    | exact Nat.le_succ _
    | exact List.prefix_rfl
    | exact List.prefix_append _ _

theorem State.epochDone_keeps {s0 : State} {s : State} {k : Nat} {trainFail : W32} {wires : List (Nat × Nat)} (h : Keeps s0 s) : Keeps s0 (State.epochDone s k trainFail wires) := by
  unfold State.epochDone
  repeat' first
    | with_reducible first | exact h | assumption | apply State.renewMap_keeps | apply State.setFld_keeps
          | apply State.log_keeps | apply State.setReg_keeps | apply State.modStack_keeps | apply State.writeback_keeps
          | apply State.zeroStack_keeps | apply State.publishMap_keeps
    | intro _
    | split
    | (dsimp only)
    | with_reducible refine Keeps.lit ?_ rfl rfl rfl rfl ?_ ?_ ?_ ?_ ?_ ?_ ?_ ?_
    | exact Nat.le_refl _
    | exact Nat.le_succ _
    | exact List.prefix_rfl
    | exact List.prefix_append _ _

theorem execHbmEpoch_keeps (stack : Nat) (trained : Trained) (s : State) (t : State) (g : execHbmEpoch stack trained s = .next t) : Keeps s t := by
  have h := Keeps.refl s
  unfold execHbmEpoch at g
  injection g with g
  subst g
  repeat' first
    | with_reducible first | exact h | assumption | apply State.epochDone_keeps
    | intro _
    | split
    | (dsimp only)
    | with_reducible refine Keeps.lit ?_ rfl rfl rfl rfl ?_ ?_ ?_ ?_ ?_ ?_ ?_ ?_
    | exact Nat.le_refl _
    | exact Nat.le_succ _
    | exact List.prefix_rfl
    | exact List.prefix_append _ _

theorem execWindowChangeEffect_keeps (part win : Nat) (s : State) (t : State) (g : execWindowChangeEffect part win s = .next t) : Keeps s t := by
  have h := Keeps.refl s
  unfold execWindowChangeEffect at g
  injection g with g
  subst g
  repeat' first
    | with_reducible first | exact h | assumption | apply State.modPart_keeps | refine Keeps.thd (by assumption) ?_
          | refine Keeps.snd (by assumption) ?_ | refine Keeps.fst (by assumption) ?_
    | intro _
    | split
    | (dsimp only)
    | with_reducible refine Keeps.lit ?_ rfl rfl rfl rfl ?_ ?_ ?_ ?_ ?_ ?_ ?_ ?_
    | exact Nat.le_refl _
    | exact Nat.le_succ _
    | exact List.prefix_rfl
    | exact List.prefix_append _ _

theorem State.writeWindow_keeps {s0 : State} {s : State} {p w : Nat} {base size : W32} (h : Keeps s0 s) : Keeps s0 (State.writeWindow s p w base size) := by
  unfold State.writeWindow
  repeat' first
    | with_reducible first | exact h | assumption | apply State.log_keeps | apply State.setReg_keeps
          | apply State.modPart_keeps | refine Keeps.thd (by assumption) ?_ | refine Keeps.snd (by assumption) ?_
          | refine Keeps.fst (by assumption) ?_
    | intro _
    | split
    | (dsimp only)
    | with_reducible refine Keeps.lit ?_ rfl rfl rfl rfl ?_ ?_ ?_ ?_ ?_ ?_ ?_ ?_
    | exact Nat.le_refl _
    | exact Nat.le_succ _
    | exact List.prefix_rfl
    | exact List.prefix_append _ _

theorem State.spillFail_keeps {s0 : State} {s : State} {t : TierReq} {cause : Nat} (h : Keeps s0 s) : Keeps s0 (State.spillFail s t cause) := by
  unfold State.spillFail
  repeat' first
    | with_reducible first | exact h | assumption | apply State.event_keeps
    | intro _
    | split
    | (dsimp only)

theorem State.drawMarked_keeps {s0 : State} (n : Nat) : ∀ {s : State}, Keeps s0 s → Keeps s0 (State.drawMarked s n).2 := by
  induction n with
  | zero =>
    intro s h
    unfold State.drawMarked
    repeat' first
      | with_reducible first | exact h | apply State.draw_keeps | refine Keeps.thd (by assumption) ?_
          | refine Keeps.snd (by assumption) ?_ | refine Keeps.fst (by assumption) ?_
      | intro _
      | split
      | (dsimp only)
  | succ n ih =>
    intro s h
    unfold State.drawMarked
    repeat' first
      | with_reducible first | exact h | apply ih | apply State.draw_keeps | refine Keeps.thd (by assumption) ?_
          | refine Keeps.snd (by assumption) ?_ | refine Keeps.fst (by assumption) ?_
      | intro _
      | split
      | (dsimp only)

theorem State.tierAnswer_keeps {s0 : State} {s : State} {tag : Nat} {ws : Option (List (W64 × Bool))} {cause : Nat} (h : Keeps s0 s) : Keeps s0 (State.tierAnswer s tag ws cause) := by
  unfold State.tierAnswer
  repeat' first
    | with_reducible first | exact h | assumption | apply State.store_keeps | apply State.reqDone_keeps
          | apply State.spillFail_keeps | apply State.drawMarked_keeps | refine Keeps.thd (by assumption) ?_
          | refine Keeps.snd (by assumption) ?_ | refine Keeps.fst (by assumption) ?_
    | intro _
    | split
    | (dsimp only)
    | with_reducible refine Keeps.lit ?_ rfl rfl rfl rfl ?_ ?_ ?_ ?_ ?_ ?_ ?_ ?_
    | exact Nat.le_refl _
    | exact Nat.le_succ _
    | exact List.prefix_rfl
    | exact List.prefix_append _ _

theorem execTierCompletion_keeps (tag : Nat) (status : RdStatus) (data : List Byte) (s : State) (t : State) (g : execTierCompletion tag status data s = .next t) : Keeps s t := by
  have h := Keeps.refl s
  unfold execTierCompletion at g
  injection g with g
  subst g
  repeat' first
    | with_reducible first | exact h | assumption | apply State.settle_keeps | apply State.spillFail_keeps
          | apply State.tierAnswer_keeps | refine Keeps.thd (by assumption) ?_
          | refine Keeps.snd (by assumption) ?_ | refine Keeps.fst (by assumption) ?_
    | intro _
    | split
    | (dsimp only)
    | with_reducible refine Keeps.lit ?_ rfl rfl rfl rfl ?_ ?_ ?_ ?_ ?_ ?_ ?_ ?_
    | exact Nat.le_refl _
    | exact Nat.le_succ _
    | exact List.prefix_rfl
    | exact List.prefix_append _ _

theorem execTierTimeout_keeps (tag : Nat) (s : State) (t : State) (g : execTierTimeout tag s = .next t) : Keeps s t := by
  have h := Keeps.refl s
  unfold execTierTimeout at g
  injection g with g
  subst g
  repeat' first
    | with_reducible first | exact h | assumption | apply State.settle_keeps | apply State.tierAnswer_keeps
    | intro _
    | split
    | (dsimp only)

end Sys2Proof.Machine
end

