-- ==== Sys2Proof/Laws/KeepsKv.lean ====
section
/-! SUPPORT. What the operations of Machine/Kv.lean keep (Keeps). -/
namespace Sys2Proof.Machine

theorem State.putL1_keeps {s0 : State} {s : State} {p cid : Nat} {e : L1Entry} (h : Keeps s0 s) : Keeps s0 (State.putL1 s p cid e) := by
  unfold State.putL1
  repeat' first
    | with_reducible first | exact h | assumption | apply State.storeBytes_keeps
    | intro _
    | split
    | (dsimp only)

theorem State.tlbDrop_keeps {s0 : State} {s : State} {p : Nat} {f : TlbEntry → Bool} (h : Keeps s0 s) : Keeps s0 (State.tlbDrop s p f) := by
  unfold State.tlbDrop
  repeat' first
    | with_reducible first | exact h | assumption | apply State.modField_keeps | apply Keeps.fold
          | apply Keeps.fold1 | apply Keeps.fold2
    | intro _
    | split
    | (dsimp only)
    | with_reducible refine Keeps.lit ?_ rfl rfl rfl rfl ?_ ?_ ?_ ?_ ?_ ?_ ?_ ?_
    | exact Nat.le_refl _
    | exact Nat.le_succ _
    | exact List.prefix_rfl
    | exact List.prefix_append _ _

theorem State.putFrm_keeps {s0 : State} {s : State} {p f : Nat} {v : Frm} (h : Keeps s0 s) : Keeps s0 (State.putFrm s p f v) := by
  unfold State.putFrm
  repeat' first
    | with_reducible first | exact h | assumption | apply State.storeBytes_keeps | apply State.tlbDrop_keeps
    | intro _
    | split
    | (dsimp only)

theorem State.putPte_keeps {s0 : State} {s : State} {p cid layer pidx : Nat} {v : Pte} (h : Keeps s0 s) : Keeps s0 (State.putPte s p cid layer pidx v) := by
  unfold State.putPte
  repeat' first
    | with_reducible first | exact h | assumption | apply State.storeBytes_keeps | apply State.tlbDrop_keeps
    | intro _
    | split
    | (dsimp only)

theorem State.kvEvent_keeps {s0 : State} {s : State} {c : Code} {p cid layer pidx : Nat} (h : Keeps s0 s) : Keeps s0 (State.kvEvent s c p cid layer pidx) := by
  unfold State.kvEvent
  repeat' first
    | with_reducible first | exact h | assumption | apply State.event_keeps
    | intro _
    | split
    | (dsimp only)

theorem State.takeSlot_keeps {s0 : State} {s : State} {p i f : Nat} (h : Keeps s0 s) : Keeps s0 (State.takeSlot s p i f) := by
  unfold State.takeSlot
  repeat' first
    | with_reducible first | exact h | assumption | apply State.modPart_keeps
    | intro _
    | split
    | (dsimp only)
    | with_reducible refine Keeps.lit ?_ rfl rfl rfl rfl ?_ ?_ ?_ ?_ ?_ ?_ ?_ ?_
    | exact Nat.le_refl _
    | exact Nat.le_succ _
    | exact List.prefix_rfl
    | exact List.prefix_append _ _

theorem State.dropSlot_keeps {s0 : State} {s : State} {p i : Nat} (h : Keeps s0 s) : Keeps s0 (State.dropSlot s p i) := by
  unfold State.dropSlot
  repeat' first
    | with_reducible first | exact h | assumption | apply State.modPart_keeps
    | intro _
    | split
    | (dsimp only)
    | with_reducible refine Keeps.lit ?_ rfl rfl rfl rfl ?_ ?_ ?_ ?_ ?_ ?_ ?_ ?_
    | exact Nat.le_refl _
    | exact Nat.le_succ _
    | exact List.prefix_rfl
    | exact List.prefix_append _ _

theorem State.spillClean_keeps {s0 : State} {s : State} {p f : Nat} (h : Keeps s0 s) : Keeps s0 (State.spillClean s p f) := by
  unfold State.spillClean
  repeat' first
    | with_reducible first | exact h | assumption | apply State.putFrm_keeps | apply State.dropSlot_keeps
    | intro _
    | split
    | (dsimp only)
    | with_reducible refine Keeps.lit ?_ rfl rfl rfl rfl ?_ ?_ ?_ ?_ ?_ ?_ ?_ ?_
    | exact Nat.le_refl _
    | exact Nat.le_succ _
    | exact List.prefix_rfl
    | exact List.prefix_append _ _

theorem State.allocSlot_keeps {s0 : State} {s : State} {p pidx : Nat} (h : Keeps s0 s) : Keeps s0 (State.allocSlot s p pidx).2 := by
  unfold State.allocSlot
  repeat' first
    | with_reducible first | exact h | assumption | apply State.spillClean_keeps | refine Keeps.thd (by assumption) ?_
          | refine Keeps.snd (by assumption) ?_ | refine Keeps.fst (by assumption) ?_
    | intro _
    | split
    | (dsimp only)
    | with_reducible refine Keeps.lit ?_ rfl rfl rfl rfl ?_ ?_ ?_ ?_ ?_ ?_ ?_ ?_
    | exact Nat.le_refl _
    | exact Nat.le_succ _
    | exact List.prefix_rfl
    | exact List.prefix_append _ _

theorem State.dropTier_keeps {s0 : State} {s : State} {p : Nat} {v : Frm} (h : Keeps s0 s) : Keeps s0 (State.dropTier s p v) := by
  unfold State.dropTier
  repeat' first
    | with_reducible first | exact h | assumption | apply State.modPart_keeps
    | intro _
    | split
    | (dsimp only)
    | with_reducible refine Keeps.lit ?_ rfl rfl rfl rfl ?_ ?_ ?_ ?_ ?_ ?_ ?_ ?_
    | exact Nat.le_refl _
    | exact Nat.le_succ _
    | exact List.prefix_rfl
    | exact List.prefix_append _ _

theorem State.freeIfUnused_keeps {s0 : State} {s : State} {p f : Nat} (h : Keeps s0 s) : Keeps s0 (State.freeIfUnused s p f) := by
  unfold State.freeIfUnused
  repeat' first
    | with_reducible first | exact h | assumption | apply State.modPart_keeps | apply State.putFrm_keeps
          | apply State.dropSlot_keeps | apply State.dropTier_keeps
    | intro _
    | split
    | (dsimp only)
    | with_reducible refine Keeps.lit ?_ rfl rfl rfl rfl ?_ ?_ ?_ ?_ ?_ ?_ ?_ ?_
    | exact Nat.le_refl _
    | exact Nat.le_succ _
    | exact List.prefix_rfl
    | exact List.prefix_append _ _

theorem State.cancelSpill_keeps {s0 : State} {s : State} {p f : Nat} (h : Keeps s0 s) : Keeps s0 (State.cancelSpill s p f) := by
  unfold State.cancelSpill
  repeat' first
    | with_reducible first | exact h | assumption | apply State.modPart_keeps | apply State.putFrm_keeps
    | intro _
    | split
    | (dsimp only)
    | with_reducible refine Keeps.lit ?_ rfl rfl rfl rfl ?_ ?_ ?_ ?_ ?_ ?_ ?_ ?_
    | exact Nat.le_refl _
    | exact Nat.le_succ _
    | exact List.prefix_rfl
    | exact List.prefix_append _ _

theorem State.pinFrame_keeps {s0 : State} {s : State} {p f : Nat} (h : Keeps s0 s) : Keeps s0 (State.pinFrame s p f).2 := by
  unfold State.pinFrame
  repeat' first
    | with_reducible first | exact h | assumption | apply State.cancelSpill_keeps | apply State.putFrm_keeps
          | apply State.modPart_keeps
    | intro _
    | split
    | (dsimp only)
    | with_reducible refine Keeps.lit ?_ rfl rfl rfl rfl ?_ ?_ ?_ ?_ ?_ ?_ ?_ ?_
    | exact Nat.le_refl _
    | exact Nat.le_succ _
    | exact List.prefix_rfl
    | exact List.prefix_append _ _

theorem State.unpinFrame_keeps {s0 : State} {s : State} {p f : Nat} (h : Keeps s0 s) : Keeps s0 (State.unpinFrame s p f) := by
  unfold State.unpinFrame
  repeat' first
    | with_reducible first | exact h | assumption | apply State.putFrm_keeps | apply State.freeIfUnused_keeps
    | intro _
    | split
    | (dsimp only)
    | with_reducible refine Keeps.lit ?_ rfl rfl rfl rfl ?_ ?_ ?_ ?_ ?_ ?_ ?_ ?_
    | exact Nat.le_refl _
    | exact Nat.le_succ _
    | exact List.prefix_rfl
    | exact List.prefix_append _ _

theorem State.newFrame_keeps {s0 : State} {s : State} {p pidx cls : Nat} (h : Keeps s0 s) : Keeps s0 (State.newFrame s p pidx cls).2.2 := by
  unfold State.newFrame
  repeat' first
    | with_reducible first | exact h | assumption | apply State.putFrm_keeps | apply State.takeSlot_keeps
          | apply State.allocSlot_keeps | refine Keeps.thd (by assumption) ?_
          | refine Keeps.snd (by assumption) ?_ | refine Keeps.fst (by assumption) ?_
    | intro _
    | split
    | (dsimp only)
    | with_reducible refine Keeps.lit ?_ rfl rfl rfl rfl ?_ ?_ ?_ ?_ ?_ ?_ ?_ ?_
    | exact Nat.le_refl _
    | exact Nat.le_succ _
    | exact List.prefix_rfl
    | exact List.prefix_append _ _

theorem State.copyColumns_keeps {s0 : State} {s : State} {p from_ to_ rg n : Nat} (h : Keeps s0 s) : Keeps s0 (State.copyColumns s p from_ to_ rg n) := by
  unfold State.copyColumns
  repeat' first
    | with_reducible first | exact h | assumption | apply State.storeWords_keeps | apply Keeps.fold
          | apply Keeps.fold1 | apply Keeps.fold2
    | intro _
    | split
    | (dsimp only)

theorem State.unref_keeps {s0 : State} {s : State} {p f layer g : Nat} (h : Keeps s0 s) : Keeps s0 (State.unref s p f layer g) := by
  unfold State.unref
  repeat' first
    | with_reducible first | exact h | assumption | apply State.putFrm_keeps | apply State.freeIfUnused_keeps
    | intro _
    | split
    | (dsimp only)
    | with_reducible refine Keeps.lit ?_ rfl rfl rfl rfl ?_ ?_ ?_ ?_ ?_ ?_ ?_ ?_
    | exact Nat.le_refl _
    | exact Nat.le_succ _
    | exact List.prefix_rfl
    | exact List.prefix_append _ _

theorem State.tierImage_keeps {s0 : State} {s : State} {p n off : Nat} {store : Bool} {ws : List (W64 × Bool)} (h : Keeps s0 s) : Keeps s0 (State.tierImage s p n off store ws) := by
  unfold State.tierImage
  repeat' first
    | with_reducible first | exact h | assumption | apply State.store_keeps | apply State.tierSend_keeps
          | apply Keeps.fold | apply Keeps.fold1 | apply Keeps.fold2
    | intro _
    | split
    | (dsimp only)
    | with_reducible refine Keeps.lit ?_ rfl rfl rfl rfl ?_ ?_ ?_ ?_ ?_ ?_ ?_ ?_
    | exact Nat.le_refl _
    | exact Nat.le_succ _
    | exact List.prefix_rfl
    | exact List.prefix_append _ _

theorem State.askImage_keeps {s0 : State} {s : State} {p n t rg : Nat} (h : Keeps s0 s) : Keeps s0 (State.askImage s p n t rg) := by
  unfold State.askImage
  repeat' first
    | with_reducible first | exact h | assumption | apply State.tierImage_keeps
    | intro _
    | split
    | (dsimp only)
    | with_reducible refine Keeps.lit ?_ rfl rfl rfl rfl ?_ ?_ ?_ ?_ ?_ ?_ ?_ ?_
    | exact Nat.le_refl _
    | exact Nat.le_succ _
    | exact List.prefix_rfl
    | exact List.prefix_append _ _

theorem State.copyPage_keeps {s0 : State} {s : State} {p old g rg n cls : Nat} (h : Keeps s0 s) : Keeps s0 (State.copyPage s p old g rg n cls).2.2 := by
  unfold State.copyPage
  repeat' first
    | with_reducible first | exact h | assumption | apply State.newFrame_keeps | apply State.putFrm_keeps
          | apply State.modPart_keeps | apply State.askImage_keeps | apply State.copyColumns_keeps
          | refine Keeps.thd (by assumption) ?_ | refine Keeps.snd (by assumption) ?_
          | refine Keeps.fst (by assumption) ?_
    | intro _
    | split
    | (dsimp only)
    | with_reducible refine Keeps.lit ?_ rfl rfl rfl rfl ?_ ?_ ?_ ?_ ?_ ?_ ?_ ?_
    | exact Nat.le_refl _
    | exact Nat.le_succ _
    | exact List.prefix_rfl
    | exact List.prefix_append _ _

theorem State.shareFrame_keeps {s0 : State} {s : State} {p old dst layer g fill : Nat} (h : Keeps s0 s) : Keeps s0 (State.shareFrame s p old dst layer g fill) := by
  unfold State.shareFrame
  extract_lets v t w
  have T : Keeps s0 t := Keeps.iteD (fun _ => State.cancelSpill_keeps h) fun _ => h
  clear_value w t
  refine Keeps.iteD (fun _ => ?_) fun _ => State.putPte_keeps (State.putFrm_keeps T)
  split
  · rename_i e
    exact State.putPte_keeps (Keeps.thd e (State.copyPage_keeps h))
  · rename_i e
    split
    rename_i e1
    have h1 := Keeps.snd e1 (State.pinFrame_keeps (Keeps.thd e (State.copyPage_keeps h)))
    exact Keeps.iteD (fun _ => State.modPart_keeps h1) fun _ => State.kvEvent_keeps h1
  · rename_i e
    exact State.kvEvent_keeps (Keeps.thd e (State.copyPage_keeps h))

theorem State.sharePage_keeps {s0 : State} {s : State} {p src dst k layer g : Nat} (h : Keeps s0 s) : Keeps s0 (State.sharePage s p src dst k layer g) := by
  unfold State.sharePage
  extract_lets e
  clear_value e
  exact Keeps.iteD (fun _ => State.shareFrame_keeps h) fun _ => h

theorem State.wakeShares_keeps {s0 : State} {s : State} {p : Nat} (h : Keeps s0 s) : Keeps s0 (State.wakeShares s p) := by
  unfold State.wakeShares
  refine Keeps.fold _ _ _ (State.modPart_keeps h) fun t w g => ?_
  have g1 := State.unpinFrame_keeps (p := p) (f := w.1) g
  exact Keeps.iteD (fun _ => State.shareFrame_keeps g1) fun _ => g1

theorem State.shareCtx_keeps {s0 : State} {s : State} {p src dst k : Nat} (h : Keeps s0 s) : Keeps s0 (State.shareCtx s p src dst k) := by
  unfold State.shareCtx
  repeat' first
    | with_reducible first | exact h | assumption | apply State.modPart_keeps | apply State.sharePage_keeps
          | apply Keeps.fold | apply Keeps.fold1 | apply Keeps.fold2
    | intro _
    | split
    | (dsimp only)
    | with_reducible refine Keeps.lit ?_ rfl rfl rfl rfl ?_ ?_ ?_ ?_ ?_ ?_ ?_ ?_
    | exact Nat.le_refl _
    | exact Nat.le_succ _
    | exact List.prefix_rfl
    | exact List.prefix_append _ _

theorem State.makeCtx_keeps {s0 : State} {s : State} {p cid layers l2pages rg : Nat} {split : Split} (h : Keeps s0 s) :
    Keeps s0 (State.makeCtx s p cid layers l2pages rg split) := by
  unfold State.makeCtx
  split
  · exact h
  · extract_lets n
    clear_value n
    split
    · exact h
    · apply State.putL1_keeps
      apply Keeps.newHbm (State.modPart_keeps h)
      exact fun w => Hbm.wf_filterBytes w

theorem State.releaseCtx_keeps {s0 : State} {s : State} {p cid : Nat} (h : Keeps s0 s) : Keeps s0 (State.releaseCtx s p cid) := by
  unfold State.releaseCtx
  refine Keeps.iteD (fun _ => h) fun _ => State.modPart_keeps (State.putL1_keeps ?_)
  refine Keeps.fold _ _ _ h fun t l g => Keeps.fold _ _ _ g fun u m k => ?_
  exact Keeps.iteD (fun _ => State.unref_keeps (State.putPte_keeps k)) fun _ => k

theorem State.releaseCid_keeps {s0 : State} {s : State} {l cid : Nat} (h : Keeps s0 s) : Keeps s0 (State.releaseCid s l cid) := by
  unfold State.releaseCid
  repeat' first
    | with_reducible exact h
    | with_reducible assumption
    | intro _
    | with_reducible apply State.releaseCtx_keeps
    | with_reducible apply Keeps.fold
    | with_reducible apply Keeps.fold1
    | with_reducible apply Keeps.fold2
    | split
    | (dsimp only)

theorem State.spillOne_keeps {s0 : State} {s : State} {p : Nat} {waiting : Bool} (h : Keeps s0 s) : Keeps s0 (State.spillOne s p waiting) := by
  unfold State.spillOne
  repeat' first
    | with_reducible first | exact h | assumption | apply State.modPart_keeps | apply State.spillClean_keeps
          | apply State.putFrm_keeps | apply State.tierImage_keeps | apply OKeeps.getD
          | refine Keeps.thd (by assumption) ?_ | refine Keeps.snd (by assumption) ?_
          | refine Keeps.fst (by assumption) ?_
    | intro _
    | split
    | (dsimp only)
    | with_reducible refine Keeps.lit ?_ rfl rfl rfl rfl ?_ ?_ ?_ ?_ ?_ ?_ ?_ ?_
    | exact Nat.le_refl _
    | exact Nat.le_succ _
    | exact List.prefix_rfl
    | exact List.prefix_append _ _

theorem State.spillDone_keeps {s0 : State} {s : State} {p f : Nat} {ok : Bool} (h : Keeps s0 s) : Keeps s0 (State.spillDone s p f ok) := by
  unfold State.spillDone
  repeat' first
    | with_reducible first | exact h | assumption | apply State.modPart_keeps | apply State.putFrm_keeps
          | apply State.dropSlot_keeps | apply State.spillFail_keeps | refine Keeps.thd (by assumption) ?_
          | refine Keeps.snd (by assumption) ?_ | refine Keeps.fst (by assumption) ?_
    | intro _
    | split
    | (dsimp only)
    | with_reducible refine Keeps.lit ?_ rfl rfl rfl rfl ?_ ?_ ?_ ?_ ?_ ?_ ?_ ?_
    | exact Nat.le_refl _
    | exact Nat.le_succ _
    | exact List.prefix_rfl
    | exact List.prefix_append _ _

theorem State.fetchFrame_keeps {s0 : State} {s : State} {p f : Nat} (h : Keeps s0 s) : Keeps s0 (State.fetchFrame s p f).2 := by
  unfold State.fetchFrame
  repeat' first
    | with_reducible first | exact h | assumption | apply State.allocSlot_keeps | apply State.putFrm_keeps
          | apply State.takeSlot_keeps | apply State.askImage_keeps | apply State.modPart_keeps
          | apply State.kvEvent_keeps | apply State.tierImage_keeps | apply State.spillOne_keeps | apply OKeeps.getD
          | refine Keeps.thd (by assumption) ?_ | refine Keeps.snd (by assumption) ?_
          | refine Keeps.fst (by assumption) ?_
    | intro _
    | split
    | (dsimp only)
    | with_reducible refine Keeps.lit ?_ rfl rfl rfl rfl ?_ ?_ ?_ ?_ ?_ ?_ ?_ ?_
    | exact Nat.le_refl _
    | exact Nat.le_succ _
    | exact List.prefix_rfl
    | exact List.prefix_append _ _

theorem State.wakeStreams_keeps {s0 : State} {s : State} {p f : Nat} (h : Keeps s0 s) : Keeps s0 (State.wakeStreams s p f) := by
  unfold State.wakeStreams
  repeat' first
    | with_reducible first | exact h | assumption | apply State.modPart_keeps | refine Keeps.thd (by assumption) ?_
          | refine Keeps.snd (by assumption) ?_ | refine Keeps.fst (by assumption) ?_
    | intro _
    | split
    | (dsimp only)
    | with_reducible refine Keeps.lit ?_ rfl rfl rfl rfl ?_ ?_ ?_ ?_ ?_ ?_ ?_ ?_
    | exact Nat.le_refl _
    | exact Nat.le_succ _
    | exact List.prefix_rfl
    | exact List.prefix_append _ _

theorem State.putPage_keeps {s0 : State} {s : State} {a rg : Nat} {cols : Option Nat} {ws : List (W64 × Bool)} (h : Keeps s0 s) : Keeps s0 (State.putPage s a rg cols ws) := by
  unfold State.putPage
  repeat' first
    | with_reducible first | exact h | assumption | apply State.storeWords_keeps | apply Keeps.fold | apply Keeps.fold1
          | apply Keeps.fold2 | refine Keeps.thd (by assumption) ?_ | refine Keeps.snd (by assumption) ?_
          | refine Keeps.fst (by assumption) ?_
    | intro _
    | split
    | (dsimp only)
    | with_reducible refine Keeps.lit ?_ rfl rfl rfl rfl ?_ ?_ ?_ ?_ ?_ ?_ ?_ ?_
    | exact Nat.le_refl _
    | exact Nat.le_succ _
    | exact List.prefix_rfl
    | exact List.prefix_append _ _

theorem State.fetchDone_keeps {s0 : State} {s : State} {p f : Nat} {data : List Byte} {marked : List Nat} {fails : List (Nat × Nat)} (h : Keeps s0 s) : Keeps s0 (State.fetchDone s p f data marked fails) := by
  unfold State.fetchDone
  extract_lets v rg src fr re bad s1 s2 s3 s4
  have h1 : Keeps s0 s1 := Keeps.fold _ _ _ h fun _ _ g => State.spillFail_keeps g
  clear_value s1
  have h2 : Keeps s0 s2 := State.putPage_keeps h1
  clear_value s2
  have h3 : Keeps s0 s3 := State.putFrm_keeps h2
  clear_value s3
  have h4 : Keeps s0 s4 := by
    unfold s4
    clear_value src
    split
    · exact State.unpinFrame_keeps (State.modPart_keeps h3)
    · exact h3
  clear_value s4
  exact Keeps.iteD (fun _ => h) fun _ => State.wakeStreams_keeps h4

theorem State.compareCheck_keeps {s0 : State} {s : State} {count key mine theirs : Nat} (h : Keeps s0 s) : Keeps s0 (State.compareCheck s count key mine theirs) := by
  unfold State.compareCheck
  repeat' first
    | with_reducible first | exact h | assumption | apply State.modReq_keeps | apply State.log_keeps
          | apply State.queueAbort_keeps | refine Keeps.thd (by assumption) ?_
          | refine Keeps.snd (by assumption) ?_ | refine Keeps.fst (by assumption) ?_
    | intro _
    | split
    | (dsimp only)
    | with_reducible refine Keeps.lit ?_ rfl rfl rfl rfl ?_ ?_ ?_ ?_ ?_ ?_ ?_ ?_
    | exact Nat.le_refl _
    | exact Nat.le_succ _
    | exact List.prefix_rfl
    | exact List.prefix_append _ _

theorem State.ownCheck_keeps {s0 : State} {s : State} {count kind member layer draft pidx value : Nat} (h : Keeps s0 s) : Keeps s0 (State.ownCheck s count kind member layer draft pidx value) := by
  unfold State.ownCheck
  repeat' first
    | with_reducible first | exact h | assumption | apply State.sendMsg_keeps | apply State.compareCheck_keeps
          | refine Keeps.thd (by assumption) ?_ | refine Keeps.snd (by assumption) ?_
          | refine Keeps.fst (by assumption) ?_
    | intro _
    | split
    | (dsimp only)
    | with_reducible refine Keeps.lit ?_ rfl rfl rfl rfl ?_ ?_ ?_ ?_ ?_ ?_ ?_ ?_
    | exact Nat.le_refl _
    | exact Nat.le_succ _
    | exact List.prefix_rfl
    | exact List.prefix_append _ _

theorem State.exportPage_keeps {s0 : State} {s : State} {p cid layer pidx fill frame : Nat} {check : Option Nat} (h : Keeps s0 s) : Keeps s0 (State.exportPage s p cid layer pidx fill frame check) := by
  unfold State.exportPage
  repeat' first
    | with_reducible first | exact h | assumption | apply State.modReq_keeps | apply State.ownCheck_keeps
          | refine Keeps.thd (by assumption) ?_ | refine Keeps.snd (by assumption) ?_
          | refine Keeps.fst (by assumption) ?_
    | intro _
    | split
    | (dsimp only)
    | with_reducible refine Keeps.lit ?_ rfl rfl rfl rfl ?_ ?_ ?_ ?_ ?_ ?_ ?_ ?_
    | exact Nat.le_refl _
    | exact Nat.le_succ _
    | exact List.prefix_rfl
    | exact List.prefix_append _ _

theorem State.ownFrame_keeps {s0 : State} {s : State} {p f : Nat} (h : Keeps s0 s) : Keeps s0 (State.ownFrame s p f) := by
  unfold State.ownFrame
  repeat' first
    | with_reducible first | exact h | assumption | apply State.dropTier_keeps | apply State.putFrm_keeps
    | intro _
    | split
    | (dsimp only)
    | with_reducible refine Keeps.lit ?_ rfl rfl rfl rfl ?_ ?_ ?_ ?_ ?_ ?_ ?_ ?_
    | exact Nat.le_refl _
    | exact Nat.le_succ _
    | exact List.prefix_rfl
    | exact List.prefix_append _ _

theorem State.writeTrailer_keeps {s0 : State} {s : State} {p frame layer pidx fill rg : Nat} (h : Keeps s0 s) : Keeps s0 (State.writeTrailer s p frame layer pidx fill rg).2 := by
  unfold State.writeTrailer
  extract_lets s1 v a full check flags s2
  have h1 : Keeps s0 s1 := State.ownFrame_keeps (State.cancelSpill_keeps h)
  clear_value s1
  have h2 : Keeps s0 s2 := State.storeBytes_keeps h1
  clear_value s2
  exact Keeps.iteD (fun _ => State.putFrm_keeps h2) fun _ => h2

theorem State.sealPage_keeps {s0 : State} {s : State} {p cid layer pidx : Nat} (h : Keeps s0 s) : Keeps s0 (State.sealPage s p cid layer pidx) := by
  unfold State.sealPage
  extract_lets e v
  clear_value v e
  refine Keeps.iteD (fun _ => State.exportPage_keeps h) fun _ => ?_
  split
  rename_i e1
  exact State.exportPage_keeps (Keeps.snd e1 (State.writeTrailer_keeps h))

theorem State.readEntry_keeps {s0 : State} {s : State} {p f cid layer g : Nat} {wrong : Option Code} (h : Keeps s0 s) :
    Keeps s0 (State.readEntry s p f cid layer g wrong).2 := by
  unfold State.readEntry
  split
  · exact h
  · exact Keeps.iteP (fun _ => h) fun _ => Keeps.mk2 rfl (State.modField_keeps h)

theorem State.walk_keeps {s0 : State} {s : State} {p f cid layer g : Nat} (h : Keeps s0 s) : Keeps s0 (State.walk s p f cid layer g).2 := by
  unfold State.walk
  split
  · exact Keeps.mk2 rfl (State.modField_keeps h)
  · exact State.readEntry_keeps (State.addFld_keeps h)

theorem State.setLen_keeps {s0 : State} {s : State} {p cid layer n : Nat} (h : Keeps s0 s) : Keeps s0 (State.setLen s p cid layer n) := by
  unfold State.setLen
  repeat' first
    | with_reducible first | exact h | assumption | apply State.modPart_keeps
    | intro _
    | split
    | (dsimp only)
    | with_reducible refine Keeps.lit ?_ rfl rfl rfl rfl ?_ ?_ ?_ ?_ ?_ ?_ ?_ ?_
    | exact Nat.le_refl _
    | exact Nat.le_succ _
    | exact List.prefix_rfl
    | exact List.prefix_append _ _

theorem State.putAppend_keeps {s0 : State} {s : State} {p no : Nat} {a : Append} (h : Keeps s0 s) : Keeps s0 (State.putAppend s p no a) := by
  unfold State.putAppend
  repeat' first
    | with_reducible first | exact h | assumption | apply State.modPart_keeps
    | intro _
    | split
    | (dsimp only)
    | with_reducible refine Keeps.lit ?_ rfl rfl rfl rfl ?_ ?_ ?_ ?_ ?_ ?_ ?_ ?_
    | exact Nat.le_refl _
    | exact Nat.le_succ _
    | exact List.prefix_rfl
    | exact List.prefix_append _ _

theorem State.failAppend_keeps {s0 : State} {s : State} {p no : Nat} {c : Code} (h : Keeps s0 s) : Keeps s0 (State.failAppend s p no c) := by
  unfold State.failAppend
  repeat' first
    | with_reducible first | exact h | assumption | apply State.kvEvent_keeps | apply State.putAppend_keeps
          | refine Keeps.thd (by assumption) ?_ | refine Keeps.snd (by assumption) ?_
          | refine Keeps.fst (by assumption) ?_
    | intro _
    | split
    | (dsimp only)
    | with_reducible refine Keeps.lit ?_ rfl rfl rfl rfl ?_ ?_ ?_ ?_ ?_ ?_ ?_ ?_
    | exact Nat.le_refl _
    | exact Nat.le_succ _
    | exact List.prefix_rfl
    | exact List.prefix_append _ _

theorem State.readyPage_keeps {s0 : State} {s : State} {p no : Nat} {a : Append} {g f : Nat} (h : Keeps s0 s) : Keeps s0 (State.readyPage s p no a g f).2 := by
  unfold State.readyPage
  extract_lets e t v
  have h1 : Keeps s0 t := State.putAppend_keeps h
  clear_value v t e
  split
  · exact h1
  split
  · split
    · rename_i e1
      have h2 := Keeps.thd e1 (State.copyPage_keeps h1)
      exact State.putAppend_keeps (State.pinFrame_keeps (State.unpinFrame_keeps (State.unref_keeps (State.putPte_keeps h2))))
    · rename_i e1
      exact Keeps.thd e1 (State.copyPage_keeps h1)
  split
  · have h2 := State.fetchFrame_keeps (p := p) (f := f) h1
    split
    · rename_i e1
      exact Keeps.snd e1 h2
    · exact h2
  · exact State.ownFrame_keeps h1

theorem State.preparePage_keeps {s0 : State} {s : State} {p no : Nat} {a : Append} {g : Nat} (h : Keeps s0 s) :
    Keeps s0 (State.preparePage s p no a g).2 := by
  unfold State.preparePage
  extract_lets q
  clear_value q
  split
  · split
    · exact State.readyPage_keeps h
    · exact h
  split
  · exact h
  split
  · exact State.addFld_keeps h
  split
  · split
    · rename_i e1
      exact State.pinFrame_keeps (State.putPte_keeps (State.addFld_keeps (Keeps.thd e1 (State.newFrame_keeps h))))
    · rename_i e1
      exact Keeps.thd e1 (State.newFrame_keeps h)
  · split
    · rename_i e1
      exact Keeps.snd e1 (State.walk_keeps h)
    · rename_i e1
      split
      rename_i e2
      have h2 := Keeps.snd e2 (State.pinFrame_keeps (Keeps.snd e1 (State.walk_keeps h)))
      split
      · exact State.readyPage_keeps h2
      · exact h2

theorem State.endAppend_keeps {s0 : State} {s : State} {p no : Nat} (h : Keeps s0 s) : Keeps s0 (State.endAppend s p no) := by
  unfold State.endAppend
  repeat' first
    | with_reducible first | exact h | assumption | apply State.unpinFrame_keeps | apply State.modPart_keeps
          | apply Keeps.fold | apply Keeps.fold1 | apply Keeps.fold2 | refine Keeps.thd (by assumption) ?_
          | refine Keeps.snd (by assumption) ?_ | refine Keeps.fst (by assumption) ?_
    | intro _
    | split
    | (dsimp only)
    | with_reducible refine Keeps.lit ?_ rfl rfl rfl rfl ?_ ?_ ?_ ?_ ?_ ?_ ?_ ?_
    | exact Nat.le_refl _
    | exact Nat.le_succ _
    | exact List.prefix_rfl
    | exact List.prefix_append _ _

theorem State.runAppend_keeps {s0 : State} (n : Nat) : ∀ {s : State} {p no : Nat}, Keeps s0 s → Keeps s0 (State.runAppend s p no n).2 := by
  induction n with
  | zero => intro s p no h; exact h
  | succ n ih =>
    intro s p no h
    unfold State.runAppend
    split
    · exact h
    · rename_i a0 _
      extract_lets a g
      clear_value g a
      split
      · exact State.putAppend_keeps h
      · have hr : Keeps s0 (match a.frames.at? g with
            | some f => (Got.slot f, s)
            | none => s.preparePage p no a g).2 := by
          split
          · exact h
          · exact State.preparePage_keeps h
        split
        rename_i got t e
        have ht := Keeps.snd e hr
        clear e hr
        split
        · exact ht
        · exact ht
        · exact ht
        · have hu := fun b => State.putAppend_keeps (p := p) (no := no) (a := b) ht
          refine Keeps.iteP (fun _ => hu _) fun _ => Keeps.iteP (fun _ => hu _) fun _ => Keeps.iteP (fun _ => hu _) fun _ => ?_
          exact ih (State.putAppend_keeps (State.post_keeps (hu _)))

theorem State.advanceLen_keeps {s0 : State} {s : State} {p : Nat} {a : Append} {col : Nat} (h : Keeps s0 s) : Keeps s0 (State.advanceLen s p a col) := by
  unfold State.advanceLen
  repeat' first
    | with_reducible first | exact h | assumption | apply State.setLen_keeps
    | intro _
    | split
    | (dsimp only)
    | with_reducible refine Keeps.lit ?_ rfl rfl rfl rfl ?_ ?_ ?_ ?_ ?_ ?_ ?_ ?_
    | exact Nat.le_refl _
    | exact Nat.le_succ _
    | exact List.prefix_rfl
    | exact List.prefix_append _ _

theorem State.acceptColumn_keeps {s0 : State} {s : State} {p : Nat} {a : Append} (h : Keeps s0 s) : Keeps s0 (State.acceptColumn s p a) := by
  unfold State.acceptColumn
  repeat' first
    | with_reducible first | exact h | assumption | apply State.putPte_keeps | apply State.sealPage_keeps
    | intro _
    | split
    | (dsimp only)
    | with_reducible refine Keeps.lit ?_ rfl rfl rfl rfl ?_ ?_ ?_ ?_ ?_ ?_ ?_ ?_
    | exact Nat.le_refl _
    | exact Nat.le_succ _
    | exact List.prefix_rfl
    | exact List.prefix_append _ _

theorem State.putStream_keeps {s0 : State} {s : State} {p no : Nat} {st : ReadStream} (h : Keeps s0 s) : Keeps s0 (State.putStream s p no st) := by
  unfold State.putStream
  repeat' first
    | with_reducible first | exact h | assumption | apply State.modPart_keeps
    | intro _
    | split
    | (dsimp only)
    | with_reducible refine Keeps.lit ?_ rfl rfl rfl rfl ?_ ?_ ?_ ?_ ?_ ?_ ?_ ?_
    | exact Nat.le_refl _
    | exact Nat.le_succ _
    | exact List.prefix_rfl
    | exact List.prefix_append _ _

theorem State.stopStream_keeps {s0 : State} {s : State} {p no : Nat} {st : ReadStream} {c : Code} {pidx : Nat} (h : Keeps s0 s) : Keeps s0 (State.stopStream s p no st c pidx) := by
  unfold State.stopStream
  repeat' first
    | with_reducible first | exact h | assumption | apply State.kvEvent_keeps | apply State.putStream_keeps
    | intro _
    | split
    | (dsimp only)
    | with_reducible refine Keeps.lit ?_ rfl rfl rfl rfl ?_ ?_ ?_ ?_ ?_ ?_ ?_ ?_
    | exact Nat.le_refl _
    | exact Nat.le_succ _
    | exact List.prefix_rfl
    | exact List.prefix_append _ _

theorem State.translate_keeps {s0 : State} {s : State} {p no : Nat} (h : Keeps s0 s) : Keeps s0 (State.translate s p no) := by
  unfold State.translate
  repeat' first
    | with_reducible first | exact h | assumption | apply State.stopStream_keeps | apply State.walk_keeps
          | apply State.putStream_keeps | refine Keeps.thd (by assumption) ?_ | refine Keeps.snd (by assumption) ?_
          | refine Keeps.fst (by assumption) ?_
    | intro _
    | split
    | (dsimp only)
    | with_reducible refine Keeps.lit ?_ rfl rfl rfl rfl ?_ ?_ ?_ ?_ ?_ ?_ ?_ ?_
    | exact Nat.le_refl _
    | exact Nat.le_succ _
    | exact List.prefix_rfl
    | exact List.prefix_append _ _

theorem State.pinArrives_keeps {s0 : State} {s : State} {p f : Nat} (h : Keeps s0 s) : Keeps s0 (State.pinArrives s p f) := by
  unfold State.pinArrives
  repeat' first
    | with_reducible first | exact h | assumption | apply State.putStream_keeps | apply State.pinFrame_keeps
          | apply State.addFld_keeps | apply State.wakeStreams_keeps | refine Keeps.thd (by assumption) ?_
          | refine Keeps.snd (by assumption) ?_ | refine Keeps.fst (by assumption) ?_
    | intro _
    | split
    | (dsimp only)
    | with_reducible refine Keeps.lit ?_ rfl rfl rfl rfl ?_ ?_ ?_ ?_ ?_ ?_ ?_ ?_
    | exact Nat.le_refl _
    | exact Nat.le_succ _
    | exact List.prefix_rfl
    | exact List.prefix_append _ _

theorem State.poolStops_keeps {s0 : State} {s : State} {p f : Nat} (h : Keeps s0 s) : Keeps s0 (State.poolStops s p f) := by
  unfold State.poolStops
  repeat' first
    | with_reducible first | exact h | assumption | apply State.stopStream_keeps | apply State.failAppend_keeps
          | apply Keeps.fold | apply Keeps.fold1 | apply Keeps.fold2 | refine Keeps.thd (by assumption) ?_
          | refine Keeps.snd (by assumption) ?_ | refine Keeps.fst (by assumption) ?_
    | intro _
    | split
    | (dsimp only)
    | with_reducible refine Keeps.lit ?_ rfl rfl rfl rfl ?_ ?_ ?_ ?_ ?_ ?_ ?_ ?_
    | exact Nat.le_refl _
    | exact Nat.le_succ _
    | exact List.prefix_rfl
    | exact List.prefix_append _ _

theorem State.fetchFor_keeps {s0 : State} {s : State} {p f : Nat} (h : Keeps s0 s) : Keeps s0 (State.fetchFor s p f).2 := by
  unfold State.fetchFor
  repeat' first
    | with_reducible first | exact h | assumption | apply State.fetchFrame_keeps | apply State.poolStops_keeps
          | apply State.spillOne_keeps | refine Keeps.thd (by assumption) ?_ | refine Keeps.snd (by assumption) ?_
          | refine Keeps.fst (by assumption) ?_
    | intro _
    | split
    | (dsimp only)
    | with_reducible refine Keeps.lit ?_ rfl rfl rfl rfl ?_ ?_ ?_ ?_ ?_ ?_ ?_ ?_
    | exact Nat.le_refl _
    | exact Nat.le_succ _
    | exact List.prefix_rfl
    | exact List.prefix_append _ _

theorem State.postRecord_keeps {s0 : State} {s : State} {p : Nat} {st : ReadStream} {rg : Nat} {l : Live} (h : Keeps s0 s) : OKeeps1 s0 (State.postRecord s p st rg l) := by
  unfold State.postRecord
  repeat' first
    | with_reducible first | exact h | assumption | apply State.storeBytes_keeps | apply State.post_keeps
          | apply OKeeps1.none | apply OKeeps1.some
    | intro _
    | split
    | (dsimp only)
    | with_reducible refine Keeps.lit ?_ rfl rfl rfl rfl ?_ ?_ ?_ ?_ ?_ ?_ ?_ ?_
    | exact Nat.le_refl _
    | exact Nat.le_succ _
    | exact List.prefix_rfl
    | exact List.prefix_append _ _

theorem State.postTiles_keeps {s0 : State} (n : Nat) : ∀ {s : State} {p no : Nat} {st : ReadStream} {f : Nat} {tiles : List (Nat × Nat × Nat)}, Keeps s0 s → Keeps s0 (State.postTiles s p no st f tiles n).1 := by
  induction n with
  | zero =>
    intro s p no st f tiles h
    unfold State.postTiles
    repeat' first
      | with_reducible first | exact h | apply State.post_keeps | refine Keeps.thd (by assumption) ?_
          | refine Keeps.snd (by assumption) ?_ | refine Keeps.fst (by assumption) ?_
      | intro _
      | split
      | (dsimp only)
      | with_reducible refine Keeps.lit ?_ rfl rfl rfl rfl ?_ ?_ ?_ ?_ ?_ ?_ ?_ ?_
      | exact Nat.le_refl _
      | exact Nat.le_succ _
      | exact List.prefix_rfl
      | exact List.prefix_append _ _
  | succ n ih =>
    intro s p no st f tiles h
    unfold State.postTiles
    repeat' first
      | with_reducible first | exact h | apply ih | apply State.post_keeps | refine Keeps.thd (by assumption) ?_
          | refine Keeps.snd (by assumption) ?_ | refine Keeps.fst (by assumption) ?_
      | intro _
      | split
      | (dsimp only)
      | with_reducible refine Keeps.lit ?_ rfl rfl rfl rfl ?_ ?_ ?_ ?_ ?_ ?_ ?_ ?_
      | exact Nat.le_refl _
      | exact Nat.le_succ _
      | exact List.prefix_rfl
      | exact List.prefix_append _ _

theorem State.putOrEnd_keeps {s0 : State} {s : State} {p no : Nat} {st : ReadStream} (h : Keeps s0 s) : Keeps s0 (State.putOrEnd s p no st) := by
  unfold State.putOrEnd
  repeat' first
    | with_reducible first | exact h | assumption | apply State.modPart_keeps | apply State.putStream_keeps
          | refine Keeps.thd (by assumption) ?_ | refine Keeps.snd (by assumption) ?_
          | refine Keeps.fst (by assumption) ?_
    | intro _
    | split
    | (dsimp only)
    | with_reducible refine Keeps.lit ?_ rfl rfl rfl rfl ?_ ?_ ?_ ?_ ?_ ?_ ?_ ?_
    | exact Nat.le_refl _
    | exact Nat.le_succ _
    | exact List.prefix_rfl
    | exact List.prefix_append _ _

theorem State.visitPage_keeps {s0 : State} {s : State} {p no : Nat} (h : Keeps s0 s) : Keeps s0 (State.visitPage s p no) := by
  unfold State.visitPage
  split
  · exact h
  split
  · exact h
  split
  · exact h
  split
  · exact h
  split
  · exact State.stopStream_keeps h
  · exact h
  dsimp only
  split
  · exact State.stopStream_keeps h
  split
  · exact State.stopStream_keeps h
  split
  · exact h
  · rename_i s1 st1 e1
    have h1 : Keeps s0 s1 := by
      refine OKeeps1.get e1 ?_
      apply OKeeps1.iteD
      · intro _
        exact OKeeps1.map _ (State.postRecord_keeps h)
      · intro _
        exact OKeeps1.some h
    clear e1
    apply Keeps.iteD
    · intro _
      exact State.putStream_keeps (State.postTiles_keeps _ h1)
    · intro _
      exact State.putOrEnd_keeps (State.postTiles_keeps _ h1)

theorem State.armStream_keeps {s0 : State} {s : State} {p : Nat} {plan : List Byte} {cid layer seqlen first last group : Nat} (h : Keeps s0 s) : Keeps s0 (State.armStream s p plan cid layer seqlen first last group) := by
  unfold State.armStream
  repeat' first
    | with_reducible first | exact h | assumption | apply State.kvEvent_keeps | apply State.modPart_keeps
          | apply State.putOrEnd_keeps | apply State.putStream_keeps
    | intro _
    | split
    | (dsimp only)
    | with_reducible refine Keeps.lit ?_ rfl rfl rfl rfl ?_ ?_ ?_ ?_ ?_ ?_ ?_ ?_
    | exact Nat.le_refl _
    | exact Nat.le_succ _
    | exact List.prefix_rfl
    | exact List.prefix_append _ _

theorem State.startAppend_keeps {s0 : State} {s : State} {p cid layer sq t n group : Nat} {cmd : Option (Nat × Nat × Nat)} (h : Keeps s0 s) : Keeps s0 (State.startAppend s p cid layer sq t n group cmd).2 := by
  unfold State.startAppend
  repeat' first
    | with_reducible first | exact h | assumption | apply State.advanceLen_keeps | apply State.putAppend_keeps
    | intro _
    | split
    | (dsimp only)
    | with_reducible refine Keeps.lit ?_ rfl rfl rfl rfl ?_ ?_ ?_ ?_ ?_ ?_ ?_ ?_
    | exact Nat.le_refl _
    | exact Nat.le_succ _
    | exact List.prefix_rfl
    | exact List.prefix_append _ _

theorem execPageTranslation_keeps (part : Nat) (stream : HbmReader) (s : State) (t : State) (g : execPageTranslation part stream s = .next t) : Keeps s t := by
  have h := Keeps.refl s
  unfold execPageTranslation at g
  injection g with g
  subst g
  repeat' first
    | with_reducible first | exact h | assumption | apply State.hbmFind_keeps | apply State.translate_keeps
    | intro _
    | split
    | (dsimp only)
    | with_reducible refine Keeps.lit ?_ rfl rfl rfl rfl ?_ ?_ ?_ ?_ ?_ ?_ ?_ ?_
    | exact Nat.le_refl _
    | exact Nat.le_succ _
    | exact List.prefix_rfl
    | exact List.prefix_append _ _

theorem execPin_keeps (part frame : Nat) (s : State) (t : State) (g : execPin part frame s = .next t) : Keeps s t := by
  have h := Keeps.refl s
  unfold execPin at g
  injection g with g
  subst g
  repeat' first
    | with_reducible first | exact h | assumption | apply State.pinArrives_keeps
    | intro _
    | split
    | (dsimp only)

theorem execFrameFetch_keeps (part frame : Nat) (s : State) (t : State) (g : execFrameFetch part frame s = .next t) : Keeps s t := by
  have h := Keeps.refl s
  unfold execFrameFetch at g
  injection g with g
  subst g
  repeat' first
    | with_reducible first | exact h | assumption | apply State.fetchFor_keeps | apply State.fetchFrame_keeps
    | intro _
    | split
    | (dsimp only)
    | with_reducible refine Keeps.lit ?_ rfl rfl rfl rfl ?_ ?_ ?_ ?_ ?_ ?_ ?_ ?_
    | exact Nat.le_refl _
    | exact Nat.le_succ _
    | exact List.prefix_rfl
    | exact List.prefix_append _ _

theorem execReadStreamVisit_keeps (part : Nat) (stream : HbmReader) (s : State) (t : State) (g : execReadStreamVisit part stream s = .next t) : Keeps s t := by
  have h := Keeps.refl s
  unfold execReadStreamVisit at g
  injection g with g
  subst g
  repeat' first
    | with_reducible first | exact h | assumption | apply State.hbmFind_keeps | apply State.visitPage_keeps
          | apply State.settle_keeps
    | intro _
    | split
    | (dsimp only)
    | with_reducible refine Keeps.lit ?_ rfl rfl rfl rfl ?_ ?_ ?_ ?_ ?_ ?_ ?_ ?_
    | exact Nat.le_refl _
    | exact Nat.le_succ _
    | exact List.prefix_rfl
    | exact List.prefix_append _ _

end Sys2Proof.Machine
end

