-- ==== Sys2Proof/Laws/KeepsRings.lean ====
section
/-! SUPPORT. What the operations of Machine/Rings.lean keep (Keeps). -/
namespace Sys2Proof.Machine

theorem State.modRing_keeps {s0 : State} {s : State} {p r : Nat} {f : Ring → Ring} (h : Keeps s0 s) : Keeps s0 (State.modRing s p r f) := by
  unfold State.modRing
  repeat' first
    | with_reducible first | exact h | assumption
    | intro _
    | split
    | (dsimp only)
    | with_reducible refine Keeps.lit ?_ rfl rfl rfl rfl ?_ ?_ ?_ ?_ ?_ ?_ ?_ ?_
    | exact Nat.le_refl _
    | exact Nat.le_succ _
    | exact List.prefix_rfl
    | exact List.prefix_append _ _

theorem State.syncContexts_keeps {s0 : State} {s : State} {l : Nat} (h : Keeps s0 s) : Keeps s0 (State.syncContexts s l) := by
  unfold State.syncContexts
  repeat' first
    | with_reducible first | exact h | assumption | apply State.setFld_keeps
    | intro _
    | split
    | (dsimp only)

theorem State.postTail_keeps {s0 : State} {s : State} {p r v : Nat} (h : Keeps s0 s) : Keeps s0 (State.postTail s p r v) := by
  unfold State.postTail
  repeat' first
    | with_reducible first | exact h | assumption | apply State.modRing_keeps
    | intro _
    | split
    | (dsimp only)
    | with_reducible refine Keeps.lit ?_ rfl rfl rfl rfl ?_ ?_ ?_ ?_ ?_ ?_ ?_ ?_
    | exact Nat.le_refl _
    | exact Nat.le_succ _
    | exact List.prefix_rfl
    | exact List.prefix_append _ _

theorem State.doorbell_keeps {s0 : State} {s : State} {b : Bool} {p r : Nat} {cq : Bool} {v : W32} (h : Keeps s0 s) : Keeps s0 (State.doorbell s b p r cq v) := by
  unfold State.doorbell
  repeat' first
    | with_reducible first | exact h | assumption | apply State.hostAccess_keeps | apply State.modRing_keeps
          | apply State.postTail_keeps
    | intro _
    | split
    | (dsimp only)
    | with_reducible refine Keeps.lit ?_ rfl rfl rfl rfl ?_ ?_ ?_ ?_ ?_ ?_ ?_ ?_
    | exact Nat.le_refl _
    | exact Nat.le_succ _
    | exact List.prefix_rfl
    | exact List.prefix_append _ _

theorem State.makeRec_keeps {s0 : State} {s : State} {tag : W32} {status kind member reqid result detail : Nat} {irq counted : Bool} (h : Keeps s0 s) : Keeps s0 (State.makeRec s tag status kind member reqid result detail irq counted).2 := by
  unfold State.makeRec
  repeat' first
    | with_reducible first | exact h | assumption
    | intro _
    | split
    | (dsimp only)
    | with_reducible refine Keeps.lit ?_ rfl rfl rfl rfl ?_ ?_ ?_ ?_ ?_ ?_ ?_ ?_
    | exact Nat.le_refl _
    | exact Nat.le_succ _
    | exact List.prefix_rfl
    | exact List.prefix_append _ _

theorem State.endCmd_keeps {s0 : State} {s : State} {p r no status reqid result detail : Nat} (h : Keeps s0 s) : Keeps s0 (State.endCmd s p r no status reqid result detail) := by
  unfold State.endCmd
  repeat' first
    | with_reducible first | exact h | assumption | apply State.modRing_keeps | apply State.makeRec_keeps
          | refine Keeps.thd (by assumption) ?_ | refine Keeps.snd (by assumption) ?_
          | refine Keeps.fst (by assumption) ?_
    | intro _
    | split
    | (dsimp only)
    | with_reducible refine Keeps.lit ?_ rfl rfl rfl rfl ?_ ?_ ?_ ?_ ?_ ?_ ?_ ?_
    | exact Nat.le_refl _
    | exact Nat.le_succ _
    | exact List.prefix_rfl
    | exact List.prefix_append _ _

theorem State.answer_keeps {s0 : State} {s : State} {p r : Nat} {c : Cmd} {st : Status} {reqid result : Nat} (h : Keeps s0 s) : Keeps s0 (State.answer s p r c st reqid result) := by
  unfold State.answer
  repeat' first
    | with_reducible first | exact h | assumption | apply State.endCmd_keeps
    | intro _
    | split
    | (dsimp only)

theorem State.endWaiting_keeps {s0 : State} {s : State} {no status reqid result detail : Nat} (h : Keeps s0 s) : Keeps s0 (State.endWaiting s no status reqid result detail) := by
  unfold State.endWaiting
  repeat' first
    | with_reducible first | exact h | assumption | apply State.endCmd_keeps | refine Keeps.thd (by assumption) ?_
          | refine Keeps.snd (by assumption) ?_ | refine Keeps.fst (by assumption) ?_
    | intro _
    | split
    | (dsimp only)
    | with_reducible refine Keeps.lit ?_ rfl rfl rfl rfl ?_ ?_ ?_ ?_ ?_ ?_ ?_ ?_
    | exact Nat.le_refl _
    | exact Nat.le_succ _
    | exact List.prefix_rfl
    | exact List.prefix_append _ _

theorem State.waitCmd_keeps {s0 : State} {s : State} {p r no : Nat} (h : Keeps s0 s) : Keeps s0 (State.waitCmd s p r no) := by
  unfold State.waitCmd
  repeat' first
    | with_reducible first | exact h | assumption | apply State.modRing_keeps
    | intro _
    | split
    | (dsimp only)
    | with_reducible refine Keeps.lit ?_ rfl rfl rfl rfl ?_ ?_ ?_ ?_ ?_ ?_ ?_ ?_
    | exact Nat.le_refl _
    | exact Nat.le_succ _
    | exact List.prefix_rfl
    | exact List.prefix_append _ _

theorem State.pushEnd_keeps {s0 : State} {s : State} {q : Request} {member status result detail : Nat} (h : Keeps s0 s) : Keeps s0 (State.pushEnd s q member status result detail) := by
  unfold State.pushEnd
  repeat' first
    | with_reducible first | exact h | assumption | apply State.modRing_keeps | apply State.makeRec_keeps
          | refine Keeps.thd (by assumption) ?_ | refine Keeps.snd (by assumption) ?_
          | refine Keeps.fst (by assumption) ?_
    | intro _
    | split
    | (dsimp only)
    | with_reducible refine Keeps.lit ?_ rfl rfl rfl rfl ?_ ?_ ?_ ?_ ?_ ?_ ?_ ?_
    | exact Nat.le_refl _
    | exact Nat.le_succ _
    | exact List.prefix_rfl
    | exact List.prefix_append _ _

theorem State.abortCmds_keeps {s0 : State} {s : State} {p detail : Nat} (h : Keeps s0 s) : Keeps s0 (State.abortCmds s p detail) := by
  unfold State.abortCmds
  repeat' first
    | with_reducible first | exact h | assumption | apply State.endCmd_keeps | apply Keeps.fold | apply Keeps.fold1
          | apply Keeps.fold2
    | intro _
    | split
    | (dsimp only)

theorem State.serving_keeps {s0 : State} {s : State} {p r opc : Nat} {f : Cmd → State} (h : Keeps s0 s) (hf : ∀ c, Keeps s0 (f c)) :
    Keeps s0 (State.serving s p r opc f) := by
  unfold State.serving
  split
  · exact h
  · split
    · exact hf _
    · exact State.answer_keeps h

theorem State.askHost_keeps {s0 : State} {s : State} {q : HostRead} (h : Keeps s0 s) : Keeps s0 (State.askHost s q) := by
  unfold State.askHost
  repeat' first
    | with_reducible first | exact h | assumption
    | intro _
    | split
    | (dsimp only)
    | with_reducible refine Keeps.lit ?_ rfl rfl rfl rfl ?_ ?_ ?_ ?_ ?_ ?_ ?_ ?_
    | exact Nat.le_refl _
    | exact Nat.le_succ _
    | exact List.prefix_rfl
    | exact List.prefix_append _ _

theorem State.modCmd_keeps {s0 : State} {s : State} {p r no : Nat} {f : Cmd → Cmd} (h : Keeps s0 s) : Keeps s0 (State.modCmd s p r no f) := by
  unfold State.modCmd
  repeat' first
    | with_reducible first | exact h | assumption | apply State.modRing_keeps
    | intro _
    | split
    | (dsimp only)
    | with_reducible refine Keeps.lit ?_ rfl rfl rfl rfl ?_ ?_ ?_ ?_ ?_ ?_ ?_ ?_
    | exact Nat.le_refl _
    | exact Nat.le_succ _
    | exact List.prefix_rfl
    | exact List.prefix_append _ _

theorem State.nextPayRead_keeps {s0 : State} {s : State} {p r : Nat} (h : Keeps s0 s) : Keeps s0 (State.nextPayRead s p r) := by
  unfold State.nextPayRead
  repeat' first
    | with_reducible first | exact h | assumption | apply State.fetch_keeps | apply State.answer_keeps
          | apply State.askHost_keeps | refine Keeps.thd (by assumption) ?_ | refine Keeps.snd (by assumption) ?_
          | refine Keeps.fst (by assumption) ?_
    | intro _
    | split
    | (dsimp only)
    | with_reducible refine Keeps.lit ?_ rfl rfl rfl rfl ?_ ?_ ?_ ?_ ?_ ?_ ?_ ?_
    | exact Nat.le_refl _
    | exact Nat.le_succ _
    | exact List.prefix_rfl
    | exact List.prefix_append _ _

theorem State.fetched_keeps {s0 : State} {s : State} {p r : Nat} {desc pkt : List Byte} (h : Keeps s0 s) : Keeps s0 (State.fetched s p r desc pkt) := by
  unfold State.fetched
  repeat' first
    | with_reducible first | exact h | assumption | apply State.setFld_keeps | apply State.addFld_keeps
          | apply State.modRing_keeps | apply State.answer_keeps | apply State.nextPayRead_keeps
          | apply OKeeps.getD
    | intro _
    | split
    | (dsimp only)
    | with_reducible refine Keeps.lit ?_ rfl rfl rfl rfl ?_ ?_ ?_ ?_ ?_ ?_ ?_ ?_
    | exact Nat.le_refl _
    | exact Nat.le_succ _
    | exact List.prefix_rfl
    | exact List.prefix_append _ _

theorem State.fetchFailed_keeps {s0 : State} {s : State} {p r : Nat} {desc : List Byte} (h : Keeps s0 s) : Keeps s0 (State.fetchFailed s p r desc) := by
  unfold State.fetchFailed
  repeat' first
    | with_reducible exact h
    | with_reducible assumption
    | intro _
    | with_reducible apply State.setFld_keeps
    | with_reducible apply State.modRing_keeps
    | with_reducible apply State.makeRec_keeps
    | with_reducible apply OKeeps.getD
    | with_reducible refine Keeps.thd (by assumption) ?_
    | with_reducible refine Keeps.snd (by assumption) ?_
    | with_reducible refine Keeps.fst (by assumption) ?_
    | split
    | (dsimp only)
    | with_reducible refine Keeps.lit ?_ rfl rfl rfl rfl (by first | exact Nat.le_refl _ | exact Nat.le_succ _) (by first | exact Nat.le_refl _ | exact Nat.le_succ _) (by first | exact List.prefix_rfl | exact List.prefix_append _ _) (by first | exact List.prefix_rfl | exact List.prefix_append _ _) (by first | exact List.prefix_rfl | exact List.prefix_append _ _) (by first | exact List.prefix_rfl | exact List.prefix_append _ _) (by first | exact List.prefix_rfl | exact List.prefix_append _ _) (by first | exact List.prefix_rfl | exact List.prefix_append _ _)

theorem State.listRead_keeps {s0 : State} {s : State} {p r : Nat} {c : Cmd} (h : Keeps s0 s) : Keeps s0 (State.listRead s p r c) := by
  unfold State.listRead
  repeat' first
    | with_reducible first | exact h | assumption | apply State.answer_keeps | apply State.modCmd_keeps
    | intro _
    | split
    | (dsimp only)
    | with_reducible refine Keeps.lit ?_ rfl rfl rfl rfl ?_ ?_ ?_ ?_ ?_ ?_ ?_ ?_
    | exact Nat.le_refl _
    | exact Nat.le_succ _
    | exact List.prefix_rfl
    | exact List.prefix_append _ _

theorem State.payRead_keeps {s0 : State} {s : State} {q : HostRead} {no : Nat} {st : RdStatus} {data : List Byte} (h : Keeps s0 s) : Keeps s0 (State.payRead s q no st data) := by
  unfold State.payRead
  repeat' first
    | with_reducible first | exact h | assumption | apply State.answer_keeps | apply State.modCmd_keeps
          | apply State.nextPayRead_keeps | apply State.listRead_keeps | refine Keeps.thd (by assumption) ?_
          | refine Keeps.snd (by assumption) ?_ | refine Keeps.fst (by assumption) ?_
    | intro _
    | split
    | (dsimp only)
    | with_reducible refine Keeps.lit ?_ rfl rfl rfl rfl ?_ ?_ ?_ ?_ ?_ ?_ ?_ ?_
    | exact Nat.le_refl _
    | exact Nat.le_succ _
    | exact List.prefix_rfl
    | exact List.prefix_append _ _

theorem State.hostAnswer_keeps {s0 : State} {s : State} {tag : Nat} {st : RdStatus} {data : List Byte} (h : Keeps s0 s) : Keeps s0 (State.hostAnswer s tag st data) := by
  unfold State.hostAnswer
  repeat' first
    | with_reducible first | exact h | assumption | apply State.askHost_keeps | apply State.fetched_keeps
          | apply State.fetchFailed_keeps | apply State.payRead_keeps | refine Keeps.thd (by assumption) ?_
          | refine Keeps.snd (by assumption) ?_ | refine Keeps.fst (by assumption) ?_
    | intro _
    | split
    | (dsimp only)
    | with_reducible refine Keeps.lit ?_ rfl rfl rfl rfl ?_ ?_ ?_ ?_ ?_ ?_ ?_ ?_
    | exact Nat.le_refl _
    | exact Nat.le_succ _
    | exact List.prefix_rfl
    | exact List.prefix_append _ _

theorem State.dropFetch_keeps {s0 : State} {s : State} {p r : Nat} (h : Keeps s0 s) : Keeps s0 (State.dropFetch s p r) := by
  unfold State.dropFetch
  repeat' first
    | with_reducible first | exact h | assumption | apply State.fetch_keeps
    | intro _
    | split
    | (dsimp only)
    | with_reducible refine Keeps.lit ?_ rfl rfl rfl rfl ?_ ?_ ?_ ?_ ?_ ?_ ?_ ?_
    | exact Nat.le_refl _
    | exact Nat.le_succ _
    | exact List.prefix_rfl
    | exact List.prefix_append _ _

theorem State.fetchNext_keeps {s0 : State} {s : State} {p : Nat} (h : Keeps s0 s) : Keeps s0 (State.fetchNext s p) := by
  unfold State.fetchNext
  repeat' first
    | with_reducible first | exact h | assumption | apply State.askHost_keeps | refine Keeps.thd (by assumption) ?_
          | refine Keeps.snd (by assumption) ?_ | refine Keeps.fst (by assumption) ?_
    | intro _
    | split
    | (dsimp only)
    | with_reducible refine Keeps.lit ?_ rfl rfl rfl rfl ?_ ?_ ?_ ?_ ?_ ?_ ?_ ?_
    | exact Nat.le_refl _
    | exact Nat.le_succ _
    | exact List.prefix_rfl
    | exact List.prefix_append _ _

theorem execDescriptorFetch_keeps (part : Nat) (s : State) (t : State) (g : execDescriptorFetch part s = .next t) : Keeps s t := by
  have h := Keeps.refl s
  unfold execDescriptorFetch at g
  injection g with g
  subst g
  repeat' first
    | with_reducible first | exact h | assumption | apply State.fetchNext_keeps
    | intro _
    | split
    | (dsimp only)

theorem execHostReadCompletion_keeps (tag : Nat) (status : RdStatus) (data : List Byte) (s : State) (t : State) (g : execHostReadCompletion tag status data s = .next t) : Keeps s t := by
  have h := Keeps.refl s
  unfold execHostReadCompletion at g
  injection g with g
  subst g
  repeat' first
    | with_reducible first | exact h | assumption | apply State.hostAnswer_keeps
    | intro _
    | split
    | (dsimp only)

theorem execHostReadTimeout_keeps (tag : Nat) (s : State) (t : State) (g : execHostReadTimeout tag s = .next t) : Keeps s t := by
  have h := Keeps.refl s
  unfold execHostReadTimeout at g
  injection g with g
  subst g
  repeat' first
    | with_reducible first | exact h | assumption | apply State.hostAnswer_keeps
    | intro _
    | split
    | (dsimp only)

theorem State.interrupt_keeps {s0 : State} {s : State} {p r : Nat} (h : Keeps s0 s) : Keeps s0 (State.interrupt s p r) := by
  unfold State.interrupt
  repeat' first
    | with_reducible first | exact h | assumption | apply State.hostWrite_keeps | apply State.modRing_keeps
    | intro _
    | split
    | (dsimp only)
    | with_reducible refine Keeps.lit ?_ rfl rfl rfl rfl ?_ ?_ ?_ ?_ ?_ ?_ ?_ ?_
    | exact Nat.le_refl _
    | exact Nat.le_succ _
    | exact List.prefix_rfl
    | exact List.prefix_append _ _

theorem State.putRecord_keeps {s0 : State} {s : State} {p r : Nat} {q : Rec} (h : Keeps s0 s) : Keeps s0 (State.putRecord s p r q) := by
  unfold State.putRecord
  repeat' first
    | with_reducible first | exact h | assumption | apply State.modRing_keeps | apply State.hostWrite_keeps
          | apply State.setFld_keeps | apply State.interrupt_keeps
    | intro _
    | split
    | (dsimp only)
    | with_reducible refine Keeps.lit ?_ rfl rfl rfl rfl ?_ ?_ ?_ ?_ ?_ ?_ ?_ ?_
    | exact Nat.le_refl _
    | exact Nat.le_succ _
    | exact List.prefix_rfl
    | exact List.prefix_append _ _

theorem State.writeRecord_keeps {s0 : State} {s : State} {p r : Nat} (h : Keeps s0 s) : Keeps s0 (State.writeRecord s p r) := by
  unfold State.writeRecord
  repeat' first
    | with_reducible first | exact h | assumption | apply State.putRecord_keeps
          | refine Keeps.thd (by assumption) ?_ | refine Keeps.snd (by assumption) ?_
          | refine Keeps.fst (by assumption) ?_
    | intro _
    | split
    | (dsimp only)
    | with_reducible refine Keeps.lit ?_ rfl rfl rfl rfl ?_ ?_ ?_ ?_ ?_ ?_ ?_ ?_
    | exact Nat.le_refl _
    | exact Nat.le_succ _
    | exact List.prefix_rfl
    | exact List.prefix_append _ _

theorem execCompletionRecordWrite_keeps (part ring : Nat) (s : State) (t : State) (g : execCompletionRecordWrite part ring s = .next t) : Keeps s t := by
  have h := Keeps.refl s
  unfold execCompletionRecordWrite at g
  injection g with g
  subst g
  repeat' first
    | with_reducible first | exact h | assumption | apply State.writeRecord_keeps
    | intro _
    | split
    | (dsimp only)

theorem State.flushRecords_keeps {s0 : State} {s : State} {p : Nat} (h : Keeps s0 s) : Keeps s0 (State.flushRecords s p) := by
  unfold State.flushRecords
  repeat' first
    | with_reducible first | exact h | assumption | apply State.modRing_keeps | apply State.putRecord_keeps
          | apply Keeps.fold | apply Keeps.fold1 | apply Keeps.fold2
    | intro _
    | split
    | (dsimp only)
    | with_reducible refine Keeps.lit ?_ rfl rfl rfl rfl ?_ ?_ ?_ ?_ ?_ ?_ ?_ ?_
    | exact Nat.le_refl _
    | exact Nat.le_succ _
    | exact List.prefix_rfl
    | exact List.prefix_append _ _

theorem execMsiXHoldoffExpiry_keeps (part ring : Nat) (s : State) (t : State) (g : execMsiXHoldoffExpiry part ring s = .next t) : Keeps s t := by
  have h := Keeps.refl s
  unfold execMsiXHoldoffExpiry at g
  injection g with g
  subst g
  repeat' first
    | with_reducible first | exact h | assumption | apply State.modRing_keeps | apply State.interrupt_keeps
    | intro _
    | split
    | (dsimp only)
    | with_reducible refine Keeps.lit ?_ rfl rfl rfl rfl ?_ ?_ ?_ ?_ ?_ ?_ ?_ ?_
    | exact Nat.le_refl _
    | exact Nat.le_succ _
    | exact List.prefix_rfl
    | exact List.prefix_append _ _

theorem execFence_keeps (part ring : Nat) (s : State) (t : State) (g : execFence part ring s = .next t) : Keeps s t := by
  have h := Keeps.refl s
  unfold execFence at g
  injection g with g
  subst g
  repeat' first
    | with_reducible first | exact h | assumption | apply State.answer_keeps | refine Keeps.thd (by assumption) ?_
          | refine Keeps.snd (by assumption) ?_ | refine Keeps.fst (by assumption) ?_
    | intro _
    | split
    | (dsimp only)
    | with_reducible refine Keeps.lit ?_ rfl rfl rfl rfl ?_ ?_ ?_ ?_ ?_ ?_ ?_ ?_
    | exact Nat.le_refl _
    | exact Nat.le_succ _
    | exact List.prefix_rfl
    | exact List.prefix_append _ _

end Sys2Proof.Machine
end

