-- ==== Sys2Proof/Laws/KeepsAppend.lean ====
section
/-! SUPPORT. What the operations of Machine/Append.lean keep (Keeps). -/
namespace Sys2Proof.Machine

theorem State.settleAppend_keeps {s0 : State} {s : State} {p no : Nat} (h : Keeps s0 s) : Keeps s0 (State.settleAppend s p no) := by
  unfold State.settleAppend
  repeat' first
    | with_reducible first | exact h | assumption | apply State.endAppend_keeps | apply State.endCmd_keeps
          | refine Keeps.thd (by assumption) ?_ | refine Keeps.snd (by assumption) ?_
          | refine Keeps.fst (by assumption) ?_
    | intro _
    | split
    | (dsimp only)
    | with_reducible refine Keeps.lit ?_ rfl rfl rfl rfl ?_ ?_ ?_ ?_ ?_ ?_ ?_ ?_
    | exact Nat.le_refl _
    | exact Nat.le_succ _
    | exact List.prefix_rfl
    | exact List.prefix_append _ _

theorem State.pushAppend_keeps {s0 : State} {s : State} {p no : Nat} (h : Keeps s0 s) : Keeps s0 (State.pushAppend s p no) := by
  unfold State.pushAppend
  repeat' first
    | with_reducible first | exact h | assumption | apply State.runAppend_keeps | apply State.failAppend_keeps
          | apply State.settleAppend_keeps | refine Keeps.thd (by assumption) ?_ | refine Keeps.snd (by assumption) ?_
          | refine Keeps.fst (by assumption) ?_
    | intro _
    | split
    | (dsimp only)
    | with_reducible refine Keeps.lit ?_ rfl rfl rfl rfl ?_ ?_ ?_ ?_ ?_ ?_ ?_ ?_
    | exact Nat.le_refl _
    | exact Nat.le_succ _
    | exact List.prefix_rfl
    | exact List.prefix_append _ _

theorem State.pushAppends_keeps {s0 : State} {s : State} {p : Nat} (h : Keeps s0 s) : Keeps s0 (State.pushAppends s p) := by
  unfold State.pushAppends
  repeat' first
    | with_reducible first | exact h | assumption | apply State.wakeShares_keeps | apply State.pushAppend_keeps
          | apply State.runAppend_keeps | apply State.failAppend_keeps | apply Keeps.fold | apply Keeps.fold1
          | apply Keeps.fold2 | refine Keeps.thd (by assumption) ?_ | refine Keeps.snd (by assumption) ?_
          | refine Keeps.fst (by assumption) ?_
    | intro _
    | split
    | (dsimp only)
    | with_reducible refine Keeps.lit ?_ rfl rfl rfl rfl ?_ ?_ ?_ ?_ ?_ ?_ ?_ ?_
    | exact Nat.le_refl _
    | exact Nat.le_succ _
    | exact List.prefix_rfl
    | exact List.prefix_append _ _

theorem State.failWork_keeps {s0 : State} {s : State} {p cid layer sq t n group : Nat} {cmd : Option (Nat × Nat × Nat)} {c : Code} (h : Keeps s0 s) : Keeps s0 (State.failWork s p cid layer sq t n group cmd c) := by
  unfold State.failWork
  repeat' first
    | with_reducible first | exact h | assumption | apply State.kvEvent_keeps | apply State.putAppend_keeps
    | intro _
    | split
    | (dsimp only)
    | with_reducible refine Keeps.lit ?_ rfl rfl rfl rfl ?_ ?_ ?_ ?_ ?_ ?_ ?_ ?_
    | exact Nat.le_refl _
    | exact Nat.le_succ _
    | exact List.prefix_rfl
    | exact List.prefix_append _ _

theorem State.beginAppend_keeps {s0 : State} {s : State} {p cid layer sq t n group : Nat} {cmd : Option (Nat × Nat × Nat)} (h : Keeps s0 s) : Keeps s0 (State.beginAppend s p cid layer sq t n group cmd) := by
  unfold State.beginAppend
  repeat' first
    | with_reducible first | exact h | assumption | apply State.startAppend_keeps | apply State.pushAppends_keeps
          | apply State.failWork_keeps | apply State.kvEvent_keeps | apply State.putAppend_keeps
          | refine Keeps.thd (by assumption) ?_ | refine Keeps.snd (by assumption) ?_
          | refine Keeps.fst (by assumption) ?_
    | intro _
    | split
    | (dsimp only)
    | with_reducible refine Keeps.lit ?_ rfl rfl rfl rfl ?_ ?_ ?_ ?_ ?_ ?_ ?_ ?_
    | exact Nat.le_refl _
    | exact Nat.le_succ _
    | exact List.prefix_rfl
    | exact List.prefix_append _ _

theorem execKvScatter_keeps (part ring : Nat) (s : State) (t : State) (g : execKvScatter part ring s = .next t) : Keeps s t := by
  have h := Keeps.refl s
  unfold execKvScatter at g
  injection g with g
  subst g
  repeat' first
    | with_reducible first | exact h | assumption | apply State.settle_keeps | apply State.waitCmd_keeps
          | apply State.beginAppend_keeps | refine Keeps.thd (by assumption) ?_
          | refine Keeps.snd (by assumption) ?_ | refine Keeps.fst (by assumption) ?_
    | intro _
    | split
    | (dsimp only)
    | with_reducible refine Keeps.lit ?_ rfl rfl rfl rfl ?_ ?_ ?_ ?_ ?_ ?_ ?_ ?_
    | exact Nat.le_refl _
    | exact Nat.le_succ _
    | exact List.prefix_rfl
    | exact List.prefix_append _ _

theorem State.columnAccepted_keeps {s0 : State} {s : State} {p no : Nat} (h : Keeps s0 s) : Keeps s0 (State.columnAccepted s p no) := by
  unfold State.columnAccepted
  repeat' first
    | with_reducible first | exact h | assumption | apply State.acceptColumn_keeps | apply State.advanceLen_keeps
          | apply State.putAppend_keeps | apply State.settleAppend_keeps | apply State.endAppend_keeps
          | apply State.endCmd_keeps | refine Keeps.thd (by assumption) ?_ | refine Keeps.snd (by assumption) ?_
          | refine Keeps.fst (by assumption) ?_
    | intro _
    | split
    | (dsimp only)
    | with_reducible refine Keeps.lit ?_ rfl rfl rfl rfl ?_ ?_ ?_ ?_ ?_ ?_ ?_ ?_
    | exact Nat.le_refl _
    | exact Nat.le_succ _
    | exact List.prefix_rfl
    | exact List.prefix_append _ _

theorem execAppendColumnAccepted_keeps (part : Nat) (append : HbmReader) (s : State) (t : State) (g : execAppendColumnAccepted part append s = .next t) : Keeps s t := by
  have h := Keeps.refl s
  unfold execAppendColumnAccepted at g
  injection g with g
  subst g
  repeat' first
    | with_reducible first | exact h | assumption | apply State.hbmFind_keeps | apply State.columnAccepted_keeps
    | intro _
    | split
    | (dsimp only)
    | with_reducible refine Keeps.lit ?_ rfl rfl rfl rfl ?_ ?_ ?_ ?_ ?_ ?_ ?_ ?_
    | exact Nat.le_refl _
    | exact Nat.le_succ _
    | exact List.prefix_rfl
    | exact List.prefix_append _ _

theorem State.transferDone_keeps {s0 : State} {s : State} {p j : Nat} (h : Keeps s0 s) : Keeps s0 (State.transferDone s p j) := by
  unfold State.transferDone
  split
  · exact h
  · refine Keeps.iteD (fun _ => h) fun _ => State.settle_keeps (State.pushAppends_keeps ?_)
    split
    · exact State.progressed_keeps (State.modQueue_keeps h)
    · refine Keeps.iteD (fun _ => State.modPart_keeps (State.progressed_keeps (State.modQueue_keeps h))) fun _ => ?_
      split
      · exact State.putAppend_keeps (State.progressed_keeps (State.modQueue_keeps h))
      · exact State.progressed_keeps (State.modQueue_keeps h)

theorem execSqTransferComplete_keeps (part queue : Nat) (s : State) (t : State) (g : execSqTransferComplete part queue s = .next t) : Keeps s t := by
  have h := Keeps.refl s
  unfold execSqTransferComplete at g
  injection g with g
  subst g
  repeat' first
    | with_reducible first | exact h | assumption | apply State.transferDone_keeps
    | intro _
    | split
    | (dsimp only)

theorem execUnpin_keeps (part frame : Nat) (s : State) (t : State) (g : execUnpin part frame s = .next t) : Keeps s t := by
  unfold execUnpin at g
  injection g with g
  subst g
  refine Keeps.iteD (fun _ => ?_) fun _ => Keeps.refl s
  exact State.settle_keeps (State.pushAppends_keeps (State.unpinFrame_keeps (State.modPart_keeps (Keeps.refl s))))

theorem execFrameSpill_keeps (part : HbmReader) (s : State) (t : State) (g : execFrameSpill part s = .next t) : Keeps s t := by
  unfold execFrameSpill at g
  injection g with g
  subst g
  exact State.settle_keeps (State.pushAppends_keeps (State.spillOne_keeps (State.hbmFind_keeps (Keeps.refl s))))

theorem execFrameSpillDone_keeps (part frame : Nat) (ok : Bool) (s : State) (t : State) (g : execFrameSpillDone part frame ok s = .next t) : Keeps s t := by
  have h := Keeps.refl s
  unfold execFrameSpillDone at g
  injection g with g
  subst g
  repeat' first
    | with_reducible first | exact h | assumption | apply State.settle_keeps | apply State.spillDone_keeps
          | apply State.pushAppends_keeps
    | intro _
    | split
    | (dsimp only)

theorem execFrameFetchDone_keeps (part frame : Nat) (data : List Byte) (marked : FetchMarks) (s : State) (t : State) (g : execFrameFetchDone part frame data marked s = .next t) : Keeps s t := by
  have h := Keeps.refl s
  unfold execFrameFetchDone at g
  injection g with g
  subst g
  repeat' first
    | with_reducible first | exact h | assumption | apply State.fetchDone_keeps | apply State.pushAppends_keeps
          | apply State.settle_keeps
    | intro _
    | split
    | (dsimp only)
    | with_reducible refine Keeps.lit ?_ rfl rfl rfl rfl ?_ ?_ ?_ ?_ ?_ ?_ ?_ ?_
    | exact Nat.le_refl _
    | exact Nat.le_succ _
    | exact List.prefix_rfl
    | exact List.prefix_append _ _

end Sys2Proof.Machine
end

