-- ==== Sys2Proof/Laws/KeepsCap.lean ====
section
/-! SUPPORT. What the operations of Machine/Cap.lean keep (Keeps). -/
namespace Sys2Proof.Machine

theorem State.setBusbar_keeps {s0 : State} {s : State} {mv : Nat} (h : Keeps s0 s) : Keeps s0 (State.setBusbar s mv) := by
  unfold State.setBusbar
  exact Keeps.iteD (fun _ => State.setDomain_keeps (State.setDomain_keeps h.newPwr)) fun _ => h.newPwr

theorem State.recap_keeps {s0 : State} {s : State} (h : Keeps s0 s) : Keeps s0 (State.recap s) := h.newPwr

end Sys2Proof.Machine
end

