-- ==== Sys2Proof/Laws/KeepsExport.lean ====
section
/-! SUPPORT. What the operations of Machine/Export.lean keep (Keeps). -/
namespace Sys2Proof.Machine

theorem State.modMember_keeps {s0 : State} {s : State} {id m : Nat} {f : ReqMember → ReqMember} (h : Keeps s0 s) : Keeps s0 (State.modMember s id m f) := by
  unfold State.modMember
  repeat' first
    | with_reducible first | exact h | assumption | apply State.modReq_keeps
    | intro _
    | split
    | (dsimp only)
    | with_reducible refine Keeps.lit ?_ rfl rfl rfl rfl ?_ ?_ ?_ ?_ ?_ ?_ ?_ ?_
    | exact Nat.le_refl _
    | exact Nat.le_succ _
    | exact List.prefix_rfl
    | exact List.prefix_append _ _

theorem State.modStream_keeps {s0 : State} {s : State} {id m i : Nat} {f : ExpStream → ExpStream} (h : Keeps s0 s) : Keeps s0 (State.modStream s id m i f) := by
  unfold State.modStream
  repeat' first
    | with_reducible first | exact h | assumption | apply State.modMember_keeps
    | intro _
    | split
    | (dsimp only)
    | with_reducible refine Keeps.lit ?_ rfl rfl rfl rfl ?_ ?_ ?_ ?_ ?_ ?_ ?_ ?_
    | exact Nat.le_refl _
    | exact Nat.le_succ _
    | exact List.prefix_rfl
    | exact List.prefix_append _ _

theorem State.sendOn_keeps {s0 : State} {s : State} {q : Request} {m i type : Nat} {body : List Byte} (h : Keeps s0 s) : Keeps s0 (State.sendOn s q m i type body).2 := by
  unfold State.sendOn
  repeat' first
    | with_reducible first | exact h | assumption | apply State.sendMsg_keeps | apply State.modStream_keeps
          | refine Keeps.thd (by assumption) ?_ | refine Keeps.snd (by assumption) ?_
          | refine Keeps.fst (by assumption) ?_
    | intro _
    | split
    | (dsimp only)
    | with_reducible refine Keeps.lit ?_ rfl rfl rfl rfl ?_ ?_ ?_ ?_ ?_ ?_ ?_ ?_
    | exact Nat.le_refl _
    | exact Nat.le_succ _
    | exact List.prefix_rfl
    | exact List.prefix_append _ _

theorem State.dropObj_keeps {s0 : State} {s : State} {id : Nat} {o : ExpObj} (h : Keeps s0 s) : Keeps s0 (State.dropObj s id o) := by
  unfold State.dropObj
  repeat' first
    | with_reducible first | exact h | assumption | apply State.modReq_keeps
    | intro _
    | split
    | (dsimp only)
    | with_reducible refine Keeps.lit ?_ rfl rfl rfl rfl ?_ ?_ ?_ ?_ ?_ ?_ ?_ ?_
    | exact Nat.le_refl _
    | exact Nat.le_succ _
    | exact List.prefix_rfl
    | exact List.prefix_append _ _

theorem State.voidQuiet_keeps {s0 : State} {s : State} {q : Request} (h : Keeps s0 s) : Keeps s0 (State.voidQuiet s q) := by
  unfold State.voidQuiet
  repeat' first
    | with_reducible first | exact h | assumption | apply State.modReq_keeps | apply State.queueAbort_keeps
    | intro _
    | split
    | (dsimp only)
    | with_reducible refine Keeps.lit ?_ rfl rfl rfl rfl ?_ ?_ ?_ ?_ ?_ ?_ ?_ ?_
    | exact Nat.le_refl _
    | exact Nat.le_succ _
    | exact List.prefix_rfl
    | exact List.prefix_append _ _

theorem State.fetchObj_keeps {s0 : State} {s : State} {q : Request} {o : ExpObj} (h : Keeps s0 s) : Keeps s0 (State.fetchObj s q o) := by
  unfold State.fetchObj
  repeat' first
    | with_reducible first | exact h | assumption | apply State.fetchFor_keeps | apply State.kvEvent_keeps
          | refine Keeps.thd (by assumption) ?_ | refine Keeps.snd (by assumption) ?_
          | refine Keeps.fst (by assumption) ?_
    | intro _
    | split
    | (dsimp only)
    | with_reducible refine Keeps.lit ?_ rfl rfl rfl rfl ?_ ?_ ?_ ?_ ?_ ?_ ?_ ?_
    | exact Nat.le_refl _
    | exact Nat.le_succ _
    | exact List.prefix_rfl
    | exact List.prefix_append _ _

theorem State.sealObj_keeps {s0 : State} {s : State} {q : Request} {o : ExpObj} (h : Keeps s0 s) : Keeps s0 (State.sealObj s q o) := by
  unfold State.sealObj
  split
  rename_i e
  exact State.ownCheck_keeps (State.modReq_keeps (Keeps.snd e (State.writeTrailer_keeps h)))

theorem State.sendObj_keeps {s0 : State} {s : State} {q : Request} {o : ExpObj} (h : Keeps s0 s) : Keeps s0 (State.sendObj s q o) := by
  unfold State.sendObj
  extract_lets page agreed goes pin bytes data t pinned
  have h1 : Keeps s0 t := by
    show Keeps s0 pin.2
    unfold pin
    split
    · exact State.pinFrame_keeps h
    · exact h
  clear_value pinned t data bytes pin goes agreed page
  refine Keeps.iteD (fun _ => State.fetchObj_keeps h) fun _ => ?_
  refine Keeps.iteD (fun _ => h) fun _ => ?_
  refine Keeps.iteD (fun _ => State.sealObj_keeps h) fun _ => ?_
  refine Keeps.iteD (fun _ => h) fun _ => ?_
  refine Keeps.iteD (fun _ => State.dropObj_keeps h) fun _ => ?_
  split
  · exact State.dropObj_keeps h
  · refine Keeps.iteD (fun _ => State.dropObj_keeps h) fun _ => ?_
    refine Keeps.iteD (fun _ => State.voidQuiet_keeps h) fun _ => ?_
    refine Keeps.iteD (fun _ => h) fun _ => ?_
    refine Keeps.iteD (fun _ => h) fun _ => ?_
    extract_lets head
    clear_value head
    split
    rename_i e2
    have h2 := Keeps.snd e2 (State.sendOn_keeps h1)
    exact Keeps.iteD (fun _ => State.modReq_keeps h2) fun _ => State.modReq_keeps (State.dropObj_keeps h2)

theorem State.sendTrailer_keeps {s0 : State} {s : State} {q : Request} {m i status : Nat} (h : Keeps s0 s) : Keeps s0 (State.sendTrailer s q m i status) := by
  unfold State.sendTrailer
  repeat' first
    | with_reducible first | exact h | assumption | apply State.modReq_keeps | apply State.sendMsg_keeps
          | apply State.modStream_keeps | refine Keeps.thd (by assumption) ?_
          | refine Keeps.snd (by assumption) ?_ | refine Keeps.fst (by assumption) ?_
    | intro _
    | split
    | (dsimp only)
    | with_reducible refine Keeps.lit ?_ rfl rfl rfl rfl ?_ ?_ ?_ ?_ ?_ ?_ ?_ ?_
    | exact Nat.le_refl _
    | exact Nat.le_succ _
    | exact List.prefix_rfl
    | exact List.prefix_append _ _

theorem State.exportReq_keeps {s0 : State} {s : State} {q : Request} (h : Keeps s0 s) : Keeps s0 (State.exportReq s q) := by
  unfold State.exportReq
  repeat' first
    | with_reducible first | exact h | assumption | apply State.sendObj_keeps | apply State.sendTrailer_keeps
          | refine Keeps.thd (by assumption) ?_ | refine Keeps.snd (by assumption) ?_
          | refine Keeps.fst (by assumption) ?_
    | intro _
    | split
    | (dsimp only)
    | with_reducible refine Keeps.lit ?_ rfl rfl rfl rfl ?_ ?_ ?_ ?_ ?_ ?_ ?_ ?_
    | exact Nat.le_refl _
    | exact Nat.le_succ _
    | exact List.prefix_rfl
    | exact List.prefix_append _ _

theorem State.endStreams_keeps {s0 : State} {s : State} {q : Request} {status : Nat} (h : Keeps s0 s) : Keeps s0 (State.endStreams s q status) := by
  unfold State.endStreams
  repeat' first
    | with_reducible first | exact h | assumption | apply State.sendTrailer_keeps | apply Keeps.fold
          | apply Keeps.fold1 | apply Keeps.fold2
    | intro _
    | split
    | (dsimp only)

theorem State.endRequest_keeps {s0 : State} {s : State} {id : Nat} {st : Status} (h : Keeps s0 s) : Keeps s0 (State.endRequest s id st) := by
  unfold State.endRequest
  repeat' first
    | with_reducible first | exact h | assumption | apply State.unpinFrame_keeps | apply State.releaseCid_keeps
          | apply State.syncContexts_keeps | apply State.endWaiting_keeps | apply State.pushEnd_keeps
          | apply State.endStreams_keeps | apply Keeps.fold | apply Keeps.fold1 | apply Keeps.fold2
          | apply OKeeps.getD | refine Keeps.thd (by assumption) ?_ | refine Keeps.snd (by assumption) ?_
          | refine Keeps.fst (by assumption) ?_
    | intro _
    | split
    | (dsimp only)
    | with_reducible refine Keeps.lit ?_ rfl rfl rfl rfl ?_ ?_ ?_ ?_ ?_ ?_ ?_ ?_
    | exact Nat.le_refl _
    | exact Nat.le_succ _
    | exact List.prefix_rfl
    | exact List.prefix_append _ _

theorem State.finishExports_keeps {s0 : State} {s : State} (h : Keeps s0 s) : Keeps s0 (State.finishExports s) := by
  unfold State.finishExports
  repeat' first
    | with_reducible first | exact h | assumption | apply State.endRequest_keeps | apply Keeps.fold
          | apply Keeps.fold1 | apply Keeps.fold2
    | intro _
    | split
    | (dsimp only)

theorem State.settleAcks_keeps {s0 : State} {s : State} (h : Keeps s0 s) : Keeps s0 (State.settleAcks s) := by
  unfold State.settleAcks
  repeat' first
    | with_reducible exact h
    | with_reducible assumption
    | intro _
    | with_reducible apply State.modReq_keeps
    | with_reducible apply State.progressed_keeps
    | with_reducible apply State.unpinFrame_keeps
    | with_reducible apply State.finishExports_keeps
    | with_reducible apply Keeps.fold
    | with_reducible apply Keeps.fold1
    | with_reducible apply Keeps.fold2
    | with_reducible refine Keeps.thd (by assumption) ?_
    | with_reducible refine Keeps.snd (by assumption) ?_
    | with_reducible refine Keeps.fst (by assumption) ?_
    | split
    | (dsimp only)
    | with_reducible refine Keeps.lit ?_ rfl rfl rfl rfl (by first | exact Nat.le_refl _ | exact Nat.le_succ _) (by first | exact Nat.le_refl _ | exact Nat.le_succ _) (by first | exact List.prefix_rfl | exact List.prefix_append _ _) (by first | exact List.prefix_rfl | exact List.prefix_append _ _) (by first | exact List.prefix_rfl | exact List.prefix_append _ _) (by first | exact List.prefix_rfl | exact List.prefix_append _ _) (by first | exact List.prefix_rfl | exact List.prefix_append _ _) (by first | exact List.prefix_rfl | exact List.prefix_append _ _)

theorem execExportSend_keeps (group : HbmReader) (s : State) (t : State) (g : execExportSend group s = .next t) : Keeps s t := by
  have h := Keeps.refl s
  unfold execExportSend at g
  injection g with g
  subst g
  repeat' first
    | with_reducible first | exact h | assumption | apply State.hbmFind_keeps | apply State.exportReq_keeps
          | apply State.settleAcks_keeps | refine Keeps.thd (by assumption) ?_ | refine Keeps.snd (by assumption) ?_
          | refine Keeps.fst (by assumption) ?_
    | intro _
    | split
    | (dsimp only)
    | with_reducible refine Keeps.lit ?_ rfl rfl rfl rfl ?_ ?_ ?_ ?_ ?_ ?_ ?_ ?_
    | exact Nat.le_refl _
    | exact Nat.le_succ _
    | exact List.prefix_rfl
    | exact List.prefix_append _ _

theorem execGateTrailerSend_keeps (part : Nat) (s : State) (t : State) (g : execGateTrailerSend part s = .next t) : Keeps s t := by
  have h := Keeps.refl s
  unfold execGateTrailerSend at g
  injection g with g
  subst g
  repeat' first
    | with_reducible first | exact h | assumption | apply State.endStreams_keeps
          | refine Keeps.thd (by assumption) ?_ | refine Keeps.snd (by assumption) ?_
          | refine Keeps.fst (by assumption) ?_
    | intro _
    | split
    | (dsimp only)
    | with_reducible refine Keeps.lit ?_ rfl rfl rfl rfl ?_ ?_ ?_ ?_ ?_ ?_ ?_ ?_
    | exact Nat.le_refl _
    | exact Nat.le_succ _
    | exact List.prefix_rfl
    | exact List.prefix_append _ _

end Sys2Proof.Machine
end

