-- ==== Sys2Proof/Laws/KeepsServing.lean ====
section
/-! SUPPORT. What the operations of Machine/Serving.lean keep (Keeps). -/
namespace Sys2Proof.Machine

theorem State.newCtx_keeps {s0 : State} {s : State} {l cid : Nat} {v : ProgSet} {src : Option (Nat × Nat)} (h : Keeps s0 s) : Keeps s0 (State.newCtx s l cid v src) := by
  unfold State.newCtx
  repeat' first
    | with_reducible first | exact h | assumption | apply State.makeCtx_keeps | apply State.shareCtx_keeps
          | apply Keeps.fold | apply Keeps.fold1 | apply Keeps.fold2 | refine Keeps.thd (by assumption) ?_
          | refine Keeps.snd (by assumption) ?_ | refine Keeps.fst (by assumption) ?_
    | intro _
    | split
    | (dsimp only)
    | with_reducible refine Keeps.lit ?_ rfl rfl rfl rfl ?_ ?_ ?_ ?_ ?_ ?_ ?_ ?_
    | exact Nat.le_refl _
    | exact Nat.le_succ _
    | exact List.prefix_rfl
    | exact List.prefix_append _ _

theorem State.openMember_keeps {s0 s : State} {q : Request} {h : Option Handle} {m : ReqMember} (hs : Keeps s0 s) :
    Keeps s0 (State.openMember s q h m) := by
  have step (t : State) (ht : Keeps s0 t) :
      Keeps s0 (match t.progSet q.group q.model with
        | some v => t.newCtx q.group m.cid v (h.map (fun x => (x.cid, x.k)))
        | none => t) := by
    split
    · exact State.newCtx_keeps ht
    · exact ht
  unfold State.openMember
  dsimp only
  split
  · exact State.newCtx_keeps (step s hs)
  · exact step s hs

theorem State.queueRequest_keeps {s0 s : State} {q : Request} (h : Keeps s0 s) : Keeps s0 (State.queueRequest s q) :=
  h.lit rfl rfl rfl rfl (Nat.le_refl _) (Nat.le_refl _) List.prefix_rfl List.prefix_rfl List.prefix_rfl List.prefix_rfl
    List.prefix_rfl List.prefix_rfl

theorem State.checkTokens_keeps {s0 s : State} {q : Request} (h : Keeps s0 s) : Keeps s0 (State.checkTokens s q) :=
  Keeps.fold _ _ _ h (fun _ _ e => State.ownCheck_keeps e)

theorem State.takeIn_keeps {s0 s : State} {p r : Nat} {c : Cmd} (h : Keeps s0 s) : Keeps s0 (State.takeIn s p r c) := by
  unfold State.takeIn
  dsimp only
  generalize (if (leAt c.params 5 1).testBit 1 then s.handle (s.lead p) (leAt c.params 16 8) else none) = hd
  generalize s.newRequest p r c hd = q
  have e (l : List ReqMember) : Keeps s0 (l.foldl (fun s m => s.openMember q hd m) (s.queueRequest q)) :=
    Keeps.fold _ _ _ (State.queueRequest_keeps h) (fun _ _ e => State.openMember_keeps e)
  have e := State.checkTokens_keeps (q := q) (State.answer_keeps (p := p) (r := r) (c := c) (st := .ok) (reqid := q.id)
    (result := q.id) (State.syncContexts_keeps (l := q.group) (e q.members)))
  split
  · exact State.endRequest_keeps e
  · exact e

theorem execPrefillSubmit_keeps (part ring : Nat) (s : State) (t : State) (g : execPrefillSubmit part ring s = .next t) : Keeps s t := by
  have h := Keeps.refl s
  unfold execPrefillSubmit at g
  injection g with g
  subst g
  repeat' first
    | with_reducible exact h
    | with_reducible assumption
    | intro _
    | with_reducible apply State.addFld_keeps
    | with_reducible apply State.answer_keeps
    | with_reducible apply State.serving_keeps
    | with_reducible apply State.takeIn_keeps
    | with_reducible refine Keeps.thd (by assumption) ?_
    | with_reducible refine Keeps.snd (by assumption) ?_
    | with_reducible refine Keeps.fst (by assumption) ?_
    | split
    | (dsimp only)
    | with_reducible refine Keeps.lit ?_ rfl rfl rfl rfl (by first | exact Nat.le_refl _ | exact Nat.le_succ _) (by first | exact Nat.le_refl _ | exact Nat.le_succ _) (by first | exact List.prefix_rfl | exact List.prefix_append _ _) (by first | exact List.prefix_rfl | exact List.prefix_append _ _) (by first | exact List.prefix_rfl | exact List.prefix_append _ _) (by first | exact List.prefix_rfl | exact List.prefix_append _ _) (by first | exact List.prefix_rfl | exact List.prefix_append _ _) (by first | exact List.prefix_rfl | exact List.prefix_append _ _)

theorem State.copyCtx_keeps {s0 : State} {s : State} {l from_ to_ k : Nat} (h : Keeps s0 s) : Keeps s0 (State.copyCtx s l from_ to_ k) := by
  unfold State.copyCtx
  repeat' first
    | with_reducible first | exact h | assumption | apply State.makeCtx_keeps | apply State.shareCtx_keeps
          | apply Keeps.fold | apply Keeps.fold1 | apply Keeps.fold2
    | intro _
    | split
    | (dsimp only)
    | with_reducible refine Keeps.lit ?_ rfl rfl rfl rfl ?_ ?_ ?_ ?_ ?_ ?_ ?_ ?_
    | exact Nat.le_refl _
    | exact Nat.le_succ _
    | exact List.prefix_rfl
    | exact List.prefix_append _ _

theorem State.putHandle_keeps {s0 : State} {s : State} {l h k cid : Nat} {d : Option Nat} {src : PrefixSource} (hh : Keeps s0 s) : Keeps s0 (State.putHandle s l h k cid d src) := by
  unfold State.putHandle
  repeat' first
    | with_reducible first | exact hh | assumption | apply State.copyCtx_keeps | apply State.newCtx_keeps
          | refine Keeps.thd (by assumption) ?_ | refine Keeps.snd (by assumption) ?_
          | refine Keeps.fst (by assumption) ?_
    | intro _
    | split
    | (dsimp only)
    | with_reducible refine Keeps.lit ?_ rfl rfl rfl rfl ?_ ?_ ?_ ?_ ?_ ?_ ?_ ?_
    | exact Nat.le_refl _
    | exact Nat.le_succ _
    | exact List.prefix_rfl
    | exact List.prefix_append _ _

theorem execPrefixRegister_keeps (part ring : Nat) (s : State) (t : State) (g : execPrefixRegister part ring s = .next t) : Keeps s t := by
  have h := Keeps.refl s
  unfold execPrefixRegister at g
  injection g with g
  subst g
  refine State.serving_keeps h fun c => ?_
  extract_lets l b x k id no
  have N : ∀ st, Keeps s (no st) := fun st => State.answer_keeps h
  clear_value no id k x b
  refine Keeps.iteD (fun _ => State.failWork_keeps (State.waitCmd_keeps h)) fun _ => ?_
  refine Keeps.iteD (fun _ => N _) fun _ => ?_
  split
  · exact N _
  · refine Keeps.iteD (fun _ => N _) fun _ => ?_
    split
    · exact N _
    · extract_lets d
      clear_value d
      exact Keeps.iteD (fun _ => N _) fun _ => State.answer_keeps (State.putHandle_keeps h)

theorem execPrefixRelease_keeps (part ring : Nat) (s : State) (t : State) (g : execPrefixRelease part ring s = .next t) : Keeps s t := by
  have h := Keeps.refl s
  unfold execPrefixRelease at g
  injection g with g
  subst g
  repeat' first
    | with_reducible first | exact h | assumption | apply State.releaseCid_keeps | apply State.answer_keeps
          | apply State.serving_keeps | refine Keeps.thd (by assumption) ?_ | refine Keeps.snd (by assumption) ?_
          | refine Keeps.fst (by assumption) ?_
    | intro _
    | split
    | (dsimp only)
    | with_reducible refine Keeps.lit ?_ rfl rfl rfl rfl ?_ ?_ ?_ ?_ ?_ ?_ ?_ ?_
    | exact Nat.le_refl _
    | exact Nat.le_succ _
    | exact List.prefix_rfl
    | exact List.prefix_append _ _

theorem execAdapterLoad_keeps (part ring : Nat) (s : State) (t : State) (g : execAdapterLoad part ring s = .next t) : Keeps s t := by
  have h := Keeps.refl s
  unfold execAdapterLoad at g
  injection g with g
  subst g
  repeat' first
    | with_reducible first | exact h | assumption | apply State.answer_keeps | apply State.serving_keeps
          | refine Keeps.thd (by assumption) ?_ | refine Keeps.snd (by assumption) ?_
          | refine Keeps.fst (by assumption) ?_
    | intro _
    | split
    | (dsimp only)
    | with_reducible refine Keeps.lit ?_ rfl rfl rfl rfl ?_ ?_ ?_ ?_ ?_ ?_ ?_ ?_
    | exact Nat.le_refl _
    | exact Nat.le_succ _
    | exact List.prefix_rfl
    | exact List.prefix_append _ _

theorem State.endPause_keeps {s0 : State} {s : State} {q : Request} {no raddr : Nat} (h : Keeps s0 s) : Keeps s0 (State.endPause s q no raddr) := by
  unfold State.endPause
  repeat' first
    | with_reducible first | exact h | assumption | apply State.hostWrite_keeps | apply State.endCmd_keeps
          | refine Keeps.thd (by assumption) ?_ | refine Keeps.snd (by assumption) ?_
          | refine Keeps.fst (by assumption) ?_
    | intro _
    | split
    | (dsimp only)
    | with_reducible refine Keeps.lit ?_ rfl rfl rfl rfl ?_ ?_ ?_ ?_ ?_ ?_ ?_ ?_
    | exact Nat.le_refl _
    | exact Nat.le_succ _
    | exact List.prefix_rfl
    | exact List.prefix_append _ _

theorem State.requeue_keeps {s0 : State} {s : State} {id : Nat} (h : Keeps s0 s) : Keeps s0 (State.requeue s id) := by
  unfold State.requeue
  repeat' first
    | with_reducible first | exact h | assumption | refine Keeps.thd (by assumption) ?_
          | refine Keeps.snd (by assumption) ?_ | refine Keeps.fst (by assumption) ?_
    | intro _
    | split
    | (dsimp only)
    | with_reducible refine Keeps.lit ?_ rfl rfl rfl rfl ?_ ?_ ?_ ?_ ?_ ?_ ?_ ?_
    | exact Nat.le_refl _
    | exact Nat.le_succ _
    | exact List.prefix_rfl
    | exact List.prefix_append _ _

theorem State.toPaused_keeps {s0 : State} {s : State} {id : Nat} {mode : Bool} (h : Keeps s0 s) : Keeps s0 (State.toPaused s id mode) := by
  unfold State.toPaused
  repeat' first
    | with_reducible first | exact h | assumption | apply State.modReq_keeps | apply State.addFld_keeps
          | apply State.endPause_keeps | apply State.endWaiting_keeps | apply State.requeue_keeps | apply Keeps.fold
          | apply Keeps.fold1 | apply Keeps.fold2 | apply OKeeps.getD | refine Keeps.thd (by assumption) ?_
          | refine Keeps.snd (by assumption) ?_ | refine Keeps.fst (by assumption) ?_
    | intro _
    | split
    | (dsimp only)
    | with_reducible refine Keeps.lit ?_ rfl rfl rfl rfl ?_ ?_ ?_ ?_ ?_ ?_ ?_ ?_
    | exact Nat.le_refl _
    | exact Nat.le_succ _
    | exact List.prefix_rfl
    | exact List.prefix_append _ _

theorem State.sealLast_keeps {s0 : State} {s : State} {l cid : Nat} (h : Keeps s0 s) : Keeps s0 (State.sealLast s l cid) := by
  unfold State.sealLast
  repeat' first
    | with_reducible first | exact h | assumption | apply State.sealPage_keeps | apply Keeps.fold | apply Keeps.fold1
          | apply Keeps.fold2
    | intro _
    | split
    | (dsimp only)
    | with_reducible refine Keeps.lit ?_ rfl rfl rfl rfl ?_ ?_ ?_ ?_ ?_ ?_ ?_ ?_
    | exact Nat.le_refl _
    | exact Nat.le_succ _
    | exact List.prefix_rfl
    | exact List.prefix_append _ _

theorem State.startExport_keeps {s0 : State} {s : State} {id : Nat} (h : Keeps s0 s) : Keeps s0 (State.startExport s id) := by
  unfold State.startExport
  split
  · exact h
  · refine Keeps.fold _ _ _ (State.modReq_keeps ?_) fun _ _ g => State.ownCheck_keeps g
    exact Keeps.fold _ _ _ (State.modReq_keeps h) fun _ _ g => Keeps.fold _ _ _ g fun _ _ g => State.sealLast_keeps g

theorem State.boundary_keeps {s0 : State} {s : State} {id : Nat} (h : Keeps s0 s) : Keeps s0 (State.boundary s id) := by
  unfold State.boundary
  split
  · exact h
  · extract_lets due
    clear_value due
    refine Keeps.iteD (fun _ => h) fun _ => ?_
    refine Keeps.iteD (fun _ => State.endRequest_keeps h) fun _ => ?_
    refine Keeps.iteD (fun _ => State.toPaused_keeps h) fun _ => ?_
    refine Keeps.iteD (fun _ => State.startExport_keeps h) fun _ => ?_
    split
    · exact State.toPaused_keeps (State.modReq_keeps h)
    · exact h

theorem execPause_keeps (part ring : Nat) (s : State) (t : State) (g : execPause part ring s = .next t) : Keeps s t := by
  have h := Keeps.refl s
  unfold execPause at g
  injection g with g
  subst g
  repeat' first
    | with_reducible first | exact h | assumption | apply State.modReq_keeps | apply State.answer_keeps
          | apply State.waitCmd_keeps | apply State.serving_keeps | apply State.endPause_keeps
          | apply State.toPaused_keeps | apply State.boundary_keeps | refine Keeps.thd (by assumption) ?_
          | refine Keeps.snd (by assumption) ?_ | refine Keeps.fst (by assumption) ?_
    | intro _
    | split
    | (dsimp only)
    | with_reducible refine Keeps.lit ?_ rfl rfl rfl rfl ?_ ?_ ?_ ?_ ?_ ?_ ?_ ?_
    | exact Nat.le_refl _
    | exact Nat.le_succ _
    | exact List.prefix_rfl
    | exact List.prefix_append _ _

theorem execResume_keeps (part ring : Nat) (s : State) (t : State) (g : execResume part ring s = .next t) : Keeps s t := by
  have h := Keeps.refl s
  unfold execResume at g
  injection g with g
  subst g
  repeat' first
    | with_reducible first | exact h | assumption | apply State.modReq_keeps | apply State.answer_keeps
          | apply State.waitCmd_keeps | apply State.serving_keeps | apply State.requeue_keeps
          | refine Keeps.thd (by assumption) ?_ | refine Keeps.snd (by assumption) ?_
          | refine Keeps.fst (by assumption) ?_
    | intro _
    | split
    | (dsimp only)
    | with_reducible refine Keeps.lit ?_ rfl rfl rfl rfl ?_ ?_ ?_ ?_ ?_ ?_ ?_ ?_
    | exact Nat.le_refl _
    | exact Nat.le_succ _
    | exact List.prefix_rfl
    | exact List.prefix_append _ _

theorem execCancel_keeps (part ring : Nat) (s : State) (t : State) (g : execCancel part ring s = .next t) : Keeps s t := by
  have h := Keeps.refl s
  unfold execCancel at g
  injection g with g
  subst g
  repeat' first
    | with_reducible first | exact h | assumption | apply State.modReq_keeps | apply State.answer_keeps
          | apply State.serving_keeps | apply State.endRequest_keeps | apply State.boundary_keeps
          | refine Keeps.thd (by assumption) ?_ | refine Keeps.snd (by assumption) ?_
          | refine Keeps.fst (by assumption) ?_
    | intro _
    | split
    | (dsimp only)
    | with_reducible refine Keeps.lit ?_ rfl rfl rfl rfl ?_ ?_ ?_ ?_ ?_ ?_ ?_ ?_
    | exact Nat.le_refl _
    | exact Nat.le_succ _
    | exact List.prefix_rfl
    | exact List.prefix_append _ _

theorem execExportRoute_keeps (part ring : Nat) (s : State) (t : State) (g : execExportRoute part ring s = .next t) : Keeps s t := by
  have h := Keeps.refl s
  unfold execExportRoute at g
  injection g with g
  subst g
  repeat' first
    | with_reducible first | exact h | assumption | apply State.answer_keeps | apply State.serving_keeps
    | intro _
    | split
    | (dsimp only)
    | with_reducible refine Keeps.lit ?_ rfl rfl rfl rfl ?_ ?_ ?_ ?_ ?_ ?_ ?_ ?_
    | exact Nat.le_refl _
    | exact Nat.le_succ _
    | exact List.prefix_rfl
    | exact List.prefix_append _ _

theorem State.armCounter_keeps {s0 : State} {s : State} {p n limit : Nat} (h : Keeps s0 s) : Keeps s0 (State.armCounter s p n limit) := by
  unfold State.armCounter
  repeat' first
    | with_reducible first | exact h | assumption | apply State.setFld_keeps | apply State.modPart_keeps
    | intro _
    | split
    | (dsimp only)
    | with_reducible refine Keeps.lit ?_ rfl rfl rfl rfl ?_ ?_ ?_ ?_ ?_ ?_ ?_ ?_
    | exact Nat.le_refl _
    | exact Nat.le_succ _
    | exact List.prefix_rfl
    | exact List.prefix_append _ _

theorem State.disownCounters_keeps {s0 : State} {s : State} {l : Nat} (h : Keeps s0 s) : Keeps s0 (State.disownCounters s l) := by
  unfold State.disownCounters
  repeat' first
    | with_reducible first | exact h | assumption | apply State.modPart_keeps | apply Keeps.fold | apply Keeps.fold1
          | apply Keeps.fold2
    | intro _
    | split
    | (dsimp only)
    | with_reducible refine Keeps.lit ?_ rfl rfl rfl rfl ?_ ?_ ?_ ?_ ?_ ?_ ?_ ?_
    | exact Nat.le_refl _
    | exact Nat.le_succ _
    | exact List.prefix_rfl
    | exact List.prefix_append _ _

theorem State.armEntry_keeps {s0 : State} {s : State} {p : Nat} {b : List Byte} (h : Keeps s0 s) : Keeps s0 (State.armEntry s p b) := by
  unfold State.armEntry
  repeat' first
    | with_reducible first | exact h | assumption | apply State.armCounter_keeps
    | intro _
    | split
    | (dsimp only)

theorem State.armPlan_keeps {s0 : State} {s : State} {q : Request} {v : ProgSet} {p cid : Nat} {b : List Byte} {m lo n : Nat} (h : Keeps s0 s) : Keeps s0 (State.armPlan s q v p cid b m lo n) := by
  unfold State.armPlan
  repeat' first
    | with_reducible first | exact h | assumption | apply State.armStream_keeps | apply OKeeps.getD
    | intro _
    | split
    | (dsimp only)

theorem State.issueLoops_keeps {s0 : State} {s : State} {p : Nat} {b : List Byte} {lo n : Nat} (h : Keeps s0 s) : Keeps s0 (State.issueLoops s p b lo n) := by
  unfold State.issueLoops
  repeat' first
    | with_reducible first | exact h | assumption | apply State.enter_keeps | apply Keeps.fold | apply Keeps.fold1
          | apply Keeps.fold2 | apply OKeeps.getD
    | intro _
    | split
    | (dsimp only)
    | with_reducible refine Keeps.lit ?_ rfl rfl rfl rfl ?_ ?_ ?_ ?_ ?_ ?_ ?_ ?_
    | exact Nat.le_refl _
    | exact Nat.le_succ _
    | exact List.prefix_rfl
    | exact List.prefix_append _ _

theorem State.launchStage_keeps {s0 : State} {s : State} {q : Request} {v : ProgSet} {stage m : Nat} (h : Keeps s0 s) : Keeps s0 (State.launchStage s q v stage m) := by
  unfold State.launchStage
  repeat' first
    | with_reducible first | exact h | assumption | apply State.armEntry_keeps | apply State.disownCounters_keeps
          | apply State.armPlan_keeps | apply State.issueLoops_keeps | apply State.settle_keeps
          | apply State.beginAppend_keeps | apply Keeps.fold | apply Keeps.fold1 | apply Keeps.fold2 | apply OKeeps.getD
          | refine Keeps.thd (by assumption) ?_ | refine Keeps.snd (by assumption) ?_
          | refine Keeps.fst (by assumption) ?_
    | intro _
    | split
    | (dsimp only)
    | with_reducible refine Keeps.lit ?_ rfl rfl rfl rfl ?_ ?_ ?_ ?_ ?_ ?_ ?_ ?_
    | exact Nat.le_refl _
    | exact Nat.le_succ _
    | exact List.prefix_rfl
    | exact List.prefix_append _ _

theorem State.setBallast_keeps {s0 : State} {s : State} {l w : Nat} (h : Keeps s0 s) : Keeps s0 (State.setBallast s l w) := by
  unfold State.setBallast
  repeat' first
    | with_reducible first | exact h | assumption | apply State.modField_keeps | apply Keeps.fold
          | apply Keeps.fold1 | apply Keeps.fold2
    | intro _
    | split
    | (dsimp only)
    | with_reducible refine Keeps.lit ?_ rfl rfl rfl rfl ?_ ?_ ?_ ?_ ?_ ?_ ?_ ?_
    | exact Nat.le_refl _
    | exact Nat.le_succ _
    | exact List.prefix_rfl
    | exact List.prefix_append _ _

theorem State.takeBallast_keeps {s0 : State} {s : State} {l : Nat} (h : Keeps s0 s) : Keeps s0 (State.takeBallast s l) := by
  unfold State.takeBallast
  repeat' first
    | with_reducible first | exact h | assumption | apply State.setBallast_keeps
    | intro _
    | split
    | (dsimp only)
    | with_reducible refine Keeps.lit ?_ rfl rfl rfl rfl ?_ ?_ ?_ ?_ ?_ ?_ ?_ ?_
    | exact Nat.le_refl _
    | exact Nat.le_succ _
    | exact List.prefix_rfl
    | exact List.prefix_append _ _

theorem State.launchChunk_keeps {s0 : State} {s : State} {q : Request} (h : Keeps s0 s) : Keeps s0 (State.launchChunk s q) := by
  unfold State.launchChunk
  repeat' first
    | with_reducible first | exact h | assumption | apply State.modReq_keeps | apply State.launchStage_keeps
          | apply State.takeBallast_keeps | apply OKeeps.getD | refine Keeps.thd (by assumption) ?_
          | refine Keeps.snd (by assumption) ?_ | refine Keeps.fst (by assumption) ?_
    | intro _
    | split
    | (dsimp only)
    | with_reducible refine Keeps.lit ?_ rfl rfl rfl rfl ?_ ?_ ?_ ?_ ?_ ?_ ?_ ?_
    | exact Nat.le_refl _
    | exact Nat.le_succ _
    | exact List.prefix_rfl
    | exact List.prefix_append _ _

theorem execLayerChunkLaunch_keeps (group : HbmReader) (s : State) (t : State) (g : execLayerChunkLaunch group s = .next t) : Keeps s t := by
  have h := Keeps.refl s
  unfold execLayerChunkLaunch at g
  injection g with g
  subst g
  repeat' first
    | with_reducible first | exact h | assumption | apply State.boundary_keeps | apply State.hbmFind_keeps | apply State.modReq_keeps
          | apply State.launchStage_keeps | apply State.launchChunk_keeps | refine Keeps.thd (by assumption) ?_
          | refine Keeps.snd (by assumption) ?_ | refine Keeps.fst (by assumption) ?_
    | intro _
    | split
    | (dsimp only)
    | with_reducible refine Keeps.lit ?_ rfl rfl rfl rfl ?_ ?_ ?_ ?_ ?_ ?_ ?_ ?_
    | exact Nat.le_refl _
    | exact Nat.le_succ _
    | exact List.prefix_rfl
    | exact List.prefix_append _ _

theorem execLayerChunkDone_keeps (group us : Nat) (s : State) (t : State) (g : execLayerChunkDone group us s = .next t) : Keeps s t := by
  have h := Keeps.refl s
  unfold execLayerChunkDone at g
  injection g with g
  subst g
  repeat' first
    | with_reducible first | exact h | assumption | apply State.modReq_keeps | apply State.boundary_keeps
          | refine Keeps.thd (by assumption) ?_ | refine Keeps.snd (by assumption) ?_
          | refine Keeps.fst (by assumption) ?_
    | intro _
    | split
    | (dsimp only)
    | with_reducible refine Keeps.lit ?_ rfl rfl rfl rfl ?_ ?_ ?_ ?_ ?_ ?_ ?_ ?_
    | exact Nat.le_refl _
    | exact Nat.le_succ _
    | exact List.prefix_rfl
    | exact List.prefix_append _ _

theorem execFirstTokenSample_keeps (group member : Nat) (logits : List W32) (s : State) (t : State) (g : execFirstTokenSample group member logits s = .next t) : Keeps s t := by
  have h := Keeps.refl s
  unfold execFirstTokenSample at g
  injection g with g
  subst g
  repeat' first
    | with_reducible first | exact h | assumption | apply State.modMember_keeps | apply State.modReq_keeps
          | apply State.ownCheck_keeps | apply OKeeps.getD | refine Keeps.thd (by assumption) ?_
          | refine Keeps.snd (by assumption) ?_ | refine Keeps.fst (by assumption) ?_
    | intro _
    | split
    | (dsimp only)
    | with_reducible refine Keeps.lit ?_ rfl rfl rfl rfl ?_ ?_ ?_ ?_ ?_ ?_ ?_ ?_
    | exact Nat.le_refl _
    | exact Nat.le_succ _
    | exact List.prefix_rfl
    | exact List.prefix_append _ _

end Sys2Proof.Machine
end

