-- ==== Sys2Proof/Laws/KeepsReset.lean ====
section
/-! SUPPORT. What the operations of Machine/Reset.lean keep (Keeps). -/
namespace Sys2Proof.Machine

theorem State.clearPins_keeps {s0 : State} {s : State} {p : Nat} (h : Keeps s0 s) : Keeps s0 (State.clearPins s p) := by
  unfold State.clearPins
  repeat' first
    | with_reducible first | exact h | assumption | apply State.putFrm_keeps | apply State.freeIfUnused_keeps
          | apply Keeps.fold | apply Keeps.fold1 | apply Keeps.fold2
    | intro _
    | split
    | (dsimp only)
    | with_reducible refine Keeps.lit ?_ rfl rfl rfl rfl ?_ ?_ ?_ ?_ ?_ ?_ ?_ ?_
    | exact Nat.le_refl _
    | exact Nat.le_succ _
    | exact List.prefix_rfl
    | exact List.prefix_append _ _

theorem State.stopPart_keeps {s0 : State} {s : State} {p : Nat} {full : Bool} (h : Keeps s0 s) : Keeps s0 (State.stopPart s p full) := by
  unfold State.stopPart
  repeat' first
    | with_reducible first | exact h | assumption | apply State.modPart_keeps | apply State.setFld_keeps
          | apply State.modField_keeps | apply State.clearPins_keeps | apply Keeps.fold | apply Keeps.fold1
          | apply Keeps.fold2
    | intro _
    | split
    | (dsimp only)
    | with_reducible refine Keeps.lit ?_ rfl rfl rfl rfl ?_ ?_ ?_ ?_ ?_ ?_ ?_ ?_
    | exact Nat.le_refl _
    | exact Nat.le_succ _
    | exact List.prefix_rfl
    | exact List.prefix_append _ _

theorem State.stopWork_keeps {s0 : State} {s : State} {l : Nat} {full : Bool} (h : Keeps s0 s) : Keeps s0 (State.stopWork s l full) := by
  unfold State.stopWork
  repeat' first
    | with_reducible first | exact h | assumption | apply State.stopPart_keeps | apply Keeps.fold
          | apply Keeps.fold1 | apply Keeps.fold2
    | intro _
    | split
    | (dsimp only)
    | with_reducible refine Keeps.lit ?_ rfl rfl rfl rfl ?_ ?_ ?_ ?_ ?_ ?_ ?_ ?_
    | exact Nat.le_refl _
    | exact Nat.le_succ _
    | exact List.prefix_rfl
    | exact List.prefix_append _ _

theorem State.closeGates_keeps {s0 : State} {s : State} {ps : List Nat} {cause : Nat} (h : Keeps s0 s) : Keeps s0 (State.closeGates s ps cause) := by
  unfold State.closeGates
  repeat' first
    | with_reducible first | exact h | assumption | apply State.setFld_keeps | apply Keeps.fold | apply Keeps.fold1
          | apply Keeps.fold2
    | intro _
    | split
    | (dsimp only)
    | with_reducible refine Keeps.lit ?_ rfl rfl rfl rfl ?_ ?_ ?_ ?_ ?_ ?_ ?_ ?_
    | exact Nat.le_refl _
    | exact Nat.le_succ _
    | exact List.prefix_rfl
    | exact List.prefix_append _ _

theorem State.dropCause_keeps {s0 : State} {s : State} {ps : List Nat} {cause : Nat} (h : Keeps s0 s) : Keeps s0 (State.dropCause s ps cause) := by
  unfold State.dropCause
  repeat' first
    | with_reducible first | exact h | assumption | apply Keeps.fold | apply Keeps.fold1 | apply Keeps.fold2
    | intro _
    | split
    | (dsimp only)
    | with_reducible refine Keeps.lit ?_ rfl rfl rfl rfl ?_ ?_ ?_ ?_ ?_ ?_ ?_ ?_
    | exact Nat.le_refl _
    | exact Nat.le_succ _
    | exact List.prefix_rfl
    | exact List.prefix_append _ _

theorem State.restartFlow_keeps {s0 : State} {s : State} {k : Nat} {f : OutFlow} (h : Keeps s0 s) : Keeps s0 (State.restartFlow s k f) := by
  unfold State.restartFlow
  repeat' first
    | with_reducible first | exact h | assumption | apply State.setOut_keeps | apply State.pump_keeps
          | apply OKeeps.getD | refine Keeps.thd (by assumption) ?_ | refine Keeps.snd (by assumption) ?_
          | refine Keeps.fst (by assumption) ?_
    | intro _
    | split
    | (dsimp only)
    | with_reducible refine Keeps.lit ?_ rfl rfl rfl rfl ?_ ?_ ?_ ?_ ?_ ?_ ?_ ?_
    | exact Nat.le_refl _
    | exact Nat.le_succ _
    | exact List.prefix_rfl
    | exact List.prefix_append _ _

theorem State.restartFlows_keeps {s0 : State} {s : State} {p : Nat} (h : Keeps s0 s) : Keeps s0 (State.restartFlows s p) := by
  unfold State.restartFlows
  repeat' first
    | with_reducible first | exact h | assumption | apply State.setReg_keeps | apply State.restartFlow_keeps
          | apply Keeps.fold | apply Keeps.fold1 | apply Keeps.fold2
    | intro _
    | split
    | (dsimp only)
    | with_reducible refine Keeps.lit ?_ rfl rfl rfl rfl ?_ ?_ ?_ ?_ ?_ ?_ ?_ ?_
    | exact Nat.le_refl _
    | exact Nat.le_succ _
    | exact List.prefix_rfl
    | exact List.prefix_append _ _

theorem State.voidEnd_keeps {s0 : State} {s : State} {q : Request} {cause : Option (Nat × Nat × Nat × Nat)} (h : Keeps s0 s) : Keeps s0 (State.voidEnd s q cause) := by
  unfold State.voidEnd
  repeat' first
    | with_reducible first | exact h | assumption | apply State.modReq_keeps | apply State.endRequest_keeps
    | intro _
    | split
    | (dsimp only)
    | with_reducible refine Keeps.lit ?_ rfl rfl rfl rfl ?_ ?_ ?_ ?_ ?_ ?_ ?_ ?_
    | exact Nat.le_refl _
    | exact Nat.le_succ _
    | exact List.prefix_rfl
    | exact List.prefix_append _ _

theorem State.resetHost_keeps {s0 : State} {s : State} {p : Nat} (h : Keeps s0 s) : Keeps s0 (State.resetHost s p) := by
  unfold State.resetHost
  repeat' first
    | with_reducible first | exact h | assumption | apply State.setFld_keeps | apply State.dropFetch_keeps
          | apply Keeps.fold | apply Keeps.fold1 | apply Keeps.fold2
    | intro _
    | split
    | (dsimp only)

theorem State.partitionReset_keeps {s0 : State} {s : State} {l code cls part seq : Nat} (h : Keeps s0 s) : Keeps s0 (State.partitionReset s l code cls part seq) := by
  unfold State.partitionReset
  repeat' first
    | with_reducible exact h
    | with_reducible assumption
    | intro _
    | with_reducible apply State.setFld_keeps
    | with_reducible apply State.modField_keeps
    | with_reducible apply State.stopWork_keeps
    | with_reducible apply State.closeGates_keeps
    | with_reducible apply State.restartFlows_keeps
    | with_reducible apply State.voidEnd_keeps
    | with_reducible apply State.resetHost_keeps
    | with_reducible apply Keeps.fold
    | with_reducible apply Keeps.fold1
    | with_reducible apply Keeps.fold2
    | split
    | (dsimp only)
    | with_reducible refine Keeps.lit ?_ rfl rfl rfl rfl (by first | exact Nat.le_refl _ | exact Nat.le_succ _) (by first | exact Nat.le_refl _ | exact Nat.le_succ _) (by first | exact List.prefix_rfl | exact List.prefix_append _ _) (by first | exact List.prefix_rfl | exact List.prefix_append _ _) (by first | exact List.prefix_rfl | exact List.prefix_append _ _) (by first | exact List.prefix_rfl | exact List.prefix_append _ _) (by first | exact List.prefix_rfl | exact List.prefix_append _ _) (by first | exact List.prefix_rfl | exact List.prefix_append _ _)

theorem State.partitionEvent_keeps {s0 : State} {s : State} {c : Code} {part h0 h1 w2 w3 : Nat} (h : Keeps s0 s) : Keeps s0 (State.partitionEvent s c part h0 h1 w2 w3) := by
  unfold State.partitionEvent
  repeat' first
    | with_reducible first | exact h | assumption | apply State.log_keeps | apply State.partitionReset_keeps
    | intro _
    | split
    | (dsimp only)

theorem State.loseStrip_keeps {s0 : State} {s : State} {d : Nat} (h : Keeps s0 s) : Keeps s0 (State.loseStrip s d) := by
  unfold State.loseStrip
  repeat' first
    | with_reducible first | exact h | assumption | refine Keeps.thd (by assumption) ?_
          | refine Keeps.snd (by assumption) ?_ | refine Keeps.fst (by assumption) ?_
    | intro _
    | split
    | (dsimp only)
    | with_reducible refine Keeps.lit ?_ rfl rfl rfl rfl ?_ ?_ ?_ ?_ ?_ ?_ ?_ ?_
    | exact Nat.le_refl _
    | exact Nat.le_succ _
    | exact List.prefix_rfl
    | exact List.prefix_append _ _

theorem State.loseHub_keeps {s0 : State} {s : State} {f : Nat} (h : Keeps s0 s) : Keeps s0 (State.loseHub s f) := by
  unfold State.loseHub
  extract_lets t u v
  have h1 : Keeps s0 t := Keeps.fold _ _ _ h fun _ _ g => State.setReg_keeps g
  clear_value t
  have h2 : Keeps s0 u := Keeps.fold _ _ _ h1 fun _ _ g => State.setReg_keeps g
  clear_value u
  have h3 : Keeps s0 v := State.modField_keeps h2
  clear_value v
  exact Keeps.iteD (fun _ => State.modPart_keeps h3) fun _ => h3

theorem State.loseDomain_keeps {s0 : State} {s : State} {d : Nat} (h : Keeps s0 s) : Keeps s0 (State.loseDomain s d) := by
  unfold State.loseDomain
  repeat' first
    | with_reducible exact h
    | with_reducible assumption
    | intro _
    | with_reducible apply State.setFld_keeps
    | with_reducible apply State.zeroStack_keeps
    | with_reducible apply State.loseStrip_keeps
    | with_reducible apply State.loseHub_keeps
    | split
    | (dsimp only)

theorem State.showStrip_keeps {s0 : State} {s : State} {d : Nat} (h : Keeps s0 s) : Keeps s0 (State.showStrip s d) := by
  unfold State.showStrip
  repeat' first
    | with_reducible first | exact h | assumption | apply State.setFld_keeps
    | intro _
    | split
    | (dsimp only)

theorem State.putDomain_keeps {s0 : State} {s : State} {d : Nat} {v : Domain} (h : Keeps s0 s) : Keeps s0 (State.putDomain s d v) := by
  unfold State.putDomain
  repeat' first
    | with_reducible first | exact h | assumption | apply State.setDomain_keeps | apply State.showStrip_keeps
    | intro _
    | split
    | (dsimp only)

theorem State.domainOff_keeps {s0 : State} {s : State} {d : Nat} (h : Keeps s0 s) : Keeps s0 (State.domainOff s d) := by
  unfold State.domainOff
  repeat' first
    | with_reducible first | exact h | assumption | apply State.loseDomain_keeps | apply State.putDomain_keeps
    | intro _
    | split
    | (dsimp only)

theorem State.safetyOff_keeps {s0 : State} {s : State} {doms : List Nat} {cond : Nat} (h : Keeps s0 s) : Keeps s0 (State.safetyOff s doms cond) := by
  unfold State.safetyOff
  repeat' first
    | with_reducible first | exact h | assumption | apply State.domainOff_keeps | apply State.log_keeps
          | apply State.partitionEvent_keeps | apply Keeps.fold | apply Keeps.fold1 | apply Keeps.fold2
    | intro _
    | split
    | (dsimp only)
    | with_reducible refine Keeps.lit ?_ rfl rfl rfl rfl ?_ ?_ ?_ ?_ ?_ ?_ ?_ ?_
    | exact Nat.le_refl _
    | exact Nat.le_succ _
    | exact List.prefix_rfl
    | exact List.prefix_append _ _

theorem State.safetyClear_keeps {s0 : State} {s : State} {doms : List Nat} (h : Keeps s0 s) : Keeps s0 (State.safetyClear s doms) := by
  unfold State.safetyClear
  repeat' first
    | with_reducible first | exact h | assumption
    | intro _
    | split
    | (dsimp only)
    | with_reducible refine Keeps.lit ?_ rfl rfl rfl rfl ?_ ?_ ?_ ?_ ?_ ?_ ?_ ?_
    | exact Nat.le_refl _
    | exact Nat.le_succ _
    | exact List.prefix_rfl
    | exact List.prefix_append _ _

theorem State.beginStartup_keeps {s0 : State} {s : State} (h : Keeps s0 s) : Keeps s0 (State.beginStartup s) := by
  unfold State.beginStartup
  repeat' first
    | with_reducible first | exact h | assumption | apply State.setFld_keeps
    | intro _
    | split
    | (dsimp only)
    | with_reducible refine Keeps.lit ?_ rfl rfl rfl rfl ?_ ?_ ?_ ?_ ?_ ?_ ?_ ?_
    | exact Nat.le_refl _
    | exact Nat.le_succ _
    | exact List.prefix_rfl
    | exact List.prefix_append _ _

theorem Keeps.cleared {a s t : State} (h : Keeps a s) (e1 : t.pending = s.pending) (e2 : t.up.time = s.up.time)
    (e3 : t.flash.monkey = s.flash.monkey) (e4 : t.hbm = ⟨[], []⟩) (e5 : s.err.nextSeq ≤ t.err.nextSeq)
    (e6 : s.flash.startups ≤ t.flash.startups) (e7 : t.host.out = s.host.out) (e8 : t.host.asked = s.host.asked)
    (e9 : t.net.tx = s.net.tx) (e10 : t.mgmt.out = s.mgmt.out) (e11 : t.mgmt.uart = s.mgmt.uart)
    (e12 : t.mgmt.arp = s.mgmt.arp) : Keeps a t :=
  h.trans ⟨e1, e2, e3, fun _ => by rw [e4]; decide, e5, e6, by rw [e7], by rw [e8], by rw [e9], by rw [e10], by rw [e11], by rw [e12]⟩

theorem State.moduleReset_keeps {s0 : State} {s : State} {cause : Nat} (h : Keeps s0 s) : Keeps s0 (State.moduleReset s cause) := by
  unfold State.moduleReset
  have h1 : Keeps s0 (((s.closeGates (List.range 32) 3).srv.reqs.filter (fun q => q.classIdx.isSome && q.endsBy false)).foldl
      (fun s q => s.endStreams q Status.voided.val) (s.closeGates (List.range 32) 3)) := by
    apply Keeps.fold
    · exact State.closeGates_keeps h
    · intro t q ht
      exact State.endStreams_keeps ht
  apply State.beginStartup_keeps
  apply State.recap_keeps
  apply State.closeGates_keeps
  apply State.setFld_keeps
  apply State.setReg_keeps
  exact h1.cleared rfl rfl rfl rfl (Nat.le_refl _) (Nat.le_refl _) rfl rfl rfl rfl rfl rfl

theorem State.powerLost_keeps {s0 : State} {s : State} (h : Keeps s0 s) : Keeps s0 (State.powerLost s) := by
  unfold State.powerLost
  apply State.closeGates_keeps
  exact h.cleared rfl rfl rfl rfl (Nat.le_refl _) (Nat.le_refl _) rfl rfl rfl rfl rfl rfl

end Sys2Proof.Machine
end

