-- ==== Sys2Proof/Laws/KeepsHost.lean ====
section
/-! SUPPORT. What the operations of Machine/Host.lean keep (Keeps). -/
namespace Sys2Proof.Machine

theorem execWeightLoad_keeps (part ring : Nat) (s : State) (t : State) (g : execWeightLoad part ring s = .next t) : Keeps s t := by
  have h := Keeps.refl s
  unfold execWeightLoad at g
  injection g with g
  subst g
  repeat' first
    | with_reducible first | exact h | assumption | apply State.storeWords_keeps | apply State.answer_keeps
          | refine Keeps.thd (by assumption) ?_ | refine Keeps.snd (by assumption) ?_
          | refine Keeps.fst (by assumption) ?_
    | intro _
    | split
    | (dsimp only)
    | with_reducible refine Keeps.lit ?_ rfl rfl rfl rfl ?_ ?_ ?_ ?_ ?_ ?_ ?_ ?_
    | exact Nat.le_refl _
    | exact Nat.le_succ _
    | exact List.prefix_rfl
    | exact List.prefix_append _ _

theorem State.dropSet_keeps {s0 : State} {s : State} {l model : Nat} (h : Keeps s0 s) : Keeps s0 (State.dropSet s l model) := by
  unfold State.dropSet
  repeat' first
    | with_reducible first | exact h | assumption
    | intro _
    | split
    | (dsimp only)
    | with_reducible refine Keeps.lit ?_ rfl rfl rfl rfl ?_ ?_ ?_ ?_ ?_ ?_ ?_ ?_
    | exact Nat.le_refl _
    | exact Nat.le_succ _
    | exact List.prefix_rfl
    | exact List.prefix_append _ _

theorem State.writeSection_keeps {s0 : State} {s : State} {l : Nat} {b : List Byte} {e : Section} (h : Keeps s0 s) : Keeps s0 (State.writeSection s l b e) := by
  unfold State.writeSection
  repeat' first
    | with_reducible first | exact h | assumption | apply State.modClove_keeps | apply Keeps.fold
          | apply Keeps.fold1 | apply Keeps.fold2 | apply OKeeps.getD
    | intro _
    | split
    | (dsimp only)

theorem State.loadSet_keeps {s0 : State} {s : State} {p r : Nat} {c : Cmd} {split : Split} (h : Keeps s0 s) : Keeps s0 (State.loadSet s p r c split) := by
  unfold State.loadSet
  repeat' first
    | with_reducible first | exact h | assumption | apply State.answer_keeps | apply State.dropSet_keeps
          | apply State.writeSection_keeps | apply Keeps.fold | apply Keeps.fold1 | apply Keeps.fold2
    | intro _
    | split
    | (dsimp only)
    | with_reducible refine Keeps.lit ?_ rfl rfl rfl rfl ?_ ?_ ?_ ?_ ?_ ?_ ?_ ?_
    | exact Nat.le_refl _
    | exact Nat.le_succ _
    | exact List.prefix_rfl
    | exact List.prefix_append _ _

theorem State.putImage_keeps {s0 : State} {s : State} {p : Nat} {b : List Byte} (h : Keeps s0 s) : Keeps s0 (State.putImage s p b) := by
  unfold State.putImage
  repeat' first
    | with_reducible first | exact h | assumption | apply State.modPart_keeps
    | intro _
    | split
    | (dsimp only)
    | with_reducible refine Keeps.lit ?_ rfl rfl rfl rfl ?_ ?_ ?_ ?_ ?_ ?_ ?_ ?_
    | exact Nat.le_refl _
    | exact Nat.le_succ _
    | exact List.prefix_rfl
    | exact List.prefix_append _ _

theorem State.loadImage_keeps {s0 : State} {s : State} {p r : Nat} {c : Cmd} (h : Keeps s0 s) : Keeps s0 (State.loadImage s p r c) := by
  unfold State.loadImage
  repeat' first
    | with_reducible first | exact h | assumption | apply State.answer_keeps | apply State.putImage_keeps
          | apply Keeps.fold | apply Keeps.fold1 | apply Keeps.fold2
    | intro _
    | split
    | (dsimp only)

theorem execProgramLoad_keeps (part : Nat) (ring : SetLoad) (s : State) (t : State) (g : execProgramLoad part ring s = .next t) : Keeps s t := by
  have h := Keeps.refl s
  unfold execProgramLoad at g
  injection g with g
  subst g
  repeat' first
    | with_reducible first | exact h | assumption | apply State.loadSet_keeps | apply State.loadImage_keeps
          | apply State.answer_keeps | apply State.dropSet_keeps | refine Keeps.thd (by assumption) ?_
          | refine Keeps.snd (by assumption) ?_ | refine Keeps.fst (by assumption) ?_
    | intro _
    | split
    | (dsimp only)
    | with_reducible refine Keeps.lit ?_ rfl rfl rfl rfl ?_ ?_ ?_ ?_ ?_ ?_ ?_ ?_
    | exact Nat.le_refl _
    | exact Nat.le_succ _
    | exact List.prefix_rfl
    | exact List.prefix_append _ _

theorem State.addHint_keeps {s0 : State} {s : State} {h : Hint} (hh : Keeps s0 s) : Keeps s0 (State.addHint s h) := by
  unfold State.addHint
  repeat' first
    | with_reducible first | exact hh | assumption | apply Keeps.fold | apply Keeps.fold1 | apply Keeps.fold2
          | refine Keeps.thd (by assumption) ?_ | refine Keeps.snd (by assumption) ?_
          | refine Keeps.fst (by assumption) ?_
    | intro _
    | split
    | (dsimp only)
    | with_reducible refine Keeps.lit ?_ rfl rfl rfl rfl ?_ ?_ ?_ ?_ ?_ ?_ ?_ ?_
    | exact Nat.le_refl _
    | exact Nat.le_succ _
    | exact List.prefix_rfl
    | exact List.prefix_append _ _

theorem execHintHeavy_keeps (part ring : Nat) (s : State) (t : State) (g : execHintHeavy part ring s = .next t) : Keeps s t := by
  have h := Keeps.refl s
  unfold execHintHeavy at g
  injection g with g
  subst g
  repeat' first
    | with_reducible first | exact h | assumption | apply State.answer_keeps | apply State.addHint_keeps
          | refine Keeps.thd (by assumption) ?_ | refine Keeps.snd (by assumption) ?_
          | refine Keeps.fst (by assumption) ?_
    | intro _
    | split
    | (dsimp only)
    | with_reducible refine Keeps.lit ?_ rfl rfl rfl rfl ?_ ?_ ?_ ?_ ?_ ?_ ?_ ?_
    | exact Nat.le_refl _
    | exact Nat.le_succ _
    | exact List.prefix_rfl
    | exact List.prefix_append _ _

theorem execCollectiveBind_keeps (part ring : Nat) (s : State) (t : State) (g : execCollectiveBind part ring s = .next t) : Keeps s t := by
  have h := Keeps.refl s
  unfold execCollectiveBind at g
  injection g with g
  subst g
  repeat' first
    | with_reducible first | exact h | assumption | apply State.storeBytes_keeps | apply State.answer_keeps
          | refine Keeps.thd (by assumption) ?_ | refine Keeps.snd (by assumption) ?_
          | refine Keeps.fst (by assumption) ?_
    | intro _
    | split
    | (dsimp only)
    | with_reducible refine Keeps.lit ?_ rfl rfl rfl rfl ?_ ?_ ?_ ?_ ?_ ?_ ?_ ?_
    | exact Nat.le_refl _
    | exact Nat.le_succ _
    | exact List.prefix_rfl
    | exact List.prefix_append _ _

theorem State.doorbellWrite_keeps {s0 : State} {s : State} {m : Master} {p r : Nat} {cq : Bool} {v : W32} (h : Keeps s0 s) : Keeps s0 (State.doorbellWrite s m p r cq v) := by
  unfold State.doorbellWrite
  repeat' first
    | with_reducible first | exact h | assumption | apply State.hostAccess_keeps | apply State.doorbell_keeps
          | refine Keeps.thd (by assumption) ?_ | refine Keeps.snd (by assumption) ?_
          | refine Keeps.fst (by assumption) ?_
    | intro _
    | split
    | (dsimp only)
    | with_reducible refine Keeps.lit ?_ rfl rfl rfl rfl ?_ ?_ ?_ ?_ ?_ ?_ ?_ ?_
    | exact Nat.le_refl _
    | exact Nat.le_succ _
    | exact List.prefix_rfl
    | exact List.prefix_append _ _

theorem execSqTail_keeps (m : Master) (part ring : Nat) (value : W32) (s : State) (t : State) (g : execSqTail m part ring value s = .next t) : Keeps s t := by
  have h := Keeps.refl s
  unfold execSqTail at g
  injection g with g
  subst g
  repeat' first
    | with_reducible first | exact h | assumption | apply State.doorbellWrite_keeps
    | intro _
    | split
    | (dsimp only)

theorem execCqHead_keeps (m : Master) (part ring : Nat) (value : W32) (s : State) (t : State) (g : execCqHead m part ring value s = .next t) : Keeps s t := by
  have h := Keeps.refl s
  unfold execCqHead at g
  injection g with g
  subst g
  repeat' first
    | with_reducible first | exact h | assumption | apply State.doorbellWrite_keeps
    | intro _
    | split
    | (dsimp only)

theorem State.writePage_keeps {s0 : State} {s : State} {page meas energy : Nat} (h : Keeps s0 s) : Keeps s0 (State.writePage s page meas energy) := by
  unfold State.writePage
  repeat' first
    | with_reducible first | exact h | assumption | apply State.hostWrite_keeps | apply Keeps.fold
    | intro _
    | split
    | (dsimp only)
    | with_reducible refine Keeps.lit ?_ rfl rfl rfl rfl ?_ ?_ ?_ ?_ ?_ ?_ ?_ ?_
    | exact Nat.le_refl _
    | exact Nat.le_succ _
    | exact List.prefix_rfl
    | exact List.prefix_append _ _

theorem execStatusPageWrite_keeps (page measW energyMj : Nat) (s : State) (t : State) (g : execStatusPageWrite page measW energyMj s = .next t) : Keeps s t := by
  have h := Keeps.refl s
  unfold execStatusPageWrite at g
  injection g with g
  subst g
  repeat' first
    | with_reducible first | exact h | assumption | apply State.writePage_keeps
    | intro _
    | split
    | (dsimp only)

theorem State.wakeAttach_keeps {s0 : State} {s : State} {b : Bool} (h : Keeps s0 s) : Keeps s0 (State.wakeAttach s b) := by
  unfold State.wakeAttach
  repeat' first
    | with_reducible first | exact h | assumption | apply State.flushHeld_keeps | apply State.nextPayRead_keeps
          | apply Keeps.fold | apply Keeps.fold1 | apply Keeps.fold2
    | intro _
    | split
    | (dsimp only)

theorem execAttachLinkChange_keeps (b : Bool) (rate width : Nat) (flit : Bool) (s : State) (t : State) (g : execAttachLinkChange b rate width flit s = .next t) : Keeps s t := by
  have h := Keeps.refl s
  unfold execAttachLinkChange at g
  injection g with g
  subst g
  repeat' first
    | with_reducible first | exact h | assumption | apply State.setFld_keeps | apply State.wakeAttach_keeps
    | intro _
    | split
    | (dsimp only)
    | with_reducible refine Keeps.lit ?_ rfl rfl rfl rfl ?_ ?_ ?_ ?_ ?_ ?_ ?_ ?_
    | exact Nat.le_refl _
    | exact Nat.le_succ _
    | exact List.prefix_rfl
    | exact List.prefix_append _ _

theorem execAttachPowerState_keeps (b d3 : Bool) (s : State) (t : State) (g : execAttachPowerState b d3 s = .next t) : Keeps s t := by
  have h := Keeps.refl s
  unfold execAttachPowerState at g
  injection g with g
  subst g
  repeat' first
    | with_reducible first | exact h | assumption | apply State.wakeAttach_keeps
    | intro _
    | split
    | (dsimp only)
    | with_reducible refine Keeps.lit ?_ rfl rfl rfl rfl ?_ ?_ ?_ ?_ ?_ ?_ ?_ ?_
    | exact Nat.le_refl _
    | exact Nat.le_succ _
    | exact List.prefix_rfl
    | exact List.prefix_append _ _

end Sys2Proof.Machine
end

