-- ==== Sys2Proof/Laws/KeepsCollective.lean ====
section
/-! SUPPORT. What the operations of Machine/Collective.lean keep (Keeps). -/
namespace Sys2Proof.Machine

theorem State.engineArrive_keeps {s0 : State} {s : State} {p b n : Nat} (h : Keeps s0 s) : Keeps s0 (State.engineArrive s p b n).2 := by
  unfold State.engineArrive
  repeat' first
    | with_reducible first | exact h | assumption | apply State.event_keeps | apply State.setBarrier_keeps
          | apply State.releaseWaiters_keeps
    | intro _
    | split
    | (dsimp only)
    | with_reducible refine Keeps.lit ?_ rfl rfl rfl rfl ?_ ?_ ?_ ?_ ?_ ?_ ?_ ?_
    | exact Nat.le_refl _
    | exact Nat.le_succ _
    | exact List.prefix_rfl
    | exact List.prefix_append _ _

theorem State.setCall_keeps {s0 : State} {s : State} {k : Nat} {c : Call} (h : Keeps s0 s) : Keeps s0 (State.setCall s k c) := by
  unfold State.setCall
  repeat' first
    | with_reducible first | exact h | assumption
    | intro _
    | split
    | (dsimp only)
    | with_reducible refine Keeps.lit ?_ rfl rfl rfl rfl ?_ ?_ ?_ ?_ ?_ ?_ ?_ ?_
    | exact Nat.le_refl _
    | exact Nat.le_succ _
    | exact List.prefix_rfl
    | exact List.prefix_append _ _

theorem State.arriveStart_keeps {s0 : State} {s : State} {k : Nat} {c : Call} (h : Keeps s0 s) : Keeps s0 (State.arriveStart s k c) := by
  unfold State.arriveStart
  repeat' first
    | with_reducible first | exact h | assumption | apply State.engineArrive_keeps | apply State.setCall_keeps
    | intro _
    | split
    | (dsimp only)
    | with_reducible refine Keeps.lit ?_ rfl rfl rfl rfl ?_ ?_ ?_ ?_ ?_ ?_ ?_ ?_
    | exact Nat.le_refl _
    | exact Nat.le_succ _
    | exact List.prefix_rfl
    | exact List.prefix_append _ _

theorem State.arriveDone_keeps {s0 : State} {s : State} {k : Nat} {c : Call} (h : Keeps s0 s) : Keeps s0 (State.arriveDone s k c) := by
  unfold State.arriveDone
  repeat' first
    | with_reducible first | exact h | assumption | apply State.engineArrive_keeps
    | intro _
    | split
    | (dsimp only)

theorem State.armCall_keeps {s0 : State} {s : State} {k : Nat} {d : List Byte} (h : Keeps s0 s) : Keeps s0 (State.armCall s k d) := by
  unfold State.armCall
  repeat' first
    | with_reducible first | exact h | assumption | apply State.arriveStart_keeps
    | intro _
    | split
    | (dsimp only)

theorem State.disarmCall_keeps {s0 : State} {s : State} {k : Nat} (h : Keeps s0 s) : Keeps s0 (State.disarmCall s k) := by
  unfold State.disarmCall
  repeat' first
    | with_reducible first | exact h | assumption | apply State.setCall_keeps | refine Keeps.thd (by assumption) ?_
          | refine Keeps.snd (by assumption) ?_ | refine Keeps.fst (by assumption) ?_
    | intro _
    | split
    | (dsimp only)
    | with_reducible refine Keeps.lit ?_ rfl rfl rfl rfl ?_ ?_ ?_ ?_ ?_ ?_ ?_ ?_
    | exact Nat.le_refl _
    | exact Nat.le_succ _
    | exact List.prefix_rfl
    | exact List.prefix_append _ _

theorem State.setCallBit_keeps {s0 : State} {s : State} {p c off : Nat} (h : Keeps s0 s) : Keeps s0 (State.setCallBit s p c off) := by
  unfold State.setCallBit
  repeat' first
    | with_reducible exact h
    | with_reducible assumption
    | intro _
    | with_reducible apply State.setFld_keeps
    | with_reducible apply State.log_keeps
    | with_reducible apply State.setCall_keeps
    | with_reducible apply State.armCall_keeps
    | with_reducible refine Keeps.thd (by assumption) ?_
    | with_reducible refine Keeps.snd (by assumption) ?_
    | with_reducible refine Keeps.fst (by assumption) ?_
    | split
    | (dsimp only)
    | with_reducible refine Keeps.lit ?_ rfl rfl rfl rfl (by first | exact Nat.le_refl _ | exact Nat.le_succ _) (by first | exact Nat.le_refl _ | exact Nat.le_succ _) (by first | exact List.prefix_rfl | exact List.prefix_append _ _) (by first | exact List.prefix_rfl | exact List.prefix_append _ _) (by first | exact List.prefix_rfl | exact List.prefix_append _ _) (by first | exact List.prefix_rfl | exact List.prefix_append _ _) (by first | exact List.prefix_rfl | exact List.prefix_append _ _) (by first | exact List.prefix_rfl | exact List.prefix_append _ _)

theorem State.writeCallen_keeps {s0 : State} {s : State} {p off : Nat} {v : W32} (h : Keeps s0 s) : Keeps s0 (State.writeCallen s p off v) := by
  unfold State.writeCallen
  repeat' first
    | with_reducible exact h
    | with_reducible assumption
    | intro _
    | with_reducible apply State.setFld_keeps
    | with_reducible apply State.disarmCall_keeps
    | with_reducible apply State.setCallBit_keeps
    | with_reducible apply Keeps.fold
    | with_reducible apply Keeps.fold1
    | with_reducible apply Keeps.fold2
    | split
    | (dsimp only)

theorem State.putPiece_keeps {s0 : State} {s : State} {a : Nat} {bs : List Byte} {ms : List Bool} (h : Keeps s0 s) : Keeps s0 (State.putPiece s a bs ms) := by
  unfold State.putPiece
  repeat' first
    | with_reducible first | exact h | assumption | apply State.storeWords_keeps | apply State.storeBytes_keeps
          | apply OKeeps.getD
    | intro _
    | split
    | (dsimp only)

theorem State.sendColl_keeps {s0 : State} {s : State} {p : Nat} {dst : W32} {m : CollMsg} (h : Keeps s0 s) : Keeps s0 (State.sendColl s p dst m) := by
  unfold State.sendColl
  repeat' first
    | with_reducible first | exact h | assumption | apply State.sendMsg_keeps
    | intro _
    | split
    | (dsimp only)
    | with_reducible refine Keeps.lit ?_ rfl rfl rfl rfl ?_ ?_ ?_ ?_ ?_ ?_ ?_ ?_
    | exact Nat.le_refl _
    | exact Nat.le_succ _
    | exact List.prefix_rfl
    | exact List.prefix_append _ _

theorem State.endOp_keeps {s0 : State} {s : State} {k total : Nat} (h : Keeps s0 s) : Keeps s0 (State.endOp s k total) := by
  unfold State.endOp
  repeat' first
    | with_reducible first | exact h | assumption | apply State.arriveStart_keeps | apply State.arriveDone_keeps
          | apply State.armCall_keeps | refine Keeps.thd (by assumption) ?_ | refine Keeps.snd (by assumption) ?_
          | refine Keeps.fst (by assumption) ?_
    | intro _
    | split
    | (dsimp only)
    | with_reducible refine Keeps.lit ?_ rfl rfl rfl rfl ?_ ?_ ?_ ?_ ?_ ?_ ?_ ?_
    | exact Nat.le_refl _
    | exact Nat.le_succ _
    | exact List.prefix_rfl
    | exact List.prefix_append _ _

theorem State.landPiece_keeps {s0 : State} {s : State} {k : Nat} (h : Keeps s0 s) : Keeps s0 (State.landPiece s k) := by
  unfold State.landPiece
  repeat' first
    | with_reducible first | exact h | assumption | apply State.setCall_keeps | apply State.arriveDone_keeps
          | refine Keeps.thd (by assumption) ?_ | refine Keeps.snd (by assumption) ?_
          | refine Keeps.fst (by assumption) ?_
    | intro _
    | split
    | (dsimp only)
    | with_reducible refine Keeps.lit ?_ rfl rfl rfl rfl ?_ ?_ ?_ ?_ ?_ ?_ ?_ ?_
    | exact Nat.le_refl _
    | exact Nat.le_succ _
    | exact List.prefix_rfl
    | exact List.prefix_append _ _

theorem State.endContribution_keeps {s0 : State} {s : State} {k cap src : Nat} (h : Keeps s0 s) : Keeps s0 (State.endContribution s k cap src) := by
  unfold State.endContribution
  repeat' first
    | with_reducible first | exact h | assumption | apply State.storeBytes_keeps
          | refine Keeps.thd (by assumption) ?_ | refine Keeps.snd (by assumption) ?_
          | refine Keeps.fst (by assumption) ?_
    | intro _
    | split
    | (dsimp only)
    | with_reducible refine Keeps.lit ?_ rfl rfl rfl rfl ?_ ?_ ?_ ?_ ?_ ?_ ?_ ?_
    | exact Nat.le_refl _
    | exact Nat.le_succ _
    | exact List.prefix_rfl
    | exact List.prefix_append _ _

theorem State.takePiece_keeps {s0 : State} {s : State} {k cap : Nat} {c : Call} {m : CollMsg} (h : Keeps s0 s) : Keeps s0 (State.takePiece s k cap c m) := by
  unfold State.takePiece
  repeat' first
    | with_reducible first | exact h | assumption | apply State.setCall_keeps | apply State.putPiece_keeps
          | apply State.endOp_keeps | apply State.landPiece_keeps | apply State.endContribution_keeps
    | intro _
    | split
    | (dsimp only)
    | with_reducible refine Keeps.lit ?_ rfl rfl rfl rfl ?_ ?_ ?_ ?_ ?_ ?_ ?_ ?_
    | exact Nat.le_refl _
    | exact Nat.le_succ _
    | exact List.prefix_rfl
    | exact List.prefix_append _ _

theorem State.sendPiece_keeps {s0 : State} {s : State} {k cap r : Nat} {dst : W32} {c : Call} (h : Keeps s0 s) : Keeps s0 (State.sendPiece s k cap r dst c) := by
  unfold State.sendPiece
  repeat' first
    | with_reducible first | exact h | assumption | apply State.addFld_keeps | apply State.sendColl_keeps
          | apply Keeps.fold | apply Keeps.fold1 | apply Keeps.fold2
    | intro _
    | split
    | (dsimp only)
    | with_reducible refine Keeps.lit ?_ rfl rfl rfl rfl ?_ ?_ ?_ ?_ ?_ ?_ ?_ ?_
    | exact Nat.le_refl _
    | exact Nat.le_succ _
    | exact List.prefix_rfl
    | exact List.prefix_append _ _

theorem State.takeRing_keeps {s0 : State} {s : State} {k cap n r : Nat} {dst : W32} {c : Call} {m : CollMsg} (h : Keeps s0 s) : Keeps s0 (State.takeRing s k cap n r dst c m) := by
  unfold State.takeRing
  repeat' first
    | with_reducible first | exact h | assumption | apply State.setCall_keeps | apply State.putPiece_keeps
          | apply State.sendColl_keeps | apply State.endOp_keeps | apply State.landPiece_keeps
    | intro _
    | split
    | (dsimp only)
    | with_reducible refine Keeps.lit ?_ rfl rfl rfl rfl ?_ ?_ ?_ ?_ ?_ ?_ ?_ ?_
    | exact Nat.le_refl _
    | exact Nat.le_succ _
    | exact List.prefix_rfl
    | exact List.prefix_append _ _

theorem State.startRing_keeps {s0 : State} {s : State} {k cap n r : Nat} {dst : W32} {c : Call} (h : Keeps s0 s) : Keeps s0 (State.startRing s k cap n r dst c) := by
  unfold State.startRing
  repeat' first
    | with_reducible first | exact h | assumption | apply State.putPiece_keeps | apply State.sendColl_keeps
          | apply State.landPiece_keeps | apply Keeps.fold | apply Keeps.fold1 | apply Keeps.fold2
    | intro _
    | split
    | (dsimp only)
    | with_reducible refine Keeps.lit ?_ rfl rfl rfl rfl ?_ ?_ ?_ ?_ ?_ ?_ ?_ ?_
    | exact Nat.le_refl _
    | exact Nat.le_succ _
    | exact List.prefix_rfl
    | exact List.prefix_append _ _

theorem State.takeColl_keeps {s0 : State} {s : State} {m : CollMsg} (h : Keeps s0 s) : Keeps s0 (State.takeColl s m) := by
  unfold State.takeColl
  repeat' first
    | with_reducible first | exact h | assumption | apply State.takePiece_keeps | apply State.takeRing_keeps
          | apply OKeeps.getD | refine Keeps.thd (by assumption) ?_ | refine Keeps.snd (by assumption) ?_
          | refine Keeps.fst (by assumption) ?_
    | intro _
    | split
    | (dsimp only)
    | with_reducible refine Keeps.lit ?_ rfl rfl rfl rfl ?_ ?_ ?_ ?_ ?_ ?_ ?_ ?_
    | exact Nat.le_refl _
    | exact Nat.le_succ _
    | exact List.prefix_rfl
    | exact List.prefix_append _ _

theorem State.placeColl_keeps {s0 : State} (n : Nat) : ∀ {s : State}, Keeps s0 s → Keeps s0 (State.placeColl s n) := by
  induction n with
  | zero =>
    intro s h
    unfold State.placeColl
    repeat' first
      | with_reducible first | exact h | apply State.takeColl_keeps | refine Keeps.thd (by assumption) ?_
          | refine Keeps.snd (by assumption) ?_ | refine Keeps.fst (by assumption) ?_
      | intro _
      | split
      | (dsimp only)
      | with_reducible refine Keeps.lit ?_ rfl rfl rfl rfl ?_ ?_ ?_ ?_ ?_ ?_ ?_ ?_
      | exact Nat.le_refl _
      | exact Nat.le_succ _
      | exact List.prefix_rfl
      | exact List.prefix_append _ _
  | succ n ih =>
    intro s h
    unfold State.placeColl
    repeat' first
      | with_reducible first | exact h | apply ih | apply State.takeColl_keeps | refine Keeps.thd (by assumption) ?_
          | refine Keeps.snd (by assumption) ?_ | refine Keeps.fst (by assumption) ?_
      | intro _
      | split
      | (dsimp only)
      | with_reducible refine Keeps.lit ?_ rfl rfl rfl rfl ?_ ?_ ?_ ?_ ?_ ?_ ?_ ?_
      | exact Nat.le_refl _
      | exact Nat.le_succ _
      | exact List.prefix_rfl
      | exact List.prefix_append _ _

theorem State.deliverColl_keeps {s0 : State} {s : State} {f : Frame} (h : Keeps s0 s) : Keeps s0 (State.deliverColl s f) := by
  unfold State.deliverColl
  repeat' first
    | with_reducible first | exact h | assumption | apply State.discard_keeps | apply State.placeColl_keeps
    | intro _
    | split
    | (dsimp only)
    | with_reducible refine Keeps.lit ?_ rfl rfl rfl rfl ?_ ?_ ?_ ?_ ?_ ?_ ?_ ?_
    | exact Nat.le_refl _
    | exact Nat.le_succ _
    | exact List.prefix_rfl
    | exact List.prefix_append _ _

theorem State.logCollFail_keeps {s0 : State} {s : State} {k rank : Nat} {c : Call} (h : Keeps s0 s) : Keeps s0 (State.logCollFail s k rank c) := by
  unfold State.logCollFail
  repeat' first
    | with_reducible first | exact h | assumption | apply State.event_keeps
    | intro _
    | split
    | (dsimp only)

theorem State.failOp_keeps {s0 : State} {s : State} {k cap r : Nat} {c : Call} (h : Keeps s0 s) : Keeps s0 (State.failOp s k cap r c) := by
  unfold State.failOp
  repeat' first
    | with_reducible first | exact h | assumption | apply State.storeWords_keeps | apply State.drawMarked_keeps
          | apply State.setCall_keeps | apply State.endOp_keeps | apply State.landPiece_keeps
          | apply State.logCollFail_keeps | apply Keeps.fold | apply Keeps.fold1 | apply Keeps.fold2
    | intro _
    | split
    | (dsimp only)
    | with_reducible refine Keeps.lit ?_ rfl rfl rfl rfl ?_ ?_ ?_ ?_ ?_ ?_ ?_ ?_
    | exact Nat.le_refl _
    | exact Nat.le_succ _
    | exact List.prefix_rfl
    | exact List.prefix_append _ _

theorem State.collSend_keeps {s0 : State} {s : State} {k : Nat} (h : Keeps s0 s) : Keeps s0 (State.collSend s k) := by
  unfold State.collSend
  repeat' first
    | with_reducible exact h
    | with_reducible assumption
    | intro _
    | with_reducible apply State.setCall_keeps
    | with_reducible apply State.arriveStart_keeps
    | with_reducible apply State.endOp_keeps
    | with_reducible apply State.sendPiece_keeps
    | with_reducible apply State.startRing_keeps
    | with_reducible apply State.failOp_keeps
    | with_reducible apply OKeeps.getD
    | with_reducible refine Keeps.thd (by assumption) ?_
    | with_reducible refine Keeps.snd (by assumption) ?_
    | with_reducible refine Keeps.fst (by assumption) ?_
    | split
    | (dsimp only)
    | with_reducible refine Keeps.lit ?_ rfl rfl rfl rfl (by first | exact Nat.le_refl _ | exact Nat.le_succ _) (by first | exact Nat.le_refl _ | exact Nat.le_succ _) (by first | exact List.prefix_rfl | exact List.prefix_append _ _) (by first | exact List.prefix_rfl | exact List.prefix_append _ _) (by first | exact List.prefix_rfl | exact List.prefix_append _ _) (by first | exact List.prefix_rfl | exact List.prefix_append _ _) (by first | exact List.prefix_rfl | exact List.prefix_append _ _) (by first | exact List.prefix_rfl | exact List.prefix_append _ _)

theorem execCollPieceSend_keeps (part : Nat) (call : HbmReader) (s : State) (t : State) (g : execCollPieceSend part call s = .next t) : Keeps s t := by
  have h := Keeps.refl s
  unfold execCollPieceSend at g
  injection g with g
  subst g
  repeat' first
    | with_reducible first | exact h | assumption | apply State.hbmFind_keeps | apply State.collSend_keeps
          | apply State.placeColl_keeps | apply State.settle_keeps
    | intro _
    | split
    | (dsimp only)
    | with_reducible refine Keeps.lit ?_ rfl rfl rfl rfl ?_ ?_ ?_ ?_ ?_ ?_ ?_ ?_
    | exact Nat.le_refl _
    | exact Nat.le_succ _
    | exact List.prefix_rfl
    | exact List.prefix_append _ _

theorem State.losePiece_keeps {s0 : State} {s : State} {k rank : Nat} (h : Keeps s0 s) : Keeps s0 (State.losePiece s k rank) := by
  unfold State.losePiece
  repeat' first
    | with_reducible first | exact h | assumption | apply State.storeWords_keeps | apply State.drawMarked_keeps
          | apply State.setCall_keeps | apply State.endOp_keeps | apply State.landPiece_keeps
          | apply State.endContribution_keeps | apply State.takeRing_keeps | apply State.logCollFail_keeps
          | apply Keeps.fold | apply Keeps.fold1 | apply Keeps.fold2 | apply OKeeps.getD
          | refine Keeps.thd (by assumption) ?_ | refine Keeps.snd (by assumption) ?_
          | refine Keeps.fst (by assumption) ?_
    | intro _
    | split
    | (dsimp only)
    | with_reducible refine Keeps.lit ?_ rfl rfl rfl rfl ?_ ?_ ?_ ?_ ?_ ?_ ?_ ?_
    | exact Nat.le_refl _
    | exact Nat.le_succ _
    | exact List.prefix_rfl
    | exact List.prefix_append _ _

theorem execCollFail_keeps (part call rank : Nat) (s : State) (t : State) (g : execCollFail part call rank s = .next t) : Keeps s t := by
  have h := Keeps.refl s
  unfold execCollFail at g
  injection g with g
  subst g
  repeat' first
    | with_reducible first | exact h | assumption | apply State.settle_keeps | apply State.placeColl_keeps
          | apply State.losePiece_keeps
    | intro _
    | split
    | (dsimp only)

end Sys2Proof.Machine
end

