-- ==== Sys2Proof/Laws/KeepsVyngo.lean ====
section
/-! SUPPORT. What the operations of Machine/Vyngo.lean keep (Keeps). -/
namespace Sys2Proof.Machine

theorem State.rankMirror_keeps {s0 : State} {s : State} (h : Keeps s0 s) : Keeps s0 (State.rankMirror s) := by
  unfold State.rankMirror
  repeat' first
    | with_reducible first | exact h | assumption | apply State.setFld_keeps
    | intro _
    | split
    | (dsimp only)
    | with_reducible refine Keeps.lit ?_ rfl rfl rfl rfl ?_ ?_ ?_ ?_ ?_ ?_ ?_ ?_
    | exact Nat.le_refl _
    | exact Nat.le_succ _
    | exact List.prefix_rfl
    | exact List.prefix_append _ _

theorem State.setNode_keeps {s0 : State} {s : State} {st id : Nat} (h : Keeps s0 s) : Keeps s0 (State.setNode s st id) := by
  unfold State.setNode
  repeat' first
    | with_reducible first | exact h | assumption | apply State.setFld_keeps | apply State.rankMirror_keeps
    | intro _
    | split
    | (dsimp only)
    | with_reducible refine Keeps.lit ?_ rfl rfl rfl rfl ?_ ?_ ?_ ?_ ?_ ?_ ?_ ?_
    | exact Nat.le_refl _
    | exact Nat.le_succ _
    | exact List.prefix_rfl
    | exact List.prefix_append _ _

theorem State.claimStep_keeps {s0 : State} {s : State} (h : Keeps s0 s) : Keeps s0 (State.claimStep s) := by
  unfold State.claimStep
  repeat' first
    | with_reducible first | exact h | assumption | apply State.broadcast_keeps | apply State.setNode_keeps
    | intro _
    | split
    | (dsimp only)
    | with_reducible refine Keeps.lit ?_ rfl rfl rfl rfl ?_ ?_ ?_ ?_ ?_ ?_ ?_ ?_
    | exact Nat.le_refl _
    | exact Nat.le_succ _
    | exact List.prefix_rfl
    | exact List.prefix_append _ _

theorem State.startClaim_keeps {s0 : State} {s : State} (h : Keeps s0 s) : Keeps s0 (State.startClaim s) := by
  unfold State.startClaim
  repeat' first
    | with_reducible first | exact h | assumption | apply State.setNode_keeps | apply State.claimStep_keeps
    | intro _
    | split
    | (dsimp only)
    | with_reducible refine Keeps.lit ?_ rfl rfl rfl rfl ?_ ?_ ?_ ?_ ?_ ?_ ?_ ?_
    | exact Nat.le_refl _
    | exact Nat.le_succ _
    | exact List.prefix_rfl
    | exact List.prefix_append _ _

theorem State.nodeLost_keeps {s0 : State} {s : State} {id : Nat} {uid : BitVec 128} (h : Keeps s0 s) : Keeps s0 (State.nodeLost s id uid) := by
  unfold State.nodeLost
  repeat' first
    | with_reducible first | exact h | assumption | apply State.log_keeps | apply State.setNode_keeps
    | intro _
    | split
    | (dsimp only)

theorem State.voidIdle_keeps {s0 : State} {s : State} {q : Request} {cause : Nat × Nat × Nat × Nat} (h : Keeps s0 s) : Keeps s0 (State.voidIdle s q cause) := by
  unfold State.voidIdle
  repeat' first
    | with_reducible first | exact h | assumption | apply State.modReq_keeps | apply State.endRequest_keeps
    | intro _
    | split
    | (dsimp only)
    | with_reducible refine Keeps.lit ?_ rfl rfl rfl rfl ?_ ?_ ?_ ?_ ?_ ?_ ?_ ?_
    | exact Nat.le_refl _
    | exact Nat.le_succ _
    | exact List.prefix_rfl
    | exact List.prefix_append _ _

theorem State.loseFlow_keeps {s0 : State} {s : State} {k : Nat} (h : Keeps s0 s) : Keeps s0 (State.loseFlow s k) := by
  unfold State.loseFlow
  repeat' first
    | with_reducible first | exact h | assumption | apply State.event_keeps | apply State.pumpAll_keeps
          | apply State.tierAnswer_keeps | apply State.voidIdle_keeps | apply Keeps.fold | apply Keeps.fold1
          | apply Keeps.fold2 | refine Keeps.thd (by assumption) ?_ | refine Keeps.snd (by assumption) ?_
          | refine Keeps.fst (by assumption) ?_
    | intro _
    | split
    | (dsimp only)
    | with_reducible refine Keeps.lit ?_ rfl rfl rfl rfl ?_ ?_ ?_ ?_ ?_ ?_ ?_ ?_
    | exact Nat.le_refl _
    | exact Nat.le_succ _
    | exact List.prefix_rfl
    | exact List.prefix_append _ _

theorem State.loseId_keeps {s0 : State} {s : State} {uid : BitVec 128} (h : Keeps s0 s) : Keeps s0 (State.loseId s uid) := by
  unfold State.loseId
  repeat' first
    | with_reducible first | exact h | assumption | apply State.nodeLost_keeps | apply State.loseFlow_keeps
          | apply Keeps.fold | apply Keeps.fold1 | apply Keeps.fold2
    | intro _
    | split
    | (dsimp only)
    | with_reducible refine Keeps.lit ?_ rfl rfl rfl rfl ?_ ?_ ?_ ?_ ?_ ?_ ?_ ?_
    | exact Nat.le_refl _
    | exact Nat.le_succ _
    | exact List.prefix_rfl
    | exact List.prefix_append _ _

theorem execFlowLost_keeps (flow : Nat) (s : State) (t : State) (g : execFlowLost flow s = .next t) : Keeps s t := by
  have h := Keeps.refl s
  unfold execFlowLost at g
  injection g with g
  subst g
  repeat' first
    | with_reducible first | exact h | assumption | apply State.settle_keeps | apply State.loseFlow_keeps
          | refine Keeps.thd (by assumption) ?_ | refine Keeps.snd (by assumption) ?_
          | refine Keeps.fst (by assumption) ?_
    | intro _
    | split
    | (dsimp only)
    | with_reducible refine Keeps.lit ?_ rfl rfl rfl rfl ?_ ?_ ?_ ?_ ?_ ?_ ?_ ?_
    | exact Nat.le_refl _
    | exact Nat.le_succ _
    | exact List.prefix_rfl
    | exact List.prefix_append _ _

theorem execClaim_keeps (id : Nat) (uid : BitVec 128) (port : Nat) (s : State) (t : State) (g : execClaim id uid port s = .next t) : Keeps s t := by
  have h := Keeps.refl s
  unfold execClaim at g
  injection g with g
  subst g
  repeat' first
    | with_reducible first | exact h | assumption | apply State.broadcast_keeps | apply State.setNode_keeps
          | apply State.nodeLost_keeps
    | intro _
    | split
    | (dsimp only)
    | with_reducible refine Keeps.lit ?_ rfl rfl rfl rfl ?_ ?_ ?_ ?_ ?_ ?_ ?_ ?_
    | exact Nat.le_refl _
    | exact Nat.le_succ _
    | exact List.prefix_rfl
    | exact List.prefix_append _ _

theorem execDefend_keeps (id : Nat) (uid : BitVec 128) (port : Nat) (s : State) (t : State) (g : execDefend id uid port s = .next t) : Keeps s t := by
  have h := Keeps.refl s
  unfold execDefend at g
  injection g with g
  subst g
  repeat' first
    | with_reducible first | exact h | assumption | apply State.settle_keeps | apply State.nodeLost_keeps
          | apply State.loseId_keeps
    | intro _
    | split
    | (dsimp only)

theorem State.writeNode_keeps {s0 : State} {s : State} {v : W32} (h : Keeps s0 s) : Keeps s0 (State.writeNode s v) := by
  unfold State.writeNode
  repeat' first
    | with_reducible first | exact h | assumption | apply State.setFld_keeps | apply State.startClaim_keeps
    | intro _
    | split
    | (dsimp only)

theorem execClaimResend_keeps (s : State) (t : State) (g : execClaimResend s = .next t) : Keeps s t := by
  have h := Keeps.refl s
  unfold execClaimResend at g
  injection g with g
  subst g
  repeat' first
    | with_reducible first | exact h | assumption | apply State.broadcast_keeps
    | intro _
    | split
    | (dsimp only)
    | with_reducible refine Keeps.lit ?_ rfl rfl rfl rfl ?_ ?_ ?_ ?_ ?_ ?_ ?_ ?_
    | exact Nat.le_refl _
    | exact Nat.le_succ _
    | exact List.prefix_rfl
    | exact List.prefix_append _ _

theorem execClaimListenEnd_keeps (s : State) (t : State) (g : execClaimListenEnd s = .next t) : Keeps s t := by
  have h := Keeps.refl s
  unfold execClaimListenEnd at g
  injection g with g
  subst g
  repeat' first
    | with_reducible first | exact h | assumption | apply State.broadcast_keeps | apply State.pumpAll_keeps
          | apply State.settleAcks_keeps | apply State.setNode_keeps
    | intro _
    | split
    | (dsimp only)

theorem execClaimBackoffEnd_keeps (s : State) (t : State) (g : execClaimBackoffEnd s = .next t) : Keeps s t := by
  have h := Keeps.refl s
  unfold execClaimBackoffEnd at g
  injection g with g
  subst g
  repeat' first
    | with_reducible first | exact h | assumption | apply State.claimStep_keeps
    | intro _
    | split
    | (dsimp only)

theorem execDefendPeriodic_keeps (s : State) (t : State) (g : execDefendPeriodic s = .next t) : Keeps s t := by
  have h := Keeps.refl s
  unfold execDefendPeriodic at g
  injection g with g
  subst g
  repeat' first
    | with_reducible first | exact h | assumption | apply State.broadcast_keeps
    | intro _
    | split
    | (dsimp only)

theorem State.portUp_keeps {s0 : State} {s : State} {n st : Nat} (h : Keeps s0 s) : Keeps s0 (State.portUp s n st) := by
  unfold State.portUp
  repeat' first
    | with_reducible first | exact h | assumption | apply State.setFld_keeps | apply State.claimStep_keeps
          | apply State.transmit_keeps | apply State.pumpAll_keeps | apply State.settleAcks_keeps
    | intro _
    | split
    | (dsimp only)
    | with_reducible refine Keeps.lit ?_ rfl rfl rfl rfl ?_ ?_ ?_ ?_ ?_ ?_ ?_ ?_
    | exact Nat.le_refl _
    | exact Nat.le_succ _
    | exact List.prefix_rfl
    | exact List.prefix_append _ _

theorem execPortLinkChange_keeps (port : Nat) (up : Bool) (s : State) (t : State) (g : execPortLinkChange port up s = .next t) : Keeps s t := by
  have h := Keeps.refl s
  unfold execPortLinkChange at g
  injection g with g
  subst g
  repeat' first
    | with_reducible first | exact h | assumption | apply State.setFld_keeps | apply State.portUp_keeps
    | intro _
    | split
    | (dsimp only)

theorem State.setPending_keeps {s0 : State} {s : State} {n : Nat} {v : BitVec 16} (h : Keeps s0 s) : Keeps s0 (State.setPending s n v) := by
  unfold State.setPending
  repeat' first
    | with_reducible first | exact h | assumption | apply State.setFld_keeps
    | intro _
    | split
    | (dsimp only)
    | with_reducible refine Keeps.lit ?_ rfl rfl rfl rfl ?_ ?_ ?_ ?_ ?_ ?_ ?_ ?_
    | exact Nat.le_refl _
    | exact Nat.le_succ _
    | exact List.prefix_rfl
    | exact List.prefix_append _ _

theorem execLaneFailing_keeps (port lane : Nat) (s : State) (t : State) (g : execLaneFailing port lane s = .next t) : Keeps s t := by
  have h := Keeps.refl s
  unfold execLaneFailing at g
  injection g with g
  subst g
  repeat' first
    | with_reducible first | exact h | assumption | apply State.setPending_keeps
    | intro _
    | split
    | (dsimp only)

theorem execRetrainWindow_keeps (port lane : Nat) (ok : Bool) (s : State) (t : State) (g : execRetrainWindow port lane ok s = .next t) : Keeps s t := by
  have h := Keeps.refl s
  unfold execRetrainWindow at g
  injection g with g
  subst g
  repeat' first
    | with_reducible first | exact h | assumption | apply State.portUp_keeps | apply State.setPending_keeps
    | intro _
    | split
    | (dsimp only)
    | with_reducible refine Keeps.lit ?_ rfl rfl rfl rfl ?_ ?_ ?_ ?_ ?_ ?_ ?_ ?_
    | exact Nat.le_refl _
    | exact Nat.le_succ _
    | exact List.prefix_rfl
    | exact List.prefix_append _ _

theorem execReservedFrame_keeps (port : Nat) (s : State) (t : State) (g : execReservedFrame port s = .next t) : Keeps s t := by
  have h := Keeps.refl s
  unfold execReservedFrame at g
  injection g with g
  subst g
  repeat' first
    | with_reducible first | exact h | assumption | apply State.discard_keeps
    | intro _
    | split
    | (dsimp only)

theorem execAck_keeps (f : Frame) (s : State) (t : State) (g : execAck f s = .next t) : Keeps s t := by
  have h := Keeps.refl s
  unfold execAck at g
  injection g with g
  subst g
  repeat' first
    | with_reducible first | exact h | assumption | apply State.credit_keeps | apply State.discard_keeps
          | apply State.ackFlow_keeps | apply State.settle_keeps | apply State.settleAcks_keeps
          | refine Keeps.thd (by assumption) ?_ | refine Keeps.snd (by assumption) ?_
          | refine Keeps.fst (by assumption) ?_
    | intro _
    | split
    | (dsimp only)
    | with_reducible refine Keeps.lit ?_ rfl rfl rfl rfl ?_ ?_ ?_ ?_ ?_ ?_ ?_ ?_
    | exact Nat.le_refl _
    | exact Nat.le_succ _
    | exact List.prefix_rfl
    | exact List.prefix_append _ _

theorem execCredit_keeps (f : Frame) (s : State) (t : State) (g : execCredit f s = .next t) : Keeps s t := by
  have h := Keeps.refl s
  unfold execCredit at g
  injection g with g
  subst g
  repeat' first
    | with_reducible first | exact h | assumption | apply State.credit_keeps | apply State.discard_keeps
          | apply State.ackFlow_keeps | apply State.settle_keeps | apply State.settleAcks_keeps
          | refine Keeps.thd (by assumption) ?_ | refine Keeps.snd (by assumption) ?_
          | refine Keeps.fst (by assumption) ?_
    | intro _
    | split
    | (dsimp only)
    | with_reducible refine Keeps.lit ?_ rfl rfl rfl rfl ?_ ?_ ?_ ?_ ?_ ?_ ?_ ?_
    | exact Nat.le_refl _
    | exact Nat.le_succ _
    | exact List.prefix_rfl
    | exact List.prefix_append _ _

theorem State.ackIn_keeps {s0 : State} {s : State} {k : Nat} (h : Keeps s0 s) : Keeps s0 (State.ackIn s k) := by
  unfold State.ackIn
  repeat' first
    | with_reducible first | exact h | assumption | apply State.sendAck_keeps | refine Keeps.thd (by assumption) ?_
          | refine Keeps.snd (by assumption) ?_ | refine Keeps.fst (by assumption) ?_
    | intro _
    | split
    | (dsimp only)
    | with_reducible refine Keeps.lit ?_ rfl rfl rfl rfl ?_ ?_ ?_ ?_ ?_ ?_ ?_ ?_
    | exact Nat.le_refl _
    | exact Nat.le_succ _
    | exact List.prefix_rfl
    | exact List.prefix_append _ _

theorem execAckTimer_keeps (flow : Nat) (s : State) (t : State) (g : execAckTimer flow s = .next t) : Keeps s t := by
  have h := Keeps.refl s
  unfold execAckTimer at g
  injection g with g
  subst g
  repeat' first
    | with_reducible first | exact h | assumption | apply State.ackIn_keeps | refine Keeps.thd (by assumption) ?_
          | refine Keeps.snd (by assumption) ?_ | refine Keeps.fst (by assumption) ?_
    | intro _
    | split
    | (dsimp only)
    | with_reducible refine Keeps.lit ?_ rfl rfl rfl rfl ?_ ?_ ?_ ?_ ?_ ?_ ?_ ?_
    | exact Nat.le_refl _
    | exact Nat.le_succ _
    | exact List.prefix_rfl
    | exact List.prefix_append _ _

theorem execResendTimer_keeps (flow psn : Nat) (s : State) (t : State) (g : execResendTimer flow psn s = .next t) : Keeps s t := by
  have h := Keeps.refl s
  unfold execResendTimer at g
  injection g with g
  subst g
  repeat' first
    | with_reducible first | exact h | assumption | apply State.resend_keeps
    | intro _
    | split
    | (dsimp only)

theorem execFlowClose_keeps (flow : Nat) (s : State) (t : State) (g : execFlowClose flow s = .next t) : Keeps s t := by
  have h := Keeps.refl s
  unfold execFlowClose at g
  injection g with g
  subst g
  repeat' first
    | with_reducible first | exact h | assumption | apply State.pumpAll_keeps | refine Keeps.thd (by assumption) ?_
          | refine Keeps.snd (by assumption) ?_ | refine Keeps.fst (by assumption) ?_
    | intro _
    | split
    | (dsimp only)
    | with_reducible refine Keeps.lit ?_ rfl rfl rfl rfl ?_ ?_ ?_ ?_ ?_ ?_ ?_ ?_
    | exact Nat.le_refl _
    | exact Nat.le_succ _
    | exact List.prefix_rfl
    | exact List.prefix_append _ _

theorem State.dataFrame_keeps {s0 : State} {s : State} {type : Nat} {f : Frame} {deliver : State → Frame → State} (h : Keeps s0 s)
    (hf : ∀ t g, Keeps s0 t → Keeps s0 (deliver t g)) : Keeps s0 (State.dataFrame s type f deliver) := by
  unfold State.dataFrame
  dsimp only
  repeat' first
    | with_reducible exact h
    | with_reducible assumption
    | intro _
    | with_reducible apply State.discard_keeps
    | with_reducible apply State.ackFlow_keeps
    | with_reducible apply State.receive_keeps
    | with_reducible apply State.setIn_keeps
    | with_reducible apply State.sendAck_keeps
    | with_reducible apply State.ackIn_keeps
    | with_reducible apply State.settleAcks_keeps
    | with_reducible apply State.settle_keeps
    | with_reducible apply State.placeColl_keeps
    | with_reducible apply hf
    | with_reducible apply Keeps.fold
    | with_reducible refine Keeps.snd (by assumption) ?_
    | split
    | (dsimp only)

theorem execColl_keeps (f : Frame) (s : State) (t : State) (g : execColl f s = .next t) : Keeps s t := by
  have h := Keeps.refl s
  unfold execColl at g
  injection g with g
  subst g
  repeat' first
    | with_reducible first | exact h | assumption | apply State.deliverColl_keeps | apply State.dataFrame_keeps
    | intro _
    | split
    | (dsimp only)

theorem State.deliverTier_keeps {s0 : State} {s : State} {store : Bool} {f : Frame} (h : Keeps s0 s) : Keeps s0 (State.deliverTier s store f) := by
  unfold State.deliverTier
  repeat' first
    | with_reducible first | exact h | assumption | apply State.discard_keeps | apply State.tierAnswer_keeps
          | refine Keeps.thd (by assumption) ?_ | refine Keeps.snd (by assumption) ?_
          | refine Keeps.fst (by assumption) ?_
    | intro _
    | split
    | (dsimp only)
    | with_reducible refine Keeps.lit ?_ rfl rfl rfl rfl ?_ ?_ ?_ ?_ ?_ ?_ ?_ ?_
    | exact Nat.le_refl _
    | exact Nat.le_succ _
    | exact List.prefix_rfl
    | exact List.prefix_append _ _

theorem execTierRdata_keeps (f : Frame) (s : State) (t : State) (g : execTierRdata f s = .next t) : Keeps s t := by
  have h := Keeps.refl s
  unfold execTierRdata at g
  injection g with g
  subst g
  repeat' first
    | with_reducible first | exact h | assumption | apply State.dataFrame_keeps | apply State.deliverTier_keeps
    | intro _
    | split
    | (dsimp only)

theorem execTierWack_keeps (f : Frame) (s : State) (t : State) (g : execTierWack f s = .next t) : Keeps s t := by
  have h := Keeps.refl s
  unfold execTierWack at g
  injection g with g
  subst g
  repeat' first
    | with_reducible first | exact h | assumption | apply State.dataFrame_keeps | apply State.deliverTier_keeps
    | intro _
    | split
    | (dsimp only)

theorem State.deliverCheck_keeps {s0 : State} {s : State} {f : Frame} (h : Keeps s0 s) : Keeps s0 (State.deliverCheck s f) := by
  unfold State.deliverCheck
  repeat' first
    | with_reducible first | exact h | assumption | apply State.discard_keeps | apply State.compareCheck_keeps
          | refine Keeps.thd (by assumption) ?_ | refine Keeps.snd (by assumption) ?_
          | refine Keeps.fst (by assumption) ?_
    | intro _
    | split
    | (dsimp only)
    | with_reducible refine Keeps.lit ?_ rfl rfl rfl rfl ?_ ?_ ?_ ?_ ?_ ?_ ?_ ?_
    | exact Nat.le_refl _
    | exact Nat.le_succ _
    | exact List.prefix_rfl
    | exact List.prefix_append _ _

theorem execMirrorCheck_keeps (f : Frame) (s : State) (t : State) (g : execMirrorCheck f s = .next t) : Keeps s t := by
  have h := Keeps.refl s
  unfold execMirrorCheck at g
  injection g with g
  subst g
  repeat' first
    | with_reducible first | exact h | assumption | apply State.dataFrame_keeps | apply State.deliverCheck_keeps
    | intro _
    | split
    | (dsimp only)

theorem State.voidMirrored_keeps {s0 : State} {s : State} {q : Request} (h : Keeps s0 s) : Keeps s0 (State.voidMirrored s q) := by
  unfold State.voidMirrored
  repeat' first
    | with_reducible first | exact h | assumption | apply State.queueAbort_keeps | apply State.voidIdle_keeps
    | intro _
    | split
    | (dsimp only)

theorem execMirrorTimeout_keeps (s : State) (t : State) (g : execMirrorTimeout s = .next t) : Keeps s t := by
  have h := Keeps.refl s
  unfold execMirrorTimeout at g
  injection g with g
  subst g
  repeat' first
    | with_reducible first | exact h | assumption | apply State.setFld_keeps | apply State.voidMirrored_keeps
          | apply Keeps.fold | apply Keeps.fold1 | apply Keeps.fold2
    | intro _
    | split
    | (dsimp only)
    | with_reducible refine Keeps.lit ?_ rfl rfl rfl rfl ?_ ?_ ?_ ?_ ?_ ?_ ?_ ?_
    | exact Nat.le_refl _
    | exact Nat.le_succ _
    | exact List.prefix_rfl
    | exact List.prefix_append _ _

theorem State.writeMirror_keeps {s0 : State} {s : State} {v : W32} (h : Keeps s0 s) : Keeps s0 (State.writeMirror s v) := by
  unfold State.writeMirror
  repeat' first
    | with_reducible first | exact h | assumption | apply State.setFld_keeps | apply State.rankMirror_keeps
    | intro _
    | split
    | (dsimp only)
    | with_reducible refine Keeps.lit ?_ rfl rfl rfl rfl ?_ ?_ ?_ ?_ ?_ ?_ ?_ ?_
    | exact Nat.le_refl _
    | exact Nat.le_succ _
    | exact List.prefix_rfl
    | exact List.prefix_append _ _

theorem State.writeFlowq_keeps {s0 : State} {s : State} {p off : Nat} {v : W32} (h : Keeps s0 s) : Keeps s0 (State.writeFlowq s p off v) := by
  unfold State.writeFlowq
  repeat' first
    | with_reducible exact h
    | with_reducible assumption
    | intro _
    | with_reducible apply State.setFld_keeps
    | with_reducible apply State.hostAccess_keeps
    | with_reducible apply State.pumpAll_keeps
    | split
    | (dsimp only)

theorem State.writeGrplo_keeps {s0 : State} {s : State} {p off : Nat} {v : W32} (h : Keeps s0 s) : Keeps s0 (State.writeGrplo s p off v) := by
  unfold State.writeGrplo
  repeat' first
    | with_reducible first | exact h | assumption | apply State.setFld_keeps | apply State.log_keeps
    | intro _
    | split
    | (dsimp only)

end Sys2Proof.Machine
end

