-- ==== Sys2Proof/Laws/KeepsPower.lean ====
section
/-! SUPPORT. What the operations of Machine/Power.lean keep (Keeps). -/
namespace Sys2Proof.Machine

theorem State.showActive_keeps {s0 : State} {s : State} (h : Keeps s0 s) : Keeps s0 (State.showActive s) := by
  unfold State.showActive
  repeat' first
    | with_reducible first | exact h | assumption | apply State.setFld_keeps | apply Keeps.fold | apply Keeps.fold1
          | apply Keeps.fold2
    | intro _
    | split
    | (dsimp only)

theorem State.openEvent_keeps {s0 : State} {s : State} {reason scope : Nat} (h : Keeps s0 s) : Keeps s0 (State.openEvent s reason scope) := by
  unfold State.openEvent
  repeat' first
    | with_reducible first | exact h | assumption | apply State.addFld_keeps | apply State.showActive_keeps
    | intro _
    | split
    | (dsimp only)
    | with_reducible refine Keeps.lit ?_ rfl rfl rfl rfl ?_ ?_ ?_ ?_ ?_ ?_ ?_ ?_
    | exact Nat.le_refl _
    | exact Nat.le_succ _
    | exact List.prefix_rfl
    | exact List.prefix_append _ _

theorem State.closeEvent_keeps {s0 : State} {s : State} {reason scope depth : Nat} (h : Keeps s0 s) : Keeps s0 (State.closeEvent s reason scope depth) := by
  unfold State.closeEvent
  repeat' first
    | with_reducible first | exact h | assumption | apply State.setFld_keeps | apply State.showActive_keeps
          | refine Keeps.thd (by assumption) ?_ | refine Keeps.snd (by assumption) ?_
          | refine Keeps.fst (by assumption) ?_
    | intro _
    | split
    | (dsimp only)
    | with_reducible refine Keeps.lit ?_ rfl rfl rfl rfl ?_ ?_ ?_ ?_ ?_ ?_ ?_ ?_
    | exact Nat.le_refl _
    | exact Nat.le_succ _
    | exact List.prefix_rfl
    | exact List.prefix_append _ _

theorem execHintCheck_keeps (group hint : Nat) (s : State) (t : State) (g : execHintCheck group hint s = .next t) : Keeps s t := by
  have h := Keeps.refl s
  unfold execHintCheck at g
  injection g with g
  subst g
  repeat' first
    | with_reducible first | exact h | assumption | apply State.openEvent_keeps | apply State.setBallast_keeps
          | refine Keeps.thd (by assumption) ?_ | refine Keeps.snd (by assumption) ?_
          | refine Keeps.fst (by assumption) ?_
    | intro _
    | split
    | (dsimp only)
    | with_reducible refine Keeps.lit ?_ rfl rfl rfl rfl ?_ ?_ ?_ ?_ ?_ ?_ ?_ ?_
    | exact Nat.le_refl _
    | exact Nat.le_succ _
    | exact List.prefix_rfl
    | exact List.prefix_append _ _

theorem State.dropDue_keeps {s0 : State} {s : State} {l : Nat} (h : Keeps s0 s) : Keeps s0 (State.dropDue s l) := by
  unfold State.dropDue
  repeat' first
    | with_reducible first | exact h | assumption
    | intro _
    | split
    | (dsimp only)
    | with_reducible refine Keeps.lit ?_ rfl rfl rfl rfl ?_ ?_ ?_ ?_ ?_ ?_ ?_ ?_
    | exact Nat.le_refl _
    | exact Nat.le_succ _
    | exact List.prefix_rfl
    | exact List.prefix_append _ _

theorem execHintBallastTimeout_keeps (group : Nat) (s : State) (t : State) (g : execHintBallastTimeout group s = .next t) : Keeps s t := by
  have h := Keeps.refl s
  unfold execHintBallastTimeout at g
  injection g with g
  subst g
  repeat' first
    | with_reducible first | exact h | assumption | apply State.setBallast_keeps | apply State.dropDue_keeps
    | intro _
    | split
    | (dsimp only)

theorem execHintDeferExpiry_keeps (group : Nat) (s : State) (t : State) (g : execHintDeferExpiry group s = .next t) : Keeps s t := by
  have h := Keeps.refl s
  unfold execHintDeferExpiry at g
  injection g with g
  subst g
  repeat' first
    | with_reducible first | exact h | assumption | apply State.dropDue_keeps
    | intro _
    | split
    | (dsimp only)
    | with_reducible refine Keeps.lit ?_ rfl rfl rfl rfl ?_ ?_ ?_ ?_ ?_ ?_ ?_ ?_
    | exact Nat.le_refl _
    | exact Nat.le_succ _
    | exact List.prefix_rfl
    | exact List.prefix_append _ _

theorem State.releaseHints_keeps {s0 : State} {s : State} (h : Keeps s0 s) : Keeps s0 (State.releaseHints s) := by
  unfold State.releaseHints
  repeat' first
    | with_reducible first | exact h | assumption
    | intro _
    | split
    | (dsimp only)
    | with_reducible refine Keeps.lit ?_ rfl rfl rfl rfl ?_ ?_ ?_ ?_ ?_ ?_ ?_ ?_
    | exact Nat.le_refl _
    | exact Nat.le_succ _
    | exact List.prefix_rfl
    | exact List.prefix_append _ _

theorem State.budgets_keeps {s0 : State} {s : State} (h : Keeps s0 s) : Keeps s0 (State.budgets s) := by
  unfold State.budgets
  repeat' first
    | with_reducible first | exact h | assumption | apply State.modField_keeps | apply Keeps.fold
          | apply Keeps.fold1 | apply Keeps.fold2
    | intro _
    | split
    | (dsimp only)
    | with_reducible refine Keeps.lit ?_ rfl rfl rfl rfl ?_ ?_ ?_ ?_ ?_ ?_ ?_ ?_
    | exact Nat.le_refl _
    | exact Nat.le_succ _
    | exact List.prefix_rfl
    | exact List.prefix_append _ _

theorem execBudgetUpdate_keeps (mv est meas : Nat) (s : State) (t : State) (g : execBudgetUpdate mv est meas s = .next t) : Keeps s t := by
  unfold execBudgetUpdate at g
  injection g with g
  subst g
  extract_lets s1 asked eff lim now paced pw s2 s3 s4 s5
  have h1 : Keeps s s1 := State.recap_keeps (State.setBusbar_keeps (Keeps.refl s))
  have h2 : Keeps s s2 := h1.newPwr
  clear_value s2
  have h3 : Keeps s s3 := State.setReg_keeps (State.setFld_keeps h2)
  clear_value s3
  have h4 : Keeps s s4 := Keeps.iteD (fun _ => State.openEvent_keeps h3) fun _ => h3
  clear_value s4
  have h5 : Keeps s s5 := Keeps.iteD (fun _ => State.openEvent_keeps h4) fun _ => h4
  clear_value s5
  exact State.releaseHints_keeps (State.budgets_keeps h5)

theorem State.setRate_keeps {s0 : State} {s : State} {f rate : Nat} (h : Keeps s0 s) : Keeps s0 (State.setRate s f rate) := by
  unfold State.setRate
  repeat' first
    | with_reducible first | exact h | assumption | apply State.setFld_keeps | apply State.modField_keeps
    | intro _
    | split
    | (dsimp only)
    | with_reducible refine Keeps.lit ?_ rfl rfl rfl rfl ?_ ?_ ?_ ?_ ?_ ?_ ?_ ?_
    | exact Nat.le_refl _
    | exact Nat.le_succ _
    | exact List.prefix_rfl
    | exact List.prefix_append _ _

theorem State.drawBelow_keeps {s0 : State} {s : State} {n : Nat} (h : Keeps s0 s) : Keeps s0 (State.drawBelow s n).2 := by
  unfold State.drawBelow
  repeat' first
    | with_reducible first | exact h | assumption
    | intro _
    | split
    | (dsimp only)
    | with_reducible refine Keeps.lit ?_ rfl rfl rfl rfl ?_ ?_ ?_ ?_ ?_ ?_ ?_ ?_
    | exact Nat.le_refl _
    | exact Nat.le_succ _
    | exact List.prefix_rfl
    | exact List.prefix_append _ _

theorem State.lowerRate_keeps {s0 : State} {s : State} {f : Nat} (h : Keeps s0 s) : Keeps s0 (State.lowerRate s f) := by
  unfold State.lowerRate
  repeat' first
    | with_reducible first | exact h | assumption | apply State.setRate_keeps | apply State.drawBelow_keeps
    | intro _
    | split
    | (dsimp only)

theorem State.withhold_keeps {s0 : State} {s : State} {f : Nat} (h : Keeps s0 s) : Keeps s0 (State.withhold s f) := by
  unfold State.withhold
  repeat' first
    | with_reducible first | exact h | assumption | apply State.modField_keeps | refine Keeps.thd (by assumption) ?_
          | refine Keeps.snd (by assumption) ?_ | refine Keeps.fst (by assumption) ?_
    | intro _
    | split
    | (dsimp only)
    | with_reducible refine Keeps.lit ?_ rfl rfl rfl rfl ?_ ?_ ?_ ?_ ?_ ?_ ?_ ?_
    | exact Nat.le_refl _
    | exact Nat.le_succ _
    | exact List.prefix_rfl
    | exact List.prefix_append _ _

theorem State.raiseRate_keeps {s0 : State} {s : State} {f asked : Nat} (h : Keeps s0 s) : Keeps s0 (State.raiseRate s f asked) := by
  unfold State.raiseRate
  repeat' first
    | with_reducible first | exact h | assumption | apply State.modField_keeps | apply State.openEvent_keeps
          | apply State.setRate_keeps | apply State.drawBelow_keeps
    | intro _
    | split
    | (dsimp only)
    | with_reducible refine Keeps.lit ?_ rfl rfl rfl rfl ?_ ?_ ?_ ?_ ?_ ?_ ?_ ?_
    | exact Nat.le_refl _
    | exact Nat.le_succ _
    | exact List.prefix_rfl
    | exact List.prefix_append _ _

theorem execPowerAgentTick_keeps (p : FieldPower) (asked : Nat) (s : State) (t : State) (g : execPowerAgentTick p asked s = .next t) : Keeps s t := by
  have h := Keeps.refl s
  unfold execPowerAgentTick at g
  injection g with g
  subst g
  repeat' first
    | with_reducible first | exact h | assumption | apply State.modField_keeps | apply State.openEvent_keeps
          | apply State.setReg_keeps | apply State.lowerRate_keeps | apply State.withhold_keeps
          | apply State.setRate_keeps | apply State.raiseRate_keeps
    | intro _
    | split
    | (dsimp only)
    | with_reducible refine Keeps.lit ?_ rfl rfl rfl rfl ?_ ?_ ?_ ?_ ?_ ?_ ?_ ?_
    | exact Nat.le_refl _
    | exact Nat.le_succ _
    | exact List.prefix_rfl
    | exact List.prefix_append _ _

theorem execCalibration_keeps (field meas leak dyn : Nat) (s : State) (t : State) (g : execCalibration field meas leak dyn s = .next t) : Keeps s t := by
  have h := Keeps.refl s
  unfold execCalibration at g
  injection g with g
  subst g
  repeat' first
    | with_reducible first | exact h | assumption | apply State.modField_keeps
    | intro _
    | split
    | (dsimp only)
    | with_reducible refine Keeps.lit ?_ rfl rfl rfl rfl ?_ ?_ ?_ ?_ ?_ ?_ ?_ ?_
    | exact Nat.le_refl _
    | exact Nat.le_succ _
    | exact List.prefix_rfl
    | exact List.prefix_append _ _

theorem execRailTargetReached_keeps (field : Nat) (s : State) (t : State) (g : execRailTargetReached field s = .next t) : Keeps s t := by
  have h := Keeps.refl s
  unfold execRailTargetReached at g
  injection g with g
  subst g
  repeat' first
    | with_reducible first | exact h | assumption | apply State.setFld_keeps | apply State.modField_keeps
    | intro _
    | split
    | (dsimp only)
    | with_reducible refine Keeps.lit ?_ rfl rfl rfl rfl ?_ ?_ ?_ ?_ ?_ ?_ ?_ ?_
    | exact Nat.le_refl _
    | exact Nat.le_succ _
    | exact List.prefix_rfl
    | exact List.prefix_append _ _

theorem execAgeingSweep_keeps (field trim : Nat) (s : State) (t : State) (g : execAgeingSweep field trim s = .next t) : Keeps s t := by
  have h := Keeps.refl s
  unfold execAgeingSweep at g
  injection g with g
  subst g
  repeat' first
    | with_reducible first | exact h | assumption | apply State.setFld_keeps | apply State.log_keeps
          | apply State.modField_keeps | apply State.openEvent_keeps | apply State.setRate_keeps
    | intro _
    | split
    | (dsimp only)
    | with_reducible refine Keeps.lit ?_ rfl rfl rfl rfl ?_ ?_ ?_ ?_ ?_ ?_ ?_ ?_
    | exact Nat.le_refl _
    | exact Nat.le_succ _
    | exact List.prefix_rfl
    | exact List.prefix_append _ _

theorem State.beginUp_keeps {s0 : State} {s : State} {d : Nat} (h : Keeps s0 s) : Keeps s0 (State.beginUp s d) := by
  unfold State.beginUp
  repeat' first
    | with_reducible first | exact h | assumption | apply State.setFld_keeps | apply State.putDomain_keeps
    | intro _
    | split
    | (dsimp only)
    | with_reducible refine Keeps.lit ?_ rfl rfl rfl rfl ?_ ?_ ?_ ?_ ?_ ?_ ?_ ?_
    | exact Nat.le_refl _
    | exact Nat.le_succ _
    | exact List.prefix_rfl
    | exact List.prefix_append _ _

theorem State.requestOn_keeps {s0 : State} {s : State} {d : Nat} (h : Keeps s0 s) : Keeps s0 (State.requestOn s d) := by
  unfold State.requestOn
  repeat' first
    | with_reducible first | exact h | assumption | apply State.putDomain_keeps | apply State.beginUp_keeps
          | refine Keeps.thd (by assumption) ?_ | refine Keeps.snd (by assumption) ?_
          | refine Keeps.fst (by assumption) ?_
    | intro _
    | split
    | (dsimp only)
    | with_reducible refine Keeps.lit ?_ rfl rfl rfl rfl ?_ ?_ ?_ ?_ ?_ ?_ ?_ ?_
    | exact Nat.le_refl _
    | exact Nat.le_succ _
    | exact List.prefix_rfl
    | exact List.prefix_append _ _

theorem State.requestOff_keeps {s0 : State} {s : State} {d : Nat} (h : Keeps s0 s) : Keeps s0 (State.requestOff s d) := by
  unfold State.requestOff
  repeat' first
    | with_reducible first | exact h | assumption | apply State.putDomain_keeps
          | refine Keeps.thd (by assumption) ?_ | refine Keeps.snd (by assumption) ?_
          | refine Keeps.fst (by assumption) ?_
    | intro _
    | split
    | (dsimp only)
    | with_reducible refine Keeps.lit ?_ rfl rfl rfl rfl ?_ ?_ ?_ ?_ ?_ ?_ ?_ ?_
    | exact Nat.le_refl _
    | exact Nat.le_succ _
    | exact List.prefix_rfl
    | exact List.prefix_append _ _

theorem State.writeStripReq_keeps {s0 : State} {s : State} {p c : Nat} {v : W32} (h : Keeps s0 s) : Keeps s0 (State.writeStripReq s p c v) := by
  unfold State.writeStripReq
  repeat' first
    | with_reducible first | exact h | assumption | apply State.setFld_keeps | apply State.requestOn_keeps
          | apply State.requestOff_keeps | apply Keeps.fold | apply Keeps.fold1 | apply Keeps.fold2
    | intro _
    | split
    | (dsimp only)

theorem execStripDownStart_keeps (field strip : Nat) (s : State) (t : State) (g : execStripDownStart field strip s = .next t) : Keeps s t := by
  have h := Keeps.refl s
  unfold execStripDownStart at g
  injection g with g
  subst g
  repeat' first
    | with_reducible first | exact h | assumption | apply State.putDomain_keeps
    | intro _
    | split
    | (dsimp only)
    | with_reducible refine Keeps.lit ?_ rfl rfl rfl rfl ?_ ?_ ?_ ?_ ?_ ?_ ?_ ?_
    | exact Nat.le_refl _
    | exact Nat.le_succ _
    | exact List.prefix_rfl
    | exact List.prefix_append _ _

theorem execDomainUpDone_keeps (dom : DomainUp) (s : State) (t : State) (g : execDomainUpDone dom s = .next t) : Keeps s t := by
  unfold execDomainUpDone at g
  injection g with g
  subst g
  extract_lets v s1 s2
  have h1 : Keeps s s1 := State.putDomain_keeps (Keeps.refl s)
  clear_value s1
  have h2 : Keeps s s2 := Keeps.iteD (fun _ => State.loseStrip_keeps h1) fun _ => Keeps.iteD
    (fun _ => State.setFld_keeps (State.renewMap_keeps h1)) fun _ => Keeps.iteD (fun _ => State.portUp_keeps h1) fun _ => h1
  clear_value s2 v
  exact Keeps.iteD (fun _ => Keeps.refl s) fun _ => Keeps.iteD (fun _ => State.requestOff_keeps h2) fun _ => h2

theorem execDomainDownDone_keeps (dom : Nat) (s : State) (t : State) (g : execDomainDownDone dom s = .next t) : Keeps s t := by
  have h := Keeps.refl s
  unfold execDomainDownDone at g
  injection g with g
  subst g
  repeat' first
    | with_reducible first | exact h | assumption | apply State.loseDomain_keeps | apply State.putDomain_keeps
          | apply State.requestOn_keeps
    | intro _
    | split
    | (dsimp only)

theorem State.setAllot_keeps {s0 : State} {s : State} {allot lease : Nat} (h : Keeps s0 s) : Keeps s0 (State.setAllot s allot lease) := by
  unfold State.setAllot
  repeat' first
    | with_reducible first | exact h | assumption | apply State.setReg_keeps | apply State.recap_keeps
    | intro _
    | split
    | (dsimp only)
    | with_reducible refine Keeps.lit ?_ rfl rfl rfl rfl ?_ ?_ ?_ ?_ ?_ ?_ ?_ ?_
    | exact Nat.le_refl _
    | exact Nat.le_succ _
    | exact List.prefix_rfl
    | exact List.prefix_append _ _

theorem execLeaseExpiry_keeps (s : State) (t : State) (g : execLeaseExpiry s = .next t) : Keeps s t := by
  have h := Keeps.refl s
  unfold execLeaseExpiry at g
  injection g with g
  subst g
  repeat' first
    | with_reducible first | exact h | assumption | apply State.setFld_keeps | apply State.recap_keeps
    | intro _
    | split
    | (dsimp only)
    | with_reducible refine Keeps.lit ?_ rfl rfl rfl rfl ?_ ?_ ?_ ?_ ?_ ?_ ?_ ?_
    | exact Nat.le_refl _
    | exact Nat.le_succ _
    | exact List.prefix_rfl
    | exact List.prefix_append _ _

theorem execThrottleEventClose_keeps (reason scope depth : Nat) (s : State) (t : State) (g : execThrottleEventClose reason scope depth s = .next t) : Keeps s t := by
  have h := Keeps.refl s
  unfold execThrottleEventClose at g
  injection g with g
  subst g
  repeat' first
    | with_reducible first | exact h | assumption | apply State.closeEvent_keeps
    | intro _
    | split
    | (dsimp only)

end Sys2Proof.Machine
end

