-- ==== Sys2Proof/Laws/KeepsEnv.lean ====
section
/-! SUPPORT. What the operations of Machine/Env.lean keep (Keeps). -/
namespace Sys2Proof.Machine

theorem execModResetNLow_keeps (s : State) (t : State) (g : execModResetNLow s = .next t) : Keeps s t := by
  have h := Keeps.refl s
  unfold execModResetNLow at g
  injection g with g
  subst g
  repeat' first
    | with_reducible first | exact h | assumption | apply State.moduleReset_keeps
    | intro _
    | split
    | (dsimp only)
    | with_reducible refine Keeps.lit ?_ rfl rfl rfl rfl ?_ ?_ ?_ ?_ ?_ ?_ ?_ ?_
    | exact Nat.le_refl _
    | exact Nat.le_succ _
    | exact List.prefix_rfl
    | exact List.prefix_append _ _

theorem execModResetNHigh_keeps (s : State) (t : State) (g : execModResetNHigh s = .next t) : Keeps s t := by
  have h := Keeps.refl s
  unfold execModResetNHigh at g
  injection g with g
  subst g
  repeat' first
    | with_reducible first | exact h | assumption | apply State.beginStartup_keeps
    | intro _
    | split
    | (dsimp only)
    | with_reducible refine Keeps.lit ?_ rfl rfl rfl rfl ?_ ?_ ?_ ?_ ?_ ?_ ?_ ?_
    | exact Nat.le_refl _
    | exact Nat.le_succ _
    | exact List.prefix_rfl
    | exact List.prefix_append _ _

theorem execBusbarGood_keeps (s : State) (t : State) (g : execBusbarGood s = .next t) : Keeps s t := by
  unfold execBusbarGood at g
  injection g with g
  subst g
  extract_lets was pw u
  have h1 : Keeps s u := State.recap_keeps (State.setBusbar_keeps (Keeps.refl s).newPwr)
  clear_value u
  exact Keeps.iteD (fun _ => State.beginStartup_keeps h1) fun _ => h1

theorem execBusbarBrownoutWarn_keeps (mv : Nat) (s : State) (t : State) (g : execBusbarBrownoutWarn mv s = .next t) : Keeps s t := by
  unfold execBusbarBrownoutWarn at g
  injection g with g
  subst g
  extract_lets u
  have h1 : Keeps s u := State.setBusbar_keeps (Keeps.refl s)
  clear_value u
  exact Keeps.iteD (fun _ => State.recap_keeps h1) fun _ => State.recap_keeps (State.openEvent_keeps (State.setFld_keeps h1.newPwr))

theorem execBusbarWarnClear_keeps (mv : Nat) (s : State) (t : State) (g : execBusbarWarnClear mv s = .next t) : Keeps s t := by
  unfold execBusbarWarnClear at g
  injection g with g
  subst g
  extract_lets u
  have h1 : Keeps s u := State.setBusbar_keeps (Keeps.refl s)
  clear_value u
  exact Keeps.iteD (fun _ => State.recap_keeps h1) fun _ => State.recap_keeps (State.closeEvent_keeps (State.setFld_keeps h1.newPwr))

theorem execPowerLoss_keeps (s : State) (t : State) (g : execPowerLoss s = .next t) : Keeps s t := by
  have h := Keeps.refl s
  unfold execPowerLoss at g
  injection g with g
  subst g
  repeat' first
    | with_reducible first | exact h | assumption | apply State.powerLost_keeps
    | intro _
    | split
    | (dsimp only)

theorem State.setClamps_keeps {s0 : State} {s : State} {i1 i2 : Nat} (h : Keeps s0 s) : Keeps s0 (State.setClamps s i1 i2) := by
  unfold State.setClamps
  repeat' first
    | with_reducible first | exact h | assumption | apply State.log_keeps
    | intro _
    | split
    | (dsimp only)
    | with_reducible refine Keeps.lit ?_ rfl rfl rfl rfl ?_ ?_ ?_ ?_ ?_ ?_ ?_ ?_
    | exact Nat.le_refl _
    | exact Nat.le_succ _
    | exact List.prefix_rfl
    | exact List.prefix_append _ _

theorem execClampLimit_keeps (mv i1 i2 : Nat) (s : State) (t : State) (g : execClampLimit mv i1 i2 s = .next t) : Keeps s t := by
  unfold execClampLimit at g
  injection g with g
  subst g
  extract_lets u w
  have h1 : Keeps s u := State.recap_keeps (State.setClamps_keeps (State.setBusbar_keeps (Keeps.refl s)))
  clear_value u
  exact Keeps.iteD (fun _ => h1) fun _ => State.openEvent_keeps (State.setFld_keeps h1.newPwr)

theorem execOpenClamp_keeps (i1 i2 : Nat) (s : State) (t : State) (g : execOpenClamp i1 i2 s = .next t) : Keeps s t := by
  unfold execOpenClamp at g
  injection g with g
  subst g
  exact State.recap_keeps (State.setClamps_keeps (Keeps.refl s))

theorem State.clearStrips_keeps {s0 : State} {s : State} {fs : List Nat} (h : Keeps s0 s) : Keeps s0 (State.clearStrips s fs) := by
  unfold State.clearStrips
  repeat' first
    | with_reducible first | exact h | assumption | apply State.safetyClear_keeps
    | intro _
    | split
    | (dsimp only)

theorem execCoolantSensorUpdate_keeps (inlet outlet : Int) (flow : Nat) (s : State) (t : State) (g : execCoolantSensorUpdate inlet outlet flow s = .next t) : Keeps s t := by
  have h := Keeps.refl s
  unfold execCoolantSensorUpdate at g
  injection g with g
  subst g
  repeat' first
    | with_reducible first | exact h | assumption | apply State.recap_keeps | apply State.clearStrips_keeps
    | intro _
    | split
    | (dsimp only)
    | with_reducible refine Keeps.lit ?_ rfl rfl rfl rfl ?_ ?_ ?_ ?_ ?_ ?_ ?_ ?_
    | exact Nat.le_refl _
    | exact Nat.le_succ _
    | exact List.prefix_rfl
    | exact List.prefix_append _ _

theorem execCoolantFlowReturn_keeps (s : State) (t : State) (g : execCoolantFlowReturn s = .next t) : Keeps s t := by
  have h := Keeps.refl s
  unfold execCoolantFlowReturn at g
  injection g with g
  subst g
  repeat' first
    | with_reducible first | exact h | assumption | apply State.recap_keeps
    | intro _
    | split
    | (dsimp only)
    | with_reducible refine Keeps.lit ?_ rfl rfl rfl rfl ?_ ?_ ?_ ?_ ?_ ?_ ?_ ?_
    | exact Nat.le_refl _
    | exact Nat.le_succ _
    | exact List.prefix_rfl
    | exact List.prefix_append _ _

theorem execFlowSafetyTimeout_keeps (s : State) (t : State) (g : execFlowSafetyTimeout s = .next t) : Keeps s t := by
  have h := Keeps.refl s
  unfold execFlowSafetyTimeout at g
  injection g with g
  subst g
  repeat' first
    | with_reducible first | exact h | assumption | apply State.safetyOff_keeps
    | intro _
    | split
    | (dsimp only)

theorem execAirSensorUpdate_keeps (temp : Int) (rh : Nat) (margin : Int) (s : State) (t : State) (g : execAirSensorUpdate temp rh margin s = .next t) : Keeps s t := by
  have h := Keeps.refl s
  unfold execAirSensorUpdate at g
  injection g with g
  subst g
  repeat' first
    | with_reducible first | exact h | assumption | apply State.log_keeps
    | intro _
    | split
    | (dsimp only)
    | with_reducible refine Keeps.lit ?_ rfl rfl rfl rfl ?_ ?_ ?_ ?_ ?_ ?_ ?_ ?_
    | exact Nat.le_refl _
    | exact Nat.le_succ _
    | exact List.prefix_rfl
    | exact List.prefix_append _ _

theorem State.showTemps_keeps {s0 : State} {s : State} {f : Nat} (h : Keeps s0 s) : Keeps s0 (State.showTemps s f) := by
  unfold State.showTemps
  repeat' first
    | with_reducible first | exact h | assumption | apply State.setFld_keeps | apply OKeeps.getD
    | intro _
    | split
    | (dsimp only)

theorem execStripTempUpdate_keeps (field strip : Nat) (temp : Int) (s : State) (t : State) (g : execStripTempUpdate field strip temp s = .next t) : Keeps s t := by
  have h := Keeps.refl s
  unfold execStripTempUpdate at g
  injection g with g
  subst g
  repeat' first
    | with_reducible first | exact h | assumption | apply State.modField_keeps | apply State.safetyOff_keeps
          | apply State.openEvent_keeps | apply State.lowerRate_keeps | apply State.clearStrips_keeps
          | apply State.showTemps_keeps | apply OKeeps.getD
    | intro _
    | split
    | (dsimp only)
    | with_reducible refine Keeps.lit ?_ rfl rfl rfl rfl ?_ ?_ ?_ ?_ ?_ ?_ ?_ ?_
    | exact Nat.le_refl _
    | exact Nat.le_succ _
    | exact List.prefix_rfl
    | exact List.prefix_append _ _

theorem execHbmTempUpdate_keeps (stack : Nat) (temp : Int) (s : State) (t : State) (g : execHbmTempUpdate stack temp s = .next t) : Keeps s t := by
  have h := Keeps.refl s
  unfold execHbmTempUpdate at g
  injection g with g
  subst g
  repeat' first
    | with_reducible first | exact h | assumption | apply State.setFld_keeps | apply State.modStack_keeps
          | apply State.safetyOff_keeps | apply State.safetyClear_keeps | apply State.openEvent_keeps
    | intro _
    | split
    | (dsimp only)
    | with_reducible refine Keeps.lit ?_ rfl rfl rfl rfl ?_ ?_ ?_ ?_ ?_ ?_ ?_ ?_
    | exact Nat.le_refl _
    | exact Nat.le_succ _
    | exact List.prefix_rfl
    | exact List.prefix_append _ _

theorem State.railOff_keeps {s0 : State} {s : State} {f : Nat} (h : Keeps s0 s) : Keeps s0 (State.railOff s f) := by
  unfold State.railOff
  repeat' first
    | with_reducible first | exact h | assumption | apply State.safetyOff_keeps | apply State.safetyClear_keeps
          | apply State.clearStrips_keeps
    | intro _
    | split
    | (dsimp only)

theorem execFieldBrownoutWarn_keeps (field mv : Nat) (s : State) (t : State) (g : execFieldBrownoutWarn field mv s = .next t) : Keeps s t := by
  have h := Keeps.refl s
  unfold execFieldBrownoutWarn at g
  injection g with g
  subst g
  repeat' first
    | with_reducible exact h
    | with_reducible assumption
    | intro _
    | with_reducible apply State.setFld_keeps
    | with_reducible apply State.modField_keeps
    | with_reducible apply State.openEvent_keeps
    | with_reducible apply State.railOff_keeps
    | split
    | (dsimp only)
    | with_reducible refine Keeps.lit ?_ rfl rfl rfl rfl (by first | exact Nat.le_refl _ | exact Nat.le_succ _) (by first | exact Nat.le_refl _ | exact Nat.le_succ _) (by first | exact List.prefix_rfl | exact List.prefix_append _ _) (by first | exact List.prefix_rfl | exact List.prefix_append _ _) (by first | exact List.prefix_rfl | exact List.prefix_append _ _) (by first | exact List.prefix_rfl | exact List.prefix_append _ _) (by first | exact List.prefix_rfl | exact List.prefix_append _ _) (by first | exact List.prefix_rfl | exact List.prefix_append _ _)

theorem execFieldBrownoutEnd_keeps (field mv us : Nat) (s : State) (t : State) (g : execFieldBrownoutEnd field mv us s = .next t) : Keeps s t := by
  have h := Keeps.refl s
  unfold execFieldBrownoutEnd at g
  injection g with g
  subst g
  repeat' first
    | with_reducible exact h
    | with_reducible assumption
    | intro _
    | with_reducible apply State.setFld_keeps
    | with_reducible apply State.modField_keeps
    | with_reducible apply State.closeEvent_keeps
    | with_reducible apply State.beginUp_keeps
    | with_reducible apply Keeps.fold
    | with_reducible apply Keeps.fold1
    | with_reducible apply Keeps.fold2
    | split
    | (dsimp only)
    | with_reducible refine Keeps.lit ?_ rfl rfl rfl rfl (by first | exact Nat.le_refl _ | exact Nat.le_succ _) (by first | exact Nat.le_refl _ | exact Nat.le_succ _) (by first | exact List.prefix_rfl | exact List.prefix_append _ _) (by first | exact List.prefix_rfl | exact List.prefix_append _ _) (by first | exact List.prefix_rfl | exact List.prefix_append _ _) (by first | exact List.prefix_rfl | exact List.prefix_append _ _) (by first | exact List.prefix_rfl | exact List.prefix_append _ _) (by first | exact List.prefix_rfl | exact List.prefix_append _ _)

theorem execFieldOvercurrent_keeps (field mv : Nat) (s : State) (t : State) (g : execFieldOvercurrent field mv s = .next t) : Keeps s t := by
  have h := Keeps.refl s
  unfold execFieldOvercurrent at g
  injection g with g
  subst g
  repeat' first
    | with_reducible first | exact h | assumption | apply State.setFld_keeps | apply State.railOff_keeps
    | intro _
    | split
    | (dsimp only)

theorem execPhaseFail_keeps (field : Nat) (s : State) (t : State) (g : execPhaseFail field s = .next t) : Keeps s t := by
  have h := Keeps.refl s
  unfold execPhaseFail at g
  injection g with g
  subst g
  repeat' first
    | with_reducible first | exact h | assumption | apply State.setFld_keeps | apply State.log_keeps
          | apply State.modField_keeps | apply State.openEvent_keeps
    | intro _
    | split
    | (dsimp only)
    | with_reducible refine Keeps.lit ?_ rfl rfl rfl rfl ?_ ?_ ?_ ?_ ?_ ?_ ?_ ?_
    | exact Nat.le_refl _
    | exact Nat.le_succ _
    | exact List.prefix_rfl
    | exact List.prefix_append _ _

theorem execPhaseSpareIn_keeps (field : Nat) (s : State) (t : State) (g : execPhaseSpareIn field s = .next t) : Keeps s t := by
  have h := Keeps.refl s
  unfold execPhaseSpareIn at g
  injection g with g
  subst g
  repeat' first
    | with_reducible first | exact h | assumption | apply State.setFld_keeps | apply State.modField_keeps
    | intro _
    | split
    | (dsimp only)
    | with_reducible refine Keeps.lit ?_ rfl rfl rfl rfl ?_ ?_ ?_ ?_ ?_ ?_ ?_ ?_
    | exact Nat.le_refl _
    | exact Nat.le_succ _
    | exact List.prefix_rfl
    | exact List.prefix_append _ _

end Sys2Proof.Machine
end

