-- ==== Sys2Proof/Laws/KeepsErrors.lean ====
section
/-! SUPPORT. What the operations of Machine/Errors.lean keep (Keeps). -/
namespace Sys2Proof.Machine

theorem State.abortAppends_keeps {s0 : State} {s : State} {a : Abort} (h : Keeps s0 s) : Keeps s0 (State.abortAppends s a) := by
  unfold State.abortAppends
  repeat' first
    | with_reducible first | exact h | assumption | apply State.endCmd_keeps | apply Keeps.fold | apply Keeps.fold1
          | apply Keeps.fold2 | apply OKeeps.getD
    | intro _
    | split
    | (dsimp only)

theorem State.abortReq_keeps {s0 : State} {s : State} {q : Request} {cause : Nat × Nat × Nat × Nat} (h : Keeps s0 s) : Keeps s0 (State.abortReq s q cause) := by
  unfold State.abortReq
  repeat' first
    | with_reducible first | exact h | assumption | apply State.modReq_keeps | apply State.endRequest_keeps
    | intro _
    | split
    | (dsimp only)
    | with_reducible refine Keeps.lit ?_ rfl rfl rfl rfl ?_ ?_ ?_ ?_ ?_ ?_ ?_ ?_
    | exact Nat.le_refl _
    | exact Nat.le_succ _
    | exact List.prefix_rfl
    | exact List.prefix_append _ _

theorem State.doAbort_keeps {s0 : State} {s : State} {a : Abort} (h : Keeps s0 s) : Keeps s0 (State.doAbort s a) := by
  unfold State.doAbort
  repeat' first
    | with_reducible exact h
    | with_reducible assumption
    | intro _
    | with_reducible apply State.stopWork_keeps
    | with_reducible apply State.abortAppends_keeps
    | with_reducible apply State.abortReq_keeps
    | with_reducible apply Keeps.fold
    | with_reducible apply Keeps.fold1
    | with_reducible apply Keeps.fold2
    | split
    | (dsimp only)
    | with_reducible refine Keeps.lit ?_ rfl rfl rfl rfl (by first | exact Nat.le_refl _ | exact Nat.le_succ _) (by first | exact Nat.le_refl _ | exact Nat.le_succ _) (by first | exact List.prefix_rfl | exact List.prefix_append _ _) (by first | exact List.prefix_rfl | exact List.prefix_append _ _) (by first | exact List.prefix_rfl | exact List.prefix_append _ _) (by first | exact List.prefix_rfl | exact List.prefix_append _ _) (by first | exact List.prefix_rfl | exact List.prefix_append _ _) (by first | exact List.prefix_rfl | exact List.prefix_append _ _)

theorem execRequestAbort_keeps (group : Nat) (s : State) (t : State) (g : execRequestAbort group s = .next t) : Keeps s t := by
  have h := Keeps.refl s
  unfold execRequestAbort at g
  injection g with g
  subst g
  repeat' first
    | with_reducible first | exact h | assumption | apply State.doAbort_keeps | refine Keeps.thd (by assumption) ?_
          | refine Keeps.snd (by assumption) ?_ | refine Keeps.fst (by assumption) ?_
    | intro _
    | split
    | (dsimp only)
    | with_reducible refine Keeps.lit ?_ rfl rfl rfl rfl ?_ ?_ ?_ ?_ ?_ ?_ ?_ ?_
    | exact Nat.le_refl _
    | exact Nat.le_succ _
    | exact List.prefix_rfl
    | exact List.prefix_append _ _

theorem execAbortTimeout_keeps (group : Nat) (s : State) (t : State) (g : execAbortTimeout group s = .next t) : Keeps s t := by
  have h := Keeps.refl s
  unfold execAbortTimeout at g
  injection g with g
  subst g
  repeat' first
    | with_reducible first | exact h | assumption | apply State.partitionEvent_keeps
          | refine Keeps.thd (by assumption) ?_ | refine Keeps.snd (by assumption) ?_
          | refine Keeps.fst (by assumption) ?_
    | intro _
    | split
    | (dsimp only)
    | with_reducible refine Keeps.lit ?_ rfl rfl rfl rfl ?_ ?_ ?_ ?_ ?_ ?_ ?_ ?_
    | exact Nat.le_refl _
    | exact Nat.le_succ _
    | exact List.prefix_rfl
    | exact List.prefix_append _ _

theorem execStall_keeps (group : Nat) (s : State) (t : State) (g : execStall group s = .next t) : Keeps s t := by
  have h := Keeps.refl s
  unfold execStall at g
  injection g with g
  subst g
  repeat' first
    | with_reducible first | exact h | assumption | apply State.event_keeps | refine Keeps.thd (by assumption) ?_
          | refine Keeps.snd (by assumption) ?_ | refine Keeps.fst (by assumption) ?_
    | intro _
    | split
    | (dsimp only)
    | with_reducible refine Keeps.lit ?_ rfl rfl rfl rfl ?_ ?_ ?_ ?_ ?_ ?_ ?_ ?_
    | exact Nat.le_refl _
    | exact Nat.le_succ _
    | exact List.prefix_rfl
    | exact List.prefix_append _ _

theorem State.reopen_keeps {s0 : State} {s : State} {p : Nat} (h : Keeps s0 s) : Keeps s0 (State.reopen s p) := by
  have e : Keeps s0 { s with err := { s.err with gates := s.err.gates.put p (s.gateCauses p) } } :=
    h.lit rfl rfl rfl rfl (Nat.le_refl _) (Nat.le_refl _) List.prefix_rfl List.prefix_rfl List.prefix_rfl List.prefix_rfl
      List.prefix_rfl List.prefix_rfl
  unfold State.reopen
  dsimp only
  split
  · exact e
  · exact State.writePage_keeps (State.pumpAll_keeps (State.flushRecords_keeps (State.flushHeld_keeps (State.setFld_keeps e))))

theorem execGateReopen_keeps (part : Nat) (s : State) (t : State) (g : execGateReopen part s = .next t) : Keeps s t := by
  have h := Keeps.refl s
  unfold execGateReopen at g
  injection g with g
  subst g
  repeat' first
    | with_reducible first | exact h | assumption | apply State.settleAcks_keeps | apply State.reopen_keeps
    | intro _
    | split
    | (dsimp only)

theorem execPlogWrite_keeps (s : State) (t : State) (g : execPlogWrite s = .next t) : Keeps s t := by
  have h := Keeps.refl s
  unfold execPlogWrite at g
  injection g with g
  subst g
  repeat' first
    | with_reducible first | exact h | assumption | apply State.addFld_keeps | refine Keeps.thd (by assumption) ?_
          | refine Keeps.snd (by assumption) ?_ | refine Keeps.fst (by assumption) ?_
    | intro _
    | split
    | (dsimp only)
    | with_reducible refine Keeps.lit ?_ rfl rfl rfl rfl ?_ ?_ ?_ ?_ ?_ ?_ ?_ ?_
    | exact Nat.le_refl _
    | exact Nat.le_succ _
    | exact List.prefix_rfl
    | exact List.prefix_append _ _

theorem execPlogSectorEraseDone_keeps (s : State) (t : State) (g : execPlogSectorEraseDone s = .next t) : Keeps s t := by
  have h := Keeps.refl s
  unfold execPlogSectorEraseDone at g
  injection g with g
  subst g
  repeat' first
    | with_reducible first | exact h | assumption
    | intro _
    | split
    | (dsimp only)
    | with_reducible refine Keeps.lit ?_ rfl rfl rfl rfl ?_ ?_ ?_ ?_ ?_ ?_ ?_ ?_
    | exact Nat.le_refl _
    | exact Nat.le_succ _
    | exact List.prefix_rfl
    | exact List.prefix_append _ _

end Sys2Proof.Machine
end

