-- ==== Sys2Proof/Laws/KeepsStartup.lean ====
section
/-! SUPPORT. What the operations of Machine/Startup.lean keep (Keeps). -/
namespace Sys2Proof.Machine

/-- What start-up holds is free to change but for the time. -/
theorem Keeps.newUp {a s : State} {v : Startup} (h : Keeps a s) (e : v.time = s.up.time) : Keeps a { s with up := v } :=
  h.trans ⟨rfl, e, rfl, id, Nat.le_refl _, Nat.le_refl _, List.prefix_rfl, List.prefix_rfl, List.prefix_rfl, List.prefix_rfl,
    List.prefix_rfl, List.prefix_rfl⟩

theorem State.writeMap_keeps {s0 : State} {s : State} (h : Keeps s0 s) : Keeps s0 (State.writeMap s) := by
  unfold State.writeMap
  repeat' first
    | with_reducible first | exact h | assumption
    | intro _
    | split
    | (dsimp only)
    | with_reducible refine Keeps.lit ?_ rfl rfl rfl rfl ?_ ?_ ?_ ?_ ?_ ?_ ?_ ?_
    | exact Nat.le_refl _
    | exact Nat.le_succ _
    | exact List.prefix_rfl
    | exact List.prefix_append _ _

theorem State.writeSettings_keeps {s0 : State} {s : State} {grade want : Nat} (h : Keeps s0 s) : Keeps s0 (State.writeSettings s grade want) := by
  unfold State.writeSettings
  repeat' first
    | with_reducible first | exact h | assumption
    | intro _
    | split
    | (dsimp only)
    | with_reducible refine Keeps.lit ?_ rfl rfl rfl rfl ?_ ?_ ?_ ?_ ?_ ?_ ?_ ?_
    | exact Nat.le_refl _
    | exact Nat.le_succ _
    | exact List.prefix_rfl
    | exact List.prefix_append _ _

theorem execRepairMapWrite_keeps (settings : Bool) (s : State) (t : State) (g : execRepairMapWrite settings s = .next t) : Keeps s t := by
  have h := Keeps.refl s
  unfold execRepairMapWrite at g
  injection g with g
  subst g
  repeat' first
    | with_reducible first | exact h | assumption | apply State.writeSettings_keeps | apply State.writeMap_keeps
    | intro _
    | split
    | (dsimp only)
    | with_reducible refine Keeps.lit ?_ rfl rfl rfl rfl ?_ ?_ ?_ ?_ ?_ ?_ ?_ ?_
    | exact Nat.le_refl _
    | exact Nat.le_succ _
    | exact List.prefix_rfl
    | exact List.prefix_append _ _

theorem State.restartCounts_keeps {s0 : State} {s : State} {f : Nat} (h : Keeps s0 s) : Keeps s0 (State.restartCounts s f) :=
  h.trans ⟨rfl, rfl, rfl, id, Nat.le_refl _, Nat.le_refl _, List.prefix_rfl, List.prefix_rfl, List.prefix_rfl,
    List.prefix_rfl, List.prefix_rfl, List.prefix_rfl⟩

theorem State.remap_keeps {s0 : State} {s : State} {f : Nat} {bad old : List Nat} (h : Keeps s0 s) : Keeps s0 (State.remap s f bad old) := by
  unfold State.remap
  repeat' first
    | with_reducible first | exact h | assumption | apply State.modField_keeps | apply State.setReg_keeps
          | apply OKeeps.getD | apply State.restartCounts_keeps
    | intro _
    | split
    | (dsimp only)
    | with_reducible refine Keeps.lit ?_ rfl rfl rfl rfl ?_ ?_ ?_ ?_ ?_ ?_ ?_ ?_
    | exact Nat.le_refl _
    | exact Nat.le_succ _
    | exact List.prefix_rfl
    | exact List.prefix_append _ _

theorem State.showCaps_keeps {s0 : State} {s : State} (h : Keeps s0 s) : Keeps s0 (State.showCaps s) := by
  unfold State.showCaps
  repeat' first
    | with_reducible first | exact h | assumption | apply State.setReg_keeps | apply State.setFld_keeps
          | apply Keeps.fold | apply Keeps.fold1 | apply Keeps.fold2
    | intro _
    | split
    | (dsimp only)

theorem State.checkSpares_keeps {s0 : State} {s : State} {f was : Nat} (h : Keeps s0 s) : Keeps s0 (State.checkSpares s f was) := by
  unfold State.checkSpares
  repeat' first
    | with_reducible first | exact h | assumption | apply State.log_keeps
    | intro _
    | split
    | (dsimp only)
    | with_reducible refine Keeps.lit ?_ rfl rfl rfl rfl ?_ ?_ ?_ ?_ ?_ ?_ ?_ ?_
    | exact Nat.le_refl _
    | exact Nat.le_succ _
    | exact List.prefix_rfl
    | exact List.prefix_append _ _

theorem State.startClear_keeps {s0 : State} {s : State} {p : Nat} (h : Keeps s0 s) : Keeps s0 (State.startClear s p) := by
  unfold State.startClear
  repeat' first
    | with_reducible first | exact h | assumption | apply State.partitionReset_keeps
    | intro _
    | split
    | (dsimp only)
    | with_reducible refine Keeps.lit ?_ rfl rfl rfl rfl ?_ ?_ ?_ ?_ ?_ ?_ ?_ ?_
    | exact Nat.le_refl _
    | exact Nat.le_succ _
    | exact List.prefix_rfl
    | exact List.prefix_append _ _

theorem State.askClear_keeps {s0 : State} {s : State} {p : Nat} (h : Keeps s0 s) : Keeps s0 (State.askClear s p) := by
  unfold State.askClear
  repeat' first
    | with_reducible first | exact h | assumption | apply State.startClear_keeps
    | intro _
    | split
    | (dsimp only)
    | with_reducible refine Keeps.lit ?_ rfl rfl rfl rfl ?_ ?_ ?_ ?_ ?_ ?_ ?_ ?_
    | exact Nat.le_refl _
    | exact Nat.le_succ _
    | exact List.prefix_rfl
    | exact List.prefix_append _ _

theorem State.writeReset_keeps {s0 : State} {s : State} {p : Nat} {v : W32} (h : Keeps s0 s) : Keeps s0 (State.writeReset s p v) := by
  unfold State.writeReset
  repeat' first
    | with_reducible first | exact h | assumption | apply State.setFld_keeps | apply State.partitionReset_keeps
          | apply State.askClear_keeps
    | intro _
    | split
    | (dsimp only)

theorem State.wakeClears_keeps {s0 : State} {s : State} {g : List Nat} (h : Keeps s0 s) : Keeps s0 (State.wakeClears s g) := by
  unfold State.wakeClears
  repeat' first
    | with_reducible first | exact h | assumption | apply State.startClear_keeps | apply Keeps.fold
          | apply Keeps.fold1 | apply Keeps.fold2
    | intro _
    | split
    | (dsimp only)
    | with_reducible refine Keeps.lit ?_ rfl rfl rfl rfl ?_ ?_ ?_ ?_ ?_ ?_ ?_ ?_
    | exact Nat.le_refl _
    | exact Nat.le_succ _
    | exact List.prefix_rfl
    | exact List.prefix_append _ _

theorem execPartitionResetDone_keeps (part : Nat) (s : State) (t : State) (g : execPartitionResetDone part s = .next t) : Keeps s t := by
  have h := Keeps.refl s
  unfold execPartitionResetDone at g
  injection g with g
  subst g
  repeat' first
    | with_reducible exact h
    | with_reducible assumption
    | intro _
    | with_reducible apply State.setFld_keeps
    | with_reducible apply State.abortCmds_keeps
    | with_reducible apply State.dropCause_keeps
    | with_reducible apply State.reopen_keeps
    | with_reducible apply State.wakeClears_keeps
    | with_reducible apply Keeps.fold
    | with_reducible apply Keeps.fold1
    | with_reducible apply Keeps.fold2
    | with_reducible refine Keeps.thd (by assumption) ?_
    | with_reducible refine Keeps.snd (by assumption) ?_
    | with_reducible refine Keeps.fst (by assumption) ?_
    | split
    | (dsimp only)
    | with_reducible refine Keeps.lit ?_ rfl rfl rfl rfl (by first | exact Nat.le_refl _ | exact Nat.le_succ _) (by first | exact Nat.le_refl _ | exact Nat.le_succ _) (by first | exact List.prefix_rfl | exact List.prefix_append _ _) (by first | exact List.prefix_rfl | exact List.prefix_append _ _) (by first | exact List.prefix_rfl | exact List.prefix_append _ _) (by first | exact List.prefix_rfl | exact List.prefix_append _ _) (by first | exact List.prefix_rfl | exact List.prefix_append _ _) (by first | exact List.prefix_rfl | exact List.prefix_append _ _)

theorem State.clearWindows_keeps {s0 : State} {s : State} {p : Nat} (h : Keeps s0 s) : Keeps s0 (State.clearWindows s p) :=
  h.newHbm fun w => Hbm.wf_filter w

theorem State.clearPart_keeps {s0 : State} {s : State} {p : Nat} (h : Keeps s0 s) : Keeps s0 (State.clearPart s p) := by
  unfold State.clearPart
  repeat' first
    | with_reducible exact h
    | with_reducible assumption
    | intro _
    | with_reducible apply State.setReg_keeps
    | with_reducible apply State.setFld_keeps
    | with_reducible apply State.showStrip_keeps
    | with_reducible apply State.writeStripReq_keeps
    | with_reducible apply Keeps.fold
    | with_reducible apply Keeps.fold1
    | with_reducible apply Keeps.fold2
    | with_reducible apply OKeeps.getD
    | split
    | (dsimp only)
    | with_reducible refine Keeps.lit ?_ rfl rfl rfl rfl (by first | exact Nat.le_refl _ | exact Nat.le_succ _) (by first | exact Nat.le_refl _ | exact Nat.le_succ _) (by first | exact List.prefix_rfl | exact List.prefix_append _ _) (by first | exact List.prefix_rfl | exact List.prefix_append _ _) (by first | exact List.prefix_rfl | exact List.prefix_append _ _) (by first | exact List.prefix_rfl | exact List.prefix_append _ _) (by first | exact List.prefix_rfl | exact List.prefix_append _ _) (by first | exact List.prefix_rfl | exact List.prefix_append _ _)

theorem State.markPair_keeps {s0 : State} {s : State} {pair code seq : Nat} (h : Keeps s0 s) : Keeps s0 (State.markPair s pair code seq) := by
  unfold State.markPair
  repeat' first
    | with_reducible first | exact h | assumption
    | intro _
    | split
    | (dsimp only)
    | with_reducible refine Keeps.lit ?_ rfl rfl rfl rfl ?_ ?_ ?_ ?_ ?_ ?_ ?_ ?_
    | exact Nat.le_refl _
    | exact Nat.le_succ _
    | exact List.prefix_rfl
    | exact List.prefix_append _ _

theorem State.pairStops_keeps {s0 : State} {s : State} {pair cause code seq : Nat} (h : Keeps s0 s) : Keeps s0 (State.pairStops s pair cause code seq) := by
  unfold State.pairStops
  repeat' first
    | with_reducible first | exact h | assumption | apply State.closeGates_keeps | apply State.markPair_keeps
    | intro _
    | split
    | (dsimp only)
    | with_reducible refine Keeps.lit ?_ rfl rfl rfl rfl ?_ ?_ ?_ ?_ ?_ ?_ ?_ ?_
    | exact Nat.le_refl _
    | exact Nat.le_succ _
    | exact List.prefix_rfl
    | exact List.prefix_append _ _

theorem State.serviceEnds_keeps {s0 : State} {s : State} {pair code seq : Nat} (h : Keeps s0 s) : Keeps s0 (State.serviceEnds s pair code seq) := by
  unfold State.serviceEnds
  repeat' first
    | with_reducible first | exact h | assumption | apply State.stopWork_keeps | apply State.abortReq_keeps
          | apply State.showCaps_keeps | apply Keeps.fold | apply Keeps.fold1 | apply Keeps.fold2
    | intro _
    | split
    | (dsimp only)
    | with_reducible refine Keeps.lit ?_ rfl rfl rfl rfl ?_ ?_ ?_ ?_ ?_ ?_ ?_ ?_
    | exact Nat.le_refl _
    | exact Nat.le_succ _
    | exact List.prefix_rfl
    | exact List.prefix_append _ _

theorem State.retirePair_keeps {s0 : State} {s : State} {pair cause code seq : Nat} (h : Keeps s0 s) : Keeps s0 (State.retirePair s pair cause code seq) := by
  unfold State.retirePair
  repeat' first
    | with_reducible first | exact h | assumption | apply State.setFld_keeps | apply State.pairStops_keeps
          | apply State.serviceEnds_keeps
    | intro _
    | split
    | (dsimp only)
    | with_reducible refine Keeps.lit ?_ rfl rfl rfl rfl ?_ ?_ ?_ ?_ ?_ ?_ ?_ ?_
    | exact Nat.le_refl _
    | exact Nat.le_succ _
    | exact List.prefix_rfl
    | exact List.prefix_append _ _

theorem State.resetPair_keeps {s0 : State} {s : State} {pair cause : Nat} {retire : Bool} (h : Keeps s0 s) : Keeps s0 (State.resetPair s pair cause retire) := by
  unfold State.resetPair
  repeat' first
    | with_reducible first | exact h | assumption | apply State.retire_keeps | apply State.log_keeps
          | apply State.pairStops_keeps | apply State.retirePair_keeps
    | intro _
    | split
    | (dsimp only)
    | with_reducible refine Keeps.lit ?_ rfl rfl rfl rfl ?_ ?_ ?_ ?_ ?_ ?_ ?_ ?_
    | exact Nat.le_refl _
    | exact Nat.le_succ _
    | exact List.prefix_rfl
    | exact List.prefix_append _ _

theorem execLockstepDivergence_keeps (pair : Nat) (s : State) (t : State) (g : execLockstepDivergence pair s = .next t) : Keeps s t := by
  have h := Keeps.refl s
  unfold execLockstepDivergence at g
  injection g with g
  subst g
  repeat' first
    | with_reducible first | exact h | assumption | apply State.resetPair_keeps
    | intro _
    | split
    | (dsimp only)
    | with_reducible refine Keeps.lit ?_ rfl rfl rfl rfl ?_ ?_ ?_ ?_ ?_ ?_ ?_ ?_
    | exact Nat.le_refl _
    | exact Nat.le_succ _
    | exact List.prefix_rfl
    | exact List.prefix_append _ _

theorem execWatchdogExpiry_keeps (pair : Nat) (s : State) (t : State) (g : execWatchdogExpiry pair s = .next t) : Keeps s t := by
  have h := Keeps.refl s
  unfold execWatchdogExpiry at g
  injection g with g
  subst g
  repeat' first
    | with_reducible first | exact h | assumption | apply State.resetPair_keeps
    | intro _
    | split
    | (dsimp only)

theorem execPairRestartDone_keeps (pair : Nat) (ok : Bool) (s : State) (t : State) (g : execPairRestartDone pair ok s = .next t) : Keeps s t := by
  have h := Keeps.refl s
  unfold execPairRestartDone at g
  injection g with g
  subst g
  repeat' first
    | with_reducible first | exact h | assumption | apply State.queueAbort_keeps | apply State.retirePair_keeps
          | apply Keeps.fold | apply Keeps.fold1 | apply Keeps.fold2 | refine Keeps.thd (by assumption) ?_
          | refine Keeps.snd (by assumption) ?_ | refine Keeps.fst (by assumption) ?_
    | intro _
    | split
    | (dsimp only)
    | with_reducible refine Keeps.lit ?_ rfl rfl rfl rfl ?_ ?_ ?_ ?_ ?_ ?_ ?_ ?_
    | exact Nat.le_refl _
    | exact Nat.le_succ _
    | exact List.prefix_rfl
    | exact List.prefix_append _ _

theorem State.takeover_keeps {s0 : State} {s : State} (h : Keeps s0 s) : Keeps s0 (State.takeover s) := by
  unfold State.takeover
  repeat' first
    | with_reducible first | exact h | assumption | apply State.setFld_keeps | apply State.log_keeps
          | apply State.putDomain_keeps | apply State.pairStops_keeps | apply State.retirePair_keeps
          | apply Keeps.fold | apply Keeps.fold1 | apply Keeps.fold2
    | intro _
    | split
    | (dsimp only)
    | with_reducible refine Keeps.lit ?_ rfl rfl rfl rfl ?_ ?_ ?_ ?_ ?_ ?_ ?_ ?_
    | exact Nat.le_refl _
    | exact Nat.le_succ _
    | exact List.prefix_rfl
    | exact List.prefix_append _ _

theorem execHeartbeatLoss_keeps (s : State) (t : State) (g : execHeartbeatLoss s = .next t) : Keeps s t := by
  have h := Keeps.refl s
  unfold execHeartbeatLoss at g
  injection g with g
  subst g
  repeat' first
    | with_reducible first | exact h | assumption | apply State.takeover_keeps
    | intro _
    | split
    | (dsimp only)

theorem execLossOfBothServiceBlocks_keeps (s : State) (t : State) (g : execLossOfBothServiceBlocks s = .next t) : Keeps s t := by
  have h := Keeps.refl s
  unfold execLossOfBothServiceBlocks at g
  injection g with g
  subst g
  repeat' first
    | with_reducible first | exact h | assumption | apply State.moduleReset_keeps
    | intro _
    | split
    | (dsimp only)

theorem State.showElapsed_keeps {s0 : State} {s : State} (h : Keeps s0 s) : Keeps s0 (State.showElapsed s) := by
  unfold State.showElapsed
  repeat' first
    | with_reducible first | exact h | assumption | apply State.setFld_keeps
    | intro _
    | split
    | (dsimp only)

theorem State.powerUp_keeps {s0 : State} {s : State} {d : Nat} (h : Keeps s0 s) : Keeps s0 (State.powerUp s d) := by
  unfold State.powerUp
  repeat' first
    | with_reducible first | exact h | assumption | apply State.putDomain_keeps
    | intro _
    | split
    | (dsimp only)
    | with_reducible refine Keeps.lit ?_ rfl rfl rfl rfl ?_ ?_ ?_ ?_ ?_ ?_ ?_ ?_
    | exact Nat.le_refl _
    | exact Nat.le_succ _
    | exact List.prefix_rfl
    | exact List.prefix_append _ _

theorem State.stage2_keeps {s0 : State} {s : State} (h : Keeps s0 s) : Keeps s0 (State.stage2 s) := by
  unfold State.stage2
  repeat' first
    | with_reducible first | exact h | assumption | apply State.log_keeps | apply State.moduleReset_keeps
          | apply State.powerUp_keeps | apply Keeps.fold | apply Keeps.fold1 | apply Keeps.fold2
          | refine Keeps.thd (by assumption) ?_ | refine Keeps.snd (by assumption) ?_
          | refine Keeps.fst (by assumption) ?_
    | intro _
    | split
    | (dsimp only)
    | with_reducible refine Keeps.lit ?_ rfl rfl rfl rfl ?_ ?_ ?_ ?_ ?_ ?_ ?_ ?_
    | exact Nat.le_refl _
    | exact Nat.le_succ _
    | exact List.prefix_rfl
    | exact List.prefix_append _ _

theorem State.stage3_keeps {s0 : State} {s : State} (h : Keeps s0 s) : Keeps s0 (State.stage3 s) := by
  unfold State.stage3
  refine Keeps.fold _ _ _ (Keeps.fold _ _ _ (Keeps.newUp h rfl) fun _ _ g => State.powerUp_keeps g) fun _ _ g => ?_
  exact State.setFld_keeps (State.setFld_keeps g)

theorem State.setPhases_keeps {s0 : State} {s : State} {f n : Nat} (h : Keeps s0 s) : Keeps s0 (State.setPhases s f n) := by
  unfold State.setPhases
  repeat' first
    | with_reducible first | exact h | assumption | apply State.setFld_keeps
    | intro _
    | split
    | (dsimp only)

theorem State.stage4_keeps {s0 : State} {s : State} {fallback : Bool} (h : Keeps s0 s) : Keeps s0 (State.stage4 s fallback) := by
  unfold State.stage4
  extract_lets t u v
  have h1 : Keeps s0 t := State.setFld_keeps h
  have h2 : Keeps s0 u := Keeps.fold _ _ _ h1 fun _ _ g => State.modField_keeps g
  clear_value u
  have h3 : Keeps s0 v := Keeps.iteD (fun _ => State.setFld_keeps h2) fun _ => h2
  clear_value v t
  split
  · rename_i c _
    extract_lets w x
    have h4 : Keeps s0 w := Keeps.fold _ _ _ h1 fun _ _ g => State.setPhases_keeps (State.modField_keeps g)
    clear_value w
    have h5 : Keeps s0 x := State.setFld_keeps h4
    clear_value x
    exact h5.trans ⟨rfl, rfl, rfl, id, Nat.le_refl _, Nat.le_refl _, List.prefix_rfl, List.prefix_rfl, List.prefix_rfl,
      List.prefix_rfl, List.prefix_rfl, List.prefix_rfl⟩
  · exact State.log_keeps h3

theorem State.stage5_keeps {s0 : State} {s : State} {found : Findings} (h : Keeps s0 s) : Keeps s0 (State.stage5 s found) := by
  unfold State.stage5
  refine State.showCaps_keeps (Keeps.fold _ _ _ h fun t f g => ?_)
  extract_lets rows links v changed u w
  have h1 : Keeps s0 u := State.modField_keeps g
  clear_value u
  have h2 : Keeps s0 w := State.checkSpares_keeps (State.remap_keeps (State.fitWires_keeps h1))
  clear_value w changed
  exact Keeps.iteD (fun _ => Keeps.newUp h2 rfl) fun _ => h2

theorem State.trainStack_keeps {s0 : State} {s : State} {k : Nat} {found : Findings} (h : Keeps s0 s) : Keeps s0 (State.trainStack s k found) := by
  unfold State.trainStack
  extract_lets out wires bad back t u v
  have h1 : Keeps s0 t := State.setFld_keeps (State.publishMap_keeps (State.zeroStack_keeps h))
  clear_value t
  have h2 : Keeps s0 u := State.setFld_keeps (State.setReg_keeps h1)
  clear_value u
  have h3 : Keeps s0 v := State.modStack_keeps h2
  clear_value v
  exact Keeps.iteD (fun _ => h3) fun _ => Keeps.newUp h3 rfl

theorem State.stage6_keeps {s0 : State} {s : State} {found : Findings} (h : Keeps s0 s) : Keeps s0 (State.stage6 s found) := by
  unfold State.stage6
  refine Keeps.fold _ _ _ h fun t k g => ?_
  have h1 : Keeps s0 (t.powerUp (1248 + k)) := State.powerUp_keeps g
  exact Keeps.iteD (fun _ => State.trainStack_keeps h1) fun _ => State.publishMap_keeps h1

theorem State.stage7_keeps {s0 : State} {s : State} {found : Findings} {fwRev : W32} (h : Keeps s0 s) : Keeps s0 (State.stage7 s found fwRev) := by
  unfold State.stage7
  repeat' first
    | with_reducible first | exact h | assumption | apply State.setReg_keeps | apply State.setFld_keeps
          | apply State.showCaps_keeps | apply Keeps.fold | apply Keeps.fold1 | apply Keeps.fold2
          | refine Keeps.thd (by assumption) ?_ | refine Keeps.snd (by assumption) ?_
          | refine Keeps.fst (by assumption) ?_
    | intro _
    | split
    | (dsimp only)
    | with_reducible refine Keeps.lit ?_ rfl rfl rfl rfl ?_ ?_ ?_ ?_ ?_ ?_ ?_ ?_
    | exact Nat.le_refl _
    | exact Nat.le_succ _
    | exact List.prefix_rfl
    | exact List.prefix_append _ _

theorem State.enter10_keeps {s0 : State} {s : State} (h : Keeps s0 s) : Keeps s0 (State.enter10 s) := by
  unfold State.enter10
  repeat' first
    | with_reducible exact h
    | with_reducible assumption
    | intro _
    | with_reducible apply State.setFld_keeps
    | with_reducible apply State.startClaim_keeps
    | with_reducible apply State.beginUp_keeps
    | with_reducible apply Keeps.fold
    | with_reducible apply Keeps.fold1
    | with_reducible apply Keeps.fold2
    | split
    | (dsimp only)

theorem State.becomeReady_keeps {s0 : State} {s : State} (h : Keeps s0 s) : Keeps s0 (State.becomeReady s) := by
  unfold State.becomeReady
  extract_lets t u0 u1 u degraded v up err w x
  have h0 : Keeps s0 u1 := State.setFld_keeps (State.setFld_keeps (State.showElapsed_keeps h))
  clear_value u1
  have h1 : Keeps s0 u := Keeps.iteD (fun _ => State.openEvent_keeps h0) fun _ => h0
  clear_value u
  have h2 : Keeps s0 v := State.setFld_keeps h1
  clear_value v
  have h3 : Keeps s0 w := h2.trans ⟨rfl, rfl, rfl, id, Nat.le_refl _, Nat.le_refl _, List.prefix_rfl, List.prefix_rfl,
    List.prefix_rfl, List.prefix_rfl, List.prefix_rfl, List.prefix_rfl⟩
  clear_value w
  exact Keeps.fold _ _ _ (State.dropCause_keeps h3) fun _ _ g => State.reopen_keeps g

theorem State.notifySent_keeps {s0 : State} {s : State} (h : Keeps s0 s) : Keeps s0 (State.notifySent s) := by
  unfold State.notifySent
  repeat' first
    | with_reducible first | exact h | assumption | apply State.addFld_keeps
    | intro _
    | split
    | (dsimp only)
    | with_reducible refine Keeps.lit ?_ rfl rfl rfl rfl ?_ ?_ ?_ ?_ ?_ ?_ ?_ ?_
    | exact Nat.le_refl _
    | exact Nat.le_succ _
    | exact List.prefix_rfl
    | exact List.prefix_append _ _

theorem State.enter9_keeps {s0 : State} {s : State} (h : Keeps s0 s) : Keeps s0 (State.enter9 s) := by
  unfold State.enter9
  repeat' first
    | with_reducible first | exact h | assumption | apply State.notifySent_keeps
    | intro _
    | split
    | (dsimp only)
    | with_reducible refine Keeps.lit ?_ rfl rfl rfl rfl ?_ ?_ ?_ ?_ ?_ ?_ ?_ ?_
    | exact Nat.le_refl _
    | exact Nat.le_succ _
    | exact List.prefix_rfl
    | exact List.prefix_append _ _

theorem State.nextStep_keeps {s0 : State} {s : State} {n : Nat} (h : Keeps s0 s) : Keeps s0 (State.nextStep s n) := by
  unfold State.nextStep
  repeat' first
    | with_reducible exact h
    | with_reducible assumption
    | intro _
    | with_reducible apply State.setFld_keeps
    | with_reducible apply State.showElapsed_keeps
    | with_reducible apply State.showCaps_keeps
    | with_reducible apply State.enter10_keeps
    | with_reducible apply State.becomeReady_keeps
    | with_reducible apply State.enter9_keeps
    | split
    | (dsimp only)

theorem execStartupStageDone_keeps (found : Findings) (fwRev : W32) (s : State) (t : State) (g : execStartupStageDone found fwRev s = .next t) : Keeps s t := by
  have h := Keeps.refl s
  unfold execStartupStageDone at g
  injection g with g
  subst g
  split
  · exact State.beginStartup_keeps h
  · exact State.nextStep_keeps (State.stage2_keeps h)
  · exact State.nextStep_keeps (State.stage3_keeps h)
  · exact State.nextStep_keeps (State.stage4_keeps h)
  · exact State.nextStep_keeps (State.stage5_keeps h)
  · exact State.nextStep_keeps (State.stage6_keeps h)
  · exact Keeps.iteD (fun _ => h) fun _ => State.nextStep_keeps (State.stage7_keeps h)
  · exact State.nextStep_keeps h
  · exact Keeps.iteD (fun _ => State.nextStep_keeps h) fun _ => h
  · exact Keeps.iteD (fun _ => h) fun _ => State.nextStep_keeps h
  · exact h

theorem State.failDomains_keeps {s0 : State} {s : State} {ds : List Nat} (h : Keeps s0 s) : Keeps s0 (State.failDomains s ds) := by
  unfold State.failDomains
  repeat' first
    | with_reducible first | exact h | assumption
    | intro _
    | split
    | (dsimp only)
    | with_reducible refine Keeps.lit ?_ rfl rfl rfl rfl ?_ ?_ ?_ ?_ ?_ ?_ ?_ ?_
    | exact Nat.le_refl _
    | exact Nat.le_succ _
    | exact List.prefix_rfl
    | exact List.prefix_append _ _

theorem State.bootBlocks_keeps {s0 : State} {s : State} {domains : List Nat} {found : Findings} {fwRev : W32} (h : Keeps s0 s) : Keeps s0 (State.bootBlocks s domains found fwRev) := by
  unfold State.bootBlocks
  extract_lets fl t
  have h1 : Keeps s0 t := Keeps.iteD (fun _ => h.trans ⟨rfl, rfl, rfl, id, Nat.le_refl _, Nat.le_refl _, List.prefix_rfl,
    List.prefix_rfl, List.prefix_rfl, List.prefix_rfl, List.prefix_rfl, List.prefix_rfl⟩) fun _ => h
  clear_value t
  refine Keeps.iteD (fun _ => h1) fun _ => Keeps.iteD (fun _ => Keeps.iteD (fun _ => State.moduleReset_keeps ?_)
    fun _ => State.nextStep_keeps (State.stage7_keeps (State.takeover_keeps h1)))
    fun _ => State.nextStep_keeps (State.stage7_keeps h1)
  exact h1.trans ⟨rfl, rfl, rfl, id, Nat.le_refl _, Nat.le_refl _, List.prefix_rfl, List.prefix_rfl, List.prefix_rfl,
    List.prefix_rfl, List.prefix_rfl, List.prefix_rfl⟩

theorem execStartupStageLimit_keeps (limit : StageLimit) (s : State) (t : State) (g : execStartupStageLimit limit s = .next t) : Keeps s t := by
  have h := Keeps.refl s
  unfold execStartupStageLimit at g
  injection g with g
  subst g
  split
  · exact State.nextStep_keeps (Keeps.fold _ _ _ (State.stage2_keeps (State.failDomains_keeps h)) fun _ _ g => State.log_keeps g)
  · exact State.nextStep_keeps (State.stage3_keeps (State.failDomains_keeps h))
  · exact State.nextStep_keeps (State.stage4_keeps h)
  · exact State.nextStep_keeps (State.stage5_keeps h)
  · exact State.nextStep_keeps (State.stage6_keeps (State.failDomains_keeps h))
  · exact State.bootBlocks_keeps h
  · exact State.nextStep_keeps h
  · exact State.nextStep_keeps h
  · exact State.nextStep_keeps h
  · exact h

theorem State.writeMapCtrl_keeps {s0 : State} {s : State} {v : W32} (h : Keeps s0 s) : Keeps s0 (State.writeMapCtrl s v) := by
  unfold State.writeMapCtrl
  repeat' first
    | with_reducible first | exact h | assumption | apply State.setFld_keeps
    | intro _
    | split
    | (dsimp only)
    | with_reducible refine Keeps.lit ?_ rfl rfl rfl rfl ?_ ?_ ?_ ?_ ?_ ?_ ?_ ?_
    | exact Nat.le_refl _
    | exact Nat.le_succ _
    | exact List.prefix_rfl
    | exact List.prefix_append _ _

theorem State.endEpoch_keeps {s0 : State} {s : State} {p : Nat} (h : Keeps s0 s) : Keeps s0 (State.endEpoch s p) := by
  unfold State.endEpoch
  extract_lets t up u v
  have h1 : Keeps s0 t := Keeps.fold _ _ _ h fun _ _ g => State.remap_keeps (State.fitWires_keeps g)
  clear_value t
  have h2 : Keeps s0 u := Keeps.newUp h1 rfl
  clear_value u
  exact State.log_keeps (State.showCaps_keeps (State.setFld_keeps (State.setFld_keeps h2)))

theorem execMapEpoch_keeps (s : State) (t : State) (g : execMapEpoch s = .next t) : Keeps s t := by
  have h := Keeps.refl s
  unfold execMapEpoch at g
  injection g with g
  subst g
  split
  · exact h
  · refine Keeps.iteD (fun _ => Keeps.newUp h rfl) fun _ => Keeps.iteD (fun _ => State.endEpoch_keeps h) fun _ => ?_
    refine Keeps.iteD (fun _ => h) fun _ => Keeps.iteD (fun _ => State.setFld_keeps (State.setFld_keeps (Keeps.newUp h rfl)))
      fun _ => State.partitionReset_keeps (Keeps.newUp h rfl)

end Sys2Proof.Machine
end

