-- ==== Sys2Proof/Laws/KeepsRegisters.lean ====
section
/-! SUPPORT. What the operations of Machine/Registers.lean keep (Keeps). -/
namespace Sys2Proof.Machine

theorem State.reply_keeps {s0 : State} {s : State} {st : Nat} {data : List Byte} (h : Keeps s0 s) : Keeps s0 (State.reply s st data) := by
  unfold State.reply
  repeat' first
    | with_reducible first | exact h | assumption
    | intro _
    | split
    | (dsimp only)
    | with_reducible refine Keeps.lit ?_ rfl rfl rfl rfl ?_ ?_ ?_ ?_ ?_ ?_ ?_ ?_
    | exact Nat.le_refl _
    | exact Nat.le_succ _
    | exact List.prefix_rfl
    | exact List.prefix_append _ _

theorem State.print_keeps {s0 : State} {s : State} {line : String} {data : List Byte} (h : Keeps s0 s) : Keeps s0 (State.print s line data) := by
  unfold State.print
  repeat' first
    | with_reducible first | exact h | assumption
    | intro _
    | split
    | (dsimp only)
    | with_reducible refine Keeps.lit ?_ rfl rfl rfl rfl ?_ ?_ ?_ ?_ ?_ ?_ ?_ ?_
    | exact Nat.le_refl _
    | exact Nat.le_succ _
    | exact List.prefix_rfl
    | exact List.prefix_append _ _

theorem State.store_keeps {s0 : State} {s : State} {r : Reg} {blk idx : Nat} {v : W32} (h : Keeps s0 s) : Keeps s0 (State.store s r blk idx v) := by
  unfold State.store
  repeat' first
    | with_reducible first | exact h | assumption | apply State.setReg_keeps
    | intro _
    | split
    | (dsimp only)

theorem State.underLock_keeps {s0 : State} {s : State} {r : Reg} {blk idx p off : Nat} {v : W32} (h : Keeps s0 s) : Keeps s0 (State.underLock s r blk idx p off v).2 := by
  unfold State.underLock
  repeat' first
    | with_reducible first | exact h | assumption | apply State.log_keeps
    | intro _
    | split
    | (dsimp only)

theorem State.enable_keeps {s0 : State} {s : State} {r : Reg} {p off : Nat} {v : W32} {ok : Bool} {c : Code} (h : Keeps s0 s) : Keeps s0 (State.enable s r p off v ok c) := by
  unfold State.enable
  repeat' first
    | with_reducible first | exact h | assumption | apply State.log_keeps | apply State.store_keeps
    | intro _
    | split
    | (dsimp only)

theorem State.writeSq_keeps {s0 : State} {s : State} {p r off : Nat} {v : W32} (h : Keeps s0 s) : Keeps s0 (State.writeSq s p r off v) := by
  unfold State.writeSq
  repeat' first
    | with_reducible first | exact h | assumption | apply State.hostAccess_keeps | apply State.dropFetch_keeps
          | apply State.store_keeps
    | intro _
    | split
    | (dsimp only)

theorem State.writeCq_keeps {s0 : State} {s : State} {p r off : Nat} {v : W32} (h : Keeps s0 s) : Keeps s0 (State.writeCq s p r off v) := by
  unfold State.writeCq
  repeat' first
    | with_reducible first | exact h | assumption | apply State.hostAccess_keeps | apply State.store_keeps
    | intro _
    | split
    | (dsimp only)

theorem State.writeSpill_keeps {s0 : State} {s : State} {r : Reg} {n : Nat} {m : Master} {off : Nat} {v : W32} (h : Keeps s0 s) : Keeps s0 (State.writeSpill s r n m off v) := by
  unfold State.writeSpill
  repeat' first
    | with_reducible first | exact h | assumption | apply State.hostAccess_keeps | apply State.store_keeps
    | intro _
    | split
    | (dsimp only)
    | with_reducible refine Keeps.lit ?_ rfl rfl rfl rfl ?_ ?_ ?_ ?_ ?_ ?_ ?_ ?_
    | exact Nat.le_refl _
    | exact Nat.le_succ _
    | exact List.prefix_rfl
    | exact List.prefix_append _ _

theorem State.writePageAddr_keeps {s0 : State} {s : State} {r : Reg} {blk idx page : Nat} {v : W32} (h : Keeps s0 s) : Keeps s0 (State.writePageAddr s r blk idx page v) := by
  unfold State.writePageAddr
  repeat' first
    | with_reducible first | exact h | assumption | apply State.store_keeps
    | intro _
    | split
    | (dsimp only)
    | with_reducible refine Keeps.lit ?_ rfl rfl rfl rfl ?_ ?_ ?_ ?_ ?_ ?_ ?_ ?_
    | exact Nat.le_refl _
    | exact Nat.le_succ _
    | exact List.prefix_rfl
    | exact List.prefix_append _ _

theorem State.clearRegs_keeps {s0 : State} {s : State} {rs : List Reg} {blk : Nat} (h : Keeps s0 s) : Keeps s0 (State.clearRegs s rs blk) := by
  unfold State.clearRegs
  repeat' first
    | with_reducible first | exact h | assumption | apply State.setReg_keeps | apply Keeps.fold | apply Keeps.fold1
          | apply Keeps.fold2
    | intro _
    | split
    | (dsimp only)

theorem State.act_keeps {s0 : State} {s : State} {r : Reg} {blk idx : Nat} {m : Master} {off : Nat} {v : W32} (h : Keeps s0 s) : Keeps s0 (State.act s r blk idx m off v) := by
  unfold State.act
  repeat' first
    | with_reducible exact h
    | with_reducible assumption
    | intro _
    | with_reducible apply State.setReg_keeps
    | with_reducible apply State.setFld_keeps
    | with_reducible apply State.log_keeps
    | with_reducible apply State.hostAccess_keeps
    | with_reducible apply State.epochGo_keeps
    | with_reducible apply State.writeWindow_keeps
    | with_reducible apply State.moduleReset_keeps
    | with_reducible apply State.writeCallen_keeps
    | with_reducible apply State.writeNode_keeps
    | with_reducible apply State.writeMirror_keeps
    | with_reducible apply State.writeFlowq_keeps
    | with_reducible apply State.writeGrplo_keeps
    | with_reducible apply State.recap_keeps
    | with_reducible apply State.writeStripReq_keeps
    | with_reducible apply State.writeReset_keeps
    | with_reducible apply State.writeMapCtrl_keeps
    | with_reducible apply State.store_keeps
    | with_reducible apply State.enable_keeps
    | with_reducible apply State.writeSq_keeps
    | with_reducible apply State.writeCq_keeps
    | with_reducible apply State.writeSpill_keeps
    | with_reducible apply State.writePageAddr_keeps
    | with_reducible apply State.clearRegs_keeps
    | with_reducible refine Keeps.thd (by assumption) ?_
    | with_reducible refine Keeps.snd (by assumption) ?_
    | with_reducible refine Keeps.fst (by assumption) ?_
    | split
    | (dsimp only)
    | with_reducible refine Keeps.lit ?_ rfl rfl rfl rfl (by first | exact Nat.le_refl _ | exact Nat.le_succ _) (by first | exact Nat.le_refl _ | exact Nat.le_succ _) (by first | exact List.prefix_rfl | exact List.prefix_append _ _) (by first | exact List.prefix_rfl | exact List.prefix_append _ _) (by first | exact List.prefix_rfl | exact List.prefix_append _ _) (by first | exact List.prefix_rfl | exact List.prefix_append _ _) (by first | exact List.prefix_rfl | exact List.prefix_append _ _) (by first | exact List.prefix_rfl | exact List.prefix_append _ _)

theorem State.writeOwn_keeps {s0 : State} {s : State} {m : Master} {v : W32} (h : Keeps s0 s) : Keeps s0 (State.writeOwn s m v) := by
  unfold State.writeOwn
  repeat' first
    | with_reducible first | exact h | assumption | apply State.setFld_keeps | apply State.hostAccess_keeps
          | apply State.askClear_keeps | apply Keeps.fold | apply Keeps.fold1 | apply Keeps.fold2
    | intro _
    | split
    | (dsimp only)
    | with_reducible refine Keeps.lit ?_ rfl rfl rfl rfl ?_ ?_ ?_ ?_ ?_ ?_ ?_ ?_
    | exact Nat.le_refl _
    | exact Nat.le_succ _
    | exact List.prefix_rfl
    | exact List.prefix_append _ _

theorem State.writeReg_keeps {s0 : State} {s : State} {m : Master} {off : Nat} {v : W32} (h : Keeps s0 s) : Keeps s0 (State.writeReg s m off v) := by
  unfold State.writeReg
  repeat' first
    | with_reducible first | exact h | assumption | apply State.hostAccess_keeps | apply State.underLock_keeps
          | apply State.act_keeps | apply State.writeOwn_keeps | refine Keeps.thd (by assumption) ?_
          | refine Keeps.snd (by assumption) ?_ | refine Keeps.fst (by assumption) ?_
    | intro _
    | split
    | (dsimp only)
    | with_reducible refine Keeps.lit ?_ rfl rfl rfl rfl ?_ ?_ ?_ ?_ ?_ ?_ ?_ ?_
    | exact Nat.le_refl _
    | exact Nat.le_succ _
    | exact List.prefix_rfl
    | exact List.prefix_append _ _

theorem State.busWrite_keeps {s0 : State} {s : State} {m : Master} {off : Nat} {v : W32} (h : Keeps s0 s) : Keeps s0 (State.busWrite s m off v) := by
  unfold State.busWrite
  repeat' first
    | with_reducible first | exact h | assumption | apply State.hostAccess_keeps | apply State.writeReg_keeps
          | refine Keeps.thd (by assumption) ?_ | refine Keeps.snd (by assumption) ?_
          | refine Keeps.fst (by assumption) ?_
    | intro _
    | split
    | (dsimp only)
    | with_reducible refine Keeps.lit ?_ rfl rfl rfl rfl ?_ ?_ ?_ ?_ ?_ ?_ ?_ ?_
    | exact Nat.le_refl _
    | exact Nat.le_succ _
    | exact List.prefix_rfl
    | exact List.prefix_append _ _

theorem State.rowWrite_keeps {s0 : State} {s : State} {m : Master} {r : Reg} {blk idx : Nat} {v : W32} (h : Keeps s0 s) : Keeps s0 (State.rowWrite s m r blk idx v) := by
  unfold State.rowWrite
  repeat' first
    | with_reducible first | exact h | assumption | apply State.busWrite_keeps
    | intro _
    | split
    | (dsimp only)

theorem execFldScrCtrlClrCnt_keeps (m : Master) (field : Nat) (value : W32) (s : State) (t : State) (g : execFldScrCtrlClrCnt m field value s = .next t) : Keeps s t := by
  have h := Keeps.refl s
  unfold execFldScrCtrlClrCnt at g
  injection g with g
  subst g
  repeat' first
    | with_reducible first | exact h | assumption | apply State.rowWrite_keeps
    | intro _
    | split
    | (dsimp only)

theorem execMemEpochCtrlGo_keeps (m : Master) (value : W32) (s : State) (t : State) (g : execMemEpochCtrlGo m value s = .next t) : Keeps s t := by
  have h := Keeps.refl s
  unfold execMemEpochCtrlGo at g
  injection g with g
  subst g
  repeat' first
    | with_reducible first | exact h | assumption | apply State.rowWrite_keeps
    | intro _
    | split
    | (dsimp only)

theorem execPrtHbmWindowWrite_keeps (m : Master) (off : Nat) (value : W32) (s : State) (t : State) (g : execPrtHbmWindowWrite m off value s = .next t) : Keeps s t := by
  have h := Keeps.refl s
  unfold execPrtHbmWindowWrite at g
  injection g with g
  subst g
  repeat' first
    | with_reducible first | exact h | assumption | apply State.busWrite_keeps
    | intro _
    | split
    | (dsimp only)

theorem execMemSpillEntryWrite_keeps (m : Master) (off : Nat) (value : W32) (s : State) (t : State) (g : execMemSpillEntryWrite m off value s = .next t) : Keeps s t := by
  have h := Keeps.refl s
  unfold execMemSpillEntryWrite at g
  injection g with g
  subst g
  repeat' first
    | with_reducible first | exact h | assumption | apply State.busWrite_keeps
    | intro _
    | split
    | (dsimp only)

theorem execPrtKvCtrlEn_keeps (m : Master) (part : Nat) (value : W32) (s : State) (t : State) (g : execPrtKvCtrlEn m part value s = .next t) : Keeps s t := by
  have h := Keeps.refl s
  unfold execPrtKvCtrlEn at g
  injection g with g
  subst g
  repeat' first
    | with_reducible first | exact h | assumption | apply State.rowWrite_keeps
    | intro _
    | split
    | (dsimp only)

theorem execFldKvwCtrlClr_keeps (m : Master) (field : Nat) (value : W32) (s : State) (t : State) (g : execFldKvwCtrlClr m field value s = .next t) : Keeps s t := by
  have h := Keeps.refl s
  unfold execFldKvwCtrlClr at g
  injection g with g
  subst g
  repeat' first
    | with_reducible first | exact h | assumption | apply State.rowWrite_keeps
    | intro _
    | split
    | (dsimp only)

theorem execPrtSrvCtrlEn_keeps (m : Master) (part : Nat) (value : W32) (s : State) (t : State) (g : execPrtSrvCtrlEn m part value s = .next t) : Keeps s t := by
  have h := Keeps.refl s
  unfold execPrtSrvCtrlEn at g
  injection g with g
  subst g
  repeat' first
    | with_reducible first | exact h | assumption | apply State.rowWrite_keeps
    | intro _
    | split
    | (dsimp only)

theorem execPrtSrvQuotaWrite_keeps (m : Master) (part : Nat) (value : W32) (s : State) (t : State) (g : execPrtSrvQuotaWrite m part value s = .next t) : Keeps s t := by
  have h := Keeps.refl s
  unfold execPrtSrvQuotaWrite at g
  injection g with g
  subst g
  repeat' first
    | with_reducible first | exact h | assumption | apply State.rowWrite_keeps
    | intro _
    | split
    | (dsimp only)

theorem execHifOwnWrite_keeps (m : Master) (value : W32) (s : State) (t : State) (g : execHifOwnWrite m value s = .next t) : Keeps s t := by
  have h := Keeps.refl s
  unfold execHifOwnWrite at g
  injection g with g
  subst g
  repeat' first
    | with_reducible first | exact h | assumption | apply State.rowWrite_keeps
    | intro _
    | split
    | (dsimp only)

theorem execPrtGroupWrite_keeps (m : Master) (part : Nat) (value : W32) (s : State) (t : State) (g : execPrtGroupWrite m part value s = .next t) : Keeps s t := by
  have h := Keeps.refl s
  unfold execPrtGroupWrite at g
  injection g with g
  subst g
  repeat' first
    | with_reducible first | exact h | assumption | apply State.rowWrite_keeps
    | intro _
    | split
    | (dsimp only)

theorem execPrtLockSet_keeps (m : Master) (part : Nat) (value : W32) (s : State) (t : State) (g : execPrtLockSet m part value s = .next t) : Keeps s t := by
  have h := Keeps.refl s
  unfold execPrtLockSet at g
  injection g with g
  subst g
  repeat' first
    | with_reducible first | exact h | assumption | apply State.rowWrite_keeps
    | intro _
    | split
    | (dsimp only)

theorem execPrtSqCfgEn_keeps (m : Master) (part ring : Nat) (value : W32) (s : State) (t : State) (g : execPrtSqCfgEn m part ring value s = .next t) : Keeps s t := by
  have h := Keeps.refl s
  unfold execPrtSqCfgEn at g
  injection g with g
  subst g
  repeat' first
    | with_reducible first | exact h | assumption | apply State.rowWrite_keeps
    | intro _
    | split
    | (dsimp only)

theorem execPrtCqCfgEn_keeps (m : Master) (part ring : Nat) (value : W32) (s : State) (t : State) (g : execPrtCqCfgEn m part ring value s = .next t) : Keeps s t := by
  have h := Keeps.refl s
  unfold execPrtCqCfgEn at g
  injection g with g
  subst g
  repeat' first
    | with_reducible first | exact h | assumption | apply State.rowWrite_keeps
    | intro _
    | split
    | (dsimp only)

theorem execVngNodeClaim_keeps (m : Master) (value : W32) (s : State) (t : State) (g : execVngNodeClaim m value s = .next t) : Keeps s t := by
  have h := Keeps.refl s
  unfold execVngNodeClaim at g
  injection g with g
  subst g
  repeat' first
    | with_reducible first | exact h | assumption | apply State.rowWrite_keeps
    | intro _
    | split
    | (dsimp only)

theorem execPrtVngCallen_keeps (m : Master) (part : Nat) (value : W32) (s : State) (t : State) (g : execPrtVngCallen m part value s = .next t) : Keeps s t := by
  have h := Keeps.refl s
  unfold execPrtVngCallen at g
  injection g with g
  subst g
  repeat' first
    | with_reducible first | exact h | assumption | apply State.rowWrite_keeps
    | intro _
    | split
    | (dsimp only)

theorem execVngMirrorBind_keeps (m : Master) (value : W32) (s : State) (t : State) (g : execVngMirrorBind m value s = .next t) : Keeps s t := by
  have h := Keeps.refl s
  unfold execVngMirrorBind at g
  injection g with g
  subst g
  repeat' first
    | with_reducible first | exact h | assumption | apply State.rowWrite_keeps
    | intro _
    | split
    | (dsimp only)

theorem execPrtVngFlowqWrite_keeps (m : Master) (part : Nat) (value : W32) (s : State) (t : State) (g : execPrtVngFlowqWrite m part value s = .next t) : Keeps s t := by
  have h := Keeps.refl s
  unfold execPrtVngFlowqWrite at g
  injection g with g
  subst g
  repeat' first
    | with_reducible first | exact h | assumption | apply State.rowWrite_keeps
    | intro _
    | split
    | (dsimp only)

theorem execPrtVngGrploEn_keeps (m : Master) (part : Nat) (value : W32) (s : State) (t : State) (g : execPrtVngGrploEn m part value s = .next t) : Keeps s t := by
  have h := Keeps.refl s
  unfold execPrtVngGrploEn at g
  injection g with g
  subst g
  repeat' first
    | with_reducible first | exact h | assumption | apply State.rowWrite_keeps
    | intro _
    | split
    | (dsimp only)

theorem execPrtPwrStripReq_keeps (m : Master) (part c : Nat) (value : W32) (s : State) (t : State) (g : execPrtPwrStripReq m part c value s = .next t) : Keeps s t := by
  have h := Keeps.refl s
  unfold execPrtPwrStripReq at g
  injection g with g
  subst g
  repeat' first
    | with_reducible first | exact h | assumption | apply State.rowWrite_keeps
    | intro _
    | split
    | (dsimp only)

theorem execPwrCtrlClr_keeps (m : Master) (value : W32) (s : State) (t : State) (g : execPwrCtrlClr m value s = .next t) : Keeps s t := by
  have h := Keeps.refl s
  unfold execPwrCtrlClr at g
  injection g with g
  subst g
  repeat' first
    | with_reducible first | exact h | assumption | apply State.rowWrite_keeps
    | intro _
    | split
    | (dsimp only)

theorem execPrtResetGo_keeps (m : Master) (part : Nat) (s : State) (t : State) (g : execPrtResetGo m part s = .next t) : Keeps s t := by
  have h := Keeps.refl s
  unfold execPrtResetGo at g
  injection g with g
  subst g
  repeat' first
    | with_reducible first | exact h | assumption | apply State.rowWrite_keeps
    | intro _
    | split
    | (dsimp only)

theorem execPrtResetZero_keeps (m : Master) (part : Nat) (s : State) (t : State) (g : execPrtResetZero m part s = .next t) : Keeps s t := by
  have h := Keeps.refl s
  unfold execPrtResetZero at g
  injection g with g
  subst g
  repeat' first
    | with_reducible first | exact h | assumption | apply State.rowWrite_keeps
    | intro _
    | split
    | (dsimp only)

theorem execGlbReset_keeps (m : Master) (value : W32) (s : State) (t : State) (g : execGlbReset m value s = .next t) : Keeps s t := by
  have h := Keeps.refl s
  unfold execGlbReset at g
  injection g with g
  subst g
  repeat' first
    | with_reducible first | exact h | assumption | apply State.rowWrite_keeps
    | intro _
    | split
    | (dsimp only)

theorem execGlbMapCtrlGo_keeps (m : Master) (value : W32) (s : State) (t : State) (g : execGlbMapCtrlGo m value s = .next t) : Keeps s t := by
  have h := Keeps.refl s
  unfold execGlbMapCtrlGo at g
  injection g with g
  subst g
  repeat' first
    | with_reducible first | exact h | assumption | apply State.rowWrite_keeps
    | intro _
    | split
    | (dsimp only)

theorem execErrAlertClear_keeps (m : Master) (value : W32) (s : State) (t : State) (g : execErrAlertClear m value s = .next t) : Keeps s t := by
  have h := Keeps.refl s
  unfold execErrAlertClear at g
  injection g with g
  subst g
  repeat' first
    | with_reducible first | exact h | assumption | apply State.rowWrite_keeps
    | intro _
    | split
    | (dsimp only)

theorem execFldIntCtrlClr_keeps (m : Master) (field : Nat) (value : W32) (s : State) (t : State) (g : execFldIntCtrlClr m field value s = .next t) : Keeps s t := by
  have h := Keeps.refl s
  unfold execFldIntCtrlClr at g
  injection g with g
  subst g
  repeat' first
    | with_reducible first | exact h | assumption | apply State.rowWrite_keeps
    | intro _
    | split
    | (dsimp only)

theorem execRegisterWrite_keeps (m : Master) (off : Nat) (value : W32) (s : State) (t : State) (g : execRegisterWrite m off value s = .next t) : Keeps s t := by
  have h := Keeps.refl s
  unfold execRegisterWrite at g
  injection g with g
  subst g
  repeat' first
    | with_reducible first | exact h | assumption | apply State.busWrite_keeps
    | intro _
    | split
    | (dsimp only)

theorem execBar0AccessError_keeps (m : Master) (off size : Nat) (x_write : Bool) (s : State) (t : State) (g : execBar0AccessError m off size x_write s = .next t) : Keeps s t := by
  have h := Keeps.refl s
  unfold execBar0AccessError at g
  injection g with g
  subst g
  repeat' first
    | with_reducible first | exact h | assumption | apply State.hostAccess_keeps
          | refine Keeps.thd (by assumption) ?_ | refine Keeps.snd (by assumption) ?_
          | refine Keeps.fst (by assumption) ?_
    | intro _
    | split
    | (dsimp only)
    | with_reducible refine Keeps.lit ?_ rfl rfl rfl rfl ?_ ?_ ?_ ?_ ?_ ?_ ?_ ?_
    | exact Nat.le_refl _
    | exact Nat.le_succ _
    | exact List.prefix_rfl
    | exact List.prefix_append _ _

theorem State.mgmtWrite_keeps {s0 : State} {s : State} {off : Nat} {v : W32} (h : Keeps s0 s) : Keeps s0 (State.mgmtWrite s off v) := by
  unfold State.mgmtWrite
  repeat' first
    | with_reducible first | exact h | assumption | apply State.reply_keeps | apply State.busWrite_keeps
    | intro _
    | split
    | (dsimp only)

theorem State.monWrite_keeps {s0 : State} {s : State} {off : Nat} {v : W32} (h : Keeps s0 s) : Keeps s0 (State.monWrite s off v) := by
  unfold State.monWrite
  repeat' first
    | with_reducible first | exact h | assumption | apply State.print_keeps | apply State.busWrite_keeps
    | intro _
    | split
    | (dsimp only)

theorem State.loseOrder_keeps {s0 : State} {s : State} {o : Order} (h : Keeps s0 s) : Keeps s0 (State.loseOrder s o) := by
  unfold State.loseOrder
  repeat' first
    | with_reducible first | exact h | assumption | apply State.setFld_keeps | apply State.addFld_keeps
          | apply State.reply_keeps | apply State.print_keeps | refine Keeps.thd (by assumption) ?_
          | refine Keeps.snd (by assumption) ?_ | refine Keeps.fst (by assumption) ?_
    | intro _
    | split
    | (dsimp only)
    | with_reducible refine Keeps.lit ?_ rfl rfl rfl rfl ?_ ?_ ?_ ?_ ?_ ?_ ?_ ?_
    | exact Nat.le_refl _
    | exact Nat.le_succ _
    | exact List.prefix_rfl
    | exact List.prefix_append _ _

theorem State.runOrder_keeps {s0 : State} {s : State} {o : Order} (h : Keeps s0 s) : Keeps s0 (State.runOrder s o) := by
  unfold State.runOrder
  repeat' first
    | with_reducible exact h
    | with_reducible assumption
    | intro _
    | with_reducible apply State.hostAccess_keeps
    | with_reducible apply State.doorbellWrite_keeps
    | with_reducible apply State.busWrite_keeps
    | with_reducible apply State.mgmtWrite_keeps
    | with_reducible apply State.monWrite_keeps
    | with_reducible refine Keeps.thd (by assumption) ?_
    | with_reducible refine Keeps.snd (by assumption) ?_
    | with_reducible refine Keeps.fst (by assumption) ?_
    | split
    | (dsimp only)
    | with_reducible refine Keeps.lit ?_ rfl rfl rfl rfl (by first | exact Nat.le_refl _ | exact Nat.le_succ _) (by first | exact Nat.le_refl _ | exact Nat.le_succ _) (by first | exact List.prefix_rfl | exact List.prefix_append _ _) (by first | exact List.prefix_rfl | exact List.prefix_append _ _) (by first | exact List.prefix_rfl | exact List.prefix_append _ _) (by first | exact List.prefix_rfl | exact List.prefix_append _ _) (by first | exact List.prefix_rfl | exact List.prefix_append _ _) (by first | exact List.prefix_rfl | exact List.prefix_append _ _)

/-- MESSAGE_TIME_END keeps everything but the time, which it advances by one message time (R326). -/
theorem execMessageTimeEnd_keeps (orders : List Order) (s : State) (t : State) (g : execMessageTimeEnd orders s = .next t) :
    Keeps { s with up := { s.up with time := s.up.time + 1000 } } t := by
  unfold execMessageTimeEnd at g
  injection g with g
  subst g
  have h := Keeps.refl { s with up := { s.up with time := s.up.time + 1000 } }
  generalize ({ s with up := { s.up with time := s.up.time + 1000 } } : State) = s0 at h ⊢
  dsimp only
  apply Keeps.fold
  · apply Keeps.fold
    · apply Keeps.fold
      · exact h
      · intro t o ht
        exact State.runOrder_keeps ht
    · intro t o ht
      exact State.loseOrder_keeps ht
  · intro t o ht
    exact State.runOrder_keeps ht

theorem State.releaseOrders_keeps {s0 : State} {s : State} (h : Keeps s0 s) : Keeps s0 (State.releaseOrders s) := by
  unfold State.releaseOrders
  repeat' first
    | with_reducible exact h
    | with_reducible assumption
    | intro _
    | with_reducible apply State.runOrder_keeps
    | with_reducible apply Keeps.fold
    | with_reducible apply Keeps.fold1
    | with_reducible apply Keeps.fold2
    | split
    | (dsimp only)
    | with_reducible refine Keeps.lit ?_ rfl rfl rfl rfl (by first | exact Nat.le_refl _ | exact Nat.le_succ _) (by first | exact Nat.le_refl _ | exact Nat.le_succ _) (by first | exact List.prefix_rfl | exact List.prefix_append _ _) (by first | exact List.prefix_rfl | exact List.prefix_append _ _) (by first | exact List.prefix_rfl | exact List.prefix_append _ _) (by first | exact List.prefix_rfl | exact List.prefix_append _ _) (by first | exact List.prefix_rfl | exact List.prefix_append _ _) (by first | exact List.prefix_rfl | exact List.prefix_append _ _)

theorem execZeroisingClearDone_keeps (part : Nat) (s : State) (t : State) (g : execZeroisingClearDone part s = .next t) : Keeps s t := by
  have h := Keeps.refl s
  unfold execZeroisingClearDone at g
  injection g with g
  subst g
  repeat' first
    | with_reducible exact h
    | with_reducible assumption
    | intro _
    | with_reducible apply State.setFld_keeps
    | with_reducible apply State.clearWindows_keeps
    | with_reducible apply State.clearPart_keeps
    | with_reducible apply State.releaseOrders_keeps
    | with_reducible apply Keeps.fold
    | with_reducible apply Keeps.fold1
    | with_reducible apply Keeps.fold2
    | split
    | (dsimp only)
    | with_reducible refine Keeps.lit ?_ rfl rfl rfl rfl (by first | exact Nat.le_refl _ | exact Nat.le_succ _) (by first | exact Nat.le_refl _ | exact Nat.le_succ _) (by first | exact List.prefix_rfl | exact List.prefix_append _ _) (by first | exact List.prefix_rfl | exact List.prefix_append _ _) (by first | exact List.prefix_rfl | exact List.prefix_append _ _) (by first | exact List.prefix_rfl | exact List.prefix_append _ _) (by first | exact List.prefix_rfl | exact List.prefix_append _ _) (by first | exact List.prefix_rfl | exact List.prefix_append _ _)

end Sys2Proof.Machine
end

