-- ==== Sys2Proof/Laws/KeepsMgmt.lean ====
section
/-! SUPPORT. What the operations of Machine/Mgmt.lean keep (Keeps). -/
namespace Sys2Proof.Machine

theorem State.readRegs_keeps {s0 : State} (n : Nat) : ∀ {s : State} {off : Nat}, Keeps s0 s → Keeps s0 (State.readRegs s off n).2 := by
  induction n with
  | zero =>
    intro s off h
    unfold State.readRegs
    repeat' first
      | with_reducible first | exact h | apply State.hostAccess_keeps | refine Keeps.thd (by assumption) ?_
          | refine Keeps.snd (by assumption) ?_ | refine Keeps.fst (by assumption) ?_
      | intro _
      | split
      | (dsimp only)
  | succ n ih =>
    intro s off h
    unfold State.readRegs
    repeat' first
      | with_reducible first | exact h | apply ih | apply State.hostAccess_keeps | refine Keeps.thd (by assumption) ?_
          | refine Keeps.snd (by assumption) ?_ | refine Keeps.fst (by assumption) ?_
      | intro _
      | split
      | (dsimp only)

theorem State.managed_keeps {s0 : State} {s : State} {f : State → State} (h : Keeps s0 s) (hf : ∀ t, Keeps s0 t → Keeps s0 (f t)) :
    Keeps s0 (State.managed s f) := by
  unfold State.managed
  split
  · exact hf _ h
  · exact h

theorem State.status_keeps {s0 : State} {s : State} {st : Nat} (h : Keeps s0 s) : Keeps s0 (State.status s st) := by
  unfold State.status
  repeat' first
    | with_reducible first | exact h | assumption | apply State.reply_keeps
    | intro _
    | split
    | (dsimp only)

theorem execGetId_keeps (s : State) (t : State) (g : execGetId s = .next t) : Keeps s t := by
  have h := Keeps.refl s
  unfold execGetId at g
  injection g with g
  subst g
  repeat' first
    | with_reducible first | exact h | assumption | apply State.reply_keeps | apply State.managed_keeps
    | intro _
    | split
    | (dsimp only)

theorem execGetStatus_keeps (off len : Nat) (s : State) (t : State) (g : execGetStatus off len s = .next t) : Keeps s t := by
  have h := Keeps.refl s
  unfold execGetStatus at g
  injection g with g
  subst g
  repeat' first
    | with_reducible first | exact h | assumption | apply State.reply_keeps | apply State.managed_keeps
          | apply State.status_keeps
    | intro _
    | split
    | (dsimp only)

theorem execGetEnv_keeps (s : State) (t : State) (g : execGetEnv s = .next t) : Keeps s t := by
  have h := Keeps.refl s
  unfold execGetEnv at g
  injection g with g
  subst g
  repeat' first
    | with_reducible first | exact h | assumption | apply State.reply_keeps | apply State.managed_keeps
    | intro _
    | split
    | (dsimp only)

theorem execSetAllot_keeps (allot lease : Nat) (s : State) (t : State) (g : execSetAllot allot lease s = .next t) : Keeps s t := by
  have h := Keeps.refl s
  unfold execSetAllot at g
  injection g with g
  subst g
  repeat' first
    | with_reducible first | exact h | assumption | apply State.setAllot_keeps | apply State.managed_keeps
          | apply State.status_keeps
    | intro _
    | split
    | (dsimp only)

theorem execSetGrade_keeps (grade : Nat) (s : State) (t : State) (g : execSetGrade grade s = .next t) : Keeps s t := by
  have h := Keeps.refl s
  unfold execSetGrade at g
  injection g with g
  subst g
  repeat' first
    | with_reducible first | exact h | assumption | apply State.setFld_keeps | apply State.recap_keeps
          | apply State.writeSettings_keeps | apply State.managed_keeps | apply State.status_keeps
    | intro _
    | split
    | (dsimp only)

theorem execSetNode_keeps (want : Nat) (s : State) (t : State) (g : execSetNode want s = .next t) : Keeps s t := by
  have h := Keeps.refl s
  unfold execSetNode at g
  injection g with g
  subst g
  repeat' first
    | with_reducible first | exact h | assumption | apply State.setFld_keeps | apply State.writeSettings_keeps
          | apply State.managed_keeps | apply State.status_keeps
    | intro _
    | split
    | (dsimp only)

/-- SET_MONKEY keeps everything but the monitor key (R444). -/
theorem execSetMonkey_keeps (key : BitVec 256) (s : State) (t : State) (g : execSetMonkey key s = .next t) :
    Keeps s t ∨ Keeps { s with flash := { s.flash with monkey := key } } t := by
  unfold execSetMonkey State.managed at g
  injection g with g
  split at g
  · right
    subst g
    exact State.status_keeps (State.setFld_keeps (Keeps.refl _))
  · left
    subst g
    exact Keeps.refl _

theorem execGetLast_keeps (s : State) (t : State) (g : execGetLast s = .next t) : Keeps s t := by
  have h := Keeps.refl s
  unfold execGetLast at g
  injection g with g
  subst g
  repeat' first
    | with_reducible first | exact h | assumption | apply State.managed_keeps | apply OKeeps.getD
    | intro _
    | split
    | (dsimp only)
    | with_reducible refine Keeps.lit ?_ rfl rfl rfl rfl ?_ ?_ ?_ ?_ ?_ ?_ ?_ ?_
    | exact Nat.le_refl _
    | exact Nat.le_succ _
    | exact List.prefix_rfl
    | exact List.prefix_append _ _

theorem execRegRead_keeps (off count : Nat) (s : State) (t : State) (g : execRegRead off count s = .next t) : Keeps s t := by
  have h := Keeps.refl s
  unfold execRegRead at g
  injection g with g
  subst g
  repeat' first
    | with_reducible first | exact h | assumption | apply State.reply_keeps | apply State.readRegs_keeps
          | apply State.managed_keeps | apply State.status_keeps | refine Keeps.thd (by assumption) ?_
          | refine Keeps.snd (by assumption) ?_ | refine Keeps.fst (by assumption) ?_
    | intro _
    | split
    | (dsimp only)

theorem execRegWrite_keeps (off : Nat) (value : W32) (s : State) (t : State) (g : execRegWrite off value s = .next t) : Keeps s t := by
  have h := Keeps.refl s
  unfold execRegWrite at g
  injection g with g
  subst g
  repeat' first
    | with_reducible first | exact h | assumption | apply State.mgmtWrite_keeps | apply State.managed_keeps
    | intro _
    | split
    | (dsimp only)

theorem execDomain_keeps (kind index on : Nat) (s : State) (t : State) (g : execDomain kind index on s = .next t) : Keeps s t := by
  have h := Keeps.refl s
  unfold execDomain at g
  injection g with g
  subst g
  repeat' first
    | with_reducible first | exact h | assumption | apply State.requestOn_keeps | apply State.requestOff_keeps
          | apply State.managed_keeps | apply State.status_keeps
    | intro _
    | split
    | (dsimp only)

theorem execPairReset_keeps (pair : Nat) (s : State) (t : State) (g : execPairReset pair s = .next t) : Keeps s t := by
  have h := Keeps.refl s
  unfold execPairReset at g
  injection g with g
  subst g
  repeat' first
    | with_reducible first | exact h | assumption | apply State.resetPair_keeps | apply State.managed_keeps
          | apply State.status_keeps
    | intro _
    | split
    | (dsimp only)

theorem execTakeover_keeps (s : State) (t : State) (g : execTakeover s = .next t) : Keeps s t := by
  have h := Keeps.refl s
  unfold execTakeover at g
  injection g with g
  subst g
  repeat' first
    | with_reducible first | exact h | assumption | apply State.takeover_keeps | apply State.managed_keeps
          | apply State.status_keeps
    | intro _
    | split
    | (dsimp only)

theorem execModuleReset_keeps (key : Nat) (s : State) (t : State) (g : execModuleReset key s = .next t) : Keeps s t := by
  have h := Keeps.refl s
  unfold execModuleReset at g
  injection g with g
  subst g
  repeat' first
    | with_reducible first | exact h | assumption | apply State.moduleReset_keeps | apply State.managed_keeps
          | apply State.status_keeps
    | intro _
    | split
    | (dsimp only)

theorem execLogRead_keeps (src index count : Nat) (s : State) (t : State) (g : execLogRead src index count s = .next t) : Keeps s t := by
  have h := Keeps.refl s
  unfold execLogRead at g
  injection g with g
  subst g
  repeat' first
    | with_reducible first | exact h | assumption | apply State.reply_keeps | apply State.managed_keeps
          | apply State.status_keeps
    | intro _
    | split
    | (dsimp only)

theorem execUnknownOpc_keeps (opc : Nat) (s : State) (t : State) (g : execUnknownOpc opc s = .next t) : Keeps s t := by
  have h := Keeps.refl s
  unfold execUnknownOpc at g
  injection g with g
  subst g
  repeat' first
    | with_reducible first | exact h | assumption | apply State.managed_keeps | apply State.status_keeps
    | intro _
    | split
    | (dsimp only)

theorem State.onBus_keeps {s0 : State} {s : State} {f : State → State} (h : Keeps s0 s) (hf : ∀ t, Keeps s0 t → Keeps s0 (f t)) :
    Keeps s0 (State.onBus s f) := by
  unfold State.onBus
  split
  · exact hf _ h
  · exact h

theorem State.answerBus_keeps {s0 : State} {s : State} {bs : List Byte} (h : Keeps s0 s) : Keeps s0 (State.answerBus s bs) := by
  unfold State.answerBus
  repeat' first
    | with_reducible first | exact h | assumption
    | intro _
    | split
    | (dsimp only)
    | with_reducible refine Keeps.lit ?_ rfl rfl rfl rfl ?_ ?_ ?_ ?_ ?_ ?_ ?_ ?_
    | exact Nat.le_refl _
    | exact Nat.le_succ _
    | exact List.prefix_rfl
    | exact List.prefix_append _ _

theorem execAssignAddress_keeps (udid : BitVec 128) (addr : Nat) (s : State) (t : State) (g : execAssignAddress udid addr s = .next t) : Keeps s t := by
  have h := Keeps.refl s
  unfold execAssignAddress at g
  injection g with g
  subst g
  repeat' first
    | with_reducible first | exact h | assumption | apply State.setFld_keeps | apply State.nextStep_keeps
          | apply State.onBus_keeps
    | intro _
    | split
    | (dsimp only)
    | with_reducible refine Keeps.lit ?_ rfl rfl rfl rfl ?_ ?_ ?_ ?_ ?_ ?_ ?_ ?_
    | exact Nat.le_refl _
    | exact Nat.le_succ _
    | exact List.prefix_rfl
    | exact List.prefix_append _ _

theorem execPrepareToArp_keeps (s : State) (t : State) (g : execPrepareToArp s = .next t) : Keeps s t := by
  have h := Keeps.refl s
  unfold execPrepareToArp at g
  injection g with g
  subst g
  repeat' first
    | with_reducible first | exact h | assumption | apply State.setFld_keeps | apply State.onBus_keeps
    | intro _
    | split
    | (dsimp only)

theorem execResetDevice_keeps (directed : Option Nat) (s : State) (t : State) (g : execResetDevice directed s = .next t) : Keeps s t := by
  have h := Keeps.refl s
  unfold execResetDevice at g
  injection g with g
  subst g
  repeat' first
    | with_reducible first | exact h | assumption | apply State.setFld_keeps | apply State.onBus_keeps
    | intro _
    | split
    | (dsimp only)

theorem execGetUdid_keeps (directed : Option Nat) (s : State) (t : State) (g : execGetUdid directed s = .next t) : Keeps s t := by
  have h := Keeps.refl s
  unfold execGetUdid at g
  injection g with g
  subst g
  repeat' first
    | with_reducible first | exact h | assumption | apply State.onBus_keeps | apply State.answerBus_keeps
    | intro _
    | split
    | (dsimp only)

theorem execAlertResponseAddress_keeps (wins : Bool) (s : State) (t : State) (g : execAlertResponseAddress wins s = .next t) : Keeps s t := by
  have h := Keeps.refl s
  unfold execAlertResponseAddress at g
  injection g with g
  subst g
  repeat' first
    | with_reducible first | exact h | assumption | apply State.onBus_keeps | apply State.answerBus_keeps
    | intro _
    | split
    | (dsimp only)
    | with_reducible refine Keeps.lit ?_ rfl rfl rfl rfl ?_ ?_ ?_ ?_ ?_ ?_ ?_ ?_
    | exact Nat.le_refl _
    | exact Nat.le_succ _
    | exact List.prefix_rfl
    | exact List.prefix_append _ _

theorem execNotifyArpMaster_keeps (lost : Bool) (s : State) (t : State) (g : execNotifyArpMaster lost s = .next t) : Keeps s t := by
  have h := Keeps.refl s
  unfold execNotifyArpMaster at g
  injection g with g
  subst g
  repeat' first
    | with_reducible first | exact h | assumption | apply State.notifySent_keeps | apply State.onBus_keeps
    | intro _
    | split
    | (dsimp only)
    | with_reducible refine Keeps.lit ?_ rfl rfl rfl rfl ?_ ?_ ?_ ?_ ?_ ?_ ?_ ?_
    | exact Nat.le_refl _
    | exact Nat.le_succ _
    | exact List.prefix_rfl
    | exact List.prefix_append _ _

theorem execBusFree_keeps (lost : Bool) (s : State) (t : State) (g : execBusFree lost s = .next t) : Keeps s t := by
  have h := Keeps.refl s
  unfold execBusFree at g
  injection g with g
  subst g
  repeat' first
    | with_reducible first | exact h | assumption | apply State.notifySent_keeps | apply State.onBus_keeps
    | intro _
    | split
    | (dsimp only)
    | with_reducible refine Keeps.lit ?_ rfl rfl rfl rfl ?_ ?_ ?_ ?_ ?_ ?_ ?_ ?_
    | exact Nat.le_refl _
    | exact Nat.le_succ _
    | exact List.prefix_rfl
    | exact List.prefix_append _ _

theorem execSmbusClockTimeout_keeps (s : State) (t : State) (g : execSmbusClockTimeout s = .next t) : Keeps s t := by
  have h := Keeps.refl s
  unfold execSmbusClockTimeout at g
  injection g with g
  subst g
  repeat' first
    | with_reducible first | exact h | assumption | apply State.onBus_keeps
    | intro _
    | split
    | (dsimp only)
    | with_reducible refine Keeps.lit ?_ rfl rfl rfl rfl ?_ ?_ ?_ ?_ ?_ ?_ ?_ ?_
    | exact Nat.le_refl _
    | exact Nat.le_succ _
    | exact List.prefix_rfl
    | exact List.prefix_append _ _

end Sys2Proof.Machine
end

