-- ==== Sys2Proof/Laws/KeepsMonitor.lean ====
section
/-! SUPPORT. What the operations of Machine/Monitor.lean keep (Keeps). -/
namespace Sys2Proof.Machine

theorem State.line_keeps {s0 : State} {s : State} {f : State → State} (h : Keeps s0 s) (hf : ∀ t, Keeps s0 t → Keeps s0 (f t)) :
    Keeps s0 (State.line s f) := by
  unfold State.line
  split
  · exact h
  · exact hf _ (h.trans ⟨rfl, rfl, rfl, id, Nat.le_refl _, Nat.le_refl _, List.prefix_rfl, List.prefix_rfl, List.prefix_rfl, List.prefix_rfl,
      List.prefix_rfl, List.prefix_rfl⟩)

theorem State.say_keeps {s0 : State} {s : State} {data : List Byte} (h : Keeps s0 s) : Keeps s0 (State.say s data) := by
  unfold State.say
  repeat' first
    | with_reducible first | exact h | assumption | apply State.print_keeps
    | intro _
    | split
    | (dsimp only)

theorem State.unlockedLine_keeps {s0 : State} {s : State} {f : State → State} (h : Keeps s0 s) (hf : ∀ t, Keeps s0 t → Keeps s0 (f t)) :
    Keeps s0 (State.unlockedLine s f) := by
  unfold State.unlockedLine
  apply State.line_keeps h
  intro t ht
  split
  · exact hf _ ht
  · exact State.print_keeps ht

theorem execMonHelp_keeps (s : State) (t : State) (g : execMonHelp s = .next t) : Keeps s t := by
  have h := Keeps.refl s
  unfold execMonHelp at g
  injection g with g
  subst g
  repeat' first
    | with_reducible first | exact h | assumption | apply State.log_keeps | apply State.takeover_keeps
          | apply State.print_keeps | apply State.line_keeps | apply State.say_keeps
    | intro _
    | split
    | (dsimp only)

theorem execMonId_keeps (s : State) (t : State) (g : execMonId s = .next t) : Keeps s t := by
  have h := Keeps.refl s
  unfold execMonId at g
  injection g with g
  subst g
  repeat' first
    | with_reducible first | exact h | assumption | apply State.line_keeps | apply State.say_keeps
    | intro _
    | split
    | (dsimp only)

theorem execMonStep_keeps (s : State) (t : State) (g : execMonStep s = .next t) : Keeps s t := by
  have h := Keeps.refl s
  unfold execMonStep at g
  injection g with g
  subst g
  repeat' first
    | with_reducible first | exact h | assumption | apply State.line_keeps | apply State.say_keeps
    | intro _
    | split
    | (dsimp only)

theorem execMonRd_keeps (off n : Nat) (s : State) (t : State) (g : execMonRd off n s = .next t) : Keeps s t := by
  have h := Keeps.refl s
  unfold execMonRd at g
  injection g with g
  subst g
  repeat' first
    | with_reducible first | exact h | assumption | apply State.print_keeps | apply State.readRegs_keeps
          | apply State.line_keeps | apply State.say_keeps | refine Keeps.thd (by assumption) ?_
          | refine Keeps.snd (by assumption) ?_ | refine Keeps.fst (by assumption) ?_
    | intro _
    | split
    | (dsimp only)

theorem execMonPage_keeps (page off len : Nat) (s : State) (t : State) (g : execMonPage page off len s = .next t) : Keeps s t := by
  have h := Keeps.refl s
  unfold execMonPage at g
  injection g with g
  subst g
  repeat' first
    | with_reducible first | exact h | assumption | apply State.print_keeps | apply State.line_keeps
          | apply State.say_keeps
    | intro _
    | split
    | (dsimp only)

theorem execMonEnv_keeps (s : State) (t : State) (g : execMonEnv s = .next t) : Keeps s t := by
  have h := Keeps.refl s
  unfold execMonEnv at g
  injection g with g
  subst g
  repeat' first
    | with_reducible first | exact h | assumption | apply State.line_keeps | apply State.say_keeps
    | intro _
    | split
    | (dsimp only)

theorem execMonLog_keeps (src index n : Nat) (s : State) (t : State) (g : execMonLog src index n s = .next t) : Keeps s t := by
  have h := Keeps.refl s
  unfold execMonLog at g
  injection g with g
  subst g
  repeat' first
    | with_reducible first | exact h | assumption | apply State.print_keeps | apply State.line_keeps
          | apply State.say_keeps
    | intro _
    | split
    | (dsimp only)

theorem execMonBaud_keeps (rate : Nat) (s : State) (t : State) (g : execMonBaud rate s = .next t) : Keeps s t := by
  have h := Keeps.refl s
  unfold execMonBaud at g
  injection g with g
  subst g
  repeat' first
    | with_reducible first | exact h | assumption | apply State.setFld_keeps | apply State.print_keeps
          | apply State.line_keeps | apply State.say_keeps | refine Keeps.thd (by assumption) ?_
          | refine Keeps.snd (by assumption) ?_ | refine Keeps.fst (by assumption) ?_
    | intro _
    | split
    | (dsimp only)
    | with_reducible refine Keeps.lit ?_ rfl rfl rfl rfl ?_ ?_ ?_ ?_ ?_ ?_ ?_ ?_
    | exact Nat.le_refl _
    | exact Nat.le_succ _
    | exact List.prefix_rfl
    | exact List.prefix_append _ _

theorem execBaudRevert_keeps (s : State) (t : State) (g : execBaudRevert s = .next t) : Keeps s t := by
  have h := Keeps.refl s
  unfold execBaudRevert at g
  injection g with g
  subst g
  repeat' first
    | with_reducible first | exact h | assumption | apply State.setFld_keeps
    | intro _
    | split
    | (dsimp only)
    | with_reducible refine Keeps.lit ?_ rfl rfl rfl rfl ?_ ?_ ?_ ?_ ?_ ?_ ?_ ?_
    | exact Nat.le_refl _
    | exact Nat.le_succ _
    | exact List.prefix_rfl
    | exact List.prefix_append _ _

theorem State.unlockFailed_keeps {s0 : State} {s : State} (h : Keeps s0 s) : Keeps s0 (State.unlockFailed s) := by
  unfold State.unlockFailed
  repeat' first
    | with_reducible first | exact h | assumption | apply State.setFld_keeps | apply State.addFld_keeps
    | intro _
    | split
    | (dsimp only)
    | with_reducible refine Keeps.lit ?_ rfl rfl rfl rfl ?_ ?_ ?_ ?_ ?_ ?_ ?_ ?_
    | exact Nat.le_refl _
    | exact Nat.le_succ _
    | exact List.prefix_rfl
    | exact List.prefix_append _ _

theorem execMonUnlock_keeps (resp : Option W32) (s : State) (t : State) (g : execMonUnlock resp s = .next t) : Keeps s t := by
  have h := Keeps.refl s
  unfold execMonUnlock at g
  injection g with g
  subst g
  repeat' first
    | with_reducible first | exact h | assumption | apply State.line_keeps | apply State.print_keeps
          | apply State.draw_keeps | apply State.say_keeps | apply State.setFld_keeps | apply State.unlockFailed_keeps
          | refine Keeps.thd (by assumption) ?_ | refine Keeps.snd (by assumption) ?_
          | refine Keeps.fst (by assumption) ?_
    | intro _
    | split
    | (dsimp only)
    | with_reducible refine Keeps.lit ?_ rfl rfl rfl rfl ?_ ?_ ?_ ?_ ?_ ?_ ?_ ?_
    | exact Nat.le_refl _
    | exact Nat.le_succ _
    | exact List.prefix_rfl
    | exact List.prefix_append _ _

theorem State.lockMonitor_keeps {s0 : State} {s : State} (h : Keeps s0 s) : Keeps s0 (State.lockMonitor s) := by
  unfold State.lockMonitor
  repeat' first
    | with_reducible first | exact h | assumption | apply State.setFld_keeps
    | intro _
    | split
    | (dsimp only)

theorem execMonLock_keeps (s : State) (t : State) (g : execMonLock s = .next t) : Keeps s t := by
  have h := Keeps.refl s
  unfold execMonLock at g
  injection g with g
  subst g
  repeat' first
    | with_reducible first | exact h | assumption | apply State.line_keeps | apply State.say_keeps
          | apply State.lockMonitor_keeps
    | intro _
    | split
    | (dsimp only)

theorem execMonitorIdleLock_keeps (s : State) (t : State) (g : execMonitorIdleLock s = .next t) : Keeps s t := by
  have h := Keeps.refl s
  unfold execMonitorIdleLock at g
  injection g with g
  subst g
  repeat' first
    | with_reducible first | exact h | assumption | apply State.lockMonitor_keeps
    | intro _
    | split
    | (dsimp only)

theorem execChallengeExpiry_keeps (s : State) (t : State) (g : execChallengeExpiry s = .next t) : Keeps s t := by
  have h := Keeps.refl s
  unfold execChallengeExpiry at g
  injection g with g
  subst g
  repeat' first
    | with_reducible first | exact h | assumption
    | intro _
    | split
    | (dsimp only)
    | with_reducible refine Keeps.lit ?_ rfl rfl rfl rfl ?_ ?_ ?_ ?_ ?_ ?_ ?_ ?_
    | exact Nat.le_refl _
    | exact Nat.le_succ _
    | exact List.prefix_rfl
    | exact List.prefix_append _ _

theorem execUnlockLockoutEnd_keeps (s : State) (t : State) (g : execUnlockLockoutEnd s = .next t) : Keeps s t := by
  have h := Keeps.refl s
  unfold execUnlockLockoutEnd at g
  injection g with g
  subst g
  repeat' first
    | with_reducible first | exact h | assumption | apply State.setFld_keeps
    | intro _
    | split
    | (dsimp only)

theorem execMonWr_keeps (off : Nat) (value : W32) (s : State) (t : State) (g : execMonWr off value s = .next t) : Keeps s t := by
  have h := Keeps.refl s
  unfold execMonWr at g
  injection g with g
  subst g
  repeat' first
    | with_reducible first | exact h | assumption | apply State.monWrite_keeps | apply State.line_keeps
    | intro _
    | split
    | (dsimp only)

theorem execMonResetModule_keeps (s : State) (t : State) (g : execMonResetModule s = .next t) : Keeps s t := by
  have h := Keeps.refl s
  unfold execMonResetModule at g
  injection g with g
  subst g
  repeat' first
    | with_reducible first | exact h | assumption | apply State.moduleReset_keeps | apply State.say_keeps
          | apply State.unlockedLine_keeps
    | intro _
    | split
    | (dsimp only)

theorem execMonResetPair_keeps (pair : Nat) (s : State) (t : State) (g : execMonResetPair pair s = .next t) : Keeps s t := by
  have h := Keeps.refl s
  unfold execMonResetPair at g
  injection g with g
  subst g
  repeat' first
    | with_reducible first | exact h | assumption | apply State.resetPair_keeps | apply State.print_keeps
          | apply State.say_keeps | apply State.unlockedLine_keeps
    | intro _
    | split
    | (dsimp only)

theorem execMonTakeover_keeps (s : State) (t : State) (g : execMonTakeover s = .next t) : Keeps s t := by
  have h := Keeps.refl s
  unfold execMonTakeover at g
  injection g with g
  subst g
  repeat' first
    | with_reducible first | exact h | assumption | apply State.takeover_keeps | apply State.print_keeps
          | apply State.say_keeps | apply State.unlockedLine_keeps
    | intro _
    | split
    | (dsimp only)

end Sys2Proof.Machine
end

