-- ==== Sys2Proof/WellFormed.lean ====
section
/-! DEFINITION. Well-formed commands: every operand names a thing that the module has (R13 to R15, R21,
R26, R241, R330, R345). -/
namespace Sys2Proof

/-- A scratchpad word of a clove (R13, R165). -/
def Flip.wf (f : Flip) : Bool := decide (f.x < 1536) && decide (f.y < 704) && decide (f.word < 4096)

/-- Coordinates of a clove in the module (R13), and its upsets. -/
def Issue.wf (i : Issue) : Bool := decide (i.x < 1536) && decide (i.y < 704) && i.ups.all Flip.wf

/-- Reports of on-die ECC name channels of the 24 stacks (R241). -/
def HbmFinds.wf (f : HbmFinds) : Bool := f.onDie.all (fun c => decide (c < 24 * 32))

/-- A word that fails on a link on its way into a scratchpad names a clove of the module (R13, R218). -/
def LinkPlace.wf : LinkPlace → Bool
  | .mesh _ => true
  | .request _ => true
  | .landed dst => decide (dst < 1536 * 704)

/-- What self-test and training find names fields, links, channels and pairs that exist (R13, R21, R28, R241). -/
def Findings.wf (f : Findings) : Bool :=
  f.rows.all (fun e => decide (e.1 < 96)) && f.wires.all (fun e => decide (e.1 < 96) && decide (e.2.1 < 4) && decide (e.2.2 < 8)) &&
    f.hbmWires.all (fun e => decide (e.1 < 24) && decide (e.2 < 32)) &&
    f.chans.all (fun e => decide (e.1 < 24) && decide (e.2 < 32)) && f.pairs.all (fun k => decide (k < 4))

/-- A split of the cache over a group of modules, and this module's place in it (R289, R290). -/
def Split.wf (p : Split) : Bool := decide (p.layout ≤ 2) && decide (p.member < p.modules)

/-- Failed bridge wires by channel of a stack (R241). -/
def chanWires (w : List (Nat × Nat)) : Bool := w.all (fun e => decide (e.1 < 32))

/-- A domain of the module, with the channels of its wires (R241, R373). -/
def DomainUp.wf (d : DomainUp) : Bool := decide (d.dom < 1292) && chanWires d.trained.wires

/-- The opcode of an instruction's word (R82, R142, R169, R180, R196, R223). -/
def Issue.op (i : Issue) : Nat := i.word.toNat % 16

/-- The SUB field of an instruction's word. -/
def Issue.sub (i : Issue) : Nat := i.word.toNat / 32 % 8

/-- The SCOPE field of a FABRIC instruction's word (R223). -/
def Issue.scope (i : Issue) : Nat := i.word.toNat / 2 ^ 28 % 4

/-- An upset inside a gang of at most 16 by 16 cloves (R56, R74). -/
def Upset.wf (u : Upset) : Bool := decide (u.dx < 16) && decide (u.dy < 16) && decide (u.col < 16)

/-- The upsets of an array's command lie in a gang and in scratchpads (R56, R165). -/
def Upsets.wf (u : Upsets) : Bool := u.cells.all Upset.wf && u.words.all Flip.wf

/-- A frame on one of the 14 ports, from one partition to another (R345, R348). -/
def Frame.wf (f : Frame) : Bool :=
  decide (f.port < 14) && decide (f.snode < 2 ^ 24) && decide (f.spart < 256) && decide (f.dpart < 256)

/-- An order to a four-byte offset of its window (R8). -/
def Order.wf (o : Order) : Bool := decide (o.off % 4 = 0) && decide (o.off < 2 ^ 24)

/-- The operands of a command name things that exist, and an instruction stands under the row of its opcode. A reserved
opcode, SUB or SCOPE stands under the first row of its family, which refuses it. -/
def Instr.wf : Instr → Bool
  | .modResetNLow => true
  | .modResetNHigh => true
  | .busbarGood => true
  | .busbarBrownoutWarn _ => true
  | .busbarWarnClear _ => true
  | .powerLoss => true
  | .clampLimit _ _ _ => true
  | .openClamp _ _ => true
  | .coolantSensorUpdate _ _ _ => true
  | .coolantFlowReturn => true
  | .flowSafetyTimeout => true
  | .airSensorUpdate _ _ _ => true
  | .stripTempUpdate field strip _ => decide (field < 96) && decide (strip < 12)
  | .hbmTempUpdate stack _ => decide (stack < 24)
  | .fieldBrownoutWarn field _ => decide (field < 96)
  | .fieldBrownoutEnd field _ _ => decide (field < 96)
  | .fieldOvercurrent field _ => decide (field < 96)
  | .phaseFail field => decide (field < 96)
  | .phaseSpareIn field => decide (field < 96)
  | .gangCfg i => i.wf && decide (i.op ≤ 1)
  | .load i => i.wf && i.op == 2
  | .swap i => i.wf && i.op == 3
  | .stream i => i.wf && i.op == 4
  | .vectorResult a upsets => decide (a.x < 1536) && decide (a.y < 704) && upsets.wf
  | .drainDone a upsets => decide (a.x < 1536) && decide (a.y < 704) && upsets.wf
  | .passStallResume a => decide (a.x < 1536) && decide (a.y < 704)
  | .sfuElem i => i.wf && i.op == 8
  | .sfuBin i => i.wf && i.op == 9
  | .sfuMoments i => i.wf && i.op == 10
  | .sfuMerge i => i.wf && i.op == 11
  | .sfuNorm i => i.wf && i.op == 12
  | .sfuSmaxfin i => i.wf && i.op == 13
  | .epiWrite i => i.wf && i.op == 14
  | .rgnSet i => i.wf && i.op == 5 && (i.sub == 0 || decide (2 < i.sub))
  | .pop i => i.wf && i.op == 5 && i.sub == 1
  | .drop i => i.wf && i.op == 5 && i.sub == 2
  | .remoteRead i => i.wf && i.op == 6 && (i.sub == 0 || decide (3 < i.sub))
  | .remoteWrite i => i.wf && i.op == 6 && i.sub == 1
  | .remoteSlot i => i.wf && i.op == 6 && i.sub == 2
  | .remoteUnbind i => i.wf && i.op == 6 && i.sub == 3
  | .remoteAccessArrival src dst => decide (src < 1536 * 704) && decide (dst.clove < 1536 * 704) && dst.ups.all Flip.wf
  | .remoteAck src dst => decide (src < 1536 * 704) && decide (dst < 1536 * 704)
  | .grantArrival src dst => decide (src < 1536 * 704 + 4096) && decide (dst < 1536 * 704 + 4096)
  | .creditReturnArrival src dst => decide (src < 1536 * 704 + 4096) && decide (dst < 1536 * 704 + 4096)
  | .unbindArrival src dst => decide (src < 1536 * 704 + 4096) && decide (dst < 1536 * 704 + 4096)
  | .scrubRead x y _ => decide (x < 1536) && decide (y < 704)
  | .scrubWriteback x y => decide (x < 1536) && decide (y < 704)
  | .scrubForcedSlot x y bank _ => decide (x < 1536) && decide (y < 704) && decide (bank < 16)
  | .fldScrCtrlClrCnt _ field _ => decide (field < 96)
  | .loop i => i.wf && i.op == 7
  | .loopL0Iteration x y => decide (x < 1536) && decide (y < 704)
  | .loopL4Iteration x y => decide (x < 1536) && decide (y < 704)
  | .dispatchFetch x y => decide (x < 1536) && decide (y < 704)
  | .hotHoldExpiry x y => decide (x < 1536) && decide (y < 704)
  | .sqSet i => i.wf && i.op == 15 && (i.sub == 0 || decide (3 < i.sub))
  | .sqPost i => i.wf && i.op == 15 && i.sub == 1
  | .fenceRemote i => i.wf && i.op == 15 && i.sub == 2 && (i.scope == 0 || i.scope == 3)
  | .fenceStore i => i.wf && i.op == 15 && i.sub == 2 && i.scope == 1
  | .fenceAll i => i.wf && i.op == 15 && i.sub == 2 && i.scope == 2
  | .fenceRelease x y => decide (x < 1536) && decide (y < 704)
  | .barrier i => i.wf && i.op == 15 && i.sub == 3
  | .barrierArrival part bid => decide (part < 32) && decide (bid.bid < 64) && bid.srcs.all (fun k => decide (k < 1536 * 704))
  | .sqRequestIssue part queue arrival => decide (part < 32) && decide (queue < 128) && arrival.ups.all Flip.wf
  | .memRequestServe stack _ _ minor => decide (stack < 24) && minor.onDie.all (fun c => decide (c < 24 * 32))
  | .sqLoadDelivery part queue _ => decide (part < 32) && decide (queue < 128)
  | .sqTransferComplete part queue => decide (part < 32) && decide (queue < 128)
  | .linkWordFail field seam link _ place _ => decide (field < 96) && decide (seam < 4) && decide (link < 8) && place.wf
  | .hbmCorrectedWriteback stack => decide (stack < 24)
  | .patrolRead stack _ => decide (stack < 24)
  | .channelRetrain stack chan => decide (stack < 24) && decide (chan < 32)
  | .memEpochCtrlGo _ _ => true
  | .hbmEpoch stack trained => decide (stack < 24) && chanWires trained.wires
  | .prtHbmWindowWrite _ off _ => decide (off < 2 ^ 24) && decide (off % 4 = 0)
  | .windowChangeEffect part win => decide (part < 32) && decide (win < 8)
  | .memSpillEntryWrite _ off _ => decide (off < 2 ^ 24) && decide (off % 4 = 0)
  | .tierCompletion _ _ _ => true
  | .tierTimeout _ => true
  | .pageTranslation part r => decide (part < 32) && r.found.wf
  | .pin part _ => decide (part < 32)
  | .unpin part _ => decide (part < 32)
  | .frameSpill part => decide (part.id < 32) && part.found.wf
  | .frameSpillDone part _ _ => decide (part < 32)
  | .frameFetch part _ => decide (part < 32)
  | .frameFetchDone part _ _ _ => decide (part < 32)
  | .readStreamVisit part r => decide (part < 32) && r.found.wf
  | .kvScatter part ring => decide (part < 32) && decide (ring < 8)
  | .appendColumnAccepted part append => decide (part < 32) && append.found.wf
  | .prtKvCtrlEn _ part _ => decide (part < 32)
  | .fldKvwCtrlClr _ field _ => decide (field < 96)
  | .prefillSubmit part ring => decide (part < 32) && decide (ring < 8)
  | .prefixRegister part ring => decide (part < 32) && decide (ring < 8)
  | .prefixRelease part ring => decide (part < 32) && decide (ring < 8)
  | .adapterLoad part ring => decide (part < 32) && decide (ring < 8)
  | .pause part ring => decide (part < 32) && decide (ring < 8)
  | .resume part ring => decide (part < 32) && decide (ring < 8)
  | .cancel part ring => decide (part < 32) && decide (ring < 8)
  | .exportRoute part ring => decide (part < 32) && decide (ring < 8)
  | .layerChunkLaunch group => decide (group.id < 32) && group.found.wf
  | .layerChunkDone group _ => decide (group < 32)
  | .firstTokenSample group _ _ => decide (group < 32)
  | .prtSrvCtrlEn _ part _ => decide (part < 32)
  | .prtSrvQuotaWrite _ part _ => decide (part < 32)
  | .sqTail _ part ring _ => decide (part < 32) && decide (ring < 8)
  | .cqHead _ part ring _ => decide (part < 32) && decide (ring < 8)
  | .descriptorFetch part => decide (part < 32)
  | .completionRecordWrite part ring => decide (part < 32) && decide (ring < 8)
  | .msiXHoldoffExpiry part ring => decide (part < 32) && decide (ring < 8)
  | .statusPageWrite _ _ _ => true
  | .weightLoad part ring => decide (part < 32) && decide (ring < 8)
  | .programLoad part ring => decide (part < 32) && decide (ring.ring < 8) && ring.split.wf
  | .hintHeavy part ring => decide (part < 32) && decide (ring < 8)
  | .fence part ring => decide (part < 32) && decide (ring < 8)
  | .collectiveBind part ring => decide (part < 32) && decide (ring < 8)
  | .messageTimeEnd orders => orders.all Order.wf
  | .hifOwnWrite _ _ => true
  | .prtGroupWrite _ part _ => decide (part < 32)
  | .prtLockSet _ part _ => decide (part < 32)
  | .prtSqCfgEn _ part ring _ => decide (part < 32) && decide (ring < 8)
  | .prtCqCfgEn _ part ring _ => decide (part < 32) && decide (ring < 8)
  | .attachLinkChange _ _ _ _ => true
  | .attachPowerState _ _ => true
  | .claim _ _ port => decide (port < 14)
  | .defend _ _ port => decide (port < 14)
  | .ack f => f.wf
  | .credit f => f.wf
  | .coll f => f.wf
  | .tierRdata f => f.wf
  | .tierWack f => f.wf
  | .mirrorCheck f => f.wf
  | .reservedFrame port => decide (port < 14)
  | .vngNodeClaim _ _ => true
  | .claimResend => true
  | .claimListenEnd => true
  | .claimBackoffEnd => true
  | .defendPeriodic => true
  | .portLinkChange port _ => decide (port < 14)
  | .laneFailing port lane => decide (port < 14) && decide (lane < 16)
  | .retrainWindow port lane _ => decide (port < 14) && decide (lane < 16)
  | .ackTimer _ => true
  | .resendTimer _ _ => true
  | .flowLost _ => true
  | .flowClose _ => true
  | .exportSend group => decide (group.id < 32) && group.found.wf
  | .prtVngCallen _ part _ => decide (part < 32)
  | .collPieceSend part call => decide (part < 32) && decide (call.id < 32) && call.found.wf
  | .collFail part call _ => decide (part < 32) && decide (call < 32)
  | .mirrorTimeout => true
  | .vngMirrorBind _ _ => true
  | .prtVngFlowqWrite _ part _ => decide (part < 32)
  | .prtVngGrploEn _ part _ => decide (part < 32)
  | .budgetUpdate _ _ _ => true
  | .powerAgentTick p _ => decide (p.field < 96)
  | .calibration field _ _ _ => decide (field < 96)
  | .prtPwrStripReq _ part c _ => decide (part < 32) && decide (c < 3)
  | .stripDownStart field strip => decide (field < 96) && decide (strip < 12)
  | .domainUpDone dom => dom.wf
  | .domainDownDone dom => decide (dom < 1292)
  | .railTargetReached field => decide (field < 96)
  | .ageingSweep field _ => decide (field < 96)
  | .setAllot _ _ => true
  | .leaseExpiry => true
  | .hintCheck group _ => decide (group < 32)
  | .hintBallastTimeout group => decide (group < 32)
  | .hintDeferExpiry group => decide (group < 32)
  | .throttleEventClose _ _ _ => true
  | .pwrCtrlClr _ _ => true
  | .startupStageDone found _ => found.wf
  | .startupStageLimit limit => limit.found.wf
  | .prtResetGo _ part => decide (part < 32)
  | .partitionResetDone part => decide (part < 32)
  | .prtResetZero _ part => decide (part < 32)
  | .zeroisingClearDone part => decide (part < 32)
  | .glbReset _ _ => true
  | .glbMapCtrlGo _ _ => true
  | .mapEpoch => true
  | .repairMapWrite _ => true
  | .lockstepDivergence pair => decide (pair < 4)
  | .watchdogExpiry pair => decide (pair < 4)
  | .pairRestartDone pair _ => decide (pair < 4)
  | .heartbeatLoss => true
  | .requestAbort group => decide (group < 32)
  | .abortTimeout group => decide (group < 32)
  | .stall group => decide (group < 32)
  | .gateTrailerSend part => decide (part < 32)
  | .gateReopen part => decide (part < 32)
  | .plogWrite => true
  | .errAlertClear _ _ => true
  | .getId => true
  | .getStatus _ _ => true
  | .getEnv => true
  | .setGrade _ => true
  | .setNode _ => true
  | .setMonkey _ => true
  | .getLast => true
  | .regRead off _ => decide (off < 2 ^ 24)
  | .regWrite off _ => decide (off < 2 ^ 24)
  | .domain _ _ _ => true
  | .pairReset pair => decide (pair < 4)
  | .takeover => true
  | .moduleReset _ => true
  | .logRead _ _ _ => true
  | .assignAddress _ _ => true
  | .prepareToArp => true
  | .resetDevice _ => true
  | .getUdid _ => true
  | .alertResponseAddress _ => true
  | .notifyArpMaster _ => true
  | .smbusClockTimeout => true
  | .monHelp => true
  | .monId => true
  | .monStep => true
  | .monRd off _ => decide (off < 2 ^ 24)
  | .monPage _ _ _ => true
  | .monEnv => true
  | .monLog _ _ _ => true
  | .monBaud _ => true
  | .monUnlock _ => true
  | .monLock => true
  | .monWr off _ => decide (off < 2 ^ 24)
  | .monResetModule => true
  | .monResetPair pair => decide (pair < 4)
  | .monTakeover => true
  | .baudRevert => true
  | .monitorIdleLock => true
  | .challengeExpiry => true
  | .unlockLockoutEnd => true
  | .fldIntCtrlClr _ field _ => decide (field < 96)
  | .registerWrite _ off _ => decide (off < 2 ^ 24)
  | .hostReadCompletion _ _ _ => true
  | .hostReadTimeout _ => true
  | .channelRetrainingDone stack chan _ => decide (stack < 24) && decide (chan < 32)
  | .plogSectorEraseDone => true
  | .lossOfBothServiceBlocks => true
  | .unknownOpc _ => true
  | .bar0AccessError _ off _ _ => decide (off < 2 ^ 24)
  | .busFree _ => true

end Sys2Proof
end

