-- ==== Sys2Proof/Tests/Slice0.lean ====
section
/-! SUPPORT. Tests: the hypotheses of every statement are met by states written here, each clause at a boundary of its
range; the spec's worked examples and published check values; single commands; and well-formedness. -/
set_option Elab.async false

open Sys2Proof Sys2Proof.Machine

/-- A statement applies: its hypotheses are met by the arguments it is given. -/
def Applies {P : Prop} (_ : P) : Prop := True

theorem Sys2Proof.Machine.Quiet.ofAll {s : State} (h : s.cloves.all (fun e => e.2.waiting.isEmpty && e.2.sfu.isEmpty) = true) : Quiet s := by
  intro e he
  have := List.all_eq_true.1 h e he
  simpa using this

/-- An instruction of clove (3, 5), unmarked. -/
def at35 (w : W128) : Issue := ⟨3, 5, w, false, []⟩

theorem Sys2Proof.Machine.Open.of {s : State} {i : Issue} (h : (i.ups.isEmpty &&
    s.cloves.all (fun e => e.2.waiting.isEmpty && e.2.sfu.isEmpty) &&
    !(s.clove (cloveNo i.x i.y)).halted (engineOf i.word) &&
    !s.fenced s.issueNo (cloveNo i.x i.y) (engineOf i.word)) = true) : Open s i := by
  simp only [Bool.and_eq_true, Bool.not_eq_true', List.isEmpty_iff] at h
  exact ⟨h.1.1.1, Quiet.ofAll (by simpa using h.1.1.2), h.1.2, h.2⟩

theorem SMap.at?_mem {α : Type} {m : SMap α} {i : Nat} {a : α} (h : m.at? i = some a) : (i, a) ∈ m := by
  induction m with
  | nil => simp [SMap.at?] at h
  | cons e m ih =>
    obtain ⟨k, v⟩ := e
    simp only [SMap.at?] at h
    split at h
    · simp_all
    · simp [ih h]

/-- Every word of a state is without error where every listed word is. -/
theorem allClean {s : State} (h : s.cloves.all (fun e => e.2.scratch.all (fun w => w.2.ecc == 0)) = true) (m a : Nat) :
    ((s.clove m).word a).ecc = 0 := by
  unfold State.clove SMap.atD Clove.word
  cases hc : s.cloves.at? m with
  | none => rfl
  | some c =>
    unfold SMap.atD
    cases hw : SMap.at? c.scratch (wrapWord a) with
    | none => simp only [Option.getD_some, hw]; rfl
    | some w =>
      have := List.all_eq_true.1 (List.all_eq_true.1 h _ (SMap.at?_mem hc)) _ (SMap.at?_mem hw)
      simpa [hw] using this

/-- Every word of a state is unmarked where every listed word is. -/
theorem allPlain {s : State} (h : s.cloves.all (fun e => e.2.scratch.all (fun w => !w.2.mark)) = true) (m a : Nat) :
    ((s.clove m).word a).mark = false := by
  unfold State.clove SMap.atD Clove.word
  cases hc : s.cloves.at? m with
  | none => rfl
  | some c =>
    unfold SMap.atD
    cases hw : SMap.at? c.scratch (wrapWord a) with
    | none => simp only [Option.getD_some, hw]; rfl
    | some w =>
      have := List.all_eq_true.1 (List.all_eq_true.1 h _ (SMap.at?_mem hc)) _ (SMap.at?_mem hw)
      simpa [hw] using this

/-- A state with registers set: register, block, index and value. -/
def Sys2Proof.Machine.State.withRegs (s : State) (rs : List (Reg × Nat × Nat × W32)) : State := rs.foldl (fun s r => s.setReg r.1 r.2.1 r.2.2.1 r.2.2.2) s

/-! ### Statements apply: Array instructions -/

/-- A set region of 4 slots of w words at a base, n of them full. -/
def region (base w n : Nat) : Region := { Region.unset with set := true, base := base, slotw := w, slots := 4, head := n % 4, fill := n }

/-- The clove (3, 5), with its strip on, as f leaves it. -/
def with35 (f : Clove → Clove) : State :=
  { State.reset with
    pwr := { State.reset.pwr with domains := [(0, ⟨.on, none, false⟩), (1290, ⟨.on, none, false⟩), (1291, ⟨.on, none, false⟩)] }
    cloves := [(cloveNo 3 5, f (Clove.fresh 3 5))] }

/-- The clove with its strip on and three regions of 8-bit vectors: 1 full, 2 and 3 empty. -/
def ready35 (m : Option Nat) : State := with35 (fun c => { c with
  regions := [(1, region 0 2 4), (2, region 8 2 0), (3, region 16 2 0)]
  arrA := { c.arrA with s0 := { RegSet.zero with mode := m, fmt := some 6 } } })

def gangWord : W128 := GangOp.toWord ⟨1, 1, 3, 0, 80⟩
def loadWord : W128 := LoadOp.toWord ⟨0, 0, 6, 0, 1, 0, 4095, 16, 16⟩
def swapWord : W128 := SwapOp.toWord ⟨0, 0, 0, 0, 0, 0⟩
def drainWord : W128 := SwapOp.toWord ⟨0, 2, 6, 0, 0, 0⟩
def streamWord (mode : BitVec 2) (n : BitVec 32) : W128 := StreamOp.toWord ⟨0, mode, 0, 0, 0, 6, 0, 0, 1, 3, 2, 6, 0, 0, 0, 0, 0, 6, n, 0⟩

theorem witness_UpsetsComeFirst (h : Obligations.UpsetsComeFirst) :
    Applies (h.1 State.reset { at35 gangWord with ups := [⟨3, 5, 4095, true⟩] } .gangCfg (by simp)) ∧
    Applies ((h.2.2 (ready35 none) ⟨1535, 703, 65535, false⟩).2.2.2 4095 (by decide)) := ⟨trivial, trivial⟩

theorem witness_GangCfgSetsBlock (h : Obligations.GangCfgSetsBlock) :
    Applies (h State.reset (at35 gangWord) (by decide +kernel) rfl (.of (by decide +kernel)) (by decide +kernel) (by decide +kernel)
      (by decide +kernel)) := trivial

theorem witness_LoadWritesBackground (h : Obligations.LoadWritesBackground) :
    Applies (h (ready35 none) (at35 loadWord) (by decide +kernel) rfl (.of (by decide +kernel)) (by decide +kernel) (by decide +kernel)
      (by decide +kernel) (by decide +kernel) (fun m _ => allClean (by decide +kernel) m)) := trivial

theorem witness_SwapExchangesOrDrains (h : Obligations.SwapExchangesOrDrains) :
    Applies (h.1 (ready35 (some 0)) (at35 swapWord) (by decide +kernel) rfl (.of (by decide +kernel)) (by decide +kernel) (by decide +kernel)
      (by decide +kernel) (by decide +kernel) (by decide +kernel)) ∧
    Applies (h.2 (ready35 (some 2)) (at35 drainWord) (by decide +kernel) rfl (.of (by decide +kernel)) (by decide +kernel) (by decide +kernel)
      (by decide +kernel) (by decide +kernel) (by decide +kernel) (by decide +kernel) (by decide +kernel) (by decide +kernel)
      (by decide +kernel) (by decide +kernel)) := ⟨trivial, trivial⟩

theorem witness_StreamStartsPass (h : Obligations.StreamStartsPass) :
    Applies (h (ready35 (some 0)) (at35 (streamWord 0 0)) (by decide +kernel) rfl (.of (by decide +kernel)) (by decide +kernel) (by decide +kernel)
      (by decide +kernel) (by decide +kernel) (by decide +kernel) (by decide +kernel) (by decide +kernel) (by decide +kernel)
      (by decide +kernel) (by decide +kernel) (by decide +kernel)) ∧
    Applies (h (ready35 (some 2)) (at35 (streamWord 2 4)) (by decide +kernel) rfl (.of (by decide +kernel)) (by decide +kernel) (by decide +kernel)
      (by decide +kernel) (by decide +kernel) (by decide +kernel) (by decide +kernel) (by decide +kernel) (by decide +kernel)
      (by decide +kernel) (by decide +kernel) (by decide +kernel)) := ⟨trivial, trivial⟩

/-! ### Statements apply: Passes and special functions -/

def work (drain : Bool) (w : W128) : Work := ⟨drain, w, false, 0, 0, 0, [], false, false, 7⟩
/-- The clove with started work in its array A. -/
def busy35 (u : Work) : State := with35 (fun c => { c with
  regions := [(1, region 0 2 4), (2, region 8 2 0), (3, region 16 2 0)]
  arrA := { c.arrA with work := [u], s0 := { RegSet.zero with mode := some 0, fmt := some 6 } } })

theorem witness_PassesRetireAndStall (h : Obligations.PassesRetireAndStall) :
    Applies (h.1 (busy35 (work false (streamWord 0 1))) ⟨3, 5, false⟩ [] (work false (streamWord 0 1)) (by decide +kernel) (by decide +kernel)) ∧
    Applies (h.2.1 (busy35 (work true drainWord)) ⟨3, 5, false⟩ [] (work true drainWord) [] (by decide +kernel) rfl (by decide +kernel)) ∧
    Applies (h.2.2 (busy35 { work false (streamWord 0 1) with stalled := true }) ⟨3, 5, false⟩ (.ofAll (by decide +kernel))) := ⟨trivial, trivial, trivial⟩

def sfuWord (op : BitVec 4) (epi : BitVec 6) (n : BitVec 32) : W128 := SfuOp.toWord ⟨op, 0, 1, 3, 2, 6, 6, epi, 0, 0, n, 16⟩
/-- The clove with regions of vectors 1 and 2 and of entries 3, and one epilogue entry. -/
def sfu35 : State := with35 (fun c => { c with
  regions := [(1, region 0 2 4), (2, region 8 2 0), (3, region 16 2 1)], epi := [(1, 0)] })
/-- The clove with a region of vectors and a region of moment entries. -/
def mom35 : State := with35 (fun c => { c with regions := [(1, region 0 2 4), (2, region 8 3 0)] })

theorem witness_SfuInstructionStarts (h : Obligations.SfuInstructionStarts) :
    Applies (h sfu35 (at35 (sfuWord 8 1 4)) (.sfuElem (at35 (sfuWord 8 1 4))) (by simp) (by decide +kernel) (by decide +kernel)
      ⟨.of (by decide +kernel), rfl, by decide +kernel, by decide +kernel, by decide +kernel, by decide +kernel, by decide +kernel,
       by decide +kernel, by decide +kernel⟩) ∧
    Applies (h sfu35 (at35 (sfuWord 13 0 4)) (.sfuSmaxfin (at35 (sfuWord 13 0 4))) (by simp) (by decide +kernel) (by decide +kernel)
      ⟨.of (by decide +kernel), rfl, by decide +kernel, by decide +kernel, by decide +kernel, by decide +kernel, by decide +kernel,
       by decide +kernel, by decide +kernel⟩) ∧
    Applies (h mom35 (at35 (sfuWord 10 0 0)) (.sfuMoments (at35 (sfuWord 10 0 0))) (by simp) (by decide +kernel) (by decide +kernel)
      ⟨.of (by decide +kernel), rfl, by decide +kernel, by decide +kernel, by decide +kernel, by decide +kernel, by decide +kernel,
       by decide +kernel, by decide +kernel⟩) := ⟨trivial, trivial, trivial⟩

/-! ### Statements apply: Rows, entries, regions and remote access -/

def sfuWork (op : BitVec 4) (n : Nat) : SfuWork := ⟨at35 (sfuWord op 0 1), 7, 0, 0, List.replicate n (0, false), List.replicate 3 (0, true), []⟩
/-- The clove with an SFU instruction whose row has been read. -/
def row35 (op : BitVec 4) (n : Nat) : State := with35 (fun c => { c with sfu := [sfuWork op n] })

theorem witness_SfuRowsMakeMoments (h : Obligations.SfuRowsMakeMoments) :
    Applies ((h.1 (row35 10 16) (cloveNo 3 5) (sfuWork 10 16) [] (by decide +kernel) rfl (by decide +kernel) (by decide +kernel)).1
      (by decide +kernel) (by decide +kernel)) ∧
    Applies ((h.1 (row35 11 3) (cloveNo 3 5) (sfuWork 11 3) [] (by decide +kernel) rfl (by decide +kernel) (by decide +kernel)).2
      (by decide +kernel) (by decide +kernel) (by decide +kernel) (by decide +kernel)) ∧
    Applies ((h.2 ⟨1, .zero, .zero, false⟩ ⟨0, .zero, .zero, true⟩).2.1 (by decide) rfl) := ⟨trivial, trivial, trivial⟩

def epiWord (e : BitVec 6) : W128 := SfuOp.toWord ⟨14, 0, 0, 0, 0, 0, 0, e, 0, 4092, 0, 0⟩
theorem witness_EpiWriteSetsEntry (h : Obligations.EpiWriteSetsEntry) :
    Applies (h State.reset (at35 (epiWord 63)) (by decide +kernel) (.of (by decide +kernel)) rfl (by decide +kernel) (by decide +kernel)
      (by decide +kernel) (allClean (by decide +kernel) _) (by decide +kernel) (by decide +kernel)) := trivial

def setWord (cred pkind : BitVec 1) : W128 := RgnOp.toWord ⟨0, 7, 4080, 4, 4, 0, 0, 1, cred, pkind,
  if cred = 0 then 0 else if pkind = 1 then 127 else 383, if cred = 0 ∨ pkind = 1 then 0 else 87, if cred = 0 ∨ pkind = 1 then 0 else 7, 0⟩
def popWord (sub : BitVec 3) (n : BitVec 8) : W128 := RgnOp.toWord ⟨sub, 1, 0, 0, 0, 0, 0, 0, 0, 0, 0, 0, 0, n⟩
/-- The clove with a credited full region 1, whose producer is clove 0. -/
def cred35 : State := with35 (fun c => { c with regions := [(1, { region 0 2 4 with cred := true })] })

theorem witness_RegionsAreSetAndReleased (h : Obligations.RegionsAreSetAndReleased) :
    Applies (h.1 State.reset (at35 (setWord 0 0)) (by decide +kernel) (by decide +kernel) (.of (by decide +kernel)) rfl (by decide +kernel)
      (by decide +kernel) (by decide +kernel) (by decide +kernel) (by decide +kernel) (by decide +kernel)) ∧
    Applies (h.1 State.reset (at35 (setWord 1 0)) (by decide +kernel) (by decide +kernel) (.of (by decide +kernel)) rfl (by decide +kernel)
      (by decide +kernel) (by decide +kernel) (by decide +kernel) (by decide +kernel) (by decide +kernel)) ∧
    Applies (h.1 State.reset (at35 (setWord 1 1)) (by decide +kernel) (by decide +kernel) (.of (by decide +kernel)) rfl (by decide +kernel)
      (by decide +kernel) (by decide +kernel) (by decide +kernel) (by decide +kernel) (by decide +kernel)) ∧
    Applies (h.2 cred35 (at35 (popWord 1 5)) (by decide +kernel) (.of (by decide +kernel)) rfl (by decide +kernel) (by decide +kernel) _ 4 rfl
      (.inl ⟨by decide +kernel, by decide +kernel, by decide +kernel, by decide +kernel⟩) (.pop (at35 (popWord 1 5))) (by decide +kernel)) ∧
    Applies (h.2 cred35 (at35 (popWord 2 0)) (by decide +kernel) (.of (by decide +kernel)) rfl (by decide +kernel) (by decide +kernel) _ 4 rfl
      (.inr ⟨by decide +kernel, by decide +kernel, by decide +kernel, by decide +kernel⟩) (.drop (at35 (popWord 2 0))) (by decide +kernel)) :=
  ⟨trivial, trivial, trivial, trivial, trivial⟩

def remWord (sub : BitVec 3) (ch : BitVec 3) (len : BitVec 13) : W128 :=
  RemoteOp.toWord ⟨sub, ch, 0, 0, if sub.toNat < 2 then 3 else 0, if sub.toNat < 2 then 5 else 0, len⟩
/-- The clove with channel 7 bound to region 1 of clove 9. -/
def chan35 : State := with35 (fun c => { c with channels := [(7, ⟨some 9, 1, 2, 1⟩)] })

theorem witness_RemoteSends (h : Obligations.RemoteSends) :
    Applies ((h chan35 (at35 (remWord 0 0 4096)) (by decide +kernel) (.of (by decide +kernel)) rfl (by decide +kernel)
      (by decide +kernel) (fun hs => absurd (by decide +kernel) hs)).1 (by decide +kernel) (by decide +kernel) (by decide +kernel)) ∧
    Applies ((h chan35 (at35 (remWord 1 0 1)) (by decide +kernel) (.of (by decide +kernel)) rfl (by decide +kernel)
      (by decide +kernel) (fun _ => allClean (by decide +kernel) _)).2.1 (by decide +kernel)) ∧
    Applies ((h chan35 (at35 (remWord 2 7 0)) (by decide +kernel) (.of (by decide +kernel)) rfl (by decide +kernel)
      (by decide +kernel) (fun _ => allClean (by decide +kernel) _)).2.2.1 (by decide +kernel) 9 (by decide +kernel) (by decide +kernel)) ∧
    Applies ((h chan35 (at35 (remWord 3 7 0)) (by decide +kernel) (.of (by decide +kernel)) rfl (by decide +kernel)
      (by decide +kernel) (fun _ => allClean (by decide +kernel) _)).2.2.2 (by decide +kernel) (by decide +kernel)) := ⟨trivial, trivial, trivial, trivial⟩

/-! ### Statements apply: Messages, fences, queues and scrubbing -/

/-- The ready clove with a message on its way. -/
def fly35 (m : Msg) : State := { ready35 none with msgs := [m] }
/-- A clove bound at channel 2 to region 4 of clove 9. -/
def bound35 (m : Msg) : State := { with35 (fun c => { c with channels := [(2, ⟨some 9, 4, 2, 254⟩)], unacked := 1 }) with msgs := [m] }

theorem witness_MessagesLand (h : Obligations.MessagesLand) :
    Applies ((h.1 (fly35 (.write 9 (cloveNo 3 5) 4095 [(7, true)] 1)) 9 (cloveNo 3 5) (.ofAll (by decide +kernel)) (by decide +kernel)).1 4095 1
      [(7, true)] [] rfl (by decide +kernel) (by decide +kernel)) ∧
    Applies ((h.1 (fly35 (.readReq 9 (cloveNo 3 5) 4095 0 2)) 9 (cloveNo 3 5) (.ofAll (by decide +kernel)) (by decide +kernel)).2.1 4095 0 2 [] rfl
      (by decide +kernel) (allClean (by decide +kernel) _)) ∧
    Applies ((h.1 (fly35 (.slot 0 (cloveNo 3 5) 2 0 [(7, false), (8, true)])) 0 (cloveNo 3 5) (.ofAll (by decide +kernel)) (by decide +kernel)).2.2 2 0
      [(7, false), (8, true)] [] rfl (by decide +kernel) (by decide +kernel) (by decide +kernel) (by decide +kernel) (by decide +kernel)
      (by decide +kernel)) ∧
    Applies ((h.2 (bound35 (.ackMsg 9 (cloveNo 3 5) false)) 9 (cloveNo 3 5) [] (.ofAll (by decide +kernel))).1 rfl) ∧
    Applies ((h.2 (bound35 (.readData 9 (cloveNo 3 5) 4095 [(7, true)])) 9 (cloveNo 3 5) [] (.ofAll (by decide +kernel))).2.1 4095 [(7, true)] rfl) ∧
    Applies ((h.2 (bound35 (.grant 9 (cloveNo 3 5) 2 4 2 4)) 9 (cloveNo 3 5) [] (.ofAll (by decide +kernel))).2.2.1 2 4 2 4 rfl
      (.inr (by decide +kernel))) ∧
    Applies ((h.2 (bound35 (.grant 9 (cloveNo 3 5) 7 1 2 4)) 9 (cloveNo 3 5) [] (.ofAll (by decide +kernel))).2.2.1 7 1 2 4 rfl
      (.inl (by decide +kernel))) ∧
    Applies ((h.2 (bound35 (.creditRet 9 (cloveNo 3 5) 2)) 9 (cloveNo 3 5) [] (.ofAll (by decide +kernel))).2.2.2.1 2 rfl (by decide +kernel)) ∧
    Applies ((h.2 (bound35 (.unbind 9 (cloveNo 3 5) 2 4)) 9 (cloveNo 3 5) [] (.ofAll (by decide +kernel))).2.2.2.2 2 4 rfl (by decide +kernel)
      (by decide +kernel) (by simp)) := ⟨trivial, trivial, trivial, trivial, trivial, trivial, trivial, trivial, trivial⟩

/-- A FABRIC word with every field given. -/
def fabWord (sub : BitVec 3) (scope : BitVec 2) (sq : BitVec 7) (addr : BitVec 12) (arrive wait : BitVec 1) (bid : BitVec 6) (n : BitVec 16) : W128 :=
  { FabricOp.ofWord 0 with sub := sub, scope := scope, sq := sq, addr := addr, arrive := arrive, wait := wait, bid := bid, bcount := n }.toWord
/-- The clove (3, 5) with a pending FENCE.ALL of a barrier's arrival. -/
def fence35 : State := with35 (fun c => { c with fences := 4, barr := some (63, 2, true) })
/-- A message for barrier 63 of partition 0, with n arrivals already counted. -/
def barrier35 (n : Nat) (m : Msg) : State :=
  { with35 (fun c => { c with bwait := none }) with
    parts := [(0, { Part.fresh with barriers := [(63, ⟨n, some 33792, 4⟩)] })], msgs := [m] }
/-- An arrival at that barrier. -/
def arrive35 (n : Nat) : State := barrier35 n (.arrive (cloveNo 3 5) 0 63 33792 true)

theorem witness_FencesAndBarriers (h : Obligations.FencesAndBarriers) :
    Applies ((h.1.1 State.reset (at35 (fabWord 2 0 0 0 0 0 0 0)) (by decide +kernel) (.of (by decide +kernel)) rfl (by decide +kernel)).1
      (by decide +kernel) (.fenceRemote (at35 (fabWord 2 0 0 0 0 0 0 0))) (by simp)) ∧
    Applies ((h.1.1 State.reset (at35 (fabWord 2 2 0 0 0 0 0 0)) (by decide +kernel) (.of (by decide +kernel)) rfl (by decide +kernel)).1
      (by decide +kernel) (.fenceAll (at35 (fabWord 2 2 0 0 0 0 0 0))) (by simp)) ∧
    Applies ((h.1.1 State.reset (at35 (fabWord 3 0 0 0 1 1 63 33792)) (by decide +kernel) (.of (by decide +kernel)) rfl (by decide +kernel)).2.1
      (by decide +kernel) (by decide +kernel)) ∧
    Applies ((h.1.1 State.reset (at35 (fabWord 3 0 0 0 0 1 63 0)) (by decide +kernel) (.of (by decide +kernel)) rfl (by decide +kernel)).2.2
      (by decide +kernel) (by decide +kernel)) ∧
    Applies (h.1.2 fence35 3 5 (.ofAll (by decide +kernel)) (by decide +kernel) (by decide +kernel)) ∧
    Applies (h.2.1 (barrier35 7 (.arrive (cloveNo 3 5) 0 63 0 true)) 0 63 (cloveNo 3 5) [] (.ofAll (by decide +kernel)) rfl) ∧
    Applies (h.2.2.1 (barrier35 7 (.arrive (cloveNo 3 5) 0 63 33791 true)) 0 63 (cloveNo 3 5) 33791 33792 true [] (.ofAll (by decide +kernel))
      rfl (by decide) (by decide +kernel) (by decide)) ∧
    Applies (h.2.2.2 (arrive35 7) 0 63 (cloveNo 3 5) 33792 true [] (.ofAll (by decide +kernel)) rfl (by decide) (.inr (by decide +kernel))) ∧
    Applies (h.2.2.2 (arrive35 33791) 0 63 (cloveNo 3 5) 33792 true [] (.ofAll (by decide +kernel)) rfl (by decide) (.inr (by decide +kernel))) :=
  ⟨trivial, trivial, trivial, trivial, trivial, trivial, trivial, trivial, trivial⟩

/-- A context: load, MAXOUT 4, RATE 1, the block of the clove (3, 5) alone. -/
def loadCtx : BitVec 256 := BitVec.ofNat 256 (3 * 2 ^ 8 + 1 * 2 ^ 16 + 3 * 2 ^ 32 + 5 * 2 ^ 48 + 1 * 2 ^ 64 + 1 * 2 ^ 72)
/-- A transfer descriptor: one row of 16 bytes at address 0. -/
def oneRow : BitVec 256 := BitVec.ofNat 256 (16 * 2 ^ 64 + 1 * 2 ^ 96)
/-- A scratchpad whose first four words are those of a descriptor. -/
def scratchOf (d : BitVec 256) : SMap SWord :=
  (List.range 4).foldl (fun m j => m.put j ⟨d.extractLsb' (64 * j) 64, false, 0⟩) []
/-- The clove with a descriptor in its scratchpad, in a partition with one window and a queue 5. -/
def desc35 (d : BitVec 256) (q : Queue) : State :=
  { with35 (fun c => { c with scratch := scratchOf d }) with
    regs := (State.reset.setReg .prtHbmBase 0 0 0x80000000 |>.setReg .prtHbmSize 0 0 1).regs
    parts := [(0, { Part.fresh with queues := [(5, q)] })] }
/-- Queue 5 of partition 0 with a context and slots of two words; the clove (3, 5) is bound with its region 2. -/
def queue5 (ts : List Transfer) (b : QBind) : Queue := ⟨some loadCtx, some 2, [(cloveNo 3 5, b)], ts, none⟩
/-- A transfer of 32 bytes from address 0, of which n have been asked for and m are done. -/
def move (n m : Nat) : Transfer := ⟨9, 0, 32, 1, 0, none, n, m, n / 16, n / 8 % 2, [], none, 0⟩
/-- The ready clove with queue 5 and served requests. -/
def queue35 (q : Queue) (rs : List Req) : State :=
  { ready35 none with parts := [(0, { Part.fresh with queues := [(5, q)] })], inflight := rs }
/-- The request for a transfer's last words, served. -/
def lastReq : Req := ⟨3, 9, 0, 5, false, 24, 8, 24, cloveNo 3 5, 2, [(cloveNo 3 5, 1)], 1, 0, 0, [(7, true)], true, none⟩

/-- Queue 5 with a context that stores from region 1 of the clove (3, 5), a full slot of which is not yet taken. -/
def storeQueue : Queue := { queue5 [move 0 0] ⟨2, 2, 0, 0, 0, []⟩ with ctx := some (loadCtx ||| 1 ||| BitVec.ofNat 256 (2 ^ 80)) }

theorem witness_QueuesTakeAndMove (h : Obligations.QueuesTakeAndMove) :
    Applies ((h.1 (desc35 loadCtx (queue5 [] ⟨2, 2, 1, 0, 0, []⟩)) (at35 (fabWord 0 0 5 0 0 0 0 0)) loadCtx (by decide +kernel) (.of (by decide +kernel))
      rfl (by decide +kernel) (allClean (by decide +kernel) _) (by decide +kernel) (by decide +kernel)).1 (by decide +kernel)
      (by decide +kernel) (by decide +kernel)) ∧
    Applies ((h.1 (desc35 oneRow (queue5 [move 0 0] ⟨2, 2, 1, 0, 0, []⟩)) (at35 (fabWord 1 0 5 0 0 0 0 0)) oneRow (by decide +kernel) (.of (by decide +kernel))
      rfl (by decide +kernel) (allClean (by decide +kernel) _) (by decide +kernel) (by decide +kernel)).2 (by decide +kernel)
      (by decide +kernel) (by decide +kernel) (by decide +kernel) (by decide +kernel)) ∧
    Applies (h.2.1 (queue35 (queue5 [move 0 0] ⟨2, 2, 1, 0, 0, []⟩) []) 0 5 0 loadCtx (move 0 0) [cloveNo 3 5] 2 (.ofAll (by decide +kernel))
      (by decide +kernel) (by decide +kernel) (by decide +kernel) (by decide +kernel) (by decide +kernel) (by decide)
      (by simpa using ⟨⟨2, 2, 1, 0, 0, []⟩, by decide +kernel, .inl (by decide)⟩) (by decide +kernel) (by decide) (by decide +kernel)) ∧
    Applies (h.2.1 (queue35 (queue5 [move 8 0] ⟨2, 2, 0, 1, 0, []⟩) []) 0 5 0 loadCtx (move 8 0) [cloveNo 3 5] 2 (.ofAll (by decide +kernel))
      (by decide +kernel) (by decide +kernel) (by decide +kernel) (by decide +kernel) (by decide +kernel) (by decide)
      (by simpa using ⟨⟨2, 2, 0, 1, 0, []⟩, by decide +kernel, .inr (by decide)⟩) (by decide +kernel) (by decide) (by decide +kernel)) ∧
    Applies (h.2.2.1 (queue35 storeQueue []) 0 5 0 _ (move 0 0) (cloveNo 3 5) _ (.ofAll (by decide +kernel)) rfl (by decide +kernel)
      (by decide +kernel) (by decide +kernel) (by decide +kernel) rfl (by decide +kernel) (by decide +kernel) (allClean (by decide +kernel) _)
      (by decide +kernel)) ∧
    Applies (h.2.2.2.1 (queue35 (queue5 [move 32 24] ⟨2, 2, 0, 2, 1, []⟩) [lastReq]) 0 5 3 lastReq (.ofAll (by decide +kernel))
      (by decide +kernel) (by decide +kernel)) ∧
    Applies (h.2.2.2.2 (queue35 (queue5 [move 32 32] ⟨2, 2, 0, 2, 2, []⟩) []) 0 5 (move 32 32) [] (.ofAll (by decide +kernel))
      (by decide +kernel) (by decide +kernel) (by decide +kernel) (by decide +kernel) (by decide +kernel)) :=
  ⟨trivial, trivial, trivial, trivial, trivial, trivial, trivial⟩

/-- The clove with its sweep at a word, and words found correctable. -/
def scrub35 (a : Nat) (q : List Nat) : State := with35 (fun c => { c with scrubAt := a, scrubQ := q, scratch := [(4095, ⟨5, true, 1⟩)] })

theorem witness_WordsFailAndAreScrubbed (h : Obligations.WordsFailAndAreScrubbed) :
    Applies ((h.1 (scrub35 0 []) 3 5 (by decide +kernel)).1 0 0 (by decide) (by decide +kernel) (by decide +kernel) (by decide +kernel)) ∧
    Applies ((h.1 (scrub35 4094 []) 3 5 (by decide +kernel)).1 1 3 (by decide) (by decide +kernel) (by decide +kernel) (by decide +kernel)) ∧
    Applies ((h.1 (scrub35 0 [4095, 3]) 3 5 (by decide +kernel)).2 4095 [3] (by decide +kernel) (by decide)) ∧
    Applies ((h.2 State.reset 95 0 0 4 (.landed (cloveNo 3 5)) 0 (by decide)).1 (by decide)) ∧
    Applies ((h.2 State.reset 95 0 0 5 (.landed (cloveNo 3 5)) 4095 (by decide)).2 (by decide)) ∧
    Applies ((h.2 (fly35 (.write 9 (cloveNo 3 5) 4095 [(7, true)] 1)) 0 0 0 5 (.mesh 0) 0 (by decide)).2 (by decide)) ∧
    Applies ((h.2 (queue35 (queue5 [move 32 24] ⟨2, 2, 0, 2, 1, []⟩) [lastReq]) 0 0 0 5 (.request 3) 0 (by decide)).2 (by decide)) :=
  ⟨trivial, trivial, trivial, trivial, trivial, trivial, trivial⟩

/-! ### Statements apply: Loops -/

/-- A level entry with bounds m, 16 and 16, and its LFLAGS and DCTR. -/
def levelOf (m fl dc : Nat) : List Byte :=
  leBytes 4 m ++ leBytes 4 16 ++ leBytes 4 16 ++ [0, 0, 0, BitVec.ofNat 8 fl, 0, 0, BitVec.ofNat 8 dc] ++ List.replicate 69 0
/-- A loop program of nl levels for a gang of one clove, with one operand on a stream queue and one entry, a POP; its
outermost level runs four iterations in M, dispatched by counter 47 where d is set. -/
def prog (nl sq : Nat) (d : Bool) : List Byte :=
  [BitVec.ofNat 8 nl, 1, 1, 0, 0, 1, 1, 0, 1, 0, 0, 16, 0, 16, 0, 16] ++ List.replicate 16 0 ++
  [0, 6, 0, BitVec.ofNat 8 sq, 0, 0, 0, 0, 1] ++ List.replicate 11 0 ++ [0, 1, 0, 0] ++ List.replicate 168 0 ++
  (List.range nl).flatMap (fun l => levelOf (if l + 1 = nl then 4 else 1) (if l + 1 = nl ∧ d then 1 else 0) (if d then 47 else 0)) ++
  leBytes 16 (popWord 1 1).toNat ++ leBytes 4 15 ++ List.replicate 4 0
/-- A scratchpad that holds a program from word 16 on. -/
def scratchProg (p : List Byte) : SMap SWord :=
  ((List.range (p.length / 8)).map (fun j => (16 + j, (⟨BitVec.ofNat 64 (leAt p (8 * j) 8), false, 0⟩ : SWord)))).filter (fun e => e.2.data ≠ 0)
def loopWord (n : BitVec 32) : W128 := LoopOp.toWord ⟨16, 0, n, 0, 0⟩
/-- Partition 0 with counter 47 armed below a limit, the strip of the clove (3, 5) admitted, and a queue 5. -/
def armed0 (limit : Nat) (s : State) : State :=
  { (s.setFld .fldDspStat 2 0 31 31 1 |>.setReg .prtHbmBase 0 0 0x80000000 |>.setReg .prtHbmSize 0 0 1) with
    parts := [(0, { Part.fresh with
      counters := [(47, ⟨limit, 1, [0], true⟩)], queues := [(5, { Queue.none with ctx := some loadCtx })] })] }
/-- The clove with a program in its scratchpad. -/
def prog35 (p : List Byte) : State := armed0 4 (with35 (fun c => { c with scratch := scratchProg p }))

theorem witness_LoopStarts (h : Obligations.LoopStarts) :
    Applies (h (prog35 (prog 4 255 true)) (at35 (loopWord 0)) (prog 4 255 true) (by decide +kernel)
      { opened := .of (by decide +kernel), plain := rfl, idle := by decide +kernel,
        clean := fun a => ⟨allClean (by decide +kernel) _ a, allPlain (by decide +kernel) _ a⟩, free := by decide +kernel,
        copied := by decide +kernel, word := by decide +kernel, aligned := by decide +kernel, levels := by decide +kernel,
        header := by decide +kernel, gang := by decide +kernel, operands := by decide +kernel, level := by decide +kernel,
        menu := by decide +kernel, body := by decide +kernel, place := by decide +kernel, tables := by decide +kernel,
        length := by decide +kernel, fits := by decide +kernel, armed := by decide +kernel }) ∧
    Applies (h (prog35 (prog 6 5 false)) (at35 (loopWord 4)) (prog 6 5 false) (by decide +kernel)
      { opened := .of (by decide +kernel), plain := rfl, idle := by decide +kernel,
        clean := fun a => ⟨allClean (by decide +kernel) _ a, allPlain (by decide +kernel) _ a⟩, free := by decide +kernel,
        copied := by decide +kernel, word := by decide +kernel, aligned := by decide +kernel, levels := by decide +kernel,
        header := by decide +kernel, gang := by decide +kernel, operands := by decide +kernel, level := by decide +kernel,
        menu := by decide +kernel, body := by decide +kernel, place := by decide +kernel, tables := by decide +kernel,
        length := by decide +kernel, fits := by decide +kernel, armed := by decide +kernel }) := ⟨trivial, trivial⟩

/-- A running loop with an item at its front. -/
def running (p : List Byte) (held : Bool) (it : LItem) : LoopRun := ⟨loopWord 0, p, [], [], [it], 0, held, [], [], [], false⟩
/-- The clove with a running loop. -/
def loop35 (limit : Nat) (r : LoopRun) : State := armed0 limit (with35 (fun c => { c with loop := some r, regions := [(1, region 0 2 4)] }))
/-- A visit of the first iteration of a level that has no other. -/
def visit0 : Visit := ⟨0, 0, 0, true, true, true, true⟩
/-- The loop of four levels with a fetch at its front. -/
def fetching (held : Bool) : LoopRun := running (prog 4 255 true) held (.fetch [] 3)
/-- The same clove in a strip 2 degrees hotter than the coolest admitted one. -/
def hotter (s : State) : State :=
  { s.setFld .fldDspCtrl 2 0 7 0 1 with
    fields := [(0, { Field.fresh with temps := [(0, 32)] })]
    parts := [(0, { s.part 0 with counters := [(47, ⟨4, 1, [0, 1], true⟩)] })] }

/-- The same clove in a strip that is withheld. -/
def withheld (s : State) : State := { s with fields := [(0, { Field.fresh with withheld := [0] })] }

theorem witness_LoopIterations (h : Obligations.LoopIterations) :
    Applies ((h (loop35 4 (running (prog 1 255 false) false (.level 0 [] 3))) 3 5 (running (prog 1 255 false) false (.level 0 [] 3)) (by decide +kernel)
      rfl (by decide +kernel)).1 [] 3 [] false (.inl ⟨rfl, rfl⟩) (by decide +kernel)) ∧
    Applies ((h (loop35 4 (running (prog 4 255 true) false (.once [visit0]))) 3 5 (running (prog 4 255 true) false (.once [visit0])) (by decide +kernel)
      rfl (by decide +kernel)).1 [visit0] 1 [] true (.inr ⟨rfl, rfl, rfl⟩) (by decide +kernel)) ∧
    Applies ((h (loop35 4 (running (prog 5 5 false) false (.chunk [visit0]))) 3 5 (running (prog 5 5 false) false (.chunk [visit0])) (by decide +kernel)
      rfl (by decide +kernel)).2 [visit0] [] _ 0 rfl (by decide +kernel) (by decide +kernel) (by decide +kernel) rfl (by decide +kernel)
      (by decide +kernel)) := ⟨trivial, trivial, trivial⟩

theorem witness_FetchTakesNext (h : Obligations.FetchTakesNext) :
    Applies ((h (loop35 4 (fetching false)) 3 5 (fetching false) [] 3 [] (.ofAll (by decide +kernel)) (by decide +kernel) rfl rfl (by decide +kernel)
      (cloveNo 3 5) 0 47 [cloveNo 3 5] rfl (by decide +kernel) (by decide +kernel) (by decide +kernel)).1 0 (by decide +kernel) rfl (by decide +kernel)
      (by decide +kernel)) ∧
    Applies ((h (loop35 0 (fetching false)) 3 5 (fetching false) [] 3 [] (.ofAll (by decide +kernel)) (by decide +kernel) rfl rfl (by decide +kernel)
      (cloveNo 3 5) 0 47 [cloveNo 3 5] rfl (by decide +kernel) (by decide +kernel) (by decide +kernel)).2.1 (by decide +kernel)) ∧
    Applies ((h (hotter (loop35 4 (fetching false))) 3 5 (fetching false) [] 3 [] (.ofAll (by decide +kernel)) (by decide +kernel) rfl rfl (by decide +kernel)
      (cloveNo 3 5) 0 47 [cloveNo 3 5] rfl (by decide +kernel) (by decide +kernel) (by decide +kernel)).2.2.1 0 (by decide +kernel) rfl (by decide +kernel)
      (by decide +kernel)) ∧
    Applies ((h (withheld (loop35 4 (fetching false))) 3 5 (fetching false) [] 3 [] (.ofAll (by decide +kernel)) (by decide +kernel) rfl rfl (by decide +kernel)
      (cloveNo 3 5) 0 47 [cloveNo 3 5] rfl (by decide +kernel) (by decide +kernel) (by decide +kernel)).2.2.2.1 0 (by decide +kernel) rfl
      (by decide +kernel)) ∧
    Applies ((h (hotter (loop35 4 (fetching true))) 3 5 (fetching true) [] 3 [] (.ofAll (by decide +kernel)) (by decide +kernel) rfl rfl (by decide +kernel)
      (cloveNo 3 5) 0 47 [cloveNo 3 5] rfl (by decide +kernel) (by decide +kernel) (by decide +kernel)).2.2.2.2 0 (by decide +kernel) rfl
      (by decide +kernel)) := ⟨trivial, trivial, trivial, trivial, trivial⟩

/-! ### Statements apply: Memory and the cache -/

/-- Stack 0 with channels 0 to 3, 8 MiB below its limit, and requests. -/
def stack0 (rs : List Req) : State :=
  { State.reset.withRegs [(.memStkChmap, 0, 0, 0xF), (.memStkStat, 0, 0, 0x40004)] with
    memStacks := [(0, { Stack.fresh with reqs := rs, writeback := [7, 9], fails := [(2, 2)] })]
    hbm := ⟨[⟨24, 7⟩], []⟩ }
/-- Stack 0 with channel 2 in retraining. -/
def retraining0 : State := { stack0 [] with memStacks := [(0, { Stack.fresh with retraining := some 2, fails := [(2, 2)] })] }
def loadReq : Req := { lastReq with data := [], served := false }
def storeReq : Req := { lastReq with store := true, served := false }

theorem witness_StacksServeAndMaintain (h : Obligations.StacksServeAndMaintain) :
    Applies ((h.1 (stack0 [loadReq]) 0 9 loadReq (.ofAll (by decide +kernel)) (by decide +kernel) (by decide +kernel) (by decide +kernel)).1 rfl) ∧
    Applies ((h.1 (stack0 [loadReq]) 0 9 loadReq (.ofAll (by decide +kernel)) (by decide +kernel) (by decide +kernel) (by decide +kernel)).2.1 rfl
      ⟨[0], [], [0]⟩) ∧
    Applies ((h.1 (stack0 [storeReq]) 0 9 storeReq (.ofAll (by decide +kernel)) (by decide +kernel) (by decide +kernel) (by decide +kernel)).2.2 rfl
      (by decide +kernel)) ∧
    Applies ((h.2 (stack0 []) 0 (by decide)).2.1 131072 0 (by decide +kernel) (by decide) (by decide +kernel) (by decide +kernel)) ∧
    Applies (((h.2 (stack0 []) 0 (by decide)).2.1 131072 0 (by decide +kernel) (by decide) (by decide +kernel) (by decide +kernel)).2.1
      (by decide +kernel)) ∧
    Applies ((h.2 (stack0 []) 0 (by decide)).2.2.1 3 (by decide +kernel) (by decide +kernel)) ∧
    Applies ((h.2 retraining0 0 (by decide)).2.2.2 2 true 3 (by decide) (by decide +kernel)) ∧
    Applies ((h.2 retraining0 0 (by decide)).2.2.2 2 false 0 (by decide) (by decide +kernel)) :=
  ⟨trivial, trivial, trivial, trivial, trivial, trivial, trivial, trivial⟩

/-- Stack 0 in its map epoch: channel 1 pending, channels 4 and up untrained so far. -/
def epoch0 : State :=
  { (stack0 []).withRegs [(.memStkPend, 0, 0, 2), (.memEpochCtrl, 0, 0, 0x200)] with up := { Startup.fresh with hbmEpoch := some 0 } }
/-- A read or write of the tier in host memory for request 3. -/
def tierReq0 (store : Bool) : TierReq := ⟨0, 5, 3, 2, 0, 0, 0, 0, 16, store⟩
def tier0 (store : Bool) : State :=
  { State.reset with
    net := { Net.fresh with tiers := [(6, tierReq0 store)] }
    inflight := [{ lastReq with len := 16, data := [], served := false, tier := some 6 }] }

theorem witness_EpochsWindowsAndTier (h : Obligations.EpochsWindowsAndTier) :
    Applies (h.1 epoch0 0 0xFFFFFF01 [(3, 3)] (by decide) (by decide +kernel)) ∧
    Applies (h.2.1 { State.reset with parts := [(0, { Part.fresh with oldWin := [(7, [(0, 2), (4, 2)])] })] } 0 7) ∧
    Applies ((h.2.2 (tier0 false) 6 (tierReq0 false) .good [1, 2, 3] (.tierTimeout 6) (.ofAll (by decide +kernel)) (by decide +kernel)).1 rfl) ∧
    Applies (((h.2.2 (tier0 false) 6 (tierReq0 false) .unsupported [] (.tierCompletion 6 .unsupported []) (.ofAll (by decide +kernel))
      (by decide +kernel)).2 (.inr ⟨by decide, rfl⟩)).1 rfl) ∧
    Applies (((h.2.2 (tier0 true) 6 (tierReq0 true) .good [] (.tierTimeout 6) (.ofAll (by decide +kernel)) (by decide +kernel)).2
      (.inl rfl)).2 rfl rfl) :=
  ⟨trivial, trivial, trivial, trivial, trivial⟩

/-- Partition 0 with its cache on: tables at 0, frames at 8 KiB, four slots of 8 KiB at 2 MiB, and tier entry 15 in host
memory for its spills. -/
def kvRegs : State := State.reset.withRegs [(.prtHbmBase, 0, 0, 0x80000000), (.prtHbmSize, 0, 0, 2), (.prtKvCtrl, 0, 0, 0x201),
  (.prtKvTabhi, 0, 0, 0x10000), (.prtKvFtlo, 0, 0, 0x2000), (.prtKvFrames, 0, 0, 8), (.prtKvPsize, 0, 0, 2), (.prtKvSeg, 0, 0, 0x80000001),
  (.prtKvSegc, 0, 0, 4), (.prtKvSpill, 0, 0, 0x8000FFFF), (.memSpillCtl, 0, 15, 1), (.memSpillPmask, 0, 15, 1), (.memSpillSize, 0, 15, 4)]
/-- Partition 0 with context 0 of one layer and two pages, page 0 in frame 3 with so many columns, page 1 invalid. -/
def kv0 (fill : Nat) (f : Machine.Frm) (g : Part → Part) : State :=
  let s := ((kvRegs.putL1 0 0 ⟨true, 1, 2, 1, 0x1000⟩).putPte 0 0 0 0 ⟨true, 3, fill⟩).putFrm 0 3 f
  { s with parts := [(0, g { Part.fresh with
      queues := [(5, { Queue.none with ctx := some loadCtx })], ctxs := [⟨0, 0x1000, 4096, Split.whole, []⟩] })] }
/-- A frame in HBM slot 1 with one reference. -/
def inHbm (pin : Nat) (clean : Bool) : Machine.Frm := ⟨1, clean, false, false, 1, pin, 0, 0, 1, 0, 15⟩
/-- A frame in TIER, or on its way back from slot 9 of tier entry 15. -/
def inTier (st : Nat) : Machine.Frm := ⟨st, true, false, false, 1, 0, 0, 0, 1, 9, 15⟩
/-- A dense read plan by tiles of one row group on queue 5, 256 positions a chunk. -/
def densePlan : List Byte := [0, 1, 5, 255, 0, 0, 0, 0, 0, 1] ++ List.replicate 38 0
/-- A read stream of that plan over page 0. -/
def stream0 (ahead : List Ahead) : ReadStream := ⟨densePlan, 0, 0, 256, 0, 0, 0, 0, ahead, 0, false, none, 0⟩
/-- A command with an OPC and parameters. -/
def cmdOf (opc : Nat) (b pay : List Byte) : Cmd :=
  ⟨8, 2, 0xABCD, true, [1, BitVec.ofNat 8 opc] ++ leBytes 2 b.length ++ List.replicate 12 0 ++ b, pay.length, 0, 0, pay, [], some .good, [], false,
    true, none, false⟩
/-- A state with one command, fetched and unanswered, on ring 7 of partition 0. -/
def Sys2Proof.Machine.State.withCmd (s : State) (c : Cmd) : State := { s with host := { s.host with rings := [(7, { Ring.fresh with cmds := [c] })] } }
/-- An append of positions 240 on, none of it accepted. -/
def append0 (n : Nat) : Append := ⟨0, 0, 5, 240, n, 15, 15, 1, [(0, 3)], none, some (0, 7, 8), 0, none⟩

/-- No error found in HBM. -/
def noFinds : HbmFinds := ⟨[], [], []⟩
/-- Page 0 in frame 3 of partition 0, with a stream 4. -/
def streamed (pin : Nat) (ahead : List Ahead) : State := kv0 256 (inHbm pin true) (fun q => { q with streams := [(4, stream0 ahead)] })

theorem witness_StreamsAndAppendsAdvance (h : Obligations.StreamsAndAppendsAdvance) :
    Applies (h.1.1 (streamed 0 []) ((streamed 0 []).hbmFind noFinds)
      (((streamed 0 []).hbmFind noFinds).walk 0 (queueField 0 (planSq (stream0 []).plan)) (stream0 []).cid (stream0 []).layer 0).2 0 4 0 0 0 .all
      (stream0 []) ⟨0, 0, 0, 3, 256, 1⟩ noFinds rfl (by decide +kernel) rfl (by decide +kernel) (by decide +kernel) (by decide +kernel)
      (by decide +kernel) (Prod.ext (by decide +kernel) rfl)) ∧
    Applies (h.1.2.1 (streamed 254 [⟨0, 3, false, false⟩]) ((streamed 254 [⟨0, 3, false, false⟩]).pinFrame 0 3).2 0 3 4 (stream0 [⟨0, 3, false, false⟩])
      (by decide +kernel) (by decide +kernel) (Prod.ext (by decide +kernel) rfl)) ∧
    Applies ((h.1.2.1 (kv0 256 (inTier 2) (fun q => { q with streams := [(4, stream0 [⟨0, 3, false, false⟩])] }))
      ((kv0 256 (inTier 2) (fun q => { q with streams := [(4, stream0 [⟨0, 3, false, false⟩])] })).pinFrame 0 3).2 0 3 4
      (stream0 [⟨0, 3, false, false⟩]) (by decide +kernel) (by decide +kernel) (Prod.ext (by decide +kernel) rfl)).2 (by decide +kernel)) ∧
    Applies (h.1.2.2.1 (kv0 256 (inHbm 1 true) (fun q => { q with unpins := [3] })) 0 3 (by decide +kernel)) ∧
    Applies (h.1.2.2.2 (streamed 1 [⟨0, 3, true, true⟩]) _ _ 0 4 0 0 0 .all (stream0 [⟨0, 3, true, true⟩]) (stream0 [⟨0, 3, true, true⟩])
      ⟨0, 3, true, true⟩ [] _ noFinds rfl (by decide +kernel) rfl rfl rfl (by decide +kernel) (by decide +kernel) rfl (by decide +kernel)
      (.inl ⟨.inr (by decide +kernel), rfl, rfl⟩) _ _ (Prod.eta _).symm) ∧
    Applies (h.2.1 ((kv0 240 (inHbm 0 false) id).withCmd (cmdOf 7 ([0, 0, 0, 5] ++ leBytes 4 240 ++ leBytes 4 17 ++ leBytes 4 0) [])) 0 7
      (cmdOf 7 ([0, 0, 0, 5] ++ leBytes 4 240 ++ leBytes 4 17 ++ leBytes 4 0) []) (by decide +kernel)) ∧
    Applies ((h.2.2 (kv0 240 (inHbm 1 false) (fun q => { q with appends := [(2, append0 17)] })) _ 0 2 16 (append0 17) noFinds rfl (by decide +kernel)
      rfl (by decide +kernel) (by decide +kernel) (by decide +kernel) _ rfl).1 (by decide +kernel)) ∧
    Applies ((h.2.2 ((kv0 240 (inHbm 1 false) (fun q => { q with appends := [(2, append0 16)] })).withCmd { cmdOf 7 [] [] with wait := true }) _ 0 2 16
      (append0 16) noFinds rfl (by decide +kernel) rfl (by decide +kernel) (by decide +kernel) (by decide +kernel) _ rfl).2.2 (by decide +kernel) 0 7 8
      rfl) := ⟨trivial, trivial, trivial, trivial, trivial, trivial, trivial, trivial⟩

theorem witness_FramesSpillAndReturn (h : Obligations.FramesSpillAndReturn) :
    Applies ((h.1 (kv0 256 (inHbm 0 true) (fun q => { q with slots := [(1, 3)] })) _ _ 0 3 true noFinds rfl (by decide +kernel) rfl (.inl rfl)
      (by decide +kernel)).1 (by decide +kernel)) ∧
    Applies ((h.1 (kv0 256 (inHbm 0 false) (fun q => { q with slots := [(1, 3)] })) _ _ 0 3 true noFinds rfl (by decide +kernel) rfl (.inl rfl)
      (by decide +kernel)).2 (by decide +kernel) 15 0 0 0 0 1 false (by decide +kernel) (by decide +kernel) (by decide +kernel)) ∧
    Applies (h.2.1 (kv0 256 (inTier 3) (fun q => { q with slots := [(1, 3)], spilling := [(3, 15 * 2 ^ 28 + 9)] })) _ 0 3 (15 * 2 ^ 28 + 9)
      (by decide +kernel) (by decide +kernel) rfl) ∧
    Applies (h.2.2.1 (kv0 256 (inTier 2) id) ((kv0 256 (inTier 2) id).allocSlot 0 0).2 0 3 0 0 0 0 1 (by decide +kernel) (by decide +kernel)
      (Prod.ext (by decide +kernel) rfl)) ∧
    Applies (h.2.2.2 (kv0 256 (inTier 4) id) 0 3 [1, 2, 3] [5] (by decide +kernel) (by decide +kernel)) := ⟨trivial, trivial, trivial, trivial, trivial⟩

/-! ### Statements apply: Rings and serving -/

/-- A module at Ready, attach A up, its cache registers set, ring 7 of partition 0 enabled with rings of 65,536 and 16
entries, and collective groups on. -/
def hostRegs : State := kvRegs.withRegs [(.hifLink, 0, 0, 5), (.glbStart, 0, 0, 0x11), (.prtSqCfg, 0, 7, 0xFFFF0110), (.prtCqCfg, 0, 7, 0x10104),
  (.prtSrvCtrl, 0, 0, 1), (.prtSrvAreahi, 0, 0, 0x10000), (.vngNodestat, 0, 0, 0x3000005)]
/-- A descriptor of a packet, without a payload. -/
def descriptor : List Byte := [1, 0, 0, 0] ++ leBytes 4 0xABCD ++ leBytes 8 4096 ++ List.replicate 48 0
/-- The host has been asked for something on ring 7. -/
def asked0 (k : ReadKind) (d : List Byte) (n : Nat) : State :=
  { hostRegs with host := { HostIf.fresh with reads := [(6, ⟨0, 7, k, 0, n, d⟩)] } }

theorem witness_DescriptorsAreFetched (h : Obligations.DescriptorsAreFetched) :
    Applies (h.1 { hostRegs with host := { HostIf.fresh with rings := [(7, { Ring.fresh with tail := 1 })], turn := [(0, 3)] } } 0 7
      (by decide +kernel) (by decide +kernel) (by decide +kernel) (by decide +kernel) (by decide +kernel)) ∧
    Applies ((h.2 (asked0 .descriptor [] 64) 6 ⟨0, 7, .descriptor, 0, 64, []⟩ descriptor (by decide +kernel)).1 rfl) ∧
    Applies ((h.2 (asked0 .packet (descriptor ++ ([1, 3, 8, 0] ++ List.replicate 12 0)) 8) 6
      ⟨0, 7, .packet, 0, 8, descriptor ++ ([1, 3, 8, 0] ++ List.replicate 12 0)⟩ [9] (by decide +kernel)).2.1 rfl (by decide +kernel)
      (by decide +kernel) (by decide +kernel) (by decide +kernel) (by decide +kernel) (by decide +kernel)) ∧
    Applies ((h.2 (asked0 .packet descriptor 16) 6 ⟨0, 7, .packet, 0, 16, descriptor⟩ [] (by decide +kernel)).2.2 rfl) :=
  ⟨trivial, trivial, trivial, trivial⟩

/-- A record of a command that asked for an interrupt. -/
def record0 (kind : Nat) : Rec := ⟨5, 0, kind, 0, 1, 0, 0, kind == 0, true, 3⟩
/-- Ring 7 as given. -/
def ring7 (g : Ring) : State := { hostRegs with host := { HostIf.fresh with rings := [(7, g)] } }

theorem witness_DoorbellsAndRecords (h : Obligations.DoorbellsAndRecords) :
    Applies ((h.1 (ring7 Ring.fresh) .attachA false 0 7 0xFFFF rfl (by decide +kernel) (by decide) (by decide) (by decide +kernel)
      (by decide +kernel) (by decide +kernel)).1 (by decide +kernel) (by decide +kernel)) ∧
    Applies ((h.1 (ring7 Ring.fresh) .attachA false 0 7 15 rfl (by decide +kernel) (by decide) (by decide) (by decide +kernel)
      (by decide +kernel) (by decide +kernel)).2 (by decide +kernel) (by decide +kernel)) ∧
    Applies (h.2.1 ((ring7 { Ring.fresh with recs := [record0 0, record0 1], cqHead := 3 }).withRegs [(.prtCqTail, 0, 7, 15)]) 0 7 (record0 0)
      [record0 1] (by decide +kernel) (by decide +kernel) (by decide +kernel)) ∧
    Applies (h.2.1 (ring7 { Ring.fresh with recs := [record0 1], holdoff := true, cqHead := 3 }) 0 7 (record0 1)
      [] (by decide +kernel) (by decide +kernel) (by decide +kernel)) ∧
    Applies (h.2.2 (ring7 { Ring.fresh with holdoff := true, irqDue := true }) 0 7 (by decide +kernel) (by decide +kernel) (by decide +kernel)
      (by decide +kernel)) := ⟨trivial, trivial, trivial, trivial, trivial⟩

theorem witness_AnswerEndsCommand (h : Obligations.AnswerEndsCommand) :
    Applies ((h (hostRegs.withCmd (cmdOf 3 (leBytes 8 1) [])) 0 7 (cmdOf 3 (leBytes 8 1) []) .prefixUnknown 1 2).2 [] (by decide +kernel) rfl
      (by decide) (by decide)) := trivial

/-- A program set of model 1 with one launch entry: class lengths 256 and 512, vocabulary 100. -/
def setImage : List Byte :=
  leBytes 2 1 ++ leBytes 2 1 ++ leBytes 4 100 ++ [1, 2] ++ leBytes 2 16 ++ leBytes 2 32 ++ leBytes 2 1 ++ List.replicate 16 0 ++ leBytes 4 256 ++
  leBytes 4 512 ++ List.replicate 56 0 ++ ([2, 0] ++ List.replicate 10 0 ++ leBytes 4 24 ++ leBytes 8 128 ++ List.replicate 8 0) ++ List.replicate 24 0
/-- A function image for slot 63, whose only step ends it. -/
def fnImage : List Byte := [63, 0, 0, 2, 0, 0, 0, 0, 1] ++ List.replicate 135 0

theorem witness_RingCommandsAct (h : Obligations.RingCommandsAct) :
    Applies ((h (hostRegs.withCmd (cmdOf 5 (leBytes 8 (4 * 1024 * 1024 - 64)) (List.replicate 64 7))) 0 7 (cmdOf 5 (leBytes 8 (4 * 1024 * 1024 - 64)) (List.replicate 64 7)) Split.whole).1
      (by decide +kernel) (by decide +kernel) (by decide +kernel)) ∧
    Applies ((h (hostRegs.withCmd (cmdOf 6 [2, 0, 1, 0, 0, 0, 0, 0] [])) 0 7 (cmdOf 6 [2, 0, 1, 0, 0, 0, 0, 0] []) Split.whole).2.1
      (by decide +kernel) (by decide +kernel) (by decide +kernel)) ∧
    Applies ((h (hostRegs.withCmd (cmdOf 6 [1, 0, 0, 0, 0, 0, 0, 0] fnImage)) 0 7 (cmdOf 6 [1, 0, 0, 0, 0, 0, 0, 0] fnImage) Split.whole).2.2.1
      (by decide +kernel) (by decide +kernel) (by decide +kernel) (by decide +kernel) (by decide +kernel)) ∧
    Applies ((h (hostRegs.withCmd (cmdOf 6 [0, 0, 0, 0, 0, 0, 0, 0] setImage)) 0 7 (cmdOf 6 [0, 0, 0, 0, 0, 0, 0, 0] setImage) Split.whole).2.2.2.1
      (by decide +kernel) (by decide +kernel) (by decide +kernel) (by decide +kernel) (by decide +kernel) (by decide +kernel) (by decide +kernel)
      (by decide +kernel) (by decide +kernel) (by decide +kernel)) ∧
    Applies ((h (hostRegs.withCmd (cmdOf 11 (leBytes 4 100 ++ leBytes 4 5 ++ leBytes 8 6) [])) 0 7 (cmdOf 11 (leBytes 4 100 ++ leBytes 4 5 ++ leBytes 8 6) []) Split.whole).2.2.2.2.1
      (by decide +kernel)) ∧
    Applies ((h (hostRegs.withCmd (cmdOf 12 [1, 0, 0, 0, 255, 0, 0, 0] [])) 0 7 (cmdOf 12 [1, 0, 0, 0, 255, 0, 0, 0] []) Split.whole).2.2.2.2.2.1
      (by decide +kernel) (by decide +kernel)) ∧
    Applies ((h (hostRegs.withCmd (cmdOf 13 (leBytes 4 255 ++ leBytes 4 2 ++ leBytes 8 64) (leBytes 4 5 ++ leBytes 4 6))) 0 7
      (cmdOf 13 (leBytes 4 255 ++ leBytes 4 2 ++ leBytes 8 64) (leBytes 4 5 ++ leBytes 4 6)) Split.whole).2.2.2.2.2.2
      (by decide +kernel) (by decide +kernel) (by decide +kernel) [5, 6] (by decide +kernel)) :=
  ⟨trivial, trivial, trivial, trivial, trivial, trivial, trivial⟩

/-- The program set that setImage holds, as it stands when loaded. -/
def set1 : ProgSet := ⟨0, 1, 100, 1, 16, 32, [256, 512], [], [List.replicate 24 0], 24, true, Split.whole⟩
/-- A sampling block of temperature 1 that keeps every token. -/
def sampling : List Byte := leBytes 4 0x3F800000 ++ leBytes 4 0x3F800000 ++ leBytes 4 0 ++ leBytes 4 0x3F800000 ++ List.replicate 16 0
/-- PREFILL_SUBMIT of model 1, class 2, with one member of two tokens on route 3. -/
def submit : Cmd := cmdOf 1 (leBytes 2 1 ++ leBytes 2 0 ++ [2, 0, 1] ++ List.replicate 57 0 ++ leBytes 4 2 ++ [3] ++ List.replicate 11 0 ++ sampling)
  (leBytes 4 7 ++ leBytes 4 99)
/-- A member with two tokens. -/
def member0 : ReqMember := ⟨[7, 99], [6, 1, 6, 2, 6, 3], sampling, 0, none, [(7, 1), (99, 1)], none, []⟩
/-- Request 1 of partition 0's group in a state, with its objects. -/
def request0 (st : ReqState) (os : List ExpObj) : Request :=
  ⟨1, 0, 0, 7, 0xABCD, st, 2, 1, none, none, 0, 0, [], [member0], 0, 0, 0, false, st == .running, none, none, none, [], [], false, none, [], os,
    [], 0, 0, 0, []⟩
/-- A serving engine with the set, a route, a handle and requests. -/
def serving0 (qs : List Request) : State :=
  { hostRegs with srv := { Serving.fresh with
      nextId := 2, sets := [set1], routes := [(3, [6, 1, 6, 2, 6, 3])], reqs := qs
      handles := [⟨0, 77, 5, 2, 1, none, 4, [], none, [7, 99]⟩] } }
/-- The same submission for a model that is not loaded. -/
def badSubmit : Cmd := { submit with packet := submit.packet.set 16 2 }
/-- PREFIX_REGISTER of two tokens of handle 77 as handle 78. -/
def register : Cmd := cmdOf 2 (leBytes 8 78 ++ leBytes 8 77 ++ leBytes 4 1 ++ leBytes 4 1) []
/-- An adapter image for the set: one layer. -/
def adapterImage : List Byte := leBytes 4 1 ++ [1, 0, 32, 0, 16, 0] ++ List.replicate 54 0 ++ List.replicate 81 0

theorem witness_ServingCommandsAct (h : Obligations.ServingCommandsAct) :
    Applies (h.1 ((serving0 []).withRegs [(.prtSrvCtrl, 0, 0, 0)] |>.withCmd submit) 0 7 1 submit (.prefillSubmit 0 7) (by simp) (by decide +kernel)
      (by decide +kernel)) ∧
    Applies (h.1 ((serving0 []).withRegs [(.prtSrvCtrl, 0, 0, 0)] |>.withCmd (cmdOf 14 (List.replicate 32 1) [])) 0 7 14
      (cmdOf 14 (List.replicate 32 1) []) (.exportRoute 0 7) (by simp) (by decide +kernel) (by decide +kernel)) ∧
    Applies ((h.2 ((serving0 []).withCmd submit) 0 7 submit (by decide +kernel)).1 (by decide +kernel) (by decide +kernel) (by decide +kernel)) ∧
    Applies ((h.2 ((serving0 []).withCmd badSubmit) 0 7 badSubmit (by decide +kernel)).2.1 (by decide +kernel) (by decide +kernel) .programAbsent (by decide +kernel)) ∧
    Applies ((h.2 ((serving0 []).withCmd register) 0 7 register (by decide +kernel)).2.2.1 (by decide +kernel) (by decide +kernel) (by decide +kernel) (by decide +kernel) ⟨1, none, [7, 99], 4, none, 2⟩ 0 none (by decide +kernel) (by decide +kernel) (by decide +kernel)
      (by decide +kernel) (.inl (by decide +kernel))) ∧
    Applies ((h.2 ((serving0 []).withCmd (cmdOf 3 (leBytes 8 77) [])) 0 7 (cmdOf 3 (leBytes 8 77) []) (by decide +kernel)).2.2.2.1 (by decide +kernel)
      ⟨0, 77, 5, 2, 1, none, 4, [], none, [7, 99]⟩ (by decide +kernel) _ rfl |>.1 rfl) ∧
    Applies ((h.2 ((serving0 []).withCmd (cmdOf 4 (leBytes 8 9) adapterImage)) 0 7 (cmdOf 4 (leBytes 8 9) adapterImage) (by decide +kernel)).2.2.2.2.1
      (by decide +kernel) (by decide +kernel) (by decide +kernel) set1 (by decide +kernel) (by decide +kernel)) ∧
    Applies ((h.2 ((serving0 []).withCmd (cmdOf 14 (List.replicate 32 1) [])) 0 7 (cmdOf 14 (List.replicate 32 1) []) (by decide +kernel)).2.2.2.2.2
      (by decide +kernel)) := ⟨trivial, trivial, trivial, trivial, trivial, trivial, trivial, trivial⟩

/-- The state with request 1 and a command on ring 7. -/
def serving1 (st : ReqState) (c : Cmd) : State := (serving0 [request0 st []]).withCmd c
def pause1 : Cmd := cmdOf 8 (leBytes 4 1 ++ leBytes 4 1 ++ leBytes 8 64) []
def resume1 : Cmd := cmdOf 9 (leBytes 4 1 ++ leBytes 4 0) []
def cancel1 : Cmd := cmdOf 10 (leBytes 8 1) []

theorem witness_PauseResumeCancel (h : Obligations.PauseResumeCancel) :
    Applies (((h (serving1 .running pause1) 0 7 pause1 (request0 .running []) (by decide +kernel) (by decide +kernel)).1 (by decide +kernel)).1 rfl) ∧
    Applies (((h (serving1 .queued pause1) 0 7 pause1 (request0 .queued []) (by decide +kernel) (by decide +kernel)).1 (by decide +kernel)).2.1 rfl) ∧
    Applies (((h (serving1 .pausing pause1) 0 7 pause1 (request0 .pausing []) (by decide +kernel) (by decide +kernel)).1 (by decide +kernel)).2.2.1 rfl) ∧
    Applies (((h (serving1 .paused pause1) 0 7 pause1 (request0 .paused []) (by decide +kernel) (by decide +kernel)).1 (by decide +kernel)).2.2.2.1 rfl) ∧
    Applies (((h (serving1 .exporting pause1) 0 7 pause1 (request0 .exporting []) (by decide +kernel) (by decide +kernel)).1 (by decide +kernel)).2.2.2.2 rfl) ∧
    Applies (((h (serving1 .paused resume1) 0 7 resume1 (request0 .paused []) (by decide +kernel) (by decide +kernel)).2.1 (by decide +kernel) (by decide +kernel)).1 rfl) ∧
    Applies (((h (serving1 .pausing resume1) 0 7 resume1 (request0 .pausing []) (by decide +kernel) (by decide +kernel)).2.1 (by decide +kernel) (by decide +kernel)).2 rfl) ∧
    Applies (((h (serving1 .exporting cancel1) 0 7 cancel1 (request0 .exporting []) (by decide +kernel) (by decide +kernel)).2.2 (by decide +kernel)).1 (.inr (.inr rfl))) ∧
    Applies (((h (serving1 .running cancel1) 0 7 cancel1 (request0 .running []) (by decide +kernel) (by decide +kernel)).2.2 (by decide +kernel)).2 (.inl rfl)) :=
  ⟨trivial, trivial, trivial, trivial, trivial, trivial, trivial, trivial, trivial⟩

/-- Request 1 between layer chunks, and with a stage still to launch. -/
def resting0 (f : Bool) (st : List (Nat × Nat)) : Request := { request0 .running [] with inFlight := f, stages := st }

theorem witness_LayerChunksRun (h : Obligations.LayerChunksRun) :
    Applies ((h.1 (serving0 [request0 .queued []]) _ 0 (request0 .queued []) noFinds rfl (by decide +kernel)).1 (by decide +kernel) (by decide +kernel)) ∧
    Applies ((h.1 (serving0 [resting0 false []]) _ 0 (resting0 false []) noFinds rfl (by decide +kernel)).2.1 (by decide +kernel) (by decide) rfl (by decide)) ∧
    Applies ((h.1 (serving0 [resting0 true [(0, 0)]]) _ 0 (resting0 true [(0, 0)]) noFinds rfl (by decide +kernel)).2.2 (by decide +kernel) (by decide) rfl (by decide +kernel) 0 0 [] set1 rfl
      (by decide +kernel)) ∧
    Applies (h.2.1 (serving0 [request0 .running []]) 0 9 (request0 .running []) (by decide +kernel) rfl rfl (by decide +kernel) (by decide +kernel)) ∧
    Applies (h.2.2 (serving0 [request0 .exporting []]) 0 0 [0x3F800000, 0x40000000] (request0 .exporting []) member0 set1 (by decide +kernel) (by decide +kernel) (by decide +kernel) rfl rfl) :=
  ⟨trivial, trivial, trivial, trivial, trivial⟩

/-- A page of request 1 to be exported. -/
def page0 : ExpObj := ⟨0, 0, 0, false, 0, 0, 256, 3, 0, true, false⟩
/-- A SHIFT by 1 of group 255 in two pieces. -/
def shiftCall (piece : Nat) : Call := ⟨[0, 0, 0, 0] ++ leBytes 4 255 ++ leBytes 4 1 ++ leBytes 4 2 ++ List.replicate 48 0, 0, piece, 0, none, false, none, 0, 0, 0, false⟩
/-- Call 31 of partition 0, in a group of this node and node 6. -/
def calls0 (piece : Nat) : State :=
  { hostRegs with
    srv := { Serving.fresh with groups := [(255, (64, [5, 6]))] }, net := { Net.fresh with calls := [(31, shiftCall piece)] } }

/-- The stream of member 0's pages to node 6, ended. -/
def stream6 : ExpStream := ⟨6, 1, 0, none⟩
def member1 : ReqMember := { member0 with streams := [stream6, stream6, stream6] }
/-- Request 1 exporting its objects on that stream. -/
def exporting1 (os : List ExpObj) : Request := { request0 .exporting os with members := [member1], classIdx := some 0 }
def exportState (os : List ExpObj) : State := (serving0 [exporting1 os]).withRegs [(.vngPort, 0, 13, 2), (.prtVngFlowq, 0, 0, 0x10001)]
/-- The first token of member 0, to be exported. -/
def token0 : ExpObj := { page0 with kind := 2, agreed := true }
/-- The same group's call with a permutation that names a rank it has not. -/
def badCall : Call := { shiftCall 0 with desc := [1, 0, 0, 0] ++ leBytes 4 255 ++ leBytes 4 1 ++ leBytes 4 2 ++ List.replicate 48 9 }
/-- An all-gather, whose segments go round the ring. -/
def ringCall : Call := { shiftCall 0 with desc := [2, 0, 0, 0] ++ leBytes 4 255 ++ leBytes 4 1 ++ leBytes 4 2 ++ List.replicate 48 0 }
def callOf (c : Call) : State := { calls0 0 with net := { Net.fresh with calls := [(31, c)] } }

theorem witness_ExportsAndPiecesSend (h : Obligations.ExportsAndPiecesSend) :
    Applies ((h.1 (exportState [page0]) _ 0 (exporting1 [page0]) noFinds rfl (by decide +kernel)).1 page0 [] rfl) ∧
    Applies ((h.1 (exportState []) _ 0 (exporting1 []) noFinds rfl (by decide +kernel)).2 0 0 [(0, 1)] stream6 rfl rfl (by decide +kernel) (by decide +kernel) (.inr (.inr (by decide +kernel)))) ∧
    Applies (h.2.1 (exportState [token0]) _ _ (exporting1 [token0]) token0 stream6 _ (by decide) rfl (by decide +kernel) (by decide +kernel) (by decide +kernel) rfl (fun _ => (by decide +kernel)) (by decide +kernel)
      (by rw [if_neg (by decide)]) (Prod.eta _).symm) ∧
    Applies (h.2.2.1 ((serving0 [{ request0 .running [] with classIdx := some 0 }]).withRegs [(.errGate, 0, 0, 1)]) 0
      { request0 .running [] with classIdx := some 0 } (by decide +kernel) (by decide +kernel) rfl) ∧
    Applies ((h.2.2.2.1 (calls0 0) _ 0 31 64 0 (shiftCall 0) [5, 6] noFinds rfl (by decide +kernel) (by decide +kernel) (by decide +kernel) (by decide +kernel) (by decide +kernel)).2 1 _ (by decide +kernel) rfl |>.1 (by decide +kernel)) ∧
    Applies ((h.2.2.2.1 (callOf badCall) _ 0 31 64 0 badCall [5, 6] noFinds rfl (by decide +kernel) (by decide +kernel) (by decide +kernel) (by decide +kernel) (by decide +kernel)).1 (by decide +kernel)) ∧
    Applies ((h.2.2.2.1 (callOf ringCall) _ 0 31 64 0 ringCall [5, 6] noFinds rfl (by decide +kernel) (by decide +kernel) (by decide +kernel) (by decide +kernel) (by decide +kernel)).2 1 _ (by decide +kernel) rfl |>.2 (by decide +kernel)) ∧
    Applies (h.2.2.2.2 (calls0 1) 0 31 64 0 1 (shiftCall 1) [5, 6] (by decide +kernel) (by decide +kernel) (by decide +kernel) (by decide +kernel) (by decide +kernel) (by decide +kernel)) :=
  ⟨trivial, trivial, trivial, trivial, trivial, trivial, trivial, trivial⟩

/-! ### Statements apply: Vyngo -/

/-- A UID that is not the unit's. -/
theorem otherUid : Config.uid ^^^ 1#128 ≠ Config.uid := by
  intro h
  have := congrArg (fun v => v.getLsbD 0) h
  simp at this
/-- Where the unit's UID is not 0, 0 is lower. -/
theorem lowerUid (h : Config.uid ≠ 0) : (0 : BitVec 128).toNat < Config.uid.toNat := by
  have : Config.uid.toNat ≠ 0 := fun e => h (BitVec.eq_of_toNat_eq (by simpa using e))
  simpa using Nat.pos_of_ne_zero this

/-- Port 13 up, and the claim of node 5 in a state, so many CLAIMs sent. -/
def claiming (st : Nat) (n : Net) : State :=
  { State.reset.withRegs [(.vngPort, 0, 13, 2), (.vngNodestat, 0, 0, BitVec.ofNat 32 (st * 2 ^ 24 + 5))] with net := { n with claimId := 5 } }

theorem witness_NodeIdsAreClaimed (h : Obligations.NodeIdsAreClaimed) :
    Applies ((h (claiming 3 Net.fresh) 5 0 0).1 (by decide +kernel) (by decide +kernel)) ∧
    Applies ((h (claiming 1 Net.fresh) 5 0 (Config.uid ^^^ 1#128)).2.1 (by decide +kernel) rfl otherUid) ∧
    Applies ((h (claiming 1 { Net.fresh with collided := [Config.uid ^^^ 1#128] }) 5 0 (Config.uid ^^^ 1#128)).2.1 (by decide +kernel) rfl otherUid) ∧
    Applies ((h (claiming 2 Net.fresh) 5 0 (Config.uid ^^^ 1#128)).2.2.1 (.inr (by decide +kernel)) rfl otherUid) ∧
    (∀ u : Config.uid ≠ 0, Applies ((h (claiming 3 Net.fresh) 5 0 0).2.2.2.1 (by decide +kernel) (by decide +kernel) (lowerUid u) rfl
      (.ofAll (by decide +kernel)))) ∧
    Applies ((h (claiming 1 { Net.fresh with claimSends := 2 }) 5 0 0).2.2.2.2.1 (by decide +kernel) (by decide +kernel) (by decide +kernel)) ∧
    Applies ((h (claiming 1 { Net.fresh with claimSends := 3 }) 5 0 0).2.2.2.2.2.1 (by decide +kernel) (by decide +kernel) (by decide +kernel)) ∧
    Applies ((h (claiming 2 Net.fresh) 5 0 0).2.2.2.2.2.2 (by decide +kernel)) :=
  ⟨trivial, trivial, trivial, trivial, fun _ => trivial, trivial, trivial, trivial⟩

/-- Port 13 down, its domain ON, lane 15 pending. -/
def port13 (spare : SMap Nat) : State :=
  { State.reset.withRegs [(.vngPort, 0, 13, 8)] with
    net := { Net.fresh with pendLanes := [(13, 0x8000)], spareLane := spare }
    pwr := { Power.fresh with domains := [(1285, ⟨.on, none, false⟩)] } }

theorem witness_PortsAndLanesChange (h : Obligations.PortsAndLanesChange) :
    Applies ((h (port13 []) 13 15 (by decide) (by decide)).2.1 (by decide +kernel) (by decide +kernel) 2 (by decide +kernel)) ∧
    Applies ((h (port13 [(13, 15)]) 13 15 (by decide) (by decide)).2.1 (by decide +kernel) (by decide +kernel) 3 (by decide +kernel)) ∧
    Applies ((h (port13 []) 13 15 (by decide) (by decide)).2.2.2.1 (by decide +kernel) (by decide +kernel)) ∧
    Applies ((h (port13 [(13, 15)]) 13 15 (by decide) (by decide)).2.2.2.2.1 (by decide +kernel) (by decide +kernel)) :=
  ⟨trivial, trivial, trivial, trivial⟩

/-- A frame of a flow from node 6, partition 1, to partition 0. -/
def frame0 (apsn credit psn : Nat) (body : List Byte) : Frame := ⟨13, 6, 1, 0, 9, psn, apsn, credit, false, false, [], body⟩
def outMsg0 (psn : Nat) : OutMsg := ⟨psn, 0x30, [1, 2], [], 13, 0, 0⟩
/-- A flow to node 6 with two messages not acknowledged. -/
def out0 (ms : List OutMsg) : OutFlow := ⟨0, 6, 1, 9, 7, 2047, true, ms, []⟩
def in0 (due : Bool) : InFlow := ⟨6, 1, 0, 9, 4, [], 3, due⟩
/-- A node that owns ID 5, with an outbound flow 2 and inbound flow 3. -/
def flows0 (ms : List OutMsg) (due : Bool) : State := claiming 3 { Net.fresh with outs := [(2, out0 ms)], ins := [(3, in0 due)] }
/-- The node as one of a mirrored pair with node 6. -/
def mirror0 (out : List (Nat × Nat × Nat × Nat)) : State :=
  (claiming 3 { Net.fresh with checksOut := out }).withRegs [(.vngMirror, 0, 0, 0x1000006)]
/-- A node with a tier request 0x55 on its appliance. -/
def appliance0 (store : Bool) : State := claiming 3 { Net.fresh with tiers := [(0x55, ⟨0, 5, 3, 15, 2, 6, 0, 0, 16, store⟩)], ins := [(3, in0 false)] }
def answer0 : List Byte := leBytes 4 0x55 ++ leBytes 4 0 ++ List.replicate 16 7

/-- The hypotheses of the statement about a data frame that is taken are met. -/
def takes (deliver : State → Frame → State) (c : Instr) (type : Nat) (s : State) (f : Frame) (h : Obligations.FlowsCarryFrames)
    (o : (c = .coll f ∧ type = 0x30 ∧ deliver = State.deliverColl) ∨ (c = .tierRdata f ∧ type = 0x41 ∧ deliver = fun s g => s.deliverTier false g) ∨
      (c = .tierWack f ∧ type = 0x43 ∧ deliver = fun s g => s.deliverTier true g) ∨
      (c = .mirrorCheck f ∧ type = 0x50 ∧ deliver = State.deliverCheck)) (t : s.takesFrame f = true) : Prop :=
  Applies ((h.2.1 s f c type deliver o).2 t _ _ _ _ rfl (Prod.eta _).symm rfl)

theorem witness_FlowsCarryFrames (h : Obligations.FlowsCarryFrames) :
    Applies (h.1.1 (flows0 [outMsg0 5, outMsg0 6] false) (frame0 6 5 0 [1]) 2 (out0 [outMsg0 5, outMsg0 6]) (by decide +kernel) (by decide +kernel) |>.2.2 rfl) ∧
    Applies (h.1.2.1 (flows0 [] true) 3 13 (in0 true) (by decide +kernel) rfl (by decide +kernel) (by decide +kernel)) ∧
    Applies (h.1.2.2.1 (flows0 [outMsg0 5, outMsg0 6] false) 2 6 13 (out0 [outMsg0 5, outMsg0 6]) (outMsg0 6) (by decide +kernel) (by decide +kernel) (by decide +kernel) (by decide +kernel)) ∧
    Applies ((h.1.2.2.2.1 (flows0 [] false) 2).1 (out0 []) (by decide) (by decide +kernel) rfl rfl) ∧
    Applies ((h.1.2.2.2.1 (flows0 [] false) 3).2 (in0 false) (by decide +kernel) rfl rfl) ∧
    Applies (h.1.2.2.2.2 (flows0 [outMsg0 5] false) _ _ 2 (out0 [outMsg0 5]) (by decide +kernel) (by decide) rfl rfl) ∧
    Applies ((h.2.1 State.reset (frame0 0 0 4 []) (.coll (frame0 0 0 4 [])) 0x30 State.deliverColl (.inl ⟨rfl, rfl, rfl⟩)).1 (by decide +kernel)) ∧
    takes _ _ _ (flows0 [] false) (frame0 0 0 4 [1, 2]) h (.inl ⟨rfl, rfl, rfl⟩) (by decide +kernel) ∧
    takes _ _ _ (appliance0 false) (frame0 0 0 4 answer0) h (.inr (.inl ⟨rfl, rfl, rfl⟩)) (by decide +kernel) ∧
    takes _ _ _ (appliance0 true) (frame0 0 0 4 (answer0.take 6)) h (.inr (.inr (.inl ⟨rfl, rfl, rfl⟩))) (by decide +kernel) ∧
    takes _ _ _ (mirror0 []) (frame0 0 0 4 (List.replicate 24 1)) h (.inr (.inr (.inr ⟨rfl, rfl, rfl⟩))) (by decide +kernel) ∧
    Applies ((h.2.2.1 (flows0 [] false) (frame0 0 0 4 [1, 2]) 3 0x30 (in0 false) (by decide +kernel) (by decide +kernel) rfl).1 rfl rfl) ∧
    Applies ((h.2.2.1 (flows0 [] false) (frame0 0 0 2051 [1, 2]) 3 0x30 (in0 false) (by decide +kernel) (by decide +kernel) rfl).2 (by decide) (by decide) (by simp [in0])) ∧
    Applies ((h.2.2.2.1 (appliance0 false) (frame0 0 0 4 answer0) ⟨0, 5, 3, 15, 2, 6, 0, 0, 16, false⟩ (by decide +kernel) rfl (by decide +kernel)).2.1 (by decide +kernel) rfl (by decide +kernel)) ∧
    Applies ((h.2.2.2.1 (appliance0 false) (frame0 0 0 4 (leBytes 4 0x55 ++ [1, 0])) ⟨0, 5, 3, 15, 2, 6, 0, 0, 16, false⟩ (by decide +kernel) rfl (by decide +kernel)).1 (by decide +kernel)) ∧
    Applies ((h.2.2.2.1 (appliance0 true) (frame0 0 0 4 (answer0.take 6)) ⟨0, 5, 3, 15, 2, 6, 0, 0, 16, true⟩ (by decide +kernel) rfl (by decide +kernel)).2.2 (by decide +kernel) rfl) ∧
    Applies ((h.2.2.2.2.1 (mirror0 []) (frame0 0 0 4 (List.replicate 24 1)) _ (by decide +kernel) (by decide +kernel) (by decide +kernel) rfl).1 (by decide +kernel)) ∧
    Applies ((h.2.2.2.2.1 (mirror0 [(0x1010101, checkKey 1 1 1 1 0x1010101, 3, 4)]) (frame0 0 0 4 (List.replicate 24 1)) _ (by decide +kernel) (by decide +kernel) (by decide +kernel) rfl).2
      (0x1010101, checkKey 1 1 1 1 0x1010101, 3, 4) (by decide +kernel)) ∧
    Applies (h.2.2.2.2.2 (mirror0 [(1, 2, 3, 4)]) (by decide +kernel) (by decide)) :=
  ⟨trivial, trivial, trivial, trivial, trivial, trivial, trivial, trivial, trivial, trivial, trivial, trivial, trivial, trivial, trivial, trivial, trivial,
    trivial, trivial⟩

theorem witness_AttachesAndPages (h : Obligations.AttachesAndPages) :
    Applies (h.1 hostRegs false true 0 31 (by decide) (by decide)) ∧
    Applies (h.1 hostRegs true true 7 31 (by decide) (by decide)) ∧
    Applies (h.2.2 (hostRegs.withRegs [(.prtStpgLo, 31, 0, 0x400)]) 31 9 8 (by decide) (fun _ => by decide +kernel) (by decide +kernel)
      (by decide +kernel) (by decide +kernel)) ∧
    Applies (h.2.2 (hostRegs.withRegs [(.hifGstpgLo, 0, 1, 0x400), (.hifLink, 0, 1, 5)]) 33 9 8 (by decide) (fun l => absurd l (by decide))
      (by decide +kernel) (by decide +kernel) (by decide +kernel)) := ⟨trivial, trivial, trivial, trivial⟩

/-! ### Statements apply: Power -/

/-- An event open with a reason in a scope. -/
def openEvent0 (reason scope : Nat) : ThrottleRec := ⟨0, 0, none, reason, scope, 0⟩
/-- The state after reset with power readings changed. -/
def power0 (f : Power → Power) : State := { State.reset with pwr := f State.reset.pwr }

theorem witness_SupplyBeginsAndEnds (h : Obligations.SupplyBeginsAndEnds) :
    Applies ((h State.reset).2.1 (by decide +kernel)) ∧
    Applies ((h { State.reset with up := { Startup.fresh with resetHigh := false } }).2.2.1 rfl) := ⟨trivial, trivial⟩

theorem witness_CapIsLowestLimit (h : Obligations.CapIsLowestLimit) :
    Applies (h.1 State.reset) ∧
    Applies (((h.2 State.reset).1 46000).1 (by decide)) ∧
    Applies (((h.2 State.reset).1 45999).2 (by decide)) ∧
    Applies (((h.2 State.reset).2.1 46999).1 (.inl (by decide))) ∧
    Applies (((h.2 (power0 (fun p => { p with warn := true, records := [openEvent0 4 255] }))).2.1 47000).2 (by decide) rfl) ∧
    Applies ((h.2 State.reset).2.2.1 48000 0 3500) ∧
    Applies ((h.2 State.reset).2.2.2.1 99 1001) ∧
    Applies ((h.2 State.reset).2.2.2.2.1 400 500 99) ∧
    Applies ((h.2 (power0 (fun p => { p with flow := 400 }))).2.2.2.2.2.1 (by decide +kernel)) ∧
    Applies ((h.2 (power0 (fun p => { p with flow := 399 }))).2.2.2.2.2.2.1 (by decide +kernel)) ∧
    Applies ((h.2 (power0 (fun p => { p with leased := true }))).2.2.2.2.2.2.2 rfl) :=
  ⟨trivial, trivial, trivial, trivial, trivial, trivial, trivial, trivial, trivial, trivial, trivial⟩

theorem witness_SensorsAct (h : Obligations.SensorsAct) :
    Applies (h.1 (ready35 none) _ [0, 1151, 1247, 1271] 2 rfl) ∧
    Applies ((h.2 (power0 (fun p => { p with flow := 99 }))).1 (by decide +kernel)) ∧
    Applies ((h.2 (power0 (fun p => { p with flow := 100 }))).2.1 (by decide +kernel)) ∧
    Applies ((h.2 State.reset).2.2.1 400 50 31) ∧
    Applies ((h.2 (ready35 none)).2.2.2.1 95 11 1679 (by decide)) ∧
    Applies ((h.2 (ready35 none)).2.2.2.1 95 11 1680 (by decide)) ∧
    Applies ((h.2 (stack0 [])).2.2.2.2 23 1521 (by decide)) ∧
    Applies ((h.2 (stack0 [])).2.2.2.2 0 1680 (by decide)) := ⟨trivial, trivial, trivial, trivial, trivial, trivial, trivial, trivial⟩

/-- Field 95 with its rail at 700 mV, with phases and spares, and some of it changed. -/
def field95 (phases spares : Nat) (g : Field) : State :=
  { State.reset.withRegs [(.fldPwrRail, 95, 0, BitVec.ofNat 32 (700 + 700 * 2 ^ 10 + phases * 2 ^ 20 + spares * 2 ^ 24))] with fields := [(95, g)] }

theorem witness_FieldsFollowTheirRails (h : Obligations.FieldsFollowTheirRails) :
    Applies (((h (field95 14 2 { Field.fresh with slewFrom := 700 }) 95 (by decide)).1 451 (by decide) (by decide)).1 (by decide +kernel)) ∧
    Applies (((h (field95 14 2 { Field.fresh with slewFrom := 700 }) 95 (by decide)).1 620 (by decide) (by decide)).2 (by decide +kernel)) ∧
    Applies ((h (field95 14 2 Field.fresh) 95 (by decide)).2.1 450 (.fieldBrownoutWarn 95 450) (.inl ⟨rfl, by decide⟩)) ∧
    Applies ((h (field95 14 2 Field.fresh) 95 (by decide)).2.1 1023 (.fieldOvercurrent 95 1023) (.inr ⟨rfl, by decide⟩)) ∧
    Applies (((h (field95 14 2 { Field.fresh with brown := true }) 95 (by decide)).2.2.1 660 10 (by decide)).1 (by decide +kernel) (by decide) (by decide +kernel)) ∧
    Applies (((h (field95 14 2 { Field.fresh with brown := true }) 95 (by decide)).2.2.1 659 10 (by decide)).2 (.inr (.inr (by decide +kernel)))) ∧
    Applies ((h (field95 14 0 Field.fresh) 95 (by decide)).2.2.2.1 14 (by decide +kernel) (by decide)) ∧
    Applies ((h (field95 13 1 { Field.fresh with phasesOut := 1 }) 95 (by decide)).2.2.2.2.1 (by decide +kernel) (by decide +kernel) (by decide +kernel)) ∧
    Applies ((h (field95 14 2 Field.fresh) 95 (by decide)).2.2.2.2.2.1 9 3 2 (by decide)) ∧
    Applies ((h (field95 14 2 Field.fresh) 95 (by decide)).2.2.2.2.2.2.2.2 ⟨95, 3, 70000, 3⟩ 5 _ _ rfl rfl rfl) :=
  ⟨trivial, trivial, trivial, trivial, trivial, trivial, trivial, trivial, trivial, trivial⟩

/-- A hint of group 0 is pending, of so many joules in 1 s, in a machine granted 20,000 W. -/
def hint0 (j : Nat) : State :=
  { State.reset.withRegs [(.pwrHint, 0, 0, 0x10000)] with
    pwr := { Power.fresh with cap := 20000, hints := [⟨0, 0, 1000000, j⟩] } }

theorem witness_BudgetsAndHints (h : Obligations.BudgetsAndHints) :
    Applies ((h State.reset).1 48000 5 6 _ rfl) ∧
    Applies (((h ((hint0 20000).withRegs [(.pwrHint, 0, 0, 0)])).2.1 0 0 ⟨0, 0, 1000000, 20000⟩ (by decide +kernel)).1 (by decide +kernel)) ∧
    Applies ((((h (hint0 20000)).2.1 0 0 ⟨0, 0, 1000000, 20000⟩ (by decide +kernel)).2 (by decide +kernel)).1 (by decide +kernel)) ∧
    Applies ((((h (hint0 20001)).2.1 0 0 ⟨0, 0, 1000000, 20001⟩ (by decide +kernel)).2 (by decide +kernel)).2.2 (by decide +kernel) (by decide +kernel) (by decide +kernel)) ∧
    Applies ((h (power0 (fun p => { p with ballast := [(31, 5)] }))).2.2.1 31 (by decide +kernel)) ∧
    Applies ((h (power0 (fun p => { p with heldGroups := [31] }))).2.2.2.1 31 (by decide +kernel)) ∧
    Applies (((h (power0 (fun p => { p with records := [openEvent0 4 255] }))).2.2.2.2 4 255 256).2 (openEvent0 4 255) (by decide +kernel) (by decide +kernel)) ∧
    Applies (((h (power0 (fun p => { p with warn := true, records := [openEvent0 4 255] }))).2.2.2.2 4 255 256).1 (by decide +kernel)) :=
  ⟨trivial, trivial, trivial, trivial, trivial, trivial, trivial, trivial⟩

/-- The clove (3, 5), whose strip is in a state. -/
def strip0 (d : Domain) : State := { ready35 none with pwr := { (ready35 none).pwr with domains := [(0, d)] } }
/-- A domain in a state, alone. -/
def domain0 (n : Nat) (d : Domain) : State := { State.reset with pwr := { Power.fresh with domains := [(n, d)] } }

theorem witness_DomainsSwitch (h : Obligations.DomainsSwitch) :
    Applies ((h (strip0 ⟨.on, none, true⟩)).1 0 0 (by decide +kernel) (by decide +kernel) (by decide +kernel) (by decide +kernel) (by decide +kernel)) ∧
    Applies ((h (strip0 ⟨.up, some false, false⟩)).2.1 0 0 [] (by decide +kernel)) ∧
    Applies ((h (domain0 1286 ⟨.up, none, false⟩)).2.1 1286 0 [] (by decide +kernel)) ∧
    Applies ((h (domain0 1285 ⟨.up, some true, false⟩)).2.1 1285 0 [] (by decide +kernel)) ∧
    Applies ((h (domain0 1271 ⟨.up, none, false⟩)).2.1 1271 0x3 [(31, 3)] (by decide +kernel)) ∧
    Applies ((h (strip0 ⟨.down, some true, false⟩)).2.2 0 (by decide +kernel)) ∧
    Applies ((h (domain0 1271 ⟨.down, none, false⟩)).2.2 1271 (by decide +kernel)) := ⟨trivial, trivial, trivial, trivial, trivial, trivial, trivial⟩

/-! ### Statements apply: Errors, start-up and resets -/

/-- A request of group 0 that runs, with its abort asked for. -/
def abort0 (b : Bool) : Abort := ⟨0, 0x305, 1, 7, b⟩
def errors0 (e : Err) : State := { serving0 [request0 .running []] with err := e }
/-- A log record for the persistent log. -/
def logRec0 : LogRec := ⟨9, 8, 0x305, 4, 0, 0, 0, 0, 0⟩
/-- The gate of partition 0 closed, with causes and a held write. -/
def gated0 (cs : List Nat) : State :=
  { hostRegs.withRegs [(.errGate, 0, 0, 1)] with
    err := { Err.fresh with gates := [(0, cs)] }, host := { HostIf.fresh with held := [(0, .msix false 3)] } }
/-- The persistent log about to write at an entry. -/
def plog0 (at_ sec : Nat) (es : SMap (LogRec × Nat)) : State :=
  errors0 { Err.fresh with plogWait := [logRec0], plogAt := at_, plogSec := sec, plog := es }

theorem witness_AbortsGatesAndLog (h : Obligations.AbortsGatesAndLog) :
    Applies (((h ((errors0 { Err.fresh with aborts := [abort0 false] }).withRegs [(.glbCumin, 0, 0, 0)])).1 0 (abort0 false) (by decide +kernel)).1 (.inl (by decide +kernel))) ∧
    Applies (((h ((errors0 { Err.fresh with aborts := [abort0 false] }).withRegs [(.glbCumin, 0, 0, 1)])).1 0 (abort0 false) (by decide +kernel)).2 (by decide +kernel)
      (fun b => absurd b (by decide))) ∧
    Applies ((h (errors0 { Err.fresh with aborts := [abort0 false] })).2.1 0 (abort0 false) (by decide +kernel)) ∧
    Applies (((h (errors0 { Err.fresh with progress := [(0, true)] })).2.2.1 0 (request0 .running []) (by decide +kernel)).1 (.inl (by decide +kernel))) ∧
    Applies (((h (errors0 Err.fresh)).2.2.1 0 (request0 .running []) (by decide +kernel)).2 (by decide +kernel) (by decide +kernel) (by decide +kernel) _ rfl) ∧
    Applies (((h (gated0 [2])).2.2.2.1 0 (by decide) (by decide +kernel)).1 (by decide +kernel)) ∧
    Applies (((h (gated0 [0])).2.2.2.1 0 (by decide) (by decide +kernel)).2 (by decide +kernel)) ∧
    Applies (((h (plog0 5 64 [])).2.2.2.2.1 logRec0 [] rfl rfl).1 (by decide +kernel) (by decide)) ∧
    Applies ((((h (plog0 507903 63 [])).2.2.2.2.1 logRec0 [] rfl rfl).2 (.inr (by decide))).1 (.inl (by decide))) ∧
    Applies ((((h (plog0 0 0 [(1023, (logRec0, 1))])).2.2.2.2.1 logRec0 [] rfl rfl).2 (.inr (by decide))).2 (by decide) (by decide +kernel)) :=
  ⟨trivial, trivial, trivial, trivial, trivial, trivial, trivial, trivial, trivial, trivial⟩

/-- What self-test finds: a row, wires of a link and of a channel, a channel, a pair and firmware image A all bad. -/
def found0 : Findings := ⟨[(95, 95)], [(95, 3, 7)], [(23, 31)], [(23, 0)], [3], false⟩
/-- Start-up at step n, on a good busbar, with an address or not. -/
def stage0 (n : Nat) (a : Bool) : State :=
  { State.reset.withRegs [(.glbStart, 0, 0, BitVec.ofNat 32 n), (.mgtSmb, 0, 0, if a then 0x80 else 0)] with pwr := { Power.fresh with good := true } }

theorem witness_StartupStages (h : Obligations.StartupStages) :
    Applies ((h (stage0 1 false) 1 (by decide +kernel)).1 found0 7 rfl rfl rfl) ∧
    Applies ((h (stage0 2 false) 2 (by decide +kernel)).2.1 found0 7 (by decide) (by decide) (by decide +kernel)) ∧
    Applies ((h (stage0 7 false) 7 (by decide +kernel)).2.1 found0 7 (by decide) (by decide) (by decide +kernel)) ∧
    Applies ((h (stage0 8 true) 8 (by decide +kernel)).2.2.1 found0 7 rfl) ∧
    Applies ((h (stage0 9 false) 9 (by decide +kernel)).2.2.2.1 found0 7 rfl |>.1 (by decide +kernel)) ∧
    Applies ((h (stage0 9 true) 9 (by decide +kernel)).2.2.2.1 found0 7 rfl |>.2 (by decide +kernel)) ∧
    Applies ((h (stage0 10 true) 10 (by decide +kernel)).2.2.2.2.1 (.startupStageDone found0 7) (.inl ⟨found0, 7, rfl, (by decide +kernel), (by decide +kernel)⟩) rfl) ∧
    Applies ((h (stage0 10 true) 10 (by decide +kernel)).2.2.2.2.1 (.startupStageLimit ⟨[1289], found0, 7⟩) (.inr ⟨[1289], found0, 7, rfl⟩) rfl) ∧
    Applies ((h (stage0 3 true) 3 (by decide +kernel)).2.2.2.2.2.1 [0] found0 7 (by decide) (by decide) (by decide)) ∧
    Applies ((h (stage0 7 true) 7 (by decide +kernel)).2.2.2.2.2.1 [1271] found0 7 (by decide) (by decide) (fun _ => ⟨(by decide +kernel), by decide, by decide⟩)) ∧
    Applies ((h (stage0 7 true) 7 (by decide +kernel)).2.2.2.2.2.2.1 [1288] found0 7 rfl (by decide +kernel) (by decide) |>.1 (by decide) (by decide +kernel)) ∧
    Applies ((h (stage0 7 true) 7 (by decide +kernel)).2.2.2.2.2.2.1 [1288, 1289] found0 7 rfl (by decide +kernel) (by decide) |>.2 (by decide)) ∧
    Applies ((h (stage0 8 false) 8 (by decide +kernel)).2.2.2.2.2.2.2 [] found0 7 (.inl rfl)) ∧
    Applies ((h (stage0 9 false) 9 (by decide +kernel)).2.2.2.2.2.2.2 [] found0 7 (.inr rfl)) :=
  ⟨trivial, trivial, trivial, trivial, trivial, trivial, trivial, trivial, trivial, trivial, trivial, trivial, trivial, trivial⟩

/-- The module at Ready with start-up and repair state as given. -/
def repair0 (u : Startup) : State := { hostRegs with up := u }

/-- The module with pair 2 in use. -/
def pair2 (u : Startup) : State := (repair0 u).withRegs [(.glbCumin, 0, 0, 0xF)]

theorem witness_ResetsAndRepair (h : Obligations.ResetsAndRepair) :
    Applies ((h (stage0 5 false)).1.1 (by decide +kernel)) ∧
    Applies ((h (repair0 { Startup.fresh with resets := [(31, (0x305, 3, 2))] })).2.1 31 (0x305, 3, 2) (by decide) (by decide +kernel)) ∧
    Applies (((h (pair2 Startup.fresh)).2.2.1 2 (.lockstepDivergence 2) (by decide) (by decide +kernel)).1 (.inr ⟨rfl, (by decide +kernel)⟩)) ∧
    Applies (((h (pair2 Startup.fresh)).2.2.1 3 (.watchdogExpiry 3) (by decide) (by decide +kernel)).1 (.inl rfl)) ∧
    Applies (((h (pair2 { Startup.fresh with diverged := [(2, [0])], time := 1000 })).2.2.1 2 (.lockstepDivergence 2) (by decide) (by decide +kernel)).2 rfl
      ⟨0, (by decide +kernel), (by decide +kernel)⟩) ∧
    Applies ((h (repair0 { Startup.fresh with restarting := [2] })).2.2.2.1 2 (by decide) (by decide +kernel)) ∧
    Applies ((h (repair0 Startup.fresh)).2.2.2.2.1 (by decide +kernel) (by decide +kernel)) ∧
    Applies (((h (repair0 { Startup.fresh with epoch := some (31, true) })).2.2.2.2.2.2 31 true rfl (by decide) (by decide +kernel)).1 rfl) ∧
    Applies (((h ((serving0 []).withCmd submit |> fun t => { t with up := { Startup.fresh with epoch := some (0, false) } })).2.2.2.2.2.2 0 false rfl
      (by decide) (by decide +kernel)).2.1 rfl (by decide +kernel)) ∧
    Applies ((((h { serving0 [request0 .running []] with up := { Startup.fresh with epoch := some (0, false) } }).2.2.2.2.2.2 0 false rfl (by decide)
      (by decide +kernel)).2.2 rfl (by decide +kernel)).1 (request0 .running []) (by decide +kernel)) ∧
    Applies ((((h (repair0 { Startup.fresh with epoch := some (0, false) })).2.2.2.2.2.2 0 false rfl (by decide) (by decide +kernel)).2.2 rfl (by decide +kernel)).2 (by decide +kernel)) :=
  ⟨trivial, trivial, trivial, trivial, trivial, trivial, trivial, trivial, trivial, trivial, trivial⟩

/-! ### Statements apply: Register writes -/

theorem Sys2Proof.Machine.WriteReady.of {s : State} {m : Master} {r : Reg} {blk idx : Nat} {v : W32}
    (h : (s.ready && (match attachOf m with
      | some b => s.attachOpen b && !s.waitsClear m (r.addr blk idx) v
      | none => true) && (m != .monitor || s.unlocked) && decide (blk < r.info.blocks) && decide (idx < r.info.count) &&
      r.addr blk idx % 4 == 0 && Reg.at? (r.addr blk idx) == some (r, blk, idx) && !s.foreign m (offPart (r.addr blk idx)) &&
      (r.info.rwl == 0 || !s.flag .prtLock (offPart (r.addr blk idx)) 0 0)) = true) : WriteReady s m r blk idx v := by
  simp only [Bool.and_eq_true, Bool.or_eq_true, Bool.not_eq_true', decide_eq_true_eq, beq_iff_eq, bne_iff_ne] at h
  obtain ⟨⟨⟨⟨⟨⟨⟨⟨h1, h2⟩, h3⟩, h4⟩, h5⟩, h6⟩, h7⟩, h8⟩, h9⟩ := h
  refine ⟨h1, fun b e => ?_, fun e => ?_, ⟨h4, h5⟩, h6, h7, h8, h9⟩
  · rw [e] at h2
    simpa using h2
  · simpa [e] using h3

theorem witness_WritesStoreAndClear (h : Obligations.WritesStoreAndClear) :
    Applies ((h hostRegs .attachA 0xFFFFFFFF).1 .prtSroundSeed 0 0 (.of (by decide +kernel)) (by decide)) ∧
    Applies ((h hostRegs .mgmt 1).2.1 95 (.of (by decide +kernel)) (by decide)) ∧
    Applies ((h hostRegs .safety 1).2.2.1 0 (.of (by decide +kernel)) (by decide)) ∧
    Applies ((h hostRegs .attachA 1).2.2.2.1 95 (.of (by decide +kernel)) (by decide)) ∧
    Applies ((h hostRegs .attachA 1).2.2.2.2.1 (.of (by decide +kernel)) (by decide)) ∧
    Applies ((h hostRegs .mgmt 0x3F).2.2.2.2.2.1 (.of (by decide +kernel))) ∧
    Applies ((h hostRegs .safety 1).2.2.2.2.2.2 31 (.of (by decide +kernel))) := ⟨trivial, trivial, trivial, trivial, trivial, trivial, trivial⟩

/-- The module at Ready, its partitions without windows or caches, stack 23 with 8 MiB below its limit. -/
def fresh0 : State := State.reset.withRegs [(.hifLink, 0, 0, 5), (.glbStart, 0, 0, 0x11), (.prtHbmSize, 31, 7, 4), (.memStkStat, 0, 23, 0x40004)]
/-- The write of window 7 of partition 31 at the base of stack 23. -/
def win23 : W32 := BitVec.ofNat 32 (2 ^ 31 + 23 * 18432)

/-- Tier entry 15 in use by partition 31, which attach B owns. -/
def spill31 : State := hostRegs.withRegs [(.memSpillPmask, 0, 15, 0x80000000), (.hifOwn, 0, 0, 0x80000000)]

theorem witness_SetupsAreChecked (h : Obligations.SetupsAreChecked) :
    Applies (((h fresh0 .safety (win23 + 18432)).1 31 7 .prtHbmBase (win23 + 18432) 4 _ _ _ (by decide) (by decide) (.inl ⟨rfl, (by decide +kernel), (by decide +kernel)⟩) (.of (by decide +kernel)) rfl rfl rfl).1 (by decide +kernel) (by decide +kernel) (.inr (.inl (by decide +kernel)))) ∧
    Applies (((h fresh0 .safety win23).1 31 7 .prtHbmBase win23 4 _ _ _ (by decide) (by decide) (.inl ⟨rfl, (by decide +kernel), (by decide +kernel)⟩) (.of (by decide +kernel)) rfl rfl rfl).2.2 (.inr ⟨(by decide +kernel), (by decide +kernel), (by decide +kernel), (by decide +kernel), (by decide +kernel), (by decide +kernel)⟩)) ∧
    Applies (((h (fresh0.withRegs [(.prtHbmBase, 31, 7, win23)]) .safety win23).1 31 7 .prtHbmBase win23 4 _ _ _ (by decide) (by decide) (.inl ⟨rfl, (by decide +kernel), (by decide +kernel)⟩) (.of (by decide +kernel)) rfl rfl rfl).2.1 (by decide +kernel) (by decide +kernel)) ∧
    Applies (((h (fresh0.withRegs [(.prtHbmBase, 31, 7, win23)]) .safety 2).1 31 7 .prtHbmSize win23 2 _ _ _ (by decide) (by decide) (.inr ⟨rfl, (by decide +kernel), (by decide +kernel)⟩) (.of (by decide +kernel)) rfl rfl rfl).2.2 (.inr ⟨(by decide +kernel), (by decide +kernel), (by decide +kernel), (by decide +kernel), (by decide +kernel), (by decide +kernel)⟩)) ∧
    Applies (((h (fresh0.withRegs [(.prtHbmBase, 31, 7, win23)]) .safety 0x7FFFFFFF).1 31 7 .prtHbmBase 0x7FFFF 4 _ _ _ (by decide) (by decide) (.inl ⟨rfl, (by decide +kernel), (by decide +kernel)⟩) (.of (by decide +kernel)) rfl rfl rfl).2.2 (.inl (by decide +kernel))) ∧
    Applies (((h hostRegs .mgmt 1).2.1 .memSpillCtl 15 _ (by decide) (.of (by decide +kernel)) rfl).1 (by decide +kernel)) ∧
    Applies (((h spill31 .attachA 1).2.1 .memSpillPmask 15 _ (by decide) (.of (by decide +kernel)) rfl).2 31 (by decide) (by decide +kernel) (by decide +kernel)) ∧
    Applies (((h (hostRegs.withRegs [(.prtKvCtrl, 0, 0, 0)]) .attachA 1).2.2.1 0 (.prtKvCtrlEn .attachA 0 1) .prtKvCtrl false (by decide +kernel)
      (.of (by decide +kernel))).2 rfl (fun _ => by decide +kernel)) ∧
    Applies (((h (hostRegs.withRegs [(.prtKvCtrl, 0, 0, 0), (.prtKvFthi, 0, 0, 0), (.prtKvFtlo, 0, 0, 0x200000), (.prtHbmSize, 0, 0, 6), (.prtKvSeg, 0, 0, 0x80000002)])
      .attachA 1).2.2.1 0 (.prtKvCtrlEn .attachA 0 1) .prtKvCtrl true (by decide +kernel) (.of (by decide +kernel))).1 rfl) ∧
    Applies (((h hostRegs .attachA 0x7FFF1FFF).2.2.1 31 (.prtSrvQuotaWrite .attachA 31 0x7FFF1FFF) .prtSrvQuota false (by decide +kernel)
      (.of (by decide +kernel))).2 rfl (by simp)) ∧
    Applies (((h hostRegs .attachA 0).2.2.1 31 (.prtGroupWrite .attachA 31 0) .prtGroup true (by decide +kernel) (.of (by decide +kernel))).1 rfl) ∧
    Applies (((h hostRegs .attachA 0x10A).2.2.2.1 0 6 (by decide)).1 (.of (by decide +kernel)) (by decide +kernel) |>.2 (.inr (by decide +kernel))) ∧
    Applies (((h (hostRegs.withRegs [(.prtCqCfg, 31, 7, 0x10A)]) .attachA 0x110).2.2.2.1 31 7 (by decide)).1 (.of (by decide +kernel)) (by decide +kernel)
      |>.1 (by decide) (by decide +kernel)) ∧
    Applies (((h hostRegs .attachA 0x106).2.2.2.1 31 7 (by decide)).2 (.of (by decide +kernel)) (by decide +kernel) |>.1 (by decide)) ∧
    Applies (((h hostRegs .attachA 0x105).2.2.2.1 31 7 (by decide)).2 (.of (by decide +kernel)) (by decide +kernel) |>.2 (by decide)) ∧
    Applies (((h hostRegs .attachA 0x200080).2.2.2.2.1 31 (by decide) (.of (by decide +kernel))).1 (by decide +kernel)) ∧
    Applies (((h hostRegs .attachA 0x200081).2.2.2.2.1 31 (by decide) (.of (by decide +kernel))).2 (by decide +kernel)) ∧
    Applies (((h (hostRegs.withRegs [(.prtHbmSize, 0, 0, 64)]) .attachA 1).2.2.2.2.2 0 0 (.of (by decide +kernel)) (by decide) (by decide +kernel)
      (by decide +kernel)).1 (by decide +kernel)) ∧
    Applies (((h hostRegs .attachA 1).2.2.2.2.2 0 0 (.of (by decide +kernel)) (by decide) (by decide +kernel) (by decide +kernel)).2
      (by decide +kernel)) :=
  ⟨trivial, trivial, trivial, trivial, trivial, trivial, trivial, trivial, trivial, trivial, trivial, trivial, trivial, trivial, trivial, trivial, trivial, trivial, trivial⟩

/-! ### Statements apply: Orders and the management bus -/

/-- The module at Ready, with work under way in the clove (3, 5). -/
def busy0 : State := (with35 (fun c => { c with
  scratch := [(5, ⟨7, false, 0⟩)], regions := [(1, region 0 2 4)], fences := 3,
  loop := some (running [] false (.once [])) })).withRegs [(.hifLink, 0, 0, 5), (.glbStart, 0, 0, 0x11), (.prtLock, 0, 0, 1)]

theorem witness_OrdersAct (h : Obligations.OrdersAct) :
    Applies ((h hostRegs .mgmt 0x80000001).1 (.of (by decide +kernel)) (by decide)) ∧
    Applies ((h hostRegs .mgmt 0x80000001).2.1 31 (.of (by decide +kernel))) ∧
    Applies ((h hostRegs .mgmt 0x1000005).2.2.1 (.of (by decide +kernel)) (by decide) (by decide +kernel)) ∧
    Applies ((h hostRegs .mgmt 0x1000007).2.2.2.1 (.of (by decide +kernel)) (by decide) (by decide +kernel)) ∧
    Applies ((h hostRegs .mgmt 0x801).2.2.2.2.1 31 2 (by decide) (by decide) (.of (by decide +kernel))) ∧
    Applies ((h hostRegs .mgmt 0).2.2.2.2.2.1 31 (by decide) (.of (by decide +kernel)) (by decide +kernel)) ∧
    Applies (((h busy0 .mgmt 0).2.2.2.2.2.1 0 (by decide) (.of (by decide +kernel)) (by decide +kernel)).2 (by decide +kernel) (by decide +kernel)
      (by decide +kernel) _ rfl) ∧
    Applies ((h hostRegs .safety 0).2.2.2.2.2.2.1 31 (by decide) (.of (by decide +kernel))) ∧
    Applies (((h hostRegs .mgmt 0x4D52).2.2.2.2.2.2.2.1 (.of (by decide +kernel))).1 (by decide)) ∧
    Applies (((h hostRegs .mgmt 0x4D53).2.2.2.2.2.2.2.1 (.of (by decide +kernel))).2 (by decide)) ∧
    Applies (((h hostRegs .mgmt 0x11F).2.2.2.2.2.2.2.2.1 (.of (by decide +kernel)) (by decide) _ rfl).1 (by decide +kernel)) ∧
    Applies (((h (hostRegs.withRegs [(.glbMapCtrl, 0, 0, 0x200)]) .mgmt 0x11F).2.2.2.2.2.2.2.2.1 (.of (by decide +kernel)) (by decide) _ rfl).2 (by decide +kernel)) ∧
    Applies (((h hostRegs .mgmt 0x117).2.2.2.2.2.2.2.2.2.1 (.of (by decide +kernel)) (by decide) _ rfl).1 (by decide +kernel) (by decide +kernel) (by decide +kernel)) ∧
    Applies (((h hostRegs .mgmt 0x118).2.2.2.2.2.2.2.2.2.1 (.of (by decide +kernel)) (by decide) _ rfl).2 (.inr (.inl (by decide +kernel)))) ∧
    Applies (((h (hostRegs.withRegs [(.prtHbmSize, 0, 0, 4), (.prtHbmBase, 0, 0, 0x80000000)]) .mgmt 0x100).2.2.2.2.2.2.2.2.2.1 (.of (by decide +kernel))
      (by decide) _ rfl).2 (.inr (.inr ⟨0, by decide, (0, 4 * mib2), (by decide +kernel), (by decide +kernel)⟩))) ∧
    Applies ((h hostRegs .mgmt 0).2.2.2.2.2.2.2.2.2.2.1 ⟨.mgmt, false, Reg.addr .prtErrPolicy 31 0, 1⟩ ⟨.attachA, false, Reg.addr .prtErrPolicy 31 0, 0⟩
      _ rfl rfl rfl (by decide +kernel) (by decide +kernel) (by decide +kernel) (by decide +kernel)) ∧
    Applies ((h { hostRegs with up := { Startup.fresh with clears := [31] } } .mgmt 0).2.2.2.2.2.2.2.2.2.2.2 31 (by decide) (by decide)
      (by decide +kernel)) := ⟨trivial, trivial, trivial, trivial, trivial, trivial, trivial, trivial, trivial, trivial, trivial, trivial, trivial, trivial, trivial, trivial, trivial⟩

/-- The agent has power and the address 5 after a start-up step. -/
def managed0 (step : W32) (r : List (Reg × Nat × Nat × W32)) : State :=
  { State.reset.withRegs ([(.glbStart, 0, 0, step), (.mgtSmb, 0, 0, 0x185)] ++ r) with
    pwr := { State.reset.pwr with flow40 := true, domains := [(1290, ⟨.on, none, false⟩)] } }
theorem managed_of {step : W32} {r : List (Reg × Nat × Nat × W32)}
    (h : ((managed0 step r).domOn 1290 && (managed0 step r).addressed) = true) : Managed (managed0 step r) := by
  simpa [Managed] using h

theorem witness_ManagementReplies (h : Obligations.ManagementReplies) :
    Applies ((h (managed0 0x1B []) (managed_of (by decide +kernel))).1) ∧
    Applies ((h (managed0 0x1B []) (managed_of (by decide +kernel))).2.1 784 240) ∧
    Applies ((h (managed0 1 []) (managed_of (by decide +kernel))).2.1 1023 1) ∧
    Applies ((h (managed0 0x1B []) (managed_of (by decide +kernel))).2.1 1023 2) ∧
    Applies ((h (managed0 0x1B []) (managed_of (by decide +kernel))).2.2.2.1 65535 600 (by decide) (by decide) (by decide) (by decide +kernel)) ∧
    Applies ((h (managed0 0x1B []) (managed_of (by decide +kernel))).2.2.2.2.1 1 (.inr ⟨rfl, by decide +kernel⟩)) ∧
    Applies ((h (managed0 0x1B []) (managed_of (by decide +kernel))).2.2.2.2.2.2.1 0xFFFFFF (by decide)) ∧
    Applies ((h (managed0 0x1B []) (managed_of (by decide +kernel))).2.2.2.2.2.2.2.1 7) ∧
    Applies ((h (managed0 0x1B []) (managed_of (by decide +kernel))).2.2.2.2.2.2.2.2.1) ∧
    Applies ((h (managed0 0x1B []) (managed_of (by decide +kernel))).2.2.2.2.2.2.2.2.2.1 (Reg.addr .prtErrPolicy 31 0) (by decide +kernel)
      (by decide +kernel)) ∧
    Applies ((h (managed0 0x1B []) (managed_of (by decide +kernel))).2.2.2.2.2.2.2.2.2.2.1 0 60 (by decide) (by decide) (by decide +kernel)) ∧
    Applies ((h (managed0 0x1B []) (managed_of (by decide +kernel))).2.2.2.2.2.2.2.2.2.2.2.1 (Reg.addr .prtErrPolicy 31 0) 1) ∧
    Applies ((h (managed0 0xA []) (managed_of (by decide +kernel))).2.2.2.2.2.2.2.2.2.2.2.1 (Reg.addr .prtErrPolicy 31 0) 1) ∧
    Applies ((h (managed0 0x1B []) (managed_of (by decide +kernel))).2.2.2.2.2.2.2.2.2.2.2.2.1 1 13 1 (by decide) (by decide) (by decide)
      (by decide +kernel) (by decide)) ∧
    Applies ((h (managed0 0x1B []) (managed_of (by decide +kernel))).2.2.2.2.2.2.2.2.2.2.2.2.1 0 23 0 (by decide) (by decide) (by decide)
      (by decide +kernel) (fun _ _ => by decide +kernel)) ∧
    Applies ((h (managed0 0x1B [(.prtHbmSize, 0, 0, 4), (.prtHbmBase, 0, 0, 0x80000000)])
      (managed_of (by decide +kernel))).2.2.2.2.2.2.2.2.2.2.2.2.2.1 0 (by decide) (by decide +kernel)
      (by decide +kernel)) ∧
    Applies ((h (managed0 0x1B [(.glbCumin, 0, 0, 8)]) (managed_of (by decide +kernel))).2.2.2.2.2.2.2.2.2.2.2.2.2.2.1 3 (by decide) (by decide +kernel)
      (by decide +kernel)) ∧
    Applies ((h (managed0 0x1B []) (managed_of (by decide +kernel))).2.2.2.2.2.2.2.2.2.2.2.2.2.2.2.1 (by decide +kernel)) ∧
    Applies ((h (managed0 0x9B []) (managed_of (by decide +kernel))).2.2.2.2.2.2.2.2.2.2.2.2.2.2.2.2.1 (by decide +kernel)) ∧
    Applies ((h (managed0 0x1B []) (managed_of (by decide +kernel))).2.2.2.2.2.2.2.2.2.2.2.2.2.2.2.2.2.1) ∧
    Applies ((h (managed0 0x1B []) (managed_of (by decide +kernel))).2.2.2.2.2.2.2.2.2.2.2.2.2.2.2.2.2.2.1 0 4095 7 (by decide) (by decide) (by decide) (by decide)) ∧
    Applies ((h (managed0 0x1B []) (managed_of (by decide +kernel))).2.2.2.2.2.2.2.2.2.2.2.2.2.2.2.2.2.2.2 99 (by decide)) :=
  ⟨trivial, trivial, trivial, trivial, trivial, trivial, trivial, trivial, trivial, trivial, trivial,
    trivial, trivial, trivial, trivial, trivial, trivial, trivial, trivial, trivial, trivial, trivial⟩

theorem witness_AddressIsResolved (h : Obligations.AddressIsResolved) :
    Applies ((h (managed0 9 []) (by decide +kernel)).1 127 (by decide)) ∧
    Applies ((h (managed0 0x1B []) (by decide +kernel)).1 0 (by decide)) ∧
    Applies (((h (managed0 0x1B []) (by decide +kernel)).2.2.1 (some 5) (by intro a ha; cases ha; exact ⟨by decide +kernel, by decide +kernel⟩)).1) ∧
    Applies (((h (managed0 0x1B []) (by decide +kernel)).2.2.1 (some 5) (by intro a ha; cases ha; exact ⟨by decide +kernel, by decide +kernel⟩)).2 (by simp)) ∧
    Applies (((h (managed0 0x1B [(.mgtSmb, 0, 0, 0)]) (by decide +kernel)).2.2.1 none (by simp)).2 (fun _ => by decide +kernel)) ∧
    Applies ((h (managed0 0x1B [(.errAlert, 0, 0, 1)]) (by decide +kernel)).2.2.2.1 (by decide +kernel)) ∧
    Applies ((h { managed0 0x1B [(.mgtSmb, 0, 0, 0)] with mgmt := { State.reset.mgmt with notifies := 29 } } (by decide +kernel)).2.2.2.2.1 (by decide +kernel)
      (by decide +kernel) (by decide)) ∧
    Applies ((h { managed0 0x1B [] with mgmt := { State.reset.mgmt with notifyDue := 1 } } (by decide +kernel)).2.2.2.2.2.1 (by decide)) :=
  ⟨trivial, trivial, trivial, trivial, trivial, trivial, trivial, trivial⟩

/-! ### Statements apply: The monitor, and the block as a whole -/

/-- The monitor after a start-up step, with registers set. -/
def mon0 (step : W32) (r : List (Reg × Nat × Nat × W32)) : State := State.reset.withRegs ([(.glbStart, 0, 0, step)] ++ r)
/-- The monitor with a challenge out and two failures. -/
def asked9 : State :=
  { mon0 3 [(.mgtMon, 0, 0, 0x80)] with mgmt := { State.reset.mgmt with challenge := some 9 }, flash := { State.reset.flash with monkey := 7 } }

theorem witness_MonitorAnswers (h : Obligations.MonitorAnswers) :
    Applies (((h (mon0 3 [])).1 (by decide +kernel)).1) ∧
    Applies (((h (mon0 3 [])).1 (by decide +kernel)).2.1) ∧
    Applies (((h (mon0 3 [])).1 (by decide +kernel)).2.2.1) ∧
    Applies (((h (mon0 8 [])).1 (by decide +kernel)).2.2.2.1 (Reg.addr .prtErrPolicy 31 0) (by decide +kernel) (by decide +kernel)) ∧
    Applies (((h (mon0 3 [])).1 (by decide +kernel)).2.2.2.2.1 32 768 256 (by decide) (by decide) (by decide)) ∧
    Applies (((h (mon0 3 [])).1 (by decide +kernel)).2.2.2.2.1 31 1024 0 (by decide) (by decide) (by decide)) ∧
    Applies (((h (mon0 3 [])).1 (by decide +kernel)).2.2.2.2.2.1) ∧
    Applies (((h (mon0 3 [])).1 (by decide +kernel)).2.2.2.2.2.2.1 0 4095 16 (by decide) (by decide) (by decide) (by decide)) ∧
    Applies (((h (mon0 3 [])).1 (by decide +kernel)).2.2.2.2.2.2.2.1 6 (by decide)) ∧
    Applies ((((h (mon0 3 [])).1 (by decide +kernel)).2.2.2.2.2.2.2.2.1 (by decide +kernel)).1) ∧
    Applies ((((h asked9).1 (by decide +kernel)).2.2.2.2.2.2.2.2.1 (by decide +kernel)).2.1 9 rfl) ∧
    Applies ((((h asked9).1 (by decide +kernel)).2.2.2.2.2.2.2.2.1 (by decide +kernel)).2.2 (responseTo asked9.flash.monkey 9 + 1) (fun c hc => by
      cases hc
      simp)) ∧
    Applies ((((h (mon0 3 [])).1 (by decide +kernel)).2.2.2.2.2.2.2.2.1 (by decide +kernel)).2.2 0 (fun c hc => by cases hc)) ∧
    Applies ((((h (mon0 0x1B [(.mgtMon, 0, 0, 0x10)])).1 (by decide +kernel)).2.2.2.2.2.2.2.2.2.2.1 (by decide +kernel)).1 (Reg.addr .prtErrPolicy 31 0) 1
      (by decide +kernel)) ∧
    Applies ((((h (mon0 0x1B [(.mgtMon, 0, 0, 0x10)])).1 (by decide +kernel)).2.2.2.2.2.2.2.2.2.2.1 (by decide +kernel)).1 ownOff 1 (by decide +kernel)) ∧
    Applies ((((h (mon0 0x1B [(.mgtMon, 0, 0, 0x10)])).1 (by decide +kernel)).2.2.2.2.2.2.2.2.2.2.1 (by decide +kernel)).2.1) ∧
    Applies ((((h (mon0 0x1B [(.mgtMon, 0, 0, 0x10), (.glbCumin, 0, 0, 8)])).1 (by decide +kernel)).2.2.2.2.2.2.2.2.2.2.1 (by decide +kernel)).2.2.1 3
      (by decide) (by decide +kernel) (by decide +kernel)) ∧
    Applies ((((h (mon0 0x1B [(.mgtMon, 0, 0, 0x10)])).1 (by decide +kernel)).2.2.2.2.2.2.2.2.2.2.1 (by decide +kernel)).2.2.2 (by decide +kernel)) ∧
    Applies (((h (mon0 3 [])).1 (by decide +kernel)).2.2.2.2.2.2.2.2.2.2.2 (by decide +kernel)) ∧
    Applies ((h { mon0 3 [(.mgtMon, 0, 0, 6)] with mgmt := { State.reset.mgmt with baudNew := true } }).2.1 rfl) :=
  ⟨trivial, trivial, trivial, trivial, trivial, trivial, trivial, trivial, trivial, trivial,
    trivial, trivial, trivial, trivial, trivial, trivial, trivial, trivial, trivial, trivial⟩

theorem witness_AccessesAreAlignedWords (h : Obligations.AccessesAreAlignedWords) :
    Applies (h.1 .prtErrPolicy 31 0 (by decide) (by decide)) ∧
    Applies (h.2.1 hostRegs .attachA 0xDFFFF 4 true (by intro b hb; cases hb; decide +kernel) (.inr (by decide))) ∧
    Applies (h.2.1 hostRegs .mgmt 0 8 false (by intro b hb; cases hb) (.inl (by decide))) ∧
    Applies (h.2.2.1 hostRegs .attachA 0x20001 1 (by decide) (by decide +kernel) (by intro b hb; cases hb; exact ⟨by decide +kernel, by decide +kernel⟩)
      (by simp)) ∧
    Applies (h.2.2.2 hostRegs 0x20FFE (by decide)) := ⟨trivial, trivial, trivial, trivial, trivial⟩

theorem witness_ModuleResetTurnsAllOff (h : Obligations.ModuleResetTurnsAllOff) :
    Applies (h hostRegs (.glbReset .mgmt 0x4D52) (.inl ⟨_, _, rfl, .of (by decide +kernel), by decide⟩)) ∧
    Applies (h (managed0 0x1B []) (.moduleReset 0x4D52) (.inr (.inl ⟨rfl, managed_of (by decide +kernel)⟩))) ∧
    Applies (h (mon0 0x1B [(.mgtMon, 0, 0, 0x10)]) .monResetModule (.inr (.inr (.inl ⟨rfl, by decide +kernel, by decide +kernel⟩)))) ∧
    Applies (h State.reset .lossOfBothServiceBlocks (.inr (.inr (.inr (.inl rfl))))) ∧
    Applies (h State.reset .modResetNLow (.inr (.inr (.inr (.inr rfl))))) := ⟨trivial, trivial, trivial, trivial, trivial⟩

/-- A group of partition 31 that runs a request, voided by RANGE_SAT or not. -/
def sat31 (v : W32) : State :=
  { State.reset.withRegs [(.prtErrPolicy, 31, 0, v)] with srv := { State.reset.srv with reqs := [{ request0 .running [] with group := 31 }] } }
theorem witness_RangeSatFollowsPolicy (h : Obligations.RangeSatFollowsPolicy) :
    Applies ((h (sat31 1) _ 31 0 0 0 0 (by decide) rfl).2.1 (by decide +kernel) _ (by decide +kernel : _ = some { request0 .running [] with group := 31 })) ∧
    Applies ((h (sat31 0) _ 31 0 0 0 0 (by decide) rfl).2.2 (by decide +kernel)) := ⟨trivial, trivial⟩

theorem witness_StepRunsFront (h : Obligations.StepRunsFront) :
    Applies (h.1 { State.reset with pending := [.monitorIdleLock, .challengeExpiry] } .monitorIdleLock [.challengeExpiry] rfl) ∧
    Applies (h.2 State.reset rfl) := ⟨trivial, trivial⟩
theorem witness_StepKeepsHbmForm (h : Obligations.StepKeepsHbmForm) :
    Applies (h (kv0 256 (inHbm 1 true) id) _ rfl (by decide +kernel)) := trivial
theorem witness_TimeMoves (h : Obligations.TimeMoves) : Applies (h.1 .monitorIdleLock State.reset _ (by simp) rfl) := trivial
theorem witness_HistoryIsKept (h : Obligations.HistoryIsKept) :
    Applies (h.1 .modResetNLow State.reset _ rfl) ∧
    Applies (h.2.1 .modResetNLow State.reset _ rfl) ∧
    Applies (h.2.2.1 .modResetNLow State.reset _ (by simp) rfl) ∧
    Applies (h.2.2.2 .modResetNLow State.reset _ rfl) := ⟨trivial, trivial, trivial, trivial⟩

/-! ### The spec's worked examples, and published values -/

/-- 00, "Coordinates", worked example: the clove (1,000, 300). -/
theorem test_clove_places : (fieldOfClove 1000 300, partOf 1000 300) = (43, 14) := by decide +kernel

/-- 01, after R23, worked example: field 43 with rows 5, 40 and 41 retired. -/
theorem test_row_map : let m := rowMap [5, 40, 41]
    (m.length, [0, 4, 5, 38, 39, 87].map (m.getD · 0)) = (88, [0, 4, 6, 39, 42, 90]) := by decide +kernel

/-- 15, after R416, worked example: physical row 60 of that field is retired too, and 31 rows move. -/
theorem test_moved_rows : let m := rowMap [5, 40, 41]
    let n := rowMap [5, 40, 41, 60]
    (movedBits m n 0 32, movedBits m n 32 32, movedBits m n 64 24) = (0, 0xFE000000, 0x00FFFFFF) := by decide +kernel

/-- 03, worked example: the word of a STREAM, from its fields. -/
theorem test_stream_word : StreamOp.ofWord 0x200000010C1E8400004#128 =
    ⟨0, 0, 0, 0, 0, 0, 0, 0, 2, 0, 5, 7, 0, 0, 3, 1, 0, 0, 512, 0⟩ := by decide +kernel
/-- The same word in memory, byte by byte. -/
theorem test_stream_bytes : leAt [0x04, 0x00, 0x40, 0xE8, 0xC1, 0x10, 0x00, 0x00, 0x00, 0x02, 0x00, 0x00, 0x00, 0x00, 0x00, 0x00] 0 16 =
    0x000002000000_10C1E8400004 := by decide +kernel

/-- 04, after R119, worked example: 300.0, -17.3 and 0.013 as MXFP8 E4M3; the last two to 16 and 24 bits. -/
def results3 : List Val := [.fin false 300 0, .fin true 1133773 (-16), .fin false 218104 (-24)]
theorem test_mx_scale : mxScale 0 results3 = 0x7F := by decide +kernel
theorem test_mx_elements : results3.map (fun v => convScaled 0 0x7F v none) = [⟨0x79, false⟩, ⟨0xD9, false⟩, ⟨0x07, false⟩] := by decide +kernel
/-- There, were the largest value 500: it saturates to 448 under the same scale. -/
theorem test_mx_saturates : (mxScale 0 [.fin false 500 0], convScaled 0 0x7F (.fin false 500 0) none) = (0x7F, ⟨0x7E, true⟩) := by decide +kernel

/-- 05, after R154, worked example: the moments of the row 1, 2, 3, 4. -/
theorem test_moments : let e (n : Nat) : Moment := ⟨1, .ofNat n, .zero, false⟩
    ((e 1).merge (e 2)).merge ((e 3).merge (e 4)) |>.toWords.map (·.1) = [4, w44Of (.fin false 5 (-1)), w44Of (.fin false 5 0)] := by
  decide +kernel

/-- 06, after R161, worked example: element (5, 13) of an MXFP8 slice, and rows 0 to 8 of its column 13. -/
theorem test_tile : (tileAt 0 5 13, (List.range 9).map (fun i => (tileAt 0 i 13).1)) =
    ((2, 5), [13, 14, 15, 0, 1, 2, 3, 4, 21]) := by decide +kernel

/-- 09, after R255, worked example: channel 13 of stack 5 leaves the map. -/
def stack5 (chmap : W32) : State := State.reset.withRegs [(.memStkChmap, 0, 5, chmap)]
theorem test_channel : ((stack5 0xFFFFFFFF).channelOf 5 0x123456000, (stack5 0xFFFFDFFF).channelOf 5 0x123456000) =
    ((22, 0x91A2000), (11, 0x9655000)) := by decide +kernel

/-- 10, after R290, worked example: each of two modules holds 2,048 of the 4,096 pages of a layer. -/
theorem test_split : [0, 1].map (fun m => ((List.range 4096).filter (Split.has ⟨2, 2, m⟩)).length) = [2048, 2048] := by decide +kernel
/-- R347: the address 02-5A-nn-N2-N1-N0 of port 13 of node 0x123456. -/
theorem test_mac : nodeMac 13 0x123456 = 0x025A0D123456 := by decide +kernel
/-- 18, after R460, worked example: the capabilities with partition 14 out of service. -/
theorem test_caps : let s := ({ State.reset with up := { State.reset.up with outParts := [14] } } : State).showCaps
    (s.reg .glbCapParts 0 0, s.fld .glbCapCloves 0 0 20 0, s.fld .glbCapCloves 0 0 26 21) = (0xFFFFBFFF, 0x0FFC00, 0x1F) := by decide +kernel

/-- 11, after R314, worked example: its sampling block, with a seed whose draw is 0.600 to five places. -/
def block0 (seed : Nat) : List Byte :=
  leBytes 4 0x3F000000 ++ leBytes 4 0x3F59999A ++ [4, 0, 0, 0] ++ leBytes 4 0x3FA00000 ++ leBytes 4 0x3DCCCCCD ++ leBytes 4 0 ++
    leBytes 4 seed ++ leBytes 4 0
/-- Its penalised logits: 2.2 for token 3 and 1.9 for token 5, within one unit of binary32. -/
theorem test_penalties : (penalised (block0 0) (.ofNat 3) 2, penalised (block0 0) (.fin false 5 (-1)) 1) =
    (b32Val 0x400CCCCD, b32Val 0x3FF33333) := by decide +kernel
/-- Its logits. -/
def logits8 : List Val :=
  [.ofNat 2, .ofNat 1, .fin false 1 (-1), .ofNat 3, .fin true 1 0, .fin false 5 (-1), .zero, .fin false 3 (-1)]
theorem test_token : sampleToken (block0 145352) logits8 [(3, 2), (5, 1)] = 0 := by decide +kernel

/-- 14, after R381, worked example: the caps at 0, 10 and 12 s. -/
def capState (allot flow : Nat) (flow40 : Bool) : State :=
  { State.reset.withRegs [(.pwrStat, 0, 0, 0x1000), (.pwrCap, 0, 0, 36000), (.pwrAllot, 0, 0, BitVec.ofNat 32 allot)] with
    pwr := { State.reset.pwr with mv := 50000, flow := flow, flow40 := flow40, inlet := 400 } }
theorem test_cap : ((capState 34000 450 true).effective, (capState 34000 380 false).effective, (capState 30000 380 false).effective) =
    ((34000, 5), (32000, 2), (30000, 5)) := by decide +kernel

/-- R267: CRC-64/ECMA-182 as published (its check value, of the digits 1 to 9). -/
theorem test_crc64 : crc64 [0x31, 0x32, 0x33, 0x34, 0x35, 0x36, 0x37, 0x38, 0x39] = 0x6C40DF5F0B497347 := by decide +kernel

/-- FIPS 180-4's SHA-256 of "abc". -/
theorem test_sha256 : (sha256 [0x61, 0x62, 0x63]).take 8 = [0xba, 0x78, 0x16, 0xbf, 0x8f, 0x01, 0xcf, 0xea] := by decide +kernel
/-- RFC 4231's second HMAC-SHA-256: the key "Jefe". -/
theorem test_hmac : (hmacSha256 [0x4a, 0x65, 0x66, 0x65] ([0x77, 0x68, 0x61, 0x74, 0x20, 0x64, 0x6f, 0x20, 0x79, 0x61, 0x20, 0x77, 0x61, 0x6e] ++
    [0x74, 0x20, 0x66, 0x6f, 0x72, 0x20, 0x6e, 0x6f, 0x74, 0x68, 0x69, 0x6e, 0x67, 0x3f])).take 4 = [0x5b, 0xdc, 0xc1, 0x46] := by decide +kernel

/-! ### The block -/

/-- The table gives no row any bits, so no word is a command. -/
theorem test_no_table_words : decodeTableWord 128 5 = none ∧ State.reset.withFetchWord 128 5 = State.reset := ⟨rfl, rfl⟩
/-- R330: a ring of 64 entries, doorbell at slot 1 (12, worked example after R336). -/
theorem test_reset_pending : State.reset.pending = [] := rfl
/-- Table 15.1: at reset, start-up stands before its step 2. -/
theorem test_reset_not_ready : State.reset.ready = false := by decide +kernel

/-! ### Single commands -/

/-- The state that a command answers, and the state itself where it answers none. -/
def after (c : Instr) (s : State) : State := match exec c s with
  | .next t => t
  | .fault _ => s
  | .refused _ => s

/-- R444: GET_LAST before any accepted command is refused with STATE, status 3. -/
theorem test_getLast_none : (after .getLast (managed0 0x1B [])).mgmt.out = [(3, [])] := by decide +kernel
/-- R449: the third wrong response in a row locks the monitor out for 60 s. -/
theorem test_lockout : let t := after (.monUnlock (some 5)) (mon0 3 [(.mgtMon, 0, 0, 0x80)])
    (t.flag .mgtMon 0 0 5, t.mgmt.lockout, t.fld .mgtMon 0 0 9 6) = (true, 60, 3) := by decide +kernel
/-- R330: a doorbell with the index of a disabled ring is ignored and logged. -/
theorem test_doorbell_disabled : let t := after (.sqTail .attachA 0 6 1) hostRegs
    ((t.ring 0 6).tail, t.err.nextSeq) = (0, 1) := by decide +kernel
/-- R391: a busbar below 46.0 V opens a BROWNOUT_WARN event, and above 47.0 V ends it. -/
theorem test_brownout : ((after (.busbarBrownoutWarn 45999) State.reset).pwr.warn,
    (after (.busbarWarnClear 47001) (after (.busbarBrownoutWarn 45999) State.reset)).pwr.warn) = (true, false) := by decide +kernel
/-- R409: a module reset needs its key. -/
theorem test_reset_key : (after (.glbReset .mgmt 0x4D53) hostRegs).ready = true ∧ (after (.glbReset .mgmt 0x4D52) hostRegs).ready = false := by
  decide +kernel
/-- R142: an SFU_ELEM word with a reserved bit set halts its unit with SFU_ENCODING. -/
theorem test_sfu_encoding : let s := after (.sfuElem (at35 0x18)) mom35
    (s.clove (cloveNo 3 5)).sfuHalted = true ∧ s.err.nextSeq = 1 := by decide +kernel
/-- A step takes the front command and leaves the rest. -/
theorem test_step : (match step { State.reset with pending := [.challengeExpiry, .monitorIdleLock] } with
  | .next t => t.pending
  | .fault _ => []
  | .refused _ => []) = [.monitorIdleLock] := by decide +kernel

/-! ### Well-formed commands -/

/-- A frame at the limits of its fields: port 13, node 0xFFFFFF, partitions 255. -/
def goodFrame : Frame := ⟨13, 0xFFFFFF, 255, 255, 0, 0, 0, 0, false, false, [], []⟩

/-- Every check of Instr.wf accepts its operands at their limits. -/
theorem test_wellFormed_accepts :
  ([.stripTempUpdate 95 11 0, .hbmTempUpdate 23 0, .fieldBrownoutWarn 95 0, .fieldBrownoutEnd 95 0 0, .fieldOvercurrent 95 0, .phaseFail 95,
   .phaseSpareIn 95, .gangCfg ⟨1535, 703, 0x1, false, [⟨1535, 703, 4095, true⟩]⟩, .load ⟨1535, 703, 0x2, false, []⟩, .swap ⟨1535, 703, 0x3, false, []⟩,
   .stream ⟨1535, 703, 0x4, false, []⟩, .vectorResult ⟨1535, 703, true⟩ ⟨[⟨15, 15, 15, 0, false⟩], []⟩,
   .drainDone ⟨1535, 703, true⟩ ⟨[⟨15, 15, 15, 0, false⟩], []⟩, .passStallResume ⟨1535, 703, true⟩, .sfuElem ⟨1535, 703, 0x8, false, []⟩,
   .sfuBin ⟨1535, 703, 0x9, false, []⟩, .sfuMoments ⟨1535, 703, 0xa, false, []⟩, .sfuMerge ⟨1535, 703, 0xb, false, []⟩,
   .sfuNorm ⟨1535, 703, 0xc, false, []⟩, .sfuSmaxfin ⟨1535, 703, 0xd, false, []⟩] : List Instr).all Instr.wf = true ∧
  ([.epiWrite ⟨1535, 703, 0xe, false, []⟩, .rgnSet ⟨1535, 703, 0x5, false, []⟩, .pop ⟨1535, 703, 0x25, false, []⟩, .drop ⟨1535, 703, 0x45, false, []⟩,
   .remoteRead ⟨1535, 703, 0x6, false, []⟩, .remoteWrite ⟨1535, 703, 0x26, false, []⟩, .remoteSlot ⟨1535, 703, 0x46, false, []⟩,
   .remoteUnbind ⟨1535, 703, 0x66, false, []⟩, .remoteAccessArrival 1081343 ⟨1081343, []⟩, .remoteAck 1081343 1081343, .grantArrival 1085439 1085439,
   .creditReturnArrival 1085439 1085439, .unbindArrival 1085439 1085439, .scrubRead 1535 703 0, .scrubWriteback 1535 703,
   .scrubForcedSlot 1535 703 15 0, .fldScrCtrlClrCnt .mgmt 95 0, .loop ⟨1535, 703, 0x7, false, []⟩, .loopL0Iteration 1535 703,
   .loopL4Iteration 1535 703] : List Instr).all Instr.wf = true ∧
  ([.dispatchFetch 1535 703, .hotHoldExpiry 1535 703, .sqSet ⟨1535, 703, 0xf, false, []⟩, .sqPost ⟨1535, 703, 0x2f, false, []⟩,
   .fenceRemote ⟨1535, 703, 0x4f, false, []⟩, .fenceStore ⟨1535, 703, 0x1000004f, false, []⟩, .fenceAll ⟨1535, 703, 0x2000004f, false, []⟩,
   .fenceRelease 1535 703, .barrier ⟨1535, 703, 0x6f, false, []⟩, .barrierArrival 31 ⟨63, []⟩, .sqRequestIssue 31 127 ⟨0, []⟩,
   .memRequestServe 23 0 [] ⟨[], []⟩, .sqLoadDelivery 31 127 0, .sqTransferComplete 31 127, .linkWordFail 95 3 7 0 (.landed 1081343) 0,
   .hbmCorrectedWriteback 23, .patrolRead 23 0, .channelRetrain 23 31, .hbmEpoch 23 ⟨0, []⟩, .prtHbmWindowWrite .mgmt 16777212 0] : List Instr).all Instr.wf = true ∧
  ([.windowChangeEffect 31 7, .memSpillEntryWrite .mgmt 16777212 0, .pageTranslation 31 ⟨0, noFinds⟩, .pin 31 0, .unpin 31 0, .frameSpill ⟨31, noFinds⟩,
   .frameSpillDone 31 0 false, .frameFetch 31 0, .frameFetchDone 31 0 [] ⟨[], []⟩, .readStreamVisit 31 ⟨0, noFinds⟩, .kvScatter 31 7,
   .appendColumnAccepted 31 ⟨0, noFinds⟩, .prtKvCtrlEn .mgmt 31 0, .fldKvwCtrlClr .mgmt 95 0, .prefillSubmit 31 7, .prefixRegister 31 7,
   .prefixRelease 31 7, .adapterLoad 31 7, .pause 31 7, .resume 31 7] : List Instr).all Instr.wf = true ∧
  ([.cancel 31 7, .exportRoute 31 7, .layerChunkLaunch ⟨31, noFinds⟩, .layerChunkDone 31 0, .firstTokenSample 31 0 [], .prtSrvCtrlEn .mgmt 31 0,
   .prtSrvQuotaWrite .mgmt 31 0, .sqTail .mgmt 31 7 0, .cqHead .mgmt 31 7 0, .descriptorFetch 31, .completionRecordWrite 31 7,
   .msiXHoldoffExpiry 31 7, .weightLoad 31 7, .programLoad 31 ⟨7, Split.whole⟩, .hintHeavy 31 7, .fence 31 7, .collectiveBind 31 7,
   .messageTimeEnd [⟨.mgmt, false, 0xFFFFFC, 0⟩], .prtGroupWrite .mgmt 31 0, .prtLockSet .mgmt 31 0] : List Instr).all Instr.wf = true ∧
  ([.prtSqCfgEn .mgmt 31 7 0, .prtCqCfgEn .mgmt 31 7 0, .claim 0 0 13, .defend 0 0 13, .ack goodFrame, .credit goodFrame, .coll goodFrame,
   .tierRdata goodFrame, .tierWack goodFrame, .mirrorCheck goodFrame, .reservedFrame 13, .portLinkChange 13 false, .laneFailing 13 15,
   .retrainWindow 13 15 false, .exportSend ⟨31, noFinds⟩, .prtVngCallen .mgmt 31 0, .collPieceSend 31 ⟨31, noFinds⟩, .collFail 31 31 0,
   .prtVngFlowqWrite .mgmt 31 0, .prtVngGrploEn .mgmt 31 0] : List Instr).all Instr.wf = true ∧
  ([.powerAgentTick ⟨95, 0, 0, 0⟩ 0, .calibration 95 0 0 0, .prtPwrStripReq .mgmt 31 2 0, .stripDownStart 95 11, .domainUpDone ⟨1291, 0, []⟩,
   .domainDownDone 1291, .railTargetReached 95, .ageingSweep 95 0, .hintCheck 31 0, .hintBallastTimeout 31, .hintDeferExpiry 31,
   .prtResetGo .mgmt 31, .partitionResetDone 31, .prtResetZero .mgmt 31, .zeroisingClearDone 31, .lockstepDivergence 3, .watchdogExpiry 3,
   .pairRestartDone 3 false, .requestAbort 31, .abortTimeout 31] : List Instr).all Instr.wf = true ∧
  ([.stall 31, .gateTrailerSend 31, .gateReopen 31, .regRead 16777212 0, .regWrite 16777212 0, .pairReset 3, .monRd 16777212 0,
   .monWr 16777212 0, .monResetPair 3, .fldIntCtrlClr .mgmt 95 0, .registerWrite .mgmt 16777212 0, .channelRetrainingDone 23 31 ⟨false, 0⟩,
   .bar0AccessError .mgmt 16777212 0 false, .startupStageDone found0 7, .startupStageLimit ⟨[1291], found0, 7⟩] : List Instr).all Instr.wf = true := by decide +kernel

/-- Ill-formed: a field, strip, stack, channel, domain, seam, link, barrier, bank, queue, port, lane or pair that the module does not have. -/
theorem test_wellFormed_refusesPlace :
  ([.stripTempUpdate 96 0 0, .stripTempUpdate 0 12 0, .hbmTempUpdate 24 0, .fieldBrownoutWarn 96 0, .fieldBrownoutEnd 96 0 0,
   .fieldOvercurrent 96 0, .phaseFail 96, .phaseSpareIn 96, .scrubForcedSlot 0 0 16 0, .fldScrCtrlClrCnt .mgmt 96 0, .barrierArrival 0 ⟨64, []⟩,
   .sqRequestIssue 0 128 ⟨0, []⟩, .memRequestServe 24 0 [] ⟨[], []⟩, .sqLoadDelivery 0 128 0, .sqTransferComplete 0 128, .linkWordFail 96 0 0 0 (.landed 0) 0,
   .linkWordFail 0 4 0 0 (.landed 0) 0, .linkWordFail 0 0 8 0 (.landed 0) 0, .hbmCorrectedWriteback 24, .patrolRead 24 0] : List Instr).any Instr.wf = false ∧
  ([.channelRetrain 24 0, .channelRetrain 0 32, .hbmEpoch 24 ⟨0, []⟩, .windowChangeEffect 0 8, .fldKvwCtrlClr .mgmt 96 0, .claim 0 0 14,
   .defend 0 0 14, .reservedFrame 14, .portLinkChange 14 false, .laneFailing 14 0, .laneFailing 0 16, .retrainWindow 14 0 false,
   .retrainWindow 0 16 false, .powerAgentTick ⟨96, 0, 0, 0⟩ 0, .calibration 96 0 0 0, .prtPwrStripReq .mgmt 0 3 0, .stripDownStart 96 0,
   .stripDownStart 0 12, .domainUpDone ⟨1292, 0, []⟩, .domainDownDone 1292] : List Instr).any Instr.wf = false ∧
  ([.railTargetReached 96, .ageingSweep 96 0, .lockstepDivergence 4, .watchdogExpiry 4, .pairRestartDone 4 false, .pairReset 4,
   .monResetPair 4, .fldIntCtrlClr .mgmt 96 0, .channelRetrainingDone 24 0 ⟨false, 0⟩, .channelRetrainingDone 0 32 ⟨false, 0⟩] : List Instr).any Instr.wf = false := by decide +kernel

/-- Ill-formed: a clove, an upset or an agent that the module does not have. -/
theorem test_wellFormed_refusesClove :
  ([.gangCfg ⟨1536, 0, 0x1, false, []⟩, .gangCfg ⟨0, 704, 0x1, false, []⟩, .load ⟨1536, 0, 0x2, false, []⟩, .load ⟨0, 704, 0x2, false, []⟩,
   .swap ⟨1536, 0, 0x3, false, []⟩, .swap ⟨0, 704, 0x3, false, []⟩, .stream ⟨1536, 0, 0x4, false, []⟩, .stream ⟨0, 704, 0x4, false, []⟩,
   .vectorResult ⟨1536, 0, false⟩ ⟨[], []⟩, .vectorResult ⟨0, 704, false⟩ ⟨[], []⟩, .vectorResult ⟨0, 0, false⟩ ⟨[⟨16, 0, 0, 0, false⟩], []⟩,
   .vectorResult ⟨0, 0, false⟩ ⟨[⟨0, 16, 0, 0, false⟩], []⟩, .vectorResult ⟨0, 0, false⟩ ⟨[⟨0, 0, 16, 0, false⟩], []⟩, .drainDone ⟨1536, 0, false⟩ ⟨[], []⟩,
   .drainDone ⟨0, 704, false⟩ ⟨[], []⟩, .drainDone ⟨0, 0, false⟩ ⟨[⟨16, 0, 0, 0, false⟩], []⟩, .drainDone ⟨0, 0, false⟩ ⟨[⟨0, 16, 0, 0, false⟩], []⟩,
   .drainDone ⟨0, 0, false⟩ ⟨[⟨0, 0, 16, 0, false⟩], []⟩, .passStallResume ⟨1536, 0, false⟩, .passStallResume ⟨0, 704, false⟩] : List Instr).any Instr.wf = false ∧
  ([.sfuElem ⟨1536, 0, 0x8, false, []⟩, .sfuElem ⟨0, 704, 0x8, false, []⟩, .sfuBin ⟨1536, 0, 0x9, false, []⟩, .sfuBin ⟨0, 704, 0x9, false, []⟩,
   .sfuMoments ⟨1536, 0, 0xa, false, []⟩, .sfuMoments ⟨0, 704, 0xa, false, []⟩, .sfuMerge ⟨1536, 0, 0xb, false, []⟩, .sfuMerge ⟨0, 704, 0xb, false, []⟩,
   .sfuNorm ⟨1536, 0, 0xc, false, []⟩, .sfuNorm ⟨0, 704, 0xc, false, []⟩, .sfuSmaxfin ⟨1536, 0, 0xd, false, []⟩, .sfuSmaxfin ⟨0, 704, 0xd, false, []⟩,
   .epiWrite ⟨1536, 0, 0xe, false, []⟩, .epiWrite ⟨0, 704, 0xe, false, []⟩, .rgnSet ⟨1536, 0, 0x5, false, []⟩, .rgnSet ⟨0, 704, 0x5, false, []⟩,
   .pop ⟨1536, 0, 0x25, false, []⟩, .pop ⟨0, 704, 0x25, false, []⟩, .drop ⟨1536, 0, 0x45, false, []⟩, .drop ⟨0, 704, 0x45, false, []⟩] : List Instr).any Instr.wf = false ∧
  ([.remoteRead ⟨1536, 0, 0x6, false, []⟩, .remoteRead ⟨0, 704, 0x6, false, []⟩, .remoteWrite ⟨1536, 0, 0x26, false, []⟩,
   .remoteWrite ⟨0, 704, 0x26, false, []⟩, .remoteSlot ⟨1536, 0, 0x46, false, []⟩, .remoteSlot ⟨0, 704, 0x46, false, []⟩,
   .remoteUnbind ⟨1536, 0, 0x66, false, []⟩, .remoteUnbind ⟨0, 704, 0x66, false, []⟩, .remoteAccessArrival 1081344 ⟨0, []⟩,
   .remoteAccessArrival 0 ⟨1081344, []⟩, .remoteAck 1081344 0, .remoteAck 0 1081344, .grantArrival 1085440 0, .grantArrival 0 1085440,
   .creditReturnArrival 1085440 0, .creditReturnArrival 0 1085440, .unbindArrival 1085440 0, .unbindArrival 0 1085440, .scrubRead 1536 0 0,
   .scrubRead 0 704 0] : List Instr).any Instr.wf = false ∧
  ([.scrubWriteback 1536 0, .scrubWriteback 0 704, .scrubForcedSlot 1536 0 0 0, .scrubForcedSlot 0 704 0 0, .loop ⟨1536, 0, 0x7, false, []⟩,
   .loop ⟨0, 704, 0x7, false, []⟩, .loopL0Iteration 1536 0, .loopL0Iteration 0 704, .loopL4Iteration 1536 0, .loopL4Iteration 0 704,
   .dispatchFetch 1536 0, .dispatchFetch 0 704, .hotHoldExpiry 1536 0, .hotHoldExpiry 0 704, .sqSet ⟨1536, 0, 0xf, false, []⟩,
   .sqSet ⟨0, 704, 0xf, false, []⟩, .sqPost ⟨1536, 0, 0x2f, false, []⟩, .sqPost ⟨0, 704, 0x2f, false, []⟩, .fenceRemote ⟨1536, 0, 0x4f, false, []⟩,
   .fenceRemote ⟨0, 704, 0x4f, false, []⟩] : List Instr).any Instr.wf = false ∧
  ([.fenceStore ⟨1536, 0, 0x1000004f, false, []⟩, .fenceStore ⟨0, 704, 0x1000004f, false, []⟩, .fenceAll ⟨1536, 0, 0x2000004f, false, []⟩,
   .fenceAll ⟨0, 704, 0x2000004f, false, []⟩, .fenceRelease 1536 0, .fenceRelease 0 704, .barrier ⟨1536, 0, 0x6f, false, []⟩,
   .barrier ⟨0, 704, 0x6f, false, []⟩, .linkWordFail 0 0 0 0 (.landed 1081344) 0] : List Instr).any Instr.wf = false := by decide +kernel

/-- Ill-formed: a word under the row of another opcode, SUB or SCOPE. -/
theorem test_wellFormed_refusesOpcode :
  ([.gangCfg ⟨0, 0, 0x2, false, []⟩, .load ⟨0, 0, 0x0, false, []⟩, .swap ⟨0, 0, 0x0, false, []⟩, .stream ⟨0, 0, 0x0, false, []⟩,
   .sfuElem ⟨0, 0, 0x0, false, []⟩, .sfuBin ⟨0, 0, 0x0, false, []⟩, .sfuMoments ⟨0, 0, 0x0, false, []⟩, .sfuMerge ⟨0, 0, 0x0, false, []⟩,
   .sfuNorm ⟨0, 0, 0x0, false, []⟩, .sfuSmaxfin ⟨0, 0, 0x0, false, []⟩, .epiWrite ⟨0, 0, 0x0, false, []⟩, .rgnSet ⟨0, 0, 0x0, false, []⟩,
   .rgnSet ⟨0, 0, 0x25, false, []⟩, .pop ⟨0, 0, 0x20, false, []⟩, .pop ⟨0, 0, 0x45, false, []⟩, .drop ⟨0, 0, 0x40, false, []⟩, .drop ⟨0, 0, 0x65, false, []⟩,
   .remoteRead ⟨0, 0, 0x0, false, []⟩, .remoteRead ⟨0, 0, 0x26, false, []⟩, .remoteWrite ⟨0, 0, 0x20, false, []⟩] : List Instr).any Instr.wf = false ∧
  ([.remoteWrite ⟨0, 0, 0x46, false, []⟩, .remoteSlot ⟨0, 0, 0x40, false, []⟩, .remoteSlot ⟨0, 0, 0x66, false, []⟩, .remoteUnbind ⟨0, 0, 0x60, false, []⟩,
   .remoteUnbind ⟨0, 0, 0x86, false, []⟩, .loop ⟨0, 0, 0x0, false, []⟩, .sqSet ⟨0, 0, 0x0, false, []⟩, .sqSet ⟨0, 0, 0x2f, false, []⟩,
   .sqPost ⟨0, 0, 0x20, false, []⟩, .sqPost ⟨0, 0, 0x4f, false, []⟩, .fenceRemote ⟨0, 0, 0x40, false, []⟩, .fenceRemote ⟨0, 0, 0x2f, false, []⟩,
   .fenceRemote ⟨0, 0, 0x1000004f, false, []⟩, .fenceStore ⟨0, 0, 0x10000040, false, []⟩, .fenceStore ⟨0, 0, 0x1000002f, false, []⟩,
   .fenceStore ⟨0, 0, 0x4f, false, []⟩, .fenceAll ⟨0, 0, 0x20000040, false, []⟩, .fenceAll ⟨0, 0, 0x2000002f, false, []⟩,
   .fenceAll ⟨0, 0, 0x3000004f, false, []⟩, .barrier ⟨0, 0, 0x60, false, []⟩] : List Instr).any Instr.wf = false ∧
  ([.barrier ⟨0, 0, 0x4f, false, []⟩] : List Instr).any Instr.wf = false := by decide +kernel

/-- Ill-formed: a partition, ring, group or call that the module does not have. -/
theorem test_wellFormed_refusesPart :
  ([.barrierArrival 32 ⟨0, []⟩, .sqRequestIssue 32 0 ⟨0, []⟩, .sqLoadDelivery 32 0 0, .sqTransferComplete 32 0, .windowChangeEffect 32 0,
   .pageTranslation 32 ⟨0, noFinds⟩, .pin 32 0, .unpin 32 0, .frameSpill ⟨32, noFinds⟩, .frameSpillDone 32 0 false, .frameFetch 32 0, .frameFetchDone 32 0 [] ⟨[], []⟩,
   .readStreamVisit 32 ⟨0, noFinds⟩, .kvScatter 32 0, .kvScatter 0 8, .appendColumnAccepted 32 ⟨0, noFinds⟩, .prtKvCtrlEn .mgmt 32 0, .prefillSubmit 32 0,
   .prefillSubmit 0 8, .prefixRegister 32 0] : List Instr).any Instr.wf = false ∧
  ([.prefixRegister 0 8, .prefixRelease 32 0, .prefixRelease 0 8, .adapterLoad 32 0, .adapterLoad 0 8, .pause 32 0, .pause 0 8,
   .resume 32 0, .resume 0 8, .cancel 32 0, .cancel 0 8, .exportRoute 32 0, .exportRoute 0 8, .layerChunkLaunch ⟨32, noFinds⟩, .layerChunkDone 32 0,
   .firstTokenSample 32 0 [], .prtSrvCtrlEn .mgmt 32 0, .prtSrvQuotaWrite .mgmt 32 0, .sqTail .mgmt 32 0 0, .sqTail .mgmt 0 8 0] : List Instr).any Instr.wf = false ∧
  ([.cqHead .mgmt 32 0 0, .cqHead .mgmt 0 8 0, .descriptorFetch 32, .completionRecordWrite 32 0, .completionRecordWrite 0 8,
   .msiXHoldoffExpiry 32 0, .msiXHoldoffExpiry 0 8, .weightLoad 32 0, .weightLoad 0 8, .programLoad 32 ⟨0, Split.whole⟩, .programLoad 0 ⟨8, Split.whole⟩,
   .hintHeavy 32 0, .hintHeavy 0 8, .fence 32 0, .fence 0 8, .collectiveBind 32 0, .collectiveBind 0 8, .prtGroupWrite .mgmt 32 0,
   .prtLockSet .mgmt 32 0, .prtSqCfgEn .mgmt 32 0 0] : List Instr).any Instr.wf = false ∧
  ([.prtSqCfgEn .mgmt 0 8 0, .prtCqCfgEn .mgmt 32 0 0, .prtCqCfgEn .mgmt 0 8 0, .exportSend ⟨32, noFinds⟩, .prtVngCallen .mgmt 32 0,
   .collPieceSend 32 ⟨0, noFinds⟩, .collPieceSend 0 ⟨32, noFinds⟩, .collFail 32 0 0, .collFail 0 32 0, .prtVngFlowqWrite .mgmt 32 0, .prtVngGrploEn .mgmt 32 0,
   .prtPwrStripReq .mgmt 32 0 0, .hintCheck 32 0, .hintBallastTimeout 32, .hintDeferExpiry 32, .prtResetGo .mgmt 32,
   .partitionResetDone 32, .prtResetZero .mgmt 32, .zeroisingClearDone 32, .requestAbort 32] : List Instr).any Instr.wf = false ∧
  ([.abortTimeout 32, .stall 32, .gateTrailerSend 32, .gateReopen 32] : List Instr).any Instr.wf = false := by decide +kernel

/-- Ill-formed: an offset that is no word of its window. -/
theorem test_wellFormed_refusesOffset :
  ([.prtHbmWindowWrite .mgmt 16777216 0, .prtHbmWindowWrite .mgmt 2 0, .memSpillEntryWrite .mgmt 16777216 0, .memSpillEntryWrite .mgmt 2 0,
   .messageTimeEnd [⟨.mgmt, false, 2, 0⟩], .messageTimeEnd [⟨.mgmt, true, 0x1000000, 0⟩], .regRead 16777216 0, .regWrite 16777216 0,
   .monRd 16777216 0, .monWr 16777216 0, .registerWrite .mgmt 16777216 0, .bar0AccessError .mgmt 16777216 0 false] : List Instr).any Instr.wf = false := by decide +kernel

/-- Ill-formed: a frame with a port, node or partition beyond its field. -/
theorem test_wellFormed_refusesPort :
  ([.ack { goodFrame with port := 14 }, .ack { goodFrame with snode := 16777216 }, .ack { goodFrame with spart := 256 },
   .ack { goodFrame with dpart := 256 }, .credit { goodFrame with port := 14 }, .credit { goodFrame with snode := 16777216 },
   .credit { goodFrame with spart := 256 }, .credit { goodFrame with dpart := 256 }, .coll { goodFrame with port := 14 },
   .coll { goodFrame with snode := 16777216 }, .coll { goodFrame with spart := 256 }, .coll { goodFrame with dpart := 256 },
   .tierRdata { goodFrame with port := 14 }, .tierRdata { goodFrame with snode := 16777216 }, .tierRdata { goodFrame with spart := 256 },
   .tierRdata { goodFrame with dpart := 256 }, .tierWack { goodFrame with port := 14 }, .tierWack { goodFrame with snode := 16777216 },
   .tierWack { goodFrame with spart := 256 }, .tierWack { goodFrame with dpart := 256 }] : List Instr).any Instr.wf = false ∧
  ([.mirrorCheck { goodFrame with port := 14 }, .mirrorCheck { goodFrame with snode := 16777216 },
   .mirrorCheck { goodFrame with spart := 256 }, .mirrorCheck { goodFrame with dpart := 256 }] : List Instr).any Instr.wf = false := by decide +kernel

/-- Ill-formed: an upset of a word, an on-die report, a word that fails, or a finding, of what the module does not have; a
module that is no member of its split. -/
theorem test_wellFormed_refusesFound :
  ([.load ⟨0, 0, 0x2, false, [⟨1536, 0, 0, true⟩]⟩, .load ⟨0, 0, 0x2, false, [⟨0, 704, 0, true⟩]⟩,
   .load ⟨0, 0, 0x2, false, [⟨0, 0, 4096, true⟩]⟩, .vectorResult ⟨0, 0, false⟩ ⟨[], [⟨0, 0, 4096, true⟩]⟩,
   .drainDone ⟨0, 0, false⟩ ⟨[], [⟨0, 0, 4096, true⟩]⟩, .remoteAccessArrival 0 ⟨0, [⟨0, 0, 4096, true⟩]⟩,
   .sqRequestIssue 0 0 ⟨0, [⟨0, 0, 4096, true⟩]⟩, .memRequestServe 0 0 [] ⟨[], [768]⟩, .pageTranslation 0 ⟨0, ⟨[], [], [768]⟩⟩,
   .frameSpill ⟨0, ⟨[], [], [768]⟩⟩, .readStreamVisit 0 ⟨0, ⟨[], [], [768]⟩⟩, .appendColumnAccepted 0 ⟨0, ⟨[], [], [768]⟩⟩,
   .layerChunkLaunch ⟨0, ⟨[], [], [768]⟩⟩, .exportSend ⟨0, ⟨[], [], [768]⟩⟩, .collPieceSend 0 ⟨0, ⟨[], [], [768]⟩⟩,
   .barrierArrival 0 ⟨0, [1081344]⟩] : List Instr).any Instr.wf = false ∧
  ([.hbmEpoch 0 ⟨0, [(32, 1)]⟩, .domainUpDone ⟨0, 0, [(32, 1)]⟩, .programLoad 0 ⟨0, ⟨3, 1, 0⟩⟩, .programLoad 0 ⟨0, ⟨2, 4, 4⟩⟩,
   .startupStageDone ⟨[(96, 0)], [], [], [], [], true⟩ 0, .startupStageDone ⟨[], [(96, 0, 0)], [], [], [], true⟩ 0,
   .startupStageDone ⟨[], [(0, 4, 0)], [], [], [], true⟩ 0, .startupStageDone ⟨[], [(0, 0, 8)], [], [], [], true⟩ 0,
   .startupStageDone ⟨[], [], [(24, 0)], [], [], true⟩ 0, .startupStageDone ⟨[], [], [(0, 32)], [], [], true⟩ 0,
   .startupStageDone ⟨[], [], [], [(24, 0)], [], true⟩ 0, .startupStageDone ⟨[], [], [], [(0, 32)], [], true⟩ 0,
   .startupStageDone ⟨[], [], [], [], [4], true⟩ 0, .startupStageLimit ⟨[], ⟨[], [], [], [], [4], true⟩, 0⟩] : List Instr).any Instr.wf = false := by
  decide +kernel
end

section
/-! SUPPORT. The set-up registers: where they lie in BAR0, the path that a write takes to its register (R8, R10, R12, R325),
and what a write that stores or clears leaves behind. -/
namespace Sys2Proof.Machine

/-! ### Where the registers lie (R8, R452) -/

/-- Every entry of the register table is laid out in whole words. -/
theorem Reg.info_words (r : Reg) : r.info.base % 4 = 0 ∧ r.info.off % 4 = 0 ∧ r.info.stride % 4 = 0 := by
  cases r <;> decide

/-- A register's members lie within its 4 KiB block, and its blocks end by 0xE0000. -/
theorem Reg.info_within (r : Reg) :
    r.info.off + (r.info.count - 1) * r.info.stride + 4 ≤ 0x1000 ∧ r.info.base + r.info.blocks * 0x1000 ≤ 0xE0000 := by
  cases r <;> decide

theorem Reg.addr_mod_four (r : Reg) (blk idx : Nat) : r.addr blk idx % 4 = 0 := by
  obtain ⟨hbase, hoff, hstride⟩ := r.info_words
  have hmember : idx * r.info.stride % 4 = 0 := by simp [Nat.mul_mod, hstride]
  unfold Reg.addr
  omega

theorem Reg.addr_add_four_le (r : Reg) {blk idx : Nat} (hb : blk < r.info.blocks) (hi : idx < r.info.count) :
    r.addr blk idx + 4 ≤ 0xE0000 := by
  obtain ⟨hword, hblock⟩ := r.info_within
  have hmember : idx * r.info.stride ≤ (r.info.count - 1) * r.info.stride := Nat.mul_le_mul_right _ (by omega)
  unfold Reg.addr
  omega

/-! ### The path of a write (R8, R10 to R12, R325) -/

/-- At Ready a master that reaches the module, and whose partition waits for no clear, writes. -/
theorem State.busWrite_eq_writeReg {s : State} {m : Master} {off : Nat} {v : W32} (ready : s.ready = true)
    (carried : ∀ b, attachOf m = some b → s.attachOpen b = true ∧ s.waitsClear m off v = false)
    (monitor : m = .monitor → s.unlocked = true) : s.busWrite m off v = s.writeReg m off v := by
  unfold State.busWrite
  cases hm : attachOf m with
  | some b =>
    obtain ⟨hopen, hclear⟩ := carried b hm
    simp [hopen, ready, hclear]
  | none =>
    have hlocked : (m = .monitor && !s.unlocked) = false := by
      by_cases h : m = .monitor <;> simp [h, monitor]
    simp [ready, hlocked]

/-- A write that is not aligned is ignored and logged (R8). -/
theorem State.writeReg_of_unaligned (s : State) (m : Master) {off : Nat} (v : W32) (h : off % 4 ≠ 0) :
    s.writeReg m off v = s.log .hostAccess (offPart off) 0 0 0 off := by
  simp [State.writeReg, h, State.hostAccess]

/-- A register without locked fields, or of a partition whose set-up is not locked, takes the value as written (R12). -/
theorem State.underLock_of_free {s : State} {r : Reg} {p : Nat} (blk idx off : Nat) (v : W32)
    (free : r.info.rwl = 0 ∨ s.flag .prtLock p 0 0 = false) : s.underLock r blk idx p off v = (v, s) := by
  have held : ¬ (r.info.rwl ≠ 0 && s.flag .prtLock p 0 0) = true := by
    rcases free with h | h <;> simp [h]
  simp only [State.underLock, if_neg held]
  simp [-BitVec.reduceAllOnes]

namespace WriteReady
variable {s : State} {m : Master} {r : Reg} {blk idx : Nat} {v : W32}

/-- A write that is ready reaches its register. HIF_OWN, whose bits belong to the partitions, has a path of its own. -/
theorem busWrite_eq_act (h : WriteReady s m r blk idx v) (hown : r ≠ .hifOwn) :
    s.busWrite m (r.addr blk idx) v = s.act r blk idx m (r.addr blk idx) v := by
  rw [State.busWrite_eq_writeReg h.ready h.carried h.monitor]
  simp [State.writeReg, h.word, h.holds, hown, h.owned, State.underLock_of_free blk idx _ v h.free]

theorem rowWrite_eq_act (h : WriteReady s m r blk idx v) (hown : r ≠ .hifOwn) :
    s.rowWrite m r blk idx v = s.act r blk idx m (r.addr blk idx) v := by
  rw [State.rowWrite, if_pos h.place, h.busWrite_eq_act hown]

end WriteReady

/-! ### What a write stores and clears -/

/-- A register whose write does no more is stored under its access types (R10). -/
theorem State.act_eq_store {r : Reg} (h : r.acts = false) (s : State) (blk idx : Nat) (m : Master) (off : Nat) (v : W32) :
    s.act r blk idx m off v = s.store r blk idx v := by
  unfold State.act
  split
  rotate_right
  · rfl
  all_goals exact absurd h (by decide)

theorem State.store_regs_only (s : State) (r : Reg) (blk idx : Nat) (v : W32) :
    s.store r blk idx v = { s with regs := (s.store r blk idx v).regs } := rfl

@[simp] theorem State.reg_store_self (s : State) (r : Reg) (blk idx : Nat) (v : W32) :
    (s.store r blk idx v).reg r blk idx = r.info.merge (s.reg r blk idx) v := by
  simp [State.store]

theorem State.reg_store_ne (s : State) {r q : Reg} {blk idx b i : Nat} (v : W32) (n : r.addr blk idx ≠ q.addr b i) :
    (s.store r blk idx v).reg q b i = s.reg q b i :=
  s.reg_setReg_ne _ n

/-- Clearing a register leaves 0 in one that already holds 0. -/
theorem State.reg_setReg_zero {s : State} {q : Reg} {b i : Nat} (h : s.reg q b i = 0) (r : Reg) (blk idx : Nat) :
    (s.setReg r blk idx 0).reg q b i = 0 := by
  by_cases e : r.addr blk idx = q.addr b i
  · simp [State.reg, State.setReg, e]
  · rw [s.reg_setReg_ne _ e, h]

theorem State.reg_clearRegs_zero (rs : List Reg) (blk : Nat) {q : Reg} {b i : Nat} :
    ∀ {s : State}, s.reg q b i = 0 → (s.clearRegs rs blk).reg q b i = 0 := by
  induction rs with
  | nil => exact fun h => h
  | cons r rs ih => exact fun h => ih (State.reg_setReg_zero h r blk 0)

/-- Each register of a list that is cleared reads 0. -/
theorem State.reg_clearRegs_mem {rs : List Reg} {q : Reg} (blk : Nat) (hq : q ∈ rs) :
    ∀ s : State, (s.clearRegs rs blk).reg q blk 0 = 0 := by
  induction rs with
  | nil => cases hq
  | cons r rs ih =>
    intro s
    rcases List.mem_cons.1 hq with rfl | hq
    · exact State.reg_clearRegs_zero rs blk (s.reg_setReg_self q blk 0 0)
    · exact ih hq _

theorem State.clearRegs_regs_only (rs : List Reg) (blk : Nat) :
    ∀ s : State, s.clearRegs rs blk = { s with regs := (s.clearRegs rs blk).regs } := by
  induction rs with
  | nil => exact fun s => rfl
  | cons r rs ih => exact fun s => ih (s.setReg r blk 0 0)

/-- A W1C field of ERR_ALERT: a 1 clears its alert, a 0 leaves it (R437). -/
theorem Reg.merge_errAlert (old v : W32) : Reg.errAlert.info.merge old v = old &&& ~~~(v &&& 0x3F) := by
  simp [RegInfo.merge, Reg.info, -BitVec.reduceAllOnes]

/-- The W1S field of PRT_LOCK: a 1 sets it, a 0 leaves it (R12). -/
theorem Reg.merge_prtLock (old v : W32) : Reg.prtLock.info.merge old v = old ||| (v &&& 1) := by
  simp [RegInfo.merge, Reg.info, -BitVec.reduceAllOnes]

theorem Reg.fldScrCtrl_addr_ne_fldScrEcc (f : Nat) : Reg.fldScrCtrl.addr f 0 ≠ Reg.fldScrEcc.addr f 0 := by
  simp [Reg.addr, Reg.info]

/-- CLR_CNT of FLD_SCR_CTRL: the counts of FLD_SCR_ECC and SWEEP_MAX are 0, and only registers changed (R188). -/
theorem State.act_fldScrCtrl_clears {v : W32} (hv : v.getLsbD 0 = true) (s : State) (m : Master) (f off : Nat) :
    s.act .fldScrCtrl f 0 m off v = { s with regs := (s.act .fldScrCtrl f 0 m off v).regs } ∧
      (s.act .fldScrCtrl f 0 m off v).reg .fldScrEcc f 0 = 0 ∧ (s.act .fldScrCtrl f 0 m off v).fld .fldScrCtrl f 0 31 16 = 0 := by
  have e : s.act .fldScrCtrl f 0 m off v =
      ((s.store .fldScrCtrl f 0 v).clearRegs [.fldScrEcc] f).setFld .fldScrCtrl f 0 31 16 0 := by
    simp [State.act, hv]
  rw [e]
  refine ⟨rfl, ?_, State.fld_setFld_self _ _ _ _ _ (by decide) (by decide)⟩
  rw [State.setFld, State.reg_setReg_ne _ _ (Reg.fldScrCtrl_addr_ne_fldScrEcc f)]
  exact State.reg_clearRegs_mem f (by simp) _

/-! ### Accesses that are no aligned word (R8) -/

/-- An access that its master can carry, of another size or alignment, leaves one record and nothing else. -/
theorem execBar0AccessError_logs {s : State} {m : Master} {off size : Nat} (w : Bool)
    (carried : ∀ b, attachOf m = some b → s.attachOpen b = true) (bad : size ≠ 4 ∨ off % 4 ≠ 0) :
    execBar0AccessError m off size w s = .next (s.log .hostAccess (offPart off) 0 0 0 off) := by
  have noWord : ¬ (size = 4 ∧ off % 4 = 0) := fun ⟨hsize, hoff⟩ => bad.elim (· hsize) (· hoff)
  unfold execBar0AccessError
  cases hm : attachOf m with
  | some b => simp [carried b hm, noWord, State.hostAccess]
  | none => simp [noWord, State.hostAccess]

/-- A read that is not aligned gives 0 and leaves one record. -/
theorem State.readRegs_of_unaligned (s : State) {off : Nat} (h : off % 4 ≠ 0) :
    s.readRegs off 1 = ([0, 0, 0, 0], s.log .hostAccess (offPart off) 0 0 0 off) := by
  simp [State.readRegs, h, leBytes, State.hostAccess]

end Sys2Proof.Machine

open Sys2Proof Sys2Proof.Machine

/-- Settles O52: a write that is ready reaches `State.act` of its register, which stores it, or clears what its bit is for. -/
theorem writesStoreAndClear : Obligations.WritesStoreAndClear := by
  intro s m v
  refine ⟨fun r blk idx h hacts => ?_, fun f h hv => ?_, fun f h hv => ?_, fun f h hv => ?_, fun h hv => ?_, fun h => ?_,
    fun p h => ?_⟩
  · have hown : r ≠ .hifOwn := by rintro rfl; exact absurd hacts (by decide)
    refine ⟨s.store r blk idx v, ?_, s.store_regs_only r blk idx v, s.reg_store_self r blk idx v,
      fun q b i hne => s.reg_store_ne v hne.symm⟩
    exact congrArg Host.Outcome.next ((h.busWrite_eq_act hown).trans (State.act_eq_store hacts ..))
  · exact ⟨_, congrArg Host.Outcome.next (h.rowWrite_eq_act (by decide)), State.act_fldScrCtrl_clears hv s m f _⟩
  · refine ⟨s.clearRegs [.fldKvwStat] f, ?_, s.clearRegs_regs_only _ f, State.reg_clearRegs_mem f (by simp) s⟩
    exact congrArg Host.Outcome.next ((h.rowWrite_eq_act (by decide)).trans (if_pos hv))
  · refine ⟨s.clearRegs [.fldIntCnt0, .fldIntCnt1, .fldIntCnt2] f, ?_, s.clearRegs_regs_only _ f,
      State.reg_clearRegs_mem f (by simp) s, State.reg_clearRegs_mem f (by simp) s, State.reg_clearRegs_mem f (by simp) s⟩
    exact congrArg Host.Outcome.next ((h.rowWrite_eq_act (by decide)).trans (if_pos hv))
  · refine ⟨s.clearRegs [.pwrBwarn] 0, ?_, s.clearRegs_regs_only _ 0, State.reg_clearRegs_mem 0 (by simp) s⟩
    exact congrArg Host.Outcome.next ((h.rowWrite_eq_act (by decide)).trans (if_pos hv))
  · refine ⟨s.store .errAlert 0 0 v, ?_, s.store_regs_only .errAlert 0 0 v, ?_⟩
    · exact congrArg Host.Outcome.next ((h.rowWrite_eq_act (by decide)).trans (State.act_eq_store (by decide) ..))
    · rw [s.reg_store_self, Reg.merge_errAlert]
  · refine ⟨s.store .prtLock p 0 v, ?_, s.store_regs_only .prtLock p 0 v, ?_⟩
    · exact congrArg Host.Outcome.next ((h.rowWrite_eq_act (by decide)).trans (State.act_eq_store (by decide) ..))
    · rw [s.reg_store_self, Reg.merge_prtLock]

/-- Settles O58, from the register table, the path of a write and the two accesses that are no aligned word. -/
theorem accessesAreAlignedWords : Obligations.AccessesAreAlignedWords := by
  refine ⟨fun r blk idx hb hi => ⟨r.addr_mod_four blk idx, r.addr_add_four_le hb hi⟩,
    fun s m off size w carried bad => execBar0AccessError_logs w carried bad, fun s m off v hoff ready carried monitor => ?_,
    fun s off hoff => s.readRegs_of_unaligned hoff⟩
  exact congrArg Host.Outcome.next ((State.busWrite_eq_writeReg ready carried monitor).trans (s.writeReg_of_unaligned m v hoff))
end

section
/-! SUPPORT. What ends work leaves alone (R343, R372, R410): the supply and its readings, start-up, and who leads whom. -/
namespace Sys2Proof

@[simp] theorem SMap.isSome_at?_put {α : Type} (m : SMap α) (i j : Nat) (a : α) :
    ((m.put i a).at? j).isSome = (decide (j = i) || (m.at? j).isSome) := by
  by_cases h : i = j
  · subst h; simp
  · simp [m.at?_put_ne a h, Ne.symm h]

end Sys2Proof

namespace Sys2Proof.Machine

/-! ### Registers of different places -/

theorem Reg.info_base_page (r : Reg) : r.info.base % 0x1000 = 0 := by
  cases r <;> decide

/-- The place of a register's member in its 4 KiB block. -/
theorem Reg.addr_mod_page (r : Reg) (blk : Nat) {idx : Nat} (h : idx < r.info.count) :
    r.addr blk idx % 0x1000 = r.info.off + idx * r.info.stride := by
  have hmember : idx * r.info.stride ≤ (r.info.count - 1) * r.info.stride := Nat.mul_le_mul_right _ (by omega)
  have hbase := r.info_base_page
  have hend := r.info_within.1
  unfold Reg.addr
  omega

/-- Members at different places of their blocks are different registers. -/
theorem Reg.addr_ne_of_place {r q : Reg} {i j : Nat} (b c : Nat) (hi : i < r.info.count) (hj : j < q.info.count)
    (h : r.info.off + i * r.info.stride ≠ q.info.off + j * q.info.stride) : r.addr b i ≠ q.addr c j := by
  intro e
  apply h
  rw [← r.addr_mod_page b hi, ← q.addr_mod_page c hj, e]

/-! ### The relation -/

/-- From s to t the power manager, start-up and the leaders of the partitions stand. -/
structure SameSupply (s t : State) : Prop where
  pwr : t.pwr = s.pwr
  up : t.up = s.up
  group : ∀ p, t.reg .prtGroup p 0 = s.reg .prtGroup p 0

namespace SameSupply
variable {a b c : State}

theorem refl (s : State) : SameSupply s s := ⟨rfl, rfl, fun _ => rfl⟩

theorem trans (h : SameSupply a b) (g : SameSupply b c) : SameSupply a c :=
  ⟨g.pwr.trans h.pwr, g.up.trans h.up, fun p => (g.group p).trans (h.group p)⟩

theorem ite {p : Prop} [Decidable p] (h : p → SameSupply a b) (g : ¬ p → SameSupply a c) :
    SameSupply a (if p then b else c) := by
  split
  · exact h ‹_›
  · exact g ‹_›

/-- The same, the later part first. -/
theorem after (g : SameSupply b c) (h : SameSupply a b) : SameSupply a c := h.trans g

theorem foldl_mem {α : Type} {f : State → α → State} {l : List α} {s : State}
    (hf : ∀ s, ∀ x ∈ l, SameSupply s (f s x)) : SameSupply s (l.foldl f s) := by
  induction l generalizing s with
  | nil => exact refl s
  | cons x l ih => exact (hf s x List.mem_cons_self).trans (ih fun s y hy => hf s y (List.mem_cons_of_mem x hy))

theorem foldl {α : Type} {f : State → α → State} {l : List α} {s : State} (hf : ∀ s x, SameSupply s (f s x)) :
    SameSupply s (l.foldl f s) :=
  foldl_mem fun s x _ => hf s x

theorem lead (h : SameSupply a b) (p : Nat) : b.lead p = a.lead p := by
  simp [State.lead, State.fld, h.group p]

end SameSupply

namespace State
variable (s : State)

/-! ### Registers and records -/

/-- PRT_GROUP lies at place 8 of a partition's block: a register at another place holds no leader. -/
theorem setReg_sameSupply (r : Reg) (blk idx : Nat) (v : W32) (hidx : idx < r.info.count)
    (place : r.info.off + idx * r.info.stride ≠ 8) : SameSupply s (s.setReg r blk idx v) :=
  ⟨rfl, rfl, fun p => s.reg_setReg_ne v (Reg.addr_ne_of_place blk p hidx (by decide) place)⟩

theorem setFld_sameSupply (r : Reg) (blk idx hi lo v : Nat) (hidx : idx < r.info.count)
    (place : r.info.off + idx * r.info.stride ≠ 8) : SameSupply s (s.setFld r blk idx hi lo v) :=
  s.setReg_sameSupply r blk idx _ hidx place

theorem logRaw_sameSupply (code cls : Nat) (persist : Bool) (part h0 h1 w2 w3 : Nat) :
    SameSupply s (s.logRaw code cls persist part h0 h1 w2 w3) :=
  (setReg_sameSupply _ .errLogHead 0 0 _ (by decide) (by decide)).after ⟨rfl, rfl, fun _ => rfl⟩

theorem setAlert_sameSupply (n : Nat) : SameSupply s (s.setAlert n) :=
  .ite (fun _ => .refl s) fun _ =>
    (s.setFld_sameSupply .errAlert 0 0 n n 1 (by decide) (by decide)).trans ⟨rfl, rfl, fun _ => rfl⟩

theorem log_sameSupply (c : Code) (part h0 h1 w2 w3 : Nat) : SameSupply s (s.log c part h0 h1 w2 w3) := by
  unfold State.log
  cases c.alert with
  | none => exact s.logRaw_sameSupply ..
  | some n => exact (s.logRaw_sameSupply ..).trans (setAlert_sameSupply _ n)

/-! ### Messages (R354 to R358) -/

theorem modReq_sameSupply (id : Nat) (f : Request → Request) : SameSupply s (s.modReq id f) :=
  ⟨rfl, rfl, fun _ => rfl⟩

theorem setOut_sameSupply (k : Nat) (f : OutFlow) : SameSupply s (s.setOut k f) := ⟨rfl, rfl, fun _ => rfl⟩

theorem sendFrame_sameSupply (f : OutFlow) (m : OutMsg) (port : Nat) : SameSupply s (s.sendFrame f m port) :=
  ⟨rfl, rfl, fun _ => rfl⟩

theorem pump_sameSupply (k n : Nat) : ∀ s : State, SameSupply s (s.pump k n) := by
  induction n with
  | zero => exact .refl
  | succ n ih =>
    intro s
    unfold State.pump
    split
    next f port _ _ =>
      split
      · exact .refl s
      · exact .ite (fun _ => .refl s) fun _ =>
          ((s.sendFrame_sameSupply f _ port).trans (setOut_sameSupply _ k _)).trans (ih _)
    · exact .refl s

theorem openFlow_sameSupply (p dnode dpart : Nat) : SameSupply s (s.openFlow p dnode dpart).2 :=
  ⟨rfl, rfl, fun _ => rfl⟩

theorem sendMsg_sameSupply (p dnode dpart type : Nat) (body : List Byte) (marks : List Bool) :
    SameSupply s (s.sendMsg p dnode dpart type body marks).2 := by
  unfold State.sendMsg
  extract_lets put
  have hput : ∀ (t : State) (k : Nat), SameSupply t (put t k).2 := by
    intro t k
    simp only [put]
    split
    · exact (setOut_sameSupply _ _ _).trans (pump_sameSupply _ _ _)
    · exact .refl t
  split
  · exact hput s _
  · split
    · exact (s.openFlow_sameSupply p dnode dpart).trans (hput _ _)
    · exact ⟨rfl, rfl, fun _ => rfl⟩

theorem sendTrailer_sameSupply (q : Request) (m i status : Nat) : SameSupply s (s.sendTrailer q m i status) := by
  unfold State.sendTrailer
  split
  · exact .refl s
  · refine .ite (fun _ => .refl s) fun _ => .ite (fun _ => modReq_sameSupply ..) fun _ => ?_
    exact ((s.sendMsg_sameSupply ..).trans (modReq_sameSupply ..)).trans (modReq_sameSupply ..)

theorem endStreams_sameSupply (q : Request) (status : Nat) : SameSupply s (s.endStreams q status) :=
  .foldl fun _ _ => .foldl fun _ _ => sendTrailer_sameSupply .. 

theorem restartFlow_sameSupply (k : Nat) (f : OutFlow) : SameSupply s (s.restartFlow k f) :=
  ((setOut_sameSupply _ k _).trans (pump_sameSupply k pumpFuel _)).after ⟨rfl, rfl, fun _ => rfl⟩

theorem restartFlows_sameSupply (p : Nat) : SameSupply s (s.restartFlows p) :=
  .after (.foldl fun _ _ => restartFlow_sameSupply ..)
    ((setReg_sameSupply _ .prtVngCallen p 0 0 (by decide) (by decide)).after ⟨rfl, rfl, fun _ => rfl⟩)

/-! ### Caches (R273, R282) -/

theorem modPart_sameSupply (p : Nat) (g : Part → Part) : SameSupply s (s.modPart p g) := ⟨rfl, rfl, fun _ => rfl⟩

theorem modField_sameSupply (f : Nat) (g : Field → Field) : SameSupply s (s.modField f g) := ⟨rfl, rfl, fun _ => rfl⟩

theorem storeBytes_sameSupply (a : Nat) (bs : List Byte) : SameSupply s (s.storeBytes a bs) := ⟨rfl, rfl, fun _ => rfl⟩

theorem tlbDrop_sameSupply (p : Nat) (f : TlbEntry → Bool) : SameSupply s (s.tlbDrop p f) :=
  .foldl fun _ _ => modField_sameSupply ..

theorem putFrm_sameSupply (p f : Nat) (v : Frm) : SameSupply s (s.putFrm p f v) :=
  .trans (.ite (fun _ => s.tlbDrop_sameSupply p _) fun _ => .refl s) (storeBytes_sameSupply ..)

theorem putPte_sameSupply (p cid layer pidx : Nat) (v : Pte) : SameSupply s (s.putPte p cid layer pidx v) :=
  (s.tlbDrop_sameSupply p _).trans (storeBytes_sameSupply ..)

theorem freeIfUnused_sameSupply (p f : Nat) : SameSupply s (s.freeIfUnused p f) := by
  unfold State.freeIfUnused
  extract_lets v slotFree tierFree
  have hslot : SameSupply s slotFree := .ite (fun _ => .refl s) fun _ => modPart_sameSupply ..
  have htier : SameSupply slotFree tierFree := .ite (fun _ => modPart_sameSupply ..) fun _ => .refl _
  exact .ite (fun _ => .refl s) fun _ =>
    ((hslot.trans htier).trans (modPart_sameSupply _ p _)).trans (putFrm_sameSupply ..)

theorem unpinFrame_sameSupply (p f : Nat) : SameSupply s (s.unpinFrame p f) :=
  (s.putFrm_sameSupply p f _).trans (freeIfUnused_sameSupply _ p f)

theorem unref_sameSupply (p f layer g : Nat) : SameSupply s (s.unref p f layer g) :=
  (s.putFrm_sameSupply p f _).trans (freeIfUnused_sameSupply _ p f)

theorem releaseCtx_sameSupply (p cid : Nat) : SameSupply s (s.releaseCtx p cid) := by
  refine .ite (fun _ => .refl s) fun _ => ?_
  refine .trans (.trans (.foldl fun _ _ => .foldl fun t _ => .ite (fun _ => ?_) fun _ => .refl t)
    (storeBytes_sameSupply ..)) (modPart_sameSupply _ p _)
  exact (t.putPte_sameSupply ..).trans (unref_sameSupply ..)

theorem releaseCid_sameSupply (l cid : Nat) : SameSupply s (s.releaseCid l cid) :=
  .foldl fun _ _ => releaseCtx_sameSupply ..

theorem clearPins_sameSupply (p : Nat) : SameSupply s (s.clearPins p) :=
  .ite (fun _ => .refl s) fun _ =>
    .foldl (fun t _ => (t.putFrm_sameSupply p _ _).trans (freeIfUnused_sameSupply _ p _))

/-! ### Rings and requests (R298, R332, R343) -/

theorem endCmd_sameSupply (p r no status reqid result detail : Nat) :
    SameSupply s (s.endCmd p r no status reqid result detail) := by
  unfold State.endCmd
  split
  · exact .refl s
  · exact ⟨rfl, rfl, fun _ => rfl⟩

theorem endWaiting_sameSupply (no status reqid result detail : Nat) :
    SameSupply s (s.endWaiting no status reqid result detail) := by
  unfold State.endWaiting
  split
  · exact endCmd_sameSupply ..
  · exact .refl s

theorem pushEnd_sameSupply (q : Request) (member status result detail : Nat) :
    SameSupply s (s.pushEnd q member status result detail) := ⟨rfl, rfl, fun _ => rfl⟩

theorem endRequest_sameSupply (id : Nat) (st : Status) : SameSupply s (s.endRequest id st) := by
  unfold State.endRequest
  split
  · exact .refl s
  next q _ =>
    extract_lets s1 s2 s3 s4 sv s5 e s6 s7
    have h1 : SameSupply s s1 := .ite (fun _ => endStreams_sameSupply ..) fun _ => .refl s
    have h2 : SameSupply s1 s2 := .foldl (fun _ _ => unpinFrame_sameSupply ..)
    have h3 : SameSupply s2 s3 := .foldl (fun _ _ => .foldl (fun _ _ => releaseCid_sameSupply ..)) 
    have h4 : SameSupply s3 s4 := .foldl (fun _ _ => pushEnd_sameSupply ..)
    have h5 : SameSupply s4 s5 := ⟨rfl, rfl, fun _ => rfl⟩
    have h6 : SameSupply s5 s6 := .ite (fun _ => ⟨rfl, rfl, fun _ => rfl⟩) fun _ => .refl s5
    have h7 : SameSupply s6 s7 := .foldl (fun _ _ => endWaiting_sameSupply ..)
    have hend : SameSupply s7 (s7.syncContexts q.group) := setFld_sameSupply _ .prtSrvStat _ 0 _ _ _ (by decide) (by decide)
    exact h1.trans (h2.trans (h3.trans (h4.trans (h5.trans (h6.trans (h7.trans hend))))))

theorem voidEnd_sameSupply (q : Request) (cause : Option (Nat × Nat × Nat × Nat)) : SameSupply s (s.voidEnd q cause) :=
  (s.modReq_sameSupply q.id _).trans (endRequest_sameSupply _ q.id .voided)

/-! ### Partitions stopped (R343, R410, R430) -/

theorem closeGates_sameSupply (ps : List Nat) (cause : Nat) : SameSupply s (s.closeGates ps cause) :=
  .foldl fun _ p => (setFld_sameSupply _ .errGate 0 0 p p 1 (by decide) (by decide)).after ⟨rfl, rfl, fun _ => rfl⟩

theorem stopPart_sameSupply (p : Nat) (full : Bool) : SameSupply s (s.stopPart p full) :=
  .trans (.trans (s.modPart_sameSupply p _) (.foldl (fun t c =>
    (t.setFld_sameSupply .fldDspStat (3 * p + c) 0 31 16 0 (by decide) (by decide)).trans (modField_sameSupply ..))))
    (clearPins_sameSupply ..)

theorem stopWork_sameSupply (l : Nat) (full : Bool) : SameSupply s (s.stopWork l full) :=
  (SameSupply.foldl fun _ _ => stopPart_sameSupply ..).after ⟨rfl, rfl, fun _ => rfl⟩

theorem resetHost_sameSupply (p : Nat) : SameSupply s (s.resetHost p) := by
  refine .trans (.foldl_mem fun t r hr => ?_) (setFld_sameSupply _ .prtLock p 0 0 0 0 (by decide) (by decide))
  have hring : r < 8 := List.mem_range.1 hr
  exact (t.setFld_sameSupply .prtSqCfg p r 8 8 0 hring (by simp [Reg.info]; omega)).trans ⟨rfl, rfl, fun _ => rfl⟩

end State

/-! ### What a partition reset leaves alone (R389, R410) -/

/-- From s to t the power domains and their safety offs stand, and so do the leaders; partition resets under way go on. -/
structure SameDomains (s t : State) : Prop where
  domains : t.pwr.domains = s.pwr.domains
  safety : t.pwr.safety = s.pwr.safety
  resets : ∀ l, (s.up.resets.at? l).isSome = true → (t.up.resets.at? l).isSome = true
  group : ∀ p, t.reg .prtGroup p 0 = s.reg .prtGroup p 0

theorem SameSupply.sameDomains {s t : State} (h : SameSupply s t) : SameDomains s t :=
  ⟨by rw [h.pwr], by rw [h.pwr], fun l hl => by rw [h.up]; exact hl, h.group⟩

theorem SameDomains.trans {a b c : State} (h : SameDomains a b) (g : SameDomains b c) : SameDomains a c :=
  ⟨g.domains.trans h.domains, g.safety.trans h.safety, fun l hl => g.resets l (h.resets l hl),
    fun p => (g.group p).trans (h.group p)⟩

theorem SameDomains.lead {s t : State} (h : SameDomains s t) (p : Nat) : t.lead p = s.lead p := by
  simp [State.lead, State.fld, h.group p]

/-- The state in which a partition reset has been recorded, its work still as it was. -/
def State.resetBegun (s : State) (l : Nat) (cause : Nat × Nat × Nat) : State :=
  { s with
    up := { s.up with resets := s.up.resets.put l cause }
    err := { s.err with aborts := s.err.aborts.filter (fun a => a.group ≠ l), progress := s.err.progress.del l }
    pwr := { s.pwr with
      hints := s.pwr.hints.filter (fun h => h.group ≠ l), ballast := s.pwr.ballast.del l
      heldGroups := s.pwr.heldGroups.filter (· ≠ l) } }

theorem State.partitionReset_sameSupply {s : State} {l : Nat} (code cls part seq : Nat)
    (h : (s.up.resets.at? l).isSome = false) :
    SameSupply (s.resetBegun l (code, cls, seq)) (s.partitionReset l code cls part seq) := by
  unfold State.partitionReset
  rw [if_neg (by simp [h])]
  have hbusy (t : State) (p : Nat) : SameSupply t ((t.setFld .prtReset p 0 2 2 1).resetHost p) :=
    (t.setFld_sameSupply .prtReset p 0 2 2 1 (by decide) (by decide)).trans (State.resetHost_sameSupply ..)
  exact (State.closeGates_sameSupply _ _ 2).trans
    (.trans (.foldl fun t p => .after (.foldl fun _ _ => State.modField_sameSupply ..) (hbusy t p))
      (.trans (State.stopWork_sameSupply ..)
        (.trans (.foldl fun _ _ => State.restartFlows_sameSupply ..) (.foldl fun _ _ => State.voidEnd_sameSupply ..))))

theorem State.partitionReset_sameDomains (s : State) (l code cls part seq : Nat) :
    SameDomains s (s.partitionReset l code cls part seq) ∧
      ((s.partitionReset l code cls part seq).up.resets.at? l).isSome = true := by
  cases h : (s.up.resets.at? l).isSome with
  | true =>
    rw [State.partitionReset, if_pos h]
    exact ⟨(SameSupply.refl s).sameDomains, h⟩
  | false =>
    have hrest := (State.partitionReset_sameSupply code cls part seq h).sameDomains
    have hbegun : SameDomains s (s.resetBegun l (code, cls, seq)) :=
      ⟨rfl, rfl, fun k hk => by simp [State.resetBegun, SMap.isSome_at?_put, hk], fun _ => rfl⟩
    exact ⟨hbegun.trans hrest, hrest.resets l (by simp [State.resetBegun])⟩

/-- An event of class PARTITION resets the partition's group, unless a reset is under way (R420). -/
theorem State.partitionEvent_sameDomains (s : State) (c : Code) (part h0 h1 w2 w3 : Nat) :
    SameDomains s (s.partitionEvent c part h0 h1 w2 w3) ∧
      ((s.partitionEvent c part h0 h1 w2 w3).up.resets.at? (s.lead part)).isSome = true := by
  have hlog := (s.log_sameSupply c part h0 h1 w2 w3).sameDomains
  obtain ⟨hreset, hunder⟩ :=
    State.partitionReset_sameDomains (s.log c part h0 h1 w2 w3) (s.lead part) c.val c.cls part s.err.nextSeq
  exact ⟨hlog.trans hreset, hunder⟩

end Sys2Proof.Machine
end

section
/-! SUPPORT. Domains that go OFF, and safety offs (R389): what they set, what they record and what they leave alone. -/
namespace Sys2Proof.Machine

/-! ### A domain OFF (R373, R374) -/

namespace State
variable (s : State)

theorem loseHub_sameSupply (f : Nat) : SameSupply s (s.loseHub f) := by
  unfold State.loseHub
  extract_lets s1 s2 s3
  have h1 : SameSupply s s1 := .foldl_mem fun t r hr =>
    have hplace : 0 < r.info.count ∧ r.info.off + 0 * r.info.stride ≠ 8 := by
      revert r; decide
    t.setReg_sameSupply r f 0 _ hplace.1 hplace.2
  have h2 : SameSupply s1 s2 := .foldl_mem fun t k hk =>
    t.setReg_sameSupply .fldDspCnt f k 0 (List.mem_range.1 hk) (by simp [Reg.info]; omega)
  have h3 : SameSupply s2 s3 := modField_sameSupply ..
  exact (h1.trans (h2.trans h3)).trans (.ite (fun _ => modPart_sameSupply ..) fun _ => .refl s3)

/-- What a domain loses is no power domain, start-up state or group. -/
theorem loseDomain_sameSupply (d : Nat) : SameSupply s (s.loseDomain d) := by
  refine .ite (fun _ => ⟨rfl, rfl, fun _ => rfl⟩) fun _ => .ite (fun _ => loseHub_sameSupply ..) fun _ =>
    .ite (fun hstack => ?_) fun _ => .ite (fun hport => ?_) fun _ => .refl s
  · have hzero : SameSupply s (s.zeroStack (d - 1248)) := ⟨rfl, rfl, fun _ => rfl⟩
    exact hzero.trans (setFld_sameSupply _ .memStkStat 0 (d - 1248) 8 8 0 (show d - 1248 < 24 by omega) (by simp [Reg.info]; omega))
  · exact s.setFld_sameSupply .vngPort 0 (d - 1272) 2 0 0 (show d - 1272 < 14 by omega) (by simp [Reg.info]; omega)

theorem showStrip_sameSupply (d : Nat) : SameSupply s (s.showStrip d) := by
  have hcol : d / 12 % 3 < 3 := Nat.mod_lt _ (by decide)
  exact (s.setFld_sameSupply .fldPwrTemp _ 0 _ _ _ (by decide) (by decide)).trans
    ((setFld_sameSupply _ .prtPwrStat _ _ _ _ _ hcol (by simp [Reg.info]; omega)).trans
      (setFld_sameSupply _ .prtPwrStat _ _ _ _ _ hcol (by simp [Reg.info]; omega)))

theorem putDomain_sameSupply (d : Nat) (v : Domain) : SameSupply (s.setDomain d v) (s.putDomain d v) :=
  .ite (fun _ => showStrip_sameSupply ..) fun _ => .refl _

/-- A domain that goes OFF is OFF; the supply besides stands. -/
theorem domainOff_sameSupply (d : Nat) : SameSupply (s.setDomain d Domain.off) (s.domainOff d) :=
  .ite (fun _ => putDomain_sameSupply ..) fun _ => (s.putDomain_sameSupply d _).trans (loseDomain_sameSupply ..)

end State

/-! ### Safety off (R389) -/

/-- A domain is OFF under a safety off whose condition holds. -/
def State.heldOff (s : State) (d : Nat) : Prop := s.domain d = Domain.off ∧ s.pwr.safety.at? d = some none

/-- A domain switched off under a safety off. -/
def State.cutDomain (s : State) (d : Nat) : State :=
  ({ s with pwr := { s.pwr with safety := s.pwr.safety.put d none } } : State).domainOff d

/-- Domains switched off under a safety off, one by one. -/
def State.cutOff (s : State) (doms : List Nat) : State := doms.foldl State.cutDomain s

/-- The partition of a strip or a hub; 255 for another domain (R422). -/
def partOfDomain (d : Nat) : Nat := if d < 1152 then d / 36 else if d < 1248 then (d - 1152) / 3 else 255

/-- One record of a safety off for a partition, 255 for none, which also resets that partition (R389, R420). -/
def State.recordPart (s : State) (doms : List Nat) (cond p : Nat) : State :=
  let ds := doms.filter (fun d => partOfDomain d == p)
  if p = 255 then s.log .safetyOff 255 (ds.headD 0) ds.length 0 cond
  else s.partitionEvent .safetyOff p (ds.headD 0) ds.length (s.reqidOf p) cond

/-- The records of a safety off. -/
def State.recordOff (s : State) (doms : List Nat) (cond : Nat) : State :=
  (doms.map partOfDomain).dedup.foldl (fun s p => s.recordPart doms cond p) s

/-- What a safety off during start-up leaves out of service (R419). -/
def State.leaveOut (s : State) (doms : List Nat) : State :=
  if 3 ≤ s.fld .glbStart 0 0 3 0 ∧ s.fld .glbStart 0 0 3 0 ≤ 10 then
    { s with up := { s.up with
      failed := (s.up.failed ++ doms).dedup
      outParts := (s.up.outParts ++ (doms.map partOfDomain).dedup.filter (· < 32)).dedup } }
  else s

theorem State.safetyOff_eq (s : State) (doms : List Nat) (cond : Nat) :
    s.safetyOff doms cond = ((s.cutOff doms).recordOff doms cond).leaveOut doms := rfl

theorem State.leaveOut_eq (s : State) (doms : List Nat) :
    s.leaveOut doms = { s with up := { s.up with failed := (s.leaveOut doms).up.failed, outParts := (s.leaveOut doms).up.outParts } } := by
  unfold State.leaveOut
  split <;> rfl

theorem State.leaveOut_sameDomains (s : State) (doms : List Nat) : SameDomains s (s.leaveOut doms) := by
  rw [State.leaveOut_eq]
  exact ⟨rfl, rfl, fun _ h => h, fun _ => rfl⟩

theorem SameDomains.heldOff {s t : State} (h : SameDomains s t) {d : Nat} (hd : s.heldOff d) : t.heldOff d := by
  obtain ⟨hoff, hheld⟩ := hd
  exact ⟨by rw [State.domain, h.domains]; exact hoff, by rw [h.safety]; exact hheld⟩

theorem State.cutDomain_sameSupply (s : State) (d : Nat) :
    SameSupply (({ s with pwr := { s.pwr with safety := s.pwr.safety.put d none } } : State).setDomain d Domain.off)
      (s.cutDomain d) := State.domainOff_sameSupply ..

/-- A domain that is cut is held, and one that was held before still is. -/
theorem State.heldOff_cutDomain {s : State} {d e : Nat} (h : d = e ∨ s.heldOff e) : (s.cutDomain d).heldOff e := by
  refine (s.cutDomain_sameSupply d).sameDomains.heldOff ?_
  by_cases hde : d = e
  · subst hde
    exact ⟨State.domain_setDomain_self .., SMap.at?_put_self ..⟩
  · obtain ⟨hoff, hheld⟩ := h.resolve_left hde
    exact ⟨(State.domain_setDomain_ne _ _ hde).trans hoff, (SMap.at?_put_ne _ _ hde).trans hheld⟩

/-- Each domain of a safety off is held. -/
theorem State.heldOff_cutOff {d : Nat} : ∀ {doms : List Nat} {s : State}, d ∈ doms ∨ s.heldOff d → (s.cutOff doms).heldOff d := by
  intro doms
  induction doms with
  | nil => exact fun h => h.resolve_left List.not_mem_nil
  | cons e doms ih =>
    intro s h
    refine ih (s := s.cutDomain e) ?_
    rcases h with h | h
    · exact (List.mem_cons.1 h).symm.imp_right fun hde => State.heldOff_cutDomain (.inl hde.symm)
    · exact .inr (State.heldOff_cutDomain (.inr h))

theorem State.lead_cutOff (p : Nat) (doms : List Nat) : ∀ s : State, (s.cutOff doms).lead p = s.lead p := by
  induction doms with
  | nil => exact fun _ => rfl
  | cons e doms ih => exact fun s => (ih _).trans ((s.cutDomain_sameSupply e).lead p)

theorem State.recordPart_sameDomains (s : State) (doms : List Nat) (cond p : Nat) :
    SameDomains s (s.recordPart doms cond p) ∧
      (p ≠ 255 → ((s.recordPart doms cond p).up.resets.at? (s.lead p)).isSome = true) := by
  unfold State.recordPart
  by_cases h : p = 255
  · simpa [h] using (s.log_sameSupply ..).sameDomains
  · simpa [h] using s.partitionEvent_sameDomains ..

/-- The records of a safety off leave the domains as they are, and reset every partition that they name. -/
theorem State.foldl_recordPart_sameDomains (doms : List Nat) (cond : Nat) (ps : List Nat) : ∀ s : State,
    SameDomains s (ps.foldl (fun s p => s.recordPart doms cond p) s) ∧
      ∀ p ∈ ps, p ≠ 255 → ((ps.foldl (fun s p => s.recordPart doms cond p) s).up.resets.at? (s.lead p)).isSome = true := by
  induction ps with
  | nil => exact fun s => ⟨(SameSupply.refl s).sameDomains, fun p hp => absurd hp List.not_mem_nil⟩
  | cons q ps ih =>
    intro s
    obtain ⟨hfirst, hreset⟩ := s.recordPart_sameDomains doms cond q
    obtain ⟨hrest, hresets⟩ := ih (s.recordPart doms cond q)
    refine ⟨hfirst.trans hrest, fun p hp hpart => ?_⟩
    rcases List.mem_cons.1 hp with rfl | hp
    · exact hrest.resets _ (hreset hpart)
    · rw [← hfirst.lead p]
      exact hresets p hp hpart

theorem State.setAlert_err (s : State) (n : Nat) : (s.setAlert n).err = s.err := by
  unfold State.setAlert
  split <;> rfl

/-- A record takes the next SEQ (R422). -/
@[simp] theorem State.log_nextSeq (s : State) (c : Code) (part h0 h1 w2 w3 : Nat) :
    (s.log c part h0 h1 w2 w3).err.nextSeq = s.err.nextSeq + 1 := by
  unfold State.log
  cases c.alert with
  | none => rfl
  | some n => exact congrArg Err.nextSeq (State.setAlert_err _ n)

theorem State.recordPart_nextSeq (s : State) (doms : List Nat) (cond p : Nat) :
    s.err.nextSeq < (s.recordPart doms cond p).err.nextSeq := by
  unfold State.recordPart
  split
  · simp
  · exact (Nat.lt_succ_self _).trans_le ((State.log_nextSeq ..).symm.le.trans (State.partitionReset_keeps (Keeps.refl _)).seq)

theorem State.cutOff_keeps (s : State) (doms : List Nat) : Keeps s (s.cutOff doms) :=
  Keeps.fold _ _ _ (Keeps.refl s) fun _ _ h => State.domainOff_keeps h.newPwr

theorem State.recordPart_keeps {a : State} (s : State) (doms : List Nat) (cond p : Nat) (h : Keeps a s) :
    Keeps a (s.recordPart doms cond p) :=
  Keeps.iteD (fun _ => State.log_keeps h) fun _ => State.partitionEvent_keeps h

/-- A safety off of any domain leaves a record. -/
theorem State.nextSeq_lt_safetyOff (s : State) {doms : List Nat} (cond : Nat) (h : doms ≠ []) :
    s.err.nextSeq < (s.safetyOff doms cond).err.nextSeq := by
  rw [State.safetyOff_eq, State.leaveOut_eq]
  refine (s.cutOff_keeps doms).seq.trans_lt ?_
  unfold State.recordOff
  cases hp : (doms.map partOfDomain).dedup with
  | nil => exact absurd (List.map_eq_nil_iff.1 ((List.dedup_eq_nil _).1 hp)) h
  | cons p ps =>
    exact (State.recordPart_nextSeq _ doms cond p).trans_le
      (Keeps.fold _ ps _ (Keeps.refl _) fun t q ht => State.recordPart_keeps t doms cond q ht).seq

/-- Every domain of a safety off is held. -/
theorem State.heldOff_safetyOff (s : State) {doms : List Nat} (cond : Nat) {d : Nat} (h : d ∈ doms) :
    (s.safetyOff doms cond).heldOff d :=
  (State.leaveOut_sameDomains _ doms).heldOff
    ((State.foldl_recordPart_sameDomains doms cond _ _).1.heldOff (State.heldOff_cutOff (.inl h)))

/-- A partition that loses a strip or a hub to a safety off is reset (R389). -/
theorem State.resets_safetyOff (s : State) {doms : List Nat} (cond : Nat) {d : Nat} (h : d ∈ doms) (hpart : partOfDomain d ≠ 255) :
    ((s.safetyOff doms cond).up.resets.at? (s.lead (partOfDomain d))).isSome = true := by
  have hreset := (State.foldl_recordPart_sameDomains doms cond (doms.map partOfDomain).dedup (s.cutOff doms)).2
    (partOfDomain d) (List.mem_dedup.2 (List.mem_map_of_mem h)) hpart
  rw [State.lead_cutOff] at hreset
  exact (State.leaveOut_sameDomains _ doms).resets _ hreset

/-! ### A stack under a safety off (R241, R388) -/

/-- A record changes the log, ERR_LOG_HEAD and the alerts (R422, R434, R437). -/
theorem State.log_eq (s : State) (c : Code) (part h0 h1 w2 w3 : Nat) :
    s.log c part h0 h1 w2 w3 = { s with
      regs := (s.log c part h0 h1 w2 w3).regs, err := (s.log c part h0 h1 w2 w3).err
      mgmt := (s.log c part h0 h1 w2 w3).mgmt } := by
  unfold State.log
  cases c.alert with
  | none => rfl
  | some n =>
    simp only [State.setAlert]
    split <;> rfl

@[simp] theorem State.log_cloves (s : State) (c : Code) (part h0 h1 w2 w3 : Nat) :
    (s.log c part h0 h1 w2 w3).cloves = s.cloves := by rw [State.log_eq]

@[simp] theorem State.log_memStacks (s : State) (c : Code) (part h0 h1 w2 w3 : Nat) :
    (s.log c part h0 h1 w2 w3).memStacks = s.memStacks := by rw [State.log_eq]

@[simp] theorem State.log_pwr (s : State) (c : Code) (part h0 h1 w2 w3 : Nat) :
    (s.log c part h0 h1 w2 w3).pwr = s.pwr := by rw [State.log_eq]

theorem State.reg_log_ne (s : State) (c : Code) (part h0 h1 w2 w3 : Nat) {q : Reg} {b i : Nat}
    (hhead : Reg.errLogHead.addr 0 0 ≠ q.addr b i) (halert : Reg.errAlert.addr 0 0 ≠ q.addr b i) :
    (s.log c part h0 h1 w2 w3).reg q b i = s.reg q b i := by
  have hraw : (s.logRaw c.val c.cls c.persists part h0 h1 w2 w3).reg q b i = s.reg q b i :=
    State.reg_setReg_ne _ _ hhead
  unfold State.log
  cases c.alert with
  | none => exact hraw
  | some n =>
    simp only [State.setAlert]
    split
    · exact hraw
    · exact (State.reg_setReg_ne _ _ halert).trans hraw

/-- A stack that goes OFF loses its contents and its training. -/
theorem State.domainOff_stack (s : State) {k : Nat} (hk : k < 24) :
    (s.domainOff (1248 + k)).pwr = (s.setDomain (1248 + k) Domain.off).pwr ∧
    (s.domainOff (1248 + k)).cloves = s.cloves ∧ (s.domainOff (1248 + k)).memStacks = s.memStacks ∧
    (s.domainOff (1248 + k)).err = s.err ∧
    (s.domainOff (1248 + k)).flag .memStkStat 0 k 7 = s.flag .memStkStat 0 k 7 := by
  have hput : s.putDomain (1248 + k) Domain.off = s.setDomain (1248 + k) Domain.off := if_neg (by omega)
  have hlose (t : State) : t.loseDomain (1248 + k) = (t.zeroStack k).setFld .memStkStat 0 k 8 8 0 := by
    simp [State.loseDomain, show ¬ (1248 + k < 1152) by omega, show 1248 + k < 1272 by omega]
  unfold State.domainOff
  rw [hput, hlose]
  split
  · exact ⟨rfl, rfl, rfl, rfl, rfl⟩
  · exact ⟨rfl, rfl, rfl, rfl, State.flag_setFld _ .memStkStat 0 k 0 7 (by decide) (by decide)⟩

theorem Reg.addr_ne_memStkStat {q : Reg} {b i : Nat} (k : Nat) (h : q.addr b i < 0x50000 ∨ 0x50100 + 24 * 4 ≤ q.addr b i) (hk : k < 24) :
    q.addr b i ≠ Reg.memStkStat.addr 0 k := by
  simp only [Reg.addr, Reg.info] at h ⊢
  omega

/-- A safety off of a stack: the stack is held OFF, and one record names it. -/
theorem State.safetyOff_stack (s : State) {k : Nat} (hk : k < 24) (cond : Nat) :
    (s.safetyOff [1248 + k] cond).pwr = { s.pwr with
      domains := s.pwr.domains.put (1248 + k) Domain.off, safety := s.pwr.safety.put (1248 + k) none } ∧
    (s.safetyOff [1248 + k] cond).cloves = s.cloves ∧ (s.safetyOff [1248 + k] cond).memStacks = s.memStacks ∧
    (s.safetyOff [1248 + k] cond).err.nextSeq = s.err.nextSeq + 1 ∧
    (s.safetyOff [1248 + k] cond).flag .memStkStat 0 k 7 = s.flag .memStkStat 0 k 7 := by
  have hrecord (t : State) : t.recordOff [1248 + k] cond = t.log .safetyOff 255 (1248 + k) 1 0 cond := by
    have hpart : partOfDomain (1248 + k) = 255 := by simp [partOfDomain, show ¬ (1248 + k < 1152) by omega]
    simp [State.recordOff, State.recordPart, hpart]
  obtain ⟨hpwr, hcloves, hstacks, herr, hflag⟩ :=
    State.domainOff_stack { s with pwr := { s.pwr with safety := s.pwr.safety.put (1248 + k) none } } hk
  rw [State.safetyOff_eq, hrecord, State.leaveOut_eq]
  refine ⟨(State.log_pwr ..).trans hpwr, (State.log_cloves ..).trans hcloves, (State.log_memStacks ..).trans hstacks, ?_, ?_⟩
  · exact (State.log_nextSeq ..).trans (congrArg (fun e => e.nextSeq + 1) herr)
  · have hreg := State.reg_log_ne (s.cutOff [1248 + k]) .safetyOff 255 (1248 + k) 1 0 cond
      (Reg.addr_ne_memStkStat (q := .errLogHead) k (by decide) hk) (Reg.addr_ne_memStkStat (q := .errAlert) k (by decide) hk)
    exact (congrArg (fun w => w.getLsbD 7) hreg).trans hflag

end Sys2Proof.Machine
end

section
/-! SUPPORT. The limits of the power drawn and the cap taken from them (R379), throttle events (R397 to R399), and the
readings that move both (R29 to R34, R388 to R391). -/
namespace Sys2Proof

theorem SMap.at?_map {α β : Type} {f : Nat × α → Nat × β} (hf : ∀ e, (f e).1 = e.1) (m : SMap α) (i : Nat) :
    SMap.at? (m.map f) i = (m.at? i).map (fun a => (f (i, a)).2) := by
  induction m with
  | nil => rfl
  | cons e m ih =>
    have hkey : (f e).1 = e.1 := hf e
    by_cases h : e.1 = i
    · subst h
      simp [SMap.at?, hkey]
    · simp [SMap.at?, hkey, h, ih]

end Sys2Proof

namespace Sys2Proof.Machine

/-! ### The lowest limit (R379) -/

theorem lowest_eq_none {ls : List (Option Nat × Nat)} (h : lowest ls = none) : ∀ l ∈ ls, l.1 = none := by
  induction ls with
  | nil => simp
  | cons e ls ih =>
    obtain ⟨_ | w, r⟩ := e
    · simpa using ih h
    · unfold lowest at h
      split at h
      · cases h
      · split at h <;> cases h

/-- The lowest limit is one of the limits, and none of the others is lower. -/
theorem lowest_spec : ∀ {ls : List (Option Nat × Nat)} {w r : Nat}, lowest ls = some (w, r) →
    (some w, r) ∈ ls ∧ ∀ l ∈ ls, ∀ v, l.1 = some v → w ≤ v := by
  intro ls
  induction ls with
  | nil => exact fun h => nomatch h
  | cons e ls ih =>
    intro w r h
    obtain ⟨_ | x, p⟩ := e
    · obtain ⟨hmem, hle⟩ := ih h
      exact ⟨List.mem_cons_of_mem _ hmem, by simpa using hle⟩
    · unfold lowest at h
      split at h
      next hnone =>
        cases h
        exact ⟨List.mem_cons_self, fun l hl v hv => by
          rcases List.mem_cons.1 hl with rfl | hl
          · exact (Option.some.inj hv).le
          · simp [lowest_eq_none hnone l hl] at hv⟩
      next y q hsome =>
        obtain ⟨hmem, hle⟩ := ih hsome
        split at h
        next hxy =>
          cases h
          exact ⟨List.mem_cons_self, fun l hl v hv => by
            rcases List.mem_cons.1 hl with rfl | hl
            · exact (Option.some.inj hv).le
            · exact hxy.trans (hle l hl v hv)⟩
        next hxy =>
          cases h
          exact ⟨List.mem_cons_of_mem _ hmem, fun l hl v hv => by
            rcases List.mem_cons.1 hl with rfl | hl
            · cases hv; omega
            · exact hle l hl v hv⟩

theorem State.lowest_limits (s : State) : lowest s.limits = some s.effective := by
  cases h : lowest s.limits with
  | none => exact absurd (lowest_eq_none h (some s.gradeCap, 1) (by simp [State.limits])) (by simp)
  | some e => rw [State.effective, h]; rfl

/-- What the limits of Table 14.3 are taken from stands from s to t. -/
structure SameLimits (s t : State) : Prop where
  mv : t.pwr.mv = s.pwr.mv
  oneClamp : t.pwr.oneClamp = s.pwr.oneClamp
  inlet : t.pwr.inlet = s.pwr.inlet
  flow : t.pwr.flow = s.pwr.flow
  flow40 : t.pwr.flow40 = s.pwr.flow40
  floorOn : t.pwr.floorOn = s.pwr.floorOn
  grade : t.flag .pwrStat 0 0 12 = s.flag .pwrStat 0 0 12
  regs : ∀ q ∈ ([.pwrCap, .pwrFloor, .pwrAllot] : List Reg), t.reg q 0 0 = s.reg q 0 0

theorem SameLimits.effective {s t : State} (h : SameLimits s t) : t.effective = s.effective := by
  have hext : t.extended = s.extended := h.grade
  have hthermal : t.thermalLimit = s.thermalLimit := by
    rw [State.thermalLimit, h.inlet, h.flow, h.flow40, hext]; rfl
  have hclamp : t.clampLimit = s.clampLimit := by
    rw [State.clampLimit, h.mv, h.oneClamp]; rfl
  have hgrade : t.gradeCap = s.gradeCap := by rw [State.gradeCap, hext]; rfl
  have hconfig : t.configCap = s.configCap := by
    rw [State.configCap, hgrade, State.fld, h.regs .pwrCap (by simp)]; rfl
  have hrack : t.rackLimit = s.rackLimit := by
    rw [State.rackLimit, h.floorOn, State.fld, State.fld, h.regs .pwrFloor (by simp), h.regs .pwrAllot (by simp)]; rfl
  rw [State.effective, State.limits, hthermal, hclamp, hgrade, hconfig, hrack]; rfl

/-- The cap just taken is the lowest limit. -/
theorem State.recap_cap (s : State) : s.recap.pwr.cap = s.recap.effective.1 := rfl

@[simp] theorem State.recap_mv (s : State) : s.recap.pwr.mv = s.pwr.mv := rfl
@[simp] theorem State.recap_warn (s : State) : s.recap.pwr.warn = s.pwr.warn := rfl
@[simp] theorem State.recap_records (s : State) : s.recap.pwr.records = s.pwr.records := rfl
@[simp] theorem State.recap_flag (s : State) (r : Reg) (b i n : Nat) : s.recap.flag r b i n = s.flag r b i n := rfl

/-! ### Throttle events (R397 to R399) -/

theorem State.flag_eq_fld (s : State) (r : Reg) (b i n : Nat) : s.flag r b i n = decide (s.fld r b i n n = 1) := by
  simp [State.flag, State.fld, regField, bitField, BitVec.getLsbD, Nat.testBit, Nat.one_and_eq_mod_two]

theorem State.sinceReady_congr {s t : State} (hup : t.up = s.up) (hready : t.ready = s.ready) : t.sinceReady = s.sinceReady := by
  rw [State.sinceReady, hup, hready]; rfl

/-- From s to t an event opens or closes: its record, the bits of PWR_STAT that show it, and the count of PWR_BWARN. -/
structure EventOnly (s t : State) : Prop where
  frame : t = { s with regs := t.regs, pwr := { s.pwr with records := t.pwr.records, evtCount := t.pwr.evtCount } }
  reg : ∀ {q : Reg} {b i : Nat}, Reg.pwrStat.addr 0 0 ≠ q.addr b i → Reg.pwrBwarn.addr 0 0 ≠ q.addr b i →
    t.reg q b i = s.reg q b i
  stat : ∀ {hi lo : Nat}, lo ≤ hi → hi < 4 ∨ 10 < lo → t.fld .pwrStat 0 0 hi lo = s.fld .pwrStat 0 0 hi lo

namespace EventOnly
variable {s t : State}

theorem refl (s : State) : EventOnly s s := ⟨rfl, fun _ _ => rfl, fun _ _ => rfl⟩

theorem pwr (h : EventOnly s t) : ∃ rs n, t.pwr = { s.pwr with records := rs, evtCount := n } :=
  ⟨_, _, congrArg (fun u => u.pwr) h.frame⟩

theorem flag (h : EventOnly s t) {n : Nat} (hn : n < 4 ∨ 10 < n) : t.flag .pwrStat 0 0 n = s.flag .pwrStat 0 0 n := by
  rw [State.flag_eq_fld, State.flag_eq_fld, h.stat (Nat.le_refl n) hn]

theorem err (h : EventOnly s t) : t.err = s.err := by rw [h.frame]
theorem up (h : EventOnly s t) : t.up = s.up := by rw [h.frame]
theorem cloves (h : EventOnly s t) : t.cloves = s.cloves := by rw [h.frame]
theorem hbm (h : EventOnly s t) : t.hbm = s.hbm := by rw [h.frame]

theorem field (h : EventOnly s t) (f : Nat) : t.field f = s.field f := by rw [h.frame]; rfl
theorem stack (h : EventOnly s t) (k : Nat) : t.stack k = s.stack k := by rw [h.frame]; rfl

theorem sameLimits (h : EventOnly s t) : SameLimits s t := by
  obtain ⟨rs, n, hp⟩ := h.pwr
  refine ⟨by rw [hp], by rw [hp], by rw [hp], by rw [hp], by rw [hp], by rw [hp], h.flag (by decide), fun q hq => h.reg ?_ ?_⟩
  all_goals revert q; decide

/-- PWR_STAT.ACTIVE is shown last. -/
theorem showActive {u : State} (hframe : u = { s with regs := u.regs, pwr := { s.pwr with records := u.pwr.records, evtCount := u.pwr.evtCount } })
    (hreg : ∀ {q : Reg} {b i : Nat}, Reg.pwrBwarn.addr 0 0 ≠ q.addr b i → u.reg q b i = s.reg q b i) : EventOnly s u.showActive := by
  refine ⟨?_, fun hstat hwarn => (State.reg_setReg_ne _ _ hstat).trans (hreg hwarn), fun hle hapart => ?_⟩
  · rw [hframe]; rfl
  · refine (State.fld_setFld_apart u .pwrStat 0 0 _ (by decide) (by decide) hle hapart).trans ?_
    rw [State.fld, hreg (by decide), State.fld]

end EventOnly

theorem State.openEvent_eventOnly (s : State) (reason scope : Nat) : EventOnly s (s.openEvent reason scope) := by
  unfold State.openEvent
  split
  · exact .refl s
  · refine .showActive ?_ fun hwarn => ?_
    · split <;> rfl
    · split
      · exact State.reg_setReg_ne _ _ hwarn
      · rfl

theorem State.closeEvent_eventOnly (s : State) (reason scope depth : Nat) : EventOnly s (s.closeEvent reason scope depth) := by
  unfold State.closeEvent
  split
  · exact .refl s
  · refine .showActive ?_ fun hwarn => ?_
    · split <;> rfl
    · split
      · exact State.reg_setReg_ne _ _ hwarn
      · rfl

@[simp] theorem State.recap_openRec (s : State) (reason scope : Nat) : s.recap.openRec reason scope = s.openRec reason scope := rfl

/-- An event that has been opened is open. -/
theorem State.openRec_openEvent (s : State) (reason scope : Nat) :
    ((s.openEvent reason scope).openRec reason scope).isSome = true := by
  unfold State.openEvent
  split
  · assumption
  · have hnew (t : State) (ht : t.pwr.records = s.pwr.records ++ [⟨s.pwr.evtCount, s.sinceReady, none, reason, scope, 0⟩]) :
        (t.showActive.openRec reason scope).isSome = true := by
      simp [State.openRec, State.showActive, State.setFld, State.setReg, ht, List.find?_append]
    apply hnew
    split <;> rfl

/-- An event that closes has its length and its depth in its record (R399). -/
theorem State.mem_closeEvent (s : State) {reason scope : Nat} (depth : Nat) {r : ThrottleRec} (h : s.openRec reason scope = some r) :
    { r with dur := some ((s.sinceReady - r.start) / 1000 % 2 ^ 32), depth := depth % 256 } ∈
      (s.closeEvent reason scope depth).pwr.records := by
  have hmem : r ∈ s.pwr.records := List.mem_of_find?_eq_some h
  unfold State.closeEvent
  rw [h]
  have hmap := List.mem_map_of_mem (f := fun q => if q = r then { q with
    dur := some ((s.sinceReady - r.start) / 1000 % 2 ^ 32), depth := depth % 256 } else q) hmem
  rw [if_pos rfl] at hmap
  dsimp only
  split <;> exact hmap

/-! ### Readings of the supply (R29 to R33) -/

/-- A reading of the busbar changes its voltage, and may power the always-on domains. -/
theorem State.setBusbar_eq (s : State) (mv : Nat) :
    s.setBusbar mv = { s with pwr := { s.pwr with mv := mv, domains := (s.setBusbar mv).pwr.domains } } := by
  unfold State.setBusbar
  split <;> rfl

@[simp] theorem State.setBusbar_regs (s : State) (mv : Nat) : (s.setBusbar mv).regs = s.regs := by rw [State.setBusbar_eq]
@[simp] theorem State.setBusbar_err (s : State) (mv : Nat) : (s.setBusbar mv).err = s.err := by rw [State.setBusbar_eq]
@[simp] theorem State.setBusbar_up (s : State) (mv : Nat) : (s.setBusbar mv).up = s.up := by rw [State.setBusbar_eq]

theorem State.setBusbar_pwr (s : State) (mv : Nat) : ∃ ds, (s.setBusbar mv).pwr = { s.pwr with mv := mv, domains := ds } :=
  ⟨_, congrArg (fun t => t.pwr) (s.setBusbar_eq mv)⟩

/-- One clamp reads as open (R33). -/
def clampOpen (i1 i2 : Nat) : Bool := (decide (i1 < 100) && decide (1000 < i2)) || (decide (i2 < 100) && decide (1000 < i1))

theorem clampOpen_iff (i1 i2 : Nat) : clampOpen i1 i2 = true ↔ i1 < 100 ∧ 1000 < i2 ∨ i2 < 100 ∧ 1000 < i1 := by
  simp [clampOpen]

/-- The readings of the clamps, nothing logged. -/
def State.readClamps (s : State) (i1 i2 : Nat) : State :=
  { s with pwr := { s.pwr with i1 := i1, i2 := i2, oneClamp := clampOpen i1 i2 } }

/-- An open clamp is logged when it is first seen (R33). -/
theorem State.setClamps_eq (s : State) (i1 i2 : Nat) :
    s.setClamps i1 i2 = if clampOpen i1 i2 && !s.pwr.oneClamp then
      (s.readClamps i1 i2).log .openClamp 255 (if i1 < i2 then 1 else 2) 0 0 0 else s.readClamps i1 i2 := rfl

theorem State.setClamps_pwr (s : State) (i1 i2 : Nat) : (s.setClamps i1 i2).pwr = (s.readClamps i1 i2).pwr := by
  rw [State.setClamps_eq]
  split
  · exact State.log_pwr ..
  · rfl

theorem State.setClamps_nextSeq (s : State) (i1 i2 : Nat) :
    (s.setClamps i1 i2).err.nextSeq = s.err.nextSeq + (if clampOpen i1 i2 = true ∧ s.pwr.oneClamp = false then 1 else 0) := by
  have hfirst : (clampOpen i1 i2 && !s.pwr.oneClamp) = true ↔ clampOpen i1 i2 = true ∧ s.pwr.oneClamp = false := by simp
  rw [State.setClamps_eq, ← if_congr hfirst rfl rfl]
  split
  · exact State.log_nextSeq ..
  · rfl

/-! ### Safety offs whose condition has cleared (R389) -/

theorem State.safetyClear_at? (s : State) {doms : List Nat} {d : Nat} (hd : d ∈ doms) (h : s.pwr.safety.at? d = some none) :
    (s.safetyClear doms).pwr.safety.at? d = some (some s.up.time) := by
  have hkey : ∀ e : Nat × Option Nat, (if doms.contains e.1 && e.2.isNone then (e.1, some s.up.time) else e).1 = e.1 := by
    intro e; split <;> rfl
  have hmap := SMap.at?_map hkey s.pwr.safety d
  rw [h] at hmap
  refine hmap.trans ?_
  simp [hd]

theorem State.clearStrips_at? (s : State) {fs : List Nat} {d : Nat} (hf : d / 12 ∈ fs) (hsafe : s.stripUnsafe d = false)
    (h : s.pwr.safety.at? d = some none) : (s.clearStrips fs).pwr.safety.at? d = some (some s.up.time) := by
  refine s.safetyClear_at? (List.mem_filter.2 ⟨List.mem_flatMap.2 ⟨d / 12, hf, ?_⟩, by simp [hsafe]⟩) h
  exact List.mem_map.2 ⟨d % 12, List.mem_range.2 (Nat.mod_lt _ (by decide)), by omega⟩

/-! ### The commands of the supply (R32 to R34, R379, R380, R391) -/

/-- Below 46.0 V the warning holds and its event is open (R391). -/
theorem execBusbarBrownoutWarn_opens (s : State) {mv : Nat} (h : mv < 46000) :
    ∃ t, execBusbarBrownoutWarn mv s = .next t ∧ t.pwr.cap = t.effective.1 ∧ t.pwr.mv = mv ∧
      t.pwr.warn = true ∧ t.flag .pwrStat 0 0 11 = true ∧ (t.openRec 4 255).isSome = true := by
  obtain ⟨ds, hpwr⟩ := s.setBusbar_pwr mv
  let u : State := { s.setBusbar mv with pwr := { (s.setBusbar mv).pwr with warn := true } }
  have hopen := (u.setFld .pwrStat 0 0 11 11 1).openEvent_eventOnly 4 255
  obtain ⟨rs, n, hevent⟩ := hopen.pwr
  refine ⟨_, congrArg Host.Outcome.next (if_neg (by omega)), State.recap_cap _, ?_, ?_, ?_, ?_⟩
  · rw [State.recap_mv, hevent]; exact congrArg (fun p => p.mv) hpwr
  · rw [State.recap_warn, hevent]; rfl
  · rw [State.recap_flag, hopen.flag (by decide)]
    exact State.flag_setFld u .pwrStat 0 0 1 11 (by decide) (by decide)
  · rw [State.recap_openRec, State.openRec_openEvent]

/-- From 47.0 V on a warning that held ends, and its record is complete (R391). -/
theorem execBusbarWarnClear_closes (s : State) {mv : Nat} (h : 47000 ≤ mv) (hwarn : s.pwr.warn = true) :
    ∃ t, execBusbarWarnClear mv s = .next t ∧ t.pwr.cap = t.effective.1 ∧
      t.pwr.mv = mv ∧ t.pwr.warn = false ∧ t.flag .pwrStat 0 0 11 = false ∧ ∀ r, s.openRec 4 255 = some r →
        { r with dur := some ((s.sinceReady - r.start) / 1000 % 2 ^ 32), depth := 0 } ∈ t.pwr.records := by
  obtain ⟨ds, hpwr⟩ := s.setBusbar_pwr mv
  let u : State := { s.setBusbar mv with pwr := { (s.setBusbar mv).pwr with warn := false } }
  have hclose := (u.setFld .pwrStat 0 0 11 11 0).closeEvent_eventOnly 4 255 0
  obtain ⟨rs, n, hevent⟩ := hclose.pwr
  have hstay : ¬ (decide (mv < 47000) || !(s.setBusbar mv).pwr.warn) = true := by
    simp [hpwr, hwarn]; omega
  refine ⟨_, congrArg Host.Outcome.next (if_neg hstay), State.recap_cap _, ?_, ?_, ?_, fun r hr => ?_⟩
  · rw [State.recap_mv, hevent]; exact congrArg (fun p => p.mv) hpwr
  · rw [State.recap_warn, hevent]; rfl
  · rw [State.recap_flag, hclose.flag (by decide)]
    exact State.flag_setFld u .pwrStat 0 0 0 11 (by decide) (by decide)
  · have hrecords : (u.setFld .pwrStat 0 0 11 11 0).openRec 4 255 = s.openRec 4 255 := by
      simp [u, State.openRec, State.setFld, State.setReg, hpwr]
    have hready : (u.setFld .pwrStat 0 0 11 11 0).ready = s.ready := by
      rw [State.ready, State.flag_setFld_ne _ _ _ _ _ (by decide)]
      simp [u, State.ready, State.flag, State.reg]
    have htime := State.sinceReady_congr (t := u.setFld .pwrStat 0 0 11 11 0) (s.setBusbar_up mv) hready
    rw [← htime, State.recap_records]
    exact State.mem_closeEvent _ 0 (hrecords.trans hr)

/-- What a reading of the clamps gives, the busbar's with it or not. -/
def ClampsRead (s t : State) (i1 i2 : Nat) : Prop :=
  t.pwr.i1 = i1 ∧ t.pwr.i2 = i2 ∧ (t.pwr.oneClamp = true ↔ i1 < 100 ∧ 1000 < i2 ∨ i2 < 100 ∧ 1000 < i1) ∧
    t.err.nextSeq = s.err.nextSeq + (if t.pwr.oneClamp = true ∧ s.pwr.oneClamp = false then 1 else 0)

theorem State.clampsRead_recap (s : State) (i1 i2 : Nat) : ClampsRead s (s.setClamps i1 i2).recap i1 i2 := by
  have hpwr : (s.setClamps i1 i2).recap.pwr = { (s.readClamps i1 i2).pwr with
      cap := (s.setClamps i1 i2).recap.pwr.cap, now := (s.setClamps i1 i2).recap.pwr.now } := by
    rw [← State.setClamps_pwr]; rfl
  have hseq : (s.setClamps i1 i2).recap.err.nextSeq = _ := s.setClamps_nextSeq i1 i2
  unfold ClampsRead
  rw [hseq, hpwr]
  exact ⟨rfl, rfl, clampOpen_iff i1 i2, rfl⟩

/-- What is granted held at w W by the clamps, with the event that says so (R32, R379). -/
def State.holdClamp (s : State) (w : Nat) : State :=
  (({ s with pwr := { s.pwr with clampLimit := true, now := Min.min s.pwr.now w } } : State).setFld .pwrStat 0 0 3 0 1).openEvent 1 255

theorem State.holdClamp_eventOnly (s : State) (w : Nat) :
    EventOnly (({ s with pwr := { s.pwr with clampLimit := true, now := Min.min s.pwr.now w } } : State).setFld .pwrStat 0 0 3 0 1)
      (s.holdClamp w) := State.openEvent_eventOnly ..

theorem State.holdClamp_pwr (s : State) (w : Nat) : ∃ rs n, (s.holdClamp w).pwr = { s.pwr with
    clampLimit := true, now := Min.min s.pwr.now w, records := rs, evtCount := n } :=
  (s.holdClamp_eventOnly w).pwr

theorem State.holdClamp_err (s : State) (w : Nat) : (s.holdClamp w).err = s.err := (s.holdClamp_eventOnly w).err

theorem State.holdClamp_effective (s : State) (w : Nat) : (s.holdClamp w).effective = s.effective := by
  refine (s.holdClamp_eventOnly w).sameLimits.effective.trans (SameLimits.effective ⟨rfl, rfl, rfl, rfl, rfl, rfl, ?_, ?_⟩)
  · exact State.flag_setFld _ .pwrStat 0 0 1 12 (by decide) (by decide)
  · exact fun q hq => State.reg_setReg_ne _ _ (by revert q; decide)

theorem State.holdClamp_limiter (s : State) (w : Nat) : (s.holdClamp w).fld .pwrStat 0 0 3 0 = 1 :=
  ((s.holdClamp_eventOnly w).stat (by decide) (by decide)).trans
    (State.fld_setFld_self _ .pwrStat 0 0 1 (by decide) (by decide))

theorem State.holdClamp_openRec (s : State) (w : Nat) : ((s.holdClamp w).openRec 1 255).isSome = true :=
  State.openRec_openEvent ..

/-- A clamp at 350 A holds what is granted at once (R32, R379). -/
theorem execClampLimit_holds (s : State) (mv i1 i2 : Nat) :
    ∃ t, execClampLimit mv i1 i2 s = .next t ∧ t.pwr.cap = t.effective.1 ∧ t.pwr.mv = mv ∧ ClampsRead s t i1 i2 ∧
      (3500 ≤ i1 ∨ 3500 ≤ i2 → t.pwr.clampLimit = true ∧ t.pwr.now ≤ mv * (i1 + i2) / 10000 ∧ t.fld .pwrStat 0 0 3 0 = 1 ∧
        (t.openRec 1 255).isSome = true) := by
  obtain ⟨ds, hbus⟩ := s.setBusbar_pwr mv
  have hmv : ((s.setBusbar mv).setClamps i1 i2).recap.pwr.mv = mv := by
    rw [State.recap_mv, State.setClamps_pwr, State.readClamps, hbus]
  have hread : ClampsRead s ((s.setBusbar mv).setClamps i1 i2).recap i1 i2 := by
    have h := (s.setBusbar mv).clampsRead_recap i1 i2
    rwa [ClampsRead, State.setBusbar_err, hbus] at h
  have hcap := State.recap_cap ((s.setBusbar mv).setClamps i1 i2)
  unfold execClampLimit
  extract_lets u w
  change u.pwr.mv = mv at hmv
  change ClampsRead s u i1 i2 at hread
  change u.pwr.cap = u.effective.1 at hcap
  clear_value u
  by_cases hlow : (decide (i1 < 3500) && decide (i2 < 3500)) = true
  · refine ⟨u, congrArg Host.Outcome.next (if_pos hlow), hcap, hmv, hread, fun hhigh => ?_⟩
    simp at hlow
    omega
  · obtain ⟨rs, n, hpwr⟩ := u.holdClamp_pwr w
    refine ⟨u.holdClamp w, congrArg Host.Outcome.next (if_neg hlow), ?_⟩
    rw [ClampsRead, hpwr, u.holdClamp_err, u.holdClamp_effective]
    exact ⟨hcap, hmv, hread, fun _ => ⟨rfl, Nat.min_le_right .., u.holdClamp_limiter w, u.holdClamp_openRec w⟩⟩

/-- A coolant reading is kept, the cap is taken anew, and strips that nothing else keeps off may come back after 1 s
(R34, R388, R389). -/
theorem execCoolantSensorUpdate_reads (s : State) (inlet outlet : Int) (flow : Nat) :
    ∃ t, execCoolantSensorUpdate inlet outlet flow s = .next t ∧ t.pwr.cap = t.effective.1 ∧
      t.pwr.inlet = inlet ∧ t.pwr.outlet = outlet ∧ t.pwr.flow = flow ∧ t.pwr.flow40 = (s.pwr.flow40 && decide (400 ≤ flow)) ∧
      t = { s with pwr := t.pwr } ∧
      ∀ d, d < 1152 → s.pwr.safety.at? d = some none → 100 ≤ flow → (∀ e ∈ (s.field (d / 12)).temps, e.2 < 1680) →
        t.pwr.safety.at? d = some (some s.up.time) := by
  refine ⟨_, rfl, rfl, rfl, rfl, rfl, rfl, rfl, fun d hd hoff hflow htemps => ?_⟩
  refine State.clearStrips_at? _ (List.mem_range.2 (by omega)) ?_ hoff
  have hslow : ¬ flow < 100 := by omega
  have hcool : (s.field (d / 12)).temps.any (fun e => decide (1680 ≤ e.2)) = false := by
    simpa using htemps
  exact Bool.or_eq_false_iff.2 ⟨decide_eq_false hslow, hcool⟩

/-- The rack's lease runs out: FLOOR limits (R380). -/
theorem execLeaseExpiry_floor (s : State) (h : s.pwr.leased = true) :
    ∃ t, execLeaseExpiry s = .next t ∧ t.pwr.cap = t.effective.1 ∧ t.pwr.leased = false ∧
      t.pwr.floorOn = true ∧ t.fld .pwrAllot 0 0 31 16 = 0 ∧ t.rackLimit = some (s.fld .pwrFloor 0 0 15 0) := by
  refine ⟨_, congrArg Host.Outcome.next (if_neg (by simp [h])), rfl, rfl, rfl, ?_, ?_⟩
  · exact State.fld_setFld_self _ .pwrAllot 0 0 0 (by decide) (by decide)
  · exact congrArg some (State.fld_setFld_ne _ 31 16 0 15 0 (by decide))

end Sys2Proof.Machine
end

section
/-! SUPPORT. What the temperature sensors do (R35, R241, R387, R388): a field's setpoint, its hot strips, and the stacks. -/
namespace Sys2Proof.Machine

/-! ### A field's setpoint (R384, R387) -/

theorem State.setRate_eq (s : State) (f rate : Nat) :
    s.setRate f rate = { s with regs := (s.setRate f rate).regs, fields := (s.setRate f rate).fields } := by
  unfold State.setRate
  dsimp only
  split <;> rfl

/-- A new setpoint leaves what is known of the field's strips. -/
theorem State.setRate_field (s : State) (f rate : Nat) : ∃ w, (s.setRate f rate).field f = { s.field f with slewFrom := w } := by
  unfold State.setRate
  dsimp only
  split
  · exact ⟨_, rfl⟩
  · exact ⟨_, State.field_modField_self ..⟩

theorem State.setRate_rate (s : State) (f rate : Nat) : (s.setRate f rate).fld .fldPwrAge f 0 19 8 = rate % 4096 := by
  have hrail : Reg.fldPwrRail.addr f 0 ≠ Reg.fldPwrAge.addr f 0 :=
    Reg.addr_ne_of_place f f (by decide) (by decide) (by decide)
  have hset (v : Nat) : ((s.setFld .fldPwrAge f 0 19 8 rate).setFld .fldPwrRail f 0 19 10 v).fld .fldPwrAge f 0 19 8 = rate % 4096 :=
    (State.fld_setFld_ne _ 19 10 v 19 8 hrail).trans (State.fld_setFld_self s .fldPwrAge f 0 rate (by decide) (by decide))
  unfold State.setRate
  dsimp only
  split
  · exact hset _
  · exact hset _

theorem State.lowerRate_eq (s : State) (f : Nat) :
    s.lowerRate f = { s with regs := (s.lowerRate f).regs, fields := (s.lowerRate f).fields, draws := (s.lowerRate f).draws } := by
  unfold State.lowerRate
  dsimp only
  split
  · rfl
  · rw [State.setRate_eq]; rfl

theorem State.lowerRate_field (s : State) (f : Nat) : ∃ w, (s.lowerRate f).field f = { s.field f with slewFrom := w } := by
  unfold State.lowerRate
  dsimp only
  split
  · exact ⟨_, rfl⟩
  · exact State.setRate_field _ f _

theorem State.drawBelow_lt (s : State) {n : Nat} (h : 0 < n) : (s.drawBelow n).1 < n := by
  have hmax : max n 1 = n := Nat.max_eq_left h
  rw [State.drawBelow, hmax]
  exact Nat.mod_lt _ h

/-- The setpoint falls, and not below its lowest; at its lowest it stands (R387). -/
theorem State.lowerRate_rate (s : State) (f : Nat) :
    (s.floorRate f < s.fld .fldPwrAge f 0 19 8 →
      s.floorRate f ≤ (s.lowerRate f).fld .fldPwrAge f 0 19 8 ∧
        (s.lowerRate f).fld .fldPwrAge f 0 19 8 < s.fld .fldPwrAge f 0 19 8) ∧
    (s.fld .fldPwrAge f 0 19 8 ≤ s.floorRate f → s.lowerRate f = s) := by
  refine ⟨fun habove => ?_, fun hlowest => if_pos hlowest⟩
  have hdraw := s.drawBelow_lt (Nat.sub_pos_of_lt habove)
  have hwide : s.fld .fldPwrAge f 0 19 8 < 4096 := bitField_lt _ _ _
  have hrate : (s.lowerRate f).fld .fldPwrAge f 0 19 8 =
      (s.floorRate f + (s.drawBelow (s.fld .fldPwrAge f 0 19 8 - s.floorRate f)).1) % 4096 := by
    unfold State.lowerRate
    dsimp only
    rw [if_neg (by omega)]
    exact State.setRate_rate ..
  omega

/-! ### Hot strips (R388) -/

/-- A strip's temperature read and shown. -/
def State.readStrip (s : State) (f strip : Nat) (temp : Int) : State :=
  (s.modField f (fun v => { v with temps := v.temps.put strip temp })).showTemps f

/-- A strip joins the field's hot ones at 95 °C and leaves them at 92 °C (R388). -/
def State.markHot (s : State) (f strip : Nat) (temp : Int) : State :=
  let others := (s.field f).hot.filter (· ≠ strip)
  if 1520 ≤ temp then (s.modField f (fun v => { v with hot := others ++ [strip] })).openEvent 2 f
  else if temp ≤ 1472 then s.modField f (fun v => { v with hot := others }) else s

/-- A field with a hot strip lowers its setpoint (R388). -/
def State.slowHot (s : State) (f : Nat) : State := if (s.field f).hot.isEmpty then s else s.lowerRate f

theorem execStripTempUpdate_eq (f strip : Nat) (temp : Int) (s : State) :
    execStripTempUpdate f strip temp s = .next (if 1680 ≤ temp then
      (((s.readStrip f strip temp).markHot f strip temp).slowHot f).safetyOff ((List.range 12).map (fun i => f * 12 + i)) 0
    else (((s.readStrip f strip temp).markHot f strip temp).slowHot f).clearStrips [f]) := rfl

theorem State.readStrip_field (s : State) (f strip : Nat) (temp : Int) :
    (s.readStrip f strip temp).field f = { s.field f with temps := (s.field f).temps.put strip temp } :=
  State.field_modField_self s f fun v => { v with temps := v.temps.put strip temp }

theorem State.readStrip_age (s : State) (f strip : Nat) (temp : Int) :
    (s.readStrip f strip temp).reg .fldPwrAge f 0 = s.reg .fldPwrAge f 0 := by
  have htemp : Reg.fldPwrTemp.addr f 0 ≠ Reg.fldPwrAge.addr f 0 :=
    Reg.addr_ne_of_place f f (by decide) (by decide) (by decide)
  exact (State.reg_setReg_ne _ _ htemp).trans (State.reg_setReg_ne _ _ htemp)

theorem State.markHot_temps (s : State) (f strip : Nat) (temp : Int) :
    ((s.markHot f strip temp).field f).temps = (s.field f).temps := by
  unfold State.markHot
  dsimp only
  split
  · rw [(State.openEvent_eventOnly ..).field, State.field_modField_self]
  · split
    · rw [State.field_modField_self]
    · rfl

theorem State.mem_hot_markHot (s : State) (f strip : Nat) (temp : Int) (i : Nat) :
    i ∈ ((s.markHot f strip temp).field f).hot ↔
      if i = strip ∧ (1520 ≤ temp ∨ temp ≤ 1472) then 1520 ≤ temp else i ∈ (s.field f).hot := by
  unfold State.markHot
  dsimp only
  by_cases hhot : 1520 ≤ temp
  · rw [if_pos hhot, (State.openEvent_eventOnly ..).field, State.field_modField_self]
    by_cases hi : i = strip <;> simp [hi, hhot]
  · by_cases hcool : temp ≤ 1472
    · rw [if_neg hhot, if_pos hcool, State.field_modField_self]
      by_cases hi : i = strip <;> simp [hi, hhot, hcool]
    · rw [if_neg hhot, if_neg hcool]
      simp [hhot, hcool]

theorem State.markHot_openRec (s : State) (f strip : Nat) {temp : Int} (h : 1520 ≤ temp) :
    ((s.markHot f strip temp).openRec 2 f).isSome = true := by
  rw [State.markHot, if_pos h]
  exact State.openRec_openEvent ..

theorem State.markHot_frame (s : State) (f strip : Nat) (temp : Int) :
    (s.markHot f strip temp).cloves = s.cloves ∧ (s.markHot f strip temp).err = s.err ∧
      (s.markHot f strip temp).reg .fldPwrAge f 0 = s.reg .fldPwrAge f 0 := by
  have hfar (q : Reg) (hq : q.addr 0 0 < 0x80000) : q.addr 0 0 ≠ Reg.fldPwrAge.addr f 0 := by
    have hage : 0x80000 ≤ Reg.fldPwrAge.addr f 0 := by simp only [Reg.addr, Reg.info]; omega
    omega
  unfold State.markHot
  dsimp only
  split
  · have hopen := (s.modField f (fun v => { v with hot := (s.field f).hot.filter (· ≠ strip) ++ [strip] })).openEvent_eventOnly 2 f
    exact ⟨hopen.cloves, hopen.err, hopen.reg (hfar .pwrStat (by decide)) (hfar .pwrBwarn (by decide))⟩
  · split <;> exact ⟨rfl, rfl, rfl⟩

theorem State.slowHot_frame (s : State) (f : Nat) :
    (s.slowHot f).cloves = s.cloves ∧ (s.slowHot f).err = s.err ∧ (s.slowHot f).pwr = s.pwr ∧
      ((s.slowHot f).field f).temps = (s.field f).temps ∧ ((s.slowHot f).field f).hot = (s.field f).hot := by
  unfold State.slowHot
  split
  · exact ⟨rfl, rfl, rfl, rfl, rfl⟩
  · obtain ⟨w, hfield⟩ := s.lowerRate_field f
    rw [hfield, State.lowerRate_eq]
    exact ⟨rfl, rfl, rfl, rfl, rfl⟩

/-- A reading of a strip's temperature, up to the safety off (R388). -/
theorem execStripTempUpdate_reads (s : State) (f strip : Nat) (temp : Int) :
    ∃ u : State, u.cloves = s.cloves ∧ u.err = s.err ∧ (u.field f).temps.at? strip = some temp ∧
      (∀ i, i ∈ (u.field f).hot ↔ if i = strip ∧ (1520 ≤ temp ∨ temp ≤ 1472) then 1520 ≤ temp else i ∈ (s.field f).hot) ∧
      (1520 ≤ temp → (u.openRec 2 f).isSome = true) ∧
      ((u.field f).hot ≠ [] →
        (s.floorRate f < s.fld .fldPwrAge f 0 19 8 →
          s.floorRate f ≤ u.fld .fldPwrAge f 0 19 8 ∧ u.fld .fldPwrAge f 0 19 8 < s.fld .fldPwrAge f 0 19 8) ∧
        (s.fld .fldPwrAge f 0 19 8 ≤ s.floorRate f → u.fld .fldPwrAge f 0 19 8 = s.fld .fldPwrAge f 0 19 8)) ∧
      ((u.field f).hot = [] → u.fld .fldPwrAge f 0 19 8 = s.fld .fldPwrAge f 0 19 8) ∧
      (temp < 1680 → execStripTempUpdate f strip temp s = .next (u.clearStrips [f])) ∧
      (1680 ≤ temp → execStripTempUpdate f strip temp s =
        .next (u.safetyOff ((List.range 12).map (fun i => f * 12 + i)) 0)) := by
  obtain ⟨hcloves, herr, hage⟩ := (s.readStrip f strip temp).markHot_frame f strip temp
  have htemps := (s.readStrip f strip temp).markHot_temps f strip temp
  have hhot := (s.readStrip f strip temp).mem_hot_markHot f strip temp
  have hevent := (s.readStrip f strip temp).markHot_openRec f strip (temp := temp)
  change _ = s.cloves at hcloves
  change _ = s.err at herr
  rw [s.readStrip_age] at hage
  rw [s.readStrip_field] at htemps hhot
  rw [execStripTempUpdate_eq]
  generalize (s.readStrip f strip temp).markHot f strip temp = m at *
  have hrate : m.fld .fldPwrAge f 0 19 8 = s.fld .fldPwrAge f 0 19 8 := congrArg (fun w => regField w 19 8) hage
  have hfloor : m.floorRate f = s.floorRate f := congrArg (fun w => Config.rateAt f (regField w 7 0) 560) hage
  obtain ⟨hcloves', herr', hpwr', htemps', hhot'⟩ := m.slowHot_frame f
  refine ⟨m.slowHot f, hcloves'.trans hcloves, herr'.trans herr, ?_, ?_, ?_, fun hne => ?_, fun hnone => ?_, fun h => ?_, fun h => ?_⟩
  · rw [htemps', htemps]; exact SMap.at?_put_self ..
  · rw [hhot']; exact hhot
  · rw [State.openRec, hpwr']; exact hevent
  · rw [hhot'] at hne
    have hslow : m.slowHot f = m.lowerRate f := if_neg (by simpa using hne)
    obtain ⟨habove, hlowest⟩ := m.lowerRate_rate f
    rw [hrate, hfloor] at habove hlowest
    exact ⟨by rw [hslow]; exact habove, fun h => by rw [hslow, hlowest h, hrate]⟩
  · rw [hhot'] at hnone
    rw [State.slowHot, if_pos (by simp [hnone]), hrate]
  · rw [if_neg (by omega)]
  · rw [if_pos h]

/-! ### Stacks (R241, R388) -/

/-- A stack's temperature read, with its throttling and HOT. -/
def State.readStack (s : State) (k : Nat) (temp : Int) : State :=
  (s.modStack k (fun v => { v with
    temp := temp, throttled := decide (1520 < temp) || (v.throttled && decide (1440 < temp)) })).setFld .memStkStat 0 k 7 7 (b2n (decide (1360 < temp)))

/-- A throttled stack opens the module's thermal event (R388, R397). -/
def State.throttleEvent (s : State) (k : Nat) : State := if (s.stack k).throttled then s.openEvent 2 255 else s

theorem execHbmTempUpdate_eq (k : Nat) (temp : Int) (s : State) :
    execHbmTempUpdate k temp s = .next (if 1680 ≤ temp then ((s.readStack k temp).throttleEvent k).safetyOff [1248 + k] 1
      else ((s.readStack k temp).throttleEvent k).safetyClear [1248 + k]) := rfl

theorem State.readStack_stack (s : State) (k : Nat) (temp : Int) :
    (s.readStack k temp).stack k = { s.stack k with
      temp := temp, throttled := decide (1520 < temp) || ((s.stack k).throttled && decide (1440 < temp)) } :=
  State.stack_modStack_self s k fun v => { v with
    temp := temp, throttled := decide (1520 < temp) || (v.throttled && decide (1440 < temp)) }

theorem State.readStack_hot (s : State) (k : Nat) (temp : Int) :
    (s.readStack k temp).flag .memStkStat 0 k 7 = decide (1360 < temp) := by
  refine (State.flag_setFld _ .memStkStat 0 k _ 7 (by decide) (by decide)).trans ?_
  cases decide (1360 < temp) <;> rfl

theorem State.throttleEvent_eventOnly (s : State) (k : Nat) : EventOnly s (s.throttleEvent k) := by
  unfold State.throttleEvent
  split
  · exact s.openEvent_eventOnly ..
  · exact .refl s

theorem State.throttleEvent_openRec (s : State) (k : Nat) (h : (s.stack k).throttled = true) :
    ((s.throttleEvent k).openRec 2 255).isSome = true := by
  rw [State.throttleEvent, if_pos h]
  exact State.openRec_openEvent ..

/-- A reading of a stack's temperature, up to the safety off (R241, R388). -/
theorem execHbmTempUpdate_reads (s : State) {k : Nat} (temp : Int) (hk : k < 24) :
    ∃ t, execHbmTempUpdate k temp s = .next t ∧ (t.stack k).temp = temp ∧
      t.flag .memStkStat 0 k 7 = decide (1360 < temp) ∧
      (t.stack k).throttled = (decide (1520 < temp) || ((s.stack k).throttled && decide (1440 < temp))) ∧
      ((t.stack k).throttled = true → (t.openRec 2 255).isSome = true) ∧ t.cloves = s.cloves ∧
      (temp < 1680 → t.hbm = s.hbm ∧ t.err = s.err ∧
        (s.pwr.safety.at? (1248 + k) = some none → t.pwr.safety.at? (1248 + k) = some (some s.up.time))) ∧
      (1680 ≤ temp → (t.domain (1248 + k)).st = .off ∧ t.pwr.safety.at? (1248 + k) = some none ∧
        t.err.nextSeq = s.err.nextSeq + 1) := by
  have hevent := (s.readStack k temp).throttleEvent_eventOnly k
  have hopen := (s.readStack k temp).throttleEvent_openRec k
  have hstack := (hevent.stack k).trans (s.readStack_stack k temp)
  have hflag : ((s.readStack k temp).throttleEvent k).flag .memStkStat 0 k 7 = decide (1360 < temp) := by
    rw [State.flag, hevent.reg (Reg.addr_ne_memStkStat k (by decide) hk) (Reg.addr_ne_memStkStat k (by decide) hk)]
    exact s.readStack_hot k temp
  have hcloves : ((s.readStack k temp).throttleEvent k).cloves = s.cloves := hevent.cloves
  have hhbm : ((s.readStack k temp).throttleEvent k).hbm = s.hbm := hevent.hbm
  have herr : ((s.readStack k temp).throttleEvent k).err = s.err := hevent.err
  have hup : ((s.readStack k temp).throttleEvent k).up = s.up := hevent.up
  have hsafety : ((s.readStack k temp).throttleEvent k).pwr.safety = s.pwr.safety := by
    obtain ⟨rs, n, hpwr⟩ := hevent.pwr
    rw [hpwr]; rfl
  rw [← hevent.stack k] at hopen
  rw [execHbmTempUpdate_eq]
  generalize (s.readStack k temp).throttleEvent k = u at *
  by_cases hoff : 1680 ≤ temp
  · obtain ⟨hpwr, hc, hm, hseq, hf⟩ := u.safetyOff_stack hk 1
    have hst : (u.safetyOff [1248 + k] 1).stack k = u.stack k := by rw [State.stack, hm]; rfl
    obtain ⟨hdomain, hheld⟩ := u.heldOff_safetyOff 1 (List.mem_singleton_self (1248 + k))
    refine ⟨_, by rw [if_pos hoff], ?_⟩
    rw [hst, hstack, hf, State.openRec, hpwr, hc, hseq, herr, hdomain]
    rw [hstack] at hopen
    refine ⟨rfl, hflag, rfl, hopen, hcloves, fun h => absurd hoff (by omega), fun _ => ⟨rfl, ?_, rfl⟩⟩
    exact SMap.at?_put_self ..
  · refine ⟨_, by rw [if_neg hoff], ?_⟩
    have hst : (u.safetyClear [1248 + k]).stack k = u.stack k := rfl
    rw [hst, hstack]
    rw [hstack] at hopen
    refine ⟨rfl, hflag, rfl, hopen, hcloves, fun _ => ⟨hhbm, herr, fun h => ?_⟩, fun h => absurd h hoff⟩
    rw [← hup]
    exact u.safetyClear_at? (List.mem_singleton_self _) (hsafety ▸ h)

/-! ### Air (R35) -/

/-- A dew-point margin below 2 K is logged when it is first told (R35). -/
theorem execAirSensorUpdate_tells (s : State) (temp : Int) (rh : Nat) (margin : Int) :
    ∃ t, execAirSensorUpdate temp rh margin s = .next t ∧
      t.pwr = { s.pwr with
        air := temp, rh := rh, margin := margin, dew := decide (margin < 32), dewTold := decide (margin < 32) } ∧
      (32 ≤ margin ∨ s.pwr.dewTold = true → t = { s with pwr := t.pwr }) ∧
      (margin < 32 → s.pwr.dewTold = false →
        t = ({ s with pwr := t.pwr } : State).log .envWarn 255 0 0 0 (ofSigned 32 margin)) := by
  by_cases htell : (decide (margin < 32) && !s.pwr.dewTold) = true
  · have hpwr := State.log_pwr { s with pwr := { s.pwr with
      air := temp, rh := rh, margin := margin, dew := decide (margin < 32), dewTold := decide (margin < 32) } }
      .envWarn 255 0 0 0 (ofSigned 32 margin)
    refine ⟨_, congrArg Host.Outcome.next (if_pos htell), hpwr, fun hquiet => ?_, fun _ _ => by rw [hpwr]⟩
    simp at htell
    rcases hquiet with h | h
    · omega
    · simp [htell.2] at h
  · refine ⟨_, congrArg Host.Outcome.next (if_neg htell), rfl, fun _ => rfl, fun hlow htold => ?_⟩
    simp [hlow, htold] at htell

end Sys2Proof.Machine
end

section
/-! SUPPORT. Gates that close (R429, R430), and what a module reset, a power loss and the begin of start-up leave
(R39, R402, R408). -/
namespace Sys2Proof.Machine

/-! ### Gates (R430) -/

/-- The gate of a partition closes for a cause. -/
def State.closeGate (s : State) (cause p : Nat) : State :=
  let cs := s.err.gates.atD p []
  ({ s with err := { s.err with gates := s.err.gates.put p (if cs.contains cause then cs else cs ++ [cause]) } } : State).setFld
    .errGate 0 0 p p 1

theorem State.closeGates_cons (s : State) (p : Nat) (ps : List Nat) (cause : Nat) :
    s.closeGates (p :: ps) cause = (s.closeGate cause p).closeGates ps cause := rfl

theorem State.gated_closeGate (s : State) (cause p : Nat) {q : Nat} (hq : q < 32) :
    (s.closeGate cause q).gated p = (decide (p = q) || s.gated p) := by
  refine (State.flag_setFld _ .errGate 0 0 1 p hq (Nat.le_refl q)).trans ?_
  by_cases hpq : p = q
  · simp [hpq]
  · have hapart : ¬ (q ≤ p ∧ p ≤ q) := by omega
    rw [if_neg hapart, decide_eq_false hpq]
    rfl

theorem State.closeGates_eq (ps : List Nat) (cause : Nat) : ∀ s : State,
    s.closeGates ps cause = { s with regs := (s.closeGates ps cause).regs, err := (s.closeGates ps cause).err } := by
  induction ps with
  | nil => exact fun _ => rfl
  | cons p ps ih => exact fun s => ih _

theorem State.reg_closeGates_ne (ps : List Nat) (cause : Nat) {q : Reg} {b i : Nat} (h : Reg.errGate.addr 0 0 ≠ q.addr b i) :
    ∀ s : State, (s.closeGates ps cause).reg q b i = s.reg q b i := by
  induction ps with
  | nil => exact fun _ => rfl
  | cons p ps ih => exact fun s => (ih _).trans (State.reg_setReg_ne _ _ h)

/-- A gate that closes, or was closed, is closed. -/
theorem State.gated_closeGates (cause p : Nat) : ∀ {ps : List Nat} {s : State}, (∀ q ∈ ps, q < 32) →
    p ∈ ps ∨ s.gated p = true → (s.closeGates ps cause).gated p = true := by
  intro ps
  induction ps with
  | nil => exact fun _ h => h.resolve_left List.not_mem_nil
  | cons q ps ih =>
    intro s hps h
    rw [State.closeGates_cons]
    refine ih (fun r hr => hps r (List.mem_cons_of_mem q hr)) ?_
    rw [State.gated_closeGate s cause p (hps q List.mem_cons_self)]
    rcases h with h | h
    · exact (List.mem_cons.1 h).symm.imp_right fun hpq => by simp [hpq]
    · simp [h]

/-! ### Start-up begins (R39, R402) -/

theorem State.beginStartup_eq (s : State) :
    s.beginStartup = { s with regs := s.beginStartup.regs, up := s.beginStartup.up, flash := s.beginStartup.flash } := by
  unfold State.beginStartup
  split <;> rfl

@[simp] theorem State.beginStartup_pwr (s : State) : s.beginStartup.pwr = s.pwr := by rw [State.beginStartup_eq]
@[simp] theorem State.beginStartup_cloves (s : State) : s.beginStartup.cloves = s.cloves := by rw [State.beginStartup_eq]

@[simp] theorem State.beginStartup_domOn (s : State) (d : Nat) : s.beginStartup.domOn d = s.domOn d := by
  rw [State.domOn, State.domain, State.beginStartup_pwr]; rfl

/-- Where the busbar is good and MOD_RESET_N is high, step 1 is done at once, and start-up is counted (R402). -/
theorem State.beginStartup_of_supply {s : State} (hgood : s.pwr.good = true) (hhigh : s.up.resetHigh = true) :
    s.beginStartup.fld .glbStart 0 0 3 0 = 2 ∧ s.beginStartup.up = { s.up with began := s.up.time } ∧
      s.beginStartup.flash.startups = s.flash.startups + 1 := by
  rw [State.beginStartup, if_pos (by simp [hgood, hhigh])]
  refine ⟨?_, rfl, rfl⟩
  refine (State.fld_setFld_apart _ .glbStart 0 0 _ (by decide) (by decide) (by decide) (.inl (by decide))).trans ?_
  exact State.fld_setFld_self _ .glbStart 0 0 2 (by decide) (by decide)

/-- Without one of the two nothing begins. -/
theorem State.beginStartup_of_no_supply {s : State} (h : s.pwr.good = false ∨ s.up.resetHigh = false) : s.beginStartup = s := by
  rw [State.beginStartup, if_neg (by simpa [or_iff_not_imp_left] using h)]

/-! ### Module reset and power loss (R408) -/

/-- With every register at its reset value, start-up stands at step 1. -/
theorem State.start_of_no_regs {t : State} (h : t.regs = []) : t.reg .glbStart 0 0 = 1 := by
  rw [State.reg, h]; rfl

theorem State.ready_of_no_regs {t : State} (h : t.regs = []) : t.ready = false := by
  rw [State.ready, State.flag, State.start_of_no_regs h]; rfl

/-- Nothing is left that a module reset or a power loss takes, apart from the gates. -/
structure Emptied (t : State) : Prop where
  cloves : t.cloves = []
  fields : t.fields = []
  parts : t.parts = []
  hbm : t.hbm = ⟨[], []⟩
  memStacks : t.memStacks = []
  msgs : t.msgs = []
  inflight : t.inflight = []
  srv : t.srv = Serving.fresh
  ready : t.ready = false

/-- Once all gates are closed the state is blank. -/
theorem Emptied.blank_closeGates {t : State} (h : Emptied t) (cause : Nat) : Blank (t.closeGates (List.range 32) cause) := by
  have hready : (t.closeGates (List.range 32) cause).ready = false := by
    rw [State.ready, State.flag, State.reg_closeGates_ne _ _ (by decide)]
    exact h.ready
  have hgates : ∀ p, p < 32 → (t.closeGates (List.range 32) cause).gated p = true := fun p hp =>
    State.gated_closeGates cause p (fun q hq => List.mem_range.1 hq) (.inl (List.mem_range.2 hp))
  refine ⟨?_, ?_, ?_, ?_, ?_, ?_, ?_, ?_, hready, hgates⟩
  all_goals rw [State.closeGates_eq]
  exacts [h.cloves, h.fields, h.parts, h.hbm, h.memStacks, h.msgs, h.inflight, h.srv]

theorem Blank.recap {t : State} (h : Blank t) : Blank t.recap := h

/-- The trailers that a module reset sends leave the supply alone. -/
theorem State.trailers_sameSupply (s : State) (qs : List Request) (status : Nat) :
    SameSupply s (qs.foldl (fun s q => s.endStreams q status) s) :=
  .foldl fun _ _ => State.endStreams_sameSupply ..

/-- A module reset leaves the state blank at step 1, with the supply's readings and the always-on domains; start-up then
begins where it may. -/
theorem State.moduleReset_begins (s : State) (cause : Nat) : ∃ t : State, s.moduleReset cause = t.beginStartup ∧ Blank t ∧
    t.fld .glbStart 0 0 3 0 = 1 ∧ t.up.resetHigh = s.up.resetHigh ∧
    t.pwr.domains = s.pwr.domains.filter (fun e => decide (1290 ≤ e.1)) ∧ t.pwr.mv = s.pwr.mv ∧ t.pwr.good = s.pwr.good := by
  have hsent := (s.closeGates_sameSupply (List.range 32) 3).trans
    (State.trailers_sameSupply _ ((s.closeGates (List.range 32) 3).srv.reqs.filter (fun q => q.classIdx.isSome && q.endsBy false))
      Status.voided.val)
  unfold State.moduleReset
  extract_lets s1 s2 smb r h n p e u m t0 t
  change SameSupply s s2 at hsent
  have hstart : t.reg .glbStart 0 0 = 1 :=
    (State.reg_setReg_ne _ _ (by decide)).trans
      ((State.reg_setReg_ne t0 smb (by decide)).trans (State.start_of_no_regs (t := t0) rfl))
  have hready : t.ready = false := by rw [State.ready, State.flag, hstart]; rfl
  have hempty : Emptied t := ⟨rfl, rfl, rfl, rfl, rfl, rfl, rfl, rfl, hready⟩
  have hhigh : t.up.resetHigh = s.up.resetHigh := congrArg (fun u => u.resetHigh) hsent.up
  have hdomains : t.pwr.domains = s.pwr.domains.filter (fun e => decide (1290 ≤ e.1)) :=
    congrArg (fun p => p.domains.filter (fun e => decide (1290 ≤ e.1))) hsent.pwr
  have hmv : t.pwr.mv = s.pwr.mv := congrArg (fun p => p.mv) hsent.pwr
  have hgood : t.pwr.good = s.pwr.good := congrArg (fun p => p.good) hsent.pwr
  clear_value t
  have hgates := t.closeGates_sameSupply (List.range 32) 3
  have hstep : (t.closeGates (List.range 32) 3).fld .glbStart 0 0 3 0 = 1 := by
    rw [State.fld, State.reg_closeGates_ne _ _ (by decide), hstart]; rfl
  have hblank := hempty.blank_closeGates 3
  rw [← hgates.pwr] at hdomains hmv hgood
  rw [← hgates.up] at hhigh
  generalize t.closeGates (List.range 32) 3 = g at *
  exact ⟨g.recap, rfl, hblank.recap, hstep, hhigh, hdomains, hmv, hgood⟩

/-- A power loss leaves the state blank, and no domain has power (R408). -/
theorem State.powerLost_loses (s : State) :
    Blank s.powerLost ∧ s.powerLost.pwr.domains = [] ∧ s.powerLost.pwr.good = false := by
  unfold State.powerLost
  extract_lets r h n p e u m t
  have hempty : Emptied t := ⟨rfl, rfl, rfl, rfl, rfl, rfl, rfl, rfl, State.ready_of_no_regs (t := t) rfl⟩
  rw [(t.closeGates_sameSupply (List.range 32) 3).pwr]
  exact ⟨hempty.blank_closeGates 3, rfl, rfl⟩

/-! ### The busbar good (R29, R402) -/

/-- Above 42.0 V the always-on domains have power (R29). -/
theorem State.domOn_setBusbar (s : State) {mv : Nat} (h : 42000 < mv) :
    (s.setBusbar mv).domOn 1290 = true ∧ (s.domOn 1290 = false → (s.setBusbar mv).domOn 1291 = true) := by
  unfold State.setBusbar
  split
  next hoff =>
    refine ⟨?_, fun _ => ?_⟩
    · rw [State.domOn, State.domain_setDomain_ne _ _ (by decide), State.domain_setDomain_self]; rfl
    · rw [State.domOn, State.domain_setDomain_self]; rfl
  next hon =>
    have hpow : (s.domain 1290).st = .on := by
      by_contra hne
      exact hon ⟨h, hne⟩
    exact ⟨by simpa [State.domOn, State.domain] using hpow, fun hoff => by simp [State.domOn, hpow] at hoff⟩

/-- The busbar read as good, at 47.0 V or more (R402). -/
def State.readGood (s : State) : State :=
  ({ s with pwr := { s.pwr with good := true } } : State).setBusbar (max s.pwr.mv 47000)

theorem execBusbarGood_eq (s : State) : execBusbarGood s = .next (
    if !s.pwr.good && s.readGood.recap.fld .glbStart 0 0 3 0 = 1 then s.readGood.recap.beginStartup else s.readGood.recap) := rfl

/-- Busbar good is kept, the always-on domains have power, and step 1 ends where it waited for it (R402). -/
theorem execBusbarGood_begins (s : State) :
    ∃ t, execBusbarGood s = .next t ∧ t.pwr.good = true ∧ t.pwr.mv = max s.pwr.mv 47000 ∧ t.cloves = s.cloves ∧
      t.domOn 1290 = true ∧ (s.domOn 1290 = false → t.domOn 1291 = true) ∧
      (s.pwr.good = false → s.fld .glbStart 0 0 3 0 = 1 → s.up.resetHigh = true →
        t.fld .glbStart 0 0 3 0 = 2 ∧ t.flash.startups = s.flash.startups + 1) := by
  obtain ⟨hon, hboth⟩ : s.readGood.domOn 1290 = true ∧ (s.domOn 1290 = false → s.readGood.domOn 1291 = true) :=
    State.domOn_setBusbar _ (by omega)
  have hread : s.readGood = { s with pwr := { s.pwr with
      good := true, mv := max s.pwr.mv 47000, domains := s.readGood.pwr.domains } } := State.setBusbar_eq ..
  have hgood : s.readGood.recap.pwr.good = true := congrArg (fun t => t.pwr.good) hread
  have hmv : s.readGood.recap.pwr.mv = max s.pwr.mv 47000 := congrArg (fun t => t.pwr.mv) hread
  have hcloves : s.readGood.cloves = s.cloves := congrArg (fun t => t.cloves) hread
  have hup : s.readGood.up = s.up := congrArg (fun t => t.up) hread
  have hflash : s.readGood.flash = s.flash := congrArg (fun t => t.flash) hread
  have hstep : s.readGood.recap.fld .glbStart 0 0 3 0 = s.fld .glbStart 0 0 3 0 :=
    congrArg (fun t => t.fld .glbStart 0 0 3 0) hread
  rw [execBusbarGood_eq]
  generalize s.readGood = b at *
  refine ⟨_, rfl, ?_⟩
  by_cases hbegin : s.pwr.good = false ∧ s.fld .glbStart 0 0 3 0 = 1
  · rw [if_pos (by simp [hstep, hbegin])]
    rw [State.beginStartup_pwr, State.beginStartup_cloves, State.beginStartup_domOn, State.beginStartup_domOn]
    refine ⟨hgood, hmv, hcloves, hon, hboth, fun _ _ hhigh => ?_⟩
    obtain ⟨hstep', -, hcount⟩ := State.beginStartup_of_supply hgood (s := b.recap) ((congrArg (fun u => u.resetHigh) hup).trans hhigh)
    exact ⟨hstep', hcount.trans (congrArg (fun f => f.startups + 1) hflash)⟩
  · rw [if_neg (by simpa [hstep] using hbegin)]
    exact ⟨hgood, hmv, hcloves, hon, hboth, fun hwas hone => absurd ⟨hwas, hone⟩ hbegin⟩

/-- MOD_RESET_N that goes high begins start-up where the busbar is good (R39, R402). -/
theorem execModResetNHigh_begins (s : State) (hlow : s.up.resetHigh = false) :
    ∃ t, execModResetNHigh s = .next t ∧ t.up.resetHigh = true ∧ t.cloves = s.cloves ∧ t.hbm = s.hbm ∧
      (s.pwr.good = true → t.fld .glbStart 0 0 3 0 = 2 ∧ t.up.began = s.up.time ∧ t.flash.startups = s.flash.startups + 1) ∧
      (s.pwr.good = false → t.regs = s.regs ∧ t.flash = s.flash) := by
  refine ⟨_, congrArg Host.Outcome.next (if_neg (by simp [hlow])), ?_⟩
  cases hgood : s.pwr.good with
  | true =>
    obtain ⟨hstep, hup, hcount⟩ := State.beginStartup_of_supply (s := { s with up := { s.up with resetHigh := true } }) hgood rfl
    rw [hup, hstep, hcount, State.beginStartup_eq]
    exact ⟨rfl, rfl, rfl, fun _ => ⟨rfl, rfl, rfl⟩, nofun⟩
  | false =>
    rw [State.beginStartup_of_no_supply (s := { s with up := { s.up with resetHigh := true } }) (.inl hgood)]
    exact ⟨rfl, rfl, rfl, nofun, fun _ => ⟨rfl, rfl⟩⟩

end Sys2Proof.Machine
end

section
open Sys2Proof Sys2Proof.Machine

/-- Settles O43: what a module reset and a power loss leave, and when start-up begins. -/
theorem supplyBeginsAndEnds : Obligations.SupplyBeginsAndEnds := by
  refine fun s => ⟨?_, fun hhigh => ?_, fun hlow => ?_, execBusbarGood_begins s, ⟨_, rfl, s.powerLost_loses⟩⟩
  · obtain ⟨t, hreset, hblank, hstep, hlow, hrest⟩ :=
      State.moduleReset_begins { s with up := { s.up with resetHigh := false } } 0
    rw [State.beginStartup_of_no_supply (.inr hlow)] at hreset
    exact ⟨t, congrArg Host.Outcome.next hreset, hblank, hlow, hstep, hrest⟩
  · exact congrArg Host.Outcome.next (if_pos hhigh)
  · exact execModResetNHigh_begins s hlow

/-- Settles O44: the lowest limit by induction over the list of limits; each reading by what its command does. -/
theorem capIsLowestLimit : Obligations.CapIsLowestLimit := by
  refine ⟨fun s => ?_, fun s => ⟨fun mv => ⟨fun hmv => ?_, fun hmv => ?_⟩, fun mv => ⟨fun hstay => ?_, fun hmv hwarn => ?_⟩,
    fun mv i1 i2 => ?_, fun i1 i2 => ?_, fun inlet outlet flow => ?_, fun hflow => ?_, fun hflow => ?_, fun hleased => ?_⟩⟩
  · obtain ⟨hmem, hle⟩ := lowest_spec s.lowest_limits
    exact ⟨hle, hmem⟩
  · exact congrArg Host.Outcome.next (if_pos hmv)
  · exact execBusbarBrownoutWarn_opens s hmv
  · refine congrArg Host.Outcome.next (if_pos ?_)
    obtain ⟨ds, hpwr⟩ := s.setBusbar_pwr mv
    simpa [hpwr] using hstay
  · exact execBusbarWarnClear_closes s hmv hwarn
  · obtain ⟨t, hexec, hcap, hmv, ⟨hi1, hi2, hone, hseq⟩, hhold⟩ := execClampLimit_holds s mv i1 i2
    exact ⟨t, hexec, hcap, hmv, hi1, hi2, hone, hseq, hhold⟩
  · exact ⟨_, rfl, State.recap_cap _, s.clampsRead_recap i1 i2⟩
  · exact execCoolantSensorUpdate_reads s inlet outlet flow
  · exact ⟨_, congrArg Host.Outcome.next (if_neg (by omega)), rfl, rfl, rfl⟩
  · exact congrArg Host.Outcome.next (if_pos hflow)
  · exact execLeaseExpiry_floor s hleased

/-- Settles O45: the safety off by induction over its domains and over its partitions; each sensor by what its command
does up to the safety off. -/
theorem sensorsAct : Obligations.SensorsAct := by
  refine ⟨?_, fun s => ⟨fun hflow => ?_, fun hflow => ?_, fun temp rh margin => ?_, fun f strip temp _ => ?_, fun k temp hk => ?_⟩⟩
  · rintro s _ doms cond rfl
    refine ⟨fun d hd => ?_, s.nextSeq_lt_safetyOff cond⟩
    obtain ⟨hoff, hheld⟩ := s.heldOff_safetyOff cond hd
    refine ⟨by rw [hoff]; rfl, hheld, fun hpart => ?_⟩
    have hplace : partOfDomain d = if d < 1152 then d / 36 else (d - 1152) / 3 := by
      simp only [partOfDomain, hpart, if_true]
    rw [← hplace]
    exact s.resets_safetyOff cond hd (by rw [hplace]; split <;> omega)
  · exact congrArg Host.Outcome.next (if_pos hflow)
  · exact congrArg Host.Outcome.next (if_neg (by omega))
  · exact execAirSensorUpdate_tells s temp rh margin
  · exact execStripTempUpdate_reads s f strip temp
  · exact execHbmTempUpdate_reads s temp hk
end

section
/-! SUPPORT. The array instructions at issue (R52, R55, R58, R83, R87, R88, R123): one update of an array in every member
of a gang, and what GANG_CFG, SWAP and STREAM leave where nothing refuses them and they need not wait. -/
namespace Sys2Proof.Machine

/-! ### Every member of a gang (R57, R58) -/

/-- The state with the gang's array changed in every member. -/
def State.modMembers (s : State) (g : Gang) (f : ArrayUnit → ArrayUnit) : State :=
  g.members.foldl (fun s m => s.modArr m g.arr f) s

theorem State.arr_modMembers (s : State) (g : Gang) (f : ArrayUnit → ArrayUnit) (k : Nat) (b : Bool) :
    (s.modMembers g f).arr k b = if b = g.arr ∧ k ∈ g.members then f (s.arr k b) else s.arr k b :=
  (foldl_modArr g.arr (fun _ => f) g.members g.members_nodup s).1 k b

theorem State.modMembers_only (s : State) (g : Gang) (f : ArrayUnit → ArrayUnit) : ArraysOnly s (s.modMembers g f) :=
  (foldl_modArr g.arr (fun _ => f) g.members g.members_nodup s).2.1

theorem State.arr_modArr_at (s : State) (n : Nat) (c : Bool) (f : ArrayUnit → ArrayUnit) (k : Nat) (b : Bool) :
    (s.modArr n c f).arr k b = if k = n ∧ b = c then f (s.arr k b) else s.arr k b := by
  rw [State.arr_modArr]
  by_cases h : n = k ∧ c = b
  · obtain ⟨rfl, rfl⟩ := h
    rfl
  · rw [if_neg h, if_neg fun ⟨hk, hb⟩ => h ⟨hk.symm, hb.symm⟩]

/-- A change at the origin, then one in every member. -/
theorem State.arr_modMembers_modArr (s : State) (g : Gang) (f h : ArrayUnit → ArrayUnit) (k : Nat) (b : Bool) :
    ((s.modArr g.origin g.arr f).modMembers g h).arr k b =
      if k = g.origin ∧ b = g.arr then h (f (s.arr k b))
      else if b = g.arr ∧ k ∈ g.members then h (s.arr k b) else s.arr k b := by
  rw [State.arr_modMembers, State.arr_modArr_at]
  by_cases ho : k = g.origin ∧ b = g.arr
  · obtain ⟨rfl, rfl⟩ := ho
    simp [g.origin_mem]
  · rw [if_neg ho, if_neg ho]

/-! ### Cloves that change beside their scratchpads -/

/-- From s to t cloves alone change, no word of a scratchpad does, and nothing begins to wait. -/
structure ScratchStays (s t : State) : Prop where
  frame : t = { s with cloves := t.cloves }
  scratch : ∀ k, (t.clove k).scratch = (s.clove k).scratch
  quiet : Quiet s → Quiet t

theorem ScratchStays.trans {a b c : State} (h : ScratchStays a b) (g : ScratchStays b c) : ScratchStays a c :=
  ⟨by conv_lhs => rw [g.frame, h.frame], fun k => (g.scratch k).trans (h.scratch k), fun q => g.quiet (h.quiet q)⟩

theorem ArraysOnly.scratch {s t : State} (h : ArraysOnly s t) (k : Nat) : (t.clove k).scratch = (s.clove k).scratch := by
  rw [h k]

theorem Books.scratchStays {s t : State} (h : Books s t) : ScratchStays s t := ⟨h.rest, h.scr, h.quiet⟩

theorem State.modArr_scratchStays (s : State) (k : Nat) (b : Bool) (f : ArrayUnit → ArrayUnit) :
    ScratchStays s (s.modArr k b f) :=
  ⟨rfl, (s.modArr_only k b f).scratch, fun q => q.modArr k b f⟩

theorem State.modMembers_scratchStays (s : State) (g : Gang) (f : ArrayUnit → ArrayUnit) :
    ScratchStays s (s.modMembers g f) :=
  have ⟨_, honly, hframe, hquiet⟩ := foldl_modArr g.arr (fun _ => f) g.members g.members_nodup s
  ⟨hframe, honly.scratch, hquiet⟩

/-! ### One try at issue -/

@[simp] theorem State.progressed_arr (s : State) (p k : Nat) (b : Bool) : (s.progressed p).arr k b = s.arr k b := rfl

/-- An instruction that may be tried and whose try answers leaves that answer, with its progress noted. -/
theorem Open.issue_eq {s u : State} {i : Issue} (h : Open s i)
    (htry : (s.issuing i).try s.issueNo i.home 0 i = (u, true)) (hstays : ScratchStays (s.issuing i) u) :
    s.issue i = u.progressed i.part ∧ CloveFrame i s (u.progressed i.part) ∧
      ∀ k, ((u.progressed i.part).clove k).scratch = (s.clove k).scratch :=
  ⟨State.issue_of_try h htry (hstays.quiet (h.quiet.issuing i)), .of_issuing hstays.frame,
    fun k => (hstays.scratch k).trans (by rw [State.issuing_clove])⟩

/-- An instruction whose try changes its array in every member of a gang. -/
theorem Open.issue_modMembers {s : State} {i : Issue} {g : Gang} {f : ArrayUnit → ArrayUnit} (h : Open s i)
    (htry : (s.issuing i).try s.issueNo i.home 0 i = ((s.issuing i).modMembers g f, true)) :
    CloveFrame i s (s.issue i) ∧ ArraysOnly s (s.issue i) ∧
      ∀ k b, (s.issue i).arr k b = if b = g.arr ∧ k ∈ g.members then f (s.arr k b) else s.arr k b := by
  obtain ⟨hissue, hframe, -⟩ := h.issue_eq htry (State.modMembers_scratchStays ..)
  rw [hissue]
  refine ⟨hframe, ((s.issuing i).modMembers_only g f).of_issuing _, fun k b => ?_⟩
  exact ((s.issuing i).arr_modMembers g f k b).trans (by rw [State.issuing_arr])

theorem State.try_of_gang {s t : State} {no k v : Nat} {i : Issue} (hop : fieldOf i.word 3 0 = 1)
    (h : s.tryGang k v i = some t) : s.try no k v i = (t, true) := by
  simp [State.try, hop, h]

theorem State.try_of_swap {s t : State} {no k v : Nat} {i : Issue} (hop : fieldOf i.word 3 0 = 3)
    (h : s.trySwap no k v i = some t) : s.try no k v i = (t, true) := by
  simp [State.try, hop, h]

theorem State.try_of_stream {s t : State} {no k v : Nat} {i : Issue} (hop : fieldOf i.word 3 0 = 4)
    (h : s.tryStream no k v i = some t) : s.try no k v i = (t, true) := by
  simp [State.try, hop, h]

/-! ### GANG_CFG (R58, R83) -/

/-- An array as GANG_CFG leaves it in a member of the block: it alone keeps its halt. -/
def Gang.configured (g : Gang) (a : ArrayUnit) : ArrayUnit :=
  { ArrayUnit.solo g.ox g.oy with shape := g.shape, form := g.form, halted := a.halted }

theorem State.tryGang_eq {s : State} {k v : Nat} {i : Issue} (hmark : i.mark = false) (hword : GangOp.badWord i.word = false)
    (halign : (GangOp.ofWord i.word).misaligned (partOf (cloveX k) (cloveY k)) = false)
    (hidle : ∀ m ∈ (GangOp.ofWord i.word).block.members,
      (s.arr (s.gangOf m (GangOp.ofWord i.word).block.arr).origin (GangOp.ofWord i.word).block.arr).work = []) :
    s.tryGang k v i = some (s.modMembers (GangOp.ofWord i.word).block (GangOp.ofWord i.word).block.configured) := by
  have hfree : ((GangOp.ofWord i.word).block.members.any fun m =>
      !(s.arr (s.gangOf m (GangOp.ofWord i.word).block.arr).origin (GangOp.ofWord i.word).block.arr).work.isEmpty) = false :=
    List.any_eq_false.2 fun m hm => by simp [hidle m hm]
  unfold State.tryGang
  simp only [hmark, hword, halign, hfree, Bool.false_eq_true, if_false]
  rfl

/-! ### SWAP (R52, R55, R87) -/

/-- The array with the roles of its two sets exchanged. -/
def ArrayUnit.exchange (a : ArrayUnit) : ArrayUnit := { a with fg := !a.fg }

/-- The array with a work joined behind the others. -/
def ArrayUnit.join (u : Work) (a : ArrayUnit) : ArrayUnit := { a with work := a.work ++ [u] }

/-- The array with its next pass sequence number taken. -/
def ArrayUnit.nextSeq (a : ArrayUnit) : ArrayUnit := { a with seq := a.seq + 1 }

/-- SWAP of a set that is not output-stationary, by a word without drain fields. -/
theorem State.trySwap_of_plain {s : State} {no k v : Nat} {i : Issue} {g : Gang}
    (hgang : s.gangOf k ((SwapOp.ofWord i.word).arr == 1) = g) (hmark : i.mark = false)
    (hfault : s.gangFault k g = none) (hres : i.word &&& SwapOp.reserved = 0) (hfields : i.word >>> 27 = 0)
    (hmode : (s.setAt k g.arr (s.arr k g.arr).fg).mode ≠ some 2)
    (hdrain : (s.arr k g.arr).work.any (fun u => u.drain && u.setIdx == !(s.arr k g.arr).fg) = false) :
    s.trySwap no k v i = some (s.modMembers g .exchange) := by
  have harr : ((SwapOp.ofWord i.word).arr == 1) = g.arr := hgang ▸ rfl
  unfold State.trySwap
  rw [harr] at hgang
  simp only [harr, hgang, hmark, hfault]
  simp [hres, hfields, hmode, hdrain]
  rfl

/-- The work that instruction number no starts on the foreground set of a gang (R55, R80, R88, R123). -/
structure StartedWork (s : State) (no : Nat) (i : Issue) (g : Gang) (drain : Bool) (u : Work) : Prop where
  drain : u.drain = drain
  word : u.word = i.word
  setIdx : u.setIdx = (s.arr g.origin g.arr).fg
  next : u.next = 0
  seq : u.seq = (s.arr g.origin g.arr).seq
  failed : u.failed = false
  stalled : u.stalled = false
  owner : u.owner = no

/-- A SWAP of clove k that starts the drain of set fg of gang g through the exit cloves ks: no rule refuses it, the other set
does not drain, and its exits may issue (R53, R55, R87, R120, R138, R175 to R179). -/
structure DrainReady (s : State) (no k : Nat) (i : Issue) (g : Gang) (e : Exit) (fg : Bool) (ks : List Nat) : Prop where
  gang : s.gangOf k ((SwapOp.ofWord i.word).arr == 1) = g
  exit : (SwapOp.ofWord i.word).exit = e
  foreground : (s.arr k g.arr).fg = fg
  exits : (s.exits g fg false).map (·.2.1) = ks
  mark : i.mark = false
  gangFault : s.gangFault k g = none
  reserved : i.word &&& SwapOp.reserved = 0
  mode : (s.setAt k g.arr fg).mode = some 2
  outFmt : isOutFmt e.ofmt = true
  rounding : s.exitSr e ks = false
  apart : (e.acc && e.dst == e.accRgn) = false
  exitFault : s.exitFault e ks = none
  useFault : s.useFault (s.drainUses g fg e) = none
  idle : (s.arr k g.arr).work.any (fun u => u.drain && u.setIdx == !fg) = false
  free : s.exitsFree no (arrEngine g.arr) e g.rows ks = true

/-- SWAP of an output-stationary set whose drain may start. -/
theorem State.trySwap_of_drain {s : State} {no k : Nat} {i : Issue} {g : Gang} {e : Exit} {fg : Bool} {ks : List Nat} (v : Nat)
    (h : DrainReady s no k i g e fg ks) :
    ∃ m, Books s m ∧ ∃ u, StartedWork s no i g true u ∧ s.trySwap no k v i =
      some (((m.modArr g.origin g.arr .nextSeq).modArr g.origin g.arr (.join u)).modMembers g .exchange) := by
  obtain ⟨hgang, he, hfg, hks, hmark, hfault, hres, hmode, hfmt, hsr, hapart, hexit, huse, hidle, hfree⟩ := h
  have harr : ((SwapOp.ofWord i.word).arr == 1) = g.arr := hgang ▸ rfl
  have hk : k = g.origin := State.gangFault_none hfault
  unfold State.trySwap
  rw [harr] at hgang
  simp only [harr, hgang, he, hfg, hks, hmark, hfault]
  simp [hres, hmode, hfmt, hsr, hapart, hexit, huse, hidle, hfree]
  generalize hm : (s.takeExits _ no e g.rows ks).takeTickets no _ = m
  have hbooks : Books s m := hm ▸ (Books.takeExits ..).trans (.takeTickets ..)
  subst hk
  exact ⟨m, hbooks, _, ⟨rfl, rfl, hfg.symm, rfl, congrArg ArrayUnit.seq (hbooks.arrs _ _), rfl, rfl, rfl⟩, rfl⟩

/-! ### STREAM (R88, R123) -/

/-- The array with the mode and format of a pass taken by a set that has none. -/
def ArrayUnit.taking (fg : Bool) (o : StreamOp) (a : ArrayUnit) : ArrayUnit := a.putSet fg ((a.setOf fg).taking o)

/-- STREAM has taken its pass sequence number, and its members the mode of the pass. -/
def State.passBegun (s : State) (g : Gang) (fg : Bool) (o : StreamOp) : State :=
  (s.modMembers g (.taking fg o)).modArr g.origin g.arr .nextSeq

@[simp] theorem ArrayUnit.taking_seq (fg : Bool) (o : StreamOp) (a : ArrayUnit) : (a.taking fg o).seq = a.seq := by
  cases fg <;> rfl

/-- A STREAM of clove k through set fg of gang g, with the exit cloves ks, that no rule refuses and that need not wait (R49,
R66, R82, R88 to R92, R120, R138, R175 to R179). -/
structure PassReady (s : State) (no k : Nat) (i : Issue) (g : Gang) (o : StreamOp) (fg : Bool) (ks : List Nat) : Prop where
  op : StreamOp.ofWord i.word = o
  gang : s.gangOf k (o.arr == 1) = g
  foreground : (s.arr k g.arr).fg = fg
  exits : (if o.mode == 2 then [] else (s.exits g fg (o.axis == 1)).map (·.2.1)) = ks
  mark : i.mark = false
  gangFault : s.gangFault k g = none
  word : StreamOp.badWord i.word g = false
  rounding : s.exitSr o.exit ks = false
  form : o.form.toNat = g.form
  mode : ∀ m, (s.setAt k g.arr fg).mode = some m → m = o.mode.toNat
  pair : pairClass o.fmt.toNat =
    pairClass (if o.mode == 2 then o.fmt2.toNat else (s.setAt k g.arr fg).fmt.getD o.fmt.toNat)
  apart : (!(o.mode == 2) && (o.exit.dst == o.src.toNat || (o.exit.acc && o.exit.dst == o.exit.accRgn))) = false
  exitFault : s.exitFault o.exit ks = none
  useFault : s.useFault (s.streamUses g fg o) = none
  same : ∀ u ∈ (s.arr k g.arr).work, u.modeTree = (o.mode.toNat, o.tree == 1)
  free : o.count ≠ 0 → s.exitsFree no (arrEngine g.arr) o.exit o.count.toNat ks = true

/-- STREAM of a pass that may start: one of COUNT 0 takes its sequence number and no more. -/
theorem State.tryStream_eq {s : State} {no k : Nat} {i : Issue} {g : Gang} {o : StreamOp} {fg : Bool} {ks : List Nat} (v : Nat)
    (h : PassReady s no k i g o fg ks) :
    ∃ m, Books (s.passBegun g fg o) m ∧ ∃ u, StartedWork s no i g false u ∧
      s.tryStream no k v i = some (if o.count = 0 then s.passBegun g fg o else m.modArr g.origin g.arr (.join u)) := by
  obtain ⟨ho, hgang, hfg, hks, hmark, hfault, hword, hsr, hform, hmode, hpair, hapart, hexit, huse, hsame, hfree⟩ := h
  have harr : (o.arr == 1) = g.arr := hgang ▸ rfl
  have hk : k = g.origin := State.gangFault_none hfault
  have hset : ((s.setAt k g.arr fg).mode.isSome && decide ((s.setAt k g.arr fg).mode ≠ some o.mode.toNat)) = false := by
    cases h : (s.setAt k g.arr fg).mode with
    | none => rfl
    | some m => simp [hmode m h]
  have hnone : ((s.arr k g.arr).work.any fun u => decide (u.modeTree ≠ (o.mode.toNat, o.tree == 1))) = false :=
    List.any_eq_false.2 fun u hu => by simp [hsame u hu]
  have hfits : (decide (o.count.toNat ≠ 0) && !o.mode == 2 && !s.exitsFree no (arrEngine g.arr) o.exit o.count.toNat ks) =
      false := by
    by_cases hzero : o.count = 0
    · simp [hzero]
    · simp [hfree hzero]
  have hcount : o.count.toNat = 0 ↔ o.count = 0 :=
    ⟨fun h => BitVec.eq_of_toNat_eq h, fun h => by rw [h]; rfl⟩
  rw [harr] at hgang
  unfold State.tryStream
  simp only [ho, harr, hgang, hfg, hks, hmark, hfault, hword, hsr, hform, hapart, hexit, huse, hset, hpair, hnone, hfits,
    Bool.or_self, Bool.false_eq_true, ne_eq, not_true_eq_false, if_false]
  generalize hloaded : List.foldl _ s g.members = loaded
  replace hloaded : s.modMembers g (.taking fg o) = loaded := hloaded
  generalize hm : State.takeTickets _ no _ = m
  have hbooks : Books (loaded.modArr g.origin g.arr .nextSeq) m := by
    refine hm ▸ Books.trans ?_ (.takeTickets ..)
    split
    · exact .refl _
    · exact .takeExits ..
  have hseq : (loaded.arr g.origin g.arr).seq = (s.arr g.origin g.arr).seq := by
    rw [← hloaded, State.arr_modMembers, if_pos ⟨rfl, g.origin_mem⟩, ArrayUnit.taking_seq]
  subst hk
  rw [State.passBegun, hloaded]
  refine ⟨m, hbooks, _, ?_, (if_congr hcount rfl rfl).trans (apply_ite some ..).symm⟩
  exact ⟨rfl, rfl, hfg.symm, rfl, hseq, rfl, rfl, rfl⟩

/-- A STREAM moves no word of a scratchpad, whether its pass starts or has no vector. -/
theorem State.startPass_scratchStays {s m : State} {g : Gang} {fg : Bool} {o : StreamOp} (u : Work)
    (hbooks : Books (s.passBegun g fg o) m) :
    ScratchStays s (if o.count = 0 then s.passBegun g fg o else m.modArr g.origin g.arr (.join u)) := by
  have hbegun : ScratchStays s (s.passBegun g fg o) :=
    (s.modMembers_scratchStays ..).trans (State.modArr_scratchStays ..)
  split
  · exact hbegun
  · exact hbegun.trans (hbooks.scratchStays.trans (m.modArr_scratchStays ..))

/-- What each array is after a STREAM: its members have taken the mode, the origin the sequence number and the work. -/
theorem State.arr_startPass {s m : State} {g : Gang} {fg : Bool} {o : StreamOp} (u : Work)
    (hbooks : Books (s.passBegun g fg o) m) (k : Nat) (b : Bool)
    {a : ArrayUnit} (ha : (s.modMembers g (.taking fg o)).arr k b = a) :
    (if o.count = 0 then s.passBegun g fg o else m.modArr g.origin g.arr (.join u)).arr k b =
      if k = g.origin ∧ b = g.arr then
        { a with seq := a.seq + 1, work := if o.count = 0 then a.work else a.work ++ [u] }
      else a := by
  subst ha
  by_cases hzero : o.count = 0
  · rw [if_pos hzero, State.passBegun, State.arr_modArr_at]
    simp only [if_pos hzero]
    rfl
  · rw [if_neg hzero, State.arr_modArr_at, hbooks.arrs, State.passBegun, State.arr_modArr_at]
    simp only [if_neg hzero]
    split <;> rfl

end Sys2Proof.Machine
end

section
open Sys2Proof Sys2Proof.Machine

/-- Settles O10: GANG_CFG changes the array of every member of its block, and `Gang.configured` is what it leaves. -/
theorem gangCfgSetsBlock : Obligations.GangCfgSetsBlock := by
  intro s i hop hmark hopen hword halign hidle
  have hgang := State.tryGang_eq (s := s.issuing i) (k := i.home) (v := 0) hmark hword halign (by simpa using hidle)
  exact ⟨_, rfl, hopen.issue_modMembers (State.try_of_gang hop hgang)⟩

/-- Settles O12: a plain SWAP is one exchange in every member; that of an output-stationary set comes after the drain's
work has joined the origin's. -/
theorem swapExchangesOrDrains : Obligations.SwapExchangesOrDrains := by
  refine ⟨fun s i hop hmark hopen hfault hres hfields hmode hdrain => ?_,
    fun s i hop hmark hopen hfault hres hmode hfmt hsr hconflict hexit huse hdrain hfree => ?_⟩
  · have hswap := State.trySwap_of_plain (s := s.issuing i) (no := s.issueNo) (k := i.home) (v := 0)
      (g := s.gangAt i) (State.issuing_gangOf ..) hmark (by simpa using hfault) hres hfields (by simpa using hmode)
      (by simpa only [State.issuing_arr] using hdrain)
    exact ⟨_, rfl, hopen.issue_modMembers (State.try_of_swap hop hswap)⟩
  · have hready : DrainReady (s.issuing i) s.issueNo i.home i (s.gangAt i) _ _ _ := ⟨State.issuing_gangOf .., rfl, rfl,
      rfl, hmark, by simpa using hfault, hres, by simpa using hmode, hfmt, by simpa using hsr, hconflict, by simpa using hexit,
      by simpa using huse, by simpa only [State.issuing_arr] using hdrain, by simpa using hfree⟩
    obtain ⟨m, hbooks, u, hu, hswap⟩ := State.trySwap_of_drain 0 hready
    have hhome : i.home = (s.gangAt i).origin := State.gangFault_none hfault
    obtain ⟨hissue, hframe, hscratch⟩ := hopen.issue_eq (State.try_of_swap hop hswap) (hbooks.scratchStays.trans
      ((State.modArr_scratchStays ..).trans ((State.modArr_scratchStays ..).trans (State.modMembers_scratchStays ..))))
    obtain ⟨hd, hw, hset, hn, hseq, hf, hst, ho⟩ := hu
    rw [State.issuing_arr, ← hhome] at hset hseq
    refine ⟨_, u, congrArg Host.Outcome.next hissue, hframe, hscratch, ⟨hd, hw, hset, hn, hseq, hf, hst, ho⟩,
      fun k b => ?_⟩
    rw [State.progressed_arr, State.arr_modMembers_modArr, hhome, State.arr_modArr_at, hbooks.arrs, State.issuing_arr]
    by_cases horigin : k = (s.gangAt i).origin ∧ b = (s.gangAt i).arr
    · simp only [if_pos horigin]
      rfl
    · simp only [if_neg horigin]
      rfl

/-- Settles O13: the members take the mode of the pass, the origin takes a sequence number, and the books and the work
come only with a COUNT above 0. -/
theorem streamStartsPass : Obligations.StreamStartsPass := by
  intro s i hop hmark hopen hfault hword hsr hform hmode hpair hconflict hexit huse hwork hfree
  have hready : PassReady (s.issuing i) s.issueNo i.home i (s.gangAt i) _ _ _ := ⟨rfl, State.issuing_gangOf .., rfl, rfl,
    hmark, by simpa using hfault, hword, by simpa using hsr, hform, by simpa using hmode, by simpa using hpair, hconflict,
    by simpa using hexit, by simpa using huse, by simpa only [State.issuing_arr] using hwork, by simpa using hfree⟩
  obtain ⟨m, hbooks, u, hu, hstream⟩ := State.tryStream_eq 0 hready
  have hhome : i.home = (s.gangAt i).origin := State.gangFault_none hfault
  obtain ⟨hissue, hframe, hscratch⟩ :=
    hopen.issue_eq (State.try_of_stream hop hstream) (State.startPass_scratchStays u hbooks)
  obtain ⟨hd, hw, hset, hn, hseq, hf, hst, ho⟩ := hu
  rw [State.issuing_arr, ← hhome] at hset hseq
  refine ⟨_, u, congrArg Host.Outcome.next hissue, hframe, hscratch, ⟨hd, hw, hset, hn, hseq, hf, hst, ho⟩, ?_⟩
  rintro k b a ha
  rw [State.progressed_arr]
  refine (State.arr_startPass u hbooks k b ?_).trans (by rw [hhome])
  rw [ha, State.arr_modMembers, State.issuing_arr, State.issuing_arr]
  rfl
end

section
/-! SUPPORT. The vectors of a pass and the rows of a drain (R55, R74, R97): what their reads, results, checks and records
leave of every array, and how the work of an array ends, goes on or stalls. -/
namespace Sys2Proof.Machine

/-! ### Events leave the cloves (R420, R424, R426) -/

@[simp] theorem State.voidReq_cloves (s : State) (l code cls part seq : Nat) :
    (s.voidReq l code cls part seq).cloves = s.cloves := by
  unfold State.voidReq
  split <;> rfl

@[simp] theorem State.queueAbort_cloves (s : State) (l code cls seq : Nat) (b : Bool) :
    (s.queueAbort l code cls seq b).cloves = s.cloves := by
  unfold State.queueAbort
  split
  · split <;> rfl
  · rfl

@[simp] theorem State.contain_cloves (s : State) (c : Code) (part seq : Nat) : (s.contain c part seq).cloves = s.cloves := by
  unfold State.contain
  extract_lets l
  split
  · rfl
  · split
    · simp
    · split
      · split <;> simp
      · rfl

@[simp] theorem State.event_cloves (s : State) (c : Code) (part h0 h1 w2 w3 : Nat) :
    (s.event c part h0 h1 w2 w3).cloves = s.cloves := by
  unfold State.event
  split
  · rfl
  · simp

@[simp] theorem State.cloveEvent_cloves (s : State) (c : Code) (x y engine value : Nat) :
    (s.cloveEvent c x y engine value).cloves = s.cloves :=
  s.event_cloves ..

@[simp] theorem State.cloveEventOn_cloves (s : State) (c : Code) (x y engine value : Nat) (names : List Nat) :
    (s.cloveEventOn c x y engine value names).cloves = s.cloves :=
  State.cloveEvent_cloves ..

@[simp] theorem State.countField_cloves (s : State) (x y n k : Nat) : (s.countField x y n k).cloves = s.cloves := by
  unfold State.countField
  split
  · rfl
  · split <;> rfl

/-! ### Words and regions of a clove (R159, R171, R173) -/

/-- Of a clove, its words and regions alone may differ. -/
def Clove.DataOnly (c d : Clove) : Prop := d = { c with scratch := d.scratch, scrubQ := d.scrubQ, regions := d.regions }

namespace Clove.DataOnly
variable {c d e : Clove}

theorem refl (c : Clove) : DataOnly c c := rfl

theorem trans (h : DataOnly c d) (g : DataOnly d e) : DataOnly c e := by
  unfold DataOnly at *
  rw [g, h]

theorem arr (h : DataOnly c d) (b : Bool) : d.arr b = c.arr b := by
  rw [h]
  rfl

theorem foldl {β : Type} {f : Clove → β → Clove} {l : List β} (h : ∀ c x, DataOnly c (f c x)) (c : Clove) :
    DataOnly c (l.foldl f c) := by
  induction l generalizing c with
  | nil => exact refl c
  | cons x l ih => exact (h c x).trans (ih _)

theorem ite {p : Prop} [Decidable p] (h : DataOnly c d) (g : DataOnly c e) : DataOnly c (if p then d else e) := by
  split
  · exact h
  · exact g

end Clove.DataOnly

theorem Clove.putWord_dataOnly (c : Clove) (a : Nat) (d : W64) (m : Bool) : DataOnly c (c.putWord a d m) := rfl

theorem Clove.setRegion_dataOnly (c : Clove) (r : Nat) (v : Region) : DataOnly c (c.setRegion r v) := rfl

theorem Clove.putWords_dataOnly (ws : List (W64 × Bool)) : ∀ (c : Clove) (a : Nat), DataOnly c (c.putWords a ws) := by
  induction ws with
  | nil => exact fun c _ => .refl c
  | cons w ws ih => exact fun c a => (c.putWord_dataOnly a w.1 w.2).trans (ih _ _)

theorem Clove.flushHeld_dataOnly (c : Clove) (rn : Nat) (f : Nat → Bool) : DataOnly c (c.flushHeld rn f) :=
  (DataOnly.foldl (fun c _ => c.putWord_dataOnly ..) c).trans (setRegion_dataOnly ..)

theorem Clove.putVec_dataOnly (c : Clove) (rn code : Nat) (es : List (Option (Nat × Bool))) (scale : Nat) :
    DataOnly c (c.putVec rn code es scale) := by
  unfold Clove.putVec
  extract_lets _ _ _ r1 _ _ r2 c1 c2
  have h1 : DataOnly c c1 := c.setRegion_dataOnly ..
  have h2 : DataOnly c1 c2 := .ite (c1.flushHeld_dataOnly ..) (.ite (.refl c1) (c1.flushHeld_dataOnly ..))
  exact (h1.trans h2).trans (c2.setRegion_dataOnly ..)

theorem Clove.statRow_dataOnly (c : Clove) (d : Epi) (m : Nat) (terms : List (Piece × Val × Bool × Bool)) :
    DataOnly c (c.statRow d m terms) :=
  .ite (.refl c) (c.putWords_dataOnly ..)

/-! ### Arrays that stay (R80) -/

/-- In every array, f reads in t as in s. -/
structure SameArrays {α : Type} (f : ArrayUnit → α) (s t : State) : Prop where
  arr : ∀ k b, f (t.arr k b) = f (s.arr k b)

namespace SameArrays
variable {α : Type} {f : ArrayUnit → α} {a b c : State}

theorem refl (s : State) : SameArrays f s s := ⟨fun _ _ => rfl⟩

theorem trans (h : SameArrays f a b) (g : SameArrays f b c) : SameArrays f a c := ⟨fun k x => (g.arr k x).trans (h.arr k x)⟩

theorem of_cloves (h : b.cloves = a.cloves) : SameArrays f a b := ⟨fun k x => by
  rw [State.arr, State.clove, h]
  rfl⟩

theorem ite {p : Prop} [Decidable p] (h : SameArrays f a b) (g : SameArrays f a c) : SameArrays f a (if p then b else c) := by
  split
  · exact h
  · exact g

/-- The same, the later part first. -/
theorem after (g : SameArrays f b c) (h : SameArrays f a b) : SameArrays f a c := h.trans g

theorem of_fst {β : Type} {x : β} {p : State × β} (e : p = (b, x)) (h : SameArrays f a p.1) : SameArrays f a b := by
  rwa [e] at h

theorem of_snd {β : Type} {x : β} {p : β × State} (e : p = (x, b)) (h : SameArrays f a p.2) : SameArrays f a b := by
  rwa [e] at h

/-- A fold over what carries a state. -/
theorem foldl_on {β γ : Type} (state : β → State) {step : β → γ → β} {l : List γ}
    (h : ∀ x y, SameArrays f (state x) (state (step x y))) (x : β) : SameArrays f (state x) (state (l.foldl step x)) := by
  induction l generalizing x with
  | nil => exact refl _
  | cons y l ih => exact (h x y).trans (ih _)

theorem foldl {γ : Type} {step : State → γ → State} {l : List γ} (h : ∀ s y, SameArrays f s (step s y)) (s : State) :
    SameArrays f s (l.foldl step s) :=
  foldl_on id h s

theorem foldl_fst {β γ : Type} {step : State × β → γ → State × β} {l : List γ}
    (h : ∀ x y, SameArrays f x.1 (step x y).1) (x : State × β) : SameArrays f x.1 (l.foldl step x).1 :=
  foldl_on Prod.fst h x

theorem foldl_snd {β γ : Type} {step : β × State → γ → β × State} {l : List γ}
    (h : ∀ x y, SameArrays f x.2 (step x y).2) (x : β × State) : SameArrays f x.2 (l.foldl step x).2 :=
  foldl_on Prod.snd h x

end SameArrays

section
variable {α : Type} {f : ArrayUnit → α} (s : State)

theorem State.setClove_sameArrays {k : Nat} {c : Clove} (h : ∀ b, c.arr b = (s.clove k).arr b) :
    SameArrays f s (s.setClove k c) := by
  refine ⟨fun m b => ?_⟩
  unfold State.arr
  by_cases hm : k = m
  · subst hm
    rw [State.clove_setClove_self, h]
  · rw [State.clove_setClove_ne _ _ hm]

theorem State.modClove_sameArrays {k : Nat} {g : Clove → Clove} (h : ∀ c b, (g c).arr b = c.arr b) :
    SameArrays f s (s.modClove k g) :=
  s.setClove_sameArrays (h _)

theorem State.modArr_sameArrays {k : Nat} {b : Bool} {g : ArrayUnit → ArrayUnit} (h : ∀ a, f (g a) = f a) :
    SameArrays f s (s.modArr k b g) := by
  refine ⟨fun m x => ?_⟩
  rw [State.arr_modArr_at]
  split
  · exact h _
  · rfl

/-! ### Reads (R174, R185) -/

theorem State.quarantine_sameArrays (x y : Nat) : SameArrays f s (s.quarantine x y) := by
  unfold State.quarantine
  extract_lets c fd row s1 s2 was s3 now s4 _ s5
  have h1 : SameArrays f s s1 := s.modClove_sameArrays fun _ _ => rfl
  have h2 : SameArrays f s s2 := h1.trans (.of_cloves rfl)
  have h5 : SameArrays f s s5 := h2.trans (.of_cloves rfl)
  exact .ite (.refl s) (.ite h2 (.ite (h5.trans (.of_cloves (State.log_cloves ..))) h5))

theorem State.touch_sameArrays (k a : Nat) : SameArrays f s (s.touch k a) := by
  unfold State.touch
  extract_lets c w x y t1 now _ c2 t2 t3
  have h1 : SameArrays f s t1 := .of_cloves rfl
  have hput : SameArrays f s (s.setClove k c2) := s.setClove_sameArrays fun _ => rfl
  have h2 : SameArrays f s t2 := hput.trans (.of_cloves rfl)
  have h3 : SameArrays f s t3 := h2.trans (.of_cloves (State.cloveEvent_cloves ..))
  exact .ite (.ite (h1.trans (t1.setClove_sameArrays fun _ => rfl)) h1)
    (.ite (.ite (h3.trans (t3.quarantine_sameArrays x y)) h3) (.refl s))

theorem State.touchAll_sameArrays (k : Nat) (as : List Nat) : SameArrays f s (s.touchAll k as) :=
  .foldl (fun s a => s.touch_sameArrays k a) s

theorem State.credit_sameArrays (k : Nat) (r : Region) (n : Nat) : ∀ s : State, SameArrays f s (s.credit k r n) := by
  induction n with
  | zero => exact .refl
  | succ n ih => exact fun s => .ite (.refl s) ((ih _).after (.of_cloves rfl))

theorem State.putRegion_sameArrays (k rn : Nat) (r : Region) (released : Nat) : SameArrays f s (s.putRegion k rn r released) :=
  (State.credit_sameArrays ..).after (s.modClove_sameArrays fun _ _ => rfl)

theorem State.takeVec_sameArrays (k rn : Nat) (os : Bool) (code : Nat) (live : BitVec 16) :
    SameArrays f s (s.takeVec k rn os code live).2 :=
  (s.touchAll_sameArrays ..).trans (State.putRegion_sameArrays ..)

theorem State.takeVecs_sameArrays (rn : Nat) (os : Bool) (code : Nat) (ks : List (Nat × BitVec 16)) :
    SameArrays f s (s.takeVecs rn os code ks).2 := by
  refine SameArrays.foldl_snd (fun _ _ => ?_) ([], s)
  exact State.takeVec_sameArrays ..

/-! ### Results (R95, R119) -/

theorem State.exitRow_sameArrays (e : Exit) (k n0 m : Nat) (fill : Nat → Option Val) (res : List (Option (Val × Bool))) :
    SameArrays f s (s.exitRow e k n0 m fill res).2 := by
  unfold State.exitRow
  cases e.acc with
  | true => exact s.takeVec_sameArrays ..
  | false => exact .refl s

theorem State.exitWrite_sameArrays (e : Exit) (m : Nat) (scale : Byte) (rng : W32) (r : ExitRow) :
    SameArrays f s (s.exitWrite e m scale rng r).1 := by
  unfold State.exitWrite
  extract_lets _ d _ _ x y
  clear_value d
  split
  next ds rng' _ =>
    extract_lets cs live s1 s2 c1 c2
    have h2 : SameArrays f s s2 := .of_cloves ((State.countField_cloves ..).trans (State.countField_cloves ..))
    have hput : Clove.DataOnly (s2.clove r.k) c1 := Clove.putVec_dataOnly ..
    have hstat : Clove.DataOnly c1 c2 := by
      cases d with
      | none => exact .refl c1
      | some d => exact .ite (c1.statRow_dataOnly ..) (.refl c1)
    exact h2.trans (s2.setClove_sameArrays (hput.trans hstat).arr)

theorem State.epilogue_sameArrays (e : Exit) (pair : Bool) (m : Nat) (fill : Nat → Option Val) (rng : SMap W32)
    (rows : List (Nat × Nat × Nat × List (Option (Val × Bool)))) :
    SameArrays f s (s.epilogue e pair m fill rng rows).1 := by
  unfold State.epilogue
  extract_lets st
  have hrows : SameArrays f s st.2 := by
    refine SameArrays.foldl_snd (fun a q => ?_) ([], s)
    exact a.2.exitRow_sameArrays e q.2.1 q.2.2.1 m fill q.2.2.2
  refine hrows.trans (SameArrays.foldl_fst (fun _ _ => ?_) (st.2, rng))
  exact State.exitWrite_sameArrays ..

/-! ### Checks (R73, R74) -/

theorem State.mismatch_sameArrays (g : Gang) (k : Nat) (c : Code) (seq : Nat) : SameArrays f s (s.mismatch g k c seq) := by
  unfold State.mismatch
  extract_lets b x y s1 t s2
  have h1 : SameArrays f s s1 := .of_cloves ((State.countField_cloves ..).trans (State.cloveEventOn_cloves ..))
  have h2 : SameArrays f s s2 := h1.trans (s1.modClove_sameArrays fun _ _ => rfl)
  exact .ite (h2.trans (s2.quarantine_sameArrays x y)) h2

theorem State.report_sameArrays (g : Gang) (seq : Nat) (cs : List (Nat × Check)) : SameArrays f s (s.report g seq cs) := by
  refine .foldl (fun s c => ?_) s
  split
  · exact .refl s
  · exact .of_cloves (State.countField_cloves ..)
  · exact s.mismatch_sameArrays ..
  · exact s.mismatch_sameArrays ..

/-! ### The register sets of a work (R55, R74) -/

@[simp] theorem ArrayUnit.putSet_work (a : ArrayUnit) (i : Bool) (r : RegSet) : (a.putSet i r).work = a.work := by
  cases i <;> rfl

@[simp] theorem ArrayUnit.setOf_putSet_self (a : ArrayUnit) (i : Bool) (r : RegSet) : (a.putSet i r).setOf i = r := by
  cases i <;> rfl

theorem State.modSet_sameWork (k : Nat) (b i : Bool) (f : RegSet → RegSet) : SameArrays ArrayUnit.work s (s.modSet k b i f) :=
  s.modArr_sameArrays fun a => a.putSet_work ..

end

/-! ### Works put back and ended (R80, R97) -/

theorem State.work_putWork (s : State) (k : Nat) (b : Bool) (u : Work) :
    ((s.putWork k b u).arr k b).work = (s.arr k b).work.map (fun v => if v.owner = u.owner then u else v) := by
  rw [State.putWork, State.arr_modArr_at, if_pos ⟨rfl, rfl⟩]

theorem State.eq_of_mem_putWork {s : State} {k : Nat} {b : Bool} {u v : Work} (hv : v ∈ ((s.putWork k b u).arr k b).work)
    (ho : v.owner = u.owner) : v = u := by
  rw [State.work_putWork] at hv
  obtain ⟨w, -, rfl⟩ := List.mem_map.1 hv
  split
  · rfl
  next hw => exact absurd (by rwa [if_neg hw] at ho) hw

theorem State.mem_putWork {s : State} {k : Nat} {b : Bool} {u w : Work} (hw : w ∈ (s.arr k b).work) (ho : w.owner = u.owner) :
    u ∈ ((s.putWork k b u).arr k b).work := by
  rw [State.work_putWork]
  exact List.mem_map.2 ⟨w, hw, if_pos ho⟩

theorem State.owner_ne_of_mem_endWork {s : State} {k : Nat} {b : Bool} {u v : Work} {us : List Use}
    (hv : v ∈ ((s.endWork k b u us).arr k b).work) : v.owner ≠ u.owner := by
  rw [State.endWork, State.arr_modArr_at, if_pos ⟨rfl, rfl⟩] at hv
  simpa using (List.mem_filter.1 hv).2

/-! ### The next vector of a pass (R74, R97) -/

/-- A work as it goes on from one of its vectors. -/
structure Work.Follows (u v : Work) : Prop where
  next : v.next = u.next + 1
  word : v.word = u.word
  seq : v.seq = u.seq
  setIdx : v.setIdx = u.setIdx
  owner : v.owner = u.owner
  stalled : v.stalled = false

/-- A pass after one of its vectors: it goes on as v, or ends with its last. -/
def State.goOn (s : State) (g : Gang) (u v : Work) (us : List Use) : State :=
  if v.next ≥ (StreamOp.ofWord u.word).count.toNat then s.endWork g.origin g.arr u us else s.putWork g.origin g.arr v

theorem State.runVector_goesOn (s : State) (g : Gang) (u : Work) (ups : List Upset) :
    ∃ t v, SameArrays ArrayUnit.work s t ∧ u.Follows v ∧
      s.runVector g u ups = t.goOn g u v (s.streamUses g u.setIdx (StreamOp.ofWord u.word)) := by
  unfold State.runVector
  extract_lets _ _ _ us _
  split
  next s1 hread =>
    extract_lets _ _ found chk bad s2 s3 es rows
    split
    next s4 rng hout =>
      extract_lets v
      have h1 : SameArrays ArrayUnit.work s s1 := .of_snd hread (s.takeVecs_sameArrays ..)
      have h2 : SameArrays ArrayUnit.work s1 s2 := .foldl (fun s _ => s.modSet_sameWork ..) s1
      have h3 : SameArrays ArrayUnit.work s2 s3 := s2.report_sameArrays ..
      have h4 : SameArrays ArrayUnit.work s3 s4 := .of_fst hout (s3.epilogue_sameArrays ..)
      exact ⟨s4, v, h1.trans (h2.trans (h3.trans h4)), ⟨rfl, rfl, rfl, rfl, rfl, rfl⟩, rfl⟩

theorem State.runReduction_goesOn (s : State) (g : Gang) (u : Work) (ups : List Upset) :
    ∃ t v, SameArrays ArrayUnit.work s t ∧ u.Follows v ∧
      s.runReduction g u ups = t.goOn g u v (s.streamUses g u.setIdx (StreamOp.ofWord u.word)) := by
  unfold State.runReduction
  extract_lets _ _ us _ _ par v
  split
  next s1 hread =>
    split
    next s2 hread' =>
      extract_lets s3 s4 s5
      have h1 : SameArrays ArrayUnit.work s s1 := .of_snd hread (s.takeVecs_sameArrays ..)
      have h2 : SameArrays ArrayUnit.work s1 s2 := .of_snd hread' (s1.takeVecs_sameArrays ..)
      have h3 : SameArrays ArrayUnit.work s2 s3 := .foldl (fun s _ => s.modSet_sameWork ..) s2
      have h5 : SameArrays ArrayUnit.work s3 s5 :=
        .ite (.refl s3) ((s3.report_sameArrays ..).trans (.foldl (fun s _ => s.modSet_sameWork ..) s4))
      exact ⟨s5, v, h1.trans (h2.trans (h3.trans h5)), ⟨rfl, rfl, rfl, rfl, rfl, rfl⟩, rfl⟩

/-- An array whose sources and destinations are ready for the next vector of its oldest pass. -/
theorem State.retire_goesOn {s : State} {k : Nat} {b : Bool} {ups : List Upset} {u : Work}
    (hfind : (s.arr k b).work.find? (fun v => !v.drain) = some u)
    (hready : (s.streamUses (s.gangOf k b) u.setIdx (StreamOp.ofWord u.word)).all (s.useReady u.owner) = true) :
    ∃ t v, SameArrays ArrayUnit.work s t ∧ u.Follows v ∧ s.retire k b ups =
      t.goOn (s.gangOf k b) u v (s.streamUses (s.gangOf k b) u.setIdx (StreamOp.ofWord u.word)) := by
  have hretire : s.retire k b ups = if (StreamOp.ofWord u.word).mode = 2 then s.runReduction (s.gangOf k b) u ups
      else s.runVector (s.gangOf k b) u ups := by
    simp only [State.retire, hfind, hready, if_true]
  rw [hretire]
  split
  · exact s.runReduction_goesOn ..
  · exact s.runVector_goesOn ..

theorem State.retire_stalls {s : State} {k : Nat} {b : Bool} {ups : List Upset} {u : Work}
    (hfind : (s.arr k b).work.find? (fun v => !v.drain) = some u)
    (hready : ¬ (s.streamUses (s.gangOf k b) u.setIdx (StreamOp.ofWord u.word)).all (s.useReady u.owner) = true) :
    s.retire k b ups = s.putWork k b { u with stalled := true } := by
  simp only [State.retire, hfind, if_neg hready]

/-- What a pass leaves of itself in its array: the work that follows, unless that was its last vector. -/
theorem State.work_goOn {s : State} {g : Gang} {u v w : Work} {us : List Use} (h : u.Follows v)
    (hw : w ∈ ((s.goOn g u v us).arr g.origin g.arr).work) (ho : w.owner = u.owner) :
    w = v ∧ v.next < (StreamOp.ofWord u.word).count.toNat := by
  unfold State.goOn at hw
  split at hw
  · exact absurd ho (State.owner_ne_of_mem_endWork hw)
  next hlast => exact ⟨State.eq_of_mem_putWork hw (ho.trans h.owner.symm), Nat.lt_of_not_le hlast⟩

theorem State.mem_goOn {s : State} {g : Gang} {u v : Work} {us : List Use} (h : u.Follows v)
    (hu : u ∈ (s.arr g.origin g.arr).work) (hlast : v.next < (StreamOp.ofWord u.word).count.toNat) :
    v ∈ ((s.goOn g u v us).arr g.origin g.arr).work := by
  rw [State.goOn, if_neg (Nat.not_le.2 hlast)]
  exact State.mem_putWork hu h.owner.symm

/-! ### The rows of a drain (R55, R97) -/

/-- No drain of a set is half done: its work has left and the set is zero in every member, or it stands stalled. -/
structure NotHalfDrained (g : Gang) (owner : Nat) (i : Bool) (t : State) : Prop where
  stalled : ∀ v ∈ (t.arr g.origin g.arr).work, v.owner = owner → v.stalled = true
  zeroed : (∀ v ∈ (t.arr g.origin g.arr).work, v.owner ≠ owner) → ∀ m ∈ g.members, t.setAt m g.arr i = RegSet.zero

/-- A drain that stalls is still there. -/
theorem State.putWork_notHalfDrained {s : State} {g : Gang} {u w : Work} (i : Bool) (hw : w ∈ (s.arr g.origin g.arr).work)
    (ho : w.owner = u.owner) (hst : u.stalled = true) : NotHalfDrained g u.owner i (s.putWork g.origin g.arr u) :=
  ⟨fun _ hv hvo => State.eq_of_mem_putWork hv hvo ▸ hst, fun hgone => absurd rfl (hgone u (State.mem_putWork hw ho))⟩

/-- A drain that has written its last row leaves, and its set is zeroed. -/
theorem State.endDrain_notHalfDrained (s : State) (g : Gang) (u : Work) (us : List Use) :
    NotHalfDrained g u.owner u.setIdx
      ((s.endWork g.origin g.arr u us).modMembers g (fun a => a.putSet u.setIdx RegSet.zero)) := by
  refine ⟨fun v hv ho => ?_, fun _ m hm => ?_⟩
  · rw [State.arr_modMembers, if_pos ⟨rfl, g.origin_mem⟩, ArrayUnit.putSet_work] at hv
    exact absurd ho (State.owner_ne_of_mem_endWork hv)
  · rw [State.setAt, State.arr_modMembers, if_pos ⟨rfl, hm⟩, ArrayUnit.setOf_putSet_self]

theorem State.drainRow_sameArrays {α : Type} {f : ArrayUnit → α} (s : State) (g : Gang) (u : Work) :
    SameArrays f s (s.drainRow g u).1 := by
  unfold State.drainRow
  extract_lets _ _ _ rows
  split
  next hout => exact .of_fst hout (s.epilogue_sameArrays ..)

/-- A drain after one of its rows. -/
theorem State.drainRow_work (s : State) (g : Gang) (u : Work) :
    ∃ rng, (s.drainRow g u).2 = { u with next := u.next + 1, rng := rng, stalled := false } := by
  unfold State.drainRow
  extract_lets _ _ _ rows
  split
  exact ⟨_, rfl⟩

/-- Fuel for each row that is left, and one more, brings a drain to its end or to a stall. -/
theorem State.drainRows_notHalfDrained {g : Gang} (n : Nat) : ∀ {s : State} {u w : Work}, g.rows ≤ u.next + n →
    w ∈ (s.arr g.origin g.arr).work → w.owner = u.owner → NotHalfDrained g u.owner u.setIdx (s.drainRows g u (n + 1)) := by
  induction n with
  | zero =>
    intro s u w hrows _ _
    rw [State.drainRows, if_pos (show u.next ≥ g.rows from hrows)]
    exact s.endDrain_notHalfDrained g u _
  | succ n ih =>
    intro s u w hrows hw ho
    rw [State.drainRows]
    split
    · exact s.endDrain_notHalfDrained g u _
    · split
      · have hsame := (s.drainRow_sameArrays (f := ArrayUnit.work) g u).arr g.origin g.arr
        obtain ⟨rng, hrow⟩ := s.drainRow_work g u
        rw [← hsame] at hw
        simp only [hrow]
        have hnext : g.rows ≤ u.next + 1 + n := by omega
        exact ih (u := { u with next := u.next + 1, rng := rng, stalled := false }) hnext hw ho
      · exact State.putWork_notHalfDrained (u := { u with stalled := true }) u.setIdx hw ho rfl

/-- The oldest work of an array, a drain whose destination is ready. -/
theorem State.drain_notHalfDrained {s : State} {k : Nat} {b : Bool} {ups : List Upset} {u : Work} {us : List Work}
    (hwork : (s.arr k b).work = u :: us) (hdrain : u.drain = true) (horigin : (s.gangOf k b).origin = k)
    (hready : (s.drainUses (s.gangOf k b) u.setIdx u.exit).all (s.useReady u.owner) = true) :
    NotHalfDrained (s.gangOf k b) u.owner u.setIdx (s.drain k b ups) := by
  have hu : u ∈ (s.arr (s.gangOf k b).origin (s.gangOf k b).arr).work := by
    rw [horigin]
    exact hwork ▸ List.mem_cons_self
  have hnot : (!u.drain) = false := by rw [hdrain, Bool.not_true]
  simp only [State.drain, hwork, hnot, hready, Bool.not_true, Bool.false_eq_true, if_false]
  split
  · exact State.drainRows_notHalfDrained _ (by omega) hu rfl
  · generalize hchecked : State.report _ _ _ _ = t
    have hsame : SameArrays ArrayUnit.work s t := hchecked ▸ (State.report_sameArrays ..).after
      ((SameArrays.foldl (fun s _ => s.modSet_sameWork ..) _).after (.foldl (fun s _ => s.modSet_sameWork ..) s))
    rw [← hsame.arr] at hu
    have hrows (failed : Bool) := State.drainRows_notHalfDrained (s := t) (g := s.gangOf k b) (u := { u with failed := failed })
      _ (Nat.le_add_left _ u.next) hu rfl
    generalize (u.failed || _) = failed
    exact hrows failed

theorem State.drain_stalls {s : State} {k : Nat} {b : Bool} {ups : List Upset} {u : Work} {us : List Work}
    (hwork : (s.arr k b).work = u :: us) (hdrain : u.drain = true)
    (hready : ¬ (s.drainUses (s.gangOf k b) u.setIdx u.exit).all (s.useReady u.owner) = true) :
    s.drain k b ups = s.putWork k b { u with stalled := true } := by
  simp only [State.drain, hwork, hdrain, hready, Bool.not_true, Bool.false_eq_true, if_false, Bool.not_false, if_true]

/-! ### PASS_STALL_RESUME (R97) -/

theorem State.unstall_spec (s : State) (k : Nat) (b : Bool) :
    s.unstall k b = { s with cloves := (s.unstall k b).cloves } ∧ ArraysOnly s (s.unstall k b) ∧
      (Quiet s → Quiet (s.unstall k b)) ∧ ∀ n c, (s.unstall k b).arr n c =
        if n = k ∧ c = b then
          { s.arr n c with work := (s.arr n c).work.map (fun u =>
            if u.stalled && (if u.drain then s.drainUses (s.gangOf n c) u.setIdx u.exit
              else s.streamUses (s.gangOf n c) u.setIdx (StreamOp.ofWord u.word)).all (s.useReady u.owner)
            then { u with stalled := false } else u) }
        else s.arr n c := by
  unfold State.unstall
  extract_lets g
  refine ⟨rfl, s.modArr_only _ _ _, fun q => q.modArr _ _ _, fun n c => ?_⟩
  rw [State.arr_modArr_at]
  refine if_ctx_congr Iff.rfl (fun h => ?_) fun _ => rfl
  rw [h.1, h.2]

end Sys2Proof.Machine
end

section
open Sys2Proof Sys2Proof.Machine

/-- Settles O14: a vector leaves its pass as `Work.Follows` says, the rows of a drain are written until it ends or stalls, by
induction on the rows left, and a resume is one change of one array. -/
theorem passesRetireAndStall : Obligations.PassesRetireAndStall := by
  refine ⟨fun s a ups u hfind horigin => ⟨s.retire (cloveNo a.x a.y) a.arr ups, rfl, ?_⟩,
    fun s a ups u us hwork hdrain horigin => ⟨s.drain (cloveNo a.x a.y) a.arr ups, rfl, ?_⟩, fun s a hquiet => ?_⟩
  · split
    next hready =>
      obtain ⟨t, v, hsame, hv, hretire⟩ := State.retire_goesOn (ups := ups) hfind hready
      have hu : u ∈ (t.arr (cloveNo a.x a.y) a.arr).work := hsame.arr .. ▸ List.mem_of_find?_eq_some hfind
      rw [hretire]
      generalize s.streamUses _ _ _ = vs
      have hleft {w : Work} := State.work_goOn (s := t) (g := s.gangOf (cloveNo a.x a.y) a.arr) (us := vs) (w := w) hv
      have hstays := State.mem_goOn (s := t) (g := s.gangOf (cloveNo a.x a.y) a.arr) (us := vs) hv
      rw [horigin] at hleft hstays
      refine ⟨fun w hw ho => ?_, fun hlast => ⟨v, hstays hu (hv.next ▸ hlast), hv.owner⟩⟩
      obtain ⟨rfl, hlast⟩ := hleft hw ho
      exact ⟨hv.next, hlast, hv.word, hv.seq, hv.setIdx, hv.stalled⟩
    next hready => exact State.retire_stalls hfind hready
  · split
    next hready =>
      obtain ⟨hstalled, hzeroed⟩ := State.drain_notHalfDrained (ups := ups) hwork hdrain horigin hready
      rw [horigin] at hstalled hzeroed
      exact ⟨hstalled, hzeroed⟩
    next hready => exact State.drain_stalls hwork hdrain hready
  · obtain ⟨hframe, honly, hquiets, harr⟩ := s.unstall_spec (cloveNo a.x a.y) a.arr
    exact ⟨_, congrArg Host.Outcome.next (hquiets hquiet).settle, hframe, honly, harr⟩
end

section
/-! SUPPORT. LOAD at issue (R51, R84, R85): each member takes what its own words read at the start, for the writes of the other
members leave every scratchpad as it was. -/
namespace Sys2Proof.Machine

/-! ### What a LOAD reads -/

theorem LoadOp.source_congr (o : LoadOp) {c d : Clove} (h : c.get = d.get) : o.source c = o.source d := by
  funext i j
  unfold LoadOp.source
  rw [h]

theorem LoadOp.setOf_congr (o : LoadOp) {c d : Clove} (h : c.get = d.get) : o.setOf c = o.setOf d := by
  funext rows cols marked loads
  unfold LoadOp.setOf
  rw [o.source_congr h]

theorem LoadOp.live_congr (o : LoadOp) {s t : State} (g : Gang) {k : Nat} (h : (s.clove k).get = (t.clove k).get) :
    o.live s g k = o.live t g k := by
  unfold LoadOp.live Clove.maskBits
  rw [h]

theorem State.issuing_arraysOnly (s : State) (i : Issue) : ArraysOnly s (s.issuing i) := fun k => by
  rw [State.issuing_clove]

/-! ### What a LOAD writes -/

/-- An array of member k as a LOAD leaves it, by the words that k's scratchpad has in s. -/
def State.loaded (s : State) (o : LoadOp) (g : Gang) (k : Nat) (a : ArrayUnit) : ArrayUnit :=
  { a.putSet (!a.fg) (o.setOf (s.clove k) (o.live s g k).1 (o.live s g k).2
      ((o.maskWords g k).any fun w => ((s.clove k).get w).2) a.loads) with loads := a.loads + 1 }

/-- A LOAD of one member, in a state that may differ in arrays from the one in which every word reads without an error. -/
theorem State.loadMember_eq {s t : State} {k : Nat} (h : ArraysOnly s t) (hclean : ∀ a, ((s.clove k).word a).ecc = 0)
    (o : LoadOp) (g : Gang) (any : Bool) : t.loadMember o g any k = t.modArr k g.arr (s.loaded o g k) := by
  have htouch (as : List Nat) : t.touchAll k as = t := t.touchAll_id k as fun a => by rw [h.word]; exact hclean a
  have hget : (t.clove k).get = (s.clove k).get := funext (h.get k)
  have hread : t.loadTouch o g k any = t := by
    cases any <;> simp [State.loadTouch, htouch]
  unfold State.loadMember
  simp only [hread, o.live_congr g hget, o.setOf_congr hget, hget]
  rfl

theorem State.foldl_loadMember {s : State} (o : LoadOp) (g : Gang) (any : Bool) (ms : List Nat)
    (hclean : ∀ m ∈ ms, ∀ a, ((s.clove m).word a).ecc = 0) {t : State} (h : ArraysOnly s t) :
    ms.foldl (fun t m => t.loadMember o g any m) t = ms.foldl (fun t m => t.modArr m g.arr (s.loaded o g m)) t := by
  induction ms generalizing t with
  | nil => rw [List.foldl_nil, List.foldl_nil]
  | cons m ms ih =>
    rw [List.foldl_cons, List.foldl_cons, State.loadMember_eq h (hclean m List.mem_cons_self)]
    exact ih (fun n hn => hclean n (List.mem_cons_of_mem _ hn)) (h.trans (t.modArr_only _ _ _))

/-! ### At issue -/

theorem State.try_of_load {s t : State} {no k v : Nat} {i : Issue} (hop : fieldOf i.word 3 0 = 2)
    (h : s.tryLoad k v i = some t) : s.try no k v i = (t, true) := by
  simp [State.try, hop, h]

/-- LOAD that no rule refuses, of a background set that nothing uses, from ranges to which no write is pending. -/
theorem State.tryLoad_eq {s : State} {k v : Nat} {i : Issue} {g : Gang}
    (hgang : s.gangOf k ((LoadOp.ofWord i.word).arr == 1) = g) (hmark : i.mark = false) (hfault : s.gangFault k g = none)
    (hword : LoadOp.badWord i.word g = false)
    (hidle : (s.arr k g.arr).work.any (fun u => u.setIdx == !(s.arr k g.arr).fg) = false)
    (hfree : ∀ m ∈ g.members, ∀ r ∈ (LoadOp.ofWord i.word).plain g, (s.clove m).busyRange r.1 r.2 = false) :
    ∃ any, s.tryLoad k v i = some (g.members.foldl (fun t m => t.loadMember (LoadOp.ofWord i.word) g any m) s) := by
  have harr : ((LoadOp.ofWord i.word).arr == 1) = g.arr := hgang ▸ rfl
  have hranges : (g.members.any fun m => ((LoadOp.ofWord i.word).plain g).any fun r => (s.clove m).busyRange r.1 r.2) = false :=
    List.any_eq_false.2 fun m hm => by simpa using fun x y hr => hfree m hm (x, y) hr
  rw [harr] at hgang
  refine ⟨g.members.any fun m => ((LoadOp.ofWord i.word).live s g m).1 ≠ 0, ?_⟩
  unfold State.tryLoad
  simp only [harr, hgang, hmark, hfault, hword, hidle, hranges, Bool.false_eq_true, if_false]

end Sys2Proof.Machine
end

section
open Sys2Proof Sys2Proof.Machine

/-- Settles O11: the members are loaded one after the other, each as `State.loaded` says of the state at issue. -/
theorem loadWritesBackground : Obligations.LoadWritesBackground := by
  intro s i hop hmark hopen hfault hword hidle hfree hclean
  obtain ⟨any, hload⟩ := State.tryLoad_eq (s := s.issuing i) (k := i.home) (v := 0) (g := s.gangAt i)
    (State.issuing_gangOf ..) hmark (by simpa using hfault) hword (by simpa only [State.issuing_arr] using hidle)
    (by simpa only [State.issuing_clove] using hfree)
  rw [State.foldl_loadMember _ _ _ _ hclean (s.issuing_arraysOnly i)] at hload
  obtain ⟨harr, honly, hframe, hquiet⟩ := foldl_modArr (s.gangAt i).arr (s.loaded (LoadOp.ofWord i.word) (s.gangAt i))
    (s.gangAt i).members (s.gangAt i).members_nodup (s.issuing i)
  obtain ⟨hissue, hcloves, -⟩ := hopen.issue_eq (State.try_of_load hop hload) ⟨hframe, honly.scratch, hquiet⟩
  refine ⟨_, congrArg Host.Outcome.next hissue, hcloves, honly.of_issuing _, fun k b => ?_⟩
  rw [State.progressed_arr, harr, State.issuing_arr]
  rfl
end

section
/-! SUPPORT. The operand layouts of clove instructions (R7, R82): each as the parts of its word, the lowest first, and what
follows for every layout from its parts alone. -/
namespace Sys2Proof.Machine

/-! ### Words made of slots (R7) -/

/-- A slot of a word: its width, and the bits that stand in it. -/
abbrev Slot := Σ n, BitVec n

/-- The bits of slots one above the other, the lowest first. -/
def joined : List Slot → Slot
  | [] => ⟨0, 0⟩
  | [s] => s
  | s :: t :: ts => ⟨(joined (t :: ts)).1 + s.1, (joined (t :: ts)).2 ++ s.2⟩

/-- The slots stand in a word one above the other, from bit lo up. -/
def Laid {n : Nat} (w : BitVec n) : Nat → List Slot → Prop
  | _, [] => True
  | lo, s :: ss => w.extractLsb' lo s.1 = s.2 ∧ Laid w (lo + s.1) ss

theorem laid_append {m n : Nat} (x : BitVec m) (y : BitVec n) (lo : Nat) (ss : List Slot) :
    Laid (x ++ y) (lo + n) ss ↔ Laid x lo ss := by
  induction ss generalizing lo with
  | nil => rfl
  | cons s ss ih =>
    rw [Laid, Laid, Nat.add_right_comm, ih, BitVec.extractLsb'_append_eq_of_le (Nat.le_add_left ..), Nat.add_sub_cancel]

theorem joined_width (ss : List Slot) : (joined ss).1 = (ss.map Sigma.fst).sum := by
  induction ss with
  | nil => rfl
  | cons s ss ih =>
    cases ss with
    | nil => rfl
    | cons t ts => exact (congrArg (· + s.1) ih).trans (Nat.add_comm ..)

theorem laid_joined (ss : List Slot) : Laid (joined ss).2 0 ss := by
  induction ss with
  | nil => trivial
  | cons s ss ih =>
    cases ss with
    | nil => exact ⟨BitVec.extractLsb'_eq_self, trivial⟩
    | cons t ts => exact ⟨BitVec.extractLsb'_append_eq_right, (laid_append _ s.2 0 _).2 ih⟩

theorem Laid.getLsbD_eq {n : Nat} {a b : BitVec n} {ss : List Slot} {lo i : Nat} (ha : Laid a lo ss) (hb : Laid b lo ss)
    (hlo : lo ≤ i) (hi : i < lo + (ss.map Sigma.fst).sum) : a.getLsbD i = b.getLsbD i := by
  induction ss generalizing lo with
  | nil => exact absurd hi (Nat.not_lt.2 hlo)
  | cons s ss ih =>
    obtain ⟨hsa, ha⟩ := ha
    obtain ⟨hsb, hb⟩ := hb
    rw [List.map_cons, List.sum_cons, ← Nat.add_assoc] at hi
    by_cases hs : i < lo + s.1
    · have hbit := congrArg (fun x => x.getLsbD (i - lo)) (hsa.trans hsb.symm)
      have hwidth : i - lo < s.1 := by omega
      simpa [hwidth, Nat.add_sub_cancel' hlo] using hbit
    · exact ih ha hb (Nat.not_lt.1 hs) hi

/-- Slots that fill a word determine it. -/
theorem Laid.eq {n : Nat} {a b : BitVec n} {ss : List Slot} (ha : Laid a 0 ss) (hb : Laid b 0 ss)
    (hfill : (ss.map Sigma.fst).sum = n) : a = b :=
  BitVec.eq_of_getLsbD_eq fun i hi => ha.getLsbD_eq hb (Nat.zero_le i) (by rwa [hfill, Nat.zero_add])

/-! ### Layouts (R82) -/

/-- A part of a layout, with what stands in it: an operand, reserved bits, or the opcode. -/
inductive LayoutPart where
  | operand {n : Nat} (v : BitVec n)
  | reserved (n : Nat)
  | opcode (v : BitVec 4)

/-- The slot that a part fills. -/
def LayoutPart.slot : LayoutPart → Slot
  | .operand v => ⟨_, v⟩
  | .reserved n => ⟨n, 0⟩
  | .opcode v => ⟨4, v⟩

/-- A word carries the operands of a layout, whose parts begin at bit lo. -/
def Carries (w : W128) : Nat → List LayoutPart → Prop
  | _, [] => True
  | lo, .operand (n := n) v :: ps => w.extractLsb' lo n = v ∧ Carries w (lo + n) ps
  | lo, .reserved n :: ps => Carries w (lo + n) ps
  | lo, .opcode _ :: ps => Carries w (lo + 4) ps

/-- A word has the opcode of a layout, whose parts begin at bit lo. -/
def HasOpcode (w : W128) : Nat → List LayoutPart → Prop
  | _, [] => True
  | lo, .operand (n := n) _ :: ps => HasOpcode w (lo + n) ps
  | lo, .reserved n :: ps => HasOpcode w (lo + n) ps
  | lo, .opcode v :: ps => w.extractLsb' lo 4 = v ∧ HasOpcode w (lo + 4) ps

/-- The n bits from bit lo up, as a mask. -/
def runMask (lo n : Nat) : W128 := (BitVec.allOnes n).setWidth 128 <<< lo

/-- The reserved bits of a layout, whose parts begin at bit lo, as a mask. -/
def reservedMask : Nat → List LayoutPart → W128
  | _, [] => 0
  | lo, .operand (n := n) _ :: ps => reservedMask (lo + n) ps
  | lo, .reserved n :: ps => runMask lo n ||| reservedMask (lo + n) ps
  | lo, .opcode _ :: ps => reservedMask (lo + 4) ps

theorem getLsbD_runMask (lo n i : Nat) :
    (runMask lo n).getLsbD i = (decide (i < 128) && decide (lo ≤ i) && decide (i < lo + n)) := by
  rw [runMask, BitVec.getLsbD_shiftLeft, BitVec.getLsbD_setWidth, BitVec.getLsbD_allOnes, Bool.eq_iff_iff]
  simp only [Bool.and_eq_true, Bool.not_eq_true', decide_eq_true_eq, decide_eq_false_iff_not]
  omega

/-- A word is zero under the mask of a run where the run is zero in it. -/
theorem and_runMask_eq_zero_iff (w : W128) (lo n : Nat) : w &&& runMask lo n = 0 ↔ w.extractLsb' lo n = 0 := by
  refine ⟨fun h => BitVec.eq_of_getLsbD_eq fun j hj => ?_, fun h => BitVec.eq_of_getLsbD_eq fun i hi => ?_⟩
  · have hbit := congrArg (fun x => x.getLsbD (lo + j)) h
    by_cases htop : lo + j < 128
    · simpa [-BitVec.getLsbD_eq_getElem, getLsbD_runMask, hj, htop] using hbit
    · simp [BitVec.getLsbD_of_ge w _ (Nat.not_lt.1 htop)]
  · by_cases hin : lo ≤ i ∧ i < lo + n
    · have hbit := congrArg (fun x => x.getLsbD (i - lo)) h
      have hwidth : i - lo < n := by omega
      have hzero : w.getLsbD i = false := by simpa [hwidth, Nat.add_sub_cancel' hin.1] using hbit
      simp [hzero]
    · have hout : (decide (lo ≤ i) && decide (i < lo + n)) = false := by simpa using hin
      simp [getLsbD_runMask, Bool.and_assoc, hout]

theorem and_or_eq_zero_iff (w a b : W128) : w &&& (a ||| b) = 0 ↔ w &&& a = 0 ∧ w &&& b = 0 := by
  rw [BitVec.and_or_distrib_left]
  exact BitVec.or_eq_zero_iff

/-- A layout stands in a word that carries its operands, has its reserved bits zero and has its opcode. -/
theorem laid_iff (w : W128) (lo : Nat) (ps : List LayoutPart) :
    Laid w lo (ps.map LayoutPart.slot) ↔ Carries w lo ps ∧ w &&& reservedMask lo ps = 0 ∧ HasOpcode w lo ps := by
  induction ps generalizing lo with
  | nil => simp [Laid, Carries, reservedMask, HasOpcode]
  | cons p ps ih =>
    rw [List.map_cons, Laid, ih]
    cases p with
    | operand v => exact and_assoc.symm
    | reserved n =>
      rw [reservedMask, and_or_eq_zero_iff, and_runMask_eq_zero_iff]
      exact ⟨fun ⟨h, hc, hr, ho⟩ => ⟨hc, ⟨h, hr⟩, ho⟩, fun ⟨hc, ⟨h, hr⟩, ho⟩ => ⟨h, hc, hr, ho⟩⟩
    | opcode v => exact ⟨fun ⟨h, hc, hr, ho⟩ => ⟨hc, hr, h, ho⟩, fun ⟨hc, hr, h, ho⟩ => ⟨h, hc, hr, ho⟩⟩

/-- A layout drops no bit: operands come back from their word, whose reserved bits are zero, and a word of the layout with
its reserved bits zero comes back from its operands. -/
structure RoundTrips {α : Type} (ofWord : W128 → α) (toWord : α → W128) (reserved : W128) (ofLayout : W128 → Prop) :
    Prop where
  operands : ∀ o, ofWord (toWord o) = o ∧ toWord o &&& reserved = 0
  words : ∀ w, w &&& reserved = 0 → ofLayout w → toWord (ofWord w) = w

/-- A layout whose parts make up the word, and whose operands are those that the word carries. -/
theorem RoundTrips.of_layout {α : Type} {ofWord : W128 → α} {toWord : α → W128} {reserved : W128}
    {ofLayout : W128 → Prop} (layout : α → List LayoutPart)
    (hword : ∀ o, joined ((layout o).map LayoutPart.slot) = ⟨128, toWord o⟩)
    (hmask : ∀ o, reservedMask 0 (layout o) = reserved) (hopcode : ∀ w o, ofLayout w → HasOpcode w 0 (layout o))
    (hread : ∀ w o, ofWord w = o ↔ Carries w 0 (layout o)) :
    RoundTrips ofWord toWord reserved ofLayout := by
  have hlaid (o : α) : Laid (toWord o) 0 ((layout o).map LayoutPart.slot) := by
    have hjoined := laid_joined ((layout o).map LayoutPart.slot)
    rwa [hword] at hjoined
  have hfill (o : α) : (((layout o).map LayoutPart.slot).map Sigma.fst).sum = 128 := by
    rw [← joined_width, hword]
  refine ⟨fun o => ?_, fun w hres how => ?_⟩
  · obtain ⟨hcarries, hres, -⟩ := (laid_iff _ 0 _).1 (hlaid o)
    exact ⟨(hread _ o).2 hcarries, hmask o ▸ hres⟩
  · have hw := (laid_iff w 0 _).2 ⟨(hread w _).1 rfl, (hmask _).symm ▸ hres, hopcode w _ how⟩
    exact (hlaid (ofWord w)).eq hw (hfill _)

/-! ### The layouts of the clove instructions (R83, R84, R87, R88, R142, R169, R180, R196, R223) -/

/-- GANG_CFG, Table 3.2 (R83). -/
def GangOp.layout (o : GangOp) : List LayoutPart :=
  [.opcode 1, .operand o.arr, .reserved 3, .operand o.shape, .operand o.form, .operand o.x0, .operand o.y0,
   .reserved 95]

theorem GangOp.ofWord_eq_iff (w : W128) (o : GangOp) : GangOp.ofWord w = o ↔ Carries w 0 o.layout := by
  cases o
  simp [GangOp.ofWord, GangOp.layout, Carries]

theorem GangOp.roundTrips : RoundTrips GangOp.ofWord GangOp.toWord GangOp.reserved (fun w => w.extractLsb' 0 4 = 1) :=
  .of_layout GangOp.layout (fun _ => rfl) (fun _ => by simp [layout, reservedMask, runMask, reserved])
    (fun _ _ h => ⟨h, trivial⟩) GangOp.ofWord_eq_iff

/-- LOAD, Table 3.3 (R84). -/
def LoadOp.layout (o : LoadOp) : List LayoutPart :=
  [.opcode 2, .operand o.arr, .operand o.mode, .operand o.fmt, .operand o.init, .operand o.msrc, .operand o.src,
   .operand o.mask, .operand o.klen, .operand o.nlen, .reserved 70]

theorem LoadOp.ofWord_eq_iff (w : W128) (o : LoadOp) : LoadOp.ofWord w = o ↔ Carries w 0 o.layout := by
  cases o
  simp [LoadOp.ofWord, LoadOp.layout, Carries]

theorem LoadOp.roundTrips : RoundTrips LoadOp.ofWord LoadOp.toWord LoadOp.reserved (fun w => w.extractLsb' 0 4 = 2) :=
  .of_layout LoadOp.layout (fun _ => rfl) (fun _ => by simp [layout, reservedMask, runMask, reserved])
    (fun _ _ h => ⟨h, trivial⟩) LoadOp.ofWord_eq_iff

/-- SWAP, Table 3.4 (R87). -/
def SwapOp.layout (o : SwapOp) : List LayoutPart :=
  [.opcode 3, .operand o.arr, .reserved 22, .operand o.dst, .operand o.ofmt, .operand o.acc, .operand o.accRgn,
   .operand o.epi, .reserved 84]

theorem SwapOp.ofWord_eq_iff (w : W128) (o : SwapOp) : SwapOp.ofWord w = o ↔ Carries w 0 o.layout := by
  cases o
  simp [SwapOp.ofWord, SwapOp.layout, Carries]

theorem SwapOp.roundTrips : RoundTrips SwapOp.ofWord SwapOp.toWord SwapOp.reserved (fun w => w.extractLsb' 0 4 = 3) :=
  .of_layout SwapOp.layout (fun _ => rfl) (fun _ => by simp [layout, reservedMask, runMask, reserved])
    (fun _ _ h => ⟨h, trivial⟩) SwapOp.ofWord_eq_iff

/-- STREAM, Table 3.5 (R88). -/
def StreamOp.layout (o : StreamOp) : List LayoutPart :=
  [.opcode 4, .operand o.arr, .operand o.mode, .operand o.axis, .operand o.tree, .operand o.form, .operand o.fmt,
   .operand o.cellop, .operand o.cmp, .operand o.src, .operand o.src2, .operand o.dst, .operand o.ofmt,
   .operand o.acc, .operand o.accRgn, .operand o.epi, .operand o.emask, .operand o.efill, .operand o.fmt2,
   .reserved 14, .operand o.count, .operand o.eoff]

theorem StreamOp.ofWord_eq_iff (w : W128) (o : StreamOp) : StreamOp.ofWord w = o ↔ Carries w 0 o.layout := by
  cases o
  simp [StreamOp.ofWord, StreamOp.layout, Carries]

theorem StreamOp.roundTrips :
    RoundTrips StreamOp.ofWord StreamOp.toWord StreamOp.reserved (fun w => w.extractLsb' 0 4 = 4) :=
  .of_layout StreamOp.layout (fun _ => rfl) (fun _ => by simp [layout, reservedMask, runMask, reserved])
    (fun _ _ h => ⟨h, trivial⟩) StreamOp.ofWord_eq_iff

/-- RGN, Table 6.5 (R169). -/
def RgnOp.layout (o : RgnOp) : List LayoutPart :=
  [.opcode 5, .reserved 1, .operand o.sub, .operand o.rgn, .operand o.base, .operand o.slotw, .operand o.slots,
   .operand o.rdmode, .operand o.stride, .operand o.manual, .operand o.cred, .operand o.pkind, .operand o.px,
   .operand o.py, .operand o.pch, .reserved 20, .operand o.n, .reserved 24]

theorem RgnOp.ofWord_eq_iff (w : W128) (o : RgnOp) : RgnOp.ofWord w = o ↔ Carries w 0 o.layout := by
  cases o
  simp [RgnOp.ofWord, RgnOp.layout, Carries]

theorem RgnOp.roundTrips : RoundTrips RgnOp.ofWord RgnOp.toWord RgnOp.reserved (fun w => w.extractLsb' 0 4 = 5) :=
  .of_layout RgnOp.layout (fun _ => rfl) (fun _ => by simp [layout, reservedMask, runMask, reserved])
    (fun _ _ h => ⟨h, trivial⟩) RgnOp.ofWord_eq_iff

/-- REMOTE, Table 6.7 (R180). -/
def RemoteOp.layout (o : RemoteOp) : List LayoutPart :=
  [.opcode 6, .reserved 1, .operand o.sub, .operand o.ch, .operand o.laddr, .operand o.raddr, .operand o.rx,
   .operand o.ry, .operand o.len, .reserved 64]

theorem RemoteOp.ofWord_eq_iff (w : W128) (o : RemoteOp) : RemoteOp.ofWord w = o ↔ Carries w 0 o.layout := by
  cases o
  simp [RemoteOp.ofWord, RemoteOp.layout, Carries]

theorem RemoteOp.roundTrips :
    RoundTrips RemoteOp.ofWord RemoteOp.toWord RemoteOp.reserved (fun w => w.extractLsb' 0 4 = 6) :=
  .of_layout RemoteOp.layout (fun _ => rfl) (fun _ => by simp [layout, reservedMask, runMask, reserved])
    (fun _ _ h => ⟨h, trivial⟩) RemoteOp.ofWord_eq_iff

/-- LOOP, Table 7.1 (R196). -/
def LoopOp.layout (o : LoopOp) : List LayoutPart :=
  [.opcode 7, .reserved 4, .operand o.daddr, .operand o.nbidx, .reserved 4, .operand o.seqlen, .operand o.pos0,
   .operand o.nbnum, .reserved 16]

theorem LoopOp.ofWord_eq_iff (w : W128) (o : LoopOp) : LoopOp.ofWord w = o ↔ Carries w 0 o.layout := by
  cases o
  simp [LoopOp.ofWord, LoopOp.layout, Carries]

theorem LoopOp.roundTrips : RoundTrips LoopOp.ofWord LoopOp.toWord LoopOp.reserved (fun w => w.extractLsb' 0 4 = 7) :=
  .of_layout LoopOp.layout (fun _ => rfl) (fun _ => by simp [layout, reservedMask, runMask, reserved])
    (fun _ _ h => ⟨h, trivial⟩) LoopOp.ofWord_eq_iff

/-- An SFU instruction, Table 5.7 (R142): its opcode is one of its operands. -/
def SfuOp.layout (o : SfuOp) : List LayoutPart :=
  [.operand o.op, .reserved 1, .operand o.sub, .operand o.src, .operand o.src2, .operand o.dst, .operand o.ifmt,
   .operand o.ofmt, .operand o.epi, .operand o.bcast, .operand o.addr, .reserved 20, .operand o.count,
   .operand o.rowlen, .reserved 16]

theorem SfuOp.ofWord_eq_iff (w : W128) (o : SfuOp) : SfuOp.ofWord w = o ↔ Carries w 0 o.layout := by
  cases o
  simp [SfuOp.ofWord, SfuOp.layout, Carries]

theorem SfuOp.roundTrips : RoundTrips SfuOp.ofWord SfuOp.toWord SfuOp.reserved (fun _ => True) :=
  .of_layout SfuOp.layout (fun _ => rfl) (fun _ => by simp [layout, reservedMask, runMask, reserved])
    (fun _ _ h => h) SfuOp.ofWord_eq_iff

/-- FABRIC, Table 8.3 (R223). -/
def FabricOp.layout (o : FabricOp) : List LayoutPart :=
  [.opcode 15, .reserved 1, .operand o.sub, .operand o.sq, .reserved 1, .operand o.addr, .operand o.scope,
   .operand o.bid, .operand o.arrive, .operand o.wait, .operand o.bcount, .reserved 74]

theorem FabricOp.ofWord_eq_iff (w : W128) (o : FabricOp) : FabricOp.ofWord w = o ↔ Carries w 0 o.layout := by
  cases o
  simp [FabricOp.ofWord, FabricOp.layout, Carries]

theorem FabricOp.roundTrips :
    RoundTrips FabricOp.ofWord FabricOp.toWord FabricOp.reserved (fun w => w.extractLsb' 0 4 = 15) :=
  .of_layout FabricOp.layout (fun _ => rfl) (fun _ => by simp [layout, reservedMask, runMask, reserved])
    (fun _ _ h => ⟨h, trivial⟩) FabricOp.ofWord_eq_iff

end Sys2Proof.Machine
end

section
open Sys2Proof Sys2Proof.Machine

/-- Settles O8: each layout is the list of its parts, and `RoundTrips.of_layout` says what follows from them. -/
theorem operandWordsRoundTrip : Obligations.OperandWordsRoundTrip :=
  ⟨GangOp.roundTrips.operands, GangOp.roundTrips.words, LoadOp.roundTrips.operands, LoadOp.roundTrips.words,
    SwapOp.roundTrips.operands, SwapOp.roundTrips.words, StreamOp.roundTrips.operands, StreamOp.roundTrips.words,
    RgnOp.roundTrips.operands, RgnOp.roundTrips.words, RemoteOp.roundTrips.operands, RemoteOp.roundTrips.words,
    LoopOp.roundTrips.operands, LoopOp.roundTrips.words, SfuOp.roundTrips.operands,
    fun w hres => SfuOp.roundTrips.words w hres trivial, FabricOp.roundTrips.operands, FabricOp.roundTrips.words⟩
end

section
/-! SUPPORT. An instruction at issue whose work goes on after it (R128): the one try of it, and then all that can move. -/
namespace Sys2Proof.Machine

/-! ### A machine where one clove alone has something that waits -/

theorem Quiet.allWaiting_setClove {s : State} (h : Quiet s) (k : Nat) (c : Clove) :
    (s.setClove k c).allWaiting = sortBy (fun a b => decide (a.2.no ≤ b.2.no)) (c.waiting.map fun w => (k, w)) := by
  refine congrArg (sortBy _) (SMap.flatMap_put s.cloves k c _ fun e he => ?_)
  rw [(h e he).1, List.map_nil]

theorem Quiet.sfuRuns_setClove {s : State} (h : Quiet s) (k : Nat) {c : Clove} (hc : c.sfu = []) :
    (s.setClove k c).cloves.foldl (fun s e => if e.2.sfu.isEmpty then s else s.sfuRun e.1 sfuFuel) (s.setClove k c) =
      s.setClove k c := by
  refine foldl_id _ _ _ fun e he => if_pos ?_
  rcases SMap.mem_put _ _ _ he with rfl | he
  · exact List.isEmpty_iff.2 hc
  · exact List.isEmpty_iff.2 (h e he).2

theorem Quiet.heldBack_setClove {s : State} (h : Quiet s) {k no : Nat} {c : Clove} (hc : ∀ w ∈ c.waiting, no ≤ w.no)
    (j : Nat) (v : W128) : (s.setClove k c).heldBack no j v = false := by
  refine List.any_eq_false.2 fun e he => ?_
  rcases SMap.mem_put _ _ _ he with rfl | he
  · simpa using fun w hw hlt => absurd (hc w hw) (Nat.not_le.2 hlt)
  · simp [(h e he).1]

/-! ### The one try of an instruction that may be tried (R79, R81, R128) -/

@[simp] theorem State.setClove_setClove (s : State) (k : Nat) (c d : Clove) : (s.setClove k c).setClove k d = s.setClove k d := by
  simp [State.setClove, SMap.put_put]

/-- An instruction of a clove's own sequencer as it waits at issue under its number. -/
def Waiting.ofIssue (i : Issue) (no : Nat) : Waiting := ⟨engineOf i.word, i, no, none⟩

namespace Open
variable {s u : State} {i : Issue}

theorem upset_eq (h : Open s i) : s.upset i.ups = s := by
  rw [h.clean]
  rfl

theorem enter_eq (h : Open s i) : s.enter none i =
    (s.issuing i).setClove i.home { s.clove i.home with waiting := [.ofIssue i s.issueNo] } := by
  have hop : ({ i with ups := [] } : Issue) = i := by rw [← h.clean]
  have hwait : (s.clove i.home).waiting = [] := (h.quiet.clove i.home).1
  unfold State.enter State.modClove State.issuing
  rw [hop]
  change State.setClove _ i.home { s.clove i.home with waiting := (s.clove i.home).waiting ++ _ } =
    (State.setClove _ i.home _).setClove i.home _
  rw [hwait, State.setClove_setClove]
  rfl

theorem allWaiting_enter (h : Open s i) : (s.enter none i).allWaiting = [(i.home, .ofIssue i s.issueNo)] := by
  rw [h.enter_eq, (h.quiet.issuing i).allWaiting_setClove]
  rfl

theorem sfuRuns_enter (h : Open s i) :
    (s.enter none i).cloves.foldl (fun s e => if e.2.sfu.isEmpty then s else s.sfuRun e.1 sfuFuel) (s.enter none i) =
      s.enter none i := by
  rw [h.enter_eq]
  exact (h.quiet.issuing i).sfuRuns_setClove i.home (h.quiet.clove i.home).2

theorem mayTry (h : Open s i) : (s.enter none i).mayTry i.home (.ofIssue i s.issueNo) = true := by
  have hheld : (s.enter none i).heldBack s.issueNo i.home i.word = false := by
    rw [h.enter_eq]
    exact (h.quiet.issuing i).heldBack_setClove (by simp [Waiting.ofIssue]) ..
  have hclove : (s.enter none i).clove i.home = { s.clove i.home with waiting := [.ofIssue i s.issueNo] } := by
    rw [h.enter_eq, State.clove_setClove_self]
  have hfenced : (s.enter none i).fenced s.issueNo i.home (engineOf i.word) = false := by
    rw [← h.free, State.fenced, State.fenced, State.atBarrier, State.atBarrier, hclove]
    rfl
  have hruns : ((s.enter none i).clove i.home).halted (engineOf i.word) = false := by
    rw [hclove]
    exact h.runs
  simp only [State.mayTry, Waiting.ofIssue, hruns, hfenced, hheld]
  simp [hclove, Waiting.ofIssue]

theorem retry_eq (h : Open s i) (htry : (s.issuing i).try s.issueNo i.home 0 i = (u, true)) :
    (s.enter none i).retry i.home (.ofIssue i s.issueNo) = (u.progressed i.part, true) := by
  have hleft : (s.enter none i).modClove i.home (fun c => { c with waiting := c.waiting.filter (fun w => w.no ≠ s.issueNo) }) =
      s.issuing i := by
    have hnone : ({ s.clove i.home with waiting := [] } : Clove) = s.clove i.home := by rw [← (h.quiet.clove i.home).1]
    rw [h.enter_eq, State.modClove, State.clove_setClove_self, State.setClove_setClove]
    simp only [Waiting.ofIssue, List.filter_cons, List.filter_nil, ne_eq, not_true_eq_false, decide_false, Bool.false_eq_true,
      if_false, hnone]
    exact State.setClove_setClove ..
  have hmay := h.mayTry
  simp only [Waiting.ofIssue] at hmay ⊢
  simp only [State.retry, hmay, hleft, Option.map_none, Option.getD_none, htry, Bool.not_true, Bool.false_eq_true, if_false]
  rfl

/-- An instruction that may be tried and whose try answers leaves that answer, with its progress noted, and what that lets
move moves. -/
theorem issue_eq_settle (h : Open s i) (htry : (s.issuing i).try s.issueNo i.home 0 i = (u, true))
    (hu : u.allWaiting = []) : s.issue i = (u.progressed i.part).settle := by
  have hdone : (u.progressed i.part).allWaiting = [] := hu
  rw [State.issue, h.upset_eq, State.settle, h.allWaiting_enter, State.settle, hdone]
  change State.settleN _ 2 = _
  rw [State.settleN, h.sfuRuns_enter, h.allWaiting_enter]
  simp [h.retry_eq htry]

end Open

end Sys2Proof.Machine
end

section
/-! SUPPORT. An SFU instruction at issue (R124, R128, R177): the books and the work of the one clove that it names. -/
namespace Sys2Proof.Machine

/-! ### Uses of regions (R174, R175) -/

theorem State.clove_takeTickets (s : State) (no : Nat) (us : List (Nat × Nat × Bool)) (m : Nat) :
    (s.takeTickets no us).clove m = { s.clove m with
      tickets := (s.clove m).tickets ++ (us.filter (fun u => u.1 == m)).map (fun u => (no, u.2)) } := by
  unfold State.takeTickets
  induction us generalizing s with
  | nil => simp
  | cons u us ih =>
    rw [List.foldl_cons, ih]
    by_cases hm : u.1 = m
    · subst hm
      simp
    · simp [State.clove_modClove_ne _ _ hm, hm]

/-- An SFU instruction uses regions of its own clove. -/
theorem SfuOp.uses_k (o : SfuOp) (k : Nat) : ∀ u ∈ o.uses k, u.k = k := by
  unfold SfuOp.uses
  split <;> simp

/-! ### What an SFU instruction takes (R124, R177) -/

/-- The state in which an SFU instruction has taken its scoreboard entries and its uses of regions. -/
def State.sfuBooked (s : State) (no k : Nat) (o : SfuOp) : State :=
  (s.modClove k fun c => c.takeSlots 2 no o.dst.toNat (o.outSlots (c.region o.dst.toNat))
    (statRange (o.desc (s.clove k)) o.count.toNat)).takeTickets no ((o.uses k).map fun u => (u.k, u.rn, u.write))

/-- An SFU instruction that no rule refuses and that need not wait. -/
theorem SfuReady.trySfu_eq {s : State} {i : Issue} (h : SfuReady s i) (hop : fieldOf i.word 3 0 ≠ 14) (v : Nat) :
    (s.issuing i).trySfu s.issueNo i.home v i =
      some (((s.issuing i).sfuBooked s.issueNo i.home (SfuOp.ofWord i.word)).sfuStart s.issueNo i.home i) := by
  obtain ⟨-, hmark, hword, hslot, hapart, huse, hroom, hreads, hstats⟩ := h
  have hepi : ¬ (SfuOp.ofWord i.word).op = 14 := fun he => hop (congrArg BitVec.toNat he)
  unfold State.trySfu
  simp only [State.issuing_clove, State.issuing_slotEmpty, State.issuing_useFault, State.issuing_notRead, hmark, hepi, hword,
    hslot, hapart, huse, hreads, hstats, ge_iff_le, hroom, Bool.false_eq_true, if_false, decide_true, Bool.and_self,
    Bool.not_true]
  simp only [State.sfuBooked, State.issuing_clove]

theorem State.books_sfuBooked (s : State) (no k : Nat) (o : SfuOp) : Books s (s.sfuBooked no k o) := by
  refine .trans ?_ (.takeTickets ..)
  exact .mod k _ (fun _ => rfl) (fun _ => rfl) (fun _ => rfl) (fun _ => rfl) (fun _ => rfl)

theorem State.clove_sfuBooked_self (s : State) (no k : Nat) (o : SfuOp) : (s.sfuBooked no k o).clove k = { s.clove k with
    sb := (s.clove k).sb ++ (s.clove k).slotEntry 2 no o.dst.toNat (o.outSlots ((s.clove k).region o.dst.toNat)) ::
      (statRange (o.desc (s.clove k)) o.count.toNat).map (fun r => ⟨2, r, no, none⟩)
    tickets := (s.clove k).tickets ++ (o.uses k).map (fun u => (no, u.rn, u.write)) } := by
  have huses : ((o.uses k).map fun u => (u.k, u.rn, u.write)).filter (fun q => q.1 == k) =
      (o.uses k).map fun u => (u.k, u.rn, u.write) := by
    simpa [List.filter_eq_self] using o.uses_k k
  rw [State.sfuBooked, State.clove_takeTickets, huses, State.clove_modClove_self, List.map_map]
  simp [Clove.takeSlots, Clove.takeSb, Function.comp_def]

theorem State.clove_sfuBooked_ne (s : State) (no : Nat) {k m : Nat} (o : SfuOp) (hm : m ≠ k) :
    (s.sfuBooked no k o).clove m = s.clove m := by
  have huses : ((o.uses k).map fun u => (u.k, u.rn, u.write)).filter (fun q => q.1 == m) = [] := by
    simpa [List.filter_eq_nil_iff] using fun u hu => (o.uses_k k u hu).trans_ne hm.symm
  rw [State.sfuBooked, State.clove_takeTickets, huses, State.clove_modClove_ne _ _ hm.symm]
  simp

theorem State.try_of_sfu {s t : State} {no k v : Nat} {i : Issue} (hlo : 8 ≤ fieldOf i.word 3 0)
    (hhi : fieldOf i.word 3 0 ≤ 13) (h : s.trySfu no k v i = some t) : s.try no k v i = (t, true) := by
  interval_cases hop : fieldOf i.word 3 0 <;> simp [State.try, hop, h]

end Sys2Proof.Machine
end

section
open Sys2Proof Sys2Proof.Machine

/-- Settles O15: the instruction is tried once, in a machine where nothing else waits; its clove's books and its work are
what that try leaves. -/
theorem sfuInstructionStarts : Obligations.SfuInstructionStarts := by
  intro s i c hc hlo hhi h
  have hexec : exec c s = .next (s.issue i) := by
    simp only [List.mem_cons, List.not_mem_nil, or_false] at hc
    rcases hc with rfl | rfl | rfl | rfl | rfl | rfl <;> rfl
  have hbooks := (s.issuing i).books_sfuBooked s.issueNo i.home (SfuOp.ofWord i.word)
  have hself := (s.issuing i).clove_sfuBooked_self s.issueNo i.home (SfuOp.ofWord i.word)
  have hother (m : Nat) (hm : m ≠ i.home) := (s.issuing i).clove_sfuBooked_ne s.issueNo (SfuOp.ofWord i.word) hm
  have htry := State.try_of_sfu hlo hhi (h.trySfu_eq (by omega) 0)
  simp only [State.issuing_clove] at hself hother
  generalize (s.issuing i).sfuBooked s.issueNo i.home (SfuOp.ofWord i.word) = m at *
  obtain ⟨hwaiting, hsfu⟩ := h.opened.quiet.clove i.home
  have hquiet : (m.sfuStart s.issueNo i.home i).allWaiting = [] := by
    rw [State.sfuStart, (hbooks.quiet (h.opened.quiet.issuing i)).allWaiting_setClove, hself, hwaiting]
    rfl
  refine ⟨_, hexec.trans (congrArg Host.Outcome.next (h.opened.issue_eq_settle htry hquiet)),
    .of_issuing (congrArg (fun t : State => { t with cloves := (m.sfuStart s.issueNo i.home i).cloves }) hbooks.rest),
    fun n hn => ?_, ?_⟩
  · exact (State.clove_setClove_ne _ _ hn.symm).trans (hother n hn)
  · have hreg : m.reg .prtSroundSeed i.part 0 = s.reg .prtSroundSeed i.part 0 := by rw [hbooks.rest]; rfl
    refine (State.clove_setClove_self ..).trans ?_
    rw [hself, hsfu, ← hreg]
    rfl
end

section
/-! SUPPORT. LOOP at issue (R123, R124, R196, R197): what a good program leaves of the machine. -/
namespace Sys2Proof.Machine

/-! ### Cloves changed alike -/

theorem State.clove_foldl_modClove (f : Clove → Clove) {l : List Nat} (hl : l.Nodup) (s : State) (k : Nat) :
    (l.foldl (fun s m => s.modClove m f) s).clove k = if k ∈ l then f (s.clove k) else s.clove k := by
  induction l generalizing s with
  | nil => rfl
  | cons m l ih =>
    obtain ⟨hm, hl⟩ := List.nodup_cons.1 hl
    rw [List.foldl_cons, ih hl]
    by_cases hk : k = m
    · subst hk
      simp [hm]
    · simp [hk, State.clove_modClove_ne s f (Ne.symm hk)]

theorem ScratchStays.refl (s : State) : ScratchStays s s := ⟨rfl, fun _ => rfl, id⟩

theorem State.modClove_scratchStays (s : State) (k : Nat) (f : Clove → Clove) (hscratch : ∀ c, (f c).scratch = c.scratch)
    (hwaiting : ∀ c, (f c).waiting = c.waiting) (hsfu : ∀ c, (f c).sfu = c.sfu) : ScratchStays s (s.modClove k f) := by
  refine ⟨rfl, fun m => ?_, fun q => q.modClove k f hwaiting hsfu⟩
  by_cases hm : k = m
  · subst hm
    rw [State.clove_modClove_self, hscratch]
  · rw [State.clove_modClove_ne _ _ hm]

theorem State.foldl_modClove_scratchStays (l : List Nat) (f : Clove → Clove) (hscratch : ∀ c, (f c).scratch = c.scratch)
    (hwaiting : ∀ c, (f c).waiting = c.waiting) (hsfu : ∀ c, (f c).sfu = c.sfu) (s : State) :
    ScratchStays s (l.foldl (fun s m => s.modClove m f) s) := by
  induction l generalizing s with
  | nil => exact .refl s
  | cons m l ih => exact (s.modClove_scratchStays m f hscratch hwaiting hsfu).trans (ih _)

/-! ### A program among clean words (R185, R239) -/

theorem State.touchN_id {s : State} {k : Nat} (h : ∀ a, ((s.clove k).word a).ecc = 0) (n : Nat) :
    ∀ a, s.touchN k a n = s := by
  induction n with
  | zero => exact fun _ => rfl
  | succ n ih => exact fun a => by rw [State.touchN, s.touch_id k a (h a), ih]

theorem Clove.getWords_unmarked {c : Clove} (h : ∀ a, (c.word a).mark = false) (a n : Nat) :
    (c.getWords a n).any (·.2) = false := by
  simp [Clove.getWords, Clove.get, h]

theorem Clove.busyRange_of_free {c : Clove} (h : c.sb = []) (a n : Nat) : c.busyRange a n = false := by
  rw [Clove.busyRange, h]
  rfl

theorem SMap.atD_map_mem {α : Type} (f : Nat → α) (d : α) {l : List Nat} {i : Nat} (h : i ∈ l) :
    SMap.atD (l.map fun j => (j, f j)) i d = f i := by
  induction l with
  | nil => cases h
  | cons j l ih =>
    by_cases hj : j = i
    · subst hj
      simp [SMap.atD, SMap.at?]
    · have htail := ih (List.mem_of_ne_of_mem (Ne.symm hj) h)
      simpa [SMap.atD, SMap.at?, hj] using htail

/-! ### The gang of a program (R198) -/

theorem State.looping_of_quiet {s : State} (h : Quiet s) (k : Nat) : s.looping k = (s.clove k).looping := by
  rw [State.looping, List.any_eq_false.2, Bool.or_false]
  exact fun e he => by simp [(h e he).1]

@[simp] theorem State.issuing_gangIs (s : State) (i : Issue) (k : Nat) (p : List Byte) :
    (s.issuing i).gangIs k p = s.gangIs k p := by
  funext b
  simp [State.gangIs]

@[simp] theorem State.issuing_loopArrays (s : State) (i : Issue) (k : Nat) (p : List Byte) :
    (s.issuing i).loopArrays k p = s.loopArrays k p := by
  simp [State.loopArrays]

@[simp] theorem State.issuing_loopGang (s : State) (i : Issue) (k : Nat) (p : List Byte) :
    (s.issuing i).loopGang k p = s.loopGang k p := by
  simp [State.loopGang]

theorem State.loopArrays_ne_nil (s : State) (k : Nat) (p : List Byte) : s.loopArrays k p ≠ [] := by
  unfold State.loopArrays
  split
  · split <;> simp
  next h => simpa using h

/-- A clove whose arrays are set as a program's GANG says is the origin of the program's gang. -/
theorem State.mem_loopGang {s : State} {k : Nat} {p : List Byte} (h : (s.loopArrays k p).all (s.gangIs k p) = true) :
    k ∈ (s.loopGang k p).members := by
  have hmem : (s.loopArrays k p).headD false ∈ s.loopArrays k p := by
    rw [List.headD_eq_head?_getD, List.head?_eq_some_head (s.loopArrays_ne_nil k p)]
    exact List.head_mem _
  have hgang := List.all_eq_true.1 h _ hmem
  rw [State.gangIs, Bool.and_eq_true, beq_iff_eq] at hgang
  have horigin : (s.loopGang k p).origin = k := hgang.1
  have horiginMem := (s.loopGang k p).origin_mem
  rwa [horigin] at horiginMem

/-! ### What LOOP starts (R123, R124, R197) -/

/-- A clove whose pass and SFU sequence numbers begin anew. -/
def Clove.renumbered (c : Clove) : Clove :=
  { c with arrA := { c.arrA with seq := 0 }, arrB := { c.arrB with seq := 0 }, sfuSeq := 0 }

/-- The loop of a LOOP word as it starts. -/
def LoopRun.start (w : W128) (p : List Byte) (otabs : SMap (List Nat)) : LoopRun :=
  ⟨w, p, otabs, [], LoopRun.begin p, 0, false, [], [], [], (LoopRun.begin p).isEmpty⟩

/-- The state with every member of a gang renumbered, and a loop started in clove k. -/
def State.startLoop (s : State) (k : Nat) (g : Gang) (r : LoopRun) : State :=
  (g.members.foldl (fun s m => s.modClove m Clove.renumbered) s).modClove k fun c => { c with loop := some r }

theorem State.startLoop_scratchStays (s : State) (k : Nat) (g : Gang) (r : LoopRun) : ScratchStays s (s.startLoop k g r) :=
  (State.foldl_modClove_scratchStays _ .renumbered (fun _ => rfl) (fun _ => rfl) (fun _ => rfl) s).trans
    (State.modClove_scratchStays _ k _ (fun _ => rfl) (fun _ => rfl) (fun _ => rfl))

theorem State.loop_startLoop (s : State) (k : Nat) (g : Gang) (r : LoopRun) : ((s.startLoop k g r).clove k).loop = some r := by
  rw [State.startLoop, State.clove_modClove_self]

theorem State.seqs_startLoop (s : State) (k : Nat) {g : Gang} (r : LoopRun) {m : Nat} (hm : m ∈ g.members) :
    ((s.startLoop k g r).clove m).arrA.seq = 0 ∧ ((s.startLoop k g r).clove m).arrB.seq = 0 ∧
      ((s.startLoop k g r).clove m).sfuSeq = 0 := by
  have hmember := State.clove_foldl_modClove Clove.renumbered g.members_nodup s m
  rw [if_pos hm] at hmember
  rw [State.startLoop]
  by_cases hk : k = m
  · subst hk
    rw [State.clove_modClove_self, hmember]
    exact ⟨rfl, rfl, rfl⟩
  · rw [State.clove_modClove_ne _ _ hk, hmember]
    exact ⟨rfl, rfl, rfl⟩

theorem State.clove_startLoop_of_not_mem (s : State) {k m : Nat} {g : Gang} (hk : k ∈ g.members) (r : LoopRun)
    (hm : m ∉ g.members) : (s.startLoop k g r).clove m = s.clove m := by
  have hkm : k ≠ m := fun h => hm (h ▸ hk)
  rw [State.startLoop, State.clove_modClove_ne _ _ hkm, State.clove_foldl_modClove _ g.members_nodup, if_neg hm]

/-- LOOP of a good program. -/
theorem LoopReady.tryLoop_eq {s : State} {i : Issue} {p : List Byte} (h : LoopReady s i p) :
    ∃ otabs, (s.issuing i).tryLoop i.home i =
      some ((s.issuing i).startLoop i.home (s.loopGang i.home p) (.start i.word p otabs)) := by
  have htouch (a n : Nat) : (s.issuing i).touchN i.home a n = s.issuing i :=
    State.touchN_id (fun b => by rw [State.issuing_clove]; exact (h.clean b).1) n a
  have hlooping : (s.issuing i).looping i.home = false := by
    rw [State.looping_of_quiet (h.opened.quiet.issuing i), State.issuing_clove, h.idle]
  have hbusy := (s.clove i.home).busyRange_of_free h.free
  have hplain := (s.clove i.home).getWords_unmarked fun a => (h.clean a).2
  unfold State.tryLoop
  extract_lets o a c head n t c1 q g tabs size tabAt tabLen u c2 bad otabs w
  have hc : c = s.clove i.home := State.issuing_clove ..
  have ht : t = s.issuing i := htouch ..
  have hc1 : c1 = s.clove i.home := (congrArg (·.clove i.home) ht).trans hc
  have hq : p = q := by
    simp only [q, hc1, n, head, hc]
    exact h.copied
  clear_value q c c1 t
  subst hq hc hc1 ht
  have hu : u = s.issuing i := foldl_id _ _ _ fun l _ => htouch ..
  have hc2 : c2 = s.clove i.home := (congrArg (·.clove i.home) hu).trans (State.issuing_clove ..)
  have hg : g = s.loopGang i.home p := State.issuing_loopGang ..
  clear_value u c2 g
  subst hu hc2 hg
  have hbad : bad = false := by
    have hlevels : nlev p ≠ 0 := Nat.ne_of_gt h.levels.1
    simp [bad, o, a, h.word, h.aligned, hlevels, h.levels.2, h.header, h.gang, h.operands, h.level, h.menu, h.body, h.place]
  have horders : tabs.any (fun l => decide (size l > 256) || !isOrder (size l) (otabs.atD l [])) = false := by
    refine List.any_eq_false.2 fun l hl => ?_
    obtain ⟨hlevel, hform⟩ := List.mem_filter.1 hl
    rw [Bool.and_eq_true, decide_eq_true_eq, beq_iff_eq] at hform
    obtain ⟨hsize, horder⟩ := h.tables l hlevel hform.1 hform.2
    rw [SMap.atD_map_mem _ _ hl]
    simp [size, tabAt, hsize, horder]
  have hlength : (decide (nlev p = 6) && decide (o.seqlen.toNat > bound p 5 0)) = false := by simpa using h.length
  have harmed : (dispatched p && !(s.issuing i).armedNow (partOf (cloveX i.home) (cloveY i.home)) (dctr p)) = false := by
    have hcounter : (s.issuing i).armedNow (partOf (cloveX i.home) (cloveY i.home)) (dctr p) = s.armedNow i.part (dctr p) := rfl
    simpa [hcounter] using h.armed
  have hnone : (tabs.any fun _ => false) = false := by simp
  refine ⟨otabs, ?_⟩
  simp only [h.plain, hlooping, hbusy, hplain, hnone, hbad, horders, hlength, h.fits, harmed, Bool.or_self, Bool.false_eq_true,
    if_false]
  rfl

theorem State.try_of_loop {s t : State} {no k v : Nat} {i : Issue} (hop : fieldOf i.word 3 0 = 7) (h : s.tryLoop k i = some t) :
    s.try no k v i = (t, true) := by
  simp [State.try, hop, h]

end Sys2Proof.Machine
end

section
open Sys2Proof Sys2Proof.Machine

/-- Settles O24: the program's gang, whose origin is the clove of the LOOP, is renumbered, and the loop starts there. -/
theorem loopStarts : Obligations.LoopStarts := by
  intro s i p hop h
  obtain ⟨otabs, htry⟩ := h.tryLoop_eq
  have hmem := State.mem_loopGang h.gang
  have hstays := (s.issuing i).startLoop_scratchStays i.home (s.loopGang i.home p) (.start i.word p otabs)
  have hloop := (s.issuing i).loop_startLoop i.home (s.loopGang i.home p) (.start i.word p otabs)
  have hseqs {k : Nat} := (s.issuing i).seqs_startLoop i.home (g := s.loopGang i.home p) (.start i.word p otabs) (m := k)
  have hother {k : Nat} := (s.issuing i).clove_startLoop_of_not_mem hmem (.start i.word p otabs) (m := k)
  generalize (s.issuing i).startLoop i.home (s.loopGang i.home p) (.start i.word p otabs) = u at *
  obtain ⟨hissue, hframe, hscratch⟩ := h.opened.issue_eq (State.try_of_loop hop htry) hstays
  refine ⟨_, .start i.word p otabs, congrArg Host.Outcome.next hissue, hframe, hloop, ?_,
    fun k => ⟨hscratch k, hseqs, fun hk => ?_⟩⟩
  · exact ⟨rfl, rfl, rfl, rfl, rfl, rfl⟩
  · exact (hother hk).trans (State.issuing_clove ..)
end

section
/-! SUPPORT. EPI_WRITE at issue (R128, R130, R144, R239): the entry that it sets where nothing refuses it and it need not
wait. -/
namespace Sys2Proof.Machine

@[simp] theorem State.issuing_epiInUse (s : State) (i : Issue) (k e : Nat) : (s.issuing i).epiInUse k e = s.epiInUse k e := by
  simp [State.epiInUse]

@[simp] theorem State.progressed_clove (s : State) (p k : Nat) : (s.progressed p).clove k = s.clove k := rfl

/-- A clove after an EPI_WRITE: the four words at its address are the descriptor of its entry (R130), and it has taken an
SFU sequence number (R124). -/
def Clove.epiWritten (c : Clove) (o : SfuOp) : Clove :=
  { c with epi := c.epi.put o.epi.toNat (c.descAt o.addr.toNat), sfuSeq := c.sfuSeq + 1 }

/-- EPI_WRITE of four words without errors or marks that form a descriptor, of an entry that nothing uses. -/
theorem State.tryEpi_eq {s : State} {k : Nat} {w : W128} (hidle : (s.clove k).sfu = [])
    (hword : SfuOp.badWord w none = false) (hunused : s.epiInUse k (SfuOp.ofWord w).epi.toNat = false)
    (hfree : (s.clove k).busyRange (SfuOp.ofWord w).addr.toNat 4 = false) (hclean : ∀ a, ((s.clove k).word a).ecc = 0)
    (hplain : ((s.clove k).getWords (SfuOp.ofWord w).addr.toNat 4).any (·.2) = false)
    (hdesc : (epiReserved ((s.clove k).descAt (SfuOp.ofWord w).addr.toNat) ||
      fnReserved (bitField ((s.clove k).descAt (SfuOp.ofWord w).addr.toNat).toNat 0 8)) = false) (v : Nat) :
    s.tryEpi k v w = some (s.modClove k fun c => c.epiWritten (SfuOp.ofWord w)) := by
  have hwait : (!(s.clove k).sfu.isEmpty || s.epiInUse k (SfuOp.ofWord w).epi.toNat ||
      (s.clove k).busyRange (SfuOp.ofWord w).addr.toNat 4) = false := by
    rw [hidle, hunused, hfree]
    rfl
  have hgood : (SfuOp.badWord w none || epiReserved ((s.clove k).descAt (SfuOp.ofWord w).addr.toNat) ||
      fnReserved (bitField ((s.clove k).descAt (SfuOp.ofWord w).addr.toNat).toNat 0 8)) = false := by
    rw [Bool.or_assoc, hword, hdesc, Bool.or_self]
  unfold State.tryEpi
  simp only [hwait, State.touchN_id hclean, hplain, hgood, Bool.false_eq_true, if_false]
  rfl

theorem State.try_of_epi {s : State} {no k v : Nat} {i : Issue} (hop : fieldOf i.word 3 0 = 14) (hmark : i.mark = false)
    {t : State} (h : s.tryEpi k v i.word = some t) : s.try no k v i = (t, true) := by
  have hepi : (SfuOp.ofWord i.word).op = 14 := BitVec.eq_of_toNat_eq hop
  simp [State.try, State.trySfu, hop, hmark, hepi, h]

end Sys2Proof.Machine
end

section
open Sys2Proof Sys2Proof.Machine

/-- Settles O17: nothing keeps the instruction waiting and nothing refuses it, and what its one try leaves is the clove with
its entry written. -/
theorem epiWriteSetsEntry : Obligations.EpiWriteSetsEntry := by
  intro s i hop hopen hmark hword hunused hfree hclean hplain hdesc
  have hclove : (s.issuing i).clove i.home = s.clove i.home := State.issuing_clove ..
  have htry : (s.issuing i).tryEpi i.home 0 i.word =
      some ((s.issuing i).modClove i.home fun c => c.epiWritten (SfuOp.ofWord i.word)) :=
    State.tryEpi_eq (hclove ▸ (hopen.quiet.clove i.home).2) hword (by simpa using hunused) (hclove ▸ hfree) (hclove ▸ hclean)
      (hclove ▸ hplain) (hclove ▸ hdesc) 0
  obtain ⟨hissue, hframe, -⟩ := hopen.issue_eq (State.try_of_epi hop hmark htry)
    ((s.issuing i).modClove_scratchStays i.home _ (fun _ => rfl) (fun _ => rfl) (fun _ => rfl))
  refine ⟨_, congrArg Host.Outcome.next hissue, hframe, fun m hm => ?_, ?_⟩ <;> rw [State.progressed_clove]
  · rw [State.clove_modClove_ne _ _ hm.symm, State.issuing_clove]
  · rw [State.clove_modClove_self, hclove]
    rfl
end

section
/-! SUPPORT. The rows of SFU_MOMENTS and the pairs of SFU_MERGE (R143, R149, R152, R153): the step that computes one, and
what it leaves of the work at the front of its clove. -/
namespace Sys2Proof.Machine

/-- The oldest SFU work computes its row once its words have been read, where DST takes no vectors (R143). -/
theorem State.sfuStep_row {s : State} {k : Nat} {u : SfuWork} {us : List SfuWork} (hfront : (s.clove k).sfu = u :: us)
    (hout : u.out = []) (hrow : u.row < (SfuOp.ofWord u.op.word).count.toNat)
    (hread : (SfuOp.ofWord u.op.word).srcLen ≤ u.a.length)
    (hread2 : (SfuOp.ofWord u.op.word).binary = true → (SfuOp.ofWord u.op.word).src2Len ≤ u.b.length)
    (hdst : (SfuOp.ofWord u.op.word).dstVec = false) : s.sfuStep k = some (s.sfuRow k u) := by
  have hleft : ¬ u.row ≥ (SfuOp.ofWord u.op.word).count.toNat := Nat.not_le.2 hrow
  have hfull2 (b : Bool) : ((SfuOp.ofWord u.op.word).binary && b &&
      decide (u.b.length < (SfuOp.ofWord u.op.word).src2Len)) = false := by
    cases hbinary : (SfuOp.ofWord u.op.word).binary with
    | false => rfl
    | true => rw [decide_eq_false (Nat.not_lt.2 (hread2 hbinary)), Bool.and_false]
  unfold State.sfuStep
  simp only [hfront, hout, hleft, hfull2, Nat.not_lt.2 hread, hdst, decide_false, Bool.false_and, Bool.false_eq_true, if_false]

/-- A work whose row is counted, whose words for the next row are still to be read (an entry broadcast to every row stays), and
whose results wait for space in DST. -/
def SfuWork.rowDone (u : SfuWork) (out : List (W64 × Bool)) : SfuWork :=
  { u with row := u.row + 1, a := [], b := if (SfuOp.ofWord u.op.word).bcast = 1 then u.b else [], out := out.map some }

/-- The elements of a row that was read as a vector. -/
def SfuWork.vecElems (u : SfuWork) : List (Val × Bool) :=
  (List.range (SfuOp.ofWord u.op.word).rowlen.toNat).map fun j =>
    (w44Val (u.a.getD j (0, false)).1, (u.a.getD j (0, false)).2)

theorem State.putSfu_front {s : State} {k : Nat} {u : SfuWork} {us : List SfuWork} (hfront : (s.clove k).sfu = u :: us)
    (v : SfuWork) : s.putSfu k v = s.modClove k fun c => { c with sfu := v :: us } := by
  simp [State.putSfu, State.modClove, hfront]

theorem State.sfuRow_moments (s : State) (k : Nat) {u : SfuWork} (hop : (SfuOp.ofWord u.op.word).op = 10)
    (hvec : (SfuOp.ofWord u.op.word).srcVec = true) :
    s.sfuRow k u = s.putSfu k (u.rowDone (Moment.ofRow ((SfuOp.ofWord u.op.word).sub == 1) u.vecElems).toWords) := by
  have hcode : (SfuOp.ofWord u.op.word).op.toNat = 10 := congrArg BitVec.toNat hop
  unfold State.sfuRow
  simp only [hcode, hvec, if_true]
  rfl

theorem State.sfuRow_merge (s : State) (k : Nat) {u : SfuWork} (hop : (SfuOp.ofWord u.op.word).op = 11)
    (hsub : (SfuOp.ofWord u.op.word).sub = 0) :
    s.sfuRow k u = s.putSfu k (u.rowDone ((Moment.ofWords u.a).merge (Moment.ofWords u.b)).toWords) := by
  have hcode : (SfuOp.ofWord u.op.word).op.toNat = 11 := congrArg BitVec.toNat hop
  unfold State.sfuRow
  simp only [hcode, hsub, if_true]
  rfl

/-! ### Merges (R153) -/

theorem Moment.merge_of_left_empty {a : Moment} (b : Moment) (ha : a.n = 0) :
    a.merge b = { b with mark := a.mark || b.mark } := by
  rw [Moment.merge, if_pos ha]

theorem Moment.merge_of_right_empty {a b : Moment} (ha : a.n ≠ 0) (hb : b.n = 0) :
    a.merge b = { a with mark := a.mark || b.mark } := by
  rw [Moment.merge, if_neg ha, if_pos hb]

theorem Moment.merge_n (a b : Moment) : (a.merge b).n = a.n + b.n := by
  by_cases ha : a.n = 0
  · rw [Moment.merge_of_left_empty b ha, ha, Nat.zero_add]
  by_cases hb : b.n = 0
  · rw [Moment.merge_of_right_empty ha hb, hb, Nat.add_zero]
  · rw [Moment.merge, if_neg ha, if_neg hb]

theorem Moment.merge_mark (a b : Moment) : (a.merge b).mark = (a.mark || b.mark) := by
  unfold Moment.merge
  split
  · rfl
  · split <;> rfl

end Sys2Proof.Machine
end

section
open Sys2Proof Sys2Proof.Machine

/-- Settles O16: a row whose words have been read is computed in one step; MOMENTS reads no SRC2, and MERGE has read its
pair's second entry too. -/
theorem sfuRowsMakeMoments : Obligations.SfuRowsMakeMoments := by
  refine ⟨fun s k u us hfront hout hrow hread => ⟨fun hop hvec => ?_, fun hop hsub hread2 hbcast => ?_⟩, fun a b =>
    ⟨a.merge_of_left_empty b, Moment.merge_of_right_empty, a.merge_n b, a.merge_mark b⟩⟩
  · have hbinary : (SfuOp.ofWord u.op.word).binary = false := by simp [SfuOp.binary, hop]
    have hdst : (SfuOp.ofWord u.op.word).dstVec = false := by simp [SfuOp.dstVec, SfuOp.described, hop]
    rw [State.sfuStep_row hfront hout hrow hread (by simp [hbinary]) hdst, State.sfuRow_moments s k hop hvec,
      State.putSfu_front hfront]
    rfl
  · have hdst : (SfuOp.ofWord u.op.word).dstVec = false := by simp [SfuOp.dstVec, SfuOp.described, hop]
    rw [State.sfuStep_row hfront hout hrow hread (fun _ => hread2) hdst, State.sfuRow_merge s k hop hsub,
      State.putSfu_front hfront, SfuWork.rowDone, if_neg (by simp [hbcast])]
end

section
/-! SUPPORT. One word of a scratchpad replaced (R157, R158), and changes that one clove alone sees. -/
namespace Sys2Proof.Machine

/-! ### Words of a scratchpad -/

theorem wrapWord_of_lt {a : Nat} (h : a < 4096) : wrapWord a = a := Nat.mod_eq_of_lt h

theorem Clove.word_of_scratch_eq {c d : Clove} (h : d.scratch = c.scratch) (b : Nat) : d.word b = c.word b := by
  rw [Clove.word, h, ← Clove.word]

theorem Clove.word_of_scratch_set {c d : Clove} {a : Nat} (f : SWord → SWord)
    (h : d.scratch = c.scratch.set (wrapWord a) SWord.zero (f (c.word a))) (b : Nat) :
    d.word b = if wrapWord b = wrapWord a then f (c.word b) else c.word b := by
  rw [Clove.word, h]
  split
  next hb => rw [hb, SMap.atD_set_self, Clove.word, Clove.word, hb]
  next hb => exact SMap.atD_set_ne _ _ _ (Ne.symm hb)

/-- An upset leaves the data of its word and of every other word as they were (R185). -/
theorem Clove.word_strike (c : Clove) (a : Nat) (hard : Bool) {b : Nat} (hb : b < 4096) : (c.strike a hard).word b =
    if b = a % 4096 then { c.word b with ecc := if hard then 2 else max (c.word b).ecc 1 } else c.word b := by
  have hword := Clove.word_of_scratch_set (c := c) (d := c.strike a hard)
    (fun w => { w with ecc := if hard then 2 else max w.ecc 1 }) rfl b
  rwa [wrapWord_of_lt hb] at hword

/-! ### One clove changed -/

theorem State.modClove_oneClove (s : State) (k : Nat) (f : Clove → Clove) : OneClove k s (s.modClove k f) :=
  fun _ hm => State.clove_modClove_ne s f hm.symm

theorem State.upset_singleton (s : State) (u : Flip) :
    s.upset [u] = s.modClove (cloveNo u.x u.y) fun c => c.strike u.word u.hard := rfl

end Sys2Proof.Machine
end

section
open Sys2Proof Sys2Proof.Machine

/-- Settles O9: every command that brings upsets is what it is after them, and an upset strikes one word. -/
theorem upsetsComeFirst : Obligations.UpsetsComeFirst := by
  refine ⟨fun s i c hc => ?_, fun s a us p j m n ups => ⟨rfl, rfl, rfl, rfl⟩, fun s u => ?_⟩
  · have hissue : (.next (s.issue i) : Outcome) = .next ((s.upset i.ups).issue { i with ups := [] }) :=
      congrArg Host.Outcome.next (s.issue_upset i)
    fin_cases hc <;> exact hissue
  · rw [s.upset_singleton u, State.clove_modClove_self]
    exact ⟨rfl, s.modClove_oneClove _ _, rfl, fun _ ha => Clove.word_strike _ _ _ ha⟩
end

section
/-! SUPPORT. An instruction that changes its own clove and puts messages on the mesh (R170 to R183), as its one try leaves the
machine. -/
namespace Sys2Proof.Machine

/-- The state in which clove k stands as c, and messages have joined those on the mesh. -/
def State.withClove (s : State) (k : Nat) (c : Clove) (ms : List Msg) : State := { s.setClove k c with msgs := s.msgs ++ ms }

@[simp] theorem State.issuing_msgs (s : State) (i : Issue) : (s.issuing i).msgs = s.msgs := rfl

theorem State.withClove_issuing (s : State) (i : Issue) (c : Clove) (ms : List Msg) :
    (s.issuing i).withClove i.home c ms = ({ s with issueNo := s.issueNo + 1 } : State).withClove i.home c ms :=
  congrArg (fun t : State => { t with msgs := s.msgs ++ ms }) (State.setClove_setClove _ i.home (s.clove i.home) c)

theorem SendFrame.cloveFrame {s t : State} {i : Issue} (h : SendFrame i [] s t) : CloveFrame i s t := by
  simpa [SendFrame, CloveFrame] using h

/-- An instruction that may be tried and whose try changes its clove and sends messages leaves that, with its progress
noted. -/
theorem Open.issue_withClove {s : State} {i : Issue} {c : Clove} {ms : List Msg} (h : Open s i)
    (htry : (s.issuing i).try s.issueNo i.home 0 i = ((s.issuing i).withClove i.home c ms, true))
    (hwaiting : c.waiting = (s.clove i.home).waiting) (hsfu : c.sfu = (s.clove i.home).sfu) :
    OneClove i.home s (s.issue i) ∧ SendFrame i ms s (s.issue i) ∧ (s.issue i).clove i.home = c := by
  obtain ⟨hidle, hrest⟩ := h.quiet.clove i.home
  have hquiet : Quiet ((s.issuing i).withClove i.home c ms) :=
    (h.quiet.issuing i).setClove i.home c (hwaiting.trans hidle) (hsfu.trans hrest)
  rw [State.issue_of_try h htry hquiet, State.withClove_issuing]
  exact ⟨fun m hm => State.clove_setClove_ne _ c hm.symm, rfl, State.clove_setClove_self _ i.home c⟩

end Sys2Proof.Machine
end

section
/-! SUPPORT. RGN at issue (R169, R170, R174, R176): the region that SET, POP and DROP leave, and what goes to its producer. -/
namespace Sys2Proof.Machine

/-! ### Where nothing uses the region -/

@[simp] theorem State.issuing_slotComing (s : State) (i : Issue) (k rn : Nat) : (s.issuing i).slotComing k rn = s.slotComing k rn :=
  rfl

theorem State.sendUnbind_of_uncredited {s : State} {k rn : Nat} (h : ((s.clove k).region rn).cred = false) :
    s.sendUnbind k rn = s := by
  simp [State.sendUnbind, h]

/-! ### What RGN leaves -/

/-- The region that SET makes in clove k: empty, as its word describes it (R170). -/
def RgnOp.made (o : RgnOp) (k : Nat) : Region :=
  { Region.unset with
    set := true, base := o.base.toNat, slotw := o.slotw.toNat, slots := o.slots.toNat, rdmode := o.rdmode.toNat
    stride := o.stride.toNat, manual := o.manual == 1, cred := o.cred == 1, pkind := o.pkind == 1
    prod := if o.cred = 1 then (if o.pkind = 1 then o.px.toNat else o.producer k) else 0, pch := o.pch.toNat }

/-- The grant that SET sends to the producer of a credited region (R170, R183, R225). -/
def RgnOp.grants (o : RgnOp) (k : Nat) : List Msg :=
  if o.cred = 0 then []
  else if o.pkind = 1 then
    [.grantQ k (partOf (cloveX k) (cloveY k)) o.px.toNat o.rgn.toNat o.slotw.toNat o.slots.toNat]
  else [.grant k (o.producer k) o.pch.toNat o.rgn.toNat o.slotw.toNat o.slots.toNat]

theorem State.setRgn_eq (s : State) (k : Nat) (o : RgnOp) :
    s.setRgn k o = s.withClove k ((s.clove k).setRegion o.rgn.toNat (o.made k)) (o.grants k) := by
  by_cases hcred : o.cred = 0
  · rw [RgnOp.grants, if_pos hcred, State.withClove, List.append_nil]
    exact if_pos hcred
  · rw [RgnOp.grants, if_neg hcred]
    by_cases hpkind : o.pkind = 1
    · rw [if_pos hpkind]
      refine (if_neg hcred).trans ((if_pos hpkind).trans ?_)
      simp only [RgnOp.made, if_pos hpkind]
      rfl
    · rw [if_neg hpkind]
      refine (if_neg hcred).trans ((if_neg hpkind).trans ?_)
      simp only [RgnOp.made, if_neg hpkind]
      rfl

/-- The credits that n released slots of a region give back (R174). -/
def Region.credits (r : Region) (k n : Nat) : List Msg := if r.cred then List.replicate n (r.creditMsg k) else []

theorem State.credit_eq (k : Nat) (r : Region) (n : Nat) : ∀ s : State,
    s.credit k r n = { s with msgs := s.msgs ++ r.credits k n } := by
  induction n with
  | zero => intro s; simp [State.credit, Region.credits]
  | succ n ih =>
    intro s
    rw [State.credit]
    cases hcred : r.cred with
    | false => simp [Region.credits, hcred]
    | true => simp [ih, Region.credits, hcred, List.replicate_succ, Region.creditMsg]

theorem State.putRegion_eq (s : State) (k rn : Nat) (r : Region) (n : Nat) :
    s.putRegion k rn r n = s.withClove k ((s.clove k).setRegion rn r) (r.credits k n) := State.credit_eq ..

theorem State.tryRgn_set {s : State} {no k v : Nat} {i : Issue} {o : RgnOp} (ho : RgnOp.ofWord i.word = o) (hsub : o.sub = 0)
    (hmark : i.mark = false) (hword : RgnOp.badWord i.word = false) (hover : o.overlaps (s.clove k) = false)
    (hbounds : (o.cred == 1 && o.pkind == 0 && (decide (o.px.toNat > 383) || decide (o.py.toNat > 87))) = false)
    (hunused : (s.clove k).using no o.rgn.toNat = false) (hcred : ((s.clove k).region o.rgn.toNat).cred = false)
    (hcoming : s.slotComing k o.rgn.toNat = false) : s.tryRgn no k v i = (s.setRgn k o, true) := by
  have hcode : o.sub.toNat = 0 := congrArg BitVec.toNat hsub
  unfold State.tryRgn
  simp only [ho, hmark, hword, hcode, hover, hbounds, hunused, State.sendUnbind_of_uncredited hcred, hcoming, Bool.false_eq_true,
    if_false]

theorem State.tryRgn_pop {s : State} {no k v : Nat} {i : Issue} {o : RgnOp} {r : Region} (ho : RgnOp.ofWord i.word = o)
    (hsub : o.sub = 1) (hmark : i.mark = false) (hword : RgnOp.badWord i.word = false)
    (hr : (s.clove k).region o.rgn.toNat = r) (hset : r.set = true)
    (hread : (s.clove k).tickets.any (fun t => decide (t.1 < no) && t.2.1 == o.rgn.toNat && !t.2.2) = false)
    (hplain : s.notRead no k [r.tailRuns (min o.n.toNat r.fill)] = true) : s.tryRgn no k v i =
      (s.putRegion k o.rgn.toNat { r.release (min o.n.toNat r.fill) with rpos := 0 } (min o.n.toNat r.fill), true) := by
  have hcode : o.sub.toNat = 1 := congrArg BitVec.toNat hsub
  unfold State.tryRgn
  simp only [ho, hmark, hword, hcode, hr, hset, hread, hplain, Bool.not_true, Bool.or_self, Bool.false_eq_true, if_false]

theorem State.tryRgn_drop {s : State} {no k v : Nat} {i : Issue} {o : RgnOp} {r : Region} (ho : RgnOp.ofWord i.word = o)
    (hsub : o.sub = 2) (hmark : i.mark = false) (hword : RgnOp.badWord i.word = false)
    (hr : (s.clove k).region o.rgn.toNat = r) (hset : r.set = true) (hunused : (s.clove k).using no o.rgn.toNat = false)
    (hcoming : s.slotComing k o.rgn.toNat = false) : s.tryRgn no k v i =
      (s.putRegion k o.rgn.toNat { r with tail := r.head, fill := 0, rpos := 0 } r.fill, true) := by
  have hcode : o.sub.toNat = 2 := congrArg BitVec.toNat hsub
  unfold State.tryRgn
  simp only [ho, hmark, hword, hcode, hr, hset, hunused, hcoming, Bool.not_true, Bool.or_self, Bool.false_eq_true, if_false]

theorem State.try_of_rgn {s t : State} {no k v : Nat} {i : Issue} (hop : fieldOf i.word 3 0 = 5)
    (h : s.tryRgn no k v i = (t, true)) : s.try no k v i = (t, true) := (if_pos hop).trans h

/-- An RGN that releases n slots of a region. -/
theorem Open.issue_putRegion {s : State} {i : Issue} {rn n : Nat} {r : Region} (h : Open s i) (hop : fieldOf i.word 3 0 = 5)
    (htry : (s.issuing i).tryRgn s.issueNo i.home 0 i = ((s.issuing i).putRegion i.home rn r n, true)) :
    OneClove i.home s (s.issue i) ∧ SendFrame i (r.credits i.home n) s (s.issue i) ∧
      (s.issue i).clove i.home = (s.clove i.home).setRegion rn r := by
  refine h.issue_withClove (State.try_of_rgn hop (htry.trans ?_)) rfl rfl
  rw [State.putRegion_eq, State.issuing_clove]

end Sys2Proof.Machine
end

section
open Sys2Proof Sys2Proof.Machine

/-- Settles O18: SET, POP and DROP each leave their clove with one region put, and send what goes to its producer. -/
theorem regionsAreSetAndReleased : Obligations.RegionsAreSetAndReleased := by
  refine ⟨fun s i hop hsub hopen hmark hword hover hbounds hunused hcred hcoming => ?_,
    fun s i hop hopen hmark hword hset r n hr hcase c hc => ?_⟩
  · have htry := (State.tryRgn_set (s := s.issuing i) (no := s.issueNo) (v := 0) rfl hsub hmark hword
      (by rwa [State.issuing_clove]) hbounds (by rwa [State.issuing_clove]) (by rwa [State.issuing_clove]) hcoming).trans
      (congrArg (·, true) (State.setRgn_eq ..))
    rw [State.issuing_clove] at htry
    obtain ⟨hone, hsend, hclove⟩ := hopen.issue_withClove (State.try_of_rgn hop htry) rfl rfl
    exact ⟨_, rfl, hone, hsend, _, hclove, rfl, rfl, rfl, rfl, rfl, rfl, rfl, rfl, rfl⟩
  · have hregion : ((s.issuing i).clove i.home).region (RgnOp.ofWord i.word).rgn.toNat = r := by rw [State.issuing_clove, hr]
    rw [← hr] at hset
    rcases hcase with ⟨hsub, hn, hread, hplain⟩ | ⟨hsub, hn, hunused, hcoming⟩
    · rw [if_pos hsub] at hc ⊢
      obtain rfl := List.mem_singleton.1 hc
      have htry := State.tryRgn_pop (s := s.issuing i) (no := s.issueNo) (v := 0) rfl hsub hmark hword hregion hset
        (by rwa [State.issuing_clove]) (by rwa [State.issuing_notRead, ← hn])
      rw [← hn] at htry
      obtain ⟨hone, hsend, hclove⟩ := hopen.issue_putRegion hop htry
      have hmin : min n r.fill = n := by omega
      exact ⟨_, _, rfl, hone, hsend, hclove, by simp [Region.release, hmin], rfl, rfl, by simp [Region.release, hmin]⟩
    · have hpop : (RgnOp.ofWord i.word).sub ≠ 1 := by rw [hsub]; decide
      rw [if_neg hpop] at hc ⊢
      obtain rfl := List.mem_singleton.1 hc
      obtain ⟨hone, hsend, hclove⟩ := hopen.issue_putRegion hop (State.tryRgn_drop (s := s.issuing i) (no := s.issueNo) (v := 0)
        rfl hsub hmark hword hregion hset (by rwa [State.issuing_clove]) hcoming)
      rw [← hn] at hsend
      exact ⟨_, _, rfl, hone, hsend, hclove, by simp [hn], rfl, rfl, rfl⟩
end

section
/-! SUPPORT. REMOTE at issue (R180 to R183, R234): what each form changes in its clove and puts on the mesh. -/
namespace Sys2Proof.Machine

/-- A REMOTE that no rule refuses, whose target has power where its word names one. -/
structure RemoteReady (s : State) (k : Nat) (i : Issue) (o : RemoteOp) (dst : Nat) : Prop where
  op : RemoteOp.ofWord i.word = o
  target : partClove (partOf (cloveX k) (cloveY k)) o.rx.toNat o.ry.toNat = dst
  mark : i.mark = false
  word : RemoteOp.badWord i.word = false
  bounds : (decide (o.sub.toNat < 2) && (decide (o.rx.toNat > 383) || decide (o.ry.toNat > 87))) = false
  power : (decide (o.sub.toNat < 2) && !s.powered (cloveX dst) (cloveY dst)) = false

section
variable {s : State} {no k v : Nat} {i : Issue} {o : RemoteOp} {dst : Nat}

/-- A READ takes a scoreboard entry for its local words and counts until they come (R180, R234). -/
theorem RemoteReady.tryRemote_read (h : RemoteReady s k i o dst) (hsub : o.sub = 0) (hfree : 0 < (s.clove k).freeSb 3)
    (hplain : s.notRead no k [[(o.laddr.toNat, o.len.toNat)]] = true) : s.tryRemote no k v i = some (s.withClove k
      { (s.clove k).takeSb 3 no [[(o.laddr.toNat, o.len.toNat)]] with reads := (s.clove k).reads + 1 }
      [.readReq k dst o.raddr.toNat o.laddr.toNat o.len.toNat]) := by
  have hcode : o.sub.toNat = 0 := congrArg BitVec.toNat hsub
  unfold State.tryRemote
  simp only [h.op, h.target, h.mark, h.word, h.bounds, h.power, Bool.false_eq_true, if_false]
  simp only [hcode, hplain, Nat.ne_of_gt hfree, decide_false, Bool.not_true, Bool.or_self, Bool.false_eq_true, if_false]
  rfl

/-- A WRITE sends the words at its local address and counts until it is acknowledged (R182, R234). -/
theorem RemoteReady.tryRemote_write (h : RemoteReady s k i o dst) (hsub : o.sub = 1)
    (hclean : ∀ a, ((s.clove k).word a).ecc = 0) : s.tryRemote no k v i = some (s.withClove k
      { s.clove k with unacked := (s.clove k).unacked + 1 }
      [.write k dst o.raddr.toNat ((s.clove k).getWords o.laddr.toNat o.len.toNat) o.len.toNat]) := by
  have hcode : o.sub.toNat = 1 := congrArg BitVec.toNat hsub
  unfold State.tryRemote
  simp only [h.op, h.target, h.mark, h.word, h.bounds, h.power, Bool.false_eq_true, if_false]
  simp only [hcode, State.touchN_id hclean]
  rfl

/-- A SLOT takes a credit of its channel, sends a slot to the region that the channel is bound to, and counts until it is
acknowledged (R183, R234). -/
theorem RemoteReady.tryRemote_slot (h : RemoteReady s k i o dst) (hsub : o.sub = 2)
    (hclean : ∀ a, ((s.clove k).word a).ecc = 0) {ch : Channel} (hch : (s.clove k).channel o.ch.toNat = ch) {d : Nat}
    (hbound : ch.target = some d) (hpower : s.powered (cloveX d) (cloveY d) = true) (hcredits : 0 < ch.credits) :
    s.tryRemote no k v i = some (s.withClove k
      { (s.clove k).setChannel o.ch.toNat { ch with credits := ch.credits - 1 } with unacked := (s.clove k).unacked + 1 }
      [.slot k d ch.rgn o.ch.toNat ((s.clove k).getWords o.laddr.toNat ch.slotw)]) := by
  have hcode : o.sub.toNat = 2 := congrArg BitVec.toNat hsub
  unfold State.tryRemote
  simp only [h.op, h.target, h.mark, h.word, h.bounds, h.power, Bool.false_eq_true, if_false]
  simp only [hcode, hch, hbound, hpower, Nat.ne_of_gt hcredits, State.touchN_id hclean, Bool.not_true, Bool.false_eq_true,
    if_false]
  rfl

/-- An UNBIND clears its channel once no SLOT of it is on the mesh (R183). -/
theorem RemoteReady.tryRemote_unbind (h : RemoteReady s k i o dst) (hsub : o.sub = 3)
    (hsent : s.slotSent k o.ch.toNat = false) :
    s.tryRemote no k v i = some (s.withClove k ((s.clove k).setChannel o.ch.toNat Channel.unbound) []) := by
  have hcode : o.sub.toNat = 3 := congrArg BitVec.toNat hsub
  unfold State.tryRemote
  simp only [h.op, h.target, h.mark, h.word, h.bounds, h.power, Bool.false_eq_true, if_false]
  simp only [hcode, hsent, State.withClove, List.append_nil, Bool.false_eq_true, if_false]
  rfl

theorem State.try_of_remote {t : State} (hop : fieldOf i.word 3 0 = 6) (h : s.tryRemote no k v i = some t) :
    s.try no k v i = (t, true) := by
  simp [State.try, hop, h]

end

end Sys2Proof.Machine
end

section
open Sys2Proof Sys2Proof.Machine

/-- Settles O19: each form is tried once, in a machine where nothing else waits, and leaves its clove and its message. -/
theorem remoteSends : Obligations.RemoteSends := by
  intro s i hop hopen hmark hword hreach hclean
  have hready : RemoteReady (s.issuing i) i.home i (RemoteOp.ofWord i.word)
      (partClove i.part (RemoteOp.ofWord i.word).rx.toNat (RemoteOp.ofWord i.word).ry.toNat) := by
    refine ⟨rfl, rfl, hmark, hword, ?_, ?_⟩
    all_goals
      by_cases hnames : (RemoteOp.ofWord i.word).sub.toNat < 2
      · obtain ⟨hx, hy, hpower⟩ := hreach hnames
        have hpower' : (s.issuing i).powered _ _ = true := hpower
        simp [hx, hy, hpower']
      · simp [hnames]
  have hclove : (s.issuing i).clove i.home = s.clove i.home := State.issuing_clove ..
  refine ⟨fun hsub hfree hplain => ?_, fun hsub => ?_, fun hsub d hbound hpower hcredits => ?_, fun hsub hsent => ?_⟩
  · have htry := hready.tryRemote_read (no := s.issueNo) (v := 0) hsub (by rwa [hclove]) (by rwa [State.issuing_notRead])
    rw [hclove] at htry
    exact ⟨_, rfl, hopen.issue_withClove (State.try_of_remote hop htry) rfl rfl⟩
  · have htry := hready.tryRemote_write (no := s.issueNo) (v := 0) hsub (by rw [hclove]; exact hclean (by rw [hsub]; decide))
    rw [hclove] at htry
    exact ⟨_, rfl, hopen.issue_withClove (State.try_of_remote hop htry) rfl rfl⟩
  · have htry := hready.tryRemote_slot (no := s.issueNo) (v := 0) hsub (by rw [hclove]; exact hclean (by rw [hsub]; decide))
      (by rw [hclove]) hbound hpower hcredits
    rw [hclove] at htry
    exact ⟨_, rfl, hopen.issue_withClove (State.try_of_remote hop htry) rfl rfl⟩
  · have htry := hready.tryRemote_unbind (no := s.issueNo) (v := 0) hsub hsent
    rw [hclove] at htry
    obtain ⟨hone, hsend, hunbound⟩ := hopen.issue_withClove (State.try_of_remote hop htry) rfl rfl
    exact ⟨_, rfl, hone, hsend.cloveFrame, hunbound⟩
end

section
/-! SUPPORT. Messages that arrive where nothing waits (R182, R183, R233, R234): what each kind leaves at its target. -/
namespace Sys2Proof.Machine

/-! ### The oldest message, and what is left of the machine -/

theorem State.takeMsg_front {s : State} {m : Msg} {ms : List Msg} {f : Msg → Bool} (hmsgs : s.msgs = m :: ms) (hf : f m = true) :
    s.takeMsg f = some (m, { s with msgs := ms }) := by
  simp [State.takeMsg, hmsgs, hf]

/-- In a quiet machine an arrival that changes one clove, in which nothing begins to wait, moves nothing else. -/
theorem Quiet.next_settle {s u : State} {k : Nat} {c : Clove} {ms : List Msg} (h : Quiet s)
    (hu : u = { s with msgs := ms, cloves := s.cloves.put k c }) (hwaiting : c.waiting = (s.clove k).waiting)
    (hsfu : c.sfu = (s.clove k).sfu) : (.next u.settle : Outcome) = .next { s with msgs := ms, cloves := s.cloves.put k c } := by
  have hset := h.setClove k c (hwaiting.trans (h.clove k).1) (hsfu.trans (h.clove k).2)
  have hquiet : Quiet u := hset.of_cloves (congrArg (·.cloves) hu)
  rw [hquiet.settle, hu]

theorem Clove.DataOnly.waiting {c d : Clove} (h : c.DataOnly d) : d.waiting = c.waiting := by rw [h]
theorem Clove.DataOnly.sfu {c d : Clove} (h : c.DataOnly d) : d.sfu = c.sfu := by rw [h]

theorem Clove.freeRange_eq (c : Clove) (a n : Nat) : c.freeRange a n = { c with sb := (c.freeRange a n).sb } := by
  unfold Clove.freeRange
  split <;> rfl

theorem Clove.freeRange_waiting (c : Clove) (a n : Nat) : (c.freeRange a n).waiting = c.waiting := by rw [c.freeRange_eq a n]
theorem Clove.freeRange_sfu (c : Clove) (a n : Nat) : (c.freeRange a n).sfu = c.sfu := by rw [c.freeRange_eq a n]

theorem satInc_eq_min (m a : Nat) : satInc m a = min (a + 1) m := by
  unfold satInc
  split <;> omega

/-! ### Remote accesses at a target with power (R182, R183, R233) -/

section
variable {s : State} {src dst : Nat} {ms : List Msg}

theorem State.arriveAccess_write {a l : Nat} {ws : List (W64 × Bool)} (hmsgs : s.msgs = .write src dst a ws l :: ms)
    (hpower : s.powered (cloveX dst) (cloveY dst) = true)
    (hplain : (s.clove dst).regions.any (fun e => e.2.set && runsMeet a ws.length e.2.base e.2.size) = false)
    (hfree : (s.clove dst).busyRange a ws.length = false) : s.arriveAccess src dst =
      { s with msgs := ms ++ [.ackMsg dst src false], cloves := s.cloves.put dst ((s.clove dst).putWords a ws) } := by
  have hclove : ({ s with msgs := ms } : State).clove dst = s.clove dst := rfl
  unfold State.arriveAccess
  rw [State.takeMsg_front hmsgs (by simp)]
  simp only [hpower, State.arriveWrite, hclove, hplain, hfree, Bool.not_true, Bool.false_eq_true, if_false, Option.getD_some]
  rfl

theorem State.arriveAccess_read {a la n : Nat} (hmsgs : s.msgs = .readReq src dst a la n :: ms)
    (hpower : s.powered (cloveX dst) (cloveY dst) = true) (hfree : (s.clove dst).busyRange a n = false)
    (hclean : ∀ a, ((s.clove dst).word a).ecc = 0) : s.arriveAccess src dst =
      { s with msgs := ms ++ [.readData dst src la ((s.clove dst).getWords a n)] } := by
  have htouch : ({ s with msgs := ms } : State).touchN dst a n = { s with msgs := ms } :=
    State.touchN_id (s := { s with msgs := ms }) hclean n a
  unfold State.arriveAccess
  rw [State.takeMsg_front hmsgs (by simp)]
  simp only [hpower, hfree, htouch, Bool.not_true, Bool.false_eq_true, if_false]
  rfl

/-- A clove whose region has taken one more slot. -/
def Clove.slotFilled (c : Clove) (rn : Nat) (ws : List (W64 × Bool)) : Clove :=
  (c.putWords (c.region rn).headBase (ws.take (c.region rn).slotw)).setRegion rn
    ((c.putWords (c.region rn).headBase (ws.take (c.region rn).slotw)).region rn).fillSlot

theorem State.arriveAccess_slot {rn ch : Nat} {ws : List (W64 × Bool)} (hmsgs : s.msgs = .slot src dst rn ch ws :: ms)
    (hpower : s.powered (cloveX dst) (cloveY dst) = true) (hset : ((s.clove dst).region rn).set = true)
    (hstopped : ((s.clove dst).region rn).stopped = false) (hspace : ((s.clove dst).region rn).hasSpace = true)
    (hkind : ((s.clove dst).region rn).pkind = false) (hsrc : ((s.clove dst).region rn).prod = src)
    (hch : ((s.clove dst).region rn).pch = ch) : s.arriveAccess src dst =
      { s with msgs := ms ++ [.ackMsg dst src false], cloves := s.cloves.put dst ((s.clove dst).slotFilled rn ws) } := by
  have hclove : ({ s with msgs := ms } : State).clove dst = s.clove dst := rfl
  unfold State.arriveAccess
  rw [State.takeMsg_front hmsgs (by simp)]
  simp only [hpower, State.arriveSlot, hclove, hset, hstopped, hspace, hkind, hsrc, hch, Bool.not_true, Bool.or_self, ne_eq,
    not_true_eq_false, decide_false, Bool.false_eq_true, if_false]
  rfl

end

theorem Clove.putWords_region (c : Clove) (a rn : Nat) (ws : List (W64 × Bool)) : (c.putWords a ws).region rn = c.region rn := by
  induction ws generalizing c a with
  | nil => rfl
  | cons w ws ih => exact (ih _ _).trans rfl

@[simp] theorem Clove.region_setRegion_self (c : Clove) (rn : Nat) (r : Region) : (c.setRegion rn r).region rn = r :=
  SMap.atD_put_self ..

theorem Clove.slotFilled_fill (c : Clove) (rn : Nat) (ws : List (W64 × Bool)) :
    ((c.slotFilled rn ws).region rn).fill = (c.region rn).fill + 1 := by
  rw [Clove.slotFilled, Clove.region_setRegion_self, Clove.putWords_region]
  rfl

theorem Clove.slotFilled_dataOnly (c : Clove) (rn : Nat) (ws : List (W64 × Bool)) : c.DataOnly (c.slotFilled rn ws) :=
  (Clove.putWords_dataOnly ..).trans (Clove.setRegion_dataOnly ..)

/-! ### Answers, grants and credits (R182, R183, R234) -/

section
variable {s : State} {src dst h : Nat} {ms : List Msg}

theorem State.arriveAck_ack (hmsgs : s.msgs = .ackMsg src dst false :: ms) : s.arriveAck src dst = { s with
    msgs := ms, cloves := s.cloves.put dst { s.clove dst with unacked := (s.clove dst).unacked - 1 } } := by
  unfold State.arriveAck
  rw [State.takeMsg_front hmsgs (by simp)]
  rfl

theorem State.arriveAck_data {la : Nat} {ws : List (W64 × Bool)} (hmsgs : s.msgs = .readData src dst la ws :: ms) :
    s.arriveAck src dst = { s with
      msgs := ms, cloves := s.cloves.put dst { ((s.clove dst).putWords la ws).freeRange la ws.length with
        reads := (s.clove dst).reads - 1 } } := by
  unfold State.arriveAck
  rw [State.takeMsg_front hmsgs (by simp)]
  rfl

theorem State.arriveGrant_binds {rn w n : Nat} (hmsgs : s.msgs = .grant src dst h rn w n :: ms)
    (hfor : ((s.clove dst).channel h).target = none ∨
      (((s.clove dst).channel h).target = some src ∧ ((s.clove dst).channel h).rgn = rn)) :
    s.arriveGrant src dst = { s with
      msgs := ms, cloves := s.cloves.put dst ((s.clove dst).setChannel h
        ⟨some src, rn, w, min (((s.clove dst).channel h).credits + n) 255⟩) } := by
  have htakes : ((((s.clove dst).channel h).target.isNone ||
      (((s.clove dst).channel h).target == some src && ((s.clove dst).channel h).rgn == rn))) = true := by
    rcases hfor with hnone | ⟨htarget, hrgn⟩
    · simp [hnone]
    · simp [htarget, hrgn]
  unfold State.arriveGrant
  rw [State.takeMsg_front hmsgs (by simp)]
  exact if_pos htakes

theorem State.arriveCredit_adds (hmsgs : s.msgs = .creditRet src dst h :: ms)
    (htarget : ((s.clove dst).channel h).target = some src) : s.arriveCredit src dst = { s with
      msgs := ms, cloves := s.cloves.put dst ((s.clove dst).setChannel h
        { (s.clove dst).channel h with credits := min (((s.clove dst).channel h).credits + 1) 255 }) } := by
  have htakes : (((s.clove dst).channel h).target == some src) = true := by simp [htarget]
  unfold State.arriveCredit
  rw [State.takeMsg_front hmsgs (by simp)]
  refine (if_pos htakes).trans ?_
  rw [satInc_eq_min]
  rfl

theorem State.arriveUnbind_clears {rn : Nat} (hmsgs : s.msgs = .unbind src dst h rn :: ms)
    (htarget : ((s.clove dst).channel h).target = some src) (hrgn : ((s.clove dst).channel h).rgn = rn)
    (hsent : ∀ m ∈ ms, ∀ d r ws, m ≠ .slot dst d r h ws) : s.arriveUnbind src dst = { s with
      msgs := ms, cloves := s.cloves.put dst ((s.clove dst).setChannel h Channel.unbound) } := by
  have hnone : ¬ ({ s with msgs := ms } : State).slotSent dst h = true := by
    simp only [State.slotSent, List.any_eq_true, not_exists, not_and]
    intro m hm
    cases m with
    | slot q d r c ws =>
      simp only [Bool.and_eq_true, beq_iff_eq]
      rintro ⟨rfl, rfl⟩
      exact hsent _ hm d r ws rfl
    | _ => simp
  have htakes : (((s.clove dst).channel h).target == some src && ((s.clove dst).channel h).rgn == rn) = true := by
    simp [htarget, hrgn]
  unfold State.arriveUnbind
  rw [State.takeMsg_front hmsgs (by simp)]
  exact (if_neg hnone).trans (if_pos htakes)

end

end Sys2Proof.Machine
end

section
open Sys2Proof Sys2Proof.Machine

/-- Settles O20: the oldest message is taken and has its effect, after which nothing else moves. -/
theorem messagesLand : Obligations.MessagesLand := by
  refine ⟨fun s src dst hquiet hpower => ⟨?_, ?_, ?_⟩, fun s src dst ms hquiet => ⟨?_, ?_, ?_, ?_, ?_⟩⟩
  · intro a l ws ms hmsgs hplain hfree
    have hdata := (s.clove dst).putWords_dataOnly ws a
    exact hquiet.next_settle (State.arriveAccess_write hmsgs hpower hplain hfree) hdata.waiting hdata.sfu
  · intro a la n ms hmsgs hfree hclean
    have hread := State.arriveAccess_read hmsgs hpower hfree hclean
    exact congrArg Host.Outcome.next ((congrArg State.settle hread).trans (Quiet.settle (hquiet.of_cloves rfl)))
  · intro rn ch ws ms hmsgs hset hstopped hspace hkind hsrc hch
    have hdata := (s.clove dst).slotFilled_dataOnly rn ws
    have hland := State.arriveAccess_slot hmsgs hpower hset hstopped hspace hkind hsrc hch
    have hclove := s.clove_setClove_self dst ((s.clove dst).slotFilled rn ws)
    refine ⟨_, hquiet.next_settle hland hdata.waiting hdata.sfu, fun m hm => s.clove_setClove_ne _ hm.symm, rfl, ?_, ?_⟩
    · exact (congrArg (fun c => (c.region rn).fill) hclove).trans (Clove.slotFilled_fill ..)
    · exact (congrArg Clove.scratch hclove).trans rfl
  · exact fun hmsgs => hquiet.next_settle (State.arriveAck_ack hmsgs) rfl rfl
  · intro la ws hmsgs
    have hdata := (s.clove dst).putWords_dataOnly ws la
    exact hquiet.next_settle (State.arriveAck_data hmsgs) ((Clove.freeRange_waiting ..).trans hdata.waiting)
      ((Clove.freeRange_sfu ..).trans hdata.sfu)
  · exact fun h rn w n hmsgs hfor => hquiet.next_settle (State.arriveGrant_binds hmsgs hfor) rfl rfl
  · exact fun h hmsgs htarget => hquiet.next_settle (State.arriveCredit_adds hmsgs htarget) rfl rfl
  · exact fun h rn hmsgs htarget hrgn hsent =>
      hquiet.next_settle (State.arriveUnbind_clears hmsgs htarget hrgn hsent) rfl rfl
end

section
/-! SUPPORT. Scrubbing (R185, R187): the one word that the scrub controller reads or writes back. -/
namespace Sys2Proof.Machine

/-! ### A scrub read -/

/-- A read that meets a correctable word counts it and, where no write-back is queued, queues it (R185). -/
theorem State.touch_correctable {s : State} {k a : Nat} (hecc : ((s.clove k).word a).ecc = 1) (hqueue : (s.clove k).scrubQ = []) :
    s.touch k a = (s.addFld .fldScrEcc (fieldOfClove (cloveX k) (cloveY k)) 0 15 0 1).setClove k
      { s.clove k with scrubQ := [wrapWord a] } := by
  unfold State.touch
  simp only [hecc, hqueue, List.length_nil, Nat.zero_lt_succ, List.contains_nil, Bool.not_false, and_self, if_true, List.nil_append]

theorem State.sweepNext_setClove (s : State) {k : Nat} {c : Clove} (h : c.scrubAt < 4095) :
    (s.setClove k c).sweepNext k = s.setClove k { c with scrubAt := c.scrubAt + 1 } := by
  have hnext : c.scrubAt + 1 < 4096 := by omega
  simp only [State.sweepNext, State.clove_setClove_self, hnext, if_true, State.setClove_setClove]

/-- A clove whose scrub controller has read its next word, which had no error, and found it valid (0) or correctable (1). -/
def Clove.scrubRead (c : Clove) (time found : Nat) : Clove :=
  { c with
    scratch := c.scratch.set c.scrubAt SWord.zero { c.word c.scrubAt with ecc := found }
    sweepFrom := if c.scrubAt = 0 then time else c.sweepFrom }

theorem Clove.word_scrubRead {c : Clove} (hat : c.scrubAt < 4096) (time found b : Nat) : (c.scrubRead time found).word b =
    if wrapWord b = c.scrubAt then { c.word b with ecc := found } else c.word b := by
  have hword := Clove.word_of_scratch_set (c := c) (d := c.scrubRead time found) (a := c.scrubAt)
    (fun w => { w with ecc := found }) (by rw [wrapWord_of_lt hat]; rfl) b
  rwa [wrapWord_of_lt hat] at hword

/-- The scrub's own write-back of word a is queued, unless one is. -/
def State.queueScrub (s : State) (k a : Nat) : State :=
  s.modClove k fun c => if c.scrubQ.contains a then c else { c with scrubQ := c.scrubQ ++ [a] }

section
variable {s : State} {k : Nat} (hpower : s.powered (cloveX k) (cloveY k) = true)
  (hecc : ((s.clove k).word (s.clove k).scrubAt).ecc = 0) (hat : (s.clove k).scrubAt < 4095) (hqueue : (s.clove k).scrubQ = [])
include hpower hecc

theorem State.scrub_powered (found : Nat) : s.scrub k found =
    (if found = 1 then ((s.setClove k ((s.clove k).scrubRead s.up.time found)).touch k (s.clove k).scrubAt).queueScrub k
        (s.clove k).scrubAt
      else (s.setClove k ((s.clove k).scrubRead s.up.time found)).touch k (s.clove k).scrubAt).sweepNext k := by
  unfold State.scrub
  extract_lets c a c1 w w1 c2 s1 s2
  have hw1 : w1 = { c.word a with ecc := found } := by
    have hword : w = c.word a := Clove.word_of_scratch_eq (by dsimp only [c1]; split <;> rfl) a
    dsimp only [w1]
    rw [hword]
    split
    next hvalid => rw [hvalid, ← hecc]
    next => rfl
  have hc2 : c2 = c.scrubRead s.up.time found := by
    by_cases ha : a = 0 <;> simp [c2, c1, hw1, Clove.scrubRead, a, ha]
  rw [if_neg (by simp [hpower])]
  simp only [s2, s1, hc2, hw1]
  rfl

include hat

/-- A word without error stays as it is, and the sweep goes on. -/
theorem State.scrub_valid : s.scrub k 0 =
    s.setClove k { (s.clove k).scrubRead s.up.time 0 with scrubAt := (s.clove k).scrubAt + 1 } := by
  have hword := Clove.word_scrubRead (c := s.clove k) (by omega) s.up.time 0 (s.clove k).scrubAt
  rw [if_pos (wrapWord_of_lt (by omega))] at hword
  rw [State.scrub_powered hpower hecc, if_neg Nat.zero_ne_one,
    State.touch_id _ k _ (by rw [State.clove_setClove_self, hword])]
  exact s.sweepNext_setClove hat

include hqueue

/-- A correctable word is counted and queued for its write-back, once. -/
theorem State.scrub_correctable : s.scrub k 1 =
    (s.addFld .fldScrEcc (fieldOfClove (cloveX k) (cloveY k)) 0 15 0 1).setClove k { (s.clove k).scrubRead s.up.time 1 with
      scrubQ := [(s.clove k).scrubAt], scrubAt := (s.clove k).scrubAt + 1 } := by
  have hwrap : wrapWord (s.clove k).scrubAt = (s.clove k).scrubAt := wrapWord_of_lt (by omega)
  have hword := Clove.word_scrubRead (c := s.clove k) (by omega) s.up.time 1 (s.clove k).scrubAt
  rw [if_pos hwrap] at hword
  have htouch := State.touch_correctable (s := s.setClove k ((s.clove k).scrubRead s.up.time 1))
    (k := k) (a := (s.clove k).scrubAt) (by rw [State.clove_setClove_self, hword]) (by rw [State.clove_setClove_self]; exact hqueue)
  rw [State.clove_setClove_self, hwrap] at htouch
  rw [State.scrub_powered hpower hecc, if_pos rfl, htouch, State.queueScrub, State.modClove, State.clove_setClove_self,
    if_pos (by simp), State.setClove_setClove]
  refine (State.sweepNext_setClove _ ?_).trans
    (State.setClove_setClove (s.addFld .fldScrEcc (fieldOfClove (cloveX k) (cloveY k)) 0 15 0 1) k _ _)
  exact hat

end

/-- What a scrub read of a word without error leaves of its clove. -/
theorem State.scrub_spec {s : State} {k found : Nat} (hpower : s.powered (cloveX k) (cloveY k) = true) (hfound : found ≤ 1)
    (hecc : ((s.clove k).word (s.clove k).scrubAt).ecc = 0) (hat : (s.clove k).scrubAt < 4095)
    (hqueue : (s.clove k).scrubQ = []) : OneClove k s (s.scrub k found) ∧
      (s.scrub k found).clove k = { (s.clove k).scrubRead s.up.time found with
        scrubQ := if found = 1 then [(s.clove k).scrubAt] else [], scrubAt := (s.clove k).scrubAt + 1 } := by
  have hfinds : found = 0 ∨ found = 1 := by omega
  rcases hfinds with rfl | rfl
  · rw [State.scrub_valid hpower hecc hat, State.clove_setClove_self, ← hqueue]
    exact ⟨fun m hm => State.clove_setClove_ne _ _ hm.symm, rfl⟩
  · rw [State.scrub_correctable hpower hecc hat hqueue, State.clove_setClove_self]
    exact ⟨fun m hm => State.clove_setClove_ne _ _ hm.symm, rfl⟩

/-! ### A write-back -/

/-- A clove whose oldest queued word, a, has been stored with fresh check bits. -/
def Clove.writtenBack (c : Clove) (a : Nat) (as : List Nat) : Clove :=
  { c with scratch := c.scratch.set a SWord.zero { c.word a with ecc := 0 }, scrubQ := as }

theorem Clove.word_writtenBack (c : Clove) {a b : Nat} (ha : a < 4096) (hb : b < 4096) (as : List Nat) :
    (c.writtenBack a as).word b = if b = a then { c.word a with ecc := 0 } else c.word b := by
  have hword := Clove.word_of_scratch_set (c := c) (d := c.writtenBack a as) (a := a)
    (fun _ => { c.word a with ecc := 0 }) (by rw [wrapWord_of_lt ha]; rfl) b
  rwa [wrapWord_of_lt ha, wrapWord_of_lt hb] at hword

theorem State.writeback_eq {s : State} {k a : Nat} {as : List Nat} (h : (s.clove k).scrubQ = a :: as) :
    s.writeback k = s.setClove k ((s.clove k).writtenBack a as) := by
  simp only [State.writeback, State.modClove, h]
  rfl

end Sys2Proof.Machine
end

section
/-! SUPPORT. A word that fails on its link (R218, R232): its mark, where it is, and the event that says so (R420, R422). -/
namespace Sys2Proof.Machine

/-! ### What an event leaves as it is (R420, R424) -/

theorem State.log_record (s : State) (c : Code) (part h0 h1 w2 w3 : Nat) : ∃ r,
    (s.log c part h0 h1 w2 w3).err.log.at? (s.err.nextSeq % 4096) = some r ∧ r.code = c.val := by
  have hlog : (s.log c part h0 h1 w2 w3).err = (s.logRaw c.val c.cls c.persists part h0 h1 w2 w3).err := by
    unfold State.log
    split
    · exact State.setAlert_err ..
    · rfl
  rw [hlog]
  exact ⟨_, SMap.at?_put_self .., rfl⟩

/-- Requests and their aborts alone may differ. -/
def AbortsOnly (s t : State) : Prop := t = { s with srv := t.srv, err := { s.err with aborts := t.err.aborts } }

theorem AbortsOnly.refl (s : State) : AbortsOnly s s := rfl

theorem AbortsOnly.trans {a b c : State} (h : AbortsOnly a b) (g : AbortsOnly b c) : AbortsOnly a c := by
  unfold AbortsOnly at *
  conv_lhs => rw [g, h]

theorem State.voidReq_abortsOnly (s : State) (l code cls part seq : Nat) : AbortsOnly s (s.voidReq l code cls part seq) := by
  unfold State.voidReq
  split <;> rfl

theorem State.queueAbort_abortsOnly (s : State) (l code cls seq : Nat) (b : Bool) :
    AbortsOnly s (s.queueAbort l code cls seq b) := by
  unfold State.queueAbort
  split
  · split <;> rfl
  · rfl

theorem State.contain_abortsOnly (s : State) (c : Code) (part seq : Nat) : AbortsOnly s (s.contain c part seq) := by
  have habort (l cls : Nat) (b : Bool) :
      AbortsOnly s ((s.voidReq l c.val cls part seq).queueAbort l c.val cls seq b) :=
    (s.voidReq_abortsOnly ..).trans (State.queueAbort_abortsOnly ..)
  unfold State.contain
  extract_lets l
  split
  · exact .refl s
  · split
    · exact habort ..
    · split
      · split
        · exact habort ..
        · exact .refl s
      · exact .refl s

/-- An event that is not RANGE_SAT is its record, and then what its class does (R420, R427). -/
theorem State.event_abortsOnly (s : State) {c : Code} (hc : c ≠ .rangeSat) (part h0 h1 w2 w3 : Nat) :
    AbortsOnly (s.log c part h0 h1 w2 w3) (s.event c part h0 h1 w2 w3) := by
  have hclass : s.event c part h0 h1 w2 w3 = (s.log c part h0 h1 w2 w3).contain c part s.err.nextSeq := if_neg (by simp [hc])
  rw [hclass]
  exact State.contain_abortsOnly ..

/-! ### The word on its link (R218) -/

theorem State.clove_congr {s t : State} (h : t.cloves = s.cloves) (k : Nat) : t.clove k = s.clove k := by
  rw [State.clove, h, ← State.clove]

/-- The fifth failure of a word, before its event. -/
def State.linkCounted (s : State) (field seam link : Nat) (w : LinkPlace) (i : Nat) : State :=
  let u := (s.markOnLink w i).modField field fun f => { f with
    pendWires := f.pendWires.put (seam * 65536 + link % 65536) (f.pendWires.atD (seam * 65536 + link % 65536) 0 + 1) }
  ({ u with up := { u.up with mapDirty := true } } : State).addFld .fldFabStat field 0 31 16 1

theorem State.linkFail_eq (s : State) {fails : Nat} (h : 5 ≤ fails) (field seam link : Nat) (w : LinkPlace) (i : Nat) :
    ∃ w2 w3, s.linkFail field seam link fails w i =
      (s.linkCounted field seam link w i).event .linkUe (field / 3) field seam w2 w3 :=
  ⟨_, _, if_neg (by omega)⟩

theorem State.markOnLink_regs (s : State) (w : LinkPlace) (i : Nat) : (s.markOnLink w i).regs = s.regs := by
  cases w <;> rfl

theorem State.markOnLink_err (s : State) (w : LinkPlace) (i : Nat) : (s.markOnLink w i).err = s.err := by
  cases w <;> rfl

theorem State.markOnLink_landed (s : State) (dst i : Nat) :
    OneClove dst s (s.markOnLink (.landed dst) i) ∧ ∀ a, a < 4096 → ((s.markOnLink (.landed dst) i).clove dst).word a =
      if a = i % 4096 then { (s.clove dst).word a with mark := true } else (s.clove dst).word a := by
  refine ⟨s.modClove_oneClove dst _, fun a ha => ?_⟩
  have hword := Clove.word_of_scratch_set (c := s.clove dst) (d := (s.markOnLink (.landed dst) i).clove dst) (a := i)
    (fun w => { w with mark := true }) (by rw [State.markOnLink, State.clove_modClove_self]) a
  rwa [wrapWord_of_lt ha] at hword

theorem State.markOnLink_mesh {s : State} {n : Nat} {m : Msg} (h : s.msgs[n]? = some m) (i : Nat) :
    (s.markOnLink (.mesh n) i).msgs = s.msgs.set n (m.markWord i) := by
  simp only [State.markOnLink, h]

theorem State.linkCounted_fld (s : State) (field seam link : Nat) (w : LinkPlace) (i : Nat) :
    (s.linkCounted field seam link w i).fld .fldFabStat field 0 31 16 = min (s.fld .fldFabStat field 0 31 16 + 1) 65535 := by
  have hbefore : (s.markOnLink w i).fld .fldFabStat field 0 31 16 = s.fld .fldFabStat field 0 31 16 := by
    rw [State.fld, State.reg, State.markOnLink_regs, ← State.reg, ← State.fld]
  refine (State.fld_setFld_self _ .fldFabStat field 0 _ (by decide) (by decide)).trans ?_
  rw [← hbefore]
  exact Nat.mod_eq_of_lt (by omega)

/-- The fifth failure of a word on its link: what it leaves beside its record, its count and its abort is the marked word. -/
theorem State.linkFail_spec (s : State) {fails : Nat} (h : 5 ≤ fails) (field seam link : Nat) (w : LinkPlace) (i : Nat) :
    ∃ t r, s.linkFail field seam link fails w i = t ∧
      t.fld .fldFabStat field 0 31 16 = min (s.fld .fldFabStat field 0 31 16 + 1) 65535 ∧
      t.err.nextSeq = s.err.nextSeq + 1 ∧ t.err.log.at? (s.err.nextSeq % 4096) = some r ∧ r.code = Code.linkUe.val ∧
      t.cloves = (s.markOnLink w i).cloves ∧ t.msgs = (s.markOnLink w i).msgs ∧ t.inflight = (s.markOnLink w i).inflight := by
  obtain ⟨w2, w3, hfail⟩ := s.linkFail_eq h field seam link w i
  have herr : (s.linkCounted field seam link w i).err = s.err := State.markOnLink_err ..
  have hevent := (s.linkCounted field seam link w i).event_abortsOnly (c := .linkUe) (by decide) (field / 3) field seam w2 w3
  obtain ⟨r, hrecord, hcode⟩ := (s.linkCounted field seam link w i).log_record .linkUe (field / 3) field seam w2 w3
  have hseq := (s.linkCounted field seam link w i).log_nextSeq .linkUe (field / 3) field seam w2 w3
  have hlog := (s.linkCounted field seam link w i).log_eq .linkUe (field / 3) field seam w2 w3
  have hfld : ((s.linkCounted field seam link w i).log .linkUe (field / 3) field seam w2 w3).fld .fldFabStat field 0 31 16 = _ :=
    (congrArg (regField · 31 16) (State.reg_log_ne _ .linkUe (field / 3) field seam w2 w3
      (Reg.addr_ne_of_place 0 field (by decide) (by decide) (by decide))
      (Reg.addr_ne_of_place 0 field (by decide) (by decide) (by decide)))).trans (s.linkCounted_fld field seam link w i)
  rw [herr] at hrecord hseq
  refine ⟨_, r, hfail, ?_⟩
  rw [hevent]
  refine ⟨hfld, hseq, hrecord, hcode, ?_, ?_, ?_⟩
  all_goals
    rw [hlog]
    rfl

end Sys2Proof.Machine
end

section
open Sys2Proof Sys2Proof.Machine

/-- Settles O23: a scrub read and a write-back change one word's error state at most, and the fifth failure of a link word
is one mark and one event. -/
theorem wordsFailAndAreScrubbed : Obligations.WordsFailAndAreScrubbed := by
  refine ⟨fun s x y hpower => ⟨fun found bank hfound hecc hat hqueue => ?_, fun a as hqueue ha => ?_⟩,
    fun s field seam link fails w i hfield => ⟨fun hfew => ?_, fun hfifth => ?_⟩⟩
  · obtain ⟨hone, hclove⟩ := State.scrub_spec hpower hfound hecc hat hqueue
    refine ⟨_, rfl, hone, rfl, by rw [hclove], by rw [hclove], fun a => ?_⟩
    have hword : ((s.scrub (cloveNo x y) found).clove (cloveNo x y)).word a = _ :=
      (Clove.word_of_scratch_eq (by rw [hclove]) a).trans (Clove.word_scrubRead (by omega) s.up.time found a)
    rw [hword]
    split <;> exact ⟨rfl, rfl⟩
  · refine ⟨_, rfl, ?_⟩
    rw [State.writeback_eq hqueue, State.clove_setClove_self]
    refine ⟨rfl, fun m hm => State.clove_setClove_ne _ _ hm.symm, rfl, fun b hb => Clove.word_writtenBack _ ha hb as⟩
  · exact congrArg Host.Outcome.next (if_pos hfew)
  · obtain ⟨t, r, hfail, hcount, hseq, hrecord, hcode, hcloves, hmsgs, hinflight⟩ :=
      s.linkFail_spec hfifth field seam link w i
    refine ⟨t, r, congrArg Host.Outcome.next hfail, hcount, hseq, hrecord, hcode, ?_, ?_, ?_⟩
    · rintro dst rfl
      obtain ⟨hone, hword⟩ := s.markOnLink_landed dst i
      have hclove (k : Nat) := State.clove_congr hcloves k
      exact ⟨fun k hk => (hclove k).trans (hone k hk), fun a ha => hclove dst ▸ hword a ha⟩
    · rintro n m rfl hm
      exact ⟨hcloves, hmsgs.trans (State.markOnLink_mesh hm i)⟩
    · rintro id rfl
      exact ⟨hcloves, hmsgs, hinflight⟩
end

section
/-! SUPPORT. Sparse maps from which entries have been taken. -/
namespace Sys2Proof

/-- A key whose every entry a filter takes is not listed. -/
theorem SMap.at?_filter_eq_none {α : Type} {f : Nat × α → Bool} {i : Nat} (h : ∀ a, f (i, a) = false) (m : SMap α) :
    SMap.at? (m.filter f) i = none := by
  induction m with
  | nil => rfl
  | cons e m ih =>
    obtain ⟨j, a⟩ := e
    rw [List.filter_cons]
    split
    next hkeep =>
      have hij : j ≠ i := by
        rintro rfl
        rw [h a] at hkeep
        cases hkeep
      rw [SMap.at?, if_neg hij, ih]
    next => exact ih

end Sys2Proof

namespace Sys2Proof.Machine

/-! ### A domain set (R373) -/

theorem State.domain_congr {s t : State} (h : t.pwr = s.pwr) (d : Nat) : t.domain d = s.domain d := by
  rw [State.domain, h, ← State.domain]

@[simp] theorem State.domain_putDomain_self (s : State) (d : Nat) (v : Domain) : (s.putDomain d v).domain d = v :=
  (State.domain_congr (s.putDomain_sameSupply d v).pwr d).trans (s.domain_setDomain_self d v)

theorem State.putDomain_frame (s : State) (d : Nat) (v : Domain) : s.putDomain d v =
    { s with regs := (s.putDomain d v).regs, pwr := { s.pwr with domains := (s.putDomain d v).pwr.domains } } := by
  unfold State.putDomain
  split <;> rfl

@[simp] theorem State.putDomain_fields (s : State) (d : Nat) (v : Domain) : (s.putDomain d v).fields = s.fields := by
  rw [State.putDomain_frame]

@[simp] theorem State.stripOf_putDomain (s : State) (d : Nat) (v : Domain) (x y : Nat) :
    (s.putDomain d v).stripOf x y = s.stripOf x y := by
  simp [State.stripOf, State.physRow, State.field]

/-! ### What domains lose (R190, R373, Table 14.1) -/

/-- The cloves of a strip that has lost its state (R190). -/
theorem State.clove_loseStrip {s : State} {d k : Nat} (h : s.stripOf (cloveX k) (cloveY k) = d) :
    ((s.loseStrip d).clove k).scratch = [] ∧ ((s.loseStrip d).clove k).regions = [] ∧
      ((s.loseStrip d).clove k).channels = [] := by
  unfold State.clove SMap.atD State.loseStrip
  dsimp only
  rw [SMap.at?_map]
  · cases s.cloves.at? k with
    | none => exact ⟨rfl, rfl, rfl⟩
    | some c => simp [h, Clove.fresh]
  · exact fun _ => rfl

theorem State.hbmByte_congr {s t : State} (h : t.hbm = s.hbm) (a : Nat) : t.hbmByte a = s.hbmByte a := by
  rw [State.hbmByte, h, ← State.hbmByte]

/-- The range of a stack that has been zeroed (R243, R254). -/
theorem State.hbmByte_zeroStack (s : State) {k a : Nat} (hlow : k * stackSpan ≤ a) (hhigh : a < (k + 1) * stackSpan) :
    (s.zeroStack k).hbmByte a = 0 := by
  unfold State.hbmByte SMap.atD State.zeroStack
  rw [SMap.at?_filter_eq_none fun _ => by simp [hlow, hhigh]]
  rfl

theorem State.renewMap_hbm (s : State) (k : Nat) (fail : W32) (wires : List (Nat × Nat)) :
    (s.renewMap k fail wires).hbm = (s.zeroStack k).hbm := rfl

theorem State.renewMap_pwr (s : State) (k : Nat) (fail : W32) (wires : List (Nat × Nat)) :
    (s.renewMap k fail wires).pwr = s.pwr := rfl

/-- The counters and states of a field hub that it loses with its power. -/
def hubRegs : List Reg := [.fldIntCnt0, .fldIntCnt1, .fldIntCnt2, .fldScrEcc, .fldDspStat, .fldKvwStat]

theorem Reg.resetVal_hubRegs {r : Reg} (h : r ∈ hubRegs) (f : Nat) : r.resetVal f 0 = 0 := by
  simp only [hubRegs, List.mem_cons, List.not_mem_nil, or_false] at h
  rcases h with rfl | rfl | rfl | rfl | rfl | rfl <;> rfl

theorem State.reg_clearDspCnt {s : State} {q : Reg} {b i : Nat} (f : Nat) (ks : List Nat) (h : s.reg q b i = 0) :
    (ks.foldl (fun s k => s.setReg .fldDspCnt f k 0) s).reg q b i = 0 := by
  induction ks generalizing s with
  | nil => exact h
  | cons k ks ih => exact ih (State.reg_setReg_zero h .fldDspCnt f k)

theorem State.reg_loseHub (s : State) (f : Nat) {q : Reg} (hq : q ∈ hubRegs) : (s.loseHub f).reg q f 0 = 0 := by
  unfold State.loseHub
  extract_lets s1 s2 s3
  have hclear : s1 = s.clearRegs hubRegs f := List.foldl_ext _ _ s fun t r hr => by rw [Reg.resetVal_hubRegs hr]
  have h1 : s1.reg q f 0 = 0 := hclear ▸ State.reg_clearRegs_mem f hq s
  clear_value s1
  have h2 : s2.reg q f 0 = 0 := State.reg_clearDspCnt f (List.range 16) h1
  clear_value s2
  have h3 : s3.reg q f 0 = 0 := h2
  clear_value s3
  split <;> exact h3

theorem State.tlb_loseHub (s : State) (f : Nat) : ((s.loseHub f).field f).tlb = [] := by
  unfold State.loseHub
  extract_lets s1 s2 s3
  have h3 : (s3.field f).tlb = [] := congrArg Field.tlb (s2.field_modField_self f fun v => { v with tlb := [] })
  clear_value s3
  split <;> exact h3

/-! ### A strip that goes down (R375) -/

/-- A strip that is asked off begins to go down once nothing uses it (R375). -/
theorem execStripDownStart_eq {s : State} {f i : Nat} (hon : (s.domain (f * 12 + i)).st = .on)
    (hwait : (s.domain (f * 12 + i)).wait = true) (hidle : i ∉ s.admittedIn f) (harrays : s.arraysBusy (f * 12 + i) = false)
    (hquiet : s.stripQuiet (f * 12 + i) = true) :
    execStripDownStart f i s = .next (s.putDomain (f * 12 + i) ⟨.down, none, false⟩) := by
  unfold execStripDownStart
  dsimp only
  rw [if_pos (by simp [hon, hwait, hidle, harrays, hquiet])]

/-! ### A domain that has come up (R190, R373) -/

/-- What a domain that is up has anew, a port's link apart: a strip's cloves are zeroed, a stack is trained and zeroed. -/
def State.refit (s : State) (d : Nat) (t : Trained) : State :=
  if d < 1152 then s.loseStrip d
  else if 1248 ≤ d ∧ d < 1272 then (s.renewMap (d - 1248) t.fail t.wires).setFld .memStkStat 0 (d - 1248) 8 8 1
  else s

theorem State.refit_pwr (s : State) (d : Nat) (t : Trained) : (s.refit d t).pwr = s.pwr := by
  unfold State.refit
  by_cases hstrip : d < 1152
  · rw [if_pos hstrip]
    rfl
  · rw [if_neg hstrip]
    by_cases hstack : 1248 ≤ d ∧ d < 1272
    · rw [if_pos hstack, State.setFld_pwr, State.renewMap_pwr]
    · rw [if_neg hstack]

theorem State.refit_strip {s : State} {d : Nat} {t : Trained} (h : d < 1152) : s.refit d t = s.loseStrip d := if_pos h

theorem State.refit_stack {s : State} {d : Nat} {t : Trained} (hlow : 1248 ≤ d) (hhigh : d < 1272) :
    s.refit d t = (s.renewMap (d - 1248) t.fail t.wires).setFld .memStkStat 0 (d - 1248) 8 8 1 := by
  rw [State.refit, if_neg (by omega), if_pos ⟨hlow, hhigh⟩]

theorem State.refit_port {s : State} {d : Nat} {t : Trained} (h : 1272 ≤ d) : s.refit d t = s := by
  rw [State.refit, if_neg (by omega), if_neg (by omega)]

/-- The state in which a domain that is up is ON. -/
def State.restored (s : State) (d : Nat) (t : Trained) : State := (s.putDomain d ⟨.on, none, false⟩).refit d t

theorem State.domain_restored (s : State) (d : Nat) (t : Trained) : (s.restored d t).domain d = ⟨.on, none, false⟩ :=
  (State.domain_congr (State.refit_pwr ..) d).trans (s.domain_putDomain_self d _)

theorem execDomainUpDone_eq {s : State} {d : Nat} (h : (s.domain d).st = .up) (hport : d < 1272 ∨ 1286 ≤ d) (t : Trained) :
    execDomainUpDone ⟨d, t⟩ s =
      .next (if (s.domain d).held = some false then (s.restored d t).requestOff d else s.restored d t) := by
  unfold execDomainUpDone State.restored State.refit
  dsimp only
  generalize s.putDomain d ⟨.on, none, false⟩ = u
  rw [if_neg (not_not.2 h), if_neg (c := 1272 ≤ d ∧ d < 1286) (by omega)]
  simp only [beq_iff_eq]

theorem execDomainUpDone_port {s : State} {d : Nat} (h : (s.domain d).st = .up) (hlow : 1272 ≤ d) (hhigh : d < 1286)
    (t : Trained) {v : State}
    (hv : v = (s.restored d t).portUp (d - 1272) (if (s.net.spareLane.at? (d - 1272)).isSome then 3 else 2)) :
    execDomainUpDone ⟨d, t⟩ s = .next (if (s.domain d).held = some false then v.requestOff d else v) := by
  have hnet : (s.putDomain d ⟨.on, none, false⟩).net = s.net := by rw [State.putDomain_frame]
  rw [hv, State.restored, State.refit_port hlow]
  unfold execDomainUpDone
  dsimp only
  rw [if_neg (not_not.2 h), if_neg (c := d < 1152) (by omega), if_neg (c := 1248 ≤ d ∧ d < 1272) (by omega),
    if_pos (c := 1272 ≤ d ∧ d < 1286) ⟨hlow, hhigh⟩, hnet]
  simp only [beq_iff_eq]

/-! ### A domain that is down (R373, R374) -/

/-- The state in which a domain that is down is OFF. -/
def State.dropped (s : State) (d : Nat) : State := (s.putDomain d Domain.off).loseDomain d

theorem execDomainDownDone_eq {s : State} {d : Nat} (h : (s.domain d).st = .down) :
    execDomainDownDone d s =
      .next (if (s.domain d).held = some true then (s.dropped d).requestOn d else s.dropped d) := by
  unfold execDomainDownDone State.dropped
  dsimp only
  rw [if_neg (not_not.2 h)]
  simp only [beq_iff_eq]

theorem State.domain_dropped (s : State) (d : Nat) : (s.dropped d).domain d = Domain.off :=
  (State.domain_congr (State.loseDomain_sameSupply _ d).pwr d).trans (s.domain_putDomain_self d _)

theorem State.dropped_strip (s : State) {d : Nat} (h : d < 1152) :
    s.dropped d = (s.putDomain d Domain.off).loseStrip d := if_pos h

theorem State.dropped_hub (s : State) {d : Nat} (hlow : 1152 ≤ d) (hhigh : d < 1248) :
    s.dropped d = (s.putDomain d Domain.off).loseHub (d - 1152) := by
  rw [State.dropped, State.loseDomain, if_neg (by omega), if_pos hhigh]

theorem State.dropped_stack (s : State) {d : Nat} (hlow : 1248 ≤ d) (hhigh : d < 1272) :
    s.dropped d = ((s.putDomain d Domain.off).zeroStack (d - 1248)).setFld .memStkStat 0 (d - 1248) 8 8 0 := by
  rw [State.dropped, State.loseDomain, if_neg (by omega), if_neg (by omega), if_pos hhigh]

theorem State.dropped_port (s : State) {d : Nat} (hlow : 1272 ≤ d) (hhigh : d < 1286) :
    s.dropped d = (s.putDomain d Domain.off).setFld .vngPort 0 (d - 1272) 2 0 0 := by
  rw [State.dropped, State.loseDomain, if_neg (by omega), if_neg (by omega), if_neg (by omega), if_pos hhigh]

/-! ### The stack of a domain (R243, R254) -/

theorem State.hbmByte_restored (s : State) {d a : Nat} (t : Trained) (hlow : 1248 ≤ d) (hhigh : d < 1272)
    (ha : (d - 1248) * stackSpan ≤ a) (hb : a < (d - 1247) * stackSpan) : (s.restored d t).hbmByte a = 0 := by
  rw [show d - 1247 = d - 1248 + 1 by omega] at hb
  rw [State.restored, State.refit_stack hlow hhigh, State.hbmByte_congr (State.setFld_hbm ..),
    State.hbmByte_congr (State.renewMap_hbm ..), State.hbmByte_zeroStack _ ha hb]

theorem State.flag_restored (s : State) {d : Nat} (t : Trained) (hlow : 1248 ≤ d) (hhigh : d < 1272) :
    (s.restored d t).flag .memStkStat 0 (d - 1248) 8 = true := by
  rw [State.restored, State.refit_stack hlow hhigh, State.flag_setFld _ _ _ _ _ _ (by decide) (by decide)]
  rfl

theorem State.hbmByte_dropped (s : State) {d a : Nat} (hlow : 1248 ≤ d) (hhigh : d < 1272)
    (ha : (d - 1248) * stackSpan ≤ a) (hb : a < (d - 1247) * stackSpan) : (s.dropped d).hbmByte a = 0 := by
  rw [show d - 1247 = d - 1248 + 1 by omega] at hb
  rw [State.dropped_stack s hlow hhigh, State.hbmByte_congr (State.setFld_hbm ..),
    State.hbmByte_zeroStack _ ha hb]

end Sys2Proof.Machine
end

section
open Sys2Proof Sys2Proof.Machine

/-- Settles O48: each step of a domain's life is one setting of the domain and what the domain loses or gains there;
the statement's facts are read off those parts. -/
theorem domainsSwitch : Obligations.DomainsSwitch := by
  unfold Obligations.DomainsSwitch
  intro s
  refine ⟨?_, ?_, ?_⟩
  · intro f i hon hwait hidle harrays hquiet
    exact ⟨_, execStripDownStart_eq hon hwait hidle harrays hquiet, s.domain_putDomain_self .., s.putDomain_frame ..⟩
  · intro d trainFail wires hup
    refine ⟨s.restored d ⟨trainFail, wires⟩, s.domain_restored .., fun hport => execDomainUpDone_eq hup hport _,
      fun hlow hhigh v hv => execDomainUpDone_port hup hlow hhigh _ hv, fun hlow hhigh => ⟨s.flag_restored _ hlow hhigh,
        fun a => s.hbmByte_restored _ hlow hhigh⟩, fun hstrip k hk => ?_⟩
    rw [State.restored, State.refit_strip hstrip]
    exact State.clove_loseStrip ((s.stripOf_putDomain ..).trans hk)
  · intro d hdown
    refine ⟨s.dropped d, execDomainDownDone_eq hdown, s.domain_dropped d, fun hstrip k hk => ?_, fun hlow hhigh => ?_,
      fun hlow hhigh a => s.hbmByte_dropped hlow hhigh, fun hlow hhigh => ?_⟩
    · rw [s.dropped_strip hstrip]
      exact State.clove_loseStrip ((s.stripOf_putDomain ..).trans hk)
    · rw [s.dropped_hub hlow hhigh]
      exact ⟨State.reg_loseHub _ _ (by decide), State.reg_loseHub _ _ (by decide), State.tlb_loseHub _ _⟩
    · rw [s.dropped_port hlow hhigh, State.fld_setFld_self _ _ _ _ _ (by decide) (by decide), Nat.zero_mod]
end

section
/-! SUPPORT. A fetch of a dispatch counter (R211, R213, R387): what the leader's fetch, the end of its hold and the answer
to it leave of the machine. -/
namespace Sys2Proof.Machine

/-! ### The leader of a neighbourhood at a fetch -/

/-- Clove k leads its neighbourhood of members ms, and its loop r, which still generates, has a fetch of counter n of
partition p at its front. -/
structure FetchAt (s : State) (k p n : Nat) (ms : List Nat) (r : LoopRun) : Prop where
  loop : (s.clove k).loop = some r
  front : ∃ ctx ph rest, r.todo = .fetch ctx ph :: rest
  generates : r.done = false
  leads : r.op.nbidx = 0
  part : p = partOf (cloveX k) (cloveY k)
  counter : n = dctr r.prog
  members : ms = r.near (s.loopGang k r.prog)

section
variable {s : State} {k p n : Nat} {ms : List Nat} {r : LoopRun}

theorem FetchAt.fetch_eq (h : FetchAt s k p n ms r) : s.fetch k =
    if (s.fetchIndex p n ms).isNone then s.answerFetch k r none
    else if r.held then s
    else if s.withheldFetch ms then s.setLoop k { r with held := true }
    else if s.hotFetch p n ms then (s.addFld .fldDspStat (ctrField p n) 0 15 0 1).setLoop k { r with held := true }
    else s.serveFetch k r := by
  obtain ⟨hloop, ⟨ctx, ph, rest, hfront⟩, hgenerates, hleads, rfl, rfl, rfl⟩ := h
  simp only [State.fetch, hloop, hfront, hgenerates, hleads, ne_eq, not_true, decide_false, Bool.or_self,
    Bool.false_eq_true, if_false]

theorem FetchAt.holdEnds_eq (h : FetchAt s k p n ms r) :
    s.holdEnds k = if r.held && !s.withheldFetch ms then s.serveFetch k r else s := by
  obtain ⟨hloop, ⟨ctx, ph, rest, hfront⟩, hgenerates, -, rfl, rfl, rfl⟩ := h
  simp only [State.holdEnds, hloop, hfront, hgenerates, Bool.not_false, Bool.and_true]

theorem FetchAt.serveFetch_granted (h : FetchAt s k p n ms r) {i : Nat} (hindex : s.fetchIndex p n ms = some i) :
    s.serveFetch k r =
      (s.setFld .fldDspCnt (ctrField p n) (n % 16) 23 0 (i + 1)).answerFetch k r (some i) := by
  obtain ⟨-, -, -, -, rfl, rfl, rfl⟩ := h
  simp only [State.serveFetch, hindex]

end

/-! ### The answer -/

theorem State.setLoop_scratchStays (s : State) (k : Nat) (r : LoopRun) : ScratchStays s (s.setLoop k r) :=
  s.modClove_scratchStays k _ (fun _ => rfl) (fun _ => rfl) (fun _ => rfl)

theorem State.loop_setLoop (s : State) (k : Nat) (r : LoopRun) : ((s.setLoop k r).clove k).loop = some r := by
  rw [State.setLoop, State.clove_modClove_self]

theorem State.answerFetch_scratchStays (s : State) (k : Nat) (r : LoopRun) (a : Option Nat) :
    ScratchStays s (s.answerFetch k r a) :=
  (State.foldl_modClove_scratchStays _ (fun c => { c with grants := c.grants ++ [a] }) (fun _ => rfl) (fun _ => rfl)
    (fun _ => rfl) s).trans (State.setLoop_scratchStays _ k _)

theorem State.loop_answerFetch (s : State) (k : Nat) (r : LoopRun) (a : Option Nat) :
    ((s.answerFetch k r a).clove k).loop = some ((r.answer a).expand expandFuel) :=
  State.loop_setLoop ..

/-- In a quiet machine a command that is no more than the answer to a fetch changes cloves alone, and the loop goes on
with that answer. -/
theorem Quiet.exists_answered {s u : State} (h : Quiet s) (k : Nat) (r : LoopRun) (a : Option Nat)
    (hu : u = s.answerFetch k r a) :
    ∃ t, (.next u.settle : Outcome) = .next t ∧ t = { s with cloves := t.cloves } ∧
      (t.clove k).loop = some ((r.answer a).expand expandFuel) := by
  have hstays := s.answerFetch_scratchStays k r a
  subst hu
  rw [(hstays.quiet h).settle]
  exact ⟨_, rfl, hstays.frame, s.loop_answerFetch ..⟩

/-- In a quiet machine a command that does no more than note in a loop that its fetch is held moves nothing else. -/
theorem Quiet.next_setLoop {s u : State} {k : Nat} {r : LoopRun} (h : Quiet s) (hu : u = s.setLoop k r) :
    (.next u.settle : Outcome) = .next (s.setLoop k r) := by
  rw [hu, ((s.setLoop_scratchStays k r).quiet h).settle]

end Sys2Proof.Machine
end

section
open Sys2Proof Sys2Proof.Machine

/-- Settles O26: where nothing waits, a fetch and the end of its hold are the one branch of each that the hypotheses leave. -/
theorem fetchTakesNext : Obligations.FetchTakesNext := by
  unfold Obligations.FetchTakesNext
  intro s x y r ctx ph rest hquiet hloop hfront hgenerates hleads k p n ms hk hpart hcounter hmembers
  subst hk
  have hfetch : FetchAt s (cloveNo x y) p n ms r :=
    ⟨hloop, ⟨ctx, ph, rest, hfront⟩, hgenerates, hleads, hpart, hcounter, hmembers⟩
  have hcounted (i : Nat) : Quiet (s.setFld .fldDspCnt (ctrField p n) (n % 16) 23 0 (i + 1)) := hquiet.of_cloves rfl
  refine ⟨fun i hindex hfree hopen hcool => ?_, fun hindex => ?_, fun i hindex hfree hopen hhot => ?_,
    fun i hindex hfree hwithheld => ?_, fun i hindex hheld hopen => ?_⟩
  · exact (hcounted i).exists_answered _ r (some i)
      (by simp [hfetch.fetch_eq, hindex, hfree, hopen, hcool, hfetch.serveFetch_granted hindex])
  · exact hquiet.exists_answered _ r none (by simp [hfetch.fetch_eq, hindex])
  · exact Quiet.next_setLoop (hquiet.of_cloves rfl) (by simp [hfetch.fetch_eq, hindex, hfree, hopen, hhot])
  · exact hquiet.next_setLoop (by simp [hfetch.fetch_eq, hindex, hfree, hwithheld])
  · exact (hcounted i).exists_answered _ r (some i)
      (by simp [hfetch.holdEnds_eq, hheld, hopen, hfetch.serveFetch_granted hindex])
end

section
/-! SUPPORT. FABRIC at issue (R223, R224, R226, R234, R236): what a FENCE or a BARRIER notes in its clove, and what goes to the
barrier's hub. -/
namespace Sys2Proof.Machine

theorem State.try_of_fabric {s t : State} {no k v : Nat} {i : Issue} (hop : fieldOf i.word 3 0 = 15)
    (h : s.tryFabric no k v i = some t) : s.try no k v i = (t, true) := by
  simp [State.try, hop, h]

theorem State.withClove_nil (s : State) (k : Nat) (c : Clove) : s.withClove k c [] = s.setClove k c := by
  rw [State.withClove, List.append_nil]
  rfl

/-- A clove that notes which issue number and which transfer divide what its fence waits for from what it holds (R234). -/
def Clove.noting (c : Clove) (no xfer : Nat) : Clove := { c with fenceNo := no, fenceXfer := xfer }

section
variable {s : State} {no k v : Nat} {i : Issue} {o : FabricOp} (ho : FabricOp.ofWord i.word = o) (hmark : i.mark = false)
  (hword : FabricOp.badWord i.word = false)
include ho hmark hword

theorem State.tryFabric_fence (hsub : o.sub = 2) : s.tryFabric no k v i = some (s.withClove k
    { (s.clove k).noting no s.nextReq with fences := (s.clove k).fences ||| BitVec.ofNat 3 (2 ^ o.scope.toNat) } []) := by
  have hcode : o.sub.toNat = 2 := congrArg BitVec.toNat hsub
  unfold State.tryFabric
  simp only [ho, hmark, hword, hcode, State.withClove_nil, Bool.false_eq_true, if_false]
  rfl

theorem State.tryFabric_arrive (hsub : o.sub = 3) (harrive : o.arrive = 1) : s.tryFabric no k v i = some (s.withClove k
    { (s.clove k).noting no s.nextReq with
      fences := (s.clove k).fences ||| 4, barr := some (o.bid.toNat, o.bcount.toNat, o.wait == 1) } []) := by
  have hcode : o.sub.toNat = 3 := congrArg BitVec.toNat hsub
  unfold State.tryFabric
  simp only [ho, hmark, hword, hcode, harrive, State.withClove_nil, State.modClove, State.clove_setClove_self,
    State.setClove_setClove, Bool.false_eq_true, if_false, if_true]
  rfl

theorem State.tryFabric_wait (hsub : o.sub = 3) (harrive : o.arrive = 0) : s.tryFabric no k v i = some (s.withClove k
    ((s.clove k).noting no s.nextReq)
    (if o.wait = 1 then [.arrive k (partOf (cloveX k) (cloveY k)) o.bid.toNat 0 true] else [])) := by
  have hcode : o.sub.toNat = 3 := congrArg BitVec.toNat hsub
  have hnot : ¬ o.arrive = 1 := by rw [harrive]; decide
  unfold State.tryFabric
  simp only [ho, hmark, hword, hcode, hnot, Bool.false_eq_true, if_false]
  split
  · rfl
  · rw [State.withClove_nil]
    rfl

end

end Sys2Proof.Machine
end

section
/-! SUPPORT. Fences released and arrivals at a barrier's hub (R234, R236, R240), where nothing waits at issue. -/
namespace Sys2Proof.Machine

/-! ### A fence released (R234) -/

/-- The arrival that a released BARRIER sends (R236). -/
def Clove.arrivals (c : Clove) (k : Nat) : List Msg :=
  match c.barr with
  | some (b, n, w) => [.arrive k (partOf (cloveX k) (cloveY k)) b n w]
  | none => []

theorem State.releaseFence_eq {s : State} {k : Nat} (hpending : (s.clove k).fences ≠ 0) (hmet : s.fenceMet k = true) :
    s.releaseFence k = s.withClove k { s.clove k with fences := 0, barr := none } ((s.clove k).arrivals k) := by
  unfold State.releaseFence
  have hmoves : (decide ((s.clove k).fences = 0) || !s.fenceMet k) = false := by
    rw [decide_eq_false hpending, hmet]
    rfl
  extract_lets c
  rw [if_neg (by rw [hmoves]; decide)]
  unfold Clove.arrivals
  cases (s.clove k).barr with
  | none => exact (s.withClove_nil k _).symm
  | some q => rfl

/-! ### A barrier set -/

@[simp] theorem State.barrier_setBarrier_self (s : State) (p b : Nat) (v : Barrier) : (s.setBarrier p b v).barrier p b = v := by
  simp [State.barrier, State.setBarrier]

theorem State.barrier_setBarrier_ne (s : State) {p b q c : Nat} (v : Barrier) (h : q ≠ p ∨ c ≠ b) :
    (s.setBarrier p b v).barrier q c = s.barrier q c := by
  unfold State.barrier State.setBarrier
  by_cases hq : q = p
  · subst hq
    have hc : b ≠ c := fun e => h.elim (absurd rfl) (absurd e.symm)
    rw [State.part_modPart_self, SMap.atD_put_ne _ _ _ hc]
  · rw [State.part_modPart_ne _ _ (Ne.symm hq)]

/-! ### A wait begun and the waits of a phase ended (R236) -/

/-- A clove that waits for a phase of a barrier. -/
def Clove.holding (b phase : Nat) (c : Clove) : Clove := { c with bwait := some (b, phase) }

/-- An arriving clove that waits waits for a phase of its barrier. -/
def State.holdAt (s : State) (k b phase : Nat) (w : Bool) : State :=
  if w then s.modClove k (.holding b phase) else s

section
variable (s : State) (k b phase : Nat) (w : Bool)

theorem State.holdAt_frame : s.holdAt k b phase w = { s with cloves := (s.holdAt k b phase w).cloves } := by
  cases w <;> rfl

theorem State.holdAt_oneClove : OneClove k s (s.holdAt k b phase w) := by
  cases w
  · exact fun _ _ => rfl
  · exact s.modClove_oneClove k (.holding b phase)

theorem State.clove_holdAt : (s.holdAt k b phase w).clove k =
    { s.clove k with bwait := if w then some (b, phase) else (s.clove k).bwait } := by
  cases w
  · rfl
  · exact s.clove_modClove_self k (.holding b phase)

variable {s}

theorem Quiet.holdAt (h : Quiet s) : Quiet (s.holdAt k b phase w) := by
  cases w
  · exact h
  · exact h.modClove k (.holding b phase) (fun _ => rfl) (fun _ => rfl)

end

theorem Quiet.releaseWaiters {s : State} (h : Quiet s) (p b phase : Nat) : Quiet (s.releaseWaiters p b phase) := by
  intro e he
  obtain ⟨d, hd, rfl⟩ := List.mem_map.1 he
  split <;> exact h d hd

theorem State.releaseWaiters_bwait {s : State} {p b phase m : Nat} {c : Clove}
    (hc : (s.releaseWaiters p b phase).cloves.at? m = some c) (hp : partOf (cloveX m) (cloveY m) = p) :
    c.bwait ≠ some (b, phase) := by
  obtain ⟨⟨n, d⟩, -, hd⟩ := List.mem_map.1 (SMap.at?_mem hc)
  split at hd
  next =>
    cases hd
    exact Option.some_ne_none _ |>.symm
  next hkept =>
    cases hd
    simpa [hp] using hkept

/-! ### An arrival counted (R236) -/

theorem State.arriveBarrier_front {s : State} {p b k n : Nat} {w : Bool} {ms : List Msg} (hmsgs : s.msgs = .arrive k p b n w :: ms) :
    s.arriveBarrier p b [k] = ({ s with msgs := ms } : State).countArrival p b k n w := by
  have htake : s.takeArrivals p b (sortBy (fun m n => decide (m ≤ n)) [k].dedup) = ([(k, n, w)], { s with msgs := ms }) := by
    rw [List.dedup_eq_self.2 (List.nodup_singleton k), sortBy_singleton]
    simp only [State.takeArrivals, List.foldl_cons, List.foldl_nil]
    rw [State.takeMsg_front hmsgs (by simp)]
    rfl
  unfold State.arriveBarrier
  rw [htake]
  by_cases hn : n = 0
  · subst hn
    rfl
  · simp [hn]

section
variable {s : State} {p b k n : Nat} {w : Bool}

theorem State.countArrival_wait : s.countArrival p b k 0 w = s.holdAt k b (s.barrier p b).phase w := by
  rw [State.countArrival, if_pos rfl]
  rfl

theorem State.countArrival_other {m : Nat} (hn : 0 < n) (hcount : (s.barrier p b).bcount = some m) (hother : m ≠ n) :
    s.countArrival p b k n w =
      (s.cloveEvent .barrierCount (cloveX k) (cloveY k) 3 0).holdAt k b (s.barrier p b).phase w := by
  refine (if_neg (Nat.ne_of_gt hn)).trans (if_pos ?_)
  simp [hcount, hother]

variable (hn : 0 < n) (hcount : (s.barrier p b).bcount = none ∨ (s.barrier p b).bcount = some n)
include hn hcount

theorem State.countArrival_last (hlast : n ≤ (s.barrier p b).count + 1) : s.countArrival p b k n w =
    (s.setBarrier p b ⟨0, none, (s.barrier p b).phase + 1⟩).releaseWaiters p b (s.barrier p b).phase := by
  refine (if_neg (Nat.ne_of_gt hn)).trans ((if_neg ?_).trans (if_pos hlast))
  rcases hcount with h | h <;> simp [h]

theorem State.countArrival_more (hmore : (s.barrier p b).count + 1 < n) : s.countArrival p b k n w =
    (s.setBarrier p b ⟨(s.barrier p b).count + 1, some n, (s.barrier p b).phase⟩).holdAt k b (s.barrier p b).phase w := by
  refine (if_neg (Nat.ne_of_gt hn)).trans ((if_neg ?_).trans (if_neg (Nat.not_le.2 hmore)))
  rcases hcount with h | h <;> simp [h]

end

/-- An event that names a clove takes the next SEQ, and of the partitions it leaves all as they are (R420, R422). -/
theorem State.barrierCount_spec (s : State) (x y : Nat) :
    (s.cloveEvent .barrierCount x y 3 0).parts = s.parts ∧
    (s.cloveEvent .barrierCount x y 3 0).err.nextSeq = s.err.nextSeq + 1 := by
  have hevent := s.event_abortsOnly (c := .barrierCount) (by decide) (y / 88 * 4 + x / 384) x y
    (s.reqidOf (y / 88 * 4 + x / 384)) (0 % 2 ^ 28 + 3 * 2 ^ 28)
  rw [State.cloveEvent, hevent]
  exact ⟨by rw [State.log_eq], State.log_nextSeq ..⟩

end Sys2Proof.Machine
end

section
open Sys2Proof Sys2Proof.Machine

/-- Settles O21: each FENCE or BARRIER is tried once, in a machine where nothing else waits; a released fence sends its
arrival; and an arrival at the hub is the one branch of its count that the hypotheses leave. -/
theorem fencesAndBarriers : Obligations.FencesAndBarriers := by
  refine ⟨⟨fun s i hop hopen hmark hword => ⟨fun hsub c hc => ?_, fun hsub harrive => ?_, fun hsub harrive => ?_⟩,
      fun s x y hquiet hpending hmet => ?_⟩, fun s p b k ms hquiet hmsgs => ?_,
    fun s p b k n m w ms hquiet hmsgs hn hcount hother => ?_, fun s p b k n w ms hquiet hmsgs hn hcount => ?_⟩
  · have htry := State.try_of_fabric (s := s.issuing i) (no := s.issueNo) (k := i.home) (v := 0) hop
      (State.tryFabric_fence rfl hmark hword hsub)
    rw [State.issuing_clove] at htry
    obtain ⟨hone, hsend, hclove⟩ := hopen.issue_withClove htry rfl rfl
    fin_cases hc <;> exact ⟨_, rfl, hsend.cloveFrame, hone, hclove⟩
  · have htry := State.try_of_fabric (s := s.issuing i) (no := s.issueNo) (k := i.home) (v := 0) hop
      (State.tryFabric_arrive rfl hmark hword hsub harrive)
    rw [State.issuing_clove] at htry
    obtain ⟨hone, hsend, hclove⟩ := hopen.issue_withClove htry rfl rfl
    exact ⟨_, rfl, hsend.cloveFrame, hone, hclove⟩
  · have htry := State.try_of_fabric (s := s.issuing i) (no := s.issueNo) (k := i.home) (v := 0) hop
      (State.tryFabric_wait rfl hmark hword hsub harrive)
    rw [State.issuing_clove] at htry
    obtain ⟨hone, hsend, hclove⟩ := hopen.issue_withClove htry rfl rfl
    exact ⟨_, rfl, hone, hclove, hsend⟩
  · refine (hquiet.next_settle (State.releaseFence_eq hpending hmet) rfl rfl).trans ?_
    unfold Clove.arrivals
    cases (s.clove (cloveNo x y)).barr <;> rfl
  · exact hquiet.next_settle ((State.arriveBarrier_front hmsgs).trans State.countArrival_wait) rfl rfl
  · obtain ⟨hparts, hseq⟩ := State.barrierCount_spec { s with msgs := ms } (cloveX k) (cloveY k)
    have hcloves : (({ s with msgs := ms } : State).cloveEvent .barrierCount (cloveX k) (cloveY k) 3 0).cloves = s.cloves :=
      State.cloveEvent_cloves ..
    have hcounted := (State.arriveBarrier_front hmsgs).trans
      (State.countArrival_other (s := { s with msgs := ms }) hn hcount hother)
    generalize ({ s with msgs := ms } : State).cloveEvent .barrierCount (cloveX k) (cloveY k) 3 0 = u at *
    refine ⟨_, congrArg Host.Outcome.next ((congrArg State.settle hcounted).trans
      ((hquiet.of_cloves hcloves).holdAt k b _ w).settle), ?_, ?_, ?_, ?_⟩
    · rw [State.holdAt_frame]
      exact hparts
    · rw [State.holdAt_frame]
      exact hseq
    · exact fun j hj => (u.holdAt_oneClove k b _ w j hj).trans (State.clove_congr hcloves j)
    · rw [State.clove_holdAt, State.clove_congr hcloves]
      rfl
  · by_cases hlast : n ≤ (s.barrier p b).count + 1
    · have hcounted := (State.arriveBarrier_front hmsgs).trans
        (State.countArrival_last (s := { s with msgs := ms }) (k := k) (w := w) hn hcount hlast)
      have hquiet' : Quiet (({ s with msgs := ms } : State).setBarrier p b ⟨0, none, (s.barrier p b).phase + 1⟩) := hquiet
      refine ⟨_, congrArg Host.Outcome.next ((congrArg State.settle hcounted).trans (hquiet'.releaseWaiters p b _).settle),
        rfl, fun q c h => ?_, fun hmore => absurd hlast (Nat.not_le.2 hmore), fun _ => ⟨?_, fun m c hc hm => ?_⟩⟩
      · exact State.barrier_setBarrier_ne { s with msgs := ms } _ h
      · exact State.barrier_setBarrier_self { s with msgs := ms } p b _
      · exact State.releaseWaiters_bwait hc hm
    · have hcounted := (State.arriveBarrier_front hmsgs).trans
        (State.countArrival_more (s := { s with msgs := ms }) (k := k) (w := w) hn hcount (Nat.not_le.1 hlast))
      have hquiet' : Quiet (({ s with msgs := ms } : State).setBarrier p b
        ⟨(s.barrier p b).count + 1, some n, (s.barrier p b).phase⟩) := hquiet
      refine ⟨_, congrArg Host.Outcome.next ((congrArg State.settle hcounted).trans (hquiet'.holdAt k b _ w).settle), ?_,
        fun q c h => ?_, fun _ => ⟨?_, ?_, ?_⟩, fun h => absurd h hlast⟩
      · rw [State.holdAt_frame]
        rfl
      · rw [State.holdAt_frame]
        exact State.barrier_setBarrier_ne { s with msgs := ms } _ h
      · rw [State.holdAt_frame]
        exact State.barrier_setBarrier_self { s with msgs := ms } p b _
      · exact State.holdAt_oneClove _ k b _ w
      · exact State.clove_holdAt ..
end

section
/-! SUPPORT. Queues of a partition (R222), and FABRIC of a queue at issue (R224, R226): the context that SQ_SET gives and the
transfer that SQ_POST adds. -/
namespace Sys2Proof.Machine

/-! ### A queue changed -/

@[simp] theorem State.queue_modQueue_self (s : State) (p j : Nat) (f : Queue → Queue) :
    (s.modQueue p j f).queue p j = f (s.queue p j) := by
  simp [State.queue, State.modQueue]

theorem State.queue_modQueue_ne (s : State) {p j q m : Nat} (f : Queue → Queue) (h : q ≠ p ∨ m ≠ j) :
    (s.modQueue p j f).queue q m = s.queue q m := by
  unfold State.queue State.modQueue
  by_cases hq : q = p
  · subst hq
    have hm : j ≠ m := fun e => h.elim (absurd rfl) (absurd e.symm)
    rw [State.part_modPart_self, SMap.atD_put_ne _ _ _ hm]
  · rw [State.part_modPart_ne _ _ (Ne.symm hq)]

/-! ### SQ_SET and SQ_POST (R224, R226) -/

/-- A transfer as it is posted: with its number, and the settings of the slower-tier entries that it uses (R226, R259). -/
def State.numbered (s : State) (x : Transfer) : Transfer :=
  { x with no := s.nextReq, tset := { x with no := s.nextReq }.tiers.foldl (fun m n => m.put n (s.tierSetting n)) [] }

theorem State.post_eq (s : State) (p j : Nat) (x : Transfer) : s.post p j x =
    { s with nextReq := s.nextReq + 1 }.modQueue p j fun q => { q with posted := q.posted ++ [s.numbered x] } := rfl

section
variable {s : State} {no k v : Nat} {i : Issue} {o : FabricOp} (ho : FabricOp.ofWord i.word = o) (hmark : i.mark = false)
  (hword : FabricOp.badWord i.word = false) (hclean : ∀ a, ((s.clove k).word a).ecc = 0)
  (hplain : ((s.clove k).getWords o.addr.toNat 4).any (·.2) = false)
include ho hmark hword hclean hplain

theorem State.tryFabric_set (hsub : o.sub = 0) (hctx : badContext ((s.clove k).descAt o.addr.toNat) = false)
    (hidle : (s.queue (partOf (cloveX k) (cloveY k)) o.sq.toNat).posted = []) : s.tryFabric no k v i =
      some (s.modQueue (partOf (cloveX k) (cloveY k)) o.sq.toNat
        fun _ => { Queue.none with ctx := some ((s.clove k).descAt o.addr.toNat) }) := by
  have hcode : o.sub.toNat = 0 := congrArg BitVec.toNat hsub
  unfold State.tryFabric
  simp only [ho, hmark, hword, hcode, hplain, hctx, hidle, State.touchN_id hclean, List.isEmpty_nil, Bool.not_true, Bool.or_self,
    Bool.false_eq_true, if_false]

theorem State.tryFabric_post (hsub : o.sub = 1) (hgood : badTransfer ((s.clove k).descAt o.addr.toNat) = false)
    (hset : (s.queue (partOf (cloveX k) (cloveY k)) o.sq.toNat).ctx.isSome = true)
    (hfits : s.transferFits (partOf (cloveX k) (cloveY k)) (.ofBits 0 ((s.clove k).descAt o.addr.toNat) (some k)) = true)
    (hroom : (s.queue (partOf (cloveX k) (cloveY k)) o.sq.toNat).posted.length < 16) : s.tryFabric no k v i =
      some (s.post (partOf (cloveX k) (cloveY k)) o.sq.toNat (.ofBits 0 ((s.clove k).descAt o.addr.toNat) (some k))) := by
  have hcode : o.sub.toNat = 1 := congrArg BitVec.toNat hsub
  have hunset : (s.queue (partOf (cloveX k) (cloveY k)) o.sq.toNat).ctx.isNone = false := by
    rw [Option.isNone_eq_false_iff, hset]
  unfold State.tryFabric
  simp only [ho, hmark, hword, hcode, hplain, hgood, hunset, hfits, State.touchN_id hclean, ge_iff_le, Nat.not_le.2 hroom,
    Bool.not_true, Bool.or_self, Bool.false_eq_true, if_false]

end

/-- An instruction whose try changes queues of its partition. -/
theorem Open.issue_queue {s u : State} {i : Issue} {ps : SMap Part} {n : Nat} (h : Open s i) (hop : fieldOf i.word 3 0 = 15)
    (htry : (s.issuing i).tryFabric s.issueNo i.home 0 i = some u)
    (hu : u = { s.issuing i with parts := ps, nextReq := s.nextReq + n }) :
    QueueFrame i n s (s.issue i) ∧ ∀ p j, (s.issue i).queue p j = u.queue p j := by
  subst hu
  rw [State.issue_of_try h (State.try_of_fabric hop htry) ((h.quiet.issuing i).of_cloves rfl)]
  exact ⟨⟨rfl, fun k => State.issuing_clove ..⟩, fun p j => rfl⟩

end Sys2Proof.Machine
end

section
/-! SUPPORT. Requests of a queue issued (R225, R227, R228): the credits that a load takes, the words that a store takes, and the
request that joins its stack's list. -/
namespace Sys2Proof.Machine

/-! ### Credits of bound cloves (R228) -/

/-- A binding after the next request of a transfer: a slot that it opens has taken one credit. -/
def QBind.taking (x : Transfer) (b : QBind) : QBind :=
  if b.opens x then { b with credits := b.credits - 1, slots := b.slots + 1 } else b

/-- Bindings of which those of the listed cloves have taken the next request of a transfer. -/
def takeCredits (x : Transfer) (ds : List Nat) (m : SMap QBind) : SMap QBind :=
  ds.foldl (fun m d => match m.at? d with
    | some b => if b.opens x then m.put d { b with credits := b.credits - 1, slots := b.slots + 1 } else m
    | none => m) m

theorem at?_takeCredits_cons_self (x : Transfer) (d : Nat) (m : SMap QBind) :
    (takeCredits x [d] m).at? d = (m.at? d).map (QBind.taking x) := by
  cases h : m.at? d with
  | none => simp [takeCredits, h]
  | some b =>
    by_cases hopens : b.opens x = true <;> simp [takeCredits, QBind.taking, h, hopens]

theorem at?_takeCredits_cons_ne (x : Transfer) {d e : Nat} (hd : d ≠ e) (m : SMap QBind) :
    (takeCredits x [d] m).at? e = m.at? e := by
  cases h : m.at? d with
  | none => simp [takeCredits, h]
  | some b =>
    by_cases hopens : b.opens x = true <;> simp [takeCredits, h, hopens, SMap.at?_put_ne _ _ hd]

theorem takeCredits_cons (x : Transfer) (d : Nat) (ds : List Nat) (m : SMap QBind) :
    takeCredits x (d :: ds) m = takeCredits x ds (takeCredits x [d] m) := rfl

theorem at?_takeCredits_out (x : Transfer) {e : Nat} {ds : List Nat} (h : e ∉ ds) : ∀ m : SMap QBind,
    (takeCredits x ds m).at? e = m.at? e := by
  induction ds with
  | nil => exact fun _ => rfl
  | cons d ds ih =>
    intro m
    obtain ⟨hd, hds⟩ := List.ne_and_not_mem_of_not_mem_cons h
    rw [takeCredits_cons, ih hds, at?_takeCredits_cons_ne x hd.symm]

/-- Each of the listed cloves takes its credit once. -/
theorem at?_takeCredits (x : Transfer) {e : Nat} {ds : List Nat} (hds : ds.Nodup) (h : e ∈ ds) : ∀ m : SMap QBind,
    (takeCredits x ds m).at? e = (m.at? e).map (QBind.taking x) := by
  induction ds with
  | nil => cases h
  | cons d ds ih =>
    intro m
    obtain ⟨hfresh, hrest⟩ := List.nodup_cons.1 hds
    rw [takeCredits_cons]
    rcases List.mem_cons.1 h with rfl | h
    · rw [at?_takeCredits_out x hfresh, at?_takeCredits_cons_self]
    · rw [ih hrest h, at?_takeCredits_cons_ne x fun he : d = e => hfresh (he ▸ h)]

/-! ### A request of HBM (R228, R229) -/

theorem Transfer.tierAt_of_hbm (x : Transfer) {a : Nat} (h : tierOf a = none) : x.tierAt a = none := by
  rw [Transfer.tierAt, h]
  rfl

theorem State.tierIssue_of_hbm (s : State) {r : Req} (x : Transfer) (h : tierOf r.addr = none) (ws : List (W64 × Bool)) :
    s.tierIssue r x ws = (r, s) := by
  rw [State.tierIssue, x.tierAt_of_hbm h]

/-- The state in which a request of a transfer has taken its number, its queue stands as changed, the transfer has advanced,
and the request has joined its stack's list. -/
def State.asked (s : State) (f : Queue → Queue) (x : Transfer) (slotw : Nat) (r : Req) : State :=
  ((({ s with nextReq := s.nextReq + 1 } : State).modQueue r.part r.queue f).putTransfer r.part r.queue
    (x.advance slotw r.len)).modStack (r.addr / stackSpan) fun k => { k with reqs := k.reqs ++ [r] }

section
variable (s : State) (f : Queue → Queue) (x : Transfer) (slotw : Nat) (r : Req)

theorem State.reqs_asked : ((s.asked f x slotw r).stack (r.addr / stackSpan)).reqs =
    (s.stack (r.addr / stackSpan)).reqs ++ [r] :=
  congrArg Stack.reqs (State.stack_modStack_self ..)

theorem State.queue_asked : (s.asked f x slotw r).queue r.part r.queue = { f (s.queue r.part r.queue) with
    posted := (f (s.queue r.part r.queue)).posted.map (fun u => if u.no = x.no then x.advance slotw r.len else u) } := by
  have hput := State.queue_modQueue_self (({ s with nextReq := s.nextReq + 1 } : State).modQueue r.part r.queue f) r.part r.queue
    fun q => { q with posted := q.posted.map (fun u => if u.no = x.no then x.advance slotw r.len else u) }
  refine hput.trans ?_
  rw [State.queue_modQueue_self]
  rfl

end

/-- A queue below MAXOUT goes on to the next request of its first transfer that has bytes left (R228). -/
theorem State.issueReq_eq {s : State} {p j : Nat} {ctx : BitVec 256} {x : Transfer} (hctx : (s.queue p j).ctx = some ctx)
    (hnext : (s.queue p j).posted.find? (fun t => decide (t.issued < t.total)) = some x)
    (hroom : (s.outstanding p j).length < bitField ctx.toNat 8 8 + 1) (arrival : Nat) : s.issueReq p j arrival =
      if ctx.getLsbD 0 then s.issueStore p j arrival ctx x else s.issueLoad p j arrival ctx x := by
  unfold State.issueReq
  simp only [hctx, hnext, ge_iff_le, Nat.not_le.2 hroom, if_false]

/-! ### Loads (R227, R228) -/

/-- The cloves to which the next words of a load go (R227). -/
def Transfer.dests (x : Transfer) (ctx : BitVec 256) (p : Nat) : List Nat :=
  if ctx.getLsbD 1 then ctxBlock ctx p else [(ctxBlock ctx p).getD (x.piece % max (ctxBlock ctx p).length 1) 0]

theorem State.issueLoad_eq {s : State} {p j arrival w : Nat} {ctx : BitVec 256} {x : Transfer}
    (hbound : ∀ d ∈ x.dests ctx p, ∃ b, (s.queue p j).binds.at? d = some b ∧ (0 < b.credits ∨ b.opens x = false))
    (hslotw : (s.queue p j).slotw = some w) (hw : w ≠ 0) (hhbm : tierOf x.nextAddr = none) :
    ∃ r : Req, s.issueLoad p j arrival ctx x =
        s.asked (fun q => { q with binds := takeCredits x (x.dests ctx p) (s.queue p j).binds }) x w r ∧
      r.id = s.nextReq ∧ r.xfer = x.no ∧ r.part = p ∧ r.queue = j ∧ r.store = false ∧ r.addr = x.nextAddr ∧
      r.len = x.nextLen w ∧ r.clove = (x.dests ctx p).getD 0 0 := by
  unfold State.issueLoad
  extract_lets q block mcast k dests bound sw n binds b slots rate slack a r counted moved
  have hdests : dests = x.dests ctx p := by
    dsimp only [dests, k, mcast, block, Transfer.dests]
    split <;> rfl
  have hk : k = (x.dests ctx p).getD 0 0 := by
    dsimp only [k, mcast, block, Transfer.dests]
    split <;> rfl
  have hsw : sw = w := by rw [show sw = q.slotw.getD 0 from rfl, show q.slotw = some w from hslotw]; rfl
  have hall : bound = true := by
    refine List.all_eq_true.2 fun d hd => ?_
    obtain ⟨c, hc, hcredit⟩ := hbound d (hdests ▸ hd)
    rw [show q.binds.at? d = some c from hc]
    simpa using hcredit.imp_right fun h => h
  have hbinds : binds = takeCredits x (x.dests ctx p) (s.queue p j).binds := by rw [← hdests]; rfl
  rw [if_neg (by simp [hall, hsw, hw]), State.tierIssue_of_hbm moved x hhbm]
  refine ⟨r, ?_, rfl, rfl, rfl, rfl, rfl, rfl, congrArg x.nextLen hsw, hk⟩
  rw [← hbinds, ← hsw]
  rfl

/-! ### Stores (R225, R227, R228) -/

/-- The words of a store are those at the reader's place in its region, which alone changes. -/
theorem State.takeStore_eq {s : State} {k : Nat} (hclean : ∀ a, ((s.clove k).word a).ecc = 0) (rn n : Nat) (last : Bool) :
    ∃ g ms, s.takeStore k rn n last =
      ((s.clove k).getWords (((s.clove k).region rn).tailBase 0 + ((s.clove k).region rn).rpos) n,
        s.withClove k ((s.clove k).setRegion rn g) ms) := by
  unfold State.takeStore
  simp only [State.touchN_id hclean, State.putRegion_eq]
  split <;> exact ⟨_, _, rfl⟩

theorem State.issueStore_eq {s : State} {p j arrival : Nat} {ctx : BitVec 256} {x : Transfer} {k rn : Nat} {g : Region}
    (hk : k = (ctxBlock ctx p).getD (x.piece % max (ctxBlock ctx p).length 1) 0) (hrn : rn = bitField ctx.toNat 80 3)
    (hg : g = (s.clove k).region rn) (hset : g.set = true) (hfill : g.fill ≠ 0) (hclean : ∀ a, ((s.clove k).word a).ecc = 0)
    (hhbm : tierOf x.nextAddr = none) :
    ∃ (r : Req) (g' : Region) (ms : List Msg), s.issueStore p j arrival ctx x =
        (s.withClove k ((s.clove k).setRegion rn g') ms).asked (fun q => { q with stuck := none }) x g.slotw r ∧
      r.id = s.nextReq ∧ r.xfer = x.no ∧ r.part = p ∧ r.queue = j ∧ r.store = true ∧ r.addr = x.nextAddr ∧
      r.len = x.nextLen g.slotw ∧ r.clove = k ∧ r.data = (s.clove k).getWords (g.tailBase 0 + g.rpos) (r.len / 8) := by
  subst hk hrn hg
  unfold State.issueStore
  extract_lets block k rn g n last free rate
  obtain ⟨g', ms, htake⟩ := State.takeStore_eq (k := k) hclean rn (n / 8) last
  rw [if_neg (by rw [hset]; decide), if_neg hfill, htake]
  simp only [x.tierAt_of_hbm hhbm]
  rw [State.tierIssue_of_hbm _ x (by exact hhbm)]
  exact ⟨⟨s.nextReq, x.no, p, j, true, x.nextAddr, n, x.issued, k, rn, [(k, x.piece)], x.inSlot,
    arrival + ceilDiv (free * 65536) rate, arrival, (s.clove k).getWords (g.tailBase 0 + g.rpos) (n / 8), false, none⟩,
    g', ms, rfl, rfl, rfl, rfl, rfl, rfl, rfl, rfl, rfl, rfl⟩

end Sys2Proof.Machine
end

section
/-! SUPPORT. Words that land in their slots (R190, R227, R228), and a transfer that leaves its queue (R226). -/
namespace Sys2Proof.Machine

/-- From s to t words have landed for queue j of partition p: cloves, and bindings of the queue, alone may differ. -/
structure Landed (p j : Nat) (s t : State) : Prop where
  frame : t = { s with cloves := t.cloves, parts := t.parts }
  posted : (t.queue p j).posted = (s.queue p j).posted
  quiet : Quiet s → Quiet t

theorem Landed.trans {p j : Nat} {s t u : State} (h : Landed p j s t) (g : Landed p j t u) : Landed p j s u :=
  ⟨by conv_lhs => rw [g.frame, h.frame], g.posted.trans h.posted, fun q => g.quiet (h.quiet q)⟩

/-- From s to t words have landed at clove k alone. -/
structure LandedAt (p j k : Nat) (s t : State) : Prop extends Landed p j s t where
  cloves : OneClove k s t
  binds : ∀ m, m ≠ k → (t.queue p j).binds.at? m = (s.queue p j).binds.at? m

namespace LandedAt
variable {p j k : Nat} {s t u : State}

theorem refl (s : State) : LandedAt p j k s s := ⟨⟨rfl, rfl, id⟩, fun _ _ => rfl, fun _ _ => rfl⟩

theorem trans (h : LandedAt p j k s t) (g : LandedAt p j k t u) : LandedAt p j k s u :=
  ⟨h.toLanded.trans g.toLanded, fun m hm => (g.cloves m hm).trans (h.cloves m hm), fun m hm => (g.binds m hm).trans (h.binds m hm)⟩

/-- The clove's regions, words and write-backs change, and its binding. -/
theorem of_data {f : Clove → Clove} (hf : ∀ c : Clove, c.DataOnly (f c)) (b : QBind) :
    LandedAt p j k s ((s.modClove k f).modQueue p j fun q => { q with binds := q.binds.put k b }) := by
  refine ⟨⟨rfl, ?_, fun q => q.modClove k f (fun c => (hf c).waiting) (fun c => (hf c).sfu)⟩, fun m hm => ?_, fun m hm => ?_⟩
  · rw [State.queue_modQueue_self]
    rfl
  · exact State.clove_modClove_ne s f hm.symm
  · rw [State.queue_modQueue_self]
    exact SMap.at?_put_ne _ _ hm.symm

end LandedAt

/-- The slot of a binding that its words have filled, if it is the next in order, becomes full (R228). -/
def State.filledNext (s : State) (p j k : Nat) (b : QBind) : State :=
  (s.modClove k (fun v => v.setRegion b.rgn (v.region b.rgn).fillSlot)).modQueue p j
    fun q => { q with binds := q.binds.put k { b with landed := b.landed + 1 } }

theorem State.fillLanded_succ (s : State) (p j k n : Nat) : s.fillLanded p j k (n + 1) = s ∨
    ∃ b, s.fillLanded p j k (n + 1) = (s.filledNext p j k b).fillLanded p j k n := by
  rw [State.fillLanded]
  split
  next b c _ _ =>
    extract_lets m block opened
    split
    · exact .inl rfl
    · exact .inr ⟨b, rfl⟩
  next => exact .inl rfl

/-- Slots that become full move no word (R228). -/
theorem State.fillLanded_spec (p j k n : Nat) : ∀ s : State, LandedAt p j k s (s.fillLanded p j k n) ∧
    ((s.fillLanded p j k n).clove k).scratch = (s.clove k).scratch := by
  induction n with
  | zero => exact fun s => ⟨.refl s, rfl⟩
  | succ n ih =>
    intro s
    rcases s.fillLanded_succ p j k n with h | ⟨b, h⟩ <;> rw [h]
    · exact ⟨.refl s, rfl⟩
    · obtain ⟨hrest, hscratch⟩ := ih (s.filledNext p j k b)
      refine ⟨(LandedAt.of_data (fun v => v.setRegion_dataOnly _ _) _).trans hrest, hscratch.trans ?_⟩
      have hclove := s.clove_modClove_self k fun v => v.setRegion b.rgn (v.region b.rgn).fillSlot
      exact (congrArg Clove.scratch hclove).trans rfl

/-- The first word of a request's place in slot n of a binding (R227, R228). -/
def State.landsAt (s : State) (k : Nat) (b : QBind) (n word : Nat) : Nat :=
  let g := (s.clove k).region b.rgn
  g.base + (g.head + (n - b.landed)) % max g.slots 1 * g.slotw + word

theorem State.land_landedAt (s : State) (p j : Nat) (r : Req) (k : Nat) : LandedAt p j k s (s.land p j r k) := by
  unfold State.land
  split
  · exact (LandedAt.of_data (fun c => c.putWords_dataOnly _ _) _).trans (State.fillLanded_spec ..).1
  · exact .refl s

theorem State.scratch_land {s : State} {p j k n : Nat} {r : Req} {b : QBind} (hb : (s.queue p j).binds.at? k = some b)
    (hn : r.slots.at? k = some n) : ((s.land p j r k).clove k).scratch =
      ((s.clove k).putWords (s.landsAt k b n r.word) r.data).scratch := by
  unfold State.land
  simp only [hb, hn]
  refine (State.fillLanded_spec ..).2.trans (congrArg Clove.scratch ?_)
  exact s.clove_modClove_self k fun c => c.putWords (s.landsAt k b n r.word) r.data

/-- The words of a request land in each of its cloves. -/
theorem State.foldl_land (p j : Nat) (r : Req) {ks : List Nat} (hks : ks.Nodup) : ∀ s : State,
    Landed p j s (ks.foldl (fun s k => s.land p j r k) s) ∧
    (∀ k, k ∉ ks → (ks.foldl (fun s k => s.land p j r k) s).clove k = s.clove k) ∧
    ∀ k ∈ ks, ∀ b n, (s.queue p j).binds.at? k = some b → r.slots.at? k = some n →
      ((ks.foldl (fun s k => s.land p j r k) s).clove k).scratch =
        ((s.clove k).putWords (s.landsAt k b n r.word) r.data).scratch := by
  induction ks with
  | nil => exact fun s => ⟨⟨rfl, rfl, id⟩, fun _ _ => rfl, fun k hk => by cases hk⟩
  | cons k ks ih =>
    intro s
    obtain ⟨hfresh, hrest⟩ := List.nodup_cons.1 hks
    have hland := s.land_landedAt p j r k
    obtain ⟨hlanded, hout, hin⟩ := ih hrest (s.land p j r k)
    rw [List.foldl_cons]
    refine ⟨hland.toLanded.trans hlanded, fun m hm => ?_, fun m hm b n hb hn => ?_⟩
    · obtain ⟨hne, hm⟩ := List.ne_and_not_mem_of_not_mem_cons hm
      exact (hout m hm).trans (hland.cloves m hne)
    · rcases List.mem_cons.1 hm with rfl | hm
      · rw [hout m hfresh]
        exact State.scratch_land hb hn
      · have hne : m ≠ k := fun e => hfresh (e ▸ hm)
        rw [hin m hm b n ((hland.binds m hne).trans hb) hn, State.landsAt, hland.cloves m hne]
        rfl

theorem State.deliver_eq {s : State} {p j id : Nat} {r : Req}
    (h : s.inflight.find? (fun r => r.part == p && r.queue == j && r.id == id && r.served && !r.store) = some r) :
    s.deliver p j id = (s.reqCloves r).foldl (fun s k => s.land p j r k)
      (({ s with inflight := s.inflight.filter (fun u => u.id ≠ id) } : State).reqDone r) := by
  unfold State.deliver
  rw [h]

/-- Where a partition has no append and no share that waits, nothing is pushed on (R271, R278, R295). -/
theorem State.pushAppends_idle {s : State} {p : Nat} (happends : (s.part p).appends = []) (hshares : (s.part p).shares = []) :
    s.pushAppends p = s.modPart p fun q => { q with shares := [] } := by
  have hwake : s.wakeShares p = s.modPart p fun q => { q with shares := [] } := by
    unfold State.wakeShares
    rw [hshares]
    rfl
  unfold State.pushAppends
  simp only [hwake, State.part_modPart_self, happends]
  rfl

theorem State.transferDone_eq {s : State} {p j : Nat} {x : Transfer} {xs : List Transfer} (hposted : (s.queue p j).posted = x :: xs)
    (hdone : x.total ≤ x.done) (htag : x.tag = none) (happends : (s.part p).appends = []) (hshares : (s.part p).shares = []) :
    s.transferDone p j = State.settle
      (((s.modQueue p j fun q => { q with posted := xs }).progressed p).modPart p fun q => { q with shares := [] }) := by
  have hpart : ((s.modQueue p j fun q => { q with posted := xs }).progressed p).part p =
      { s.part p with queues := (s.part p).queues.put j { (s.part p).queues.atD j Queue.none with posted := xs } } :=
    State.part_modPart_self s p fun q => { q with queues := q.queues.put j { q.queues.atD j Queue.none with posted := xs } }
  unfold State.transferDone
  simp only [hposted, htag, Nat.not_lt.2 hdone, if_false]
  rw [State.pushAppends_idle (by rw [hpart]; exact happends) (by rw [hpart]; exact hshares)]

@[simp] theorem State.queue_progressed (s : State) (p q m : Nat) : (s.progressed p).queue q m = s.queue q m := rfl

@[simp] theorem State.queue_modPart_shares (s : State) (p q m : Nat) :
    (s.modPart p fun q => { q with shares := [] }).queue q m = s.queue q m := by
  unfold State.queue
  by_cases hq : q = p
  · subst hq
    rw [State.part_modPart_self]
  · rw [State.part_modPart_ne _ _ (Ne.symm hq)]

end Sys2Proof.Machine
end

section
open Sys2Proof Sys2Proof.Machine

/-- Settles O22: SQ_SET and SQ_POST are tried once; a request, a delivery and a completion each change their one queue, and the
cloves that their words come from or go to. -/
theorem queuesTakeAndMove : Obligations.QueuesTakeAndMove := by
  refine ⟨fun s i d hop hopen hmark hword hclean hplain hd => ⟨fun hsub hctx hidle => ?_, fun hsub hgood hset hfits hroom => ?_⟩,
    fun s p j arrival ctx x ds w hquiet hctx hnext hroom hload hds hnodup hbound hslotw hw hhbm => ?_,
    fun s p j arrival ctx x k g hquiet hctx hnext hroom hstore hk hg hset hfill hclean hhbm => ?_,
    fun s p j id r hquiet hfind hnodup => ?_, fun s p j x xs hquiet hposted hdone htag happends hshares => ?_⟩
  · subst hd
    have htry := State.tryFabric_set (s := s.issuing i) (no := s.issueNo) (k := i.home) (v := 0) rfl hmark hword
      (by rwa [State.issuing_clove]) (by rwa [State.issuing_clove]) hsub (by rwa [State.issuing_clove]) hidle
    rw [State.issuing_clove] at htry
    obtain ⟨hframe, hqueues⟩ := hopen.issue_queue (n := 0) hop htry rfl
    refine ⟨_, rfl, hframe, (hqueues ..).trans (State.queue_modQueue_self ..), fun p j h => ?_⟩
    exact (hqueues ..).trans (State.queue_modQueue_ne (s.issuing i) _ h)
  · subst hd
    have htry := State.tryFabric_post (s := s.issuing i) (no := s.issueNo) (k := i.home) (v := 0) rfl hmark hword
      (by rwa [State.issuing_clove]) (by rwa [State.issuing_clove]) hsub (by rwa [State.issuing_clove]) hset
      (by rw [State.issuing_clove]; exact hfits) hroom
    rw [State.issuing_clove, State.post_eq] at htry
    obtain ⟨hframe, hqueues⟩ := hopen.issue_queue (n := 1) hop htry rfl
    refine ⟨_, _, rfl, hframe, ⟨rfl, rfl, rfl, rfl, rfl, rfl, rfl⟩, (hqueues ..).trans (State.queue_modQueue_self ..), fun p j h => ?_⟩
    exact (hqueues ..).trans (State.queue_modQueue_ne _ _ h)
  · obtain ⟨r, hissue, hid, hxfer, rfl, rfl, hkind, haddr, hlen, hclove⟩ :=
      State.issueLoad_eq (arrival := arrival) (hds ▸ hbound) hslotw hw hhbm
    have hdests : x.dests ctx r.part = ds := hds.symm
    rw [hdests] at hissue hclove
    have hreq := (State.issueReq_eq hctx hnext hroom arrival).trans ((if_neg (by rw [hload]; decide)).trans hissue)
    refine ⟨_, r, congrArg Host.Outcome.next ((congrArg State.settle hreq).trans (Quiet.settle (hquiet.of_cloves rfl))),
      rfl, ⟨hid, hxfer, rfl, rfl, hkind, haddr, hlen, hclove⟩, ?_, ?_, fun e he b hb => ?_⟩
    · rw [← haddr]
      exact State.reqs_asked ..
    · rw [State.queue_asked, hlen]
    · rw [State.queue_asked]
      refine (at?_takeCredits x hnodup he _).trans ?_
      rw [hb]
      rfl
  · obtain ⟨r, g', ms, hissue, hid, hxfer, rfl, rfl, hkind, haddr, hlen, rfl, hdata⟩ :=
      State.issueStore_eq (arrival := arrival) (p := p) (j := j) hk rfl hg hset hfill hclean hhbm
    have hreq := (State.issueReq_eq hctx hnext hroom arrival).trans ((if_pos hstore).trans hissue)
    have hquiet' := hquiet.setClove r.clove ((s.clove r.clove).setRegion (bitField ctx.toNat 80 3) g')
      (hquiet.clove _).1 (hquiet.clove _).2
    refine ⟨_, r, congrArg Host.Outcome.next ((congrArg State.settle hreq).trans (Quiet.settle (hquiet'.of_cloves rfl))),
      fun m hm => State.clove_setClove_ne s _ hm.symm, ?_, rfl, ⟨hid, hxfer, rfl, rfl, hkind, haddr, hlen, rfl, hdata⟩, ?_, ?_⟩
    · exact (congrArg Clove.scratch (s.clove_setClove_self r.clove ((s.clove r.clove).setRegion _ g'))).trans rfl
    · rw [← haddr]
      exact State.reqs_asked ..
    · rw [State.queue_asked, hlen]
      rfl
  · have hr := List.find?_some hfind
    simp only [Bool.and_eq_true, beq_iff_eq] at hr
    obtain ⟨⟨⟨⟨rfl, rfl⟩, -⟩, -⟩, -⟩ := hr
    obtain ⟨⟨hframe, hposted, hquiet'⟩, hout, hin⟩ := State.foldl_land r.part r.queue r hnodup
      (({ s with inflight := s.inflight.filter (fun u => u.id ≠ id) } : State).reqDone r)
    have hdone : (({ s with inflight := s.inflight.filter (fun u => u.id ≠ id) } : State).reqDone r).queue r.part r.queue =
        { s.queue r.part r.queue with
          posted := (s.queue r.part r.queue).posted.map fun u => if u.no = r.xfer then { u with done := u.done + r.len } else u } :=
      State.queue_modQueue_self ..
    rw [← State.deliver_eq hfind] at *
    refine ⟨_, congrArg Host.Outcome.next (hquiet' hquiet).settle, hframe, ?_, hout, fun k hk b n g hb hn hg => ?_⟩
    · rw [hposted, hdone]
    · subst hg
      exact hin k hk b n (by rw [hdone]; exact hb) hn
  · refine ⟨_, congrArg Host.Outcome.next ((State.transferDone_eq hposted hdone htag happends hshares).trans
      (Quiet.settle (hquiet.of_cloves rfl))), rfl, ?_, fun q m h => ?_⟩
    · rw [State.queue_modPart_shares, State.queue_progressed, State.queue_modQueue_self]
    · rw [State.queue_modPart_shares, State.queue_progressed, State.queue_modQueue_ne s _ h]
end

section
/-! SUPPORT. Bytes and code words of HBM (R231, R243, R249): what a store of words leaves to be read, and what poison stays. -/
namespace Sys2Proof

@[simp] theorem leBytes_length (n v : Nat) : (leBytes n v).length = n := by
  induction n generalizing v with
  | zero => rfl
  | succ n ih => rw [leBytes, List.length_cons, ih]

/-- Bytes of a number read back as that number, cut to their width (R7). -/
theorem leNat_leBytes (n v : Nat) : leNat (leBytes n v) = v % 256 ^ n := by
  induction n generalizing v with
  | zero => rw [leBytes, leNat, pow_zero, Nat.mod_one]
  | succ n ih =>
    rw [leBytes, leNat, ih, BitVec.toNat_ofNat, pow_succ' 256 n, Nat.mod_mul]

/-- Byte j of word i stands at byte 8 * i + j of the words' bytes (R7). -/
theorem getElem?_flatMap_leBytes (ws : List (W64 × Bool)) {i j : Nat} {w : W64 × Bool} (hi : ws[i]? = some w) (hj : j < 8) :
    (ws.flatMap (fun w => leBytes 8 w.1.toNat))[8 * i + j]? = (leBytes 8 w.1.toNat)[j]? := by
  induction ws generalizing i with
  | nil => simp at hi
  | cons x ws ih =>
    rw [List.flatMap_cons]
    cases i with
    | zero =>
      obtain rfl : x = w := by simpa using hi
      rw [Nat.mul_zero, Nat.zero_add, List.getElem?_append_left (by rw [leBytes_length]; exact hj)]
    | succ i =>
      rw [List.getElem?_append_right (by rw [leBytes_length]; omega), leBytes_length,
        show 8 * (i + 1) + j - 8 = 8 * i + j by omega]
      exact ih (by simpa using hi)

theorem length_flatMap_leBytes (ws : List (W64 × Bool)) : (ws.flatMap (fun w => leBytes 8 w.1.toNat)).length = 8 * ws.length := by
  induction ws with
  | nil => rfl
  | cons x ws ih => rw [List.flatMap_cons, List.length_append, ih, leBytes_length, List.length_cons]; omega

end Sys2Proof

namespace Sys2Proof.Machine

/-! ### A store of words (R231, R243) -/

theorem State.hbmByte_storeWords (s : State) (a x : Nat) (ws : List (W64 × Bool)) : (s.storeWords a ws).hbmByte x =
    (SMap.setAll s.hbm.bytes 0 a (ws.flatMap (fun w => leBytes 8 w.1.toNat))).atD x 0 := rfl

/-- A store of words leaves every other byte as it was. -/
theorem State.hbmByte_storeWords_out (s : State) {a x : Nat} {ws : List (W64 × Bool)} (h : x < a ∨ a + 8 * ws.length ≤ x) :
    (s.storeWords a ws).hbmByte x = s.hbmByte x := by
  rw [State.hbmByte_storeWords, SMap.atD_setAll_out _ _ _ _ _ (by rwa [length_flatMap_leBytes])]
  rfl

/-- Each stored word reads back from its address. -/
theorem State.hbmNat_storeWords (s : State) (a : Nat) {ws : List (W64 × Bool)} {i : Nat} (hi : i < ws.length) :
    (s.storeWords a ws).hbmNat (a + 8 * i) 8 = (ws.getD i (0, false)).1.toNat := by
  have hbyte (j : Nat) (hj : j < 8) : (s.storeWords a ws).hbmByte (a + 8 * i + j) =
      (leBytes 8 ws[i].1.toNat)[j]'(by rw [leBytes_length]; exact hj) := by
    have hget := getElem?_flatMap_leBytes ws (List.getElem?_eq_getElem hi) hj
    have hlen := length_flatMap_leBytes ws
    rw [List.getElem?_eq_getElem (by omega), List.getElem?_eq_getElem (by rw [leBytes_length]; exact hj)] at hget
    rw [State.hbmByte_storeWords, Nat.add_assoc, SMap.atD_setAll_in _ _ _ _ _ (by omega)]
    exact Option.some.inj hget
  have hbytes : (s.storeWords a ws).hbmBytes (a + 8 * i) 8 = leBytes 8 ws[i].1.toNat := by
    refine List.ext_getElem (by simp [State.hbmBytes]) fun j hj hj' => ?_
    rw [leBytes_length] at hj'
    simpa [State.hbmBytes] using hbyte j hj'
  rw [State.hbmNat, hbytes, leNat_leBytes, List.getD_eq_getElem _ _ hi]
  exact Nat.mod_eq_of_lt ws[i].1.isLt

/-! ### Poisoned code words (R249) -/

theorem State.poisoned_congr {s t : State} (h : t.hbm = s.hbm) (a : Nat) : t.poisoned a = s.poisoned a := by
  rw [State.poisoned, h, ← State.poisoned]

theorem State.poisoned_of_codeWord (s : State) {a b : Nat} (h : a / 64 = b / 64) : s.poisoned a = s.poisoned b := by
  rw [State.poisoned, h, ← State.poisoned]

theorem State.poisoned_setPoison_self (s : State) (cw : Nat) : (s.setPoison [cw] true).poisoned (64 * cw) = true := by
  rw [State.poisoned, Nat.mul_div_cancel_left _ (by decide)]
  exact SMap.atD_set_self false s.hbm.poison cw true

/-- Code words already poisoned stay so when another is. -/
theorem State.poisoned_setPoison (s : State) (cw : Nat) {a : Nat} (h : s.poisoned a = true) :
    (s.setPoison [cw] true).poisoned a = true := by
  by_cases ha : cw = a / 64
  · subst ha
    exact SMap.atD_set_self false s.hbm.poison _ true
  · exact (SMap.atD_set_ne false s.hbm.poison true ha).trans h

end Sys2Proof.Machine
end

section
/-! SUPPORT. What a controller notes of its channels (R241, R248, R252, R253): bad code words, reports of the on-die ECC, failed
wires, and a channel that becomes failing. -/
namespace Sys2Proof.Machine

/-- From s to t a controller has noted a failure of a channel: of the stacks, the times of bad code words alone may differ. -/
structure Noted (s t : State) : Prop where
  frame : t = { s with memStacks := t.memStacks, regs := t.regs, up := t.up, err := t.err, mgmt := t.mgmt }
  stack : ∀ k, t.stack k = { s.stack k with ueTimes := (t.stack k).ueTimes }

namespace Noted
variable {s t u : State}

theorem trans (h : Noted s t) (g : Noted t u) : Noted s u :=
  ⟨by conv_lhs => rw [g.frame, h.frame], fun k => by conv_lhs => rw [g.stack k, h.stack k]⟩

theorem cloves (h : Noted s t) : t.cloves = s.cloves := by rw [h.frame]
theorem hbm (h : Noted s t) : t.hbm = s.hbm := by rw [h.frame]
theorem inflight (h : Noted s t) : t.inflight = s.inflight := by rw [h.frame]

end Noted

section
variable (s : State) (k c : Nat)

/-- The records and registers that say that a channel is failing (R253). -/
def State.showFailing : State :=
  let s := (s.setFld .memStkPend 0 k c c 1).setFld .memStkStat 0 k 6 6 1
  { s with up := { s.up with mapDirty := true } }

theorem State.chanFail_eq : s.chanFail k c =
    if s.flag .memStkPend 0 k c then s else (s.showFailing k c).log .chanFailing 255 k c 0 0 := rfl

theorem State.chanFail_frame : s.chanFail k c = { s with
    regs := (s.chanFail k c).regs, up := (s.chanFail k c).up, err := (s.chanFail k c).err, mgmt := (s.chanFail k c).mgmt } := by
  rw [State.chanFail_eq]
  split
  · rfl
  · rw [State.log_eq]
    rfl

theorem State.chanFail_noted : Noted s (s.chanFail k c) := by
  rw [State.chanFail_frame]
  exact ⟨rfl, fun _ => rfl⟩

/-- A channel that becomes failing is pending until its stack's next epoch. -/
theorem State.chanFail_flag (hk : k < 24) (hc : c < 32) : (s.chanFail k c).flag .memStkPend 0 k c = true := by
  have hne (r : Reg) (h : r = .errLogHead ∨ r = .errAlert ∨ r = .memStkStat) (i : Nat) (hi : i = 0 ∨ r = .memStkStat ∧ i = k) :
      r.addr 0 i ≠ Reg.memStkPend.addr 0 k := by
    rcases h with rfl | rfl | rfl <;> simp only [Reg.addr, Reg.info] <;> omega
  rw [State.chanFail_eq]
  split
  next h => exact h
  next =>
    have hlog := (s.showFailing k c).reg_log_ne .chanFailing 255 k c 0 0
      (hne .errLogHead (.inl rfl) 0 (.inl rfl)) (hne .errAlert (.inr (.inl rfl)) 0 (.inl rfl))
    have hstat : (s.showFailing k c).flag .memStkPend 0 k c = (s.setFld .memStkPend 0 k c c 1).flag .memStkPend 0 k c :=
      State.flag_setFld_ne _ 6 6 1 c (hne .memStkStat (.inr (.inr rfl)) k (.inr ⟨rfl, rfl⟩))
    rw [State.flag, hlog, ← State.flag, hstat, State.flag_setFld _ _ _ _ _ _ hc le_rfl, if_pos ⟨le_rfl, le_rfl⟩]
    simp

theorem State.modStack_noted {f : Stack → Stack} (hf : ∀ v, f v = { v with ueTimes := (f v).ueTimes }) :
    Noted s (s.modStack k f) := by
  refine ⟨rfl, fun j => ?_⟩
  by_cases hj : k = j
  · subst hj
    rw [State.stack_modStack_self]
    exact hf _
  · rw [State.stack_modStack_ne _ _ hj]

theorem State.badOnChan_noted : Noted s (s.badOnChan k c) := by
  unfold State.badOnChan
  extract_lets t u
  have hu : Noted s u := s.modStack_noted k fun _ => rfl
  split
  · exact hu.trans (u.chanFail_noted k c)
  · exact hu

/-- The stack of an on-die report has counted it (R241). -/
def Stack.reported (v : Stack) (c : Nat) : Stack := { v with onDie := v.onDie.put c (v.onDie.atD c 0 + 1) }

theorem State.onDieReport_noted : Noted (s.modStack k fun v => v.reported c) (s.onDieReport k c) :=
  State.badOnChan_noted ..

/-- The stack of an uncorrectable code word has counted it (R248). -/
def Stack.lost (v : Stack) (c : Nat) : Stack := { v with uncorrected := v.uncorrected.put c (v.uncorrected.atD c 0 + 1) }

theorem State.countUe_noted (a : Nat) :
    Noted (s.modStack (a / stackSpan) fun v => v.lost (s.chanAt a)) (s.countUe a) :=
  State.badOnChan_noted ..

end

/-! ### A code word found in error (R248, R249) -/

/-- The stack of a corrected code word has counted it, and queued its write-back unless it is (R248). -/
def Stack.fixed (v : Stack) (cw : Nat) : Stack :=
  { v with
    corrected := v.corrected + 1
    writeback := if v.writeback.contains cw then v.writeback else v.writeback ++ [cw] }

section
variable {s : State} {cw : Nat} (h : s.poisoned (64 * cw) = false)
include h

theorem State.fixWord_eq : s.fixWord cw = s.modStack (64 * cw / stackSpan) fun v => v.fixed cw :=
  if_neg (by rw [h]; decide)

theorem State.ueWord_eq : s.ueWord cw = (s.setPoison [cw] true).countUe (64 * cw) :=
  if_neg (by rw [h]; decide)

end

theorem State.ueWord_noted {s : State} {cw : Nat} (h : s.poisoned (64 * cw) = false) :
    Noted ((s.setPoison [cw] true).modStack (64 * cw / stackSpan) fun v => v.lost (s.chanAt (64 * cw))) (s.ueWord cw) := by
  rw [State.ueWord_eq h]
  exact State.countUe_noted ..

/-- An uncorrectable code word is counted once on its channel, and the patrol of its stack stands (R248). -/
theorem State.ueWord_counts {s : State} {k cw : Nat} (h : s.poisoned (64 * cw) = false) (hk : 64 * cw / stackSpan = k) :
    ((s.ueWord cw).stack k).patrol = (s.stack k).patrol ∧
    ((s.ueWord cw).stack k).uncorrected.atD (s.chanAt (64 * cw)) 0 =
      (s.stack k).uncorrected.atD (s.chanAt (64 * cw)) 0 + 1 := by
  rw [(State.ueWord_noted h).stack k, hk, State.stack_modStack_self]
  exact ⟨rfl, SMap.atD_put_self ..⟩

/-- A report of the on-die ECC is counted on its channel, and the patrol of its stack stands (R241). -/
theorem State.onDieReport_counts (s : State) (k c : Nat) : ((s.onDieReport k c).stack k).patrol = (s.stack k).patrol ∧
    ((s.onDieReport k c).stack k).onDie.atD c 0 = (s.stack k).onDie.atD c 0 + 1 := by
  rw [(s.onDieReport_noted k c).stack k, State.stack_modStack_self]
  exact ⟨rfl, SMap.atD_put_self ..⟩

/-! ### What the reads of one command find (R242, R248, R249) -/

/-- From s to t reads of HBM have found what they found: requests and cloves stand, and what was poisoned stays so. -/
structure ReadsFound (s t : State) : Prop where
  cloves : t.cloves = s.cloves
  inflight : t.inflight = s.inflight
  reqs : ∀ k, (t.stack k).reqs = (s.stack k).reqs
  poison : ∀ a, s.poisoned a = true → t.poisoned a = true

namespace ReadsFound
variable {s t u : State}

theorem refl (s : State) : ReadsFound s s := ⟨rfl, rfl, fun _ => rfl, fun _ => id⟩

theorem trans (h : ReadsFound s t) (g : ReadsFound t u) : ReadsFound s u :=
  ⟨g.cloves.trans h.cloves, g.inflight.trans h.inflight, fun k => (g.reqs k).trans (h.reqs k), fun a ha => g.poison a (h.poison a ha)⟩

theorem foldl {α : Type} {f : State → α → State} (h : ∀ s x, ReadsFound s (f s x)) (l : List α) :
    ∀ s, ReadsFound s (l.foldl f s) := by
  induction l with
  | nil => exact refl
  | cons x l ih => exact fun s => (h s x).trans (ih _)

end ReadsFound

theorem Noted.readsFound {s t : State} (h : Noted s t) : ReadsFound s t :=
  ⟨h.cloves, h.inflight, fun k => by rw [h.stack k], fun a ha => (State.poisoned_congr h.hbm a).trans ha⟩

theorem State.modStack_readsFound (s : State) (k : Nat) {f : Stack → Stack} (hf : ∀ v, (f v).reqs = v.reqs) :
    ReadsFound s (s.modStack k f) := by
  refine ⟨rfl, rfl, fun j => ?_, fun _ => id⟩
  by_cases hj : k = j
  · subst hj
    rw [State.stack_modStack_self, hf]
  · rw [State.stack_modStack_ne _ _ hj]

theorem State.onDieReport_readsFound (s : State) (k c : Nat) : ReadsFound s (s.onDieReport k c) :=
  (s.modStack_readsFound k (f := fun v => v.reported c) fun _ => rfl).trans (s.onDieReport_noted k c).readsFound

theorem State.countUe_readsFound (s : State) (a : Nat) : ReadsFound s (s.countUe a) :=
  (s.modStack_readsFound _ (f := fun v => v.lost (s.chanAt a)) fun _ => rfl).trans (s.countUe_noted a).readsFound

theorem State.fixWord_readsFound (s : State) (cw : Nat) : ReadsFound s (s.fixWord cw) := by
  cases h : s.poisoned (64 * cw) with
  | true => rw [State.fixWord, if_pos h]; exact .refl s
  | false => rw [State.fixWord_eq h]; exact s.modStack_readsFound _ fun _ => rfl

/-- A code word found uncorrectable is poisoned (R249). -/
theorem State.ueWord_spec (s : State) (cw : Nat) : ReadsFound s (s.ueWord cw) ∧ (s.ueWord cw).poisoned (64 * cw) = true := by
  cases h : s.poisoned (64 * cw) with
  | true =>
    rw [State.ueWord, if_pos h]
    exact ⟨.refl s, h⟩
  | false =>
    rw [State.ueWord_eq h]
    have hcount := (s.setPoison [cw] true).countUe_readsFound (64 * cw)
    have hset : ReadsFound s (s.setPoison [cw] true) := ⟨rfl, rfl, fun _ => rfl, fun _ => s.poisoned_setPoison cw⟩
    exact ⟨hset.trans hcount,
      hcount.poison _ (s.poisoned_setPoison_self cw)⟩

theorem State.foldl_ueWord_poisoned {cw : Nat} {cws : List Nat} : ∀ {s : State}, cw ∈ cws →
    (cws.foldl (fun s c => s.ueWord c) s).poisoned (64 * cw) = true := by
  induction cws with
  | nil => simp
  | cons c cws ih =>
    intro s hcw
    rcases List.mem_cons.1 hcw with rfl | hcw
    · exact (ReadsFound.foldl (fun s c => (s.ueWord_spec c).1) cws _).poison _ (s.ueWord_spec cw).2
    · exact ih hcw

/-- What the reads of a command find leaves requests and cloves, and poisons each code word found uncorrectable. -/
theorem State.hbmFind_spec (s : State) (f : HbmFinds) :
    ReadsFound s (s.hbmFind f) ∧ ∀ cw ∈ f.bad, (s.hbmFind f).poisoned (64 * cw) = true := by
  have hbad := ReadsFound.foldl (fun s c => (State.ueWord_spec s c).1) f.bad.dedup s
  have hfixed := ReadsFound.foldl (fun s c => State.fixWord_readsFound s c) (f.fixed.dedup.filter (fun cw => !f.bad.contains cw))
    (f.bad.dedup.foldl (fun s c => s.ueWord c) s)
  have hreports (u : State) := ReadsFound.foldl (fun s (d : Nat) => State.onDieReport_readsFound s (d / 32) (d % 32)) f.onDie u
  exact ⟨hbad.trans (hfixed.trans (hreports _)),
    fun cw hcw => (hfixed.trans (hreports _)).poison _ (State.foldl_ueWord_poisoned (List.mem_dedup.2 hcw))⟩

/-! ### Wires and retraining (R252, R253) -/

section
variable (s : State) (k c n : Nat)

/-- The state in which more failed wires of a channel are noted. -/
def State.wiresNoted : State :=
  let s := (s.modStack k (fun v => { v with pendWires := v.pendWires.put c (v.pendWires.atD c 0 + n) })).setFld .memStkStat 0 k 6 6 1
  { s with up := { s.up with mapDirty := true } }

theorem State.stack_wiresNoted : (s.wiresNoted k c n).stack k =
    { s.stack k with pendWires := (s.stack k).pendWires.put c ((s.stack k).pendWires.atD c 0 + n) } :=
  (s.stack_modStack_self k fun v => { v with pendWires := v.pendWires.put c (v.pendWires.atD c 0 + n) } : _)

theorem State.wiresFail_eq : s.wiresFail k c n =
    if n = 0 then s
    else if 2 < (s.stack k).wires.atD c 0 + ((s.stack k).pendWires.atD c 0 + n) then (s.wiresNoted k c n).chanFail k c
    else s.wiresNoted k c n := by
  have hstack := s.stack_wiresNoted k c n
  have hwires : ((s.wiresNoted k c n).stack k).wires.atD c 0 + ((s.wiresNoted k c n).stack k).pendWires.atD c 0 =
      (s.stack k).wires.atD c 0 + ((s.stack k).pendWires.atD c 0 + n) := by
    rw [hstack, SMap.atD_put_self]
  rw [← hwires]
  rfl

/-- A channel's newly failed wires are counted, and more than 2 make it failing. -/
theorem State.wiresFail_spec (hk : k < 24) (hc : c < 32) :
    (s.wiresFail k c n).stack k = { s.stack k with
      pendWires := ((s.wiresFail k c n).stack k).pendWires, ueTimes := ((s.wiresFail k c n).stack k).ueTimes } ∧
    ((s.wiresFail k c n).stack k).pendWires.atD c 0 = (s.stack k).pendWires.atD c 0 + n ∧
    (s.wiresFail k c n).cloves = s.cloves ∧ (s.wiresFail k c n).hbm = s.hbm ∧
    (n ≠ 0 → 2 < (s.stack k).wires.atD c 0 + (s.stack k).pendWires.atD c 0 + n →
      (s.wiresFail k c n).flag .memStkPend 0 k c = true) := by
  have hstack := s.stack_wiresNoted k c n
  rw [State.wiresFail_eq]
  split
  next hn => exact ⟨rfl, by rw [hn, Nat.add_zero], rfl, rfl, fun h => absurd hn h⟩
  next =>
    split
    next =>
      have hfail := (s.wiresNoted k c n).chanFail_noted k c
      have hstack' := hfail.stack k
      rw [hstack] at hstack'
      exact ⟨by rw [hstack'], by rw [hstack', SMap.atD_put_self], hfail.cloves, hfail.hbm, fun _ _ => State.chanFail_flag _ _ _ hk hc⟩
    next hfew =>
      exact ⟨by rw [hstack], by rw [hstack, SMap.atD_put_self], rfl, rfl, fun _ h => absurd (by omega) hfew⟩

end

/-- A channel's failures in a row once one more retraining has ended (R252). -/
def Stack.failsAfter (v : Stack) (c : Nat) (ok : Bool) : Nat := if ok then 0 else v.fails.atD c 0 + 1

/-- A stack whose channel c has come back from retraining. -/
def Stack.cameBack (v : Stack) (c : Nat) (ok : Bool) : Stack :=
  { v with retraining := none, fails := v.fails.put c (v.failsAfter c ok) }

theorem State.retrained_eq {s : State} {k c : Nat} (h : (s.stack k).retraining = some c) (ok : Bool) (wires : Nat) :
    s.retrained k c ok wires =
      if 3 ≤ (s.stack k).failsAfter c ok then
        ((s.modStack k fun v => v.cameBack c ok).wiresFail k c wires).chanFail k c
      else (s.modStack k fun v => v.cameBack c ok).wiresFail k c wires := by
  unfold State.retrained
  rw [if_neg (by simp [h])]
  rfl

/-- What the end of a channel's retraining leaves of its stack. -/
theorem State.retrained_spec {s : State} {k c : Nat} (hk : k < 24) (hc : c < 32) (h : (s.stack k).retraining = some c) (ok : Bool)
    (wires : Nat) :
    ((s.retrained k c ok wires).stack k).retraining = none ∧
    ((s.retrained k c ok wires).stack k).fails.atD c 0 = (s.stack k).failsAfter c ok ∧
    ((s.retrained k c ok wires).stack k).pendWires.atD c 0 = (s.stack k).pendWires.atD c 0 + wires ∧
    (s.retrained k c ok wires).cloves = s.cloves ∧ (s.retrained k c ok wires).hbm = s.hbm := by
  obtain ⟨hstack, hpend, hcloves, hhbm, -⟩ := (s.modStack k fun v => v.cameBack c ok).wiresFail_spec k c wires hk hc
  have hback : (s.modStack k fun v => v.cameBack c ok).stack k = (s.stack k).cameBack c ok := s.stack_modStack_self k _
  rw [hback] at hstack hpend
  have hfails : ((s.stack k).cameBack c ok).fails.atD c 0 = (s.stack k).failsAfter c ok :=
    SMap.atD_put_self ..
  rw [State.retrained_eq h]
  generalize (s.modStack k fun v => v.cameBack c ok).wiresFail k c wires = u at *
  split
  · have hnoted := u.chanFail_noted k c
    rw [hnoted.stack k, hnoted.cloves, hnoted.hbm]
    refine ⟨by rw [hstack]; rfl, ?_, hpend, hcloves, hhbm⟩
    rw [hstack]
    exact hfails
  · refine ⟨by rw [hstack]; rfl, ?_, hpend, hcloves, hhbm⟩
    rw [hstack]
    exact hfails

theorem State.retrained_flag {s : State} {k c : Nat} (hk : k < 24) (hc : c < 32) (h : (s.stack k).retraining = some c) {ok : Bool}
    {wires : Nat} (hfails : ok = false ∧ 2 ≤ (s.stack k).fails.atD c 0 ∨
      wires ≠ 0 ∧ 2 < (s.stack k).wires.atD c 0 + (s.stack k).pendWires.atD c 0 + wires) :
    (s.retrained k c ok wires).flag .memStkPend 0 k c = true := by
  rw [State.retrained_eq h]
  split
  next => exact State.chanFail_flag _ _ _ hk hc
  next hfew =>
    rcases hfails with ⟨rfl, hthird⟩ | ⟨hsome, hmany⟩
    · exact absurd (Nat.succ_le_succ hthird) hfew
    · refine ((s.modStack k fun v => v.cameBack c ok).wiresFail_spec k c wires hk hc).2.2.2.2 hsome ?_
      rw [State.stack_modStack_self]
      exact hmany

/-! ### Patrol (R248, R250) -/

/-- A code word below a stack's limit lies in that stack (R243). -/
theorem codeWord_stack {k n m l : Nat} (hm : m < n) (hn : n = l / 64) (hl : l ≤ stackSpan) :
    64 * (k * stackSpan / 64 + m) / stackSpan = k := by
  unfold stackSpan at *
  omega

/-- A stack whose patrol has moved on to the next of its n code words (R250). -/
def Stack.patrolled (n : Nat) (v : Stack) : Stack := { v with patrol := (v.patrol + 1) % n }

theorem State.patrolStep_eq {s : State} {k n cw outcome : Nat} (hn : n = s.limitOf k / 64) (hpos : n ≠ 0)
    (hcw : cw = k * stackSpan / 64 + (s.stack k).patrol % n) : s.patrolStep k outcome =
      (match outcome with
        | 0 => s.modStack k (.patrolled n)
        | 1 => (s.modStack k (.patrolled n)).fixWord cw
        | 2 => (s.modStack k (.patrolled n)).ueWord cw
        | _ => (s.modStack k (.patrolled n)).onDieReport k (s.chanAt (64 * cw))) := by
  subst hn hcw
  exact if_neg hpos

end Sys2Proof.Machine
end

section
/-! SUPPORT. One request served by its controller, merged with no other (R229, R230, R231, R248). -/
namespace Sys2Proof.Machine

/-- What the access of one request finds in the code words that it reads. -/
def State.finds (s : State) (k : Nat) (r : Req) (f : HbmFinds) : HbmFinds :=
  let reads (cw : Nat) := [r].any (fun q => !q.store && decide (q.addr / 64 ≤ cw) && decide (cw ≤ (q.addr + q.len - 1) / 64))
  ⟨(f.bad.filter (fun cw => reads cw && !s.poisoned (64 * cw))).dedup, f.fixed.filter reads, f.onDie.filter (fun d => d / 32 = k)⟩

theorem State.serve_single {s : State} {k now : Nat} {r : Req} (hpick : s.pickReq k now = some r) (halone : s.merged k now r = [r])
    (f : HbmFinds) : s.serve k now f = (s.hbmFind (s.finds k r f)).serveOne (s.finds k r f).bad r := by
  unfold State.serve
  rw [hpick]
  simp only [halone]
  rfl

/-- A code word that a load reads and that is found uncorrectable is poisoned once the access has found it. -/
theorem State.poisoned_hbmFind_finds {s : State} {k : Nat} {r : Req} {f : HbmFinds} (hload : r.store = false) {i : Nat}
    (hi : i < r.len / 8) (hbad : (r.addr + 8 * i) / 64 ∈ f.bad) :
    (s.hbmFind (s.finds k r f)).poisoned (r.addr + 8 * i) = true := by
  obtain ⟨hfound, hpoison⟩ := s.hbmFind_spec (s.finds k r f)
  have hword (t : State) : t.poisoned (r.addr + 8 * i) = t.poisoned (64 * ((r.addr + 8 * i) / 64)) :=
    t.poisoned_of_codeWord (by omega)
  cases hbefore : s.poisoned (64 * ((r.addr + 8 * i) / 64)) with
  | true => exact hfound.poison _ ((hword s).trans hbefore)
  | false =>
    rw [hword]
    refine hpoison _ (List.mem_dedup.2 (List.mem_filter.2 ⟨hbad, ?_⟩))
    have hlow : r.addr / 64 ≤ (r.addr + 8 * i) / 64 := Nat.div_le_div_right (by omega)
    have hhigh : (r.addr + 8 * i) / 64 ≤ (r.addr + r.len - 1) / 64 := Nat.div_le_div_right (by omega)
    simp [hload, hlow, hhigh, hbefore]

/-- A stack that has taken a request from its list (R229). -/
def Stack.serving (r : Req) (v : Stack) : Stack := { v with reqs := v.reqs.filter (fun q => q.id ≠ r.id) }

/-- The state in which a load's words have been read and go on their way to its clove. -/
def State.carried (s : State) (r : Req) : State :=
  { s.modStack (r.addr / stackSpan) (.serving r) with
    inflight := s.inflight ++ [{ r with data := s.hbmWords r.addr (r.len / 8), served := true }] }

/-- Words of a load among bad code words (R231). -/
def Req.badWords (r : Req) (bad : List Nat) : Nat :=
  ((List.range (r.len / 8)).filter (fun i => bad.contains ((r.addr + 8 * i) / 64))).length

theorem State.serveOne_load (s : State) (bad : List Nat) {r : Req} (hload : r.store = false) :
    s.serveOne bad r = if 0 < r.badWords bad then (s.carried r).sqMark r (r.badWords bad) else s.carried r := by
  unfold State.serveOne
  rw [if_neg (by rw [hload]; decide)]
  rfl

/-- SQ_MARK leaves requests and cloves as they are (R231, R420). -/
theorem State.sqMark_readsFound (s : State) (r : Req) (n : Nat) : ReadsFound s (s.sqMark r n) := by
  have hevent := s.event_abortsOnly (c := .sqMark) (by decide) r.part r.queue n (r.addr % 2 ^ 32) (r.addr / 2 ^ 32 % 2 ^ 16)
  unfold State.sqMark
  rw [hevent, State.log_eq]
  exact ⟨rfl, rfl, fun _ => rfl, fun _ => id⟩

theorem State.serveOne_load_readsFound (s : State) (bad : List Nat) {r : Req} (hload : r.store = false) :
    ReadsFound (s.carried r) (s.serveOne bad r) := by
  rw [s.serveOne_load bad hload]
  split
  · exact State.sqMark_readsFound ..
  · exact .refl _

theorem State.serveOne_store {s : State} {r : Req} (hstore : r.store = true)
    (hxfer : (s.queue r.part r.queue).posted.find? (fun t => t.no == r.xfer) = none) (bad : List Nat) : s.serveOne bad r =
      ((s.modStack (r.addr / stackSpan) (.serving r)).storeWords
        r.addr r.data).reqDone r := by
  have hdata : (s.modStack (r.addr / stackSpan) (.serving r)).storeData r =
      r.data := by
    unfold State.storeData
    have hqueue : ((s.modStack (r.addr / stackSpan) (.serving r)).queue
      r.part r.queue).posted.find? (fun t => t.no == r.xfer) = none := hxfer
    rw [hqueue]
  exact (if_pos hstore).trans
    (congrArg (fun ws => ((s.modStack (r.addr / stackSpan) (.serving r)).storeWords r.addr ws).reqDone r) hdata)

end Sys2Proof.Machine
end

section
open Sys2Proof Sys2Proof.Machine

/-- Settles O27: a controller that serves one request alone reads or writes HBM at its words, and what its idle work finds is
noted in the one stack. -/
theorem stacksServeAndMaintain : Obligations.StacksServeAndMaintain := by
  refine ⟨fun s k now r hquiet hpick halone hstack => ⟨fun hload => ?_, fun hload f => ?_, fun hstore hxfer => ?_⟩,
    fun s k hk => ⟨?_, fun n cw hn hpos hlimit hcw => ?_, fun c hnone hc => ?_,
      fun c ok wires hc hsome => ?_⟩⟩
  · have hserve : s.serve k now ⟨[], [], []⟩ = s.carried r := by
      have hnone : r.badWords [] = 0 := by simp [Req.badWords]
      rw [State.serve_single hpick halone]
      refine (State.serveOne_load _ _ hload).trans (if_neg ?_)
      exact Nat.not_lt.2 hnone.le
    refine (congrArg (fun t => Host.Outcome.next (State.settle t)) hserve).trans ?_
    have hcarried : Quiet (s.carried r) := hquiet.of_cloves rfl
    rw [hcarried.settle, State.carried, hstack]
    rfl
  · have hserve := State.serve_single hpick halone f
    obtain ⟨hfound, -⟩ := s.hbmFind_spec (s.finds k r f)
    have hmark (i : Nat) := State.poisoned_hbmFind_finds (s := s) (k := k) (f := f) hload (i := i)
    have hserved := (s.hbmFind (s.finds k r f)).serveOne_load_readsFound (s.finds k r f).bad hload
    generalize s.hbmFind (s.finds k r f) = u at *
    refine ⟨_, { r with data := u.hbmWords r.addr (r.len / 8), served := true },
      congrArg Host.Outcome.next ((congrArg State.settle hserve).trans
        (Quiet.settle (hquiet.of_cloves (hserved.cloves.trans hfound.cloves)))), ?_, rfl, rfl, ?_, ?_, fun i hi hbad => ?_⟩
    · rw [hserved.inflight, ← hfound.inflight]
      rfl
    · simp [State.hbmWords]
    · rw [hserved.reqs, ← hfound.reqs, ← hstack]
      exact congrArg Stack.reqs (u.stack_modStack_self _ (.serving r))
    · simp [State.hbmWords, hi, hmark i hi hbad]
  · have hserve := (State.serve_single hpick halone ⟨[], [], []⟩).trans (State.serveOne_store (s := s) hstore hxfer _)
    refine ⟨_, congrArg Host.Outcome.next ((congrArg State.settle hserve).trans (Quiet.settle (hquiet.of_cloves rfl))), rfl, ?_,
      fun i hi => State.hbmNat_storeWords _ _ hi, fun a ha => State.hbmByte_storeWords_out _ ha⟩
    rw [← hstack]
    exact congrArg Stack.reqs (s.stack_modStack_self _ (.serving r))
  · show Host.Outcome.next _ = _
    simp only [List.drop_one]
    rfl
  · have hin : 64 * cw / stackSpan = k := by rw [hcw]; exact codeWord_stack (Nat.mod_lt _ (by omega)) hn hlimit
    refine ⟨?_, fun hsound => ⟨?_, ?_⟩, ?_⟩
    · exact congrArg Host.Outcome.next (State.patrolStep_eq hn hpos hcw)
    · refine ⟨_, congrArg Host.Outcome.next ((State.patrolStep_eq hn hpos hcw).trans (State.fixWord_eq hsound)), rfl, ?_⟩
      rw [hin, State.stack_modStack_self, State.stack_modStack_self]
      simp [Stack.fixed, Stack.patrolled]
    · obtain ⟨hpatrol, hcount⟩ := (s.modStack k (.patrolled n)).ueWord_counts hsound hin
      rw [State.stack_modStack_self] at hpatrol hcount
      exact ⟨_, congrArg Host.Outcome.next (State.patrolStep_eq hn hpos hcw), (State.ueWord_spec _ cw).2, hpatrol, hcount⟩
    · obtain ⟨hpatrol, hcount⟩ := (s.modStack k (.patrolled n)).onDieReport_counts k (s.chanAt (64 * cw))
      rw [State.stack_modStack_self] at hpatrol hcount
      exact ⟨_, congrArg Host.Outcome.next (State.patrolStep_eq (outcome := 3) hn hpos hcw), (State.onDieReport_noted ..).hbm, hpatrol, hcount⟩
  · exact congrArg Host.Outcome.next (if_pos (by simp [hnone, hc]))
  · obtain ⟨hback, hfails, hpend, hcloves, hhbm⟩ := State.retrained_spec hk hc hsome ok wires
    refine ⟨_, rfl, hback, hfails, hpend, hcloves, hhbm, fun hsound hfew => ?_, State.retrained_flag hk hc hsome⟩
    subst hsound
    have hquiet : ¬ 3 ≤ (s.stack k).failsAfter c ok := by
      rcases hfew with rfl | hfew
      · exact of_decide_eq_false rfl
      · unfold Stack.failsAfter
        split <;> omega
    rw [State.retrained_eq hsome, if_neg hquiet, State.wiresFail_eq, if_pos rfl]
    rfl
end

section
/-! SUPPORT. What every command keeps (Keeps), and with it the form of HBM; HBM at reset. -/
namespace Sys2Proof.Machine

/-- Every command keeps what Keeps lists, but for the one that ends a message time (R326) and the one that sets the
monitor's key (R444). -/
theorem exec_keeps {c : Instr} {s t : State} (h : exec c s = .next t) (htime : ∀ os, c ≠ .messageTimeEnd os)
    (hkey : ∀ key, c ≠ .setMonkey key) : Keeps s t := by
  cases c with
  | modResetNLow => exact execModResetNLow_keeps _ _ h
  | modResetNHigh => exact execModResetNHigh_keeps _ _ h
  | busbarGood => exact execBusbarGood_keeps _ _ h
  | busbarBrownoutWarn => exact execBusbarBrownoutWarn_keeps _ _ _ h
  | busbarWarnClear => exact execBusbarWarnClear_keeps _ _ _ h
  | powerLoss => exact execPowerLoss_keeps _ _ h
  | clampLimit => exact execClampLimit_keeps _ _ _ _ _ h
  | openClamp => exact execOpenClamp_keeps _ _ _ _ h
  | coolantSensorUpdate => exact execCoolantSensorUpdate_keeps _ _ _ _ _ h
  | coolantFlowReturn => exact execCoolantFlowReturn_keeps _ _ h
  | flowSafetyTimeout => exact execFlowSafetyTimeout_keeps _ _ h
  | airSensorUpdate => exact execAirSensorUpdate_keeps _ _ _ _ _ h
  | stripTempUpdate => exact execStripTempUpdate_keeps _ _ _ _ _ h
  | hbmTempUpdate => exact execHbmTempUpdate_keeps _ _ _ _ h
  | fieldBrownoutWarn => exact execFieldBrownoutWarn_keeps _ _ _ _ h
  | fieldBrownoutEnd => exact execFieldBrownoutEnd_keeps _ _ _ _ _ h
  | fieldOvercurrent => exact execFieldOvercurrent_keeps _ _ _ _ h
  | phaseFail => exact execPhaseFail_keeps _ _ _ h
  | phaseSpareIn => exact execPhaseSpareIn_keeps _ _ _ h
  | gangCfg => exact execGangCfg_keeps _ _ _ h
  | load => exact execLoad_keeps _ _ _ h
  | swap => exact execSwap_keeps _ _ _ h
  | stream => exact execStream_keeps _ _ _ h
  | vectorResult => exact execVectorResult_keeps _ _ _ _ h
  | drainDone => exact execDrainDone_keeps _ _ _ _ h
  | passStallResume => exact execPassStallResume_keeps _ _ _ h
  | sfuElem => exact execSfuElem_keeps _ _ _ h
  | sfuBin => exact execSfuBin_keeps _ _ _ h
  | sfuMoments => exact execSfuMoments_keeps _ _ _ h
  | sfuMerge => exact execSfuMerge_keeps _ _ _ h
  | sfuNorm => exact execSfuNorm_keeps _ _ _ h
  | sfuSmaxfin => exact execSfuSmaxfin_keeps _ _ _ h
  | epiWrite => exact execEpiWrite_keeps _ _ _ h
  | rgnSet => exact execRgnSet_keeps _ _ _ h
  | pop => exact execPop_keeps _ _ _ h
  | drop => exact execDrop_keeps _ _ _ h
  | remoteRead => exact execRemoteRead_keeps _ _ _ h
  | remoteWrite => exact execRemoteWrite_keeps _ _ _ h
  | remoteSlot => exact execRemoteSlot_keeps _ _ _ h
  | remoteUnbind => exact execRemoteUnbind_keeps _ _ _ h
  | remoteAccessArrival => exact execRemoteAccessArrival_keeps _ _ _ _ h
  | remoteAck => exact execRemoteAck_keeps _ _ _ _ h
  | grantArrival => exact execGrantArrival_keeps _ _ _ _ h
  | creditReturnArrival => exact execCreditReturnArrival_keeps _ _ _ _ h
  | unbindArrival => exact execUnbindArrival_keeps _ _ _ _ h
  | scrubRead => exact execScrubRead_keeps _ _ _ _ _ h
  | scrubWriteback => exact execScrubWriteback_keeps _ _ _ _ h
  | scrubForcedSlot => exact execScrubForcedSlot_keeps _ _ _ _ _ _ h
  | fldScrCtrlClrCnt => exact execFldScrCtrlClrCnt_keeps _ _ _ _ _ h
  | loop => exact execLoop_keeps _ _ _ h
  | loopL0Iteration => exact execLoopL0Iteration_keeps _ _ _ _ h
  | loopL4Iteration => exact execLoopL4Iteration_keeps _ _ _ _ h
  | dispatchFetch => exact execDispatchFetch_keeps _ _ _ _ h
  | hotHoldExpiry => exact execHotHoldExpiry_keeps _ _ _ _ h
  | sqSet => exact execSqSet_keeps _ _ _ h
  | sqPost => exact execSqPost_keeps _ _ _ h
  | fenceRemote => exact execFenceRemote_keeps _ _ _ h
  | fenceStore => exact execFenceStore_keeps _ _ _ h
  | fenceAll => exact execFenceAll_keeps _ _ _ h
  | fenceRelease => exact execFenceRelease_keeps _ _ _ _ h
  | barrier => exact execBarrier_keeps _ _ _ h
  | barrierArrival => exact execBarrierArrival_keeps _ _ _ _ h
  | sqRequestIssue => exact execSqRequestIssue_keeps _ _ _ _ _ h
  | memRequestServe => exact execMemRequestServe_keeps _ _ _ _ _ _ h
  | sqLoadDelivery => exact execSqLoadDelivery_keeps _ _ _ _ _ h
  | sqTransferComplete => exact execSqTransferComplete_keeps _ _ _ _ h
  | linkWordFail => exact execLinkWordFail_keeps _ _ _ _ _ _ _ _ h
  | hbmCorrectedWriteback => exact execHbmCorrectedWriteback_keeps _ _ _ h
  | patrolRead => exact execPatrolRead_keeps _ _ _ _ h
  | channelRetrain => exact execChannelRetrain_keeps _ _ _ _ h
  | memEpochCtrlGo => exact execMemEpochCtrlGo_keeps _ _ _ _ h
  | hbmEpoch => exact execHbmEpoch_keeps _ _ _ _ h
  | prtHbmWindowWrite => exact execPrtHbmWindowWrite_keeps _ _ _ _ _ h
  | windowChangeEffect => exact execWindowChangeEffect_keeps _ _ _ _ h
  | memSpillEntryWrite => exact execMemSpillEntryWrite_keeps _ _ _ _ _ h
  | tierCompletion => exact execTierCompletion_keeps _ _ _ _ _ h
  | tierTimeout => exact execTierTimeout_keeps _ _ _ h
  | pageTranslation => exact execPageTranslation_keeps _ _ _ _ h
  | pin => exact execPin_keeps _ _ _ _ h
  | unpin => exact execUnpin_keeps _ _ _ _ h
  | frameSpill => exact execFrameSpill_keeps _ _ _ h
  | frameSpillDone => exact execFrameSpillDone_keeps _ _ _ _ _ h
  | frameFetch => exact execFrameFetch_keeps _ _ _ _ h
  | frameFetchDone => exact execFrameFetchDone_keeps _ _ _ _ _ _ h
  | readStreamVisit => exact execReadStreamVisit_keeps _ _ _ _ h
  | kvScatter => exact execKvScatter_keeps _ _ _ _ h
  | appendColumnAccepted => exact execAppendColumnAccepted_keeps _ _ _ _ h
  | prtKvCtrlEn => exact execPrtKvCtrlEn_keeps _ _ _ _ _ h
  | fldKvwCtrlClr => exact execFldKvwCtrlClr_keeps _ _ _ _ _ h
  | prefillSubmit => exact execPrefillSubmit_keeps _ _ _ _ h
  | prefixRegister => exact execPrefixRegister_keeps _ _ _ _ h
  | prefixRelease => exact execPrefixRelease_keeps _ _ _ _ h
  | adapterLoad => exact execAdapterLoad_keeps _ _ _ _ h
  | pause => exact execPause_keeps _ _ _ _ h
  | resume => exact execResume_keeps _ _ _ _ h
  | cancel => exact execCancel_keeps _ _ _ _ h
  | exportRoute => exact execExportRoute_keeps _ _ _ _ h
  | layerChunkLaunch => exact execLayerChunkLaunch_keeps _ _ _ h
  | layerChunkDone => exact execLayerChunkDone_keeps _ _ _ _ h
  | firstTokenSample => exact execFirstTokenSample_keeps _ _ _ _ _ h
  | prtSrvCtrlEn => exact execPrtSrvCtrlEn_keeps _ _ _ _ _ h
  | prtSrvQuotaWrite => exact execPrtSrvQuotaWrite_keeps _ _ _ _ _ h
  | sqTail => exact execSqTail_keeps _ _ _ _ _ _ h
  | cqHead => exact execCqHead_keeps _ _ _ _ _ _ h
  | descriptorFetch => exact execDescriptorFetch_keeps _ _ _ h
  | completionRecordWrite => exact execCompletionRecordWrite_keeps _ _ _ _ h
  | msiXHoldoffExpiry => exact execMsiXHoldoffExpiry_keeps _ _ _ _ h
  | statusPageWrite => exact execStatusPageWrite_keeps _ _ _ _ _ h
  | weightLoad => exact execWeightLoad_keeps _ _ _ _ h
  | programLoad => exact execProgramLoad_keeps _ _ _ _ h
  | hintHeavy => exact execHintHeavy_keeps _ _ _ _ h
  | fence => exact execFence_keeps _ _ _ _ h
  | collectiveBind => exact execCollectiveBind_keeps _ _ _ _ h
  | messageTimeEnd os => exact absurd rfl (htime os)
  | hifOwnWrite => exact execHifOwnWrite_keeps _ _ _ _ h
  | prtGroupWrite => exact execPrtGroupWrite_keeps _ _ _ _ _ h
  | prtLockSet => exact execPrtLockSet_keeps _ _ _ _ _ h
  | prtSqCfgEn => exact execPrtSqCfgEn_keeps _ _ _ _ _ _ h
  | prtCqCfgEn => exact execPrtCqCfgEn_keeps _ _ _ _ _ _ h
  | attachLinkChange => exact execAttachLinkChange_keeps _ _ _ _ _ _ h
  | attachPowerState => exact execAttachPowerState_keeps _ _ _ _ h
  | claim id uid port => exact execClaim_keeps id uid port _ _ h
  | defend id uid port => exact execDefend_keeps id uid port _ _ h
  | ack => exact execAck_keeps _ _ _ h
  | credit => exact execCredit_keeps _ _ _ h
  | coll => exact execColl_keeps _ _ _ h
  | tierRdata => exact execTierRdata_keeps _ _ _ h
  | tierWack => exact execTierWack_keeps _ _ _ h
  | mirrorCheck => exact execMirrorCheck_keeps _ _ _ h
  | reservedFrame => exact execReservedFrame_keeps _ _ _ h
  | vngNodeClaim => exact execVngNodeClaim_keeps _ _ _ _ h
  | claimResend => exact execClaimResend_keeps _ _ h
  | claimListenEnd => exact execClaimListenEnd_keeps _ _ h
  | claimBackoffEnd => exact execClaimBackoffEnd_keeps _ _ h
  | defendPeriodic => exact execDefendPeriodic_keeps _ _ h
  | portLinkChange => exact execPortLinkChange_keeps _ _ _ _ h
  | laneFailing => exact execLaneFailing_keeps _ _ _ _ h
  | retrainWindow => exact execRetrainWindow_keeps _ _ _ _ _ h
  | ackTimer => exact execAckTimer_keeps _ _ _ h
  | resendTimer => exact execResendTimer_keeps _ _ _ _ h
  | flowLost => exact execFlowLost_keeps _ _ _ h
  | flowClose => exact execFlowClose_keeps _ _ _ h
  | exportSend => exact execExportSend_keeps _ _ _ h
  | prtVngCallen => exact execPrtVngCallen_keeps _ _ _ _ _ h
  | collPieceSend => exact execCollPieceSend_keeps _ _ _ _ h
  | collFail => exact execCollFail_keeps _ _ _ _ _ h
  | mirrorTimeout => exact execMirrorTimeout_keeps _ _ h
  | vngMirrorBind => exact execVngMirrorBind_keeps _ _ _ _ h
  | prtVngFlowqWrite => exact execPrtVngFlowqWrite_keeps _ _ _ _ _ h
  | prtVngGrploEn => exact execPrtVngGrploEn_keeps _ _ _ _ _ h
  | budgetUpdate => exact execBudgetUpdate_keeps _ _ _ _ _ h
  | powerAgentTick => exact execPowerAgentTick_keeps _ _ _ _ h
  | calibration => exact execCalibration_keeps _ _ _ _ _ _ h
  | prtPwrStripReq => exact execPrtPwrStripReq_keeps _ _ _ _ _ _ h
  | stripDownStart => exact execStripDownStart_keeps _ _ _ _ h
  | domainUpDone => exact execDomainUpDone_keeps _ _ _ h
  | domainDownDone => exact execDomainDownDone_keeps _ _ _ h
  | railTargetReached => exact execRailTargetReached_keeps _ _ _ h
  | ageingSweep => exact execAgeingSweep_keeps _ _ _ _ h
  | setAllot => exact execSetAllot_keeps _ _ _ _ h
  | leaseExpiry => exact execLeaseExpiry_keeps _ _ h
  | hintCheck => exact execHintCheck_keeps _ _ _ _ h
  | hintBallastTimeout => exact execHintBallastTimeout_keeps _ _ _ h
  | hintDeferExpiry => exact execHintDeferExpiry_keeps _ _ _ h
  | throttleEventClose => exact execThrottleEventClose_keeps _ _ _ _ _ h
  | pwrCtrlClr => exact execPwrCtrlClr_keeps _ _ _ _ h
  | startupStageDone => exact execStartupStageDone_keeps _ _ _ _ h
  | startupStageLimit => exact execStartupStageLimit_keeps _ _ _ h
  | prtResetGo => exact execPrtResetGo_keeps _ _ _ _ h
  | partitionResetDone => exact execPartitionResetDone_keeps _ _ _ h
  | prtResetZero => exact execPrtResetZero_keeps _ _ _ _ h
  | zeroisingClearDone => exact execZeroisingClearDone_keeps _ _ _ h
  | glbReset => exact execGlbReset_keeps _ _ _ _ h
  | glbMapCtrlGo => exact execGlbMapCtrlGo_keeps _ _ _ _ h
  | mapEpoch => exact execMapEpoch_keeps _ _ h
  | repairMapWrite => exact execRepairMapWrite_keeps _ _ _ h
  | lockstepDivergence => exact execLockstepDivergence_keeps _ _ _ h
  | watchdogExpiry => exact execWatchdogExpiry_keeps _ _ _ h
  | pairRestartDone => exact execPairRestartDone_keeps _ _ _ _ h
  | heartbeatLoss => exact execHeartbeatLoss_keeps _ _ h
  | requestAbort => exact execRequestAbort_keeps _ _ _ h
  | abortTimeout => exact execAbortTimeout_keeps _ _ _ h
  | stall => exact execStall_keeps _ _ _ h
  | gateTrailerSend => exact execGateTrailerSend_keeps _ _ _ h
  | gateReopen => exact execGateReopen_keeps _ _ _ h
  | plogWrite => exact execPlogWrite_keeps _ _ h
  | errAlertClear => exact execErrAlertClear_keeps _ _ _ _ h
  | getId => exact execGetId_keeps _ _ h
  | getStatus => exact execGetStatus_keeps _ _ _ _ h
  | getEnv => exact execGetEnv_keeps _ _ h
  | setGrade => exact execSetGrade_keeps _ _ _ h
  | setNode => exact execSetNode_keeps _ _ _ h
  | setMonkey key => exact absurd rfl (hkey key)
  | getLast => exact execGetLast_keeps _ _ h
  | regRead => exact execRegRead_keeps _ _ _ _ h
  | regWrite => exact execRegWrite_keeps _ _ _ _ h
  | domain => exact execDomain_keeps _ _ _ _ _ h
  | pairReset => exact execPairReset_keeps _ _ _ h
  | takeover => exact execTakeover_keeps _ _ h
  | moduleReset => exact execModuleReset_keeps _ _ _ h
  | logRead => exact execLogRead_keeps _ _ _ _ _ h
  | assignAddress => exact execAssignAddress_keeps _ _ _ _ h
  | prepareToArp => exact execPrepareToArp_keeps _ _ h
  | resetDevice => exact execResetDevice_keeps _ _ _ h
  | getUdid => exact execGetUdid_keeps _ _ _ h
  | alertResponseAddress => exact execAlertResponseAddress_keeps _ _ _ h
  | notifyArpMaster => exact execNotifyArpMaster_keeps _ _ _ h
  | smbusClockTimeout => exact execSmbusClockTimeout_keeps _ _ h
  | monHelp => exact execMonHelp_keeps _ _ h
  | monId => exact execMonId_keeps _ _ h
  | monStep => exact execMonStep_keeps _ _ h
  | monRd => exact execMonRd_keeps _ _ _ _ h
  | monPage => exact execMonPage_keeps _ _ _ _ _ h
  | monEnv => exact execMonEnv_keeps _ _ h
  | monLog => exact execMonLog_keeps _ _ _ _ _ h
  | monBaud => exact execMonBaud_keeps _ _ _ h
  | monUnlock => exact execMonUnlock_keeps _ _ _ h
  | monLock => exact execMonLock_keeps _ _ h
  | monWr => exact execMonWr_keeps _ _ _ _ h
  | monResetModule => exact execMonResetModule_keeps _ _ h
  | monResetPair => exact execMonResetPair_keeps _ _ _ h
  | monTakeover => exact execMonTakeover_keeps _ _ h
  | baudRevert => exact execBaudRevert_keeps _ _ h
  | monitorIdleLock => exact execMonitorIdleLock_keeps _ _ h
  | challengeExpiry => exact execChallengeExpiry_keeps _ _ h
  | unlockLockoutEnd => exact execUnlockLockoutEnd_keeps _ _ h
  | fldIntCtrlClr => exact execFldIntCtrlClr_keeps _ _ _ _ _ h
  | registerWrite => exact execRegisterWrite_keeps _ _ _ _ _ h
  | hostReadCompletion => exact execHostReadCompletion_keeps _ _ _ _ _ h
  | hostReadTimeout => exact execHostReadTimeout_keeps _ _ _ h
  | channelRetrainingDone => exact execChannelRetrainingDone_keeps _ _ _ _ _ h
  | plogSectorEraseDone => exact execPlogSectorEraseDone_keeps _ _ h
  | lossOfBothServiceBlocks => exact execLossOfBothServiceBlocks_keeps _ _ h
  | unknownOpc => exact execUnknownOpc_keeps _ _ _ h
  | bar0AccessError m off size write => exact execBar0AccessError_keeps m off size write _ _ h
  | busFree => exact execBusFree_keeps _ _ _ h

/-- HBM stays canonical over every command: neither the time nor the key is a part of it. -/
theorem exec_keeps_hbmForm {c : Instr} {s t : State} (h : exec c s = .next t) (w : s.hbm.wf = true) : t.hbm.wf = true := by
  by_cases htime : ∃ os, c = .messageTimeEnd os
  · obtain ⟨os, rfl⟩ := htime
    exact (execMessageTimeEnd_keeps os s t h).hbm w
  by_cases hkey : ∃ key, c = .setMonkey key
  · obtain ⟨key, rfl⟩ := hkey
    rcases execSetMonkey_keeps key s t h with hkeeps | hkeeps
    · exact hkeeps.hbm w
    · exact hkeeps.hbm w
  exact (exec_keeps h (fun os e => htime ⟨os, e⟩) fun key e => hkey ⟨key, e⟩).hbm w

end Sys2Proof.Machine

open Sys2Proof Sys2Proof.Machine

/-- Settles O3: a step idles, or is the command at the front of the queue on a state with the same HBM. -/
theorem stepKeepsHbmForm : Obligations.StepKeepsHbmForm := by
  intro s t h w
  unfold step at h
  split at h
  case h_1 => cases h; exact w
  case h_2 => exact exec_keeps_hbmForm h w

/-- Settles O4: no byte and no code word of HBM is listed at reset. -/
theorem resetHbm : Obligations.ResetHbm := ⟨rfl, fun _ => rfl⟩
end

section
/-! SUPPORT. Reads of a sparse map that a filter has thinned out, and masks of channels. -/
namespace Sys2Proof

/-- A key none of whose entries a filter takes reads as it did. -/
theorem SMap.at?_filter_of_keep {α : Type} {f : Nat × α → Bool} {i : Nat} (h : ∀ a, f (i, a) = true) (m : SMap α) :
    SMap.at? (m.filter f) i = m.at? i := by
  induction m with
  | nil => rfl
  | cons e m ih =>
    obtain ⟨j, a⟩ := e
    rw [List.filter_cons]
    split
    next => rw [SMap.at?, SMap.at?, ih]
    next hdrop =>
      have hji : j ≠ i := fun hji => hdrop (hji ▸ h a)
      rw [SMap.at?, if_neg hji, ih]

/-- Distinct powers of two sum to the number whose bits they are. -/
theorem testBit_sum_two_pow (f : Nat → Bool) (n i : Nat) :
    (((List.range n).filter f).map (fun c => 2 ^ c)).sum < 2 ^ n ∧
    ((((List.range n).filter f).map (fun c => 2 ^ c)).sum).testBit i = (decide (i < n) && f i) := by
  induction n with
  | zero => simp
  | succ n ih =>
    obtain ⟨hlt, hbit⟩ := ih
    rw [List.range_succ, List.filter_append, List.map_append, List.sum_append]
    generalize (((List.range n).filter f).map (fun c => 2 ^ c)).sum = w at *
    have hdouble : 2 ^ (n + 1) = 2 ^ n + 2 ^ n := by ring
    cases hf : f n with
    | false =>
      simp only [List.filter_cons, hf, List.filter_nil, Bool.false_eq_true, if_false, List.map_nil, List.sum_nil, Nat.add_zero, hbit]
      refine ⟨by omega, ?_⟩
      rcases Nat.lt_trichotomy i n with h | rfl | h
      · simp [h, Nat.lt_succ_of_lt h]
      · simp [hf]
      · simp [show ¬ i < n by omega, show ¬ i < n + 1 by omega]
    | true =>
      simp only [List.filter_cons, hf, List.filter_nil, if_true, List.map_cons, List.map_nil, List.sum_cons, List.sum_nil, Nat.add_zero]
      refine ⟨by omega, ?_⟩
      rw [Nat.add_comm]
      rcases Nat.lt_trichotomy i n with h | rfl | h
      · rw [Nat.testBit_two_pow_add_gt h, hbit]
        simp [h, Nat.lt_succ_of_lt h]
      · rw [Nat.testBit_two_pow_add_eq, Nat.testBit_lt_two_pow hlt]
        simp [hf]
      · rw [Nat.testBit_lt_two_pow (lt_of_lt_of_le (by omega : 2 ^ n + w < 2 ^ (n + 1)) (Nat.pow_le_pow_right two_pos h))]
        simp [show ¬ i < n + 1 by omega]

end Sys2Proof

namespace Sys2Proof.Machine

theorem getLsbD_chanMask (f : Nat → Bool) {c : Nat} (hc : c < 32) : (chanMask f).getLsbD c = f c := by
  rw [chanMask, BitVec.getLsbD_ofNat, (testBit_sum_two_pow f 32 c).2]
  simp [hc]

end Sys2Proof.Machine
end


section
/-! SUPPORT. The end of a stack's map epoch (R243, R254, R262): the new map, what of the old one stays pending, and the range
that becomes zero. -/
namespace Sys2Proof.Machine

/-! ### Registers of a stack (R255) -/

/-- The registers that tell of one stack lie in a run of their own. -/
theorem Reg.memStk_addr_bounds {r : Reg} (hr : r ∈ [Reg.memStkStat, .memStkChmap, .memStkPend]) {k : Nat} (hk : k < 24) :
    0x50100 ≤ r.addr 0 k ∧ r.addr 0 k < 0x50280 := by
  simp only [List.mem_cons, List.not_mem_nil, or_false] at hr
  rcases hr with rfl | rfl | rfl <;> simp only [Reg.addr, Reg.info] <;> omega

theorem Reg.addr_ne_memStk {q r : Reg} {b i k : Nat} (hq : q.addr b i < 0x50100 ∨ 0x50280 ≤ q.addr b i)
    (hr : r ∈ [Reg.memStkStat, .memStkChmap, .memStkPend]) (hk : k < 24) : q.addr b i ≠ r.addr 0 k := by
  have := Reg.memStk_addr_bounds hr hk
  omega

theorem State.reg_of_regs {s t : State} (h : t.regs = s.regs) (r : Reg) (b i : Nat) : t.reg r b i = s.reg r b i := by
  rw [State.reg, h, ← State.reg]

/-! ### The new map (R253, R254) -/

/-- Failures in a row of a channel once its stack's epoch has retrained it (R254). -/
def Stack.failsOut (v : Stack) (f : W32) (c : Nat) : Nat := if f.getLsbD c then v.fails.atD c 0 + 1 else 0

/-- The map of stack k once the channels that leave are out of it and those that pass are back (R253, R254). -/
def State.newMap (s : State) (k : Nat) (f : W32) (wires : List (Nat × Nat)) : W32 :=
  let v := s.stack k
  let old := s.reg .memStkChmap 0 k
  (old &&& ~~~(v.leaving ||| chanMask fun c => decide (2 < v.wiresOut wires c) || decide (3 ≤ v.failsOut f c))) |||
    (~~~old &&& chanMask fun c => !f.getLsbD c && decide (v.wiresOut wires c ≤ 2))

/-- The channels of the new map that have become failing since the epoch was accepted (R262). -/
def State.lateMap (s : State) (k : Nat) (f : W32) (wires : List (Nat × Nat)) : W32 :=
  s.reg .memStkPend 0 k &&& ~~~(s.stack k).leaving &&& s.reg .memStkChmap 0 k &&& s.newMap k f wires

section
variable (s : State) {k c : Nat} (f : W32) (wires : List (Nat × Nat)) (hc : c < 32)
include hc

theorem State.getLsbD_newMap : (s.newMap k f wires).getLsbD c =
    if s.flag .memStkChmap 0 k c then
      !((s.stack k).leaving.getLsbD c || decide (2 < (s.stack k).wiresOut wires c) ||
        (f.getLsbD c && decide (2 ≤ (s.stack k).fails.atD c 0)))
    else !f.getLsbD c && decide ((s.stack k).wiresOut wires c ≤ 2) := by
  have hfails : decide (3 ≤ (s.stack k).failsOut f c) = (f.getLsbD c && decide (2 ≤ (s.stack k).fails.atD c 0)) := by
    unfold Stack.failsOut
    cases f.getLsbD c <;> simp
  simp only [State.newMap, BitVec.getLsbD_or, BitVec.getLsbD_and, BitVec.getLsbD_not, getLsbD_chanMask _ hc, hc, hfails, State.flag,
    decide_true, Bool.true_and]
  rcases Bool.eq_false_or_eq_true ((s.reg .memStkChmap 0 k).getLsbD c) with hin | hin
  · simp [hin, Bool.or_assoc]
  · simp [hin]

theorem State.getLsbD_lateMap : (s.lateMap k f wires).getLsbD c =
    (s.flag .memStkPend 0 k c && !(s.stack k).leaving.getLsbD c && s.flag .memStkChmap 0 k c &&
      (s.newMap k f wires).getLsbD c) := by
  simp [State.lateMap, State.flag, hc]

end

/-! ### The map as the registers show it (R255) -/

/-- The registers of stack k with a map m, of which the channels of late are pending. -/
def State.shownMap (s : State) (k : Nat) (m late : W32) : State :=
  ((s.publishMap k m).setReg .memStkPend 0 k late).setFld .memStkStat 0 k 6 6 (b2n (late ≠ 0))

theorem State.shownMap_spec (s : State) (k : Nat) (m late : W32) :
    (s.shownMap k m late).reg .memStkChmap 0 k = m ∧ (s.shownMap k m late).reg .memStkPend 0 k = late ∧
    (s.shownMap k m late).fld .memStkStat 0 k 5 0 = ((List.range 32).filter fun c => m.getLsbD c).length ∧
    (s.shownMap k m late).fld .memStkStat 0 k 31 16 = ((List.range 32).filter fun c => m.getLsbD c).length * 576 := by
  have hcount : ((List.range 32).filter fun c => m.getLsbD c).length ≤ 32 := List.length_filter_le ..
  have hmap : Reg.memStkStat.addr 0 k ≠ Reg.memStkChmap.addr 0 k := by simp [Reg.addr, Reg.info]
  have hpend : Reg.memStkStat.addr 0 k ≠ Reg.memStkPend.addr 0 k := by simp [Reg.addr, Reg.info]
  have hapart : Reg.memStkPend.addr 0 k ≠ Reg.memStkChmap.addr 0 k := by simp [Reg.addr, Reg.info]
  generalize hn : ((List.range 32).filter fun c => m.getLsbD c).length = n at hcount
  unfold State.shownMap State.publishMap
  rw [hn]
  refine ⟨?_, ?_, ?_, ?_⟩
  · simp [State.setFld, State.reg_setReg_ne _ _ hmap, State.reg_setReg_ne _ _ hapart]
  · simp [State.setFld, State.reg_setReg_ne _ _ hpend]
  · rw [State.fld_setFld_apart _ _ _ _ _ (by decide) (by decide) (by decide) (.inl (by decide)), State.fld, State.reg_setReg_ne _ _ hpend.symm,
      ← State.fld, State.fld_setFld_apart _ _ _ _ _ (by decide) (by decide) (by decide) (.inl (by decide)),
      State.fld_setFld_self _ _ _ _ _ (by decide) (by decide)]
    omega
  · rw [State.fld_setFld_apart _ _ _ _ _ (by decide) (by decide) (by decide) (.inr (by decide)), State.fld, State.reg_setReg_ne _ _ hpend.symm,
      ← State.fld, State.fld_setFld_self _ _ _ _ _ (by decide) (by decide)]
    omega

/-- A byte outside a stack's range reads as it did when the stack is zeroed (R254). -/
theorem State.hbmByte_zeroStack_out (s : State) {k a : Nat} (h : ¬ (k * stackSpan ≤ a ∧ a < (k + 1) * stackSpan)) :
    (s.zeroStack k).hbmByte a = s.hbmByte a := by
  unfold State.hbmByte SMap.atD State.zeroStack
  rw [SMap.at?_filter_of_keep fun _ => by simpa [-not_and, not_and_or] using h]

/-! ### The end of the epoch (R254) -/

/-- Once the stack's channels are retrained its registers show the new map. -/
theorem State.renewMap_regs (s : State) (k : Nat) (f : W32) (wires : List (Nat × Nat)) :
    (s.renewMap k f wires).regs = (s.shownMap k (s.newMap k f wires) (s.lateMap k f wires)).regs := rfl

theorem State.renewMap_stays (s : State) (k : Nat) (f : W32) (wires : List (Nat × Nat)) :
    (s.renewMap k f wires).cloves = s.cloves ∧ (s.renewMap k f wires).parts = s.parts ∧
    (s.renewMap k f wires).err = s.err ∧ (s.renewMap k f wires).up = { s.up with mapDirty := true } := by
  simp [State.renewMap, State.publishMap, State.zeroStack]

/-- The epoch is shown as over, and its record made. -/
def State.closeEpoch (s : State) (k w2 w3 : Nat) : State :=
  ((s.setFld .memEpochCtrl 0 0 9 9 0).setFld .memEpochCtrl 0 0 11 11 1).log .hbmEpoch 255 k 0 w2 w3

theorem State.closeEpoch_frame (s : State) (k w2 w3 : Nat) : s.closeEpoch k w2 w3 = { s with
    regs := (s.closeEpoch k w2 w3).regs, err := (s.closeEpoch k w2 w3).err, mgmt := (s.closeEpoch k w2 w3).mgmt } :=
  State.log_eq ..

theorem State.closeEpoch_spec (s : State) {k : Nat} (hk : k < 24) (w2 w3 : Nat) :
    (∀ r ∈ [Reg.memStkStat, .memStkChmap, .memStkPend], (s.closeEpoch k w2 w3).reg r 0 k = s.reg r 0 k) ∧
    (s.closeEpoch k w2 w3).flag .memEpochCtrl 0 0 9 = false ∧ (s.closeEpoch k w2 w3).flag .memEpochCtrl 0 0 11 = true ∧
    (s.closeEpoch k w2 w3).err.nextSeq = s.err.nextSeq + 1 := by
  have hctrl (n : Nat) : (s.closeEpoch k w2 w3).flag .memEpochCtrl 0 0 n =
      ((s.setFld .memEpochCtrl 0 0 9 9 0).setFld .memEpochCtrl 0 0 11 11 1).flag .memEpochCtrl 0 0 n := by
    rw [State.flag, State.closeEpoch, State.reg_log_ne _ _ _ _ _ _ _ (by decide) (by decide), ← State.flag]
  refine ⟨fun r hr => ?_, ?_, ?_, State.log_nextSeq ..⟩
  · have hne (q : Reg) (hq : q.addr 0 0 < 0x50100 ∨ 0x50280 ≤ q.addr 0 0) : q.addr 0 0 ≠ r.addr 0 k := Reg.addr_ne_memStk hq hr hk
    rw [State.closeEpoch, State.reg_log_ne _ _ _ _ _ _ _ (hne .errLogHead (by decide)) (hne .errAlert (by decide)), State.setFld,
      State.reg_setReg_ne _ _ (hne .memEpochCtrl (by decide)), State.setFld, State.reg_setReg_ne _ _ (hne .memEpochCtrl (by decide))]
  · rw [hctrl, State.flag_setFld _ _ _ _ _ _ (by decide) (by decide), State.flag_setFld _ _ _ _ _ _ (by decide) (by decide)]
    rfl
  · rw [hctrl, State.flag_setFld _ _ _ _ _ _ (by decide) (by decide)]
    rfl

theorem State.epochDone_eq {s : State} {k : Nat} (h : s.up.hbmEpoch = some k) (f : W32) (wires : List (Nat × Nat)) :
    ∃ w2 w3, s.epochDone k f wires =
      (({ s with up := { s.up with hbmEpoch := none } } : State).renewMap k f wires).closeEpoch k w2 w3 :=
  ⟨_, _, if_neg (by simp [h])⟩

/-- What an epoch's end leaves: the registers of its stack show the new map, its range is zero, and one record is made. -/
theorem State.epochDone_spec {s : State} {k : Nat} (hk : k < 24) (h : s.up.hbmEpoch = some k) (f : W32) (wires : List (Nat × Nat)) :
    (∀ r ∈ [Reg.memStkStat, .memStkChmap, .memStkPend], (s.epochDone k f wires).reg r 0 k =
      (s.shownMap k (s.newMap k f wires) (s.lateMap k f wires)).reg r 0 k) ∧
    (s.epochDone k f wires).flag .memEpochCtrl 0 0 9 = false ∧ (s.epochDone k f wires).flag .memEpochCtrl 0 0 11 = true ∧
    (s.epochDone k f wires).up.hbmEpoch = none ∧ (s.epochDone k f wires).hbm = (s.zeroStack k).hbm ∧
    (s.epochDone k f wires).err.nextSeq = s.err.nextSeq + 1 ∧ (s.epochDone k f wires).cloves = s.cloves ∧
    (s.epochDone k f wires).parts = s.parts := by
  obtain ⟨w2, w3, hdone⟩ := State.epochDone_eq h f wires
  have hregs := ({ s with up := { s.up with hbmEpoch := none } } : State).renewMap_regs k f wires
  have hhbm := ({ s with up := { s.up with hbmEpoch := none } } : State).renewMap_hbm k f wires
  obtain ⟨hcloves, hparts, herr, hup⟩ := ({ s with up := { s.up with hbmEpoch := none } } : State).renewMap_stays k f wires
  generalize ({ s with up := { s.up with hbmEpoch := none } } : State).renewMap k f wires = u at *
  obtain ⟨hstack, hbusy, hover, hseq⟩ := u.closeEpoch_spec hk w2 w3
  have hframe := u.closeEpoch_frame k w2 w3
  rw [hdone]
  refine ⟨fun r hr => (hstack r hr).trans (State.reg_of_regs hregs r 0 k), hbusy, hover, ?_, ?_, by rw [hseq, herr], ?_, ?_⟩
  · rw [hframe]
    exact congrArg Startup.hbmEpoch hup
  · rw [hframe]
    exact hhbm
  · rw [hframe]
    exact hcloves
  · rw [hframe]
    exact hparts

end Sys2Proof.Machine
end


section
/-! SUPPORT. Answers of the slower tier (R260, R261): what a request that fails leaves, and its event. -/
namespace Sys2Proof.Machine

/-! ### The event of a failed request (R420, R422) -/

/-- From s to t an event has been recorded and has had its class's effect on requests: memory, cloves, partitions and the
network stand. -/
structure EventTold (s t : State) : Prop where
  frame : t = { s with regs := t.regs, srv := t.srv, err := t.err, mgmt := t.mgmt }
  seq : s.err.nextSeq < t.err.nextSeq

theorem State.event_told (s : State) {c : Code} (hc : c ≠ .rangeSat) (part h0 h1 w2 w3 : Nat) :
    EventTold s (s.event c part h0 h1 w2 w3) := by
  have habort : s.event c part h0 h1 w2 w3 = _ := s.event_abortsOnly hc part h0 h1 w2 w3
  have hseq := s.log_nextSeq c part h0 h1 w2 w3
  have hlog := s.log_eq c part h0 h1 w2 w3
  generalize s.event c part h0 h1 w2 w3 = t at *
  generalize s.log c part h0 h1 w2 w3 = u at *
  rw [hlog] at habort
  exact ⟨by rw [habort], by rw [habort]; exact hseq ▸ Nat.lt_succ_self _⟩

theorem State.spillFail_told (s : State) (x : TierReq) (cause : Nat) : EventTold s (s.spillFail x cause) :=
  s.event_told (by decide) ..

/-! ### Words of a failed read (R261) -/

/-- Words of free value, each marked: nothing else moves but the count of free values. -/
theorem State.drawMarked_spec (n : Nat) : ∀ s : State,
    (s.drawMarked n).2 = { s with draws := (s.drawMarked n).2.draws } ∧ (s.drawMarked n).1.length = n ∧
    ∀ w ∈ (s.drawMarked n).1, w.2 = true := by
  induction n with
  | zero => exact fun s => ⟨rfl, rfl, by simp [State.drawMarked]⟩
  | succ n ih =>
    intro s
    obtain ⟨hframe, hlen, hmark⟩ := ih s.draw.2
    refine ⟨hframe, congrArg Nat.succ hlen, fun w hw => ?_⟩
    rcases List.mem_cons.1 hw with rfl | hw
    · rfl
    · exact hmark w hw

@[simp] theorem wordsOf_length (bs : List Byte) (n : Nat) : (wordsOf bs n).length = n := by simp [wordsOf]

/-! ### A tier request that is answered -/

/-- The request of a tag is no longer out. -/
def State.endTier (s : State) (tag : Nat) : State := { s with net := { s.net with tiers := s.net.tiers.del tag } }

/-- The queue's request that a tier read was for has its words. -/
def State.tierWords (s : State) (x : TierReq) (ws : List (W64 × Bool)) : State :=
  { s with inflight := s.inflight.map (fun r => if r.id = x.req then { r with data := ws, served := true } else r) }

/-- A read of the tier has failed: its request has marked words, and a record says so. -/
structure ReadFailed (tag : Nat) (x : TierReq) (ws : List (W64 × Bool)) (s t : State) : Prop where
  tiers : t.net.tiers = s.net.tiers.del tag
  length : ws.length = x.len / 8
  marked : ∀ w ∈ ws, w.2 = true
  seq : s.err.nextSeq < t.err.nextSeq
  hbm : t.hbm = s.hbm
  cloves : t.cloves = s.cloves
  inflight : t.inflight = s.inflight.map (fun r => if r.id = x.req then { r with data := ws, served := true } else r)

section
variable {s : State} {tag : Nat} {x : TierReq} (hx : s.net.tiers.at? tag = some x)
include hx

theorem State.tierAnswer_words (hload : x.store = false) (ws : List (W64 × Bool)) (cause : Nat) :
    s.tierAnswer tag (some ws) cause = (s.endTier tag).tierWords x ws := by
  simp [State.tierAnswer, hx, hload, State.endTier, State.tierWords]

theorem State.tierAnswer_fails (hload : x.store = false) (cause : Nat) :
    ∃ ws, ReadFailed tag x ws s (s.tierAnswer tag none cause) := by
  have hanswer : s.tierAnswer tag none cause =
      (((s.endTier tag).spillFail x cause).drawMarked (x.len / 8)).2.tierWords x
        (((s.endTier tag).spillFail x cause).drawMarked (x.len / 8)).1 := by
    simp [State.tierAnswer, hx, hload, State.endTier, State.tierWords]
  obtain ⟨hdraw, hlen, hmark⟩ := State.drawMarked_spec (x.len / 8) ((s.endTier tag).spillFail x cause)
  obtain ⟨hframe, hseq⟩ := (s.endTier tag).spillFail_told x cause
  rw [hanswer]
  generalize (s.endTier tag).spillFail x cause = u at *
  generalize u.drawMarked (x.len / 8) = d at *
  rw [hdraw]
  refine ⟨d.1, ?_, hlen, hmark, hseq, ?_, ?_, ?_⟩ <;> rw [hframe] <;> rfl

/-- The data of a poisoned completion is marked (R261). -/
theorem State.tierAnswer_poisoned (hload : x.store = false) (data : List Byte) (cause cause' : Nat) :
    ReadFailed tag x ((wordsOf data (x.len / 8)).map fun w => (w, true)) s
      ((s.spillFail x cause).tierAnswer tag (some ((wordsOf data (x.len / 8)).map fun w => (w, true))) cause') := by
  obtain ⟨hframe, hseq⟩ := s.spillFail_told x cause
  generalize s.spillFail x cause = u at *
  have hu : u.net.tiers.at? tag = some x := by rw [hframe]; exact hx
  rw [State.tierAnswer_words hu hload]
  refine ⟨?_, by simp, by simp, hseq, ?_, ?_, ?_⟩ <;> rw [hframe] <;> rfl

/-- A write of the tier that fails is recorded, and its bytes do not count as done (R261). -/
theorem State.tierAnswer_unstored (hstore : x.store = true) (cause : Nat) :
    (s.tierAnswer tag none cause).net.tiers = s.net.tiers.del tag ∧ s.err.nextSeq < (s.tierAnswer tag none cause).err.nextSeq ∧
    (s.tierAnswer tag none cause).hbm = s.hbm ∧ (s.tierAnswer tag none cause).cloves = s.cloves ∧
    (s.tierAnswer tag none cause).parts = s.parts := by
  obtain ⟨u, hanswer, hu⟩ : ∃ u : State, s.tierAnswer tag none cause = u.spillFail x cause ∧
      u = { s.endTier tag with inflight := u.inflight } := by
    unfold State.tierAnswer
    simp only [hx, hstore, if_true]
    split
    · exact ⟨_, rfl, rfl⟩
    · exact ⟨_, rfl, rfl⟩
  obtain ⟨hframe, hseq⟩ := u.spillFail_told x cause
  rw [hanswer]
  generalize u.spillFail x cause = t at *
  refine ⟨?_, ?_, ?_, ?_, ?_⟩
  · rw [hframe, hu]; rfl
  · rw [hu] at hseq; exact hseq
  · rw [hframe, hu]; rfl
  · rw [hframe, hu]; rfl
  · rw [hframe, hu]; rfl

end

/-! ### Old extents of a window (R247) -/

theorem execWindowChangeEffect_eq (s : State) (p w : Nat) : execWindowChangeEffect p w s = .next (s.modPart p fun q => { q with
    oldWin := q.oldWin.set w [] (((s.part p).oldWin.atD w []).filter fun e => s.usesExtent p (e.1 * mib2, e.2 * mib2)) }) := rfl

end Sys2Proof.Machine

open Sys2Proof Sys2Proof.Machine

/-- Settles O28: the end of an epoch by what its stack's registers then show; a changed window by its old extents alone; a
tier request by what a failed one leaves, after which nothing else moves. -/
theorem epochsWindowsAndTier : Obligations.EpochsWindowsAndTier := by
  refine ⟨fun s k f wires hk hepoch => ?_, fun s p w => ?_, fun s tag x st data c hquiet hx => ⟨fun hload => ?_, fun hc =>
    ⟨fun hload => ?_, fun htime hstore => ?_⟩⟩⟩
  · obtain ⟨hregs, hbusy, hover, hend, hhbm, hseq, hcloves, hparts⟩ := State.epochDone_spec hk hepoch f wires
    obtain ⟨hmap, hpend, hhealthy, hlimit⟩ := s.shownMap_spec k (s.newMap k f wires) (s.lateMap k f wires)
    generalize hs : s.epochDone k f wires = t at *
    have hchmap : t.reg .memStkChmap 0 k = s.newMap k f wires := (hregs _ (by simp)).trans hmap
    have hlate : t.reg .memStkPend 0 k = s.lateMap k f wires := (hregs _ (by simp)).trans hpend
    have hstat (hi lo : Nat) : t.fld .memStkStat 0 k hi lo =
        (s.shownMap k (s.newMap k f wires) (s.lateMap k f wires)).fld .memStkStat 0 k hi lo :=
      congrArg (regField · hi lo) (hregs .memStkStat (by simp))
    have hcount : t.healthy k = (List.range 32).filter fun c => (s.newMap k f wires).getLsbD c := by
      simp only [State.healthy, State.flag, hchmap]
    refine ⟨t, congrArg Host.Outcome.next hs, hend, fun c hc => ⟨?_, ?_⟩, ?_, ?_, hbusy, hover, fun a => ?_, hseq, hcloves, hparts⟩
    · rw [State.flag, hchmap, State.getLsbD_newMap s f wires hc]
    · rw [State.flag, hlate, State.getLsbD_lateMap s f wires hc, State.flag, State.flag, State.flag, hchmap]
    · rw [hstat, hhealthy, hcount]
    · rw [State.limitOf, hstat, hlimit, hcount]
      unfold mib2
      ring
    · rw [State.hbmByte_congr hhbm]
      split
      next hin => exact s.hbmByte_zeroStack hin.1 hin.2
      next hout => exact s.hbmByte_zeroStack_out hout
  · refine ⟨_, execWindowChangeEffect_eq s p w, rfl, fun q hq => s.part_modPart_ne _ (Ne.symm hq), ?_, fun v => ?_⟩
    · rw [State.part_modPart_self]
    · rw [State.part_modPart_self]
      split
      next hv => subst hv; exact SMap.atD_set_self ..
      next hv => exact SMap.atD_set_ne _ _ _ (Ne.symm hv)
  · have hanswer := State.tierAnswer_words hx hload ((wordsOf data (x.len / 8)).map fun w => (w, false)) 0
    show Host.Outcome.next _ = _
    simp only [hx, hanswer]
    exact congrArg Host.Outcome.next (Quiet.settle (hquiet.of_cloves rfl))
  · obtain ⟨ws, t, hexec, hfail⟩ : ∃ ws t, exec c s = .next t.settle ∧ ReadFailed tag x ws s t := by
      rcases hc with rfl | ⟨hbad, rfl⟩
      · obtain ⟨ws, hfail⟩ := State.tierAnswer_fails hx hload 4
        exact ⟨ws, _, rfl, hfail⟩
      · have hexec : exec (.tierCompletion tag st data) s = execTierCompletion tag st data s := rfl
        rw [hexec, execTierCompletion, hx]
        cases st with
        | good => exact absurd rfl hbad
        | poisoned => exact ⟨_, _, rfl, State.tierAnswer_poisoned hx hload data 1 1⟩
        | unsupported | aborted | timeout =>
          obtain ⟨ws, hfail⟩ := State.tierAnswer_fails hx hload (spillCause _)
          exact ⟨ws, _, rfl, hfail⟩
    rw [(hquiet.of_cloves hfail.cloves).settle] at hexec
    exact ⟨t, ws, hexec, hfail.tiers, hfail.length, hfail.marked, hfail.seq, hfail.hbm, hfail.cloves, hfail.inflight⟩
  · obtain ⟨htiers, hseq, hhbm, hcloves, hparts⟩ := State.tierAnswer_unstored hx hstore 4
    subst htime
    exact ⟨_, congrArg Host.Outcome.next (Quiet.settle (hquiet.of_cloves hcloves)), htiers, hseq, hhbm, hcloves, hparts⟩
end

section
/-! SUPPORT. Set-up writes that are checked (R246, R247, R259, R292, R319, R328, R336, R371): a refusal is one record, and the
registers keep what they held. -/
namespace Sys2Proof.Machine

/-! ### A refusal leaves the registers (R422) -/

/-- The log's registers share their block with no register of another base. -/
theorem Reg.info_apart_from_log (r : Reg) (h : r.info.base ≠ 0x70000) :
    r.info.base + r.info.blocks * 0x1000 ≤ 0x70000 ∨ 0x71000 ≤ r.info.base := by
  revert h
  cases r <;> decide

theorem Reg.addr_lt_end (r : Reg) {blk idx : Nat} (h : blk < r.info.blocks ∧ idx < r.info.count) :
    r.addr blk idx < r.info.base + r.info.blocks * 0x1000 := by
  obtain ⟨hblk, hidx⟩ := h
  have hmember : idx * r.info.stride ≤ (r.info.count - 1) * r.info.stride := Nat.mul_le_mul_right _ (by omega)
  have hend := r.info_within.1
  unfold Reg.addr
  omega

/-- A record leaves the registers that lie outside the log's own block. -/
theorem State.reg_log_of_place (s : State) (c : Code) (part h0 h1 w2 w3 : Nat) {r : Reg} {blk idx : Nat}
    (hplace : blk < r.info.blocks ∧ idx < r.info.count) (hbase : r.info.base ≠ 0x70000) :
    (s.log c part h0 h1 w2 w3).reg r blk idx = s.reg r blk idx := by
  have hne (q : Reg) (hq : 0x70000 ≤ q.addr 0 0 ∧ q.addr 0 0 < 0x71000) : q.addr 0 0 ≠ r.addr blk idx := by
    have hend := r.addr_lt_end hplace
    have hbegin : r.info.base ≤ r.addr blk idx := by unfold Reg.addr; omega
    have hapart := r.info_apart_from_log hbase
    omega
  exact s.reg_log_ne c part h0 h1 w2 w3 (hne .errLogHead (by decide)) (hne .errAlert (by decide))

theorem State.log_parts (s : State) (c : Code) (part h0 h1 w2 w3 : Nat) : (s.log c part h0 h1 w2 w3).parts = s.parts := by
  rw [State.log_eq]

/-! ### Windows (R246, R247) -/

/-- The two registers of a window set. -/
def State.windowSet (s : State) (p w : Nat) (base size : W32) : State :=
  (s.setReg .prtHbmBase p w base).setReg .prtHbmSize p w size

section
variable {s : State} {p w : Nat} {base size : W32} {b n k : Nat} (hb : b = regField base 18 0) (hn : n = regField size 14 0)
  (hk : k = b * mib2 / stackSpan)
include hb hn hk

/-- A window that does not lie in one stack below its limit, or meets another partition's, is refused with one record. -/
theorem State.writeWindow_refused (hen : base.getLsbD 31 = true) (hmoved : s.window p w ≠ some (b * mib2, n * mib2))
    (hbad : n = 0 ∨ 24 ≤ k ∨ s.up.hbmEpoch = some k ∨ k * stackSpan + s.limitOf k < b * mib2 + n * mib2 ∨
      ∃ q, q < 32 ∧ q ≠ p ∧ ∃ x ∈ s.winExtents q, rangesMeet (b * mib2, n * mib2) x = true) :
    ∃ c w2 w3, s.writeWindow p w base size = s.log c p k 0 w2 w3 := by
  subst hb hn hk
  unfold State.writeWindow
  extract_lets en b n k ext was bad clash a
  rw [if_neg (by simp [en, hen, was, ext, hmoved, b, n])]
  by_cases hrange : bad = true
  · exact ⟨_, _, _, if_pos (by simp [en, hen, hrange])⟩
  · have hclash : clash = true := by
      rcases hbad with h | h | h | h | ⟨q, hq, hqp, x, hx, hmeet⟩
      · exact absurd (by simp [bad, n, h]) hrange
      · exact absurd (by simp [bad, k, b, h]) hrange
      · exact absurd (by simp [bad, k, b, h]) hrange
      · exact absurd (by simp only [bad, k, b, n, Bool.or_eq_true, decide_eq_true_eq]; exact .inl (.inr h)) hrange
      · exact List.any_eq_true.2 ⟨q, List.mem_range.2 hq, Bool.and_eq_true_iff.2 ⟨decide_eq_true hqp, List.any_eq_true.2 ⟨x, hx, hmeet⟩⟩⟩
    rw [if_neg (by simp [hrange])]
    exact ⟨_, _, _, if_pos (by simp [en, hen, hclash])⟩

theorem State.writeWindow_same (hen : base.getLsbD 31 = true) (hsame : s.window p w = some (b * mib2, n * mib2)) :
    s.writeWindow p w base size = s := by
  subst hb hn hk
  unfold State.writeWindow
  exact if_pos (by simp [hen, hsame])

/-- The window's registers hold what was written; an extent that transfers still use is kept where the new window does not
cover it. -/
theorem State.writeWindow_accepted
    (hgood : base.getLsbD 31 = false ∨ s.window p w ≠ some (b * mib2, n * mib2) ∧ n ≠ 0 ∧ k < 24 ∧ s.up.hbmEpoch ≠ some k ∧
      b * mib2 + n * mib2 ≤ k * stackSpan + s.limitOf k ∧
      ∀ q, q < 32 → q ≠ p → ∀ x ∈ s.winExtents q, rangesMeet (b * mib2, n * mib2) x = false) :
    s.writeWindow p w base size = (match s.window p w with
      | none => s.windowSet p w base size
      | some o => if base.getLsbD 31 && b * mib2 ≤ o.1 && o.1 + o.2 ≤ b * mib2 + n * mib2 then
          s.windowSet p w base size
        else if (s.windowSet p w base size).usesExtent p o then
          (s.windowSet p w base size).modPart p (fun q => { q with
            oldWin := q.oldWin.put w ((o.1 / mib2, o.2 / mib2) :: q.oldWin.atD w []) })
        else s.windowSet p w base size) := by
  subst hb hn hk
  unfold State.writeWindow
  extract_lets en b n k ext was bad clash a t
  have hpass : (en && was == some ext) = false ∧ (en && bad) = false ∧ (en && clash) = false := by
    rcases hgood with hoff | ⟨hmoved, hpos, hstack, hepoch, hlimit, hfree⟩
    · have hen : en = false := hoff
      rw [hen]
      exact ⟨rfl, rfl, rfl⟩
    · have hclash : clash = false := by
        simp only [clash, List.any_eq_false, List.mem_range, Bool.and_eq_true, decide_eq_true_eq, not_and, Bool.not_eq_true]
        exact fun q hq hqp x hx => hfree q hq hqp x hx
      have hrange : bad = false := by
        simp only [bad, Bool.or_eq_false_iff, decide_eq_false_iff_not, beq_eq_false_iff_ne]
        exact ⟨⟨⟨hpos, Nat.not_le.2 hstack⟩, Nat.not_lt.2 hlimit⟩, hepoch⟩
      simp [was, ext, hclash, hrange, hmoved, b, n]
  obtain ⟨hmoved, hrange, hclash⟩ := hpass
  rw [hmoved, hrange, hclash]
  rfl

end

/-- What the two registers of a window say of it. -/
theorem State.window_windowSet {s : State} {p w : Nat} (base size : W32) :
    (s.windowSet p w base size).window p w =
      if base.getLsbD 31 then some (regField base 18 0 * mib2, regField size 14 0 * mib2) else none := by
  have hne : Reg.prtHbmSize.addr p w ≠ Reg.prtHbmBase.addr p w := by simp [Reg.addr, Reg.info]
  simp [State.windowSet, State.window, State.flag, State.fld, State.reg_setReg_ne _ _ hne]

/-! ### Slower-tier entries (R259) -/

/-- An entry with a partition that the master may not order is refused with one record. -/
theorem State.writeSpill_refused {s : State} {r : Reg} {n off : Nat} {m : Master} {v mask : W32}
    (hmask : mask = if r = .memSpillPmask then s.reg .memSpillPmask 0 n ||| v else s.reg .memSpillPmask 0 n) {p : Nat}
    (hp : p < 32) (hbit : mask.getLsbD p = true) (hforeign : s.foreign m p = true) :
    s.writeSpill r n m off v = s.log .hostAccess 255 0 0 0 off := by
  subst hmask
  exact if_pos (List.any_eq_true.2 ⟨p, List.mem_range.2 hp, Bool.and_eq_true_iff.2 ⟨hbit, hforeign⟩⟩)

/-- The slots of an entry that were withheld are free again (R286). -/
def State.entryFreed (s : State) (n : Nat) : State :=
  { s with parts := s.parts.map (fun e => (e.1, { e.2 with
    tslots := e.2.tslots.filter (fun t => !(t.2 == 1 && t.1 / 2 ^ 28 == n)) })) }

theorem State.writeSpill_accepted {s : State} {r : Reg} {n off : Nat} {m : Master} {v mask : W32}
    (hmask : mask = if r = .memSpillPmask then s.reg .memSpillPmask 0 n ||| v else s.reg .memSpillPmask 0 n)
    (hown : ∀ p, p < 32 → mask.getLsbD p = true → s.foreign m p = false) :
    s.writeSpill r n m off v = (s.store r 0 n v).entryFreed n := by
  subst hmask
  refine if_neg ?_
  rw [List.any_eq_true]
  rintro ⟨p, hp, hbad⟩
  rw [Bool.and_eq_true] at hbad
  obtain ⟨hbit, hforeign⟩ := hbad
  rw [hown p (List.mem_range.1 hp) hbit] at hforeign
  cases hforeign

theorem State.tslots_entryFreed {s : State} {n : Nat} {p : Nat × Part} (hp : p ∈ (s.entryFreed n).parts) {x : Nat × Nat}
    (hx : x ∈ p.2.tslots) (hn : x.1 / 2 ^ 28 = n) : x.2 ≠ 1 := by
  obtain ⟨e, -, rfl⟩ := List.mem_map.1 hp
  have hkept := (List.mem_filter.1 hx).2
  intro hone
  rw [hone, hn] at hkept
  simp at hkept

/-! ### Enables and quotas (R292, R319, R328) -/

/-- What a checked write of partition p's register r leaves: the register stored where its check passed, and else one record.
An enable is checked where it is set anew. -/
structure CheckedWrite (s : State) (r : Reg) (p : Nat) (v : W32) (ok : Bool) (t : State) : Prop where
  stored : ok = true → t = s.store r p 0 v
  refused : ok = false → ((r = .prtKvCtrl ∨ r = .prtSrvCtrl) → v.getLsbD 0 = true ∧ s.flag r p 0 0 = false) →
    ∃ c off, t = s.log c p 0 0 0 off

theorem State.enable_checked (s : State) {r : Reg} (hr : r = .prtKvCtrl ∨ r = .prtSrvCtrl) (p off : Nat) (v : W32) (ok : Bool)
    (c : Code) : CheckedWrite s r p v ok (s.enable r p off v ok c) where
  stored hok := if_neg (by simp [hok])
  refused hbad hen := by
    obtain ⟨hset, hoff⟩ := hen hr
    exact ⟨c, off, if_pos (by rw [hset, hoff, hbad]; rfl)⟩

theorem CheckedWrite.of_ite {s t : State} {r : Reg} {p off : Nat} {v : W32} {ok : Bool} {c : Code} {bad : Prop} [Decidable bad]
    (hbad : bad ↔ ok = false) (ht : t = if bad then s.log c p 0 0 0 off else s.store r p 0 v) : CheckedWrite s r p v ok t where
  stored hok := ht.trans (if_neg (by simp [hbad, hok]))
  refused hno _ := ⟨c, off, ht.trans (if_pos (hbad.2 hno))⟩

theorem State.act_prtSrvQuota (s : State) (m : Master) (p off : Nat) (v : W32) : s.act .prtSrvQuota p 0 m off v =
    if 4096 < s.quotaSum p 12 0 v || 16384 < s.quotaSum p 30 16 v then s.log .srvSetupRange p 0 0 0 off
    else s.store .prtSrvQuota p 0 v := rfl

theorem State.act_prtGroup (s : State) (m : Master) (p off : Nat) (v : W32) : s.act .prtGroup p 0 m off v =
    if s.badLead p (regField v 4 0) then s.log .hostAccess p 0 0 0 off else s.store .prtGroup p 0 v := rfl

theorem exec_checked {s : State} {m : Master} {v : W32} {p : Nat} {c : Instr} {r : Reg} {ok : Bool}
    (hmem : (c, r, ok) ∈ [(Instr.prtKvCtrlEn m p v, Reg.prtKvCtrl, s.kvFits p), (.prtSrvCtrlEn m p v, .prtSrvCtrl, s.srvFits p),
      (.prtSrvQuotaWrite m p v, .prtSrvQuota, decide (s.quotaSum p 12 0 v ≤ 4096) && decide (s.quotaSum p 30 16 v ≤ 16384)),
      (.prtGroupWrite m p v, .prtGroup, !s.badLead p (regField v 4 0))]) (h : WriteReady s m r p 0 v) :
    r.info.base ≠ 0x70000 ∧ ∃ t, exec c s = .next t ∧ CheckedWrite s r p v ok t := by
  simp only [List.mem_cons, List.not_mem_nil, or_false, Prod.mk.injEq] at hmem
  rcases hmem with ⟨rfl, rfl, rfl⟩ | ⟨rfl, rfl, rfl⟩ | ⟨rfl, rfl, hok⟩ | ⟨rfl, rfl, rfl⟩
  · exact ⟨by decide, _, congrArg Host.Outcome.next (h.rowWrite_eq_act (by decide)),
      s.enable_checked (.inl rfl) p _ v (s.kvFits p) .kvSetupRange⟩
  · exact ⟨by decide, _, congrArg Host.Outcome.next (h.rowWrite_eq_act (by decide)),
      s.enable_checked (.inr rfl) p _ v (s.srvFits p) .srvSetupRange⟩
  · refine ⟨by decide, _, congrArg Host.Outcome.next (h.rowWrite_eq_act (by decide)), .of_ite ?_ (State.act_prtSrvQuota s m p _ v)⟩
    rw [hok, Bool.and_eq_false_iff, Bool.or_eq_true, decide_eq_true_eq, decide_eq_true_eq, decide_eq_false_iff_not,
      decide_eq_false_iff_not, Nat.not_le, Nat.not_le]
  · refine ⟨by decide, _, congrArg Host.Outcome.next (h.rowWrite_eq_act (by decide)), .of_ite ?_ (State.act_prtGroup s m p _ v)⟩
    rw [Bool.not_eq_false']


/-! ### Rings (R336) -/

theorem getLsbD_merge_ring {r : Reg} (hr : r = .prtSqCfg ∨ r = .prtCqCfg) (old v : W32) :
    (r.info.merge old v).getLsbD 8 = v.getLsbD 8 := by
  rcases hr with rfl | rfl <;> simp [RegInfo.merge, Reg.info, -BitVec.reduceAllOnes]

/-- EN of a ring's register, once it is stored. -/
theorem State.flag_store_ring {r : Reg} (hr : r = .prtSqCfg ∨ r = .prtCqCfg) (s : State) (p q : Nat) (v : W32) :
    (s.store r p q v).flag r p q 8 = v.getLsbD 8 := by
  rw [State.flag, State.reg_store_self, getLsbD_merge_ring hr]

section
variable {s : State} {p q off : Nat} {v : W32}

theorem State.writeSq_accepted (hoff : s.sqOn p q = false) (hsize : ringSize v = true) (hcq : s.cqOn p q = true) :
    s.writeSq p q off v = s.store .prtSqCfg p q v := by
  simp [State.writeSq, hoff, hsize, hcq]

theorem State.writeCq_accepted (hoff : s.cqOn p q = false) (hsize : ringSize v = true) :
    s.writeCq p q off v = s.store .prtCqCfg p q v := by
  simp [State.writeCq, hoff, hsize]

variable (hen : v.getLsbD 8 = true)
include hen

theorem State.writeSq_refused (hoff : s.sqOn p q = false) (hbad : ringSize v = false ∨ s.cqOn p q = false) :
    s.writeSq p q off v = s.log .hostAccess p 0 0 0 off := by
  refine if_pos ?_
  rw [hen, hoff]
  rcases hbad with h | h <;> simp [h]

theorem State.writeCq_refused (hoff : s.cqOn p q = false) (hsize : ringSize v = false) :
    s.writeCq p q off v = s.log .hostAccess p 0 0 0 off :=
  if_pos (by rw [hen, hoff, hsize]; rfl)

end

/-! ### Flow quotas and group areas (R371) -/

/-- Partition p's flow quotas set. -/
def State.flowQuotas (s : State) (p : Nat) (v : W32) : State :=
  (s.setFld .prtVngFlowq p 0 12 0 (regField v 12 0)).setFld .prtVngFlowq p 0 23 16 (regField v 23 16)

theorem regField_lt (w : W32) (hi lo : Nat) : regField w hi lo < 2 ^ (hi + 1 - lo) := bitField_lt ..

theorem State.fld_flowQuotas (s : State) (p : Nat) (v : W32) :
    (s.flowQuotas p v).fld .prtVngFlowq p 0 12 0 = regField v 12 0 ∧
    (s.flowQuotas p v).fld .prtVngFlowq p 0 23 16 = regField v 23 16 := by
  unfold State.flowQuotas
  rw [State.fld_setFld_apart _ _ _ _ _ (by decide) (by decide) (by decide) (.inl (by decide)),
    State.fld_setFld_self _ _ _ _ _ (by decide) (by decide), State.fld_setFld_self _ _ _ _ _ (by decide) (by decide)]
  exact ⟨Nat.mod_eq_of_lt (regField_lt v 12 0), Nat.mod_eq_of_lt (regField_lt v 23 16)⟩

/-- The flow quotas of all partitions with v written in partition p (R371). -/
def State.flowSum (s : State) (p : Nat) (v : W32) : Nat :=
  ((List.range 32).map (fun q => if q = p then regField v 12 0 else s.fld .prtVngFlowq q 0 12 0)).sum

theorem State.writeFlowq_eq (s : State) (p off : Nat) (v : W32) : s.writeFlowq p off v =
    if 4096 < s.flowSum p v then s.log .hostAccess p 0 0 0 off else (s.flowQuotas p v).pumpAll := rfl

/-- Partition p's group area set. -/
def State.groupAreaSet (s : State) (p : Nat) (v : W32) : State :=
  (s.setFld .prtVngGrplo p 0 0 0 (regField v 0 0)).setFld .prtVngGrplo p 0 31 27 (regField v 31 27)

theorem State.fld_groupAreaSet (s : State) (p : Nat) {v : W32} (hen : v.getLsbD 0 = true) :
    (s.groupAreaSet p v).flag .prtVngGrplo p 0 0 = true ∧
    (s.groupAreaSet p v).fld .prtVngGrplo p 0 31 27 = regField v 31 27 := by
  unfold State.groupAreaSet
  have hbit : (regField v 0 0).testBit 0 = true := by
    rw [regField, testBit_bitField]
    exact hen
  rw [State.flag_setFld _ _ _ _ _ _ (by decide) (by decide), State.flag_setFld _ _ _ _ _ _ (by decide) (by decide),
    State.fld_setFld_self _ _ _ _ _ (by decide) (by decide)]
  exact ⟨hbit, Nat.mod_eq_of_lt (regField_lt v 31 27)⟩

section
variable {s : State} {p a off : Nat} {v : W32}

theorem State.writeGrplo_accepted (ha : a = regField v 31 27 * 2 ^ 27 + s.fld .prtVngGrphi p 0 15 0 * 2 ^ 32)
    (hin : s.inWindow p a (2 ^ 27) = true) : s.writeGrplo p off v = s.groupAreaSet p v := by
  subst ha
  exact if_neg (by rw [hin]; simp)

theorem State.writeGrplo_refused (ha : a = regField v 31 27 * 2 ^ 27 + s.fld .prtVngGrphi p 0 15 0 * 2 ^ 32)
    (hen : v.getLsbD 0 = true) (hoff : s.flag .prtVngGrplo p 0 0 = false) (hout : s.inWindow p a (2 ^ 27) = false) :
    s.writeGrplo p off v = s.log .collSetupRange p 0 0 0 off := by
  subst ha
  exact if_pos (by rw [hen, hoff, hout]; rfl)

end

end Sys2Proof.Machine

open Sys2Proof Sys2Proof.Machine

/-- Settles O53: each write reaches its register, whose check passes or leaves one record. -/
theorem setupsAreChecked : Obligations.SetupsAreChecked := by
  intro s m v
  refine ⟨fun p w r base size b n k hp hw hr hready hb hn hk => ?_, fun r n mask hr hready hmask => ?_, fun p c r ok hmem hready => ?_,
    fun p q hen => ⟨fun hready hoff => ⟨fun hsize hcq => ?_, fun hbad => ?_⟩, fun hready hoff => ⟨fun hsize => ?_, fun hbad => ?_⟩⟩,
    fun p hp hready => ⟨fun hsum => ?_, fun hsum => ?_⟩, fun p a hready hen hoff ha => ⟨fun hin => ?_, fun hout => ?_⟩⟩
  · have hexec : exec (.prtHbmWindowWrite m (r.addr p w) v) s = .next (s.writeWindow p w base size) := by
      rcases hr with ⟨rfl, rfl, rfl⟩ | ⟨rfl, rfl, rfl⟩
      · exact congrArg Host.Outcome.next (hready.busWrite_eq_act (by decide))
      · exact congrArg Host.Outcome.next (hready.busWrite_eq_act (by decide))
    rw [hexec]
    refine ⟨fun hen hmoved hbad => ?_, fun hen hsame => ?_, fun hgood => ?_⟩
    · obtain ⟨c, w2, w3, hlog⟩ := State.writeWindow_refused hb hn hk hen hmoved hbad
      exact ⟨_, congrArg Host.Outcome.next hlog, State.log_nextSeq .., State.reg_log_of_place _ _ _ _ _ _ _ ⟨hp, hw⟩ (by decide),
        State.reg_log_of_place _ _ _ _ _ _ _ ⟨hp, hw⟩ (by decide)⟩
    · exact congrArg Host.Outcome.next (State.writeWindow_same hb hn hk hen hsame)
    · rw [State.writeWindow_accepted hb hn hk hgood]
      refine ⟨s.windowSet p w base size, rfl, by rw [State.window_windowSet, hb, hn], ?_⟩
      cases s.window p w with
      | none => rfl
      | some o =>
        simp only [Bool.and_eq_true, decide_eq_true_eq, and_assoc]
        by_cases hcover : base.getLsbD 31 = true ∧ b * mib2 ≤ o.1 ∧ o.1 + o.2 ≤ b * mib2 + n * mib2
        · rw [if_pos hcover, if_pos (.inl hcover)]
        · cases hused : (s.windowSet p w base size).usesExtent p o <;> simp
  · have hexec : exec (.memSpillEntryWrite m (r.addr 0 n) v) s = .next (s.writeSpill r n m (r.addr 0 n) v) := by
      simp only [List.mem_cons, List.not_mem_nil, or_false] at hr
      rcases hr with rfl | rfl | rfl | rfl | rfl <;> exact congrArg Host.Outcome.next (hready.busWrite_eq_act (by decide))
    have hbase : r.info.base ≠ 0x70000 := by
      simp only [List.mem_cons, List.not_mem_nil, or_false] at hr
      rcases hr with rfl | rfl | rfl | rfl | rfl <;> decide
    rw [hexec]
    refine ⟨fun hown => ?_, fun p hp hbit hforeign => ?_⟩
    · rw [State.writeSpill_accepted hmask hown]
      exact ⟨_, rfl, s.reg_store_self r 0 n v, rfl, fun p hp x hx hn => State.tslots_entryFreed hp hx hn⟩
    · rw [State.writeSpill_refused hmask hp hbit hforeign]
      exact ⟨_, rfl, State.reg_log_of_place _ _ _ _ _ _ _ hready.place hbase, State.log_parts .., State.log_nextSeq ..⟩
  · obtain ⟨hbase, t, hexec, hstored, hrefused⟩ := exec_checked hmem hready
    refine ⟨fun hok => ⟨t, hexec, ?_, ?_⟩, fun hok hen => ?_⟩
    · rw [hstored hok]
      exact s.store_regs_only r p 0 v
    · rw [hstored hok, State.reg_store_self]
    · obtain ⟨code, off, ht⟩ := hrefused hok hen
      subst ht
      exact ⟨_, hexec, State.reg_log_of_place _ _ _ _ _ _ _ hready.place hbase, State.log_nextSeq ..⟩
  · refine ⟨s.store .prtSqCfg p q v, ?_, s.store_regs_only .., ?_⟩
    · exact congrArg Host.Outcome.next ((hready.rowWrite_eq_act (by decide)).trans (State.writeSq_accepted hoff hsize hcq))
    · exact (s.flag_store_ring (.inl rfl) p q v).trans hen
  · refine ⟨_, congrArg Host.Outcome.next ((hready.rowWrite_eq_act (by decide)).trans (State.writeSq_refused hen hoff hbad)), ?_,
      State.log_nextSeq ..⟩
    rw [State.sqOn, State.flag, State.reg_log_of_place _ _ _ _ _ _ _ hready.place (by decide)]
    exact hoff
  · refine ⟨s.store .prtCqCfg p q v, ?_, s.store_regs_only .., ?_⟩
    · exact congrArg Host.Outcome.next ((hready.rowWrite_eq_act (by decide)).trans (State.writeCq_accepted hoff hsize))
    · exact (s.flag_store_ring (.inr rfl) p q v).trans hen
  · refine ⟨_, congrArg Host.Outcome.next ((hready.rowWrite_eq_act (by decide)).trans (State.writeCq_refused hen hoff hbad)), ?_,
      State.log_nextSeq ..⟩
    rw [State.cqOn, State.flag, State.reg_log_of_place _ _ _ _ _ _ _ hready.place (by decide)]
    exact hoff
  · change s.flowSum p v ≤ 4096 at hsum
    obtain ⟨hflows, hsends⟩ := s.fld_flowQuotas p v
    have hwrite : s.writeFlowq p (Reg.prtVngFlowq.addr p 0) v = (s.flowQuotas p v).pumpAll :=
      (s.writeFlowq_eq p _ v).trans (if_neg (Nat.not_lt.2 hsum))
    exact ⟨s.flowQuotas p v, congrArg Host.Outcome.next ((hready.rowWrite_eq_act (by decide)).trans hwrite), rfl, hflows, hsends⟩
  · change 4096 < s.flowSum p v at hsum
    have hwrite : s.writeFlowq p (Reg.prtVngFlowq.addr p 0) v = s.log .hostAccess p 0 0 0 (Reg.prtVngFlowq.addr p 0) :=
      (s.writeFlowq_eq p _ v).trans (if_pos hsum)
    exact ⟨_, congrArg Host.Outcome.next ((hready.rowWrite_eq_act (by decide)).trans hwrite),
      State.reg_log_of_place _ _ _ _ _ _ _ hready.place (by decide), State.log_nextSeq ..⟩
  · obtain ⟨hset, harea⟩ := s.fld_groupAreaSet p hen
    exact ⟨_, congrArg Host.Outcome.next ((hready.rowWrite_eq_act (by decide)).trans (State.writeGrplo_accepted ha hin)), rfl, hset, harea⟩
  · refine ⟨_, congrArg Host.Outcome.next ((hready.rowWrite_eq_act (by decide)).trans (State.writeGrplo_refused ha hen hoff hout)), ?_,
      State.log_nextSeq ..⟩
    rw [State.flag, State.reg_log_of_place _ _ _ _ _ _ _ hready.place (by decide)]
    exact hoff
end

section
/-! SUPPORT. Writes that order something (R254, R326, R327, R351, R363, R409 to R411): the owner's bits, calls, the claim of a node
ID, the binding of a mirror, resets, and epochs. -/
namespace Sys2Proof.Machine

/-! ### Owner and calls (R327, R369) -/

/-- HIF_OWN's path of its own: its bits belong to the partitions. -/
theorem WriteReady.rowWrite_eq_writeOwn {s : State} {m : Master} {v : W32} (h : WriteReady s m .hifOwn 0 0 v) :
    s.rowWrite m .hifOwn 0 0 v = s.writeOwn m v := by
  rw [State.rowWrite, if_pos h.place, State.busWrite_eq_writeReg h.ready h.carried h.monitor]
  simp [State.writeReg, h.word, h.holds]

theorem State.writeOwn_eq (s : State) {m : Master} (v : W32) (hm : m ≠ .monitor) :
    s.writeOwn m v = (List.range 32).foldl (fun u p =>
      if v.getLsbD p = u.ownerOf p then u else if u.mayOwn m p = false then u.log .hostAccess p 0 0 0 0x10000 else
        ({ u.setFld .hifOwn 0 0 p p (b2n (v.getLsbD p)) with
          up := { u.up with newOwner := u.up.newOwner.put p (v.getLsbD p) } } : State).askClear p) s := by
  refine (if_neg hm).trans (List.foldl_ext _ _ s fun u p _ => ?_)
  by_cases hsame : v.getLsbD p = u.ownerOf p
  · exact (if_pos (beq_iff_eq.2 hsame)).trans (if_pos hsame).symm
  · refine (if_neg (mt beq_iff_eq.1 hsame)).trans (Eq.trans ?_ (if_neg hsame).symm)
    cases hmay : u.mayOwn m p with
    | false => rfl
    | true =>
      simp only [Bool.not_true, Bool.false_eq_true, if_false, State.setFld_up]
      rfl

theorem State.writeCallen_eq (s : State) (p off : Nat) (v : W32) :
    s.writeCallen p off v = (List.range 32).foldl (fun u c =>
      if v.getLsbD c = u.flag .prtVngCallen p 0 c then u else if v.getLsbD c = true then u.setCallBit p c off
        else (u.setFld .prtVngCallen p 0 c c 0).disarmCall (p * 32 + c)) s := by
  refine List.foldl_ext _ _ s fun u c _ => ?_
  cases v.getLsbD c <;> cases u.flag .prtVngCallen p 0 c <;> simp

/-! ### Claims (R351) -/

theorem State.foldl_transmit (f : Nat → TxFrame) (l : List Nat) : ∀ s : State,
    l.foldl (fun t n => t.transmit (f n)) s = { s with net := { s.net with tx := s.net.tx ++ l.map f } } := by
  induction l with
  | nil => exact fun s => by simp
  | cons n l ih =>
    intro s
    rw [List.foldl_cons, ih, List.map_cons, ← List.singleton_append, ← List.append_assoc]
    rfl

theorem State.broadcast_eq (s : State) (type id : Nat) : s.broadcast type id =
    { s with net := { s.net with tx := s.net.tx ++ s.portsUp.map (s.claimFrame type id) } } :=
  State.foldl_transmit (s.claimFrame type id) s.portsUp s

/-- A CLAIM sent on port n is the announcement of the node that sends it. -/
theorem State.claimFrame_eq (s : State) {type : Nat} (htype : type < 0x10) (id n : Nat) :
    s.claimFrame type id n = s.announcement s.nodeId type id n := by
  unfold State.claimFrame State.frame State.announcement
  rw [if_pos htype]
  rfl

theorem State.announcement_congr {s t : State} (h : t.reg .vngEtype 0 0 = s.reg .vngEtype 0 0) (me type id : Nat) :
    t.announcement me type id = s.announcement me type id := by
  have hflag (n : Nat) : t.flag .vngEtype 0 0 n = s.flag .vngEtype 0 0 n := by rw [State.flag, h, ← State.flag]
  have hfld (hi lo : Nat) : t.fld .vngEtype 0 0 hi lo = s.fld .vngEtype 0 0 hi lo := by rw [State.fld, h, ← State.fld]
  funext n
  simp only [State.announcement, State.vlanTag, hflag, hfld]

/-- The node's state and ID, once set; its rank in a mirror is kept in another register. -/
theorem State.fld_setNode (s : State) {st id : Nat} (hst : st < 8) (hid : id < 2 ^ 24) :
    (s.setNode st id).claimState = st ∧ (s.setNode st id).nodeId = id := by
  unfold State.setNode State.rankMirror State.claimState State.nodeId
  constructor
  · refine (State.fld_setFld_ne _ _ _ _ _ _ (by decide)).trans ?_
    refine (State.fld_setFld_apart _ _ _ _ _ (by decide) (by decide) (by decide) (.inr (by decide))).trans ?_
    exact (State.fld_setFld_self _ _ _ _ _ (by decide) (by decide)).trans (Nat.mod_eq_of_lt hst)
  · refine (State.fld_setFld_ne _ _ _ _ _ _ (by decide)).trans ?_
    exact (State.fld_setFld_self _ _ _ _ _ (by decide) (by decide)).trans (Nat.mod_eq_of_lt hid)

/-- The node's registers are its state and its mirror's rank. -/
theorem State.reg_setNode_ne (s : State) (st id : Nat) {q : Reg} {b i : Nat} (hstat : Reg.vngNodestat.addr 0 0 ≠ q.addr b i)
    (hmirror : Reg.vngMirror.addr 0 0 ≠ q.addr b i) : (s.setNode st id).reg q b i = s.reg q b i :=
  (State.reg_setReg_ne _ _ hmirror).trans ((State.reg_setReg_ne _ _ hstat).trans (State.reg_setReg_ne _ _ hstat))

theorem State.setNode_net (s : State) (st id : Nat) : (s.setNode st id).net = s.net := rfl

theorem State.portsUp_congr {s t : State} (h : ∀ n, n < 14 → t.reg .vngPort 0 n = s.reg .vngPort 0 n) : t.portsUp = s.portsUp :=
  List.filter_congr fun n hn => by rw [State.fld, h n (List.mem_range.1 hn), ← State.fld]

/-- The CLAIM of the ID asked for, on every port that is up. -/
def State.claimSent (s : State) : State :=
  if s.portsUp.isEmpty then { s with net := { s.net with claimSends := 0 } }
  else ({ s with net := { s.net with claimSends := 1 } } : State).broadcast 0x01 s.net.claimId

theorem State.claimStep_eq (s : State) : s.claimStep = (s.setNode 1 0xFFFFFF).claimSent := rfl

theorem State.claimSent_spec (s : State) : s.claimSent.regs = s.regs ∧ s.claimSent.net.claimId = s.net.claimId ∧
    s.claimSent.net.collided = s.net.collided ∧ s.claimSent.net.tx = s.net.tx ++ s.portsUp.map (s.claimFrame 1 s.net.claimId) := by
  unfold State.claimSent
  split
  next hnone =>
    rw [List.isEmpty_iff.1 hnone]
    exact ⟨rfl, rfl, rfl, (List.append_nil _).symm⟩
  next =>
    rw [State.broadcast_eq]
    exact ⟨rfl, rfl, rfl, rfl⟩

/-- A claim begun: the ports that are up and their frames' tags stand. -/
theorem State.claimStep_spec (s : State) : s.claimStep.claimState = 1 ∧ s.claimStep.net.claimId = s.net.claimId ∧
    s.claimStep.net.collided = s.net.collided ∧ s.claimStep.reg .vngNode 0 0 = s.reg .vngNode 0 0 ∧
    s.claimStep.net.tx = s.announced 0xFFFFFF 1 s.net.claimId := by
  obtain ⟨hstate, hnode⟩ := s.fld_setNode (st := 1) (id := 0xFFFFFF) (by decide) (by decide)
  have hports : (s.setNode 1 0xFFFFFF).portsUp = s.portsUp := State.portsUp_congr fun n hn =>
    s.reg_setNode_ne _ _ (Reg.addr_ne_of_place 0 0 (by decide) hn (by simp only [Reg.info]; omega))
      (Reg.addr_ne_of_place 0 0 (by decide) hn (by simp only [Reg.info]; omega))
  have hetype : (s.setNode 1 0xFFFFFF).reg .vngEtype 0 0 = s.reg .vngEtype 0 0 := s.reg_setNode_ne _ _ (by decide) (by decide)
  have hasked : (s.setNode 1 0xFFFFFF).reg .vngNode 0 0 = s.reg .vngNode 0 0 := s.reg_setNode_ne _ _ (by decide) (by decide)
  have hnet := s.setNode_net 1 0xFFFFFF
  rw [State.claimStep_eq]
  generalize s.setNode 1 0xFFFFFF = t at *
  obtain ⟨hregs, hid, hcollided, htx⟩ := t.claimSent_spec
  have hframe : t.claimFrame 1 s.net.claimId = s.announcement 0xFFFFFF 1 s.net.claimId := by
    funext n
    rw [t.claimFrame_eq (by decide), hnode, State.announcement_congr hetype]
  rw [hnet] at hid hcollided htx
  refine ⟨?_, hid, hcollided, (State.reg_of_regs hregs _ _ _).trans hasked, ?_⟩
  · rw [State.claimState, State.fld, State.reg_of_regs hregs]
    exact hstate
  · rw [htx, hports, hframe, State.announced]

/-- An ID written with CLAIM is claimed (R351). -/
theorem State.writeNode_claims (s : State) {v : W32} (hclaim : v.getLsbD 24 = true) (hid : nodeIdOk (regField v 23 0) = true) :
    (s.writeNode v).claimState = 1 ∧ (s.writeNode v).net.claimId = regField v 23 0 ∧ (s.writeNode v).net.collided = [] ∧
    (s.writeNode v).fld .vngNode 0 0 23 0 = regField v 23 0 ∧
    (s.writeNode v).net.tx = s.announced 0xFFFFFF 1 (regField v 23 0) := by
  have hwant : (s.setFld .vngNode 0 0 23 0 (regField v 23 0)).fld .vngNode 0 0 23 0 = regField v 23 0 :=
    (State.fld_setFld_self _ _ _ _ _ (by decide) (by decide)).trans (Nat.mod_eq_of_lt (regField_lt v 23 0))
  have hports : (s.setFld .vngNode 0 0 23 0 (regField v 23 0)).portsUp = s.portsUp := State.portsUp_congr fun n hn =>
    State.reg_setReg_ne _ _ (Reg.addr_ne_of_place 0 0 (by decide) hn (by simp only [Reg.info]; omega))
  have hetype : (s.setFld .vngNode 0 0 23 0 (regField v 23 0)).reg .vngEtype 0 0 = s.reg .vngEtype 0 0 :=
    State.reg_setReg_ne _ _ (by decide)
  have hnet := s.setFld_net .vngNode 0 0 23 0 (regField v 23 0)
  unfold State.writeNode State.startClaim
  rw [if_pos hclaim]
  generalize s.setFld .vngNode 0 0 23 0 (regField v 23 0) = t at *
  dsimp only
  rw [hwant, if_pos hid]
  obtain ⟨hstate, hclaimed, hcollided, hnode, htx⟩ :=
    State.claimStep_spec { t with net := { t.net with claimId := regField v 23 0, claimSends := 0, collided := [] } }
  refine ⟨hstate, hclaimed, hcollided, ?_, htx.trans ?_⟩
  · rw [State.fld, hnode]
    exact hwant
  · change t.net.tx ++ t.portsUp.map (t.announcement 0xFFFFFF 1 (regField v 23 0)) = _
    rw [hnet, hports, State.announcement_congr hetype, State.announced]

end Sys2Proof.Machine
end

section
/-! SUPPORT. The binding of a mirror, a module reset, epochs, and two orders of one message time (R254, R326, R363, R409, R416). -/
namespace Sys2Proof.Machine

/-! ### Mirrors (R363) -/

/-- A write of VNG_MIRROR with its fields stored. -/
def State.mirrorSet (s : State) (v : W32) : State :=
  let s := (s.setFld .vngMirror 0 0 23 0 (regField v 23 0)).setFld .vngMirror 0 0 24 24 (regField v 24 24)
  if v.getLsbD 26 then s.setFld .vngMirror 0 0 26 26 0 else s

theorem testBit_regField_one (v : W32) (n : Nat) : (regField v n n).testBit 0 = v.getLsbD n := by
  rw [regField, testBit_bitField, Nat.add_sub_cancel_left]
  rfl

/-- The partner and the binding stand once they are stored; the node's own registers stand too. -/
theorem State.mirrorSet_spec (s : State) (v : W32) : (s.mirrorSet v).fld .vngMirror 0 0 23 0 = regField v 23 0 ∧
    (s.mirrorSet v).flag .vngMirror 0 0 24 = v.getLsbD 24 ∧ (s.mirrorSet v).reg .vngNodestat 0 0 = s.reg .vngNodestat 0 0 := by
  have hpartner : regField v 23 0 % 2 ^ (23 + 1 - 0) = regField v 23 0 := Nat.mod_eq_of_lt (regField_lt v 23 0)
  have hnode (t : State) (hi lo n : Nat) : (t.setFld .vngMirror 0 0 hi lo n).reg .vngNodestat 0 0 = t.reg .vngNodestat 0 0 :=
    State.reg_setReg_ne _ _ (by decide)
  have hstored : (((s.setFld .vngMirror 0 0 23 0 (regField v 23 0)).setFld .vngMirror 0 0 24 24 (regField v 24 24)).fld
      .vngMirror 0 0 23 0 = regField v 23 0) ∧ (((s.setFld .vngMirror 0 0 23 0 (regField v 23 0)).setFld .vngMirror 0 0 24 24
      (regField v 24 24)).flag .vngMirror 0 0 24 = v.getLsbD 24) := by
    rw [State.fld_setFld_apart _ _ _ _ _ (by decide) (by decide) (by decide) (.inl (by decide)),
      State.fld_setFld_self _ _ _ _ _ (by decide) (by decide), hpartner,
      State.flag_setFld _ _ _ _ _ _ (by decide) (by decide), if_pos (by decide)]
    exact ⟨rfl, testBit_regField_one v 24⟩
  have hnodes : ((s.setFld .vngMirror 0 0 23 0 (regField v 23 0)).setFld .vngMirror 0 0 24 24 (regField v 24 24)).reg
      .vngNodestat 0 0 = s.reg .vngNodestat 0 0 := (hnode _ 24 24 _).trans (hnode _ 23 0 _)
  unfold State.mirrorSet
  generalize (s.setFld .vngMirror 0 0 23 0 (regField v 23 0)).setFld .vngMirror 0 0 24 24 (regField v 24 24) = t at *
  dsimp only
  split
  · rw [State.fld_setFld_apart _ _ _ _ _ (by decide) (by decide) (by decide) (.inl (by decide)),
      State.flag_setFld _ _ _ _ _ _ (by decide) (by decide), if_neg (by decide), hnode]
    exact ⟨hstored.1, hstored.2, hnodes⟩
  · exact ⟨hstored.1, hstored.2, hnodes⟩

theorem State.writeMirror_bound (s : State) {v : W32} (hbind : v.getLsbD 24 = true) (hfree : s.mirrored = false) :
    s.writeMirror v = { (s.mirrorSet v).rankMirror with
      net := { (s.mirrorSet v).rankMirror.net with mirrorCount := 0, checksIn := [], checksOut := [] }
      srv := { (s.mirrorSet v).rankMirror.srv with
        reqs := (s.mirrorSet v).rankMirror.srv.reqs.map (fun q => { q with mirrorNo := 0 }) } } :=
  if_pos (by rw [hbind, hfree]; rfl)

theorem State.rankMirror_spec (s : State) : s.rankMirror.mirrored = s.mirrored ∧
    s.rankMirror.fld .vngMirror 0 0 23 0 = s.fld .vngMirror 0 0 23 0 ∧
    s.rankMirror.flag .vngMirror 0 0 25 = (s.mirrored && s.owns && decide (s.nodeId < s.fld .vngMirror 0 0 23 0)) := by
  unfold State.rankMirror
  refine ⟨?_, ?_, ?_⟩
  · exact (State.flag_setFld _ _ _ _ _ _ (by decide) (by decide)).trans (if_neg (by decide))
  · exact State.fld_setFld_apart _ _ _ _ _ (by decide) (by decide) (by decide) (.inl (by decide))
  · refine (State.flag_setFld _ _ _ _ _ _ (by decide) (by decide)).trans ((if_pos (by decide)).trans ?_)
    generalize (s.mirrored && s.owns && decide (s.nodeId < s.fld .vngMirror 0 0 23 0)) = b
    cases b <;> rfl

/-- A mirror bound: the node of the lower ID leads, and the checks begin anew (R363). -/
theorem State.writeMirror_binds (s : State) {v : W32} (hbind : v.getLsbD 24 = true) (hfree : s.mirrored = false) :
    (s.writeMirror v).mirrored = true ∧ (s.writeMirror v).fld .vngMirror 0 0 23 0 = regField v 23 0 ∧
    (s.writeMirror v).flag .vngMirror 0 0 25 = (s.owns && decide (s.nodeId < regField v 23 0)) ∧
    (s.writeMirror v).net.mirrorCount = 0 ∧ (s.writeMirror v).net.checksIn = [] ∧ (s.writeMirror v).net.checksOut = [] := by
  obtain ⟨hpartner, hmirrored, hnode⟩ := s.mirrorSet_spec v
  obtain ⟨hkept, hfield, hrank⟩ := (s.mirrorSet v).rankMirror_spec
  rw [State.writeMirror_bound s hbind hfree]
  have hbound : (s.mirrorSet v).mirrored = true := hmirrored.trans hbind
  have howns : (s.mirrorSet v).owns = s.owns := by rw [State.owns, State.fld, hnode, ← State.fld, ← State.owns]
  have hid : (s.mirrorSet v).nodeId = s.nodeId := by rw [State.nodeId, State.fld, hnode, ← State.fld, ← State.nodeId]
  rw [hbound, howns, hid, hpartner, Bool.true_and] at hrank
  generalize (s.mirrorSet v).rankMirror = t at *
  exact ⟨hkept.trans hbound, hfield.trans hpartner, hrank, rfl, rfl, rfl⟩

/-! ### Resets (R408 to R410) -/

theorem State.ready_setStart (s : State) {hi lo : Nat} (n : Nat) (h : hi < 32) (l : lo ≤ hi) (hapart : 4 < lo ∨ hi < 4) :
    (s.setFld .glbStart 0 0 hi lo n).ready = s.ready :=
  (State.flag_setFld _ _ _ _ _ _ h l).trans (if_neg (by omega))

theorem State.gated_setStart (s : State) (hi lo n p : Nat) : (s.setFld .glbStart 0 0 hi lo n).gated p = s.gated p :=
  State.flag_setFld_ne _ _ _ _ _ (by decide)

/-- Start-up that begins fills nothing that a reset has left blank. -/
theorem Blank.beginStartup {s : State} (h : Blank s) : Blank s.beginStartup := by
  unfold State.beginStartup
  split
  · obtain ⟨hcloves, hfields, hparts, hhbm, hstacks, hmsgs, hinflight, hsrv, hready, hgates⟩ := h
    refine ⟨hcloves, hfields, hparts, hhbm, hstacks, hmsgs, hinflight, hsrv, ?_, fun p hp => ?_⟩
    · rw [State.ready_setStart _ _ (by decide) (by decide) (.inl (by decide)),
        State.ready_setStart _ _ (by decide) (by decide) (.inr (by decide))]
      exact hready
    · rw [State.gated_setStart, State.gated_setStart]
      exact hgates p hp
  · exact h

theorem State.beginStartup_cause (s : State) : s.beginStartup.up.cause = s.up.cause := by
  unfold State.beginStartup
  split <;> rfl

/-- GLB_RESET keeps the cause of a module reset (R409). -/
theorem State.moduleReset_cause (s : State) (cause : Nat) : (s.moduleReset cause).up.cause = some cause := by
  unfold State.moduleReset
  extract_lets s1 s2 smb r h n p e u m t0 t
  have hcause : t.up.cause = some cause := rfl
  clear_value t
  rw [State.beginStartup_cause]
  exact (congrArg (fun u => u.cause) (t.closeGates_sameSupply (List.range 32) 3).up).trans hcause

theorem State.moduleReset_blank (s : State) (cause : Nat) : Blank (s.moduleReset cause) := by
  obtain ⟨t, ht, hblank, -⟩ := s.moduleReset_begins cause
  rw [ht]
  exact hblank.beginStartup

/-! ### Map epochs (R416, R254) -/

/-- The sticky bits of GLB_MAP_CTRL cleared and its row set stored, before an epoch is asked for. -/
def State.mapCtrlSet (s : State) (v : W32) : State :=
  let s := if v.getLsbD 10 then s.setFld .glbMapCtrl 0 0 10 10 0 else s
  let s := if v.getLsbD 11 then s.setFld .glbMapCtrl 0 0 11 11 0 else s
  s.setFld .glbMapCtrl 0 0 4 0 (regField v 4 0)

theorem State.mapCtrlSet_regs_only (s : State) (v : W32) : s.mapCtrlSet v = { s with regs := (s.mapCtrlSet v).regs } := by
  unfold State.mapCtrlSet
  split <;> split <;> rfl

theorem State.mapCtrlSet_spec (s : State) (v : W32) : (s.mapCtrlSet v).fld .glbMapCtrl 0 0 4 0 = regField v 4 0 ∧
    ∀ p, (s.mapCtrlSet v).lead p = s.lead p := by
  have hlead (t : State) (hi lo n p : Nat) : (t.setFld .glbMapCtrl 0 0 hi lo n).lead p = t.lead p :=
    State.fld_setFld_ne _ _ _ _ _ _ (Reg.addr_ne_of_place 0 p (by decide) (by decide) (by decide))
  unfold State.mapCtrlSet
  refine ⟨(State.fld_setFld_self _ _ _ _ _ (by decide) (by decide)).trans (Nat.mod_eq_of_lt (regField_lt v 4 0)), fun p => ?_⟩
  rw [hlead]
  split <;> split <;> simp only [hlead]

theorem State.writeMapCtrl_eq (s : State) {v : W32} (hgo : v.getLsbD 8 = true) : s.writeMapCtrl v =
    if s.flag .glbMapCtrl 0 0 9 then (s.mapCtrlSet v).setFld .glbMapCtrl 0 0 10 10 1
    else ({ s.mapCtrlSet v with up := { (s.mapCtrlSet v).up with epoch := some ((s.mapCtrlSet v).fld .glbMapCtrl 0 0 4 0,
      ((s.mapCtrlSet v).up.resets.at? ((s.mapCtrlSet v).lead ((s.mapCtrlSet v).fld .glbMapCtrl 0 0 4 0))).isSome) } } : State).setFld
        .glbMapCtrl 0 0 9 9 1 :=
  if_neg (by rw [hgo]; decide)

/-- An epoch of the clove rows is asked for; a further one is refused while one waits (R416). -/
theorem State.writeMapCtrl_goes (s : State) {v : W32} (hgo : v.getLsbD 8 = true) {p : Nat} (hp : p = regField v 4 0)
    (hfree : s.flag .glbMapCtrl 0 0 9 = false) :
    s.writeMapCtrl v = { s with regs := (s.writeMapCtrl v).regs
                                up := { s.up with epoch := some (p, (s.up.resets.at? (s.lead p)).isSome) } } ∧
    (s.writeMapCtrl v).flag .glbMapCtrl 0 0 9 = true := by
  obtain ⟨hrow, hlead⟩ := s.mapCtrlSet_spec v
  have honly := s.mapCtrlSet_regs_only v
  rw [State.writeMapCtrl_eq s hgo, hfree, if_neg (by decide), hrow, ← hp, hlead]
  generalize s.mapCtrlSet v = t at *
  rw [honly]
  exact ⟨rfl, (State.flag_setFld _ _ _ _ _ _ (by decide) (by decide)).trans (if_pos (by decide))⟩

theorem State.writeMapCtrl_busy (s : State) {v : W32} (hgo : v.getLsbD 8 = true) (hbusy : s.flag .glbMapCtrl 0 0 9 = true) :
    s.writeMapCtrl v = { s with regs := (s.writeMapCtrl v).regs } ∧ (s.writeMapCtrl v).flag .glbMapCtrl 0 0 10 = true := by
  have honly := s.mapCtrlSet_regs_only v
  rw [State.writeMapCtrl_eq s hgo, hbusy, if_pos rfl]
  generalize s.mapCtrlSet v = t at *
  rw [honly]
  exact ⟨rfl, (State.flag_setFld _ _ _ _ _ _ (by decide) (by decide)).trans (if_pos (by decide))⟩

/-- A stack's range meets an extent that some partition's window has, or had and still uses (R254). -/
def State.stackHeld (s : State) (k : Nat) : Bool :=
  (List.range 32).any (fun p => (s.winExtents p).any (rangesMeet (k * stackSpan, stackSpan)))

theorem State.stackHeld_iff (s : State) (k : Nat) : s.stackHeld k = true ↔
    ∃ q, q < 32 ∧ ∃ x ∈ s.winExtents q, rangesMeet (k * stackSpan, stackSpan) x = true := by
  simp [State.stackHeld]

theorem State.epochGo_refused {s : State} (h : s.up.hbmEpoch ≠ none ∨ 24 ≤ s.fld .memEpochCtrl 0 0 4 0 ∨
    s.stackHeld (s.fld .memEpochCtrl 0 0 4 0) = true) : s.epochGo = s.setFld .memEpochCtrl 0 0 10 10 1 := by
  refine if_pos ?_
  change (s.up.hbmEpoch.isSome || decide (24 ≤ s.fld .memEpochCtrl 0 0 4 0) || s.stackHeld (s.fld .memEpochCtrl 0 0 4 0)) = true
  rw [← Option.isSome_iff_ne_none] at h
  rcases h with h | h | h <;> simp [h]

theorem State.epochGo_accepted {s : State} {k : Nat} (hk : s.fld .memEpochCtrl 0 0 4 0 = k) (hnone : s.up.hbmEpoch = none)
    (hstack : k < 24) (hfree : s.stackHeld k = false) : s.epochGo =
      ({ s.modStack k (fun v => { v with leaving := s.reg .memStkPend 0 k &&& s.reg .memStkChmap 0 k }) with
        up := { (s.modStack k (fun v => { v with leaving := s.reg .memStkPend 0 k &&& s.reg .memStkChmap 0 k })).up with
          hbmEpoch := some k } } : State).setFld .memEpochCtrl 0 0 9 9 1 := by
  subst hk
  refine if_neg ?_
  change ¬ (s.up.hbmEpoch.isSome || decide (24 ≤ s.fld .memEpochCtrl 0 0 4 0) || s.stackHeld (s.fld .memEpochCtrl 0 0 4 0)) = true
  rw [hnone, hfree]
  simpa using hstack

/-- The stack written in MEM_EPOCH_CTRL. -/
theorem State.fld_store_epoch (s : State) (v : W32) : (s.store .memEpochCtrl 0 0 v).fld .memEpochCtrl 0 0 4 0 = regField v 4 0 := by
  rw [State.fld, State.reg_store_self]
  refine Nat.eq_of_testBit_eq fun i => ?_
  rw [regField, regField, testBit_bitField, testBit_bitField, Nat.zero_add]
  by_cases hi : i < 5
  · rw [BitVec.testBit_toNat, BitVec.testBit_toNat]
    interval_cases i <;> simp [RegInfo.merge, Reg.info, -BitVec.reduceAllOnes]
  · simp [hi]

end Sys2Proof.Machine
end

section
/-! SUPPORT. A write of MEM_EPOCH_CTRL that goes (R254), and two orders of one message time (R326). -/
namespace Sys2Proof.Machine

theorem State.reg_store_epoch (s : State) (v : W32) {q : Reg} {b i : Nat} (hi : i < q.info.count)
    (hplace : 0x280 ≠ q.info.off + i * q.info.stride) : (s.store .memEpochCtrl 0 0 v).reg q b i = s.reg q b i :=
  s.reg_store_ne v (Reg.addr_ne_of_place 0 b (by decide) hi hplace)

/-- MEM_EPOCH_CTRL holds no window. -/
theorem State.winExtents_store_epoch (s : State) (v : W32) (p : Nat) :
    (s.store .memEpochCtrl 0 0 v).winExtents p = s.winExtents p := by
  have hwindow (w : Nat) (hw : w < 8) : (s.store .memEpochCtrl 0 0 v).window p w = s.window p w := by
    have hbase := s.reg_store_epoch v (q := .prtHbmBase) (b := p) hw (by simp only [Reg.info]; omega)
    have hsize := s.reg_store_epoch v (q := .prtHbmSize) (b := p) hw (by simp only [Reg.info]; omega)
    have hen : (s.store .memEpochCtrl 0 0 v).flag .prtHbmBase p w 31 = s.flag .prtHbmBase p w 31 := by
      rw [State.flag, hbase, ← State.flag]
    simp only [State.window, hen, State.fld, hbase, hsize]
  have hparts : (s.store .memEpochCtrl 0 0 v).parts = s.parts := rfl
  unfold State.winExtents State.windows State.part
  rw [hparts, List.filterMap_congr fun w hw => hwindow w (List.mem_range.1 hw)]

theorem State.stackHeld_store_epoch (s : State) (v : W32) (k : Nat) :
    (s.store .memEpochCtrl 0 0 v).stackHeld k = s.stackHeld k := by
  unfold State.stackHeld
  rw [funext fun p => congrArg (fun l => List.any l (rangesMeet (k * stackSpan, stackSpan))) (s.winExtents_store_epoch v p)]

theorem State.act_epoch (s : State) (m : Master) (off : Nat) {v : W32} (hgo : v.getLsbD 8 = true) :
    s.act .memEpochCtrl 0 0 m off v = (s.store .memEpochCtrl 0 0 v).epochGo :=
  if_pos hgo

/-- A stack that no window uses begins its map epoch; the channels that leave are those pending that the map holds. -/
theorem State.epochGo_store (s : State) {v : W32} {k : Nat} (hk : k = regField v 4 0) (hnone : s.up.hbmEpoch = none)
    (hstack : k < 24) (hfree : s.stackHeld k = false) {t : State} (ht : t = (s.store .memEpochCtrl 0 0 v).epochGo) :
    t = { s with regs := t.regs, memStacks := t.memStacks, up := { s.up with hbmEpoch := some k } } ∧
    t.stack k = { s.stack k with leaving := s.reg .memStkPend 0 k &&& s.reg .memStkChmap 0 k } ∧
    t.flag .memEpochCtrl 0 0 9 = true := by
  subst ht
  have hstore := s.store_regs_only .memEpochCtrl 0 0 v
  have hfld := (s.fld_store_epoch v).trans hk.symm
  have hheld := (s.stackHeld_store_epoch v k).trans hfree
  have hpend := s.reg_store_epoch v (q := .memStkPend) (b := 0) hstack (by simp only [Reg.info]; omega)
  have hmap := s.reg_store_epoch v (q := .memStkChmap) (b := 0) hstack (by simp only [Reg.info]; omega)
  generalize s.store .memEpochCtrl 0 0 v = u at *
  have hnone' : u.up.hbmEpoch = none := by
    rw [hstore]
    exact hnone
  rw [State.epochGo_accepted hfld hnone' hstack hheld, hpend, hmap]
  rw [hstore]
  refine ⟨rfl, ?_, (State.flag_setFld _ _ _ _ _ _ (by decide) (by decide)).trans (if_pos (by decide))⟩
  exact SMap.atD_put_self _ _ _ _

theorem State.epochGo_store_refused (s : State) {v : W32} {k : Nat} (hk : k = regField v 4 0)
    (hbad : s.up.hbmEpoch ≠ none ∨ 24 ≤ k ∨ s.stackHeld k = true) {t : State} (ht : t = (s.store .memEpochCtrl 0 0 v).epochGo) :
    t = { s with regs := t.regs } ∧ t.flag .memEpochCtrl 0 0 10 = true := by
  subst ht
  have hfld := (s.fld_store_epoch v).trans hk.symm
  rw [State.epochGo_refused (by rw [hfld, s.stackHeld_store_epoch]; exact hbad)]
  exact ⟨rfl, (State.flag_setFld _ _ _ _ _ _ (by decide) (by decide)).trans (if_pos (by decide))⟩

/-! ### Two orders of one message time (R326) -/

theorem State.orderRank_lt (s : State) (o : Order) : s.orderRank o < 7 := by
  unfold State.orderRank
  cases o.master with
  | safety | mgmt | monitor => simp
  | attachA | attachB =>
    dsimp only
    split <;> decide

/-- Two orders of different rank stand in the order of their ranks. -/
theorem State.ranked_pair {s : State} {a b : Order} (h : s.orderRank a < s.orderRank b) : s.ranked [a, b] = [a, b] := by
  have hlast := s.orderRank_lt b
  unfold State.ranked
  simp only [List.filter_cons, List.filter_nil]
  generalize s.orderRank a = x at *
  generalize s.orderRank b = y at *
  interval_cases y <;> interval_cases x <;> rfl

/-- Of two orders that contradict each other the one of lower rank is lost. -/
theorem State.resolve_pair {s : State} {a b : Order} (hb : b.bar2 = false) (h : s.contradict b a = true) :
    s.resolve [a, b] [] [] = ([a], [b]) := by
  rw [State.resolve, if_neg (by simp), State.resolve, if_pos (by simp [hb, h]), State.resolve]
  rfl

theorem sortDoors_singleton (a : Order) : sortDoors [a] = [a] := by
  unfold sortDoors
  cases h : a.bar2 <;> simp [h]

/-- Reaching the module is not a matter of time. -/
theorem State.reaches_of_time (s : State) (n : Nat) (o : Order) :
    ({ s with up := { s.up with time := n } } : State).reaches o = s.reaches o := rfl

theorem State.orderRank_of_time (s : State) (n : Nat) (o : Order) :
    ({ s with up := { s.up with time := n } } : State).orderRank o = s.orderRank o := rfl

/-- Of two orders that reach the module in one message time, and contradict each other, the one of higher rank runs, and the
other is recorded. -/
theorem exec_messageTimeEnd_pair {s u : State} {a b : Order} (hu : u = { s with up := { s.up with time := s.up.time + 1000 } })
    (hdoor : b.bar2 = false) (ha : s.reaches a = true) (hb : s.reaches b = true) (hrank : s.orderRank a < s.orderRank b)
    (hclash : u.contradict b a = true) : exec (.messageTimeEnd [a, b]) s = .next ((u.loseOrder b).runOrder a) := by
  have ha' : u.reaches a = true := by rw [hu, State.reaches_of_time, ha]
  have hb' : u.reaches b = true := by rw [hu, State.reaches_of_time, hb]
  have hrank' : u.orderRank a < u.orderRank b := by rwa [hu, State.orderRank_of_time, State.orderRank_of_time]
  change execMessageTimeEnd [a, b] s = _
  unfold execMessageTimeEnd
  rw [← hu]
  dsimp only
  rw [List.filter_cons_of_pos ha', List.filter_cons_of_pos hb', List.filter_nil, List.filter_cons_of_neg (by simp [ha']),
    List.filter_cons_of_neg (by simp [hb']), List.filter_nil, List.foldl_nil, State.ranked_pair hrank', State.resolve_pair hdoor hclash]
  dsimp only
  rw [sortDoors_singleton]
  cases h : orderMapEpoch a <;> simp [h]

end Sys2Proof.Machine
end

section
/-! SUPPORT. What the steps of resets, clears and strip requests leave alone; strips requested (R375). -/
namespace Sys2Proof.Machine

/-! ### Folds of steps -/

/-- What one step of a fold makes true, and every step keeps, is true at its end. -/
theorem foldl_establishes {α β : Type} {P : β → Prop} {f : β → α → β} {l : List α} {x : α} (hx : x ∈ l) (hset : ∀ b, P (f b x))
    (hkeep : ∀ b, ∀ y ∈ l, P b → P (f b y)) (b : β) : P (l.foldl f b) := by
  obtain ⟨before, after, rfl⟩ := List.append_of_mem hx
  rw [List.foldl_append, List.foldl_cons]
  exact List.foldlRecOn after f (hset _) fun c hc y hy => hkeep c y (List.mem_append_right _ (List.mem_cons_of_mem x hy)) hc

/-- The step at one place of a fold without repetitions is seen between steps elsewhere. -/
theorem foldl_at {α β : Type} {R : β → β → Prop} {f : β → α → β} (hrefl : ∀ b, R b b) (htrans : ∀ a b c, R a b → R b c → R a c)
    {l : List α} (hl : l.Nodup) {x : α} (hx : x ∈ l) (helse : ∀ b, ∀ y ∈ l, y ≠ x → R b (f b y)) (b : β) :
    ∃ c, R b c ∧ R (f c x) (l.foldl f b) := by
  obtain ⟨before, after, rfl⟩ := List.append_of_mem hx
  obtain ⟨hbefore, hafter⟩ : x ∉ before ∧ x ∉ after := by
    rw [List.nodup_append] at hl
    obtain ⟨-, hcons, hdisjoint⟩ := hl
    exact ⟨fun hmem => hdisjoint x hmem x List.mem_cons_self rfl, (List.nodup_cons.1 hcons).1⟩
  rw [List.foldl_append, List.foldl_cons]
  refine ⟨before.foldl f b, ?_, ?_⟩
  · exact List.foldlRecOn before f (hrefl b) fun c hc y hy =>
      htrans _ _ _ hc (helse c y (List.mem_append_left _ hy) fun h => hbefore (h ▸ hy))
  · exact List.foldlRecOn after f (hrefl _) fun c hc y hy =>
      htrans _ _ _ hc (helse c y (List.mem_append_right _ (List.mem_cons_of_mem x hy)) fun h => hafter (h ▸ hy))

/-! ### Registers of other places -/

/-- No member of a register stands at the place of a member of one of these registers. -/
def Reg.apartFrom (r : Reg) (rs : List Reg) : Bool :=
  rs.all fun q => (List.range r.info.count).all fun j => (List.range q.info.count).all fun i =>
    r.info.off + j * r.info.stride != q.info.off + i * q.info.stride

theorem Reg.addr_ne_of_apart {r q : Reg} {rs : List Reg} (h : r.apartFrom rs = true) (hq : q ∈ rs) (b c : Nat) {j i : Nat}
    (hj : j < r.info.count) (hi : i < q.info.count) : r.addr b j ≠ q.addr c i := by
  have hplaces := List.all_eq_true.1 (List.all_eq_true.1 (List.all_eq_true.1 h q hq) j (List.mem_range.2 hj)) i (List.mem_range.2 hi)
  exact Reg.addr_ne_of_place b c hj hi (bne_iff_ne.1 hplaces)

/-- Members of different blocks of one base are different registers. -/
theorem Reg.addr_ne_of_block {r q : Reg} (hbase : r.info.base = q.info.base) {b c j i : Nat} (hne : b ≠ c)
    (hj : j < r.info.count) (hi : i < q.info.count) : r.addr b j ≠ q.addr c i := by
  have hr := r.addr_mod_page b hj
  have hq := q.addr_mod_page c hi
  have hrpage : r.info.off + j * r.info.stride < 0x1000 := hr ▸ Nat.mod_lt _ (by decide)
  have hqpage : q.info.off + i * q.info.stride < 0x1000 := hq ▸ Nat.mod_lt _ (by decide)
  unfold Reg.addr
  omega

/-! ### The relation -/

/-- From s to t the cloves, HBM, start-up, the serving engine, the flows sent and these registers stand. -/
structure Spares (rs : List Reg) (s t : State) : Prop where
  cloves : t.cloves = s.cloves
  hbm : t.hbm = s.hbm
  up : t.up = s.up
  srv : t.srv = s.srv
  outs : t.net.outs = s.net.outs
  regs : ∀ r ∈ rs, ∀ b i, i < r.info.count → t.reg r b i = s.reg r b i

namespace Spares
variable {rs : List Reg} {a b c : State}

theorem refl (s : State) : Spares rs s s := ⟨rfl, rfl, rfl, rfl, rfl, fun _ _ _ _ _ => rfl⟩

theorem trans (h : Spares rs a b) (g : Spares rs b c) : Spares rs a c :=
  ⟨g.cloves.trans h.cloves, g.hbm.trans h.hbm, g.up.trans h.up, g.srv.trans h.srv, g.outs.trans h.outs,
    fun r hr k i hi => (g.regs r hr k i hi).trans (h.regs r hr k i hi)⟩

theorem ite {p : Prop} [Decidable p] (h : p → Spares rs a b) (g : ¬ p → Spares rs a c) : Spares rs a (if p then b else c) := by
  split
  · exact h ‹_›
  · exact g ‹_›

theorem foldl_mem {α : Type} {f : State → α → State} {l : List α} {s : State} (hf : ∀ s, ∀ x ∈ l, Spares rs s (f s x)) :
    Spares rs s (l.foldl f s) :=
  List.foldlRecOn l f (refl s) fun t ht x hx => ht.trans (hf t x hx)

theorem flag (h : Spares rs a b) {r : Reg} (hr : r ∈ rs) (k n : Nat) {i : Nat} (hi : i < r.info.count) :
    b.flag r k i n = a.flag r k i n := by
  rw [State.flag, h.regs r hr k i hi, ← State.flag]

theorem fld (h : Spares rs a b) {r : Reg} (hr : r ∈ rs) (k hi lo : Nat) {i : Nat} (hplace : i < r.info.count) :
    b.fld r k i hi lo = a.fld r k i hi lo := by
  rw [State.fld, h.regs r hr k i hplace, ← State.fld]

end Spares

namespace State
variable {rs : List Reg} (s : State)

theorem setReg_spares {r : Reg} (h : r.apartFrom rs = true) (b : Nat) {j : Nat} (v : W32) (hj : j < r.info.count) :
    Spares rs s (s.setReg r b j v) :=
  ⟨rfl, rfl, rfl, rfl, rfl, fun _ hq c _ hi => s.reg_setReg_ne v (Reg.addr_ne_of_apart h hq b c hj hi)⟩

theorem setFld_spares {r : Reg} (h : r.apartFrom rs = true) (b hi lo v : Nat) {j : Nat} (hj : j < r.info.count) :
    Spares rs s (s.setFld r b j hi lo v) :=
  s.setReg_spares h b _ hj

theorem modField_spares (f : Nat) (g : Field → Field) : Spares rs s (s.modField f g) :=
  ⟨rfl, rfl, rfl, rfl, rfl, fun _ _ _ _ _ => rfl⟩

theorem modPart_spares (p : Nat) (g : Part → Part) : Spares rs s (s.modPart p g) :=
  ⟨rfl, rfl, rfl, rfl, rfl, fun _ _ _ _ _ => rfl⟩

/-! ### Strips (R375) -/

section
variable (htemp : Reg.fldPwrTemp.apartFrom rs = true) (hstat : Reg.prtPwrStat.apartFrom rs = true)
include htemp hstat

theorem showStrip_spares (d : Nat) : Spares rs s (s.showStrip d) := by
  have hcol : d / 12 % 3 < Reg.prtPwrStat.info.count := Nat.mod_lt _ (by decide)
  exact ((s.setFld_spares htemp _ _ _ _ (by decide)).trans (setFld_spares _ hstat _ _ _ _ hcol)).trans
    (setFld_spares _ hstat _ _ _ _ hcol)

theorem putDomain_spares (d : Nat) (v : Domain) : Spares rs s (s.putDomain d v) := by
  have hset : Spares rs s (s.setDomain d v) := ⟨rfl, rfl, rfl, rfl, rfl, fun _ _ _ _ _ => rfl⟩
  exact .ite (fun _ => hset.trans (showStrip_spares _ htemp hstat d)) fun _ => hset

/-- Of the domains the strips are the first 1,152. -/
theorem beginUp_spares {d : Nat} (hd : d < 1152) : Spares rs s (s.beginUp d) := by
  have hsafe : Spares rs s { s with pwr := { s.pwr with safety := s.pwr.safety.del d } } :=
    ⟨rfl, rfl, rfl, rfl, rfl, fun _ _ _ _ _ => rfl⟩
  exact .ite (fun h => by omega) fun _ => hsafe.trans (putDomain_spares _ htemp hstat d _)

theorem requestOn_spares {d : Nat} (hd : d < 1152) : Spares rs s (s.requestOn d) := by
  unfold State.requestOn
  dsimp only
  split
  · exact .ite (fun _ => s.putDomain_spares htemp hstat d _) fun _ => .refl s
  · exact .ite (fun _ => s.beginUp_spares htemp hstat hd) fun _ =>
      .ite (fun _ => s.putDomain_spares htemp hstat d _) fun _ => .refl s
  · exact s.putDomain_spares htemp hstat d _

theorem requestOff_spares (d : Nat) : Spares rs s (s.requestOff d) := by
  unfold State.requestOff
  dsimp only
  split
  · exact .ite (fun _ => s.putDomain_spares htemp hstat d _) fun _ => s.putDomain_spares htemp hstat d _
  all_goals exact s.putDomain_spares htemp hstat d _

end

end State

/-- One bit of a strip request: strip d asked for, or asked off. -/
def State.stripAsked (s : State) (d : Nat) (want was : Bool) : State :=
  let again := want && (s.pwr.safety.at? d).isSome
  if want && (!was || again) then s.requestOn d else if !want && was then s.requestOff d else s

theorem State.writeStripReq_eq (s : State) (p c : Nat) (v : W32) : s.writeStripReq p c v =
    (List.range 12).foldl (fun t i => t.stripAsked ((3 * p + c) * 12 + i) (v.getLsbD i) (s.flag .prtPwrStrip p c i))
      (s.setFld .prtPwrStrip p c 11 0 (regField v 11 0)) := rfl

theorem State.stripAsked_spares {rs : List Reg} (s : State) (htemp : Reg.fldPwrTemp.apartFrom rs = true)
    (hstat : Reg.prtPwrStat.apartFrom rs = true) {d : Nat} (hd : d < 1152) (want was : Bool) :
    Spares rs s (s.stripAsked d want was) :=
  .ite (fun _ => s.requestOn_spares htemp hstat hd) fun _ => .ite (fun _ => s.requestOff_spares htemp hstat d) fun _ => .refl s

theorem stripNo_lt {p c i : Nat} (hp : p < 32) (hc : c < 3) (hi : i < 12) : (3 * p + c) * 12 + i < 1152 := by omega

/-- Once the request is stored, no step of it touches these registers. -/
theorem State.writeStripReq_spares {rs : List Reg} (s : State) (htemp : Reg.fldPwrTemp.apartFrom rs = true)
    (hstat : Reg.prtPwrStat.apartFrom rs = true) {p c : Nat} (hp : p < 32) (hc : c < 3) (v : W32) :
    Spares rs (s.setFld .prtPwrStrip p c 11 0 (regField v 11 0)) (s.writeStripReq p c v) := by
  rw [State.writeStripReq_eq]
  exact .foldl_mem fun t i hi => t.stripAsked_spares htemp hstat (stripNo_lt hp hc (List.mem_range.1 hi)) _ _

/-! ### One strip among others -/

/-- From s to t strip d, its safety, the fields and start-up stand. -/
structure SameStrip (d : Nat) (s t : State) : Prop where
  domain : t.domain d = s.domain d
  safety : t.pwr.safety.at? d = s.pwr.safety.at? d
  fields : t.fields = s.fields
  up : t.up = s.up

namespace SameStrip
variable {d : Nat} {a b c : State}

theorem refl (s : State) : SameStrip d s s := ⟨rfl, rfl, rfl, rfl⟩

theorem trans (h : SameStrip d a b) (g : SameStrip d b c) : SameStrip d a c :=
  ⟨g.domain.trans h.domain, g.safety.trans h.safety, g.fields.trans h.fields, g.up.trans h.up⟩

theorem ite {p : Prop} [Decidable p] (h : SameStrip d a b) (g : SameStrip d a c) : SameStrip d a (if p then b else c) := by
  split
  · exact h
  · exact g

theorem mayStart (h : SameStrip d a b) : b.mayStart d = a.mayStart d := by
  have hfield : b.field (d / 12) = a.field (d / 12) := by rw [State.field, h.fields, ← State.field]
  unfold State.mayStart State.safetyAllows
  rw [h.up, h.safety, hfield]

end SameStrip

theorem State.putDomain_sameStrip (s : State) {d e : Nat} (hne : e ≠ d) (v : Domain) : SameStrip d s (s.putDomain e v) := by
  refine ⟨?_, ?_, s.putDomain_fields e v, ?_⟩
  · exact (State.domain_congr (s.putDomain_sameSupply e v).pwr d).trans (s.domain_setDomain_ne v hne)
  · rw [State.putDomain_frame]
  · rw [State.putDomain_frame]

theorem State.beginUp_eq {s : State} {d : Nat} (hd : d < 1152) :
    s.beginUp d = ({ s with pwr := { s.pwr with safety := s.pwr.safety.del d } } : State).putDomain d ⟨.up, none, false⟩ :=
  if_neg (by omega)

/-- A request for one strip leaves the others. -/
theorem State.stripAsked_sameStrip (s : State) {d e : Nat} (he : e < 1152) (hne : e ≠ d) (want was : Bool) :
    SameStrip d s (s.stripAsked e want was) := by
  have hput := s.putDomain_sameStrip hne
  have hon : SameStrip d s (s.requestOn e) := by
    have hup : SameStrip d s (s.beginUp e) := by
      have hsafe : SameStrip d s { s with pwr := { s.pwr with safety := s.pwr.safety.del e } } :=
        ⟨rfl, SMap.at?_del_ne _ hne, rfl, rfl⟩
      rw [State.beginUp_eq he]
      exact hsafe.trans (State.putDomain_sameStrip _ hne _)
    unfold State.requestOn
    dsimp only
    split
    · exact .ite (hput _) (.refl s)
    · exact .ite hup (.ite (hput _) (.refl s))
    · exact hput _
  have hoff : SameStrip d s (s.requestOff e) := by
    unfold State.requestOff
    dsimp only
    split
    · exact .ite (hput _) (hput _)
    all_goals exact hput _
  exact .ite hon (.ite hoff (.refl s))

/-- A strip that is off, and may start, is brought up when it is asked for. -/
theorem State.domain_stripAsked_on {s : State} {d : Nat} (hd : d < 1152) (hoff : (s.domain d).st = .off)
    (hstart : s.mayStart d = true) : ((s.stripAsked d true false).domain d).st = .up := by
  have hasked : s.stripAsked d true false = s.beginUp d := by
    unfold State.stripAsked State.requestOn
    simp [hoff, hstart]
  rw [hasked, State.beginUp_eq hd, State.domain_putDomain_self]

/-- A strip that is on, and is asked off, waits for its work to end. -/
theorem State.domain_stripAsked_off {s : State} {d : Nat} (hd : d < 1152) (hon : (s.domain d).st = .on) :
    ((s.stripAsked d false true).domain d).wait = true := by
  have hasked : s.stripAsked d false true = s.putDomain d { s.domain d with wait := true } := by
    unfold State.stripAsked State.requestOff
    simp [hon, hd]
  rw [hasked, State.domain_putDomain_self]

/-- The step of a strip request at bit i, between steps at other strips. -/
theorem State.writeStripReq_at (s : State) {p c i : Nat} (hp : p < 32) (hc : c < 3) (hi : i < 12) (v : W32) :
    ∃ u : State, SameStrip ((3 * p + c) * 12 + i) s u ∧
      SameStrip ((3 * p + c) * 12 + i)
        (u.stripAsked ((3 * p + c) * 12 + i) (v.getLsbD i) (s.flag .prtPwrStrip p c i)) (s.writeStripReq p c v) := by
  rw [State.writeStripReq_eq]
  have hset : SameStrip ((3 * p + c) * 12 + i) s (s.setFld .prtPwrStrip p c 11 0 (regField v 11 0)) := ⟨rfl, rfl, rfl, rfl⟩
  obtain ⟨u, hbefore, hafter⟩ := foldl_at (R := SameStrip ((3 * p + c) * 12 + i))
    (f := fun t j => State.stripAsked t ((3 * p + c) * 12 + j) (v.getLsbD j) (s.flag .prtPwrStrip p c j))
    SameStrip.refl (fun _ _ _ => SameStrip.trans) List.nodup_range (List.mem_range.2 hi)
    (fun t j hj hne => t.stripAsked_sameStrip (stripNo_lt hp hc (List.mem_range.1 hj)) (by omega) _ _)
    (s.setFld .prtPwrStrip p c 11 0 (regField v 11 0))
  exact ⟨u, hset.trans hbefore, hafter⟩

end Sys2Proof.Machine
end

section
/-! SUPPORT. A partition reset (R410): gates closed, rings and locks off, work ended; a clear done (R411). -/
namespace Sys2Proof.Machine

/-! ### The steps of a partition reset -/

/-- A partition shown in reset, its rings and its lock off. -/
def State.partBusy (s : State) (p : Nat) : State :=
  [3 * p, 3 * p + 1, 3 * p + 2].foldl (fun s f => s.modField f (fun v => { v with ballast := 0 }))
    ((s.setFld .prtReset p 0 2 2 1).resetHost p)

/-- A reset that has closed the gates of its group and stopped its partitions, its work still as it was. -/
def State.resetHeld (s : State) (l : Nat) (cause : Nat × Nat × Nat) : State :=
  (s.group l).foldl (fun t p => t.partBusy p) ((s.resetBegun l cause).closeGates (s.group l) 2)

/-- The work of a group's cloves, messages, requests and tier transfers ended. -/
def State.workDropped (s : State) (l : Nat) : State :=
  let g := s.group l
  let mine (k : Nat) : Bool := g.contains (partOf (cloveX k) (cloveY k))
  { s with
    cloves := s.cloves.map (fun e => if mine e.1 then (e.1, e.2.partReset (cloveX e.1) (cloveY e.1)) else e)
    msgs := s.msgs.filter (fun m => !mine m.src)
    inflight := s.inflight.filter (fun r => !g.contains r.part)
    memStacks := s.memStacks.map (fun e => (e.1, { e.2 with reqs := e.2.reqs.filter (fun r => !g.contains r.part) }))
    net := { s.net with tiers := s.net.tiers.filter (fun e => !g.contains e.2.part) } }

theorem State.stopWork_eq (s : State) (l : Nat) :
    s.stopWork l true = (s.group l).foldl (fun t p => t.stopPart p true) (s.workDropped l) := rfl

theorem State.partitionReset_eq {s : State} {l : Nat} (h : s.up.resets.at? l = none) :
    s.partitionReset l 0 0 0 0 =
      (((s.group l).foldl (fun t p => t.restartFlows p) ((s.resetHeld l (0, 0, 0)).stopWork l true)).srv.reqs.filter
        (fun q => q.group == l && q.endsBy true)).foldl (fun t q => t.voidEnd q none)
        ((s.group l).foldl (fun t p => t.restartFlows p) ((s.resetHeld l (0, 0, 0)).stopWork l true)) :=
  if_neg (by rw [h]; decide)

/-! ### Gates, rings and locks -/

/-- A partition is shown in reset, its lock is off and its rings are disabled. -/
structure PartStopped (s : State) (q : Nat) : Prop where
  busy : s.flag .prtReset q 0 2 = true
  unlocked : s.flag .prtLock q 0 0 = false
  rings : ∀ r, r < 8 → s.sqOn q r = false

theorem PartStopped.of_spares {rs : List Reg} {s t : State} {q : Nat} (h : PartStopped s q) (hst : Spares rs s t)
    (hrs : [Reg.prtReset, .prtLock, .prtSqCfg] ⊆ rs) : PartStopped t q where
  busy := (hst.flag (hrs (by decide)) q 2 (by decide)).trans h.busy
  unlocked := (hst.flag (hrs (by decide)) q 0 (by decide)).trans h.unlocked
  rings r hr := (hst.flag (hrs (by decide)) q 8 hr).trans (h.rings r hr)

theorem State.foldl_modField_regs (g : Field → Field) (fs : List Nat) (s : State) :
    (fs.foldl (fun t f => t.modField f g) s).regs = s.regs :=
  List.foldlRecOn (motive := fun t : State => t.regs = s.regs) fs _ rfl fun _ ht _ _ => ht

theorem State.partBusy_regs (s : State) (p : Nat) : (s.partBusy p).regs = ((s.setFld .prtReset p 0 2 2 1).resetHost p).regs :=
  State.foldl_modField_regs _ _ _

/-- The submission rings of a partition disabled, one by one. -/
def State.ringsOff (s : State) (p : Nat) : State :=
  (List.range 8).foldl (fun t r => (t.setFld .prtSqCfg p r 8 8 0).dropFetch p r) s

theorem State.resetHost_eq (s : State) (p : Nat) : s.resetHost p = (s.ringsOff p).setFld .prtLock p 0 0 0 0 := rfl

theorem State.ringsOff_spares {rs : List Reg} (s : State) (h : Reg.prtSqCfg.apartFrom rs = true) (p : Nat) :
    Spares rs s (s.ringsOff p) :=
  .foldl_mem fun t _ hr => (t.setFld_spares h p 8 8 0 (List.mem_range.1 hr)).trans ⟨rfl, rfl, rfl, rfl, rfl, fun _ _ _ _ _ => rfl⟩

theorem State.sqOn_dropFetch (s : State) (p r q j : Nat) : (s.dropFetch p r).sqOn q j = s.sqOn q j := rfl

theorem State.sqOn_ringsOff (s : State) (p : Nat) {r : Nat} (hr : r < 8) : (s.ringsOff p).sqOn p r = false := by
  have hset (t : State) : (t.setFld .prtSqCfg p r 8 8 0).sqOn p r = false :=
    (State.flag_setFld _ _ _ _ _ _ (by decide) (by decide)).trans (if_pos (by decide))
  refine foldl_establishes (P := fun t : State => t.sqOn p r = false)
    (f := fun t r => State.dropFetch (t.setFld .prtSqCfg p r 8 8 0) p r) (List.mem_range.2 hr) hset (fun t j hj ht => ?_) s
  rw [State.sqOn_dropFetch]
  by_cases hjr : j = r
  · exact hjr ▸ hset t
  · have hne : Reg.prtSqCfg.addr p j ≠ Reg.prtSqCfg.addr p r := by
      simp only [Reg.addr, Reg.info]
      omega
    exact (State.flag_setFld_ne _ _ _ _ _ hne).trans ht

theorem State.partBusy_stops (s : State) (p : Nat) : PartStopped (s.partBusy p) p := by
  have hregs := s.partBusy_regs p
  have hrings := State.ringsOff_spares (rs := [.prtReset]) (s.setFld .prtReset p 0 2 2 1) (by decide) p
  rw [State.resetHost_eq] at hregs
  refine ⟨?_, ?_, fun r hr => ?_⟩
  · rw [State.flag, State.reg_of_regs hregs, ← State.flag,
      State.flag_setFld_ne _ _ _ _ _ (Reg.addr_ne_of_place p p (by decide) (by decide) (by decide)),
      hrings.flag (by decide) p 2 (by decide), State.flag_setFld _ _ _ _ _ _ (by decide) (by decide), if_pos (by decide)]
    decide
  · rw [State.flag, State.reg_of_regs hregs, ← State.flag, State.flag_setFld _ _ _ _ _ _ (by decide) (by decide), if_pos (by decide)]
    decide
  · rw [State.sqOn, State.flag, State.reg_of_regs hregs, ← State.flag,
      State.flag_setFld_ne _ _ _ _ _ (Reg.addr_ne_of_apart (rs := [.prtSqCfg]) (by decide) (by decide) p p (by decide) hr)]
    exact State.sqOn_ringsOff _ p hr

/-- Stopping a partition writes its own block. -/
theorem State.reg_partBusy_ne (s : State) {p q : Nat} (hne : p ≠ q) {r : Reg} (hbase : r.info.base = 0x20000) {i : Nat}
    (hi : i < r.info.count) : (s.partBusy p).reg r q i = s.reg r q i := by
  have hapart {x : Reg} (hx : x.info.base = 0x20000) {j : Nat} (hj : j < x.info.count) : x.addr p j ≠ r.addr q i :=
    Reg.addr_ne_of_block (hx.trans hbase.symm) hne hj hi
  have hrings (t : State) : (t.ringsOff p).reg r q i = t.reg r q i :=
    List.foldlRecOn (motive := fun u : State => u.reg r q i = t.reg r q i) (List.range 8)
      (fun t j => (t.setFld .prtSqCfg p j 8 8 0).dropFetch p j) rfl fun u hu j hj =>
        (State.reg_setReg_ne u _ (hapart rfl (List.mem_range.1 hj))).trans hu
  rw [State.reg_of_regs (s.partBusy_regs p), State.resetHost_eq]
  exact (State.reg_setReg_ne _ _ (hapart (x := .prtLock) rfl (by decide))).trans
    ((hrings _).trans (State.reg_setReg_ne _ _ (hapart (x := .prtReset) rfl (by decide))))

theorem PartStopped.partBusy {s : State} {q : Nat} (h : PartStopped s q) (p : Nat) : PartStopped (s.partBusy p) q := by
  by_cases hpq : p = q
  · exact hpq ▸ s.partBusy_stops p
  · have hreg {r : Reg} (hbase : r.info.base = 0x20000) {i : Nat} (hi : i < r.info.count) := s.reg_partBusy_ne hpq hbase hi
    refine ⟨?_, ?_, fun r hr => ?_⟩
    · rw [State.flag, hreg rfl (by decide)]
      exact h.busy
    · rw [State.flag, hreg rfl (by decide)]
      exact h.unlocked
    · rw [State.sqOn, State.flag, hreg rfl hr]
      exact h.rings r hr

theorem State.partBusy_spares {rs : List Reg} (s : State) (hreset : Reg.prtReset.apartFrom rs = true)
    (hlock : Reg.prtLock.apartFrom rs = true) (hring : Reg.prtSqCfg.apartFrom rs = true) (p : Nat) : Spares rs s (s.partBusy p) := by
  have hhost : Spares rs s ((s.setFld .prtReset p 0 2 2 1).resetHost p) := by
    rw [State.resetHost_eq]
    exact (s.setFld_spares hreset p 2 2 1 (by decide)).trans
      ((State.ringsOff_spares _ hring p).trans (State.setFld_spares _ hlock p 0 0 0 (by decide)))
  exact hhost.trans (.foldl_mem fun t f _ => t.modField_spares f _)

theorem State.closeGates_spares {rs : List Reg} (s : State) (h : Reg.errGate.apartFrom rs = true) (ps : List Nat) (cause : Nat) :
    Spares rs s (s.closeGates ps cause) := by
  have hregs : ∀ r ∈ rs, ∀ b i, i < r.info.count → (s.closeGates ps cause).reg r b i = s.reg r b i := fun r hr b i hi =>
    State.reg_closeGates_ne ps cause (Reg.addr_ne_of_apart h hr 0 b (by decide) hi) s
  rw [State.closeGates_eq] at hregs ⊢
  exact ⟨rfl, rfl, rfl, rfl, rfl, hregs⟩

theorem State.mem_group_lt {s : State} {l q : Nat} (h : q ∈ s.group l) : q < 32 := List.mem_range.1 (List.mem_filter.1 h).1

/-- Before its work ends, a reset has closed the gates of its group, and stopped each partition of it. -/
theorem State.resetHeld_spec (s : State) (l : Nat) (cause : Nat × Nat × Nat) :
    Spares [.prtKvCtrl, .prtGroup] (s.resetBegun l cause) (s.resetHeld l cause) ∧
    ∀ q ∈ s.group l, (s.resetHeld l cause).gated q = true ∧ PartStopped (s.resetHeld l cause) q := by
  have hbusy : Spares [.errGate, .prtKvCtrl, .prtGroup] ((s.resetBegun l cause).closeGates (s.group l) 2) (s.resetHeld l cause) :=
    .foldl_mem fun t p _ => t.partBusy_spares (by decide) (by decide) (by decide) p
  have hgates := (s.resetBegun l cause).closeGates_spares (rs := [.prtKvCtrl, .prtGroup]) (by decide) (s.group l) 2
  refine ⟨hgates.trans ⟨hbusy.cloves, hbusy.hbm, hbusy.up, hbusy.srv, hbusy.outs,
    fun r hr => hbusy.regs r (List.mem_cons_of_mem _ hr)⟩, fun q hq => ⟨?_, ?_⟩⟩
  · exact (hbusy.flag (by decide) 0 q (by decide)).trans
      (State.gated_closeGates 2 q (fun _ hp => State.mem_group_lt hp) (.inl hq))
  · exact foldl_establishes (P := fun t => PartStopped t q) hq (fun t => t.partBusy_stops q) (fun t p _ ht => ht.partBusy p) _

/-- A reset that has begun changes no leader. -/
theorem Spares.group_resetBegun {s u : State} {l : Nat} {cause : Nat × Nat × Nat}
    (h : Spares [.prtKvCtrl, .prtGroup] (s.resetBegun l cause) u) : u.group l = s.group l := by
  refine List.filter_congr fun p _ => ?_
  rw [State.lead, h.fld (by decide) p 4 0 (by decide)]
  rfl

/-! ### Work ended, flows begun anew -/

theorem State.kvOn_of_spares {rs : List Reg} {s t : State} (h : Spares rs s t) (hrs : Reg.prtKvCtrl ∈ rs) (q : Nat) :
    t.kvOn q = s.kvOn q :=
  h.flag hrs q 0 (by decide)

/-- Where the cache is off there are no pins to clear (R410). -/
theorem State.stopPart_spares {rs : List Reg} (s : State) (h : Reg.fldDspStat.apartFrom rs = true) (hrs : Reg.prtKvCtrl ∈ rs) {p : Nat}
    (hoff : s.kvOn p = false) (full : Bool) : Spares rs s (s.stopPart p full) := by
  unfold State.stopPart
  extract_lets s1 s2
  have h1 : Spares rs s s1 := s.modPart_spares p _
  have h2 : Spares rs s1 s2 := .foldl_mem fun t c _ =>
    (t.setFld_spares h (3 * p + c) 31 16 0 (by decide)).trans (State.modField_spares _ _ _)
  have h12 := h1.trans h2
  have hclear : s2.clearPins p = s2 := if_pos (by rw [State.kvOn_of_spares h12 hrs, hoff]; rfl)
  rw [hclear]
  exact h12

theorem State.foldl_stopPart_spares {rs : List Reg} (h : Reg.fldDspStat.apartFrom rs = true) (hrs : Reg.prtKvCtrl ∈ rs) (full : Bool)
    {ps : List Nat} : ∀ {s : State}, (∀ q ∈ ps, s.kvOn q = false) → Spares rs s (ps.foldl (fun t p => t.stopPart p full) s) := by
  induction ps with
  | nil => exact fun _ => .refl _
  | cons p ps ih =>
    intro s hoff
    have hstop := s.stopPart_spares h hrs (hoff p List.mem_cons_self) full
    exact hstop.trans (ih fun q hq => (State.kvOn_of_spares hstop hrs q).trans (hoff q (List.mem_cons_of_mem p hq)))

/-- Without a flow there is none to begin anew. -/
theorem State.foldl_restartFlows_spares {rs : List Reg} (h : Reg.prtVngCallen.apartFrom rs = true) (ps : List Nat) {s : State}
    (hnone : s.net.outs = []) : Spares rs s (ps.foldl (fun t p => t.restartFlows p) s) := by
  have hstep (t : State) (p : Nat) (ht : t.net.outs = []) : Spares rs t (t.restartFlows p) := by
    unfold State.restartFlows
    extract_lets _ t1 t2
    have h1 : Spares rs t t1 := ⟨rfl, rfl, rfl, rfl, rfl, fun _ _ _ _ _ => rfl⟩
    have h2 : Spares rs t t2 := h1.trans (t1.setReg_spares h p 0 (by decide))
    have houts : t2.net.outs = [] := h2.outs.trans ht
    rw [houts]
    exact h2
  exact List.foldlRecOn ps _ (.refl s) fun t ht p _ => ht.trans (hstep t p (ht.outs.trans hnone))

/-- The registers that show a reset, and those that open the cache. -/
def resetRegs : List Reg := [.errGate, .prtReset, .prtLock, .prtSqCfg, .prtKvCtrl]

/-- What a partition reset leaves where no request, no flow and no cache stands: the work of the group's cloves ended (R410). -/
theorem State.partitionReset_spec {s : State} {l : Nat} (h : s.up.resets.at? l = none) (hreqs : s.srv.reqs = [])
    (houts : s.net.outs = []) (hkv : ∀ q ∈ s.group l, s.kvOn q = false) :
    Spares resetRegs ((s.resetHeld l (0, 0, 0)).workDropped l) (s.partitionReset l 0 0 0 0) := by
  obtain ⟨hheld, -⟩ := s.resetHeld_spec l (0, 0, 0)
  rw [State.partitionReset_eq h]
  have hgroup := hheld.group_resetBegun
  have hkept : ∀ q ∈ s.group l, ((s.resetHeld l (0, 0, 0)).workDropped l).kvOn q = false := fun q hq =>
    (State.kvOn_of_spares hheld (by decide) q).trans (hkv q hq)
  have hstop : Spares resetRegs ((s.resetHeld l (0, 0, 0)).workDropped l) ((s.resetHeld l (0, 0, 0)).stopWork l true) := by
    rw [State.stopWork_eq, hgroup]
    exact State.foldl_stopPart_spares (by decide) (by decide) true hkept
  have hflows := hstop.trans (State.foldl_restartFlows_spares (by decide) (s.group l) (hstop.outs.trans (hheld.outs.trans houts)))
  have hnone := hflows.srv.trans hheld.srv
  generalize (s.group l).foldl (fun t p => t.restartFlows p) ((s.resetHeld l (0, 0, 0)).stopWork l true) = t at *
  have hempty : t.srv.reqs = [] := (congrArg Serving.reqs hnone).trans hreqs
  rw [hempty]
  exact hflows

/-- The clove of a number after a partition reset. -/
theorem State.clove_workDropped (s : State) (l k : Nat) : (s.workDropped l).clove k =
    if partOf (cloveX k) (cloveY k) ∈ s.group l then
      match s.cloves.at? k with
      | some c => c.partReset (cloveX k) (cloveY k)
      | none => Clove.fresh (cloveX k) (cloveY k)
    else s.clove k := by
  unfold State.clove SMap.atD State.workDropped
  dsimp only
  rw [SMap.at?_map fun e => by split <;> rfl]
  by_cases hmem : partOf (cloveX k) (cloveY k) ∈ s.group l <;> cases s.cloves.at? k <;> simp [hmem]

/-- The work of a clove in the group has ended and its scratchpad stands; other cloves go on (R410). -/
theorem State.clove_workDropped_cases (s : State) (l k : Nat) :
    if partOf (cloveX k) (cloveY k) ∈ s.group l
    then ((s.workDropped l).clove k).scratch = (s.clove k).scratch ∧ ((s.workDropped l).clove k).regions = [] ∧
      ((s.workDropped l).clove k).channels = [] ∧ ((s.workDropped l).clove k).arrA.work = [] ∧
      ((s.workDropped l).clove k).arrB.work = [] ∧ ((s.workDropped l).clove k).sb = [] ∧ ((s.workDropped l).clove k).sfu = [] ∧
      ((s.workDropped l).clove k).loop = none ∧ ((s.workDropped l).clove k).fences = 0
    else (s.workDropped l).clove k = s.clove k := by
  rw [State.clove_workDropped]
  split
  next hmem =>
    cases hc : s.cloves.at? k with
    | none =>
      have hfresh : s.clove k = Clove.fresh (cloveX k) (cloveY k) := by rw [State.clove, SMap.atD, hc]; rfl
      rw [hfresh]
      exact ⟨rfl, rfl, rfl, rfl, rfl, rfl, rfl, rfl, rfl⟩
    | some c =>
      have hlisted : s.clove k = c := by rw [State.clove, SMap.atD, hc]; rfl
      rw [hlisted]
      exact ⟨rfl, rfl, rfl, rfl, rfl, rfl, rfl, rfl, rfl⟩
  next => rfl

theorem State.workDropped_cloves_congr {s t : State} {l : Nat} (hcloves : t.cloves = s.cloves) (hgroup : t.group l = s.group l) :
    (t.workDropped l).cloves = (s.workDropped l).cloves := by
  unfold State.workDropped
  dsimp only
  rw [hcloves, hgroup]

/-- From s to t the group led by l is in reset, which no event asked for: its gates are closed, its partitions stopped, and
its work ended. -/
structure GroupReset (s : State) (l : Nat) (t : State) : Prop where
  begun : t.up.resets.at? l = some (0, 0, 0)
  gated : ∀ q ∈ s.group l, t.gated q = true
  stopped : ∀ q ∈ s.group l, PartStopped t q
  cloves : t.cloves = (s.workDropped l).cloves

/-- The reset's later steps keep what its first ones have closed and stopped. -/
theorem GroupReset.of_spares {s u t : State} {l : Nat} (hu : Spares [.prtKvCtrl, .prtGroup] (s.resetBegun l (0, 0, 0)) u)
    (hgroup : ∀ q ∈ s.group l, u.gated q = true ∧ PartStopped u q) (ht : Spares resetRegs (u.workDropped l) t) :
    GroupReset s l t := by
  refine ⟨?_, fun q hq => ?_, fun q hq => ?_, ?_⟩
  · rw [ht.up.trans hu.up]
    exact SMap.at?_put_self _ _ _
  · exact (ht.flag (by decide) 0 q (by decide)).trans (hgroup q hq).1
  · obtain ⟨-, hbusy, hunlocked, hrings⟩ := hgroup q hq
    have hdropped : PartStopped (u.workDropped l) q := ⟨hbusy, hunlocked, hrings⟩
    exact hdropped.of_spares ht (by decide)
  · exact ht.cloves.trans (State.workDropped_cloves_congr hu.cloves hu.group_resetBegun)

theorem State.partitionReset_ends {s : State} {l : Nat} (h : s.up.resets.at? l = none) (hreqs : s.srv.reqs = [])
    (houts : s.net.outs = []) (hkv : ∀ q ∈ s.group l, s.kvOn q = false) : GroupReset s l (s.partitionReset l 0 0 0 0) := by
  obtain ⟨hheld, hgroup⟩ := s.resetHeld_spec l (0, 0, 0)
  exact .of_spares hheld hgroup (State.partitionReset_spec h hreqs houts hkv)

end Sys2Proof.Machine
end

section
/-! SUPPORT. A clear done (R411): the partition's scratchpads, windows and tier shares are empty. -/
namespace Sys2Proof.Machine

/-- The scratchpads of a partition's cloves zeroed. -/
def State.scratchCleared (s : State) (p : Nat) : State :=
  { s with cloves := s.cloves.map (fun e => if partOf (cloveX e.1) (cloveY e.1) == p then (e.1, { e.2 with scratch := [] }) else e) }

/-- A partition's bit taken from every tier entry. -/
def State.tierSharesCleared (s : State) (p : Nat) : State :=
  (List.range 16).foldl (fun t n => t.setFld .memSpillPmask 0 n p p 0) s

/-- A clear's record and its partition's owner-to-be given up. -/
def State.clearEnded (s : State) (p : Nat) : State :=
  { s with up := { s.up with clears := s.up.clears.filter (· ≠ p), newOwner := s.up.newOwner.del p } }

theorem exec_zeroisingClearDone {s : State} {p : Nat} (hclear : p ∈ s.up.clears) (hreset : s.up.resets.at? (s.lead p) = none) :
    exec (.zeroisingClearDone p) s = .next (((((((s.scratchCleared p).clearWindows p).tierSharesCleared p).clearPart p).clearEnded
      p).setFld .prtReset p 0 3 3 1).releaseOrders) := by
  refine congrArg Host.Outcome.next (if_neg ?_)
  rw [hreset]
  simpa using hclear

theorem State.scratch_scratchCleared (s : State) {p k : Nat} (hk : partOf (cloveX k) (cloveY k) = p) :
    ((s.scratchCleared p).clove k).scratch = [] := by
  unfold State.clove SMap.atD State.scratchCleared
  dsimp only
  rw [SMap.at?_map fun e => by split <;> rfl]
  cases s.cloves.at? k with
  | none => rfl
  | some c => simp [hk]

/-- A byte of a window reads 0 once the windows are cleared. -/
theorem State.hbmByte_clearWindows (s : State) {p a : Nat} {w : Nat × Nat} (hw : w ∈ s.windows p) (hlow : w.1 ≤ a)
    (hhigh : a < w.1 + w.2) : (s.clearWindows p).hbmByte a = 0 := by
  have hinside : (s.windows p).any (fun w => decide (w.1 ≤ a) && decide (a < w.1 + w.2)) = true :=
    List.any_eq_true.2 ⟨w, hw, by simp [hlow, hhigh]⟩
  unfold State.hbmByte SMap.atD State.clearWindows
  dsimp only
  rw [SMap.at?_filter_eq_none fun _ => by rw [hinside]; rfl]
  rfl

theorem State.flag_tierSharesCleared (s : State) {p n : Nat} (hp : p < 32) (hn : n < 16) :
    (s.tierSharesCleared p).flag .memSpillPmask 0 n p = false := by
  have hset (t : State) : (t.setFld .memSpillPmask 0 n p p 0).flag .memSpillPmask 0 n p = false := by
    rw [State.flag_setFld _ _ _ _ _ _ hp (Nat.le_refl p), if_pos ⟨Nat.le_refl p, Nat.le_refl p⟩, Nat.zero_testBit]
  refine foldl_establishes (P := fun t : State => t.flag .memSpillPmask 0 n p = false)
    (f := fun t n => State.setFld t .memSpillPmask 0 n p p 0) (List.mem_range.2 hn) hset (fun t j _ ht => ?_) s
  by_cases hjn : j = n
  · exact hjn ▸ hset t
  · have hne : Reg.memSpillPmask.addr 0 j ≠ Reg.memSpillPmask.addr 0 n := by
      simp only [Reg.addr, Reg.info]
      omega
    exact (State.flag_setFld_ne _ _ _ _ _ hne).trans ht

theorem State.tierSharesCleared_spares (s : State) (p : Nat) : Spares [] s (s.tierSharesCleared p) :=
  .foldl_mem fun t _ hn => t.setFld_spares rfl 0 p p 0 (List.mem_range.1 hn)

/-- A partition's registers, requests and rings forgotten, before its strips are asked for again. -/
def State.partForgotten (s : State) (p : Nat) : State :=
  let base := 0x20000 + p * 0x1000
  { s with
    regs := s.regs.filter (fun e => !(decide (base ≤ e.1) && decide (e.1 < base + 0x1000)))
    parts := s.parts.put p Part.fresh
    host := { s.host with
      rings := s.host.rings.filter (fun e => e.1 / 8 ≠ p), pageSeq := s.host.pageSeq.del p
      held := s.host.held.filter (fun e => e.1 ≠ p), ppages := s.host.ppages.del p, turn := s.host.turn.del p }
    srv := { s.srv with
      reqs := s.srv.reqs.filter (fun q => q.group ≠ p && q.part ≠ p), sets := s.srv.sets.filter (fun v => v.group ≠ p)
      handles := s.srv.handles.filter (fun h => h.group ≠ p), adapters := s.srv.adapters.filter (fun a => a.group ≠ p)
      routes := s.srv.routes.filter (fun e => e.1 / 256 ≠ p), groups := s.srv.groups.filter (fun e => e.1 / 256 ≠ p) } }

/-- One register of strips set back and its strips asked for again. -/
def State.stripsRenewed (s : State) (p c : Nat) (old : W32) : State :=
  (((List.range 12).foldl (fun t i => t.showStrip ((3 * p + c) * 12 + i)) s).setReg .prtPwrStrip p c old).writeStripReq p c 0xFFF

theorem State.clearPart_eq (s : State) (p : Nat) : s.clearPart p =
    (List.range 3).foldl (fun t c => t.stripsRenewed p c (((List.range 3).map (fun c => s.reg .prtPwrStrip p c)).getD c 0))
      (((s.group p).filter (· ≠ p)).foldl (fun t q => t.setFld .prtGroup q 0 4 0 q) (s.partForgotten p)) := rfl

/-- The tier entries lie outside the partitions' blocks. -/
theorem State.reg_partForgotten (s : State) {p n : Nat} (hp : p < 32) :
    (s.partForgotten p).reg .memSpillPmask 0 n = s.reg .memSpillPmask 0 n := by
  have hkeep : ∀ v : W32, (!(decide (0x20000 + p * 0x1000 ≤ Reg.memSpillPmask.addr 0 n) &&
      decide (Reg.memSpillPmask.addr 0 n < 0x20000 + p * 0x1000 + 0x1000))) = true := by
    intro _
    have hfar : ¬ Reg.memSpillPmask.addr 0 n < 0x20000 + p * 0x1000 + 0x1000 := by
      simp only [Reg.addr, Reg.info]
      omega
    rw [decide_eq_false hfar, Bool.and_false]
    rfl
  unfold State.reg SMap.atD State.partForgotten
  dsimp only
  rw [SMap.at?_filter_of_keep hkeep]

theorem State.stripsRenewed_spares (s : State) {p c : Nat} (hp : p < 32) (hc : c < 3) (old : W32) :
    Spares [.memSpillPmask] s (s.stripsRenewed p c old) := by
  have hshown : Spares [.memSpillPmask] s ((List.range 12).foldl (fun t i => t.showStrip ((3 * p + c) * 12 + i)) s) :=
    .foldl_mem fun t i _ => t.showStrip_spares (by decide) (by decide) _
  exact hshown.trans ((State.setReg_spares _ (by decide) p old hc).trans ((State.setFld_spares _ (by decide) p 11 0 _ hc).trans
    (State.writeStripReq_spares _ (by decide) (by decide) hp hc _)))

theorem State.clearPart_spares (s : State) {p : Nat} (hp : p < 32) :
    Spares [.memSpillPmask] (s.partForgotten p) (s.clearPart p) := by
  rw [State.clearPart_eq]
  refine .trans (.foldl_mem fun t q _ => t.setFld_spares (by decide) q 4 0 q (by decide)) (.foldl_mem fun t c hc => ?_)
  exact t.stripsRenewed_spares hp (List.mem_range.1 hc) _

/-- From s to u a clear of partition p has ended: its scratchpads and windows are zero, and it has no share of a tier. -/
structure PartCleared (s : State) (p : Nat) (u : State) : Prop where
  clears : u.up.clears = s.up.clears.filter (fun q => q ≠ p)
  done : u.flag .prtReset p 0 3 = true
  scratch : ∀ k, partOf (cloveX k) (cloveY k) = p → (u.clove k).scratch = []
  windows : ∀ w ∈ s.windows p, ∀ a, w.1 ≤ a → a < w.1 + w.2 → u.hbmByte a = 0
  shares : ∀ n, n < 16 → u.flag .memSpillPmask 0 n p = false

/-- What a clear has emptied stays empty to its end; its start-up record goes and DONE is shown. -/
theorem cleared_of_spares {s t r u : State} {p : Nat} (hzero : Spares [] ((s.scratchCleared p).clearWindows p) t)
    (hshare : ∀ n, n < 16 → t.flag .memSpillPmask 0 n p = false) (hp : p < 32)
    (hrest : Spares [.memSpillPmask] (t.partForgotten p) r) (hu : u = (r.clearEnded p).setFld .prtReset p 0 3 3 1) :
    PartCleared s p u := by
  have hend : Spares [.memSpillPmask] (r.clearEnded p) u := by
    rw [hu]
    exact State.setFld_spares _ (by decide) p 3 3 1 (by decide)
  have hcloves : u.cloves = (s.scratchCleared p).cloves := hend.cloves.trans (hrest.cloves.trans hzero.cloves)
  have hhbm : u.hbm = ((s.scratchCleared p).clearWindows p).hbm := hend.hbm.trans (hrest.hbm.trans hzero.hbm)
  refine ⟨?_, ?_, fun k hk => ?_, fun w hw a hlow hhigh => ?_, fun n hn => ?_⟩
  · rw [hend.up]
    exact congrArg (fun up => up.clears.filter (fun q => q ≠ p)) (hrest.up.trans hzero.up)
  · rw [hu, State.flag_setFld _ _ _ _ _ _ (by decide) (by decide), if_pos (by decide)]
    decide
  · rw [State.clove_congr hcloves]
    exact s.scratch_scratchCleared hk
  · rw [State.hbmByte_congr hhbm]
    exact State.hbmByte_clearWindows _ hw hlow hhigh
  · rw [hend.flag (by decide) 0 p hn]
    refine (hrest.flag (by decide) 0 p hn).trans ?_
    rw [State.flag, t.reg_partForgotten hp]
    exact hshare n hn

/-- When a clear is done its windows and scratchpads are zero, and it has no share of a tier (R411). -/
theorem State.cleared_spec (s : State) {p : Nat} (hp : p < 32) {u : State}
    (hu : u = (((((s.scratchCleared p).clearWindows p).tierSharesCleared p).clearPart p).clearEnded p).setFld .prtReset p 0 3 3 1) :
    PartCleared s p u :=
  cleared_of_spares (State.tierSharesCleared_spares _ p) (fun _ hn => State.flag_tierSharesCleared _ hp hn) hp
    (State.clearPart_spares _ hp) hu

end Sys2Proof.Machine

open Sys2Proof Sys2Proof.Machine

/-- Settles O54: each write reaches its register, and its order acts as the lemmas above say. -/
theorem ordersAct : Obligations.OrdersAct := by
  intro s m v
  refine ⟨fun hready hm => ?_, fun p hready => ?_, fun hready hclaim hid => ?_, fun hready hbind hfree => ?_,
    fun p c hp hc hready => ?_, fun p hp hready hnone => ⟨?_, fun hreqs houts hkv t ht => ?_⟩, fun p hp hready => ?_,
    fun hready => ⟨fun hkey => ?_, fun hkey => ?_⟩, fun hready hgo p hp => ⟨fun hfree => ?_, fun hbusy => ?_⟩,
    fun hready hgo k hk => ⟨fun hnone hstack hfree => ?_, fun hbad => ?_⟩,
    fun a b u hu _ hdoor ha hb hrank hclash => exec_messageTimeEnd_pair hu hdoor ha hb hrank hclash,
    fun p hp hclear hnone => ?_⟩
  · exact congrArg Host.Outcome.next (hready.rowWrite_eq_writeOwn.trans (s.writeOwn_eq v hm))
  · exact congrArg Host.Outcome.next ((hready.rowWrite_eq_act (by decide)).trans (s.writeCallen_eq p _ v))
  · exact ⟨s.writeNode v, congrArg Host.Outcome.next (hready.rowWrite_eq_act (by decide)), s.writeNode_claims hclaim hid⟩
  · exact ⟨s.writeMirror v, congrArg Host.Outcome.next (hready.rowWrite_eq_act (by decide)), s.writeMirror_binds hbind hfree⟩
  · have hrest := s.writeStripReq_spares (rs := [.prtPwrStrip]) (by decide) (by decide) hp hc v
    refine ⟨s.writeStripReq p c v, congrArg Host.Outcome.next (hready.rowWrite_eq_act (by decide)), ?_, hrest.cloves, ?_⟩
    · rw [hrest.fld (by decide) p 11 0 hc, State.fld_setFld_self _ _ _ _ _ (by decide) (by decide)]
      exact Nat.mod_eq_of_lt (regField_lt v 11 0)
    · rintro i d hi rfl
      obtain ⟨u, hbefore, hafter⟩ := s.writeStripReq_at hp hc hi v
      refine ⟨fun hwant hwas hoff hstart => ?_, fun hwant hwas hon => ?_⟩
      · rw [hwant, hwas] at hafter
        rw [hafter.domain]
        exact State.domain_stripAsked_on (stripNo_lt hp hc hi) (hbefore.domain ▸ hoff) (hbefore.mayStart.trans hstart)
      · rw [hwant, hwas] at hafter
        rw [hafter.domain]
        exact State.domain_stripAsked_off (stripNo_lt hp hc hi) (hbefore.domain ▸ hon)
  · exact congrArg Host.Outcome.next (hready.rowWrite_eq_act (by decide))
  · obtain ⟨hbegun, hgated, hstopped, hcloves⟩ := State.partitionReset_ends hnone hreqs houts hkv
    subst ht
    refine ⟨hbegun, fun q hq => ⟨hgated q hq, (hstopped q hq).busy, (hstopped q hq).unlocked, (hstopped q hq).rings⟩, fun k => ?_⟩
    rw [State.clove_congr hcloves]
    exact s.clove_workDropped_cases (s.lead p) k
  · exact congrArg Host.Outcome.next (hready.rowWrite_eq_act (by decide))
  · exact ⟨s.moduleReset 1, congrArg Host.Outcome.next ((hready.rowWrite_eq_act (by decide)).trans (if_pos hkey)),
      s.moduleReset_blank 1, s.moduleReset_cause 1⟩
  · exact ⟨_, congrArg Host.Outcome.next ((hready.rowWrite_eq_act (by decide)).trans (if_neg hkey)), State.log_cloves ..,
      State.log_nextSeq ..⟩
  · exact ⟨s.writeMapCtrl v, congrArg Host.Outcome.next (hready.rowWrite_eq_act (by decide)), s.writeMapCtrl_goes hgo hp hfree⟩
  · exact ⟨s.writeMapCtrl v, congrArg Host.Outcome.next (hready.rowWrite_eq_act (by decide)), s.writeMapCtrl_busy hgo hbusy⟩
  · have hheld : s.stackHeld k = false := by
      rw [← Bool.not_eq_true, s.stackHeld_iff]
      rintro ⟨q, hq, x, hx, hmeet⟩
      rw [hfree q hq x hx] at hmeet
      cases hmeet
    exact ⟨_, congrArg Host.Outcome.next ((hready.rowWrite_eq_act (by decide)).trans (s.act_epoch m _ hgo)),
      s.epochGo_store hk hnone hstack hheld rfl⟩
  · rw [← s.stackHeld_iff] at hbad
    exact ⟨_, congrArg Host.Outcome.next ((hready.rowWrite_eq_act (by decide)).trans (s.act_epoch m _ hgo)),
      s.epochGo_store_refused hk hbad rfl⟩
  · obtain ⟨hclears, hdone, hscratch, hwindows, hshares⟩ := s.cleared_spec hp rfl
    exact ⟨_, exec_zeroisingClearDone hclear hnone, hclears, hdone, hscratch, hwindows, hshares⟩
end

section
/-! SUPPORT. Read streams (R272, R275, R276): one translation, one pin, and one visit that may go on. -/
namespace Sys2Proof.Machine

/-! ### Translation and pins (R272) -/

/-- A read stream that may translate its next page: page g, for its chunk c. -/
structure MayTranslate (s : State) (p no : Nat) (st : ReadStream) (c g : Nat) : Prop where
  stream : (s.part p).streams.at? no = some st
  running : st.stopped = none
  ahead : st.ahead.length ≤ max (s.fld .prtKvCtrl p 0 13 8) 1
  walker : s.inWalk p (queueField p (planSq st.plan)) < walkDepth
  visit : ∃ n lv, s.visitOf p st st.ahead.length = .ok (some (c, n, g, lv))
  filled : s.fillWaits p st c g = false

theorem MayTranslate.translate_eq {s u : State} {p no c g : Nat} {st : ReadStream} {e : TlbEntry} (h : MayTranslate s p no st c g)
    (hwalk : s.walk p (queueField p (planSq st.plan)) st.cid st.layer g = (.ok e, u)) :
    s.translate p no = u.putStream p no { st with ahead := st.ahead ++ [⟨g, e.frame, false, false⟩] } := by
  obtain ⟨hstream, hrunning, hahead, hwalker, ⟨n, lv, hvisit⟩, hfilled⟩ := h
  have hmay : (st.stopped.isSome || decide (st.ahead.length > max (s.fld .prtKvCtrl p 0 13 8) 1) ||
      decide (s.inWalk p (queueField p (planSq st.plan)) ≥ walkDepth)) = false := by
    simp only [hrunning, Option.isSome_none, Bool.false_or, Bool.or_eq_false_iff, decide_eq_false_iff_not]
    omega
  simp only [State.translate, hstream, hmay, hvisit, hfilled, hwalk, Bool.false_eq_true, if_false]

/-- The first stream with a translation that waits for a pin of frame f has it pinned (R272, R293). -/
theorem State.pinArrives_eq {s u : State} {p f no : Nat} {st : ReadStream}
    (hwait : (s.part p).streams.find? (fun e => e.2.stopped.isNone && e.2.ahead.any (fun a => a.frame == f && !a.pinned)) =
      some (no, st))
    (hused : (s.frm p f).st ≠ 0) (hpin : s.pinFrame p f = (true, u)) :
    s.pinArrives p f =
      if (u.frm p f).st = 1 then u.putStream p no { st with ahead := pinFirst f true st.ahead }
      else (u.putStream p no { st with ahead := pinFirst f false st.ahead }).addFld
        .fldKvwStat (queueField p (planSq st.plan)) 0 31 16 1 := by
  by_cases hhere : (u.frm p f).st = 1
  · simp [State.pinArrives, hwait, hused, hpin, hhere]
  · simp [State.pinArrives, hwait, hused, hpin, hhere]

/-! ### Visits (R275, R276) -/

/-- The next visit of a stream may be delivered: its page stands ready as a, its queues and tiles fit, and it is the visit
that visitOf gives as (c, n, _, lv). -/
structure MayVisit (s : State) (p no : Nat) (st : ReadStream) (a : Ahead) (rest : List Ahead) (c n : Nat) (lv : Live) : Prop where
  stream : (s.part p).streams.at? no = some st
  running : st.stopped = none
  ahead : st.ahead = a :: rest
  ready : a.ready = true
  visit : ∃ g, s.visitOf p st 0 = .ok (some (c, n, g, lv))
  queues : s.streamQueuesOk p st = true
  fits : ∀ k ∈ pageTiles (s.l1 p st.cid).rg (planTile st.plan),
    s.transferFits p (s.tileTransfer p a.frame (planTile st.plan) k false) = true

/-- The machine and the stream before the tiles of a visit are posted: with its record, where it owes one that it can
post (R276). -/
def State.visitStart (s : State) (p : Nat) (st : ReadStream) (lv : Live) : Option (State × ReadStream) :=
  if !st.recorded && sparse st.plan then
    (s.postRecord p st (s.l1 p st.cid).rg lv).map fun r => (r.1, { st with vring := r.2, recorded := true })
  else some (s, st)

theorem State.visitStart_recorded (s : State) (p : Nat) {st : ReadStream} (lv : Live)
    (h : st.recorded = true ∨ sparse st.plan = false) : s.visitStart p st lv = some (s, st) := by
  rcases h with h | h <;> simp [State.visitStart, h]

theorem State.visitStart_posts {s t : State} {p v : Nat} {st : ReadStream} {lv : Live} (hnew : st.recorded = false)
    (hsparse : sparse st.plan = true) (hpost : s.postRecord p st (s.l1 p st.cid).rg lv = some (t, v)) :
    s.visitStart p st lv = some (t, { st with vring := v, recorded := true }) := by
  simp [State.visitStart, hnew, hsparse, hpost]

/-- A visit that has begun posts the tiles that its queue takes; the stream goes on once all are posted. -/
theorem MayVisit.visitPage_eq {s t u : State} {p no c n : Nat} {st st' w : ReadStream} {a : Ahead} {rest : List Ahead} {lv : Live}
    {tiles : List (Nat × Nat × Nat)} (h : MayVisit s p no st a rest c n lv)
    (htiles : tiles = pageTiles (s.l1 p st.cid).rg (planTile st.plan)) (hstart : s.visitStart p st lv = some (t, st'))
    (hpost : t.postTiles p no st' a.frame tiles tiles.length = (u, w)) :
    s.visitPage p no =
      if w.tile < tiles.length then u.putStream p no w
      else u.putOrEnd p no { w with chunk := c, visit := n + 1, tile := 0, recorded := false, ahead := rest } := by
  obtain ⟨hstream, hrunning, hahead, hready, ⟨g, hvisit⟩, hqueues, hfits⟩ := h
  subst htiles
  have hin : ((pageTiles (s.l1 p st.cid).rg (planTile st.plan)).any fun k =>
      !s.transferFits p (s.tileTransfer p a.frame (planTile st.plan) k false)) = false :=
    List.any_eq_false.2 fun k hk => by simp [hfits k hk]
  simp only [State.visitStart, hrunning, hahead] at hstart
  simp only [State.visitPage, hstream, hrunning, hahead, hready, hvisit, hqueues, hin, hstart, hpost, Option.isSome_none,
    Bool.not_true, Bool.false_eq_true, if_false]

end Sys2Proof.Machine
end

section
/-! SUPPORT. Appends (R278, R281): the command that begins one, a column accepted, and the end after the last. -/
namespace Sys2Proof.Machine

/-- KV_SCATTER at the front of its ring begins the append that its parameters name (R278). -/
theorem exec_kvScatter_front {s : State} {p ring : Nat} {c : Cmd} (hfront : s.frontOf p ring 0x07 = some c) :
    exec (.kvScatter p ring) s = .next ((s.waitCmd p ring c.no).beginAppend p (leAt c.params 0 2) (leAt c.params 2 1)
      (leAt c.params 3 1) (leAt c.params 4 4) (leAt c.params 8 4) (s.lead p) (some (p, ring, c.no))).settle := by
  have hexec : exec (.kvScatter p ring) s = execKvScatter p ring s := rfl
  rw [hexec, execKvScatter, hfront]

theorem State.at?_appends_putAppend_self (s : State) (p no : Nat) (a : Append) :
    ((s.putAppend p no a).part p).appends.at? no = some a := by
  simp [State.putAppend]

theorem State.settleAppend_going {s : State} {p no : Nat} {a : Append} (happend : (s.part p).appends.at? no = some a)
    (hmore : a.col ≤ a.lastCol) : s.settleAppend p no = s := by
  simp [State.settleAppend, happend, hmore]

/-- An append whose last column is accepted ends, and the command that waits for it ends with OK. -/
theorem State.settleAppend_ended {s : State} {p no : Nat} {a : Append} (happend : (s.part p).appends.at? no = some a)
    (hgood : a.failed = none) (hlast : a.lastCol < a.col) :
    (a.cmd = none → s.settleAppend p no = s.endAppend p no) ∧
    ∀ q r c, a.cmd = some (q, r, c) → s.settleAppend p no = (s.endAppend p no).endCmd q r c Status.ok.val 0 0 0 := by
  have hover : ¬ a.col ≤ a.lastCol := Nat.not_le.2 hlast
  constructor
  · intro hcmd
    simp [State.settleAppend, happend, hgood, hover, hcmd]
  · intro q r c hcmd
    simp [State.settleAppend, happend, hgood, hover, hcmd]

/-- A column whose stores have landed counts in FILL and in the length, and the append stands at its next column. -/
theorem State.columnAccepted_eq {s : State} {p no : Nat} {a : Append} (happend : (s.part p).appends.at? no = some a)
    (hgood : a.failed = none) (hmore : a.col ≤ a.lastCol) (hlanded : (s.splitOf p a.cid).cols (a.t / 16) a.col < a.landed)
    {col : Nat} (hcol : col = (s.splitOf p a.cid).nextCol (a.col + 1) (a.lastCol + 1)) :
    s.columnAccepted p no =
      (((s.acceptColumn p a).advanceLen p a col).putAppend p no { a with col := col }).settleAppend p no := by
  subst hcol
  simp [State.columnAccepted, happend, hgood, Nat.not_lt.2 hmore, Nat.not_le.2 hlanded]

end Sys2Proof.Machine

open Sys2Proof Sys2Proof.Machine

/-- Settles O29: each command is its operation on the cache, which the lemmas above give in the case at hand. -/
theorem streamsAndAppendsAdvance : Obligations.StreamsAndAppendsAdvance := by
  refine ⟨⟨?_, ?_, ?_, ?_⟩, ?_, ?_⟩
  · intro s t u p no c n g lv st e found hfind hstream hrunning hahead hwalker hvisit hfilled hwalk
    subst hfind
    have hmay : MayTranslate (s.hbmFind found) p no st c g := ⟨hstream, hrunning, hahead, hwalker, ⟨n, lv, hvisit⟩, hfilled⟩
    exact congrArg Host.Outcome.next (hmay.translate_eq hwalk)
  · intro s u p f no st hwait hused hpin
    have hpinned := State.pinArrives_eq hwait hused hpin
    exact ⟨fun hhere => congrArg Host.Outcome.next (hpinned.trans (if_pos hhere)),
      fun haway => congrArg Host.Outcome.next (hpinned.trans (if_neg haway))⟩
  · intro s p f hunpin
    exact congrArg Host.Outcome.next (if_pos (List.contains_iff_mem.2 hunpin))
  · intro s t t₁ p no c n g lv st st₁ a rest tiles found hfind hstream hrunning hahead hready hvisit hqueues htiles hfits hrecord u w
      hpost
    subst hfind
    have hmay : MayVisit (s.hbmFind found) p no st a rest c n lv :=
      ⟨hstream, hrunning, hahead, hready, ⟨g, hvisit⟩, hqueues, htiles ▸ hfits⟩
    have hstart : (s.hbmFind found).visitStart p st lv = some (t₁, st₁) := by
      rcases hrecord with ⟨hnone, rfl, rfl⟩ | ⟨hnew, hsparse, v, hposted, rfl⟩
      · exact State.visitStart_recorded _ p lv hnone
      · exact State.visitStart_posts hnew hsparse hposted
    have hpage := congrArg State.settle (hmay.visitPage_eq htiles hstart hpost)
    exact ⟨fun hmore => congrArg Host.Outcome.next (hpage.trans (congrArg State.settle (if_pos hmore))),
      fun hall => congrArg Host.Outcome.next (hpage.trans (congrArg State.settle (if_neg (Nat.not_lt.2 hall))))⟩
  · intro s p ring c hfront
    exact exec_kvScatter_front hfront
  · intro s t p no col a found hfind happend hgood hmore hlanded hcol u hu
    subst hfind
    have hcolumn := State.columnAccepted_eq happend hgood hmore hlanded hcol
    rw [← hu] at hcolumn
    have happend' : (u.part p).appends.at? no = some { a with col := col } := hu ▸ State.at?_appends_putAppend_self ..
    exact ⟨fun hleft => congrArg Host.Outcome.next (hcolumn.trans (State.settleAppend_going happend' hleft)),
      fun hlast hcmd => congrArg Host.Outcome.next (hcolumn.trans ((State.settleAppend_ended happend' hgood hlast).1 hcmd)),
      fun hlast q r c hcmd =>
        congrArg Host.Outcome.next (hcolumn.trans ((State.settleAppend_ended happend' hgood hlast).2 q r c hcmd))⟩
end

section
/-! SUPPORT. Spill and fetch of frames (R285 to R288): one frame spilled, the end of its write, a fetch and its landing. -/
namespace Sys2Proof.Machine

theorem State.storeBytes_regs (s : State) (a : Nat) (bs : List Byte) : (s.storeBytes a bs).regs = s.regs := rfl

theorem State.tlbDrop_regs (s : State) (p : Nat) (f : TlbEntry → Bool) : (s.tlbDrop p f).regs = s.regs := rfl

theorem State.putFrm_regs (s : State) (p f : Nat) (v : Frm) : (s.putFrm p f v).regs = s.regs := by
  unfold State.putFrm
  rw [State.storeBytes_regs]
  split
  · exact s.tlbDrop_regs p _
  · rfl

theorem State.slotBytes_congr {s t : State} (h : t.regs = s.regs) (p : Nat) : t.slotBytes p = s.slotBytes p := by
  unfold State.slotBytes State.fld State.reg
  rw [h]

/-! ### Spill (R285, R286, R288) -/

/-- Partition p is to spill frames: from LOW of its free slots on, until HIGH (R285). -/
def State.spillsOn (s : State) (p : Nat) : Bool :=
  (decide (s.freeSlots p * 256 < s.fld .prtKvSpill p 0 7 0 * s.slotTotal p) || (s.part p).spillOn) &&
    decide (s.freeSlots p * 256 < s.fld .prtKvSpill p 0 15 8 * s.slotTotal p)

/-- The state with whether partition p is to spill noted. -/
def State.spillNoted (s : State) (p : Nat) : State := s.modPart p fun q => { q with spillOn := s.spillsOn p }

/-- A frame's image goes to tier slot x of tier entry n, re-encoded where re says so (R286, R288). -/
def State.spillTo (s : State) (p f n x rg : Nat) (re : Bool) : State :=
  ((s.putFrm p f { s.frm p f with st := 3, tslot := x, tent := n }).modPart p fun q => { q with
    tslots := q.tslots.put (n * 2 ^ 28 + x) (if re then 2 else 0), spilling := q.spilling.put f (n * 2 ^ 28 + x) }).tierImage
      p n (x * s.slotBytes p) true (s.imageWords p f rg re)

theorem not_and_not_eq_false {a b : Bool} (h : a = true ∨ b = true) : (!a && !b) = false := by
  rcases h with rfl | rfl <;> simp

section
variable {s u : State} {p f : Nat} {waiting : Bool} (hu : u = s.spillNoted p) (hspill : s.spillsOn p = true ∨ waiting = true)
  (hnext : u.nextSpill p = some f)
include hu hspill hnext

/-- A CLEAN frame needs no tier slot (R286). -/
theorem State.spillOne_clean (hclean : (u.frm p f).clean = true) : s.spillOne p waiting = u.spillClean p f := by
  have hgo := not_and_not_eq_false hspill
  simp only [State.spillNoted, State.spillsOn] at hu hgo
  simp only [State.spillOne, hgo, ← hu, hnext, hclean, Bool.false_eq_true, if_false, if_true]

theorem State.spillOne_stores {n x cid l g rg : Nat} (hclean : (u.frm p f).clean = false)
    (htarget : u.spillTarget p = some (n, x)) (hpage : u.framePage p f = some (cid, l, g, rg)) :
    s.spillOne p waiting = u.spillTo p f n x rg ((u.frm p f).refcnt == 1 && u.mayLose p cid) := by
  have hgo := not_and_not_eq_false hspill
  have hbytes (g : Part → Part) (v : Frm) : ((u.putFrm p f v).modPart p g).slotBytes p = u.slotBytes p :=
    State.slotBytes_congr ((State.modPart_regs _ p g).trans (u.putFrm_regs p f v)) p
  simp only [State.spillNoted, State.spillsOn] at hu hgo
  simp only [State.spillOne, hgo, ← hu, hnext, hclean, htarget, hpage, hbytes, State.spillTo, Option.getD_some,
    beq_eq_decide, Bool.false_eq_true, if_false]

end

/-- A spill that ends well leaves its frame in the slower tier, CLEAN; one that fails leaves it in HBM, with its tier slot
withheld (R286, R288). -/
theorem State.spillDone_eq {s u : State} {p f key : Nat} (hgoes : (s.part p).cancelled.at? f = none)
    (hspilling : (s.part p).spilling.at? f = some key) (hu : u = s.modPart p fun q => { q with spilling := q.spilling.del f })
    (ok : Bool) :
    s.spillDone p f ok = if ok then
        (u.putFrm p f { s.frm p f with
          st := 2, clean := true, lossy := (s.frm p f).lossy || s.reEncoded p (s.frm p f).tent (s.frm p f).tslot }).dropSlot
            p (s.frm p f).hslot
      else ((u.spillFail (u.pageReq p (s.frm p f).tent ((s.frm p f).tslot * u.slotBytes p) (u.slotBytes p) true) 0).putFrm
        p f { s.frm p f with st := 1 }).modPart p fun q => { q with tslots := q.tslots.put key 1 } := by
  subst hu
  simp only [State.spillDone, hgoes, hspilling]

/-! ### Fetch (R287, R288) -/

theorem State.fetchFor_slot {s u : State} {p f i cid l g rg : Nat} (htier : (s.frm p f).st = 2)
    (hpage : s.framePage p f = some (cid, l, g, rg)) (hslot : s.allocSlot p g = (.slot i, u)) :
    (s.fetchFor p f).2 = ((u.putFrm p f { s.frm p f with st := 4, hslot := i }).takeSlot p i f).askImage
      p (s.frm p f).tent (s.frm p f).tslot rg := by
  simp [State.fetchFor, State.fetchFrame, htier, hpage, hslot]

/-- A fetch of which no read failed, of a frame that is no copy. -/
theorem State.fetchDone_lands {s : State} {p f : Nat} (data : List Byte) (ms : List Nat) (hfetching : (s.frm p f).st = 4)
    (hown : (s.part p).copies.at? f = none) :
    s.fetchDone p f data ms [] = ((s.storeWords (s.slotAddr p (s.frm p f).hslot)
      (pageWords (s.frameRg p f) (s.reEncoded p (s.frm p f).tent (s.frm p f).tslot) data ms.contains)).putFrm p f
        { s.frm p f with st := 1, clean := true }).wakeStreams p f := by
  simp only [State.fetchDone, State.putPage, hfetching, hown, ne_eq, not_true_eq_false, if_false, List.any_nil, Bool.or_false,
    List.foldl_nil, Option.map_none, Option.isNone_none]

end Sys2Proof.Machine

open Sys2Proof Sys2Proof.Machine

/-- Settles O30: each command is its operation on the frame, which the lemmas above give in the case at hand, and then what
waited goes on. -/
theorem framesSpillAndReturn : Obligations.FramesSpillAndReturn := by
  refine ⟨?_, ?_, ?_, ?_⟩
  · intro s t u p f on found hfind hon hu hspill hnext
    subst hfind hon
    have hthen {v : State} (h : (s.hbmFind found).spillOne p ((s.hbmFind found).allocWaits p) = v) :
        exec (.frameSpill ⟨p, found⟩) s = .next (v.pushAppends p).settle := h ▸ rfl
    refine ⟨fun hclean => hthen (State.spillOne_clean hu hspill hnext hclean), ?_⟩
    intro hclean n x cid l g rg re htarget hpage hre
    subst hre
    exact hthen (State.spillOne_stores hu hspill hnext hclean htarget hpage)
  · intro s u p f key hgoes hspilling hu
    have hthen {v : State} (ok : Bool) (h : s.spillDone p f ok = v) :
        exec (.frameSpillDone p f ok) s = .next (v.pushAppends p).settle := h ▸ rfl
    exact ⟨hthen true (State.spillDone_eq hgoes hspilling hu true), hthen false (State.spillDone_eq hgoes hspilling hu false)⟩
  · intro s u p f i cid l g rg htier hpage hslot
    exact congrArg Host.Outcome.next (State.fetchFor_slot htier hpage hslot)
  · intro s p f data ms hfetching hown
    exact congrArg (fun v : State => Host.Outcome.next (v.pushAppends p).settle) (State.fetchDone_lands data ms hfetching hown)
end

section
/-! SUPPORT. Commands over all: each answers a next state, and what each keeps (Keeps); records and RANGE_SAT (R422, R427, R434). -/
namespace Sys2Proof.Machine

/-- No command stops the block. -/
theorem exec_completes (c : Instr) (s : State) : Completes c s := by
  cases c <;> exact ⟨_, rfl⟩

/-- Every command keeps what Keeps lists, from a state that differs from its own in the time and the monitor key alone. -/
theorem exec_keeps_from {c : Instr} {s t : State} (h : exec c s = .next t) :
    ∃ (n : Nat) (key : BitVec 256),
      Keeps { s with up := { s.up with time := n }, flash := { s.flash with monkey := key } } t := by
  by_cases htime : ∃ os, c = .messageTimeEnd os
  · obtain ⟨os, rfl⟩ := htime
    exact ⟨_, s.flash.monkey, execMessageTimeEnd_keeps os s t h⟩
  by_cases hkey : ∃ key, c = .setMonkey key
  · obtain ⟨key, rfl⟩ := hkey
    rcases execSetMonkey_keeps key s t h with hkeeps | hkeeps
    · exact ⟨_, _, hkeeps⟩
    · exact ⟨_, _, hkeeps⟩
  exact ⟨_, _, exec_keeps h (fun os e => htime ⟨os, e⟩) fun key e => hkey ⟨key, e⟩⟩

/-! ### Records (R422, R434) -/

theorem State.log_err (s : State) (c : Code) (part h0 h1 w2 w3 : Nat) :
    (s.log c part h0 h1 w2 w3).err = (s.logRaw c.val c.cls c.persists part h0 h1 w2 w3).err := by
  unfold State.log
  cases c.alert with
  | none => rfl
  | some n => exact State.setAlert_err _ n

theorem State.reg_setAlert_ne (s : State) (n : Nat) {q : Reg} {b i : Nat} (h : Reg.errAlert.addr 0 0 ≠ q.addr b i) :
    (s.setAlert n).reg q b i = s.reg q b i := by
  unfold State.setAlert
  split
  · rfl
  · exact State.reg_setReg_ne _ _ h

theorem State.log_head (s : State) (c : Code) (part h0 h1 w2 w3 : Nat) :
    (s.log c part h0 h1 w2 w3).reg .errLogHead 0 0 = BitVec.ofNat 32 s.err.nextSeq := by
  unfold State.log
  cases c.alert with
  | none => exact State.reg_setReg_self ..
  | some n => exact (State.reg_setAlert_ne _ n (by decide)).trans (State.reg_setReg_self ..)

/-! ### RANGE_SAT (R427) -/

/-- The active request of a group that is voided stays listed, with a cause. -/
theorem State.voidReq_voids {s : State} {l : Nat} {q : Request} (h : s.active l = some q) (code cls part seq : Nat) :
    ∃ u ∈ (s.voidReq l code cls part seq).srv.reqs, u.id = q.id ∧ u.void.isSome = true := by
  have hmem : q ∈ s.srv.reqs := List.mem_of_find?_eq_some h
  have hvoid : ((if q.void.isSome then q else { q with void := some (code, cls, part, seq) }) : Request).void.isSome = true := by
    split
    · assumption
    · rfl
  refine ⟨_, ?_, ?_, hvoid⟩
  · simp only [State.voidReq, h, State.modReq]
    exact List.mem_map.2 ⟨q, hmem, if_pos rfl⟩
  · split <;> rfl

/-- A queued abort is one of its group. -/
theorem State.queueAbort_queues (s : State) (l code cls seq : Nat) (atBoundary : Bool) :
    ∃ b ∈ (s.queueAbort l code cls seq atBoundary).err.aborts, b.group = l := by
  unfold State.queueAbort
  cases hfind : s.err.aborts.find? (fun a => a.group == l) with
  | none => exact ⟨_, List.mem_append_right _ (List.mem_singleton.2 rfl), rfl⟩
  | some a =>
    have hmem := List.mem_of_find?_eq_some hfind
    have hgroup : a.group = l := by simpa using List.find?_some hfind
    dsimp only
    split
    · exact ⟨_, List.mem_map.2 ⟨a, hmem, if_pos hgroup⟩, hgroup⟩
    · exact ⟨a, hmem, hgroup⟩

theorem State.queueAbort_srv (s : State) (l code cls seq : Nat) (atBoundary : Bool) :
    (s.queueAbort l code cls seq atBoundary).srv = s.srv := by
  unfold State.queueAbort
  split
  · split <;> rfl
  · rfl

theorem State.active_congr {s t : State} (h : t.srv = s.srv) (l : Nat) : t.active l = s.active l := by
  rw [State.active, h, ← State.active]

theorem State.log_srv (s : State) (c : Code) (part h0 h1 w2 w3 : Nat) : (s.log c part h0 h1 w2 w3).srv = s.srv := by
  rw [State.log_eq]

/-- Under RANGE_VOID it is an event of class DATA: a record, and containment of the active request. -/
theorem State.rangeSat_voids {s : State} {p : Nat} {q : Request} (hp : p < 32)
    (hvoid : s.flag .prtErrPolicy (s.lead p) 0 0 = true) (hactive : s.active (s.lead p) = some q) (h0 h1 w2 w3 : Nat) :
    (∃ u ∈ (s.event .rangeSat p h0 h1 w2 w3).srv.reqs, u.id = q.id ∧ u.void.isSome = true) ∧
      ∃ b ∈ (s.event .rangeSat p h0 h1 w2 w3).err.aborts, b.group = s.lead p := by
  have hlead : (s.log .rangeSat p h0 h1 w2 w3).lead p = s.lead p :=
    congrArg (regField · 4 0) (s.reg_log_ne _ _ _ _ _ _ (by simp [Reg.addr, Reg.info]; omega) (by simp [Reg.addr, Reg.info]; omega))
  have hstill : (s.log .rangeSat p h0 h1 w2 w3).active (s.lead p) = some q := (State.active_congr (s.log_srv ..) _).trans hactive
  have hevent : s.event .rangeSat p h0 h1 w2 w3 = ((s.log .rangeSat p h0 h1 w2 w3).voidReq (s.lead p) Code.rangeSat.val 1 p
      s.err.nextSeq).queueAbort (s.lead p) Code.rangeSat.val 1 s.err.nextSeq true := by
    simp [State.event, hvoid, State.contain, Nat.not_le.2 hp, hlead, hstill, Code.cls]
  rw [hevent]
  refine ⟨?_, State.queueAbort_queues ..⟩
  rw [State.queueAbort_srv]
  exact State.voidReq_voids hstill ..

theorem State.event_nextSeq (s : State) (c : Code) (part h0 h1 w2 w3 : Nat) :
    (s.event c part h0 h1 w2 w3).err.nextSeq = s.err.nextSeq + 1 := by
  unfold State.event
  split
  · rfl
  · rw [(State.contain_abortsOnly ..)]
    exact State.log_nextSeq ..

end Sys2Proof.Machine

open Sys2Proof Sys2Proof.Machine

/-- Settles O1, by the two cases of a step. -/
theorem stepRunsFront : Obligations.StepRunsFront := by
  refine ⟨fun s c cs h => ?_, fun s h => ?_⟩
  · rw [step, h]
  · rw [step, h]

/-- Settles O2: every arm of the dispatch answers a next state, and the queue is one of the things that every command keeps. -/
theorem commandsKeepQueue : Obligations.CommandsKeepQueue := by
  intro c s
  obtain ⟨t, ht⟩ := exec_completes c s
  obtain ⟨_, _, hkeeps⟩ := exec_keeps_from ht
  exact ⟨t, ht, hkeeps.pending⟩

/-- Settles O5: the record is put into its slot, and the alert that it may set moves neither the log nor its head. -/
theorem recordTakesSeq : Obligations.RecordTakesSeq := by
  intro s c part h0 h1 w2 w3
  refine ⟨?_, s.log_nextSeq .., s.log_head .., fun n hn => ?_⟩
  · rw [s.log_err]
    exact ⟨_, SMap.at?_put_self .., rfl, rfl, rfl, rfl⟩
  · rw [s.log_err]
    exact SMap.at?_put_ne _ _ hn.symm

/-- Settles O6: MESSAGE_TIME_END keeps the time that it has just advanced, and every other command keeps the time. -/
theorem timeMoves : Obligations.TimeMoves := by
  refine ⟨fun c s t hc h => ?_, fun os s => ?_⟩
  · by_cases hkey : ∃ key, c = .setMonkey key
    · obtain ⟨key, rfl⟩ := hkey
      rcases execSetMonkey_keeps key s t h with hkeeps | hkeeps
      · exact hkeeps.time
      · exact hkeeps.time
    · exact (exec_keeps h hc fun key e => hkey ⟨key, e⟩).time
  · obtain ⟨t, ht⟩ := exec_completes (.messageTimeEnd os) s
    exact ⟨t, ht, (execMessageTimeEnd_keeps os s t ht).time⟩

/-- Settles O7: each part of the history is one that every command keeps or adds to. -/
theorem historyIsKept : Obligations.HistoryIsKept := by
  refine ⟨fun c s t h => ?_, fun c s t h => ?_, fun c s t hc h => ?_, fun c s t h => ?_⟩
  · obtain ⟨_, _, hkeeps⟩ := exec_keeps_from h
    exact hkeeps.seq
  · obtain ⟨_, _, hkeeps⟩ := exec_keeps_from h
    exact hkeeps.starts
  · by_cases htime : ∃ os, c = .messageTimeEnd os
    · obtain ⟨os, rfl⟩ := htime
      exact (execMessageTimeEnd_keeps os s t h).monkey
    · exact (exec_keeps h (fun os e => htime ⟨os, e⟩) hc).monkey
  · obtain ⟨_, _, hkeeps⟩ := exec_keeps_from h
    exact ⟨hkeeps.out, hkeeps.asked, hkeeps.tx, hkeeps.rep, hkeeps.uart, hkeeps.arp⟩

/-- Settles O60: the event is contained as one of class DATA where RANGE_VOID is set, and is a record alone where it is clear. -/
theorem rangeSatFollowsPolicy : Obligations.RangeSatFollowsPolicy := by
  rintro s t p h0 h1 w2 w3 hp rfl
  refine ⟨s.event_nextSeq .., fun hvoid q hactive => s.rangeSat_voids hp hvoid hactive .., fun hclear => ?_⟩
  have hevent : s.event .rangeSat p h0 h1 w2 w3 = s.logRaw Code.rangeSat.val 0 false p h0 h1 w2 w3 := by
    simp [State.event, hp, hclear]
  rw [hevent]
  exact ⟨rfl, rfl, _, SMap.at?_put_self .., rfl⟩
end

section
/-! SUPPORT. The host's rings: a ring changed and read (R329, R330), descriptors and packets fetched (R331, R335, R337), and
answers (R332, R334). -/
namespace Sys2Proof.Machine

/-! ### A ring changed -/

theorem State.reg_congr {s t : State} (h : t.regs = s.regs) (r : Reg) (b i : Nat) : t.reg r b i = s.reg r b i := by
  rw [State.reg, h, ← State.reg]

theorem State.fld_congr {s t : State} (h : t.regs = s.regs) (r : Reg) (b i hi lo : Nat) : t.fld r b i hi lo = s.fld r b i hi lo := by
  rw [State.fld, State.reg_congr h, ← State.fld]

theorem State.flag_congr {s t : State} (h : t.regs = s.regs) (r : Reg) (b i n : Nat) : t.flag r b i n = s.flag r b i n := by
  rw [State.flag, State.reg_congr h, ← State.flag]

@[simp] theorem State.modRing_regs (s : State) (p r : Nat) (f : Ring → Ring) : (s.modRing p r f).regs = s.regs := rfl

@[simp] theorem State.ring_modRing_self (s : State) (p r : Nat) (f : Ring → Ring) : (s.modRing p r f).ring p r = f (s.ring p r) := by
  simp [State.ring, State.modRing]

theorem State.ring_congr {s t : State} (h : t.host.rings = s.host.rings) (p r : Nat) : t.ring p r = s.ring p r := by
  rw [State.ring, h, ← State.ring]

/-- A next payload read asks the host at most, which changes no ring and no register. -/
theorem State.nextPayRead_keeps_rings (s : State) (p r : Nat) :
    (s.nextPayRead p r).host.rings = s.host.rings ∧ (s.nextPayRead p r).regs = s.regs := by
  unfold State.nextPayRead
  split
  · exact ⟨rfl, rfl⟩
  · split
    · exact ⟨rfl, rfl⟩
    · extract_lets ask
      split
      · exact ⟨rfl, rfl⟩
      · split <;> exact ⟨rfl, rfl⟩

/-! ### Fetches (R331, R335, R337) -/

theorem State.fetchNext_asks {s : State} {p r : Nat} (hin : s.partOut p = false) (hgate : s.gated p = false)
    (hopen : s.attachOpen (s.ownerOf p) = true) (hroom : s.cmdRoom p = true) (hepoch : s.epochHolds p = false)
    (hturn : ((List.range 8).map (fun i => (s.host.turn.atD p 0 + i) % 8)).find? (s.mayFetch p) = some r) :
    s.fetchNext p = ({ s with host := { s.host with turn := s.host.turn.put p ((r + 1) % 8) } } : State).askHost
      ⟨p, r, .descriptor, s.sqBase p r + 64 * s.sqHead p r, 64, []⟩ := by
  simp only [State.fetchNext, hin, hgate, hopen, hroom, hepoch, Bool.not_true, Bool.or_false, Bool.false_eq_true, if_false, hturn]
  rfl

/-- The command that a good descriptor and packet without a payload make. -/
def Cmd.unpaid (no door : Nat) (desc pkt : List Byte) : Cmd :=
  ⟨no, door, BitVec.ofNat 32 (leAt desc 4 4), (desc.getD 0 0).getLsbD 0, pkt, 0, 0, leAt desc 16 8, [], [], some .good, [], false, true,
    none, false⟩

/-- Such a command has all of its payload at once, and joins its ring; the head moves on by one. -/
theorem State.fetched_joins {s : State} {p r : Nat} {desc pkt : List Byte} (hdesc : descOk desc = true)
    (hpkt : packetOk pkt 0 = true) (hlen : leAt desc 24 4 = 0) (hsegs : leAt desc 28 4 = 0) (hsize : s.sqN p r ≤ 65536) :
    ((s.fetched p r desc pkt).ring p r).cmds =
      (s.ring p r).cmds ++ [.unpaid s.host.doorNo ((s.ring p r).doors.headD (0, 0)).2 desc pkt] ∧
    (s.fetched p r desc pkt).sqHead p r = (s.sqHead p r + 1) % s.sqN p r := by
  have happly : (Reg.prtSrvStat).addr p 0 ≠ Reg.prtSqCfg.addr p r := by
    simp only [Reg.addr, Reg.info]
    omega
  unfold State.fetched
  extract_lets n k ok no h u c v w x
  have hok : ok = true := by simp only [ok, n, hdesc, hlen, hpkt, Bool.and_self]
  have hc : c.settlePay = .unpaid s.host.doorNo ((s.ring p r).doors.headD (0, 0)).2 desc pkt := by
    simp only [c, no, n, k, hok, hlen, hsegs]
    rfl
  rw [if_pos hok]
  obtain ⟨hrings, hregs⟩ := x.nextPayRead_keeps_rings p r
  constructor
  · rw [State.ring_congr hrings, State.ring_modRing_self, hc]
    rfl
  · calc (x.nextPayRead p r).sqHead p r
        = x.fld .prtSqCfg p r 31 16 := State.fld_congr hregs ..
      _ = w.fld .prtSqCfg p r 31 16 := State.fld_congr (State.modRing_regs ..) ..
      _ = v.fld .prtSqCfg p r 31 16 := State.fld_setFld_ne _ _ _ _ _ _ happly
      _ = (s.sqHead p r + 1) % s.sqN p r % 2 ^ (31 + 1 - 16) := State.fld_setFld_self _ _ _ _ _ (by decide) (by decide)
      _ = (s.sqHead p r + 1) % s.sqN p r := Nat.mod_eq_of_lt (lt_of_lt_of_le (Nat.mod_lt _ (Nat.two_pow_pos _)) hsize)

/-- A read of a descriptor or a packet that does not come stops its ring and keeps the head. -/
theorem State.fetchFailed_stops (s : State) (p r : Nat) (desc : List Byte) :
    (s.fetchFailed p r desc).flag .prtSqCfg p r 8 = false ∧ (s.fetchFailed p r desc).flag .prtSqCfg p r 9 = true ∧
    (s.fetchFailed p r desc).sqHead p r = s.sqHead p r ∧ (s.fetchFailed p r desc).host.asked = s.host.asked ∧
    (s.fetchFailed p r desc).host.out = s.host.out := by
  unfold State.fetchFailed State.makeRec
  extract_lets
  refine ⟨?_, ?_, ?_, rfl, rfl⟩
  · simp [State.flag_setFld]
  · simp [State.flag_setFld]
  · unfold State.sqHead
    rw [State.fld_setFld_apart _ _ _ _ _ (by decide) (by decide) (by decide) (by decide),
      State.fld_setFld_apart _ _ _ _ _ (by decide) (by decide) (by decide) (by decide)]
    rfl

/-! ### Answers (R332, R334) -/

/-- The ring whose command of a number has been answered, before the answered ones at its front leave. -/
def Ring.answered (g : Ring) (no : Nat) (q : Rec) : Ring :=
  { g with cmds := g.cmds.map (fun d => if d.no = no then { d with answer := some q } else d) }

theorem Ring.mem_advance {g : Ring} {d : Cmd} (h : d ∈ g.advance.cmds) : d ∈ g.cmds := List.dropWhile_sublist _ |>.subset h

/-- No command of the number is left unanswered. -/
theorem Ring.answer_of_mem_answered {g : Ring} {no : Nat} {q : Rec} {d : Cmd} (h : d ∈ (g.answered no q).cmds) (hno : d.no = no) :
    d.answer = some q := by
  obtain ⟨c, -, rfl⟩ := List.mem_map.1 h
  by_cases hc : c.no = no
  · rw [if_pos hc]
  · rw [if_neg hc] at hno
    exact absurd hno hc

/-- The oldest command leaves with its record, where the next one is not yet answered. -/
theorem Ring.advance_answered {g : Ring} {c : Cmd} {cs : List Cmd} (q : Rec) (hcmds : g.cmds = c :: cs) (hno : ∀ d ∈ cs, d.no ≠ c.no)
    (hnext : ∀ d ∈ cs.head?, d.answer = none) :
    (g.answered c.no q).advance.cmds = cs ∧ (g.answered c.no q).advance.recs = g.recs ++ [q] := by
  have hothers : (g.answered c.no q).cmds = { c with answer := some q } :: cs := by
    rw [Ring.answered, hcmds, List.map_cons, if_pos rfl, List.map_congr_left fun d hd => if_neg (hno d hd), List.map_id']
  have hstays : cs.takeWhile (fun d => d.answer.isSome) = [] ∧ cs.dropWhile (fun d => d.answer.isSome) = cs := by
    cases cs with
    | nil => exact ⟨rfl, rfl⟩
    | cons d ds => simp [hnext d rfl]
  unfold Ring.advance
  rw [hothers, List.takeWhile_cons_of_pos rfl, List.dropWhile_cons_of_pos rfl, hstays.1, hstays.2]
  exact ⟨rfl, rfl⟩

/-- An answer puts its record on the command of its number, where one is unanswered, and the answered ones at the front
leave. -/
theorem State.answer_ring {s : State} {p r : Nat} {c d : Cmd} (st : Status) (id res : Nat)
    (hfind : (s.ring p r).cmds.find? (fun x => x.no == c.no && x.answer.isNone) = some d) :
    ∃ q, (s.answer p r c st id res).ring p r = ((s.ring p r).answered c.no q).advance ∧ q.tag = d.tag ∧ q.status = st.val ∧
      q.kind = 0 ∧ q.reqid = id % 2 ^ 32 ∧ q.result = res % 2 ^ 64 := by
  unfold State.answer State.endCmd
  rw [hfind]
  exact ⟨_, State.ring_modRing_self .., rfl, rfl, rfl, rfl, rfl⟩

end Sys2Proof.Machine

open Sys2Proof Sys2Proof.Machine

/-- Settles O31: a fetch asks the host once; each read that ends is taken by its kind, and one that fails stops its ring. -/
theorem descriptorsAreFetched : Obligations.DescriptorsAreFetched := by
  refine ⟨fun s p r hin hgate hopen hroom hepoch hturn => ?_, fun s tag q data hread => ⟨fun hkind => ?_, ?_, fun hfetch => ?_⟩⟩
  · exact congrArg Host.Outcome.next (State.fetchNext_asks hin hgate hopen hroom hepoch hturn)
  · refine ⟨_, rfl, ?_⟩
    simp only [State.hostAnswer, hread, hkind]
    rfl
  · intro hkind hwhole hdesc hpkt hlen hsegs hsize
    have hanswer : s.hostAnswer tag .good data = ({ s with host := { s.host with reads := s.host.reads.del tag } } : State).fetched
        q.part q.ring (q.desc.take 64) (q.desc.drop 64 ++ padTo q.len data) := by
      simp [State.hostAnswer, hread, hkind, hwhole]
    obtain ⟨hcmds, hhead⟩ := State.fetched_joins
      (s := ({ s with host := { s.host with reads := s.host.reads.del tag } } : State)) hdesc hpkt hlen hsegs hsize
    exact ⟨_, _, congrArg Host.Outcome.next hanswer, hcmds, rfl, rfl, rfl, rfl, rfl, hhead⟩
  · obtain ⟨desc, hanswer⟩ : ∃ desc, s.hostAnswer tag .timeout [] =
        ({ s with host := { s.host with reads := s.host.reads.del tag } } : State).fetchFailed q.part q.ring desc := by
      cases hkind : q.kind with
      | descriptor => exact ⟨[], by simp [State.hostAnswer, hread, hkind]⟩
      | packet => exact ⟨q.desc.take 64, by simp [State.hostAnswer, hread, hkind]⟩
      | list => simp [hkind, ReadKind.fetch] at hfetch
      | payload => simp [hkind, ReadKind.fetch] at hfetch
    exact ⟨_, congrArg Host.Outcome.next hanswer, State.fetchFailed_stops ..⟩

/-- Settles O33: the record stands on every command of the number, and the oldest command is the only one that leaves. -/
theorem answerEndsCommand : Obligations.AnswerEndsCommand := by
  intro s p r c st id res
  refine ⟨fun d hd hno => ?_, fun cs hcmds hopen hno hnext => ?_⟩
  · cases hfind : (s.ring p r).cmds.find? (fun x => x.no == c.no && x.answer.isNone) with
    | none =>
      have hsame : s.answer p r c st id res = s := by
        unfold State.answer State.endCmd
        rw [hfind]
      rw [hsame] at hd
      simpa [hno, Option.ne_none_iff_isSome] using List.find?_eq_none.1 hfind d hd
    | some x =>
      obtain ⟨q, hring, -⟩ := State.answer_ring st id res hfind
      rw [hring] at hd
      rw [Ring.answer_of_mem_answered (Ring.mem_advance hd) hno]
      exact Option.some_ne_none q
  · have hfind : (s.ring p r).cmds.find? (fun x => x.no == c.no && x.answer.isNone) = some c := by
      rw [hcmds]
      exact List.find?_cons_of_pos (by simp [hopen])
    obtain ⟨q, hring, hrec⟩ := State.answer_ring st id res hfind
    obtain ⟨hleft, hrecs⟩ := Ring.advance_answered q hcmds hno hnext
    rw [hring]
    exact ⟨q, hleft, hrecs, hrec⟩
end

section
/-! SUPPORT. Doorbells (R330), records written and the vectors that they raise (R333). -/
namespace Sys2Proof.Machine

/-! ### Doorbells (R330) -/

theorem State.doorbellWrite_eq {s : State} {m : Master} {b : Bool} {p r : Nat} (hm : attachOf m = some b)
    (hopen : s.attachOpen b = true) (hp : p < 32) (hr : r < 8) (hready : s.ready = true) (hclear : s.up.newOwner.at? p = none)
    (cq : Bool) (v : W32) : s.doorbellWrite m p r cq v = s.doorbell b p r cq v := by
  simp [State.doorbellWrite, hm, hopen, Nat.not_le.2 hp, Nat.not_le.2 hr, hready, hclear]

theorem State.doorbell_tail {s : State} {b : Bool} {p r : Nat} {v : W32} (howner : s.ownerOf p = b) (hon : s.sqOn p r = true)
    (hin : v.toNat % 65536 < s.sqN p r) : s.doorbell b p r false v = s.postTail p r (v.toNat % 65536) := by
  simp [State.doorbell, howner, hon, hin]

theorem State.doorbell_head {s : State} {b : Bool} {p r : Nat} {v : W32} (howner : s.ownerOf p = b) (hon : s.cqOn p r = true)
    (hin : v.toNat % 65536 < s.cqN p r) :
    s.doorbell b p r true v = s.modRing p r fun g => { g with cqHead := v.toNat % 65536 } := by
  simp [State.doorbell, howner, hon, hin]

/-- A posted tail is noted with the doors of its descriptors, in its ring alone. -/
theorem State.postTail_spec (s : State) (p r v : Nat) :
    ((s.postTail p r v).ring p r).tail = v ∧ s.postTail p r v = { s with host := (s.postTail p r v).host } ∧
    ((s.postTail p r v).ring p r).cmds = (s.ring p r).cmds ∧ ((s.postTail p r v).ring p r).recs = (s.ring p r).recs := by
  unfold State.postTail
  extract_lets old u new d h w
  have hring : w.ring p r = { s.ring p r with tail := v } :=
    (State.ring_congr (s := u) rfl p r).trans (s.ring_modRing_self p r _)
  rw [State.ring_modRing_self, hring]
  exact ⟨rfl, rfl, rfl, rfl⟩

/-! ### Vectors (R333) -/

/-- A write of the ring's partition leaves at once. -/
structure Writes (s : State) (p : Nat) : Prop where
  opened : s.attachOpen (s.ownerOf p) = true
  free : s.gated p = false
  first : s.host.held.any (fun e => e.1 == p) = false

theorem Writes.congr {s t : State} {p : Nat} (h : Writes s p) (hheld : t.host.held = s.host.held) (hd3 : t.host.d3 = s.host.d3)
    (hregs : ∀ q ∈ [Reg.hifOwn, .hifLink, .errGate], ∀ i ≤ 1, t.reg q 0 i = s.reg q 0 i) : Writes t p := by
  have howner : t.ownerOf p = s.ownerOf p := congrArg (fun w : W32 => w.getLsbD p) (hregs .hifOwn (by simp) 0 zero_le_one)
  have hgate : t.gated p = s.gated p := congrArg (fun w : W32 => w.getLsbD p) (hregs .errGate (by simp) 0 zero_le_one)
  have hopen (b : Bool) : t.attachOpen b = s.attachOpen b := by
    have hlink : t.fld .hifLink 0 (b2n b) 2 0 = s.fld .hifLink 0 (b2n b) 2 0 :=
      congrArg (regField · 2 0) (hregs .hifLink (by simp) _ (by cases b <;> decide))
    rw [State.attachOpen, hlink, hd3, ← State.attachOpen]
  obtain ⟨hs, hfree, hfirst⟩ := h
  exact ⟨by rw [howner, hopen, hs], hgate.trans hfree, by rw [hheld, hfirst]⟩

theorem Writes.hostWrite {s : State} {p : Nat} (h : Writes s p) {w : HostWrite} (hattach : w.attach = s.ownerOf p) :
    s.hostWrite p w = { s with host := { s.host with out := s.host.out ++ [w] } } := by
  obtain ⟨hopen, hfree, hfirst⟩ := h
  simp [State.hostWrite, State.mayWrite, hattach, hopen, hfree, hfirst]

/-- The vector of a ring. -/
def State.vector (s : State) (p r : Nat) : HostWrite := .msix (s.ownerOf p) (s.fld .prtCqCfg p r 23 16)

theorem Writes.interrupt_held {s : State} {p r : Nat} (hheld : (s.ring p r).holdoff = true) :
    s.interrupt p r = s.modRing p r fun g => { g with irqDue := true } := if_pos hheld

theorem Writes.interrupt_sent {s : State} {p r : Nat} (h : Writes s p) (hfree : (s.ring p r).holdoff = false) :
    s.interrupt p r = ({ s with host := { s.host with out := s.host.out ++ [s.vector p r] } } : State).modRing p r
      fun g => { g with holdoff := decide (s.fld .prtCqCfg p r 31 24 ≠ 0) } := by
  unfold State.interrupt
  rw [if_neg (by simp [hfree]), h.hostWrite rfl]
  rfl

/-- An interrupt leaves the commands, the records and the registers, and sends the vector where no holdoff runs. -/
theorem Writes.interrupt_spec {s : State} {p : Nat} (h : Writes s p) (r : Nat) :
    ((s.interrupt p r).ring p r).cmds = (s.ring p r).cmds ∧ ((s.interrupt p r).ring p r).recs = (s.ring p r).recs ∧
    (s.interrupt p r).regs = s.regs ∧
    (s.interrupt p r).host.out = s.host.out ++ (if (s.ring p r).holdoff = false then [s.vector p r] else []) := by
  cases hheld : (s.ring p r).holdoff with
  | true =>
    rw [Writes.interrupt_held hheld, State.ring_modRing_self]
    exact ⟨rfl, rfl, rfl, (List.append_nil _).symm⟩
  | false =>
    rw [h.interrupt_sent hheld, State.ring_modRing_self]
    exact ⟨rfl, rfl, rfl, rfl⟩

/-! ### Records (R332, R333) -/

/-- The registers of a ring of n entries and its partition once a record has been written at tail t: the tail moves on, PHASE
changes where it wraps, and a counted command is no longer in flight. -/
def State.tailMoved (s : State) (p r t n : Nat) (phase counted : Bool) : State :=
  let s := s.setFld .prtCqTail p r 15 0 ((t + 1) % n)
  let s := if (t + 1) % n = 0 then s.setFld .prtCqTail p r 16 16 (b2n (!phase)) else s
  if counted then s.setFld .prtSrvStat p 0 30 16 (s.cmdsUsed p - 1) else s

section
variable (s : State) (p r t n : Nat) (phase counted : Bool)

theorem State.tailMoved_host : (s.tailMoved p r t n phase counted).host = s.host := by
  unfold State.tailMoved
  extract_lets u v
  have hv : v.host = s.host := by
    simp only [v]
    split <;> rfl
  split
  · exact hv
  · exact hv

theorem State.reg_tailMoved_ne {x : Reg} {b i : Nat} (htail : Reg.prtCqTail.addr p r ≠ x.addr b i)
    (hstat : Reg.prtSrvStat.addr p 0 ≠ x.addr b i) : (s.tailMoved p r t n phase counted).reg x b i = s.reg x b i := by
  unfold State.tailMoved
  extract_lets u v
  have hu : u.reg x b i = s.reg x b i := State.reg_setReg_ne _ _ htail
  have hv : v.reg x b i = s.reg x b i := by
    simp only [v]
    split
    · exact (State.reg_setReg_ne _ _ htail).trans hu
    · exact hu
  split
  · exact (State.reg_setReg_ne _ _ hstat).trans hv
  · exact hv

theorem State.tailMoved_tail (hpos : 0 < n) (hsize : n ≤ 65536) (hphase : s.flag .prtCqTail p r 16 = phase) :
    (s.tailMoved p r t n phase counted).fld .prtCqTail p r 15 0 = (t + 1) % n ∧
    (s.tailMoved p r t n phase counted).flag .prtCqTail p r 16 = (phase != decide ((t + 1) % n = 0)) := by
  have hstat : Reg.prtSrvStat.addr p 0 ≠ Reg.prtCqTail.addr p r := by
    simp only [Reg.addr, Reg.info]
    omega
  unfold State.tailMoved
  extract_lets u v
  have hlt : (t + 1) % n < 2 ^ (15 + 1 - 0) := lt_of_lt_of_le (Nat.mod_lt _ hpos) hsize
  have htail : u.fld .prtCqTail p r 15 0 = (t + 1) % n :=
    (State.fld_setFld_self _ _ _ _ _ (by decide) (by decide)).trans (Nat.mod_eq_of_lt hlt)
  have hsame : u.flag .prtCqTail p r 16 = phase := (State.flag_setFld _ _ _ _ _ _ (by decide) (by decide)).trans hphase
  have hv : v.fld .prtCqTail p r 15 0 = (t + 1) % n ∧ v.flag .prtCqTail p r 16 = (phase != decide ((t + 1) % n = 0)) := by
    by_cases hwrap : (t + 1) % n = 0
    · simp only [v, if_pos hwrap]
      rw [State.fld_setFld_apart _ _ _ _ _ (by decide) (by decide) (by decide) (by decide),
        State.flag_setFld _ _ _ _ _ _ (by decide) (by decide), htail]
      cases phase <;> simp [hwrap, b2n]
    · simp only [v, if_neg hwrap]
      exact ⟨htail, by simp [hsame, hwrap]⟩
  split
  · rw [State.fld_setFld_ne _ _ _ _ _ _ hstat, State.flag_setFld_ne _ _ _ _ _ hstat]
    exact hv
  · exact hv

end

/-- The oldest record has left its ring, and its bytes are on their way to the completion tail (R333). -/
def State.recordSent (s : State) (p r : Nat) (q : Rec) : State :=
  let u := s.modRing p r fun g => { g with recs := g.recs.erase q }
  { u with host := { u.host with out := u.host.out ++
    [.record (s.ownerOf p) (s.cqBase p r + 32 * s.fld .prtCqTail p r 15 0) r p
      (q.bytes r (s.sqHead p r) (s.flag .prtCqTail p r 16))] } }

/-- The same, with the tail moved on. -/
def State.recordDone (s : State) (p r : Nat) (q : Rec) : State :=
  (s.recordSent p r q).tailMoved p r (s.fld .prtCqTail p r 15 0) (s.cqN p r) (s.flag .prtCqTail p r 16) q.counted

/-- A record that may be written is done, and the vector follows where it is asked for. -/
theorem Writes.putRecord_eq {s : State} {p : Nat} (h : Writes s p) (r : Nat) (q : Rec) :
    s.putRecord p r q = if q.kind = 1 ∨ q.irq = true then (s.recordDone p r q).interrupt p r else s.recordDone p r q := by
  have hw : Writes (s.modRing p r fun g => { g with recs := g.recs.erase q }) p := h.congr rfl rfl fun _ _ _ _ => rfl
  have hsent := hw.hostWrite (w := .record (s.ownerOf p) (s.cqBase p r + 32 * s.fld .prtCqTail p r 15 0) r p
    (q.bytes r (s.sqHead p r) (s.flag .prtCqTail p r 16))) rfl
  exact congrArg (fun v : State =>
    let w := v.tailMoved p r (s.fld .prtCqTail p r 15 0) (s.cqN p r) (s.flag .prtCqTail p r 16) q.counted
    if q.kind = 1 ∨ q.irq = true then w.interrupt p r else w) hsent

theorem State.recordDone_host (s : State) (p r : Nat) (q : Rec) : (s.recordDone p r q).host = (s.recordSent p r q).host :=
  State.tailMoved_host ..

theorem State.reg_recordDone_ne (s : State) {p r : Nat} (q : Rec) {x : Reg} {b i : Nat} (htail : Reg.prtCqTail.addr p r ≠ x.addr b i)
    (hstat : Reg.prtSrvStat.addr p 0 ≠ x.addr b i) : (s.recordDone p r q).reg x b i = s.reg x b i :=
  State.reg_tailMoved_ne _ _ _ _ _ _ _ htail hstat

/-- A record done leaves what lets its partition write, and the ring's vector. -/
theorem Writes.recordDone {s : State} {p : Nat} (h : Writes s p) (r : Nat) (q : Rec) :
    Writes (s.recordDone p r q) p ∧ (s.recordDone p r q).vector p r = s.vector p r := by
  have hhost := s.recordDone_host p r q
  have howner : (s.recordDone p r q).reg .hifOwn 0 0 = s.reg .hifOwn 0 0 :=
    s.reg_recordDone_ne q (by simp only [Reg.addr, Reg.info]; omega) (by simp only [Reg.addr, Reg.info]; omega)
  have hcfg : (s.recordDone p r q).reg .prtCqCfg p r = s.reg .prtCqCfg p r :=
    s.reg_recordDone_ne q (by simp only [Reg.addr, Reg.info]; omega) (by simp only [Reg.addr, Reg.info]; omega)
  refine ⟨h.congr (congrArg HostIf.held hhost :) (congrArg HostIf.d3 hhost :) fun x hx i hi => ?_, ?_⟩
  · have hplace : x.addr 0 i < 0x20000 ∨ x.addr 0 i % 32 = 0 ∨ x.addr 0 i % 32 = 4 := by
      fin_cases hx <;> simp only [Reg.addr, Reg.info] <;> omega
    exact s.reg_recordDone_ne q (by simp only [Reg.addr, Reg.info] at hplace ⊢; omega)
      (by simp only [Reg.addr, Reg.info] at hplace ⊢; omega)
  · simp only [State.vector, State.ownerOf, State.flag, State.fld, howner, hcfg]

/-- What a ring's oldest record leaves once it has been written. -/
theorem Writes.putRecord_spec {s : State} {p r : Nat} (h : Writes s p) {q : Rec} {qs : List Rec}
    (hrecs : (s.ring p r).recs = q :: qs) (hsize : s.cqN p r ≤ 65536) :
    ((s.putRecord p r q).ring p r).recs = qs ∧ ((s.putRecord p r q).ring p r).cmds = (s.ring p r).cmds ∧
    (s.putRecord p r q).host.out = s.host.out ++
      (.record (s.ownerOf p) (s.cqBase p r + 32 * s.fld .prtCqTail p r 15 0) r p
          (q.bytes r (s.sqHead p r) (s.flag .prtCqTail p r 16)) ::
        (if (q.kind = 1 ∨ q.irq = true) ∧ (s.ring p r).holdoff = false then [s.vector p r] else [])) ∧
    (s.putRecord p r q).fld .prtCqTail p r 15 0 = (s.fld .prtCqTail p r 15 0 + 1) % s.cqN p r ∧
    (s.putRecord p r q).flag .prtCqTail p r 16 =
      (s.flag .prtCqTail p r 16 != decide ((s.fld .prtCqTail p r 15 0 + 1) % s.cqN p r = 0)) := by
  have hring : (s.recordDone p r q).ring p r = { s.ring p r with recs := qs } := by
    have hsent : (s.recordSent p r q).ring p r = { s.ring p r with recs := (s.ring p r).recs.erase q } :=
      s.ring_modRing_self p r fun g => { g with recs := g.recs.erase q }
    rw [State.ring_congr (congrArg HostIf.rings (s.recordDone_host p r q)), hsent, hrecs, List.erase_cons_head]
  have hout : (s.recordDone p r q).host.out = s.host.out ++
      [.record (s.ownerOf p) (s.cqBase p r + 32 * s.fld .prtCqTail p r 15 0) r p
        (q.bytes r (s.sqHead p r) (s.flag .prtCqTail p r 16))] := congrArg HostIf.out (s.recordDone_host p r q)
  have htail := (s.recordSent p r q).tailMoved_tail p r (s.fld .prtCqTail p r 15 0) (s.cqN p r) (s.flag .prtCqTail p r 16) q.counted
    (Nat.two_pow_pos _) hsize rfl
  obtain ⟨hdone, hvector⟩ := h.recordDone r q
  rw [h.putRecord_eq]
  split
  next hasked =>
    obtain ⟨hcmds, hleft, hregs, hsends⟩ := hdone.interrupt_spec r
    rw [hcmds, hleft, hsends, hout, hvector, State.fld_congr hregs, State.flag_congr hregs, hring]
    simp only [hasked, true_and, List.append_assoc, List.singleton_append]
    exact htail
  next hasked =>
    rw [hout, hring]
    simp only [hasked, false_and, if_false]
    exact ⟨trivial, trivial, trivial, htail⟩

end Sys2Proof.Machine

open Sys2Proof Sys2Proof.Machine

/-- Settles O32: a doorbell posts one index; a record that may be written is done, and its vector is sent or held; the end of a
holdoff is that of one interrupt. -/
theorem doorbellsAndRecords : Obligations.DoorbellsAndRecords := by
  refine ⟨?_, ?_, ?_⟩
  · intro s m b p r v hm hopen hp hr hready hclear howner
    have hexec (cq : Bool) := State.doorbellWrite_eq hm hopen hp hr hready hclear cq v
    refine ⟨fun hon hin => ?_, fun hon hin => ?_⟩
    · exact ⟨_, congrArg Host.Outcome.next ((hexec false).trans (State.doorbell_tail howner hon hin)), s.postTail_spec p r _⟩
    · exact congrArg Host.Outcome.next ((hexec true).trans (State.doorbell_head howner hon hin))
  · intro s p r q qs hrecs hmay hsize
    have hexec : s.writeRecord p r = s.putRecord p r q := by simp only [State.writeRecord, hrecs, hmay, if_true]
    simp only [State.mayRecord, Bool.and_eq_true, Bool.not_eq_true'] at hmay
    obtain ⟨⟨⟨-, hopen⟩, hfree⟩, hfirst⟩ := hmay
    obtain ⟨hleft, hcmds, hout, htail⟩ := Writes.putRecord_spec ⟨hopen, hfree, hfirst⟩ hrecs hsize
    exact ⟨_, congrArg Host.Outcome.next hexec, hleft, hcmds, hout, htail⟩
  · intro s p r hheld hopen hfree hfirst
    have hw : Writes (s.modRing p r fun g => { g with holdoff := false, irqDue := false }) p :=
      Writes.congr ⟨hopen, hfree, hfirst⟩ rfl rfl fun _ _ _ _ => rfl
    have hring := s.ring_modRing_self p r fun g => { g with holdoff := false, irqDue := false }
    cases hdue : (s.ring p r).irqDue with
    | false =>
      refine ⟨_, congrArg Host.Outcome.next (?_ : _ = s.modRing p r fun g => { g with holdoff := false, irqDue := false }), ?_, ?_, ?_⟩
      · simp [hheld, hdue]
      · rw [hring]
      · simp
        rfl
      · rw [hring]
        rfl
    | true =>
      refine ⟨_, congrArg Host.Outcome.next ((?_ : _ = _).trans (hw.interrupt_sent (congrArg Ring.holdoff hring))), ?_, ?_, ?_⟩
      · simp [hheld, hdue]
      · rw [State.ring_modRing_self]
        exact congrArg Ring.irqDue hring
      · rfl
      · rw [State.ring_modRing_self]
        rfl
end

section
/-! SUPPORT. The commands at the front of a ring that need no serving (R339 to R341, R362, R392): the program set that a whole
payload loads. -/
namespace Sys2Proof.Machine

/-- From s to t the cloves alone may differ. -/
def ClovesOnly (s t : State) : Prop := t = { s with cloves := t.cloves }

theorem ClovesOnly.refl (s : State) : ClovesOnly s s := rfl

theorem ClovesOnly.trans {a b c : State} (h : ClovesOnly a b) (g : ClovesOnly b c) : ClovesOnly a c := by
  unfold ClovesOnly at *
  conv_lhs => rw [g, h]

theorem ClovesOnly.foldl {α : Type} {f : State → α → State} (h : ∀ t x, ClovesOnly t (f t x)) (l : List α) :
    ∀ s, ClovesOnly s (l.foldl f s) := by
  induction l with
  | nil => exact ClovesOnly.refl
  | cons x l ih => exact fun s => (h s x).trans (ih _)

theorem State.modClove_clovesOnly (s : State) (k : Nat) (f : Clove → Clove) : ClovesOnly s (s.modClove k f) := rfl

theorem State.writeSection_clovesOnly (s : State) (l : Nat) (b : List Byte) (e : Section) : ClovesOnly s (s.writeSection l b e) :=
  ClovesOnly.foldl (fun t _ => ClovesOnly.foldl (fun u _ => u.modClove_clovesOnly ..) _ t) _ s

/-- A program set loaded: its model's old set leaves, its sections are written, and it joins the sets (R341). -/
def State.programLoaded (s : State) (l : Nat) (b : List Byte) (w : Split) : State :=
  let s := ((setSections b).filter (fun e => e.kind == 0)).foldl (fun s e => s.writeSection l b e) (s.dropSet l (leAt b 2 2))
  { s with srv := { s.srv with sets := s.srv.sets ++ [loadedSet l b w] } }

theorem State.programLoaded_spec (s : State) (l : Nat) (b : List Byte) (w : Split) :
    (s.programLoaded l b w).srv.sets = s.srv.sets.filter (fun v => !(v.group == l && v.model == leAt b 2 2)) ++ [loadedSet l b w] ∧
    s.programLoaded l b w = { s with srv := (s.programLoaded l b w).srv, cloves := (s.programLoaded l b w).cloves } := by
  have hwrites := ClovesOnly.foldl (fun t e => t.writeSection_clovesOnly l b e) ((setSections b).filter (fun e => e.kind == 0))
    (s.dropSet l (leAt b 2 2))
  unfold State.programLoaded
  extract_lets u
  obtain ⟨cs, hcs⟩ : ∃ cs, u = { s.dropSet l (leAt b 2 2) with cloves := cs } := ⟨_, hwrites⟩
  rw [hcs]
  exact ⟨rfl, rfl⟩

/-- A whole good program set is loaded (R341). -/
theorem State.loadSet_loads {s : State} {p r : Nat} {c : Cmd} (w : Split) (hpaid : c.paid = true)
    (hcame : 96 + 32 * leAt c.payload 14 2 ≤ c.payload.length) (hlen : 96 + 32 * leAt c.payload 14 2 ≤ c.payLen)
    (hheader : setHeaderOk c.payload (s.fld .glbCapSrv2 0 0 4 0) s.maxSeq = true)
    (hsections : ∀ i < leAt c.payload 14 2, (sectionAt c.payload i).ok c.payload i c.payLen (s.group (s.lead p)).length = true)
    (hlaunch : (kindData c.payload 2 24).all (fun e => launchOk e (s.group (s.lead p)).length) = true)
    (hfree : s.modelBusy (s.lead p) (leAt c.payload 2 2) = false)
    (hroom : s.noSpace (s.lead p) (leAt c.payload 2 2) (setBytes c.payload) = false) :
    s.loadSet p r c w = (s.programLoaded (s.lead p) c.payload w).answer p r c .ok 0 0 := by
  have hall : (List.range (leAt c.payload 14 2)).all
      (fun i => (sectionAt c.payload i).ok c.payload i c.payLen (s.group (s.lead p)).length) = true := by
    simpa using hsections
  simp only [State.loadSet, hheader, hall, hlaunch, hfree, hroom, hpaid, Nat.not_lt.2 hcame, Nat.not_lt.2 hlen,
    Bool.not_true, Bool.or_false, Bool.and_false, Bool.false_eq_true, if_false,
    if_neg (show ¬ c.payload.length < min c.payLen 96 by omega), if_neg (show ¬ c.payLen < 96 by omega)]
  rfl

end Sys2Proof.Machine

open Sys2Proof Sys2Proof.Machine

/-- Settles O34: each command is at the front, nothing of it is refused, and it has its one effect before its answer. -/
theorem ringCommandsAct : Obligations.RingCommandsAct := by
  intro s p r c w
  refine ⟨fun hfront hin hpaid => ?_, fun hfront hdrop hfree => ?_, fun hfront himage hpaid hgood hfree => ?_,
    fun hfront hset hpaid hcame hlen hheader hsections hlaunch hfree hroom => ?_, fun hfront => ?_, fun hfront hscope => ?_,
    fun hfront hpaid hfree ms hms => ?_⟩
  · show Host.Outcome.next _ = _
    simp [hfront, hin, hpaid]
  · show Host.Outcome.next _ = _
    simp [hfront, hdrop, hfree, State.dropSet]
  · show Host.Outcome.next _ = _
    have hnone : (s.group (s.lead p)).any (fun q => s.slotInUse q (leAt c.payload 0 1)) = false := by simpa using hfree
    simp [hfront, himage, State.loadImage, hpaid, hgood, hnone, -List.any_eq_true]
  · refine ⟨s.programLoaded (s.lead p) c.payload w, ?_, s.programLoaded_spec ..⟩
    show Host.Outcome.next _ = _
    simp [hfront, hset, State.loadSet_loads w hpaid hcame hlen hheader hsections hlaunch hfree hroom]
  · show Host.Outcome.next _ = _
    simp [hfront]
  · show Host.Outcome.next _ = _
    have hinside : (List.range 32).any (fun q => bitField (leAt c.params 0 4) q 1 == 1 && s.lead q != s.lead p) = false := by
      simpa using hscope
    simp [hfront, hinside, -List.any_eq_true]
  · change ∃ u : State, Host.Outcome.next _ = _ ∧ _
    simp only [hfront, hpaid, hms, hfree, Bool.not_true, Bool.false_eq_true, if_false]
    refine ⟨_, rfl, ?_, ?_⟩
    · split <;> rfl
    · split <;> rfl
end

section
/-! SUPPORT. Attach links and power states (R322, R327), and status pages written (R342). -/
namespace Sys2Proof.Machine

/-! ### Links (R322, R327) -/

/-- HIF_LINK of an attach shows a rate, a width and whether its link runs in FLIT mode. -/
def State.linkShown (s : State) (b : Bool) (rate width : Nat) (flit : Bool) : State :=
  (((s.setFld .hifLink 0 (b2n b) 2 0 rate).setFld .hifLink 0 (b2n b) 7 3 width).setFld .hifLink 0 (b2n b) 8 8 (b2n flit)).setFld
    .hifLink 0 (b2n b) 31 9 0

theorem State.linkShown_fields (s : State) (b : Bool) {rate width : Nat} (flit : Bool) (hrate : rate < 8) (hwidth : width < 32) :
    (s.linkShown b rate width flit).fld .hifLink 0 (b2n b) 2 0 = rate ∧
    (s.linkShown b rate width flit).fld .hifLink 0 (b2n b) 7 3 = width ∧
    (s.linkShown b rate width flit).flag .hifLink 0 (b2n b) 8 = flit := by
  unfold State.linkShown
  refine ⟨?_, ?_, ?_⟩
  · repeat rw [State.fld_setFld_apart _ _ _ _ _ (by decide) (by decide) (by decide) (by decide)]
    exact (State.fld_setFld_self _ _ _ _ _ (by decide) (by decide)).trans (Nat.mod_eq_of_lt hrate)
  · repeat rw [State.fld_setFld_apart _ _ _ _ _ (by decide) (by decide) (by decide) (by decide)]
    exact (State.fld_setFld_self _ _ _ _ _ (by decide) (by decide)).trans (Nat.mod_eq_of_lt hwidth)
  · rw [State.flag_setFld _ _ _ _ _ _ (by decide) (by decide), State.flag_setFld _ _ _ _ _ _ (by decide) (by decide)]
    cases flit <;> rfl

/-- A link that has gone down is noted with the time. -/
def State.downNoted (s : State) (b : Bool) (rate was : Nat) : State :=
  if rate = 0 ∧ was ≠ 0 then { s with host := { s.host with downSince := s.host.downSince.put (b2n b) s.up.time } } else s

theorem execAttachLinkChange_eq (s : State) (b : Bool) {rate : Nat} (width : Nat) (flit : Bool) (hrate : rate < 8) :
    execAttachLinkChange b rate width flit s =
      (let u := (s.linkShown b rate width flit).downNoted b rate (s.fld .hifLink 0 (b2n b) 2 0)
       .next (if rate = 0 then u else u.wakeAttach b)) := by
  unfold execAttachLinkChange
  simp only [Nat.mod_eq_of_lt hrate, Bool.and_eq_true, decide_eq_true_eq]
  rfl

/-- An attach that has no link, or is in D3hot, issues nothing, so that nothing goes on. -/
theorem State.wakeAttach_of_closed {s : State} {b : Bool} (h : s.attachOpen b = false) : s.wakeAttach b = s := by
  simp [State.wakeAttach, h]

theorem State.attachOpen_of_d3 {s : State} {b : Bool} (h : s.host.d3.getLsbD (b2n b) = true) : s.attachOpen b = false := by
  simp [State.attachOpen, h]

/-! ### Pages (R342) -/

/-- Writes of one place that may leave at once do so, in order. -/
theorem State.hostWrites_leave (q : Nat) (ws : List HostWrite) : ∀ {s : State}, (∀ w ∈ ws, s.mayWrite q w = true) →
    s.host.held.any (fun e => e.1 == q) = false →
    ws.foldl (fun s w => s.hostWrite q w) s = { s with host := { s.host with out := s.host.out ++ ws } } := by
  induction ws with
  | nil =>
    intro s _ _
    rw [List.append_nil]
    rfl
  | cons w ws ih =>
    intro s hmay hfirst
    have hone : s.hostWrite q w = { s with host := { s.host with out := s.host.out ++ [w] } } := by
      simp [State.hostWrite, hmay w (by simp), hfirst]
    rw [List.foldl_cons, hone]
    refine (ih (s := { s with host := { s.host with out := s.host.out ++ [w] } })
      (fun x hx => hmay x (List.mem_cons_of_mem w hx)) hfirst).trans ?_
    simp

/-- The bytes of a page, SEQ apart. -/
def State.pageBody (s : State) (page meas energy : Nat) : List Byte :=
  if page < 32 then s.partPage page meas energy else s.globalPage meas energy

theorem State.take_pageBody (s : State) (page meas energy : Nat) : (s.pageBody page meas energy).take 8 = leBytes 8 s.sinceReady := by
  unfold State.pageBody
  split
  · simp only [State.partPage, List.append_assoc]
    exact List.take_left' (leBytes_length 8 _)
  · simp only [State.globalPage, List.append_assoc]
    exact List.take_left' (leBytes_length 8 _)

theorem attach_pageWrites {b : Bool} {a n : Nat} {bs : List Byte} {w : HostWrite} (h : w ∈ pageWrites b a n bs) : w.attach = b := by
  simp only [pageWrites, List.mem_cons, List.not_mem_nil, or_false] at h
  rcases h with rfl | rfl | rfl <;> rfl

/-- A page with an address, whose writes may leave, is written in its three writes. -/
theorem State.writePage_spec {s : State} {page : Nat} (meas energy : Nat) (hpage : page < 34)
    (hgate : page < 32 → s.gated page = false) (haddr : s.pageAddr page ≠ 0)
    (hopen : s.attachOpen (if page < 32 then s.ownerOf page else page == 33) = true)
    (hfirst : s.host.held.any (fun e => e.1 == (if page < 32 then page else 32)) = false) :
    ∃ h : HostIf, s.writePage page meas energy = { s with host := h } ∧
      h.pageSeq = s.host.pageSeq.put page (s.host.pageSeq.atD page 0 + 2) ∧
      h.out = s.host.out ++ pageWrites (if page < 32 then s.ownerOf page else page == 33) (s.pageAddr page)
        (s.host.pageSeq.atD page 0) (s.pageBody page meas energy) := by
  have hplace : min page 32 = if page < 32 then page else 32 := by split <;> omega
  have hfree : s.gated (if page < 32 then page else 32) = false := by
    split
    · exact hgate ‹_›
    · exact BitVec.getLsbD_of_ge _ _ (le_refl _)
  have hheld : (decide (34 ≤ page) || (decide (page < 32) && s.gated page)) = false := by
    by_cases hp : page < 32
    · simp [hgate hp, hpage]
    · simp [hp, hpage]
  simp only [State.writePage, hheld, haddr, Bool.false_eq_true, if_false]
  refine ⟨_, State.hostWrites_leave _ _ (fun w hw => ?_) ?_, rfl, rfl⟩
  · rw [hplace, State.mayWrite, attach_pageWrites hw, Bool.and_eq_true, Bool.not_eq_true']
    exact ⟨hopen, hfree⟩
  · rw [hplace]
    exact hfirst

end Sys2Proof.Machine

open Sys2Proof Sys2Proof.Machine

/-- Settles O42: a link and a power state are shown before what waited goes on, and a page leaves in its three writes. -/
theorem attachesAndPages : Obligations.AttachesAndPages := by
  refine ⟨fun s b flit rate width hrate hwidth => ?_, fun s b => ⟨?_, ?_⟩, fun s page meas energy hpage hgate haddr hopen hfirst => ?_⟩
  · obtain ⟨hr, hw, hf⟩ := s.linkShown_fields b flit hrate hwidth
    have hregs : ((s.linkShown b rate width flit).downNoted b rate (s.fld .hifLink 0 (b2n b) 2 0)).regs =
        (s.linkShown b rate width flit).regs := by
      unfold State.downNoted
      split <;> rfl
    refine ⟨(s.linkShown b rate width flit).downNoted b rate (s.fld .hifLink 0 (b2n b) 2 0),
      ⟨?_, ?_, ?_, ?_⟩, execAttachLinkChange_eq s b width flit hrate, fun hdown => ⟨?_, fun hwas => ?_⟩⟩
    · unfold State.downNoted
      split <;> rfl
    · rw [State.fld_congr hregs, hr]
    · rw [State.fld_congr hregs, hw]
    · rw [State.flag_congr hregs, hf]
    · rw [State.attachOpen, State.fld_congr hregs, hr, hdown]
      rfl
    · rw [State.downNoted, if_pos ⟨hdown, hwas⟩]
      exact SMap.at?_put_self ..
  · have hclosed : ({ s with host := { s.host with d3 := s.host.d3 ||| BitVec.twoPow 2 (b2n b) } } : State).attachOpen b = false :=
      State.attachOpen_of_d3 (by cases b <;> simp [b2n])
    exact ⟨_, congrArg Host.Outcome.next (State.wakeAttach_of_closed hclosed), hclosed, rfl⟩
  · exact ⟨_, rfl, rfl⟩
  · obtain ⟨h, hexec, hseq, hout⟩ := State.writePage_spec meas energy hpage hgate haddr hopen hfirst
    refine ⟨_, _, congrArg Host.Outcome.next hexec, ?_, hout, s.take_pageBody .., rfl, rfl, rfl⟩
    exact (congrArg (fun m => SMap.at? m page) hseq).trans (SMap.at?_put_self ..)
end


section
/-! SUPPORT. What the requests of the serving engine ask for, and the mirror's setting, under the work on caches that an
admission does (R269, R283, R298, R299). -/
namespace Sys2Proof.Machine

/-- Of every request its ID, state, group, tag and class, with the next ID and whether the module is mirrored. -/
def State.asks (s : State) : List (Nat × ReqState × Nat × W32 × Nat) × Nat × Bool :=
  (s.srv.reqs.map (fun q => (q.id, q.st, q.group, q.tag, q.cls)), s.srv.nextId, s.mirrored)

theorem State.asks_congr {s t : State} (hsrv : t.srv = s.srv) (hregs : t.regs = s.regs) : t.asks = s.asks := by
  rw [State.asks, hsrv, State.mirrored, State.flag_congr hregs, ← State.mirrored, ← State.asks]

theorem State.setFld_asks (s : State) {r : Reg} {b i : Nat} (hi lo v : Nat) (h : r.addr b i ≠ Reg.vngMirror.addr 0 0) :
    (s.setFld r b i hi lo v).asks = s.asks := by
  rw [State.asks, State.mirrored, State.flag_setFld_ne _ _ _ _ _ h, ← State.mirrored, State.setFld_srv, ← State.asks]

theorem foldl_keeps {α β γ : Type} {g : β → γ} {f : β → α → β} (h : ∀ b x, g (f b x) = g b) (l : List α) :
    ∀ b, g (l.foldl f b) = g b := by
  induction l with
  | nil => exact fun b => rfl
  | cons x xs ih => exact fun b => (ih _).trans (h b x)

/-! ### Events -/

@[simp] theorem State.log_asks (s : State) (c : Code) (part h0 h1 w2 w3 : Nat) : (s.log c part h0 h1 w2 w3).asks = s.asks := by
  rw [State.asks, State.log_srv, State.mirrored, State.flag, State.reg_log_ne _ _ _ _ _ _ _ (by decide) (by decide),
    ← State.flag, ← State.mirrored, ← State.asks]

theorem State.modReq_asks (s : State) (id : Nat) {f : Request → Request}
    (h : ∀ q, ((f q).id, (f q).st, (f q).group, (f q).tag, (f q).cls) = (q.id, q.st, q.group, q.tag, q.cls)) :
    (s.modReq id f).asks = s.asks := by
  refine Prod.ext ?_ rfl
  refine (List.map_map ..).trans (List.map_congr_left fun q _ => ?_)
  rw [Function.comp_apply]
  split
  · exact h q
  · rfl

theorem State.voidReq_asks (s : State) (l code cls part seq : Nat) : (s.voidReq l code cls part seq).asks = s.asks := by
  unfold State.voidReq
  split
  · rfl
  · refine State.modReq_asks _ _ fun q => ?_
    split <;> rfl

theorem State.queueAbort_asks (s : State) (l code cls seq : Nat) (b : Bool) : (s.queueAbort l code cls seq b).asks = s.asks :=
  State.asks_congr (s.queueAbort_srv ..) (by rw [s.queueAbort_abortsOnly l code cls seq b])

theorem State.contain_asks (s : State) (c : Code) (part seq : Nat) : (s.contain c part seq).asks = s.asks := by
  have habort (l cls : Nat) (b : Bool) : ((s.voidReq l c.val cls part seq).queueAbort l c.val cls seq b).asks = s.asks :=
    (State.queueAbort_asks ..).trans (State.voidReq_asks ..)
  unfold State.contain
  extract_lets l
  split
  · rfl
  · split
    · exact habort ..
    · split
      · split
        · exact habort ..
        · rfl
      · rfl

/-- No event of a cache is RANGE_SAT, and no other event moves what is asked. -/
@[simp] theorem State.event_asks (s : State) {c : Code} (hc : c ≠ .rangeSat) (part h0 h1 w2 w3 : Nat) :
    (s.event c part h0 h1 w2 w3).asks = s.asks := by
  have hclass : s.event c part h0 h1 w2 w3 = (s.log c part h0 h1 w2 w3).contain c part s.err.nextSeq := if_neg (by simp [hc])
  rw [hclass, State.contain_asks, State.log_asks]

/-! ### Frames, slots and messages -/

theorem State.hostWrite_asks (s : State) (p : Nat) (w : HostWrite) : (s.hostWrite p w).asks = s.asks := by
  unfold State.hostWrite
  extract_lets h held
  split
  · exact State.asks_congr rfl rfl
  · exact State.asks_congr rfl rfl

theorem State.pump_asks (k n : Nat) : ∀ s : State, (s.pump k n).asks = s.asks := by
  induction n with
  | zero => exact fun s => rfl
  | succ n ih =>
    intro s
    unfold State.pump
    split
    · split
      · rfl
      · extract_lets syn m t
        split
        · rfl
        · exact (ih _).trans (State.asks_congr rfl rfl)
    · rfl

theorem State.sendMsg_asks (s : State) (p dnode dpart type : Nat) (body : List Byte) (marks : List Bool) :
    (s.sendMsg p dnode dpart type body marks).2.asks = s.asks := by
  unfold State.sendMsg
  extract_lets put
  have hput (t : State) (k : Nat) (h : t.asks = s.asks) : (put t k).2.asks = s.asks := by
    simp only [put]
    split
    · exact (State.pump_asks ..).trans ((State.asks_congr rfl rfl).trans h)
    · exact h
  split
  · exact hput _ _ rfl
  · split
    · exact hput _ _ (State.asks_congr rfl rfl)
    · exact State.asks_congr rfl rfl

theorem State.tierSend_asks (s : State) (p kind node addr len tag rank : Nat) (store : Bool) (data : List (W64 × Bool)) :
    (s.tierSend p kind node addr len tag rank store data).asks = s.asks := by
  unfold State.tierSend
  split
  · exact State.sendMsg_asks ..
  · exact State.hostWrite_asks ..

@[simp] theorem State.modPart_asks (s : State) (p : Nat) (f : Part → Part) : (s.modPart p f).asks = s.asks :=
  State.asks_congr rfl rfl

@[simp] theorem State.storeBytes_asks (s : State) (a : Nat) (bs : List Byte) : (s.storeBytes a bs).asks = s.asks :=
  State.asks_congr rfl rfl

@[simp] theorem State.storeWords_asks (s : State) (a : Nat) (ws : List (W64 × Bool)) : (s.storeWords a ws).asks = s.asks :=
  State.asks_congr rfl rfl

@[simp] theorem State.tlbDrop_asks (s : State) (p : Nat) (f : TlbEntry → Bool) : (s.tlbDrop p f).asks = s.asks :=
  State.asks_congr rfl rfl

@[simp] theorem State.putFrm_asks (s : State) (p f : Nat) (v : Frm) : (s.putFrm p f v).asks = s.asks := by
  unfold State.putFrm
  extract_lets o t
  have hdropped : t.asks = s.asks := by
    simp only [t]
    split
    · exact State.tlbDrop_asks ..
    · rfl
  rw [State.storeBytes_asks, hdropped]

@[simp] theorem State.cancelSpill_asks (s : State) (p f : Nat) : (s.cancelSpill p f).asks = s.asks := by
  unfold State.cancelSpill
  extract_lets v
  split
  · rfl
  · exact (State.putFrm_asks ..).trans (State.modPart_asks ..)

theorem State.pinFrame_asks (s : State) (p f : Nat) : (s.pinFrame p f).2.asks = s.asks := by
  unfold State.pinFrame
  split
  · rfl
  · exact (State.putFrm_asks ..).trans (State.cancelSpill_asks ..)

theorem State.allocSlot_asks (s : State) (p g : Nat) : (s.allocSlot p g).2.asks = s.asks := by
  unfold State.allocSlot
  split
  · rfl
  · split
    · split
      · exact (State.modPart_asks ..).trans (State.putFrm_asks ..)
      · rfl
    · split <;> rfl

theorem State.newFrame_asks (s : State) (p g cls : Nat) : (s.newFrame p g cls).2.2.asks = s.asks := by
  unfold State.newFrame
  split
  · rfl
  · split
    next got t h =>
    have halloc : t.asks = s.asks := congrArg (fun r => r.2.asks) h ▸ State.allocSlot_asks s p g
    split
    · exact (State.modPart_asks ..).trans ((State.putFrm_asks ..).trans halloc)
    · exact halloc

/-! ### Pages and contexts that are shared -/

theorem State.copyColumns_asks (s : State) (p from_ to_ rg n : Nat) : (s.copyColumns p from_ to_ rg n).asks = s.asks :=
  foldl_keeps (fun _ _ => foldl_keeps (fun _ _ => State.storeWords_asks ..) _ _) _ _

theorem State.tierImage_asks (s : State) (p n off : Nat) (store : Bool) (ws : List (W64 × Bool)) :
    (s.tierImage p n off store ws).asks = s.asks := by
  unfold State.tierImage
  refine foldl_keeps (fun t i => ?_) _ _
  extract_lets d tag u
  exact (State.tierSend_asks ..).trans (State.asks_congr rfl rfl)

theorem State.copyPage_asks (s : State) (p old g rg n cls : Nat) : (s.copyPage p old g rg n cls).2.2.asks = s.asks := by
  have hnew := s.newFrame_asks p g cls
  unfold State.copyPage
  split
  · rfl
  · split
    next i f t h =>
      rw [h] at hnew
      extract_lets v w w' u
      split
      · simp only [State.askImage, State.tierImage_asks, State.modPart_asks, u, State.putFrm_asks, hnew]
      · simp only [State.putFrm_asks, State.copyColumns_asks, hnew]
    next => exact hnew

@[simp] theorem State.putPte_asks (s : State) (p cid layer g : Nat) (v : Pte) : (s.putPte p cid layer g v).asks = s.asks := by
  simp only [State.putPte, State.storeBytes_asks, State.tlbDrop_asks]

theorem State.kvEvent_asks (s : State) (p cid layer g : Nat) : (s.kvEvent .kvPoolExhausted p cid layer g).asks = s.asks :=
  State.event_asks s (by decide) ..

theorem State.shareFrame_asks (s : State) (p old dst layer g fill : Nat) :
    (s.shareFrame p old dst layer g fill).asks = s.asks := by
  have hcopy := s.copyPage_asks p old g (s.l1 p dst).rg (ceilDiv fill 16) (s.holderCls p dst)
  unfold State.shareFrame
  extract_lets v t w
  split
  · split
    next h => simpa [h] using hcopy
    next t' h =>
      rw [h] at hcopy
      split
      next ok u hpin =>
      have hpinned : u.asks = s.asks := by
        have := State.pinFrame_asks t' p old
        rw [hpin] at this
        exact this.trans hcopy
      split
      · simpa using hpinned
      · rw [State.kvEvent_asks, hpinned]
    next h => 
      rw [h] at hcopy
      rw [State.kvEvent_asks, hcopy]
  · have ht : t.asks = s.asks := by
      simp only [t]
      split
      · exact State.cancelSpill_asks ..
      · rfl
    simp only [State.putPte_asks, State.putFrm_asks, ht]

theorem State.sharePage_asks (s : State) (p src dst k layer g : Nat) : (s.sharePage p src dst k layer g).asks = s.asks := by
  unfold State.sharePage
  extract_lets e
  split
  · exact State.shareFrame_asks ..
  · rfl

theorem State.shareCtx_asks (s : State) (p src dst k : Nat) : (s.shareCtx p src dst k).asks = s.asks := by
  unfold State.shareCtx
  extract_lets e t
  exact (foldl_keeps (fun _ _ => foldl_keeps (fun _ _ => State.sharePage_asks ..) _ _) _ _).trans (State.modPart_asks ..)

theorem State.makeCtx_asks (s : State) (p cid layers l2pages rg : Nat) (split : Split) :
    (s.makeCtx p cid layers l2pages rg split).asks = s.asks := by
  unfold State.makeCtx
  extract_lets n
  split
  · rfl
  · split
    · rfl
    · extract_lets t u
      have hu : u.asks = t.asks := State.asks_congr rfl rfl
      exact (State.storeBytes_asks ..).trans (hu.trans (State.modPart_asks ..))

theorem State.newCtx_asks (s : State) (l cid : Nat) (v : ProgSet) (src : Option (Nat × Nat)) :
    (s.newCtx l cid v src).asks = s.asks := by
  unfold State.newCtx
  refine foldl_keeps (fun t p => ?_) _ _
  extract_lets u
  have hmade : u.asks = t.asks := State.makeCtx_asks ..
  split
  · split
    · exact (State.shareCtx_asks ..).trans hmade
    · exact hmade
  · exact hmade

theorem State.openMember_asks (s : State) (q : Request) (h : Option Handle) (m : ReqMember) :
    (s.openMember q h m).asks = s.asks := by
  unfold State.openMember
  extract_lets t
  have ht : t.asks = s.asks := by
    simp only [t]
    split
    · exact State.newCtx_asks ..
    · rfl
  split
  · exact (State.newCtx_asks ..).trans ht
  · exact ht

/-! ### Admission (R298, R299) -/

theorem State.endCmd_asks (s : State) (p r no status reqid result detail : Nat) :
    (s.endCmd p r no status reqid result detail).asks = s.asks := by
  unfold State.endCmd
  split
  · rfl
  · exact State.asks_congr rfl rfl

theorem State.syncContexts_asks (s : State) (l : Nat) : (s.syncContexts l).asks = s.asks :=
  State.setFld_asks _ _ _ _ (by simp only [Reg.addr, Reg.info]; omega)

theorem State.mirrored_of_asks {s t : State} (h : t.asks = s.asks) : t.mirrored = s.mirrored := congrArg (fun a => a.2.2) h

theorem State.checkTokens_of_unmirrored {s : State} (h : s.mirrored = false) (q : Request) : s.checkTokens q = s := by
  refine foldl_id _ _ _ fun m _ => ?_
  unfold State.ownCheck
  rw [h]
  rfl

/-- Without a mirror partner, what is asked after an admission is what was asked before and the new request. -/
theorem State.takeIn_asks {s : State} (hm : s.mirrored = false) (p r : Nat) (c : Cmd) :
    ∃ h, (s.takeIn p r c).asks = (s.queueRequest (s.newRequest p r c h)).asks := by
  unfold State.takeIn
  extract_lets h q t u
  have hqueue : (s.queueRequest q).mirrored = s.mirrored := rfl
  have hopen : ((t.syncContexts q.group).answer p r c .ok q.id q.id).asks = (s.queueRequest q).asks :=
    (State.endCmd_asks ..).trans ((State.syncContexts_asks ..).trans (foldl_keeps (fun _ _ => State.openMember_asks ..) _ _))
  have hplain : u = (t.syncContexts q.group).answer p r c .ok q.id q.id :=
    State.checkTokens_of_unmirrored ((State.mirrored_of_asks hopen).trans (hqueue.trans hm)) q
  refine ⟨h, ?_⟩
  rw [hplain, State.mirrored_of_asks hopen, hqueue, hm]
  exact hopen

theorem State.takeIn_queues {s : State} (hm : s.mirrored = false) (p r : Nat) (c : Cmd) :
    (∃ q ∈ (s.takeIn p r c).srv.reqs, q.id = s.srv.nextId ∧ q.st = .queued ∧ q.group = s.lead p ∧ q.tag = c.tag ∧
      q.cls = leAt c.params 4 1) ∧ (s.takeIn p r c).srv.nextId = s.srv.nextId + 1 := by
  obtain ⟨h, hasks⟩ := State.takeIn_asks hm p r c
  have hin : (s.srv.nextId, ReqState.queued, s.lead p, c.tag, leAt c.params 4 1) ∈ (s.takeIn p r c).asks.1 := by
    rw [hasks]
    exact List.mem_map.2 ⟨s.newRequest p r c h, List.mem_append_right _ (List.mem_singleton_self _), rfl⟩
  obtain ⟨q, hq, heq⟩ := List.mem_map.1 hin
  simp only [Prod.mk.injEq] at heq
  exact ⟨⟨q, hq, heq⟩, congrArg (fun a => a.2.1) hasks⟩

end Sys2Proof.Machine
end

section
/-! SUPPORT. Serving commands at the front of a ring, with serving on (R338). -/
namespace Sys2Proof.Machine

theorem State.serving_off {s : State} {p r opc : Nat} {c : Cmd} (hf : s.frontOf p r opc = some c)
    (hoff : s.flag .prtSrvCtrl (s.lead p) 0 0 = false) (f : Cmd → State) : s.serving p r opc f = s.answer p r c .srvOff 0 0 := by
  simp only [State.serving, hf, hoff, Bool.false_eq_true, if_false]

theorem State.serving_on {s : State} {p r opc : Nat} {c : Cmd} (hf : s.frontOf p r opc = some c)
    (hon : s.flag .prtSrvCtrl (s.lead p) 0 0 = true) (f : Cmd → State) : s.serving p r opc f = f c := by
  simp only [State.serving, hf, hon, if_true]

theorem State.req_of_mem {s : State} {q : Request} (h : q ∈ s.srv.reqs) : ∃ x, s.req q.id = some x ∧ x.id = q.id := by
  have hfound : (s.req q.id).isSome = true := List.find?_isSome.2 ⟨q, h, beq_self_eq_true _⟩
  obtain ⟨x, hreq⟩ := Option.isSome_iff_exists.1 hfound
  have hid := List.find?_some (show s.srv.reqs.find? (fun r => r.id == q.id) = some x from hreq)
  exact ⟨x, hreq, beq_iff_eq.1 hid⟩

/-- A request that becomes QUEUED again stands last, with the priority of a resumed one (R300). -/
theorem State.requeue_puts_last {s : State} {q : Request} (h : q ∈ s.srv.reqs) :
    ∃ x, (s.requeue q.id).srv.reqs = s.srv.reqs.filter (fun y => y.id ≠ q.id) ++ [x] ∧ x.id = q.id ∧ x.st = .queued ∧
      x.prio = 1 := by
  obtain ⟨x, hreq, hid⟩ := State.req_of_mem h
  refine ⟨{ x with st := .queued, prio := 1, pauseMode := none }, ?_, hid, rfl, rfl⟩
  simp only [State.requeue, hreq]

end Sys2Proof.Machine

open Sys2Proof Sys2Proof.Machine

/-- Settles O35: each command is its own function of the front command, entered where serving is on. -/
theorem servingCommandsAct : Obligations.ServingCommandsAct := by
  refine ⟨fun s p r opc c i hmem hf hoff => ?_, fun s p r c hon => ⟨?_, ?_, ?_, ?_, ?_, ?_⟩⟩
  · simp only [List.mem_cons, Prod.mk.injEq, List.not_mem_nil, or_false] at hmem
    obtain ⟨rfl, rfl⟩ | ⟨rfl, rfl⟩ | ⟨rfl, rfl⟩ | ⟨rfl, rfl⟩ | ⟨rfl, rfl⟩ | ⟨rfl, rfl⟩ | ⟨rfl, rfl⟩ | ⟨rfl, rfl⟩ := hmem <;>
      exact congrArg Host.Outcome.next (State.serving_off hf hoff _)
  · intro hf hpaid hok
    refine ⟨congrArg Host.Outcome.next ((State.serving_on hf hon _).trans ?_), fun hm => ?_⟩
    · simp only [hpaid, Bool.not_true, Bool.false_eq_true, if_false, hok]
    · obtain ⟨⟨q, hq, hid, hst, hgroup, htag, hcls⟩, hnext⟩ := State.takeIn_queues hm p r c
      exact ⟨q, hq, hid, hst, hgroup, htag, hcls, hnext⟩
  · intro hf hpaid st hno
    refine congrArg Host.Outcome.next ((State.serving_on hf hon _).trans ?_)
    simp only [hpaid, Bool.not_true, Bool.false_eq_true, if_false, hno]
  · intro hf hkv hne hnone src cid d hsrc hpos hlen hcid hdraft
    refine congrArg Host.Outcome.next ((State.serving_on hf hon _).trans ?_)
    have hrange : ¬(leAt c.params 16 4 = 0 ∨ src.len < leAt c.params 16 4) := by omega
    have hd : src.draft.bind (fun _ => s.freeCid (s.lead p) [cid]) = d ∧ (src.draft.isSome && d.isNone) = false := by
      obtain ⟨hnd, rfl⟩ | ⟨hsome, hdne, rfl⟩ := hdraft
      · simp [hnd]
      · obtain ⟨w, hw⟩ := Option.ne_none_iff_exists'.1 hsome
        obtain ⟨e, he⟩ := Option.ne_none_iff_exists'.1 hdne
        simp [hw, he]
    simp only [hkv, hne, hnone, hsrc, hcid, hd, hrange, Bool.not_true, Bool.false_eq_true, if_false, decide_false,
      Option.isSome_none, Bool.or_self, Bool.or_eq_true, decide_eq_true_eq]
  · intro hf e he u hu
    refine ⟨fun hd => congrArg Host.Outcome.next ((State.serving_on hf hon _).trans ?_),
      fun m d hd => congrArg Host.Outcome.next ((State.serving_on hf hon _).trans ?_)⟩
    · simp only [he, hd, hu]
    · simp only [he, hd, hu]
  · intro hf hpaid hfree v hv hok
    refine congrArg Host.Outcome.next ((State.serving_on hf hon _).trans ?_)
    simp only [hfree, hpaid, hv, hok, Bool.not_true, Bool.false_eq_true, if_false]
  · exact fun hf => congrArg Host.Outcome.next (State.serving_on hf hon _)

/-- Settles O36: the request's state chooses what a PAUSE, a RESUME or a CANCEL does. -/
theorem pauseResumeCancel : Obligations.PauseResumeCancel := by
  intro s p r c q hon hq
  have hmem : q ∈ s.srv.reqs := List.mem_of_find?_eq_some hq
  refine ⟨fun hf => ?_, fun hf hpaid => ?_, fun hf => ?_⟩
  · refine ⟨fun hst => ?_, fun hst => ?_, fun hst => ?_, fun hst => ?_, fun hst => ?_⟩ <;>
    · refine congrArg Host.Outcome.next ((State.serving_on hf hon _).trans ?_)
      simp only [hq, hst]
  · have hgo : (leAt c.params 4 1 == 1 && !c.paid) = false := by
      by_cases hrec : leAt c.params 4 1 = 1 <;> simp [hrec, hpaid]
    refine ⟨fun hst => ⟨congrArg Host.Outcome.next ((State.serving_on hf hon _).trans ?_), State.requeue_puts_last hmem⟩,
      fun hst => congrArg Host.Outcome.next ((State.serving_on hf hon _).trans ?_)⟩
    · simp only [hgo, hq, hst, Bool.false_eq_true, if_false]
    · simp only [hgo, hq, hst, Bool.false_eq_true, if_false]
  · refine ⟨fun hst => congrArg Host.Outcome.next ((State.serving_on hf hon _).trans ?_),
      fun hst => congrArg Host.Outcome.next ((State.serving_on hf hon _).trans ?_)⟩
    · obtain hst | hst | hst := hst <;> simp only [hq, hst]
    · obtain hst | hst := hst <;> simp only [hq, hst]
end


section
/-! SUPPORT. The next message of exports, the next piece of a collective call, and a piece that is lost (R358, R364,
R368). -/
namespace Sys2Proof.Machine

/-- The parts of an exported body: the message ends its object where no byte is left behind its data. -/
theorem export_left (bs : List Byte) (off : Nat) :
    (off + 8160 < bs.length → ((bs.drop off).take 8160).length = 8160) ∧
    (bs.length ≤ off + 8160 → ¬ off + ((bs.drop off).take 8160).length < bs.length) := by
  simp only [List.length_take, List.length_drop]
  constructor <;> omega

/-- A page or object that may leave is sent on its stream, a page pinned from its first message on (R358, R359). -/
theorem State.sendObj_sends {s t u : State} {q : Request} {o : ExpObj} {e : ExpStream} {at_ : Option (Nat × Nat)}
    (hpage : o.kind = 0 → o.unsealed = false ∧ (s.frm o.part o.frame).st ≠ 2 ∧ (s.frm o.part o.frame).st ≠ 4)
    (hagreed : o.agreed = true) (hexports : s.exports = true) (hsends : s.sendsPage q o = true)
    (hstream : q.stream? o.member o.stream = some e) (habsent : e.absent = false)
    (hmarked : o.off = 0 → s.objMarked o = false) (hcan : s.canSend q.group e.node = true)
    (hpin : if o.kind = 0 ∧ o.off = 0 then s.pinFrame o.part o.frame = (true, t) else t = s)
    (hsent : t.sendOn q o.member o.stream o.type (s.exportBody q o e) = (at_, u)) :
    s.sendObj q o =
      if o.off + (((s.objBytes q o).drop o.off).take 8160).length < (s.objBytes q o).length then
        u.modReq q.id (fun r => { r with objs := r.objs.map (fun p =>
          if p = o then { p with off := p.off + (((s.objBytes q o).drop o.off).take 8160).length } else p) })
      else (u.dropObj q.id o).modReq q.id (fun r => { r with
        unacked := r.unacked ++ (match (generalizing := false) at_ with
          | some (k, psn) => [(k, psn, if o.kind = 0 then some (o.part, o.frame) else none)]
          | none => []) }) := by
  have hpinned : (if (o.kind == 0 && o.off == 0) = true then s.pinFrame o.part o.frame else (true, s)) = (true, t) := by
    split at hpin
    next h => rw [if_pos (by simp [h.1, h.2]), hpin]
    next h => rw [if_neg (by simpa using h), hpin]
  have hfetch : (o.kind == 0 && (o.unsealed || true) && (s.frm o.part o.frame).st == 2) = false := by
    by_cases h : o.kind = 0 <;> simp [h, hpage]
  have hwait : (o.kind == 0 && (s.frm o.part o.frame).st == 4) = false := by
    by_cases h : o.kind = 0 <;> simp [h, hpage]
  have hseal : (o.kind == 0 && o.unsealed) = false := by
    by_cases h : o.kind = 0 <;> simp [h, hpage]
  have hclean : (decide (o.off = 0) && s.objMarked o) = false := by
    by_cases h : o.off = 0 <;> simp [h, hmarked]
  rw [State.exportBody] at hsent
  simp only [State.sendObj, hagreed, hexports, hsends, hstream, habsent, Bool.true_or, Bool.true_and, Bool.not_false,
    Bool.not_true, Bool.or_self, hfetch, hwait, hseal, hclean, hcan, hpinned, hsent, Bool.false_eq_true, if_false] <;>
    rfl

/-- The state in which a call has sent its next piece: its engine arrives at the start barrier again where it does so by
piece (R364). -/
def State.pieceTaken (s : State) (k : Nat) (c : Call) : State :=
  if c.pstart = true ∧ c.piece + 1 < c.npiece then s.arriveStart k { c with piece := c.piece + 1, waitPhase := none }
  else s.setCall k { c with piece := c.piece + 1, waitPhase := none }

section
variable {s : State} {k cap r : Nat} {c : Call} {ms : List W32} (hcall : s.call? k = some c)
  (hgroup : s.collGroup (k / 32) c.gid = some (cap, ms)) (hrank : s.rankOf (k / 32) ms = some r) (hpiece : c.piece < c.npiece)
  (hphase : c.waitPhase ≠ some (s.barrier (k / 32) c.sbid).phase)
include hcall hgroup hrank hpiece hphase

theorem State.collSend_of_none (hdest : s.destRank c ms.length r = none) : s.collSend k = s.failOp k cap r c := by
  simp only [State.collSend, hcall, hgroup, hrank, hdest, Nat.not_le.2 hpiece, decide_false, beq_eq_false_iff_ne.2 hphase,
    Bool.or_self, Bool.false_eq_true, if_false]

theorem State.collSend_of_some {d : Nat} (hdest : s.destRank c ms.length r = some d) : s.collSend k =
    if c.kind < 2 then ((s.pieceTaken k c).sendPiece k cap r (ms.getD d 0) c).endOp k c.npiece
    else ((s.pieceTaken k c).startRing k cap ms.length r (ms.getD d 0) c).endOp k ms.length := by
  simp only [State.collSend, hcall, hgroup, hrank, hdest, Nat.not_le.2 hpiece, decide_false, beq_eq_false_iff_ne.2 hphase,
    Bool.or_self, Bool.false_eq_true, if_false, State.pieceTaken, Bool.and_eq_true, decide_eq_true_eq]
  split <;> rfl

end

end Sys2Proof.Machine

open Sys2Proof Sys2Proof.Machine

/-- Settles O38: exports, trailers and pieces go by the oldest that may be sent. -/
theorem exportsAndPiecesSend : Obligations.ExportsAndPiecesSend := by
  refine ⟨fun s t l q found hfind hq => ⟨fun o os hobjs => ?_, fun m i rest e hobjs hst hended hstream hgo => ?_⟩,
    fun s t u q o e at_ hpage hagreed hexports hsends hstream habsent hmarked hcan hpin hsent => ⟨fun hmore => ?_, fun hlast => ?_⟩,
    fun s p q hgated hactive hclass => ?_,
    fun s t p n cap r c ms found hfind hcall hgroup hrank hpiece hphase => ⟨fun hdest => ?_, fun d u hdest hu => ⟨fun hkind => ?_, fun hkind => ?_⟩⟩,
    fun s p n cap r rank c ms hcall hgroup hrank hpiece hlanded hsrc => ⟨rfl, ?_, fun hkind u v hu hv => ⟨?_, ?_⟩⟩⟩
  · subst hfind
    refine congrArg Host.Outcome.next ?_
    simp only [hq, State.exportReq, hobjs]
  · subst hfind
    have hsend : (e.absent || !(s.hbmFind found).exports || (s.hbmFind found).canSend q.group e.node) = true := by
      obtain h | h | h := hgo <;> simp [h]
    refine congrArg Host.Outcome.next ?_
    simp only [hq, State.exportReq, hobjs, hst, hended, hstream, hsend, ne_eq, not_true_eq_false, if_false, if_true]
  · rw [State.sendObj_sends hpage hagreed hexports hsends hstream habsent hmarked hcan hpin hsent,
      (export_left (s.objBytes q o) o.off).1 hmore, if_pos hmore]
  · exact (State.sendObj_sends hpage hagreed hexports hsends hstream habsent hmarked hcan hpin hsent).trans
      (if_neg ((export_left (s.objBytes q o) o.off).2 hlast))
  · refine congrArg Host.Outcome.next ?_
    simp only [hgated, hactive, hclass, Bool.not_true, Bool.false_eq_true, if_false, if_true]
  · subst hfind
    refine congrArg (fun v => Host.Outcome.next (State.settle (State.placeColl v placeFuel))) ?_
    exact State.collSend_of_none hcall hgroup hrank hpiece hphase hdest
  · subst hfind
    replace hu : u = (s.hbmFind found).pieceTaken (p * 32 + n) c := hu
    subst hu
    refine congrArg (fun v => Host.Outcome.next (State.settle (State.placeColl v placeFuel))) ?_
    simp only [State.collSend_of_some hcall hgroup hrank hpiece hphase hdest, hkind, if_true]
  · subst hfind
    replace hu : u = (s.hbmFind found).pieceTaken (p * 32 + n) c := hu
    subst hu
    refine congrArg (fun v => Host.Outcome.next (State.settle (State.placeColl v placeFuel))) ?_
    simp only [State.collSend_of_some hcall hgroup hrank hpiece hphase hdest, Nat.not_lt.2 hkind, if_false]
  · exact (State.event_nextSeq ..).symm ▸ Nat.lt_succ_self _
  · exact hu ▸ (State.drawMarked_spec ..).2.2
  · subst hu hv
    simp only [hkind, if_true] at hlanded
    simp only [State.losePiece, hcall, hgroup, hrank, hsrc, hkind, if_true, Nat.pos_iff_ne_zero.1 hpiece, decide_false,
      Nat.not_le.2 hlanded, ne_eq, not_true_eq_false, Bool.or_self, Bool.false_eq_true, if_false]
end


section
/-! SUPPORT. Node IDs lost and claimed, ports that come up, and lanes that are spared (R346, R347, R352). -/
namespace Sys2Proof.Machine

/-! ### Claims (R352) -/

/-- Frames of an announcement sent by the node itself, where only they are sent. -/
theorem State.broadcast_announces (s : State) {type me : Nat} (htype : type < 0x10) (hme : s.nodeId = me) (id : Nat) :
    s.broadcast type id = { s with net := { s.net with tx := s.announced me type id } } := by
  rw [State.broadcast_eq, State.announced, funext (s.claimFrame_eq htype id), hme]

theorem State.log_net (s : State) (c : Code) (part h0 h1 w2 w3 : Nat) : (s.log c part h0 h1 w2 w3).net = s.net := by
  rw [State.log_eq]

/-- A module that has lost its ID, or its claim: the record and the state, and nothing of the network. -/
theorem State.nodeLost_spec (s : State) (id : Nat) (uid : BitVec 128) : (s.nodeLost id uid).claimState = 4 ∧
    (s.nodeLost id uid).net = s.net ∧ (s.nodeLost id uid).err.nextSeq = s.err.nextSeq + 1 ∧
    (s.nodeLost id uid).cloves = s.cloves := by
  obtain ⟨hstate, -⟩ := s.fld_setNode (st := 4) (id := 0xFFFFFF) (by decide) (by decide)
  have hnet := s.setNode_net 4 0xFFFFFF
  have hseq : (s.setNode 4 0xFFFFFF).err.nextSeq = s.err.nextSeq := rfl
  have hcloves : (s.setNode 4 0xFFFFFF).cloves = s.cloves := rfl
  unfold State.nodeLost
  generalize s.setNode 4 0xFFFFFF = t at *
  refine ⟨?_, (State.log_net ..).trans hnet, (State.log_nextSeq ..).trans (congrArg (· + 1) hseq), (State.log_cloves ..).trans hcloves⟩
  rw [State.claimState, State.fld, State.reg_log_ne _ _ _ _ _ _ _ (by decide) (by decide)]
  exact hstate

theorem State.owns_of_claimState {s : State} {n : Nat} (h : s.claimState = n) : s.owns = (n == 3) := by
  rw [← h]
  rfl

/-- An owner with no outbound flow loses its ID with its inbound flows (R352). -/
theorem State.loseId_spec {s : State} (houts : s.net.outs = []) (uid : BitVec 128) : (s.loseId uid).claimState = 4 ∧
    (s.loseId uid).net.ins = [] ∧ (s.loseId uid).cloves = s.cloves := by
  obtain ⟨hstate, hnet, -, hcloves⟩ := s.nodeLost_spec s.nodeId uid
  unfold State.loseId
  extract_lets id t u
  have hu : u = t := by
    simp only [u, t, id, hnet, houts, List.map_nil, List.foldl_nil]
  rw [hu]
  exact ⟨hstate, rfl, hcloves⟩

/-- An ID that is claimed fits its field. -/
theorem nodeIdOk_lt {id : Nat} (h : nodeIdOk id = true) : id < 2 ^ 24 := by
  simp only [nodeIdOk, Bool.and_eq_true, decide_eq_true_eq] at h
  omega

theorem State.portsUp_setNode (s : State) (st id : Nat) : (s.setNode st id).portsUp = s.portsUp :=
  State.portsUp_congr fun n hn => s.reg_setNode_ne _ _ (Reg.addr_ne_of_place 0 0 (by decide) hn (by simp only [Reg.info]; omega))
    (Reg.addr_ne_of_place 0 0 (by decide) hn (by simp only [Reg.info]; omega))

theorem State.announced_setNode (s : State) (st id me type k : Nat) :
    (s.setNode st id).announced me type k = s.announced me type k := by
  rw [State.announced, State.portsUp_setNode, State.setNode_net, State.announcement_congr (s.reg_setNode_ne _ _ (by decide) (by decide)),
    ← State.announced]

theorem State.claimSent_eq (s : State) : s.claimSent = { s with net := { s.net with
    claimSends := if s.portsUp.isEmpty then 0 else 1, tx := s.announced s.nodeId 1 s.net.claimId } } := by
  unfold State.claimSent
  split
  next hnone =>
    rw [State.announced, List.isEmpty_iff.1 hnone, List.map_nil, List.append_nil]
  next hsome => exact State.broadcast_announces _ (by decide) rfl _

/-- A claim begun, whole: its sends, its frames and the node's registers (R352). -/
theorem State.claimStep_begins (s : State) : s.claimStep = { s with
    regs := s.claimStep.regs
    net := { s.net with claimSends := if s.portsUp.isEmpty then 0 else 1, tx := s.announced 0xFFFFFF 1 s.net.claimId } } := by
  obtain ⟨-, hnode⟩ := s.fld_setNode (st := 1) (id := 0xFFFFFF) (by decide) (by decide)
  have htx := s.announced_setNode 1 0xFFFFFF 0xFFFFFF 1 s.net.claimId
  have hports := s.portsUp_setNode 1 0xFFFFFF
  obtain ⟨regs, hset⟩ : ∃ regs, s.setNode 1 0xFFFFFF = { s with regs := regs } := ⟨_, rfl⟩
  rw [State.claimStep_eq, State.claimSent_eq, hnode, hports, State.setNode_net, htx, hset]

theorem State.ownedAnnounced (s : State) {id : Nat} (hnode : (s.setNode 3 id).nodeId = id) :
    ((s.setNode 3 id).broadcast 2 id).regs = (s.setNode 3 id).regs ∧
    (s.setNode 3 id).broadcast 2 id = { s with
      regs := ((s.setNode 3 id).broadcast 2 id).regs, net := { s.net with tx := s.announced id 2 id } } := by
  have htx := s.announced_setNode 3 id id 2 id
  obtain ⟨regs, hset⟩ : ∃ regs, s.setNode 3 id = { s with regs := regs } := ⟨_, rfl⟩
  rw [State.broadcast_announces _ (by decide) hnode, htx, hset]
  exact ⟨rfl, rfl⟩

/-! ### Ports and lanes (R346) -/

theorem State.addr_vngPort_ne {n : Nat} {q : Reg} (hq : q = .vngNodestat ∨ q = .vngEtype) :
    Reg.vngPort.addr 0 n ≠ q.addr 0 0 := by
  obtain rfl | rfl := hq <;> simp only [Reg.addr, Reg.info] <;> omega

/-- What a port's own register says moves neither the node nor its frames. -/
theorem State.node_setFld_vngPort (s : State) (n hi lo v : Nat) : (s.setFld .vngPort 0 n hi lo v).claimState = s.claimState ∧
    (s.setFld .vngPort 0 n hi lo v).owns = s.owns ∧ (s.setFld .vngPort 0 n hi lo v).nodeId = s.nodeId := by
  have hfld (a b : Nat) : (s.setFld .vngPort 0 n hi lo v).fld .vngNodestat 0 0 a b = s.fld .vngNodestat 0 0 a b :=
    State.fld_setFld_ne _ _ _ _ _ _ (State.addr_vngPort_ne (.inl rfl))
  exact ⟨hfld 26 24, congrArg (· == 3) (hfld 26 24), hfld 23 0⟩

theorem State.addFld_self (s : State) (r : Reg) (b i : Nat) {hi lo : Nat} (n : Nat) (h : hi < 32) (l : lo ≤ hi) :
    (s.addFld r b i hi lo n).fld r b i hi lo = min (s.fld r b i hi lo + n) (2 ^ (hi + 1 - lo) - 1) := by
  rw [State.addFld, State.fld_setFld_self _ _ _ _ _ h l]
  have := Nat.two_pow_pos (hi + 1 - lo)
  exact Nat.mod_eq_of_lt (by omega)

/-- A port's pending lanes, once set (R346). -/
theorem State.setPending_spec (s : State) (n : Nat) (v : BitVec 16) : (s.setPending n v).lanesPending n = v ∧
    (s.setPending n v).flag .vngPort 0 n 3 = (v != 0) := by
  constructor
  · have hput : (s.setPending n v).net.pendLanes = s.net.pendLanes.set n 0 v.toNat := rfl
    rw [State.lanesPending, hput, SMap.atD_set_self, BitVec.ofNat_toNat, BitVec.setWidth_eq]
  · refine (State.flag_setFld _ _ _ _ _ _ (by decide) (by decide)).trans ((if_pos (by decide)).trans ?_)
    cases (v != 0) <;> rfl

theorem or_twoPow_ne_zero (v : BitVec 16) {lane : Nat} (h : lane < 16) : (v ||| BitVec.twoPow 16 lane) ≠ 0 := by
  intro hz
  have hbit := congrArg (fun w : BitVec 16 => w.getLsbD lane) hz
  simp [h] at hbit

theorem ne_zero_of_getLsbD {v : BitVec 16} {lane : Nat} (h : v.getLsbD lane = true) : v ≠ 0 := by
  rintro rfl
  simp at h

end Sys2Proof.Machine

open Sys2Proof Sys2Proof.Machine

/-- Settles O39: each event of the claim protocol is one case of the node's state. -/
theorem nodeIdsAreClaimed : Obligations.NodeIdsAreClaimed := by
  intro s id port uid
  have hcollides (hst : s.claimState = 1) (hid : s.net.claimId = id) (huid : uid ≠ Config.uid) :
      ¬(s.owns && s.nodeId == id) = true ∧ (s.claimState = 1 && s.net.claimId == id && uid ≠ Config.uid) = true := by
    simp [State.owns_of_claimState hst, hst, hid, huid]
  refine ⟨fun howns hid => ⟨?_, ?_⟩, fun hst hid huid => ?_, fun hst hid huid => ?_, fun howns hid hlt houts hquiet => ?_,
    fun hst hpos hlt => ?_, fun hst hsends hok => ?_, fun hst => ?_⟩
  · refine congrArg Host.Outcome.next ((if_pos (by simp [howns, hid])).trans ?_)
    exact s.broadcast_announces (by decide) hid id
  · refine congrArg Host.Outcome.next ((if_pos howns).trans ?_)
    rw [hid]
    exact s.broadcast_announces (by decide) hid id
  · obtain ⟨hno, hyes⟩ := hcollides hst hid huid
    refine ⟨_, congrArg Host.Outcome.next ((if_neg hno).trans (if_pos hyes)), fun hnew => ?_, fun hold hlt => ?_, fun hold hlt => ?_⟩
    · rw [if_neg (by simpa using hnew)]
      exact ⟨(State.fld_setNode _ (by decide) (by decide)).1, rfl⟩
    · rw [if_pos (by simpa using hold), if_pos hlt]
    · rw [if_pos (by simpa using hold), if_neg (by omega)]
      obtain ⟨hstate, -, hseq, -⟩ := s.nodeLost_spec id uid
      exact ⟨hstate, hseq⟩
  · obtain ⟨hstate, hnet, hseq, -⟩ := s.nodeLost_spec id uid
    refine ⟨_, congrArg Host.Outcome.next ((if_neg huid).trans (if_pos ?_)), hstate, hnet, hseq⟩
    simpa [hid] using hst
  · obtain ⟨hstate, hins, hcloves⟩ := State.loseId_spec houts uid
    have hne : uid ≠ Config.uid := fun h => absurd hlt (h ▸ lt_irrefl _)
    have hclaim : ¬((s.claimState = 1 || s.claimState = 2) && s.net.claimId == id) = true := by
      have h3 : s.claimState = 3 := beq_iff_eq.1 howns
      simp [h3]
    have hsettled : (s.loseId uid).settle = s.loseId uid := (hquiet.of_cloves hcloves).settle
    refine ⟨s.loseId uid, congrArg Host.Outcome.next ((if_neg hne).trans ((if_neg hclaim).trans ((if_pos ?_).trans hsettled))),
      hstate, State.owns_of_claimState hstate, hins⟩
    simp [howns, hid, hlt]
  · refine congrArg Host.Outcome.next ((if_pos (by simp [hst, hpos, hlt])).trans ?_)
    exact State.broadcast_announces _ (by decide) rfl _
  · obtain ⟨hstate, hnode⟩ := s.fld_setNode (st := 3) (by decide) (nodeIdOk_lt hok)
    refine ⟨(s.setNode 3 s.net.claimId).broadcast 2 s.net.claimId, congrArg Host.Outcome.next (if_pos (by simp [hst, hsends])), ?_⟩
    obtain ⟨hregs, hbegun⟩ := s.ownedAnnounced hnode
    refine ⟨State.owns_of_claimState ((State.fld_congr hregs ..).trans hstate), (State.fld_congr hregs ..).trans hnode, hbegun⟩
  · obtain ⟨hstate, -⟩ := s.claimStep_spec
    exact ⟨_, congrArg Host.Outcome.next (if_pos hst), hstate, s.claimStep_begins⟩

/-- Settles O40: a port's register, its lanes and the node's state choose what follows a change of its link. -/
theorem portsAndLanesChange : Obligations.PortsAndLanesChange := by
  intro s n lane hn hlane
  refine ⟨⟨_, rfl, rfl, ?_⟩, fun hon hdown st hst => ?_, ?_, fun hon hpend hfree => ?_, fun hon hpend hspare => ?_, ?_⟩
  · exact (State.fld_setFld_self _ _ _ _ _ (by decide) (by decide)).trans (Nat.zero_mod _)
  · have hexec : exec (.portLinkChange n true) s = .next (s.portUp n st) := by
      refine congrArg Host.Outcome.next ((if_neg (by simp)).trans ((if_neg (not_not.2 hon)).trans ((if_neg (by omega)).trans ?_)))
      rw [hst]
    have hlt : st < 2 ^ (2 + 1 - 0) := by
      rw [hst]
      split <;> decide
    obtain ⟨hstate, howns, hnode⟩ := s.node_setFld_vngPort n 2 0 st
    refine ⟨s.setFld .vngPort 0 n 2 0 st, rfl,
      (State.fld_setFld_self _ _ _ _ _ (by decide) (by decide)).trans (Nat.mod_eq_of_lt hlt), fun hno hnot => ?_, fun hno hown => ?_,
      fun hclaim hsends => ?_⟩
    · rw [hexec, State.portUp, if_neg (by simp [hstate, hno]), if_neg (by simp [howns, hnot])]
    · rw [hexec, State.portUp, if_neg (by simp [hstate, hno]), if_pos (howns.trans hown), State.claimFrame_eq _ (by decide)]
    · rw [hexec, State.portUp, if_pos (by simp [hstate, hclaim, hsends])]
  · obtain ⟨hpend, hflag⟩ := s.setPending_spec n (s.lanesPending n ||| BitVec.twoPow 16 lane)
    exact ⟨_, rfl, hpend, hflag.trans (bne_iff_ne.2 (or_twoPow_ne_zero _ hlane)), rfl⟩
  · have hgo : ¬(decide (s.lanesPending n = 0) || !true || decide ((s.domain (1272 + n)).st ≠ .on)) = true := by
      simpa [hon] using ne_zero_of_getLsbD hpend
    have hno : ¬(s.net.spareLane.at? n == some lane) = true := by simp [hfree]
    have hyes : ((s.lanesPending n).getLsbD lane && (s.net.spareLane.at? n).isNone) = true := by simp [hpend, hfree]
    refine ⟨_, congrArg Host.Outcome.next ((if_neg hgo).trans ((if_neg hno).trans (if_pos hyes))), ?_, ?_, rfl⟩
    · exact SMap.at?_put_self ..
    · exact (State.setPending_spec ..).1
  · have hgo : ¬(decide (s.lanesPending n = 0) || !true || decide ((s.domain (1272 + n)).st ≠ .on)) = true := by
      simpa [hon] using hpend
    exact ⟨_, congrArg Host.Outcome.next ((if_neg hgo).trans (if_pos (by simp [hspare]))), rfl, rfl⟩
  · exact ⟨_, congrArg Host.Outcome.next (if_pos hn), rfl, State.addFld_self _ _ _ _ _ (by decide) (by decide)⟩
end


section
/-! SUPPORT. Acknowledgements, frames in their order, lost flows and the checks of a mirror (R354 to R361, R369). -/
namespace Sys2Proof.Machine

/-! ### Acknowledgements (R355, R356) -/

theorem bitmapHas_nil (apsn psn : Nat) : bitmapHas [] apsn psn = false := by simp [bitmapHas]

theorem State.outFlow_setOut_self (s : State) (k : Nat) (f : OutFlow) : (s.setOut k f).outFlow k = some f := SMap.at?_put_self ..

/-- A flow without a bitmap frees what lies below APSN, and nothing that is left has been overtaken. -/
theorem State.ackFlow_of_no_bitmap {s : State} {k : Nat} {g : OutFlow} (hk : s.outFlow k = some g) (apsn credit : Nat) :
    s.ackFlow k apsn credit [] = (s.setOut k { g with
      unacked := g.unacked.filter (fun m => decide (apsn ≤ m.psn)), opened := g.opened || decide (0 < apsn)
      credits := min (g.credits + credit) 2048 }).pump k pumpFuel := by
  have harrived (psn : Nat) : (!(decide (psn < apsn) || false)) = decide (apsn ≤ psn) := by
    rw [Bool.or_false, ← decide_not, decide_eq_decide]
    exact not_lt
  have hlater (m : OutMsg) (hm : apsn ≤ m.psn) :
      g.unacked.filter (fun x => decide (m.psn < x.psn) && (decide (x.psn < apsn) || false)) = [] := by
    refine List.filter_eq_nil_iff.2 fun x _ => ?_
    simp only [Bool.or_false, Bool.and_eq_true, decide_eq_true_eq]
    omega
  have hdue : (g.unacked.filter (fun m => decide (apsn ≤ m.psn))).filter (fun m => decide (
      (g.unacked.filter (fun x => decide (m.psn < x.psn) && (decide (x.psn < apsn) || false))).length ≥ m.later + 8)) = [] := by
    refine List.filter_eq_nil_iff.2 fun m hm => ?_
    rw [hlater m (by simpa using (List.mem_filter.1 hm).2)]
    simp
  simp only [State.ackFlow, hk, bitmapHas_nil, harrived, List.length_nil, Nat.mul_zero, List.range_zero, List.filter_nil,
    Nat.add_zero, hdue, List.map_nil, List.foldl_nil, List.contains_nil, Bool.false_eq_true, if_false, List.map_id', gt_iff_lt]

/-- What an acknowledgement leaves of a flow with nothing queued: its grant, and only messages that have not arrived. -/
def State.Acked (k : Nat) (opened : Bool) (credits : Nat) (P : Nat → Prop) (s : State) : Prop :=
  ∃ h : OutFlow, s.outFlow k = some h ∧ h.queue = [] ∧ h.opened = opened ∧ h.credits = credits ∧ ∀ m ∈ h.unacked, P m.psn

theorem State.pump_of_empty {s : State} {k : Nat} {h : OutFlow} (hk : s.outFlow k = some h) (hq : h.queue = []) (n : Nat) :
    s.pump k n = s := by
  cases n with
  | zero => rfl
  | succ n =>
    unfold State.pump
    cases s.nextPort <;> simp only [hk, hq]

theorem State.resend_acked {k : Nat} {o : Bool} {c : Nat} {P : Nat → Prop} {s : State} (h : s.Acked k o c P) (psn : Nat) :
    (s.resend k psn).Acked k o c P := by
  obtain ⟨f, hk, hq, ho, hc, hP⟩ := h
  unfold State.resend
  split
  next f' port hk' _ =>
    obtain rfl : f = f' := Option.some.inj (hk.symm.trans hk')
    split
    · exact ⟨f, hk, hq, ho, hc, hP⟩
    next m hm =>
      split
      · exact ⟨f, hk, hq, ho, hc, hP⟩
      · refine ⟨_, State.outFlow_setOut_self _ k _, hq, ho, hc, fun u hu => ?_⟩
        obtain ⟨v, hv, rfl⟩ := List.mem_map.1 hu
        split
        · exact hP m (List.mem_of_find?_eq_some hm)
        · exact hP v hv
  · exact ⟨f, hk, hq, ho, hc, hP⟩

theorem State.foldl_resend_acked {k : Nat} {o : Bool} {c : Nat} {P : Nat → Prop} (l : List Nat) : ∀ {s : State}, s.Acked k o c P →
    (l.foldl (fun s p => s.resend k p) s).Acked k o c P := by
  induction l with
  | nil => exact fun h => h
  | cons p l ih => exact fun h => ih (State.resend_acked h p)

/-- An acknowledgement of a flow with nothing queued (R355, R356). -/
theorem State.ackFlow_acked {s : State} {k : Nat} {g : OutFlow} (hk : s.outFlow k = some g) (hq : g.queue = []) (apsn credit : Nat)
    (bm : List Byte) : (s.ackFlow k apsn credit bm).Acked k (g.opened || decide (0 < apsn)) (min (g.credits + credit) 2048)
      (fun psn => apsn ≤ psn ∧ bitmapHas bm apsn psn = false) := by
  simp only [State.ackFlow, hk]
  have hset : ∀ f : OutFlow, f.queue = [] → f.opened = (g.opened || decide (apsn > 0)) → f.credits = min (g.credits + credit) 2048 →
      (∀ m ∈ f.unacked, apsn ≤ m.psn ∧ bitmapHas bm apsn m.psn = false) → ∀ l : List Nat,
      ((l.foldl (fun s p => s.resend k p) (s.setOut k f)).pump k pumpFuel).Acked k (g.opened || decide (0 < apsn))
        (min (g.credits + credit) 2048) (fun psn => apsn ≤ psn ∧ bitmapHas bm apsn psn = false) := by
    intro f hfq hfo hfc hfP l
    have hfirst : (s.setOut k f).Acked k (g.opened || decide (0 < apsn)) (min (g.credits + credit) 2048)
        (fun psn => apsn ≤ psn ∧ bitmapHas bm apsn psn = false) := ⟨f, State.outFlow_setOut_self s k f, hfq, hfo, hfc, hfP⟩
    have hfold := State.foldl_resend_acked l hfirst
    obtain ⟨h, hkh, hqh, -⟩ := id hfold
    rw [State.pump_of_empty hkh hqh]
    exact hfold
  refine hset _ ?_ ?_ ?_ (fun m hm => ?_) _
  · exact hq
  · rfl
  · rfl
  obtain ⟨u, hu, rfl⟩ := List.mem_map.1 hm
  have hleft := (List.mem_filter.1 hu).2
  simp only [Bool.not_eq_true', Bool.or_eq_false_iff, decide_eq_false_iff_not, not_lt] at hleft
  split
  · exact hleft
  · exact hleft

/-- A due acknowledgement goes out on the next port with the flow's next PSN and what it grants (R355, R356). -/
theorem State.sendAck_sends {s : State} {k port : Nat} {g : InFlow} (hk : s.net.ins.at? k = some g) (hport : s.nextPort = some port)
    (howns : s.owns = true) (limit : Nat) : ∃ fr : TxFrame,
      (fr.port = port ∧ fr.type = 0x10 ∧ fr.dnode = g.snode ∧ fr.dmac = nodeMac port g.snode ∧ fr.smac = nodeMac port s.nodeId ∧
        fr.gen = g.gen ∧ fr.apsn = g.expect) ∧
      s.sendAck k limit = (({ s with net := { s.net with nextPort := port + 1 } } : State).transmit fr).setIn k
        { g with ackDue := false, granted := g.granted + fr.credit } := by
  unfold State.sendAck
  simp only [hk, hport, howns, Bool.not_true, Bool.false_eq_true, if_false]
  exact ⟨_, ⟨rfl, rfl, rfl, rfl, rfl, rfl, rfl⟩, rfl⟩

/-- A message sent again is the same message, on the next port (R355). -/
theorem State.resend_sends {s : State} {k psn port : Nat} {g : OutFlow} {m : OutMsg} (hk : s.outFlow k = some g)
    (hport : s.nextPort = some port) (hm : g.unacked.find? (fun m => m.psn == psn) = some m) (howns : s.owns = true) :
    ∃ fr : TxFrame, (fr.port = port ∧ fr.type = m.type ∧ fr.psn = m.psn ∧ fr.gen = g.gen ∧ fr.body = m.body) ∧
      s.resend k psn = ((({ s with net := { s.net with nextPort := port + 1 } } : State).transmit fr).setOut k { g with
        unacked := g.unacked.map (fun u => if u.psn = psn then ({ m with tries := m.tries + 1, port := port } : OutMsg) else u) }).addFld
          .vngPort 0 port 31 16 1 := by
  unfold State.resend
  simp only [hk, hport, hm, howns, Bool.not_true, Bool.false_eq_true, if_false]
  exact ⟨_, ⟨rfl, rfl, rfl, rfl, rfl⟩, rfl⟩

/-! ### Frames in their order (R354 to R357) -/

theorem InFlow.deliver_of_none {g : InFlow} (h : g.window.find? (fun e => e.1 == g.expect) = none) (n : Nat) :
    g.deliver n = ([], g) := by
  cases n with
  | zero => rfl
  | succ n => simp only [InFlow.deliver, h]

/-- The frame of an empty window that the flow expects is delivered at once. -/
theorem InFlow.deliver_next {g : InFlow} {type : Nat} {f : Frame} (h : g.window = [(g.expect, type, f)]) (n : Nat) :
    g.deliver (n + 1) = ([(type, f)], { g with expect := g.expect + 1, granted := g.granted - 1, window := [] }) := by
  have hfind : g.window.find? (fun e => e.1 == g.expect) = some (g.expect, type, f) := by
    rw [h]
    exact List.find?_cons_of_pos (beq_self_eq_true _)
  have hrest : g.window.filter (fun u => u.1 ≠ g.expect) = [] := by simp [h]
  unfold InFlow.deliver
  simp only [hfind, hrest]
  rw [InFlow.deliver_of_none (by rfl)]

theorem State.dataFrame_of_refused {s : State} {f : Frame} (h : s.takesFrame f = false) (type : Nat)
    (deliver : State → Frame → State) : s.dataFrame type f deliver = s.discard f.port := by
  simp only [State.dataFrame, h, Bool.not_false, if_true]

theorem State.dataFrame_of_taken {s u v w : State} {f : Frame} {type : Nat} {deliver : State → Frame → State}
    {ds : List (Nat × Frame)} (h : s.takesFrame f = true)
    (hu : u = (match s.outKey? (if type = 0x50 then mirrorPart else f.dpart) f.snode f.spart with
      | some k => s.ackFlow k f.apsn f.credit []
      | none => s))
    (hrec : u.receive type f = (ds, v)) (hw : w = ds.foldl (fun t d => deliver t d.2) v) :
    s.dataFrame type f deliver = ((if f.acknow then (match w.inKey? type f with
      | some k => w.ackIn k
      | none => w) else w).settleAcks).settle := by
  unfold State.dataFrame
  rw [if_neg (by simp [h])]
  extract_lets rev u' r w' x
  have hu' : u' = u := hu.symm
  have hw' : w' = w := by
    simp only [w', r, hu', hrec, hw]
  simp only [x, hw'] <;> rfl

section
variable {s : State} {f : Frame} {k type : Nat} {g : InFlow} (hk : s.inKey? type f = some k) (hg : s.net.ins.at? k = some g)
  (hgen : g.gen = f.gen)
include hk hg hgen

theorem State.receive_next (hwindow : g.window = []) (hpsn : f.psn = g.expect) : s.receive type f =
    ([(type, f)], s.setIn k { g with expect := g.expect + 1, granted := g.granted - 1, ackDue := true }) := by
  have hdeliver := InFlow.deliver_next (g := { g with ackDue := true, window := [(g.expect, type, f)] }) rfl 2047
  have hin : ¬ f.psn ≥ g.expect + 2048 := by omega
  have hfresh : (decide (f.psn < g.expect) || g.window.any (fun e => e.1 == f.psn)) = false := by simp [hwindow, hpsn]
  simp only [State.receive, hk, hg, if_pos hgen, hin, if_false, hfresh, Bool.false_eq_true]
  rw [hwindow, hpsn, List.nil_append, hdeliver, ← hwindow]

theorem State.receive_ahead (hahead : g.expect < f.psn) (hin : f.psn < g.expect + 2048)
    (hnew : ∀ e ∈ g.window, e.1 ≠ f.psn ∧ e.1 ≠ g.expect) :
    s.receive type f = ([], s.setIn k { g with ackDue := true, window := g.window ++ [(f.psn, type, f)] }) := by
  have hnone : (g.window ++ [(f.psn, type, f)]).find? (fun e => e.1 == g.expect) = none := by
    refine List.find?_eq_none.2 fun e he => ?_
    obtain he | he := List.mem_append.1 he
    · simpa using (hnew e he).2
    · obtain rfl := List.mem_singleton.1 he
      simpa using (Nat.ne_of_lt hahead).symm
  have hfresh : (decide (f.psn < g.expect) || g.window.any (fun e => e.1 == f.psn)) = false := by
    simp only [Bool.or_eq_false_iff, decide_eq_false_iff_not, not_lt, List.any_eq_false, beq_iff_eq]
    exact ⟨hahead.le, fun e he => (hnew e he).1⟩
  simp only [State.receive, hk, hg, if_pos hgen, Nat.not_le.2 hin, if_false, hfresh, Bool.false_eq_true]
  rw [InFlow.deliver_of_none hnone]

end

end Sys2Proof.Machine

open Sys2Proof Sys2Proof.Machine

/-- Settles O41: flows carry what they owe in the order of their PSNs, and what is lost is named. -/
theorem flowsCarryFrames : Obligations.FlowsCarryFrames := by
  refine ⟨⟨fun s f k g hrev hk => ⟨?_, ?_, fun hq => ?_⟩, fun s k port g hk hdue hport howns => ?_,
      fun s k psn port g m hk hport hm howns => ?_, fun s k => ⟨fun g hlt hk hun hq => ?_, fun g hk hw hdue => ?_⟩,
      fun s e u k g hk hun he hu => ⟨?_, ?_, ?_⟩⟩,
    fun s f c type deliver hc => ⟨fun hno => ?_, fun hyes u ds v w hu hrec hw => ?_⟩, fun s f k type g hk hg hgen => ⟨fun hw hpsn => ?_, fun hlt hin hnew => ?_⟩,
    fun s f x hx hpart hlen => ⟨fun hbad => ?_, fun hok hload hwhole => ?_, fun hok hstore => ?_⟩,
    fun s f key hm hnode hlen hkey => ⟨fun hnone => ?_, fun c hc => ?_⟩, fun s hm hout => ?_⟩
  · refine congrArg Host.Outcome.next ?_
    simp only [hrev]
    rw [State.ackFlow_of_no_bitmap hk]
  · refine congrArg Host.Outcome.next ?_
    simp only [hrev]
  · obtain ⟨h, hkh, -, hopened, hcredits, hP⟩ := State.ackFlow_acked hk hq f.apsn f.credit f.body
    exact ⟨h, hkh, hopened, hcredits, hP⟩
  · obtain ⟨fr, ⟨hfp, hft, hfn, hfd, hfs, hfg, hfa⟩, hsend⟩ := State.sendAck_sends hk hport howns (s.inLimit g)
    have hack : (match s.net.ins.at? k with
        | some g => if g.ackDue then s.ackIn k else s
        | none => s) = s.sendAck k (s.inLimit g) := by
      simp only [hk, hdue, if_true, State.ackIn]
    exact ⟨_, fr, congrArg Host.Outcome.next (hack.trans hsend), rfl, hfp, hft, hfn, hfd, hfs, hfg, hfa, SMap.at?_put_self ..⟩
  · obtain ⟨fr, hfr, hsend⟩ := State.resend_sends hk hport hm howns
    exact ⟨_, fr, congrArg Host.Outcome.next hsend, rfl, hfr.1, hfr.2.1, hfr.2.2.1, hfr.2.2.2.1, hfr.2.2.2.2, SMap.at?_put_self ..⟩
  · refine congrArg Host.Outcome.next ((if_pos hlt).trans ?_)
    simp only [hk, hun, hq, List.isEmpty_nil, Bool.and_self, if_true]
  · refine congrArg Host.Outcome.next ((if_neg (by omega)).trans ?_)
    simp only [Nat.add_sub_cancel_left, hk, hw, hdue, List.isEmpty_nil, Bool.not_false, Bool.and_self, if_true]
  · exact he ▸ (State.event_nextSeq ..).symm ▸ Nat.lt_succ_self _
  · exact hu ▸ SMap.at?_del_self ..
  · have hbusy : g.unacked.isEmpty = false := by simpa using hun
    subst he hu
    refine congrArg Host.Outcome.next ?_
    simp only [hk, hbusy, Bool.false_eq_true, if_false, State.loseFlow]
  · obtain ⟨rfl, rfl, rfl⟩ | ⟨rfl, rfl, rfl⟩ | ⟨rfl, rfl, rfl⟩ | ⟨rfl, rfl, rfl⟩ := hc <;>
      exact congrArg Host.Outcome.next (State.dataFrame_of_refused hno _ _)
  · obtain ⟨rfl, rfl, rfl⟩ | ⟨rfl, rfl, rfl⟩ | ⟨rfl, rfl, rfl⟩ | ⟨rfl, rfl, rfl⟩ := hc <;>
      exact congrArg Host.Outcome.next (State.dataFrame_of_taken hyes hu hrec hw)
  · exact ⟨_, State.receive_next hk hg hgen hw hpsn, rfl⟩
  · exact State.receive_ahead hk hg hgen hlt hin hnew
  · simp only [State.deliverTier, hx, hpart, Nat.not_lt.2 hlen, hbad, ne_eq, not_true_eq_false, decide_false,
      Bool.or_self, not_false_eq_true, decide_true, Bool.true_or, Bool.false_eq_true, if_false, if_true]
  · simp only [State.deliverTier, hx, hpart, Nat.not_lt.2 hlen, hok, hload, Nat.not_lt.2 hwhole, ne_eq, not_true_eq_false,
      decide_false, Bool.or_self, Bool.and_false, Bool.false_eq_true, if_false]
  · simp only [State.deliverTier, hx, hpart, Nat.not_lt.2 hlen, hok, hstore, ne_eq, not_true_eq_false,
      decide_false, Bool.or_self, Bool.not_true, Bool.false_and, Bool.false_eq_true, if_false, if_true]
  · subst hkey
    simp only [State.deliverCheck, hm, hnode, Nat.not_lt.2 hlen, hnone, ne_eq, not_true_eq_false, decide_false, Bool.not_true,
      Bool.or_self, Bool.false_eq_true, if_false]
  · subst hkey
    simp only [State.deliverCheck, hm, hnode, Nat.not_lt.2 hlen, hc, ne_eq, not_true_eq_false, decide_false, Bool.not_true,
      Bool.or_self, Bool.false_eq_true, if_false]
  · have hgo : ¬(!s.mirrored || s.net.checksOut.isEmpty) = true := by simp [hm, hout]
    refine ⟨{ s.setFld .vngMirror 0 0 26 26 1 with net := { s.net with checksOut := [], checksIn := [] } },
      congrArg Host.Outcome.next (if_neg hgo), ?_, rfl⟩
    exact (State.flag_setFld _ _ _ _ _ _ (by decide) (by decide)).trans (if_pos (by decide))
end


section
/-! SUPPORT. The registers that records, stopped work and domains that go OFF write: every other register, and the boot
flash, stand through them (R389, R410, R420, R424). -/
namespace Sys2Proof.Machine

/-- The registers that a record, the end of a request, a reset of a partition and a domain that goes OFF write. -/
def workRegs : List Reg :=
  [.errLogHead, .errAlert, .errGate, .prtSrvStat, .prtVngCallen, .prtSqCfg, .prtLock, .prtReset, .prtPwrStat, .fldDspStat,
    .fldPwrTemp, .fldIntCnt0, .fldIntCnt1, .fldIntCnt2, .fldScrEcc, .fldKvwStat, .fldDspCnt, .memStkStat, .vngPort]

/-- A register that lies apart from those of work: by its place in its block, or among the module's own below the blocks. -/
def OutsideWork (q : Reg) (b i : Nat) : Prop := q.apartFrom workRegs = true ∧ i < q.info.count ∨ q.addr b i < 0x20000

theorem OutsideWork.ne {q : Reg} {b i : Nat} (h : OutsideWork q b i) {r : Reg} (hr : r ∈ workRegs) (c : Nat) {j : Nat}
    (hj : j < r.info.count) : r.addr c j ≠ q.addr b i := by
  obtain ⟨hapart, hi⟩ | hlow := h
  · exact (Reg.addr_ne_of_apart hapart hr b c hi hj).symm
  · have hbase : ∀ r ∈ workRegs, 0x20000 ≤ r.info.base := by decide
    have hr' := hbase r hr
    unfold Reg.addr at hlow ⊢
    omega

/-- From s to t the boot flash stands, and every register that lies apart from those of work. -/
structure OffWork (s t : State) : Prop where
  flash : t.flash = s.flash
  regs : ∀ (q : Reg) (b i : Nat), OutsideWork q b i → t.reg q b i = s.reg q b i

namespace OffWork
variable {a b c : State}

theorem refl (s : State) : OffWork s s := ⟨rfl, fun _ _ _ _ => rfl⟩

theorem trans (h : OffWork a b) (g : OffWork b c) : OffWork a c :=
  ⟨g.flash.trans h.flash, fun q k i hq => (g.regs q k i hq).trans (h.regs q k i hq)⟩

/-- The same, the later part first. -/
theorem after (g : OffWork b c) (h : OffWork a b) : OffWork a c := h.trans g

theorem of_eq (hflash : b.flash = a.flash) (hregs : b.regs = a.regs) : OffWork a b :=
  ⟨hflash, fun _ _ _ _ => State.reg_of_regs hregs ..⟩

theorem ite {p : Prop} [Decidable p] (h : p → OffWork a b) (g : ¬ p → OffWork a c) : OffWork a (if p then b else c) := by
  split
  · exact h ‹_›
  · exact g ‹_›

theorem foldl_mem {α : Type} {f : State → α → State} {l : List α} {s : State} (hf : ∀ s, ∀ x ∈ l, OffWork s (f s x)) :
    OffWork s (l.foldl f s) :=
  List.foldlRecOn l f (refl s) fun t ht x hx => ht.trans (hf t x hx)

theorem foldl {α : Type} {f : State → α → State} {l : List α} {s : State} (hf : ∀ s x, OffWork s (f s x)) :
    OffWork s (l.foldl f s) :=
  foldl_mem fun s x _ => hf s x

theorem flag (h : OffWork a b) {q : Reg} (hq : q.apartFrom workRegs = true) (k n : Nat) {i : Nat} (hi : i < q.info.count) :
    b.flag q k i n = a.flag q k i n := by
  rw [State.flag, h.regs q k i (.inl ⟨hq, hi⟩), ← State.flag]

theorem fld (h : OffWork a b) {q : Reg} (hq : q.apartFrom workRegs = true) (k hi lo : Nat) {i : Nat} (hplace : i < q.info.count) :
    b.fld q k i hi lo = a.fld q k i hi lo := by
  rw [State.fld, h.regs q k i (.inl ⟨hq, hplace⟩), ← State.fld]

/-- A register of the module itself stands. -/
theorem low (h : OffWork a b) {q : Reg} {i : Nat} (hlow : q.addr 0 i < 0x20000) : b.reg q 0 i = a.reg q 0 i :=
  h.regs q 0 i (.inr hlow)

end OffWork

namespace State
variable (s : State)

/-! ### Registers and records -/

theorem setReg_offWork {r : Reg} (hr : r ∈ workRegs) (b : Nat) {i : Nat} (v : W32) (hi : i < r.info.count) :
    OffWork s (s.setReg r b i v) :=
  ⟨rfl, fun _ _ _ hq => s.reg_setReg_ne v (hq.ne hr b hi)⟩

theorem setFld_offWork {r : Reg} (hr : r ∈ workRegs) (b hi lo v : Nat) {i : Nat} (hplace : i < r.info.count) :
    OffWork s (s.setFld r b i hi lo v) :=
  s.setReg_offWork hr b _ hplace

theorem log_offWork (c : Code) (part h0 h1 w2 w3 : Nat) : OffWork s (s.log c part h0 h1 w2 w3) := by
  refine ⟨by rw [State.log_eq], fun q b i hq => ?_⟩
  exact s.reg_log_ne c part h0 h1 w2 w3 (hq.ne (by decide) 0 (by decide)) (hq.ne (by decide) 0 (by decide))

/-! ### Messages (R354 to R358) -/

theorem modReq_offWork (id : Nat) (f : Request → Request) : OffWork s (s.modReq id f) := .of_eq rfl rfl

theorem pump_offWork (k n : Nat) : ∀ s : State, OffWork s (s.pump k n) := by
  induction n with
  | zero => exact .refl
  | succ n ih =>
    intro s
    unfold State.pump
    split
    · split
      · exact .refl s
      · exact .ite (fun _ => .refl s) fun _ => (ih _).after (.of_eq rfl rfl)
    · exact .refl s

theorem sendMsg_offWork (p dnode dpart type : Nat) (body : List Byte) (marks : List Bool) :
    OffWork s (s.sendMsg p dnode dpart type body marks).2 := by
  unfold State.sendMsg
  extract_lets put
  have hput (t : State) (k : Nat) (h : OffWork s t) : OffWork s (put t k).2 := by
    simp only [put]
    split
    · exact h.trans ((pump_offWork ..).after (.of_eq rfl rfl))
    · exact h
  split
  · exact hput s _ (.refl s)
  · split
    · exact hput _ _ (.of_eq rfl rfl)
    · exact .of_eq rfl rfl

theorem sendTrailer_offWork (q : Request) (m i status : Nat) : OffWork s (s.sendTrailer q m i status) := by
  unfold State.sendTrailer
  split
  · exact .refl s
  · refine .ite (fun _ => .refl s) fun _ => .ite (fun _ => modReq_offWork ..) fun _ => ?_
    exact ((s.sendMsg_offWork ..).trans (modReq_offWork ..)).trans (modReq_offWork ..)

theorem endStreams_offWork (q : Request) (status : Nat) : OffWork s (s.endStreams q status) :=
  .foldl fun _ _ => .foldl fun _ _ => sendTrailer_offWork ..

theorem restartFlows_offWork (p : Nat) : OffWork s (s.restartFlows p) := by
  have hflow (t : State) (k : Nat) (f : OutFlow) : OffWork t (t.restartFlow k f) := (pump_offWork ..).after (.of_eq rfl rfl)
  exact .after (.foldl fun _ _ => hflow ..) ((setReg_offWork _ (by decide) p 0 (by decide)).after (.of_eq rfl rfl))

/-! ### Caches (R273, R282) -/

theorem modPart_offWork (p : Nat) (g : Part → Part) : OffWork s (s.modPart p g) := .of_eq rfl rfl

theorem modField_offWork (f : Nat) (g : Field → Field) : OffWork s (s.modField f g) := .of_eq rfl rfl

theorem storeBytes_offWork (a : Nat) (bs : List Byte) : OffWork s (s.storeBytes a bs) := .of_eq rfl rfl

theorem tlbDrop_offWork (p : Nat) (f : TlbEntry → Bool) : OffWork s (s.tlbDrop p f) := .foldl fun _ _ => modField_offWork ..

theorem putFrm_offWork (p f : Nat) (v : Frm) : OffWork s (s.putFrm p f v) :=
  .trans (.ite (fun _ => s.tlbDrop_offWork p _) fun _ => .refl s) (storeBytes_offWork ..)

theorem putPte_offWork (p cid layer pidx : Nat) (v : Pte) : OffWork s (s.putPte p cid layer pidx v) :=
  (s.tlbDrop_offWork p _).trans (storeBytes_offWork ..)

theorem freeIfUnused_offWork (p f : Nat) : OffWork s (s.freeIfUnused p f) := by
  unfold State.freeIfUnused
  extract_lets v slotFree tierFree
  have hslot : OffWork s slotFree := .ite (fun _ => .refl s) fun _ => modPart_offWork ..
  have htier : OffWork slotFree tierFree := .ite (fun _ => modPart_offWork ..) fun _ => .refl _
  exact .ite (fun _ => .refl s) fun _ => ((hslot.trans htier).trans (modPart_offWork _ p _)).trans (putFrm_offWork ..)

theorem unpinFrame_offWork (p f : Nat) : OffWork s (s.unpinFrame p f) :=
  (s.putFrm_offWork p f _).trans (freeIfUnused_offWork _ p f)

theorem unref_offWork (p f layer g : Nat) : OffWork s (s.unref p f layer g) :=
  (s.putFrm_offWork p f _).trans (freeIfUnused_offWork _ p f)

theorem releaseCtx_offWork (p cid : Nat) : OffWork s (s.releaseCtx p cid) := by
  refine .ite (fun _ => .refl s) fun _ => ?_
  refine .trans (.trans (.foldl fun _ _ => .foldl fun t _ => .ite (fun _ => ?_) fun _ => .refl t)
    (storeBytes_offWork ..)) (modPart_offWork _ p _)
  exact (t.putPte_offWork ..).trans (unref_offWork ..)

theorem clearPins_offWork (p : Nat) : OffWork s (s.clearPins p) :=
  .ite (fun _ => .refl s) fun _ => .foldl fun t _ => (t.putFrm_offWork p _ _).trans (freeIfUnused_offWork _ p _)

/-! ### Rings and requests (R298, R332, R343) -/

theorem endCmd_offWork (p r no status reqid result detail : Nat) : OffWork s (s.endCmd p r no status reqid result detail) := by
  unfold State.endCmd
  split
  · exact .refl s
  · exact .of_eq rfl rfl

theorem endWaiting_offWork (no status reqid result detail : Nat) : OffWork s (s.endWaiting no status reqid result detail) := by
  unfold State.endWaiting
  split
  · exact endCmd_offWork ..
  · exact .refl s

theorem endRequest_offWork (id : Nat) (st : Status) : OffWork s (s.endRequest id st) := by
  unfold State.endRequest
  split
  · exact .refl s
  next q _ =>
    extract_lets ended unpinned released told sv gone e counted answered
    have hended : OffWork s ended := .ite (fun _ => endStreams_offWork ..) fun _ => .refl s
    have hunpinned : OffWork ended unpinned := .foldl fun _ _ => unpinFrame_offWork ..
    have hreleased : OffWork unpinned released := .foldl fun _ _ => .foldl fun _ _ => .foldl fun _ _ => releaseCtx_offWork ..
    have htold : OffWork released told := .foldl fun _ _ => .of_eq rfl rfl
    have hgone : OffWork told gone := .of_eq rfl rfl
    have hcounted : OffWork gone counted := .ite (fun _ => .of_eq rfl rfl) fun _ => .refl gone
    have hanswered : OffWork counted answered := .foldl fun _ _ => endWaiting_offWork ..
    have hend : OffWork answered (answered.syncContexts q.group) := setFld_offWork _ (by decide) _ _ _ _ (by decide)
    exact hended.trans (hunpinned.trans (hreleased.trans (htold.trans (hgone.trans (hcounted.trans (hanswered.trans hend))))))

theorem voidEnd_offWork (q : Request) (cause : Option (Nat × Nat × Nat × Nat)) : OffWork s (s.voidEnd q cause) :=
  (s.modReq_offWork q.id _).trans (endRequest_offWork _ q.id .voided)

/-! ### Partitions stopped (R343, R410, R430) -/

theorem closeGates_offWork (ps : List Nat) (cause : Nat) : OffWork s (s.closeGates ps cause) :=
  .foldl fun _ p => (setFld_offWork _ (r := .errGate) (by decide) 0 p p 1 (by decide)).after (.of_eq rfl rfl)

theorem stopPart_offWork (p : Nat) (full : Bool) : OffWork s (s.stopPart p full) :=
  .trans (.trans (s.modPart_offWork p _) (.foldl fun t c =>
    (t.setFld_offWork (r := .fldDspStat) (by decide) (3 * p + c) 31 16 0 (by decide)).trans (modField_offWork ..)))
    (clearPins_offWork ..)

theorem stopWork_offWork (l : Nat) (full : Bool) : OffWork s (s.stopWork l full) :=
  (OffWork.foldl fun _ _ => stopPart_offWork ..).after (.of_eq rfl rfl)

theorem resetHost_offWork (p : Nat) : OffWork s (s.resetHost p) := by
  refine .trans (.foldl_mem fun t r hr => ?_) (setFld_offWork _ (r := .prtLock) (by decide) p 0 0 0 (by decide))
  exact (t.setFld_offWork (r := .prtSqCfg) (by decide) p 8 8 0 (List.mem_range.1 hr)).trans (.of_eq rfl rfl)

theorem partitionReset_offWork (l code cls part seq : Nat) : OffWork s (s.partitionReset l code cls part seq) := by
  refine .ite (fun _ => .refl s) fun _ => ?_
  have hbegun : OffWork s (s.resetBegun l (code, cls, seq)) := .of_eq rfl rfl
  have hbusy (t : State) (p : Nat) : OffWork t ((t.setFld .prtReset p 0 2 2 1).resetHost p) :=
    (t.setFld_offWork (r := .prtReset) (by decide) p 2 2 1 (by decide)).trans (State.resetHost_offWork ..)
  exact hbegun.trans ((State.closeGates_offWork _ _ 2).trans
    (.trans (.foldl fun t p => .after (.foldl fun _ _ => State.modField_offWork ..) (hbusy t p))
      (.trans (State.stopWork_offWork ..)
        (.trans (.foldl fun _ _ => State.restartFlows_offWork ..) (.foldl fun _ _ => State.voidEnd_offWork ..)))))

theorem partitionEvent_offWork (c : Code) (part h0 h1 w2 w3 : Nat) : OffWork s (s.partitionEvent c part h0 h1 w2 w3) :=
  (s.log_offWork c part h0 h1 w2 w3).trans (partitionReset_offWork ..)

/-! ### Domains that go OFF (R373, R389) -/

theorem putDomain_offWork (d : Nat) (v : Domain) : OffWork s (s.putDomain d v) := by
  have hset : OffWork s (s.setDomain d v) := .of_eq rfl rfl
  have hcol : d / 12 % 3 < Reg.prtPwrStat.info.count := Nat.mod_lt _ (by decide)
  refine .ite (fun _ => hset.trans ?_) fun _ => hset
  exact (setFld_offWork _ (r := .fldPwrTemp) (by decide) _ _ _ _ (by decide)).trans
    ((setFld_offWork _ (r := .prtPwrStat) (by decide) _ _ _ _ hcol).trans
      (setFld_offWork _ (r := .prtPwrStat) (by decide) _ _ _ _ hcol))

theorem loseHub_offWork (f : Nat) : OffWork s (s.loseHub f) := by
  unfold State.loseHub
  extract_lets counters dispatch looked
  have hcounters : OffWork s counters := .foldl_mem fun t r hr => by
    have hplace : r ∈ workRegs ∧ 0 < r.info.count := by
      revert r
      decide
    exact t.setReg_offWork hplace.1 f _ hplace.2
  have hdispatch : OffWork counters dispatch := .foldl_mem fun t k hk =>
    t.setReg_offWork (r := .fldDspCnt) (by decide) f 0 (List.mem_range.1 hk)
  have hlooked : OffWork dispatch looked := modField_offWork ..
  exact (hcounters.trans (hdispatch.trans hlooked)).trans (.ite (fun _ => modPart_offWork ..) fun _ => .refl looked)

theorem loseDomain_offWork (d : Nat) : OffWork s (s.loseDomain d) := by
  refine .ite (fun _ => .of_eq rfl rfl) fun _ => .ite (fun _ => loseHub_offWork ..) fun _ =>
    .ite (fun hstack => ?_) fun _ => .ite (fun hport => ?_) fun _ => .refl s
  · have hzero : OffWork s (s.zeroStack (d - 1248)) := .of_eq rfl rfl
    exact hzero.trans (setFld_offWork _ (r := .memStkStat) (by decide) 0 8 8 0 (show d - 1248 < 24 by omega))
  · exact s.setFld_offWork (r := .vngPort) (by decide) 0 2 0 0 (show d - 1272 < 14 by omega)

theorem domainOff_offWork (d : Nat) : OffWork s (s.domainOff d) :=
  .ite (fun _ => putDomain_offWork ..) fun _ => (s.putDomain_offWork d _).trans (loseDomain_offWork ..)

theorem safetyOff_offWork (doms : List Nat) (cond : Nat) : OffWork s (s.safetyOff doms cond) := by
  have hcut : OffWork s (s.cutOff doms) := .foldl fun t d => (domainOff_offWork _ d).after (.of_eq rfl rfl)
  have hrecord (t : State) : OffWork t (t.recordOff doms cond) := .foldl fun u p =>
    .ite (fun _ => u.log_offWork ..) fun _ => u.partitionEvent_offWork ..
  have hleft (t : State) : OffWork t (t.leaveOut doms) := by
    rw [State.leaveOut_eq]
    exact .of_eq rfl rfl
  exact hcut.trans ((hrecord _).trans (hleft _))

end State

end Sys2Proof.Machine
end


section
/-! SUPPORT. What events, records, safety offs and strips that come up leave of a field's rail, setpoint and estimate
(R376, R384 to R390). -/
namespace Sys2Proof.Machine

/-! ### The registers of a field -/

theorem Reg.addr_ne_of_field {q r : Reg} (hq : q.addr 0 0 < 0x80000) (hr : r.info.base = 0x80000) (f : Nat) :
    q.addr 0 0 ≠ r.addr f 0 := by
  have hfield : 0x80000 ≤ r.addr f 0 := by
    rw [Reg.addr, hr]
    omega
  omega

theorem EventOnly.field_fld {s t : State} (h : EventOnly s t) {r : Reg} (hr : r.info.base = 0x80000) (f hi lo : Nat) :
    t.fld r f 0 hi lo = s.fld r f 0 hi lo := by
  rw [State.fld, h.reg (Reg.addr_ne_of_field (by decide) hr f) (Reg.addr_ne_of_field (by decide) hr f), ← State.fld]

theorem State.log_field_fld (s : State) (c : Code) (part h0 h1 w2 w3 : Nat) {r : Reg} (hr : r.info.base = 0x80000) (f hi lo : Nat) :
    (s.log c part h0 h1 w2 w3).fld r f 0 hi lo = s.fld r f 0 hi lo := by
  rw [State.fld, State.reg_log_ne _ _ _ _ _ _ _ (Reg.addr_ne_of_field (by decide) hr f) (Reg.addr_ne_of_field (by decide) hr f),
    ← State.fld]

theorem State.addr_rail_ne_age (f : Nat) : Reg.fldPwrRail.addr f 0 ≠ Reg.fldPwrAge.addr f 0 :=
  Reg.addr_ne_of_place f f (by decide) (by decide) (by decide)

theorem State.modField_fld (s : State) (f : Nat) (g : Field → Field) (r : Reg) (b i hi lo : Nat) :
    (s.modField f g).fld r b i hi lo = s.fld r b i hi lo := rfl

/-- The rail's voltage, once read. -/
theorem State.fld_rail_mv (s : State) (f : Nat) {mv : Nat} (h : mv < 1024) :
    (s.setFld .fldPwrRail f 0 9 0 mv).fld .fldPwrRail f 0 9 0 = mv :=
  (State.fld_setFld_self _ _ _ _ _ (by decide) (by decide)).trans (Nat.mod_eq_of_lt h)

/-- A setpoint and its rail target leave the rail's voltage, its phases and the trim. -/
theorem State.setRate_target (s : State) (f rate : Nat) :
    (s.setRate f rate).fld .fldPwrAge f 0 7 0 = s.fld .fldPwrAge f 0 7 0 ∧
    (s.setRate f rate).fld .fldPwrRail f 0 19 10 = railTarget f (s.fld .fldPwrAge f 0 7 0) rate := by
  have htarget : railTarget f (s.fld .fldPwrAge f 0 7 0) rate < 2 ^ (19 + 1 - 10) := by
    unfold railTarget
    omega
  have hset : ((s.setFld .fldPwrAge f 0 19 8 rate).setFld .fldPwrRail f 0 19 10 (railTarget f (s.fld .fldPwrAge f 0 7 0) rate)).fld
        .fldPwrAge f 0 7 0 = s.fld .fldPwrAge f 0 7 0 ∧
      ((s.setFld .fldPwrAge f 0 19 8 rate).setFld .fldPwrRail f 0 19 10 (railTarget f (s.fld .fldPwrAge f 0 7 0) rate)).fld
        .fldPwrRail f 0 19 10 = railTarget f (s.fld .fldPwrAge f 0 7 0) rate := by
    constructor
    · exact (State.fld_setFld_ne _ _ _ _ _ _ (State.addr_rail_ne_age f)).trans
        (State.fld_setFld_apart _ _ _ _ _ (by decide) (by decide) (by decide) (.inl (by decide)))
    · exact (State.fld_setFld_self _ _ _ _ _ (by decide) (by decide)).trans (Nat.mod_eq_of_lt htarget)
  unfold State.setRate
  dsimp only
  split
  · exact hset
  · exact hset

/-! ### Safety offs of a rail (R389, R390) -/

/-- A rail that is off meets neither of its conditions any more (R389). -/
def State.railCleared (s : State) (f : Nat) : State := (s.safetyClear [1152 + f]).clearStrips [f]

theorem State.railCleared_eq (s : State) (f : Nat) :
    s.railCleared f = { s with pwr := { s.pwr with safety := (s.railCleared f).pwr.safety } } := rfl

theorem State.railOff_eq (s : State) (f : Nat) : s.railOff f = (s.safetyOff (fieldDomains f) 3).railCleared f := rfl

theorem partOfDomain_fieldDomains {f d : Nat} (hf : f < 96) (hd : d ∈ fieldDomains f) : partOfDomain d = f / 3 := by
  simp only [fieldDomains, List.mem_append, List.mem_map, List.mem_range, List.mem_singleton] at hd
  unfold partOfDomain
  obtain ⟨i, hi, rfl⟩ | rfl := hd
  · rw [if_pos (by omega)]
    omega
  · rw [if_neg (by omega), if_pos (by omega)]
    omega

theorem hub_mem_fieldDomains (f : Nat) : 1152 + f ∈ fieldDomains f := by simp [fieldDomains]

/-- A rail's safety off: its field is OFF, a record names it, its partition is reset, and the rail reads what it read. -/
theorem State.railOff_spec (s : State) {f : Nat} (hf : f < 96) :
    (s.railOff f).fld .fldPwrRail f 0 9 0 = s.fld .fldPwrRail f 0 9 0 ∧
    (∀ d ∈ fieldDomains f, ((s.railOff f).domain d).st = .off) ∧
    ((s.railOff f).up.resets.at? (s.lead (f / 3))).isSome = true ∧ s.err.nextSeq < (s.railOff f).err.nextSeq := by
  have hrail := (s.safetyOff_offWork (fieldDomains f) 3).fld (q := .fldPwrRail) (by decide) f 9 0 (i := 0) (by decide)
  have hoff (d : Nat) (hd : d ∈ fieldDomains f) := (s.heldOff_safetyOff 3 hd).1
  have hreset := s.resets_safetyOff 3 (hub_mem_fieldDomains f)
    (by rw [partOfDomain_fieldDomains hf (hub_mem_fieldDomains f)]; omega)
  rw [partOfDomain_fieldDomains hf (hub_mem_fieldDomains f)] at hreset
  have hseq := s.nextSeq_lt_safetyOff 3 (doms := fieldDomains f) (List.ne_nil_of_mem (hub_mem_fieldDomains f))
  rw [State.railOff_eq]
  generalize s.safetyOff (fieldDomains f) 3 = t at *
  rw [State.railCleared_eq]
  exact ⟨hrail, fun d hd => congrArg Domain.st (hoff d hd), hreset, hseq⟩

/-! ### Strips that waited for a brown-out's end (R390) -/

/-- A strip whose request waited begins UP once it may. -/
def State.startHeld (s : State) (d : Nat) : State :=
  if (s.domain d).st == .off && (s.domain d).held == some true && s.mayStart d then s.beginUp d else s

/-- From s to t the domains and their safety offs alone may differ, and the registers that show them. -/
structure StripsOnly (s t : State) : Prop where
  frame : ∃ regs ds offs, t = { s with regs := regs, pwr := { s.pwr with domains := ds, safety := offs } }
  regs : OffWork s t

theorem StripsOnly.refl (s : State) : StripsOnly s s := ⟨⟨_, _, _, rfl⟩, .refl s⟩

theorem StripsOnly.trans {a b c : State} (h : StripsOnly a b) (g : StripsOnly b c) : StripsOnly a c := by
  refine ⟨?_, h.regs.trans g.regs⟩
  obtain ⟨_, _, _, hb⟩ := h.frame
  obtain ⟨regs, ds, offs, hc⟩ := g.frame
  exact ⟨regs, ds, offs, by rw [hc, hb]⟩

theorem State.startHeld_stripsOnly (s : State) {d : Nat} (hd : d < 1152) : StripsOnly s (s.startHeld d) := by
  have hsafe : StripsOnly s { s with pwr := { s.pwr with safety := s.pwr.safety.del d } } := ⟨⟨_, _, _, rfl⟩, .of_eq rfl rfl⟩
  have hput (t : State) (v : Domain) : StripsOnly t (t.putDomain d v) := ⟨⟨_, _, _, t.putDomain_frame d v⟩, t.putDomain_offWork d v⟩
  unfold State.startHeld
  split
  · rw [State.beginUp_eq hd]
    exact hsafe.trans (hput _ _)
  · exact .refl s

theorem State.startHeld_sameStrip (s : State) {d e : Nat} (he : e < 1152) (hne : e ≠ d) : SameStrip d s (s.startHeld e) := by
  refine .ite ?_ (.refl s)
  have hsafe : SameStrip d s { s with pwr := { s.pwr with safety := s.pwr.safety.del e } } := ⟨rfl, SMap.at?_del_ne _ hne, rfl, rfl⟩
  rw [State.beginUp_eq he]
  exact hsafe.trans (State.putDomain_sameStrip _ hne _)

/-- The strips of a field that waited, one by one. -/
def State.startField (s : State) (f : Nat) : State := (List.range 12).foldl (fun t i => t.startHeld (f * 12 + i)) s

theorem State.startField_stripsOnly (s : State) {f : Nat} (hf : f < 96) : StripsOnly s (s.startField f) :=
  List.foldlRecOn (motive := fun t => StripsOnly s t) _ _ (.refl s) fun t ht i hi =>
    ht.trans (t.startHeld_stripsOnly (by have := List.mem_range.1 hi; omega))

/-- Every strip of the field that waited, and may come up, is UP. -/
theorem State.startField_starts {s : State} {f i : Nat} (hf : f < 96) (hi : i < 12) (hoff : (s.domain (f * 12 + i)).st = .off)
    (hheld : (s.domain (f * 12 + i)).held = some true) (hmay : s.mayStart (f * 12 + i) = true) :
    (s.startField f).domain (f * 12 + i) = ⟨.up, none, false⟩ := by
  obtain ⟨u, hbefore, hafter⟩ := foldl_at (R := SameStrip (f * 12 + i)) (f := fun t j => State.startHeld t (f * 12 + j))
    SameStrip.refl (fun _ _ _ => SameStrip.trans) List.nodup_range (List.mem_range.2 hi)
    (fun t j hj hne => t.startHeld_sameStrip (by have := List.mem_range.1 hj; omega) (by omega)) s
  have hstart : u.startHeld (f * 12 + i) = u.beginUp (f * 12 + i) := by
    refine if_pos ?_
    rw [hbefore.domain, hoff, hheld, hbefore.mayStart, hmay]
    rfl
  refine hafter.domain.trans ?_
  rw [hstart, State.beginUp_eq (by omega), State.domain_putDomain_self]

end Sys2Proof.Machine
end


section
/-! SUPPORT. A field's events, one by one (R376, R378, R384 to R390). -/
namespace Sys2Proof.Machine

section
variable {s : State} {f : Nat}

/-! ### Brown-outs (R390) -/

/-- A field marked as browned out, with its event open. -/
def State.brownOut (s : State) (f : Nat) : State := (s.modField f (fun v => { v with brown := true })).openEvent 4 f

theorem State.brownOut_spec (s : State) (f : Nat) : (s.brownOut f).fld .fldPwrRail f 0 9 0 = s.fld .fldPwrRail f 0 9 0 ∧
    ((s.brownOut f).field f).brown = true ∧ ((s.brownOut f).openRec 4 f).isSome = true ∧ (s.brownOut f).err = s.err ∧
    (∀ p, (s.brownOut f).lead p = s.lead p) := by
  have honly := (s.modField f (fun v => { v with brown := true })).openEvent_eventOnly 4 f
  refine ⟨honly.field_fld rfl f 9 0, ?_, State.openRec_openEvent _ 4 f, honly.err, fun p => ?_⟩
  · rw [State.brownOut, honly.field, State.field_modField_self]
  · refine congrArg (fun w => regField w 4 0) (honly.reg (q := .prtGroup) (b := p) (i := 0) ?_ ?_)
    · exact Reg.addr_ne_of_place 0 p (by decide) (by decide) (by decide)
    · exact Reg.addr_ne_of_place 0 p (by decide) (by decide) (by decide)

theorem State.lead_setFld_rail (s : State) (f hi lo v p : Nat) : (s.setFld .fldPwrRail f 0 hi lo v).lead p = s.lead p :=
  State.fld_setFld_ne _ _ _ _ _ _ (Reg.addr_ne_of_place f p (by decide) (by decide) (by decide))

/-- A brown-out at 0.45 V or below, and an overcurrent, are a safety off of the field (R389, R390). -/
theorem execRailOff {mv : Nat} {c : Instr}
    (hc : c = .fieldBrownoutWarn f mv ∧ mv ≤ 450 ∨ c = .fieldOvercurrent f mv ∧ mv < 1024) :
    ∃ u : State, exec c s = .next (u.railOff f) ∧ u.fld .fldPwrRail f 0 9 0 = mv ∧ u.lead (f / 3) = s.lead (f / 3) ∧
      u.err.nextSeq = s.err.nextSeq := by
  obtain ⟨rfl, hmv⟩ | ⟨rfl, hmv⟩ := hc
  · have hread := s.fld_rail_mv f (mv := mv) (by omega)
    have hlead := s.lead_setFld_rail f 9 0 mv (f / 3)
    obtain ⟨hrail, -, -, herr, hgroup⟩ := (s.setFld .fldPwrRail f 0 9 0 mv).brownOut_spec f
    by_cases hlow : mv + 80 < min (s.fld .fldPwrRail f 0 19 10) (s.field f).slewFrom
    · refine ⟨(s.setFld .fldPwrRail f 0 9 0 mv).brownOut f, congrArg Host.Outcome.next ((if_pos hmv).trans ?_), hrail.trans hread,
        (hgroup _).trans hlead, congrArg Err.nextSeq herr⟩
      exact congrArg (fun t => State.railOff t f) (if_pos hlow)
    · refine ⟨s.setFld .fldPwrRail f 0 9 0 mv, congrArg Host.Outcome.next ((if_pos hmv).trans ?_), hread, hlead, rfl⟩
      exact congrArg (fun t => State.railOff t f) (if_neg hlow)
  · exact ⟨_, rfl, s.fld_rail_mv f hmv, s.lead_setFld_rail f 9 0 mv (f / 3), rfl⟩

/-- The end of a brown-out: its event closes, and the strips that waited begin UP (R390, R398). -/
theorem execFieldBrownoutEnd_eq {mv us : Nat} (hbrown : (s.field f).brown = true) (hus : 10 ≤ us)
    (hmv : s.fld .fldPwrRail f 0 19 10 ≤ mv + 40) : exec (.fieldBrownoutEnd f mv us) s = .next
      ((((s.setFld .fldPwrRail f 0 9 0 mv).modField f (fun v => { v with brown := false })).closeEvent 4 f 0).startField f) := by
  have htarget : (s.setFld .fldPwrRail f 0 9 0 mv).fld .fldPwrRail f 0 19 10 = s.fld .fldPwrRail f 0 19 10 :=
    State.fld_setFld_apart _ _ _ _ _ (by decide) (by decide) (by decide) (.inr (by decide))
  refine congrArg Host.Outcome.next (if_neg ?_)
  rw [htarget]
  have hfield : (s.setFld .fldPwrRail f 0 9 0 mv).field f = s.field f := rfl
  rw [hfield, hbrown]
  simp only [Bool.not_true, Bool.false_or, Bool.or_eq_true, decide_eq_true_eq]
  omega

theorem State.brownEnded_spec {mv : Nat} (hf : f < 96) (hmv : mv < 1024) {t : State}
    (ht : t = ((s.setFld .fldPwrRail f 0 9 0 mv).modField f (fun v => { v with brown := false })).closeEvent 4 f 0) :
    (t.startField f).fld .fldPwrRail f 0 9 0 = mv ∧ ((t.startField f).field f).brown = false ∧ (t.startField f).cloves = s.cloves ∧
    (∀ r, s.openRec 4 f = some r →
      { r with dur := some ((s.sinceReady - r.start) / 1000 % 2 ^ 32), depth := 0 } ∈ (t.startField f).pwr.records) ∧
    ∀ i, i < 12 → (s.domain (f * 12 + i)).st = .off → (s.domain (f * 12 + i)).held = some true →
      f * 12 + i ∉ s.up.failed → s.safetyAllows (f * 12 + i) = true → (t.startField f).domain (f * 12 + i) = ⟨.up, none, false⟩ := by
  have hread := s.fld_rail_mv f hmv
  have hmem (r : ThrottleRec) (h : s.openRec 4 f = some r) :=
    State.mem_closeEvent ((s.setFld .fldPwrRail f 0 9 0 mv).modField f (fun v => { v with brown := false })) 0 h
  have hready : ((s.setFld .fldPwrRail f 0 9 0 mv).modField f (fun v => { v with brown := false })).sinceReady = s.sinceReady := by
    refine State.sinceReady_congr rfl ?_
    exact State.flag_setFld_ne _ _ _ _ _ (Reg.addr_ne_of_field (by decide) rfl f).symm
  rw [hready] at hmem
  have honly := ((s.setFld .fldPwrRail f 0 9 0 mv).modField f (fun v => { v with brown := false })).closeEvent_eventOnly 4 f 0
  have hfield : ((s.setFld .fldPwrRail f 0 9 0 mv).modField f (fun v => { v with brown := false })).field f =
      { s.field f with brown := false } := State.field_modField_self ..
  have hpwr : ((s.setFld .fldPwrRail f 0 9 0 mv).modField f (fun v => { v with brown := false })).pwr = s.pwr := rfl
  have hup : ((s.setFld .fldPwrRail f 0 9 0 mv).modField f (fun v => { v with brown := false })).up = s.up := rfl
  have hcloves : ((s.setFld .fldPwrRail f 0 9 0 mv).modField f (fun v => { v with brown := false })).cloves = s.cloves := rfl
  have hrail : ((s.setFld .fldPwrRail f 0 9 0 mv).modField f (fun v => { v with brown := false })).fld .fldPwrRail f 0 9 0 = mv := hread
  generalize (s.setFld .fldPwrRail f 0 9 0 mv).modField f (fun v => { v with brown := false }) = v at *
  rw [← ht] at honly hmem
  obtain ⟨rs, n, hpwr'⟩ := honly.pwr
  have hstrips := t.startField_stripsOnly hf
  obtain ⟨regs, ds, offs, hframe⟩ := hstrips.frame
  refine ⟨?_, ?_, ?_, fun r hr => ?_, fun i hi hoff hheld hfailed hallows => ?_⟩
  · exact (hstrips.regs.fld (q := .fldPwrRail) (by decide) f 9 0 (i := 0) (by decide)).trans ((honly.field_fld rfl f 9 0).trans hrail)
  · have htfield : t.field f = { s.field f with brown := false } := (honly.field f).trans hfield
    rw [hframe]
    exact congrArg Field.brown htfield
  · rw [hframe]
    exact honly.cloves.trans hcloves
  · rw [hframe]
    exact hmem r hr
  · have hdomain : t.domain (f * 12 + i) = s.domain (f * 12 + i) := by
      simp only [State.domain, hpwr', hpwr]
    refine State.startField_starts hf hi (by rw [hdomain, hoff]) (by rw [hdomain, hheld]) ?_
    have hdiv : (f * 12 + i) / 12 = f := by omega
    have hsafe : t.safetyAllows (f * 12 + i) = s.safetyAllows (f * 12 + i) := by
      unfold State.safetyAllows
      rw [hpwr', hpwr, honly.up, hup]
    simp only [State.mayStart, hsafe, hallows, honly.up, hup, hdiv, honly.field, hfield, List.contains_eq_mem, hfailed,
      decide_false, Bool.not_false, Bool.and_false, Bool.and_true]

/-! ### Phases (R376) -/

/-- A phase shed, before its record and its event. -/
def State.phaseShed (s : State) (f : Nat) : State :=
  let t := (s.setFld .fldPwrRail f 0 23 20 (s.fld .fldPwrRail f 0 23 20 - 1)).modField f (fun v => { v with phasesOut := v.phasesOut + 1 })
  { t with up := { t.up with mapDirty := true } }

/-- A field whose phases fall short of its rail's limit is held to it (R376). -/
def State.phaseEvent (s : State) (f n : Nat) : State := if n < 14 then s.openEvent 1 f else s

theorem State.phaseEvent_eventOnly (s : State) (f n : Nat) : EventOnly s (s.phaseEvent f n) := by
  unfold State.phaseEvent
  split
  · exact s.openEvent_eventOnly ..
  · exact .refl s

theorem execPhaseFail_eq (hn : s.fld .fldPwrRail f 0 23 20 ≠ 0) : exec (.phaseFail f) s = .next
    ((if s.fld .fldPwrRail f 0 25 24 ≤ (s.field f).phasesOut
      then (s.phaseShed f).log .regPhase 255 f (s.fld .fldPwrRail f 0 23 20 - 1) 0 0 else s.phaseShed f).phaseEvent f
        (s.fld .fldPwrRail f 0 23 20 - 1)) := by
  have hspare : (s.setFld .fldPwrRail f 0 23 20 (s.fld .fldPwrRail f 0 23 20 - 1)).fld .fldPwrRail f 0 25 24 =
      s.fld .fldPwrRail f 0 25 24 :=
    State.fld_setFld_apart _ _ _ _ _ (by decide) (by decide) (by decide) (.inr (by decide))
  refine congrArg Host.Outcome.next ((if_neg hn).trans ?_)
  extract_lets t lost u v w
  have hlost : lost = true ↔ s.fld .fldPwrRail f 0 25 24 ≤ (s.field f).phasesOut := by
    rw [← hspare]
    exact decide_eq_true_iff
  exact congrArg (fun x => State.phaseEvent x f _) (ite_congr (propext hlost) (fun _ => rfl) (fun _ => rfl))

theorem State.phaseShed_spec (s : State) (f : Nat) :
    (s.phaseShed f).fld .fldPwrRail f 0 23 20 = s.fld .fldPwrRail f 0 23 20 - 1 ∧
    ((s.phaseShed f).field f).phasesOut = (s.field f).phasesOut + 1 ∧ (s.phaseShed f).up.mapDirty = true ∧
    (s.phaseShed f).err = s.err := by
  have hlt : s.fld .fldPwrRail f 0 23 20 < 2 ^ (23 + 1 - 20) := bitField_lt _ _ _
  have hphases := State.fld_setFld_self s .fldPwrRail f 0 (hi := 23) (lo := 20) (s.fld .fldPwrRail f 0 23 20 - 1) (by decide)
    (by decide)
  rw [Nat.mod_eq_of_lt (by omega)] at hphases
  unfold State.phaseShed
  extract_lets t
  have hfield : t.field f = { s.field f with phasesOut := (s.field f).phasesOut + 1 } := State.field_modField_self ..
  exact ⟨hphases, congrArg Field.phasesOut hfield, rfl, rfl⟩

theorem State.log_field (s : State) (c : Code) (part h0 h1 w2 w3 f : Nat) : (s.log c part h0 h1 w2 w3).field f = s.field f := by
  rw [State.log_eq]
  rfl

theorem State.log_up (s : State) (c : Code) (part h0 h1 w2 w3 : Nat) : (s.log c part h0 h1 w2 w3).up = s.up := by
  rw [State.log_eq]

theorem State.phaseFailed_spec {n : Nat} (hn : n = s.fld .fldPwrRail f 0 23 20) {t : State}
    (ht : t = (if s.fld .fldPwrRail f 0 25 24 ≤ (s.field f).phasesOut
      then (s.phaseShed f).log .regPhase 255 f (n - 1) 0 0 else s.phaseShed f)) :
    (t.phaseEvent f (n - 1)).fld .fldPwrRail f 0 23 20 = n - 1 ∧
    ((t.phaseEvent f (n - 1)).field f).phasesOut = (s.field f).phasesOut + 1 ∧ (t.phaseEvent f (n - 1)).up.mapDirty = true ∧
    (n - 1 < 14 → ((t.phaseEvent f (n - 1)).openRec 1 f).isSome = true) ∧
    (t.phaseEvent f (n - 1)).err.nextSeq = s.err.nextSeq + (if s.fld .fldPwrRail f 0 25 24 ≤ (s.field f).phasesOut then 1 else 0) := by
  obtain ⟨hphases, hout, hdirty, herr⟩ := s.phaseShed_spec f
  obtain ⟨hphases', hout', hdirty', hseq⟩ : t.fld .fldPwrRail f 0 23 20 = n - 1 ∧ (t.field f).phasesOut = (s.field f).phasesOut + 1 ∧
      t.up.mapDirty = true ∧
      t.err.nextSeq = s.err.nextSeq + (if s.fld .fldPwrRail f 0 25 24 ≤ (s.field f).phasesOut then 1 else 0) := by
    rw [ht, hn]
    split
    · refine ⟨(State.log_field_fld _ _ _ _ _ _ _ rfl f _ _).trans hphases, ?_, ?_, ?_⟩
      · rw [State.log_field, hout]
      · rw [State.log_up, hdirty]
      · rw [State.log_nextSeq, herr]
    · exact ⟨hphases, hout, hdirty, congrArg Err.nextSeq herr⟩
  have honly := t.phaseEvent_eventOnly f (n - 1)
  refine ⟨(honly.field_fld rfl f 23 20).trans hphases', ?_, ?_, fun hshort => ?_, ?_⟩
  · rw [honly.field, hout']
  · rw [honly.up, hdirty']
  · rw [State.phaseEvent, if_pos hshort]
    exact State.openRec_openEvent ..
  · rw [honly.err, hseq]

/-- A spare phase in a failed one's place. -/
def State.phaseSpared (s : State) (f : Nat) : State :=
  ((s.setFld .fldPwrRail f 0 25 24 (s.fld .fldPwrRail f 0 25 24 - 1)).setFld .fldPwrRail f 0 23 20
    (s.fld .fldPwrRail f 0 23 20 + 1)).modField f (fun v => { v with phasesOut := v.phasesOut - 1 })

theorem execPhaseSpareIn_eq (hspare : s.fld .fldPwrRail f 0 25 24 ≠ 0) (hout : (s.field f).phasesOut ≠ 0) :
    exec (.phaseSpareIn f) s = .next (s.phaseSpared f) :=
  congrArg Host.Outcome.next (if_neg (by simp [hspare, hout]))

theorem State.phaseSpared_spec (s : State) (f : Nat) (hroom : s.fld .fldPwrRail f 0 23 20 < 15) :
    (s.phaseSpared f).fld .fldPwrRail f 0 25 24 = s.fld .fldPwrRail f 0 25 24 - 1 ∧
    (s.phaseSpared f).fld .fldPwrRail f 0 23 20 = s.fld .fldPwrRail f 0 23 20 + 1 ∧
    ((s.phaseSpared f).field f).phasesOut = (s.field f).phasesOut - 1 := by
  have hlt : s.fld .fldPwrRail f 0 25 24 < 2 ^ (25 + 1 - 24) := bitField_lt _ _ _
  have hleft := State.fld_setFld_self s .fldPwrRail f 0 (hi := 25) (lo := 24) (s.fld .fldPwrRail f 0 25 24 - 1) (by decide)
    (by decide)
  rw [Nat.mod_eq_of_lt (by omega)] at hleft
  have hin (t : State) (n : Nat) : (t.setFld .fldPwrRail f 0 23 20 n).fld .fldPwrRail f 0 23 20 = n % 2 ^ (23 + 1 - 20) :=
    State.fld_setFld_self _ _ _ _ _ (by decide) (by decide)
  have hkeep (t : State) (n : Nat) : (t.setFld .fldPwrRail f 0 23 20 n).fld .fldPwrRail f 0 25 24 = t.fld .fldPwrRail f 0 25 24 :=
    State.fld_setFld_apart _ _ _ _ _ (by decide) (by decide) (by decide) (.inr (by decide))
  refine ⟨(State.modField_fld ..).trans ((hkeep _ _).trans hleft),
    (State.modField_fld ..).trans ((hin _ _).trans (Nat.mod_eq_of_lt (by omega))), ?_⟩
  exact congrArg Field.phasesOut (State.field_modField_self (((s.setFld .fldPwrRail f 0 25 24 _).setFld .fldPwrRail f 0 23 20 _)) f
    fun v => { v with phasesOut := v.phasesOut - 1 })

/-! ### The trim (R384, R385) -/

/-- A new trim, with the record of its limit where it is reached. -/
def State.trimmed (s : State) (f trim : Nat) : State :=
  let t := s.setFld .fldPwrAge f 0 7 0 (min trim 60)
  if min trim 60 = 60 && decide (s.fld .fldPwrAge f 0 7 0 < 60) then t.log .ageingLimit 255 f (min trim 60) 0 0 else t

theorem State.trimmed_spec (s : State) (f trim : Nat) : (s.trimmed f trim).fld .fldPwrAge f 0 7 0 = min trim 60 ∧
    (s.trimmed f trim).fld .fldPwrAge f 0 19 8 = s.fld .fldPwrAge f 0 19 8 ∧
    (s.trimmed f trim).err.nextSeq = s.err.nextSeq + (if 60 ≤ trim ∧ s.fld .fldPwrAge f 0 7 0 < 60 then 1 else 0) := by
  have htrim : (s.setFld .fldPwrAge f 0 7 0 (min trim 60)).fld .fldPwrAge f 0 7 0 = min trim 60 :=
    (State.fld_setFld_self _ _ _ _ _ (by decide) (by decide)).trans (Nat.mod_eq_of_lt (by omega))
  have hrate : (s.setFld .fldPwrAge f 0 7 0 (min trim 60)).fld .fldPwrAge f 0 19 8 = s.fld .fldPwrAge f 0 19 8 :=
    State.fld_setFld_apart _ _ _ _ _ (by decide) (by decide) (by decide) (.inr (by decide))
  have hlimit : (min trim 60 = 60 && decide (s.fld .fldPwrAge f 0 7 0 < 60)) = true ↔ 60 ≤ trim ∧ s.fld .fldPwrAge f 0 7 0 < 60 := by
    simp only [Bool.and_eq_true, decide_eq_true_eq]
    omega
  unfold State.trimmed
  extract_lets t
  split
  next h =>
    rw [State.log_field_fld _ _ _ _ _ _ _ rfl, State.log_field_fld _ _ _ _ _ _ _ rfl, State.log_nextSeq, if_pos (hlimit.1 h)]
    exact ⟨htrim, hrate, rfl⟩
  next h =>
    rw [if_neg (mt hlimit.2 h)]
    exact ⟨htrim, hrate, rfl⟩

/-- A setpoint beyond 0.78 V is lowered to what 0.78 V reaches (R385). -/
theorem execAgeingSweep_eq (s : State) (f trim : Nat) : exec (.ageingSweep f trim) s = .next
    (if 780 < Config.railFor f (min trim 60) (s.fld .fldPwrAge f 0 19 8) then
      (((s.trimmed f trim).modField f (fun v => { v with aged := true })).openEvent 7 f).setRate f
        (min (s.fld .fldPwrAge f 0 19 8) (Config.rateAt f (min trim 60) 780))
    else (s.trimmed f trim).setRate f (s.fld .fldPwrAge f 0 19 8)) := by
  obtain ⟨-, hrate, -⟩ := s.trimmed_spec f trim
  rw [← hrate]
  rfl

theorem execAgeingSweep_spec (s : State) (f trim : Nat) : ∃ t, exec (.ageingSweep f trim) s = .next t ∧
    t.fld .fldPwrAge f 0 7 0 = min trim 60 ∧
    t.err.nextSeq = s.err.nextSeq + (if 60 ≤ trim ∧ s.fld .fldPwrAge f 0 7 0 < 60 then 1 else 0) ∧
    (Config.railFor f (min trim 60) (s.fld .fldPwrAge f 0 19 8) ≤ 780 →
      t.fld .fldPwrAge f 0 19 8 = s.fld .fldPwrAge f 0 19 8 ∧
      t.fld .fldPwrRail f 0 19 10 = railTarget f (min trim 60) (s.fld .fldPwrAge f 0 19 8)) ∧
    (780 < Config.railFor f (min trim 60) (s.fld .fldPwrAge f 0 19 8) → (t.field f).aged = true ∧ (t.openRec 7 f).isSome = true ∧
      t.fld .fldPwrAge f 0 19 8 = min (s.fld .fldPwrAge f 0 19 8) (Config.rateAt f (min trim 60) 780)) := by
  obtain ⟨htrim, hrate, hseq⟩ := s.trimmed_spec f trim
  have hlt : s.fld .fldPwrAge f 0 19 8 < 4096 := bitField_lt _ _ _
  have hexec := execAgeingSweep_eq s f trim
  generalize s.trimmed f trim = v at *
  generalize s.fld .fldPwrAge f 0 19 8 = rate at *
  by_cases hover : 780 < Config.railFor f (min trim 60) rate
  · rw [if_pos hover] at hexec
    have hopen := State.openRec_openEvent (v.modField f (fun v => { v with aged := true })) 7 f
    have honly := (v.modField f (fun v => { v with aged := true })).openEvent_eventOnly 7 f
    have haged : (v.modField f (fun v => { v with aged := true })).field f = { v.field f with aged := true } :=
      State.field_modField_self ..
    have herr : (v.modField f (fun v => { v with aged := true })).err = v.err := rfl
    have htrim' : (v.modField f (fun v => { v with aged := true })).fld .fldPwrAge f 0 7 0 = min trim 60 := htrim
    generalize v.modField f (fun v => { v with aged := true }) = w at *
    generalize w.openEvent 7 f = x at *
    obtain ⟨u, hfield⟩ := x.setRate_field f (min rate (Config.rateAt f (min trim 60) 780))
    refine ⟨_, hexec, ?_, ?_, fun h => absurd hover (by omega), fun _ => ⟨?_, ?_, ?_⟩⟩
    · rw [(State.setRate_target ..).1, honly.field_fld rfl, htrim']
    · rw [State.setRate_eq, ← hseq, ← herr, ← honly.err]
    · rw [hfield, honly.field, haged]
    · rw [State.setRate_eq]
      exact hopen
    · rw [State.setRate_rate]
      exact Nat.mod_eq_of_lt (by omega)
  · rw [if_neg hover] at hexec
    obtain ⟨hage, htarget⟩ := v.setRate_target f rate
    refine ⟨_, hexec, hage.trans htrim, ?_, fun _ => ⟨?_, ?_⟩, fun h => absurd h hover⟩
    · rw [State.setRate_eq, ← hseq]
    · rw [State.setRate_rate]
      exact Nat.mod_eq_of_lt hlt
    · rw [htarget, htrim]

/-- A rail at its target. -/
def State.railReached (s : State) (f : Nat) : State :=
  (s.setFld .fldPwrRail f 0 9 0 (s.fld .fldPwrRail f 0 19 10)).modField f (fun v => { v with slewFrom := s.fld .fldPwrRail f 0 19 10 })

theorem State.railReached_slewFrom (s : State) (f : Nat) : ((s.railReached f).field f).slewFrom = s.fld .fldPwrRail f 0 19 10 := by
  rw [State.railReached, State.field_modField_self]

/-! ### The agent's step (R382, R387) -/

/-- An estimate moves by no more than its slope (R382). -/
theorem State.rampEst_near (s : State) (f want : Nat) :
    s.rampEst f want ≤ s.fld .fldPwrEst f 0 15 0 + s.fld .pwrCaps 0 0 7 0 / 10 ∧
    s.fld .fldPwrEst f 0 15 0 ≤ s.rampEst f want + s.fld .pwrCaps 0 0 7 0 / 10 := by
  unfold State.rampEst
  dsimp only
  split
  · omega
  · split <;> omega

/-- A field whose estimate is paced, with the event that says so. -/
def State.agentPaced (s : State) (f : Nat) (paced : Bool) (ballast : Nat) : State :=
  let t := s.modField f (fun v => { v with paced := paced, ballast := ballast })
  if paced && !(t.field f).brown && !t.pwr.warn then t.openEvent 3 f else t

/-- What the agent shows: its estimate and the measured power. -/
def State.agentShown (s : State) (f est meas : Nat) : State :=
  s.setReg .fldPwrEst f 0 (BitVec.ofNat 32 (min est 65535 + min meas 65535 * 65536))

/-- What the agent does of a field over or under its budget (R387). -/
def State.agentActs (s : State) (f power asked : Nat) : State :=
  let rate := s.fld .fldPwrAge f 0 19 8
  let v := s.field f
  if v.budget < power then
    if s.floorRate f < rate then s.lowerRate f else s.withhold f
  else if !v.withheld.isEmpty then s.modField f (fun v => { v with withheld := v.withheld.dropLast })
  else if asked < rate then (s.modField f (fun v => { v with aged := false })).setRate f asked
  else if v.brown || s.pwr.warn || !v.hot.isEmpty then s
  else if asked = rate then s.modField f (fun v => { v with aged := false })
  else s.raiseRate f asked

theorem execPowerAgentTick_eq (s : State) (p : FieldPower) (asked : Nat) : exec (.powerAgentTick p asked) s = .next
    (((s.agentPaced p.field (decide (s.rampEst p.field (s.modelled p) < s.modelled p))
      (s.rampEst p.field (s.modelled p) - s.modelled p)).agentShown p.field (s.rampEst p.field (s.modelled p)) p.meas).agentActs
        p.field (max (s.rampEst p.field (s.modelled p)) p.meas) asked) := rfl

/-- From s to t nothing that the agent of field f decides by changes, but what it has noted of its own step. -/
structure AgentSees (f : Nat) (s t : State) : Prop where
  age : t.reg .fldPwrAge f 0 = s.reg .fldPwrAge f 0
  dsp : ∀ b, t.reg .fldDspStat b 0 = s.reg .fldDspStat b 0
  field : ∃ paced ballast, t.field f = { s.field f with paced := paced, ballast := ballast }
  parts : t.parts = s.parts
  warn : t.pwr.warn = s.pwr.warn

theorem AgentSees.trans {a b c : State} (h : AgentSees f a b) (g : AgentSees f b c) : AgentSees f a c := by
  obtain ⟨_, _, hb⟩ := h.field
  obtain ⟨p, l, hc⟩ := g.field
  exact ⟨g.age.trans h.age, fun b => (g.dsp b).trans (h.dsp b), ⟨p, l, by rw [hc, hb]⟩, g.parts.trans h.parts, g.warn.trans h.warn⟩

theorem EventOnly.parts {s t : State} (h : EventOnly s t) : t.parts = s.parts := by
  rw [h.frame]

theorem State.openEvent_agentSees (s : State) (reason f : Nat) : AgentSees f s (s.openEvent reason f) := by
  have honly := s.openEvent_eventOnly reason f
  obtain ⟨rs, n, hpwr⟩ := honly.pwr
  refine ⟨?_, fun b => ?_, ⟨_, _, honly.field f⟩, honly.parts, by rw [hpwr]⟩
  · exact honly.reg (Reg.addr_ne_of_field (by decide) rfl f) (Reg.addr_ne_of_field (by decide) rfl f)
  · exact honly.reg (Reg.addr_ne_of_field (by decide) rfl b) (Reg.addr_ne_of_field (by decide) rfl b)
theorem State.agentPaced_sees (s : State) (f : Nat) (paced : Bool) (ballast : Nat) : AgentSees f s (s.agentPaced f paced ballast) := by
  have hmod : AgentSees f s (s.modField f (fun v => { v with paced := paced, ballast := ballast })) :=
    ⟨rfl, fun _ => rfl, ⟨paced, ballast, State.field_modField_self ..⟩, rfl, rfl⟩
  unfold State.agentPaced
  dsimp only
  split
  · exact hmod.trans (State.openEvent_agentSees ..)
  · exact hmod

theorem State.agentShown_sees (s : State) (f est meas : Nat) : AgentSees f s (s.agentShown f est meas) :=
  ⟨State.reg_setReg_ne _ _ (Reg.addr_ne_of_place f f (by decide) (by decide) (by decide)),
    fun b => State.reg_setReg_ne _ _ (Reg.addr_ne_of_place f b (by decide) (by decide) (by decide)), ⟨_, _, rfl⟩, rfl, rfl⟩

theorem State.agentShown_reads (s : State) (f est meas : Nat) : (s.agentShown f est meas).fld .fldPwrEst f 0 15 0 = min est 65535 ∧
    (s.agentShown f est meas).fld .fldPwrEst f 0 31 16 = min meas 65535 := by
  have hreg : (s.agentShown f est meas).reg .fldPwrEst f 0 = BitVec.ofNat 32 (min est 65535 + min meas 65535 * 65536) :=
    State.reg_setReg_self ..
  simp only [State.fld, hreg, regField, bitField, BitVec.toNat_ofNat]
  omega

/-! #### What each of its acts leaves of the estimate, and does to the setpoint -/

theorem State.setRate_est (s : State) (f rate : Nat) : (s.setRate f rate).reg .fldPwrEst f 0 = s.reg .fldPwrEst f 0 := by
  have hset (v : Nat) : ((s.setFld .fldPwrAge f 0 19 8 rate).setFld .fldPwrRail f 0 19 10 v).reg .fldPwrEst f 0 =
      s.reg .fldPwrEst f 0 :=
    (State.reg_setReg_ne _ _ (Reg.addr_ne_of_place f f (by decide) (by decide) (by decide))).trans
      (State.reg_setReg_ne _ _ (Reg.addr_ne_of_place f f (by decide) (by decide) (by decide)))
  unfold State.setRate
  dsimp only
  split
  · exact hset _
  · exact hset _

theorem State.lowerRate_est (s : State) (f : Nat) : (s.lowerRate f).reg .fldPwrEst f 0 = s.reg .fldPwrEst f 0 := by
  unfold State.lowerRate
  dsimp only
  split
  · rfl
  · exact State.setRate_est _ f _

theorem State.raiseRate_est (s : State) (f asked : Nat) : (s.raiseRate f asked).reg .fldPwrEst f 0 = s.reg .fldPwrEst f 0 := by
  have hevent (t : State) : (t.openEvent 7 f).reg .fldPwrEst f 0 = t.reg .fldPwrEst f 0 :=
    (t.openEvent_eventOnly 7 f).reg (Reg.addr_ne_of_field (by decide) rfl f) (Reg.addr_ne_of_field (by decide) rfl f)
  unfold State.raiseRate
  extract_lets r hi top t u d
  have hu : u.reg .fldPwrEst f 0 = s.reg .fldPwrEst f 0 := by
    unfold u
    split
    · exact hevent t
    · rfl
  split
  · exact hu
  · exact (State.setRate_est _ f _).trans hu

/-- A setpoint is raised, and no further than asked. -/
theorem State.raiseRate_rate (s : State) (f : Nat) {asked : Nat} (hasked : asked < 4096) (hbelow : s.fld .fldPwrAge f 0 19 8 < asked)
    (hreach : s.fld .fldPwrAge f 0 19 8 < Config.rateAt f (s.fld .fldPwrAge f 0 7 0) 780) :
    s.fld .fldPwrAge f 0 19 8 < (s.raiseRate f asked).fld .fldPwrAge f 0 19 8 ∧
      (s.raiseRate f asked).fld .fldPwrAge f 0 19 8 ≤ asked := by
  unfold State.raiseRate
  extract_lets r hi top t u d
  have htop : ¬ top ≤ r := by
    unfold top
    change r < asked at hbelow
    change r < hi at hreach
    omega
  have hdraw : d.1 < top - r := u.drawBelow_lt (by omega)
  have hmost : top ≤ asked := Nat.min_le_left ..
  rw [if_neg htop, State.setRate_rate, Nat.mod_eq_of_lt (by omega)]
  change r < _ ∧ _
  omega

theorem State.withhold_spec (s : State) (f : Nat) : (s.withhold f).regs = s.regs ∧ ((s.withhold f).field f).withheld =
    (s.field f).withheld ++ (s.hottestOf f ((s.admittedIn f).filter (fun i => !(s.field f).withheld.contains i))).toList := by
  unfold State.withhold
  cases s.hottestOf f ((s.admittedIn f).filter (fun i => !(s.field f).withheld.contains i)) with
  | none => exact ⟨rfl, (List.append_nil _).symm⟩
  | some i =>
    exact ⟨rfl, congrArg Field.withheld (State.field_modField_self s f fun v => { v with withheld := v.withheld ++ [i] })⟩

theorem State.agentActs_est (s : State) (f power asked : Nat) :
    (s.agentActs f power asked).reg .fldPwrEst f 0 = s.reg .fldPwrEst f 0 := by
  unfold State.agentActs
  dsimp only
  split
  · split
    · exact s.lowerRate_est f
    · exact State.reg_congr (s.withhold_spec f).1 ..
  · split
    · rfl
    · split
      · exact State.setRate_est _ f _
      · split
        · rfl
        · split
          · rfl
          · exact s.raiseRate_est f asked

/-- A field over its budget lowers its setpoint, and at the lowest one withholds dispatch (R387). -/
theorem State.agentActs_over {power : Nat} (asked : Nat) (h : (s.field f).budget < power) :
    (s.floorRate f < s.fld .fldPwrAge f 0 19 8 → s.floorRate f ≤ (s.agentActs f power asked).fld .fldPwrAge f 0 19 8 ∧
      (s.agentActs f power asked).fld .fldPwrAge f 0 19 8 < s.fld .fldPwrAge f 0 19 8) ∧
    (s.fld .fldPwrAge f 0 19 8 ≤ s.floorRate f → (s.agentActs f power asked).fld .fldPwrAge f 0 19 8 = s.fld .fldPwrAge f 0 19 8 ∧
      ((s.agentActs f power asked).field f).withheld = (s.field f).withheld ++
        (s.hottestOf f ((s.admittedIn f).filter (fun i => !(s.field f).withheld.contains i))).toList) := by
  refine ⟨fun hhigh => ?_, fun hlow => ?_⟩
  · rw [State.agentActs, if_pos h, if_pos hhigh]
    exact (s.lowerRate_rate f).1 hhigh
  · obtain ⟨hregs, hwithheld⟩ := s.withhold_spec f
    rw [State.agentActs, if_pos h, if_neg (Nat.not_lt.2 hlow)]
    exact ⟨State.fld_congr hregs .., hwithheld⟩

/-- A field within its budget gives back what it withheld, then follows what is asked (R387). -/
theorem State.agentActs_under {power asked : Nat} (h : power ≤ (s.field f).budget) :
    ((s.field f).withheld ≠ [] → ((s.agentActs f power asked).field f).withheld = (s.field f).withheld.dropLast ∧
      (s.agentActs f power asked).fld .fldPwrAge f 0 19 8 = s.fld .fldPwrAge f 0 19 8) ∧
    ((s.field f).withheld = [] → asked < s.fld .fldPwrAge f 0 19 8 → (s.agentActs f power asked).fld .fldPwrAge f 0 19 8 = asked) ∧
    ((s.field f).withheld = [] → s.fld .fldPwrAge f 0 19 8 < asked → asked < 4096 → (s.field f).brown = false → s.pwr.warn = false →
      (s.field f).hot = [] → s.fld .fldPwrAge f 0 19 8 < Config.rateAt f (s.fld .fldPwrAge f 0 7 0) 780 →
      s.fld .fldPwrAge f 0 19 8 < (s.agentActs f power asked).fld .fldPwrAge f 0 19 8 ∧
        (s.agentActs f power asked).fld .fldPwrAge f 0 19 8 ≤ asked) := by
  have hrate : s.fld .fldPwrAge f 0 19 8 < 4096 := bitField_lt _ _ _
  have hnot := Nat.not_lt.2 h
  refine ⟨fun hheld => ?_, fun hnone hlower => ?_, fun hnone hhigher hasked hbrown hwarn hhot hreach => ?_⟩
  · have hact : s.agentActs f power asked = s.modField f (fun v => { v with withheld := v.withheld.dropLast }) :=
      (if_neg hnot).trans (if_pos (by simpa using hheld))
    rw [hact]
    exact ⟨congrArg Field.withheld (State.field_modField_self s f fun v => { v with withheld := v.withheld.dropLast }),
      State.modField_fld ..⟩
  · have hact : s.agentActs f power asked = (s.modField f (fun v => { v with aged := false })).setRate f asked :=
      (if_neg hnot).trans ((if_neg (by simp [hnone])).trans (if_pos hlower))
    rw [hact, State.setRate_rate, Nat.mod_eq_of_lt (by omega)]
  · have hact : s.agentActs f power asked = s.raiseRate f asked :=
      (if_neg hnot).trans ((if_neg (by simp [hnone])).trans ((if_neg (by omega)).trans
        ((if_neg (by simp [hbrown, hwarn, hhot])).trans (if_neg (by omega)))))
    rw [hact]
    exact s.raiseRate_rate f hasked hhigher hreach

/-! #### The step -/

theorem AgentSees.fld {s t : State} (h : AgentSees f s t) (hi lo : Nat) : t.fld .fldPwrAge f 0 hi lo = s.fld .fldPwrAge f 0 hi lo :=
  congrArg (fun w => regField w hi lo) h.age

theorem AgentSees.floorRate {s t : State} (h : AgentSees f s t) : t.floorRate f = s.floorRate f := by
  rw [State.floorRate, h.fld, ← State.floorRate]

theorem AgentSees.hottest {s t : State} (h : AgentSees f s t) : t.hottestOf f ((t.admittedIn f).filter (fun i => !(t.field f).withheld.contains i)) =
    s.hottestOf f ((s.admittedIn f).filter (fun i => !(s.field f).withheld.contains i)) := by
  obtain ⟨paced, ballast, hfield⟩ := h.field
  simp only [State.hottestOf, State.admittedIn, State.armed, State.flag, State.part, h.dsp, h.parts, hfield]

end

end Sys2Proof.Machine

open Sys2Proof Sys2Proof.Machine

/-- Settles O46: a safety off runs off its strips and hub, and the agent's steps are told apart by the estimate and the budget. -/
theorem fieldsFollowTheirRails : Obligations.FieldsFollowTheirRails := by
  unfold Obligations.FieldsFollowTheirRails
  intro s f hf
  refine ⟨fun mv hmv hhigh => ⟨fun hlow => ?_, fun hnear => ?_⟩, fun mv c hc => ?_, fun mv us hmv => ⟨fun hbrown hus hnear => ?_, fun hnot => ?_⟩,
    fun n hn hne => ?_, fun hspare hout hroom => ?_, fun meas leak dyn hdyn => ?_, ?_, fun trim => execAgeingSweep_spec s f trim,
    fun p asked est rate hp hest hrate => ?_⟩
  · obtain ⟨hrail, hbrown, hopen, herr, -⟩ := (s.setFld .fldPwrRail f 0 9 0 mv).brownOut_spec f
    refine ⟨(s.setFld .fldPwrRail f 0 9 0 mv).brownOut f, congrArg Host.Outcome.next ((if_neg (by omega)).trans (if_pos hlow)),
      hrail.trans (s.fld_rail_mv f hmv), hbrown, hopen, herr⟩
  · exact congrArg Host.Outcome.next ((if_neg (by omega)).trans (if_neg (by omega)))
  · obtain ⟨u, hexec, hrail, hlead, hseq⟩ := execRailOff hc
    obtain ⟨hkept, hoff, hreset, hlater⟩ := u.railOff_spec hf
    rw [hlead] at hreset
    exact ⟨u.railOff f, hexec, hkept.trans hrail, hoff, hreset, hseq.symm.trans_lt hlater⟩
  · exact ⟨_, execFieldBrownoutEnd_eq hbrown hus hnear, State.brownEnded_spec hf hmv rfl⟩
  · have htarget : (s.setFld .fldPwrRail f 0 9 0 mv).fld .fldPwrRail f 0 19 10 = s.fld .fldPwrRail f 0 19 10 :=
      State.fld_setFld_apart _ _ _ _ _ (by decide) (by decide) (by decide) (.inr (by decide))
    have hfield : (s.setFld .fldPwrRail f 0 9 0 mv).field f = s.field f := rfl
    refine congrArg Host.Outcome.next (if_pos ?_)
    rw [htarget, hfield]
    simp only [Bool.or_eq_true, Bool.not_eq_true', decide_eq_true_eq, or_assoc]
    exact hnot
  · subst hn
    exact ⟨_, execPhaseFail_eq hne, State.phaseFailed_spec rfl rfl⟩
  · exact ⟨_, execPhaseSpareIn_eq hspare hout, s.phaseSpared_spec f hroom⟩
  · exact ⟨_, congrArg Host.Outcome.next (if_neg hdyn), rfl, State.field_modField_self ..⟩
  · have htarget : s.fld .fldPwrRail f 0 19 10 < 1024 := bitField_lt _ _ _
    exact ⟨s.railReached f, rfl, s.fld_rail_mv f htarget, s.railReached_slewFrom f⟩
  · subst hp hest hrate
    refine ⟨_, execPowerAgentTick_eq s p asked, ?_⟩
    obtain ⟨hup, hdown⟩ := s.rampEst_near p.field (s.modelled p)
    have hsees := (s.agentPaced_sees p.field (decide (s.rampEst p.field (s.modelled p) < s.modelled p))
      (s.rampEst p.field (s.modelled p) - s.modelled p)).trans (State.agentShown_sees _ _ (s.rampEst p.field (s.modelled p)) p.meas)
    obtain ⟨hshown, hmeas⟩ := (s.agentPaced p.field (decide (s.rampEst p.field (s.modelled p) < s.modelled p))
      (s.rampEst p.field (s.modelled p) - s.modelled p)).agentShown_reads p.field (s.rampEst p.field (s.modelled p)) p.meas
    generalize s.agentPaced p.field _ _ = v at *
    generalize s.rampEst p.field (s.modelled p) = est at *
    generalize v.agentShown p.field est p.meas = u at *
    have hkept := u.agentActs_est p.field (max est p.meas) asked
    obtain ⟨paced, ballast, hfield⟩ := hsees.field
    have hover := u.agentActs_over (f := p.field) (power := max est p.meas) asked
    have hunder := u.agentActs_under (f := p.field) (power := max est p.meas) (asked := asked)
    rw [hsees.hottest, hsees.floorRate, hsees.fld, hfield] at hover
    rw [hsees.fld, hsees.fld, hsees.warn, hfield] at hunder
    refine ⟨?_, ?_, hup, hdown, hover, hunder⟩
    · exact (congrArg (fun w => regField w 15 0) hkept).trans hshown
    · exact (congrArg (fun w => regField w 31 16) hkept).trans hmeas
end


section
/-! SUPPORT. What every module reset leaves (R409). -/
namespace Sys2Proof.Machine

/-- The gates closed, every domain off but the always-on ones, and start-up at step 1, or past it where its conditions
hold; `now` is the time of the reset. -/
structure AllOff (now : Nat) (t : State) : Prop where
  gates : ∀ p, p < 32 → t.gated p = true
  domains : ∀ d, d < 1290 → (t.domain d).st = .off
  begun : (t.pwr.good && t.up.resetHigh) = true → t.fld .glbStart 0 0 3 0 = 2 ∧ t.up.began = now
  waits : (t.pwr.good && t.up.resetHigh) = false → t.fld .glbStart 0 0 3 0 = 1

theorem State.moduleReset_allOff (s : State) (cause : Nat) : AllOff s.up.time (s.moduleReset cause) := by
  obtain ⟨-, -, -, -, -, -, -, -, -, hgates⟩ := s.moduleReset_blank cause
  have htime := (State.moduleReset_keeps (cause := cause) (.refl s)).time
  obtain ⟨t, hbegins, hblank, hstep, -, hdomains, -, -⟩ := s.moduleReset_begins cause
  rw [hbegins] at hgates htime ⊢
  have hsupply : (t.beginStartup.pwr.good && t.beginStartup.up.resetHigh) = (t.pwr.good && t.up.resetHigh) := by
    rw [State.beginStartup_pwr]
    unfold State.beginStartup
    split <;> rfl
  refine ⟨hgates, fun d hd => ?_, fun h => ?_, fun h => ?_⟩
  · have hnone : SMap.at? (s.pwr.domains.filter (fun e => decide (1290 ≤ e.1))) d = none :=
      SMap.at?_filter_eq_none (fun _ => decide_eq_false (Nat.not_le.2 hd)) _
    rw [State.domain, State.beginStartup_pwr, hdomains, SMap.atD, hnone]
    rfl
  · rw [hsupply, Bool.and_eq_true] at h
    obtain ⟨hfld, hup, -⟩ := State.beginStartup_of_supply h.1 h.2
    refine ⟨hfld, ?_⟩
    rw [← htime, hup]
  · rw [hsupply] at h
    rw [State.beginStartup, if_neg (by simp [h])]
    exact hstep

/-- Every order of a module reset resets it, at once (R39, R408, R409, R413, R447). -/
theorem exec_resets {s : State} {c : Instr}
    (h : (∃ m v, c = .glbReset m v ∧ WriteReady s m .glbReset 0 0 v ∧ regField v 15 0 = 0x4D52) ∨
      (c = .moduleReset 0x4D52 ∧ Managed s) ∨ (c = .monResetModule ∧ 3 ≤ s.stepNo ∧ s.unlocked = true) ∨
      c = .lossOfBothServiceBlocks ∨ c = .modResetNLow) :
    ∃ (u : State) (cause : Nat), exec c s = .next (u.moduleReset cause) ∧ u.up.time = s.up.time := by
  obtain ⟨m, v, rfl, hready, hkey⟩ | ⟨rfl, hon, haddr⟩ | ⟨rfl, hstep, hopen⟩ | rfl | rfl := h
  · exact ⟨s, 1, congrArg Host.Outcome.next ((hready.rowWrite_eq_act (by decide)).trans (if_pos hkey)), rfl⟩
  · refine ⟨s.status 0, 2, congrArg Host.Outcome.next ?_, rfl⟩
    exact (if_pos (by rw [hon, haddr]; rfl)).trans (if_pos rfl)
  · refine ⟨State.say { s with mgmt := { s.mgmt with baudNew := false } } [], 1, congrArg Host.Outcome.next ?_, rfl⟩
    exact (if_neg (by omega)).trans (if_pos hopen)
  · exact ⟨s, 3, rfl, rfl⟩
  · exact ⟨{ s with up := { s.up with resetHigh := false } }, 0, rfl, rfl⟩

end Sys2Proof.Machine

open Sys2Proof Sys2Proof.Machine

/-- Settles O59: every order runs the same module reset (`exec_resets`), which leaves all off. -/
theorem moduleResetTurnsAllOff : Obligations.ModuleResetTurnsAllOff := by
  unfold Obligations.ModuleResetTurnsAllOff
  intro s c hc
  obtain ⟨u, cause, hexec, htime⟩ := exec_resets hc
  obtain ⟨hgates, hdomains, hbegun, hwaits⟩ := u.moduleReset_allOff cause
  rw [htime] at hbegun
  exact ⟨_, hexec, hgates, hdomains, hbegun, hwaits⟩
end


section
/-! SUPPORT. What the module power manager grants and shows (R377, R379, R382), hints (R393, R394) and the end of throttle
events (R398). -/
namespace Sys2Proof.Machine

section
variable {s : State}

/-! ### Events that open keep those that are open (R398) -/

/-- From s to t throttle events may have opened. -/
structure OpensEvents (s t : State) : Prop where
  only : EventOnly s t
  keeps : ∀ reason scope, (s.openRec reason scope).isSome = true → (t.openRec reason scope).isSome = true

theorem OpensEvents.trans {a b c : State} (h : OpensEvents a b) (g : OpensEvents b c) : OpensEvents a c := by
  refine ⟨⟨?_, fun hstat hwarn => (g.only.reg hstat hwarn).trans (h.only.reg hstat hwarn),
    fun hle hapart => (g.only.stat hle hapart).trans (h.only.stat hle hapart)⟩, fun reason scope hr => g.keeps _ _ (h.keeps _ _ hr)⟩
  have hc := g.only.frame
  rw [h.only.frame] at hc
  exact hc

theorem OpensEvents.refl (s : State) : OpensEvents s s := ⟨.refl s, fun _ _ h => h⟩

theorem State.openEvent_opensEvents (s : State) (reason scope : Nat) : OpensEvents s (s.openEvent reason scope) := by
  refine ⟨s.openEvent_eventOnly reason scope, fun other at' h => ?_⟩
  unfold State.openEvent
  split
  · exact h
  · have hkept (t : State) (ht : t.pwr.records = s.pwr.records ++ [⟨s.pwr.evtCount, s.sinceReady, none, reason, scope, 0⟩]) :
        (t.showActive.openRec other at').isSome = true := by
      have hrecords : t.showActive.pwr.records = t.pwr.records := rfl
      rw [State.openRec, hrecords, ht, List.find?_append, Option.isSome_or]
      exact Bool.or_eq_true_iff.2 (.inl h)
    apply hkept
    split <;> rfl

/-! ### The grant (R379, R382, R391) -/

/-- What is granted moves by no more than the slope, and does not rise during a warning. -/
theorem State.grant_near (s : State) (asked : Nat) : s.grant asked ≤ s.pwr.now + s.fld .pwrCaps 0 0 23 8 ∧
    s.pwr.now ≤ s.grant asked + s.fld .pwrCaps 0 0 23 8 ∧ (s.pwr.warn = true → s.grant asked ≤ s.pwr.now) := by
  unfold State.grant
  dsimp only
  split
  · omega
  · split
    next hwarn => omega
    next hwarn => exact ⟨by omega, by omega, fun h => absurd h hwarn⟩

/-- The reason that limits, 0 where the cap does not bind (R379). -/
def State.limiter (s : State) (asked : Nat) : Nat := if s.effective.1 < asked then s.effective.2 else 0

/-- The reason of the effective cap is one of Table 14.7. -/
theorem State.effective_reason (s : State) : s.effective.2 ≠ 0 ∧ s.effective.2 < 16 := by
  have hmem : (some s.effective.1, s.effective.2) ∈ s.limits := (lowest_spec s.lowest_limits).1
  simp only [State.limits, List.mem_cons, List.not_mem_nil, or_false, Prod.mk.injEq] at hmem
  omega

theorem State.limiter_lt (s : State) (asked : Nat) : s.limiter asked < 16 := by
  unfold State.limiter
  split
  · exact s.effective_reason.2
  · decide

/-- A grant, noted and shown. -/
def State.granted (s : State) (asked meas : Nat) : State :=
  let now := s.grant asked
  let t : State := { s with pwr := { s.pwr with
    now := now, ramp := decide (now < min s.pwr.cap asked)
    clampLimit := s.pwr.clampLimit && s.clampLimit == some s.effective.1 && decide (s.limiter asked ≠ 0) } }
  (t.setFld .pwrStat 0 0 3 0 (s.limiter asked)).setReg .pwrMeas 0 0 (BitVec.ofNat 32 (min meas 65535 + min now 65535 * 65536))

/-- The event of the reason that limits. -/
def State.limitEvent (s : State) (lim : Nat) : State := if lim ≠ 0 then s.openEvent lim 255 else s

/-- The event of a ramp. -/
def State.rampEvent (s : State) (paced : Bool) : State := if paced && !s.pwr.warn then s.openEvent 3 255 else s

theorem execBudgetUpdate_eq (s : State) (mv est meas : Nat) {u : State} (hu : u = (s.setBusbar mv).recap) :
    exec (.budgetUpdate mv est meas) s = .next ((((u.granted (max est meas) meas).limitEvent (u.limiter (max est meas))).rampEvent
      (decide (u.grant (max est meas) < min u.pwr.cap (max est meas)))).budgets.releaseHints) := by
  rw [hu]
  rfl

theorem State.limitEvent_opens (s : State) (lim : Nat) : OpensEvents s (s.limitEvent lim) ∧
    (lim ≠ 0 → ((s.limitEvent lim).openRec lim 255).isSome = true) := by
  unfold State.limitEvent
  split
  next h => exact ⟨s.openEvent_opensEvents lim 255, fun _ => State.openRec_openEvent ..⟩
  next h => exact ⟨.refl s, fun hlim => absurd hlim h⟩

theorem State.rampEvent_opens (s : State) (paced : Bool) : OpensEvents s (s.rampEvent paced) := by
  unfold State.rampEvent
  split
  · exact s.openEvent_opensEvents 3 255
  · exact .refl s

/-- What a grant shows of itself, and what it leaves. -/
theorem State.granted_spec (s : State) (asked meas : Nat) : (s.granted asked meas).pwr.now = s.grant asked ∧
    (s.granted asked meas).pwr.mv = s.pwr.mv ∧ (s.granted asked meas).pwr.cap = s.pwr.cap ∧
    (s.granted asked meas).fld .pwrStat 0 0 3 0 = s.limiter asked ∧
    (s.granted asked meas).fld .pwrMeas 0 0 15 0 = min meas 65535 ∧
    (s.granted asked meas).fld .pwrMeas 0 0 31 16 = min (s.grant asked) 65535 ∧ (s.granted asked meas).draws = s.draws ∧
    ∀ f, (s.granted asked meas).reg .fldPwrRail f 0 = s.reg .fldPwrRail f 0 := by
  unfold State.granted
  extract_lets now p t
  have hmeas : ((t.setFld .pwrStat 0 0 3 0 (s.limiter asked)).setReg .pwrMeas 0 0
      (BitVec.ofNat 32 (min meas 65535 + min now 65535 * 65536))).reg .pwrMeas 0 0 =
        BitVec.ofNat 32 (min meas 65535 + min now 65535 * 65536) := State.reg_setReg_self ..
  refine ⟨rfl, rfl, rfl, ?_, ?_, ?_, rfl, fun f => ?_⟩
  · refine (congrArg (fun w => regField w 3 0) (State.reg_setReg_ne _ _ (by decide))).trans ?_
    exact (State.fld_setFld_self t .pwrStat 0 0 (s.limiter asked) (by decide) (by decide)).trans
      (Nat.mod_eq_of_lt (s.limiter_lt asked))
  · simp only [State.fld, hmeas, regField, bitField, BitVec.toNat_ofNat]
    omega
  · simp only [State.fld, hmeas, regField, bitField, BitVec.toNat_ofNat]
    omega
  · exact (State.reg_setReg_ne _ _ (Reg.addr_ne_of_field (by decide) rfl f)).trans
      (State.reg_setReg_ne _ _ (Reg.addr_ne_of_field (by decide) rfl f))

/-! ### Budgets (R376, R377) -/

/-- A field's budget where n is the draw before. -/
def State.budgetOf (s : State) (n f : Nat) : Nat :=
  if s.fld .fldPwrRail f 0 23 20 < 14 then min (Config.fieldBudget f s.pwr.now n) (s.railWatts f) else Config.fieldBudget f s.pwr.now n

theorem State.budgetOf_congr {t : State} (hnow : t.pwr.now = s.pwr.now) (n f : Nat)
    (hrail : t.reg .fldPwrRail f 0 = s.reg .fldPwrRail f 0) : t.budgetOf n f = s.budgetOf n f := by
  have hfld (hi lo : Nat) : t.fld .fldPwrRail f 0 hi lo = s.fld .fldPwrRail f 0 hi lo := congrArg (fun w => regField w hi lo) hrail
  rw [State.budgetOf, State.railWatts, hfld, hfld, hnow]
  rfl

def State.setBudget (n : Nat) (s : State) (f : Nat) : State := s.modField f (fun v => { v with budget := s.budgetOf n f })

theorem State.budgets_eq (s : State) :
    s.budgets = (List.range 96).foldl (State.setBudget s.draws) { s with draws := s.draws + 1 } := rfl

/-- Only fields and the draws differ. -/
def FieldsOnly (s t : State) : Prop := ∃ fs n, t = { s with fields := fs, draws := n }

theorem FieldsOnly.trans {a b c : State} (h : FieldsOnly a b) (g : FieldsOnly b c) : FieldsOnly a c := by
  obtain ⟨_, _, rfl⟩ := h
  obtain ⟨fs, n, rfl⟩ := g
  exact ⟨fs, n, rfl⟩

theorem State.setBudget_fieldsOnly (s : State) (n f : Nat) : FieldsOnly s (s.setBudget n f) := ⟨_, s.draws, rfl⟩

theorem State.budgets_fieldsOnly (s : State) : FieldsOnly s s.budgets :=
  List.foldlRecOn (motive := fun t => FieldsOnly s t) _ _ ⟨s.fields, _, rfl⟩ fun t ht f _ => ht.trans (t.setBudget_fieldsOnly _ f)

theorem FieldsOnly.budgetOf {t : State} (h : FieldsOnly s t) (n f : Nat) : t.budgetOf n f = s.budgetOf n f := by
  obtain ⟨fs, m, rfl⟩ := h
  exact State.budgetOf_congr rfl n f rfl

/-- Every field has its budget of what is granted. -/
theorem State.budgets_budget (s : State) {f : Nat} (hf : f < 96) : ((s.budgets).field f).budget = s.budgetOf s.draws f := by
  rw [State.budgets_eq]
  have hstart : FieldsOnly s { s with draws := s.draws + 1 } := ⟨s.fields, _, rfl⟩
  obtain ⟨before, after, hsplit⟩ := List.append_of_mem (List.mem_range.2 hf)
  have hpre : FieldsOnly s (before.foldl (State.setBudget s.draws) { s with draws := s.draws + 1 }) :=
    List.foldlRecOn (motive := fun t => FieldsOnly s t) _ _ hstart fun t ht g _ => ht.trans (t.setBudget_fieldsOnly _ g)
  rw [hsplit, List.foldl_append, List.foldl_cons]
  generalize before.foldl (State.setBudget s.draws) _ = t at *
  have hbefore : FieldsOnly s (t.setBudget s.draws f) ∧ ((t.setBudget s.draws f).field f).budget = s.budgetOf s.draws f := by
    refine ⟨hpre.trans (t.setBudget_fieldsOnly _ f), ?_⟩
    rw [State.setBudget, State.field_modField_self]
    exact hpre.budgetOf s.draws f
  refine (List.foldlRecOn (motive := fun t => FieldsOnly s t ∧ (t.field f).budget = s.budgetOf s.draws f) after
    (State.setBudget s.draws) hbefore fun u hu g _ => ?_).2
  obtain ⟨honly, hbudget⟩ := hu
  refine ⟨honly.trans (u.setBudget_fieldsOnly _ g), ?_⟩
  by_cases hg : g = f
  · rw [hg, State.setBudget, State.field_modField_self]
    exact honly.budgetOf s.draws f
  · rw [State.setBudget, State.field_modField_ne _ _ hg, hbudget]

/-- Budgets and the hints let go leave the rest. -/
theorem State.budgeted_frame (s : State) : s.budgets.releaseHints.regs = s.regs ∧
    (∃ hs, s.budgets.releaseHints.pwr = { s.pwr with heldGroups := hs }) ∧
    ∀ f, s.budgets.releaseHints.field f = s.budgets.field f := by
  obtain ⟨fs, n, h⟩ := s.budgets_fieldsOnly
  unfold State.releaseHints
  rw [h]
  exact ⟨rfl, ⟨_, rfl⟩, fun _ => rfl⟩

/-! ### Hints (R393, R394) -/

theorem State.setBallast_zero (s : State) (l : Nat) : (s.setBallast l 0).pwr.ballast.at? l = none ∧
    (s.setBallast l 0).pwr.hints = s.pwr.hints ∧ (s.setBallast l 0).up = s.up ∧
    ∀ f ∈ s.groupFields l, ((s.setBallast l 0).field f).ballast = 0 := by
  have hdel : (s.pwr.ballast.set l 0 0).at? l = none := by
    rw [SMap.set, if_pos rfl, SMap.at?_del_self]
  unfold State.setBallast
  extract_lets fs p t
  have hframe : FieldsOnly t (fs.foldl (fun s f => s.modField f (fun v => { v with ballast := 0 / max fs.length 1 })) t) :=
    List.foldlRecOn (motive := fun u => FieldsOnly t u) _ _ ⟨_, _, rfl⟩ fun u hu g _ => hu.trans ⟨_, u.draws, rfl⟩
  refine ⟨?_, ?_, ?_, fun f hf => ?_⟩
  · obtain ⟨_, _, h⟩ := hframe
    rw [h]
    exact hdel
  · obtain ⟨_, _, h⟩ := hframe
    rw [h]
  · obtain ⟨_, _, h⟩ := hframe
    rw [h]
  · refine foldl_establishes (P := fun u : State => (u.field f).ballast = 0) hf (fun u => ?_) (fun u g _ hu => ?_) t
    · rw [State.field_modField_self]
      exact Nat.zero_div _
    · by_cases hg : g = f
      · rw [hg, State.field_modField_self]
        exact Nat.zero_div _
      · rw [State.field_modField_ne _ _ hg, hu]

/-- A group whose launches are held. -/
def State.holdGroup (s : State) (l : Nat) : State := { s with pwr := { s.pwr with heldGroups := s.pwr.heldGroups ++ [l] } }

theorem State.closeEvent_records {reason scope : Nat} (depth : Nat) {r : ThrottleRec} (h : s.openRec reason scope = some r) :
    (s.closeEvent reason scope depth).pwr.records = s.pwr.records.map (fun q => if q = r then
      ({ q with dur := some ((s.sinceReady - r.start) / 1000 % 2 ^ 32), depth := depth % 256 } : ThrottleRec) else q) := by
  unfold State.closeEvent
  rw [h]
  dsimp only
  split <;> rfl

end

end Sys2Proof.Machine

open Sys2Proof Sys2Proof.Machine

/-- Settles O47, one clause for each move of the granted power, of a hint and of a throttle event. -/
theorem budgetsAndHints : Obligations.BudgetsAndHints := by
  unfold Obligations.BudgetsAndHints
  intro s
  refine ⟨fun mv est meas u hu => ?_, fun l n h hh => ⟨fun hoff => ?_, fun hon => ⟨fun hfits => ?_, fun hnot hearly => ?_,
    fun hnot hdue hfree => ?_⟩⟩, fun l hl => ?_, fun l hl => ?_, fun reason scope depth => ⟨fun hholds => ?_, fun r hends hr => ?_⟩⟩
  · have hexec := execBudgetUpdate_eq s mv est meas hu
    obtain ⟨ds, hbus⟩ := s.setBusbar_pwr mv
    have hregs : u.regs = s.regs := by rw [hu]; exact s.setBusbar_regs mv
    have hdraws : u.draws = s.draws := by rw [hu, State.recap, State.setBusbar_eq]
    have hmv : u.pwr.mv = mv := by rw [hu, State.recap_mv, hbus]
    have hwarn : u.pwr.warn = s.pwr.warn := by rw [hu, State.recap_warn, hbus]
    have hcap : u.pwr.cap = u.effective.1 := by rw [hu]; exact State.recap_cap _
    clear hu
    obtain ⟨hup, hdown, hfrozen⟩ := u.grant_near (max est meas)
    obtain ⟨hnow, hmv', hcap', hlim, hmeas, hshown, hdraws', hrail⟩ := u.granted_spec (max est meas) meas
    obtain ⟨hlimit, hopen⟩ := (u.granted (max est meas) meas).limitEvent_opens (u.limiter (max est meas))
    have hramp := ((u.granted (max est meas) meas).limitEvent (u.limiter (max est meas))).rampEvent_opens
      (decide (u.grant (max est meas) < min u.pwr.cap (max est meas)))
    have hslope := State.fld_congr hregs .pwrCaps 0 0 23 8
    have hpaced := fun h => hramp.keeps _ _ (hopen h)
    have honly := (hlimit.trans hramp).only
    generalize u.granted (max est meas) meas = v at *
    generalize State.rampEvent (v.limitEvent (u.limiter (max est meas))) _ = w at *
    obtain ⟨rs, m, hpwr⟩ := honly.pwr
    obtain ⟨hregs', ⟨hs, hpwr'⟩, hfield⟩ := w.budgeted_frame
    have hrecs (reason scope : Nat) : w.budgets.releaseHints.openRec reason scope = w.openRec reason scope := by
      rw [State.openRec, hpwr', ← State.openRec]
    have hreads (r : Reg) (hi lo : Nat) (hstat : Reg.pwrStat.addr 0 0 ≠ r.addr 0 0) (hbwarn : Reg.pwrBwarn.addr 0 0 ≠ r.addr 0 0) :
        w.budgets.releaseHints.fld r 0 0 hi lo = v.fld r 0 0 hi lo :=
      (State.fld_congr hregs' r 0 0 hi lo).trans (congrArg (fun x => regField x hi lo) (honly.reg hstat hbwarn))
    have hlimited : w.budgets.releaseHints.fld .pwrStat 0 0 3 0 = u.limiter (max est meas) :=
      ((State.fld_congr hregs' .pwrStat 0 0 3 0).trans (honly.stat (by decide) (by decide))).trans hlim
    rw [hslope] at hup hdown
    rw [hwarn] at hfrozen
    have hgranted : w.budgets.releaseHints.pwr.now = u.grant (max est meas) := by
      rw [hpwr', hpwr]
      exact hnow
    have hwnow : w.pwr.now = u.grant (max est meas) := by
      rw [hpwr]
      exact hnow
    refine ⟨_, hexec, ?_, ?_, ?_⟩
    · rw [hpwr', hpwr]
      exact hmv'.trans hmv
    · rw [hpwr', hpwr]
      exact hcap'.trans hcap
    rw [hgranted]
    refine ⟨hup, hdown, hfrozen, (hreads _ _ _ (by decide) (by decide)).trans hmeas, (hreads _ _ _ (by decide) (by decide)).trans hshown,
      fun hbinds => ?_, fun hfree => ?_, fun f hf => ?_⟩
    · have hreason : u.limiter (max est meas) = u.effective.2 := if_pos hbinds
      rw [hlimited, hrecs, hreason]
      rw [hreason] at hpaced
      exact ⟨rfl, hpaced u.effective_reason.1⟩
    · exact hlimited.trans (if_neg (Nat.not_lt.2 hfree))
    · have hwrail : w.reg .fldPwrRail f 0 = s.reg .fldPwrRail f 0 :=
        ((honly.reg (Reg.addr_ne_of_field (by decide) rfl f) (Reg.addr_ne_of_field (by decide) rfl f)).trans (hrail f)).trans
          (State.reg_congr hregs ..)
      have hwdraws : w.draws = s.draws := by
        rw [honly.frame]
        exact hdraws'.trans hdraws
      have hwfld (hi lo : Nat) : w.fld .fldPwrRail f 0 hi lo = s.fld .fldPwrRail f 0 hi lo :=
        congrArg (fun x => regField x hi lo) hwrail
      rw [hfield, w.budgets_budget hf, State.budgetOf, State.railWatts, hwfld, hwfld, hwnow, hwdraws]
      rfl
  · exact congrArg Host.Outcome.next (by rw [hh]; exact if_pos (by rw [hoff]; rfl))
  · exact congrArg Host.Outcome.next (by rw [hh]; exact (if_neg (by rw [hon]; decide)).trans (if_pos hfits))
  · refine congrArg Host.Outcome.next ?_
    rw [hh]
    refine (if_neg (by rw [hon]; decide)).trans ((if_neg (by rw [hnot]; decide)).trans (if_pos ?_))
    simpa using hearly
  · refine ⟨(s.holdGroup l).openEvent (if s.pwr.dew then 2 else 6) 255, congrArg Host.Outcome.next ?_, ?_, ?_⟩
    · rw [hh]
      refine (if_neg (by rw [hon]; decide)).trans ((if_neg (by rw [hnot]; decide)).trans (if_neg ?_))
      simpa using ⟨hdue, hfree⟩
    · obtain ⟨rs, n, hpwr⟩ := ((s.holdGroup l).openEvent_eventOnly (if s.pwr.dew then 2 else 6) 255).pwr
      rw [hpwr]
      rfl
    · exact State.openRec_openEvent ..
  · obtain ⟨hnone, hhints, hup, hzero⟩ := s.setBallast_zero l
    refine ⟨(s.setBallast l 0).dropDue l, congrArg Host.Outcome.next (if_pos hl), hnone, ?_, hzero⟩
    rw [State.dropDue, hhints, hup]
  · exact congrArg Host.Outcome.next (if_pos (List.contains_iff_mem.2 hl))
  · exact congrArg Host.Outcome.next (if_pos hholds)
  · exact ⟨_, congrArg Host.Outcome.next (if_neg (by simp [hends])), State.closeEvent_records depth hr⟩
end


section
/-! SUPPORT. Aborts that run, stalls, gates that reopen, and the persistent log (R424, R425, R428, R432, R435). -/
namespace Sys2Proof.Machine

section
variable {s : State}

/-! ### Aborts and stalls (R424, R425, R428) -/

/-- Of a group whose abort has run none is left. -/
theorem State.doAbort_done (s : State) (a : Abort) : ∀ b ∈ (s.doAbort a).err.aborts, b.group ≠ a.group := by
  unfold State.doAbort
  dsimp only
  intro b hb
  simpa using (List.mem_filter.1 hb).2

theorem execRequestAbort_eq {l : Nat} {a : Abort} (h : s.err.aborts.find? (fun a => a.group == l) = some a) :
    exec (.requestAbort l) s = .next (if !s.pairUp l || (a.atBoundary && (s.active l).any (·.inFlight)) then s else s.doAbort a) := by
  refine congrArg Host.Outcome.next ?_
  rw [h]

/-- A partition's event leaves its record (R420). -/
theorem State.nextSeq_lt_partitionEvent (s : State) (c : Code) (part h0 h1 w2 w3 : Nat) :
    s.err.nextSeq < (s.partitionEvent c part h0 h1 w2 w3).err.nextSeq :=
  (Nat.lt_succ_self _).trans_le ((State.log_nextSeq s c part h0 h1 w2 w3).symm.le.trans (State.partitionReset_keeps (Keeps.refl _)).seq)

/-- An event of class REQUEST asks for its group's abort (R420, R424). -/
theorem State.event_aborts (s : State) {c : Code} (hclass : c.cls = 2) (hc : c ≠ .rangeSat) {part : Nat} (hpart : part < 32)
    (h0 h1 w2 w3 : Nat) : ∃ b ∈ (s.event c part h0 h1 w2 w3).err.aborts, b.group = s.lead part := by
  have hlead : (s.log c part h0 h1 w2 w3).lead part = s.lead part := (s.log_sameSupply c part h0 h1 w2 w3).lead part
  have hevent : s.event c part h0 h1 w2 w3 = (s.log c part h0 h1 w2 w3).contain c part s.err.nextSeq :=
    if_neg (by simp [hc])
  have hcontain (t : State) (seq : Nat) : t.contain c part seq =
      (t.voidReq (t.lead part) c.val 2 part seq).queueAbort (t.lead part) c.val 2 seq false :=
    (if_neg (Nat.not_le.2 hpart)).trans (if_pos hclass)
  rw [hevent, hcontain, hlead]
  exact State.queueAbort_queues ..

/-! ### Gates (R432) -/

/-- A gate taken off, before what it held goes out. -/
def State.ungate (s : State) (p : Nat) : State :=
  ({ s with err := { s.err with gates := s.err.gates.put p (s.gateCauses p) } } : State).setFld .errGate 0 0 p p 0

theorem State.gated_ungate (s : State) {p : Nat} (hp : p < 32) : (s.ungate p).gated p = false := by
  refine (State.flag_setFld _ .errGate 0 0 0 p hp (Nat.le_refl p)).trans ?_
  rw [if_pos ⟨Nat.le_refl p, Nat.le_refl p⟩]
  exact Nat.zero_testBit _

theorem State.mayWrite_flushHeld (s : State) (p : Nat) (w : HostWrite) : s.flushHeld.mayWrite p w = s.mayWrite p w := rfl

/-- What may leave does, and the rest stays held. -/
theorem State.flushHeld_spec (s : State) : s.flushHeld.host.held = s.host.held.filter (fun e => !s.flushHeld.mayWrite e.1 e.2) ∧
    s.flushHeld.host.out = s.host.out ++ (s.host.held.filter (fun e => s.flushHeld.mayWrite e.1 e.2)).map (·.2) := by
  simp only [State.mayWrite_flushHeld]
  exact ⟨rfl, rfl⟩

/-- A gate with no cause left reopens (R432). -/
theorem State.reopen_eq {p : Nat} (hgate : s.gated p = true) (hnone : s.gateCauses p = []) {v : State}
    (hv : v = ((s.ungate p).flushHeld.flushRecords p).pumpAll) :
    s.reopen p = v.writePage p (leAt (v.host.ppages.atD p []) 260 4) (leAt (v.host.ppages.atD p []) 280 8) := by
  have hopen : ¬ (!(s.gateCauses p).isEmpty || !s.gated p) = true := by simp [hgate, hnone]
  unfold State.reopen
  extract_lets cs e t u w old
  have hw : w = v := hv.symm
  refine (if_neg hopen).trans ?_
  unfold old
  rw [hw]

theorem State.reopen_waits {p : Nat} (h : s.gateCauses p ≠ []) :
    s.reopen p = { s with err := { s.err with gates := s.err.gates.put p (s.gateCauses p) } } :=
  if_pos (by simp [h])

/-! ### The persistent log (R435) -/

/-- Entries written in the present second. -/
def State.plogCount (s : State) : Nat := if s.err.plogNow = s.up.time / 1000000000 then s.err.plogSec else 0

theorem State.plogCount_full (hnow : s.err.plogNow = s.up.time / 1000000000) (hfull : 64 ≤ s.err.plogSec) : 64 ≤ s.plogCount := by
  rwa [State.plogCount, if_pos hnow]

theorem State.plogCount_room (h : s.err.plogNow ≠ s.up.time / 1000000000 ∨ s.err.plogSec < 64) : s.plogCount < 64 := by
  unfold State.plogCount
  split <;> omega

/-- A record too many in a second, dropped. -/
def State.plogDrop (s : State) (rest : List LogRec) : State :=
  { s with err := { s.err with plogWait := rest, plogNow := s.up.time / 1000000000, plogSec := s.plogCount } }

/-- A sector that is erased before it is written again. -/
def State.plogErase (s : State) : State :=
  { s with err := { s.err with
    erasing := true
    plog := s.err.plog.filter (fun x => !(decide (s.err.plogAt ≤ x.1) && decide (x.1 < s.err.plogAt + sectorEntries))) } }

/-- The record put at its place. -/
def State.plogPut (s : State) (r : LogRec) (rest : List LogRec) : State :=
  { s with err := { s.err with
    plog := s.err.plog.put s.err.plogAt (r, s.flash.startups), plogAt := (s.err.plogAt + 1) % plogEntries
    plogWait := rest, plogNow := s.up.time / 1000000000, plogSec := s.plogCount + 1 } }

theorem execPlogWrite_eq {r : LogRec} {rest : List LogRec} (hwait : s.err.plogWait = r :: rest) (herase : s.err.erasing = false) :
    exec .plogWrite s = .next (if 64 ≤ s.plogCount then (s.plogDrop rest).addFld .errPlog 0 0 15 0 1
      else if s.err.plogAt % sectorEntries = 0 && s.sectorFull s.err.plogAt then s.plogErase.addFld .errPlog 0 0 31 16 1
      else s.plogPut r rest) := by
  refine congrArg Host.Outcome.next ?_
  rw [hwait]
  exact if_neg (by simp [herase])

/-- A sector just erased holds nothing. -/
theorem State.sectorFull_plogErase (s : State) : s.plogErase.sectorFull s.err.plogAt = false := by
  refine List.any_eq_false.2 fun e he => ?_
  have hout := (List.mem_filter.1 he).2
  rw [Bool.not_eq_true'] at hout
  rw [hout]
  decide

end

end Sys2Proof.Machine

open Sys2Proof Sys2Proof.Machine

/-- Settles O49, one clause for each event of an abort, a gate and the persistent log. -/
theorem abortsGatesAndLog : Obligations.AbortsGatesAndLog := by
  unfold Obligations.AbortsGatesAndLog
  intro s
  refine ⟨fun l a ha => ⟨fun hwaits => ?_, fun hup hidle => ?_⟩, fun l a ha => ⟨?_, ?_, ?_⟩,
    fun l q hq => ⟨fun hheld => ?_, fun hidle hfree hfew t ht => ?_⟩, fun p hp hgate => ⟨fun hcauses => ?_, fun hnone => ?_⟩,
    fun r rest hwait herase => ⟨fun hnow hfull => ?_, fun hroom => ⟨fun hput => ?_, fun hstart hsector => ?_⟩⟩, rfl⟩
  · rw [execRequestAbort_eq ha]
    refine congrArg Host.Outcome.next (if_pos ?_)
    obtain hdown | ⟨hboundary, q, hq, hflight⟩ := hwaits
    · simp [hdown]
    · simp [hboundary, hq, hflight]
  · have hgroup : a.group = l := by simpa using List.find?_some ha
    refine ⟨?_, fun b hb => hgroup ▸ s.doAbort_done a b hb⟩
    rw [execRequestAbort_eq ha]
    refine congrArg Host.Outcome.next (if_neg ?_)
    rw [hup]
    cases hboundary : a.atBoundary with
    | false => simp
    | true =>
      cases hactive : s.active l with
      | none => simp
      | some q => simp [hidle hboundary q hactive]
  · refine congrArg Host.Outcome.next ?_
    rw [ha]
  · exact s.nextSeq_lt_partitionEvent ..
  · exact (s.partitionEvent_sameDomains ..).2
  · refine congrArg Host.Outcome.next ?_
    rw [hq]
    exact if_pos (by simpa using hheld)
  · refine ⟨congrArg Host.Outcome.next ?_, ?_, fun hl => ?_⟩
    · rw [hq, ht]
      exact if_neg (by simpa using ⟨hidle, hfree, hfew⟩)
    · rw [ht, State.event_nextSeq]
    · rw [ht]
      exact s.event_aborts (by decide) (by decide) hl ..
  · exact congrArg (fun t => Host.Outcome.next (State.settleAcks t)) (State.reopen_waits hcauses)
  · obtain ⟨hheld, hout⟩ := (s.ungate p).flushHeld_spec
    exact ⟨(s.ungate p).flushHeld, _, s.gated_ungate hp, hheld, hout, rfl,
      congrArg (fun t => Host.Outcome.next (State.settleAcks t)) (State.reopen_eq hgate hnone rfl)⟩
  · refine ⟨(s.plogDrop rest).addFld .errPlog 0 0 15 0 1, ?_, rfl, rfl, ?_⟩
    · rw [execPlogWrite_eq hwait herase, if_pos (State.plogCount_full hnow hfull)]
    · exact State.addFld_self (s.plogDrop rest) .errPlog 0 0 1 (by decide) (by decide)
  · refine ⟨s.plogPut r rest, ?_, rfl, SMap.at?_put_self .., rfl, rfl, fun i hi => SMap.at?_put_ne _ _ hi.symm⟩
    rw [execPlogWrite_eq hwait herase, if_neg (Nat.not_le.2 (State.plogCount_room hroom)), if_neg]
    simpa [or_iff_not_imp_left] using hput
  · refine ⟨s.plogErase.addFld .errPlog 0 0 31 16 1, ?_, hwait, rfl, s.sectorFull_plogErase, ?_⟩
    · rw [execPlogWrite_eq hwait herase, if_neg (Nat.not_le.2 (State.plogCount_room hroom)), if_pos (by simp [hstart, hsector])]
    · exact State.addFld_self s.plogErase .errPlog 0 0 1 (by decide) (by decide)
end


section
/-! SUPPORT. The steps of start-up (R402, R403): how the next one begins, and what the stages before it leave. -/
namespace Sys2Proof.Machine

section
variable {s : State}

/-! ### The next step begins -/

theorem State.showCaps_frame (s : State) : s.showCaps = { s with regs := s.showCaps.regs } := by
  unfold State.showCaps
  dsimp only
  split <;> rfl

theorem State.showCaps_reg (s : State) {q : Reg} {b i : Nat} (hparts : Reg.glbCapParts.addr 0 0 ≠ q.addr b i)
    (hcloves : Reg.glbCapCloves.addr 0 0 ≠ q.addr b i) (hstart : Reg.glbStart.addr 0 0 ≠ q.addr b i) :
    s.showCaps.reg q b i = s.reg q b i := by
  unfold State.showCaps
  extract_lets live mask u t
  have ht : t.reg q b i = s.reg q b i := (State.reg_setReg_ne _ _ hcloves).trans (State.reg_setReg_ne _ _ hparts)
  split
  · exact ht
  · exact (State.reg_setReg_ne _ _ hstart).trans ht

/-- Of GLB_START only DEGRADED follows the partitions in service. -/
theorem State.showCaps_start (s : State) {hi lo : Nat} (l : lo ≤ hi) (hapart : hi < 5 ∨ 5 < lo) :
    s.showCaps.fld .glbStart 0 0 hi lo = s.fld .glbStart 0 0 hi lo := by
  unfold State.showCaps
  extract_lets live mask u t
  have ht : t.fld .glbStart 0 0 hi lo = s.fld .glbStart 0 0 hi lo :=
    (congrArg (fun w => regField w hi lo) (State.reg_setReg_ne _ _ (by decide))).trans
      (congrArg (fun w => regField w hi lo) (State.reg_setReg_ne _ _ (by decide)))
  split
  · exact ht
  · exact (State.fld_setFld_apart t .glbStart 0 0 1 (by decide) (by decide) l hapart).trans ht

/-- A step that begins, as GLB_START and the capability registers show it. -/
def State.stepShown (s : State) (n : Nat) : State := (s.setFld .glbStart 0 0 3 0 n).showElapsed.showCaps

theorem State.nextStep_eq (s : State) {n : Nat} (h : n = 9 → s.addressed = false) : s.nextStep n =
    if n = 9 then (s.stepShown n).enter9 else if n = 10 then (s.stepShown n).enter10
    else if n = 11 then (s.stepShown n).becomeReady else s.stepShown n := by
  have hn : (if n = 9 ∧ s.addressed = true then 10 else n) = n := by
    refine if_neg fun hskip => ?_
    rw [h hskip.1] at hskip
    exact absurd hskip.2 (by decide)
  unfold State.nextStep
  rw [hn]
  rfl

theorem State.nextStep_10_eq (s : State) : s.nextStep 10 = (s.stepShown 10).enter10 := by
  rw [State.nextStep_eq s fun h => absurd h (by decide), if_neg (by decide), if_pos rfl]

/-- Step 9 is done at once where the agent has an address (R441). -/
theorem State.nextStep_skips (s : State) (h : s.addressed = true) : s.nextStep 9 = s.nextStep 10 := by
  have hskip : (if 9 = 9 ∧ s.addressed = true then 10 else 9) = 10 := if_pos ⟨rfl, h⟩
  have hstays : (if 10 = 9 ∧ s.addressed = true then 10 else 10) = 10 := ite_self 10
  unfold State.nextStep
  rw [hskip, hstays]

theorem State.stepShown_frame (s : State) (n : Nat) : s.stepShown n = { s with regs := (s.stepShown n).regs } := by
  unfold State.stepShown
  rw [State.showCaps_frame]
  rfl

theorem State.stepShown_step (s : State) {n : Nat} (h : n < 16) : (s.stepShown n).fld .glbStart 0 0 3 0 = n := by
  refine (State.showCaps_start _ (by decide) (.inl (by decide))).trans ?_
  refine (State.fld_setFld_apart _ .glbStart 0 0 _ (by decide) (by decide) (by decide) (.inl (by decide))).trans ?_
  exact (State.fld_setFld_self s .glbStart 0 0 n (by decide) (by decide)).trans (Nat.mod_eq_of_lt h)

theorem State.stepShown_flag (s : State) (n : Nat) {k : Nat} (hk : k = 4 ∨ k = 6 ∨ k = 7) :
    (s.stepShown n).flag .glbStart 0 0 k = s.flag .glbStart 0 0 k := by
  rw [State.flag_eq_fld, State.flag_eq_fld]
  have hshown : (s.stepShown n).fld .glbStart 0 0 k k = s.fld .glbStart 0 0 k k := by
    refine (State.showCaps_start _ (Nat.le_refl k) (by omega)).trans ?_
    refine (State.fld_setFld_apart _ .glbStart 0 0 _ (by decide) (by decide) (Nat.le_refl k) (.inl (by omega))).trans ?_
    exact State.fld_setFld_apart s .glbStart 0 0 n (by decide) (by decide) (Nat.le_refl k) (.inr (by omega))
  rw [hshown]

theorem State.stepShown_reg (s : State) (n : Nat) {q : Reg} {b i : Nat} (hparts : Reg.glbCapParts.addr 0 0 ≠ q.addr b i)
    (hcloves : Reg.glbCapCloves.addr 0 0 ≠ q.addr b i) (hstart : Reg.glbStart.addr 0 0 ≠ q.addr b i) :
    (s.stepShown n).reg q b i = s.reg q b i :=
  (State.showCaps_reg _ hparts hcloves hstart).trans ((State.reg_setReg_ne _ _ hstart).trans (State.reg_setReg_ne _ _ hstart))

/-- Below step 9 nothing else begins with a step. -/
theorem State.nextStep_low (s : State) {n : Nat} (h : n < 9) : s.nextStep n = s.stepShown n := by
  rw [State.nextStep_eq s (by omega), if_neg (by omega), if_neg (by omega), if_neg (by omega)]

/-! ### Steps 9 and 10 -/

theorem State.enter9_start (s : State) : s.enter9.reg .glbStart 0 0 = s.reg .glbStart 0 0 :=
  State.reg_setReg_ne { s with mgmt := { s.mgmt with notifies := 0 } } _ (by decide)

theorem State.beginUp_start (s : State) {d : Nat} (hlow : 1272 ≤ d) (hhigh : d < 1286) :
    (s.beginUp d).reg .glbStart 0 0 = s.reg .glbStart 0 0 := by
  have hput (t : State) : (t.putDomain d ⟨.up, none, false⟩).reg .glbStart 0 0 = t.reg .glbStart 0 0 :=
    State.reg_congr (congrArg State.regs (if_neg (by omega))) ..
  have hport : Reg.vngPort.addr 0 (d - 1272) ≠ Reg.glbStart.addr 0 0 := by
    simp only [Reg.addr, Reg.info]
    omega
  unfold State.beginUp
  dsimp only
  rw [if_pos ⟨hlow, hhigh⟩]
  exact (State.reg_setReg_ne _ _ hport).trans (hput _)

theorem State.startClaim_start (s : State) : s.startClaim.reg .glbStart 0 0 = s.reg .glbStart 0 0 := by
  have hset (t : State) (st id : Nat) : (t.setNode st id).reg .glbStart 0 0 = t.reg .glbStart 0 0 :=
    t.reg_setNode_ne st id (by decide) (by decide)
  unfold State.startClaim
  dsimp only
  split
  · rw [State.claimStep_eq, State.reg_congr (State.claimSent_spec _).1]
    exact hset _ _ _
  · exact hset _ _ _

theorem State.enter10_start (s : State) : s.enter10.reg .glbStart 0 0 = s.reg .glbStart 0 0 := by
  unfold State.enter10
  refine (State.startClaim_start _).trans ((State.reg_setReg_ne _ _ (by decide)).trans ?_)
  refine List.foldlRecOn (motive := fun t : State => t.reg .glbStart 0 0 = s.reg .glbStart 0 0) _ _ rfl fun t ht n hn => ?_
  have hport := List.mem_range.1 hn
  split
  · exact ht
  · exact (State.beginUp_start t (by omega) (by omega)).trans ht

theorem State.nextStep_10 (s : State) : (s.nextStep 10).fld .glbStart 0 0 3 0 = 10 := by
  rw [State.nextStep_10_eq, State.fld, State.enter10_start, ← State.fld]
  exact s.stepShown_step (by decide)

/-- Step 9 begins, or step 10 at once where the agent has an address. -/
theorem State.nextStep_9 (s : State) : (s.nextStep 9).fld .glbStart 0 0 3 0 = if s.addressed then 10 else 9 := by
  cases h : s.addressed with
  | true =>
    rw [State.nextStep_skips s h, State.nextStep_10]
    rfl
  | false =>
    rw [State.nextStep_eq s fun _ => h, if_pos rfl, State.fld, State.enter9_start, ← State.fld]
    exact s.stepShown_step (by decide)

/-! ### Ready (R403) -/

theorem State.dropCause_frame (ps : List Nat) (cause : Nat) : ∀ s : State,
    ∃ gates, s.dropCause ps cause = { s with err := { s.err with gates := gates } } := by
  induction ps with
  | nil => exact fun s => ⟨s.err.gates, rfl⟩
  | cons p ps ih =>
    intro s
    obtain ⟨gates, h⟩ := ih { s with err := { s.err with gates := s.err.gates.put p ((s.err.gates.atD p []).filter (· ≠ cause)) } }
    exact ⟨gates, h⟩

/-- The module at Ready, before its gates reopen. -/
def State.readied (s : State) : State :=
  let s := s.showElapsed
  let s := s.setFld .glbStart 0 0 4 4 1
  let s := s.setFld .errPlog 0 0 31 16 0
  let s := if s.pwr.warn then s.openEvent 4 255 else s
  let degraded := !s.up.outParts.isEmpty || !s.up.failed.isEmpty || s.fld .glbCumin 0 0 7 4 ≠ 0 ||
    s.flash.blockARetired || s.flash.blockBRetired || (List.range 24).any (fun k => s.fld .memStkStat 0 k 5 0 ≠ 32)
  let s := s.setFld .glbStart 0 0 5 5 (b2n degraded)
  let s : State := { s with
    up := { s.up with readyAt := s.up.time, recorded := false }
    err := { s.err with counts := [], recent := [], voided := [] } }
  s.dropCause (List.range 32) 3

theorem State.becomeReady_eq (s : State) : s.becomeReady = (List.range 32).foldl (fun s p => s.reopen p) s.readied := rfl

theorem State.readied_spec (s : State) : s.readied.ready = true ∧
    s.readied.fld .glbStart 0 0 3 0 = s.fld .glbStart 0 0 3 0 ∧ s.readied.up.readyAt = s.up.time ∧ s.readied.err.recent = [] ∧
    s.readied.cloves = s.cloves ∧ s.readied.hbm = s.hbm := by
  unfold State.readied
  extract_lets s1 s2 s3 s4 degraded s5 up err s6
  have hevent : EventOnly s3 s4 := by
    unfold s4
    split
    · exact s3.openEvent_eventOnly 4 255
    · exact .refl s3
  have hready : s2.fld .glbStart 0 0 4 4 = 1 := State.fld_setFld_self s1 .glbStart 0 0 1 (by decide) (by decide)
  have hstep : s2.fld .glbStart 0 0 3 0 = s.fld .glbStart 0 0 3 0 :=
    (State.fld_setFld_apart s1 .glbStart 0 0 1 (by decide) (by decide) (by decide) (.inl (by decide))).trans
      (State.fld_setFld_apart s .glbStart 0 0 _ (by decide) (by decide) (by decide) (.inl (by decide)))
  have hkept {hi lo : Nat} (l : lo ≤ hi) (hapart : hi < 5 ∨ 5 < lo) : s6.fld .glbStart 0 0 hi lo = s2.fld .glbStart 0 0 hi lo := by
    refine (State.fld_congr (t := s6) (s := s5) rfl ..).trans ?_
    refine (State.fld_setFld_apart s4 .glbStart 0 0 _ (by decide) (by decide) l hapart).trans ?_
    refine (congrArg (fun w => regField w hi lo) (hevent.reg (q := .glbStart) (b := 0) (i := 0) (by decide) (by decide))).trans ?_
    exact congrArg (fun w => regField w hi lo) (State.reg_setReg_ne _ _ (by decide))
  have htime : s4.up = s.up := hevent.up
  have hcloves : s4.cloves = s.cloves := hevent.cloves
  have hhbm : s4.hbm = s.hbm := hevent.hbm
  obtain ⟨gates, hgates⟩ := s6.dropCause_frame (List.range 32) 3
  have hregs : (s6.dropCause (List.range 32) 3).regs = s6.regs := by rw [hgates]
  refine ⟨?_, ?_, ?_, ?_, ?_, ?_⟩
  · rw [State.ready, State.flag_congr hregs, State.flag_eq_fld, hkept (by decide) (.inl (by decide)), hready]
    rfl
  · rw [State.fld_congr hregs, hkept (by decide) (.inl (by decide)), hstep]
  · rw [hgates]
    exact congrArg Startup.time htime
  · rw [hgates]
  · rw [hgates]
    exact hcloves
  · rw [hgates]
    exact hhbm

end

end Sys2Proof.Machine
end


section
/-! SUPPORT. What the stages of start-up power, train and load (R251, R402, R412, R419). -/
namespace Sys2Proof.Machine

section
variable {s : State}

/-! ### Domains that come up (R402, R419) -/

/-- From s to t nothing changes that decides which domains may come up. -/
structure SameMayPower (s t : State) : Prop where
  failed : t.up.failed = s.up.failed
  time : t.up.time = s.up.time
  safety : t.pwr.safety = s.pwr.safety

theorem SameMayPower.refl (s : State) : SameMayPower s s := ⟨rfl, rfl, rfl⟩

theorem SameMayPower.trans {a b c : State} (h : SameMayPower a b) (g : SameMayPower b c) : SameMayPower a c :=
  ⟨g.failed.trans h.failed, g.time.trans h.time, g.safety.trans h.safety⟩

theorem SameMayPower.mayPower {s t : State} (h : SameMayPower s t) (d : Nat) : t.mayPower d = s.mayPower d := by
  unfold State.mayPower State.safetyAllows
  rw [h.failed, h.time, h.safety]

theorem State.powerUp_sameMayPower (s : State) (d : Nat) : SameMayPower s (s.powerUp d) := by
  unfold State.powerUp
  split
  · rw [State.putDomain_frame]
    exact ⟨rfl, rfl, rfl⟩
  · exact .refl s

theorem State.domain_powerUp_ne (s : State) {d e : Nat} (h : e ≠ d) : (s.powerUp e).domain d = s.domain d := by
  unfold State.powerUp
  split
  · exact (State.domain_congr (s.putDomain_sameSupply e _).pwr d).trans (s.domain_setDomain_ne _ h)
  · rfl

theorem State.domain_powerUp_self (s : State) (d : Nat) :
    (s.powerUp d).domain d = if s.mayPower d then ⟨.on, none, false⟩ else s.domain d := by
  unfold State.powerUp
  split
  · exact State.domain_putDomain_self s d _
  · rfl

/-- Among domains that come up, one by one, d is on where it may come up, and as it was where it may not. -/
theorem State.domain_foldl_powerUp (s : State) {ds : List Nat} (hds : ds.Nodup) {d : Nat} (hd : d ∈ ds) :
    (ds.foldl (fun s d => s.powerUp d) s).domain d = if s.mayPower d then ⟨.on, none, false⟩ else s.domain d := by
  obtain ⟨c, ⟨hmay, hdomain⟩, -, hend⟩ := foldl_at (f := fun (s : State) d => s.powerUp d)
    (R := fun a b : State => SameMayPower a b ∧ b.domain d = a.domain d) (fun b => ⟨.refl b, rfl⟩)
    (fun _ _ _ h g => ⟨h.1.trans g.1, g.2.trans h.2⟩) hds hd
    (fun b e _ hne => ⟨b.powerUp_sameMayPower e, b.domain_powerUp_ne hne⟩) s
  rw [hend, State.domain_powerUp_self, hmay.mayPower, hdomain]

/-! ### Step 3 (R376, R402, R419) -/

/-- Fields that cannot come up whole. -/
def State.deadFields (s : State) : List Nat := (List.range 96).filter (fun f => (fieldDomains f).any (fun d => !s.mayPower d))

/-- Those fields left out of service. -/
def State.leaveDead (s : State) : State :=
  { s with up := { s.up with
    failed := (s.up.failed ++ s.deadFields.flatMap fieldDomains).dedup
    outParts := (s.up.outParts ++ s.deadFields.map (· / 3)).dedup } }

/-- A regulator with all its phases. -/
def State.fullPhases (s : State) (f : Nat) : State := (s.setFld .fldPwrRail f 0 23 20 14).setFld .fldPwrRail f 0 25 24 2

theorem State.foldl_fullPhases_pwr (fs : List Nat) (s : State) : (fs.foldl (fun s f => s.fullPhases f) s).pwr = s.pwr :=
  List.foldlRecOn (motive := fun t : State => t.pwr = s.pwr) fs _ rfl fun _ ht _ _ => ht

theorem State.stage3_eq (s : State) : s.stage3 =
    (List.range 96).foldl (fun s f => s.fullPhases f) ((List.range 1248).foldl (fun s d => s.powerUp d) s.leaveDead) := rfl

theorem State.domain_stage3 (s : State) {d : Nat} (hd : d < 1248) :
    s.stage3.domain d = if s.leaveDead.mayPower d then ⟨.on, none, false⟩ else s.domain d := by
  rw [State.stage3_eq, State.domain_congr (State.foldl_fullPhases_pwr ..),
    State.domain_foldl_powerUp _ List.nodup_range (List.mem_range.2 hd)]
  rfl

theorem State.leaveDead_mayPower (s : State) (d : Nat) : s.leaveDead.mayPower d =
    (s.mayPower d && !(s.deadFields.flatMap fieldDomains).contains d) := by
  have hsafe : s.leaveDead.safetyAllows d = s.safetyAllows d := rfl
  have hfailed : s.leaveDead.up.failed.contains d = (s.up.failed.contains d || (s.deadFields.flatMap fieldDomains).contains d) := by
    have hdedup : s.leaveDead.up.failed = (s.up.failed ++ s.deadFields.flatMap fieldDomains).dedup := rfl
    rw [hdedup, Bool.eq_iff_iff]
    simp
  rw [State.mayPower, State.mayPower, hsafe, hfailed, Bool.not_or]
  exact Bool.and_right_comm _ _ _

theorem fieldDomains_disjoint {f g d : Nat} (hf : f < 96) (hg : g < 96) (hdf : d ∈ fieldDomains f) (hdg : d ∈ fieldDomains g) : f = g := by
  simp only [fieldDomains, List.mem_append, List.mem_map, List.mem_range, List.mem_singleton] at hdf hdg
  obtain ⟨i, hi, rfl⟩ | rfl := hdf <;> obtain ⟨j, hj, hd⟩ | hd := hdg <;> omega

theorem lt_of_mem_fieldDomains {f d : Nat} (hf : f < 96) (hd : d ∈ fieldDomains f) : d < 1248 := by
  simp only [fieldDomains, List.mem_append, List.mem_map, List.mem_range, List.mem_singleton] at hd
  obtain ⟨i, hi, rfl⟩ | rfl := hd <;> omega

/-- A field that may come up whole is ON after step 3. -/
theorem State.domOn_stage3 {f d : Nat} (hf : f < 96) (hwhole : ∀ d ∈ fieldDomains f, s.mayPower d = true) (hd : d ∈ fieldDomains f) :
    s.stage3.domOn d = true := by
  have halive : (s.deadFields.flatMap fieldDomains).contains d = false := by
    rw [List.contains_eq_mem, decide_eq_false_iff_not, List.mem_flatMap]
    rintro ⟨g, hg, hdg⟩
    obtain ⟨hrange, hdead⟩ := List.mem_filter.1 hg
    obtain ⟨e, he, hoff⟩ := List.any_eq_true.1 hdead
    rw [← fieldDomains_disjoint hf (List.mem_range.1 hrange) hd hdg] at he
    simp [hwhole e he] at hoff
  have hmay : s.leaveDead.mayPower d = true := by rw [State.leaveDead_mayPower, hwhole d hd, halive]; rfl
  rw [State.domOn, State.domain_stage3 s (lt_of_mem_fieldDomains hf hd), if_pos hmay]
  rfl

/-- A domain that has failed stays OFF. -/
theorem State.domOn_stage3_of_failed {d : Nat} (hd : d < 1248) (hfailed : s.mayPower d = false) (hoff : (s.domain d).st = .off) :
    s.stage3.domOn d = false := by
  have hmay : s.leaveDead.mayPower d = false := by rw [State.leaveDead_mayPower, hfailed]; rfl
  rw [State.domOn, State.domain_stage3 s hd, if_neg (by rw [hmay]; decide), hoff]
  rfl

theorem State.failDomains_mayPower {ds : List Nat} {d : Nat} (hd : d ∈ ds) (hlt : d < 1292) : (s.failDomains ds).mayPower d = false := by
  have hfailed : d ∈ (s.failDomains ds).up.failed :=
    List.mem_dedup.2 (List.mem_append_right _ (List.mem_filter.2 ⟨hd, decide_eq_true hlt⟩))
  rw [State.mayPower, List.contains_iff_mem.2 hfailed]
  rfl

/-! ### Step 6 (R251) -/

/-- From s to t only the registers of stack j change, of registers. -/
def StackRegs (j : Nat) (s t : State) : Prop := ∀ {q : Reg} {b i : Nat}, Reg.memStkChmap.addr 0 j ≠ q.addr b i →
  Reg.memStkStat.addr 0 j ≠ q.addr b i → Reg.memStkPend.addr 0 j ≠ q.addr b i → t.reg q b i = s.reg q b i

theorem StackRegs.trans {j : Nat} {a b c : State} (h : StackRegs j a b) (g : StackRegs j b c) : StackRegs j a c :=
  fun h1 h2 h3 => (g h1 h2 h3).trans (h h1 h2 h3)

theorem State.publishMap_stackRegs (s : State) (j : Nat) (m : W32) : StackRegs j s (s.publishMap j m) :=
  fun hmap hstat _ => (State.reg_setReg_ne _ _ hstat).trans ((State.reg_setReg_ne _ _ hstat).trans (State.reg_setReg_ne _ _ hmap))

/-- A stack trained, before the repair map is told of it. -/
def State.stackTrained (s : State) (k : Nat) (m back : W32) (wires : SMap Nat) : State :=
  let t := ((s.zeroStack k).publishMap k m).setFld .memStkStat 0 k 8 8 1
  let t := (t.setReg .memStkPend 0 k back).setFld .memStkStat 0 k 6 6 (b2n (back ≠ 0))
  t.modStack k (fun v => { v with wires := wires })

theorem State.trainStack_eq (s : State) (k : Nat) (found : Findings) : ∃ m back wires,
    SameMayPower (s.stackTrained k m back wires) (s.trainStack k found) ∧
    (s.trainStack k found).regs = (s.stackTrained k m back wires).regs := by
  generalize htrain : s.trainStack k found = t
  unfold State.trainStack at htrain
  extract_lets out wires bad back u v w at htrain
  have hw : w = s.stackTrained k (~~~(out ||| bad)) back
    (((List.range 32).filter (fun c => wires c ≠ 0)).map (fun c => (c, wires c))) := rfl
  refine ⟨~~~(out ||| bad), back, ((List.range 32).filter (fun c => wires c ≠ 0)).map (fun c => (c, wires c)), ?_⟩
  rw [← hw, ← htrain]
  split
  · exact ⟨.refl w, rfl⟩
  · exact ⟨⟨rfl, rfl, rfl⟩, rfl⟩

theorem State.stackTrained_sameMayPower (s : State) (k : Nat) (m back : W32) (wires : SMap Nat) :
    SameMayPower s (s.stackTrained k m back wires) := ⟨rfl, rfl, rfl⟩

theorem State.stackTrained_spec (s : State) (k : Nat) (m back : W32) (wires : SMap Nat) :
    StackRegs k s (s.stackTrained k m back wires) ∧ (s.stackTrained k m back wires).flag .memStkStat 0 k 8 = true := by
  unfold State.stackTrained
  extract_lets t u
  have htrained : t.flag .memStkStat 0 k 8 = true := State.flag_setFld _ .memStkStat 0 k 1 8 (by decide) (by decide)
  refine ⟨fun hmap hstat hpend => ?_, ?_⟩
  · refine (State.reg_setReg_ne _ _ hstat).trans ((State.reg_setReg_ne _ _ hpend).trans ((State.reg_setReg_ne _ _ hstat).trans ?_))
    exact State.publishMap_stackRegs (s.zeroStack k) k m hmap hstat hpend
  · have hpend : Reg.memStkPend.addr 0 k ≠ Reg.memStkStat.addr 0 k := by
      simp only [Reg.addr, Reg.info]
      omega
    refine (State.flag_setFld (t.setReg .memStkPend 0 k back) .memStkStat 0 k _ 8 (by decide) (by decide)).trans ?_
    exact (congrArg (fun w => BitVec.getLsbD w 8) (State.reg_setReg_ne t back hpend)).trans htrained

/-- One stack of step 6. -/
def State.raiseStack (found : Findings) (s : State) (k : Nat) : State :=
  let s := s.powerUp (1248 + k)
  if s.domOn (1248 + k) then s.trainStack k found else s.publishMap k 0

theorem State.stage6_eq (s : State) (found : Findings) : s.stage6 found = (List.range 24).foldl (State.raiseStack found) s := rfl

theorem State.raiseStack_spec (found : Findings) (s : State) (k : Nat) : SameMayPower s (s.raiseStack found k) ∧
    StackRegs k s (s.raiseStack found k) ∧
    (s.mayPower (1248 + k) = true → (s.raiseStack found k).flag .memStkStat 0 k 8 = true) := by
  have hmay := s.powerUp_sameMayPower (1248 + k)
  have hregs : (s.powerUp (1248 + k)).regs = s.regs := by
    unfold State.powerUp
    split
    · rw [State.putDomain, if_neg (by omega)]
      rfl
    · rfl
  have hon (h : s.mayPower (1248 + k) = true) : (s.powerUp (1248 + k)).domOn (1248 + k) = true := by
    rw [State.domOn, State.domain_powerUp_self, if_pos h]
    rfl
  have hfrom : StackRegs k s (s.powerUp (1248 + k)) := fun _ _ _ => State.reg_congr hregs ..
  unfold State.raiseStack
  dsimp only
  split
  · obtain ⟨m, back, wires, hpower, hregs'⟩ := (s.powerUp (1248 + k)).trainStack_eq k found
    obtain ⟨hstack, hflag⟩ := (s.powerUp (1248 + k)).stackTrained_spec k m back wires
    have htrained := (State.stackTrained_sameMayPower _ k m back wires).trans hpower
    refine ⟨hmay.trans htrained, hfrom.trans (hstack.trans fun _ _ _ => State.reg_congr hregs' ..), fun _ => ?_⟩
    rw [State.flag_congr hregs', hflag]
  next hoff =>
    exact ⟨hmay.trans ⟨rfl, rfl, rfl⟩, hfrom.trans (State.publishMap_stackRegs _ k 0), fun h => absurd (hon h) hoff⟩

/-- Every stack that may come up is trained after step 6. -/
theorem State.stage6_trains (s : State) (found : Findings) {k : Nat} (hk : k < 24) (hmay : s.mayPower (1248 + k) = true) :
    (s.stage6 found).flag .memStkStat 0 k 8 = true := by
  have helse (b : State) (j : Nat) (_ : j ∈ List.range 24) (hne : j ≠ k) : SameMayPower b (b.raiseStack found j) ∧
      (b.raiseStack found j).flag .memStkStat 0 k 8 = b.flag .memStkStat 0 k 8 := by
    obtain ⟨hpower, hregs, -⟩ := State.raiseStack_spec found b j
    refine ⟨hpower, congrArg (fun w => BitVec.getLsbD w 8) (hregs ?_ ?_ ?_)⟩
    all_goals
      simp only [Reg.addr, Reg.info]
      have := List.mem_range.1 ‹j ∈ List.range 24›
      omega
  obtain ⟨c, ⟨hpower, -⟩, -, hend⟩ := foldl_at (f := State.raiseStack found)
    (R := fun a b : State => SameMayPower a b ∧ b.flag .memStkStat 0 k 8 = a.flag .memStkStat 0 k 8) (fun b => ⟨.refl b, rfl⟩)
    (fun _ _ _ h g => ⟨h.1.trans g.1, g.2.trans h.2⟩) List.nodup_range (List.mem_range.2 hk) helse s
  rw [State.stage6_eq, hend]
  obtain ⟨-, -, htrained⟩ := State.raiseStack_spec found c k
  exact htrained (by rw [hpower.mayPower, hmay])

/-! ### Step 7 (R402, R412) -/

/-- From s to t the boot flash stands, and every register but GLB_CUMIN. -/
structure CuminOnly (s t : State) : Prop where
  flash : t.flash = s.flash
  reg : ∀ {q : Reg} {b i : Nat}, Reg.glbCumin.addr 0 0 ≠ q.addr b i → t.reg q b i = s.reg q b i

theorem CuminOnly.refl (s : State) : CuminOnly s s := ⟨rfl, fun _ => rfl⟩

theorem CuminOnly.trans {a b c : State} (h : CuminOnly a b) (g : CuminOnly b c) : CuminOnly a c :=
  ⟨g.flash.trans h.flash, fun hne => (g.reg hne).trans (h.reg hne)⟩

theorem CuminOnly.ite {p : Prop} [Decidable p] {a b c : State} (h : CuminOnly a b) (g : CuminOnly a c) : CuminOnly a (if p then b else c) := by
  split
  · exact h
  · exact g

theorem State.setCumin_only (s : State) (hi lo v : Nat) : CuminOnly s (s.setFld .glbCumin 0 0 hi lo v) :=
  ⟨rfl, fun hne => State.reg_setReg_ne _ _ hne⟩

/-- The image that step 7 loads. -/
def State.imageLoaded (s : State) (imageA : Bool) (fw : W32) : State :=
  let t := (s.setReg .glbFw 0 0 fw).setFld .glbStart 0 0 6 6 (b2n (!imageA))
  { t with flash := { t.flash with imageA := imageA }, up := { t.up with fwRev := fw } }

/-- Pair 3 in the place of the first pair that is gone, where it is not gone itself. -/
def State.spareServes (s : State) (gone : List Nat) : State :=
  match gone with
  | p :: _ => if s.flag .glbCumin 0 0 7 then s else (s.setFld .glbCumin 0 0 3 3 1).setFld .glbCumin 0 0 9 8 p
  | [] => s

theorem State.spareServes_only (s : State) (gone : List Nat) : CuminOnly s (s.spareServes gone) := by
  cases gone with
  | nil => exact .refl s
  | cons p ps => exact .ite (.refl s) ((s.setCumin_only ..).trans (State.setCumin_only ..))

theorem State.stage7_eq (s : State) (found : Findings) (fw : W32) :
    ∃ u, CuminOnly (s.imageLoaded found.imageA fw) u ∧ s.stage7 found fw = u.showCaps := by
  generalize hstage : s.stage7 found fw = r
  unfold State.stage7 at hstage
  extract_lets t fl up u v gone w x y lost at hstage
  have hv : CuminOnly u v := by
    refine List.foldlRecOn (motive := fun t => CuminOnly u t) _ _ (.refl u) fun t ht p _ => ?_
    refine .ite ht (ht.trans ⟨rfl, fun hne => State.reg_setReg_ne _ _ hne⟩)
  have hw : CuminOnly v w := .ite (v.setCumin_only ..) (.refl v)
  have hx : CuminOnly w x :=
    List.foldlRecOn (motive := fun t => CuminOnly w t) _ _ (.refl w) fun t ht p _ => ht.trans (t.setCumin_only ..)
  have hy : CuminOnly x y := x.spareServes_only gone
  refine ⟨_, ?_, hstage.symm⟩
  exact ((hv.trans hw).trans (hx.trans hy)).trans ⟨rfl, fun _ => rfl⟩

theorem State.stage7_spec (s : State) (found : Findings) (fw : W32) : (s.stage7 found fw).reg .glbFw 0 0 = fw ∧
    (s.stage7 found fw).flash = { s.flash with imageA := found.imageA } ∧
    (s.stage7 found fw).flag .glbStart 0 0 6 = !found.imageA ∧
    (s.stage7 found fw).flag .glbStart 0 0 7 = s.flag .glbStart 0 0 7 := by
  obtain ⟨u, honly, hstage⟩ := s.stage7_eq found fw
  have hstart : u.reg .glbStart 0 0 = (s.imageLoaded found.imageA fw).reg .glbStart 0 0 := honly.reg (by decide)
  have hflag {k : Nat} (hk : k < 5 ∨ 5 < k) : (s.stage7 found fw).flag .glbStart 0 0 k =
      (s.imageLoaded found.imageA fw).flag .glbStart 0 0 k := by
    rw [hstage, State.flag_eq_fld, State.showCaps_start _ (Nat.le_refl k) hk, ← State.flag_eq_fld, State.flag, hstart]
    rfl
  refine ⟨?_, ?_, ?_, ?_⟩
  · rw [hstage, State.showCaps_reg _ (by decide) (by decide) (by decide), honly.reg (by decide)]
    exact (State.reg_setReg_ne _ _ (by decide)).trans (State.reg_setReg_self ..)
  · rw [hstage, State.showCaps_frame]
    exact honly.flash
  · rw [hflag (.inr (by decide))]
    refine (State.flag_setFld (s.setReg .glbFw 0 0 fw) .glbStart 0 0 _ 6 (by decide) (by decide)).trans ?_
    cases found.imageA <;> rfl
  · rw [hflag (.inr (by decide))]
    refine (State.flag_setFld (s.setReg .glbFw 0 0 fw) .glbStart 0 0 _ 7 (by decide) (by decide)).trans ?_
    exact congrArg (fun w => BitVec.getLsbD w 7) (State.reg_setReg_ne s fw (by decide))

end

end Sys2Proof.Machine
end


section
/-! SUPPORT. Pairs that stop or are retired, and the takeover by service block B (R296, R412, R413). -/
namespace Sys2Proof.Machine

section
variable {s : State}

/-! ### A pair's work ends (R412, R430) -/

/-- From s to t the boot flash stands, GLB_START but its DEGRADED bit, and the pairs that are restarting, but by what is
said of them apart. -/
structure PairWork (s t : State) : Prop where
  flash : t.flash = s.flash
  start : ∀ {hi lo : Nat}, lo ≤ hi → hi < 5 ∨ 5 < lo → t.fld .glbStart 0 0 hi lo = s.fld .glbStart 0 0 hi lo

theorem PairWork.refl (s : State) : PairWork s s := ⟨rfl, fun _ _ => rfl⟩

theorem PairWork.trans {a b c : State} (h : PairWork a b) (g : PairWork b c) : PairWork a c :=
  ⟨g.flash.trans h.flash, fun l hapart => (g.start l hapart).trans (h.start l hapart)⟩

theorem PairWork.flag {s t : State} (h : PairWork s t) {k : Nat} (hk : k ≠ 5) : t.flag .glbStart 0 0 k = s.flag .glbStart 0 0 k := by
  rw [State.flag_eq_fld, h.start (Nat.le_refl k) (by omega), ← State.flag_eq_fld]

theorem OffWork.pairWork {s t : State} (h : OffWork s t) : PairWork s t :=
  ⟨h.flash, fun {hi lo} _ _ => congrArg (fun w => regField w hi lo) (h.low (q := .glbStart) (i := 0) (by decide))⟩

theorem CuminOnly.pairWork {s t : State} (h : CuminOnly s t) : PairWork s t :=
  ⟨h.flash, fun {hi lo} _ _ => congrArg (fun w => regField w hi lo) (h.reg (q := .glbStart) (b := 0) (i := 0) (by decide))⟩

theorem State.showCaps_pairWork (s : State) : PairWork s s.showCaps :=
  ⟨by rw [State.showCaps_frame], fun l hapart => s.showCaps_start l hapart⟩

theorem State.pairStops_offWork (s : State) (pair cause code seq : Nat) : OffWork s (s.pairStops pair cause code seq) := by
  have hmark : OffWork s (s.markPair pair code seq) := .of_eq rfl rfl
  have hgates := (s.markPair pair code seq).closeGates_offWork (s.servedParts pair) cause
  have hrestart : OffWork ((s.markPair pair code seq).closeGates (s.servedParts pair) cause) (s.pairStops pair cause code seq) :=
    .of_eq rfl rfl
  exact (hmark.trans hgates).trans hrestart

theorem State.pairStops_restarting (s : State) (pair cause code seq : Nat) :
    (s.pairStops pair cause code seq).up.restarting = (s.up.restarting ++ [pair]).dedup := by
  have hup : ((s.markPair pair code seq).closeGates (s.servedParts pair) cause).up = s.up :=
    ((s.markPair pair code seq).closeGates_sameSupply (s.servedParts pair) cause).up
  exact congrArg (fun u : Startup => (u.restarting ++ [pair]).dedup) hup

theorem State.mem_servedParts {pair p : Nat} (h : p ∈ s.servedParts pair) : p < 32 := by
  obtain ⟨l, -, hp⟩ := List.mem_flatMap.1 h
  exact List.mem_range.1 (List.mem_filter.1 hp).1

/-- The gates of what a pair serves close with it. -/
theorem State.pairStops_gates (s : State) (pair cause code seq : Nat) {p : Nat} (hp : p ∈ s.servedParts pair) :
    (s.pairStops pair cause code seq).gated p = true :=
  State.gated_closeGates (s := s.markPair pair code seq) cause p (fun _ hq => State.mem_servedParts hq) (.inl hp)

theorem State.pairStops_nextSeq (s : State) (pair cause code seq : Nat) :
    (s.pairStops pair cause code seq).err.nextSeq = s.err.nextSeq :=
  List.foldlRecOn (motive := fun t : State => t.err.nextSeq = s.err.nextSeq) (s.servedParts pair) _ rfl fun _ ht _ _ => ht

/-! ### A pair is retired (R412) -/

/-- One request ends with the pair that served it. -/
theorem State.abortReq_pairWork (s : State) (q : Request) (cause : Nat × Nat × Nat × Nat) :
    OffWork s (s.abortReq q cause) ∧ (s.abortReq q cause).up = s.up := by
  have hmod : OffWork s (s.modReq q.id (fun r => if r.void.isSome then r else { r with void := some cause })) :=
    State.modReq_offWork ..
  exact ⟨hmod.trans (State.endRequest_offWork ..), (State.endRequest_sameSupply _ q.id .voided).up⟩

/-- What a group's loss of service ends. -/
def State.groupEnds (code seq : Nat) (s : State) (l : Nat) : State :=
  let s := s.stopWork l false
  let s : State := { s with err := { s.err with aborts := s.err.aborts.filter (fun a => a.group ≠ l) } }
  (s.srv.reqs.filter (fun q => q.group == l)).foldl (fun s q => s.abortReq q (code, 4, 255, seq)) s

theorem State.groupEnds_spec (code seq : Nat) (s : State) (l : Nat) :
    OffWork s (s.groupEnds code seq l) ∧ (s.groupEnds code seq l).up = s.up := by
  unfold State.groupEnds
  extract_lets t e u
  have hstop : OffWork s u := (s.stopWork_offWork l false).trans (.of_eq rfl rfl)
  have hup : u.up = s.up := (s.stopWork_sameSupply l false).up
  refine List.foldlRecOn (motive := fun v : State => OffWork s v ∧ v.up = s.up) _ _ ⟨hstop, hup⟩ fun v hv q _ => ?_
  obtain ⟨hwork, hsame⟩ := v.abortReq_pairWork q (code, 4, 255, seq)
  exact ⟨hv.1.trans hwork, hsame.trans hv.2⟩

theorem State.serviceEnds_spec (s : State) (pair code seq : Nat) : ∃ v outs, OffWork s v ∧ v.up = { s.up with outParts := outs } ∧
    s.serviceEnds pair code seq = v.showCaps := by
  refine ⟨(s.served pair).foldl (State.groupEnds code seq)
    { s with up := { s.up with outParts := (s.up.outParts ++ s.servedParts pair).dedup } },
    (s.up.outParts ++ s.servedParts pair).dedup, ?_, ?_, rfl⟩
  · refine List.foldlRecOn (motive := fun v : State => OffWork s v) _ _ (.of_eq rfl rfl) fun v hv l _ => ?_
    exact hv.trans (v.groupEnds_spec code seq l).1
  · refine List.foldlRecOn (motive := fun v : State => v.up = _) _ _ rfl fun v hv l _ => ?_
    exact (v.groupEnds_spec code seq l).2.trans hv

/-- A pair written down as retired. -/
def State.markRetired (s : State) (pair : Nat) : State :=
  let s := (s.setFld .glbCumin 0 0 pair pair 0).setFld .glbCumin 0 0 (4 + pair) (4 + pair) 1
  { s with up := { s.up with mapDirty := true, restarting := s.up.restarting.filter (· ≠ pair) } }

theorem State.markRetired_spec (s : State) {pair : Nat} (hpair : pair < 4) : CuminOnly s (s.markRetired pair) ∧
    (s.markRetired pair).flag .glbCumin 0 0 (4 + pair) = true ∧ (s.markRetired pair).flag .glbCumin 0 0 pair = false ∧
    pair ∉ (s.markRetired pair).up.restarting := by
  have honly := (s.setCumin_only pair pair 0).trans ((s.setFld .glbCumin 0 0 pair pair 0).setCumin_only (4 + pair) (4 + pair) 1)
  refine ⟨⟨honly.flash, honly.reg⟩, ?_, ?_, fun h => ?_⟩
  · refine (State.flag_setFld (s.setFld .glbCumin 0 0 pair pair 0) .glbCumin 0 0 1 (4 + pair) (by omega) (Nat.le_refl _)).trans ?_
    rw [if_pos ⟨Nat.le_refl _, Nat.le_refl _⟩, Nat.sub_self]
    rfl
  · refine (State.flag_setFld (s.setFld .glbCumin 0 0 pair pair 0) .glbCumin 0 0 1 pair (by omega) (Nat.le_refl _)).trans ?_
    rw [if_neg (by omega)]
    refine (State.flag_setFld s .glbCumin 0 0 0 pair (by omega) (Nat.le_refl _)).trans ?_
    rw [if_pos ⟨Nat.le_refl _, Nat.le_refl _⟩]
    exact Nat.zero_testBit _
  · simpa using (List.mem_filter.1 h).2

/-- The spare pair takes the place of one that is gone. -/
def State.spareTakes (s : State) (pair cause code seq : Nat) : State :=
  ((s.setFld .glbCumin 0 0 3 3 1).setFld .glbCumin 0 0 9 8 pair).pairStops 3 cause code seq

theorem State.retirePair_eq (s : State) (pair cause code seq : Nat) : s.retirePair pair cause code seq =
    if s.spare && pair ≠ 3 then (s.markRetired pair).spareTakes pair cause code seq
    else (s.serviceEnds pair code seq).markRetired pair := by
  unfold State.retirePair
  extract_lets spare t u up v
  cases hspare : spare with
  | true =>
    have ht : t = s := if_pos hspare
    have hv : v = s.markRetired pair := by unfold v up u; rw [ht]; rfl
    rw [if_pos rfl, if_pos hspare, hv]
    rfl
  | false =>
    have hnot : ¬ (s.spare && decide (pair ≠ 3)) = true := Bool.not_eq_true _ ▸ hspare
    have ht : t = s.serviceEnds pair code seq := if_neg hnot
    have hv : v = (s.serviceEnds pair code seq).markRetired pair := by unfold v up u; rw [ht]; rfl
    rw [if_neg (by decide), if_neg hnot, hv]

theorem State.spareTakes_work (s : State) (pair cause code seq : Nat) : PairWork s (s.spareTakes pair cause code seq) :=
  ((s.setCumin_only 3 3 1).pairWork.trans (State.setCumin_only _ 9 8 pair).pairWork).trans (State.pairStops_offWork ..).pairWork

/-- What a retired pair leaves. -/
theorem State.retirePair_work (s : State) {pair : Nat} (hpair : pair < 4) (cause code seq : Nat) :
    PairWork s (s.retirePair pair cause code seq) := by
  rw [State.retirePair_eq]
  split
  · exact (s.markRetired_spec hpair).1.pairWork.trans (State.spareTakes_work ..)
  · obtain ⟨v, outs, hwork, -, hends⟩ := s.serviceEnds_spec pair code seq
    rw [hends]
    exact (hwork.pairWork.trans v.showCaps_pairWork).trans (v.showCaps.markRetired_spec hpair).1.pairWork

/-- A retired pair is written down, serves no more and does not restart. -/
theorem State.retirePair_retires (s : State) {pair : Nat} (hpair : pair < 4) (cause code seq : Nat) :
    (s.retirePair pair cause code seq).flag .glbCumin 0 0 (4 + pair) = true ∧
    (s.retirePair pair cause code seq).flag .glbCumin 0 0 pair = false ∧
    pair ∉ (s.retirePair pair cause code seq).up.restarting := by
  rw [State.retirePair_eq]
  split
  next hspare =>
    obtain ⟨-, hgone, hserves, hrestarts⟩ := s.markRetired_spec hpair
    have hother : pair ≠ 3 := by simpa using (Bool.and_eq_true_iff.1 hspare).2
    generalize s.markRetired pair = t at *
    have hflag (n : Nat) (h3 : n ≠ 3) (h8 : n < 8) : (t.spareTakes pair cause code seq).flag .glbCumin 0 0 n = t.flag .glbCumin 0 0 n := by
      unfold State.spareTakes
      refine (congrArg (fun w => BitVec.getLsbD w n) ((State.pairStops_offWork _ 3 cause code seq).low (q := .glbCumin) (i := 0) (by decide))).trans ?_
      refine (State.flag_setFld (t.setFld .glbCumin 0 0 3 3 1) .glbCumin 0 0 pair n (by decide) (by decide)).trans ?_
      rw [if_neg (by omega)]
      refine (State.flag_setFld t .glbCumin 0 0 1 n (by decide) (by decide)).trans ?_
      rw [if_neg (by omega)]
    refine ⟨(hflag _ (by omega) (by omega)).trans hgone, (hflag _ hother (by omega)).trans hserves, fun h => ?_⟩
    rw [State.spareTakes, State.pairStops_restarting, List.mem_dedup, List.mem_append, List.mem_singleton] at h
    exact h.elim hrestarts hother
  · exact ((s.serviceEnds pair code seq).markRetired_spec hpair).2

/-! ### Service block B takes over (R413) -/

/-- Block B active, before the pairs of block A are retired. -/
def State.blockB (s : State) : State :=
  let s := s.log .blockTakeover 255 0 0 0 0
  let s := (((s.setFld .glbStart 0 0 7 7 1).putDomain 1288 Domain.off).setFld .mgtMon 0 0 3 0 0).setFld .mgtMon 0 0 4 4 0
  { s with
    flash := { s.flash with blockARetired := true }
    mgmt := { s.mgmt with challenge := none, last := none, baudNew := false }
    up := { s.up with mapDirty := true } }

/-- A pair of block A goes with it. -/
def State.losePair (seq : Nat) (s : State) (p : Nat) : State :=
  if s.flag .glbCumin 0 0 p then (s.pairStops p 1 Code.blockTakeover.val seq).retirePair p 1 Code.blockTakeover.val seq else s

theorem State.takeover_eq (hactive : s.flag .glbStart 0 0 7 = false) (hretired : s.flash.blockBRetired = false) :
    s.takeover = [0, 1].foldl (State.losePair s.err.nextSeq) s.blockB :=
  if_neg (by simp [hactive, hretired])

theorem State.blockB_spec (s : State) : s.blockB.flag .glbStart 0 0 7 = true ∧ s.blockB.domain 1288 = Domain.off ∧
    s.blockB.flash = { s.flash with blockARetired := true } ∧ s.blockB.unlocked = false ∧
    s.blockB.err.nextSeq = s.err.nextSeq + 1 := by
  have hflash : (s.log .blockTakeover 255 0 0 0 0).flash = s.flash := (s.log_offWork .blockTakeover 255 0 0 0 0).flash
  have hseq := s.log_nextSeq .blockTakeover 255 0 0 0 0
  unfold State.blockB
  extract_lets t u fl mg up
  have hstart : (t.setFld .glbStart 0 0 7 7 1).flag .glbStart 0 0 7 = true := State.flag_setFld t .glbStart 0 0 1 7 (by decide) (by decide)
  have hput := (t.setFld .glbStart 0 0 7 7 1).domain_putDomain_self 1288 Domain.off
  have hpurge : ((t.setFld .glbStart 0 0 7 7 1).putDomain 1288 Domain.off).regs = (t.setFld .glbStart 0 0 7 7 1).regs := by
    rw [State.putDomain, if_neg (by decide)]
    rfl
  have hrest : ((t.setFld .glbStart 0 0 7 7 1).putDomain 1288 Domain.off).flash = t.flash ∧
      ((t.setFld .glbStart 0 0 7 7 1).putDomain 1288 Domain.off).err = t.err := by
    rw [State.putDomain_frame]
    exact ⟨rfl, rfl⟩
  have hflag (x : State) (a b : Nat) : ((x.setFld .mgtMon 0 0 3 0 a).setFld .mgtMon 0 0 4 4 b).flag .glbStart 0 0 7 = x.flag .glbStart 0 0 7 :=
    (State.flag_setFld_ne _ _ _ _ _ (by decide)).trans (State.flag_setFld_ne _ _ _ _ _ (by decide))
  have hlock (x : State) (a : Nat) : ((x.setFld .mgtMon 0 0 3 0 a).setFld .mgtMon 0 0 4 4 0).flag .mgtMon 0 0 4 = false :=
    State.flag_setFld (x.setFld .mgtMon 0 0 3 0 a) .mgtMon 0 0 0 4 (by decide) (by decide)
  refine ⟨?_, hput, ?_, hlock _ 0, ?_⟩
  · exact (hflag _ 0 0).trans ((State.flag_congr hpurge ..).trans hstart)
  · exact congrArg (fun f : Flash => { f with blockARetired := true }) (hrest.1.trans hflash)
  · exact (congrArg Err.nextSeq hrest.2).trans hseq

theorem State.losePair_work (seq : Nat) (s : State) {p : Nat} (hp : p < 4) : PairWork s (s.losePair seq p) := by
  unfold State.losePair
  split
  · exact (State.pairStops_offWork ..).pairWork.trans (State.retirePair_work _ hp ..)
  · exact .refl s

/-- After a takeover block B is active, and block A is written down as retired. -/
theorem State.takeover_spec (hactive : s.flag .glbStart 0 0 7 = false) (hretired : s.flash.blockBRetired = false) :
    s.takeover.flag .glbStart 0 0 7 = true ∧ s.takeover.flash.blockARetired = true := by
  have hwork : PairWork s.blockB s.takeover := by
    rw [State.takeover_eq hactive hretired]
    refine List.foldlRecOn (motive := fun t => PairWork s.blockB t) _ _ (.refl _) fun t ht p hp => ?_
    refine ht.trans (t.losePair_work _ ?_)
    simp only [List.mem_cons, List.not_mem_nil, or_false] at hp
    omega
  obtain ⟨hflag, -, hflash, -, -⟩ := s.blockB_spec
  exact ⟨(hwork.flag (by decide)).trans hflag, by rw [hwork.flash, hflash]⟩

/-! ### What a module reset keeps of the boot flash (R408, R413) -/

theorem State.moduleReset_flash (s : State) (cause : Nat) : ∃ n, (s.moduleReset cause).flash = { s.flash with startups := n } := by
  have hgates := s.closeGates_offWork (List.range 32) 3
  have htrailers (t : State) (qs : List Request) : OffWork t (qs.foldl (fun s q => s.endStreams q Status.voided.val) t) :=
    .foldl fun _ _ => State.endStreams_offWork ..
  have hsent := hgates.trans (htrailers _ ((s.closeGates (List.range 32) 3).srv.reqs.filter (fun q => q.classIdx.isSome && q.endsBy false)))
  generalize hreset : s.moduleReset cause = r
  unfold State.moduleReset at hreset
  extract_lets s1 s2 smb r0 h n p e u m t0 t at hreset
  have ht : t.flash = s.flash := hsent.flash
  have hclosed : (t.closeGates (List.range 32) 3).recap.flash = s.flash := (State.closeGates_offWork ..).flash.trans ht
  rw [← hreset, ← hclosed]
  generalize (t.closeGates (List.range 32) 3).recap = v
  unfold State.beginStartup
  split
  · exact ⟨_, rfl⟩
  · exact ⟨v.flash.startups, rfl⟩

end

end Sys2Proof.Machine
end


section
/-! SUPPORT. The stages of start-up, from each to the next (R402, R403, R413, R441). -/
namespace Sys2Proof.Machine

section
variable {s : State} {n : Nat}

/-- What the condition of each stage begins. -/
theorem execStageDone_at (s : State) (found : Findings) (fw : W32) :
    (s.fld .glbStart 0 0 3 0 = 1 → exec (.startupStageDone found fw) s = .next s.beginStartup) ∧
    (s.fld .glbStart 0 0 3 0 = 2 → exec (.startupStageDone found fw) s = .next (s.stage2.nextStep 3)) ∧
    (s.fld .glbStart 0 0 3 0 = 3 → exec (.startupStageDone found fw) s = .next (s.stage3.nextStep 4)) ∧
    (s.fld .glbStart 0 0 3 0 = 4 → exec (.startupStageDone found fw) s = .next ((s.stage4 false).nextStep 5)) ∧
    (s.fld .glbStart 0 0 3 0 = 5 → exec (.startupStageDone found fw) s = .next ((s.stage5 found).nextStep 6)) ∧
    (s.fld .glbStart 0 0 3 0 = 6 → exec (.startupStageDone found fw) s = .next ((s.stage6 found).nextStep 7)) ∧
    (s.fld .glbStart 0 0 3 0 = 7 → exec (.startupStageDone found fw) s =
      .next (if s.noBlock then s else (s.stage7 found fw).nextStep 8)) ∧
    (s.fld .glbStart 0 0 3 0 = 8 → exec (.startupStageDone found fw) s = .next (s.nextStep 9)) ∧
    (s.fld .glbStart 0 0 3 0 = 9 → exec (.startupStageDone found fw) s = .next (if s.addressed then s.nextStep 10 else s)) ∧
    (s.fld .glbStart 0 0 3 0 = 10 → exec (.startupStageDone found fw) s =
      .next (if s.claimState = 1 ∨ s.claimState = 2 then s else s.nextStep 11)) := by
  have hexec : exec (.startupStageDone found fw) s = execStartupStageDone found fw s := rfl
  rw [hexec]
  unfold execStartupStageDone
  split <;> simp_all

/-- What each stage goes on to at its limit. -/
theorem execStageLimit_at (s : State) (ds : List Nat) (found : Findings) (fw : W32) :
    (s.fld .glbStart 0 0 3 0 = 2 → exec (.startupStageLimit ⟨ds, found, fw⟩) s =
      .next ((ds.foldl (fun s d => s.log .regFail 255 d 0 0 0) (s.failDomains ds).stage2).nextStep 3)) ∧
    (s.fld .glbStart 0 0 3 0 = 3 → exec (.startupStageLimit ⟨ds, found, fw⟩) s = .next ((s.failDomains ds).stage3.nextStep 4)) ∧
    (s.fld .glbStart 0 0 3 0 = 4 → exec (.startupStageLimit ⟨ds, found, fw⟩) s = .next ((s.stage4 true).nextStep 5)) ∧
    (s.fld .glbStart 0 0 3 0 = 5 → exec (.startupStageLimit ⟨ds, found, fw⟩) s = .next ((s.stage5 found).nextStep 6)) ∧
    (s.fld .glbStart 0 0 3 0 = 6 → exec (.startupStageLimit ⟨ds, found, fw⟩) s =
      .next (((s.failDomains ds).stage6 found).nextStep 7)) ∧
    (s.fld .glbStart 0 0 3 0 = 7 → exec (.startupStageLimit ⟨ds, found, fw⟩) s = .next (s.bootBlocks ds found fw)) ∧
    (s.fld .glbStart 0 0 3 0 = 8 → exec (.startupStageLimit ⟨ds, found, fw⟩) s = .next (s.nextStep 9)) ∧
    (s.fld .glbStart 0 0 3 0 = 9 → exec (.startupStageLimit ⟨ds, found, fw⟩) s = .next (s.nextStep 10)) ∧
    (s.fld .glbStart 0 0 3 0 = 10 → exec (.startupStageLimit ⟨ds, found, fw⟩) s = .next (s.nextStep 11)) := by
  have hexec : exec (.startupStageLimit ⟨ds, found, fw⟩) s = execStartupStageLimit ⟨ds, found, fw⟩ s := rfl
  rw [hexec]
  unfold execStartupStageLimit
  split <;> simp_all

/-- Without a failed service block step 7 goes on (R413). -/
theorem bootBlocks_runs {ds : List Nat} (found : Findings) (fw : W32) (hruns : s.noBlock = false) (hA : 1288 ∉ ds) (hB : 1289 ∉ ds) :
    s.bootBlocks ds found fw = (s.stage7 found fw).nextStep 8 := by
  unfold State.bootBlocks
  extract_lets fl t
  have ht : t = s := if_neg (by simpa using hB)
  rw [ht, if_neg (by rw [hruns]; decide), if_neg (by simp [hA])]

/-- Below step 8 a stage's end is its work, and the next step. -/
theorem execStageDone_low (found : Findings) (fw : W32) (hn : s.fld .glbStart 0 0 3 0 = n) (hlow : 2 ≤ n) (hhigh : n ≤ 7)
    (hblock : n = 7 → s.noBlock = false) : ∃ u, exec (.startupStageDone found fw) s = .next (u.nextStep (n + 1)) ∧
      (n = 3 → u = s.stage3) ∧ (n = 6 → u = s.stage6 found) ∧ (n = 7 → u = s.stage7 found fw) := by
  obtain ⟨-, h2, h3, h4, h5, h6, h7, -⟩ := execStageDone_at s found fw
  rw [hn] at h2 h3 h4 h5 h6 h7
  have hcases : n = 2 ∨ n = 3 ∨ n = 4 ∨ n = 5 ∨ n = 6 ∨ n = 7 := by omega
  obtain rfl | rfl | rfl | rfl | rfl | rfl := hcases
  · exact ⟨_, h2 rfl, nofun, nofun, nofun⟩
  · exact ⟨_, h3 rfl, fun _ => rfl, nofun, nofun⟩
  · exact ⟨_, h4 rfl, nofun, nofun, nofun⟩
  · exact ⟨_, h5 rfl, nofun, nofun, nofun⟩
  · exact ⟨_, h6 rfl, nofun, fun _ => rfl, nofun⟩
  · refine ⟨s.stage7 found fw, ?_, nofun, nofun, fun _ => rfl⟩
    rw [h7 rfl, if_neg (by rw [hblock rfl]; decide)]

/-- At its limit a stage goes on without what failed. -/
theorem execStageLimit_low (ds : List Nat) (found : Findings) (fw : W32) (hn : s.fld .glbStart 0 0 3 0 = n) (hlow : 2 ≤ n) (hhigh : n ≤ 7)
    (hblock : n = 7 → s.noBlock = false ∧ 1288 ∉ ds ∧ 1289 ∉ ds) :
    ∃ u, exec (.startupStageLimit ⟨ds, found, fw⟩) s = .next (u.nextStep (n + 1)) ∧ (n = 3 → u = (s.failDomains ds).stage3) := by
  obtain ⟨h2, h3, h4, h5, h6, h7, -⟩ := execStageLimit_at s ds found fw
  rw [hn] at h2 h3 h4 h5 h6 h7
  have hcases : n = 2 ∨ n = 3 ∨ n = 4 ∨ n = 5 ∨ n = 6 ∨ n = 7 := by omega
  obtain rfl | rfl | rfl | rfl | rfl | rfl := hcases
  · exact ⟨_, h2 rfl, nofun⟩
  · exact ⟨_, h3 rfl, fun _ => rfl⟩
  · exact ⟨_, h4 rfl, nofun⟩
  · exact ⟨_, h5 rfl, nofun⟩
  · exact ⟨_, h6 rfl, nofun⟩
  · obtain ⟨hruns, hA, hB⟩ := hblock rfl
    exact ⟨s.stage7 found fw, by rw [h7 rfl, bootBlocks_runs found fw hruns hA hB], nofun⟩

/-- Block A fails its self-test: block B takes over (R413). -/
theorem bootBlocks_takeover {ds : List Nat} (found : Findings) (fw : W32) (hactive : s.flag .glbStart 0 0 7 = false)
    (hA : 1288 ∈ ds) (hB : 1289 ∉ ds) (hretired : s.flash.blockBRetired = false) :
    s.bootBlocks ds found fw = (s.takeover.stage7 found fw).nextStep 8 := by
  have hruns : s.noBlock = false := by rw [State.noBlock, hactive]; rfl
  unfold State.bootBlocks
  extract_lets fl t
  have ht : t = s := if_neg (by simpa using hB)
  rw [ht, if_neg (by rw [hruns]; decide), if_pos (by simp [hA, hactive]), if_neg (by rw [hretired]; decide)]

/-- Block B written down as retired. -/
def State.noBlockB (s : State) : State := { s with flash := { s.flash with blockBRetired := true } }

/-- Both blocks written down as retired. -/
def State.noBlocks (s : State) : State :=
  { s.noBlockB with flash := { s.noBlockB.flash with blockARetired := true }, up := { s.noBlockB.up with mapDirty := true } }

/-- Both blocks fail: the module resets (R413). -/
theorem bootBlocks_resets {ds : List Nat} (found : Findings) (fw : W32) (hactive : s.flag .glbStart 0 0 7 = false)
    (hA : 1288 ∈ ds) (hB : 1289 ∈ ds) : s.bootBlocks ds found fw = s.noBlocks.moduleReset 3 := by
  have hflag : s.noBlockB.flag .glbStart 0 0 7 = false := hactive
  have hruns : s.noBlockB.noBlock = false := by rw [State.noBlock, hflag]; rfl
  unfold State.bootBlocks
  extract_lets fl t fl' up
  have ht : t = s.noBlockB := if_pos (by simpa using hB)
  unfold fl' up
  rw [ht, if_neg (by rw [hruns]; decide), if_pos (by simp [hA, hflag])]
  exact if_pos rfl

theorem State.nextStep_shows (u : State) (h : n < 8) : (u.nextStep (n + 1)).fld .glbStart 0 0 3 0 = n + 1 := by
  rw [State.nextStep_low u (by omega), State.stepShown_step u (by omega)]

theorem State.nextStep_domOn (u : State) (h : n < 8) (d : Nat) : (u.nextStep (n + 1)).domOn d = u.domOn d := by
  rw [State.nextStep_low u (by omega), State.stepShown_frame]
  rfl

theorem Reg.addr_stkStat_high (k : Nat) : 0x20000 ≤ Reg.memStkStat.addr 0 k := by
  simp only [Reg.addr, Reg.info]
  omega

theorem State.nextStep_trained (u : State) (h : n < 8) (k : Nat) :
    (u.nextStep (n + 1)).flag .memStkStat 0 k 8 = u.flag .memStkStat 0 k 8 := by
  have hhigh := Reg.addr_stkStat_high k
  rw [State.nextStep_low u (by omega)]
  refine congrArg (fun w => BitVec.getLsbD w 8) (u.stepShown_reg _ ?_ ?_ ?_)
  · exact (Nat.lt_of_lt_of_le (by decide) hhigh).ne
  · exact (Nat.lt_of_lt_of_le (by decide) hhigh).ne
  · exact (Nat.lt_of_lt_of_le (by decide) hhigh).ne

/-- After step 10 the module is Ready. -/
theorem State.nextStep_11 (s : State) : ∃ u : State, s.nextStep 11 = (List.range 32).foldl (fun s p => s.reopen p) u ∧ u.ready = true ∧
    u.fld .glbStart 0 0 3 0 = 11 ∧ u.up.readyAt = s.up.time ∧ u.err.recent = [] ∧ u.cloves = s.cloves ∧ u.hbm = s.hbm := by
  have hnext : s.nextStep 11 = (s.stepShown 11).becomeReady := by
    rw [State.nextStep_eq s fun h => absurd h (by decide), if_neg (by decide), if_neg (by decide), if_pos rfl]
  obtain ⟨hready, hstep, htime, hrecent, hcloves, hhbm⟩ := (s.stepShown 11).readied_spec
  have hframe := s.stepShown_frame 11
  have hup : (s.stepShown 11).up = s.up := by rw [hframe]
  have hcloves' : (s.stepShown 11).cloves = s.cloves := by rw [hframe]
  have hhbm' : (s.stepShown 11).hbm = s.hbm := by rw [hframe]
  refine ⟨(s.stepShown 11).readied, by rw [hnext, State.becomeReady_eq], hready, ?_, ?_, hrecent, hcloves.trans hcloves', hhbm.trans hhbm'⟩
  · rw [hstep, s.stepShown_step (by decide)]
  · rw [htime, hup]

end

end Sys2Proof.Machine

open Sys2Proof Sys2Proof.Machine

/-- Settles O50, one stage of start-up at a time. -/
theorem startupStages : Obligations.StartupStages := by
  unfold Obligations.StartupStages
  intro s n hn
  have hn' := hn.symm
  refine ⟨fun found fw h1 hgood hhigh => ?_, fun found fw hlow hhigh hblock => ?_, fun found fw h8 => ?_,
    fun found fw h9 => ⟨fun hnone => ?_, fun haddr => ?_⟩, fun c hc h10 => ?_, fun ds found fw hlow hhigh hblock => ?_,
    fun ds found fw h7 hactive hA => ⟨fun hB hretired => ?_, fun hB => ?_⟩, fun ds found fw h89 => ?_⟩
  · obtain ⟨hstep, hup, hcount⟩ := State.beginStartup_of_supply hgood hhigh
    obtain ⟨hone, -⟩ := execStageDone_at s found fw
    exact ⟨s.beginStartup, hone (hn'.trans h1), hstep, by rw [hup], hcount⟩
  · obtain ⟨u, hexec, hthree, hsix, hseven⟩ := execStageDone_low found fw hn' hlow hhigh hblock
    refine ⟨_, hexec, u.nextStep_shows (by omega), fun h3 f hf hwhole d hd => ?_, fun h6 k hk hmay => ?_, fun h7 => ?_⟩
    · rw [State.nextStep_domOn u (by omega), hthree h3]
      exact State.domOn_stage3 hf hwhole hd
    · rw [State.nextStep_trained u (by omega), hsix h6]
      exact s.stage6_trains found hk hmay
    · obtain ⟨hfw, hflash, hflag, -⟩ := s.stage7_spec found fw
      rw [State.nextStep_low u (by omega), hseven h7]
      refine ⟨?_, ?_, ?_⟩
      · rw [State.stepShown_reg _ _ (by decide) (by decide) (by decide), hfw]
      · rw [State.stepShown_frame]
        exact congrArg Flash.imageA hflash
      · rw [State.stepShown_flag _ _ (.inr (.inl rfl)), hflag]
  · obtain ⟨-, -, -, -, -, -, -, height, -⟩ := execStageDone_at s found fw
    exact ⟨s.nextStep 9, height (hn'.trans h8), s.nextStep_9⟩
  · obtain ⟨-, -, -, -, -, -, -, -, hnine, -⟩ := execStageDone_at s found fw
    rw [hnine (hn'.trans h9), if_neg (by rw [hnone]; decide)]
  · obtain ⟨-, -, -, -, -, -, -, -, hnine, -⟩ := execStageDone_at s found fw
    exact ⟨s.nextStep 10, by rw [hnine (hn'.trans h9), if_pos haddr], s.nextStep_10⟩
  · obtain ⟨u, hready⟩ := s.nextStep_11
    have hexec : exec c s = .next (s.nextStep 11) := by
      obtain ⟨found, fw, rfl, hclaims, hbackoff⟩ | ⟨ds, found, fw, rfl⟩ := hc
      · obtain ⟨-, -, -, -, -, -, -, -, -, hten⟩ := execStageDone_at s found fw
        rw [hten (hn'.trans h10), if_neg (not_or_intro hclaims hbackoff)]
      · obtain ⟨-, -, -, -, -, -, -, -, hten⟩ := execStageLimit_at s ds found fw
        exact hten (hn'.trans h10)
    rw [hexec]
    obtain ⟨hnext, hrest⟩ := hready
    exact ⟨u, by rw [hnext], hrest⟩
  · obtain ⟨u, hexec, hthree⟩ := execStageLimit_low ds found fw hn' hlow hhigh hblock
    refine ⟨_, hexec, u.nextStep_shows (by omega), fun h3 d hd hlt hoff => ?_⟩
    rw [State.nextStep_domOn u (by omega), hthree h3]
    exact State.domOn_stage3_of_failed hlt (State.failDomains_mayPower hd (by omega)) hoff
  · obtain ⟨hflag, hflash⟩ := State.takeover_spec hactive hretired
    obtain ⟨-, hflash', -, hflag'⟩ := s.takeover.stage7_spec found fw
    obtain ⟨-, -, -, -, -, hseven, -⟩ := execStageLimit_at s ds found fw
    refine ⟨(s.takeover.stage7 found fw).nextStep 8, ?_, State.nextStep_shows _ (by decide), ?_, ?_⟩
    · rw [hseven (hn'.trans h7), bootBlocks_takeover found fw hactive hA hB hretired]
    · rw [State.nextStep_low _ (by decide), State.stepShown_flag _ _ (.inr (.inr rfl)), hflag', hflag]
    · rw [State.nextStep_low _ (by decide), State.stepShown_frame]
      exact (congrArg Flash.blockARetired hflash').trans hflash
  · obtain ⟨m, hflash⟩ := s.noBlocks.moduleReset_flash 3
    obtain ⟨-, -, -, -, -, hseven, -⟩ := execStageLimit_at s ds found fw
    refine ⟨s.noBlocks.moduleReset 3, ?_, State.moduleReset_blank .., State.moduleReset_cause .., ?_, ?_⟩
    · rw [hseven (hn'.trans h7), bootBlocks_resets found fw hactive hA hB]
    · rw [hflash]
      rfl
    · rw [hflash]
      rfl
  · obtain ⟨-, -, -, -, -, -, height, hnine, -⟩ := execStageLimit_at s ds found fw
    obtain h8 | h9 := h89
    · refine ⟨s.nextStep 9, height (hn'.trans h8), ?_⟩
      rw [State.nextStep_9, h8]
      cases s.addressed <;> rfl
    · refine ⟨s.nextStep 10, hnine (hn'.trans h9), ?_⟩
      rw [State.nextStep_10, h9]
      rfl
end


section
/-! SUPPORT. Copies in the boot flash (R406), resets that end (R410), pairs that reset (R412), and the clove rows' map epochs
(R416). -/
namespace Sys2Proof.Machine

section
variable {s : State}

/-! ### Boot-flash copies (R406) -/

/-- The sequence number of the next copy. -/
def nextCopy (a b : FlashCopy) : Nat :=
  match newer a b with
  | some d => d.seq + 1
  | none => 1

theorem newer_eq_none {a b : FlashCopy} (h : newer a b = none) : b.valid = false := by
  unfold newer at h
  split at h
  · cases h
  · split at h
    · cases h
    next hb => simpa using hb

theorem newer_eq_some {a b c : FlashCopy} (h : newer a b = some c) : c = a ∨ c = b := by
  unfold newer at h
  split at h
  · exact .inl (Option.some.inj h).symm
  · split at h
    · exact .inr (Option.some.inj h).symm
    · cases h

/-- The copy just written is the one in use. -/
theorem newer_writeCopy (a b : FlashCopy) {new : Nat → FlashCopy} (hvalid : ∀ n, (new n).valid = true) (hseq : ∀ n, (new n).seq = n) :
    newer (writeCopy a b new).1 (writeCopy a b new).2 = some (new (nextCopy a b)) := by
  unfold writeCopy nextCopy
  cases h : newer a b with
  | none => simp [newer, hvalid, newer_eq_none h]
  | some c =>
    dsimp only
    by_cases hc : c = a
    · simp [newer, hvalid, hseq, hc]
    · obtain rfl : c = b := (newer_eq_some h).resolve_left hc
      simp [newer, hvalid, hseq, hc]

/-! ### A partition reset ends (R410) -/

/-- A partition that is not being cleared shows its reset as done. -/
def State.showDone (s : State) (p : Nat) : State :=
  if s.up.clears.contains p then s else (s.setFld .prtReset p 0 2 2 0).setFld .prtReset p 0 3 3 1

theorem State.showDone_frame (s : State) (p : Nat) : s.showDone p = { s with regs := (s.showDone p).regs } := by
  unfold State.showDone
  split <;> rfl

theorem State.showDone_spec (s : State) {p : Nat} (h : p ∉ s.up.clears) :
    (s.showDone p).flag .prtReset p 0 2 = false ∧ (s.showDone p).flag .prtReset p 0 3 = true := by
  have hbusy := State.flag_setFld s .prtReset p 0 (hi := 2) (lo := 2) 0 2 (by decide) (by decide)
  have hdone (n : Nat) := State.flag_setFld (s.setFld .prtReset p 0 2 2 0) .prtReset p 0 (hi := 3) (lo := 3) 1 n (by decide) (by decide)
  rw [State.showDone, if_neg (by simpa using h)]
  exact ⟨((hdone 2).trans (if_neg (by decide))).trans (hbusy.trans (if_pos (by decide))), (hdone 3).trans (if_pos (by decide))⟩

theorem State.showDone_ne (s : State) {p q : Nat} (h : p ≠ q) : (s.showDone p).reg .prtReset q 0 = s.reg .prtReset q 0 := by
  have hne : Reg.prtReset.addr p 0 ≠ Reg.prtReset.addr q 0 := Reg.addr_ne_of_block rfl h (by decide) (by decide)
  unfold State.showDone
  split
  · rfl
  · exact (State.reg_setReg_ne _ _ hne).trans (State.reg_setReg_ne _ _ hne)

/-- Registers alone change, and not PRT_RESET of a partition. -/
def RegsBut (p : Nat) (s t : State) : Prop := t = { s with regs := t.regs } ∧ t.reg .prtReset p 0 = s.reg .prtReset p 0

theorem RegsBut.trans {p : Nat} {a b c : State} (h : RegsBut p a b) (g : RegsBut p b c) : RegsBut p a c := by
  refine ⟨?_, g.2.trans h.2⟩
  have hc := g.1
  rw [h.1] at hc
  exact hc

theorem State.foldl_showDone_frame (ps : List Nat) (s : State) :
    ps.foldl (fun s p => s.showDone p) s = { s with regs := (ps.foldl (fun s p => s.showDone p) s).regs } := by
  refine List.foldlRecOn (motive := fun t : State => t = { s with regs := t.regs }) ps _ rfl fun t ht p _ => ?_
  have hp := t.showDone_frame p
  rw [ht] at hp
  rw [ht]
  exact hp

theorem State.foldl_showDone_spec {ps : List Nat} (hps : ps.Nodup) (s : State) {p : Nat} (hp : p ∈ ps) (hclear : p ∉ s.up.clears) :
    (ps.foldl (fun s p => s.showDone p) s).flag .prtReset p 0 2 = false ∧
    (ps.foldl (fun s p => s.showDone p) s).flag .prtReset p 0 3 = true := by
  obtain ⟨c, hc, -, hend⟩ := foldl_at (f := fun (s : State) p => s.showDone p) (R := RegsBut p) (fun _ => ⟨rfl, rfl⟩)
    (fun _ _ _ => RegsBut.trans) hps hp (fun b q _ hne => ⟨b.showDone_frame q, b.showDone_ne hne⟩) s
  have hup : p ∉ c.up.clears := by rw [hc.1]; exact hclear
  obtain ⟨hbusy, hdone⟩ := c.showDone_spec hup
  constructor
  · exact (congrArg (fun w => BitVec.getLsbD w 2) hend).trans hbusy
  · exact (congrArg (fun w => BitVec.getLsbD w 3) hend).trans hdone

/-! ### Pairs that reset (R412) -/

theorem State.servedParts_congr {s t : State} (hgroup : ∀ p, t.reg .prtGroup p 0 = s.reg .prtGroup p 0)
    (hpairs : ∀ p, t.pairOf p = s.pairOf p) (pair : Nat) : t.servedParts pair = s.servedParts pair := by
  have hlead (p : Nat) : t.lead p = s.lead p := congrArg (fun w => regField w 4 0) (hgroup p)
  have hgroups : t.group = s.group := funext fun l => by simp only [State.group, hlead]
  simp only [State.servedParts, State.served, hgroups, hlead, hpairs]

/-- A pair that runs stops, with its record. -/
theorem State.resetPair_spec (s : State) {pair : Nat} (cause : Nat) (hruns : s.pairRuns pair = true) :
    s.resetPair pair cause false = (s.log .pairReset 255 pair cause 0 0).pairStops pair 0 Code.pairReset.val s.err.nextSeq ∧
    s.resetPair pair cause true = ((s.log .pairReset 255 pair cause 0 0).pairStops pair 0 Code.pairReset.val s.err.nextSeq).retirePair
      pair 0 Code.pairReset.val s.err.nextSeq := by
  have hgoes : ¬ (!s.pairRuns pair) = true := by simp [hruns]
  exact ⟨(if_neg hgoes).trans (if_neg Bool.false_ne_true), (if_neg hgoes).trans (if_pos rfl)⟩

theorem State.log_servedParts (s : State) (c : Code) (part h0 h1 w2 w3 pair : Nat) :
    (s.log c part h0 h1 w2 w3).servedParts pair = s.servedParts pair := by
  have hcumin : (s.log c part h0 h1 w2 w3).reg .glbCumin 0 0 = s.reg .glbCumin 0 0 :=
    (s.log_offWork c part h0 h1 w2 w3).low (q := .glbCumin) (i := 0) (by decide)
  refine State.servedParts_congr (s.log_sameSupply c part h0 h1 w2 w3).group (fun p => ?_) pair
  have hserves : (s.log c part h0 h1 w2 w3).flag .glbCumin 0 0 3 = s.flag .glbCumin 0 0 3 := congrArg (fun w => BitVec.getLsbD w 3) hcumin
  have hplace : (s.log c part h0 h1 w2 w3).fld .glbCumin 0 0 9 8 = s.fld .glbCumin 0 0 9 8 := congrArg (fun w => regField w 9 8) hcumin
  rw [State.pairOf, hserves, hplace, ← State.pairOf]

/-- A pair that stops, with its record: it restarts, and what it serves is gated (R412, R430). -/
theorem State.resetPair_restarts (s : State) {pair : Nat} (cause : Nat) (hruns : s.pairRuns pair = true) :
    pair ∈ (s.resetPair pair cause false).up.restarting ∧ (s.resetPair pair cause false).err.nextSeq = s.err.nextSeq + 1 ∧
    ∀ p ∈ s.servedParts pair, (s.resetPair pair cause false).gated p = true := by
  rw [(s.resetPair_spec cause hruns).1]
  refine ⟨?_, ?_, fun p hp => State.pairStops_gates _ _ _ _ _ ?_⟩
  · rw [State.pairStops_restarting]
    exact List.mem_dedup.2 (List.mem_append_right _ (List.mem_singleton.2 rfl))
  · rw [State.pairStops_nextSeq, State.log_nextSeq]
  · rw [State.log_servedParts]
    exact hp

/-- A pair that stops for good is written down as retired, with its record. -/
theorem State.resetPair_retires (s : State) {pair : Nat} (hpair : pair < 4) (cause : Nat) (hruns : s.pairRuns pair = true) :
    (s.resetPair pair cause true).flag .glbCumin 0 0 (4 + pair) = true ∧ (s.resetPair pair cause true).flag .glbCumin 0 0 pair = false ∧
    pair ∉ (s.resetPair pair cause true).up.restarting ∧ s.err.nextSeq < (s.resetPair pair cause true).err.nextSeq := by
  rw [(s.resetPair_spec cause hruns).2]
  obtain ⟨hgone, hserves, hrestarts⟩ := State.retirePair_retires
    ((s.log .pairReset 255 pair cause 0 0).pairStops pair 0 Code.pairReset.val s.err.nextSeq) hpair 0 Code.pairReset.val s.err.nextSeq
  refine ⟨hgone, hserves, hrestarts, ?_⟩
  refine lt_of_lt_of_le ?_ (State.retirePair_keeps (Keeps.refl _)).seq
  rw [State.pairStops_nextSeq, State.log_nextSeq]
  exact Nat.lt_succ_self _

/-- A divergence noted. -/
def State.noteDivergence (s : State) (pair : Nat) : State :=
  { s with up := { s.up with diverged := s.up.diverged.put pair [s.up.time] } }

/-- A pair has diverged in the hour before (R412). -/
def State.divergedLately (s : State) (pair : Nat) : Bool := (s.up.diverged.atD pair []).any (fun t => decide (s.up.time < t + hourNs))

theorem execLockstepDivergence_eq {pair : Nat} (hruns : s.pairRuns pair = true) :
    exec (.lockstepDivergence pair) s = .next ((s.noteDivergence pair).resetPair pair 0 (s.divergedLately pair)) :=
  congrArg Host.Outcome.next (if_neg (by simp [hruns]))

theorem State.noteDivergence_served (s : State) (pair q : Nat) : (s.noteDivergence pair).servedParts q = s.servedParts q :=
  State.servedParts_congr (fun _ => rfl) (fun _ => rfl) q

theorem State.queueAbort_frame (s : State) (l code cls seq : Nat) (b : Bool) :
    s.queueAbort l code cls seq b = { s with err := (s.queueAbort l code cls seq b).err } := by
  unfold State.queueAbort
  split
  · split <;> rfl
  · rfl

/-- The request that a pair's reset voided is aborted (R321, R412). -/
def State.abortVoid (s : State) (q : Request) : State :=
  match q.void with
  | some (c, k, _, n) => s.queueAbort q.group c k n false
  | none => s

theorem State.foldl_abortVoid_frame (qs : List Request) (s : State) :
    ∃ e, qs.foldl (fun s q => s.abortVoid q) s = { s with err := e } := by
  refine List.foldlRecOn (motive := fun t : State => ∃ e, t = { s with err := e }) qs _ ⟨s.err, rfl⟩ fun t ht q _ => ?_
  obtain ⟨e, rfl⟩ := ht
  unfold State.abortVoid
  split
  · exact ⟨_, State.queueAbort_frame ..⟩
  · exact ⟨e, rfl⟩

/-- A pair that serves again. -/
def State.pairBack (s : State) (pair : Nat) : State :=
  { s with up := { s.up with restarting := s.up.restarting.filter (· ≠ pair) } }

theorem execPairRestartDone_eq {pair : Nat} (hrestarts : pair ∈ s.up.restarting) :
    exec (.pairRestartDone pair true) s = .next (((s.pairBack pair).srv.reqs.filter
      (fun q => ((s.pairBack pair).served pair).contains q.group)).foldl (fun s q => s.abortVoid q) (s.pairBack pair)) ∧
    exec (.pairRestartDone pair false) s = .next (s.retirePair pair 0 Code.pairReset.val (s.err.nextSeq - 1)) := by
  have hwaits : ¬ (!s.up.restarting.contains pair) = true := by simpa using hrestarts
  exact ⟨congrArg Host.Outcome.next ((if_neg hwaits).trans (if_neg Bool.false_ne_true)),
    congrArg Host.Outcome.next ((if_neg hwaits).trans (if_pos rfl))⟩

/-! ### Map epochs (R22, R23, R407, R416) -/

theorem rowMap_congr {as bs : List Nat} (h : ∀ r, r ∈ as ↔ r ∈ bs) : rowMap as = rowMap bs := by
  have hcontains (r : Nat) : as.contains r = bs.contains r := by
    rw [Bool.eq_iff_iff]
    simpa using h r
  simp only [rowMap, hcontains]

/-- A field of a map epoch: wire spares take effect, and the rows are mapped anew. -/
def State.epochField (s : State) (f : Nat) : State := (s.fitWires f).remap f [] (rowMap (s.field f).retired)

/-- From s to t field f stands, and so do the log and what is out of service, which may grow. -/
structure EpochBut (f : Nat) (s t : State) : Prop where
  field : t.field f = s.field f
  err : t.err = s.err
  out : ∀ p ∈ s.up.outParts, p ∈ t.up.outParts

theorem EpochBut.trans {f : Nat} {a b c : State} (h : EpochBut f a b) (g : EpochBut f b c) : EpochBut f a c :=
  ⟨g.field.trans h.field, g.err.trans h.err, fun p hp => g.out p (h.out p hp)⟩

/-- The rows of a field as a map epoch leaves them. -/
structure Remapped (f : Nat) (s t : State) : Prop where
  pending : (t.field f).pending = []
  pendWires : (t.field f).pendWires = []
  whole : 88 ≤ (rowMap ((s.field f).retired ++ (s.field f).pending)).length →
    (t.field f).map = rowMap ((s.field f).retired ++ (s.field f).pending)
  short : (rowMap ((s.field f).retired ++ (s.field f).pending)).length < 88 →
    (t.field f).map = (s.field f).map ∧ f / 3 ∈ t.up.outParts

theorem EpochBut.remapped {f : Nat} {s t u : State} (h : Remapped f s t) (g : EpochBut f t u) : Remapped f s u := by
  obtain ⟨hpending, hwires, hwhole, hshort⟩ := h
  refine ⟨?_, ?_, ?_, fun hlen => ⟨?_, g.out _ (hshort hlen).2⟩⟩
  all_goals rw [g.field]
  exacts [hpending, hwires, hwhole, (hshort hlen).1]

theorem Remapped.of_from {f : Nat} {s t u : State} (h : EpochBut f s t) (g : Remapped f t u) : Remapped f s u := by
  obtain ⟨hpending, hwires, hwhole, hshort⟩ := g
  rw [h.field] at hwhole hshort
  exact ⟨hpending, hwires, hwhole, hshort⟩

/-- The map of a field's rows, apart from its wires (R22, R23). -/
theorem State.remap_spec (s : State) (f : Nat) (old : List Nat) :
    ((s.remap f [] old).field f).pending = [] ∧ ((s.remap f [] old).field f).pendWires = (s.field f).pendWires ∧
    (88 ≤ (rowMap ((s.field f).retired ++ (s.field f).pending)).length →
      ((s.remap f [] old).field f).map = rowMap ((s.field f).retired ++ (s.field f).pending)) ∧
    ((rowMap ((s.field f).retired ++ (s.field f).pending)).length < 88 →
      ((s.remap f [] old).field f).map = (s.field f).map ∧ f / 3 ∈ (s.remap f [] old).up.outParts) := by
  have hrows : rowMap ((s.field f).retired ++ (s.field f).pending ++ []).dedup = rowMap ((s.field f).retired ++ (s.field f).pending) :=
    rowMap_congr fun r => by simp
  generalize hmap : s.remap f [] old = t
  unfold State.remap at hmap
  extract_lets s1 v retired new s2 up s3 moved mine s4 s5 n fl s6 s7 s8 s9 at hmap
  have hnew : new = rowMap ((s.field f).retired ++ (s.field f).pending) := hrows
  have hs2 : s2.field f = { s.field f with retired := retired, pending := [] } := State.field_modField_self ..
  rw [← hnew]
  by_cases hshort : new.length < 88
  · rw [if_pos hshort] at hmap
    have hfield : t.field f = s2.field f := by rw [← hmap]; rfl
    have hup : t.up = s3.up := by rw [← hmap]; rfl
    rw [hfield, hs2, hup]
    refine ⟨rfl, rfl, fun h => absurd hshort (by omega), fun _ => ⟨rfl, ?_⟩⟩
    exact List.mem_dedup.2 (List.mem_append_right _ (List.mem_singleton.2 rfl))
  · rw [if_neg hshort] at hmap
    have hs4 : s4.field f = { s2.field f with map := new } := State.field_modField_self ..
    have hfield : t.field f = s4.field f := by rw [← hmap]; rfl
    rw [hfield, hs4, hs2]
    exact ⟨rfl, rfl, fun _ => rfl, fun h => absurd h hshort⟩

theorem State.remap_ne (s : State) {f g : Nat} (h : g ≠ f) (bad old : List Nat) : EpochBut f s (s.remap g bad old) := by
  generalize hmap : s.remap g bad old = t
  unfold State.remap at hmap
  extract_lets s1 v retired new s2 up s3 moved mine s4 s5 n fl s6 s7 s8 s9 at hmap
  have hs2 : s2.field f = s.field f := State.field_modField_ne _ _ h
  by_cases hshort : new.length < 88
  · rw [if_pos hshort] at hmap
    have hfield : t.field f = s2.field f := by rw [← hmap]; rfl
    have hup : t.up = s3.up := by rw [← hmap]; rfl
    refine ⟨hfield.trans hs2, by rw [← hmap]; rfl, fun p hp => ?_⟩
    rw [hup]
    exact List.mem_dedup.2 (List.mem_append_left _ hp)
  · rw [if_neg hshort] at hmap
    have hs4 : s4.field f = s2.field f := State.field_modField_ne _ _ h
    have hfield : t.field f = s4.field f := by rw [← hmap]; rfl
    have hup : t.up = s.up := by rw [← hmap]; rfl
    exact ⟨(hfield.trans hs4).trans hs2, by rw [← hmap]; rfl, fun p hp => by rw [hup]; exact hp⟩

theorem State.fitWires_spec (s : State) (f : Nat) : (∃ ws, (s.fitWires f).field f = { s.field f with wires := ws, pendWires := [] }) ∧
    (s.fitWires f).err = s.err ∧ (s.fitWires f).up = s.up ∧ ∀ g, f ≠ g → (s.fitWires f).field g = s.field g := by
  unfold State.fitWires
  extract_lets v all used slow t
  have ht : t.field f = { s.field f with wires := all, pendWires := [] } := State.field_modField_self ..
  have hne (g : Nat) (hg : f ≠ g) : t.field g = s.field g := State.field_modField_ne s _ hg
  exact ⟨⟨all, ht⟩, rfl, rfl, hne⟩

theorem State.epochField_ne (s : State) {f g : Nat} (h : g ≠ f) : EpochBut f s (s.epochField g) := by
  obtain ⟨-, herr, hup, hfields⟩ := s.fitWires_spec g
  exact EpochBut.trans ⟨hfields f h, herr, fun p hp => by rw [hup]; exact hp⟩ (State.remap_ne _ h ..)

theorem State.remap_err (s : State) (f : Nat) (bad old : List Nat) : (s.remap f bad old).err = s.err :=
  (s.remap_ne (f := f + 1) (by omega) bad old).err

theorem State.epochField_spec (s : State) (f : Nat) : Remapped f s (s.epochField f) ∧ (s.epochField f).err = s.err := by
  obtain ⟨⟨ws, hfield⟩, herr, -, -⟩ := s.fitWires_spec f
  obtain ⟨hpending, hwires, hwhole, hshort⟩ := (s.fitWires f).remap_spec f (rowMap (s.field f).retired)
  rw [hfield] at hwires hwhole hshort
  exact ⟨⟨hpending, hwires, hwhole, hshort⟩, (State.remap_err ..).trans herr⟩

/-- The rows of a partition's three fields, mapped anew. -/
def State.epochFields (s : State) (p : Nat) : State := [3 * p, 3 * p + 1, 3 * p + 2].foldl (fun s f => s.epochField f) s

theorem State.epochFields_err (s : State) (p : Nat) : (s.epochFields p).err = s.err :=
  List.foldlRecOn (motive := fun t : State => t.err = s.err) _ _ rfl fun t ht f _ => (t.epochField_spec f).2.trans ht

theorem State.epochFields_remapped (s : State) {p f : Nat} (hlow : 3 * p ≤ f) (hhigh : f < 3 * p + 3) : Remapped f s (s.epochFields p) := by
  have hmem : f ∈ [3 * p, 3 * p + 1, 3 * p + 2] := by
    simp only [List.mem_cons, List.not_mem_nil, or_false]
    omega
  have hnodup : [3 * p, 3 * p + 1, 3 * p + 2].Nodup := by simp
  obtain ⟨c, hbefore, hafter⟩ := foldl_at (f := fun (s : State) f => s.epochField f) (R := EpochBut f) (fun _ => ⟨rfl, rfl, fun _ h => h⟩)
    (fun _ _ _ => EpochBut.trans) hnodup hmem (fun b g _ hne => b.epochField_ne hne) s
  exact EpochBut.remapped (Remapped.of_from hbefore (c.epochField_spec f).1) hafter

/-- No epoch waits, and GLB_MAP_CTRL shows that it is done. -/
def State.epochOver (s : State) : State :=
  let s : State := { s with up := { s.up with epoch := none, mapDirty := true } }
  ((s.setFld .glbMapCtrl 0 0 9 9 0).setFld .glbMapCtrl 0 0 11 11 1).showCaps

theorem State.endEpoch_eq (s : State) (p : Nat) : s.endEpoch p = (s.epochFields p).epochOver.log .mapEpoch p (3 * p) 0 0 0 := by
  have hfields : [3 * p, 3 * p + 1, 3 * p + 2].foldl (fun s f => (s.fitWires f).remap f [] (rowMap (s.field f).retired)) s =
    s.epochFields p := rfl
  unfold State.endEpoch
  rw [hfields]
  rfl

theorem State.epochOver_spec (s : State) : s.epochOver.flag .glbMapCtrl 0 0 9 = false ∧
    s.epochOver.flag .glbMapCtrl 0 0 11 = true ∧
    ∃ regs, s.epochOver = { s with regs := regs, up := { s.up with epoch := none, mapDirty := true } } := by
  unfold State.epochOver
  extract_lets up u
  have hcaps : (((u.setFld .glbMapCtrl 0 0 9 9 0).setFld .glbMapCtrl 0 0 11 11 1).showCaps).reg .glbMapCtrl 0 0 =
      ((u.setFld .glbMapCtrl 0 0 9 9 0).setFld .glbMapCtrl 0 0 11 11 1).reg .glbMapCtrl 0 0 :=
    State.showCaps_reg _ (by decide) (by decide) (by decide)
  have hset (n : Nat) := State.flag_setFld (u.setFld .glbMapCtrl 0 0 9 9 0) .glbMapCtrl 0 0 (hi := 11) (lo := 11) 1 n (by decide) (by decide)
  have hbusy := State.flag_setFld u .glbMapCtrl 0 0 (hi := 9) (lo := 9) 0 9 (by decide) (by decide)
  refine ⟨?_, ?_, ?_⟩
  · exact (congrArg (fun w => BitVec.getLsbD w 9) hcaps).trans (((hset 9).trans (if_neg (by decide))).trans (hbusy.trans (if_pos (by decide))))
  · exact (congrArg (fun w => BitVec.getLsbD w 11) hcaps).trans ((hset 11).trans (if_pos (by decide)))
  · rw [State.showCaps_frame]
    exact ⟨_, rfl⟩

/-- A map epoch ends with its new maps and its record (R416). -/
theorem State.endEpoch_spec (s : State) (p : Nat) : (s.endEpoch p).up.epoch = none ∧ (s.endEpoch p).flag .glbMapCtrl 0 0 9 = false ∧
    (s.endEpoch p).flag .glbMapCtrl 0 0 11 = true ∧ (s.endEpoch p).err.nextSeq = s.err.nextSeq + 1 ∧
    (∀ f, (s.endEpoch p).field f = (s.epochFields p).field f) ∧ (s.endEpoch p).up.outParts = (s.epochFields p).up.outParts := by
  rw [State.endEpoch_eq]
  have herr := s.epochFields_err p
  generalize s.epochFields p = t at *
  obtain ⟨hbusy, hdone, regs, hframe⟩ := t.epochOver_spec
  have hlog : (t.epochOver.log .mapEpoch p (3 * p) 0 0 0).reg .glbMapCtrl 0 0 = t.epochOver.reg .glbMapCtrl 0 0 :=
    (t.epochOver.log_offWork .mapEpoch p (3 * p) 0 0 0).low (q := .glbMapCtrl) (i := 0) (by decide)
  have hup : t.epochOver.up = { t.up with epoch := none, mapDirty := true } := by rw [hframe]
  have hfield (f : Nat) : t.epochOver.field f = t.field f := by rw [hframe]; rfl
  have herr' : t.epochOver.err = t.err := by rw [hframe]
  refine ⟨?_, (congrArg (fun w => BitVec.getLsbD w 9) hlog).trans hbusy, (congrArg (fun w => BitVec.getLsbD w 11) hlog).trans hdone,
    ?_, fun f => ?_, ?_⟩
  · rw [State.log_up, hup]
  · rw [State.log_nextSeq, herr', herr]
  · rw [State.log_field, hfield]
  · rw [State.log_up, hup]

/-- A reset that ends, once its commands' partitions show it. -/
theorem execPartitionResetDone_eq {p : Nat} {cause : Nat × Nat × Nat} (h : s.up.resets.at? (s.lead p) = some cause) {u : State}
    (hu : u = (s.group (s.lead p)).foldl (fun s p => s.showDone p) { s with up := { s.up with resets := s.up.resets.del (s.lead p) } }) :
    exec (.partitionResetDone p) s = .next (((s.group (s.lead p)).foldl (fun s q => s.reopen q)
      (((s.group (s.lead p)).foldl (fun s q => s.abortCmds q (resetDetail cause q)) u).dropCause (s.group (s.lead p)) 2)).wakeClears
        (s.group (s.lead p))) := by
  have hexec : exec (.partitionResetDone p) s = execPartitionResetDone p s := rfl
  rw [hexec, hu]
  unfold execPartitionResetDone
  dsimp only
  rw [h]
  rfl

/-- An epoch that a running request refuses (R416). -/
def State.epochRefused (s : State) : State :=
  ((({ s with up := { s.up with epoch := none } } : State).setFld .glbMapCtrl 0 0 9 9 0).setFld .glbMapCtrl 0 0 10 10 1)

theorem State.epochRefused_spec (s : State) : s.epochRefused.up.epoch = none ∧ s.epochRefused.flag .glbMapCtrl 0 0 9 = false ∧
    s.epochRefused.flag .glbMapCtrl 0 0 10 = true := by
  unfold State.epochRefused
  have hepoch : ({ s with up := { s.up with epoch := none } } : State).up.epoch = none := rfl
  generalize ({ s with up := { s.up with epoch := none } } : State) = u at *
  have hset (n : Nat) := State.flag_setFld (u.setFld .glbMapCtrl 0 0 9 9 0) .glbMapCtrl 0 0 (hi := 10) (lo := 10) 1 n (by decide) (by decide)
  have hbusy := State.flag_setFld u .glbMapCtrl 0 0 (hi := 9) (lo := 9) 0 9 (by decide) (by decide)
  exact ⟨hepoch, ((hset 9).trans (if_neg (by decide))).trans (hbusy.trans (if_pos (by decide))), (hset 10).trans (if_pos (by decide))⟩

/-- What is written as settings is then in use. -/
theorem State.writeSettings_spec (s : State) (grade want : Nat) : ∃ c,
    s.writeSettings grade want = { s with flash := (s.writeSettings grade want).flash } ∧
    newer (s.writeSettings grade want).flash.set0 (s.writeSettings grade want).flash.set1 = some c ∧
    (s.writeSettings grade want).settings = (grade, want) ∧ c.seq = nextCopy s.flash.set0 s.flash.set1 := by
  have hnewer := newer_writeCopy s.flash.set0 s.flash.set1
    (new := fun n => (⟨true, n, grade, want, [], [], [], [], [], [], 0, false⟩ : FlashCopy)) (fun _ => rfl) (fun _ => rfl)
  refine ⟨_, rfl, hnewer, ?_, rfl⟩
  have hset : newer (s.writeSettings grade want).flash.set0 (s.writeSettings grade want).flash.set1 = _ := hnewer
  rw [State.settings, hset]

end

end Sys2Proof.Machine

open Sys2Proof Sys2Proof.Machine

/-- Settles O51, one event of resets and repair at a time. -/
theorem resetsAndRepair : Obligations.ResetsAndRepair := by
  unfold Obligations.ResetsAndRepair
  intro s
  refine ⟨⟨fun hstep => ?_, ?_⟩, fun p cause hp hreset => ?_, fun pair c hpair hruns => ⟨fun hc => ?_, fun hc hlately => ?_⟩,
    fun pair hpair hrestarts => ⟨?_, ?_⟩, fun hactive hretired => ?_, ⟨s.moduleReset 3, rfl, s.moduleReset_blank 3, s.moduleReset_cause 3⟩,
    fun p after hepoch hp hfree => ⟨fun hafter => ?_, fun hafter hbusy => ?_, fun hafter hidle => ⟨fun q hq => ?_, fun hnone => ?_⟩⟩⟩
  · refine ⟨s.writeMap, _, congrArg Host.Outcome.next ?_, rfl, newer_writeCopy _ _ (fun _ => rfl) (fun _ => rfl), rfl⟩
    exact (if_neg Bool.false_ne_true).trans (if_neg (by omega))
  · obtain ⟨c, hframe, hnewer, hsettings, hseq⟩ := s.writeSettings_spec s.settings.1 s.settings.2
    exact ⟨_, c, rfl, hframe, hnewer, hsettings, hseq⟩
  · exact ⟨_, execPartitionResetDone_eq hreset rfl, State.foldl_showDone_frame ..,
      fun q hq hclear => State.foldl_showDone_spec (List.Nodup.filter _ List.nodup_range) _ hq hclear⟩
  · obtain rfl | ⟨rfl, hlong⟩ := hc
    · exact ⟨_, rfl, s.resetPair_restarts 1 hruns⟩
    · have hnot : s.divergedLately pair = false := by
        refine List.any_eq_false.2 fun x hx => ?_
        simpa using hlong x hx
      refine ⟨(s.noteDivergence pair).resetPair pair 0 false, ?_, ?_⟩
      · rw [execLockstepDivergence_eq hruns, hnot]
      · have hstops := (s.noteDivergence pair).resetPair_restarts 0 hruns
        rw [State.noteDivergence_served] at hstops
        exact hstops
  · have hagain : s.divergedLately pair = true := by
      obtain ⟨x, hx, hrecent⟩ := hlately
      exact List.any_eq_true.2 ⟨x, hx, decide_eq_true hrecent⟩
    refine ⟨(s.noteDivergence pair).resetPair pair 0 true, ?_, (s.noteDivergence pair).resetPair_retires hpair 0 hruns⟩
    rw [hc, execLockstepDivergence_eq hruns, hagain]
  · obtain ⟨hexec, -⟩ := execPairRestartDone_eq hrestarts
    obtain ⟨e, hframe⟩ := State.foldl_abortVoid_frame ((s.pairBack pair).srv.reqs.filter
      (fun q => ((s.pairBack pair).served pair).contains q.group)) (s.pairBack pair)
    refine ⟨_, hexec, ?_⟩
    rw [hframe]
    exact ⟨rfl, rfl, rfl⟩
  · exact ⟨_, (execPairRestartDone_eq hrestarts).2, s.retirePair_retires hpair ..⟩
  · obtain ⟨hflag, hoff, hflash, hlock, hseq⟩ := s.blockB_spec
    refine ⟨s.blockB, congrArg Host.Outcome.next (State.takeover_eq hactive hretired), hflag, hoff, by rw [hflash], hlock, hseq⟩
  · obtain ⟨hnone, hbusy, hdone, hseq, hfield, hout⟩ := s.endEpoch_spec p
    refine ⟨s.endEpoch p, congrArg Host.Outcome.next ?_, hnone, hbusy, hdone, hseq, fun f hlow hhigh => ?_⟩
    · rw [hepoch]
      exact (if_neg (by rw [hfree]; decide)).trans (if_pos hafter)
    · obtain ⟨hpending, hwires, hwhole, hshort⟩ := s.epochFields_remapped hlow hhigh
      have hpart : f / 3 = p := by omega
      rw [hfield]
      refine ⟨hpending, hwires, hwhole, fun hlen => ⟨(hshort hlen).1, ?_⟩⟩
      have hmem := (hshort hlen).2
      rw [hpart] at hmem
      rw [State.partOut, hout]
      exact List.contains_iff_mem.2 hmem
  · refine congrArg Host.Outcome.next ?_
    rw [hepoch]
    exact (if_neg (by rw [hfree]; decide)).trans ((if_neg (by rw [hafter]; decide)).trans (if_pos hbusy))
  · refine ⟨s.epochRefused, congrArg Host.Outcome.next ?_, s.epochRefused_spec⟩
    rw [hepoch]
    exact (if_neg (by rw [hfree]; decide)).trans ((if_neg (by rw [hafter]; decide)).trans ((if_neg (by rw [hidle]; decide)).trans
      (if_pos (by rw [hq]; rfl))))
  · refine congrArg Host.Outcome.next ?_
    rw [hepoch]
    exact (if_neg (by rw [hfree]; decide)).trans ((if_neg (by rw [hafter]; decide)).trans ((if_neg (by rw [hidle]; decide)).trans
      (if_neg (by rw [hnone]; decide))))
end


section
/-! SUPPORT. The management bus: commands that are served, and what they reply (R443, R444). -/
namespace Sys2Proof.Machine

section
variable {s : State}

/-! ### Replies -/

/-- A served command runs. -/
theorem Managed.runs (h : Managed s) (f : State → State) : s.managed f = f s :=
  if_pos (by rw [h.1, h.2]; rfl)

theorem State.reply_replied {s u : State} (h : u.mgmt.out = s.mgmt.out) (st : Nat) (data : List Byte) :
    Replied s (u.reply st data) st data :=
  ⟨congrArg (· ++ [(st, data)]) h, rfl⟩

theorem State.reply_frame (s : State) (st : Nat) (data : List Byte) : s.reply st data = { s with mgmt := (s.reply st data).mgmt } := rfl

/-- A command that replies, and does no more. -/
theorem Managed.replies (h : Managed s) {c : Instr} {f : State → State} (hexec : exec c s = .next (s.managed f)) {st : Nat}
    {data : List Byte} (hf : f s = s.reply st data) : ∃ t, exec c s = .next t ∧ t = { s with mgmt := t.mgmt } ∧ Replied s t st data :=
  ⟨s.reply st data, by rw [hexec, h.runs, hf], s.reply_frame st data, State.reply_replied rfl st data⟩

/-! ### What the commands leave of the replies -/

theorem State.setAlert_mgmt (s : State) (n : Nat) : ∃ b, (s.setAlert n).mgmt = { s.mgmt with released := b } := by
  unfold State.setAlert
  split
  · exact ⟨s.mgmt.released, rfl⟩
  · exact ⟨_, rfl⟩

/-- A record may let the alert line be asserted again, and does no more of the bus and the monitor. -/
theorem State.log_mgmt (s : State) (c : Code) (part h0 h1 w2 w3 : Nat) :
    ∃ b, (s.log c part h0 h1 w2 w3).mgmt = { s.mgmt with released := b } := by
  unfold State.log
  cases c.alert with
  | none => exact ⟨s.mgmt.released, rfl⟩
  | some n => exact State.setAlert_mgmt _ n

theorem State.pairStops_mgmt (s : State) (pair cause code seq : Nat) : (s.pairStops pair cause code seq).mgmt = s.mgmt :=
  List.foldlRecOn (motive := fun t : State => t.mgmt = s.mgmt) (s.servedParts pair) _ rfl fun _ ht _ _ => ht

theorem State.resetPair_mgmt (s : State) {pair : Nat} (cause : Nat) (hruns : s.pairRuns pair = true) :
    ∃ b, (s.resetPair pair cause false).mgmt = { s.mgmt with released := b } := by
  rw [(s.resetPair_spec cause hruns).1, State.pairStops_mgmt]
  exact s.log_mgmt ..

theorem State.putDomain_mgmt (s : State) (d : Nat) (v : Domain) : (s.putDomain d v).mgmt = s.mgmt := by
  rw [State.putDomain_frame]

theorem State.beginUp_mgmt (s : State) (d : Nat) : (s.beginUp d).mgmt = s.mgmt := by
  unfold State.beginUp
  extract_lets p t u
  have hu : u.mgmt = s.mgmt := State.putDomain_mgmt ..
  split
  · exact hu
  · exact hu

theorem State.requestOn_mgmt (s : State) (d : Nat) : (s.requestOn d).mgmt = s.mgmt := by
  unfold State.requestOn
  extract_lets v
  split
  · split
    · exact State.putDomain_mgmt ..
    · rfl
  · split
    · exact State.beginUp_mgmt ..
    · split
      · exact State.putDomain_mgmt ..
      · rfl
  · exact State.putDomain_mgmt ..

theorem State.requestOff_mgmt (s : State) (d : Nat) : (s.requestOff d).mgmt = s.mgmt := by
  unfold State.requestOff
  extract_lets v
  split
  · split
    · exact State.putDomain_mgmt ..
    · exact State.putDomain_mgmt ..
  · exact State.putDomain_mgmt ..
  · exact State.putDomain_mgmt ..

/-- One aligned register reads as it stands, with nothing logged. -/
theorem State.readRegs_one {off : Nat} (h : off % 4 = 0) : s.readRegs off 1 = (leBytes 4 (s.readBar off).toNat, s) := by
  unfold State.readRegs
  rw [if_pos h, if_pos h]
  exact Prod.ext (List.append_nil _) rfl

theorem State.pairRuns_of_serves {pair : Nat} (hserves : s.flag .glbCumin 0 0 pair = true) (hrestarts : pair ∉ s.up.restarting) :
    s.pairRuns pair = true := by
  simp [State.pairRuns, hserves, hrestarts]

/-! ### Bytes of the status page (R444) -/

/-- What GET_STATUS does of a served agent. -/
def State.pageReply (s : State) (off len : Nat) : State :=
  if len = 0 || 240 < len || 1024 < off + len then s.status 2
  else if s.stepNo < 2 then s.status 4
  else s.reply 0 (pageBytes s.host.gpage off len)

section
variable {off len : Nat}

theorem State.pageReply_of_bad (h : len = 0 ∨ 240 < len ∨ 1024 < off + len) : s.pageReply off len = s.reply 2 [] :=
  if_pos (by simpa [or_assoc] using h)

theorem State.pageReply_of_good (hpos : 0 < len) (hlen : len ≤ 240) (hend : off + len ≤ 1024) :
    s.pageReply off len = if s.stepNo < 2 then s.reply 4 [] else s.reply 0 (pageBytes s.host.gpage off len) :=
  if_neg (by simp only [Bool.or_eq_true, decide_eq_true_eq]; omega)

theorem State.pageReply_frame : s.pageReply off len = { s with mgmt := (s.pageReply off len).mgmt } := by
  unfold State.pageReply
  split
  · rfl
  · split <;> rfl

end

/-! ### Domains by the bus (R374, R444) -/

/-- The domain asked for, on or off. -/
def State.requestDomain (s : State) (d on : Nat) : State := if on = 1 then s.requestOn d else s.requestOff d

theorem State.requestDomain_mgmt (s : State) (d on : Nat) : (s.requestDomain d on).mgmt = s.mgmt := by
  unfold State.requestDomain
  split
  · exact s.requestOn_mgmt d
  · exact s.requestOff_mgmt d

/-! ### Settings written by the bus (R380, R444) -/

/-- An allotment with its lease. -/
theorem State.setAllot_spec (s : State) {allot : Nat} (lease : Nat) (h : allot < 65536) :
    (s.setAllot allot lease).fld .pwrAllot 0 0 15 0 = allot ∧ (s.setAllot allot lease).pwr.leased = true ∧
    (s.setAllot allot lease).pwr.floorOn = false ∧ (s.setAllot allot lease).pwr.leaseEnd = s.up.time + lease * 1000000000 ∧
    (s.setAllot allot lease).pwr.cap = (s.setAllot allot lease).effective.1 ∧ (s.setAllot allot lease).mgmt = s.mgmt := by
  have hreg : (s.setReg .pwrAllot 0 0 (BitVec.ofNat 32 (allot % 65536 + lease * 10 % 65536 * 65536))).reg .pwrAllot 0 0 =
      BitVec.ofNat 32 (allot % 65536 + lease * 10 % 65536 * 65536) := State.reg_setReg_self ..
  unfold State.setAllot
  extract_lets t p
  refine ⟨?_, rfl, rfl, rfl, State.recap_cap _, rfl⟩
  refine (congrArg (fun w => regField w 15 0) hreg).trans ?_
  simp only [regField, bitField, BitVec.toNat_ofNat]
  omega

/-- The grade written, with the cap that goes with it. -/
def State.graded (s : State) (grade : Nat) : State := ((s.writeSettings grade s.settings.2).setFld .pwrStat 0 0 12 12 grade).recap

theorem State.graded_spec (s : State) {grade : Nat} (h : grade ≤ 1) : (s.graded grade).flag .pwrStat 0 0 12 = decide (grade = 1) ∧
    (s.graded grade).settings = (grade, s.settings.2) ∧ (s.graded grade).pwr.cap = (s.graded grade).effective.1 ∧
    (s.graded grade).mgmt = s.mgmt := by
  obtain ⟨c, hframe, -, hsettings, -⟩ := s.writeSettings_spec grade s.settings.2
  refine ⟨?_, hsettings, State.recap_cap _, rfl⟩
  rw [State.graded, State.recap_flag]
  refine (State.flag_setFld (s.writeSettings grade s.settings.2) .pwrStat 0 0 grade 12 (by decide) (by decide)).trans ?_
  rw [if_pos ⟨Nat.le_refl _, Nat.le_refl _⟩]
  interval_cases grade <;> rfl

/-- The wanted node ID written. -/
def State.wantNode (s : State) (want : Nat) : State := (s.writeSettings s.settings.1 want).setFld .vngNode 0 0 23 0 want

theorem State.wantNode_spec (s : State) {want : Nat} (h : want < 2 ^ 24) : (s.wantNode want).fld .vngNode 0 0 23 0 = want ∧
    (s.wantNode want).settings = (s.settings.1, want) ∧ (s.wantNode want).mgmt = s.mgmt := by
  obtain ⟨c, -, -, hsettings, -⟩ := s.writeSettings_spec s.settings.1 want
  exact ⟨(State.fld_setFld_self _ .vngNode 0 0 want (by decide) (by decide)).trans (Nat.mod_eq_of_lt h), hsettings, rfl⟩

/-- The monitor's key written; the monitor locks (R449). -/
def State.keyed (s : State) (key : BitVec 256) : State :=
  ({ s with flash := { s.flash with monkey := key } } : State).setFld .mgtMon 0 0 4 4 0

theorem State.keyed_unlocked (s : State) (key : BitVec 256) : (s.keyed key).unlocked = false :=
  State.flag_setFld { s with flash := { s.flash with monkey := key } } .mgtMon 0 0 0 4 (by decide) (by decide)

end

end Sys2Proof.Machine

open Sys2Proof Sys2Proof.Machine

/-- Settles O55: each command is served (`Managed.runs`), passes its guards, and what it changes keeps the replies so far. -/
theorem managementReplies : Obligations.ManagementReplies := by
  unfold Obligations.ManagementReplies
  intro s h
  refine ⟨h.replies rfl rfl, fun off len => ?_, h.replies rfl rfl, fun allot lease hpos hlease hallot hstep => ?_, fun grade hgrade => ?_,
    fun hslow => h.replies rfl ?_, fun want hwant => ?_, fun key => ?_, ?_, fun off hoff hstep => h.replies rfl ?_,
    fun off count hpos hcount hstep => ?_, fun off v => ?_, fun kind index on hkind hon hindex hstep huse => ?_,
    fun index hindex hstep huse => h.replies rfl ?_, fun pair hpair hserves hrestarts => ?_, fun hmay => ?_,
    fun hnot => h.replies (f := fun s => if s.noTakeover then s.status 3 else (s.status 0).takeover) rfl (if_pos hnot), ?_,
    fun src index count hsrc hpos hcount hindex => h.replies rfl ?_,
    fun opc hopc => h.replies rfl ?_⟩
  · refine ⟨s.pageReply off len, congrArg Host.Outcome.next (h.runs _), State.pageReply_frame, fun hpos hlen hend hstep => ?_,
      fun hpos hlen hend hstep => ?_, fun hbad => ?_⟩
    · rw [State.pageReply_of_good hpos hlen hend, if_neg (by omega)]
      exact State.reply_replied rfl ..
    · rw [State.pageReply_of_good hpos hlen hend, if_pos hstep]
      exact State.reply_replied rfl ..
    · rw [State.pageReply_of_bad hbad]
      exact State.reply_replied rfl ..
  · obtain ⟨hfld, hleased, hfloor, hend, hcap, hmgmt⟩ := s.setAllot_spec lease hallot
    refine ⟨(s.setAllot allot lease).reply 0 [], ?_, State.reply_replied (by rw [hmgmt]) .., hfld, hleased, hfloor, hend, hcap⟩
    refine (congrArg Host.Outcome.next (h.runs _)).trans (congrArg Host.Outcome.next ((if_neg ?_).trans (if_neg (by omega))))
    simp only [Bool.or_eq_true, decide_eq_true_eq]
    omega
  · have hle : grade ≤ 1 := by omega
    obtain ⟨hflag, hsettings, hcap, hmgmt⟩ := s.graded_spec hle
    refine ⟨(s.graded grade).reply 0 [], ?_, State.reply_replied (by rw [hmgmt]) .., hflag, hsettings, hcap⟩
    refine (congrArg Host.Outcome.next (h.runs _)).trans (congrArg Host.Outcome.next ((if_neg (by omega)).trans (if_neg ?_)))
    obtain rfl | ⟨rfl, hflow⟩ := hgrade
    · simp
    · simp [hflow]
  · exact (if_neg (by decide)).trans (if_pos (by simp [hslow]))
  · obtain ⟨hfld, hsettings, hmgmt⟩ := s.wantNode_spec hwant
    refine ⟨(s.wantNode want).reply 0 [], ?_, State.reply_replied (by rw [hmgmt]) .., hfld, hsettings⟩
    exact (congrArg Host.Outcome.next (h.runs _)).trans (congrArg Host.Outcome.next (if_neg (by omega)))
  · exact ⟨(s.keyed key).reply 0 [], congrArg Host.Outcome.next (h.runs _), State.reply_replied rfl .., rfl, s.keyed_unlocked key⟩
  · exact congrArg Host.Outcome.next (h.runs _)
  · refine (if_neg (by decide)).trans ((if_neg (by omega)).trans ?_)
    rw [State.readRegs_one hoff]
  · refine ⟨(s.readRegs off count).2, (congrArg Host.Outcome.next (h.runs _)).trans (congrArg Host.Outcome.next ?_), rfl⟩
    refine (if_neg ?_).trans (if_neg (by omega))
    simp only [Bool.or_eq_true, decide_eq_true_eq]
    omega
  · refine ⟨s.mgmtWrite off v, s.busWrite .mgmt off v, congrArg Host.Outcome.next (h.runs _), fun hready => ⟨rfl, ?_⟩,
      fun hready => ?_⟩
    · rw [State.mgmtWrite, if_neg (by simp [hready])]
      exact State.reply_replied rfl ..
    · rw [State.mgmtWrite, if_pos (by simp [hready])]
      exact ⟨rfl, State.reply_replied rfl ..⟩
  · refine ⟨(s.requestDomain (domainOf kind index) on).reply 0 [], s.requestDomain (domainOf kind index) on, ?_,
      State.reply_frame .., State.reply_replied (by rw [State.requestDomain_mgmt]) .., rfl⟩
    refine congrArg Host.Outcome.next ((h.runs _).trans ((if_neg ?_).trans ((if_neg (by omega)).trans (if_neg ?_))))
    · simp only [Bool.or_eq_true, decide_eq_true_eq]
      omega
    · simp only [Bool.and_eq_true, decide_eq_true_eq]
      rintro ⟨⟨hstack, hoff⟩, hused⟩
      exact absurd hused (by rw [huse hstack hoff]; decide)
  · refine (if_neg ?_).trans ((if_neg (by omega)).trans (if_pos ?_))
    · simpa using hindex
    · simpa using huse
  · obtain ⟨hrestarts', hseq, -⟩ := s.resetPair_restarts 2 (State.pairRuns_of_serves hserves hrestarts)
    obtain ⟨b, hmgmt⟩ := s.resetPair_mgmt 2 (State.pairRuns_of_serves hserves hrestarts)
    refine ⟨(s.resetPair pair 2 false).reply 0 [], ?_, State.reply_replied (by rw [hmgmt]) .., hrestarts', hseq⟩
    exact congrArg Host.Outcome.next ((h.runs _).trans ((if_neg (by omega)).trans (if_neg (by simp [hserves]))))
  · refine ⟨s.reply 0 [], ?_, State.reply_replied rfl .., rfl⟩
    exact (congrArg Host.Outcome.next (h.runs _)).trans (congrArg Host.Outcome.next (if_neg (by rw [hmay]; decide)))
  · refine ⟨(s.reply 0 []).moduleReset 2, ?_, State.moduleReset_blank .., State.moduleReset_cause .., ?_⟩
    · exact (congrArg Host.Outcome.next (h.runs _)).trans (congrArg Host.Outcome.next (if_pos rfl))
    · exact (State.moduleReset_keeps (cause := 2) (.refl (s.reply 0 []))).rep
  · refine if_neg ?_
    simp only [Bool.or_eq_true, decide_eq_true_eq]
    omega
  · exact if_neg (by simpa using hopc)
end


section
/-! SUPPORT. Address resolution on the management bus: what the agent does on it while its domain has power (R439 to R445). -/
namespace Sys2Proof.Machine

section
variable {s : State}

/-- What the bus asks for is done while the agent's domain has power. -/
theorem State.onBus_of_power (h : s.domOn 1290 = true) (f : State → State) : s.onBus f = f s := if_pos h

/-! ### Taking and losing an address (R441) -/

/-- The assigned address with AV and AR set, and no notify left to send. -/
def State.withAddress (s : State) (addr : Nat) : State :=
  let t := ((s.setFld .mgtSmb 0 0 6 0 addr).setFld .mgtSmb 0 0 7 7 1).setFld .mgtSmb 0 0 8 8 1
  { t with mgmt := { t.mgmt with notifyDue := 0 } }

theorem State.withAddress_frame (s : State) (addr : Nat) :
    s.withAddress addr = { s with regs := (s.withAddress addr).regs, mgmt := { s.mgmt with notifyDue := 0 } } := rfl

theorem State.withAddress_stepNo (s : State) (addr : Nat) : (s.withAddress addr).stepNo = s.stepNo := by
  have hne : Reg.mgtSmb.addr 0 0 ≠ Reg.glbStart.addr 0 0 := by decide
  unfold State.stepNo
  calc (s.withAddress addr).fld .glbStart 0 0 3 0
      = (((s.setFld .mgtSmb 0 0 6 0 addr).setFld .mgtSmb 0 0 7 7 1).setFld .mgtSmb 0 0 8 8 1).fld .glbStart 0 0 3 0 := rfl
    _ = ((s.setFld .mgtSmb 0 0 6 0 addr).setFld .mgtSmb 0 0 7 7 1).fld .glbStart 0 0 3 0 := State.fld_setFld_ne _ _ _ _ _ _ hne
    _ = (s.setFld .mgtSmb 0 0 6 0 addr).fld .glbStart 0 0 3 0 := State.fld_setFld_ne _ _ _ _ _ _ hne
    _ = s.fld .glbStart 0 0 3 0 := State.fld_setFld_ne _ _ _ _ _ _ hne

theorem State.withAddress_spec (s : State) {addr : Nat} (h : addr < 128) : (s.withAddress addr).addressed = true ∧
    (s.withAddress addr).fld .mgtSmb 0 0 6 0 = addr ∧ (s.withAddress addr).flag .mgtSmb 0 0 8 = true := by
  refine ⟨?_, ?_, ?_⟩
  · exact (State.flag_setFld _ .mgtSmb 0 0 1 7 (by decide) (by decide)).trans
      (State.flag_setFld (s.setFld .mgtSmb 0 0 6 0 addr) .mgtSmb 0 0 1 7 (by decide) (by decide))
  · calc (s.withAddress addr).fld .mgtSmb 0 0 6 0
        = (((s.setFld .mgtSmb 0 0 6 0 addr).setFld .mgtSmb 0 0 7 7 1).setFld .mgtSmb 0 0 8 8 1).fld .mgtSmb 0 0 6 0 := rfl
      _ = ((s.setFld .mgtSmb 0 0 6 0 addr).setFld .mgtSmb 0 0 7 7 1).fld .mgtSmb 0 0 6 0 :=
        State.fld_setFld_apart _ _ _ _ _ (by decide) (by decide) (by decide) (by decide)
      _ = (s.setFld .mgtSmb 0 0 6 0 addr).fld .mgtSmb 0 0 6 0 :=
        State.fld_setFld_apart _ _ _ _ _ (by decide) (by decide) (by decide) (by decide)
      _ = addr % 2 ^ 7 := State.fld_setFld_self s .mgtSmb 0 0 addr (by decide) (by decide)
      _ = addr := Nat.mod_eq_of_lt h
  · exact State.flag_setFld _ .mgtSmb 0 0 1 8 (by decide) (by decide)

/-- AR clear. -/
def State.unresolved (s : State) : State := s.setFld .mgtSmb 0 0 8 8 0

theorem State.unresolved_flag (s : State) : s.unresolved.flag .mgtSmb 0 0 8 = false :=
  State.flag_setFld s .mgtSmb 0 0 0 8 (by decide) (by decide)

/-- AR and AV clear. -/
def State.unaddressed (s : State) : State := s.unresolved.setFld .mgtSmb 0 0 7 7 0

theorem State.unaddressed_spec (s : State) : s.unaddressed.addressed = false ∧ s.unaddressed.flag .mgtSmb 0 0 8 = false :=
  ⟨State.flag_setFld s.unresolved .mgtSmb 0 0 0 7 (by decide) (by decide),
    (State.flag_setFld s.unresolved .mgtSmb 0 0 0 8 (by decide) (by decide)).trans s.unresolved_flag⟩

theorem State.forAgent_of_address {d : Option Nat} (h : ∀ a, d = some a → s.addressed = true ∧ s.fld .mgtSmb 0 0 6 0 = a) :
    s.forAgent d = true := by
  cases d with
  | none => rfl
  | some a =>
    obtain ⟨haddressed, haddr⟩ := h a rfl
    simp [State.forAgent, haddressed, haddr]

/-! ### Alerts and notifies (R442, R445) -/

/-- The line released by an Alert Response that this agent won. -/
def State.alertAnswered (s : State) : State :=
  { s with mgmt := { s.mgmt with released := true, arp := s.mgmt.arp ++ [[BitVec.ofNat 8 (2 * s.fld .mgtSmb 0 0 6 0)]] } }

theorem State.alertAnswered_line (s : State) : s.alertAnswered.alertLine = false := Bool.and_false _

theorem State.notifySent_spec (s : State) : s.notifySent.mgmt = { s.mgmt with notified := s.mgmt.notified + 1, notifyDue := 0 } ∧
    s.notifySent.fld .mgtSmb 0 0 23 16 = min (s.fld .mgtSmb 0 0 23 16 + 1) 255 :=
  ⟨rfl, State.addFld_self s .mgtSmb 0 0 1 (by decide) (by decide)⟩

/-- One notify more is counted as sent without an address. -/
def State.notifyCounted (s : State) : State := { s with mgmt := { s.mgmt with notifies := s.mgmt.notifies + 1 } }

end

end Sys2Proof.Machine

open Sys2Proof Sys2Proof.Machine

/-- Settles O56: on a powered bus (`State.onBus_of_power`) each command meets its guard and sets its fields of MGT_SMB. -/
theorem addressIsResolved : Obligations.AddressIsResolved := by
  unfold Obligations.AddressIsResolved
  intro s hpower
  have hbus := State.onBus_of_power hpower
  refine ⟨fun addr haddr => ?_, ?_, fun d hd => ⟨?_, fun hclear => ?_⟩, fun hline => ?_, fun haddressed hstep hcount => ⟨?_, ?_⟩,
    fun hdue => ⟨?_, ?_⟩, ?_⟩
  · obtain ⟨haddressed, hfld, hflag⟩ := s.withAddress_spec haddr
    refine ⟨s.withAddress addr, ?_, haddressed, hfld, hflag, s.withAddress_frame addr⟩
    refine congrArg Host.Outcome.next ((hbus _).trans ((if_neg (by simp)).trans ?_))
    rw [← s.withAddress_stepNo addr]
    rfl
  · exact ⟨s.unresolved, congrArg Host.Outcome.next (hbus _), rfl, s.unresolved_flag⟩
  · obtain ⟨haddressed, hflag⟩ := s.unaddressed_spec
    exact ⟨s.unaddressed, congrArg Host.Outcome.next ((hbus _).trans (if_pos (State.forAgent_of_address hd))), rfl, haddressed, hflag⟩
  · refine ⟨s.arpAddress, congrArg Host.Outcome.next ((hbus _).trans (if_pos ?_))⟩
    rw [State.forAgent_of_address hd]
    cases d with
    | none => simp [hclear rfl]
    | some a => rfl
  · refine ⟨s.alertAnswered, BitVec.ofNat 8 (2 * s.fld .mgtSmb 0 0 6 0), ?_, s.alertAnswered_line, rfl, ?_⟩
    · exact congrArg Host.Outcome.next ((hbus _).trans (if_pos (by rw [hline]; rfl)))
    · have hlt : s.fld .mgtSmb 0 0 6 0 < 2 ^ 7 := regField_lt ..
      rw [BitVec.toNat_ofNat]
      omega
  · obtain ⟨hmgmt, hfld⟩ := s.notifyCounted.notifySent_spec
    refine ⟨s.notifyCounted.notifySent, congrArg Host.Outcome.next ((hbus _).trans (if_neg ?_)), by rw [hmgmt]; rfl,
      by rw [hmgmt]; rfl, hfld⟩
    simp [haddressed, hstep, hcount]
  · refine congrArg Host.Outcome.next ((hbus _).trans (if_neg ?_))
    simp [haddressed, hstep, hcount]
  · obtain ⟨hmgmt, -⟩ := s.notifySent_spec
    exact ⟨s.notifySent, congrArg Host.Outcome.next ((hbus _).trans (if_neg hdue)), by rw [hmgmt], by rw [hmgmt]⟩
  · exact congrArg Host.Outcome.next ((hbus _).trans (if_neg hdue))
  · exact congrArg Host.Outcome.next (hbus _)
end


section
/-! SUPPORT. The monitor: lines it takes, what they print, its lock, and its orders (R446 to R449). -/
namespace Sys2Proof.Machine

section
variable {s : State}

/-! ### Lines (R446) -/

/-- A complete line keeps a new rate. -/
def State.heard (s : State) : State := { s with mgmt := { s.mgmt with baudNew := false } }

theorem State.line_of_step (h : 3 ≤ s.stepNo) (f : State → State) : s.line f = f s.heard := if_neg (Nat.not_lt.2 h)

theorem State.unlockedLine_of_open (h : 3 ≤ s.stepNo) (hopen : s.unlocked = true) (f : State → State) : s.unlockedLine f = f s.heard :=
  (State.line_of_step h _).trans (if_pos hopen)

theorem State.unlockedLine_of_locked (h : 3 ≤ s.stepNo) (hlocked : s.unlocked = false) (f : State → State) :
    s.unlockedLine f = s.heard.print "err locked" [] :=
  (State.line_of_step h _).trans (if_neg (by rw [show s.heard.unlocked = s.unlocked from rfl, hlocked]; decide))

/-- A line that prints, and does no more. -/
theorem State.printed_of_line {c : Instr} {u : State} {line : String} {data : List Byte} (hexec : exec c s = .next u)
    (hu : u = s.heard.print line data) : ∃ t, exec c s = .next t ∧ t = { s with mgmt := t.mgmt } ∧ Printed s t line data := by
  subst hu
  exact ⟨_, hexec, rfl, rfl⟩

/-- A line that the monitor answers with data and ok, and does no more. -/
theorem State.says_of_line (h : 3 ≤ s.stepNo) {c : Instr} {f : State → State} {data : List Byte} (hexec : exec c s = .next (s.line f))
    (hf : f s.heard = s.heard.say data) : ∃ t, exec c s = .next t ∧ t = { s with mgmt := t.mgmt } ∧ Printed s t "ok" data :=
  State.printed_of_line hexec ((State.line_of_step h f).trans hf)

theorem State.heard_readBar (s : State) (off : Nat) : s.heard.readBar off = s.readBar off := rfl

theorem findIdx_baudRates {i : Nat} (h : i < 7) : baudRates.findIdx? (· == baudRates.getD i 0) = some i := by
  interval_cases i <;> rfl

/-- The rate of MGT_MON set, after the reply. -/
def State.rated (s : State) (i : Nat) : State :=
  let t := (s.say []).setFld .mgtMon 0 0 3 0 i
  { t with mgmt := { t.mgmt with baudNew := true } }

theorem execMonBaud_eq (h : 3 ≤ s.stepNo) {i : Nat} (hi : i < 7) : exec (.monBaud (baudRates.getD i 0)) s = .next (s.heard.rated i) := by
  refine congrArg Host.Outcome.next ((State.line_of_step h _).trans ?_)
  rw [findIdx_baudRates hi]
  rfl

/-! ### The lock (R449) -/

/-- The state with its challenge answered. -/
def State.answered (s : State) : State := { s with mgmt := { s.mgmt with challenge := none } }

/-- A response is the right one to the challenge that stands. -/
def State.rightResponse (s : State) (r : W32) : Bool := s.mgmt.challenge.any (fun c => r == responseTo s.flash.monkey c)

theorem State.rightResponse_of_challenge {c : W32} (h : s.mgmt.challenge = some c) :
    s.rightResponse (responseTo s.flash.monkey c) = true := by
  rw [State.rightResponse, h, Option.any_some, beq_self_eq_true]

theorem State.rightResponse_of_wrong {r : W32} (h : ∀ c, s.mgmt.challenge = some c → r ≠ responseTo s.flash.monkey c) :
    s.rightResponse r = false := by
  cases hc : s.mgmt.challenge with
  | none => rw [State.rightResponse, hc]; rfl
  | some c =>
    rw [State.rightResponse, hc]
    exact beq_eq_false_iff_ne.2 (h c hc)

/-- The monitor unlocked, its count of failures cleared. -/
def State.opened (s : State) : State :=
  let t := (s.setFld .mgtMon 0 0 4 4 1).setFld .mgtMon 0 0 9 6 0
  { t with mgmt := { t.mgmt with lockout := 0 } }

theorem State.opened_spec (s : State) : s.opened.unlocked = true ∧ s.opened.fld .mgtMon 0 0 9 6 = 0 :=
  ⟨(State.flag_setFld (s.setFld .mgtMon 0 0 4 4 1) .mgtMon 0 0 0 4 (by decide) (by decide)).trans
      (State.flag_setFld s .mgtMon 0 0 1 4 (by decide) (by decide)),
    State.fld_setFld_self (s.setFld .mgtMon 0 0 4 4 1) .mgtMon 0 0 0 (by decide) (by decide)⟩

/-- A challenge drawn and printed. -/
def State.challenged (s : State) : State :=
  ((({ s.draw.2 with mgmt := { s.mgmt with challenge := some (s.draw.1.setWidth 32) } } : State).print "challenge"
    (beBytes 4 (s.draw.1.setWidth 32 : W32).toNat)).say [])

theorem execMonUnlock_none (h : 3 ≤ s.stepNo) (hclear : s.flag .mgtMon 0 0 5 = false) :
    exec (.monUnlock none) s = .next s.heard.challenged :=
  congrArg Host.Outcome.next ((State.line_of_step h _).trans
    (if_neg (by rw [show s.heard.flag .mgtMon 0 0 5 = s.flag .mgtMon 0 0 5 from rfl, hclear]; decide)))

theorem execMonUnlock_some (h : 3 ≤ s.stepNo) (hclear : s.flag .mgtMon 0 0 5 = false) (r : W32) :
    exec (.monUnlock (some r)) s = .next (if s.rightResponse r then s.heard.answered.opened.say []
      else s.heard.answered.unlockFailed.print "err denied" []) :=
  congrArg Host.Outcome.next ((State.line_of_step h _).trans
    (if_neg (by rw [show s.heard.flag .mgtMon 0 0 5 = s.flag .mgtMon 0 0 5 from rfl, hclear]; decide)))

/-- The lockout that a failed unlock begins: 60 s, or twice the last one, up to 3,600 s. -/
def nextLockout (last : Nat) : Nat := if last = 0 then 60 else min 3600 (2 * last)

theorem State.addFld_flag (s : State) (r : Reg) (b i n : Nat) {hi lo k : Nat} (h : hi < 32) (l : lo ≤ hi) (hk : k < lo ∨ hi < k) :
    (s.addFld r b i hi lo n).flag r b i k = s.flag r b i k := by
  rw [State.addFld, State.flag_setFld _ _ _ _ _ _ h l, if_neg (by omega)]

/-- The lockout in force. -/
def State.lockedOut (s : State) : State :=
  ({ s with mgmt := { s.mgmt with lockout := nextLockout s.mgmt.lockout } } : State).setFld .mgtMon 0 0 5 5 1

theorem State.lockedOut_spec (s : State) : s.lockedOut.fld .mgtMon 0 0 9 6 = s.fld .mgtMon 0 0 9 6 ∧
    s.lockedOut.unlocked = s.unlocked ∧ s.lockedOut.flag .mgtMon 0 0 5 = true :=
  ⟨State.fld_setFld_apart _ .mgtMon 0 0 1 (by decide) (by decide) (by decide) (by decide),
    State.flag_setFld _ .mgtMon 0 0 1 4 (by decide) (by decide), State.flag_setFld _ .mgtMon 0 0 1 5 (by decide) (by decide)⟩

theorem State.unlockFailed_eq (s : State) : s.unlockFailed =
    if (s.addFld .mgtMon 0 0 9 6 1).fld .mgtMon 0 0 9 6 < 3 then s.addFld .mgtMon 0 0 9 6 1
    else (s.addFld .mgtMon 0 0 9 6 1).lockedOut := rfl

/-- A failed unlock counts, and locks out from the third on. -/
theorem State.unlockFailed_spec (hclear : s.flag .mgtMon 0 0 5 = false) : s.unlockFailed.unlocked = s.unlocked ∧
    s.unlockFailed.fld .mgtMon 0 0 9 6 = min (s.fld .mgtMon 0 0 9 6 + 1) 15 ∧
    (s.unlockFailed.flag .mgtMon 0 0 5 = decide (3 ≤ s.unlockFailed.fld .mgtMon 0 0 9 6)) ∧
    (3 ≤ s.unlockFailed.fld .mgtMon 0 0 9 6 → s.unlockFailed.mgmt.lockout = nextLockout s.mgmt.lockout) ∧
    s.unlockFailed.mgmt.challenge = s.mgmt.challenge ∧ s.unlockFailed.mgmt.uart = s.mgmt.uart := by
  have hcount : (s.addFld .mgtMon 0 0 9 6 1).fld .mgtMon 0 0 9 6 = min (s.fld .mgtMon 0 0 9 6 + 1) 15 :=
    State.addFld_self s .mgtMon 0 0 1 (by decide) (by decide)
  have hopen : (s.addFld .mgtMon 0 0 9 6 1).unlocked = s.unlocked :=
    State.addFld_flag s .mgtMon 0 0 1 (by decide) (by decide) (by decide)
  have hlockout : (s.addFld .mgtMon 0 0 9 6 1).flag .mgtMon 0 0 5 = s.flag .mgtMon 0 0 5 :=
    State.addFld_flag s .mgtMon 0 0 1 (by decide) (by decide) (by decide)
  have hmgmt : (s.addFld .mgtMon 0 0 9 6 1).mgmt = s.mgmt := rfl
  rw [State.unlockFailed_eq]
  generalize s.addFld .mgtMon 0 0 9 6 1 = t at *
  rw [← hcount, ← hopen, ← hmgmt]
  split
  case isTrue hfew =>
    refine ⟨rfl, rfl, ?_, fun hmany => absurd hmany (by omega), rfl, rfl⟩
    rw [hlockout, hclear, decide_eq_false (by omega)]
  case isFalse hmany =>
    obtain ⟨hfld, hopen', hflag⟩ := t.lockedOut_spec
    refine ⟨hopen', hfld, ?_, fun _ => rfl, rfl, rfl⟩
    rw [hfld, hflag, decide_eq_true (by omega)]

theorem State.lockMonitor_locked (s : State) : s.lockMonitor.unlocked = false :=
  State.flag_setFld s .mgtMon 0 0 0 4 (by decide) (by decide)

/-! ### Orders (R447, R448) -/

theorem State.locked_orders_print (h : 3 ≤ s.stepNo) (hlocked : s.unlocked = false) {c : Instr}
    (hc : c ∈ [Instr.monResetModule, .monResetPair 0, .monTakeover]) : exec c s = .next (s.heard.print "err locked" []) := by
  simp only [List.mem_cons, List.not_mem_nil, or_false] at hc
  obtain rfl | rfl | rfl := hc
  · exact congrArg Host.Outcome.next (State.unlockedLine_of_locked h hlocked _)
  · exact congrArg Host.Outcome.next (State.unlockedLine_of_locked h hlocked _)
  · exact congrArg Host.Outcome.next (State.unlockedLine_of_locked h hlocked _)

/-- An open and Ready monitor's write. -/
theorem State.monWrite_of_open (hopen : s.unlocked = true) (hready : s.ready = true) (off : Nat) (v : W32) :
    s.monWrite off v = (s.busWrite .monitor off v).print (if off = ownOff then "err refused" else "ok") [] := by
  rw [State.monWrite, if_neg (by rw [hopen]; decide), if_neg (by rw [hready]; decide)]

end

end Sys2Proof.Machine

open Sys2Proof Sys2Proof.Machine

/-- Settles O57: a line that the monitor takes runs on the state that keeps its rate (`State.heard`), an order only on an open
monitor; a wrong response counts by `State.unlockFailed_spec`. -/
theorem monitorAnswers : Obligations.MonitorAnswers := by
  unfold Obligations.MonitorAnswers
  intro s
  refine ⟨fun h => ⟨?_, ?_, ?_, fun off hoff h8 => ?_, fun page off len hpage hlen hend => ?_, ?_,
    fun src index n hsrc hpos hn hindex => ?_, fun i hi => ?_, fun hclear => ⟨?_, fun c hc => ?_, fun r hr => ?_⟩, ?_,
    fun hopen => ⟨fun off v hready => ?_, ?_, fun pair hpair hserves hrestarts => ?_, fun hmay => ?_⟩, fun hlocked c hc => ?_⟩,
    fun hnew => ?_, ?_, rfl, ?_⟩
  · exact ⟨_, "help id step rd page env log baud unlock lock wr reset takeover",
      congrArg Host.Outcome.next (State.line_of_step h _), rfl, List.append_assoc ..⟩
  · exact State.says_of_line h rfl rfl
  · exact State.says_of_line h rfl rfl
  · refine State.says_of_line h rfl ((if_neg (by decide)).trans ((if_neg (Nat.not_lt.2 h8)).trans ?_))
    rw [State.readRegs_one hoff, State.heard_readBar]
  · refine State.says_of_line h rfl (if_neg ?_)
    simp only [Bool.or_eq_true, decide_eq_true_eq]
    omega
  · exact State.says_of_line h rfl rfl
  · refine State.says_of_line h rfl (if_neg ?_)
    simp only [Bool.or_eq_true, decide_eq_true_eq]
    omega
  · refine ⟨s.heard.rated i, execMonBaud_eq h hi, rfl, ?_, rfl⟩
    exact (State.fld_setFld_self (s.heard.say []) .mgtMon 0 0 i (by decide) (by decide)).trans (Nat.mod_eq_of_lt (by omega))
  · exact ⟨s.heard.challenged, _, execMonUnlock_none h hclear, rfl, rfl, List.append_assoc ..⟩
  · obtain ⟨hopened, hcount⟩ := s.heard.answered.opened_spec
    refine ⟨s.heard.answered.opened.say [], ?_, hopened, hcount, rfl, rfl⟩
    rw [execMonUnlock_some h hclear, State.rightResponse_of_challenge hc, if_pos rfl]
  · obtain ⟨hopen, hcount, hlocks, hlockout, hchallenge, huart⟩ := State.unlockFailed_spec (s := s.heard.answered) hclear
    refine ⟨s.heard.answered.unlockFailed.print "err denied" [], ?_, hopen, hcount, hchallenge, ?_, hlocks, hlockout⟩
    · rw [execMonUnlock_some h hclear, State.rightResponse_of_wrong hr, if_neg (by decide)]
    · exact congrArg (· ++ [("err denied", [])]) huart
  · exact ⟨s.heard.lockMonitor.say [], congrArg Host.Outcome.next (State.line_of_step h _), s.heard.lockMonitor_locked, rfl⟩
  · refine ⟨s.heard.monWrite off v, s.heard.busWrite .monitor off v, congrArg Host.Outcome.next (State.line_of_step h _), ?_, rfl, ?_⟩
    · rw [State.monWrite_of_open (s := s.heard) hopen hready]
      rfl
    · rw [State.monWrite_of_open (s := s.heard) hopen hready]
      rfl
  · refine ⟨(s.heard.say []).moduleReset 1, congrArg Host.Outcome.next (State.unlockedLine_of_open h hopen _),
      State.moduleReset_blank .., State.moduleReset_cause .., ?_⟩
    exact (State.moduleReset_keeps (cause := 1) (.refl (s.heard.say []))).uart
  · have hruns : s.heard.pairRuns pair = true := State.pairRuns_of_serves (s := s.heard) hserves hrestarts
    obtain ⟨hrestarts', hseq, -⟩ := s.heard.resetPair_restarts 3 hruns
    obtain ⟨b, hmgmt⟩ := s.heard.resetPair_mgmt 3 hruns
    refine ⟨(s.heard.resetPair pair 3 false).say [], congrArg Host.Outcome.next ((State.unlockedLine_of_open h hopen _).trans
      ((if_neg (Nat.not_lt.2 hpair)).trans (if_neg ?_))), hrestarts', hseq, ?_⟩
    · rw [show s.heard.flag .glbCumin 0 0 pair = s.flag .glbCumin 0 0 pair from rfl, hserves]
      decide
    · have huart : (s.heard.resetPair pair 3 false).mgmt.uart = s.mgmt.uart := by rw [hmgmt]; rfl
      exact congrArg (· ++ [("ok", [])]) huart
  · refine ⟨s.heard.say [], congrArg Host.Outcome.next ((State.unlockedLine_of_open h hopen _).trans (if_neg ?_)), rfl, rfl⟩
    rw [show s.heard.noTakeover = s.noTakeover from rfl, hmay]
    decide
  · exact State.printed_of_line (State.locked_orders_print h hlocked hc) rfl
  · refine ⟨s.heard.setFld .mgtMon 0 0 3 0 0, congrArg Host.Outcome.next (if_pos hnew), ?_, rfl⟩
    exact State.fld_setFld_self s.heard .mgtMon 0 0 0 (by decide) (by decide)
  · exact ⟨s.lockMonitor, rfl, s.lockMonitor_locked, rfl⟩
  · exact ⟨s.setFld .mgtMon 0 0 5 5 0, rfl, State.flag_setFld s .mgtMon 0 0 0 5 (by decide) (by decide), rfl⟩
end
